-- ==== Sys2Proof/Word.lean ====
section
/-! DEFINITION. The words of the part: bytes, 64-bit register words and 64-byte descriptors. -/
namespace Sys2Proof

/-- A byte of memory. -/
abbrev Byte := BitVec 8

/-- A register word (R2). -/
abbrev Word := BitVec 64

/-- A 64-byte descriptor, word w in bits [64w + 63 : 64w] (R142). -/
abbrev Desc := BitVec 512

end Sys2Proof
end

