-- ==== Sys2Proof/Syntax.lean ====
section
/-! DEFINITION. The commands that the part takes, one constructor per row of spec/opcode_table.json, and the data that
they carry. A command's operands are what its sender supplies: the accessing requester, a register value, a descriptor, a
message's fields, or what the part's analogue side measured. -/
namespace Sys2Proof

/-- Who makes an access (R488): the host over link A (0) or B (1), a steward core, a tidy core's loads and stores by
physical core ID, or a unit that executes descriptors, with its compute die (8 or more for a hub or ledger-die unit) and
its source ID (R472). -/
inductive Agent where
  | host (link : Nat)
  | steward
  | tidy (core : Nat)
  | unit (die : Nat) (src : Nat)
deriving DecidableEq, Repr

/-- One read of a register: who reads, from which of its bytes on, and how many (R2). -/
structure RegRd where
  by_ : Agent
  off : Nat
  size : Nat
deriving DecidableEq, Repr

/-- A neighbour over one link: its device, and the part's own port on which the link ends (R61: a delay is the link's). -/
structure Hop where
  dev : Nat
  port : Nat
deriving DecidableEq, Repr

/-- What a message says (R323): the TC0 messages between parts, and those inside the package. -/
inductive Msg where
  /-- A beat frame (R60): count, master and rank, period, announced period with its beat, wall time, image flag. -/
  | beatFrame (beat dev rank period : Nat) (ann : Option (Nat × Nat)) (wall : Nat) (img : Bool)
  | heartbeat (dev : Nat)
  /-- Delay request (R61: the follower's BEAT_NOW, and the time stamp of sending it) and response (that time stamp, those of the request's
  arrival and of sending the response). -/
  | delayReq (dev count t1 : Nat)
  | delayResp (dev t1 t2 t3 : Nat)
  | commitReady (dev b epoch : Nat)
  | jobAbort (dev b : Nat)
  /-- A part's device skip flag (R282). -/
  | skipFlag (dev step : Nat) (flag : Bool)
  /-- A failure freeze (R369): sender, send beat, cause and what was lost. -/
  | freeze (dev b cause lost : Nat)
  | thaw (dev beat : Nat)
  | sealed (dev step b : Nat)
  | needFull (dev : Nat)
  /-- A barrier arrival (R331), and an arrival of a re-shard with its phase, plan digest and check outcome (R353, R355). -/
  | barrier (dev group tid b : Nat)
  | reshard (dev group phase b : Nat) (digest : List Byte) (ok : Bool)
  /-- Inside the package: a signal (R153), a ledger die's skip flag and the job flag (R281, R282), the seal messages
  (R409 to R412). -/
  | signal (core ctr inc : Nat)
  | ledgerFlag (ld step : Nat) (flag : Bool)
  | jobFlag (step : Nat) (flag : Bool)
  | sealClaim (half seq cause : Nat)
  | sealHeartbeat (half seq : Nat)
  | sealOffer (half seq : Nat)
  | sealAccept (half seq : Nat)
  | sealCommit (half seq h : Nat)
deriving DecidableEq, Repr

/-- What a collective or escrow packet carries beside the header of R319: group, kind of packet, tensor ID, layout epoch, the first leaf
and the size of the sub-tree of a partial (R329), the shard or plan block, the first byte in it and the source's rank. Kinds: 0
broadcast, 1 partial, 2 gathered shard, 4 block of a plain permute, 5 tallies (R103), 6 rule-3 norm partial (R277), 7 grant, 8 block and
9 acknowledgement of a re-shard (R354), 10 OPEN, 11 delta, 12 CLOSE of an escrow step (R364), 13 fill stream (R375). -/
structure CollHdr where
  group : Nat
  op : Nat
  tid : Nat
  epoch : Nat
  leaf : Nat
  size : Nat
  shard : Nat
  elem : Nat
  rank : Nat
deriving DecidableEq, Repr

/-- A packet (R319): header fields, payload, the content of a MESSAGE or COLLECTIVE packet, whose layout the spec does not give, and LEN of
a READ request, the number of bytes that it asks for (LEN of every other packet is the length of its payload). A message has its 32-bit
message ID and its sender's wall time (R323). -/
structure Packet where
  op : Nat
  tc : Nat
  dst : Nat
  src : Nat
  da : Nat
  tag : Nat
  sseq : Nat
  operand : Nat
  payload : List Byte
  msg : Option Msg
  coll : Option CollHdr
  len : Nat
  mid : Nat
  wall : Nat
deriving DecidableEq, Repr

/-- Granules of a packet that a frame holds: the packet, the first granule and their number (R314). -/
structure Piece where
  pkt : Packet
  first : Nat
  n : Nat
deriving DecidableEq, Repr

/-- What a control frame says: in training, the device ID and port of its sender (R318) and the granules of its receive buffer for TC1 to
TC3 (R315); at a change of lanes, the lanes that hold lock, the SEQ from which the new lanes are used, and whether the sender has heard
the same from its partner (R317). -/
inductive Ctl where
  | train (dev port c1 c2 c3 : Nat)
  | degrade (lanes seq : Nat) (heard : Bool)
deriving DecidableEq, Repr

/-- A link frame (R313): the fields of the link word, the granules, and what a control frame says. -/
structure Frame where
  seq : Nat
  ack : Nat
  nak : Bool
  kind : Nat
  first : Nat
  ctcA : Nat
  creditA : Nat
  ctcB : Nat
  creditB : Nat
  active : Nat
  pieces : List Piece
  ctl : Option Ctl
deriving DecidableEq, Repr

/-- A link frame on a lane: the 16 bytes of its link word as a number, and what its payload holds. -/
structure WireFrame where
  word : Nat
  pieces : List Piece
  ctl : Option Ctl
deriving DecidableEq, Repr

/-- What a configuration request names (R401, R494): vendor and device ID, revision and class code, subsystem IDs, the halves of the Device
Serial Number, half of a base address register (BAR 0, 2 or 4), or the control register of the Resizable BAR capability. -/
inductive CfgReg where
  | ids
  | classRev
  | subsystem
  | serialLo
  | serialHi
  | bar (n : Nat) (upper : Bool)
  | rebar
deriving DecidableEq, Repr

/-- The commands of the part: one constructor per row of spec/opcode_table.json, with its operands. Rows
without operands stand last, so that every constructor with fields has a tag that compiled code can hold. -/
inductive Instr where
  /-- REGISTER_WRITE (R4): A write to a register that has no row of its own stores, clears or ignores bits according to the register's access type. -/
  | registerWrite (by_ : Agent) (da : Nat) (size : Nat) (val : Word)
  /-- SPARE_ROTATION_START (R21): At a rotation slot the die controller picks the new spare and waits for no descriptor to be outstanding on its logical cluster. -/
  | spareRotationStart (die : Nat)
  /-- SPARE_ROTATION_COPY (R21): Once the source cluster is drained, the die controller copies its core, accumulator and cluster memory to the old spare. -/
  | spareRotationCopy (die : Nat)
  /-- SPARE_ROTATION_COMPLETE (R21): At the end of the copy the die controller writes the new map, increments ROT_COUNT and logs EV_SPARE_ROTATE. -/
  | spareRotationComplete (die : Nat)
  /-- CLUSTER_LOST (R23): A failed cluster is fenced, its LOST bit is set, the spare takes its logical number, EV_CLU_LOST is logged and a freeze is sent. -/
  | clusterLost (die : Nat) (clu : Nat)
  /-- STR_PREPARE_GO (R37): A write of STR_PREPARE.GO starts loading the image, runs checks 1 to 11 and distributes the sections to the pending banks. -/
  | strPrepareGo (by_ : Agent)
  /-- UNIT_ARM (R41): A unit whose pending bank holds its sections and passes checks 12 and 13 arms and reports ready; the last unit makes the state PREPARED. -/
  | unitArm (u : Nat)
  /-- STR_ABANDON (R46): A write of STR_PREPARE.ABANDON clears the pending banks in PREPARED, or causes the abort before the cutoff in COMMITTING. -/
  | strAbandon (by_ : Agent)
  /-- STR_COMMIT_GO (R42): A write of STR_COMMIT.GO is checked and either refused with a code or accepted, making the state COMMITTING and sending COMMIT_READY in job scope. -/
  | strCommitGo (val : Word)
  /-- COMMIT_READY_RECEIVE (R47): The arbiter records a COMMIT_READY from a commit-group member carrying its B and epoch. -/
  | commitReadyReceive (dev : Nat) (b : Nat) (epoch : Nat) (lat : Nat)
  /-- JOB_ABORT_RECEIVE (R47): A job-scope abort from another member is relayed by the arbiter to its own units, which do not switch. -/
  | jobAbortReceive (dev : Nat) (b : Nat) (lat : Nat)
  /-- COMMIT_BEAT_SWITCH (R44): At beat B every armed unit that heard no abort makes its pending bank active and the state becomes DRAINING. -/
  | commitBeatSwitch (failed : List Nat)
  /-- STR_DRAIN_COMPLETE (R44): When a unit releases its old bank, and all have, the state becomes IDLE, LAST reads COMMITTED and EV_STR_COMMIT is logged. -/
  | strDrainComplete (u : Nat)
  /-- BEAT_EDGE (R71): At each beat edge the count advances and switches, period changes, template instances, windows, snapshot points, releases and checks are applied in order. -/
  | beatEdge (failed : List Nat)
  /-- BEAT_FRAME_RECEIVE (R63): A received beat frame updates the follower's alignment, acquires or locks the master, or steps the count. -/
  | beatFrameReceive (hop : Hop) (rank : Nat) (count : Nat) (period : Nat) (ann : Option (Nat × Nat)) (wall : Nat) (img : Bool) (raw : Int) (lat : Nat)
  /-- HEARTBEAT_RECEIVE (R65): A received heartbeat restarts the peer's 64-beat loss count. -/
  | heartbeatReceive (dev : Nat) (lat : Nat)
  /-- DELAY_REQUEST_SEND (R61): At link-up and every 4,096 beats a follower sends a time-stamped delay request carrying its BEAT_NOW. -/
  | delayRequestSend (hop : Hop) (t1 : Nat)
  /-- DELAY_REQUEST_RECEIVE (R61): The master answers a delay request and records the reported count for count adoption. -/
  | delayRequestReceive (dev : Nat) (count : Nat) (t1 : Nat) (t2 : Nat) (t3 : Nat) (lat : Nat)
  /-- DELAY_RESPONSE_RECEIVE (R61): A follower computes its link delay from the delay response. -/
  | delayResponseReceive (hop : Hop) (t1 : Nat) (t2 : Nat) (t3 : Nat) (t4 : Nat) (lat : Nat)
  /-- PEER_LOST (R65): After 64 beats without heartbeat or beat frame a peer is declared lost, EV_PEER_LOST is logged and a commit-group member starts a freeze. -/
  | peerLost (dev : Nat)
  /-- PTP_MESSAGE_RECEIVE (R56): A received IEEE 1588 event message is time-stamped and used to discipline the beat under SRC 3. -/
  | ptpMessageReceive (port : Nat)
  /-- TD_LD (R140): TD.LD loads 64 bytes from core memory into a descriptor register. -/
  | tdLd (core : Nat) (dn : Nat) (addr : Nat)
  /-- TD_SETF (R140): TD.SETF writes a field of a descriptor register. -/
  | tdSetf (core : Nat) (dn : Nat) (rs1 : Word) (rs2 : Word)
  /-- TD_ISSUE (R140): TD.ISSUE issues a descriptor register to its unit, stalling while the unit is full. -/
  | tdIssue (core : Nat) (rd : Nat) (dn : Nat)
  /-- TD_NEXT (R140): TD.NEXT takes the next item that the scheduler chooses and returns its class. -/
  | tdNext (core : Nat) (rd : Nat) (dn : Nat)
  /-- TD_DONE (R140): TD.DONE returns the completed-descriptor count of a unit. -/
  | tdDone (core : Nat) (rd : Nat) (rs1 : Word)
  /-- TD_ST (R140): TD.ST stores a descriptor register to core memory. -/
  | tdSt (core : Nat) (dn : Nat) (addr : Nat)
  /-- MMA_DESCRIPTOR (R113): An MMA descriptor adds exact group sums into an accumulator tile and optionally outputs the tile with conversion and row statistics. -/
  | mmaDescriptor (core : Nat) (d : Desc)
  /-- ACCMEM_ACCESS (R126): A read or write of accumulator memory waits for outstanding additions and outputs of the tile and then moves the containers. -/
  | accmemAccess (by_ : Agent) (da : Nat) (write : Bool) (data : List Byte)
  /-- VEC_CONVERT (R85): A convert descriptor converts each element from its source format to its destination format under R84 with the given rounding. -/
  | vecConvert (core : Nat) (d : Desc)
  /-- VEC_ADD (R147): Vector op ADD writes a + b per element. -/
  | vecAdd (core : Nat) (d : Desc)
  /-- VEC_SUB (R147): Vector op SUB writes a - b per element. -/
  | vecSub (core : Nat) (d : Desc)
  /-- VEC_MUL (R147): Vector op MUL writes a x b per element. -/
  | vecMul (core : Nat) (d : Desc)
  /-- VEC_AXPB (R147): Vector op AXPB writes a x IMM + b rounded once. -/
  | vecAxpb (core : Nat) (d : Desc)
  /-- VEC_MAX (R147): Vector op MAX writes the greater of a and b. -/
  | vecMax (core : Nat) (d : Desc)
  /-- VEC_MIN (R147): Vector op MIN writes the lesser of a and b. -/
  | vecMin (core : Nat) (d : Desc)
  /-- VEC_EXP (R147): Vector op EXP writes exp32 of a - b. -/
  | vecExp (core : Nat) (d : Desc)
  /-- VEC_LOG (R147): Vector op LOG writes log32 of a. -/
  | vecLog (core : Nat) (d : Desc)
  /-- VEC_RSQRT (R147): Vector op RSQRT writes rsqrt32 of a. -/
  | vecRsqrt (core : Nat) (d : Desc)
  /-- VEC_RECIP (R147): Vector op RECIP writes recip32 of a. -/
  | vecRecip (core : Nat) (d : Desc)
  /-- VEC_TANH (R147): Vector op TANH writes tanh32 of a. -/
  | vecTanh (core : Nat) (d : Desc)
  /-- VEC_SIGMOID (R147): Vector op SIGMOID writes sigmoid32 of a. -/
  | vecSigmoid (core : Nat) (d : Desc)
  /-- VEC_ROWSUM (R147): Vector op ROWSUM writes one sum per row in the chunked pairwise order. -/
  | vecRowsum (core : Nat) (d : Desc)
  /-- VEC_ROWMAX (R147): Vector op ROWMAX writes the maximum of each row. -/
  | vecRowmax (core : Nat) (d : Desc)
  /-- VEC_ROWSQ (R147): Vector op ROWSQ writes the sum of squares of each row. -/
  | vecRowsq (core : Nat) (d : Desc)
  /-- STEERED_DESCRIPTOR_RESUME (R107): A steered descriptor waiting on a stale steering row starts once the row is written and takes its format and coarse scale. -/
  | steeredDescriptorResume (core : Nat) (d : Desc)
  /-- WAIT_BEAT (R154): A wait-beat descriptor stops issue until a named beat and phase, or the start of a named template instance. -/
  | waitBeat (core : Nat) (d : Desc)
  /-- WAIT_BEAT_RELEASE (R154): At the named beat and phase the wait-beat releases, sets TDY_STEP when it opens a step, and issue resumes. -/
  | waitBeatRelease (core : Nat) (phase : Nat)
  /-- SIGNAL (R153): A signal descriptor waits for the drain of the kinds in its mask without stopping issue. -/
  | signal (core : Nat) (d : Desc)
  /-- SIGNAL_SEND (R153): Once the drain of a signal ends, the signal travels on TC0 to its target core. -/
  | signalSend (core : Nat)
  /-- SIGNAL_DELIVER (R153): A delivered signal adds INC to the target counter modulo 2^32. -/
  | signalDeliver (core : Nat) (ctr : Nat) (inc : Nat)
  /-- FENCE (R153): A fence stops issue until the drain of the kinds in its mask and any counter condition. -/
  | fence (core : Nat) (d : Desc)
  /-- FENCE_RELEASE (R153): When the drain and counter condition of a fence are met, issue resumes. -/
  | fenceRelease (core : Nat)
  /-- FENCE_TIMEOUT (R155): A fence whose timeout expires discards the rest of its packet and logs EV_FENCE_TIMEOUT. -/
  | fenceTimeout (core : Nat)
  /-- SCHEDULER_PACKET_BOUNDARY (R159): At a packet boundary the scheduler keeps the current micro-batch if its next packet is ready, otherwise starts the switch wait. -/
  | schedulerPacketBoundary (core : Nat)
  /-- SWITCH_WAIT_EXPIRY (R159): When SWITCH_WAIT x 64 cycles expire, the scheduler chooses among the ready packets of other micro-batches by the ordered keys. -/
  | switchWaitExpiry (core : Nat)
  /-- PACKET_READY (R158): A micro-batch's next packet becomes ready when its slot has begun and its first item is not blocked, and the scheduler takes it when waiting. -/
  | packetReady (core : Nat) (mb : Nat)
  /-- DMA_COPY (R169): A DMA descriptor in copy mode moves rows from source to destination with their pitches. -/
  | dmaCopy (core : Nat) (d : Desc)
  /-- DMA_FILL (R169): A DMA descriptor in fill mode writes PATTERN repeated over each destination row. -/
  | dmaFill (core : Nat) (d : Desc)
  /-- DMA_TILE_SAVE (R169): A DMA descriptor in mode 2 saves an accumulator tile to memory. -/
  | dmaTileSave (core : Nat) (d : Desc)
  /-- DMA_TILE_RESTORE (R169): A DMA descriptor in mode 3 restores an accumulator tile from memory. -/
  | dmaTileRestore (core : Nat) (d : Desc)
  /-- LEDGER_MEMORY_REQUEST (R180): A ledger die translates a request's DA under the carve of its bank parity and reads or writes LPDDR6 with the array code. -/
  | ledgerMemoryRequest (by_ : Agent) (old : Bool) (da : Nat) (write : Bool) (data : List Byte) (err : Nat) (link : Nat)
  /-- SCRUB_READ (R179): In idle channel cycles the ledger die reads the next block of its scrub and treats it under R178. -/
  | scrubRead (ld : Nat) (err : Nat)
  /-- REFRESH (R185): The ledger die refreshes its devices one bank at a time at the rate for the device temperature. -/
  | refresh (ld : Nat)
  /-- CALIBRATION_START (R186): At the first beat of a calibration window, or every 128 ms under the reset structure, the ledger die starts ZQ calibration and retraining of the named devices. -/
  | calibrationStart (ld : Nat) (mask : Nat)
  /-- CALIBRATION_COMPLETE (R188): A device calibration ends; a channel that fails twice is fenced and EV_LP_CAL_FAIL logged, and waiting requests resume. -/
  | calibrationComplete (dev : Nat) (failed : Nat)
  /-- LPDDR6_TRAINING (R175): At start-up each ledger die identifies and trains its devices, failing the part on any absent, mismatched or untrained device. -/
  | lpddr6Training (ld : Nat) (types : List Nat) (bad : Option Nat)
  /-- HUSK_ENCODE (R193): A husk encode cuts the source into tiles and writes tile records in lossless or bounded-loss mode, into the stook or at its address. -/
  | huskEncode (core : Nat) (d : Desc)
  /-- STOOK_ENCODE_RESUME (R203): A stalled encode resumes once freed chunks meet its need. -/
  | stookEncodeResume (ld : Nat)
  /-- STOOK_ENCODE_COMPLETE (R199): A completed stook encode sets its entry stored, returns the unused reservation and, at the end of the forward, logs EV_STOOK_FULL. -/
  | stookEncodeComplete (core : Nat) (d : Desc)
  /-- HUSK_DECODE (R200): A husk decode reconstructs the source from tile records, from a stook entry or from an address. -/
  | huskDecode (core : Nat) (d : Desc)
  /-- STOOK_DECODE_COMPLETE (R201): A completed stook decode frees the chunks, empties the entry and signals CTR_DROP if dropped and then CTR_DONE. -/
  | stookDecodeComplete (core : Nat) (d : Desc)
  /-- STOOK_DIRECTORY_COMMIT (R209): After a commit's old-bank drain a ledger die keeps or empties its stook directory and logs EV_STOOK_DISCARD. -/
  | stookDirectoryCommit (ld : Nat)
  /-- HSK_CLEAR (R210): A write of HSK_CTL.CLEAR refuses stalled encodes, waits for other husk descriptors and empties every stook entry. -/
  | hskClear (ld : Nat)
  /-- WINDOW_CONVOLUTION (R221): A window descriptor with POOL 0 is gathered as a stripe and, with all stripes held, runs the convolution. -/
  | windowConvolution (core : Nat) (d : Desc)
  /-- WINDOW_MAX_POOL (R223): A window descriptor with POOL 1 writes the greatest tap value per channel. -/
  | windowMaxPool (core : Nat) (d : Desc)
  /-- WINDOW_MEAN_POOL (R223): A window descriptor with POOL 2 writes the mean of the taps per channel. -/
  | windowMeanPool (core : Nat) (d : Desc)
  /-- STRIPE_LINE_LOAD (R225): A stripe loads its columns of the next line into a slot when its own and its left neighbour's retire counts allow. -/
  | stripeLineLoad (clu : Nat) (stripe : Nat)
  /-- STRIPE_HALO_RESUME (R226): A stripe stalled for halo credit or for a neighbour's load resumes when the credit or line arrives. -/
  | stripeHaloResume (clu : Nat) (stripe : Nat)
  /-- WINDOW_STRIPE_COMPLETE (R215): A stripe descriptor completes when the last output of its stripe is written. -/
  | windowStripeComplete (clu : Nat) (stripe : Nat)
  /-- WIN_CANCEL (R228): A write of WIN_CTL.CANCEL refuses the held stripes of the gathering convolution and logs EV_WIN_ABORT. -/
  | winCancel (clu : Nat)
  /-- KV_GATHER (R238): A KV gather translates bushels, reads latent rows and writes them or their up-projected keys and values into core memory. -/
  | kvGather (core : Nat) (d : Desc)
  /-- KV_WALK_COMPLETE (R237): A four-level page-table walk ends and fills the look-aside buffer unless invalidated. -/
  | kvWalkComplete (clu : Nat) (seq : Nat) (vb : Nat)
  /-- GLEAN (R242): A glean descriptor scores candidate bushels and writes the selected list. -/
  | glean (core : Nat) (d : Desc)
  /-- ALLOC (R244): Bushel operation ALLOC takes the head of the free list and marks it HELD. -/
  | alloc (by_ : Agent) (clu : Nat) (seq : Nat) (vb : Nat)
  /-- MAP (R244): Bushel operation MAP raises a bushel's count, writes the leaf, releases any old bushel and invalidates every LAB. -/
  | map (by_ : Agent) (clu : Nat) (seq : Nat) (vb : Nat)
  /-- UNMAP (R244): Bushel operation UNMAP clears a leaf, releases its bushel and invalidates every LAB. -/
  | unmap (by_ : Agent) (clu : Nat) (seq : Nat) (vb : Nat)
  /-- QUERY (R244): Bushel operation QUERY returns the bushel of a leaf with its count and COW. -/
  | query (by_ : Agent) (clu : Nat) (seq : Nat) (vb : Nat)
  /-- SETLEN (R244): Bushel operation SETLEN writes a sequence length. -/
  | setlen (by_ : Agent) (clu : Nat) (seq : Nat) (vb : Nat)
  /-- RETURN (R244): Bushel operation RETURN puts a HELD bushel back on the free list. -/
  | returnBushel (by_ : Agent) (clu : Nat) (seq : Nat) (vb : Nat)
  /-- POOLSTAT (R244): Bushel operation POOLSTAT returns the number of free bushels. -/
  | poolstat (by_ : Agent) (clu : Nat) (seq : Nat) (vb : Nat)
  /-- LAB_INVALIDATE (R237): A walker removes a (SEQ, VB) entry from its look-aside buffer on the manager's invalidation and acknowledges it. -/
  | labInvalidate (clu : Nat) (seq : Nat) (vb : Nat)
  /-- LAB_FLUSH (R237): A write of KVW_CTL.FLUSH empties the walker's look-aside buffer. -/
  | labFlush (clu : Nat)
  /-- UPDATE_DESCRIPTOR (R272): An update descriptor is checked and queued in the ledger die's round for its step. -/
  | updateDescriptor (core : Nat) (d : Desc)
  /-- UPDATE_CHECK (R281): The ledger die reads a descriptor's gradient range, ORs non-finites into the round flag and, after the last entry, sends the flag to the skip collector. -/
  | updateCheck (ld : Nat)
  /-- SKIP_FLAG_RECEIVE (R282): The skip collector ORs a ledger die's flag into the device flag and sends it to every member of SKIP_GROUP. -/
  | skipFlagReceive (ld : Nat) (step : Nat) (flag : Bool)
  /-- DEVICE_SKIP_FLAG_RECEIVE (R282): The skip collector records a member's device flag and, with all held, sends the job flag to its ledger dies. -/
  | deviceSkipFlagReceive (dev : Nat) (step : Nat) (flag : Bool) (lat : Nat)
  /-- JOB_FLAG_RECEIVE (R283): A ledger die receiving a set job flag completes its round as SKIPPED, or with a clear flag starts the write phase. -/
  | jobFlagReceive (ld : Nat) (step : Nat) (flag : Bool)
  /-- RULE3_PARTIAL_RECEIVE (R277): A ledger die records a received ACC52 partial of a rule-3 norm sum. -/
  | rule3PartialReceive (ld : Nat) (layer : Nat) (step : Nat) (leaf : Nat) (size : Nat) (wn : Nat) (dn : Nat)
  /-- UPDATE_LAYER_WRITE (R284): For each layer the ledger die steers the row, journals the commit point, writes the layer chunk by chunk and marks it DONE. -/
  | updateLayerWrite (ld : Nat) (n : Nat)
  /-- UPD_CLEAR (R289): A write of UPD_CTL.CLEAR frees the checked records and empties the round queue. -/
  | updClear (ld : Nat)
  /-- DOORBELL_WRITE (R298): A doorbell write publishes a new tail for a queue level or is discarded with EV_QUE_DOORBELL. -/
  | doorbellWrite (by_ : Agent) (qid : Nat) (off : Nat) (size : Nat) (val : Word)
  /-- DOORBELL_READ (R297): A doorbell read returns HEAD, TAIL and ENABLED of a level, or 0 without a table or with a poisoned descriptor. -/
  | doorbellRead (by_ : Agent) (qid : Nat) (off : Nat) (size : Nat)
  /-- QUEUE_TAKE (R300): The reader takes the next item of the highest published level at a packet boundary, or of its current packet's level, and advances HEAD. -/
  | queueTake (qid : Nat)
  /-- QUEUE_ENABLE (R306): Queue operation ENABLE checks the descriptor and enables the queue. -/
  | queueEnable (by_ : Agent) (qid : Nat)
  /-- QUEUE_DISABLE (R305): Queue operation DISABLE clears ENABLED at the next packet boundary, or at once with FORCE. -/
  | queueDisable (by_ : Agent) (qid : Nat) (force : Bool)
  /-- QUEUE_FLUSH (R302): Queue operation FLUSH discards published whole packets of the masked levels at the reader's next packet boundary. -/
  | queueFlush (by_ : Agent) (qid : Nat) (mask : Nat)
  /-- QUEUE_SETLEVEL (R305): Queue operation SETLEVEL writes LEVEL and sets ARMED. -/
  | queueSetlevel (by_ : Agent) (qid : Nat)
  /-- QUEUE_QUERY (R305): Queue operation QUERY returns the queue's occupancy. -/
  | queueQuery (by_ : Agent) (qid : Nat)
  /-- QUEUE_BAD_OP (R525): A write of QUE_OP with an undefined OP completes at once with status BAD_OP. -/
  | queueBadOp (by_ : Agent) (op : Nat)
  /-- QUEUE_BOUNDARY_EFFECT (R302): A pending flush or disable takes effect when the reader reaches its packet boundary. -/
  | queueBoundaryEffect (qid : Nat)
  /-- LINK_FRAME_SEND (R313): Every 32 ns each active lane sends the next link frame with its link word, credits and granules. -/
  | linkFrameSend (port : Nat) (lane : Nat)
  /-- LINK_FRAME_RECEIVE (R316): A received link frame is decoded, acknowledged or NAKed, its credits returned and its TC0 copies delivered. -/
  | linkFrameReceive (port : Nat) (lane : Nat) (f : Option WireFrame) (syms : Nat)
  /-- LANE_DROP (R317): A lane that loses lock or exceeds error limits is dropped and the port changes over to 2 or 1 lanes, logging EV_FAB_DEGRADE. -/
  | laneDrop (port : Nat) (lane : Nat) (cause : Nat)
  /-- PORT_TRAINING (R318): A port trains, exchanges device IDs and comes up or goes to MISWIRED. -/
  | portTraining (port : Nat) (dev : Nat) (pport : Nat) (lanes : Nat) (c1 : Nat) (c2 : Nat) (c3 : Nat)
  /-- PORT_RETRAIN (R317): A write of a FAB_PORT_CTL.RETRAIN bit retrains that port on all its lanes. -/
  | portRetrain (by_ : Agent) (mask : Nat)
  /-- PORT_DISABLE (R337): A write of a FAB_PORT_CTL.DISABLE bit holds that port down. -/
  | portDisable (by_ : Agent) (mask : Nat)
  /-- PORT_DOWN (R336): A port going down re-sends unacknowledged frames on remaining ports or, with no port left to a direct peer, declares the peer lost. -/
  | portDown (port : Nat) (cause : Nat)
  /-- FABRIC_WRITE (R320): A received WRITE request is checked and written into device memory in SSEQ order. -/
  | fabricWrite (p : Packet)
  /-- FABRIC_READ (R320): A received READ request is checked and answered with READ_RESP. -/
  | fabricRead (p : Packet)
  /-- READ_RESP (R320): A received READ_RESP completes the matching read. -/
  | readResp (p : Packet)
  /-- FADD64 (R320): A received FADD64 adds to a 64-bit word and returns the old value. -/
  | fadd64 (p : Packet)
  /-- CAS64 (R320): A received CAS64 compares and swaps a 64-bit word and returns the old value. -/
  | cas64 (p : Packet)
  /-- SWAP64 (R320): A received SWAP64 swaps a 64-bit word and returns the old value. -/
  | swap64 (p : Packet)
  /-- ATOMIC_RESP (R320): A received ATOMIC_RESP completes the matching atomic. -/
  | atomicResp (p : Packet)
  /-- ERR_RESP (R321): A received ERR_RESP completes the matching request as refused. -/
  | errResp (p : Packet)
  /-- BROADCAST (R327): A broadcast collective writes rank 0's buffer to DST on every member. -/
  | broadcast (core : Nat) (d : Desc)
  /-- REDUCE_SCATTER (R329): A reduce-scatter sends one partial per aligned sub-tree of the member's micro-batches, with tallies, to each shard owner. -/
  | reduceScatter (core : Nat) (d : Desc)
  /-- ALL_GATHER (R327): An all-gather delivers every member's shard to every member in rank order. -/
  | allGather (core : Nat) (d : Desc)
  /-- ALL_REDUCE (R327): An all-reduce performs a reduce-scatter then an all-gather of the reduced shards. -/
  | allReduce (core : Nat) (d : Desc)
  /-- PERMUTE (R348): A plain permute of the current layout epoch moves the blocks of its plan directly between members. -/
  | permute (core : Nat) (d : Desc)
  /-- BARRIER (R331): A barrier collective sends an arrival with its send beat to every other member. -/
  | barrier (core : Nat) (d : Desc)
  /-- COLLECTIVE_PACKET_RECEIVE (R329): A received collective packet is checked for layout epoch and overlap, stored, and the shard is combined and written once covered. -/
  | collectivePacketReceive (p : Packet)
  /-- BARRIER_ARRIVAL_RECEIVE (R331): A member records a barrier arrival and, with all held, fixes the completion beat. -/
  | barrierArrivalReceive (dev : Nat) (group : Nat) (tid : Nat) (b : Nat) (lat : Nat) (rsh : Option (Nat × List Byte × Bool))
  /-- BARRIER_COMPLETE (R331): At beat max(BEAT, s_max + L) the barrier completes on the member. -/
  | barrierComplete (core : Nat) (d : Desc)
  /-- RESHARD_ISSUE (R353): A re-shard permute enters DRAINING and waits for earlier collectives of the current epoch. -/
  | reshardIssue (core : Nat) (d : Desc)
  /-- RESHARD_GRANT_RECEIVE (R354): A source receiving a grant sends the block in ascending plan order. -/
  | reshardGrantReceive (block : Nat)
  /-- RESHARD_BLOCK_COMMIT (R354): A destination copies a staged block to its DST_DA, journals it COMMITTED, frees the slot and acknowledges the source. -/
  | reshardBlockCommit (block : Nat)
  /-- RESHARD_ACK_RECEIVE (R354): A source counts a block as sent when its commit acknowledgement arrives, and enters COMMITTING when all are done. -/
  | reshardAckReceive (block : Nat)
  /-- FAB_LAYOUT_WRITE (R359): A write of FAB_LAYOUT.CURRENT stores the layout epoch, ignored while a re-shard runs. -/
  | fabLayoutWrite (by_ : Agent) (val : Word)
  /-- ESCROW_OPEN_RECEIVE (R365): A partner receiving OPEN takes its filling bank and accepts the stream or sends NEED_FULL. -/
  | escrowOpenReceive (dev : Nat) (step : Nat) (base : Nat) (man : List Byte)
  /-- ESCROW_DELTA_RECEIVE (R365): A partner writes captured weights and decoded deltas into the filling bank. -/
  | escrowDeltaReceive (dev : Nat) (k : Nat) (part : Nat) (tile : Nat) (recs : List Byte)
  /-- ESCROW_CLOSE_RECEIVE (R365): A partner receiving CLOSE checks completeness and starts the digests of the filling bank. -/
  | escrowCloseReceive (dev : Nat) (step : Nat) (blk : List Byte)
  /-- SEALED_RECEIVE (R368): A member records a SEALED(s) message with its send beat. -/
  | sealedReceive (dev : Nat) (step : Nat) (b : Nat) (lat : Nat)
  /-- NEED_FULL_RECEIVE (R364): A source records that its next escrow step must send a full copy. -/
  | needFullReceive (dev : Nat) (lat : Nat)
  /-- FREEZE_SEND (R369): On a commit-group peer loss, a cluster loss or a FREEZE operation the part sends a failure freeze to its commit group. -/
  | freezeSend (cause : Nat) (lost : Nat)
  /-- FREEZE_RECEIVE (R369): A member sets or advances the effective beat F from a received freeze, writes ESC_FREEZE and logs EV_FREEZE. -/
  | freezeReceive (dev : Nat) (b : Nat) (cause : Nat) (lost : Nat) (lat : Nat)
  /-- ESC_FREEZE (R369): ESC_CTL operation FREEZE starts a failure freeze. -/
  | escFreeze (by_ : Agent)
  /-- ESC_ROLLBACK (R373): ESC_CTL operation ROLLBACK checks the random stream and copies the home copy back to the live shard. -/
  | escRollback (by_ : Agent)
  /-- ESC_SERVE (R375): ESC_CTL operation SERVE streams the HELD bank on TC3 to the target. -/
  | escServe (by_ : Agent) (target : Nat)
  /-- ESC_RECEIVE (R375): ESC_CTL operation RECEIVE checks the manifest, restores the shard and home copy, and compares digests. -/
  | escReceive (by_ : Agent) (target : Nat)
  /-- ESC_DIGEST (R372): ESC_CTL operation DIGEST computes the shard and weight digests of the live shard. -/
  | escDigest (by_ : Agent)
  /-- ESC_THAW (R371): ESC_CTL operation THAW sends a THAW with the beat in ESC_ARG, or is refused. -/
  | escThaw (by_ : Agent)
  /-- ESC_BAD_OP (R378): A write of ESC_CTL with an undefined OP completes at once with RESULT REFUSED. -/
  | escBadOp (by_ : Agent) (op : Nat)
  /-- THAW_RECEIVE (R371): A received THAW schedules the end of the freeze, or is ignored while not frozen. -/
  | thawReceive (dev : Nat) (beat : Nat) (lat : Nat)
  /-- FILL_DONE (R376): A write of DCTL_FILL.DONE ends the fill of a spare or variant and clears FILL. -/
  | fillDone (die : Nat)
  /-- CODEC_OPEN (R386): Codec item OPEN reads and checks a stream context and opens a stream slot. -/
  | codecOpen (e : Nat) (qid : Nat) (d : Desc)
  /-- CODEC_DECODE (R388): Codec item DECODE decodes one access or temporal unit into a pool buffer and optionally a map. -/
  | codecDecode (e : Nat) (qid : Nat) (d : Desc)
  /-- CODEC_ENCODE (R390): Codec item ENCODE copies the source picture and codes a frame into the output buffer. -/
  | codecEncode (e : Nat) (qid : Nat) (d : Desc)
  /-- CODEC_RELEASE (R387): Codec item RELEASE clears HELD on a pool buffer. -/
  | codecRelease (e : Nat) (qid : Nat) (d : Desc)
  /-- CODEC_FLUSH (R391): Codec item FLUSH codes every picture waiting for reordering. -/
  | codecFlush (e : Nat) (qid : Nat) (d : Desc)
  /-- CODEC_CLOSE (R396): Codec item CLOSE ends a stream. -/
  | codecClose (e : Nat) (qid : Nat) (d : Desc)
  /-- CODEC_ITEM_SELECT (R392): At a frame boundary the engine chooses its next item by liveness, deadline, teller level and binding. -/
  | codecItemSelect (e : Nat)
  /-- CODEC_FRAME_COMPLETE (R385): A completed frame writes its completion record, counts lateness and optionally signals a core. -/
  | codecFrameComplete (e : Nat)
  /-- CODEC_BUFFER_RESUME (R394): A frame waiting for a free pool buffer proceeds once one frees. -/
  | codecBufferResume (e : Nat)
  /-- BAR2_ACCESS (R401): A host access through BAR2 reaches the DA window or completes as Unsupported Request on an unmapped DA. -/
  | bar2Access (link : Nat) (off : Nat) (write : Bool) (data : List Byte)
  /-- HOST_ATOMIC (R399): A PCIe AtomicOp in BAR2 behaves as FADD64, SWAP64 or CAS64. -/
  | hostAtomic (link : Nat) (off : Nat) (kind : Nat) (operand : Word) (swap : Word)
  /-- MSIX_ACCESS (R493): An aligned 32-bit access to a function's MSI-X table or PBA is applied as PCIe requires. -/
  | msixAccess (link : Nat) (off : Nat) (val : Option Nat)
  /-- HOST_LINK_CHANGE (R399): A host link trains up, degrades or goes down, updating HST_LINKn and logging EV_HST_LINK. -/
  | hostLinkChange (link : Nat) (up : Bool) (rate : Nat) (width : Nat) (flit : Bool)
  /-- MGT_GET (R407): Management request GET returns a monitoring resource. -/
  | mgtGet (port : Nat) (seq : Nat) (resource : Nat)
  /-- MGT_LOG_READ (R479): Management request LOG_READ returns up to 16 log entries. -/
  | mgtLogRead (port : Nat) (seq : Nat) (seg : Nat) (first : Nat) (count : Nat)
  /-- MGT_STAGE (R407): Management request STAGE writes a 1,024-byte chunk into the firmware staging area. -/
  | mgtStage (port : Nat) (seq : Nat) (off : Nat) (data : List Byte)
  /-- MGT_STAGE_DONE (R458): Management request STAGE_DONE hands the staged image to the root of trust for verification and installation. -/
  | mgtStageDone (port : Nat) (seq : Nat)
  /-- MGT_NEIGHBOUR_DISCOVERY (R406): A management port answers ARP and IPv6 neighbour discovery. -/
  | mgtNeighbourDiscovery (port : Nat)
  /-- SEAL_STRAP_CLAIM (R409): The half named by SEAL_PREF claims the seal once its firmware is verified. -/
  | sealStrapClaim (half : Nat)
  /-- SEAL_FALLBACK_CLAIM (R409): The other half claims the seal if no claim has arrived 200 ms after PERST_N. -/
  | sealFallbackClaim (half : Nat)
  /-- SEAL_HEARTBEAT_SEND (R410): The holder's seal unit sends a seal heartbeat every beat. -/
  | sealHeartbeatSend (half : Nat)
  /-- SEAL_HEARTBEAT_RECEIVE (R410): A received seal heartbeat restarts the other unit's 64-beat count. -/
  | sealHeartbeatReceive (half : Nat)
  /-- SEAL_LOST_CLAIM (R410): After 64 beats without seal heartbeats the other unit claims the seal with cause LOST. -/
  | sealLostClaim (half : Nat)
  /-- SEAL_HOST_GRANT (R411): A write of HST_SEAL_GRANT starts a handover, is recorded, or decides a pending dispute. -/
  | sealHostGrant (link : Nat) (half : Nat) (alsoB : Option Nat)
  /-- SEAL_ACCEPT_RECEIVE (R411): The holder receiving ACCEPT sends COMMIT naming a handover beat H. -/
  | sealAcceptReceive (ahead : Nat)
  /-- SEAL_COMMIT_RECEIVE (R411): The taker receiving COMMIT schedules the handover at beat H. -/
  | sealCommitReceive (half : Nat) (seq : Nat) (h : Nat)
  /-- REF_MONITOR_WINDOW (R420): At the end of each 4,096-cycle watch window the monitor compares the HREFCLK count with CAL/16 and declares a frequency fault if it departs. -/
  | refMonitorWindow (half : Nat) (count : Nat)
  /-- REF_MISSING_EDGE (R420): When no HREFCLK edge arrives for 8 reference periods the monitor declares a missing-edge fault. -/
  | refMissingEdge (half : Nat)
  /-- REF_RECOVERED (R422): After 10 ms within limits the hubs relock their PLLs, leave the fallback clock and log EV_CLK_REF_OK. -/
  | refRecovered (half : Nat)
  /-- CLK_GATE (R424): CLK_GATE_OP action GATE sets a held gate on a node or is refused. -/
  | clkGate (by_ : Agent) (node : Nat)
  /-- CLK_UNGATE (R424): CLK_GATE_OP action UNGATE removes a held gate or is refused with PARENT_GATED. -/
  | clkUngate (by_ : Agent) (node : Nat)
  /-- CLK_DBG_WRITE (R426): A write of CLK_DBG changes the DBG_CLKOUT source and divisor glitch-free, or is refused. -/
  | clkDbgWrite (by_ : Agent) (val : Word)
  /-- Q1_CLUSTER_GATE (R427): A cluster idle for 64 compute cycles has its clocks gated in Q1. -/
  | q1ClusterGate (clu : Nat)
  /-- POWER_EXIT (R430): A scheduled beat or a wake trigger starts the exit from the current power state. -/
  | powerExit (cause : Nat)
  /-- POWER_EXIT_COMPLETE (R428): The exit completes with the granary restored and the devices calibrated, and waiting host accesses complete. -/
  | powerExitComplete (ue : List Nat) (fails : List Nat)
  /-- CAP_STEP (R432): Every 100 µs above the cap, or 10 ms below 98 % of it, the cap clock moves by 25 MHz. -/
  | capStep (pkg : Nat)
  /-- THERMAL_STEP (R432): Every 100 µs at 105 °C, or 10 ms at or below 100 °C, the thermal clock moves by 25 MHz. -/
  | thermalStep (die : Nat) (tj : Nat)
  /-- PWR_CAP_WRITE (R432): A write of PWR_CAP stores the cap, or is ignored outside the member's range with EV_PWR_CFG. -/
  | pwrCapWrite (by_ : Agent) (val : Word)
  /-- PWR_LAT_TOL_WRITE (R430): A write of PWR_LAT_TOL stores the tolerance and starts an exit if it falls below the current state's exit latency. -/
  | pwrLatTolWrite (by_ : Agent) (val : Word)
  /-- RESET_COLD (R437): Power-on or PERST_N deassertion resets the whole part and starts the cold start-up. -/
  | resetCold (strap : Nat)
  /-- RESET_WARM (R444): A function-level reset, RST_CTL KIND 1 or firmware resets the part keeping LPDDR6, log and RWS registers. -/
  | resetWarm (cause : Nat)
  /-- RESET_DIE (R440): RST_CTL KIND 2 resets one compute, ledger or hub die with its attached dies. -/
  | resetDie (die : Nat)
  /-- RESET_CORE (R439): RST_CTL KIND 3 resets one core's MXE, VEC and TDY blocks. -/
  | resetCore (core : Nat)
  /-- BOOT_ROM_LOAD (R443): The boot ROM reads the firmware image from slot A, or slot B after a failure. -/
  | bootRomLoad (half : Nat)
  /-- FIRMWARE_VERIFIED (R457): The root of trust finishes verifying a firmware image, extends the measurements or fails the slot. -/
  | firmwareVerified (half : Nat)
  /-- BURSAR_BOOTED (R404): Bursar finishes booting in charge or in standby. -/
  | bursarBooted (half : Nat)
  /-- LPDDR6_INIT_COMPLETE (R441): LPDDR6 initialisation with zeros and a valid array code completes. -/
  | lpddr6InitComplete (fails : List Nat)
  /-- STARTUP_TEST_COMPLETE (R442): The start-up test ends, fencing failed clusters or failing the part, and logs EV_STARTUP_TEST. -/
  | startupTestComplete (lost : List Nat) (bad : List Nat)
  /-- TEST_LOGIC_BIST (R447): RST_TEST_OP KIND 1 runs logic BIST on a spare or lost cluster, or is refused. -/
  | testLogicBist (by_ : Agent) (target : Nat)
  /-- TEST_LPDDR6_CAL (R447): RST_TEST_OP KIND 2 schedules a device calibration in the next window that names it. -/
  | testLpddr6Cal (by_ : Agent) (target : Nat)
  /-- TEST_OPTICAL_RECAL (R448): RST_TEST_OP KIND 3 recalibrates a port or defers while it would leave a TC0 route without an alternative. -/
  | testOpticalRecal (by_ : Agent) (target : Nat)
  /-- TEST_CANCEL (R448): A write of RST_TEST_OP.CANCEL ends a deferred or waiting request as CANCELLED. -/
  | testCancel (by_ : Agent)
  /-- TEST_COMPLETE (R449): A test ends, marking a failed spare lost, and logs EV_TEST_DONE or EV_TEST_FAIL. -/
  | testComplete (fail : Option Nat)
  /-- SEC_ATTEST (R464): SEC_OP ATTEST writes a signed attestation report. -/
  | secAttest (by_ : Agent)
  /-- SEC_STAGE (R458): SEC_OP STAGE verifies the staged firmware and installs it into slot A after copying A to B. -/
  | secStage (by_ : Agent)
  /-- SEC_ENROLL_OWNER (R461): SEC_OP KEY with an ENROLL_OWNER record enrols an owner key in a free slot. -/
  | secEnrollOwner (by_ : Agent)
  /-- SEC_REVOKE_OWNER (R461): SEC_OP KEY with a REVOKE_OWNER record revokes an owner slot. -/
  | secRevokeOwner (by_ : Agent)
  /-- SEC_REVOKE_VENDOR (R461): SEC_OP KEY with a REVOKE_VENDOR record revokes a vendor key. -/
  | secRevokeVendor (by_ : Agent)
  /-- SEC_ADVANCE_SVN (R459): SEC_OP ADVANCE_SVN raises the fused SVN count to the booted firmware's SVN. -/
  | secAdvanceSvn (by_ : Agent)
  /-- SEC_CERT (R455): SEC_OP CERT writes the identity-key certificate. -/
  | secCert (by_ : Agent)
  /-- LOG_EVENT_INTAKE (R468): An event arriving at the log hub enters the intake or is discarded and counted when full. -/
  | logEventIntake (k : Nat)
  /-- LOG_CURSOR_WRITE (R478): A write of LOG_CURSOR latches the named entry and sets its state. -/
  | logCursorWrite (by_ : Agent) (val : Word)
  /-- LOG_DATA7_READ (R478): A read of LOG_DATA7 advances the cursor and latches the next entry, or relatches while not written. -/
  | logData7Read (rd : RegRd)
  /-- IRQ_SOURCE_RAISE (R497): A global interrupt source setting its bit sends one MSI-X message on the chosen link and interrupts the stewards as enabled. -/
  | irqSourceRaise (src : Nat) (sev3 : Bool)
  /-- IRQ_STATUS_CLEAR (R497): A W1C write of GLB_IRQ_STATUS clears source bits unless the condition recurs in that cycle. -/
  | irqStatusClear (by_ : Agent) (mask : Nat) (again : Nat)
  /-- IRQ_ENABLE_WRITE (R497): A write setting a GLB_IRQ_EN bit while its status bit is set sends one message at once. -/
  | irqEnableWrite (by_ : Agent) (stw : Bool) (mask : Nat)
  /-- FIBRE_BLOCK_UNLATCH (R514): Unlatching a fibre-attach block turns off its lasers and takes its four ports down. -/
  | fibreBlockUnlatch (block : Nat)
  /-- FIBRE_BLOCK_LATCH (R515): Latching a fibre-attach block leaves its ports down until a retrain or recalibration. -/
  | fibreBlockLatch (block : Nat)
  /-- DIE_RESET_COMPLETE (R440): A die reset ends after its typical duration, and the die rejoins after the STR agent reloads its banks or its roll-forward completes. -/
  | dieResetComplete (die : Nat) (lost : Nat) (fails : Nat)
  /-- WATCH_CALIBRATION_COMPLETE (R420): After 65,536 watch cycles the monitor stores CLK_MON.CAL and begins continuous monitoring. -/
  | watchCalibrationComplete (half : Nat) (count : Nat)
  /-- SEAL_CLAIM_RECEIVE (R409): A seal unit that does not hold the seal receives the other unit's claim and from then on makes no fallback claim. -/
  | sealClaimReceive (half : Nat) (seq : Nat)
  /-- HOST_CONFIG_ACCESS (R401): A host configuration-space access reads identification or sets BARs, including a Resizable BAR size that changes the BAR2 window. -/
  | hostConfigAccess (link : Nat) (reg : CfgReg) (val : Option Nat)
  /-- MGT_LINK_CHANGE (R416): A management port's 25GBASE-R link comes up or goes down, changing MGT_STATUS.LINK_A or LINK_B. -/
  | mgtLinkChange (port : Nat) (up : Bool)
  /-- PTP_MASTER_LOST (R416): A management port stops hearing its IEEE 1588 master and MGT_STATUS.PTP_A or PTP_B clears. -/
  | ptpMasterLost (port : Nat)
  /-- ESC_FILL_STREAM_RECEIVE (R375): A replacement under RECEIVE takes each packet of the partner's SERVE stream on TC3 and writes the weights, state records and home copy. -/
  | escFillStreamReceive (dev : Nat) (sec : Nat) (off : Nat) (bs : List Byte)
  /-- COMMIT_CUTOFF (R43): At beat B minus LEAD the arbiter samples the arm set and the group's COMMIT_READY messages and broadcasts an abort if any is missing. -/
  | commitCutoff
  /-- BEAT_FRAME_SEND (R60): Every 16 beats the master sends a beat frame on TC0 to every follower, and moves its count or demotes itself if required. -/
  | beatFrameSend
  /-- HEARTBEAT_SEND (R60): Every 8 beats each part sends a heartbeat on TC0 to every peer in its fabric peer map. -/
  | heartbeatSend
  /-- BEAT_SOURCE_LOST (R64): After 64 beats without a beat frame a follower enters HOLDOVER, logs EV_BEAT_SRC_LOST and may take over as master. -/
  | beatSourceLost
  /-- KV_POOL_INIT (R235): After a commit the bushel manager checks the pool header and, with INIT set, zeroes the descriptors and builds the free list. -/
  | kvPoolInit
  /-- RESHARD_DRAIN_COMPLETE (R353): When its drain ends a member checks the plan and sends a barrier arrival with its digest and check outcome. -/
  | reshardDrainComplete
  /-- RESHARD_MOVE_START (R353): At beat c the re-shard enters MOVING and logs EV_RESHARD_START, or ends refused on a failed check and logs EV_RESHARD_HALT. -/
  | reshardMoveStart
  /-- RESHARD_COMMIT (R355): At beat c after COMMITTING arrivals every member sets CURRENT to P, releases held collectives and logs EV_RESHARD_DONE. -/
  | reshardCommit
  /-- ESCROW_STEP_OPEN (R364): When the round of an escrow step completes on every ledger die, the source writes its state block and sends OPEN, deltas and CLOSE. -/
  | escrowStepOpen
  /-- ESCROW_BANK_SEAL (R365): When the digests complete the partner stores the state block, marks the bank SEALED and sends SEALED(s). -/
  | escrowBankSeal
  /-- ESCROW_SNAPSHOT_POINT (R368): At a snapshot point each member cuts or misses the open escrow step and releases the waiting write phases. -/
  | escrowSnapshotPoint
  /-- FREEZE_EFFECTIVE (R370): At beat F tidy cores, queue readers, ledger dies and escrow stop and FROZEN reads 1. -/
  | freezeEffective
  /-- THAW_EFFECTIVE (R371): At the thaw beat every member clears FROZEN. -/
  | thawEffective
  /-- SEAL_OFFER (R411): A write of STW_SEAL_CTL.OFFER starts a handover, refused in busy STR states, and sends OFFER. -/
  | sealOffer
  /-- SEAL_ACCEPT (R411): A write of STW_SEAL_CTL.ACCEPT makes the taker's seal unit send ACCEPT. -/
  | sealAccept
  /-- SEAL_HANDOVER (R411): At beat H the taker holds the seal, the log and whole-part functions move, and EV_SEAL_HANDOVER is logged. -/
  | sealHandover
  /-- SEAL_OFFER_TIMEOUT (R411): With no ACCEPT within 1 ms the holder withdraws the offer and logs EV_SEAL_ABORT. -/
  | sealOfferTimeout
  /-- SEAL_COMMIT_TIMEOUT (R411): A taker with no COMMIT within 1 ms of its ACCEPT claims the seal. -/
  | sealCommitTimeout
  /-- SEAL_DISPUTE (R412): A claim or COMMIT for a different SEQ declares a dispute, freezes non-seal TC0 messages and interrupts the host. -/
  | sealDispute
  /-- SEAL_DISPUTE_TIMEOUT (R412): With no grant within 50 ms half W wins the dispute and the loser's complex takes a warm reset. -/
  | sealDisputeTimeout
  /-- SEAL_DISPUTE_FREEZE_END (R412): At the resolution beat plus 4 the dispute freeze ends and EV_SEAL_DISPUTE is logged. -/
  | sealDisputeFreezeEnd
  /-- POWER_ENTRY_COMPLETE (R428): Entry into Q2, Q3 or Q4 completes, including the granary flush for Q4. -/
  | powerEntryComplete
  /-- PART_READY (R445): The in-charge Bursar sets READY, logs EV_PART_READY and raises the ready interrupt. -/
  | partReady
  /-- OPTICAL_RECAL_START (R448): At a beat edge with no route condition left, the deferred recalibration starts and the port goes down. -/
  | opticalRecalStart
  /-- LOG_APPEND (R469): The log hub appends the next intake entry, coalescing repeats, and raises the log interrupt by severity. -/
  | logAppend
  /-- LOG_DROP (R476): When intake room returns after discards the hub writes EV_LOG_DROP. -/
  | logDrop
  /-- PERST_N_ASSERT (R515): Assertion of PERST_N while the part runs causes a cold reset, whatever is in progress. -/
  | perstNAssert
  /-- SEAL_OFFER_RECEIVE (R411): The standby seal unit receives OFFER with SEQ + 1, so that its Bursar can load the state and accept. -/
  | sealOfferReceive
deriving DecidableEq, Repr

end Sys2Proof
end

