-- ==== Sys2Proof/Decode.lean ====
section
/-! DEFINITION. Commands spelled by words. The rows of the command table give no bits (their "fields" are empty): a command of this part is an
event or an access, not an encoded word, so no word spells one. -/
namespace Sys2Proof

/-- The command that an nbits-wide word spells by the table's bits: none, since the table gives no row any (DESIGN CHOICE, log entry 6). -/
def decodeTableWord (_nbits _w : Nat) : Option Instr := none

end Sys2Proof
end

