-- ==== Sys2Proof/Config.lean ====
section
/-! DEFINITION. The free values: what the spec leaves open, as constants without a body, so that no proof can see them. -/
namespace Sys2Proof

/-- A fresh value that the spec leaves open: the n-th one that the machine has taken (the counter is State's field free) (DESIGN CHOICE, log entry 3). -/
opaque Config.freeValue : Nat → Word

/-- ML-DSA.Verify with the parameter set ML-DSA-44 (FIPS 204, R520): public key, message, context string, signature (DESIGN CHOICE, log entry 3). -/
opaque Config.mldsaVerify : (pk msg ctx sig : List Byte) → Bool

/-- Byte i of a signature that the root of trust makes with its identity seed in the hedged mode (R520): seed, message,
context string, the randomness it drew (DESIGN CHOICE, log entry 3). -/
opaque Config.mldsaSign : (seed msg ctx : List Byte) → (rnd : Word) → (i : Nat) → Byte

/-- The code lengths that the husk builds from a tile's histogram of z-symbols (R194 does not say how) (DESIGN CHOICE, log entry 3). -/
opaque Config.huskLens : (hist : List Nat) → List Nat

/-! The video standards that R380 names give what a bitstream decodes to and what an encoder may write; the spec gives neither. -/

/-- A decoded picture: its display order and the bytes of its frame buffer in the layout of R386. -/
structure Config.Pic where
  order : Nat
  byte : Nat → Byte
deriving Inhabited

/-- What one access unit or temporal unit decodes to: its pictures in decode order; whether one is larger than the stream's; the frame
numbers shown; the frame numbers kept as references, with those kept for the long term; blocks concealed, and 0 for a syntax error or 1
for a forbidden value. -/
structure Config.DecOut where
  pics : List Config.Pic
  big : Bool
  shown : List Nat
  keep : List (Nat × Bool)
  errs : Nat
  cause : Nat
deriving Inhabited

/-- Decoding (R380, R395): the stream context, the units decoded before, the reference pictures by frame number, the unit, and the
places in unit and references that are poisoned (DESIGN CHOICE, log entry 3). -/
opaque Config.vceDecode (ctx : List Byte) (hist : List (List Byte)) (refs : List (Nat × List Byte)) (au : List Byte) (bad : List Nat) :
  Config.DecOut

/-- What one ENCODE or FLUSH codes: bytes, the last coded picture's frame number and order, how many pictures are coded, the pictures kept
(by their place among the source pictures), and the reconstructed bytes of each. -/
structure Config.EncOut where
  bytes : List Byte
  frame : Nat
  order : Nat
  coded : List Nat
  keep : List (Nat × Bool)
  recon : Nat → Nat → Byte
deriving Inhabited

/-- Encoding (R390): a pure function of the stream context and of the source pictures in order with their flags (1 key frame, 2 coded at
the largest QP, 4 a FLUSH); bad lists the poisoned places of the last one (DESIGN CHOICE, log entry 3). -/
opaque Config.vceEncode (ctx : List Byte) (srcs : List (List Byte × Nat)) (bad : List Nat) : Config.EncOut

end Sys2Proof
end

