-- ==== Sys2Proof/Machine/Bits.lean ====
section
/-! DEFINITION. Bit fields, little-endian byte strings and keyed lists: the plain-data helpers of the whole model. -/
namespace Sys2Proof.Machine

/-- Bits [hi:lo] of a number. -/
def bits (w hi lo : Nat) : Nat := (w >>> lo) % 2 ^ (hi + 1 - lo)

/-- Bit i of a number. -/
def bit (w i : Nat) : Bool := w.testBit i

/-- A flag as a number. -/
def b2n (b : Bool) : Nat := if b then 1 else 0

/-- The number w with bits [hi:lo] replaced by v. -/
def putBits (w hi lo v : Nat) : Nat :=
  w - (bits w hi lo) * 2 ^ lo + (v % 2 ^ (hi + 1 - lo)) * 2 ^ lo

/-- The number w with bit i set to b. -/
def putBit (w i : Nat) (b : Bool) : Nat := putBits w i i (b2n b)

/-- How many of the low n bits of w are 1. -/
def popCount (w n : Nat) : Nat := ((List.range n).filter (bit w)).length

/-- The positions of the 1 bits among the low n bits of w, ascending. -/
def bitList (w n : Nat) : List Nat := (List.range n).filter (bit w)

/-- Bits [hi:lo] of word w of a descriptor (R142). -/
def dbits (d : Desc) (w hi lo : Nat) : Nat := bits d.toNat (64 * w + hi) (64 * w + lo)

/-- Bit b of word w of a descriptor. -/
def dbit (d : Desc) (w b : Nat) : Bool := bit d.toNat (64 * w + b)

/-- The value of a little-endian byte string. -/
def leNat : List Byte → Nat
  | [] => 0
  | b :: bs => b.toNat + 256 * leNat bs

/-- The n low bytes of a value, least significant first. -/
def leBytes : Nat → Nat → List Byte
  | 0, _ => []
  | n + 1, v => BitVec.ofNat 8 v :: leBytes n (v / 256)

/-- Bytes off to off + n - 1 of a byte string. -/
def slice (b : List Byte) (off n : Nat) : List Byte := (b.drop off).take n

/-- The little-endian field of n bytes at offset off. -/
def field (b : List Byte) (off n : Nat) : Nat := leNat (slice b off n)

/-- Whether n bytes from offset off are all 0. -/
def zeroAt (b : List Byte) (off n : Nat) : Bool := (slice b off n).all (· == 0)

/-- The number x rounded up to a multiple of m. -/
def roundUp (x m : Nat) : Nat := (x + (m - 1)) / m * m

/-- A quotient rounded up. -/
def ceilDiv (x m : Nat) : Nat := (x + (m - 1)) / m

/-- A count that saturates at the largest value of w bits. -/
def satAdd (w x y : Nat) : Nat := min (x + y) (2 ^ w - 1)

/-- The first element of a list that meets p, with its index. -/
def findIdx? {α : Type} (p : α → Bool) : List α → Nat → Option (Nat × α)
  | [], _ => none
  | x :: xs, i => if p x then some (i, x) else findIdx? p xs (i + 1)

/-- A list cut into runs of n (the last may be shorter). -/
def chunks {α : Type} (n : Nat) (l : List α) : List (List α) :=
  (List.range (ceilDiv l.length n)).map fun i => (l.drop (i * n)).take n

/-- Sparse data by key: what a key that is not listed reads as is said where the map is read. -/
abbrev KMap (κ β : Type) := List (κ × β)

namespace KMap

variable {κ β : Type} [DecidableEq κ]

/-- The value under a key, or the default. -/
def get (m : KMap κ β) (k : κ) (dflt : β) : β :=
  match m with
  | [] => dflt
  | (k', v) :: rest => if k' = k then v else get rest k dflt

/-- Whether a key is listed. -/
def has (m : KMap κ β) (k : κ) : Bool := m.any fun e => decide (e.1 = k)

/-- The value under a key, if listed. -/
def get? (m : KMap κ β) (k : κ) : Option β :=
  match m with
  | [] => none
  | (k', v) :: rest => if k' = k then some v else get? rest k

/-- The map without a key. -/
def erase (m : KMap κ β) (k : κ) : KMap κ β := m.filter fun e => decide (e.1 ≠ k)

/-- The map with a value under a key. -/
def set (m : KMap κ β) (k : κ) (v : β) : KMap κ β := (k, v) :: erase m k

end KMap

end Sys2Proof.Machine
end

