-- ==== Sys2Proof/Machine/Formats.lean ====
section
/-! DEFINITION. The eleven number formats, exact values, rounding and conversion (chapter 05, R74 to R92), the scale
choices of R95 to R99, and the transcendental functions of R139. Values are exact: a finite value is a sign and a rational
magnitude num / den x 2^exp. -/
namespace Sys2Proof.Machine

/-- The formats of R74. -/
inductive Fmt where
  | fp32 | fp16 | wf16 | a8 | g8 | w6a | w6b | n4 | i8 | s8 | i32
deriving DecidableEq, Repr

/-- The format of a code; codes 0xB to 0xF are reserved (R74). -/
def Fmt.ofCode : Nat → Option Fmt
  | 0 => some .fp32 | 1 => some .fp16 | 2 => some .wf16 | 3 => some .a8 | 4 => some .g8 | 5 => some .w6a
  | 6 => some .w6b | 7 => some .n4 | 8 => some .i8 | 9 => some .s8 | 10 => some .i32
  | _ => none

/-- The code of a format (R74). -/
def Fmt.code : Fmt → Nat
  | .fp32 => 0 | .fp16 => 1 | .wf16 => 2 | .a8 => 3 | .g8 => 4 | .w6a => 5 | .w6b => 6 | .n4 => 7 | .i8 => 8 | .s8 => 9
  | .i32 => 10

/-- Bits per element. -/
def Fmt.width : Fmt → Nat
  | .fp32 => 32 | .fp16 => 16 | .wf16 => 16 | .a8 => 8 | .g8 => 8 | .w6a => 6 | .w6b => 6 | .n4 => 4 | .i8 => 8
  | .s8 => 8 | .i32 => 32

/-- The number of elements that a row is padded to a multiple of (R76). -/
def Fmt.group : Fmt → Nat
  | .w6a => 4 | .w6b => 4 | .n4 => 2 | _ => 1

/-- Bytes of a row of n elements, padding included (R76). -/
def Fmt.rowBytes (f : Fmt) (n : Nat) : Nat := roundUp n f.group * f.width / 8

/-- Formats with a fine scale per block of 32 (R95). -/
def Fmt.hasFine : Fmt → Bool
  | .a8 => true | .g8 => true | .w6a => true | .w6b => true | .n4 => true | .i8 => true | _ => false

/-- Formats that carry a coarse scale (R96). -/
def Fmt.hasCoarse : Fmt → Bool
  | .fp32 => false | .wf16 => false | .s8 => false | .i32 => false | _ => true

/-- Formats that have infinity (R74). -/
def Fmt.hasInf : Fmt → Bool
  | .fp32 => true | .fp16 => true | .wf16 => true | .g8 => true | _ => false

/-- Floating formats, as the underflow count of R81 sorts them. -/
def Fmt.isFloat : Fmt → Bool
  | .i8 => false | .i32 => false | .s8 => false | _ => true

/-- Exponent bits, mantissa bits and bias of a floating layout. -/
structure Layout where
  e : Nat
  m : Nat
  bias : Nat
deriving DecidableEq, Repr

/-- The layouts of R74 (integers and S8 have none). -/
def Fmt.layout : Fmt → Layout
  | .fp32 => ⟨8, 23, 127⟩ | .fp16 => ⟨5, 10, 15⟩ | .wf16 => ⟨8, 7, 127⟩ | .a8 => ⟨4, 3, 7⟩ | .g8 => ⟨5, 2, 15⟩
  | .w6a => ⟨2, 3, 1⟩ | .w6b => ⟨3, 2, 3⟩ | .n4 => ⟨2, 1, 1⟩ | _ => ⟨0, 0, 0⟩

/-- The ACC52 accumulator layout of R119. -/
def acc52 : Layout := ⟨10, 41, 511⟩

/-- An exact finite value: its sign (kept for zeros) and its magnitude num / den x 2^exp, with den positive. -/
structure Ex where
  neg : Bool
  num : Nat
  den : Nat
  exp : Int
deriving DecidableEq, Repr

/-- A value of any format. -/
inductive Num where
  | nan
  | inf (neg : Bool)
  | fin (v : Ex)
deriving DecidableEq, Repr

def Ex.zero (neg : Bool) : Ex := ⟨neg, 0, 1, 0⟩
def Ex.ofNat (n : Nat) : Ex := ⟨false, n, 1, 0⟩
def Ex.ofInt (z : Int) : Ex := ⟨decide (z < 0), z.natAbs, 1, 0⟩
/-- 2^k. -/
def Ex.pow2 (k : Int) : Ex := ⟨false, 1, 1, k⟩

def Ex.neg' (a : Ex) : Ex := { a with neg := !a.neg }
def Ex.abs (a : Ex) : Ex := { a with neg := false }

def Ex.mul (a b : Ex) : Ex := ⟨xor a.neg b.neg, a.num * b.num, a.den * b.den, a.exp + b.exp⟩

/-- The quotient a / b, for b not 0. -/
def Ex.div (a b : Ex) : Ex := ⟨xor a.neg b.neg, a.num * b.den, a.den * b.num, a.exp - b.exp⟩

/-- The signed numerator over the denominator a.den * b.den and the exponent min a.exp b.exp. -/
def Ex.align (a b : Ex) : Int × Int × Int :=
  let e := min a.exp b.exp
  let za : Int := (a.num * b.den * 2 ^ (a.exp - e).toNat : Nat)
  let zb : Int := (b.num * a.den * 2 ^ (b.exp - e).toNat : Nat)
  (if a.neg then -za else za, if b.neg then -zb else zb, e)

/-- The exact sum. A zero sum is -0 only when both terms are -0. -/
def Ex.add (a b : Ex) : Ex :=
  let (za, zb, e) := a.align b
  let z := za + zb
  if z = 0 then Ex.zero (a.neg && b.neg && decide (a.num = 0))
  else ⟨decide (z < 0), z.natAbs, a.den * b.den, e⟩

/-- Whether a < b as exact values (the sign of zero does not count). -/
def Ex.lt (a b : Ex) : Bool := let (za, zb, _) := a.align b; decide (za < zb)
/-- Whether a = b as exact values. -/
def Ex.eq (a b : Ex) : Bool := let (za, zb, _) := a.align b; decide (za = zb)

/-- The largest k with 2^k at most num / den (num and den positive). -/
def floorLog2Q (num den : Nat) : Int :=
  let k : Int := (Nat.log2 num : Int) - Nat.log2 den
  let ok := if 0 ≤ k then decide (den * 2 ^ k.toNat ≤ num) else decide (den ≤ num * 2 ^ (-k).toNat)
  if ok then k else k - 1

/-- floor(log2 |v|) for v not 0. -/
def Ex.log2 (v : Ex) : Int := floorLog2Q v.num v.den + v.exp

/-- The least k with |v| at most 2^k, for v not 0. -/
def Ex.ceilLog2 (v : Ex) : Int :=
  let k := v.log2
  if (v.abs).eq (Ex.pow2 k) then k else k + 1

/-- The quotient and the remainder of num / den x 2^t, with the divisor that belongs to them. -/
def scaleQ (num den : Nat) (t : Int) : Nat × Nat × Nat :=
  if 0 ≤ t then let n := num * 2 ^ t.toNat; (n / den, n % den, den)
  else let d := den * 2 ^ (-t).toNat; (num / d, num % d, d)

/-- The rounding rules: RNE, RTZ, SR with its random word (R82, R91), and the tie rule of R120, which takes the greater
value of a tie. -/
inductive Round where
  | rne
  | rtz
  | sr (y : Nat)
  | tieGreater
deriving DecidableEq, Repr

/-- The rounded quotient from a quotient q with remainder r of divisor d, for a value of sign neg. -/
def roundUpQ (rnd : Round) (neg : Bool) (q r d : Nat) : Nat :=
  if r = 0 then q
  else
    match rnd with
    | .rtz => q
    | .sr y => if y < r * 2 ^ 32 / d then q + 1 else q
    | .rne => if 2 * r < d then q else if d < 2 * r then q + 1 else q + q % 2
    | .tieGreater => if 2 * r < d then q else if d < 2 * r then q + 1 else if neg then q else q + 1

/-- grid_round of R84 for a floating layout: the magnitude code (exponent field and mantissa) of the rounded value, not
bounded above, so that a code beyond the largest finite one is an overflow. -/
def Layout.round (l : Layout) (rnd : Round) (v : Ex) : Nat :=
  if v.num = 0 then 0
  else
    let emin : Int := 1 - l.bias
    let k := max v.log2 emin
    let (q, r, d) := scaleQ v.num v.den (v.exp - (k - l.m))
    (k - emin).toNat * 2 ^ l.m + roundUpQ rnd v.neg q r d

/-- The value of a finite magnitude code of a floating layout (R75). -/
def Layout.value (l : Layout) (neg : Bool) (code : Nat) : Ex :=
  let e := code / 2 ^ l.m
  let m := code % 2 ^ l.m
  if e = 0 then ⟨neg, m, 1, 1 - l.bias - l.m⟩ else ⟨neg, 2 ^ l.m + m, 1, (e : Int) - l.bias - l.m⟩

/-- grid_round of R84 for S8: the exponent code (R82, R84). -/
def roundS8 (rnd : Round) (v : Ex) : Nat :=
  let k := v.log2
  let code := (k + 127).toNat
  let (q, r, d) := scaleQ v.num v.den (v.exp - k)
  -- the value lies (q - 1) d + r over d of the way from 2^k to 2^(k+1), with q = 1
  let up :=
    match rnd with
    | .rtz => false
    | .sr y => decide (y < r * 2 ^ 32 / d)
    | _ => if 2 * r < d then false else if d < 2 * r then true else decide (code % 2 = 1)
  if q = 0 then code else if up then code + 1 else code

/-- grid_round of R84 for the integers. -/
def roundInt (rnd : Round) (v : Ex) : Nat :=
  let (q, r, d) := scaleQ v.num v.den v.exp
  roundUpQ rnd v.neg q r d

/-- The largest magnitude code of a finite value (R75); for I8 and I32 the limit of the sign (R84). -/
def Fmt.maxCode (f : Fmt) (neg : Bool) : Nat :=
  match f with
  | .fp32 => 0x7f7fffff | .fp16 => 0x7bff | .wf16 => 0x7f7f | .a8 => 0x7e | .g8 => 0x7b | .w6a => 0x1f | .w6b => 0x1f
  | .n4 => 0x7 | .s8 => 0xfe
  | .i8 => if neg then 128 else 127
  | .i32 => if neg then 2 ^ 31 else 2 ^ 31 - 1

/-- The canonical NaN (R78), or what R80 gives for a NaN in a format without one. -/
def Fmt.nan : Fmt → Nat
  | .fp32 => 0x7fc00000 | .fp16 => 0x7e00 | .wf16 => 0x7fc0 | .a8 => 0x7f | .g8 => 0x7e | .n4 => 0x8 | .s8 => 0xff
  | _ => 0

/-- A magnitude code with its sign, as the format stores it. N4 has no negative zero and the integers are two's
complement (R74, R75). -/
def Fmt.encode (f : Fmt) (neg : Bool) (code : Nat) : Nat :=
  match f with
  | .i8 => if neg then (256 - code) % 256 else code
  | .i32 => if neg then (2 ^ 32 - code) % 2 ^ 32 else code
  | .s8 => code
  | .n4 => if neg && code != 0 then 8 + code else code
  | _ => if neg then 2 ^ (f.width - 1) + code else code

/-- What an infinity becomes (R80). -/
def Fmt.infinity (f : Fmt) (neg : Bool) : Nat :=
  match f with
  | .fp32 => f.encode neg 0x7f800000 | .fp16 => f.encode neg 0x7c00 | .wf16 => f.encode neg 0x7f80 | .g8 => f.encode neg 0x7c
  | .a8 => 0x7f | .n4 => 0x8 | .s8 => 0xff
  | _ => f.encode neg (f.maxCode neg)

/-- The value that a stored code has (R74, R75). -/
def Fmt.decode (f : Fmt) (c : Nat) : Num :=
  match f with
  | .i8 => .fin (Ex.ofInt (if c % 256 < 128 then (c % 256 : Nat) else (c % 256 : Nat) - 256))
  | .i32 => .fin (Ex.ofInt (if c % 2 ^ 32 < 2 ^ 31 then (c % 2 ^ 32 : Nat) else (c % 2 ^ 32 : Nat) - 2 ^ 32))
  | .s8 => if c % 256 = 0xff then .nan else .fin (Ex.pow2 ((c % 256 : Nat) - 127))
  | .n4 => if c % 16 = 8 then .nan else .fin (f.layout.value (bit c 3) (c % 8))
  | _ =>
    let neg := bit c (f.width - 1)
    let mag := c % 2 ^ (f.width - 1)
    if mag ≤ f.maxCode false then .fin (f.layout.value neg mag)
    else if f.hasInf && mag % 2 ^ f.layout.m == 0 then .inf neg
    else .nan

/-- The counts of R81 that conversions report. -/
structure Counts where
  nonfin : Nat := 0
  sat : Nat := 0
  under : Nat := 0
deriving DecidableEq, Repr

def Counts.add (a b : Counts) : Counts := ⟨a.nonfin + b.nonfin, a.sat + b.sat, a.under + b.under⟩

/-- convert of R84: the destination's code and the counts. -/
def convert (x : Num) (dst : Fmt) (rnd : Round) (sat : Bool) : Nat × Counts :=
  match x with
  | .nan => (dst.nan, { nonfin := 1 })
  | .inf neg => (dst.infinity neg, { nonfin := 1 })
  | .fin v =>
    if v.num = 0 then
      if dst = .s8 then (0, { under := 1 }) else (dst.encode v.neg 0, {})
    else if dst = .s8 ∧ v.log2 < -127 then (0, { under := 1 })
    else
      let m :=
        match dst with
        | .s8 => roundS8 rnd v.abs
        | .i8 => roundInt rnd v
        | .i32 => roundInt rnd v
        | _ => dst.layout.round rnd v
      if dst.maxCode v.neg < m then
        if dst.hasInf && decide (rnd ≠ .rtz) && !sat then (dst.infinity v.neg, { nonfin := 1 })
        else (dst.encode v.neg (dst.maxCode v.neg), { sat := 1 })
      else if m = 0 ∧ dst ≠ .s8 then (dst.encode v.neg 0, if dst.isFloat then { under := 1 } else {})
      else (dst.encode v.neg m, {})

/-- Rounding to FP32 under RNE, as a code. -/
def rne32c (x : Num) : Nat := (convert x .fp32 .rne false).1
/-- Rounding to FP32 under RNE. -/
def rne32 (x : Num) : Num := Fmt.fp32.decode (rne32c x)

/-- Sum, with NaN for infinities of opposite sign. -/
def Num.add : Num → Num → Num
  | .nan, _ => .nan
  | _, .nan => .nan
  | .inf a, .inf b => if a = b then .inf a else .nan
  | .inf a, .fin _ => .inf a
  | .fin _, .inf b => .inf b
  | .fin a, .fin b => .fin (a.add b)

def Num.neg : Num → Num
  | .nan => .nan
  | .inf a => .inf (!a)
  | .fin a => .fin a.neg'

/-- Product, with NaN for an infinity times zero. -/
def Num.mul : Num → Num → Num
  | .nan, _ => .nan
  | _, .nan => .nan
  | .inf a, .inf b => .inf (xor a b)
  | .inf a, .fin b => if b.num = 0 then .nan else .inf (xor a b.neg)
  | .fin a, .inf b => if a.num = 0 then .nan else .inf (xor a.neg b)
  | .fin a, .fin b => .fin (a.mul b)

/-- Quotient, as IEEE division treats zeros and infinities. -/
def Num.div : Num → Num → Num
  | .nan, _ => .nan
  | _, .nan => .nan
  | .inf _, .inf _ => .nan
  | .inf a, .fin b => .inf (xor a b.neg)
  | .fin a, .inf b => .fin (Ex.zero (xor a.neg b))
  | .fin a, .fin b =>
    if b.num = 0 then (if a.num = 0 then .nan else .inf (xor a.neg b.neg)) else .fin (a.div b)

/-- Whether a < b (false with a NaN); the zeros are equal. -/
def Num.lt : Num → Num → Bool
  | .nan, _ => false
  | _, .nan => false
  | .inf a, .inf b => a && !b
  | .inf a, .fin _ => a
  | .fin _, .inf b => !b
  | .fin a, .fin b => a.lt b

def Num.isNeg : Num → Bool
  | .nan => false
  | .inf a => a
  | .fin a => a.neg

def Num.isZero : Num → Bool
  | .fin a => decide (a.num = 0)
  | _ => false

def Num.isNaN : Num → Bool
  | .nan => true
  | _ => false

def Num.isFinite : Num → Bool
  | .fin _ => true
  | _ => false

/-- The greater of two values: NaN if either is NaN, and +0 is greater than -0 (R147). -/
def Num.max (a b : Num) : Num :=
  if a.isNaN || b.isNaN then .nan
  else if a.lt b then b else if b.lt a then a else if a.isNeg then b else a

/-- The lesser of two values: NaN if either is NaN, and +0 is greater than -0 (R147). -/
def Num.min (a b : Num) : Num :=
  if a.isNaN || b.isNaN then .nan
  else if a.lt b then a else if b.lt a then b else if a.isNeg then a else b

/-- FP32 sum, difference and product under RNE. -/
def add32 (a b : Num) : Num := rne32 (a.add b)
def sub32 (a b : Num) : Num := rne32 (a.add b.neg)
def mul32 (a b : Num) : Num := rne32 (a.mul b)
def div32 (a b : Num) : Num := rne32 (a.div b)

/-- A list of values summed in the pairwise tree of R128; the length is 2^n. -/
def pairSum : Nat → List Num → Num
  | 0, l => l.headD (.fin (Ex.zero false))
  | n + 1, l => add32 (pairSum n (l.take (2 ^ n))) (pairSum n (l.drop (2 ^ n)))

/-- The pairwise tree of R128 over 64 values, absent ones +0. -/
def pairSum64 (l : List Num) : Num := pairSum 6 (l ++ List.replicate (64 - l.length) (.fin (Ex.zero false)))

/-! The transcendental functions of R139: the exact value of an expansion carried to 2^-512, rounded once. -/

/-- Fraction bits that the expansions carry. -/
def tfBits : Nat := 512

/-- The sum of the terms x^n / n! from the n-th on, fixed point with tfBits fraction bits, for fuel terms (PRESUMED, log entry 25). -/
def expTerms : Nat → Nat → Nat → Nat → Nat
  | 0, _, _, _ => 0
  | fuel + 1, n, x, term => term + expTerms fuel (n + 1) x (term * x / ((n + 1) * 2 ^ tfBits))

/-- e^|v| for |v| below 256. -/
def expMag (v : Ex) : Ex :=
  let (x, _, _) := scaleQ v.num v.den (v.exp + tfBits)
  ⟨false, expTerms 1200 0 x (2 ^ tfBits), 1, -tfBits⟩

/-- The sum of t^(2n+1) / (2n+1), fixed point, for fuel terms. -/
def atanhTerms : Nat → Nat → Nat → Nat → Nat
  | 0, _, _, _ => 0
  | fuel + 1, n, tt, p => p / (2 * n + 1) + atanhTerms fuel (n + 1) tt (p * tt / 2 ^ tfBits)

/-- 2 atanh(a / b), fixed point, for a / b at most 1/2. -/
def atanh2 (a b : Nat) : Nat :=
  let t := a * 2 ^ tfBits / b
  2 * atanhTerms 280 0 (t * t / 2 ^ tfBits) t

/-- exp32 before its one rounding (R139) (PRESUMED, log entry 25). -/
def expX : Num → Num
  | .nan => .nan
  | .inf true => .fin (Ex.zero false)
  | .inf false => .inf false
  | .fin v =>
    if v.num = 0 then .fin (Ex.ofNat 1)
    else if 7 ≤ v.log2 then (if v.neg then .fin (Ex.pow2 (-1000)) else .fin (Ex.pow2 1000))
    else if v.neg then .fin ((Ex.ofNat 1).div (expMag v)) else .fin (expMag v)

/-- log32 before its one rounding (R139) (PRESUMED, log entry 25). -/
def logX : Num → Num
  | .nan => .nan
  | .inf true => .nan
  | .inf false => .inf false
  | .fin v =>
    if v.num = 0 then .inf true
    else if v.neg then .nan
    else if v.eq (Ex.ofNat 1) then .fin (Ex.zero false)
    else
      let k := v.log2
      -- v = m 2^k with m = v.num / (v.den 2^j) in [1, 2)
      let m : Ex := ⟨false, v.num, v.den, v.exp - k⟩
      let (mq, _, _) := scaleQ m.num m.den (m.exp + tfBits)
      let one := 2 ^ tfBits
      let ln := atanh2 (mq - one) (mq + one)
      let ln2 := atanh2 1 3
      let z : Int := k * (ln2 : Int) + (ln : Int)
      .fin ⟨decide (z < 0), z.natAbs, 1, -tfBits⟩

/-- rsqrt32 before its one rounding (R139): the square root to 2^-300 of the reciprocal (PRESUMED, log entry 25). -/
def rsqrtX : Num → Num
  | .nan => .nan
  | .inf true => .nan
  | .inf false => .fin (Ex.zero false)
  | .fin v =>
    if v.num = 0 then .inf v.neg
    else if v.neg then .nan
    else
      -- 1 / v = den / num 2^(-exp); its root by an integer root of den 2^(2p) / num, with an even exponent
      let odd : Nat := (v.exp % 2).toNat
      let e := v.exp + odd
      let n := v.den * 2 ^ (600 + odd) / v.num
      .fin ⟨false, 2 * Nat.sqrt n + (if Nat.sqrt n * Nat.sqrt n * v.num = v.den * 2 ^ (600 + odd) then 0 else 1), 1, -301 - e / 2⟩

/-- recip32 before its one rounding (R139) (PRESUMED, log entry 25). -/
def recipX : Num → Num
  | .nan => .nan
  | .inf a => .fin (Ex.zero a)
  | .fin v => if v.num = 0 then .inf v.neg else .fin ((Ex.ofNat 1).div v)

/-- tanh32 before its one rounding (R139) (PRESUMED, log entry 25). -/
def tanhX : Num → Num
  | .nan => .nan
  | .inf a => .fin { Ex.ofNat 1 with neg := a }
  | .fin v =>
    if v.num = 0 then .fin v
    else if 6 ≤ v.log2 then .fin { Ex.ofNat 1 with neg := v.neg }
    else
      let e := expMag ⟨false, v.num, v.den, v.exp + 1⟩
      .fin { (e.add ⟨true, 1, 1, 0⟩).div (e.add (Ex.ofNat 1)) with neg := v.neg }

/-- sigmoid32 before its one rounding (R139) (PRESUMED, log entry 25). -/
def sigmoidX : Num → Num
  | .nan => .nan
  | .inf true => .fin (Ex.zero false)
  | .inf false => .fin (Ex.ofNat 1)
  | .fin v =>
    if v.num = 0 then .fin ⟨false, 1, 1, -1⟩
    else if 7 ≤ v.log2 then (if v.neg then .fin (Ex.pow2 (-1000)) else .fin (Ex.ofNat 1))
    else
      let e := expMag v.abs
      if v.neg then .fin ((Ex.ofNat 1).div (e.add (Ex.ofNat 1))) else .fin (e.div (e.add (Ex.ofNat 1)))

def exp32 (x : Num) : Num := rne32 (expX x)
def log32 (x : Num) : Num := rne32 (logX x)
def rsqrt32 (x : Num) : Num := rne32 (rsqrtX x)
def recip32 (x : Num) : Num := rne32 (recipX x)
def tanh32 (x : Num) : Num := rne32 (tanhX x)
def sigmoid32 (x : Num) : Num := rne32 (sigmoidX x)

/-! Stochastic rounding. -/

/-- rotl of R90. -/
def rotl32 (w n : Nat) : Nat := (w * 2 ^ n % 2 ^ 32) + w % 2 ^ 32 / 2 ^ (32 - n)

/-- The rounds of SR-ARX4, from round r on (R90). -/
def arxRounds : Nat → Nat → Nat → Nat → Nat × Nat × Nat × Nat → Nat
  | 0, _, _, _, (_, x1, _, x3) => Nat.xor x1 x3
  | fuel + 1, r, k0, k1, (x0, x1, x2, x3) =>
    let x0 := (x0 + x1 + if r % 2 = 0 then k0 else k1) % 2 ^ 32
    let x3 := rotl32 (Nat.xor x3 x0) 16
    let x2 := (x2 + x3) % 2 ^ 32
    let x1 := rotl32 (Nat.xor x1 x2) 12
    arxRounds fuel (r + 1) k0 k1 (x0, x1, x2, x3)

/-- SR-ARX4 (R90): the output word y for a key, step, tensor ID and element index. -/
def srArx4 (key step tid idx : Nat) : Nat :=
  arxRounds 4 0 (bits key 31 0) (bits key 63 32) (step % 2 ^ 32, tid % 2 ^ 24, bits idx 31 0, bits idx 39 32)

/-- The inputs of the stochastic rounding of one destination: key, step, tensor ID and first index (R89). -/
structure SrIn where
  key : Nat
  step : Nat
  tid : Nat
  idx : Nat
deriving DecidableEq, Repr

/-- The rounding rule of a mode code (R82) for the element at an index; code 3 is reserved and refused before. -/
def roundOf (mode : Nat) (sr : SrIn) (idx : Nat) : Round :=
  if mode = 1 then .rtz else if mode = 2 then .sr (srArx4 sr.key sr.step sr.tid idx) else .rne

/-! Scales (R95 to R99). -/

/-- Fmax of R95. -/
def Fmt.fmax (f : Fmt) : Ex :=
  match f with
  | .i8 => Ex.ofNat 127
  | .s8 => Ex.pow2 127
  | .i32 => Ex.ofNat (2 ^ 31 - 1)
  | _ => f.layout.value false (f.maxCode false)

/-- Whether an FP32 code is a positive, finite, normal value, as a coarse scale must be (R96). -/
def coarseOk (c : Nat) : Bool := decide (0x00800000 ≤ c ∧ c ≤ 0x7f7fffff)

/-- The value of a coarse scale: 1 for a format that carries none (R96). -/
def coarseVal (f : Fmt) (c : Nat) : Ex := if f.hasCoarse then Fmt.fp32.layout.value false c else Ex.ofNat 1

/-- The largest magnitude among the finite values of a list. -/
def amaxOf (l : List Num) : Ex :=
  l.foldl (fun a x => match x with | .fin v => if a.lt v.abs then v.abs else a | _ => a) (Ex.zero false)

/-- The fine-scale code of a block (R98), from the values x / c of the block. -/
def fineCode (f : Fmt) (clip : Nat) (block : List Num) : Nat :=
  let a := amaxOf block
  if a.num = 0 then 127
  else (min (max ((a.div f.fmax).ceilLog2 + 127 - clip) 0) 254).toNat

/-- A stored value times its fine scale; the code 0xFF reads as NaN (R97). -/
def applyFine (x : Num) (e : Nat) : Num :=
  if e = 0xff then .nan else x.mul (.fin (Ex.pow2 ((e : Int) - 127)))

/-- Whether a conversion into a destination applies a scale (R83): it writes fine-scale codes, or the coarse scale is not
exactly 1. -/
def scaled (f : Fmt) (coarse : Nat) : Bool := f.hasFine || (f.hasCoarse && decide (coarse ≠ 0x3f800000))

end Sys2Proof.Machine
end

