-- ==== Sys2Proof/Machine/Codec.lean ====
section
/-! DEFINITION. The husk codec (R193 to R196): tile records, z-coding, prediction and the bounded-loss modes, over 16-bit words. -/
namespace Sys2Proof.Machine

/-! ### Bits, most significant first -/

/-- The low n bits of a number, most significant first. -/
def natBits (v n : Nat) : List Bool := (List.range n).map fun i => bit v (n - 1 - i)

def bitsNat (l : List Bool) : Nat := l.foldl (fun a b => 2 * a + b2n b) 0

/-- Bits packed most significant first within each byte (R194). -/
def packBits (l : List Bool) : List Byte :=
  (chunks 8 l).map fun c => BitVec.ofNat 8 (bitsNat (c ++ List.replicate (8 - c.length) false))

def unpackBits (l : List Byte) : List Bool := l.flatMap fun b => natBits b.toNat 8

/-! ### Canonical Huffman codes (R194) -/

/-- Codes of symbols in order of length: each is the one before plus 1, shifted by the growth in length. -/
def canonGo : List (Nat × Nat) → Nat → Nat → List (Nat × Nat × Nat)
  | [], _, _ => []
  | (sym, len) :: rest, prev, next =>
    let c := next * 2 ^ (len - prev)
    (sym, len, c) :: canonGo rest len (c + 1)

/-- Symbol, length and code of every used symbol of a table of lengths. -/
def canonCodes (lens : List Nat) : List (Nat × Nat × Nat) :=
  let used := ((lens.zipIdx.filter fun e => e.1 != 0).map fun e => (e.2, e.1)).mergeSort fun a b =>
    decide (a.2 < b.2) || (a.2 == b.2 && decide (a.1 ≤ b.1))
  canonGo used 0 0

/-- The Kraft inequality for lengths up to 15. -/
def kraftOk (lens : List Nat) : Bool :=
  decide (((lens.filter (· != 0)).map fun l => 2 ^ (15 - l)).foldl (· + ·) 0 ≤ 2 ^ 15)

/-- Whether lengths suit a histogram: 1 to 15 for a used symbol, 0 for an unused one, and Kraft's inequality. -/
def lensOk (hist lens : List Nat) : Bool :=
  lens.length == hist.length && kraftOk lens &&
    (hist.zip lens).all fun e => if e.1 = 0 then e.2 == 0 else decide (1 ≤ e.2 ∧ e.2 ≤ 15)

/-! ### z-coding (R194) -/

/-- Leading zero bits of an n-bit word. -/
def zOf (n w : Nat) : Nat := if w = 0 then n else n - 1 - Nat.log2 w

/-- The code of z and the bits below the leading one. -/
def zEmit (codes : List (Nat × Nat × Nat)) (n w : Nat) : List Bool :=
  let z := zOf n w
  match codes.find? fun c => c.1 == z with
  | some c => natBits c.2.2 c.2.1 ++ natBits w (n - z - 1)
  | none => []

/-- One z-coded word off the front of a bit string. -/
def zRead (codes : List (Nat × Nat × Nat)) (n : Nat) (l : List Bool) : Option (Nat × List Bool) :=
  match codes.find? fun c => l.take c.2.1 == natBits c.2.2 c.2.1 with
  | some (z, len, _) =>
    let rest := l.drop len
    if z = n then some (0, rest)
    else
      let k := n - z - 1
      if rest.length < k then none else some (2 ^ k + bitsNat (rest.take k), rest.drop k)
  | none => none

/-- Histogram of z-symbols of n-bit words. -/
def zHist (n : Nat) (ws : List Nat) : List Nat :=
  (List.range (n + 1)).map fun z => (ws.filter fun w => zOf n w == z).length

/-! ### Tile records (R193) -/

/-- The record of a payload: header, payload, zeros up to a multiple of 64 bytes. -/
def mkRecord (mode : Nat) (raw pred : Bool) (lens : List Nat) (payload : List Byte) : List Byte :=
  let table := (lens.zipIdx.map fun e => e.1 * 16 ^ e.2).foldl (· + ·) 0
  let r := leBytes 2 payload.length ++ [BitVec.ofNat 8 (b2n raw + 2 * b2n pred + 4 * mode), 0] ++ leBytes 9 table ++
    List.replicate 3 0 ++ payload
  r ++ List.replicate (roundUp r.length 64 - r.length) 0

/-- The coded form where it is shorter than the fixed layout, else RAW (R194). emit gives the coded payload under lengths. -/
def chooseForm (mode : Nat) (pred : Bool) (hist : List Nat) (fixed : List Byte) (emit : List (Nat × Nat × Nat) → List Byte) :
    List Byte :=
  let lens := Config.huskLens hist
  let coded := emit (canonCodes lens)
  if lensOk hist lens ∧ coded.length < fixed.length then mkRecord mode false pred lens coded
  else mkRecord mode true pred [] fixed

/-- A lossless tile (R195): its words, and the predictor of each where it has one. -/
def losslessTile (ws : List Nat) (preds : List (Option Nat)) : List Byte :=
  let res := (ws.zip preds).map fun e => e.1 ^^^ e.2.getD 0
  chooseForm 0 (preds.any (·.isSome)) (zHist 16 res) (ws.flatMap (leBytes 2)) fun codes =>
    packBits (res.flatMap (zEmit codes 16))

/-- The stored format of a bounded-loss mode, and the bits of its magnitude field (R196). -/
def lossyFmt (mode : Nat) : Fmt := if mode = 2 then .w6a else .a8
def lossyBits (mode : Nat) : Nat := if mode = 2 then 5 else 7

/-- A bounded-loss tile (R196): a tile with a non-finite value takes mode 1. The counts of its conversions go
to no tally slot (DESIGN CHOICE, log entry 58). -/
def lossyTile (mode : Nat) (ws : List Nat) : List Byte :=
  let xs := ws.map Fmt.fp16.decode
  let mode := if mode = 2 ∧ !xs.all Num.isFinite then 1 else mode
  let f := lossyFmt mode
  let n := lossyBits mode
  let blocks := (chunks 32 xs).map fun b =>
    let e := fineCode f 0 b
    (e, b.map fun x => (convert (x.mul (.fin (Ex.pow2 (127 - (e : Int))))) f .rne true).1)
  let plane := blocks.map fun b => BitVec.ofNat 8 b.1
  let codes := blocks.flatMap (·.2)
  let packed := leBytes (codes.length * f.width / 8) (codes.foldr (fun c acc => c + 2 ^ f.width * acc) 0)
  let mags := codes.map fun c => c % 2 ^ n
  chooseForm mode false (zHist n mags) (plane ++ packed) fun t =>
    plane ++ packBits (codes.flatMap fun c => zEmit t n (c % 2 ^ n) ++ [bit c n])

/-- The predictor of word o (R195), read from the words of the whole source; frame counts words. -/
def predOf (ws : Array Nat) (frame o : Nat) : Option Nat := if 0 < frame ∧ frame ≤ o then some (ws.getD (o - frame) 0) else none

/-- The tile records of a source of 16-bit words, in order; frame is FRAME in bytes (R193). -/
def huskRecords (mode frame : Nat) (ws : List Nat) : List (List Byte) :=
  let arr := ws.toArray
  (chunks 2048 ws).zipIdx.map fun (t, i) =>
    if mode = 0 then losslessTile t ((List.range t.length).map fun j => predOf arr (frame / 2) (2048 * i + j))
    else lossyTile mode t

/-! ### Decoding -/

/-- TABLE of a record: nsym lengths. -/
def recLens (r : List Byte) (nsym : Nat) : List Nat := (List.range nsym).map fun n => bits (field r 4 9) (4 * n + 3) (4 * n)

/-- k z-coded words of n bits, each followed by a sign bit where sign is set. -/
def zReadAll (codes : List (Nat × Nat × Nat)) (n : Nat) (sign : Bool) : Nat → List Bool → Option (List Nat)
  | 0, _ => some []
  | k + 1, l =>
    match zRead codes n l with
    | none => none
    | some (w, rest) =>
      if sign then
        match rest with
        | [] => none
        | b :: rest => (zReadAll codes n sign k rest).map fun ws => (w + 2 ^ n * b2n b) :: ws
      else (zReadAll codes n sign k rest).map fun ws => w :: ws

/-- Bytes of a record, from its header. -/
def recLen (hdr : List Byte) : Nat := roundUp (16 + field hdr 0 2) 64

/-- The k words of a tile as its record gives them, before prediction, and whether they are residuals; none where the record
is bad (R194). -/
def recWords (r : List Byte) (k : Nat) : Option (List Nat × Bool) :=
  let flags := field r 2 1
  let raw := bit flags 0
  let mode := bits flags 3 2
  let pay := slice r 16 (field r 0 2)
  if mode = 0 then
    if raw then (if pay.length < 2 * k then none else some ((List.range k).map fun i => field pay (2 * i) 2, false))
    else
      let lens := recLens r 17
      if !kraftOk lens then none else (zReadAll (canonCodes lens) 16 false k (unpackBits pay)).map fun ws => (ws, true)
  else if mode = 3 then none
  else
    let f := lossyFmt mode
    let n := lossyBits mode
    let nb := ceilDiv k 32
    let body := pay.drop nb
    let codes : Option (List Nat) :=
      if pay.length < nb then none
      else if raw then
        if body.length < k * f.width / 8 then none
        else some ((List.range k).map fun i => bits (leNat body) (f.width * (i + 1) - 1) (f.width * i))
      else
        let lens := recLens r (n + 1)
        if !kraftOk lens then none else zReadAll (canonCodes lens) n true k (unpackBits body)
    codes.map fun cs => (cs.zipIdx.map fun (c, i) =>
      (convert (applyFine (f.decode c) (field pay (i / 32) 1)) .fp16 .rne true).1, false)

/-- The output so far, with a tile's words added: residuals are combined with the word frame words earlier (R195). -/
def addTile (frame : Nat) (out : Array Nat) (ws : List Nat) (residual : Bool) : Array Nat :=
  ws.foldl (fun out w => out.push (if residual then w ^^^ (predOf out frame out.size).getD 0 else w)) out

/-- Decodes n words, tile by tile, from a record stream read by rd (offset, length); bad says that a range of the stream is
poisoned. Answers the words, and the offset in the stream of a record that is bad or poisoned. -/
def huskDecode (frame : Nat) (rd : Nat → Nat → List Byte) (bad : Nat → Nat → Bool) :
    Nat → Nat → Nat → Array Nat → Array Nat × Option Nat
  | 0, _, _, out => (out, none)
  | tiles + 1, n, off, out =>
    let k := min n 2048
    let hdr := rd off 16
    let len := recLen hdr
    if bad off 64 ∨ bad off len then (out, some off)
    else
      match recWords (rd off len) k with
      | none => (out, some off)
      | some (ws, res) => huskDecode frame rd bad tiles (n - k) (off + len) (addTile (frame / 2) out ws res)

end Sys2Proof.Machine
end

