-- ==== Sys2Proof/Machine/RegNames.lean ====
section
/-! DEFINITION. The names of the part's register blocks, registers and register fields, written from the
register tables of spec/ (R27, R52, R72, R93, R111, R136, R165, R190, R211, R229, R248, R249, R263, R290, R309, R337,
R359, R376, R378, R397, R414, R415, R416, R434, R435, R451, R466, R481, R495, R499). One constructor per register and one per
field that is not reserved; an array of registers (VEC_SRKEY0 to VEC_SRKEY3) is one name used with an index. -/
namespace Sys2Proof.Machine

/-- The access types of R4. -/
inductive Access where
  | ro | rw | w1c | wo | rws | rwl
deriving DecidableEq, Repr

/-- The register blocks of R492 that hold registers (MSI-X is kept apart, R493). -/
inductive Block where

  | DCTL | STR | BEAT | VEC | MXE | TDY | LDG | HSK | WIN | KVW | GLN | UPD | QUE | FAB | ESC | VCE
  | HST | STW | MGT | CLK | PWR | RST | SEC | LOG | GLB
deriving DecidableEq, Repr

/-- Every register of the part; an array of registers is one name. -/
inductive Reg where
  | DCTL_CLMAP | DCTL_CLSTAT | STR_LOAD_ADDR | STR_LOAD_LEN | STR_PREPARE | STR_COMMIT_BEAT
  | STR_COMMIT | STR_STATUS | STR_REFUSE_INFO | STR_EPOCH | STR_ARMED | STR_FENCED
  | STR_ACTIVE_DIGEST | BEAT_CFG | BEAT_NOW | BEAT_PHASE | BEAT_STATUS | BEAT_OFFSET | BEAT_TPL
  | BEAT_ORIGIN | BEAT_WALL | VEC_SRKEY | DCTL_TALLY_UNMAP0 | DCTL_TALLY_UNMAP1 | DCTL_STEER_STAT
  | MXE_STATUS | MXE_GROUPS | MXE_STICKY | MXE_STALL | MXE_MASKED | TDY_CFG | TDY_STATUS | TDY_STEP
  | TDY_SAVE | TDY_SWITCH | TDY_QBIND | TDY_SIG | LDG_CFG | LDG_STATUS | LDG_ECC | LDG_ECC_ADDR
  | LDG_LINK | LDG_CAL | HSK_STOOK | HSK_STATUS | HSK_CTL | HSK_ENC_IN | HSK_ENC_OUT | HSK_FULL
  | WIN_STATUS | WIN_CTL | WIN_PADSKIP | WIN_HALO_STALL | WIN_CREDIT | KVW_STATUS | KVW_LAB
  | KVW_CTL | KVW_BOP | KVW_BOP_ARG | KVW_BOP_RES | GLN_CFG | GLN_STATUS | DCTL_STEER_ENT
  | UPD_STATUS | UPD_SKIP_COUNT | UPD_CTL | UPD_STAT | UPD_LAST | UPD_SRKEY | QUE_OP | QUE_OP_ARG
  | QUE_OP_RES | QUE_CACHE | QUE_STATUS | FAB_ID | FAB_TC0 | FAB_TCBUF | FAB_COLL | FAB_PORT_CTL
  | FAB_PORT | FAB_RETRY | FAB_LAYOUT | FAB_RESHARD | FAB_RESHARD_PROG | DCTL_FILL | ESC_CFG
  | ESC_HOME | ESC_BANK | ESC_HOME_LEN | ESC_BANK_LEN | ESC_CURSOR | ESC_RNG | ESC_DRAWS | ESC_CTL
  | ESC_ARG | ESC_STATUS | ESC_STEPS | ESC_FILL | ESC_DIGEST | ESC_LIVE_DIGEST | ESC_FREEZE
  | VCE_STATUS | VCE_FRAMES | VCE_LATE | VCE_PIXELS | VCE_QBIND | HST_LINKA | HST_LINKB | HST_BAR2
  | HST_SEAL_GRANT | STW_SEAL | STW_SEAL_CTL | STW_STATUS | MGT_CFGA | MGT_CFGB | MGT_MACA
  | MGT_MACB | MGT_STATUS | CLK_STATUS | CLK_MON | CLK_GATE_OP | CLK_GATE_RES | CLK_DBG
  | PWR_LAT_TOL | PWR_LIVE_TOL | PWR_CAP | PWR_STATE | PWR_CLOCK | PWR_MEAS | RST_CTL | RST_STATUS
  | RST_COUNT | RST_BOOT | RST_TEST_OP | RST_TEST_RES | SEC_FUSE | SEC_SVN | SEC_OP | SEC_OP_ADDR
  | SEC_OP_RES | SEC_CHALLENGE | SEC_NONCE | LOG_SEQ | LOG_STATUS | LOG_OVER | LOG_CFG | LOG_CURSOR
  | LOG_DATA | GLB_ID | GLB_SERIAL | GLB_IRQ_STATUS | GLB_IRQ_EN | GLB_IRQ_STW | GLB_IRQ_VEC
  | GLB_IRQ_ROUTE
deriving DecidableEq, Repr

/-- Every field of every register, named REGISTER_FIELD; reserved bits have no name (R3). -/
inductive Field where
  | DCTL_CLMAP_SPARE | DCTL_CLMAP_LOG | DCTL_CLSTAT_ROT_COUNT | DCTL_CLSTAT_LOST | DCTL_CLSTAT_FILL
  | DCTL_CLSTAT_STATE | STR_LOAD_ADDR_ADDR | STR_LOAD_LEN_LEN | STR_PREPARE_ABANDON
  | STR_PREPARE_GO | STR_COMMIT_BEAT_BEAT | STR_COMMIT_LEAD | STR_COMMIT_VARIANT | STR_COMMIT_SCOPE
  | STR_COMMIT_GO | STR_STATUS_REFUSE | STR_STATUS_LAST | STR_STATUS_MISSING
  | STR_STATUS_GROUP_READY | STR_STATUS_STATE | STR_REFUSE_INFO_UNIT | STR_REFUSE_INFO_SECTION
  | STR_REFUSE_INFO_OFFSET | STR_EPOCH_ACTIVE | STR_EPOCH_PENDING | STR_ARMED_UNITS
  | STR_FENCED_UNITS | STR_ACTIVE_DIGEST_DIGEST | BEAT_CFG_PERIOD | BEAT_CFG_MGT_PORT
  | BEAT_CFG_SRC | BEAT_NOW_COUNT | BEAT_PHASE_CYCLES | BEAT_STATUS_PERIOD | BEAT_STATUS_MASTER
  | BEAT_STATUS_RANK | BEAT_STATUS_STATE | BEAT_OFFSET_OFFSET | BEAT_TPL_INSTANCE | BEAT_TPL_OFFSET
  | BEAT_ORIGIN_WALL | BEAT_WALL_WALL | VEC_SRKEY_KEY_HI | VEC_SRKEY_KEY_LO
  | DCTL_TALLY_UNMAP0_NONFIN | DCTL_TALLY_UNMAP0_SAT | DCTL_TALLY_UNMAP1_UNDER
  | DCTL_STEER_STAT_LAST_STEP | DCTL_STEER_STAT_SAT_HIGH | DCTL_STEER_STAT_WAITS
  | MXE_STATUS_TILE_BUSY | MXE_STATUS_REFUSED | MXE_STATUS_HELD | MXE_GROUPS_COUNT
  | MXE_STICKY_TIES | MXE_STICKY_GROUPS | MXE_STALL_ACCMEM | MXE_STALL_HAZARD | MXE_MASKED_TILES
  | MXE_MASKED_ROWS | TDY_CFG_SWITCH_WAIT | TDY_CFG_SWITCH_EN | TDY_CFG_AUTO | TDY_STATUS_CUR_MB
  | TDY_STATUS_DROPPED | TDY_STATUS_TILE_LIVE | TDY_STATUS_STATE | TDY_STEP_STEP | TDY_SAVE_BASE
  | TDY_SAVE_SLOTS | TDY_SWITCH_SWITCHES | TDY_SWITCH_CYCLES | TDY_QBIND_VALID | TDY_QBIND_QID
  | TDY_SIG_COUNT | LDG_CFG_SCRUB_H | LDG_CFG_RATE | LDG_STATUS_CH_FENCED | LDG_STATUS_DEV_TYPE
  | LDG_STATUS_STATE | LDG_ECC_UE | LDG_ECC_CE | LDG_ECC_ADDR_VALID | LDG_ECC_ADDR_ADDR
  | LDG_LINK_WRITE | LDG_LINK_READ | LDG_CAL_RETRY | LDG_CAL_COUNT | HSK_STOOK_RESERVED
  | HSK_STOOK_USED | HSK_STOOK_FREE | HSK_STATUS_STORED | HSK_STATUS_DROPPED | HSK_STATUS_STALLED
  | HSK_STATUS_TIGHT | HSK_STATUS_ACTIVE | HSK_STATUS_BUSY | HSK_CTL_CLEAR | HSK_ENC_IN_COUNT
  | HSK_ENC_OUT_COUNT | HSK_FULL_LOSSY | HSK_FULL_DROPS | HSK_FULL_STALLS | WIN_STATUS_REFUSED
  | WIN_STATUS_HELD | WIN_STATUS_DONE | WIN_STATUS_GATHERING | WIN_STATUS_RUNNING | WIN_CTL_CANCEL
  | WIN_PADSKIP_COUNT | WIN_HALO_STALL_READ | WIN_HALO_STALL_RETIRE | WIN_CREDIT_CREDIT
  | KVW_STATUS_HELD_EPOCH | KVW_STATUS_REFUSED | KVW_STATUS_WALKS | KVW_STATUS_POOL
  | KVW_STATUS_BUSY | KVW_LAB_MISS | KVW_LAB_HIT | KVW_CTL_FLUSH | KVW_BOP_OP | KVW_BOP_SEQ
  | KVW_BOP_VB | KVW_BOP_ARG_VALUE | KVW_BOP_RES_DONE | KVW_BOP_RES_STATUS | KVW_BOP_RES_COW
  | KVW_BOP_RES_COUNT | KVW_BOP_RES_BUSHEL | GLN_CFG_SCORE | GLN_STATUS_SCORED | GLN_STATUS_REFUSED
  | GLN_STATUS_BUSY | DCTL_STEER_ENT_COARSE | DCTL_STEER_ENT_FMT | UPD_STATUS_ROUND_STEP
  | UPD_STATUS_HELD | UPD_STATUS_TORN | UPD_STATUS_STATE | UPD_SKIP_COUNT_COUNT | UPD_CTL_CLEAR
  | UPD_STAT_NAN_OUT | UPD_STAT_SAT | UPD_LAST_STEP | UPD_LAST_LAYER | UPD_LAST_COMMITS
  | UPD_SRKEY_KEY_HI | UPD_SRKEY_KEY_LO | QUE_OP_OP | QUE_OP_FORCE | QUE_OP_MASK | QUE_OP_QID
  | QUE_OP_ARG_LEVEL | QUE_OP_RES_DONE | QUE_OP_RES_STATUS | QUE_OP_RES_OCC | QUE_CACHE_MISS
  | QUE_CACHE_HIT | QUE_STATUS_TABLE | QUE_STATUS_ENABLED | FAB_ID_NPEER | FAB_ID_DEVICE
  | FAB_TC0_SHAPED | FAB_TC0_LATE | FAB_TC0_MAXLAT | FAB_TCBUF_TC3 | FAB_TCBUF_TC2 | FAB_TCBUF_TC1
  | FAB_COLL_REFUSED | FAB_COLL_EPOCH | FAB_COLL_RUNNING | FAB_PORT_CTL_DISABLE
  | FAB_PORT_CTL_RETRAIN | FAB_PORT_PEER | FAB_PORT_PEER_PORT | FAB_PORT_ACTIVE | FAB_PORT_DEGRADES
  | FAB_PORT_STATE | FAB_RETRY_UNCORR | FAB_RETRY_REPLAY | FAB_LAYOUT_PENDING | FAB_LAYOUT_CURRENT
  | FAB_RESHARD_COMMITTED | FAB_RESHARD_GROUP | FAB_RESHARD_RESUMED | FAB_RESHARD_STATE
  | FAB_RESHARD_PROG_ACKED | FAB_RESHARD_PROG_NEXT_DST | DCTL_FILL_DONE | ESC_CFG_ENABLE
  | ESC_CFG_GROUP | ESC_CFG_SOURCE | ESC_CFG_INTERVAL | ESC_HOME_BASE | ESC_BANK_BASE
  | ESC_HOME_LEN_LEN | ESC_BANK_LEN_LEN | ESC_CURSOR_VALUE | ESC_RNG_VALUE | ESC_DRAWS_DRAWS
  | ESC_CTL_OP | ESC_CTL_TARGET | ESC_ARG_BEAT | ESC_STATUS_HOME_STEP | ESC_STATUS_FROZEN
  | ESC_STATUS_DONE | ESC_STATUS_RESULT | ESC_STATUS_HOME | ESC_STATUS_BANK0 | ESC_STATUS_BANK1
  | ESC_STATUS_OPEN | ESC_STEPS_HELD_STEP | ESC_STEPS_OPEN_STEP | ESC_FILL_BYTES
  | ESC_DIGEST_DIGEST | ESC_LIVE_DIGEST_DIGEST | ESC_FREEZE_F | VCE_STATUS_OPEN
  | VCE_STATUS_REFUSED | VCE_STATUS_STATE | VCE_FRAMES_ENCODED | VCE_FRAMES_DECODED
  | VCE_LATE_WORST | VCE_LATE_FRAMES | VCE_PIXELS_COUNT | VCE_QBIND_VALID | VCE_QBIND_QID
  | HST_LINKA_FLR_COUNT | HST_LINKB_FLR_COUNT | HST_LINKA_RATE | HST_LINKB_RATE | HST_LINKA_WIDTH
  | HST_LINKB_WIDTH | HST_LINKA_FLIT | HST_LINKB_FLIT | HST_LINKA_DEGRADED | HST_LINKB_DEGRADED
  | HST_LINKA_UP | HST_LINKB_UP | HST_BAR2_BASE | HST_SEAL_GRANT_HALF | STW_SEAL_SEQ
  | STW_SEAL_GRANT_VALID | STW_SEAL_GRANT_HALF | STW_SEAL_PREF | STW_SEAL_STATE | STW_SEAL_HOLDER
  | STW_SEAL_CTL_ACCEPT | STW_SEAL_CTL_OFFER | STW_STATUS_HALF_E | STW_STATUS_HALF_W
  | MGT_CFGA_ENABLE | MGT_CFGB_ENABLE | MGT_CFGA_FEC | MGT_CFGB_FEC | MGT_MACA_MAC | MGT_MACB_MAC
  | MGT_STATUS_REQUESTS | MGT_STATUS_PTP_B | MGT_STATUS_PTP_A | MGT_STATUS_LINK_B
  | MGT_STATUS_LINK_A | CLK_STATUS_FALLBACK | CLK_STATUS_REF_OK | CLK_MON_CAL | CLK_MON_LAST
  | CLK_MON_FAULTS | CLK_GATE_OP_ACTION | CLK_GATE_OP_NODE | CLK_GATE_RES_DONE
  | CLK_GATE_RES_STATUS | CLK_GATE_RES_BLOCKER | CLK_DBG_REFUSED | CLK_DBG_DIV | CLK_DBG_SEL
  | PWR_LAT_TOL_NS | PWR_LIVE_TOL_NS | PWR_CAP_WATTS | PWR_STATE_ENTRIES | PWR_STATE_EXIT_CAUSE
  | PWR_STATE_ALLOWED | PWR_STATE_CURRENT | PWR_CLOCK_RUN_MHZ | PWR_CLOCK_THERM_MHZ
  | PWR_CLOCK_CAP_MHZ | PWR_MEAS_TJ_MAX | PWR_MEAS_PKG | RST_CTL_KIND | RST_CTL_KEY | RST_CTL_CORE
  | RST_CTL_DIE | RST_STATUS_FW_SLOT | RST_STATUS_LAST_KIND | RST_STATUS_CAUSE | RST_STATUS_STAGE
  | RST_STATUS_READY | RST_COUNT_WARM | RST_COUNT_DIE | RST_COUNT_CORE | RST_BOOT_FW_MS
  | RST_BOOT_LP_MS | RST_BOOT_BURSAR_MS | RST_BOOT_READY_MS | RST_TEST_OP_KIND | RST_TEST_OP_CANCEL
  | RST_TEST_OP_TARGET | RST_TEST_RES_DONE | RST_TEST_RES_PENDING | RST_TEST_RES_STATUS
  | RST_TEST_RES_TARGET | SEC_FUSE_PROD | SEC_FUSE_FIRST_DONE | SEC_FUSE_OWN_REV | SEC_FUSE_OWN_ENR
  | SEC_FUSE_VEN_REV | SEC_SVN_SVN | SEC_OP_OP | SEC_OP_ADDR_ADDR | SEC_OP_RES_DONE
  | SEC_OP_RES_STATUS | SEC_OP_RES_LEN | SEC_CHALLENGE_VALUE | SEC_NONCE_VALUE | LOG_SEQ_NEXT
  | LOG_STATUS_SEG | LOG_STATUS_DROPPED | LOG_STATUS_HUB | LOG_STATUS_INTAKE | LOG_OVER_OVERWRITTEN
  | LOG_CFG_IRQ_SEV | LOG_CURSOR_SEG | LOG_CURSOR_SEQ | LOG_CURSOR_STATE | LOG_DATA_DATA
  | GLB_ID_PART | GLB_ID_STEPPING | GLB_ID_DIES | GLB_SERIAL_SERIAL | GLB_IRQ_STATUS_SRC
  | GLB_IRQ_EN_HOST | GLB_IRQ_STW_STW | GLB_IRQ_VEC_VEC3 | GLB_IRQ_VEC_VEC2 | GLB_IRQ_VEC_VEC1
  | GLB_IRQ_VEC_VEC0 | GLB_IRQ_ROUTE_LOST | GLB_IRQ_ROUTE_PREF
deriving DecidableEq, Repr

end Sys2Proof.Machine
end

