-- ==== Sys2Proof/Machine/State.lean ====
section
/-! DEFINITION. The state of the part: every register field, memory, image bank, queue, table, engine job and message that
the spec gives it, as plain data, and the state after reset. -/
namespace Sys2Proof.Machine

/-! ### Identity and fuses -/

/-- The family members of the scope chapter (R1). -/
inductive Member where
  | a8 | a4 | a2
deriving DecidableEq, Repr

/-- What is fixed in one part: its member, what it is fitted with and what its fuses held when it was made. -/
structure Ident where
  /-- The family member. -/
  member : Member
  /-- GLB_ID.STEPPING (R495). -/
  stepping : Nat
  /-- The Device Serial Number (R495). -/
  serial : Nat
  /-- 96 GiB devices, not 48 GiB ones (R174, R485). -/
  dev96 : Bool
  /-- MAC addresses of the management ports (R416). -/
  macA : Nat
  macB : Nat
  /-- The SEAL_PREF strap: 0 half W, 1 half E (R409). -/
  sealPref : Nat
  /-- Fuses of R453 and R466: PROD, FIRST_DONE, owner slots revoked and enrolled, vendor keys revoked, SVN count. -/
  prod : Nat
  firstDone : Nat
  ownRev : Nat
  ownEnr : Nat
  venRev : Nat
  svn : Nat
deriving DecidableEq, Repr

/-! ### Registers -/

/-- The key of one register field: the field, the unit that holds it (a core, cluster, die, ledger die or engine number;
0 for a block of which there is one) and the index in a register array. -/
structure FKey where
  f : Field
  u : Nat
  i : Nat
deriving DecidableEq, Repr

/-! ### Structure images -/

/-- What a bank holds of an image: its epoch (0 when the bank is empty), the variant it was loaded under, its job tag and
the sections of its unit by type (R29, R34). -/
structure Image where
  epoch : Nat
  variant : Nat
  tag : List Byte
  secs : KMap Nat (List Byte)
deriving DecidableEq, Repr

/-- An empty bank (R30). -/
def Image.empty : Image := ⟨0, 0, [], []⟩

/-- The STR agent and arbiter (chapter 03). -/
structure StrSt where
  /-- Active and pending bank of each image unit; an unlisted unit's bank is empty (R29). -/
  active : KMap Nat Image
  pendingBank : KMap Nat Image
  /-- The bank a unit still runs descriptors started before B under, until it is released (R44). -/
  oldBank : KMap Nat Image
  /-- The pending image's digest, the OFFSET of each of its sections, its load address and its length; address and length of the last
  committed image (R38, R50, R519). -/
  pendDigest : List Byte
  secOff : KMap Nat Nat
  pendAddr : Nat
  pendLen : Nat
  lastAddr : Nat
  lastLen : Nat
  /-- The accepted commit: beat B, LEAD, scope and variant (R42). -/
  commitB : Nat
  commitLead : Nat
  commitScope : Nat
  commitVariant : Nat
  /-- An abort has been decided for the commit (R43, R47, R50). -/
  aborted : Bool
  /-- ABANDON was seen before the cutoff (R46). -/
  abandonReq : Bool
  /-- The cutoff of the accepted commit has been made (R43). -/
  cutDone : Bool
  /-- COMMIT_READY messages held: device, B, epoch (R47); the own one has been sent. -/
  ready : List (Nat × Nat × Nat)
  readySent : Bool
  /-- The bank parity: it changes at every image switch (R44). -/
  parity : Nat
  /-- Whether an image has been committed since reset, and the values that RWL registers have in effect from then on; and
  the values that they held when STR_PREPARE.GO was last written (R4, R5, R39). -/
  committedOnce : Bool
  prepOpen : Bool
  rwlEff : KMap FKey Nat
  rwlSaved : KMap FKey Nat
  /-- Units fenced at a switch until they are reset (R49). -/
  fenced : List Nat
  /-- The carve that the last switch replaced, for requests that carry the old bank parity (R44, R184). -/
  prevCarve : Image
  /-- Dies whose units lost both banks to a reset in PREPARED or COMMITTING (R50). -/
  banksLost : List Nat
  /-- A commit has been aborted since the units armed or a commit was accepted: a deferred rotation may begin (R50). -/
  abortSince : Bool
deriving DecidableEq, Repr

/-- After a reset both banks of every unit are empty (R30) (DESIGN CHOICE, log entry 2). -/
def StrSt.init : StrSt :=
  ⟨[], [], [], [], [], 0, 0, 0, 0, 0, 0, 0, 0, false, false, false, [], false, 0, false, false, [], [], [], Image.empty, [], false⟩

/-! ### Beat -/

/-- One delay request that a master holds: the count it reports and the master's own count at its arrival (R63). -/
structure DelayReport where
  dev : Nat
  count : Nat
  own : Nat
deriving DecidableEq, Repr

/-- The beat logic (chapter 04). -/
structure BeatSt where
  /-- Edges that have passed: what the loss counts of R64, R65 and R410 count, whatever the beat count does. -/
  edges : Nat
  /-- The edge at which the last beat frame from the master came, and the beat and wall time that frame carried (R56, R64). -/
  lastOwn : Nat
  lastBeat : Nat
  lastWall : Nat
  /-- A beat frame has been received since cold reset (R56). -/
  everFrame : Bool
  /-- The master that a follower has acquired or acquires (R55); the beat from which a candidate's right to become master counts; a
  master that is to become a follower at its next beat-frame beat. -/
  master : Option Nat
  since : Nat
  demote : Bool
  /-- Alignment (R63): edges for which the follower holds its count, beats by which it moves its count at the next edge, whether it has
  acted on a master that is behind, and whether it slews into alignment. -/
  hold : Option Nat
  adopt : Option Nat
  behind : Bool
  slewing : Bool
  /-- A period change that a master announces or a follower expects: period and its beat (R57). -/
  pendPeriod : Option (Nat × Nat)
  /-- Delay requests received since the previous beat-frame beat (R63). -/
  reports : List DelayReport
  /-- Delay of the link of each fabric port that was measured, in 1/16 ns, and the edge of the last request on it since it came up (R61). -/
  delay : KMap Nat Int
  delayAt : KMap Nat Nat
  /-- Own count and edge at the last heartbeat or beat frame of each peer, or those that its loss count runs from (R65). -/
  heard : KMap Nat (Nat × Nat)
  /-- Peers declared lost; time-master candidates declared lost (R55, R65). -/
  lostPeers : List Nat
  lostCands : List Nat
  /-- The excess of R62 is logged until the offset is back within limits. -/
  alignLogged : Bool
  /-- Beat at which the active template's image was committed (R68). -/
  tplBeat : Nat
  /-- Nanoseconds from the deassertion of PERST_N to the last edge (R56). -/
  coldNs : Nat
  /-- Beats whose scheduled actions were passed over by a step of the count (R63). -/
  passedFrom : Option Nat
  /-- The first edge since the cold reset has come (R58); while passed-over actions fire, the beat at which they do (R63). -/
  started : Bool
  stamp : Option Nat
deriving DecidableEq, Repr

/-- The beat logic after a cold reset (R58) (DESIGN CHOICE, log entry 2). -/
def BeatSt.init : BeatSt :=
  ⟨0, 0, 0, 0, false, none, 0, false, none, none, false, false, none, [], [], [], [], [], [], false, 0, 0, none, false, none⟩

/-! ### The trouble log -/

/-- A log entry (R471). -/
structure Entry where
  beat : Nat
  wall : Nat
  source : Nat
  code : Nat
  sev : Nat
  rep : Nat
  payload : List Byte
deriving DecidableEq, Repr

/-- The trouble log (chapter 24). -/
structure LogSt where
  /-- Entries that the ring holds, by number, and the previous segment with its number and entries where it is kept. -/
  ring : KMap Nat Entry
  oldSeg : Option (Nat × Nat × KMap Nat Entry)
  /-- Events on TC0 on their way to the log hub, each with the half that sent it (R468). -/
  flight : List (Nat × Entry)
  /-- Intake of the hub that holds the log, or of both hubs while no half has held the seal (R468, R470). -/
  intake : List (Nat × Entry)
  /-- Whether a half has held the seal since cold reset, so that a log exists (R470). -/
  started : Bool
  /-- Discards not yet reported: count, first and last beat (R476, R483). -/
  dropCount : Nat
  dropFirst : Nat
  dropLast : Nat
deriving DecidableEq, Repr

/-! ### Cores -/

/-- A descriptor that its tidy core has issued and that has not completed. -/
structure Held where
  seq : Nat
  kind : Nat
  qid : Nat
  mb : Nat
  /-- The number of its packet, counted by its core. -/
  pkt : Nat
  /-- The beat at which it was issued (R44). -/
  beat : Nat
  d : Desc
deriving DecidableEq, Repr

/-- What a tidy core's issue waits for (R153, R154, R159). -/
inductive Wait where
  | none
  /-- A wait-beat: OPEN, BEAT, PHASE, STEP. -/
  | beat (opens : Bool) (b phase step : Nat)
  /-- A fence: its sequence number, drain mask, counter use, counter, VALUE, TIMEOUT, and the beat it began. -/
  | fence (seq drain : Nat) (useCtr : Bool) (ctr value timeout start : Nat)
  /-- The switch wait of R159. -/
  | switch
deriving DecidableEq, Repr

/-- A signal that waits for its drain (R153). -/
structure PendSig where
  seq : Nat
  drain : Nat
  target : Nat
  ctr : Nat
  inc : Nat
deriving DecidableEq, Repr

/-- A packet whose rest is being discarded (R155): whether EV_CMD_DROP is due, the class refused, queue, MB and the items
discarded so far. -/
structure Drop where
  ev : Bool
  cls : Nat
  qid : Nat
  mb : Nat
  items : Nat
deriving DecidableEq, Repr

/-- An access of accumulator memory that waits for a tile (R126): who, offset, whether it writes, the bytes (of a read, their number), and how
many descriptors its core had issued when it came. -/
structure AccWait where
  who : Agent
  off : Nat
  write : Bool
  data : List Byte
  seq : Nat
deriving DecidableEq, Repr

/-- A tidy core (chapter 08). -/
structure CoreSt where
  /-- Integer registers x0 to x31 and descriptor registers D0 to D7 (R140). -/
  x : KMap Nat Word
  dreg : KMap Nat Desc
  /-- Issued descriptors that have not completed, oldest first; the next sequence number; completed counts by kind. -/
  held : List Held
  seq : Nat
  done : KMap Nat Nat
  wait : Wait
  sigs : List PendSig
  dropping : Option Drop
  /-- A TD.ISSUE that stalls while its unit is full: rd and Dn (R140). -/
  stall : Option (Nat × Nat)
  /-- The binding that the current packet comes from, whether a packet is open, and its MB (R157). -/
  bind : Nat
  /-- The scheduler has chosen that binding's next packet, at this level (R159, R300). -/
  chosen : Bool
  level : Nat
  inPacket : Bool
  packetMb : Nat
  /-- The number of the current packet; packets that have been refused, kept while descriptors of theirs are held (R155, R165). -/
  pkt : Nat
  badPkts : List Nat
  /-- The template instance that the current step named with OPEN = 1, and whether it opened late (R69, R158). -/
  stepInst : Option Nat
  stepLate : Bool
  /-- Steered descriptors that wait on a stale row (R107). -/
  steerWait : List Desc
  /-- Accesses of accumulator memory that wait for a tile, in arrival order (R126). -/
  accWait : List AccWait
  /-- Accumulator save slots: slot, with the micro-batch and the tile mask saved there (R160). -/
  saved : KMap Nat (Nat × Nat)
  /-- Halted by a freeze or by the reference monitor (R370, R421). -/
  halted : Bool
deriving DecidableEq, Repr

/-- A core at reset (DESIGN CHOICE, log entry 2). -/
def CoreSt.init : CoreSt :=
  ⟨[], [], [], 0, [], .none, [], none, none, 0, false, 0, false, 0xffff, 0, [], none, false, [], [], [], false⟩

/-! ### Steering and tallies -/

/-- A tally slot (R102): counts and AMAX as an FP32 code. -/
structure Tally where
  sat : Nat := 0
  under : Nat := 0
  nonfin : Nat := 0
  amax : Nat := 0
deriving DecidableEq, Repr

/-- A role block of a steering row (R104). -/
structure RoleBlk where
  fmt : Nat
  rung : Nat
  margin : Nat
  hold : Nat
  clean : Nat
  satFlag : Nat
  coarse : Nat
  winSat : Nat
  sat : Nat
  under : Nat
  nonfin : Nat
  amax : KMap Nat Nat
deriving DecidableEq, Repr

/-- A steering row (R104), with whether an update has written it since its seeding (R107). -/
structure SteerRow where
  layer : Nat
  lastStep : Nat
  head : Nat
  fill : Nat
  act : RoleBlk
  grad : RoleBlk
  updated : Bool
deriving DecidableEq, Repr

def RoleBlk.init : RoleBlk := ⟨0, 0, 0, 0, 0, 0, 0, 0, 0, 0, 0, []⟩
/-- An unused row (R104). -/
def SteerRow.init : SteerRow := ⟨0xffff, 0, 0, 0, RoleBlk.init, RoleBlk.init, false⟩

/-- What a steering cache keeps of a row beside FMT and COARSE (R107). -/
structure CacheRow where
  lastStep : Nat
  updated : Bool
deriving DecidableEq, Repr

/-- A compute die's controller: tallies by 2 x row + role, steering-cache rows, and a spare rotation in progress. -/
structure DieSt where
  tally : KMap Nat Tally
  cache : KMap Nat CacheRow
  /-- A rotation: source q, destination p, the logical cluster that moves, and whether the copy has been made (R21). -/
  rot : Option (Nat × Nat × Nat × Bool)
  /-- The beat of the rotation slot at which the last rotation began. -/
  rotBeat : Option Nat
  /-- Clusters that failed while a rotation of others was under way: their loss is handled once it has ended (R25), oldest first. -/
  lossWait : List Nat
  /-- The map of a new image waits for the rotation under way to end (R70). -/
  mapDue : Bool
deriving DecidableEq, Repr

/-- A die at reset (DESIGN CHOICE, log entry 2). -/
def DieSt.init : DieSt := ⟨[], [], none, none, [], false⟩

/-! ### Queues (chapter 15) -/

/-- The hubs' queue logic: QIDs in each hub's cache, newest first (R293); the queues that are enabled; operations that wait
for a packet boundary: the QUE_OP operation (OP, QID, MASK), and queues that a commit disables with the cause (R305, R308);
queues whose reader still has the rest of a packet to discard, as it is published, with the packet's level (R155, R305, R308). -/
structure QueSt where
  cache : KMap Nat (List Nat)
  on : List Nat
  waiting : Option (Nat × Nat × Nat)
  dueOff : List (Nat × Nat)
  drop : KMap Nat Nat
deriving DecidableEq, Repr
/-! ### The fabric (chapter 16) -/

/-- The link layer of one port (R313 to R317). -/
structure PortSt where
  /-- Packets that wait, by class, oldest first; the packet that spans frames now, with its granules sent. -/
  txq : KMap Nat (List Packet)
  part : Option (Packet × Nat)
  /-- TC0 packets whose second copy is due, each with the lane of the first (R316). -/
  copies : List (Packet × Nat)
  /-- Next SEQ, frames not acknowledged (oldest first), and frames to resend. -/
  seq : Nat
  replay : List Frame
  resend : List Frame
  /-- Lanes that hold lock, in use or not; a change of lanes that is not agreed yet: the SEQ from which the new ones are used, and whether
  the partner's word on it has come (R317). -/
  healthy : Nat
  change : Option (Nat × Bool)
  /-- Next SEQ expected in order, frames that came before it, whether a frame was lost and its replay has not come, a NAK that is due,
  frames from the expected one on whose TC0 packets have been taken, and credits to return, by class. -/
  expect : Nat
  ahead : List Frame
  lost : Bool
  nak : Bool
  seen : List Nat
  owed : KMap Nat Nat
  /-- Granules that may be sent, by class (R315). -/
  credits : KMap Nat Nat
  /-- The packet of TC1 to TC3 that arrives over several frames, with its granules received. -/
  rx : Option (Packet × Nat)
  /-- Tokens of the shaper in bytes, whether the head message has been counted as delayed, the class served last, and by class what open
  windows owe it in 1/1,024 granules (R322). -/
  bucket : Nat
  shaped : Bool
  rr : Nat
  share : KMap Nat Int
  /-- Consecutive uncorrectable frames by lane, and the corrected symbols of each lane within the last 2^20 beats: beat and number, newest
  first (R317). -/
  bad : KMap Nat Nat
  corr : KMap Nat (List (Nat × Nat))
deriving DecidableEq, Repr

/-- A port at reset (DESIGN CHOICE, log entry 2). -/
def PortSt.init : PortSt := ⟨[], none, [], 0, [], [], 0, none, 0, [], false, false, [], [], [], none, 2048, false, 3, [], [], []⟩

/-- The fabric layers. -/
structure FabSt where
  ports : KMap Nat PortSt
  /-- Fibre-attach blocks (one per optical engine) that are not latched (R515). -/
  unlatched : List Nat
  /-- The part is a failed device to the fabric (R521). -/
  failed : Bool
  /-- Next SSEQ to send by destination and class, next to perform by source and class, and packets that arrived early
  (R319, R320). -/
  txSseq : KMap (Nat × Nat) Nat
  rxSseq : KMap (Nat × Nat) Nat
  early : List Packet
  /-- The beat of the last EV_FAB_TC0_LATE of each source (R326). -/
  lateAt : KMap Nat Nat
  /-- The next message ID (R323), and the IDs of TC0 messages taken, each with its source, newest first (R316). -/
  nextMid : Nat
  taken : List (Nat × Nat)
deriving DecidableEq, Repr

/-- The fabric at reset (DESIGN CHOICE, log entry 2). -/
def FabSt.init : FabSt := ⟨[], [], false, [], [], [], [], 0, []⟩
/-! ### Escrow and recovery (chapter 18) -/

/-- A failure freeze that the part holds: sender, send beat, cause, lost device or cluster (R369). -/
structure Freeze where
  dev : Nat
  b : Nat
  cause : Nat
  lost : Nat
deriving DecidableEq, Repr

/-- What waits for the escrow's memory (R189): the opening, a delta or the close of a step that a partner receives, a part of a fill, or an
operation of ESC_CTL with its TARGET. -/
inductive EscIn where
  | opening (dev step base : Nat) (man : List Byte)
  | delta (dev k part tile : Nat) (recs : List Byte)
  | close (dev step : Nat) (blk : List Byte)
  | fill (dev sec off : Nat) (bs : List Byte)
  | op (op target : Nat)
deriving DecidableEq, Repr

/-- The escrow engine. -/
structure EscSt where
  /-- Freezes held since the last thaw, oldest first; F while it has not been reached; the thaw beat that is scheduled. -/
  freezes : List Freeze
  freezeAt : Option Nat
  thawAt : Option Nat
  /-- SEALED messages held: device, step, send beat (R368). -/
  seals : List (Nat × Nat × Nat)
  /-- The partner has sent NEED_FULL since the last cut (R364). -/
  needFull : Bool
  /-- The escrow step opened last (R364). -/
  opened : Option Nat
  /-- The partner side: the filling bank, the step and base of the stream that it accepts, whether the stream is refused up to CLOSE, and
  the byte ranges of entry images that have been written (offset, length), by deltas and by captured weights. -/
  filling : Option Nat
  inStep : Nat
  inBase : Nat
  ignoring : Bool
  deltas : List (Nat × Nat)
  captured : List (Nat × Nat)
  /-- The state block that CLOSE carried, while the digests are due (R365). -/
  closing : Option (List Byte)
  /-- The TARGET of a RECEIVE that is under way; header, state block and bytes of entry images that it has received. -/
  receiving : Option Nat
  fillHdr : List Byte
  fillBlock : List Byte
  fillGot : Nat
  /-- Headers are to be read again at the next commit, after a warm reset (R377). -/
  reread : Bool
  /-- A round has run since the last commit (R375). -/
  ranRound : Bool
  /-- Escrow areas as the last commit left them: the ESC registers, section 0x0007 and the kind-4 regions (R377). -/
  areaKey : List Byte
  /-- The target that a SERVE filled last, for EV_ESC_FILL_RESTART (R377). -/
  lastFill : Option Nat
  /-- What waits for the escrow's memory, in order (R189). -/
  waits : List EscIn
deriving DecidableEq, Repr

/-- The escrow at reset (DESIGN CHOICE, log entry 2). -/
def EscSt.init : EscSt :=
  ⟨[], none, none, [], false, none, none, 0, 0, false, [], [], none, none, [], [], 0, false, false, [], none, []⟩
/-! ### Clocks and power (chapter 21) -/

/-- An access to memory that waits: who, DA, kind (0 read, 1 write, 2 FetchAdd, 3 Swap, 4 CAS), and data, a read's length in zeros, or an
atomic's operand and swap value; for a request at a ledger die (R180), whether it carries the old bank parity, what the array holds, and the
link corrections; for a request from the fabric, its packet. -/
structure WaitAcc where
  who : Agent
  da : Nat
  kind : Nat
  data : List Byte
  req : Option (Bool × Nat × Nat)
  pkt : Option Packet
deriving DecidableEq, Repr

/-- The clock controller and the power-state controller. -/
structure ClkSt where
  /-- Nodes that hold a gate (R424). -/
  gates : List Nat
  /-- Clusters that Q1 has clock-gated (R427). -/
  q1 : List Nat
  /-- Engines, ledger dies and fabric are halted until a warm or cold reset: a reference fault (R421), or a third cluster
  lost on one die (R24). -/
  stopped : Bool
  /-- The beat at which the fallback clock was taken. -/
  fallBeat : Nat
  /-- The power state that an entry in progress leads to, the cause of an exit in progress, and a wake trigger that came
  during an entry (R429, R430, R433). -/
  entering : Option Nat
  exiting : Option Nat
  wake : Option Nat
  /-- The beat at which the current state was entered. -/
  enteredAt : Nat
  /-- Accesses to memory that wait, oldest first: a host's for the exit from a power state (R430), any for a device that calibrates or is in
  self-refresh (R186, R189) or for a rotation copy (R487). -/
  waitAcc : List WaitAcc
  /-- Register accesses of a host that wait for the exit from a power state (R430), oldest first: who, DA, size, and a write's value. -/
  waitReg : List (Agent × Nat × Nat × Option Word)
  /-- CAP_MHZ or THERM_MHZ has fallen below 2,100 and not returned (R432), and the wall time of the last EV_PWR_FLOOR. -/
  capLow : Bool
  thermLow : Bool
  floorAt : Option Nat
deriving DecidableEq, Repr

/-- The clocks at reset (DESIGN CHOICE, log entry 2). -/
def ClkSt.init : ClkSt := ⟨[], [], false, 0, none, none, none, 0, [], [], false, false, none⟩

/-! ### Resets, start-up and tests (chapter 22) -/

/-- The reset unit and the test unit. -/
structure RstSt where
  /-- The test request that is outstanding: kind and target (R447), whether it runs, and when it was taken, in ns since the deassertion
  of PERST_N. -/
  test : Option (Nat × Nat)
  running : Bool
  since : Nat
  /-- EV_TEST_DEFER has been logged for it (R448). -/
  deferred : Bool
  /-- Dies in reset, by die index (R440). -/
  inReset : List Nat
  /-- Halves whose firmware is verified, and those whose Bursar has booted, since the last whole-part reset (R441). -/
  verified : List Nat
  booted : List Nat
  /-- The boot-store slot that each half's ROM has loaded, 0 A and 1 B, and the halves in which slot A has failed (R443). -/
  loaded : KMap Nat Nat
  /-- LPDDR6 is usable again, and the start-up test has ended, since the last whole-part reset. -/
  lpOk : Bool
  tested : Bool
  /-- Devices whose LPDDR6 channels a calibration has under way, by device, with the beat it began (R186). -/
  cal : List (Nat × Nat)
  /-- Beats at which each device was calibrated last under the reset structure (R186). -/
  calAt : KMap Nat Nat
  /-- A scheduled calibration of RST_TEST_OP waits for its window. -/
  calWait : Option Nat
  /-- Scrub position of each ledger die (R179). -/
  scrub : KMap Nat Nat
deriving DecidableEq, Repr

/-- The reset block at reset (DESIGN CHOICE, log entry 2). -/
def RstSt.init : RstSt := ⟨none, false, 0, false, [], [], [], [], false, false, [], [], none, []⟩
/-! ### Stook and husk (chapter 10) -/

/-- An encode into the stook that is being written: its key, mode, what stays reserved for it and the record bytes (R199). -/
structure EncRun where
  core : Nat
  d : Desc
  mb : Nat
  block : Nat
  mode : Nat
  reserved : Nat
  bytes : Nat
deriving DecidableEq, Repr

/-- An action of R203 taken in a forward pass: blocks affected, the first of them, free chunks at the decision (R206). -/
structure FwdAct where
  act : Nat
  count : Nat
  first : Nat
  free : Nat
deriving DecidableEq, Repr

/-- A micro-batch's forward pass on a die in which an action was taken (R203). -/
structure Fwd where
  mb : Nat
  lossy : Bool
  b0 : Option Nat
  acts : List FwdAct
deriving DecidableEq, Repr

/-- The stook logic of a ledger die. The directory and the link table are in memory (R198). -/
structure StookSt where
  /-- Place of the directory in force, and the stook and region entries it was set up for (R209). -/
  dir : Option Nat
  key : List Byte
  resetSince : Bool
  /-- Free chunks, ascending; encodes being written; encodes in arrival order that wait, each with whether it has been counted
  as stalled; decodes from the stook in progress, each with whether its entry was dropped. -/
  free : List Nat
  runs : List EncRun
  line : List (Nat × Desc × Bool)
  reads : List (Nat × Desc × Bool)
  fwd : List Fwd
  /-- HSK_CTL.CLEAR waits for these husk descriptors (core and words), which the husk held when it was written (R210). -/
  clearing : Option (List (Nat × Desc))
deriving DecidableEq, Repr

/-- A stook at reset (DESIGN CHOICE, log entry 2). -/
def StookSt.init : StookSt := ⟨none, [], false, [], [], [], [], [], none⟩
/-! ### The window unit (chapter 11) -/

/-- An output element of a row that is being computed: its ACC52 code, the groups with a sticky bit and the ties they decided, and in a
maximum the greatest value so far (R120, R136, R223). -/
structure WinPart where
  code : Nat
  sticky : List Nat
  ties : Nat
  best : Option Num
deriving DecidableEq, Repr

/-- A cluster's window unit. A stripe is its number, its core and its descriptor. -/
structure WinSt where
  gather : List (Nat × Nat × Desc)
  run : List (Nat × Nat × Desc)
  /-- Lines loaded and retired by each stripe (R225), tiles that it has computed (its two tiles alternate, R215), and stripes
  that wait for a neighbour's load or for halo credit (R226). -/
  loaded : KMap Nat Nat
  retired : KMap Nat Nat
  tiles : KMap Nat Nat
  waiting : List Nat
  lastRow : Nat
  /-- The line slots: by stripe and slot, the stripe's columns of the line (R214, R225); the sums of each stripe's row as they stand. -/
  slots : KMap (Nat × Nat) (List Byte)
  part : KMap Nat (List WinPart)
  /-- The stochastic-rounding key and the step that each stripe's engine latched at its start (R93, R154). -/
  sr : KMap Nat (Nat × Nat)
  /-- Convolutions that have ended refused while stripes of them have not come: what their descriptors share, and the stripes that have
  (R227). -/
  dead : List (Nat × List Nat)
deriving DecidableEq, Repr

/-- A window unit at reset (DESIGN CHOICE, log entry 2). -/
def WinSt.init : WinSt := ⟨[], [], [], [], [], [], 0, [], [], [], []⟩
/-! ### The KV cache (chapter 12) -/

/-- One bushel of a gather: its VB, the first token in it, the number of tokens and the first row (R238). -/
structure KvItem where
  vb : Nat
  tok : Nat
  n : Nat
  row : Nat
deriving DecidableEq, Repr

/-- A gather that runs in a KV walker, or a glean in a glean unit: its epoch (R246), the length of its sequence, the bushels still
to come, the translations that walks have brought, a glean's scores by VB as FP32 codes, and an expanding gather's groups with a sticky bit
(R136). -/
structure KvJob where
  core : Nat
  d : Desc
  epoch : Nat
  len : Nat
  items : List KvItem
  got : KMap Nat Nat
  scores : List (Nat × Nat)
  sticky : List Nat
deriving DecidableEq, Repr

/-- A cluster's KV walker and glean unit: the look-aside buffer, most recent first (SEQ, VB, bushel); walks under way, each with
whether it will fill the buffer (R237); and whether a write of KVW_BOP was not executed since the last read of KVW_BOP_RES (R248). -/
structure KvwSt where
  lab : List (Nat × Nat × Nat)
  walks : List (Nat × Nat × Bool)
  gather : Option KvJob
  glean : Option KvJob
  bopBusy : Bool
deriving DecidableEq, Repr

/-- A KV walker at reset (DESIGN CHOICE, log entry 2). -/
def KvwSt.init : KvwSt := ⟨[], [], none, none, false⟩

/-- A bushel operation: OP, the cluster of its KVW block, SEQ, VB and ARG (R244). -/
structure BOp where
  op : Nat
  clu : Nat
  seq : Nat
  vb : Nat
  arg : Nat
deriving DecidableEq, Repr

/-- A MAP or UNMAP that is not done yet (R244). -/
structure BopWait where
  op : BOp
  walkers : List Nat
  release : Option Nat
  cow : Nat
  count : Nat
  bushel : Nat
deriving DecidableEq, Repr

/-- The bushel manager (R233 to R246). The free list and the reclaim queue are chained through the descriptors in memory. -/
structure KvSt where
  /-- The pool is valid; header and region entry that it was taken with; a reset since; the pool of the active image has been
  looked at since its commit. -/
  valid : Bool
  key : List Byte
  resetSince : Bool
  taken : Bool
  freeHead : Nat
  freeCount : Nat
  recHead : Nat
  recTail : Nat
  /-- The walker floor formed at the last edge (R246). -/
  floor : Nat
  /-- A MAP or UNMAP that waits for acknowledgements from the walkers named, with the bushel that it then releases and its result (COW, COUNT,
  BUSHEL), and operations that wait. -/
  cur : Option BopWait
  ops : List BOp
deriving DecidableEq, Repr

/-- The KV pool at reset (DESIGN CHOICE, log entry 2). -/
def KvSt.init : KvSt := ⟨false, [], false, true, 0x1fffffff, 0, 0x1fffffff, 0x1fffffff, 0, none, []⟩
/-! ### The parameter update (chapter 14) -/

/-- An update descriptor that a ledger die holds: its core, the beat of its issue, and its words. -/
structure UpdItem where
  core : Nat
  beat : Nat
  d : Desc
deriving DecidableEq, Repr

/-- A record of the update journal (R285): STATE, COPIED, ENTRY, CHUNK, P1_NEW, P2_NEW, RATIO and DESC, with the bank that the
layer runs under (its EPOCH is the record's), the keys latched at the commit point (R289), NaN weights written and the count of
saturated ones. -/
structure JRec where
  state : Nat
  copied : Bool
  entry : Nat
  chunk : Nat
  p1 : Nat
  p2 : Nat
  ratio : Nat
  item : UpdItem
  img : Image
  key : Nat
  nans : Nat
  /-- The mask bitmap as the layer's write phase read it (R278). -/
  mask : List Byte
deriving DecidableEq, Repr

/-- A rule-3 partial of a layer of a step: first group of the sub-tree, its size, and the ACC52 sums of w² and d² (R277). -/
structure NormPart where
  layer : Nat
  step : Nat
  leaf : Nat
  size : Nat
  wn : Nat
  dn : Nat
deriving DecidableEq, Repr

/-- The update engine of a ledger die. -/
structure UpdSt where
  /-- Descriptors that have not been checked, in arrival order. -/
  queue : List UpdItem
  /-- Steps whose descriptors have come and whose rounds have not ended, in order, with the update selection that each goes by (R281,
  R289). -/
  order : List (Nat × List Byte)
  /-- Phase of the round: 0 none, 1 check, 2 decision, 3 write, 4 rolling forward; its step; its update selection; its flag. -/
  phase : Nat
  step : Nat
  sec : List Byte
  flag : Bool
  /-- Descriptors refused: their step, and their entry if they have one (R272). -/
  bad : List (Nat × Option Nat)
  /-- The journal: records in arrival order, and the copy area. -/
  recs : List JRec
  copy : List Byte
  /-- The ranges (DA, bytes) of the layer in its write phase, with the image that places them: requests of others wait (R286). -/
  lock : Option (Image × List (Nat × Nat))
  parts : List NormPart
  /-- The round is stopped until CLEAR (R288, R289). -/
  stop : Bool
  /-- Non-finite gradients seen in the round, and the first layer that had one. -/
  nonfin : Nat
  firstLayer : Option Nat
  /-- The step of the last round that completed. -/
  doneStep : Option Nat
  /-- How each entry of that round ended: written, or SKIPPED (R283). -/
  ended : List (Nat × Bool)
deriving DecidableEq, Repr

/-- An update engine at reset (DESIGN CHOICE, log entry 2). -/
def UpdSt.init : UpdSt := ⟨[], [], 0, 0, [], false, [], [], [], none, [], false, 0, none, none, []⟩

/-- The skip collector (R282, R287): flags of ledger dies (die, step, flag) and of devices; the job flag of the step decided
last. -/
structure SkipSt where
  flags : List (Nat × Nat × Bool)
  devs : List (Nat × Nat × Bool)
  kept : Option (Nat × Bool)
deriving DecidableEq, Repr

/-- The skip logic at reset (DESIGN CHOICE, log entry 2). -/
def SkipSt.init : SkipSt := ⟨[], [], none⟩
/-! ### Collectives (chapters 16 and 17) -/

/-- A collective that has started: its core, the beat of its issue and its words; the reduction partials held of the own shard (first
leaf, size, first element, ACC52 codes) (R329); bytes received; whether the own shard has been reduced; barrier arrivals (device or
member, send beat) (R331); ranks of the members whose tallies have come (R103). -/
structure CollRun where
  core : Nat
  beat : Nat
  d : Desc
  parts : List (Nat × Nat × Nat × List Nat)
  got : Nat
  reduced : Bool
  arrived : List (Nat × Nat)
  tallied : List Nat
deriving DecidableEq, Repr

/-- An arrival of a re-shard (R353, R355): device, group, phase (0 drain, 1 commit), send beat, plan digest, outcome of the check. -/
structure RshArrival where
  dev : Nat
  group : Nat
  phase : Nat
  beat : Nat
  digest : List Byte
  ok : Bool
deriving DecidableEq, Repr

/-- A re-shard on this member (R353 to R356): its permute; the arrivals held;
slots granted (slot, block, bytes received); grants that have arrived as a source; blocks sent,
blocks acknowledged and blocks committed. -/
structure ReshardSt where
  core : Nat
  beat : Nat
  d : Desc
  old : Nat
  /-- Collectives that the part had issued before it and that had not completed (R353). -/
  before : List (Nat × Desc)
  arrivals : List RshArrival
  sentDrain : Bool
  slots : List (Nat × Nat × Nat)
  grants : List Nat
  sent : List Nat
  acked : List Nat
  done : List Nat
  /-- Bytes that wait for memory on their way to a slot (R189): plan block, offset, and the bytes; none for a block of this member's own. -/
  stash : List (Nat × Nat × Option (List Byte))
deriving DecidableEq, Repr

/-- The collective engine: collectives in progress, packets and barrier arrivals (device, group, tensor ID, beat) that came before their
descriptor, the re-shard, and re-shard arrivals before its issue. -/
structure CollSt where
  runs : List CollRun
  kept : List Packet
  bars : List (Nat × Nat × Nat × Nat)
  rsh : Option ReshardSt
  rshEarly : List RshArrival
deriving DecidableEq, Repr

/-- The collective unit at reset (DESIGN CHOICE, log entry 2). -/
def CollSt.init : CollSt := ⟨[], [], [], none, []⟩

/-! ### Codec engines (chapter 19) -/

/-- The mark record of a frame buffer (R387). -/
structure VceMark where
  ref : Bool
  long : Bool
  held : Bool
  order : Nat
  frame : Nat
  /-- Its place among the stream's pictures as they came: a decode's frame number, an encode's place in display order. -/
  place : Nat
deriving DecidableEq, Repr

/-- An open stream (R386): its context header and where the context lies; what it has decoded, or its source pictures with their flags;
the pictures numbered so far; the marks of its buffers; whether it has carried a live frame; the beat of its last EV_VCE_LATE; and
whether it ends at the next frame boundary (R396). -/
structure VceStream where
  ctx : List Byte
  ctxDa : Nat
  hist : List (List Byte)
  srcs : List (List Byte × Nat)
  frames : Nat
  marks : KMap Nat VceMark
  live : Bool
  lateAt : Option Nat
  ending : Bool
deriving DecidableEq, Repr

/-- What the completion record of R385 says: STATUS, BUF, FRAME_NO, ORDER, BYTES and ERR_BLOCKS; with the cause of a concealment, and what
an overflow needed. -/
structure VceRec where
  status : Nat
  buf : Nat
  frame : Nat
  order : Nat
  bytes : Nat
  errs : Nat
  cause : Nat
deriving DecidableEq, Repr

/-- The frame in progress: its item and queue, the beat it was taken, whether it waits for a free buffer (R394), its record, the buffers
it filled with order and frame number, the frames kept and shown, and the luma samples and frames to count. -/
structure VceJob where
  qid : Nat
  d : Desc
  start : Nat
  waiting : Bool
  rec_ : VceRec
  pics : List (Nat × Nat × Nat)
  keep : List (Nat × Bool)
  shown : List Nat
  coded : Nat
  /-- Frame numbers that pictures get now, by place. -/
  nums : List (Nat × Nat)
  /-- Its requests wait for memory, so that it has not run yet (R396). -/
  stuck : Bool
deriving DecidableEq, Repr

/-- A codec engine: its open streams by slot and the frame in progress. -/
structure VceSt where
  streams : KMap Nat VceStream
  job : Option VceJob
deriving DecidableEq, Repr

/-- A codec engine at reset (DESIGN CHOICE, log entry 2). -/
def VceSt.init : VceSt := ⟨[], none⟩

/-! ### LPDDR6 (chapter 09) -/

/-- Link corrections of a channel (R176): those of the last 2^20 beats with their beats, newest first, and when EV_MEM_LINK was logged last. -/
structure LinkCount where
  recent : List (Nat × Nat)
  loggedAt : Option Nat
deriving DecidableEq, Repr

/-- Rate limits of the ledger dies' events, by ledger die and channel: the beat of the last EV_MEM_CE (R178), and link corrections. -/
structure LpSt where
  ceAt : KMap (Nat × Nat) Nat
  link : KMap (Nat × Nat) LinkCount
deriving DecidableEq, Repr

/-! ### Host links, management, the seal (chapter 20) -/

/-- A handover (R411): the half that takes, whether the host started it, the beat of the OFFER, whether the taker has received it, the beat of
the ACCEPT that it sent, and the handover beat H as the holder and as the taker know it. -/
structure SealOffer where
  taker : Nat
  byHost : Bool
  since : Nat
  got : Bool
  accepted : Option Nat
  h : Option Nat
  takerH : Option Nat
  /-- The holder has withdrawn the offer (R411). -/
  withdrawn : Bool
deriving DecidableEq, Repr

/-- A dispute (R412): its declaration beat D, both SEQ values, and once it is decided the resolution beat R, the winner, and the link of the
grant that decided it, if one did. -/
structure SealDispute where
  d : Nat
  seqW : Nat
  seqE : Nat
  r : Option Nat
  winner : Nat
  grant : Option Nat
  /-- The freeze has reached its effective beat D + 4 (R50). -/
  felt : Bool
deriving DecidableEq, Repr

/-- The seal units. -/
structure SealSt where
  /-- Each half whose seal unit takes itself to hold the seal, with its SEQ. -/
  holds : List (Nat × Nat)
  /-- Halves that have received the other unit's claim since the last whole-part reset (R409). -/
  seen : List Nat
  /-- Halves that have claimed under R409 since then. -/
  claimed : List Nat
  /-- The edge of the last seal heartbeat that each half has received, or from which its count runs (R410). -/
  heard : KMap Nat Nat
  offer : Option SealOffer
  dispute : Option SealDispute
  /-- The wall time at which the last whole-part reset began (R409). -/
  origin : Nat
  /-- TC0 messages that a dispute's freeze holds (R412): to other devices, oldest first, and inside the package. -/
  heldOut : List (Nat × Msg)
  heldPkg : List Msg
deriving DecidableEq, Repr

/-- The seal at reset (DESIGN CHOICE, log entry 2). -/
def SealSt.init : SealSt := ⟨[], [], [], [], none, none, 0, [], []⟩

/-- The functions of the host links (R401): the base that the host gave each BAR, and log2 of the size of BAR2. -/
structure HstSt where
  bars : KMap (Nat × Nat) Nat
  bar2 : KMap Nat Nat
deriving DecidableEq, Repr

/-! ### Security (chapter 23) -/

/-- The roots of trust and the boot stores. -/
structure SecSt where
  /-- Fused digests of the vendor keys and of the owner slots, and the identity idSeed (R453). -/
  venDig : KMap Nat (List Byte)
  ownDig : KMap Nat (List Byte)
  idSeed : List Byte
  /-- Boot stores, by half and slot (0 A, 1 B); the key area with the owners' public keys and the certificate (R454, R455). -/
  slots : KMap (Nat × Nat) (List Byte)
  ownKey : KMap Nat (List Byte)
  cert : List Byte
  /-- M0 to M3 by register and half; an unlisted one is 32 zero bytes (R463). -/
  meas : KMap (Nat × Nat) (List Byte)
  /-- The firmware that booted: its vendor key and SVN (R459, R464). -/
  vkey : Nat
  fwSvn : Nat
deriving DecidableEq, Repr

/-- The security block at reset (DESIGN CHOICE, log entry 2). -/
def SecSt.init : SecSt := ⟨[], [], List.replicate 32 0, [], [], [], [], 0, 0⟩

/-! ### What the part sends -/

/-- What leaves the part, or one unit for another, as a command's effect (DESIGN CHOICE, log entry 4). -/
inductive Out where
  /-- A TC0 message to a device on the fabric. -/
  | tc0 (dst : Nat) (m : Msg)
  /-- A TC0 message inside the package (R324); the TC0 freeze of a seal dispute with its effective beat (R412). -/
  | pkg (m : Msg)
  | sealFreeze (beat : Nat)
  /-- A packet handed to the fabric layers for a port's link; a packet that has arrived and is handed on to the unit that handles it, whose
  own command is its effect (R316, R320). -/
  | packet (p : Packet)
  | deliver (p : Packet)
  /-- A transaction of a steward or an engine has completed: its tag, whether it was served, and the data (R320, R321). -/
  | txnDone (tag : Nat) (ok : Bool) (data : List Byte)
  /-- A link frame on a lane of a port (R313). -/
  | frame (port lane : Nat) (f : WireFrame)
  /-- An MSI-X message: link and vector (R498). -/
  | msix (link vec : Nat)
  /-- An interrupt to the in-charge steward complex, from a source of R496. -/
  | stwIrq (src : Nat)
  /-- The non-maskable event of a reference fault, to both complexes (R421). -/
  | stwNmi
  /-- A management reply: port, sequence number, and what it carries (R407). -/
  | mgtReply (port seq : Nat) (data : List Byte)
  /-- The delay request of the IEEE 1588 slave on a management port (R56). -/
  | ptpDelayReq (port : Nat)
  /-- An answer to ARP or IPv6 neighbour discovery: port and its MAC address (R406). -/
  | mgtNeighbour (port mac : Nat)
  /-- The level interrupt of a queue to the stewards (R304). -/
  | stwQueue (qid : Nat)
  /-- An item that a reader other than a tidy core has taken: reader kind and number, queue, item (R294, R300). -/
  | item (kind reader qid : Nat) (d : Desc)
  /-- Data or a completion that answers an access: not served where ok is false, and with data then when they are marked poisoned (R178). -/
  | answer (by_ : Agent) (ok : Bool) (data : List Byte)
deriving DecidableEq, Repr

/-! ### The state -/

/-- Why the machine stops with a fault. -/
inductive Fault where
  /-- A command names a unit (core, cluster, die, ledger die, hub, engine or port) that the part does not have. Raised by
  the guards of Machine/Ops.lean. Safe: the spec gives such a command no meaning, since the unit cannot act. -/
  | absentUnit
  /-- A descriptor or a packet is given to the row of another operation: its selector names an operation that has a row of
  its own. Safe: it has its meaning under that other row. -/
  | otherRow
deriving DecidableEq, Repr

/-- Why the machine gives no meaning to a command. -/
inductive Refusal where
  /-- The command has no meaning yet. Raised by Machine/Dispatch.lean only. Safe. -/
  | notModelled (mnemonic : String)
deriving DecidableEq, Repr

/-- The whole state of one part. -/
structure State where
  ident : Ident
  /-- Register fields that have been written; every other one holds its reset value (Machine/Regs.lean). -/
  flds : KMap FKey Nat
  /-- Memory by physical place (Machine/Mem.lean), and the blocks that are poisoned (R168, R177). -/
  mem : List Host.Cell
  poison : List Nat
  str : StrSt
  beat : BeatSt
  log : LogSt
  /-- Tidy cores by physical core ID. -/
  cores : KMap Nat CoreSt
  dies : KMap Nat DieSt
  /-- Format-steering tables of the ledger dies, by ledger die and row (R104). -/
  steer : KMap (Nat × Nat) SteerRow
  /-- Job-wide tally totals by 2 x row + role, until the row's update takes them (R103); the precision policy that the steering table was
  seeded under, while a table exists (R108). -/
  totals : KMap Nat Tally
  /-- This part's share of them that no reduce-scatter has carried to other parts yet. -/
  ownTot : KMap Nat Tally
  steerPol : Option (List Byte)
  /-- Update engines by ledger die, and the skip collector. -/
  upd : KMap Nat UpdSt
  skip : SkipSt
  que : QueSt
  fab : FabSt
  coll : CollSt
  esc : EscSt
  /-- Stook logic by ledger die. -/
  stook : KMap Nat StookSt
  /-- Window units by cluster (16 x die + physical cluster). -/
  win : KMap Nat WinSt
  /-- KV walkers and glean units by cluster, and the bushel manager. -/
  kvw : KMap Nat KvwSt
  kv : KvSt
  /-- Codec engines. -/
  vce : KMap Nat VceSt
  lp : LpSt
  stw : SealSt
  hst : HstSt
  sec : SecSt
  clk : ClkSt
  rst : RstSt
  /-- MSI-X tables by link and dword, and pending bits by link and vector (R493, R498). -/
  msixTab : KMap (Nat × Nat) Nat
  pba : KMap (Nat × Nat) Bool
  /-- What the part has sent, newest first. -/
  out : List Out
  /-- How many free values have been taken. -/
  free : Nat
  /-- The commands that are waiting, first in, first out. -/
  pending : List Instr
deriving DecidableEq, Repr

/-- The part that State.reset describes: an A8 with 96 GiB devices, every fuse unburnt and SEAL_PREF naming half W. DESIGN CHOICE (log entry 1):
the spec gives the values of no particular part (DESIGN CHOICE, log entry 1). -/
def Ident.a8 : Ident := ⟨.a8, 0, 0, true, 0, 0, 0, 0, 0, 0, 0, 0, 0⟩

/-- A part after a cold reset (R4, R30, R58, R438): every register at its reset value, banks and queues empty, no log yet. The first four free
values are SEC_CHALLENGE (DESIGN CHOICE, log entry 1). -/
def State.cold (ident : Ident) : State :=
  { ident := ident, flds := [], mem := [], poison := [], str := StrSt.init, beat := BeatSt.init
    log := ⟨[], none, [], [], false, 0, 0, 0⟩, cores := [], dies := [], steer := [], totals := [], ownTot := [], steerPol := none
    upd := [], skip := SkipSt.init, que := ⟨[], [], none, [], []⟩, fab := FabSt.init, coll := CollSt.init, esc := EscSt.init
    stook := [], win := [], kvw := [], kv := KvSt.init, vce := [], lp := ⟨[], []⟩, stw := SealSt.init, hst := ⟨[], []⟩
    sec := SecSt.init, clk := ClkSt.init, rst := RstSt.init, msixTab := [], pba := [], out := [], free := 4, pending := [] }

/-- The machine right after reset: a cold reset, nothing commanded yet (R437) (DESIGN CHOICE, log entry 1). -/
def State.reset : State := State.cold Ident.a8

abbrev Res := Host.Outcome State Fault Refusal

end Sys2Proof.Machine
end

