-- ==== Sys2Proof/Machine/Regs.lean ====
section
/-! DEFINITION. The register table: where each register lies in its block, which fields it holds, and each field's bits,
access type (R4) and reset value, from the register tables of spec/ (the rule is named beside each register). -/
namespace Sys2Proof.Machine

/-- A field's place in its register, its access type and its reset value where that is one number. -/
structure FieldRow where
  hi : Nat
  lo : Nat
  acc : Access
  reset : Nat
deriving DecidableEq, Repr

/-- A register's block, its offset there, how many registers the name stands for (8 bytes apart) and its fields. -/
structure RegRow where
  block : Block
  off : Nat
  count : Nat
  fields : List Field
deriving DecidableEq, Repr

/-- Bits, access type and reset value of each field. A reset value that depends on the part (identification, fuses, the
power cap, the interrupt vectors) stands here as 0 and is given by Field.reset. -/
def Field.row : Field → FieldRow
  -- DCTL_CLMAP (R27)
  | .DCTL_CLMAP_SPARE => ⟨51, 48, .ro, 0xC⟩
  | .DCTL_CLMAP_LOG => ⟨47, 0, .ro, 0xBA9876543210⟩
  -- DCTL_CLSTAT (R27)
  | .DCTL_CLSTAT_ROT_COUNT => ⟨47, 32, .ro, 0⟩
  | .DCTL_CLSTAT_LOST => ⟨28, 16, .ro, 0⟩
  | .DCTL_CLSTAT_FILL => ⟨4, 4, .ro, 0⟩
  | .DCTL_CLSTAT_STATE => ⟨3, 0, .ro, 0⟩
  -- STR_LOAD_ADDR (R52)
  | .STR_LOAD_ADDR_ADDR => ⟨41, 12, .rw, 0⟩
  -- STR_LOAD_LEN (R52)
  | .STR_LOAD_LEN_LEN => ⟨26, 0, .rw, 0⟩
  -- STR_PREPARE (R52)
  | .STR_PREPARE_ABANDON => ⟨1, 1, .wo, 0⟩
  | .STR_PREPARE_GO => ⟨0, 0, .wo, 0⟩
  -- STR_COMMIT_BEAT (R52)
  | .STR_COMMIT_BEAT_BEAT => ⟨63, 0, .rw, 0⟩
  -- STR_COMMIT (R52)
  | .STR_COMMIT_LEAD => ⟨23, 16, .wo, 0⟩
  | .STR_COMMIT_VARIANT => ⟨9, 8, .wo, 0⟩
  | .STR_COMMIT_SCOPE => ⟨1, 1, .wo, 0⟩
  | .STR_COMMIT_GO => ⟨0, 0, .wo, 0⟩
  -- STR_STATUS (R52)
  | .STR_STATUS_REFUSE => ⟨47, 40, .ro, 0⟩
  | .STR_STATUS_LAST => ⟨35, 32, .ro, 0⟩
  | .STR_STATUS_MISSING => ⟨31, 16, .ro, 0⟩
  | .STR_STATUS_GROUP_READY => ⟨8, 8, .ro, 0⟩
  | .STR_STATUS_STATE => ⟨3, 0, .ro, 0⟩
  -- STR_REFUSE_INFO (R52)
  | .STR_REFUSE_INFO_UNIT => ⟨55, 48, .ro, 0⟩
  | .STR_REFUSE_INFO_SECTION => ⟨47, 32, .ro, 0⟩
  | .STR_REFUSE_INFO_OFFSET => ⟨31, 0, .ro, 0⟩
  -- STR_EPOCH (R52)
  | .STR_EPOCH_ACTIVE => ⟨63, 32, .ro, 0⟩
  | .STR_EPOCH_PENDING => ⟨31, 0, .ro, 0⟩
  -- STR_ARMED (R52)
  | .STR_ARMED_UNITS => ⟨63, 0, .ro, 0⟩
  -- STR_FENCED (R52)
  | .STR_FENCED_UNITS => ⟨63, 0, .ro, 0⟩
  -- STR_ACTIVE_DIGEST (R52)
  | .STR_ACTIVE_DIGEST_DIGEST => ⟨63, 0, .ro, 0⟩
  -- BEAT_CFG (R72)
  | .BEAT_CFG_PERIOD => ⟨48, 32, .rwl, 0x00400⟩
  | .BEAT_CFG_MGT_PORT => ⟨4, 4, .rwl, 0⟩
  | .BEAT_CFG_SRC => ⟨2, 0, .rwl, 0⟩
  -- BEAT_NOW (R72)
  | .BEAT_NOW_COUNT => ⟨63, 0, .ro, 0⟩
  -- BEAT_PHASE (R72)
  | .BEAT_PHASE_CYCLES => ⟨17, 0, .ro, 0⟩
  -- BEAT_STATUS (R72)
  | .BEAT_STATUS_PERIOD => ⟨48, 32, .ro, 0x00400⟩
  | .BEAT_STATUS_MASTER => ⟨31, 16, .ro, 0⟩
  | .BEAT_STATUS_RANK => ⟨9, 8, .ro, 0⟩
  | .BEAT_STATUS_STATE => ⟨3, 0, .ro, 0⟩
  -- BEAT_OFFSET (R72)
  | .BEAT_OFFSET_OFFSET => ⟨31, 0, .ro, 0⟩
  -- BEAT_TPL (R72)
  | .BEAT_TPL_INSTANCE => ⟨63, 32, .ro, 0⟩
  | .BEAT_TPL_OFFSET => ⟨31, 0, .ro, 0⟩
  -- BEAT_ORIGIN (R72)
  | .BEAT_ORIGIN_WALL => ⟨63, 0, .rwl, 0⟩
  -- BEAT_WALL (R72)
  | .BEAT_WALL_WALL => ⟨63, 0, .ro, 0⟩
  -- VEC_SRKEY (R93)
  | .VEC_SRKEY_KEY_HI => ⟨63, 32, .rw, 0⟩
  | .VEC_SRKEY_KEY_LO => ⟨31, 0, .rw, 0⟩
  -- DCTL_TALLY_UNMAP0 (R111)
  | .DCTL_TALLY_UNMAP0_NONFIN => ⟨63, 32, .rw, 0⟩
  | .DCTL_TALLY_UNMAP0_SAT => ⟨31, 0, .rw, 0⟩
  -- DCTL_TALLY_UNMAP1 (R111)
  | .DCTL_TALLY_UNMAP1_UNDER => ⟨31, 0, .rw, 0⟩
  -- DCTL_STEER_STAT (R111)
  | .DCTL_STEER_STAT_LAST_STEP => ⟨63, 32, .ro, 0⟩
  | .DCTL_STEER_STAT_SAT_HIGH => ⟨31, 16, .ro, 0⟩
  | .DCTL_STEER_STAT_WAITS => ⟨15, 0, .ro, 0⟩
  -- MXE_STATUS (R136)
  | .MXE_STATUS_TILE_BUSY => ⟨47, 32, .ro, 0⟩
  | .MXE_STATUS_REFUSED => ⟨31, 16, .ro, 0⟩
  | .MXE_STATUS_HELD => ⟨2, 0, .ro, 0⟩
  -- MXE_GROUPS (R136)
  | .MXE_GROUPS_COUNT => ⟨63, 0, .rw, 0⟩
  -- MXE_STICKY (R136)
  | .MXE_STICKY_TIES => ⟨63, 32, .rw, 0⟩
  | .MXE_STICKY_GROUPS => ⟨31, 0, .rw, 0⟩
  -- MXE_STALL (R136)
  | .MXE_STALL_ACCMEM => ⟨63, 32, .rw, 0⟩
  | .MXE_STALL_HAZARD => ⟨31, 0, .rw, 0⟩
  -- MXE_MASKED (R136)
  | .MXE_MASKED_TILES => ⟨63, 32, .rw, 0⟩
  | .MXE_MASKED_ROWS => ⟨31, 0, .rw, 0⟩
  -- TDY_CFG (R165)
  | .TDY_CFG_SWITCH_WAIT => ⟨15, 8, .rw, 0x08⟩
  | .TDY_CFG_SWITCH_EN => ⟨1, 1, .rw, 0⟩
  | .TDY_CFG_AUTO => ⟨0, 0, .rw, 1⟩
  -- TDY_STATUS (R165)
  | .TDY_STATUS_CUR_MB => ⟨63, 48, .ro, 0xFFFF⟩
  | .TDY_STATUS_DROPPED => ⟨47, 32, .ro, 0⟩
  | .TDY_STATUS_TILE_LIVE => ⟨31, 16, .ro, 0⟩
  | .TDY_STATUS_STATE => ⟨2, 0, .ro, 0⟩
  -- TDY_STEP (R165)
  | .TDY_STEP_STEP => ⟨31, 0, .ro, 0⟩
  -- TDY_SAVE (R165)
  | .TDY_SAVE_BASE => ⟨42, 12, .rw, 0⟩
  | .TDY_SAVE_SLOTS => ⟨6, 0, .rw, 0⟩
  -- TDY_SWITCH (R165)
  | .TDY_SWITCH_SWITCHES => ⟨63, 32, .rw, 0⟩
  | .TDY_SWITCH_CYCLES => ⟨31, 0, .rw, 0⟩
  -- TDY_QBIND (R165)
  | .TDY_QBIND_VALID => ⟨20, 20, .rw, 0⟩
  | .TDY_QBIND_QID => ⟨19, 0, .rw, 0⟩
  -- TDY_SIG (R165)
  | .TDY_SIG_COUNT => ⟨31, 0, .rw, 0⟩
  -- LDG_CFG (R190)
  | .LDG_CFG_SCRUB_H => ⟨15, 8, .rws, 0x18⟩
  | .LDG_CFG_RATE => ⟨3, 0, .rws, 0x5⟩
  -- LDG_STATUS (R190)
  | .LDG_STATUS_CH_FENCED => ⟨39, 16, .ro, 0⟩
  | .LDG_STATUS_DEV_TYPE => ⟨11, 8, .ro, 0⟩
  | .LDG_STATUS_STATE => ⟨2, 0, .ro, 0⟩
  -- LDG_ECC (R190)
  | .LDG_ECC_UE => ⟨63, 32, .rw, 0⟩
  | .LDG_ECC_CE => ⟨31, 0, .rw, 0⟩
  -- LDG_ECC_ADDR (R190)
  | .LDG_ECC_ADDR_VALID => ⟨63, 63, .w1c, 0⟩
  | .LDG_ECC_ADDR_ADDR => ⟨42, 0, .ro, 0⟩
  -- LDG_LINK (R190)
  | .LDG_LINK_WRITE => ⟨63, 32, .rw, 0⟩
  | .LDG_LINK_READ => ⟨31, 0, .rw, 0⟩
  -- LDG_CAL (R190)
  | .LDG_CAL_RETRY => ⟨39, 16, .ro, 0⟩
  | .LDG_CAL_COUNT => ⟨15, 0, .ro, 0⟩
  -- HSK_STOOK (R211)
  | .HSK_STOOK_RESERVED => ⟨59, 40, .ro, 0⟩
  | .HSK_STOOK_USED => ⟨39, 20, .ro, 0⟩
  | .HSK_STOOK_FREE => ⟨19, 0, .ro, 0⟩
  -- HSK_STATUS (R211)
  | .HSK_STATUS_STORED => ⟨63, 48, .ro, 0⟩
  | .HSK_STATUS_DROPPED => ⟨47, 32, .ro, 0⟩
  | .HSK_STATUS_STALLED => ⟨23, 16, .ro, 0⟩
  | .HSK_STATUS_TIGHT => ⟨2, 2, .ro, 0⟩
  | .HSK_STATUS_ACTIVE => ⟨1, 1, .ro, 0⟩
  | .HSK_STATUS_BUSY => ⟨0, 0, .ro, 0⟩
  -- HSK_CTL (R211)
  | .HSK_CTL_CLEAR => ⟨0, 0, .wo, 0⟩
  -- HSK_ENC_IN (R211)
  | .HSK_ENC_IN_COUNT => ⟨63, 0, .rw, 0⟩
  -- HSK_ENC_OUT (R211)
  | .HSK_ENC_OUT_COUNT => ⟨63, 0, .rw, 0⟩
  -- HSK_FULL (R211)
  | .HSK_FULL_LOSSY => ⟨63, 48, .rw, 0⟩
  | .HSK_FULL_DROPS => ⟨47, 32, .rw, 0⟩
  | .HSK_FULL_STALLS => ⟨31, 16, .rw, 0⟩
  -- WIN_STATUS (R229)
  | .WIN_STATUS_REFUSED => ⟨39, 32, .ro, 0⟩
  | .WIN_STATUS_HELD => ⟨23, 16, .ro, 0⟩
  | .WIN_STATUS_DONE => ⟨15, 8, .ro, 0⟩
  | .WIN_STATUS_GATHERING => ⟨1, 1, .ro, 0⟩
  | .WIN_STATUS_RUNNING => ⟨0, 0, .ro, 0⟩
  -- WIN_CTL (R229)
  | .WIN_CTL_CANCEL => ⟨0, 0, .wo, 0⟩
  -- WIN_PADSKIP (R229)
  | .WIN_PADSKIP_COUNT => ⟨63, 0, .rw, 0⟩
  -- WIN_HALO_STALL (R229)
  | .WIN_HALO_STALL_READ => ⟨63, 32, .rw, 0⟩
  | .WIN_HALO_STALL_RETIRE => ⟨31, 0, .rw, 0⟩
  -- WIN_CREDIT (R229)
  | .WIN_CREDIT_CREDIT => ⟨55, 0, .ro, 0⟩
  -- KVW_STATUS (R248)
  | .KVW_STATUS_HELD_EPOCH => ⟨63, 32, .ro, 0⟩
  | .KVW_STATUS_REFUSED => ⟨23, 16, .ro, 0⟩
  | .KVW_STATUS_WALKS => ⟨11, 8, .ro, 0⟩
  | .KVW_STATUS_POOL => ⟨1, 1, .ro, 0⟩
  | .KVW_STATUS_BUSY => ⟨0, 0, .ro, 0⟩
  -- KVW_LAB (R248)
  | .KVW_LAB_MISS => ⟨63, 32, .rw, 0⟩
  | .KVW_LAB_HIT => ⟨31, 0, .rw, 0⟩
  -- KVW_CTL (R248)
  | .KVW_CTL_FLUSH => ⟨0, 0, .wo, 0⟩
  -- KVW_BOP (R248)
  | .KVW_BOP_OP => ⟨63, 60, .wo, 0⟩
  | .KVW_BOP_SEQ => ⟨47, 28, .wo, 0⟩
  | .KVW_BOP_VB => ⟨27, 0, .wo, 0⟩
  -- KVW_BOP_ARG (R248)
  | .KVW_BOP_ARG_VALUE => ⟨33, 0, .rw, 0⟩
  -- KVW_BOP_RES (R248)
  | .KVW_BOP_RES_DONE => ⟨63, 63, .ro, 0⟩
  | .KVW_BOP_RES_STATUS => ⟨55, 52, .ro, 0⟩
  | .KVW_BOP_RES_COW => ⟨48, 48, .ro, 0⟩
  | .KVW_BOP_RES_COUNT => ⟨47, 32, .ro, 0⟩
  | .KVW_BOP_RES_BUSHEL => ⟨28, 0, .ro, 0⟩
  -- GLN_CFG (R249)
  | .GLN_CFG_SCORE => ⟨0, 0, .rw, 0⟩
  -- GLN_STATUS (R249)
  | .GLN_STATUS_SCORED => ⟨63, 32, .rw, 0⟩
  | .GLN_STATUS_REFUSED => ⟨31, 16, .ro, 0⟩
  | .GLN_STATUS_BUSY => ⟨0, 0, .ro, 0⟩
  -- DCTL_STEER_ENT (R263)
  | .DCTL_STEER_ENT_COARSE => ⟨63, 32, .ro, 0⟩
  | .DCTL_STEER_ENT_FMT => ⟨3, 0, .ro, 0⟩
  -- UPD_STATUS (R290)
  | .UPD_STATUS_ROUND_STEP => ⟨63, 32, .ro, 0⟩
  | .UPD_STATUS_HELD => ⟨31, 20, .ro, 0⟩
  | .UPD_STATUS_TORN => ⟨16, 16, .rws, 0⟩
  | .UPD_STATUS_STATE => ⟨2, 0, .ro, 0⟩
  -- UPD_SKIP_COUNT (R290)
  | .UPD_SKIP_COUNT_COUNT => ⟨31, 0, .rws, 0⟩
  -- UPD_CTL (R290)
  | .UPD_CTL_CLEAR => ⟨0, 0, .wo, 0⟩
  -- UPD_STAT (R290)
  | .UPD_STAT_NAN_OUT => ⟨63, 32, .rw, 0⟩
  | .UPD_STAT_SAT => ⟨31, 0, .rw, 0⟩
  -- UPD_LAST (R290)
  | .UPD_LAST_STEP => ⟨63, 32, .rws, 0⟩
  | .UPD_LAST_LAYER => ⟨31, 16, .rws, 0⟩
  | .UPD_LAST_COMMITS => ⟨15, 0, .rws, 0⟩
  -- UPD_SRKEY (R290)
  | .UPD_SRKEY_KEY_HI => ⟨63, 32, .rw, 0⟩
  | .UPD_SRKEY_KEY_LO => ⟨31, 0, .rw, 0⟩
  -- QUE_OP (R309)
  | .QUE_OP_OP => ⟨63, 60, .wo, 0⟩
  | .QUE_OP_FORCE => ⟨59, 59, .wo, 0⟩
  | .QUE_OP_MASK => ⟨55, 48, .wo, 0⟩
  | .QUE_OP_QID => ⟨19, 0, .wo, 0⟩
  -- QUE_OP_ARG (R309)
  | .QUE_OP_ARG_LEVEL => ⟨19, 0, .rw, 0⟩
  -- QUE_OP_RES (R309)
  | .QUE_OP_RES_DONE => ⟨63, 63, .ro, 0⟩
  | .QUE_OP_RES_STATUS => ⟨55, 52, .ro, 0⟩
  | .QUE_OP_RES_OCC => ⟨20, 0, .ro, 0⟩
  -- QUE_CACHE (R309)
  | .QUE_CACHE_MISS => ⟨63, 32, .rw, 0⟩
  | .QUE_CACHE_HIT => ⟨31, 0, .rw, 0⟩
  -- QUE_STATUS (R309)
  | .QUE_STATUS_TABLE => ⟨32, 32, .ro, 0⟩
  | .QUE_STATUS_ENABLED => ⟨20, 0, .ro, 0⟩
  -- FAB_ID (R337)
  | .FAB_ID_NPEER => ⟨23, 16, .ro, 0⟩
  | .FAB_ID_DEVICE => ⟨15, 0, .ro, 0⟩
  -- FAB_TC0 (R337)
  | .FAB_TC0_SHAPED => ⟨63, 32, .rw, 0⟩
  | .FAB_TC0_LATE => ⟨31, 16, .rw, 0⟩
  | .FAB_TC0_MAXLAT => ⟨15, 0, .rw, 0⟩
  -- FAB_TCBUF (R337)
  | .FAB_TCBUF_TC3 => ⟨14, 10, .rwl, 0x09⟩
  | .FAB_TCBUF_TC2 => ⟨9, 5, .rwl, 0x12⟩
  | .FAB_TCBUF_TC1 => ⟨4, 0, .rwl, 0x04⟩
  -- FAB_COLL (R337)
  | .FAB_COLL_REFUSED => ⟨63, 32, .rw, 0⟩
  | .FAB_COLL_EPOCH => ⟨31, 16, .rw, 0⟩
  | .FAB_COLL_RUNNING => ⟨15, 0, .ro, 0⟩
  -- FAB_PORT_CTL (R337)
  | .FAB_PORT_CTL_DISABLE => ⟨31, 16, .rw, 0⟩
  | .FAB_PORT_CTL_RETRAIN => ⟨15, 0, .wo, 0⟩
  -- FAB_PORT (R337)
  | .FAB_PORT_PEER => ⟨63, 48, .ro, 0⟩
  | .FAB_PORT_PEER_PORT => ⟨47, 44, .ro, 0⟩
  | .FAB_PORT_ACTIVE => ⟨43, 40, .ro, 0⟩
  | .FAB_PORT_DEGRADES => ⟨31, 16, .ro, 0⟩
  | .FAB_PORT_STATE => ⟨2, 0, .ro, 0⟩
  -- FAB_RETRY (R337)
  | .FAB_RETRY_UNCORR => ⟨63, 32, .rw, 0⟩
  | .FAB_RETRY_REPLAY => ⟨31, 0, .rw, 0⟩
  -- FAB_LAYOUT (R359)
  | .FAB_LAYOUT_PENDING => ⟨63, 32, .ro, 0⟩
  | .FAB_LAYOUT_CURRENT => ⟨31, 0, .rws, 0⟩
  -- FAB_RESHARD (R359)
  | .FAB_RESHARD_COMMITTED => ⟨63, 32, .ro, 0⟩
  | .FAB_RESHARD_GROUP => ⟨31, 16, .ro, 0⟩
  | .FAB_RESHARD_RESUMED => ⟨3, 3, .ro, 0⟩
  | .FAB_RESHARD_STATE => ⟨2, 0, .ro, 0⟩
  -- FAB_RESHARD_PROG (R359)
  | .FAB_RESHARD_PROG_ACKED => ⟨63, 32, .ro, 0⟩
  | .FAB_RESHARD_PROG_NEXT_DST => ⟨31, 0, .ro, 0⟩
  -- DCTL_FILL (R376)
  | .DCTL_FILL_DONE => ⟨0, 0, .wo, 0⟩
  -- ESC_CFG (R378)
  | .ESC_CFG_ENABLE => ⟨48, 48, .rwl, 0⟩
  | .ESC_CFG_GROUP => ⟨47, 32, .rwl, 0⟩
  | .ESC_CFG_SOURCE => ⟨31, 16, .rwl, 0⟩
  | .ESC_CFG_INTERVAL => ⟨8, 0, .rwl, 0⟩
  -- ESC_HOME (R378)
  | .ESC_HOME_BASE => ⟨42, 12, .rwl, 0⟩
  -- ESC_BANK (R378)
  | .ESC_BANK_BASE => ⟨42, 12, .rwl, 0⟩
  -- ESC_HOME_LEN (R378)
  | .ESC_HOME_LEN_LEN => ⟨39, 0, .rwl, 0⟩
  -- ESC_BANK_LEN (R378)
  | .ESC_BANK_LEN_LEN => ⟨39, 0, .rwl, 0⟩
  -- ESC_CURSOR (R378)
  | .ESC_CURSOR_VALUE => ⟨63, 0, .rw, 0⟩
  -- ESC_RNG (R378)
  | .ESC_RNG_VALUE => ⟨63, 0, .rw, 0⟩
  -- ESC_DRAWS (R378)
  | .ESC_DRAWS_DRAWS => ⟨31, 0, .rw, 0⟩
  -- ESC_CTL (R378)
  | .ESC_CTL_OP => ⟨63, 60, .wo, 0⟩
  | .ESC_CTL_TARGET => ⟨15, 0, .wo, 0⟩
  -- ESC_ARG (R378)
  | .ESC_ARG_BEAT => ⟨63, 0, .rw, 0⟩
  -- ESC_STATUS (R378)
  | .ESC_STATUS_HOME_STEP => ⟨63, 32, .ro, 0⟩
  | .ESC_STATUS_FROZEN => ⟨31, 31, .ro, 0⟩
  | .ESC_STATUS_DONE => ⟨30, 30, .ro, 0⟩
  | .ESC_STATUS_RESULT => ⟨29, 26, .ro, 0⟩
  | .ESC_STATUS_HOME => ⟨17, 16, .ro, 0⟩
  | .ESC_STATUS_BANK0 => ⟨15, 12, .ro, 0⟩
  | .ESC_STATUS_BANK1 => ⟨11, 8, .ro, 0⟩
  | .ESC_STATUS_OPEN => ⟨0, 0, .ro, 0⟩
  -- ESC_STEPS (R378)
  | .ESC_STEPS_HELD_STEP => ⟨63, 32, .ro, 0⟩
  | .ESC_STEPS_OPEN_STEP => ⟨31, 0, .ro, 0⟩
  -- ESC_FILL (R378)
  | .ESC_FILL_BYTES => ⟨63, 0, .ro, 0⟩
  -- ESC_DIGEST (R378)
  | .ESC_DIGEST_DIGEST => ⟨63, 0, .ro, 0⟩
  -- ESC_LIVE_DIGEST (R378)
  | .ESC_LIVE_DIGEST_DIGEST => ⟨63, 0, .ro, 0⟩
  -- ESC_FREEZE (R378)
  | .ESC_FREEZE_F => ⟨63, 0, .ro, 0⟩
  -- VCE_STATUS (R397)
  | .VCE_STATUS_OPEN => ⟨39, 32, .ro, 0⟩
  | .VCE_STATUS_REFUSED => ⟨31, 16, .ro, 0⟩
  | .VCE_STATUS_STATE => ⟨2, 0, .ro, 0⟩
  -- VCE_FRAMES (R397)
  | .VCE_FRAMES_ENCODED => ⟨63, 32, .rw, 0⟩
  | .VCE_FRAMES_DECODED => ⟨31, 0, .rw, 0⟩
  -- VCE_LATE (R397)
  | .VCE_LATE_WORST => ⟨63, 32, .rw, 0⟩
  | .VCE_LATE_FRAMES => ⟨31, 0, .rw, 0⟩
  -- VCE_PIXELS (R397)
  | .VCE_PIXELS_COUNT => ⟨63, 0, .rw, 0⟩
  -- VCE_QBIND (R397)
  | .VCE_QBIND_VALID => ⟨20, 20, .rw, 0⟩
  | .VCE_QBIND_QID => ⟨19, 0, .rw, 0⟩
  -- HST_LINKA (R414)
  | .HST_LINKA_FLR_COUNT => ⟨47, 32, .rws, 0⟩
  -- HST_LINKB (R414)
  | .HST_LINKB_FLR_COUNT => ⟨47, 32, .rws, 0⟩
  -- HST_LINKA (R414)
  | .HST_LINKA_RATE => ⟨11, 8, .ro, 0⟩
  -- HST_LINKB (R414)
  | .HST_LINKB_RATE => ⟨11, 8, .ro, 0⟩
  -- HST_LINKA (R414)
  | .HST_LINKA_WIDTH => ⟨7, 3, .ro, 0⟩
  -- HST_LINKB (R414)
  | .HST_LINKB_WIDTH => ⟨7, 3, .ro, 0⟩
  -- HST_LINKA (R414)
  | .HST_LINKA_FLIT => ⟨2, 2, .ro, 0⟩
  -- HST_LINKB (R414)
  | .HST_LINKB_FLIT => ⟨2, 2, .ro, 0⟩
  -- HST_LINKA (R414)
  | .HST_LINKA_DEGRADED => ⟨1, 1, .ro, 0⟩
  -- HST_LINKB (R414)
  | .HST_LINKB_DEGRADED => ⟨1, 1, .ro, 0⟩
  -- HST_LINKA (R414)
  | .HST_LINKA_UP => ⟨0, 0, .ro, 0⟩
  -- HST_LINKB (R414)
  | .HST_LINKB_UP => ⟨0, 0, .ro, 0⟩
  -- HST_BAR2 (R414)
  | .HST_BAR2_BASE => ⟨42, 12, .rw, 0⟩
  -- HST_SEAL_GRANT (R414)
  | .HST_SEAL_GRANT_HALF => ⟨0, 0, .wo, 0⟩
  -- STW_SEAL (R415)
  | .STW_SEAL_SEQ => ⟨63, 32, .ro, 0⟩
  | .STW_SEAL_GRANT_VALID => ⟨17, 17, .ro, 0⟩
  | .STW_SEAL_GRANT_HALF => ⟨16, 16, .ro, 0⟩
  | .STW_SEAL_PREF => ⟨8, 8, .ro, 0⟩
  | .STW_SEAL_STATE => ⟨3, 2, .ro, 0x3⟩
  | .STW_SEAL_HOLDER => ⟨0, 0, .ro, 0⟩
  -- STW_SEAL_CTL (R415)
  | .STW_SEAL_CTL_ACCEPT => ⟨1, 1, .wo, 0⟩
  | .STW_SEAL_CTL_OFFER => ⟨0, 0, .wo, 0⟩
  -- STW_STATUS (R415)
  | .STW_STATUS_HALF_E => ⟨15, 8, .ro, 0⟩
  | .STW_STATUS_HALF_W => ⟨7, 0, .ro, 0⟩
  -- MGT_CFGA (R416)
  | .MGT_CFGA_ENABLE => ⟨2, 2, .rws, 1⟩
  -- MGT_CFGB (R416)
  | .MGT_CFGB_ENABLE => ⟨2, 2, .rws, 1⟩
  -- MGT_CFGA (R416)
  | .MGT_CFGA_FEC => ⟨1, 0, .rws, 0⟩
  -- MGT_CFGB (R416)
  | .MGT_CFGB_FEC => ⟨1, 0, .rws, 0⟩
  -- MGT_MACA (R416)
  | .MGT_MACA_MAC => ⟨47, 0, .ro, 0⟩
  -- MGT_MACB (R416)
  | .MGT_MACB_MAC => ⟨47, 0, .ro, 0⟩
  -- MGT_STATUS (R416)
  | .MGT_STATUS_REQUESTS => ⟨63, 32, .rw, 0⟩
  | .MGT_STATUS_PTP_B => ⟨3, 3, .ro, 0⟩
  | .MGT_STATUS_PTP_A => ⟨2, 2, .ro, 0⟩
  | .MGT_STATUS_LINK_B => ⟨1, 1, .ro, 0⟩
  | .MGT_STATUS_LINK_A => ⟨0, 0, .ro, 0⟩
  -- CLK_STATUS (R434)
  | .CLK_STATUS_FALLBACK => ⟨1, 1, .ro, 0⟩
  | .CLK_STATUS_REF_OK => ⟨0, 0, .ro, 0⟩
  -- CLK_MON (R434)
  | .CLK_MON_CAL => ⟨63, 32, .ro, 0⟩
  | .CLK_MON_LAST => ⟨31, 16, .ro, 0⟩
  | .CLK_MON_FAULTS => ⟨15, 0, .ro, 0⟩
  -- CLK_GATE_OP (R434)
  | .CLK_GATE_OP_ACTION => ⟨63, 62, .wo, 0⟩
  | .CLK_GATE_OP_NODE => ⟨15, 0, .wo, 0⟩
  -- CLK_GATE_RES (R434)
  | .CLK_GATE_RES_DONE => ⟨63, 63, .ro, 0⟩
  | .CLK_GATE_RES_STATUS => ⟨19, 16, .ro, 0⟩
  | .CLK_GATE_RES_BLOCKER => ⟨15, 0, .ro, 0⟩
  -- CLK_DBG (R434)
  | .CLK_DBG_REFUSED => ⟨24, 24, .ro, 0⟩
  | .CLK_DBG_DIV => ⟨23, 8, .rw, 0x0001⟩
  | .CLK_DBG_SEL => ⟨7, 0, .rw, 0x00⟩
  -- PWR_LAT_TOL (R435)
  | .PWR_LAT_TOL_NS => ⟨39, 0, .rw, 0⟩
  -- PWR_LIVE_TOL (R435)
  | .PWR_LIVE_TOL_NS => ⟨39, 0, .rw, 0⟩
  -- PWR_CAP (R435)
  | .PWR_CAP_WATTS => ⟨11, 0, .rw, 0xBB8⟩
  -- PWR_STATE (R435)
  | .PWR_STATE_ENTRIES => ⟨63, 32, .ro, 0⟩
  | .PWR_STATE_EXIT_CAUSE => ⟨15, 12, .ro, 0⟩
  | .PWR_STATE_ALLOWED => ⟨11, 8, .ro, 0⟩
  | .PWR_STATE_CURRENT => ⟨2, 0, .ro, 0⟩
  -- PWR_CLOCK (R435)
  | .PWR_CLOCK_RUN_MHZ => ⟨47, 32, .ro, 0x0834⟩
  | .PWR_CLOCK_THERM_MHZ => ⟨31, 16, .ro, 0x0834⟩
  | .PWR_CLOCK_CAP_MHZ => ⟨15, 0, .ro, 0x0834⟩
  -- PWR_MEAS (R435)
  | .PWR_MEAS_TJ_MAX => ⟨39, 32, .ro, 0⟩
  | .PWR_MEAS_PKG => ⟨11, 0, .ro, 0⟩
  -- RST_CTL (R451)
  | .RST_CTL_KIND => ⟨63, 60, .wo, 0⟩
  | .RST_CTL_KEY => ⟨31, 16, .wo, 0⟩
  | .RST_CTL_CORE => ⟨15, 6, .wo, 0⟩
  | .RST_CTL_DIE => ⟨5, 0, .wo, 0⟩
  -- RST_STATUS (R451)
  | .RST_STATUS_FW_SLOT => ⟨18, 18, .ro, 0⟩
  | .RST_STATUS_LAST_KIND => ⟨17, 16, .ro, 0⟩
  | .RST_STATUS_CAUSE => ⟨15, 12, .ro, 0⟩
  | .RST_STATUS_STAGE => ⟨7, 4, .ro, 0⟩
  | .RST_STATUS_READY => ⟨0, 0, .ro, 0⟩
  -- RST_COUNT (R451)
  | .RST_COUNT_WARM => ⟨63, 32, .rws, 0⟩
  | .RST_COUNT_DIE => ⟨31, 16, .rws, 0⟩
  | .RST_COUNT_CORE => ⟨15, 0, .rws, 0⟩
  -- RST_BOOT (R451)
  | .RST_BOOT_FW_MS => ⟨63, 48, .ro, 0⟩
  | .RST_BOOT_LP_MS => ⟨47, 32, .ro, 0⟩
  | .RST_BOOT_BURSAR_MS => ⟨31, 16, .ro, 0⟩
  | .RST_BOOT_READY_MS => ⟨15, 0, .ro, 0⟩
  -- RST_TEST_OP (R451)
  | .RST_TEST_OP_KIND => ⟨63, 60, .wo, 0⟩
  | .RST_TEST_OP_CANCEL => ⟨59, 59, .wo, 0⟩
  | .RST_TEST_OP_TARGET => ⟨15, 0, .wo, 0⟩
  -- RST_TEST_RES (R451)
  | .RST_TEST_RES_DONE => ⟨63, 63, .ro, 0⟩
  | .RST_TEST_RES_PENDING => ⟨62, 62, .ro, 0⟩
  | .RST_TEST_RES_STATUS => ⟨55, 52, .ro, 0⟩
  | .RST_TEST_RES_TARGET => ⟨15, 0, .ro, 0⟩
  -- SEC_FUSE (R466)
  | .SEC_FUSE_PROD => ⟨13, 13, .ro, 0⟩
  | .SEC_FUSE_FIRST_DONE => ⟨12, 12, .ro, 0⟩
  | .SEC_FUSE_OWN_REV => ⟨11, 8, .ro, 0⟩
  | .SEC_FUSE_OWN_ENR => ⟨7, 4, .ro, 0⟩
  | .SEC_FUSE_VEN_REV => ⟨3, 0, .ro, 0⟩
  -- SEC_SVN (R466)
  | .SEC_SVN_SVN => ⟨6, 0, .ro, 0⟩
  -- SEC_OP (R466)
  | .SEC_OP_OP => ⟨63, 60, .wo, 0⟩
  -- SEC_OP_ADDR (R466)
  | .SEC_OP_ADDR_ADDR => ⟨42, 6, .rw, 0⟩
  -- SEC_OP_RES (R466)
  | .SEC_OP_RES_DONE => ⟨63, 63, .ro, 0⟩
  | .SEC_OP_RES_STATUS => ⟨55, 52, .ro, 0⟩
  | .SEC_OP_RES_LEN => ⟨12, 0, .ro, 0⟩
  -- SEC_CHALLENGE (R466)
  | .SEC_CHALLENGE_VALUE => ⟨63, 0, .ro, 0⟩
  -- SEC_NONCE (R466)
  | .SEC_NONCE_VALUE => ⟨63, 0, .rw, 0⟩
  -- LOG_SEQ (R481)
  | .LOG_SEQ_NEXT => ⟨63, 0, .ro, 0⟩
  -- LOG_STATUS (R481)
  | .LOG_STATUS_SEG => ⟨63, 48, .ro, 0⟩
  | .LOG_STATUS_DROPPED => ⟨47, 32, .rw, 0⟩
  | .LOG_STATUS_HUB => ⟨16, 16, .ro, 0⟩
  | .LOG_STATUS_INTAKE => ⟨12, 0, .ro, 0⟩
  -- LOG_OVER (R481)
  | .LOG_OVER_OVERWRITTEN => ⟨63, 0, .ro, 0⟩
  -- LOG_CFG (R481)
  | .LOG_CFG_IRQ_SEV => ⟨1, 0, .rws, 0x2⟩
  -- LOG_CURSOR (R481)
  | .LOG_CURSOR_SEG => ⟨63, 48, .rw, 0⟩
  | .LOG_CURSOR_SEQ => ⟨47, 2, .rw, 0⟩
  | .LOG_CURSOR_STATE => ⟨1, 0, .ro, 0⟩
  -- LOG_DATA (R481)
  | .LOG_DATA_DATA => ⟨63, 0, .ro, 0⟩
  -- GLB_ID (R495)
  | .GLB_ID_PART => ⟨63, 48, .ro, 0⟩
  | .GLB_ID_STEPPING => ⟨47, 40, .ro, 0⟩
  | .GLB_ID_DIES => ⟨39, 0, .ro, 0⟩
  -- GLB_SERIAL (R495)
  | .GLB_SERIAL_SERIAL => ⟨63, 0, .ro, 0⟩
  -- GLB_IRQ_STATUS (R499)
  | .GLB_IRQ_STATUS_SRC => ⟨11, 0, .w1c, 0⟩
  -- GLB_IRQ_EN (R499)
  | .GLB_IRQ_EN_HOST => ⟨11, 0, .rw, 0xFFF⟩
  -- GLB_IRQ_STW (R499)
  | .GLB_IRQ_STW_STW => ⟨11, 0, .rw, 0xFFF⟩
  -- GLB_IRQ_VEC (R499)
  | .GLB_IRQ_VEC_VEC3 => ⟨58, 48, .rw, 0⟩
  | .GLB_IRQ_VEC_VEC2 => ⟨42, 32, .rw, 0⟩
  | .GLB_IRQ_VEC_VEC1 => ⟨26, 16, .rw, 0⟩
  | .GLB_IRQ_VEC_VEC0 => ⟨10, 0, .rw, 0⟩
  -- GLB_IRQ_ROUTE (R499)
  | .GLB_IRQ_ROUTE_LOST => ⟨63, 32, .rw, 0⟩
  | .GLB_IRQ_ROUTE_PREF => ⟨0, 0, .rw, 0⟩

/-- Where each register lies and what it holds. -/
def Reg.row : Reg → RegRow
  | .DCTL_CLMAP => ⟨.DCTL, 0x0, 1, [.DCTL_CLMAP_SPARE, .DCTL_CLMAP_LOG]⟩
  | .DCTL_CLSTAT => ⟨.DCTL, 0x8, 1, [.DCTL_CLSTAT_ROT_COUNT, .DCTL_CLSTAT_LOST, .DCTL_CLSTAT_FILL, .DCTL_CLSTAT_STATE]⟩
  | .STR_LOAD_ADDR => ⟨.STR, 0x0, 1, [.STR_LOAD_ADDR_ADDR]⟩
  | .STR_LOAD_LEN => ⟨.STR, 0x8, 1, [.STR_LOAD_LEN_LEN]⟩
  | .STR_PREPARE => ⟨.STR, 0x10, 1, [.STR_PREPARE_ABANDON, .STR_PREPARE_GO]⟩
  | .STR_COMMIT_BEAT => ⟨.STR, 0x18, 1, [.STR_COMMIT_BEAT_BEAT]⟩
  | .STR_COMMIT => ⟨.STR, 0x20, 1, [.STR_COMMIT_LEAD, .STR_COMMIT_VARIANT, .STR_COMMIT_SCOPE, .STR_COMMIT_GO]⟩
  | .STR_STATUS => ⟨.STR, 0x28, 1, [.STR_STATUS_REFUSE, .STR_STATUS_LAST, .STR_STATUS_MISSING, .STR_STATUS_GROUP_READY, .STR_STATUS_STATE]⟩
  | .STR_REFUSE_INFO => ⟨.STR, 0x30, 1, [.STR_REFUSE_INFO_UNIT, .STR_REFUSE_INFO_SECTION, .STR_REFUSE_INFO_OFFSET]⟩
  | .STR_EPOCH => ⟨.STR, 0x38, 1, [.STR_EPOCH_ACTIVE, .STR_EPOCH_PENDING]⟩
  | .STR_ARMED => ⟨.STR, 0x40, 2, [.STR_ARMED_UNITS]⟩
  | .STR_FENCED => ⟨.STR, 0x50, 2, [.STR_FENCED_UNITS]⟩
  | .STR_ACTIVE_DIGEST => ⟨.STR, 0x60, 4, [.STR_ACTIVE_DIGEST_DIGEST]⟩
  | .BEAT_CFG => ⟨.BEAT, 0x0, 1, [.BEAT_CFG_PERIOD, .BEAT_CFG_MGT_PORT, .BEAT_CFG_SRC]⟩
  | .BEAT_NOW => ⟨.BEAT, 0x8, 1, [.BEAT_NOW_COUNT]⟩
  | .BEAT_PHASE => ⟨.BEAT, 0x10, 1, [.BEAT_PHASE_CYCLES]⟩
  | .BEAT_STATUS => ⟨.BEAT, 0x18, 1, [.BEAT_STATUS_PERIOD, .BEAT_STATUS_MASTER, .BEAT_STATUS_RANK, .BEAT_STATUS_STATE]⟩
  | .BEAT_OFFSET => ⟨.BEAT, 0x20, 1, [.BEAT_OFFSET_OFFSET]⟩
  | .BEAT_TPL => ⟨.BEAT, 0x28, 1, [.BEAT_TPL_INSTANCE, .BEAT_TPL_OFFSET]⟩
  | .BEAT_ORIGIN => ⟨.BEAT, 0x30, 1, [.BEAT_ORIGIN_WALL]⟩
  | .BEAT_WALL => ⟨.BEAT, 0x38, 1, [.BEAT_WALL_WALL]⟩
  | .VEC_SRKEY => ⟨.VEC, 0x100, 4, [.VEC_SRKEY_KEY_HI, .VEC_SRKEY_KEY_LO]⟩
  | .DCTL_TALLY_UNMAP0 => ⟨.DCTL, 0x100, 1, [.DCTL_TALLY_UNMAP0_NONFIN, .DCTL_TALLY_UNMAP0_SAT]⟩
  | .DCTL_TALLY_UNMAP1 => ⟨.DCTL, 0x108, 1, [.DCTL_TALLY_UNMAP1_UNDER]⟩
  | .DCTL_STEER_STAT => ⟨.DCTL, 0x110, 1, [.DCTL_STEER_STAT_LAST_STEP, .DCTL_STEER_STAT_SAT_HIGH, .DCTL_STEER_STAT_WAITS]⟩
  | .MXE_STATUS => ⟨.MXE, 0x0, 1, [.MXE_STATUS_TILE_BUSY, .MXE_STATUS_REFUSED, .MXE_STATUS_HELD]⟩
  | .MXE_GROUPS => ⟨.MXE, 0x8, 1, [.MXE_GROUPS_COUNT]⟩
  | .MXE_STICKY => ⟨.MXE, 0x10, 1, [.MXE_STICKY_TIES, .MXE_STICKY_GROUPS]⟩
  | .MXE_STALL => ⟨.MXE, 0x18, 1, [.MXE_STALL_ACCMEM, .MXE_STALL_HAZARD]⟩
  | .MXE_MASKED => ⟨.MXE, 0x20, 1, [.MXE_MASKED_TILES, .MXE_MASKED_ROWS]⟩
  | .TDY_CFG => ⟨.TDY, 0x0, 1, [.TDY_CFG_SWITCH_WAIT, .TDY_CFG_SWITCH_EN, .TDY_CFG_AUTO]⟩
  | .TDY_STATUS => ⟨.TDY, 0x8, 1, [.TDY_STATUS_CUR_MB, .TDY_STATUS_DROPPED, .TDY_STATUS_TILE_LIVE, .TDY_STATUS_STATE]⟩
  | .TDY_STEP => ⟨.TDY, 0x10, 1, [.TDY_STEP_STEP]⟩
  | .TDY_SAVE => ⟨.TDY, 0x18, 1, [.TDY_SAVE_BASE, .TDY_SAVE_SLOTS]⟩
  | .TDY_SWITCH => ⟨.TDY, 0x20, 1, [.TDY_SWITCH_SWITCHES, .TDY_SWITCH_CYCLES]⟩
  | .TDY_QBIND => ⟨.TDY, 0x100, 16, [.TDY_QBIND_VALID, .TDY_QBIND_QID]⟩
  | .TDY_SIG => ⟨.TDY, 0x200, 64, [.TDY_SIG_COUNT]⟩
  | .LDG_CFG => ⟨.LDG, 0x0, 1, [.LDG_CFG_SCRUB_H, .LDG_CFG_RATE]⟩
  | .LDG_STATUS => ⟨.LDG, 0x8, 1, [.LDG_STATUS_CH_FENCED, .LDG_STATUS_DEV_TYPE, .LDG_STATUS_STATE]⟩
  | .LDG_ECC => ⟨.LDG, 0x10, 1, [.LDG_ECC_UE, .LDG_ECC_CE]⟩
  | .LDG_ECC_ADDR => ⟨.LDG, 0x18, 1, [.LDG_ECC_ADDR_VALID, .LDG_ECC_ADDR_ADDR]⟩
  | .LDG_LINK => ⟨.LDG, 0x20, 1, [.LDG_LINK_WRITE, .LDG_LINK_READ]⟩
  | .LDG_CAL => ⟨.LDG, 0x28, 1, [.LDG_CAL_RETRY, .LDG_CAL_COUNT]⟩
  | .HSK_STOOK => ⟨.HSK, 0x0, 1, [.HSK_STOOK_RESERVED, .HSK_STOOK_USED, .HSK_STOOK_FREE]⟩
  | .HSK_STATUS => ⟨.HSK, 0x8, 1, [.HSK_STATUS_STORED, .HSK_STATUS_DROPPED, .HSK_STATUS_STALLED, .HSK_STATUS_TIGHT, .HSK_STATUS_ACTIVE, .HSK_STATUS_BUSY]⟩
  | .HSK_CTL => ⟨.HSK, 0x10, 1, [.HSK_CTL_CLEAR]⟩
  | .HSK_ENC_IN => ⟨.HSK, 0x18, 1, [.HSK_ENC_IN_COUNT]⟩
  | .HSK_ENC_OUT => ⟨.HSK, 0x20, 1, [.HSK_ENC_OUT_COUNT]⟩
  | .HSK_FULL => ⟨.HSK, 0x28, 1, [.HSK_FULL_LOSSY, .HSK_FULL_DROPS, .HSK_FULL_STALLS]⟩
  | .WIN_STATUS => ⟨.WIN, 0x0, 1, [.WIN_STATUS_REFUSED, .WIN_STATUS_HELD, .WIN_STATUS_DONE, .WIN_STATUS_GATHERING, .WIN_STATUS_RUNNING]⟩
  | .WIN_CTL => ⟨.WIN, 0x8, 1, [.WIN_CTL_CANCEL]⟩
  | .WIN_PADSKIP => ⟨.WIN, 0x10, 1, [.WIN_PADSKIP_COUNT]⟩
  | .WIN_HALO_STALL => ⟨.WIN, 0x18, 1, [.WIN_HALO_STALL_READ, .WIN_HALO_STALL_RETIRE]⟩
  | .WIN_CREDIT => ⟨.WIN, 0x20, 1, [.WIN_CREDIT_CREDIT]⟩
  | .KVW_STATUS => ⟨.KVW, 0x0, 1, [.KVW_STATUS_HELD_EPOCH, .KVW_STATUS_REFUSED, .KVW_STATUS_WALKS, .KVW_STATUS_POOL, .KVW_STATUS_BUSY]⟩
  | .KVW_LAB => ⟨.KVW, 0x8, 1, [.KVW_LAB_MISS, .KVW_LAB_HIT]⟩
  | .KVW_CTL => ⟨.KVW, 0x10, 1, [.KVW_CTL_FLUSH]⟩
  | .KVW_BOP => ⟨.KVW, 0x18, 1, [.KVW_BOP_OP, .KVW_BOP_SEQ, .KVW_BOP_VB]⟩
  | .KVW_BOP_ARG => ⟨.KVW, 0x20, 1, [.KVW_BOP_ARG_VALUE]⟩
  | .KVW_BOP_RES => ⟨.KVW, 0x28, 1, [.KVW_BOP_RES_DONE, .KVW_BOP_RES_STATUS, .KVW_BOP_RES_COW, .KVW_BOP_RES_COUNT, .KVW_BOP_RES_BUSHEL]⟩
  | .GLN_CFG => ⟨.GLN, 0x0, 1, [.GLN_CFG_SCORE]⟩
  | .GLN_STATUS => ⟨.GLN, 0x8, 1, [.GLN_STATUS_SCORED, .GLN_STATUS_REFUSED, .GLN_STATUS_BUSY]⟩
  | .DCTL_STEER_ENT => ⟨.DCTL, 0x4000, 2048, [.DCTL_STEER_ENT_COARSE, .DCTL_STEER_ENT_FMT]⟩
  | .UPD_STATUS => ⟨.UPD, 0x0, 1, [.UPD_STATUS_ROUND_STEP, .UPD_STATUS_HELD, .UPD_STATUS_TORN, .UPD_STATUS_STATE]⟩
  | .UPD_SKIP_COUNT => ⟨.UPD, 0x8, 1, [.UPD_SKIP_COUNT_COUNT]⟩
  | .UPD_CTL => ⟨.UPD, 0x10, 1, [.UPD_CTL_CLEAR]⟩
  | .UPD_STAT => ⟨.UPD, 0x18, 1, [.UPD_STAT_NAN_OUT, .UPD_STAT_SAT]⟩
  | .UPD_LAST => ⟨.UPD, 0x20, 1, [.UPD_LAST_STEP, .UPD_LAST_LAYER, .UPD_LAST_COMMITS]⟩
  | .UPD_SRKEY => ⟨.UPD, 0x100, 4, [.UPD_SRKEY_KEY_HI, .UPD_SRKEY_KEY_LO]⟩
  | .QUE_OP => ⟨.QUE, 0x0, 1, [.QUE_OP_OP, .QUE_OP_FORCE, .QUE_OP_MASK, .QUE_OP_QID]⟩
  | .QUE_OP_ARG => ⟨.QUE, 0x8, 1, [.QUE_OP_ARG_LEVEL]⟩
  | .QUE_OP_RES => ⟨.QUE, 0x10, 1, [.QUE_OP_RES_DONE, .QUE_OP_RES_STATUS, .QUE_OP_RES_OCC]⟩
  | .QUE_CACHE => ⟨.QUE, 0x18, 1, [.QUE_CACHE_MISS, .QUE_CACHE_HIT]⟩
  | .QUE_STATUS => ⟨.QUE, 0x20, 1, [.QUE_STATUS_TABLE, .QUE_STATUS_ENABLED]⟩
  | .FAB_ID => ⟨.FAB, 0x0, 1, [.FAB_ID_NPEER, .FAB_ID_DEVICE]⟩
  | .FAB_TC0 => ⟨.FAB, 0x8, 1, [.FAB_TC0_SHAPED, .FAB_TC0_LATE, .FAB_TC0_MAXLAT]⟩
  | .FAB_TCBUF => ⟨.FAB, 0x10, 1, [.FAB_TCBUF_TC3, .FAB_TCBUF_TC2, .FAB_TCBUF_TC1]⟩
  | .FAB_COLL => ⟨.FAB, 0x18, 1, [.FAB_COLL_REFUSED, .FAB_COLL_EPOCH, .FAB_COLL_RUNNING]⟩
  | .FAB_PORT_CTL => ⟨.FAB, 0x20, 1, [.FAB_PORT_CTL_DISABLE, .FAB_PORT_CTL_RETRAIN]⟩
  | .FAB_PORT => ⟨.FAB, 0x100, 16, [.FAB_PORT_PEER, .FAB_PORT_PEER_PORT, .FAB_PORT_ACTIVE, .FAB_PORT_DEGRADES, .FAB_PORT_STATE]⟩
  | .FAB_RETRY => ⟨.FAB, 0x200, 16, [.FAB_RETRY_UNCORR, .FAB_RETRY_REPLAY]⟩
  | .FAB_LAYOUT => ⟨.FAB, 0x300, 1, [.FAB_LAYOUT_PENDING, .FAB_LAYOUT_CURRENT]⟩
  | .FAB_RESHARD => ⟨.FAB, 0x308, 1, [.FAB_RESHARD_COMMITTED, .FAB_RESHARD_GROUP, .FAB_RESHARD_RESUMED, .FAB_RESHARD_STATE]⟩
  | .FAB_RESHARD_PROG => ⟨.FAB, 0x310, 1, [.FAB_RESHARD_PROG_ACKED, .FAB_RESHARD_PROG_NEXT_DST]⟩
  | .DCTL_FILL => ⟨.DCTL, 0x10, 1, [.DCTL_FILL_DONE]⟩
  | .ESC_CFG => ⟨.ESC, 0x0, 1, [.ESC_CFG_ENABLE, .ESC_CFG_GROUP, .ESC_CFG_SOURCE, .ESC_CFG_INTERVAL]⟩
  | .ESC_HOME => ⟨.ESC, 0x8, 1, [.ESC_HOME_BASE]⟩
  | .ESC_BANK => ⟨.ESC, 0x18, 1, [.ESC_BANK_BASE]⟩
  | .ESC_HOME_LEN => ⟨.ESC, 0x10, 1, [.ESC_HOME_LEN_LEN]⟩
  | .ESC_BANK_LEN => ⟨.ESC, 0x20, 1, [.ESC_BANK_LEN_LEN]⟩
  | .ESC_CURSOR => ⟨.ESC, 0x28, 1, [.ESC_CURSOR_VALUE]⟩
  | .ESC_RNG => ⟨.ESC, 0x30, 1, [.ESC_RNG_VALUE]⟩
  | .ESC_DRAWS => ⟨.ESC, 0x38, 1, [.ESC_DRAWS_DRAWS]⟩
  | .ESC_CTL => ⟨.ESC, 0x40, 1, [.ESC_CTL_OP, .ESC_CTL_TARGET]⟩
  | .ESC_ARG => ⟨.ESC, 0x48, 1, [.ESC_ARG_BEAT]⟩
  | .ESC_STATUS => ⟨.ESC, 0x50, 1, [.ESC_STATUS_HOME_STEP, .ESC_STATUS_FROZEN, .ESC_STATUS_DONE, .ESC_STATUS_RESULT, .ESC_STATUS_HOME, .ESC_STATUS_BANK0, .ESC_STATUS_BANK1, .ESC_STATUS_OPEN]⟩
  | .ESC_STEPS => ⟨.ESC, 0x58, 1, [.ESC_STEPS_HELD_STEP, .ESC_STEPS_OPEN_STEP]⟩
  | .ESC_FILL => ⟨.ESC, 0x60, 1, [.ESC_FILL_BYTES]⟩
  | .ESC_DIGEST => ⟨.ESC, 0x68, 4, [.ESC_DIGEST_DIGEST]⟩
  | .ESC_LIVE_DIGEST => ⟨.ESC, 0x88, 8, [.ESC_LIVE_DIGEST_DIGEST]⟩
  | .ESC_FREEZE => ⟨.ESC, 0xc8, 1, [.ESC_FREEZE_F]⟩
  | .VCE_STATUS => ⟨.VCE, 0x0, 1, [.VCE_STATUS_OPEN, .VCE_STATUS_REFUSED, .VCE_STATUS_STATE]⟩
  | .VCE_FRAMES => ⟨.VCE, 0x8, 1, [.VCE_FRAMES_ENCODED, .VCE_FRAMES_DECODED]⟩
  | .VCE_LATE => ⟨.VCE, 0x10, 1, [.VCE_LATE_WORST, .VCE_LATE_FRAMES]⟩
  | .VCE_PIXELS => ⟨.VCE, 0x18, 1, [.VCE_PIXELS_COUNT]⟩
  | .VCE_QBIND => ⟨.VCE, 0x100, 8, [.VCE_QBIND_VALID, .VCE_QBIND_QID]⟩
  | .HST_LINKA => ⟨.HST, 0x0, 1, [.HST_LINKA_FLR_COUNT, .HST_LINKA_RATE, .HST_LINKA_WIDTH, .HST_LINKA_FLIT, .HST_LINKA_DEGRADED, .HST_LINKA_UP]⟩
  | .HST_LINKB => ⟨.HST, 0x8, 1, [.HST_LINKB_FLR_COUNT, .HST_LINKB_RATE, .HST_LINKB_WIDTH, .HST_LINKB_FLIT, .HST_LINKB_DEGRADED, .HST_LINKB_UP]⟩
  | .HST_BAR2 => ⟨.HST, 0x10, 1, [.HST_BAR2_BASE]⟩
  | .HST_SEAL_GRANT => ⟨.HST, 0x18, 1, [.HST_SEAL_GRANT_HALF]⟩
  | .STW_SEAL => ⟨.STW, 0x0, 1, [.STW_SEAL_SEQ, .STW_SEAL_GRANT_VALID, .STW_SEAL_GRANT_HALF, .STW_SEAL_PREF, .STW_SEAL_STATE, .STW_SEAL_HOLDER]⟩
  | .STW_SEAL_CTL => ⟨.STW, 0x8, 1, [.STW_SEAL_CTL_ACCEPT, .STW_SEAL_CTL_OFFER]⟩
  | .STW_STATUS => ⟨.STW, 0x10, 1, [.STW_STATUS_HALF_E, .STW_STATUS_HALF_W]⟩
  | .MGT_CFGA => ⟨.MGT, 0x0, 1, [.MGT_CFGA_ENABLE, .MGT_CFGA_FEC]⟩
  | .MGT_CFGB => ⟨.MGT, 0x8, 1, [.MGT_CFGB_ENABLE, .MGT_CFGB_FEC]⟩
  | .MGT_MACA => ⟨.MGT, 0x10, 1, [.MGT_MACA_MAC]⟩
  | .MGT_MACB => ⟨.MGT, 0x18, 1, [.MGT_MACB_MAC]⟩
  | .MGT_STATUS => ⟨.MGT, 0x20, 1, [.MGT_STATUS_REQUESTS, .MGT_STATUS_PTP_B, .MGT_STATUS_PTP_A, .MGT_STATUS_LINK_B, .MGT_STATUS_LINK_A]⟩
  | .CLK_STATUS => ⟨.CLK, 0x0, 1, [.CLK_STATUS_FALLBACK, .CLK_STATUS_REF_OK]⟩
  | .CLK_MON => ⟨.CLK, 0x8, 1, [.CLK_MON_CAL, .CLK_MON_LAST, .CLK_MON_FAULTS]⟩
  | .CLK_GATE_OP => ⟨.CLK, 0x10, 1, [.CLK_GATE_OP_ACTION, .CLK_GATE_OP_NODE]⟩
  | .CLK_GATE_RES => ⟨.CLK, 0x18, 1, [.CLK_GATE_RES_DONE, .CLK_GATE_RES_STATUS, .CLK_GATE_RES_BLOCKER]⟩
  | .CLK_DBG => ⟨.CLK, 0x20, 1, [.CLK_DBG_REFUSED, .CLK_DBG_DIV, .CLK_DBG_SEL]⟩
  | .PWR_LAT_TOL => ⟨.PWR, 0x0, 1, [.PWR_LAT_TOL_NS]⟩
  | .PWR_LIVE_TOL => ⟨.PWR, 0x8, 1, [.PWR_LIVE_TOL_NS]⟩
  | .PWR_CAP => ⟨.PWR, 0x10, 1, [.PWR_CAP_WATTS]⟩
  | .PWR_STATE => ⟨.PWR, 0x18, 1, [.PWR_STATE_ENTRIES, .PWR_STATE_EXIT_CAUSE, .PWR_STATE_ALLOWED, .PWR_STATE_CURRENT]⟩
  | .PWR_CLOCK => ⟨.PWR, 0x20, 1, [.PWR_CLOCK_RUN_MHZ, .PWR_CLOCK_THERM_MHZ, .PWR_CLOCK_CAP_MHZ]⟩
  | .PWR_MEAS => ⟨.PWR, 0x28, 1, [.PWR_MEAS_TJ_MAX, .PWR_MEAS_PKG]⟩
  | .RST_CTL => ⟨.RST, 0x0, 1, [.RST_CTL_KIND, .RST_CTL_KEY, .RST_CTL_CORE, .RST_CTL_DIE]⟩
  | .RST_STATUS => ⟨.RST, 0x8, 1, [.RST_STATUS_FW_SLOT, .RST_STATUS_LAST_KIND, .RST_STATUS_CAUSE, .RST_STATUS_STAGE, .RST_STATUS_READY]⟩
  | .RST_COUNT => ⟨.RST, 0x10, 1, [.RST_COUNT_WARM, .RST_COUNT_DIE, .RST_COUNT_CORE]⟩
  | .RST_BOOT => ⟨.RST, 0x18, 1, [.RST_BOOT_FW_MS, .RST_BOOT_LP_MS, .RST_BOOT_BURSAR_MS, .RST_BOOT_READY_MS]⟩
  | .RST_TEST_OP => ⟨.RST, 0x20, 1, [.RST_TEST_OP_KIND, .RST_TEST_OP_CANCEL, .RST_TEST_OP_TARGET]⟩
  | .RST_TEST_RES => ⟨.RST, 0x28, 1, [.RST_TEST_RES_DONE, .RST_TEST_RES_PENDING, .RST_TEST_RES_STATUS, .RST_TEST_RES_TARGET]⟩
  | .SEC_FUSE => ⟨.SEC, 0x0, 1, [.SEC_FUSE_PROD, .SEC_FUSE_FIRST_DONE, .SEC_FUSE_OWN_REV, .SEC_FUSE_OWN_ENR, .SEC_FUSE_VEN_REV]⟩
  | .SEC_SVN => ⟨.SEC, 0x8, 1, [.SEC_SVN_SVN]⟩
  | .SEC_OP => ⟨.SEC, 0x10, 1, [.SEC_OP_OP]⟩
  | .SEC_OP_ADDR => ⟨.SEC, 0x18, 1, [.SEC_OP_ADDR_ADDR]⟩
  | .SEC_OP_RES => ⟨.SEC, 0x20, 1, [.SEC_OP_RES_DONE, .SEC_OP_RES_STATUS, .SEC_OP_RES_LEN]⟩
  | .SEC_CHALLENGE => ⟨.SEC, 0x28, 4, [.SEC_CHALLENGE_VALUE]⟩
  | .SEC_NONCE => ⟨.SEC, 0x48, 4, [.SEC_NONCE_VALUE]⟩
  | .LOG_SEQ => ⟨.LOG, 0x0, 1, [.LOG_SEQ_NEXT]⟩
  | .LOG_STATUS => ⟨.LOG, 0x8, 1, [.LOG_STATUS_SEG, .LOG_STATUS_DROPPED, .LOG_STATUS_HUB, .LOG_STATUS_INTAKE]⟩
  | .LOG_OVER => ⟨.LOG, 0x10, 1, [.LOG_OVER_OVERWRITTEN]⟩
  | .LOG_CFG => ⟨.LOG, 0x18, 1, [.LOG_CFG_IRQ_SEV]⟩
  | .LOG_CURSOR => ⟨.LOG, 0x20, 1, [.LOG_CURSOR_SEG, .LOG_CURSOR_SEQ, .LOG_CURSOR_STATE]⟩
  | .LOG_DATA => ⟨.LOG, 0x40, 8, [.LOG_DATA_DATA]⟩
  | .GLB_ID => ⟨.GLB, 0x0, 1, [.GLB_ID_PART, .GLB_ID_STEPPING, .GLB_ID_DIES]⟩
  | .GLB_SERIAL => ⟨.GLB, 0x8, 1, [.GLB_SERIAL_SERIAL]⟩
  | .GLB_IRQ_STATUS => ⟨.GLB, 0x100, 1, [.GLB_IRQ_STATUS_SRC]⟩
  | .GLB_IRQ_EN => ⟨.GLB, 0x108, 1, [.GLB_IRQ_EN_HOST]⟩
  | .GLB_IRQ_STW => ⟨.GLB, 0x110, 1, [.GLB_IRQ_STW_STW]⟩
  | .GLB_IRQ_VEC => ⟨.GLB, 0x120, 3, [.GLB_IRQ_VEC_VEC3, .GLB_IRQ_VEC_VEC2, .GLB_IRQ_VEC_VEC1, .GLB_IRQ_VEC_VEC0]⟩
  | .GLB_IRQ_ROUTE => ⟨.GLB, 0x140, 1, [.GLB_IRQ_ROUTE_LOST, .GLB_IRQ_ROUTE_PREF]⟩

/-- The registers of a block. -/
def Block.regs : Block → List Reg
  | .DCTL => [.DCTL_CLMAP, .DCTL_CLSTAT, .DCTL_TALLY_UNMAP0, .DCTL_TALLY_UNMAP1, .DCTL_STEER_STAT, .DCTL_STEER_ENT, .DCTL_FILL]
  | .STR => [.STR_LOAD_ADDR, .STR_LOAD_LEN, .STR_PREPARE, .STR_COMMIT_BEAT, .STR_COMMIT, .STR_STATUS, .STR_REFUSE_INFO, .STR_EPOCH, .STR_ARMED, .STR_FENCED, .STR_ACTIVE_DIGEST]
  | .BEAT => [.BEAT_CFG, .BEAT_NOW, .BEAT_PHASE, .BEAT_STATUS, .BEAT_OFFSET, .BEAT_TPL, .BEAT_ORIGIN, .BEAT_WALL]
  | .VEC => [.VEC_SRKEY]
  | .MXE => [.MXE_STATUS, .MXE_GROUPS, .MXE_STICKY, .MXE_STALL, .MXE_MASKED]
  | .TDY => [.TDY_CFG, .TDY_STATUS, .TDY_STEP, .TDY_SAVE, .TDY_SWITCH, .TDY_QBIND, .TDY_SIG]
  | .LDG => [.LDG_CFG, .LDG_STATUS, .LDG_ECC, .LDG_ECC_ADDR, .LDG_LINK, .LDG_CAL]
  | .HSK => [.HSK_STOOK, .HSK_STATUS, .HSK_CTL, .HSK_ENC_IN, .HSK_ENC_OUT, .HSK_FULL]
  | .WIN => [.WIN_STATUS, .WIN_CTL, .WIN_PADSKIP, .WIN_HALO_STALL, .WIN_CREDIT]
  | .KVW => [.KVW_STATUS, .KVW_LAB, .KVW_CTL, .KVW_BOP, .KVW_BOP_ARG, .KVW_BOP_RES]
  | .GLN => [.GLN_CFG, .GLN_STATUS]
  | .UPD => [.UPD_STATUS, .UPD_SKIP_COUNT, .UPD_CTL, .UPD_STAT, .UPD_LAST, .UPD_SRKEY]
  | .QUE => [.QUE_OP, .QUE_OP_ARG, .QUE_OP_RES, .QUE_CACHE, .QUE_STATUS]
  | .FAB => [.FAB_ID, .FAB_TC0, .FAB_TCBUF, .FAB_COLL, .FAB_PORT_CTL, .FAB_PORT, .FAB_RETRY, .FAB_LAYOUT, .FAB_RESHARD, .FAB_RESHARD_PROG]
  | .ESC => [.ESC_CFG, .ESC_HOME, .ESC_BANK, .ESC_HOME_LEN, .ESC_BANK_LEN, .ESC_CURSOR, .ESC_RNG, .ESC_DRAWS, .ESC_CTL, .ESC_ARG, .ESC_STATUS, .ESC_STEPS, .ESC_FILL, .ESC_DIGEST, .ESC_LIVE_DIGEST, .ESC_FREEZE]
  | .VCE => [.VCE_STATUS, .VCE_FRAMES, .VCE_LATE, .VCE_PIXELS, .VCE_QBIND]
  | .HST => [.HST_LINKA, .HST_LINKB, .HST_BAR2, .HST_SEAL_GRANT]
  | .STW => [.STW_SEAL, .STW_SEAL_CTL, .STW_STATUS]
  | .MGT => [.MGT_CFGA, .MGT_CFGB, .MGT_MACA, .MGT_MACB, .MGT_STATUS]
  | .CLK => [.CLK_STATUS, .CLK_MON, .CLK_GATE_OP, .CLK_GATE_RES, .CLK_DBG]
  | .PWR => [.PWR_LAT_TOL, .PWR_LIVE_TOL, .PWR_CAP, .PWR_STATE, .PWR_CLOCK, .PWR_MEAS]
  | .RST => [.RST_CTL, .RST_STATUS, .RST_COUNT, .RST_BOOT, .RST_TEST_OP, .RST_TEST_RES]
  | .SEC => [.SEC_FUSE, .SEC_SVN, .SEC_OP, .SEC_OP_ADDR, .SEC_OP_RES, .SEC_CHALLENGE, .SEC_NONCE]
  | .LOG => [.LOG_SEQ, .LOG_STATUS, .LOG_OVER, .LOG_CFG, .LOG_CURSOR, .LOG_DATA]
  | .GLB => [.GLB_ID, .GLB_SERIAL, .GLB_IRQ_STATUS, .GLB_IRQ_EN, .GLB_IRQ_STW, .GLB_IRQ_VEC, .GLB_IRQ_ROUTE]

/-- The width of a field in bits. -/
def Field.width (f : Field) : Nat := f.row.hi + 1 - f.row.lo

/-! ### What the part is made of -/

/-- Compute dies, and ledger dies, of a member (scope chapter). -/
def Ident.dies (id : Ident) : Nat := match id.member with | .a8 => 8 | .a4 => 4 | .a2 => 2
/-- Hub dies. -/
def Ident.hubs (id : Ident) : Nat := match id.member with | .a8 => 4 | .a4 => 2 | .a2 => 1
/-- Fabric ports: 16 on the A8, 0 to 7 on the A4, 0 to 3 on the A2 (R312). -/
def Ident.ports (id : Ident) : Nat := 2 * id.dies
/-- Codec engines. -/
def Ident.engines (id : Ident) : Nat := id.dies
/-- The PCI device ID (R494). -/
def Ident.part (id : Ident) : Nat := match id.member with | .a8 => 0xa800 | .a4 => 0xa400 | .a2 => 0xa200
/-- The die-population mask (R495). -/
def Ident.mask (id : Ident) : Nat :=
  match id.member with | .a8 => 0xffffffffff | .a4 => 0x330f00ff0f | .a2 => 0x1103000f03
/-- The largest PWR_CAP of the member (R435). -/
def Ident.cap (id : Ident) : Nat := match id.member with | .a8 => 3000 | .a4 => 1600 | .a2 => 800
/-- LPDDR6 bytes behind one ledger die (R174). -/
def Ident.lpDie (id : Ident) : Nat := if id.dev96 then 3 * 96 * 2 ^ 30 else 3 * 48 * 2 ^ 30

/-- The reset value of a field (the register tables). The values that the tables give as Fused, Device ID or 4r + j come
from the part; SEC_CHALLENGE is fresh entropy, a free value (DESIGN CHOICE, log entry 2). -/
def Field.reset (id : Ident) (f : Field) (i : Nat) : Nat :=
  match f with
  | .MGT_MACA_MAC => id.macA
  | .MGT_MACB_MAC => id.macB
  | .SEC_FUSE_PROD => id.prod
  | .SEC_FUSE_FIRST_DONE => id.firstDone
  | .SEC_FUSE_OWN_REV => id.ownRev
  | .SEC_FUSE_OWN_ENR => id.ownEnr
  | .SEC_FUSE_VEN_REV => id.venRev
  | .SEC_SVN_SVN => id.svn
  | .SEC_CHALLENGE_VALUE => (Config.freeValue i).toNat
  | .GLB_ID_PART => id.part
  | .GLB_ID_STEPPING => id.stepping
  | .GLB_ID_DIES => id.mask
  | .GLB_SERIAL_SERIAL => id.serial
  | .GLB_IRQ_VEC_VEC3 => 4 * i + 3
  | .GLB_IRQ_VEC_VEC2 => 4 * i + 2
  | .GLB_IRQ_VEC_VEC1 => 4 * i + 1
  | .GLB_IRQ_VEC_VEC0 => 4 * i
  | .PWR_CAP_WATTS => id.cap
  | .STW_SEAL_PREF => id.sealPref
  | f => f.row.reset

/-- The value of field f of unit u, register i of an array. -/
def State.get (s : State) (f : Field) (u : Nat := 0) (i : Nat := 0) : Nat :=
  KMap.get s.flds ⟨f, u, i⟩ (f.reset s.ident i)

/-- The state with a field changed; the value is cut to the field's width. -/
def State.set (s : State) (f : Field) (v : Nat) (u : Nat := 0) (i : Nat := 0) : State :=
  { s with flds := KMap.set s.flds ⟨f, u, i⟩ (v % 2 ^ f.width) }

/-- A counter field raised by n, modulo its width. -/
def State.bump (s : State) (f : Field) (n : Nat := 1) (u : Nat := 0) (i : Nat := 0) : State :=
  s.set f (s.get f u i + n) u i

/-- A counter field raised by n, saturating. -/
def State.bumpSat (s : State) (f : Field) (n : Nat := 1) (u : Nat := 0) (i : Nat := 0) : State :=
  s.set f (satAdd f.width (s.get f u i) n) u i

/-- A bit of a mask field set or cleared. -/
def State.setBit (s : State) (f : Field) (b : Nat) (v : Bool) (u : Nat := 0) (i : Nat := 0) : State :=
  s.set f (putBit (s.get f u i) b v) u i

/-- The current beat (R58). -/
def State.now (s : State) : Nat := s.get .BEAT_NOW_COUNT

end Sys2Proof.Machine
end

