-- ==== Sys2Proof/Machine/Mem.lean ====
section
/-! DEFINITION. Memory: one list of (place, byte) cells over every byte that the part holds, in one canonical form, and the
places of the memory tiers. A place is a number: LPDDR6 by ledger die and local offset, granary by compute die, core and
accumulator memory by physical core ID, cluster memory by physical cluster. A carve moves no data (R181), since places are
physical. -/
namespace Sys2Proof.Machine

/-- What a place that nothing has written reads as: zero, as R438 and R441 leave every tier after a reset (DESIGN CHOICE, log entry 9). -/
def Mem.unlisted : Byte := 0

/-- The place of an LPDDR6 byte: ledger die and local offset (R180). -/
def lpLoc (ld off : Nat) : Nat := ld * 2 ^ 40 + off
/-- The place of a granary byte (R169's chapter: 2 GiB per compute die). -/
def granLoc (die off : Nat) : Nat := 2 ^ 44 + die * 2 ^ 32 + off
/-- The place of a byte of a core window: core memory, and accumulator memory from 0x40_0000 (R123, R486). -/
def coreLoc (core off : Nat) : Nat := 2 ^ 45 + core * 2 ^ 24 + off
/-- The place of a cluster-memory byte; clu is 16 x die + physical cluster (R486). -/
def cluLoc (clu off : Nat) : Nat := 2 ^ 45 + 2 ^ 44 + clu * 2 ^ 24 + off

/-- Whether a place lies in a core's accumulator memory. -/
def isAcc (loc : Nat) : Bool :=
  decide (2 ^ 45 ≤ loc ∧ loc < 2 ^ 45 + 2 ^ 44 ∧ 0x400000 ≤ loc % 2 ^ 24)

/-- What a write of a byte stores: accumulator containers keep bits [51:0] and read [63:52] as 0 (R123, R125). -/
def storedByte (loc : Nat) (b : Byte) : Byte :=
  if isAcc loc then (if loc % 8 = 7 then 0 else if loc % 8 = 6 then b &&& 0x0f else b) else b

/-- The byte at a place (DESIGN CHOICE, log entry 9). -/
def Mem.read : List Host.Cell → Nat → Byte
  | [], _ => Mem.unlisted
  | (a, b) :: m, loc => if loc = a then b else if loc < a then Mem.unlisted else Mem.read m loc

/-- Memory without a place listed. -/
def Mem.clear : List Host.Cell → Nat → List Host.Cell
  | [], _ => []
  | (a, b) :: m, loc => if loc = a then m else if loc < a then (a, b) :: m else (a, b) :: Mem.clear m loc

/-- Memory with a place listed as b. -/
def Mem.put : List Host.Cell → Nat → Byte → List Host.Cell
  | [], loc, v => [(loc, v)]
  | (a, b) :: m, loc, v =>
    if loc = a then (a, v) :: m else if loc < a then (loc, v) :: (a, b) :: m else (a, b) :: Mem.put m loc v

/-- A write of one byte, which keeps the canonical form. -/
def Mem.write (m : List Host.Cell) (loc : Nat) (v : Byte) : List Host.Cell :=
  let v := storedByte loc v
  if v = Mem.unlisted then Mem.clear m loc else Mem.put m loc v

/-- The canonical form: places strictly rising, and no cell that holds what an unlisted place reads as. -/
def Mem.wf : List Host.Cell → Bool
  | [] => true
  | [(_, b)] => b != Mem.unlisted
  | (a, b) :: (a', b') :: m => b != Mem.unlisted && decide (a < a') && Mem.wf ((a', b') :: m)

/-- n bytes from a place. -/
def Mem.readN (m : List Host.Cell) (loc n : Nat) : List Byte := (List.range n).map fun k => Mem.read m (loc + k)

/-- Bytes written from a place on. -/
def Mem.writeN (m : List Host.Cell) (loc : Nat) : List Byte → List Host.Cell
  | [] => m
  | b :: bs => Mem.writeN (Mem.write m loc b) (loc + 1) bs

/-- n places from loc on back to what an unlisted place reads as. -/
def Mem.zero (m : List Host.Cell) (loc n : Nat) : List Host.Cell :=
  m.filter fun c => !(decide (loc ≤ c.1) && decide (c.1 < loc + n))

/-- n bytes copied between places that do not overlap, by the cells that are listed. -/
def Mem.copy (m : List Host.Cell) (src dst n : Nat) : List Host.Cell :=
  let moved := m.filter fun c => decide (src ≤ c.1) && decide (c.1 < src + n)
  moved.foldl (fun acc c => Mem.write acc (c.1 - src + dst) c.2) (Mem.zero m dst n)

/-- The 64-byte block that a place lies in. -/
def blockOf (loc : Nat) : Nat := loc / 64 * 64

/-- A list of blocks with one more, kept ascending and without repeats. -/
def insertBlock : List Nat → Nat → List Nat
  | [], b => [b]
  | x :: xs, b => if b = x then x :: xs else if b < x then b :: x :: xs else x :: insertBlock xs b

/-- What poison marks at a place: a 64-byte block of LPDDR6 (R177), a 64-bit word of the SRAM tiers (R168). -/
def granule (loc : Nat) : Nat := if loc < 2 ^ 44 then 64 else 8

/-- A block or word marked poisoned (R168, R178) (DEDUCED, log entry 10). -/
def State.poisonAt (s : State) (loc : Nat) : State := { s with poison := insertBlock s.poison (loc / granule loc * granule loc) }
/-- A write of a whole block or word clears its poison (R168, R178). -/
def State.unpoison (s : State) (loc n : Nat) : State :=
  { s with poison := s.poison.filter fun b => !(decide (loc ≤ b) && decide (b + granule b ≤ loc + n)) }
/-- Whether a place lies behind a fenced LPDDR6 channel, whose every read returns poisoned blocks (R180, R188). -/
def State.fencedAt (s : State) (loc : Nat) : Bool :=
  decide (loc < 2 ^ 44) && bit (s.get .LDG_STATUS_CH_FENCED (loc / 2 ^ 40)) (loc % 2 ^ 40 / 4096 % 24)
/-- Whether any byte of a range is in a poisoned block or word (DEDUCED, log entry 10). -/
def State.poisoned (s : State) (loc n : Nat) : Bool :=
  (s.poison.any fun b => decide (b < loc + n) && decide (loc < b + granule b)) || s.fencedAt loc || s.fencedAt (loc + n - 1)
/-- The first poisoned block or word that a range touches, if any. -/
def State.poisonIn (s : State) (loc n : Nat) : Option Nat :=
  s.poison.find? fun b => decide (b < loc + n) && decide (loc < b + granule b)

/-- n bytes read from a place (DESIGN CHOICE, log entry 52). -/
def State.rd (s : State) (loc n : Nat) : List Byte := Mem.readN s.mem loc n
/-- Bytes written at a place; a block wholly written loses its poison (DEDUCED, log entry 10). -/
def State.wr (s : State) (loc : Nat) (bs : List Byte) : State :=
  ({ s with mem := Mem.writeN s.mem loc bs } : State).unpoison loc bs.length

end Sys2Proof.Machine
end

