-- ==== Sys2Proof/Machine/Ops.lean ====
section
/-! DEFINITION. The operations that every family shares: which units exist, the source IDs of R472, events (R468, R473),
interrupts (R496 to R498), messages, free values, image banks, and the translation of device addresses (R180 to R182, R484
to R488). -/
namespace Sys2Proof.Machine

/-! ### Units -/

/-- Whether a hub die is present: HD0 to HD3 on the A8, HD0 and HD1 on the A4, HD0 on the A2 (R17). -/
def State.hubOk (s : State) (h : Nat) : Bool := decide (h < s.ident.hubs)
/-- Whether a compute die, or the ledger die of that number, is present. -/
def State.dieOk (s : State) (d : Nat) : Bool := decide (d < s.ident.dies)
/-- Whether a physical cluster is present; clu is 16 x die + cluster (R18). -/
def State.cluOk (s : State) (clu : Nat) : Bool := s.dieOk (clu / 16) && decide (clu % 16 < 13)
/-- Whether a physical core ID names a core (R6). -/
def State.coreOk (s : State) (core : Nat) : Bool := s.cluOk (core / 8)

/-- The compute die of a core, and its cluster as 16 x die + cluster (R6). -/
def coreDie (core : Nat) : Nat := core / 128
def coreClu (core : Nat) : Nat := core / 8

/-- A guard: the command's meaning where the unit is present, the fault absentUnit where it is not. -/
def onUnit (ok : Bool) (r : Res) : Res := if ok then r else .fault .absentUnit

/-- The hub that carries the fabric role for a port: HD1 for ports 0 to 7, HD3 for 8 to 15, HD0 on the A2 (R14, R17). -/
def State.portHub (s : State) (p : Nat) : Nat :=
  if s.ident.member = .a2 then 0 else if p < 8 then 1 else 3

/-- The hub of the half that holds the seal, or of the half that SEAL_PREF names while no half holds it (R14, R470). -/
def State.inCharge (s : State) : Nat :=
  let half := if s.get .STW_SEAL_STATE = 3 then s.get .STW_SEAL_PREF else s.get .STW_SEAL_HOLDER
  if half = 1 ∧ s.ident.member = .a8 then 2 else 0

/-! ### Source IDs (R472) -/

def srcCore (core : Nat) : Nat := 2 ^ 24 + core
/-- A cluster block: 0 CLU or DMA, 1 WIN, 2 KVW, 3 GLN. -/
def srcClu (clu blk : Nat) : Nat := 2 * 2 ^ 24 + clu / 16 * 256 + clu % 16 * 16 + blk
/-- A die (die index of R13) and its sub-unit. -/
def srcDie (idx sub : Nat) : Nat := 3 * 2 ^ 24 + sub * 256 + idx
def srcLedger (ld sub : Nat) : Nat := srcDie (24 + ld) sub
def srcHub (hub sub : Nat) : Nat := srcDie (32 + hub) sub
def srcCodec (e : Nat) : Nat := 4 * 2 ^ 24 + e
def srcPort (p : Nat) : Nat := 5 * 2 ^ 24 + p

/-- The half of a die index: 0 W, 1 E (R14). -/
def halfOfDie (idx : Nat) : Nat :=
  if idx < 8 then idx / 4 else if idx < 24 then (idx - 8) / 8 else if idx < 32 then (idx - 24) / 4
  else if idx < 36 then (idx - 32) / 2 else (idx - 36) / 2

/-- The half of a source (R14). -/
def halfOfSrc (src : Nat) : Nat :=
  match src / 2 ^ 24 with
  | 1 => src % 2 ^ 24 / 512
  | 2 => halfOfDie (src / 256 % 256)
  | 3 => halfOfDie (src % 256)
  | 4 => src % 8 / 4
  | _ => src % 16 / 8

/-- The source that an access carries (R180, R472). -/
def State.agentSrc (s : State) : Agent → Nat
  | .host l => srcHub (if l = 0 then 0 else 2) 8
  | .steward => srcHub s.inCharge 1
  | .tidy c => srcCore c
  | .unit _ src => src

/-! ### Free values and output -/

/-- The next free value (DESIGN CHOICE, log entry 3). -/
def State.fresh (s : State) : Word := Config.freeValue s.free
/-- The state after a free value has been taken (DESIGN CHOICE, log entry 8). -/
def State.tick (s : State) : State := { s with free := s.free + 1 }
/-- n free values are taken. -/
def State.ticks (s : State) (n : Nat) : State := { s with free := s.free + n }

/-- Something leaves the part (DESIGN CHOICE, log entry 4). -/
def State.emit (s : State) (o : Out) : State := { s with out := o :: s.out }

/-- Whether the freeze of a seal dispute holds TC0 messages at the current beat: from D + 4 until R + 4 (R412). -/
def State.sealHeld (s : State) : Bool :=
  match s.stw.dispute with
  | some x => decide (x.d + 4 ≤ s.now) && (match x.r with | some r => decide (s.now < r + 4) | none => true)
  | none => false

/-- A TC0 message inside the package other than a seal message (R324, R412). -/
def State.pkgSend (s : State) (m : Msg) : State :=
  if s.sealHeld then { s with stw := { s.stw with heldPkg := s.stw.heldPkg ++ [m] } } else s.emit (.pkg m)

/-! ### Interrupts -/

/-- Whether a host link is up: 0 A, 1 B (R399, R414). -/
def State.linkUp (s : State) (l : Nat) : Bool :=
  if l = 0 then s.get .HST_LINKA_UP == 1 else s.ident.member == .a8 && s.get .HST_LINKB_UP == 1

/-- An MSI-X message to the function of a link: sent, or made pending where that function's table masks the vector
(R498). -/
def State.msixOn (s : State) (l vec : Nat) : State :=
  if bit (KMap.get s.msixTab (l, 4 * vec + 3) 1) 0 then { s with pba := KMap.set s.pba (l, vec) true }
  else s.emit (.msix l vec)

/-- A message on one vector: on every trained link, or on the preferred one and else the other; with no trained link it is
dropped and counted (R498). -/
def State.sendMsix (s : State) (vec : Nat) (all : Bool) : State :=
  let a := s.linkUp 0
  let b := s.linkUp 1
  let pref := if s.ident.member = .a8 then s.get .GLB_IRQ_ROUTE_PREF else 0
  if !a && !b then s.bumpSat .GLB_IRQ_ROUTE_LOST
  else if all then
    let s := if a then s.msixOn 0 vec else s
    if b then s.msixOn 1 vec else s
  else if pref = 0 then s.msixOn (if a then 0 else 1) vec
  else s.msixOn (if b then 1 else 0) vec

/-- The vector of a global source (R499). -/
def State.irqVec (s : State) (n : Nat) : Nat :=
  let f : Field :=
    match n % 4 with
    | 0 => .GLB_IRQ_VEC_VEC0 | 1 => .GLB_IRQ_VEC_VEC1 | 2 => .GLB_IRQ_VEC_VEC2 | _ => .GLB_IRQ_VEC_VEC3
  s.get f 0 (n / 4)

/-- Sources that cannot be masked: READY and SEAL (R496). -/
def irqUnmaskable (n : Nat) : Bool := n == 0 || n == 2

/-- The condition of global source n occurs; sev3 marks a log entry of severity 3 (R477, R497). -/
def State.irq (s : State) (n : Nat) (sev3 : Bool := false) : State :=
  let was := bit (s.get .GLB_IRQ_STATUS_SRC) n
  let s' := s.setBit .GLB_IRQ_STATUS_SRC n true
  let host := sev3 || (!was && (irqUnmaskable n || bit (s.get .GLB_IRQ_EN_HOST) n))
  let s' := if host then s'.sendMsix (s.irqVec n) (sev3 || irqUnmaskable n) else s'
  if !was && bit (s.get .GLB_IRQ_STW_STW) n then s'.emit (.stwIrq n) else s'

/-! ### Events -/

/-- Places payload fields, each of a width in bytes at the next offset that is a multiple of its width; a JOB_TAG of 16
bytes is byte-aligned (R473). -/
def placeFields : List (Nat × Nat) → Nat → List Byte
  | [], _ => []
  | (w, v) :: rest, off =>
    let off' := if w = 16 then off else roundUp off w
    List.replicate (off' - off) 0 ++ leBytes w v ++ placeFields rest (off' + w)

/-- The payload of an entry: 32 bytes, fields that pass the end cut (R473). -/
def payloadOf (fs : List (Nat × Nat)) : List Byte :=
  let b := (placeFields fs 0).take 32
  b ++ List.replicate (32 - b.length) 0

/-- An event leaves its unit for the log hub with the beat and wall time of the last edge (R468, R471); one of a passed-over action with those of
the edge at which it fires (R63). The peer interrupt of R496 goes with EV_PEER_LOST and EV_FAB_LINK_DOWN. -/
def State.log' (s : State) (src code sev : Nat) (fs : List (Nat × Nat)) : State :=
  let e : Entry := ⟨s.beat.stamp.getD s.now, s.get .BEAT_WALL_WALL, src, code, sev, 0, payloadOf fs⟩
  let s' := { s with log := { s.log with flight := s.log.flight ++ [(halfOfSrc src, e)] } }
  if code = 0x5010 ∨ code = 0x5002 then s'.irq 11 else s'

/-! ### Power states -/

/-- A wake trigger (R430, R433): in Q2 to Q4 the exit begins at once, with its cause as PWR_STATE codes it; during an entry it is kept
until the entry completes. -/
def State.wake (s : State) (cause : Nat) : State :=
  if s.clk.entering.isSome then
    if s.clk.wake.isSome then s else { s with clk := { s.clk with wake := some cause } }
  else if s.get .PWR_STATE_CURRENT < 2 ∨ s.clk.exiting.isSome then s
  else ({ s with clk := { s.clk with exiting := some cause } } : State).set .PWR_STATE_EXIT_CAUSE cause

/-- Work for a cluster ends its clock gating in Q1 (R427). -/
def State.q1Wake (s : State) (clu : Nat) : State :=
  if s.clk.q1.contains clu then
    let s := { s with clk := { s.clk with q1 := s.clk.q1.filter (· != clu) } }
    if s.clk.q1 = [] ∧ s.get .PWR_STATE_CURRENT = 1 then s.set .PWR_STATE_CURRENT 0 else s
  else s

/-! ### Image banks -/

/-- Image unit numbers of R28. -/
def unitClu (clu : Nat) : Nat := 13 * (clu / 16) + clu % 16
def unitDie (d : Nat) : Nat := 104 + d
def unitLedger (ld : Nat) : Nat := 112 + ld
def unitHub (h : Nat) : Nat := 120 + h

/-- The kind of an image unit: cluster and die controllers, ledger dies, hubs. -/
inductive UnitKind where
  | clu (d c : Nat)
  | die (d : Nat)
  | ledger (n : Nat)
  | hub (h : Nat)
deriving DecidableEq, Repr

def unitKind (u : Nat) : UnitKind :=
  if u < 104 then .clu (u / 13) (u % 13) else if u < 112 then .die (u - 104) else if u < 120 then .ledger (u - 112) else .hub (u - 120)

/-- The active bank of an image unit (R29). -/
def State.bank (s : State) (u : Nat) : Image := KMap.get s.str.active u Image.empty

/-- The bank that a descriptor issued at a beat runs under: the old bank where the unit still drains it and the descriptor
came before B (R44). -/
def State.bankFor (s : State) (u beat : Nat) : Image :=
  match KMap.get? s.str.oldBank u with
  | some img => if beat < s.str.commitB then img else s.bank u
  | none => s.bank u

/-- The memory carve that work begun at a beat runs under: while the last switch drains, that of before for work begun before B (R44, R184). -/
def State.carveFor (s : State) (beat : Nat) : Image :=
  if s.get .STR_STATUS_STATE = 4 ∧ beat < s.str.commitB then s.str.prevCarve else s.bank (unitLedger 0)

/-- The bytes of a section; empty where the bank holds none. -/
def Image.sec (img : Image) (t : Nat) : List Byte := KMap.get img.secs t []

/-- An image with another section in place of one. -/
def Image.withSec (img : Image) (t : Nat) (b : List Byte) : Image := { img with secs := KMap.set img.secs t b }

/-! ### Device addresses -/

/-- A region of the memory carve (R182). -/
structure Region where
  kind : Nat
  mode : Nat
  home : Nat
  stage : Nat
  base : Nat
  len : Nat
  loff : Nat
deriving DecidableEq, Repr

/-- A granary partition (R182). -/
structure Part where
  die : Nat
  shared : Nat
  id : Nat
  off : Nat
  len : Nat
deriving DecidableEq, Repr

/-- The regions of section 0x0004. -/
def regionsOf (b : List Byte) : List Region :=
  (List.range (field b 0 2)).map fun i =>
    let e := slice b (16 + 32 * i) 32
    ⟨field e 0 1, field e 1 1, field e 2 1, field e 3 1, field e 8 8, field e 16 8, field e 24 8⟩

/-- The granary partitions of section 0x0004. -/
def partsOf (b : List Byte) : List Part :=
  (List.range (field b 2 2)).map fun i =>
    let e := slice b (16 + 32 * field b 0 2 + 16 * i) 16
    ⟨field e 0 1, field e 1 1, field e 2 2, field e 8 4, field e 12 4⟩

/-- The ledger dies that hold a region's pages, ascending (R180). On the A4 and the A2 half and package modes are the
same. -/
def State.participants (s : State) (mode home : Nat) : List Nat :=
  if mode = 0 then [home]
  else if mode = 1 ∧ s.ident.member = .a8 then (List.range 4).map (· + 4 * home)
  else List.range s.ident.dies

/-- The local place of a DA inside a region (R180). -/
def State.regionLoc (s : State) (r : Region) (da : Nat) : Nat :=
  let off := da - r.base
  let l := s.participants r.mode r.home
  let page := off / 4096
  lpLoc (l.getD (page % l.length) 0) (r.loff + page / l.length * 4096 + off % 4096)

/-- The size of the LPDDR6 range (R484, R485). -/
def State.lpSize (s : State) : Nat := s.ident.dies * s.ident.lpDie

/-- The firmware area as a region (R181). -/
def firmwareRegion : Region := ⟨8, 2, 0, 0xff, 0, 0x10000000, 0⟩

/-- The region that maps an LPDDR6 DA under a bank (R181): the firmware area always; the carve's regions under a committed
image; under the reset structure the whole range as one package region of kind 9. -/
def State.regionAt (s : State) (img : Image) (da : Nat) : Option Region :=
  if da < 0x10000000 then some firmwareRegion
  else if img.epoch = 0 then some ⟨9, 2, 0, 0xff, 0, s.lpSize, 0⟩
  else (regionsOf (img.sec 4)).find? fun r => decide (r.base ≤ da) && decide (da < r.base + r.len)

/-- What becomes of an address: a place, no mapping, or a wait for a rotation copy (R487). -/
inductive DaRes where
  | at (loc : Nat)
  | unmapped
  | wait
deriving DecidableEq, Repr

/-- The physical cluster of a logical one under the die map, if it has one (R19, R27). -/
def State.physClu (s : State) (die lclu : Nat) : Option Nat :=
  let p := bits (s.get .DCTL_CLMAP_LOG die) (4 * lclu + 3) (4 * lclu)
  if lclu < 12 ∧ p < 13 then some p else none

/-- The logical cluster that a physical one holds, if any. -/
def State.logClu (s : State) (die pclu : Nat) : Option Nat :=
  (List.range 12).find? fun n => s.physClu die n == some pclu

/-- Whether a physical cluster is fenced (R23, R27). -/
def State.lost (s : State) (clu : Nat) : Bool := bit (s.get .DCTL_CLSTAT_LOST (clu / 16)) (clu % 16)

def State.die (s : State) (d : Nat) : DieSt := KMap.get s.dies d DieSt.init
def State.setDie (s : State) (d : Nat) (x : DieSt) : State := { s with dies := KMap.set s.dies d x }

/-- Whether a die's logical cluster is being copied by a rotation (R21, R487). -/
def State.rotating (s : State) (die lclu : Nat) : Bool :=
  match (s.die die).rot with
  | some (_, _, l, copied) => copied && l == lclu
  | none => false

/-- Whether an agent may reach the firmware area (R488). -/
def agentFirmware : Agent → Bool
  | .host _ => true | .steward => true | _ => false

/-- Whether an agent may reach a granary address of a die under a bank (R182, R488). -/
def granaryOk (img : Image) (a : Agent) (die off : Nat) : Bool :=
  let ps := partsOf (img.sec 4)
  if img.epoch = 0 ∨ ps = [] then true
  else
    match ps.find? (fun p => p.die == die && decide (p.off ≤ off) && decide (off < p.off + p.len)) with
    | none => false
    | some p =>
      match a with
      | .steward => true
      | .host _ => p.shared == 1
      | .tidy c => p.shared == 1 || coreDie c == die
      | .unit d _ => p.shared == 1 || d == die

/-- A physical cluster window: refused where the cluster is absent or fenced (R487). -/
def State.cluWin (s : State) (clu loc : Nat) : DaRes :=
  if s.cluOk clu && !s.lost clu then .at loc else .unmapped

/-- The place of a DA for an agent under a bank (R180 to R182, R484 to R488). -/
def State.resolve (s : State) (a : Agent) (img : Image) (da : Nat) : DaRes :=
  if da < s.lpSize then
    if da < 0x10000000 ∧ !agentFirmware a then .unmapped
    else
      match s.regionAt img da with
      | some r => .at (s.regionLoc r da)
      | none => .unmapped
  else if 0x40000000000 ≤ da ∧ da < 0x40000000000 + s.ident.dies * 0x80000000 then
    let die := (da - 0x40000000000) / 0x80000000
    let off := (da - 0x40000000000) % 0x80000000
    if granaryOk img a die off then .at (granLoc die off) else .unmapped
  else if 0x50000000000 ≤ da ∧ da < 0x50400000000 then
    let core := (da - 0x50000000000) / 2 ^ 24
    let off := da % 2 ^ 24
    if off < 0x480000 then s.cluWin (core / 8) (coreLoc core off) else .unmapped
  else if 0x50400000000 ≤ da ∧ da < 0x50800000000 then
    let l := (da - 0x50400000000) / 2 ^ 24
    let off := da % 2 ^ 24
    let die := l / 128
    let lclu := l / 8 % 16
    if off < 0x480000 ∧ s.dieOk die then
      match s.physClu die lclu with
      | some p =>
        if s.rotating die lclu then .wait
        else s.cluWin (16 * die + p) (coreLoc (128 * die + 8 * p + l % 8) off)
      | none => .unmapped
    else .unmapped
  else if 0x51000000000 ≤ da ∧ da < 0x51080000000 then
    let clu := (da - 0x51000000000) / 2 ^ 24
    s.cluWin clu (cluLoc clu (da % 2 ^ 24))
  else if 0x51400000000 ≤ da ∧ da < 0x51480000000 then
    let l := (da - 0x51400000000) / 2 ^ 24
    let die := l / 16
    if s.dieOk die then
      match s.physClu die (l % 16) with
      | some p =>
        if s.rotating die (l % 16) then .wait else s.cluWin (16 * die + p) (cluLoc (16 * die + p) (da % 2 ^ 24))
      | none => .unmapped
    else .unmapped
  else .unmapped

/-- The carve that hubs and ledger dies translate under: all ledger dies hold the same one, but for one that a die reset has left without
its banks (R50). -/
def State.ledgerCarve (s : State) : Image :=
  match (List.range s.ident.dies).find? fun ld => (s.bank (unitLedger ld)).epoch != 0 with
  | some ld => s.bank (unitLedger ld)
  | none => Image.empty

/-- The bank whose carve an agent's accesses are translated under: its die controller's for a compute die, a ledger die's for a hub
or a ledger die (R34, R180). -/
def State.carveBank (s : State) (a : Agent) : Image :=
  match a with
  | .tidy c => s.bank (unitDie (coreDie c))
  | .unit d _ => if d < 8 then s.bank (unitDie d) else s.ledgerCarve
  | _ => s.ledgerCarve

/-- The 64-byte blocks that a range touches; every block lies in one page, so one translation serves it. -/
def blocksOf (da n : Nat) : List Nat :=
  if n = 0 then [] else (List.range ((da + n - 1) / 64 - da / 64 + 1)).map fun i => (da / 64 + i) * 64

/-- Whether a whole range is mapped, unmapped somewhere (the first such address), or waits (R180). -/
inductive RangeRes where
  | ok
  | unmapped (da : Nat)
  | wait
deriving DecidableEq, Repr

def State.range (s : State) (a : Agent) (img : Image) (da n : Nat) : RangeRes :=
  let rs := (blocksOf da n).map fun b => (b, s.resolve a img b)
  match rs.find? (fun r => r.2 == .unmapped) with
  | some (b, _) => .unmapped (max b da)
  | none => if rs.any (fun r => r.2 == .wait) then .wait else .ok

/-- The bytes of a mapped range (0 where it is not mapped). -/
def State.rdDa (s : State) (a : Agent) (img : Image) (da n : Nat) : List Byte :=
  (List.range n).map fun k =>
    match s.resolve a img (da + k) with
    | .at loc => Mem.read s.mem loc
    | _ => 0

/-- Whether a mapped range touches a poisoned block, with the first such block's DA. -/
def State.poisonDa (s : State) (a : Agent) (img : Image) (da n : Nat) : Option Nat :=
  (blocksOf da n).find? fun b =>
    match s.resolve a img b with
    | .at loc => s.poisoned (blockOf loc) 64
    | _ => false

/-! ### LPDDR6 channels and waits (R171, R180, R186, R189) -/

/-- The channel of a local offset, and its device (R180). -/
def lpChan (off : Nat) : Nat := off / 4096 % 24
def lpDev (ld off : Nat) : Nat := 3 * ld + lpChan off / 8

/-- Whether a DA's device calibrates, or its ledger die is in self-refresh (R186, R187). -/
def State.lpBusy (s : State) (img : Image) (da : Nat) : Bool :=
  decide (da < s.lpSize) &&
    match s.regionAt img da with
    | some r =>
      let loc := s.regionLoc r da
      let ld := loc / 2 ^ 40
      s.get .LDG_STATUS_STATE ld == 3 || s.rst.cal.any fun c => c.1 == lpDev ld (loc % 2 ^ 40)
    | none => false

/-- The bytes that an access touches. -/
def accBytes (kind : Nat) (bs : List Byte) : Nat := if 2 ≤ kind then 8 else bs.length

/-- Whether a block belongs to a layer in its write phase, or to a ledger die that rolls its journal forward (R286). -/
def State.layerBusy (s : State) (img : Image) (b : Nat) : Bool :=
  s.upd.any fun (ld, x) =>
    (x.phase == 4 &&
      match s.regionAt img b with
      | some r => s.regionLoc r b / 2 ^ 40 == ld
      | none => false) ||
    match x.lock, s.regionAt img b with
    | some (im, l), some r => l.any fun p => (blocksOf p.1 p.2).any fun c =>
        match s.regionAt im c with
        | some q => s.regionLoc q c == s.regionLoc r b
        | none => false
    | _, _ => false

/-- Whether an earlier access waits for a block of its own that is not ready. -/
def State.accStuck (s : State) (img : Image) (w : WaitAcc) : Bool := (blocksOf w.da (accBytes w.kind w.data)).any fun b => s.lpBusy img b

/-- Whether an update engine's request to a range waits: a device of it calibrates or is in self-refresh, or an earlier access to one of its
blocks waits for such a device (R171, R186, R187, R189). -/
def State.ownBusy (s : State) (img : Image) (da n : Nat) : Bool :=
  (blocksOf da n).any fun b =>
    s.lpBusy img b || s.clk.waitAcc.any fun w => (blocksOf w.da (accBytes w.kind w.data)).contains b && s.accStuck img w

/-- Whether a request to a range waits: a device of it calibrates or is in self-refresh, an earlier access waits for one of its blocks, or a
layer's write phase has not ended (R171, R186, R187, R189, R286). -/
def State.memBusy (s : State) (img : Image) (da n : Nat) : Bool :=
  (blocksOf da n).any fun b =>
    s.lpBusy img b || (s.clk.waitAcc.any fun w => (blocksOf w.da (accBytes w.kind w.data)).contains b) ||
      (decide (b < s.lpSize) && s.layerBusy img b)

/-- An access joins those that wait. -/
def State.waitFor (s : State) (w : WaitAcc) : State := { s with clk := { s.clk with waitAcc := s.clk.waitAcc ++ [w] } }

/-- The die, and the channel of an LPDDR6 place, that EV_MEM_UE names (R191): a ledger die, or the compute die of an SRAM tier. -/
def placeUnit (loc : Nat) : Nat × Nat :=
  if loc < 2 ^ 44 then (24 + loc / 2 ^ 40, lpChan (loc % 2 ^ 40))
  else if loc < 2 ^ 45 then ((loc - 2 ^ 44) / 2 ^ 32, 0)
  else if loc < 2 ^ 45 + 2 ^ 44 then ((loc - 2 ^ 45) / 2 ^ 31, 0)
  else ((loc - 2 ^ 45 - 2 ^ 44) / 2 ^ 28, 0)

/-- Bytes written from a mapped DA on; the poison of every block wholly written clears (R178). -/
def State.wrDa (s : State) (a : Agent) (img : Image) (da : Nat) (bs : List Byte) : State :=
  (blocksOf da bs.length).foldl (fun s' b =>
    match s.resolve a img b with
    | .at loc =>
      let lo := max b da
      let hi := min (b + 64) (da + bs.length)
      s'.wr (loc + (lo - b)) (slice bs (lo - da) (hi - lo))
    | _ => s') s

/-- EV_MEM_UNMAPPED (R180, R191): requesting unit, DA, bank parity. -/
def State.unmappedEv (s : State) (a : Agent) (da : Nat) : State :=
  s.log' (s.agentSrc a) 0x3004 2 [(4, s.agentSrc a), (8, da), (1, s.str.parity)]

end Sys2Proof.Machine
end

