-- ==== Sys2Proof/Machine/Issue.lean ====
section
/-! DEFINITION. Issue, completion and refusal of descriptors (R142, R143, R152, R155), the tally slots (R102), steering
(R107) and the key slots of a core (R93): what every unit that executes descriptors shares. -/
namespace Sys2Proof.Machine

def State.core (s : State) (c : Nat) : CoreSt := KMap.get s.cores c CoreSt.init
def State.setCore (s : State) (c : Nat) (x : CoreSt) : State := { s with cores := KMap.set s.cores c x }

/-! ### Gating nodes (R423) -/

/-- NODE of a compute die, cluster (16 x die + physical cluster), core, engine, cluster unit, ledger unit, codec engine. -/
def nodeDie (d : Nat) : Nat := 0x1000 + d * 512
def nodeClu (clu : Nat) : Nat := 0x2000 + clu / 16 * 512 + clu % 16 * 32
def nodeCore (core : Nat) : Nat := 0x3000 + core / 128 * 512 + core / 8 % 16 * 32 + core % 8 * 4
def nodeEngine (core e : Nat) : Nat := 0x4000 + nodeCore core % 4096 + e
def nodeUnit (clu u : Nat) : Nat := 0x5000 + nodeClu clu % 4096 + u
def nodeLedger (ld u : Nat) : Nat := 0x6000 + ld * 512 + u
def nodeCodec (e : Nat) : Nat := 0x7000 + e

/-- A node's parent; none where that is the part root. -/
def nodeParent (n : Nat) : Option Nat :=
  match n / 4096 with
  | 2 => some (0x1000 + n % 4096 / 512 * 512)
  | 3 => some (0x2000 + n % 4096 / 32 * 32)
  | 4 => some (0x3000 + n % 4096 / 4 * 4)
  | 5 => some (0x2000 + n % 4096 / 32 * 32)
  | _ => none

/-- A node with its ancestors, the node first. The tree is four levels deep. -/
def nodeChain (n : Nat) : List Nat :=
  let up (l : List Nat) : List Nat := match (l.getLast?).bind nodeParent with | some p => l ++ [p] | none => l
  up (up (up [n]))

/-- The node at or above n that holds a gate, if any (R424). -/
def State.gatedAt (s : State) (n : Nat) : Option Nat := (nodeChain n).find? s.clk.gates.contains

/-- A core that issues nothing: halted by a reset, in a fenced cluster, with the part's engines stopped, frozen, with its cluster being
copied by a rotation, under a held gate, or power-gated (R21, R370, R421, R425, R427). -/
def State.coreHalted (s : State) (c : Nat) : Bool :=
  (s.core c).halted || s.rst.inReset.contains (coreDie c) || s.lost (coreClu c) || s.clk.stopped || s.get .ESC_STATUS_FROZEN == 1 || (s.gatedAt (nodeEngine c 2)).isSome ||
    decide (2 ≤ s.get .PWR_STATE_CURRENT) ||
    (match (s.die (coreDie c)).rot with | some (q, _, _, copied) => copied && q == coreClu c % 16 | none => false)

/-- CLASS of the common header (R142). -/
def descClass (d : Desc) : Nat := dbits d 0 3 0
/-- MB of the common header. -/
def descMb (d : Desc) : Nat := dbits d 0 31 16
/-- EOP of the common header. -/
def descEop (d : Desc) : Bool := dbit d 0 4

/-- Unit kinds, numbered as the drain mask numbers them (R151). -/
def kMxe : Nat := 0
def kVec : Nat := 1
def kWin : Nat := 2
def kDma : Nat := 3
def kKv : Nat := 4
def kGln : Nat := 5
def kColl : Nat := 6
def kUpd : Nat := 7
def kHsk : Nat := 8
def kSig : Nat := 9

/-- The unit kind of a descriptor class, for the classes that a unit executes (R142). -/
def kindOfClass : Nat → Option Nat
  | 1 => some kMxe | 2 => some kVec | 3 => some kVec | 4 => some kWin | 5 => some kDma | 6 => some kKv | 7 => some kGln
  | 8 => some kColl | 9 => some kUpd | 10 => some kHsk
  | _ => none

/-- The reserved bit ranges of word 0 by class (R142 to R151): [15:5], and what the class's layout leaves of CSPEC. -/
def reservedHdr (cls : Nat) : List (Nat × Nat) :=
  (15, 5) ::
    match cls with
    | 1 => [(63, 57)]
    | 2 => [(63, 40)]
    | 8 => [(47, 45)]
    | 9 => [(47, 35)]
    | 10 => [(47, 35)]
    | 11 => [(63, 33)]
    | 14 => []
    | _ => [(63, 32)]

/-- Whether the tidy core admits word 0: a class that is not reserved and no reserved bit set (R143). -/
def hdrOk (d : Desc) : Bool :=
  decide (1 ≤ descClass d ∧ descClass d ≤ 13) && (reservedHdr (descClass d)).all fun r => dbits d 0 r.1 r.2 == 0

/-- A faulty field: 64 x word + least significant bit, and its value (R473). -/
abbrev BadField := Nat × Nat

/-- The first of a list of reserved fields (word, high bit, low bit) that is not 0. -/
def firstReserved (d : Desc) (l : List (Nat × Nat × Nat)) : Option BadField :=
  (l.find? fun r => dbits d r.1 r.2.1 r.2.2 != 0).map fun r => (64 * r.1 + r.2.2, dbits d r.1 r.2.1 r.2.2)

/-- The first check that fails in a list of (holds, field at fault). -/
def firstBad (l : List (Bool × BadField)) : Option BadField := (l.find? fun c => !c.1).map (·.2)

/-! ### Held descriptors -/

/-- Held descriptors of one kind, oldest first. -/
def State.heldOf (s : State) (core kind : Nat) : List Held := (s.core core).held.filter fun h => h.kind == kind

/-- The tiles of its core that a descriptor adds into: an MMA descriptor, a stripe and an expanding KV gather (R126, R215, R239). -/
def tilesOf (kind : Nat) (d : Desc) : List Nat :=
  if kind = kMxe then [dbits d 6 35 32]
  else if kind = kWin then [dbits d 5 51 48 / 2 * 2, dbits d 5 51 48 / 2 * 2 + 1]
  else if kind = kKv ∧ dbits d 3 47 32 ≠ 0 then [14, 15]
  else []

/-- MXE_STATUS.HELD counts the held MMA descriptors; TILE_BUSY shows the tiles of all that add into tiles (R136). -/
def State.syncMxe (s : State) (core : Nat) : State :=
  let busy := ((s.core core).held.flatMap fun h => tilesOf h.kind h.d).foldl (fun m t => putBit m t true) 0
  (s.set .MXE_STATUS_HELD (s.heldOf core kMxe).length core).set .MXE_STATUS_TILE_BUSY busy core

/-- HSK_STATUS.BUSY of a ledger die: whether its husk holds a descriptor (R211). -/
def State.syncBusy (s : State) (ld : Nat) : State :=
  s.set .HSK_STATUS_BUSY (b2n ((List.range 104).any fun k => s.heldOf (128 * ld + k) kHsk != [])) ld

/-- BUSY follows what a core holds of the kind that has changed. -/
def State.syncKind (s : State) (core kind : Nat) : State := if kind = kHsk then s.syncBusy (coreDie core) else s

/-- A descriptor is issued to its unit: the next sequence number and a place at the end of the held list (R140, R152). -/
def State.issue (s : State) (core kind qid : Nat) (d : Desc) : State :=
  let c := s.core core
  let h : Held := ⟨c.seq, kind, qid, descMb d, c.pkt, s.now, d⟩
  (((s.q1Wake (coreClu core)).setCore core { c with held := c.held ++ [h], seq := c.seq + 1 }).syncMxe core).syncKind core kind

/-- A queue ID that stands for no queue, in an event about a descriptor that no queue gave. -/
def noQid : Nat := 0xfffff

/-- The held record of a descriptor: its own where it was issued, else one made at this moment. -/
def State.heldFor (s : State) (core kind : Nat) (d : Desc) : Held :=
  match (s.heldOf core kind).find? fun h => h.d == d with
  | some h => h
  | none => ⟨(s.core core).seq, kind, noQid, descMb d, (s.core core).pkt, s.now, d⟩

/-- Spans of core memory: first byte and length. -/
abbrev Spans := List (Nat × Nat)

/-- The spans of n rows of len bytes, ld apart. -/
def rowSpans (base ld n len : Nat) : Spans := (List.range n).map fun r => (base + r * ld, len)

/-! ### When a descriptor may start -/

/-- The tiles that a range of accumulator memory touches: its offset in the core's window, and its length. -/
def accTiles (off n : Nat) : List Nat :=
  let t := (off - 0x400000) / 0x8000
  (List.range ((off + n - 1 - 0x400000) / 0x8000 - t + 1)).map (· + t)

/-- Whether a unit still executes descriptors that were issued before B, or frames that began before it (R44) (DEDUCED, log entry 20). -/
def State.outstanding (s : State) (u : Nat) : Bool :=
  let B := s.str.commitB
  let cores (p : Nat → Held → Bool) : Bool := s.cores.any fun e => e.2.held.any fun h => decide (h.beat < B) && p e.1 h
  match unitKind u with
  | .clu d c => cores fun core _ => coreClu core == 16 * d + c
  | .die d => cores fun core _ => coreDie core == d
  | .ledger n => cores fun core h => coreDie core == n && (h.kind == kHsk || h.kind == kUpd)
  | .hub n => cores (fun _ h => h.kind == kColl) || s.coll.runs.any (fun r => decide (r.beat < B)) ||
      s.vce.any fun e => e.1 / 2 == n && (match e.2.job with | some j => decide (j.start < B) | none => false)

/-- The image unit that executes the descriptors of a kind, for R44. -/
def kindUnit (core kind : Nat) : Nat :=
  if kind = kColl then unitHub 0 else if kind = kUpd ∨ kind = kHsk then unitLedger (coreDie core) else unitClu (coreClu core)

/-- A descriptor issued at or after B waits while its unit still executes old-bank descriptors (R44). -/
def State.bankWait (s : State) (core kind beat : Nat) : Bool :=
  s.get .STR_STATUS_STATE == 4 && decide (s.str.commitB ≤ beat) && s.outstanding (kindUnit core kind)

/-- Held descriptors that their core issued before this one, oldest first. -/
def State.ahead (s : State) (core kind : Nat) (d : Desc) : List Held :=
  (s.core core).held.filter fun h => decide (h.seq < (s.heldFor core kind d).seq)

/-- Whether a held DMA descriptor writes into a tile of its own core (R126). -/
def State.dmaInto (s : State) (core tile : Nat) (d : Desc) : Bool :=
  let whole := decide (2 ≤ dbits d 3 49 48)
  let rows := if whole then [(dbits d 2 42 0, 0x8000)] else rowSpans (dbits d 2 42 0) (dbits d 5 39 0) (dbits d 3 47 24 + 1) (dbits d 3 23 0)
  let img := s.bankFor (unitDie (coreDie core)) (s.heldFor core kDma d).beat
  rows.any fun x => (blocksOf x.1 x.2).any fun b =>
    match s.resolve (.unit (coreDie core) (srcClu (coreClu core) 0)) img b with
    | .at loc => isAcc loc && loc / 0x8000 == coreLoc core (0x400000 + tile * 0x8000) / 0x8000
    | _ => false

/-- A descriptor of a tile waits for what was issued before it: the earlier descriptors that add into that tile or output it, of another
unit too (R122, R133, R215, R239), and the earlier writes of the tile (R126). -/
def State.tileFree (s : State) (core kind : Nat) (d : Desc) : Bool :=
  match tilesOf kind d with
  | [] => true
  | ts =>
    let n := (s.heldFor core kind d).seq
    (s.ahead core kind d).all (fun h => (tilesOf h.kind h.d).all fun t => !ts.contains t) &&
      (s.core core).accWait.all (fun w => !(w.write && decide (w.seq ≤ n) && (accTiles w.off w.data.length).any ts.contains)) &&
      (s.ahead core kind d).all fun h => h.kind != kDma || ts.all fun t => !s.dmaInto core t h.d

/-- A descriptor may start: it is the oldest that its core holds at the unit, or the core holds none there (R152), its tiles are free of
what came before it (R126, R133), its unit has no old-bank descriptor left (R44), and the part's engines are not stopped (R24, R421). -/
def State.canStart (s : State) (core kind : Nat) (d : Desc) : Bool :=
  !s.clk.stopped && (s.ahead core kind d).all (fun h => h.kind != kind) && s.tileFree core kind d &&
    !s.bankWait core kind (s.heldFor core kind d).beat

/-- A descriptor that cannot start yet stays held; one that was not issued before is issued now. -/
def State.hold (s : State) (core kind : Nat) (d : Desc) : State :=
  if (s.heldOf core kind).any fun h => h.d == d then s else s.issue core kind noQid d

/-- The oldest held record of a kind with these words leaves the held list. -/
def dropHeld (kind : Nat) (d : Desc) : List Held → List Held
  | [] => []
  | h :: hs => if h.kind == kind && h.d == d then hs else h :: dropHeld kind d hs

/-- How many descriptors a unit holds at most, where the spec gives a number: of one core at the two engines (R132, R138), and
together at a ledger die's husk (R193) and update engine (R267). -/
def unitRoom (kind : Nat) : Option Nat :=
  if kind = kMxe ∨ kind = kVec then some 4 else if kind = kHsk then some 8 else if kind = kUpd then some 2048 else none

/-- The cores that share a unit's queue: those of the die at a ledger die's husk and update engine. -/
def sharers (core kind : Nat) : List Nat :=
  if kind = kHsk ∨ kind = kUpd then (List.range 104).map (· + 128 * coreDie core) else [core]

/-- Whether a unit has room for one more descriptor of a core. -/
def State.hasRoom (s : State) (core kind : Nat) : Bool :=
  match unitRoom kind with
  | some n =>
    decide ((((sharers core kind).map fun c => (s.heldOf c kind).length).foldl (· + ·) 0) < n)
  | none => true

/-- Writes integer register rd of a tidy core; x0 stays 0. -/
def State.setX (s : State) (core rd : Nat) (v : Word) : State :=
  if rd = 0 then s else let c := s.core core; s.setCore core { c with x := KMap.set c.x rd v }

/-- A TD.ISSUE that stalled goes on once its unit has room (R140): the issue sequence number goes to rd. -/
def State.unstall (s : State) (core : Nat) : State :=
  let c := s.core core
  match c.stall with
  | none => s
  | some (rd, dn) =>
    let d := KMap.get c.dreg dn 0
    match kindOfClass (descClass d) with
    | some k =>
      if s.hasRoom core k then
        ((s.setCore core { c with stall := none }).issue core k noQid d).setX core rd (BitVec.ofNat 64 c.seq)
      else s
    | none => s

/-! ### Accesses of accumulator memory (R126) -/

/-- Whether a descriptor that a core issued among its first n, and that still has additions or an output outstanding, uses a tile of a list: a
held MMA descriptor, a stripe of the window unit or an expanding KV gather (R126, R215, R239). -/
def State.tilesBusy (s : State) (core n : Nat) (ts : List Nat) : Bool :=
  (s.core core).held.any fun h => decide (h.seq < n) && (tilesOf h.kind h.d).any ts.contains

/-- The core of an accumulator place, and its offset in the core's window (R123). -/
def accCore (loc : Nat) : Nat := (loc - 2 ^ 45) / 2 ^ 24
def accOff (loc : Nat) : Nat := loc % 2 ^ 24

/-- The effect of an access of accumulator memory: a write stores the containers; a read is answered (R125). -/
def State.accDo (s : State) (by_ : Agent) (core off : Nat) (write : Bool) (data : List Byte) : State :=
  if write then (s.wr (coreLoc core off) data).emit (.answer by_ true [])
  else s.emit (.answer by_ true (s.rd (coreLoc core off) data.length))

/-- Accesses that waited for a tile of a core move as soon as no descriptor issued before them uses it (R126). -/
def State.drainAcc (s : State) (core : Nat) : State :=
  let c := s.core core
  let free (w : AccWait) : Bool := !s.tilesBusy core w.seq (accTiles w.off w.data.length)
  (c.accWait.filter free).foldl (fun s w => s.accDo w.who core w.off w.write w.data)
    (s.setCore core { c with accWait := c.accWait.filter fun w => !free w })

/-- A descriptor leaves its core's held list; accesses that waited for its tile move; cores that stall for the room it leaves go on. -/
def State.unhold (s : State) (core kind : Nat) (d : Desc) : State :=
  let c := s.core core
  (sharers core kind).foldl (fun s x => s.unstall x)
    ((((s.setCore core { c with held := dropHeld kind d c.held }).syncMxe core).syncKind core kind).drainAcc core)

/-- A descriptor completes: it leaves the held list and its kind's completed count rises (R140, R152). -/
def State.complete (s : State) (core kind : Nat) (d : Desc) : State :=
  let s := s.unhold core kind d
  let c := s.core core
  s.setCore core { c with done := KMap.set c.done kind (KMap.get c.done kind 0 + 1) }

/-- EV_CMD_DROP (R166). -/
def State.cmdDrop (s : State) (core qid mb cls items : Nat) : State :=
  s.log' (srcCore core) 0x8020 2 [(2, core), (4, qid), (2, mb), (1, cls), (4, items)]

/-- A packet is discarded: it is counted, and remembered while descriptors of it or of a later one are held (R155, R165). -/
def State.countDrop (s : State) (core pkt : Nat) : State :=
  let s := s.bump .TDY_STATUS_DROPPED 1 core
  let c := s.core core
  s.setCore core { c with badPkts := pkt :: c.badPkts.filter fun p => c.held.any fun h => h.pkt == p }

/-- TDY_STATUS.STATE (R165). -/
def State.tdyState (s : State) (core st : Nat) : State := s.set .TDY_STATUS_STATE st core

/-- What a core's issue waits for (R153, R154, R159). -/
def State.setWait (s : State) (core : Nat) (w : Wait) : State :=
  (s.setCore core { s.core core with wait := w }).tdyState core (match w with | .none => 1 | _ => 2)

/-- A fence or wait-beat of a packet that is discarded is discarded with it (R155). -/
def State.dropWait (s : State) (core pkt : Nat) : State :=
  let c := s.core core
  if c.pkt = pkt ∧ c.wait ≠ .none ∧ c.wait ≠ .switch then s.setWait core .none else s

/-- A descriptor is refused (R155): the rest of its packet is discarded, with EV_CMD_DROP once the packet has ended. A packet is discarded
once, however many of its descriptors are refused; a descriptor that no packet gave stands alone (DEDUCED, log entry 23). -/
def State.dropPacket (s : State) (core : Nat) (h : Held) : State :=
  let c := s.core core
  if h.qid = noQid ∧ !c.inPacket then (s.bump .TDY_STATUS_DROPPED 1 core).cmdDrop core h.qid h.mb (descClass h.d) 0
  else if c.badPkts.contains h.pkt then s
  else
    let s := (s.countDrop core h.pkt).dropWait core h.pkt
    let c := s.core core
    if c.inPacket && c.pkt == h.pkt && c.dropping.isNone && !descEop h.d then
      s.setCore core { c with dropping := some ⟨true, descClass h.d, h.qid, h.mb, 0⟩ }
    else s.cmdDrop core h.qid h.mb (descClass h.d) 0

/-- A unit refuses a descriptor: it leaves the held list, writes nothing and its packet is dropped (R155). -/
def State.refuse (s : State) (core kind : Nat) (d : Desc) : State :=
  let h := s.heldFor core kind d
  (s.unhold core kind d).dropPacket core h

/-- The gated node that a core's unit of a kind lies under, if any. Husk and update units are those of the ledger die paired
with the core's compute die; a hub's collective unit cannot be gated (R423). -/
def State.gateOf (s : State) (core kind : Nat) : Option Nat :=
  let clu := coreClu core
  match kind with
  | 0 => s.gatedAt (nodeEngine core 0)
  | 1 => s.gatedAt (nodeEngine core 1)
  | 2 => s.gatedAt (nodeUnit clu 1)
  | 3 => s.gatedAt (nodeUnit clu 0)
  | 4 => s.gatedAt (nodeUnit clu 2)
  | 5 => s.gatedAt (nodeUnit clu 3)
  | 7 => s.gatedAt (nodeLedger (coreDie core) 1)
  | 8 => s.gatedAt (nodeLedger (coreDie core) 0)
  | _ => none

/-- The source ID of the unit of a kind that serves a core (R472). -/
def unitSrc (core kind : Nat) : Nat :=
  let clu := coreClu core
  match kind with
  | 2 => srcClu clu 1
  | 3 => srcClu clu 0
  | 4 => srcClu clu 2
  | 5 => srcClu clu 3
  | 7 => srcLedger (coreDie core) 2
  | 8 => srcLedger (coreDie core) 1
  | _ => srcCore core

/-- A descriptor issued to a unit under a held gate is refused, with EV_CLK_GATED_ISSUE (R425, R436). -/
def State.gatedIssue (s : State) (core kind qid : Nat) (d : Desc) (node : Nat) : State :=
  (s.log' (unitSrc core kind) 0x1004 2 [(4, unitSrc core kind), (2, node), (1, descClass d)]).dropPacket core
    ⟨(s.core core).seq, kind, qid, descMb d, (s.core core).pkt, s.now, d⟩

/-- A descriptor of a unit's kind reaches the unit: one that the unit does not hold is issued now, refused under a held gate (R425), and not
taken while the unit holds its maximum (R132, R140). The units of a fenced cluster do nothing (R23) (DEDUCED, log entry 23). -/
def State.atUnit (s : State) (core kind : Nat) (d : Desc) (f : State → State) : State :=
  if s.lost (coreClu core) || s.rst.inReset.contains (coreDie core) then s
  else if (s.heldOf core kind).any (fun h => h.d == d) then f s
  else
    match s.gateOf core kind with
    | none => if s.hasRoom core kind then f s else s
    | some n => s.gatedIssue core kind noQid d n

/-- EV_FMT_ILLEGAL (R94): refusing unit, class, offending field and value. -/
def State.fmtIllegal (s : State) (src cls : Nat) (b : BadField) : State :=
  s.log' src 0x4001 2 [(4, src), (1, cls), (2, b.1), (8, b.2)]

/-- EV_MEM_UE of a unit that meets a poisoned word (R168, R191): die index, channel, DA, requesting unit. -/
def State.memUe (s : State) (src die chan da who : Nat) : State :=
  s.log' src 0x3002 2 [(1, die), (1, chan), (8, da), (4, who)]

/-- EV_MEM_UE of a unit for a poisoned block that it reads at a DA (R178, R191). -/
def State.daUe (s : State) (src : Nat) (a : Agent) (img : Image) (da : Nat) : State :=
  match s.resolve a img da with
  | .at loc => s.memUe src (placeUnit loc).1 (placeUnit loc).2 da src
  | _ => s.memUe src 32 0 da src

/-- EV_MEM_UE of a core's unit for a poisoned word of its core or accumulator memory (R168, R191): the die, and the word's DA. -/
def State.coreUe (s : State) (src core place : Nat) : State :=
  s.memUe src (coreDie core) 0 (0x50000000000 + core * 2 ^ 24 + (place - coreLoc core 0)) src

/-- An uncorrectable block of a ledger die (R178): it is written back poisoned, counted and recorded. -/
def State.uncorrectable (s : State) (ld off da who : Nat) : State :=
  let s := (s.poisonAt (lpLoc ld off)).bumpSat .LDG_ECC_UE 1 ld
  let s := (s.set .LDG_ECC_ADDR_ADDR (da / 64 * 64) ld).set .LDG_ECC_ADDR_VALID 1 ld
  s.log' (srcLedger ld 5) 0x3002 2 [(1, 24 + ld), (1, lpChan off), (8, da), (4, who)]

/-! ### Precision policy and tallies -/

/-- An entry of the tensor-ID map (R109). -/
structure TidMap where
  lo : Nat
  hi : Nat
  row : Nat
  role : Nat
  trole : Nat
deriving DecidableEq, Repr

/-- A steering profile (R109). -/
structure Profile where
  ladder : List Nat
  clip : Nat
  window : Nat
  hold : Nat
  marginMax : Nat
  satThresh : Nat
  underThresh : Nat
  narrowAfter : Nat
deriving DecidableEq, Repr

/-- A row seed (R109). -/
structure Seed where
  layer : Nat
  actProfile : Nat
  gradProfile : Nat
  actRung : Nat
  gradRung : Nat
  actCoarse : Nat
  gradCoarse : Nat
deriving DecidableEq, Repr

def polProfiles (b : List Byte) : List Profile :=
  (List.range (field b 4 1)).map fun i =>
    let e := slice b (64 + 32 * i) 32
    ⟨(List.range 4).map fun k => field e k 1, field e 4 1, field e 5 1, field e 6 1, field e 7 1, field e 8 4, field e 12 4,
      field e 16 2⟩

def polSeeds (b : List Byte) : List Seed :=
  (List.range (field b 0 2)).map fun i =>
    let e := slice b (64 + 32 * field b 4 1 + 16 * i) 16
    ⟨field e 0 2, field e 2 1, field e 3 1, field e 4 1, field e 5 1, field e 8 4, field e 12 4⟩

def polMaps (b : List Byte) : List TidMap :=
  (List.range (field b 2 2)).map fun i =>
    let e := slice b (64 + 32 * field b 4 1 + 16 * field b 0 2 + 16 * i) 16
    ⟨field e 0 4, field e 4 4, field e 8 2, field e 10 1, field e 11 1⟩

/-- The map entry of a tensor ID, if one holds it (R102). -/
def tidEntry (b : List Byte) (tid : Nat) : Option TidMap :=
  (polMaps b).find? fun m => decide (m.lo ≤ tid) && decide (tid ≤ m.hi)

/-- CLIP_SHIFT of a destination (R98): of the profile of its row and role when steered, of its tensor role otherwise. -/
def clipOf (b : List Byte) (steered : Option (Nat × Nat)) (tid : Nat) : Nat :=
  match steered with
  | some (row, role) =>
    match (polSeeds b)[row]? with
    | some sd => (((polProfiles b)[if role = 0 then sd.actProfile else sd.gradProfile]?).map (·.clip)).getD 0
    | none => 0
  | none =>
    match tidEntry b tid with
    | some m => if m.trole = 0xff then 0 else field b (16 + m.trole) 1
    | none => 0

/-- The greater of two AMAX codes; they are finite magnitudes, which order as their codes. -/
def amaxMax (a b : Nat) : Nat := max a b

/-- A magnitude as the FP32 code of an AMAX (R102); beyond the FP32 range it stays at the largest finite value. -/
def amaxCode (v : Ex) : Nat := (convert (.fin v.abs) .fp32 .rne true).1

/-- A tally slot takes the counts and the AMAX of a conversion (R102). -/
def Tally.add (t : Tally) (c : Counts) (amax : Nat) : Tally :=
  ⟨satAdd 32 t.sat c.sat, satAdd 32 t.under c.under, satAdd 32 t.nonfin c.nonfin, amaxMax t.amax amax⟩

/-- Counts of a conversion into tensor tid on a die, under the precision policy pol (R102): its slot, or the counters of
unmapped tensor IDs. -/
def State.tallyAdd (s : State) (die : Nat) (pol : List Byte) (tid : Nat) (c : Counts) (amax : Nat) : State :=
  match tidEntry pol tid with
  | some m =>
    let x := s.die die
    let k := 2 * m.row + m.role
    s.setDie die { x with tally := KMap.set x.tally k ((KMap.get x.tally k {}).add c amax) }
  | none =>
    ((s.bumpSat .DCTL_TALLY_UNMAP0_SAT c.sat die).bumpSat .DCTL_TALLY_UNMAP0_NONFIN c.nonfin die).bumpSat
      .DCTL_TALLY_UNMAP1_UNDER c.under die

/-! ### Steering -/

/-- Whether a steered descriptor of step t finds its row stale (R107): an update has written the row since its seeding, and
the last one was of a step earlier than t - 1, modulo 2^32. -/
def State.stale (s : State) (die row step : Nat) : Bool :=
  let r := KMap.get (s.die die).cache row ⟨0, false⟩
  r.updated && decide (2 ^ 31 ≤ (r.lastStep + 2 ^ 32 + 1 - step % 2 ^ 32) % 2 ^ 32)

/-- Format code and coarse scale that the steering cache gives a row and role (R107, R263). -/
def State.steered (s : State) (die row role : Nat) : Nat × Nat :=
  (s.get .DCTL_STEER_ENT_FMT die (2 * row + role), s.get .DCTL_STEER_ENT_COARSE die (2 * row + role))

/-- A steered descriptor waits for its row: it is counted once and stays held (R107). -/
def State.steerHold (s : State) (core kind : Nat) (d : Desc) : State :=
  let s := s.hold core kind d
  let c := s.core core
  if c.steerWait.contains d then s
  else (s.setCore core { c with steerWait := c.steerWait ++ [d] }).bumpSat .DCTL_STEER_STAT_WAITS 1 (coreDie core)

/-- The stochastic-rounding inputs of a core's descriptor (R89, R93, R154). -/
def State.srIn (s : State) (core slot tid idx : Nat) : SrIn :=
  ⟨s.get .VEC_SRKEY_KEY_HI core slot * 2 ^ 32 + s.get .VEC_SRKEY_KEY_LO core slot, s.get .TDY_STEP_STEP core, tid, idx⟩

/-! ### Rows of elements in core memory -/

/-- Element c of the stored row that begins at a place (R76). -/
def State.elem (s : State) (f : Fmt) (loc c : Nat) : Nat :=
  let b := c * f.width
  leNat (s.rd (loc + b / 8) 4) / 2 ^ (b % 8) % 2 ^ f.width

/-- The bytes of a row of element codes, pads +0 (R76). -/
def packRow (f : Fmt) (codes : List Nat) : List Byte :=
  leBytes (f.rowBytes codes.length) (codes.foldr (fun c acc => c % 2 ^ f.width + 2 ^ f.width * acc) 0)

/-- Whether two lists of spans share a byte. -/
def spansMeet (a b : Spans) : Bool :=
  a.any fun x => b.any fun y => decide (0 < x.2 ∧ 0 < y.2 ∧ x.1 < y.1 + y.2 ∧ y.1 < x.1 + x.2)

/-- The size of core memory (R123). -/
def coreMem : Nat := 0x400000

/-- Whether every span ends within core memory. -/
def spansFit (a : Spans) : Bool := a.all fun x => decide (x.1 + x.2 ≤ coreMem)

/-- One converted row: its codes, its fine-scale codes (none for a format without them), and its counts (R84, R98, R99). The values are x / c, and rnd gives the rounding rule of each element. -/
def convertRow (f : Fmt) (clip : Nat) (sat : Bool) (rnd : Nat → Round) (vals : List Num) :
    List Nat × List Nat × Counts :=
  if f.hasFine then
    let rows : List (List (Nat × Counts) × Nat) := (chunks 32 vals).zipIdx.map fun (blk, g) =>
      let e := fineCode f clip blk
      let cs := blk.zipIdx.map fun ((x : Num), j) =>
        convert (x.mul (.fin (Ex.pow2 (127 - (e : Int))))) f (rnd (32 * g + j)) true
      (cs, e)
    (rows.flatMap fun r => r.1.map (·.1), rows.map (·.2),
      rows.foldl (fun acc r => r.1.foldl (fun a c => a.add c.2) acc) {})
  else
    let cs : List (Nat × Counts) := vals.zipIdx.map fun (x, j) => convert x f (rnd j) sat
    (cs.map (·.1), [], cs.foldl (fun a c => a.add c.2) {})

end Sys2Proof.Machine
end

