-- ==== Sys2Proof/Machine/Mxe.lean ====
section
/-! DEFINITION. The matrix engine (chapter 07, R113 to R137): the MMA descriptor, exact group sums, the ACC52 accumulator,
output with conversion and row statistics, and accesses of accumulator memory. -/
namespace Sys2Proof.Machine

/-- The fields of an MMA descriptor (R144), addresses and distances in bytes. -/
structure Mma where
  aAddr : Nat
  bAddr : Nat
  aLd : Nat
  bLd : Nat
  aScl : Nat
  bScl : Nat
  aSld : Nat
  bSld : Nat
  aCoarse : Nat
  bCoarse : Nat
  outCoarse : Nat
  outAddr : Nat
  outLd : Nat
  idx : Nat
  tid : Nat
  k : Nat
  m : Nat
  n : Nat
  tile : Nat
  ovw : Bool
  out : Bool
  stats : Bool
  steer : Bool
  aFmt : Nat
  bFmt : Nat
  outFmt : Nat
  aTrans : Bool
  bTrans : Bool
  aBax : Bool
  bBax : Bool
  round : Nat
  sat : Bool
  slot : Nat
  maskMode : Nat
  maskAddr : Nat
  maskBit : Nat
  role : Nat
  outScl : Nat
  rescale : Nat
  statsAddr : Nat
  idxRow : Nat
deriving DecidableEq, Repr

/-- Reads the fields (R143, R144). -/
def mmaOf (d : Desc) : Mma where
  aAddr := 64 * dbits d 1 15 0
  bAddr := 64 * dbits d 1 31 16
  aLd := 64 * (dbits d 1 47 32 + 1)
  bLd := 64 * (dbits d 1 63 48 + 1)
  aScl := 64 * dbits d 2 15 0
  bScl := 64 * dbits d 2 31 16
  aSld := dbits d 2 47 32 + 1
  bSld := dbits d 2 63 48 + 1
  aCoarse := dbits d 3 31 0
  bCoarse := dbits d 3 63 32
  outCoarse := dbits d 4 31 0
  outAddr := 64 * dbits d 4 47 32
  outLd := 64 * (dbits d 4 63 48 + 1)
  idx := dbits d 5 39 0
  tid := dbits d 5 63 40
  k := dbits d 6 19 0 + 1
  m := dbits d 6 25 20 + 1
  n := dbits d 6 31 26 + 1
  tile := dbits d 6 35 32
  ovw := dbit d 6 36
  out := dbit d 6 37
  stats := dbit d 6 38
  steer := dbit d 6 39
  aFmt := dbits d 6 43 40
  bFmt := dbits d 6 47 44
  outFmt := dbits d 6 51 48
  aTrans := dbit d 6 52
  bTrans := dbit d 6 53
  aBax := dbit d 6 54
  bBax := dbit d 6 55
  round := dbits d 6 57 56
  sat := dbit d 6 58
  slot := dbits d 6 60 59
  maskMode := dbits d 6 62 61
  maskAddr := dbits d 0 53 32
  maskBit := dbits d 0 56 54
  role := dbits d 6 63 63
  outScl := 64 * dbits d 7 15 0
  rescale := 256 * dbits d 7 29 16
  statsAddr := 512 * dbits d 7 42 30
  idxRow := dbits d 7 63 43

/-- Operand formats of R114. -/
def mmaFmt (c : Nat) : Option Fmt :=
  match Fmt.ofCode c with
  | some .wf16 => none | some .s8 => none | some .i32 => none
  | x => x

/-- Spans of operand A, operand B, their scales, the mask and the rescale table, each with the field that places it. -/
def Mma.readParts (x : Mma) (d : Desc) (fa fb : Fmt) : List (Spans × BadField) :=
  [(if x.aTrans then rowSpans x.aAddr x.aLd x.k (fa.rowBytes x.m) else rowSpans x.aAddr x.aLd x.m (fa.rowBytes x.k), (64, dbits d 1 15 0)),
    (if x.bTrans then rowSpans x.bAddr x.bLd x.n (fb.rowBytes x.k) else rowSpans x.bAddr x.bLd x.k (fb.rowBytes x.n), (80, dbits d 1 31 16)),
    (if x.aScl = 0 then [] else rowSpans x.aScl x.aSld x.m (ceilDiv x.k 32), (128, dbits d 2 15 0)),
    (if x.bScl = 0 then [] else rowSpans x.bScl x.bSld x.n (ceilDiv x.k 32), (144, dbits d 2 31 16)),
    (if x.maskMode = 1 then [(x.maskAddr, 8)] else if x.maskMode = 2 then [(x.maskAddr, 1)] else [], (32, x.maskAddr)),
    (if x.out ∧ x.rescale ≠ 0 then [(x.rescale, 256)] else [], (464, dbits d 7 29 16))]

def Mma.reads (x : Mma) (d : Desc) (fa fb : Fmt) : Spans := (x.readParts d fa fb).flatMap (·.1)

/-- Spans of the output, its scales and its statistics, each with the field that places it. -/
def Mma.writeParts (x : Mma) (d : Desc) (fo : Fmt) : List (Spans × BadField) :=
  if x.out then
    [(rowSpans x.outAddr x.outLd x.m (fo.rowBytes x.n), (288, dbits d 4 47 32)),
      (if fo.hasFine then [(x.outScl, 2 * x.m)] else [], (448, dbits d 7 15 0)),
      (if x.stats then [(x.statsAddr, 8 * x.m)] else [], (478, dbits d 7 42 30))]
  else []

/-- Format faults of an MMA (R77, R88, R96, R100, R523), with output format fo and output coarse scale co. -/
def Mma.fmtFault (x : Mma) (d : Desc) (fo co : Nat) : Option BadField :=
  let fine (c : Nat) := ((Fmt.ofCode c).map Fmt.hasFine).getD false
  let coarse (c : Nat) := ((Fmt.ofCode c).map Fmt.hasCoarse).getD false
  firstBad [
    ((mmaFmt x.aFmt).isSome, (424, x.aFmt)),
    ((mmaFmt x.bFmt).isSome, (428, x.bFmt)),
    (x.steer || (Fmt.ofCode x.outFmt).isSome, (432, x.outFmt)),
    (decide (x.round ≠ 3), (440, x.round)),
    (!coarse x.aFmt || coarseOk x.aCoarse, (192, x.aCoarse)),
    (!coarse x.bFmt || coarseOk x.bCoarse, (224, x.bCoarse)),
    (!x.out || !coarse fo || x.steer || coarseOk co, (256, co)),
    (x.aScl == 0 || fine x.aFmt, (128, dbits d 2 15 0)),
    (x.bScl == 0 || fine x.bFmt, (144, dbits d 2 31 16)),
    (!x.out || x.steer || fine fo || x.outScl == 0, (448, dbits d 7 15 0)),
    (!x.out || !fine fo || x.outScl != 0, (448, 0)),
    (x.aScl == 0 || x.aBax == x.aTrans, (438, b2n x.aBax)),
    (x.bScl == 0 || x.bBax == !x.bTrans, (439, b2n x.bBax)),
    (!x.out || x.round != 2 || decide (x.idx + (x.m - 1) * x.idxRow + (x.n - 1) < 2 ^ 40), (320, x.idx))]

/-- Other faults of an MMA (R114, R117, R134, R143, R144). -/
def Mma.fault (x : Mma) (d : Desc) (fa fb fo : Fmt) : Option BadField :=
  firstBad ([
    (!x.steer || dbits d 4 31 10 == 0, (266, dbits d 4 31 10)),
    (decide (x.maskMode ≠ 3), (445, x.maskMode)),
    (x.maskMode != 1 || x.maskAddr % 8 == 0, (32, x.maskAddr)),
    (x.aScl == 0 || decide (ceilDiv x.k 32 ≤ x.aSld), (160, dbits d 2 47 32)),
    (x.bScl == 0 || decide (ceilDiv x.k 32 ≤ x.bSld), (176, dbits d 2 63 48)),
    (!x.out || x.idxRow != 0, (491, x.idxRow))] ++
    ((x.readParts d fa fb ++ x.writeParts d fo).map fun p => (spansFit p.1, p.2)) ++
    (x.writeParts d fo).map fun p => (!spansMeet (x.reads d fa fb) p.1, p.2))

/-! ### Group sums and the accumulator -/

/-- floor(v / 2^t) and whether bits were lost. -/
def floorAt (v : Ex) (t : Int) : Int × Bool :=
  let (q, r, _) := scaleQ v.num v.den (v.exp - t)
  if v.neg then (if r = 0 then -(q : Int) else -(q : Int) - 1, decide (r ≠ 0)) else ((q : Int), decide (r ≠ 0))

/-- The group sum T of a list of exact products, with the sticky bit (R118, R121). -/
def groupSum (ps : List Num) : Num × Bool :=
  if ps.any Num.isNaN then (.nan, false)
  else
    let pos := ps.any fun p => match p with | .inf false => true | _ => false
    let neg := ps.any fun p => match p with | .inf true => true | _ => false
    if pos && neg then (.nan, false)
    else if pos then (.inf false, false)
    else if neg then (.inf true, false)
    else
      let vs := ps.filterMap fun p => match p with | .fin v => if v.num = 0 then none else some v | _ => none
      match vs with
      | [] => (.fin (Ex.zero false), false)
      | v :: rest =>
        let l := rest.foldl (fun a x => max a x.log2) v.log2
        let ts := vs.map fun x => floorAt x (l - 55)
        let t : Int := ts.foldl (fun a x => a + x.1) 0
        (.fin ⟨decide (t < 0), t.natAbs, 1, l - 55⟩, ts.any (·.2))

/-- The value of an ACC52 code (R119). -/
def accVal (c : Nat) : Num :=
  let mag := c % 2 ^ 51
  let neg := bit c 51
  if mag < 0x3ff * 2 ^ 41 then .fin (acc52.value neg mag) else if mag = 0x3ff * 2 ^ 41 then .inf neg else .nan

/-- The canonical NaN of ACC52 (R119). -/
def accNaN : Nat := 0x3ff * 2 ^ 41 + 2 ^ 40

/-- Whether an exact value lies half way between two ACC52 values (R120). -/
def accTie (v : Ex) : Bool :=
  if v.num = 0 then false
  else
    let k := max v.log2 (-510)
    let (_, r, d) := scaleQ v.num v.den (v.exp - (k - 41))
    decide (2 * r = d)

/-- The ACC52 code of a value rounded once under rnd; a finite result beyond the range is an infinity (R120). -/
def accCode (rnd : Round) : Num → Nat
  | .nan => accNaN
  | .inf neg => b2n neg * 2 ^ 51 + 0x3ff * 2 ^ 41
  | .fin v => b2n v.neg * 2 ^ 51 + min (acc52.round rnd v) (0x3ff * 2 ^ 41)

/-- One addition of a group sum into an accumulator element (R120, R121): the new code, and 1 when the sticky bit decided a
tie. An exact sum of zero gives +0. -/
def accAdd (c : Nat) (t : Num) (sticky : Bool) : Nat × Nat :=
  match (accVal c).add t with
  | .fin v =>
    if v.num = 0 then (0, 0)
    else if sticky then (accCode .tieGreater (.fin v), b2n (accTie v)) else (accCode .rne (.fin v), 0)
  | x => (accCode .rne x, 0)

/-- comb of R162: the sum of two ACC52 partials rounded once under RNE; the sum of two zeros is -0 only when both are. -/
def accComb (a b : Nat) : Nat := accCode .rne ((accVal a).add (accVal b))

/-- The place of accumulator element (i, j) of a tile (R123). -/
def accLoc (core tile i j : Nat) : Nat := coreLoc core (0x400000 + tile * 0x8000 + (64 * i + j) * 8)

/-- An accumulator element's code. -/
def State.acc (s : State) (core tile i j : Nat) : Nat := leNat (s.rd (accLoc core tile i j) 8) % 2 ^ 52

def State.setAcc (s : State) (core tile i j c : Nat) : State := s.wr (accLoc core tile i j) (leBytes 8 c)

/-! ### One descriptor -/

/-- Operand element A[i][k] or B[k][j]: the row r of the operand and its position k along the reduction, with its fine
scale; trans says that the stored rows run along k. -/
def State.operand (s : State) (core : Nat) (f : Fmt) (addr ld scl sld : Nat) (rowIsK : Bool) (r k : Nat) : Num :=
  let code := if rowIsK then s.elem f (coreLoc core (addr + k * ld)) r else s.elem f (coreLoc core (addr + r * ld)) k
  let x := f.decode code
  if scl = 0 then x else applyFine x (Mem.read s.mem (coreLoc core (scl + r * sld + k / 32))).toNat

/-- Products of group g of element (i, j) (R118). -/
def State.products (s : State) (core : Nat) (x : Mma) (fa fb : Fmt) (i j g : Nat) : List Num :=
  (List.range (min 32 (x.k - 32 * g))).map fun q =>
    let k := 32 * g + q
    (s.operand core fa x.aAddr x.aLd x.aScl x.aSld x.aTrans i k).mul
      (s.operand core fb x.bAddr x.bLd x.bScl x.bSld (!x.bTrans) j k)

/-- The live rows of a descriptor (R129). -/
def State.liveRows (s : State) (core : Nat) (x : Mma) : List Nat :=
  match x.maskMode with
  | 1 => bitList (leNat (s.rd (coreLoc core x.maskAddr) 8)) x.m
  | 2 => if bit (Mem.read s.mem (coreLoc core x.maskAddr)).toNat x.maskBit then List.range x.m else []
  | _ => List.range x.m

/-- The bytes of n elements of a stored row from element c on. -/
def Fmt.elemSpan (f : Fmt) (row c n : Nat) : Nat × Nat :=
  (row + c * f.width / 8, ((c + n) * f.width + 7) / 8 - c * f.width / 8)

/-- The operand and scale bytes that group g reads for rows of an operand (R115, R117). -/
def groupSpans (f : Fmt) (addr ld scl sld : Nat) (rowIsK : Bool) (k g : Nat) (rows : List Nat) : Spans :=
  let n := min 32 (k - 32 * g)
  rows.flatMap fun r =>
    (if rowIsK then (List.range n).map fun q => f.elemSpan (addr + (32 * g + q) * ld) r 1 else [f.elemSpan (addr + r * ld) (32 * g) n]) ++
      (if scl = 0 then [] else [(scl + r * sld + g, 1)])

/-- The first poisoned word that a descriptor meets before its output, with the group in which it meets it: in its mask, which it reads when
it starts; then, group by group, in the operands and scales of its live rows, and in the tile elements that it adds to. A descriptor
without a live row forms no product and reads no operand (R129, R168, R253). -/
def State.poisonGroup (s : State) (core : Nat) (x : Mma) (fa fb : Fmt) : Option (Nat × Nat) :=
  if s.poison = [] then none
  else
    let hit (sp : Spans) : Option Nat := sp.findSome? fun p => s.poisonIn (coreLoc core p.1) p.2
    match hit (if x.maskMode = 1 then [(x.maskAddr, 8)] else if x.maskMode = 2 then [(x.maskAddr, 1)] else []) with
    | some p => some (0, p)
    | none =>
      let live := s.liveRows core x
      if live = [] then none
      else
        (List.range (ceilDiv x.k 32)).findSome? fun g =>
          (hit (groupSpans fa x.aAddr x.aLd x.aScl x.aSld x.aTrans x.k g live ++
            groupSpans fb x.bAddr x.bLd x.bScl x.bSld (!x.bTrans) x.k g (List.range x.n) ++
            (if x.ovw ∨ g ≠ 0 then [] else live.map fun i => (0x400000 + x.tile * 0x8000 + 512 * i, 8 * x.n)))).map fun p => (g, p)

/-- The first poisoned word that the output stage reads: in the rescale table, or in the tile (R168). -/
def State.poisonOut (s : State) (core : Nat) (x : Mma) : Option Nat :=
  if s.poison = [] ∨ !x.out then none
  else
    ((if x.rescale = 0 then [] else [(x.rescale, 4 * x.n)]) ++
      (List.range x.m).map fun i => (0x400000 + x.tile * 0x8000 + 512 * i, 8 * x.n)).findSome? fun p => s.poisonIn (coreLoc core p.1) p.2

/-- What the additions of a descriptor count: groups with a sticky bit and ties it decided (R136) (DEDUCED, log entry 24). -/
structure MmaCount where
  sticky : List Nat
  ties : Nat
deriving DecidableEq, Repr

/-- The additions of groups 0 to ng - 1 into the element (i, j), from code c0 (R113, R120, R122). -/
def State.elemAdd (s : State) (core : Nat) (x : Mma) (fa fb : Fmt) (i j ng c0 : Nat) : Nat × MmaCount :=
  (List.range ng).foldl (fun acc g =>
    let (t, st) := groupSum (s.products core x fa fb i j g)
    let (c, tie) := accAdd acc.1 t st
    (c, ⟨if st then g :: acc.2.sticky else acc.2.sticky, acc.2.ties + tie⟩)) (c0, ⟨[], 0⟩)

/-- All additions of a descriptor (R113, R129): live rows take their groups, other rows become +0 under OVW (DEDUCED, log entry 24). -/
def State.mmaAdd (s : State) (core : Nat) (x : Mma) (fa fb : Fmt) (ng : Nat) : State × MmaCount :=
  let live := s.liveRows core x
  ((List.range x.m).flatMap fun i => (List.range x.n).map fun j => (i, j)).foldl (fun acc ij =>
    let (i, j) := ij
    if live.contains i then
      let (c, n) := s.elemAdd core x fa fb i j ng (if x.ovw then 0 else s.acc core x.tile i j)
      (acc.1.setAcc core x.tile i j c, ⟨(n.sticky ++ acc.2.sticky).eraseDups, acc.2.ties + n.ties⟩)
    else if x.ovw then (acc.1.setAcc core x.tile i j 0, acc.2)
    else acc) (s, ⟨[], 0⟩)

/-- The factor f_j of an output column (R101). -/
def State.factor (s : State) (core : Nat) (x : Mma) (fa fb fo : Fmt) (co j : Nat) : Num :=
  let r : Num := if x.rescale = 0 then .fin (Ex.ofNat 1)
    else Fmt.fp32.decode (leNat (s.rd (coreLoc core (x.rescale + 4 * j)) 4))
  div32 (mul32 (mul32 (.fin (coarseVal fa x.aCoarse)) (.fin (coarseVal fb x.bCoarse))) r) (.fin (coarseVal fo co))

/-- Row statistics of R128: the codes of m and l (DEDUCED, log entry 24). -/
def rowStats (xs : List Num) : Nat × Nat :=
  let m := xs.foldl Num.max (xs.headD .nan)
  let l : Num :=
    match m with
    | .inf true => .fin (Ex.zero false)
    | .inf false => .nan
    | .nan => .nan
    | .fin _ => pairSum64 (xs.map fun x => exp32 (sub32 x m))
  (rne32c m, rne32c l)

/-- The output stage of one row: its bytes, scale codes, counts, statistics, and the greatest finite source magnitude
(R98, R101, R127, R128). -/
def State.outRow (s : State) (core : Nat) (x : Mma) (fa fb fo : Fmt) (co clip : Nat) (sr : SrIn) (i : Nat) :
    List Byte × List Nat × Counts × (Nat × Nat) × Ex :=
  let vals := (List.range x.n).map fun j => (accVal (s.acc core x.tile i j)).mul (s.factor core x fa fb fo co j)
  let (codes, scl, cnt) := convertRow fo clip (x.sat || scaled fo co)
    (fun j => roundOf x.round sr (x.idx + i * x.idxRow + j)) vals
  (packRow fo codes, scl, cnt, rowStats (vals.map rne32), (amaxOf vals).mul (coarseVal fo co))

/-- The whole output stage (R127): rows, scales, statistics and the tally of TID (DEDUCED, log entry 24). -/
def State.mmaOut (s : State) (core : Nat) (x : Mma) (fa fb fo : Fmt) (co clip : Nat) (pol : List Byte) : State :=
  let sr := s.srIn core x.slot x.tid x.idx
  (List.range x.m).foldl (fun acc i =>
    let (bs, scl, cnt, st, am) := s.outRow core x fa fb fo co clip sr i
    let acc := acc.wr (coreLoc core (x.outAddr + i * x.outLd)) bs
    let acc := if fo.hasFine then acc.wr (coreLoc core (x.outScl + 2 * i)) (scl.map (BitVec.ofNat 8)) else acc
    let acc := if x.stats then acc.wr (coreLoc core (x.statsAddr + 8 * i)) (leBytes 4 st.1 ++ leBytes 4 st.2) else acc
    acc.tallyAdd (coreDie core) pol x.tid cnt (amaxCode am)) s

/-- The matrix engine refuses a descriptor (R134, R137, R155): EV_FMT_ILLEGAL for a format fault, EV_MXE_DESC otherwise. -/
def State.mxeRefuse (s : State) (core : Nat) (d : Desc) (isFmt : Bool) (b : BadField) : State :=
  let h := s.heldFor core kMxe d
  let s := if isFmt then s.fmtIllegal (srcCore core) (descClass d) b
    else s.log' (srcCore core) 0x4003 2 [(2, core), (2, b.1), (8, b.2), (4, h.qid)]
  (s.bump .MXE_STATUS_REFUSED 1 core).refuse core kMxe d

/-- The work of an admitted MMA descriptor: additions, counters, output, completion (R113, R127, R136). At a poisoned word it ends as refused;
what it has added by then stays (R168) (DEDUCED, log entry 24). -/
def State.mmaRun (s : State) (core : Nat) (d : Desc) (x : Mma) (fa fb fo : Fmt) (co clip : Nat) (pol : List Byte) : State :=
  let groups := ceilDiv x.k 32
  let live := (s.liveRows core x).length
  let pg := s.poisonGroup core x fa fb
  let ng := (pg.map (·.1)).getD groups
  let (s1, n) := if pg.isSome ∧ ng = 0 then (s, ⟨[], 0⟩) else s.mmaAdd core x fa fb ng
  let s1 := s1.bump .MXE_GROUPS_COUNT (if live = 0 then 0 else ng) core
  let s1 := (s1.bumpSat .MXE_STICKY_GROUPS n.sticky.length core).bumpSat .MXE_STICKY_TIES n.ties core
  let s1 := (s1.bumpSat .MXE_MASKED_ROWS (x.m - live) core).bumpSat .MXE_MASKED_TILES (b2n (live == 0)) core
  -- R160: a tile is live from an MMA with OUT = 0 until one with OUT = 1
  match (pg.map (·.2)).or (s1.poisonOut core x) with
  | some p =>
    let s1 := if ng ≠ 0 ∧ !x.out then s1.setBit .TDY_STATUS_TILE_LIVE x.tile true core else s1
    ((s1.coreUe (srcCore core) core p).bump .MXE_STATUS_REFUSED 1 core).refuse core kMxe d
  | none =>
    let s1 := s1.setBit .TDY_STATUS_TILE_LIVE x.tile (!x.out) core
    let s2 := if x.out then s1.mmaOut core x fa fb fo co clip pol else s1
    s2.complete core kMxe d

/-- The bytes of core memory that a descriptor reads and writes, as R133 follows them: of an MMA descriptor, a stripe's filter (R216), and an
expanding gather's up-projection and rows (R239). -/
def unitSpans (kind : Nat) (d : Desc) : Spans × Spans :=
  if kind = kMxe then
    let x := mmaOf d
    let fa := (mmaFmt x.aFmt).getD .fp32
    let fb := (mmaFmt x.bFmt).getD .fp32
    (x.reads d fa fb, (x.writeParts d (if x.steer then .fp32 else (Fmt.ofCode x.outFmt).getD .fp32)).flatMap (·.1))
  else if kind = kWin then
    let taps := (dbits d 3 3 0 + 1) * (dbits d 3 7 4 + 1) * (dbits d 3 10 8 + 1)
    ([(64 * dbits d 5 15 0, taps * (32 * ceilDiv (dbits d 2 63 48 + 1) 32) * (64 * ceilDiv (dbits d 5 31 16 + 1) 32))], [])
  else
    let rank := dbits d 2 25 16 + 1
    let n := (dbits d 2 15 0 + 1) * (if dbits d 1 63 62 = 3 then 2 else 1)
    ([(64 * dbits d 3 47 32 + dbits d 1 61 54 * 2 * rank * 256, 2 * rank * 256)],
      rowSpans (64 * dbits d 3 15 0) (64 * (dbits d 3 31 16 + 1)) n 256)

/-- A descriptor that adds into tiles waits for the bytes that such descriptors of its core, issued before it to other units, still write or
read (R133, R215, R239). -/
def State.spansClear (s : State) (core kind : Nat) (d : Desc) : Bool :=
  let x := unitSpans kind d
  (s.ahead core kind d).all fun h =>
    let y := unitSpans h.kind h.d
    h.kind == kind || (tilesOf h.kind h.d).isEmpty || (!spansMeet x.1 y.2 && !spansMeet x.2 y.1)

/-- An MMA descriptor at its engine: refused on a fault; waits its turn (R152), and on a stale steering row (R107); otherwise it
runs. -/
def State.mmaStart (s : State) (core : Nat) (d : Desc) : State :=
  if !s.canStart core kMxe d ∨ !s.spansClear core kMxe d then s.hold core kMxe d
  else
    let x := mmaOf d
    let row := dbits d 4 9 0
    if x.steer && s.stale (coreDie core) row (s.get .TDY_STEP_STEP core) then s.steerHold core kMxe d
    else
      let st := s.steered (coreDie core) row x.role
      let fo := if x.steer then st.1 else x.outFmt
      let co := if x.steer then st.2 else x.outCoarse
      match x.fmtFault d fo co, mmaFmt x.aFmt, mmaFmt x.bFmt with
      | none, some fa, some fb =>
        let ff := (Fmt.ofCode fo).getD .fp32
        match x.fault d fa fb ff with
        | some b => s.mxeRefuse core d false b
        | none =>
          let pol := (s.bankFor (unitClu (coreClu core)) (s.heldFor core kMxe d).beat).sec 6
          let clip := clipOf pol (if x.steer then some (row, x.role) else none) x.tid
          s.mmaRun core d x fa fb ff co clip pol
      | some b, _, _ => s.mxeRefuse core d true b
      | none, _, _ => s.mxeRefuse core d true (424, x.aFmt)

/-- MMA_DESCRIPTOR (R142, R144). -/
def execMmaDescriptor (core : Nat) (d : Desc) (s : State) : Res :=
  onUnit (s.coreOk core) (.next (s.atUnit core kMxe d fun s => s.mmaStart core d))

/-- An access of accumulator containers at a place: it waits while a descriptor issued before it uses a tile that it touches, then moves them;
outside an accumulator window it is refused (R123, R125, R126). -/
def State.accAt (s : State) (by_ : Agent) (loc : Nat) (write : Bool) (data : List Byte) : State :=
  if isAcc loc then
    let c := s.core (accCore loc)
    if s.tilesBusy (accCore loc) c.seq (accTiles (accOff loc) data.length) then
      s.setCore (accCore loc) { c with accWait := c.accWait ++ [⟨by_, accOff loc, write, data, c.seq⟩] }
    else s.accDo by_ (accCore loc) (accOff loc) write data
  else s.emit (.answer by_ false [])

/-- A read or write of accumulator memory by its DA; from an agent without reach it is refused (R488). -/
def State.accAccess (s : State) (by_ : Agent) (da : Nat) (write : Bool) (data : List Byte) : State :=
  match s.resolve by_ (s.carveBank by_) da with
  | .at loc => s.accAt by_ loc write data
  | _ => (s.unmappedEv by_ da).emit (.answer by_ false [])

/-- ACCMEM_ACCESS (R126). -/
def execAccmemAccess (by_ : Agent) (da : Nat) (write : Bool) (data : List Byte) (s : State) : Res := .next (s.accAccess by_ da write data)

end Sys2Proof.Machine
end

