-- ==== Sys2Proof/Machine/Vec.lean ====
section
/-! DEFINITION. The vector engine (R85, R138 to R147, R522): the convert and the vector operations. -/
namespace Sys2Proof.Machine

/-- The fields of a vector-op or convert descriptor (R146), addresses and distances in bytes. -/
structure VecD where
  op : Nat
  srcA : Nat
  srcB : Nat
  dst : Nat
  aLd : Nat
  bLd : Nat
  dstLd : Nat
  srcScl : Nat
  dstScl : Nat
  srcCoarse : Nat
  dstCoarse : Nat
  rows : Nat
  cols : Nat
  srcFmt : Nat
  dstFmt : Nat
  bFmt : Nat
  round : Nat
  sat : Bool
  slot : Nat
  steer : Bool
  role : Nat
  bcast : Nat
  idx : Nat
  tid : Nat
  imm : Nat
  idxRow : Nat
  srcSld : Nat
  dstSld : Nat
deriving DecidableEq, Repr

def vecOf (d : Desc) : VecD where
  op := dbits d 0 39 32
  srcA := 64 * dbits d 1 15 0
  srcB := 64 * dbits d 1 31 16
  dst := 64 * dbits d 1 47 32
  aLd := 64 * (dbits d 1 63 48 + 1)
  bLd := 64 * (dbits d 2 15 0 + 1)
  dstLd := 64 * (dbits d 2 31 16 + 1)
  srcScl := 64 * dbits d 2 47 32
  dstScl := 64 * dbits d 2 63 48
  srcCoarse := dbits d 3 31 0
  dstCoarse := dbits d 3 63 32
  rows := dbits d 4 15 0 + 1
  cols := dbits d 4 37 16 + 1
  srcFmt := dbits d 4 41 38
  dstFmt := dbits d 4 45 42
  bFmt := dbits d 4 56 53
  round := dbits d 4 47 46
  sat := dbit d 4 48
  slot := dbits d 4 50 49
  steer := dbit d 4 51
  role := dbits d 4 52 52
  bcast := dbits d 4 58 57
  idx := dbits d 5 39 0
  tid := dbits d 5 63 40
  imm := dbits d 6 31 0
  idxRow := dbits d 6 52 32
  srcSld := dbits d 7 15 0 + 1
  dstSld := dbits d 7 31 16 + 1

/-- Whether an operation code is one that R147 lists. -/
def vecOpListed (op : Nat) : Bool := decide (1 ≤ op ∧ op ≤ 12) || decide (16 ≤ op ∧ op ≤ 18)

/-- A row operation writes one element per row (R147). -/
def vecRowOp (op : Nat) : Bool := decide (16 ≤ op ∧ op ≤ 18)

/-- Elements of a destination row. -/
def VecD.dstCols (x : VecD) (conv : Bool) : Nat := if !conv && vecRowOp x.op then 1 else x.cols

/-- Whether an operation takes b as well as a (R147). -/
def vecTakesB (op : Nat) : Bool := decide (1 ≤ op ∧ op ≤ 7)

/-- The fields that are reserved beyond word 0 (R143, R146): a convert reserves the fields of source B, BCAST and IMM. -/
def vecReserved (conv steer : Bool) : List (Nat × Nat × Nat) :=
  (if conv then [(1, 31, 16), (2, 15, 0)] else []) ++
  (if steer then [(3, 63, 42)] else []) ++
  (if conv then [(4, 56, 53), (4, 58, 57)] else []) ++ [(4, 63, 59)] ++
  (if conv then [(6, 31, 0)] else []) ++ [(6, 63, 53), (7, 63, 32)]

/-- Whether a vector op admits a source format: not S8 or I32 (R146). -/
def vecSrc (conv : Bool) (c : Nat) : Bool :=
  match Fmt.ofCode c with
  | none => false
  | some f => conv || (f != .s8 && f != .i32)

/-- Format faults of R77, R96 and R523, with destination format fd and coarse scale co. B_FMT is looked at only
where b is used (DESIGN CHOICE, log entry 58). -/
def VecD.fmtFault (x : VecD) (d : Desc) (conv : Bool) (fd co : Nat) : Option BadField :=
  let fine (c : Nat) := ((Fmt.ofCode c).map Fmt.hasFine).getD false
  let coarse (c : Nat) := ((Fmt.ofCode c).map Fmt.hasCoarse).getD false
  firstBad [
    (vecSrc conv x.srcFmt, (294, x.srcFmt)),
    (x.steer || (Fmt.ofCode x.dstFmt).isSome, (298, x.dstFmt)),
    (conv || x.bcast == 3 || !vecTakesB x.op || vecSrc conv x.bFmt, (309, x.bFmt)),
    (decide (x.round ≠ 3), (302, x.round)),
    (!coarse x.srcFmt || coarseOk x.srcCoarse, (192, x.srcCoarse)),
    (x.steer || !coarse fd || coarseOk co, (224, co)),
    (x.srcScl == 0 || fine x.srcFmt, (160, dbits d 2 47 32)),
    (x.steer || fine fd || x.dstScl == 0, (176, dbits d 2 63 48)),
    (!fine fd || x.dstScl != 0, (176, 0)),
    (x.round != 2 || decide (x.idx + (x.rows - 1) * x.idxRow + (x.dstCols conv - 1) < 2 ^ 40), (320, x.idx))]

/-- Spans of the sources and their scales for n rows from row r on, each with the field that places it. -/
def VecD.readParts (x : VecD) (d : Desc) (conv : Bool) (fa fb : Fmt) (r n : Nat) : List (Spans × BadField) :=
  [(rowSpans (x.srcA + r * x.aLd) x.aLd n (fa.rowBytes x.cols), (64, dbits d 1 15 0)),
    (if conv || !vecTakesB x.op then []
      else match x.bcast with
        | 0 => rowSpans (x.srcB + r * x.bLd) x.bLd n (fb.rowBytes x.cols)
        | 1 => [(x.srcB, fb.rowBytes x.cols)]
        | 2 => rowSpans (x.srcB + r * x.bLd) x.bLd n (fb.rowBytes 1)
        | _ => [], (80, dbits d 1 31 16)),
    (if x.srcScl = 0 then [] else rowSpans (x.srcScl + r * x.srcSld) x.srcSld n (ceilDiv x.cols 32), (160, dbits d 2 47 32))]

/-- Spans of the destination and its scales, each with the field that places it. -/
def VecD.writeParts (x : VecD) (d : Desc) (conv : Bool) (fd : Fmt) : List (Spans × BadField) :=
  [(rowSpans x.dst x.dstLd x.rows (fd.rowBytes (x.dstCols conv)), (96, dbits d 1 47 32)),
    (if fd.hasFine then rowSpans x.dstScl x.dstSld x.rows (ceilDiv (x.dstCols conv) 32) else [], (176, dbits d 2 63 48))]

/-- The other refusals of R522: reserved bits, an unlisted OP, a row length of 0, a range past core memory. -/
def VecD.fault (x : VecD) (d : Desc) (conv : Bool) (fa fb fd : Fmt) : Option BadField :=
  match firstReserved d (vecReserved conv x.steer) with
  | some b => some b
  | none => firstBad ([
    (conv || vecOpListed x.op, (32, x.op)),
    (x.idxRow != 0, (416, x.idxRow))] ++
    (x.readParts d conv fa fb 0 x.rows ++ x.writeParts d conv fd).map fun p => (spansFit p.1, p.2))

/-- Source element (r, c) with its scales: the stored value times the fine and coarse scale (R95). -/
def State.vecA (s : State) (core : Nat) (x : VecD) (f : Fmt) (r c : Nat) : Num :=
  let v := f.decode (s.elem f (coreLoc core (x.srcA + r * x.aLd)) c)
  let v := if x.srcScl = 0 then v
    else applyFine v (Mem.read s.mem (coreLoc core (x.srcScl + r * x.srcSld + c / 32))).toNat
  v.mul (.fin (coarseVal f x.srcCoarse))

/-- The element b that BCAST selects (R146). -/
def State.vecB (s : State) (core : Nat) (x : VecD) (f : Fmt) (r c : Nat) : Num :=
  match x.bcast with
  | 0 => f.decode (s.elem f (coreLoc core (x.srcB + r * x.bLd)) c)
  | 1 => f.decode (s.elem f (coreLoc core x.srcB) c)
  | 2 => f.decode (s.elem f (coreLoc core (x.srcB + r * x.bLd)) 0)
  | _ => Fmt.fp32.decode x.imm

/-- The operation of an element (R147): computed from the exact source values and rounded once to FP32 under RNE (R138); a
function of R139 takes its FP32 input. -/
def vecElem (op : Nat) (imm a b : Num) : Num :=
  match op with
  | 1 => add32 a b
  | 2 => sub32 a b
  | 3 => mul32 a b
  | 4 => rne32 ((a.mul imm).add b)
  | 5 => rne32 (a.max b)
  | 6 => rne32 (a.min b)
  | 7 => exp32 (sub32 a b)
  | 8 => log32 (rne32 a)
  | 9 => rsqrt32 (rne32 a)
  | 10 => recip32 (rne32 a)
  | 11 => tanh32 (rne32 a)
  | _ => sigmoid32 (rne32 a)

/-- A row sum: chunks of 64 columns in the pairwise tree, then left to right (R147). -/
def rowSum (l : List Num) : Num :=
  match (chunks 64 l).map pairSum64 with
  | [] => .fin (Ex.zero false)
  | c :: cs => cs.foldl add32 c

/-- The result of a row operation (R147). -/
def vecRow (op : Nat) (l : List Num) : Num :=
  match op with
  | 16 => rowSum l
  | 17 => rne32 (l.foldl Num.max (l.headD .nan))
  | _ => rowSum (l.map fun a => mul32 a a)

/-- The values of one destination row, before conversion. -/
def State.vecVals (s : State) (core : Nat) (x : VecD) (conv : Bool) (fa fb : Fmt) (r : Nat) : List Num :=
  let as := (List.range x.cols).map fun c => s.vecA core x fa r c
  if conv then as
  else if vecRowOp x.op then [vecRow x.op as]
  else as.zipIdx.map fun ((a : Num), c) => vecElem x.op (Fmt.fp32.decode x.imm) a (s.vecB core x fb r c)

/-- The work of the first n rows of an admitted descriptor: each row is computed from the state before, converted and written; its counts go
to the tally of TID (R84, R98, R99, R102, R147). -/
def State.vecRun (s : State) (core : Nat) (x : VecD) (conv : Bool) (fa fb fd : Fmt) (co clip : Nat) (pol : List Byte) (n : Nat) : State :=
  let sr := s.srIn core x.slot x.tid x.idx
  let c := coarseVal fd co
  (List.range n).foldl (fun acc r =>
    let vals := s.vecVals core x conv fa fb r
    let (codes, scl, cnt) := convertRow fd clip (x.sat || scaled fd co)
      (fun j => roundOf x.round sr (x.idx + r * x.idxRow + j)) (vals.map fun v => v.div (.fin c))
    let acc := acc.wr (coreLoc core (x.dst + r * x.dstLd)) (packRow fd codes)
    let acc := if fd.hasFine then acc.wr (coreLoc core (x.dstScl + r * x.dstSld)) (scl.map (BitVec.ofNat 8)) else acc
    acc.tallyAdd (coreDie core) pol x.tid cnt (amaxCode (amaxOf vals))) s

/-- The vector engine refuses a descriptor (R522, R155). -/
def State.vecRefuse (s : State) (core : Nat) (d : Desc) (isFmt : Bool) (b : BadField) : State :=
  let h := s.heldFor core kVec d
  let s := if isFmt then s.fmtIllegal (srcCore core) (descClass d) b
    else s.log' (srcCore core) 0x4004 2 [(2, core), (2, b.1), (8, b.2), (4, h.qid)]
  s.refuse core kVec d

/-- The first row whose sources or scales meet a poisoned word, and that word (R168). -/
def State.vecPoison (s : State) (core : Nat) (x : VecD) (d : Desc) (conv : Bool) (fa fb : Fmt) : Option (Nat × Nat) :=
  if s.poison = [] then none
  else
    (List.range x.rows).findSome? fun r =>
      (((x.readParts d conv fa fb r 1).flatMap (·.1)).findSome? fun p => s.poisonIn (coreLoc core p.1) p.2).map fun p => (r, p)

/-- A vector-op or convert descriptor at its engine: it waits its turn (R152) and on a stale row (R107), is refused under R522, or runs and
completes; at a poisoned word it ends as refused, with the rows before it written (R168). -/
def State.vecStart (s : State) (core : Nat) (d : Desc) (conv : Bool) : State :=
  if !s.canStart core kVec d then s.hold core kVec d
  else
    let x := vecOf d
    let row := dbits d 3 41 32
    if x.steer && s.stale (coreDie core) row (s.get .TDY_STEP_STEP core) then s.steerHold core kVec d
    else
      let st := s.steered (coreDie core) row x.role
      let fd := if x.steer then st.1 else x.dstFmt
      let co := if x.steer then st.2 else x.dstCoarse
      let ff (c : Nat) := (Fmt.ofCode c).getD .fp32
      match firstReserved d (vecReserved conv x.steer) with
      | some b => s.vecRefuse core d false b
      | none =>
        if !conv && !vecOpListed x.op then s.vecRefuse core d false (32, x.op)
        else
          match x.fmtFault d conv fd co with
          | some b => s.vecRefuse core d true b
          | none =>
            match x.fault d conv (ff x.srcFmt) (ff x.bFmt) (ff fd) with
            | some b => s.vecRefuse core d false b
            | none =>
              let pol := (s.bankFor (unitClu (coreClu core)) (s.heldFor core kVec d).beat).sec 6
              let clip := clipOf pol (if x.steer then some (row, x.role) else none) x.tid
              let run (n : Nat) := s.vecRun core x conv (ff x.srcFmt) (ff x.bFmt) (ff fd) co clip pol n
              match s.vecPoison core x d conv (ff x.srcFmt) (ff x.bFmt) with
              | some (n, p) => ((run n).coreUe (srcCore core) core p).refuse core kVec d
              | none => (run x.rows).complete core kVec d

/-- The row of vector operation op: a descriptor whose OP is op runs; one whose OP R147 does not list is refused (R522);
one of another listed operation belongs to that operation's row. -/
def State.vecOpRow (s : State) (core : Nat) (d : Desc) (op : Nat) : Res :=
  onUnit (s.coreOk core) <|
    let o := dbits d 0 39 32
    if o = op ∨ !vecOpListed o then .next (s.atUnit core kVec d fun s => s.vecStart core d false) else .fault .otherRow

/-- VEC_CONVERT (R85): a descriptor of class 0x3. -/
def execVecConvert (core : Nat) (d : Desc) (s : State) : Res :=
  onUnit (s.coreOk core) (.next (s.atUnit core kVec d fun s => s.vecStart core d true))

def execVecAdd (core : Nat) (d : Desc) (s : State) : Res := s.vecOpRow core d 0x01
def execVecSub (core : Nat) (d : Desc) (s : State) : Res := s.vecOpRow core d 0x02
def execVecMul (core : Nat) (d : Desc) (s : State) : Res := s.vecOpRow core d 0x03
def execVecAxpb (core : Nat) (d : Desc) (s : State) : Res := s.vecOpRow core d 0x04
def execVecMax (core : Nat) (d : Desc) (s : State) : Res := s.vecOpRow core d 0x05
def execVecMin (core : Nat) (d : Desc) (s : State) : Res := s.vecOpRow core d 0x06
def execVecExp (core : Nat) (d : Desc) (s : State) : Res := s.vecOpRow core d 0x07
def execVecLog (core : Nat) (d : Desc) (s : State) : Res := s.vecOpRow core d 0x08
def execVecRsqrt (core : Nat) (d : Desc) (s : State) : Res := s.vecOpRow core d 0x09
def execVecRecip (core : Nat) (d : Desc) (s : State) : Res := s.vecOpRow core d 0x0a
def execVecTanh (core : Nat) (d : Desc) (s : State) : Res := s.vecOpRow core d 0x0b
def execVecSigmoid (core : Nat) (d : Desc) (s : State) : Res := s.vecOpRow core d 0x0c
def execVecRowsum (core : Nat) (d : Desc) (s : State) : Res := s.vecOpRow core d 0x10
def execVecRowmax (core : Nat) (d : Desc) (s : State) : Res := s.vecOpRow core d 0x11
def execVecRowsq (core : Nat) (d : Desc) (s : State) : Res := s.vecOpRow core d 0x12

/-- A descriptor that waited on its steering row waits no more (R107). -/
def State.steerTake (s : State) (core : Nat) (d : Desc) : State :=
  let c := s.core core
  s.setCore core { c with steerWait := c.steerWait.filter (· != d) }

end Sys2Proof.Machine
end

