-- ==== Sys2Proof/Machine/Dma.lean ====
section
/-! DEFINITION. The DMA engine (R149, R169, R178), and the resume of a steered descriptor (R107). -/
namespace Sys2Proof.Machine

/-- A core's DMA channel as an agent: its cluster's DMA block (R170, R472). -/
def dmaAgent (core : Nat) : Agent := .unit (coreDie core) (srcClu (coreClu core) 0)

/-- The DMA engine refuses a descriptor (R155, R169, R191). -/
def State.dmaRefuse (s : State) (core : Nat) (d : Desc) (b : BadField) : State :=
  (s.log' (srcClu (coreClu core) 0) 0x3008 2 [(2, core), (2, b.1), (8, b.2)]).refuse core kDma d

/-- The rows that a side of a DMA descriptor names (R169) (DEDUCED, log entry 27). -/
def dmaRows (d : Desc) (dst : Bool) : Spans :=
  let pitch := if dst then dbits d 5 39 0 else dbits d 4 39 0
  rowSpans (dbits d (if dst then 2 else 1) 42 0) pitch (dbits d 3 47 24 + 1) (dbits d 3 23 0)

/-- Reserved bits of a DMA descriptor (R149). -/
def dmaReserved : List (Nat × Nat × Nat) := [(1, 63, 43), (2, 63, 43), (3, 63, 50), (4, 63, 40), (5, 63, 40), (7, 63, 0)]

/-- The first address of a list of spans that an agent cannot reach, or a wait. -/
def State.spansRange (s : State) (a : Agent) (img : Image) (sp : Spans) : RangeRes :=
  sp.foldl (fun acc x => match acc with | .unmapped da => .unmapped da | r => (match s.range a img x.1 x.2 with | .ok => r | y => y)) .ok

/-- The tile that a DA names on the issuing core's own accumulator memory, 32 KiB aligned (R169). -/
def State.ownTile (s : State) (a : Agent) (img : Image) (core da : Nat) : Option Nat :=
  match s.resolve a img da with
  | .at loc =>
    if isAcc loc ∧ (loc - 2 ^ 45) / 2 ^ 24 = core ∧ loc % 0x8000 = 0 then some ((loc % 2 ^ 24 - 0x400000) / 0x8000) else none
  | _ => none

/-- Copies one row, block by block; at a poisoned source block the rest of the descriptor ends, with that block's
destination written 0xFF (R178). Answers that block's DA there (DEDUCED, log entry 27). -/
def State.dmaRow (s : State) (a : Agent) (img : Image) (src dst len : Nat) : State × Option Nat :=
  match s.poisonDa a img src len with
  | none => (s.wrDa a img dst (s.rdDa a img src len), none)
  | some p =>
    let good := p - src
    let s1 := s.wrDa a img dst (s.rdDa a img src good)
    (s1.wrDa a img (dst + good) (List.replicate (min 64 (len - good)) 0xff), some p)

/-- A DMA descriptor that meets poison: the transfer ends and is refused (R178). -/
def State.dmaPoison (s : State) (core : Nat) (d : Desc) (a : Agent) (img : Image) (da : Nat) : State :=
  (s.daUe (srcClu (coreClu core) 0) a img da).refuse core kDma d

/-- Copies the rows of a list in order, and answers the DA of a poisoned block that ends the copy. -/
def State.dmaCopyRows (s : State) (a : Agent) (img : Image) : List ((Nat × Nat) × (Nat × Nat)) → State × Option Nat
  | [] => (s, none)
  | (x, y) :: rest =>
    match s.dmaRow a img x.1 y.1 x.2 with
    | (s', none) => s'.dmaCopyRows a img rest
    | (s', some p) => (s', some p)

/-- Whether a descriptor may access spans now: no tile of them is in use by a descriptor issued before it (R126), and no device of them
makes it wait (R186, R189). -/
def State.spansFree (s : State) (core kind : Nat) (d : Desc) (a : Agent) (img : Image) (sp : Spans) : Bool :=
  sp.all fun x => !s.memBusy img x.1 x.2 && (blocksOf x.1 x.2).all fun b =>
    match s.resolve a img b with
    | .at loc =>
      let c := accCore loc
      let n := if c = core then (s.heldFor core kind d).seq else (s.core c).seq
      !isAcc loc || !s.tilesBusy c n [(accOff loc - 0x400000) / 0x8000]
    | _ => true

/-- A DMA descriptor at its channel, in the given mode: checks of R169, then its transfer (DEDUCED, log entry 27). -/
def State.dmaStart (s : State) (core : Nat) (d : Desc) (mode : Nat) : State :=
  if !s.canStart core kDma d then s.hold core kDma d
  else
    let a := dmaAgent core
    let img := s.bankFor (unitDie (coreDie core)) (s.heldFor core kDma d).beat
    let src := dbits d 1 42 0
    let dst := dbits d 2 42 0
    let ss := if mode = 0 then dmaRows d false else if mode = 3 then [(src, 0x8000)] else if mode = 2 then [(src, 0x8000)] else []
    let ds := if mode ≤ 1 then dmaRows d true else [(dst, 0x8000)]
    match firstReserved d dmaReserved with
    | some b => s.dmaRefuse core d b
    | none =>
      match firstBad [
        (decide (2 ≤ mode) || dbits d 3 23 0 % 64 == 0, (192, dbits d 3 23 0)),
        (src % 64 == 0, (64, src)),
        (dst % 64 == 0, (128, dst)),
        (mode != 2 || (s.ownTile a img core src).isSome, (64, src)),
        (mode != 3 || (s.ownTile a img core dst).isSome, (128, dst)),
        (!spansMeet ss ds, (128, dst))] with
      | some b => s.dmaRefuse core d b
      | none =>
        match s.spansRange a img ss, s.spansRange a img ds with
        | .unmapped da, _ => (s.unmappedEv a da).dmaRefuse core d (64, src)
        | _, .unmapped da => (s.unmappedEv a da).dmaRefuse core d (128, dst)
        | .wait, _ => s.hold core kDma d
        | _, .wait => s.hold core kDma d
        | .ok, .ok =>
          if !s.spansFree core kDma d a img (ss ++ ds) then s.hold core kDma d
          else if mode = 1 then
            let pat := leBytes 8 (dbits d 6 63 0)
            let s' := ds.foldl (fun acc x =>
              acc.wrDa a img x.1 ((List.replicate (x.2 / 8) pat).flatMap id)) s
            s'.complete core kDma d
          else
            match s.dmaCopyRows a img (ss.zip ds) with
            | (s', none) => s'.complete core kDma d
            | (s', some p) => s'.dmaPoison core d a img p

/-- The row of a DMA mode: a descriptor of another mode belongs to that mode's row. -/
def State.dmaModeRow (s : State) (core : Nat) (d : Desc) (mode : Nat) : Res :=
  onUnit (s.coreOk core) <|
    if dbits d 3 49 48 = mode then .next (s.atUnit core kDma d fun s => s.dmaStart core d mode) else .fault .otherRow

def execDmaCopy (core : Nat) (d : Desc) (s : State) : Res := s.dmaModeRow core d 0
def execDmaFill (core : Nat) (d : Desc) (s : State) : Res := s.dmaModeRow core d 1
def execDmaTileSave (core : Nat) (d : Desc) (s : State) : Res := s.dmaModeRow core d 2
def execDmaTileRestore (core : Nat) (d : Desc) (s : State) : Res := s.dmaModeRow core d 3

/-- STEERED_DESCRIPTOR_RESUME (R107): a steered descriptor that waits starts once its row has been written, and takes its
format and coarse scale then. While the row is still stale it goes on waiting; one that does not wait is left alone. -/
def execSteeredDescriptorResume (core : Nat) (d : Desc) (s : State) : Res :=
  onUnit (s.coreOk core) <|
    let step := s.get .TDY_STEP_STEP core
    if !(s.core core).steerWait.contains d then .next s
    else if descClass d = 1 then
      if s.stale (coreDie core) (dbits d 4 9 0) step then .next s else .next ((s.steerTake core d).mmaStart core d)
    else if s.stale (coreDie core) (dbits d 3 41 32) step then .next s
    else .next ((s.steerTake core d).vecStart core d (descClass d == 3))

end Sys2Proof.Machine
end

