-- ==== Sys2Proof/Machine/Sha3.lean ====
section
/-! DEFINITION. SHA3-256 (FIPS 202), which the part computes for images, firmware, measurements and escrow digests (R35,
R372, R463, R520). -/
namespace Sys2Proof.Machine

/-- A 64-bit lane rotated left. -/
def rotl64 (w n : Nat) : Nat := (w <<< n) % 2 ^ 64 ||| (w % 2 ^ 64) >>> (64 - n)

/-- Lane (x, y) of a state of 25 lanes, lane x + 5y. -/
def lane (a : List Nat) (x y : Nat) : Nat := a.getD (x % 5 + 5 * (y % 5)) 0

/-- The 25 lanes of a function of (x, y). -/
def lanes (f : Nat → Nat → Nat) : List Nat := (List.range 25).map fun i => f (i % 5) (i / 5)

/-- The rotation offsets of rho, by lane. -/
def rhoOff : List Nat :=
  [0, 1, 62, 28, 27, 36, 44, 6, 55, 20, 3, 10, 43, 25, 39, 41, 45, 15, 21, 8, 18, 2, 61, 56, 14]

def iotaRc : List Nat :=
  [0x0000000000000001, 0x0000000000008082, 0x800000000000808a, 0x8000000080008000, 0x000000000000808b, 0x0000000080000001,
    0x8000000080008081, 0x8000000000008009, 0x000000000000008a, 0x0000000000000088, 0x0000000080008009, 0x000000008000000a,
    0x000000008000808b, 0x800000000000008b, 0x8000000000008089, 0x8000000000008003, 0x8000000000008002, 0x8000000000000080,
    0x000000000000800a, 0x800000008000000a, 0x8000000080008081, 0x8000000000008080, 0x0000000080000001, 0x8000000080008008]

/-- One round of Keccak-f[1600]: theta, rho and pi, chi, iota. -/
def keccakRound (a : List Nat) (rc : Nat) : List Nat :=
  let c (x : Nat) := lane a x 0 ^^^ lane a x 1 ^^^ lane a x 2 ^^^ lane a x 3 ^^^ lane a x 4
  let cs := (List.range 5).map c
  let d (x : Nat) := cs.getD ((x + 4) % 5) 0 ^^^ rotl64 (cs.getD ((x + 1) % 5) 0) 1
  let ds := (List.range 5).map d
  let t := lanes fun x y => lane a x y ^^^ ds.getD x 0
  -- pi takes lane (x, y) from lane (x + 3y, x)
  let b := lanes fun x y => rotl64 (lane t (x + 3 * y) x) (rhoOff.getD ((x + 3 * y) % 5 + 5 * x) 0)
  let e := lanes fun x y => lane b x y ^^^ ((2 ^ 64 - 1 - lane b (x + 1) y) &&& lane b (x + 2) y)
  match e with
  | [] => []
  | h :: r => (h ^^^ rc) :: r

def keccakF (a : List Nat) : List Nat := iotaRc.foldl keccakRound a

/-- Absorbs one block of 136 bytes. -/
def sha3Absorb (a : List Nat) (blk : List Byte) : List Nat :=
  keccakF ((List.range 25).map fun i => a.getD i 0 ^^^ (if i < 17 then field blk (8 * i) 8 else 0))

/-- SHA3-256 of a byte string. -/
def sha3 (m : List Byte) : List Byte :=
  let pad := 136 - m.length % 136
  let p := m ++ (if pad = 1 then [0x86] else 0x06 :: List.replicate (pad - 2) 0 ++ [0x80])
  let a := (chunks 136 p).foldl sha3Absorb (List.replicate 25 0)
  (List.range 4).flatMap fun i => leBytes 8 (a.getD i 0)

end Sys2Proof.Machine
end

