-- ==== Sys2Proof/Machine/Tdy.lean ====
section
/-! DEFINITION. The tidy core's own work (R140, R141, R143, R153 to R155): its extension instructions, waits, signals and
fences, and what it does with an item that it issues. -/
namespace Sys2Proof.Machine

/-! ### The template of a die (R66, R68) -/

/-- STEP_LEN, ANCHOR and COUNT of section 0x000A. -/
def tplStep (b : List Byte) : Nat := field b 0 4
def tplAnchor (b : List Byte) : Nat := field b 4 4
def tplCount (b : List Byte) : Nat := field b 8 2

/-- A slot entry (R66). -/
structure Slot where
  kind : Nat
  target : Nat
  start : Nat
  len : Nat
  param : Nat
deriving DecidableEq, Repr

def tplSlots (b : List Byte) : List Slot :=
  (List.range (tplCount b)).map fun i =>
    let e := slice b (32 + 16 * i) 16
    ⟨field e 0 1, field e 2 2, field e 4 4, field e 8 4, field e 12 4⟩

/-- The beat at which instance n of a template begins (R68). -/
def State.instStart (s : State) (b : List Byte) (n : Nat) : Nat := s.beat.tplBeat + tplAnchor b + n * tplStep b

/-- The template of a core: that of its cluster controller's bank. Empty when no template is active. -/
def State.coreTpl (s : State) (core : Nat) : List Byte := (s.bank (unitClu (coreClu core))).sec 10

/-- The source of the beat events: sub-unit 11 of the in-charge hub (R472). -/
def State.beatSrc (s : State) : Nat := srcHub s.inCharge 11

/-! ### Waits -/



/-- The beat at which a wait-beat opens: the named beat, or the start of the named instance; none when no template is
active, which is then already open (R154). -/
def State.waitBase (s : State) (core : Nat) (opens : Bool) (b : Nat) : Option Nat :=
  if opens then
    let t := s.coreTpl core
    if t = [] then none else some (s.instStart t b)
  else some b

/-- Whether a wait-beat is due at the current beat, phase cycles after the edge; a PHASE that the beat does not reach is due
at the next edge (R151, R154). -/
def State.waitDue (s : State) (core : Nat) (opens : Bool) (b phase cyc : Nat) : Bool :=
  match s.waitBase core opens b with
  | none => true
  | some t => decide (t < s.now) || (t == s.now && decide (phase ≤ cyc))

/-- What a wait-beat does when it releases: with OPEN it sets TDY_STEP and the step's instance, and logs EV_BEAT_OVERRUN
when the instance had begun before the wait-beat ran (R69, R154) (DEDUCED, log entry 22). -/
def State.waitOpen (s : State) (core : Nat) (opens : Bool) (b step : Nat) (late : Bool) : State :=
  let s := s.setWait core .none
  if opens then
    let s := s.set .TDY_STEP_STEP step core
    let past := match s.waitBase core true b with | some t => s.now - t | none => 0
    let isLate := late && decide (0 < past)
    let s := s.setCore core { s.core core with
      stepInst := (s.waitBase core true b).map fun _ => b, stepLate := isLate }
    if isLate then s.log' s.beatSrc 0x1106 1 [(4, b), (8, past)] else s
  else s

/-- A wait-beat that the tidy core reaches: it releases at once when its beat has come, else issue stops (R154) (DEDUCED, log entry 22). -/
def State.waitBeat (s : State) (core : Nat) (d : Desc) : State :=
  let opens := dbit d 0 32
  let b := dbits d 1 63 0
  let phase := dbits d 2 17 0
  let step := dbits d 2 63 32
  if s.waitDue core opens b phase (s.get .BEAT_PHASE_CYCLES) then s.waitOpen core opens b step true
  else s.setWait core (.beat opens b phase step)

/-- A waiting wait-beat releases if it is due (R154). -/
def State.waitRelease (s : State) (core cyc : Nat) : State :=
  match (s.core core).wait with
  | .beat opens b phase step =>
    if s.waitDue core opens b phase cyc then s.waitOpen core opens b step false else s
  | _ => s

/-! ### Drains, signals, fences -/

/-- No descriptor of the kinds of a mask issued before sequence number seq is outstanding (R153). -/
def State.drained (s : State) (core mask seq : Nat) : Bool :=
  let c := s.core core
  c.held.all (fun h => !(bit mask h.kind && decide (h.seq < seq))) &&
    (!bit mask kSig || c.sigs.all fun g => !decide (g.seq < seq))

/-- The counter condition of a fence (R153): (TDY_SIGn - VALUE) mod 2^32 is below 2^31. -/
def State.ctrMet (s : State) (core n value : Nat) : Bool :=
  decide ((s.get .TDY_SIG_COUNT core n + 2 ^ 32 - value) % 2 ^ 32 < 2 ^ 31)

/-- The physical core of a logical core ID under the die map, if the ID is valid and mapped (R19). -/
def State.physCore (s : State) (l : Nat) : Option Nat :=
  if s.dieOk (l / 128) then (s.physClu (l / 128) (l / 8 % 16)).map fun p => 128 * (l / 128) + 8 * p + l % 8 else none

/-- The logical core ID of a physical core, if its cluster holds a logical one. -/
def State.logCore (s : State) (core : Nat) : Option Nat :=
  (s.logClu (coreDie core) (coreClu core % 16)).map fun n => 128 * coreDie core + 8 * n + core % 8

/-- A delivered signal adds INC to its counter modulo 2^32 (R153). -/
def State.deliver (s : State) (core ctr inc : Nat) : State := s.bump .TDY_SIG_COUNT inc core ctr

/-- A signal from any unit to a logical core starts on TC0 (R153, R324). -/
def State.sendSignal (s : State) (lcore ctr inc : Nat) : State := s.pkgSend (.signal lcore ctr inc)

/-- The record of a signal: it waits for its drain (R153) (DEDUCED, log entry 22). -/
def State.signal (s : State) (core : Nat) (d : Desc) : State :=
  let c := s.core core
  let target := if dbit d 1 10 then (s.logCore core).getD (dbits d 1 9 0) else dbits d 1 9 0
  s.setCore core { c with
    sigs := c.sigs ++ [⟨c.seq, dbits d 1 57 48, target, dbits d 1 21 16, dbits d 1 47 32⟩], seq := c.seq + 1 }

/-- The first pending signal whose drain has ended, and the signals that stay. -/
def State.sigReady (s : State) (core : Nat) : Option (PendSig × List PendSig) :=
  let c := s.core core
  match c.sigs.find? (fun g => s.drained core g.drain g.seq) with
  | some g => some (g, c.sigs.filter fun x => x.seq != g.seq)
  | none => none

/-- Whether a fence's conditions hold (DEDUCED, log entry 22). -/
def State.fenceMet (s : State) (core seq drain : Nat) (useCtr : Bool) (ctr value : Nat) : Bool :=
  s.drained core drain seq && (!useCtr || s.ctrMet core ctr value)

/-- A fence that the tidy core reaches: issue stops until its conditions hold (R153). -/
def State.fence (s : State) (core : Nat) (d : Desc) : State :=
  let c := s.core core
  let drain := dbits d 1 9 0
  let ctr := dbits d 1 21 16
  let useCtr := dbit d 1 22
  let value := dbits d 2 31 0
  let s := s.setCore core { c with seq := c.seq + 1 }
  if s.fenceMet core c.seq drain useCtr ctr value then s
  else s.setWait core (.fence c.seq drain useCtr ctr value (dbits d 2 63 32) s.now)

/-- A waiting fence whose conditions hold lets issue resume (R153). -/
def State.fenceRelease (s : State) (core : Nat) : State :=
  match (s.core core).wait with
  | .fence seq drain useCtr ctr value _ _ =>
    if s.fenceMet core seq drain useCtr ctr value then s.setWait core .none else s
  | _ => s

/-- Reserved fields of the descriptors that the tidy core executes itself (R151). -/
def tdyReserved (cls : Nat) : List (Nat × Nat × Nat) :=
  let rest := [(3, 63, 0), (4, 63, 0), (5, 63, 0), (6, 63, 0), (7, 63, 0)]
  match cls with
  | 11 => (2, 31, 18) :: rest
  | 12 => (1, 15, 11) :: (1, 31, 22) :: (1, 63, 58) :: (2, 63, 0) :: rest
  | 13 => (1, 15, 10) :: (1, 63, 23) :: rest
  | _ => []

/-- Whether the tidy core admits a descriptor (R143, and R19 for a signal's target) (DEDUCED, log entry 23). -/
def State.tdyAdmits (s : State) (d : Desc) : Bool :=
  hdrOk d && (firstReserved d (tdyReserved (descClass d))).isNone &&
    (descClass d != 12 || dbit d 1 10 || (decide (dbits d 1 6 3 < 12) && s.dieOk (dbits d 1 9 7)))

/-- The tidy core refuses a descriptor: its packet is dropped, with EV_CMD_DROP alone (R143, R155, R522). -/
def State.tdyRefuse (s : State) (core qid : Nat) (d : Desc) : State :=
  s.dropPacket core ⟨(s.core core).seq, kSig, qid, descMb d, (s.core core).pkt, s.now, d⟩

/-- One descriptor through the issue port (R141): refused under R143, executed by the tidy core itself, or issued (DEDUCED, log entry 23). -/
def State.tdyDo (s : State) (core qid : Nat) (d : Desc) : State :=
  if !s.tdyAdmits d then s.tdyRefuse core qid d
  else
    match descClass d with
    | 11 => s.waitBeat core d
    | 12 => s.signal core d
    | 13 => s.fence core d
    | c =>
      match kindOfClass c with
      | some k => match s.gateOf core k with
        | some n => s.gatedIssue core k qid d n
        | none => s.issue core k qid d
      | none => s.tdyRefuse core qid d

/-- Whether a core can pass a descriptor through its issue port now: it waits for nothing, is not halted, and the unit has
room. -/
def State.canIssue (s : State) (core : Nat) (d : Desc) : Bool :=
  let c := s.core core
  c.wait == .none && c.stall.isNone && !s.coreHalted core &&
    (match kindOfClass (descClass d) with | some k => s.hasRoom core k | none => true)

/-! ### Commands -/

/-- A guard on the core of a command. -/
def State.onCore (s : State) (core : Nat) (f : State → State) : Res := onUnit (s.coreOk core) (.next (f s))

/-- Whether a core's program runs: not with AUTO = 1, while a TD.ISSUE stalls, or on a core that is halted (R141, R140). -/
def State.programRuns (s : State) (core : Nat) : Bool :=
  s.get .TDY_CFG_AUTO core == 0 && (s.core core).stall.isNone && !s.coreHalted core

/-- An instruction of a core's program: nothing happens where the program does not run. -/
def State.onProgram (s : State) (core : Nat) (f : State → State) : Res :=
  s.onCore core fun s => if s.programRuns core then f s else s

/-- TD_LD (R140): 64 bytes from a 64-byte-aligned core-memory address into Dn. Below the accumulator window only; an address
that is not aligned or passes core memory is outside what R140 gives, and loads nothing. -/
def execTdLd (core : Nat) (dn : Nat) (addr : Nat) (s : State) : Res :=
  s.onProgram core fun s =>
    if addr % 64 = 0 ∧ addr + 64 ≤ coreMem then
      let c := s.core core
      s.setCore core { c with dreg := KMap.set c.dreg (dn % 8) (BitVec.ofNat 512 (leNat (s.rd (coreLoc core addr) 64))) }
    else s

/-- TD_SETF (R140): the low bits of rs1 into the field that rs2 names: word in [2:0], lsb in [8:3], width - 1 in [14:9]. A
field that would pass bit 63 of its word ends there (DEDUCED, log entry 23). -/
def setfWord (d : Desc) (v sel : Nat) : Desc :=
  let w := bits sel 2 0
  let lo := bits sel 8 3
  let hi := min (lo + bits sel 14 9) 63
  BitVec.ofNat 512 (putBits d.toNat (64 * w + hi) (64 * w + lo) v)

def execTdSetf (core : Nat) (dn : Nat) (rs1 rs2 : Word) (s : State) : Res :=
  s.onProgram core fun s =>
    let c := s.core core
    s.setCore core { c with dreg := KMap.set c.dreg (dn % 8) (setfWord (KMap.get c.dreg (dn % 8) 0) rs1.toNat rs2.toNat) }

/-- TD_ISSUE (R140): Dn goes through the issue port and the issue sequence number to rd; one that the tidy core refuses goes no further
(R143). While the unit holds its maximum it stalls, and goes on when the unit has room; while issue is stopped (R153, R154) it issues
nothing. -/
def execTdIssue (core : Nat) (rd dn : Nat) (s : State) : Res :=
  s.onProgram core fun s =>
    let c := s.core core
    let d := KMap.get c.dreg (dn % 8) 0
    if c.wait != .none then s
    else if !s.tdyAdmits d || s.canIssue core d then (s.tdyDo core noQid d).setX core (rd % 32) (BitVec.ofNat 64 c.seq)
    else s.setCore core { c with stall := some (rd % 32, dn % 8) }

/-- TD_DONE (R140): the completed-descriptor count of the unit whose drain bit rs1 names. -/
def execTdDone (core : Nat) (rd : Nat) (rs1 : Word) (s : State) : Res :=
  s.onProgram core fun s => s.setX core (rd % 32) (BitVec.ofNat 64 (KMap.get (s.core core).done rs1.toNat 0))

/-- TD_ST (R140): Dn to core memory at a 64-byte-aligned address. -/
def execTdSt (core : Nat) (dn : Nat) (addr : Nat) (s : State) : Res :=
  s.onProgram core fun s =>
    if addr % 64 = 0 ∧ addr + 64 ≤ coreMem then
      s.wr (coreLoc core addr) (leBytes 64 (KMap.get (s.core core).dreg (dn % 8) 0).toNat)
    else s

/-- WAIT_BEAT (R154): a wait-beat descriptor at the issue port; while issue is stopped it is not reached. -/
def execWaitBeat (core : Nat) (d : Desc) (s : State) : Res :=
  s.onCore core fun s =>
    if (s.core core).wait != .none then s
    else if !s.tdyAdmits d then s.tdyRefuse core noQid d else s.waitBeat core d

/-- WAIT_BEAT_RELEASE (R154): phase core cycles after the last edge have passed; a wait-beat that is due by then releases (DESIGN CHOICE, log entry 7). -/
def execWaitBeatRelease (core : Nat) (phase : Nat) (s : State) : Res :=
  s.onCore core fun s =>
    (s.set .BEAT_PHASE_CYCLES (max phase (s.get .BEAT_PHASE_CYCLES))).waitRelease core (max phase (s.get .BEAT_PHASE_CYCLES))

/-- SIGNAL (R153): a signal descriptor at the issue port; it does not stop issue. -/
def execSignal (core : Nat) (d : Desc) (s : State) : Res :=
  s.onCore core fun s =>
    if (s.core core).wait != .none then s
    else if !s.tdyAdmits d then s.tdyRefuse core noQid d else s.signal core d

/-- SIGNAL_SEND (R153): the first pending signal whose drain has ended is sent on TC0 to its target core (DESIGN CHOICE, log entry 7). -/
def execSignalSend (core : Nat) (s : State) : Res :=
  s.onCore core fun s =>
    match s.sigReady core with
    | some (g, rest) =>
      let c := s.core core
      (s.setCore core { c with sigs := rest, done := KMap.set c.done kSig (KMap.get c.done kSig 0 + 1) }).sendSignal g.target g.ctr g.inc
    | none => s

/-- The command that a tensor-descriptor instruction word of a core's program is (R140): the major opcode custom-0 in R-type format, funct3,
and the register fields rd, rs1 and rs2 with the values that the core's registers hold. TD.NEXT names Dn and rd by the one rd field. -/
def State.tdInstr (s : State) (core w : Nat) : Option Instr :=
  let rd := bits w 11 7
  let rs1 := bits w 19 15
  let rs2 := bits w 24 20
  let x (r : Nat) : Word := if r = 0 then 0 else KMap.get (s.core core).x r 0
  if bits w 6 0 ≠ 0b0001011 then none
  else
    match bits w 14 12 with
    | 0 => some (.tdLd core (rd % 8) (x rs1).toNat)
    | 1 => some (.tdSetf core (rd % 8) (x rs1) (x rs2))
    | 2 => some (.tdIssue core rd (rs2 % 8))
    | 3 => some (.tdNext core rd (rd % 8))
    | 4 => some (.tdDone core rd (x rs1))
    | 5 => some (.tdSt core (rd % 8) (x rs1).toNat)
    | _ => none

/-- SIGNAL_DELIVER (R153): a signal arrives at a physical core. -/
def execSignalDeliver (core : Nat) (ctr inc : Nat) (s : State) : Res :=
  s.onCore core fun s => s.deliver core (ctr % 64) inc

/-- FENCE (R153): a fence descriptor at the issue port. -/
def execFence (core : Nat) (d : Desc) (s : State) : Res :=
  s.onCore core fun s =>
    if (s.core core).wait != .none then s
    else if !s.tdyAdmits d then s.tdyRefuse core noQid d else s.fence core d

/-- FENCE_RELEASE (R153) (DESIGN CHOICE, log entry 7). -/
def execFenceRelease (core : Nat) (s : State) : Res := s.onCore core fun s => s.fenceRelease core

/-- FENCE_TIMEOUT (R155, R166): a fence whose timeout has expired unmet discards the rest of its packet (DEDUCED, log entry 22). -/
def execFenceTimeout (core : Nat) (s : State) : Res :=
  s.onCore core fun s =>
    match (s.core core).wait with
    | .fence seq drain useCtr ctr value tmo start =>
      if tmo ≠ 0 ∧ start + tmo ≤ s.now ∧ !s.fenceMet core seq drain useCtr ctr value then
        let s := s.log' (srcCore core) 0x8021 2 [(2, core), (1, ctr), (4, value), (4, s.get .TDY_SIG_COUNT core ctr)]
        let s := (s.setWait core .none).countDrop core (s.core core).pkt
        let c := s.core core
        if c.inPacket && c.dropping.isNone then s.setCore core { c with dropping := some ⟨false, 13, noQid, c.packetMb, 0⟩ } else s
      else s
    | _ => s

end Sys2Proof.Machine
end

