-- ==== Sys2Proof/Machine/Queue.lean ====
section
/-! DEFINITION. Teller and plain queues (chapter 15, R292 to R310, R524, R525): the queue table, doorbells, taking items,
flushes, the queue operations, and the scheduler of a tidy core that reads its bound queues (R157 to R160). The queue cache
holds no copy of its own here: a descriptor is read from and written to the table at once, since the cache never changes the
order or the outcome of an operation (R293). -/
namespace Sys2Proof.Machine

/-! ### The queue descriptor (R294) -/

/-- A queue descriptor as one 512-bit number. -/
abbrev QD := Nat

def qEnabled (v : QD) : Bool := bit v 63
def qArmed (v : QD) : Bool := bit v 62
def qFlushPend (v : QD) : Bool := bit v 61
def qClass (v : QD) : Nat := bits v 60 59
def qLog2 (v : QD) : Nat := bits v 55 52
def qLevel (v : QD) : Nat := bits v 51 32
def qVector (v : QD) : Nat := bits v 31 21
def qIrqDest (v : QD) : Nat := bits v 20 20
def qIrqEn (v : QD) : Bool := bit v 19
def qCurLevel (v : QD) : Nat := bits v 18 16
def qInPkt (v : QD) : Bool := bit v 15
def qReaderKind (v : QD) : Nat := bits v (64 + 63) (64 + 61)
def qReader (v : QD) : Nat := bits v (64 + 60) (64 + 48)
def qBase (v : QD) : Nat := bits v (64 + 42) (64 + 12) * 4096
def qHead (v : QD) (l : Nat) : Nat := bits v (128 + 16 * l + 15) (128 + 16 * l)
def qTail (v : QD) (l : Nat) : Nat := bits v (256 + 16 * l + 15) (256 + 16 * l)
def qSetHead (v : QD) (l x : Nat) : QD := putBits v (128 + 16 * l + 15) (128 + 16 * l) x
def qSetTail (v : QD) (l x : Nat) : QD := putBits v (256 + 16 * l + 15) (256 + 16 * l) x
def qSetArmed (v : QD) (b : Bool) : QD := putBit v 62 b

/-- Levels of a queue: eight on a teller queue, one on a plain queue (R295). -/
def qLevels (v : QD) : Nat := if qClass v = 1 then 8 else 1
/-- Occupancy of a level, and of the queue (R295). -/
def qOccL (v : QD) (l : Nat) : Nat := (qTail v l + 65536 - qHead v l) % 65536
def qOcc (v : QD) : Nat := ((List.range (qLevels v)).map (qOccL v)).foldl (· + ·) 0

/-- ARMED as ENABLE and SETLEVEL set it (R304). -/
def qRearm (v : QD) : QD := qSetArmed v (decide (qOcc v ≤ qLevel v))
/-- ARMED after a take or a flush: set when O is at LEVEL or below (R304). -/
def qAfterTake (v : QD) : QD := if qOcc v ≤ qLevel v then qSetArmed v true else v

/-! ### Table and rings -/

/-- The kind-6 region of the active carve; none under the reset structure (R181, R292). -/
def State.qTable (s : State) : Option Region :=
  let img := s.bank (unitLedger 0)
  if img.epoch = 0 then none else (regionsOf (img.sec 4)).find? fun r => r.kind == 6

/-- The place of a queue's descriptor. -/
def State.qLoc (s : State) (q : Nat) : Option Nat := s.qTable.map fun r => s.regionLoc r (r.base + 64 * q)

/-- What the hub finds of a queue: no table, a poisoned descriptor, or the descriptor. -/
inductive QRes where
  | noTable
  | poison
  | desc (v : QD)
deriving DecidableEq, Repr

def State.qFind (s : State) (q : Nat) : QRes :=
  match s.qLoc q with
  | none => .noTable
  | some loc => if s.poisoned loc 64 then .poison else .desc (leNat (s.rd loc 64))

def State.qPut (s : State) (q : Nat) (v : QD) : State :=
  match s.qLoc q with
  | some loc => s.wr loc (leBytes 64 v)
  | none => s

/-- The reader's clock domain (R303). -/
def qReaderDomain (v : QD) : Nat :=
  match qReaderKind v with
  | 0 => qReader v / 128
  | 1 => 16 + 2 * (qReader v % 2)
  | 2 => 8 + qReader v % 8
  | _ => 16 + qReader v % 8 / 2

/-- Whether the reader exists (R306). -/
def State.qReaderOk (s : State) (v : QD) : Bool :=
  match qReaderKind v with
  | 0 => decide (qReader v < 1024) && s.dieOk (qReader v / 128) && decide (qReader v / 8 % 16 < 12) &&
      (s.physClu (qReader v / 128) (qReader v / 8 % 16)).isSome
  | 1 => qReader v == 0 || (qReader v == 1 && s.ident.member == .a8)
  | 2 => s.dieOk (qReader v)
  | 3 => decide (qReader v < s.ident.engines)
  | _ => false

/-- The half of a domain, for the hub that caches the queue (R293). -/
def domainHalf (d : Nat) : Nat := if d < 8 then d / 4 else if d < 16 then (d - 8) / 4 else (d - 16) / 2

/-- The hub of a queue: HD1 or HD3 by its reader's half, HD0 on the A2 (R293). -/
def State.qHub (s : State) (v : QD) : Nat :=
  if s.ident.member = .a2 then 0 else if s.ident.member = .a8 ∧ domainHalf (qReaderDomain v) = 1 then 3 else 1

/-- Queue logic as a source (R472). -/
def State.qSrc (s : State) (v : QD) : Nat := srcHub (s.qHub v) 5

/-- Entries of one hub's cache: 8,192, or all 16,384 on a part with one such hub (R293). -/
def State.qCacheSize (s : State) : Nat := if s.ident.member = .a8 then 8192 else 16384

/-- The hub touches a queue: a hit or a miss of its cache (R293). The cache keeps the queues touched last. -/
def State.qTouch (s : State) (v : QD) (q : Nat) : State :=
  let h := s.qHub v
  let l := KMap.get s.que.cache h []
  let s' := if l.contains q then s.bumpSat .QUE_CACHE_HIT else s.bumpSat .QUE_CACHE_MISS
  { s' with que := { s'.que with cache := KMap.set s'.que.cache h ((q :: l.filter (· != q)).take s.qCacheSize) } }

/-- The DA of item n of a level (R295). -/
def qItemDa (v : QD) (l n : Nat) : Nat := qBase v + l * 2 ^ qLog2 v * 64 + n % 2 ^ qLog2 v * 64

/-- A ring area lies in a mapped region of kind 8 or 9 or in the firmware area, whole (R296). -/
def State.ringOk (s : State) (v : QD) : Bool :=
  let img := s.bank (unitLedger 0)
  let n := qLevels v * 2 ^ qLog2 v * 64
  let last := qBase v + n - 1
  decide (last < s.lpSize) &&
    (match s.regionAt img (qBase v), s.regionAt img last with
     | some a, some b => a == b && (a.kind == 8 || a.kind == 9)
     | _, _ => false)

/-- What the reader finds at an item: its descriptor, or poison (R308). -/
def State.qItem (s : State) (v : QD) (l n : Nat) : Option Desc :=
  let img := s.bank (unitLedger 0)
  match s.regionAt img (qItemDa v l n) with
  | some r =>
    let loc := s.regionLoc r (qItemDa v l n)
    if s.poisoned loc 64 then none else some (BitVec.ofNat 512 (leNat (s.rd loc 64)))
  | none => none

/-! ### The queue map (R307) -/

structure QRange where
  lo : Nat
  hi : Nat
  cls : Nat
  domain : Nat
deriving DecidableEq, Repr

def qRanges (b : List Byte) : List QRange :=
  (List.range (field b 0 2)).map fun i =>
    let e := slice b (16 + 16 * i) 16
    ⟨field e 0 4, field e 4 4, field e 8 1, field e 9 1⟩

/-- The hub that carries the queue map and the fabric peer map: HD1, HD0 on the A2 (R34). -/
def State.fabUnit (s : State) : Nat := unitHub (if s.ident.member = .a2 then 0 else 1)

def State.qRange (s : State) (q : Nat) : Option QRange :=
  (qRanges ((s.bank s.fabUnit).sec 5)).find? fun r => decide (r.lo ≤ q) && decide (q ≤ r.hi)

/-! ### Enabling and disabling -/

/-- The list of enabled queues and QUE_STATUS.ENABLED (R309). -/
def State.qSetOn (s : State) (q : Nat) (b : Bool) : State :=
  let on := if b then q :: s.que.on.filter (· != q) else s.que.on.filter (· != q)
  ({ s with que := { s.que with on := on } } : State).set .QUE_STATUS_ENABLED on.length

/-- A scheduler's choice of a queue's next packet falls where the packet has not begun and the queue has been flushed or disabled: the core is at
its packet boundary again (R159, R300). -/
def State.unchoose (s : State) (q : Nat) (v : QD) : State :=
  if qReaderKind v = 0 then
    match s.physCore (qReader v) with
    | some core =>
      let c := s.core core
      if c.chosen ∧ !c.inPacket ∧ s.get .TDY_QBIND_QID core c.bind = q then s.setCore core { c with chosen := false } else s
    | none => s
  else s

/-- A queue is disabled: ENABLED is cleared; the items stay in the rings (R305). -/
def State.qOff (s : State) (q : Nat) (v : QD) : State :=
  let s := ((s.qPut q (putBit v 63 false)).qSetOn q false).unchoose q v
  { s with que := { s.que with dueOff := KMap.erase s.que.dueOff q } }

/-- The QUE block completes an operation with a status: DONE rises (R305). -/
def State.qEnd (s : State) (st : Nat) : State := ((s.set .QUE_OP_RES_DONE 1).set .QUE_OP_RES_STATUS st).irq 8

/-- An operation that has read its queue completes: with O too (R305). -/
def State.qDone (s : State) (st occ : Nat) : State := (s.set .QUE_OP_RES_OCC occ).qEnd st

/-! ### Flush (R302) -/

/-- How many of the next n items of a level lie at or before its last published item with EOP = 1. -/
def State.qLastEop (s : State) (v : QD) (l : Nat) : Nat → Nat
  | 0 => 0
  | n + 1 =>
    match s.qItem v l ((qHead v l + n) % 65536) with
    | some d => if descEop d then n + 1 else s.qLastEop v l n
    | none => s.qLastEop v l n

/-- A flush takes effect: each level of the mask passes its last published EOP item (R302). -/
def State.qFlush (s : State) (q : Nat) (v : QD) (mask : Nat) : State × QD :=
  let ns := ((List.range (qLevels v)).filter (bit mask)).map fun l => (l, s.qLastEop v l (qOccL v l))
  let total := (ns.map (·.2)).foldl (· + ·) 0
  let v1 := ns.foldl (fun v e => qSetHead v e.1 (qHead v e.1 + e.2)) v
  let v2 := putBits (putBit v1 61 false) (384 + 63) (384 + 32) (bits v1 (384 + 63) (384 + 32) + total)
  let v3 := qAfterTake v2
  (((s.qPut q v3).log' (s.qSrc v) 0x8003 0 [(4, q), (1, mask), (4, total)]).unchoose q v, v3)

/-- EV_QUE_DISABLED (R310) (DEDUCED, log entry 28). -/
def State.qDisabledEv (s : State) (src q cause : Nat) : State := s.log' src 0x8002 1 [(4, q), (1, cause)]

/-- What waits for the reader's packet boundary takes effect there: a flush or a DISABLE of the QUE block, and a disable of
a commit, the flush first (R302, R305, R308). Nothing happens inside a packet. -/
def State.qBoundary (s : State) (q : Nat) : State :=
  match s.qFind q with
  | .desc v =>
    if qInPkt v then s
    else
      let (s, v) :=
        match s.que.waiting with
        | some (3, q', mask) =>
          if q' = q then
            let (s', v') := s.qFlush q v mask
            (({ s' with que := { s'.que with waiting := none } } : State).qDone 0 (qOcc v'), v')
          else (s, v)
        | _ => (s, v)
      let s :=
        match s.que.waiting with
        | some (2, q', _) =>
          if q' = q then ({ s.qOff q v with que := { (s.qOff q v).que with waiting := none } } : State).qDone 0 (qOcc v) else s
        | _ => s
      match KMap.get? s.que.dueOff q with
      | some cause => (s.qOff q (match s.qFind q with | .desc v' => v' | _ => v)).qDisabledEv (s.qSrc v) q cause
      | none => s
  | _ => s

/-! ### Doorbells -/

/-- The clock domain of a writer; the host is outside every domain (R298, R303). -/
def State.agentDomain (s : State) : Agent → Option Nat
  | .host _ => none
  | .steward => some (16 + s.inCharge)
  | .tidy c => some (coreDie c)
  | .unit d src =>
    if d < 8 then some d
    else
      match src / 2 ^ 24 with
      | 3 => if src % 256 < 32 then some (8 + (src % 256 - 24)) else some (16 + (src % 256 - 32))
      | 4 => some (16 + src % 8 / 2)
      | _ => none

/-- EV_QUE_DOORBELL (R298, R310): QID, level, written tail, HEAD, TAIL, cause. The causes are numbered as R298 lists them,
poison last: 0 disabled or no table, 1 level, 2 backward, 3 overfill, 4 domain, 5 poison. -/
def State.doorbellEv (s : State) (src q l new : Nat) (v : QD) (cause : Nat) : State :=
  s.log' src 0x8001 1 [(4, q), (1, l), (2, new), (2, qHead v l), (2, qTail v l), (1, cause)]

/-- The level interrupt of a doorbell that raises O from before (R304). -/
def State.qLevelIrq (s : State) (q : Nat) (before : Nat) (v : QD) : State × QD :=
  if before ≤ qLevel v ∧ qLevel v < qOcc v ∧ qArmed v ∧ qIrqEn v then
    (if qIrqDest v = 0 then s.sendMsix (qVector v) false else s.emit (.stwQueue q), qSetArmed v false)
  else (s, v)

/-! ### A packet that ends inside (R155, R305, R308, R524) -/

/-- A tidy core's packet in progress from a queue ends as R155 does for a refusal: n of its items are discarded now, and EV_CMD_DROP is due. -/
def State.coreCut (s : State) (core q n : Nat) : State :=
  let c := s.core core
  if c.inPacket ∧ s.get .TDY_QBIND_QID core c.bind = q then
    let s := if c.dropping.isNone then (s.countDrop core c.pkt).dropWait core c.pkt else s
    let s := s.setCore core { s.core core with dropping := none, inPacket := false, chosen := false }
    match c.dropping with
    | some dr => if dr.ev then s.cmdDrop core dr.qid dr.mb dr.cls (dr.items + n) else s
    | none => s.cmdDrop core q c.packetMb 0 n
  else s

/-- The rest of a queue's packet in progress is discarded at once: what is published of it, through its EOP item. Where that is not published,
the reader goes on discarding at that level when it takes again. Answers the descriptor and the number of items. -/
def State.qCut (s : State) (q : Nat) (v : QD) : State × QD × Nat :=
  let l := qCurLevel v
  let occ := qOccL v l
  let last := (List.range occ).find? fun i =>
    match s.qItem v l ((qHead v l + i) % 65536) with | some d => descEop d | none => false
  let n := match last with | some i => i + 1 | none => occ
  let v := qSetHead v l (qHead v l + n)
  let v := putBits v (384 + 31) 384 (bits v (384 + 31) 384 + n)
  let v := if last.isSome then putBits v (448 + 31) 448 (bits v (448 + 31) 448 + 1) else v
  let v := qAfterTake (putBit v 15 false)
  let drop := if last.isSome then KMap.erase s.que.drop q else KMap.set s.que.drop q l
  (({ s with que := { s.que with drop := drop } } : State).qPut q v, v, n)

/-- A reader's packet in progress ends as R155 does for a refusal (R305, R308). Answers the queue's descriptor (DEDUCED, log entry 28). -/
def State.qEndPacket (s : State) (q : Nat) (v : QD) : State × QD :=
  if !qInPkt v then (s, v)
  else
    let (s, v', n) := s.qCut q v
    match (if qReaderKind v = 0 then s.physCore (qReader v) else none) with
    | some core => (s.coreCut core q n, v')
    | none => (s, v')

/-- The hub finds a queue's descriptor poisoned (R178, R524): it logs EV_MEM_UE with the descriptor's DA and treats the queue as disabled; an
operation of that queue that waits completes with POISON, and a core's packet in progress from it ends (DEDUCED, log entry 28). -/
def State.qUe (s : State) (q : Nat) : State :=
  match s.qTable with
  | some r =>
    let da := r.base + 64 * q
    let src := srcHub (s.fabUnit - 120) 5
    let s := s.memUe src (placeUnit (s.regionLoc r da)).1 (placeUnit (s.regionLoc r da)).2 da src
    let s := s.qSetOn q false
    let s : State := { s with que := { s.que with drop := KMap.erase s.que.drop q, dueOff := KMap.erase s.que.dueOff q } }
    let s := match s.que.waiting with
      | some (_, q', _) => if q' = q then ({ s with que := { s.que with waiting := none } } : State).qEnd 8 else s
      | none => s
    (s.cores.map (·.1)).foldl (fun s core => s.coreCut core q 0) s
  | none => s

/-- The publish of a new tail (R298). -/
def State.publish (s : State) (by_ : Agent) (q l new : Nat) : State :=
  match s.qFind q with
  | .noTable => s.doorbellEv (srcHub (s.fabUnit - 120) 5) q l new 0 0
  | .poison => (s.qUe q).doorbellEv (srcHub (s.fabUnit - 120) 5) q l new 0 5
  | .desc v =>
    let s := s.qTouch v q
    let src := s.qSrc v
    if !qEnabled v then s.doorbellEv src q l new v 0
    else if qLevels v ≤ l then s.doorbellEv src q l new v 1
    else if 2 ^ 15 ≤ (new + 65536 - qTail v l) % 65536 then s.doorbellEv src q l new v 2
    else if 2 ^ qLog2 v < (new + 65536 - qHead v l) % 65536 then s.doorbellEv src q l new v 3
    else if qClass v = 2 ∧ s.agentDomain by_ ≠ some (qReaderDomain v) then s.doorbellEv src q l new v 4
    else
      let (s, v') := s.qLevelIrq q (qOcc v) (qSetTail v l new)
      s.qPut q v'

/-- DOORBELL_WRITE (R297, R298): a 64-bit write at page offset 8l publishes level l; the part ignores writes of other
offsets and discards other widths (R2) (DEDUCED, log entry 28). -/
def execDoorbellWrite (by_ : Agent) (qid off size : Nat) (val : Word) (s : State) : Res :=
  if size = 8 ∧ off % 8 = 0 ∧ off / 8 < 8 then .next ((s.wake 2).publish by_ (qid % 2 ^ 20) (off / 8) (bits val.toNat 15 0))
  else .next s

/-- DOORBELL_READ (R297, R524): HEAD[l], TAIL[l] and ENABLED; 0 without a table, with a poisoned descriptor, at another
offset, or for an access that R2 discards. An aligned 32-bit half is answered as such. -/
def execDoorbellRead (by_ : Agent) (qid off size : Nat) (s : State) : Res :=
  let q := qid % 2 ^ 20
  let l := off / 8
  let w : Nat :=
    match s.qFind q with
    | .desc v => if l < 8 then qHead v l + qTail v l * 2 ^ 16 + b2n (qEnabled v) * 2 ^ 63 else 0
    | _ => 0
  let s' := match s.qFind q with | .desc v => s.qTouch v q | .poison => s.qUe q | .noTable => s
  if size = 8 ∧ off % 8 = 0 then .next (s'.emit (.answer by_ true (leBytes 8 w)))
  else if size = 4 ∧ off % 4 = 0 then
    .next (s'.emit (.answer by_ true (leBytes 4 (if off % 8 = 0 then w % 2 ^ 32 else w / 2 ^ 32))))
  else .next (s.emit (.answer by_ true (List.replicate size 0)))

/-! ### Taking items -/

/-- The level that a reader takes from next (R300): the packet's own inside a packet, else the highest published one. -/
def qNextLevel (v : QD) : Option Nat :=
  if qInPkt v then (if 0 < qOccL v (qCurLevel v) then some (qCurLevel v) else none)
  else (List.range (qLevels v)).reverse.find? fun l => decide (0 < qOccL v l)

/-- The level that a queue's reader takes from next: that of a packet whose rest it discards, that of a packet that the scheduler has chosen
(R300), else that of R300. -/
def State.qLevelNow (s : State) (q : Nat) (v : QD) : Option Nat :=
  let at' (l : Nat) : Option Nat := if 0 < qOccL v l then some l else none
  match KMap.get? s.que.drop q with
  | some l => at' l
  | none =>
    match (if qReaderKind v = 0 ∧ !qInPkt v then s.physCore (qReader v) else none) with
    | some core =>
      let c := s.core core
      if c.chosen ∧ !c.inPacket ∧ s.get .TDY_QBIND_QID core c.bind = q then at' c.level else qNextLevel v
    | none => qNextLevel v

/-- The next item that a reader would take: its level, and the descriptor or none where it is poisoned. -/
def State.qPeek (s : State) (q : Nat) : Option (QD × Nat × Option Desc) :=
  match s.qFind q with
  | .desc v => if qEnabled v then (s.qLevelNow q v).map fun l => (v, l, s.qItem v l (qHead v l)) else none
  | _ => none

/-- The descriptor after item d of level l is taken: HEAD, TAKEN, PACKETS, IN_PKT, CUR_LEVEL and ARMED (R294, R300, R304). -/
def qAdvance (v : QD) (l : Nat) (eop : Bool) : QD :=
  let v := qSetHead v l (qHead v l + 1)
  let v := putBits v (384 + 31) 384 (bits v (384 + 31) 384 + 1)
  let v := if eop then putBits v (448 + 31) 448 (bits v (448 + 31) 448 + 1) else v
  let v := putBits v 18 16 l
  qAfterTake (putBit v 15 (!eop))

/-- One item is taken (R300); at an EOP item, what waited for the boundary takes effect (R302). -/
def State.qTake (s : State) (q : Nat) (v : QD) (l : Nat) (eop : Bool) : State :=
  let s := (s.qTouch v q).qPut q (qAdvance v l eop)
  if eop then s.qBoundary q else s

/-- An item that is discarded with its packet (R155, R308): the core's count of it rises, and at its EOP EV_CMD_DROP is due. -/
def State.dropItem (s : State) (core : Nat) (eop : Bool) : State :=
  let c := s.core core
  match c.dropping with
  | some dr =>
    let dr := { dr with items := dr.items + 1 }
    if eop then
      let s := s.setCore core { c with dropping := none, inPacket := false, chosen := false }
      if dr.ev then s.cmdDrop core dr.qid dr.mb dr.cls dr.items else s
    else s.setCore core { c with dropping := some dr }
  | none => s

/-! ### The scheduler (R157 to R160) -/

/-- A bound queue's next packet, as the scheduler sees it at a boundary: binding, queue, level, MB, and its first item. -/
structure Cand where
  bind : Nat
  qid : Nat
  level : Nat
  mb : Nat
  first : Desc
deriving DecidableEq, Repr

/-- The candidates of a core: bound, enabled queues whose reader it is, at a packet boundary, with a readable item
published. -/
def State.cands (s : State) (core : Nat) : List Cand :=
  (List.range 16).filterMap fun n =>
    if s.get .TDY_QBIND_VALID core n = 1 then
      let q := s.get .TDY_QBIND_QID core n
      match s.qPeek q with
      | some (v, l, some d) =>
        if qReaderKind v = 0 ∧ s.physCore (qReader v) = some core ∧ !qInPkt v ∧ !KMap.has s.que.drop q then some ⟨n, q, l, descMb d, d⟩
        else none
      | _ => none
    else none

/-- The beat at which the micro-batch slot of an MB begins in the step's instance, if one binds it (R68, R158). -/
def State.slotStart (s : State) (core mb : Nat) : Option Nat :=
  match (s.core core).stepInst with
  | none => none
  | some n =>
    let t := s.coreTpl core
    if t = [] ∨ mb = 0xffff then none
    else
      ((tplSlots t).find? fun x =>
        x.kind == 1 && (x.target == coreDie core || x.target == 0xffff) && x.param == mb).map fun x => s.instStart t n + x.start

/-- Save slots of a core: SLOTS, at most 64 (R165). -/
def State.saveSlots (s : State) (core : Nat) : Nat := min (s.get .TDY_SAVE_SLOTS core) 64

/-- Whether a micro-batch's accumulator save slot is free or its own (R158, R160). -/
def State.slotOwn (s : State) (core mb : Nat) : Bool :=
  let n := s.saveSlots core
  n == 0 || (match KMap.get? (s.core core).saved (mb % n) with | some (mb', _) => mb' == mb | none => true)

/-- Whether a candidate's packet is ready (R158). -/
def State.candReady (s : State) (core : Nat) (k : Cand) : Bool :=
  (match s.slotStart core k.mb with | some b => decide (b ≤ s.now) | none => true) &&
  (descClass k.first != 11 ||
    (match s.waitBase core (dbit k.first 0 32) (dbits k.first 1 63 0) with | some b => decide (b ≤ s.now) | none => true)) &&
  (descClass k.first != 13 || !dbit k.first 1 22 || s.ctrMet core (dbits k.first 1 21 16) (dbits k.first 2 31 0)) && s.slotOwn core k.mb

/-- The keys of R159, as one list compared lexicographically, the least winning. -/
def State.candKey (s : State) (core : Nat) (k : Cand) : List Nat :=
  [7 - k.level, (s.slotStart core k.mb).getD 0, k.mb, k.bind]

/-- The best of a list of candidates. -/
def State.candBest (s : State) (core : Nat) : List Cand → Option Cand
  | [] => none
  | k :: ks =>
    match s.candBest core ks with
    | none => some k
    | some b => if s.candKey core b < s.candKey core k then some b else some k

/-- The running micro-batch (R165). -/
def State.curMb (s : State) (core : Nat) : Nat := s.get .TDY_STATUS_CUR_MB core

/-- The device address of a tile in a save slot (R160). -/
def State.saveDa (s : State) (core mb t : Nat) : Nat :=
  s.get .TDY_SAVE_BASE core * 4096 + mb % s.saveSlots core * 0x80000 + t * 0x8000

/-- Saves the live tiles of the running micro-batch to its slot (R160). An unmapped save area keeps nothing. -/
def State.saveTiles (s : State) (core : Nat) : State :=
  let mb := s.curMb core
  let live := bitList (s.get .TDY_STATUS_TILE_LIVE core) 16
  let a : Agent := .tidy core
  let img := s.bank (unitDie (coreDie core))
  let s' := live.foldl (fun acc t => acc.wrDa a img (s.saveDa core mb t) (s.rd (coreLoc core (0x400000 + t * 0x8000)) 0x8000)) s
  let c := s'.core core
  if live = [] then s'
  else s'.setCore core { c with saved := KMap.set c.saved (mb % s.saveSlots core) (mb, s.get .TDY_STATUS_TILE_LIVE core) }

/-- Restores the tiles that a micro-batch saved, each to its index, and frees its slot (R160). -/
def State.restoreTiles (s : State) (core mb : Nat) : State :=
  let c := s.core core
  let n := s.saveSlots core
  match KMap.get? c.saved (mb % n) with
  | some (mb', mask) =>
    if mb' = mb ∧ n ≠ 0 then
      let a : Agent := .tidy core
      let img := s.bank (unitDie (coreDie core))
      let s' := (bitList mask 16).foldl (fun acc t =>
        acc.wr (coreLoc core (0x400000 + t * 0x8000)) (s.rdDa a img (s.saveDa core mb t) 0x8000)) s
      (s'.setCore core { c with saved := KMap.erase c.saved (mb % n) }).set .TDY_STATUS_TILE_LIVE mask core
    else s.set .TDY_STATUS_TILE_LIVE 0 core
  | none => s.set .TDY_STATUS_TILE_LIVE 0 core

/-- Tiles that a switch to a micro-batch would save and restore. -/
def State.switchTiles (s : State) (core mb : Nat) : Nat :=
  popCount (s.get .TDY_STATUS_TILE_LIVE core) 16 +
    (match KMap.get? (s.core core).saved (mb % s.saveSlots core) with
     | some (mb', mask) => if mb' = mb then popCount mask 16 else 0
     | none => 0)

/-- Whether the core may change to a micro-batch: once no MMA, stripe or expanding gather of the outgoing one is outstanding (R160, R215,
R239), and then with SWITCH_EN = 1, save slots, and a slot for the outgoing tiles (R159, R160, R165). A core that runs no micro-batch, with
nothing to save or restore, takes its first without a switch (DEDUCED, log entry 28). -/
def State.maySwitch (s : State) (core mb : Nat) : Bool :=
  (s.core core).held.all (fun h => tilesOf h.kind h.d == [] || h.mb != s.curMb core) &&
    ((s.curMb core == 0xffff && s.switchTiles core mb == 0) ||
      (s.get .TDY_CFG_SWITCH_EN core == 1 && s.saveSlots core != 0 &&
        (s.get .TDY_STATUS_TILE_LIVE core == 0 || s.slotOwn core (s.curMb core))))

/-- The scheduler takes a candidate's packet: a switch where the micro-batch changes, and the packet begins (R157, R159, R160). -/
def State.takePacket (s : State) (core : Nat) (k : Cand) : State :=
  let n := s.switchTiles core k.mb
  let sw := k.mb != s.curMb core && (s.curMb core != 0xffff || n != 0)
  let s := if n ≠ 0 ∧ k.mb ≠ s.curMb core then (s.saveTiles core).restoreTiles core k.mb else s
  let s := if sw then (s.bumpSat .TDY_SWITCH_SWITCHES 1 core).bumpSat .TDY_SWITCH_CYCLES (512 * n) core else s
  let s := s.set .TDY_STATUS_CUR_MB k.mb core
  let c := s.core core
  (s.setCore core { c with wait := .none, bind := k.bind, chosen := true, level := k.level, packetMb := k.mb }).tdyState core 1

/-- Whether the scheduler may act: at a packet boundary, with nothing chosen, not halted, and no wait or fence in force (DEDUCED, log entry 28). -/
def State.atBoundary (s : State) (core : Nat) : Bool :=
  let c := s.core core
  !c.inPacket && !c.chosen && !s.coreHalted core && (c.wait == .none || c.wait == .switch)

/-- Candidates that are ready and may be taken. -/
def State.readyCands (s : State) (core : Nat) : List Cand :=
  (s.cands core).filter fun k => s.candReady core k && (k.mb == s.curMb core || s.maySwitch core k.mb)

/-- SCHEDULER_PACKET_BOUNDARY (R159): the current micro-batch goes on if its next packet is ready, else the switch wait
starts. -/
def execSchedulerPacketBoundary (core : Nat) (s : State) : Res :=
  s.onCore core fun s =>
    if s.atBoundary core then
      match s.candBest core ((s.readyCands core).filter fun k => k.mb == s.curMb core) with
      | some k => s.takePacket core k
      | none => s.setWait core .switch
    else s

/-- SWITCH_WAIT_EXPIRY (R159): SWITCH_WAIT x 64 cycles have passed in the switch wait; the best ready packet is taken, or,
with none ready, the first that becomes so will be. -/
def execSwitchWaitExpiry (core : Nat) (s : State) : Res :=
  s.onCore core fun s =>
    if s.atBoundary core && (s.core core).wait == .switch then
      match s.candBest core (s.readyCands core) with
      | some k => s.takePacket core k
      | none => (s.setCore core { s.core core with wait := .none }).tdyState core 0
    else s

/-- PACKET_READY (R158, R159): the next packet of a micro-batch has become ready; a scheduler that found nothing ready after its switch wait,
and idles, takes it. The current micro-batch's own packet is taken at any boundary, and ends a switch wait. -/
def execPacketReady (core : Nat) (mb : Nat) (s : State) : Res :=
  s.onCore core fun s =>
    let c := s.core core
    if s.atBoundary core && ((c.wait == .none && s.get .TDY_STATUS_STATE core == 0) || mb == s.curMb core) then
      match s.candBest core ((s.readyCands core).filter fun k => k.mb == mb) with
      | some k => s.takePacket core k
      | none => s
    else s

/-! ### QUEUE_TAKE and TD_NEXT -/

/-- A tidy core takes the next item of queue q. Items of a packet that is being discarded are dropped (R155, R308); a first
item opens its packet; an item with another MB, or a poisoned one, refuses the packet (R157, R308). Otherwise use takes the
item on: the issue port under AUTO = 1, a descriptor register under TD.NEXT. -/
def State.coreTake (s : State) (core q : Nat) (use : State → Desc → State) : State :=
  let c := s.core core
  match s.qPeek q with
  | none => s
  | some (v, l, none) =>
    let first := !c.inPacket
    let s := s.qTake q v l false
    let c := s.core core
    let mb := if first then 0xffff else c.packetMb
    if c.dropping.isSome then s.dropItem core false
    else
      let n := if first then c.pkt + 1 else c.pkt
      (s.setCore core { c with inPacket := true, pkt := n, dropping := some ⟨true, 0, q, mb, 1⟩ }).countDrop core n
  | some (v, l, some d) =>
    let eop := descEop d
    let s := s.qTake q v l eop
    if c.dropping.isSome then s.dropItem core eop
    else
      let c' := s.core core
      let s := if c.inPacket then s
        else s.setCore core { c' with inPacket := true, packetMb := descMb d, pkt := c'.pkt + 1 }
      let s := if descMb d = (s.core core).packetMb then use s d else s.tdyRefuse core q d
      let c := s.core core
      if eop then s.setCore core { c with inPacket := false, chosen := false } else s

/-- Whether a core may take an item of a queue now: it reads that queue's chosen packet and can pass the item on. -/
def State.coreMayTake (s : State) (core q : Nat) : Bool :=
  let c := s.core core
  (c.chosen || c.inPacket || c.dropping.isSome) && s.get .TDY_QBIND_QID core c.bind == q &&
    (c.dropping.isSome ||
      (match s.qPeek q with
       | some (_, _, some d) => s.canIssue core d
       | _ => c.wait == .none))

/-- The binding of a queue whose next packet begins with a poisoned item: its core discards that packet when it reaches it, before the choice
of R159 (R308). -/
def State.poisonBind (s : State) (core q : Nat) : Option Nat :=
  let c := s.core core
  if c.inPacket || c.chosen || c.dropping.isSome || s.coreHalted core || (c.wait != .none && c.wait != .switch) then none
  else
    match s.qPeek q with
    | some (v, _, none) =>
      if qInPkt v then none
      else (List.range 16).find? fun n => s.get .TDY_QBIND_VALID core n == 1 && s.get .TDY_QBIND_QID core n == q
    | _ => none

/-- A reader other than a tidy core takes the next item; items of a packet whose rest is dropped are discarded (R308). -/
def State.otherTake (s : State) (q : Nat) (v : QD) (l : Nat) (item : Option Desc) : State :=
  let dropping := KMap.has s.que.drop q
  match item with
  | none =>
    let s := s.qTake q v l false
    { s with que := { s.que with drop := KMap.set s.que.drop q l } }
  | some d =>
    let s := if dropping ∧ descEop d then ({ s with que := { s.que with drop := KMap.erase s.que.drop q } } : State) else s
    let s := s.qTake q v l (descEop d)
    if dropping then s else s.emit (.item (qReaderKind v) (qReader v) q d)

/-- A queue whose descriptor the hub finds poisoned gives its reader nothing (R524) (DEDUCED, log entry 28). -/
def State.qPoisonEnd (s : State) (q : Nat) : State :=
  match s.qFind q with
  | .poison => s.qUe q
  | _ => s

/-- QUEUE_TAKE (R300, R301): the reader of a queue takes its next item. Items of a packet that a reset of the reader cut
off are discarded (R308). A tidy core with AUTO = 1 issues it unchanged; with
AUTO = 0 its program takes items with TD.NEXT, and here it only discards those of a packet that it drops. Nothing happens while the reader may not take one; a freeze stops every reader at
its packet boundary (R370), and a codec engine takes items at frame boundaries only (R392) (DEDUCED, log entry 28). -/
def execQueueTake (qid : Nat) (s : State) : Res :=
  let q := qid % 2 ^ 20
  match s.qPeek q with
  | none => .next (s.qPoisonEnd q)
  | some (v, l, item) =>
    if qReaderKind v = 0 ∧ KMap.has s.que.drop q then .next (s.otherTake q v l item)
    else if qReaderKind v = 0 then
      match s.physCore (qReader v) with
      | some core =>
        match s.poisonBind core q with
        | some n => .next ((s.setCore core { s.core core with bind := n }).coreTake core q fun s d => s.tdyDo core q d)
        | none =>
          if (s.get .TDY_CFG_AUTO core = 1 || (s.core core).dropping.isSome) && s.coreMayTake core q then
            .next (s.coreTake core q fun s d => s.tdyDo core q d)
          else .next s
      | none => .next s
    else if s.get .ESC_STATUS_FROZEN = 1 ∧ !qInPkt v then .next s
    else if qReaderKind v = 3 ∧ (KMap.get s.vce (qReader v) VceSt.init).job.isSome then .next s
    else .next (s.otherTake q v l item)

/-- TD_NEXT (R140): the next item that the scheduler chose goes into Dn and its class to rd; 0 to rd when none is ready. -/
def execTdNext (core : Nat) (rd dn : Nat) (s : State) : Res :=
  s.onProgram core fun s =>
    let c := s.core core
    let q := s.get .TDY_QBIND_QID core c.bind
    if (c.chosen || c.inPacket) && c.dropping.isNone && (s.qPeek q).isSome then
      (s.setX core (rd % 32) 0).coreTake core q fun s d =>
        let c := s.core core
        (s.setCore core { c with dreg := KMap.set c.dreg (dn % 8) d }).setX core (rd % 32) (BitVec.ofNat 64 (descClass d))
    else if c.inPacket then (s.qPoisonEnd q).setX core (rd % 32) 0
    else s.setX core (rd % 32) 0

/-! ### Queue operations (R305, R306, R524, R525) -/

/-- Writes that a part acts on only once READY reads 1 (R445): the write completes, and EV_RESET_EARLY names the register by
its DA and the source. -/
def State.whenReady (s : State) (by_ : Agent) (da : Nat) (f : State → State) : State :=
  if s.get .RST_STATUS_READY = 1 then f s
  else s.log' (srcHub s.inCharge 12) 0xb006 1 [(8, da), (4, s.agentSrc by_)]

/-- A write of QUE_OP: one operation at a time (R305). -/
def State.queOp (s : State) (by_ : Agent) (f : State → State) : Res :=
  .next (s.whenReady by_ 0x7f001000000 fun s =>
    if s.que.waiting.isSome then s.set .QUE_OP_RES_STATUS 6 else f (s.set .QUE_OP_RES_DONE 0))

/-- An operation that needs the descriptor: NO_TABLE and POISON first (R524, R525). -/
def State.onQueue (s : State) (q : Nat) (f : State → QD → State) : State :=
  match s.qFind q with
  | .noTable => s.qEnd 7
  | .poison => (s.qUe q).qEnd 8
  | .desc v => f (s.qTouch v q) v

/-- The status of ENABLE (R306). -/
def State.enableStatus (s : State) (q : Nat) (v : QD) : Nat :=
  match s.qRange q with
  | none => 1
  | some r =>
    if qClass v ≠ r.cls then 2
    else if !s.qReaderOk v || (r.cls == 2 && qReaderDomain v != r.domain) then 3
    else if qLog2 v < 4 || !s.ringOk v then 4
    else if qEnabled v then 5
    else 0

/-- QUEUE_ENABLE (R306): the descriptor is checked, and the queue enabled with ARMED under R304. -/
def execQueueEnable (by_ : Agent) (qid : Nat) (s : State) : Res :=
  s.queOp by_ fun s => s.onQueue (qid % 2 ^ 20) fun s v =>
    let q := qid % 2 ^ 20
    let st := s.enableStatus q v
    if st = 0 then ((s.qPut q (qRearm (putBit v 63 true))).qSetOn q true).qDone 0 (qOcc v) else s.qDone st (qOcc v)



/-- QUEUE_DISABLE (R305): at the reader's next packet boundary, or at once with FORCE. -/
def execQueueDisable (by_ : Agent) (qid : Nat) (force : Bool) (s : State) : Res :=
  s.queOp by_ fun s => s.onQueue (qid % 2 ^ 20) fun s v =>
    let q := qid % 2 ^ 20
    if force then
      let (s, v) := s.qEndPacket q v
      (s.qOff q v).qDone 0 (qOcc v)
    else if qInPkt v then { s with que := { s.que with waiting := some (2, q, 0) } }
    else (s.qOff q v).qDone 0 (qOcc v)

/-- QUEUE_FLUSH (R302): at the reader's next packet boundary, or at once when it is at one. A plain queue uses bit 0. -/
def execQueueFlush (by_ : Agent) (qid mask : Nat) (s : State) : Res :=
  s.queOp by_ fun s => s.onQueue (qid % 2 ^ 20) fun s v =>
    let q := qid % 2 ^ 20
    if qInPkt v then
      ({ s with que := { s.que with waiting := some (3, q, mask % 256) } } : State).qPut q (putBit v 61 true)
    else
      let (s', v') := s.qFlush q v (mask % 256)
      s'.qDone 0 (qOcc v')

/-- QUEUE_SETLEVEL (R305): LEVEL from QUE_OP_ARG, and ARMED under R304. -/
def execQueueSetlevel (by_ : Agent) (qid : Nat) (s : State) : Res :=
  s.queOp by_ fun s => s.onQueue (qid % 2 ^ 20) fun s v =>
    let v' := qRearm (putBits v 51 32 (s.get .QUE_OP_ARG_LEVEL))
    (s.qPut (qid % 2 ^ 20) v').qDone 0 (qOcc v')

/-- QUEUE_QUERY (R305). -/
def execQueueQuery (by_ : Agent) (qid : Nat) (s : State) : Res :=
  s.queOp by_ fun s => s.onQueue (qid % 2 ^ 20) fun s v => s.qDone 0 (qOcc v)

/-- QUEUE_BAD_OP (R525): completes at once with BAD_OP. The operation codes of R305 have rows of their own. -/
def execQueueBadOp (by_ : Agent) (op : Nat) (s : State) : Res :=
  if 1 ≤ op % 16 ∧ op % 16 ≤ 5 then .fault .otherRow else s.queOp by_ fun s => s.qEnd 9

/-- QUEUE_BOUNDARY_EFFECT (R302, R305): the reader of a queue is at its packet boundary, and what waits for it takes effect. -/
def execQueueBoundaryEffect (qid : Nat) (s : State) : Res := .next (s.qBoundary (qid % 2 ^ 20))

end Sys2Proof.Machine
end

