-- ==== Sys2Proof/Machine/Checks.lean ====
section
/-! DEFINITION. The checks that the image units make on the sections loaded into them (R34, R37 checks 12 and 13): BAD_CONTENT
under R67, R110, R183, R208, R233, R262, R271, R307, R325, R334, R335, R342, R431, R526 and R527, and OVER_RESOURCE. Every
check answers the byte offset in the section at which it fails (R519), or none. A section longer than its layout is
accepted. -/
namespace Sys2Proof.Machine

/-- The sections that an image loads, by type. -/
abbrev Secs := KMap Nat (List Byte)

def Secs.sec (m : Secs) (t : Nat) : List Byte := KMap.get m t []

/-- A list of tests in the order in which they are made, each with the offset that its failure reports. -/
abbrev Chk := List (Bool × Nat)

def firstOff (l : Chk) : Option Nat := (l.find? fun c => !c.1).map (·.2)

/-- Whether n lies within a range. -/
def within (lo n hi : Nat) : Bool := decide (lo ≤ n ∧ n ≤ hi)

/-- Pairs (i, j), i < j, of positions of a list, by the later position. -/
def pairsOf {α : Type} (l : List α) : List ((Nat × α) × (Nat × α)) :=
  let z := l.zipIdx.map fun p => (p.2, p.1)
  z.flatMap fun y => (z.filter fun x => decide (x.1 < y.1)).map fun x => (x, y)

/-- Neighbouring elements of a list. -/
def neighbours {α : Type} (l : List α) : List (α × α) := l.zip (l.drop 1)

/-- Whether two ranges of n > 0 elements share an element. -/
def meets (a n b m : Nat) : Bool := decide (a < b + m ∧ b < a + n)

/-- The present dies, by die index (R13, R17). -/
def Ident.diePresent (id : Ident) (x : Nat) : Bool := decide (x < 40) && bit id.mask x

/-! ### Stage partition (R340, R342) -/

/-- A stage entry (R340). -/
structure StageEnt where
  stage : Nat
  first : Nat
  last : Nat
  depth : Nat
  r7 : Nat
  clusters : Nat
  r18 : Nat
deriving DecidableEq, Repr

def stageAt (b : List Byte) (off : Nat) : StageEnt :=
  let e := slice b off 32
  ⟨field e 0 2, field e 2 2, field e 4 2, field e 6 1, field e 7 1, field e 8 16, field e 24 8⟩

def stagesOf (b : List Byte) : List StageEnt := (List.range (field b 2 1)).map fun i => stageAt b (16 + 32 * i)

/-- Logical clusters of die d that a stage entry names. -/
def StageEnt.onDie (e : StageEnt) (d : Nat) : Nat := bits e.clusters (12 * d + 11) (12 * d)

/-- The relations that R342 asks of a list of stage entries. -/
def stageRel (l : List StageEnt) : Chk :=
  let at' (i : Nat) := 16 + 32 * i
  let sorted := l.zipIdx.mergeSort fun a b => decide (a.1.stage ≤ b.1.stage)
  (pairsOf l).map (fun (x, y) =>
      (x.2.stage != y.2.stage && x.2.clusters &&& y.2.clusters == 0 &&
        (decide (x.2.last < y.2.first) || decide (y.2.last < x.2.first)), at' y.1)) ++
    (neighbours sorted).map (fun (x, y) => (decide (x.1.last < y.1.first), at' (max x.2 y.2))) ++
    (List.range 8).flatMap fun d =>
      (neighbours (sorted.filter fun e => e.1.onDie d != 0)).map fun (x, y) => (x.1.last + 1 == y.1.first, at' (max x.2 y.2))

def stageContent (b : List Byte) : Option Nat :=
  if b.length < 16 ∨ b.length < 16 + 32 * field b 2 1 then some 0
  else
    let l := stagesOf b
    firstOff ([(field b 0 2 != 0, 0), (within 1 (field b 2 1) 96, 2), (zeroAt b 3 1, 3), (field b 4 2 != 0, 4),
        (field b 6 2 != 0, 6), (zeroAt b 8 8, 8)] ++
      (l.zipIdx.flatMap fun (e, i) =>
        let o := 16 + 32 * i
        [(decide (e.stage < field b 0 2), o), (decide (e.last < field b 4 2) && decide (e.first ≤ e.last), o + 4),
          (e.depth != 0, o + 6), (e.r7 == 0, o + 7), (e.clusters != 0 && decide (e.clusters < 2 ^ 96), o + 8),
          (e.r18 == 0, o + 24)]) ++ stageRel l)

def stageOver (id : Ident) (b : List Byte) : Option Nat :=
  firstOff ((stagesOf b).zipIdx.map fun (e, i) => (decide (e.clusters < 2 ^ (12 * id.dies)), 16 + 32 * i + 8))

/-! ### Die map (R518, R527, R341) -/

/-- The pairs of lost clusters, in the order of R518. -/
def lostPairs : List (Nat × Nat) :=
  (List.range 13).flatMap fun a => ((List.range 13).filter fun b => decide (a < b)).map fun b => (a, b)

/-- The physical clusters of the first n logical clusters of a map. -/
def mapPhys (m n : Nat) : List Nat := (List.range n).map fun k => bits m (4 * k + 3) (4 * k)

/-- Whether a map places n logical clusters on distinct physical clusters 0 to 12 outside a list. -/
def mapOk (m n : Nat) (out : List Nat) : Bool :=
  let l := mapPhys m n
  decide l.Nodup && l.all fun p => decide (p < 13) && !out.contains p

/-- Offsets of the variants of a record whose variants begin at off. -/
def variantOffs (b : List Byte) : Nat → Nat → List Nat
  | _, 0 => []
  | off, n + 1 => off :: variantOffs b (off + 32 + 32 * field b (off + 2) 1) n

/-- R341: a variant's stage entries against the primary ones of its die. -/
def variantStages (b : List Byte) (stages : List StageEnt) (d off : Nat) : Chk :=
  let n := field b (off + 2) 1
  let ents := (List.range n).map fun i => stageAt b (off + 32 + 32 * i)
  let prim := (stages.filter fun e => e.onDie d != 0).mergeSort fun x y => decide (x.stage ≤ y.stage)
  let keep (c : Nat) := putBits c (12 * d + 11) (12 * d) 0
  let used := ents.foldl (fun a e => a ||| e.onDie d) 0
  let swapped := stages.map fun e => (ents.find? fun v => v.stage == e.stage).getD e
  [(n == prim.length, off + 2)] ++
    ((ents.zip prim).zipIdx.map fun ((e, p), i) =>
      (decide ({ e with depth := p.depth, clusters := keep e.clusters } = { p with clusters := keep p.clusters }) &&
        e.depth != 0, off + 32 + 32 * i)) ++
    ((pairsOf ents).map fun (x, y) => (x.2.onDie d &&& y.2.onDie d == 0, off + 32 + 32 * y.1)) ++
    [(prim.isEmpty || used == 0x7ff, off + 32),
      (((stageRel swapped).all (·.1)) && swapped.all (fun e => e.clusters != 0), off + 32)]

/-- The length that the NSE fields of a record's variants give (R527). -/
def recordLen (b : List Byte) (off : Nat) : Nat :=
  let last := (variantOffs b (off + 32) 78).getLastD 0
  last + 32 + 32 * field b (last + 2) 1 - off

/-- The checks of one die record. -/
def dieRecord (b : List Byte) (stages : List StageEnt) (off : Nat) : Chk :=
  let d := field b off 1
  let m := field b (off + 8) 8
  let offs := variantOffs b (off + 32) 78
  [(decide (d < 8), off), (decide (field b (off + 1) 1 ≤ 1), off + 1),
    (within 0 (field b (off + 2) 1) 12 && !(mapPhys m 12).contains (field b (off + 2) 1), off + 2),
    (zeroAt b (off + 3) 1, off + 3),
    (decide (m < 2 ^ 48) && mapOk m 12 [], off + 8), (zeroAt b (off + 16) 16, off + 16)] ++
    ((offs.zip lostPairs).flatMap fun (o, (x, y)) =>
      let vm := field b (o + 8) 8
      [(field b o 1 == x, o), (field b (o + 1) 1 == y, o + 1), (decide (field b (o + 2) 1 ≤ 11), o + 2),
        (zeroAt b (o + 3) 5, o + 3), (decide (vm < 2 ^ 48) && bits vm 47 44 == 15 && mapOk vm 11 [x, y], o + 8),
        (zeroAt b (o + 16) 16, o + 16)] ++ variantStages b stages d o)

/-- Offsets of the die records. -/
def recordOffs (b : List Byte) : Nat → Nat → List Nat
  | _, 0 => []
  | off, n + 1 => off :: recordOffs b (off + field b (off + 4) 4) n

/-- The record of a die, by its offset. -/
def dieRecAt (b : List Byte) (d : Nat) : Option Nat := (recordOffs b 16 (field b 0 1)).find? fun o => field b o 1 == d

/-- Whole-section checks, which every die controller makes, then the checks of the die's own record (R518). -/
def dieMapContent (id : Ident) (b : List Byte) (stages : List StageEnt) (d : Nat) : Option Nat :=
  let n := field b 0 1
  let offs := recordOffs b 16 n
  let stop := match offs.getLast? with | some o => o + field b (o + 4) 4 | none => 16
  match firstOff ([(decide (16 ≤ b.length) && within 1 n 8, 0), (zeroAt b 1 15, 1)] ++
      (offs.map fun o => (decide (b.length < o + 32) || field b (o + 4) 4 == recordLen b o, o + 4)) ++ [(stop == b.length, 0),
      ((List.range id.dies).all fun k => offs.any fun o => field b o 1 == k, 0)]) with
  | some o => some o
  | none =>
    match firstOff ((neighbours offs).map fun (x, y) => (decide (field b x 1 < field b y 1), y)) with
    | some o => some o
    | none => match dieRecAt b d with | some o => firstOff (dieRecord b stages o) | none => some 0

def dieMapOver (id : Ident) (b : List Byte) : Option Nat :=
  firstOff ((recordOffs b 16 (field b 0 1)).map fun o => (decide (field b o 1 < id.dies), o))

/-! ### Routes (R335, R15) -/

/-- The die-to-die links of R15 by die index, and OE0 to HD0 on the A2 (R17). -/
def isLink (id : Ident) (a b : Nat) : Bool :=
  let p := (min a b, max a b)
  [(0, 1), (1, 2), (2, 3), (0, 3), (4, 5), (5, 6), (6, 7), (4, 7), (3, 4), (2, 7), (0, 32), (1, 33), (5, 34), (6, 35),
    (33, 36), (33, 37), (35, 38), (35, 39)].contains p || (id.member == .a2 && p == (32, 36)) ||
    (decide (p.1 < 8) && (p.2 == 8 + 2 * p.1 || p.2 == 9 + 2 * p.1 || p.2 == 24 + p.1))

/-- The dies of a path entry after its source, unused hops left out. -/
def pathHops (e : List Byte) : List Nat := (((slice e 4 12).map (·.toNat)).takeWhile (· != 0xff))

def routeContent (id : Ident) (b : List Byte) : Option Nat :=
  let np := field b 0 2
  let nr := field b 2 2
  if b.length < 16 + 16 * np + 8 * nr then some 0
  else
    let paths := (List.range np).map fun i => slice b (16 + 16 * i) 16
    let res := (List.range nr).map fun i => slice b (16 + 16 * np + 8 * i) 8
    firstOff ([(zeroAt b 4 12, 4)] ++
      (paths.zipIdx.flatMap fun (e, i) =>
        let o := 16 + 16 * i
        let hops := pathHops e
        [(hops.isEmpty || hops.getLastD 0 == field e 1 1, o + 1), (decide (field e 2 1 < 16), o + 2), (zeroAt e 3 1, o + 3),
            (!hops.isEmpty, o + 4)] ++
          ((neighbours (field e 0 1 :: hops)).zipIdx.map fun ((x, y), k) => (isLink id x y, o + 4 + k)) ++
          [((slice e (4 + hops.length) (12 - hops.length)).all (· == 0xff), o + 4 + hops.length)]) ++
      ((pairsOf paths).map fun (x, y) =>
        (field x.2 0 1 != field y.2 0 1 || field x.2 1 1 != field y.2 1 1 || field x.2 2 1 &&& field y.2 2 1 == 0, 16 + 16 * y.1)) ++
      (res.zipIdx.flatMap fun (e, i) =>
        let o := 16 + 16 * np + 8 * i
        let share := ((res.take (i + 1)).filter fun x => slice x 0 2 == slice e 0 2).foldl (fun a x => a + field x 4 2) 0
        [(isLink id (field e 0 1) (field e 1 1), o), (within 1 (field e 2 1) 3, o + 2), (zeroAt e 3 1, o + 3),
          (decide (field e 4 2 ≤ 1024), o + 4), (zeroAt e 6 2, o + 6), (decide (share ≤ 1024), o)]))

def routeOver (id : Ident) (b : List Byte) : Option Nat :=
  let np := field b 0 2
  firstOff (((List.range np).flatMap fun i =>
      let e := slice b (16 + 16 * i) 16
      [(id.diePresent (field e 0 1), 16 + 16 * i), (id.diePresent (field e 1 1), 16 + 16 * i + 1)] ++
        ((pathHops e).zipIdx.map fun (x, k) => (id.diePresent x, 16 + 16 * i + 4 + k))) ++
    ((List.range (field b 2 2)).flatMap fun i =>
      let o := 16 + 16 * np + 8 * i
      [(id.diePresent (field b o 1), o), (id.diePresent (field b (o + 1) 1), o + 1)]))

/-! ### Memory carve (R182, R183, R233) -/

/-- Participants of a mode, as State.participants counts them (R180). -/
def Ident.parts (id : Ident) (mode home : Nat) : List Nat :=
  if mode = 0 then [home]
  else if mode = 1 ∧ id.member = .a8 then (List.range 4).map (· + 4 * home)
  else List.range id.dies

/-- The first place at fault of a memory carve (R182, R183). A region in the firmware area is such a fault, BAD_CONTENT, as R183 has it, and not the
OVER_RESOURCE of check 13 of R37 (DESIGN CHOICE, log entry 58). -/
def carveContent (id : Ident) (b : List Byte) : Option Nat :=
  let nr := field b 0 2
  let ng := field b 2 2
  if b.length < 16 + 32 * nr + 16 * ng then some 0
  else
    let rs := regionsOf b
    let ps := partsOf b
    let gOff (i : Nat) := 16 + 32 * nr + 16 * i
    let cnt (r : Region) := (id.parts r.mode r.home).length
    firstOff ([(within 1 nr 256, 0), (decide (ng ≤ 256), 2), (zeroAt b 4 12, 4), (rs.any (·.kind == 6), 0)] ++
      (rs.zipIdx.flatMap fun (r, i) =>
        let o := 16 + 32 * i
        [(within 1 r.kind 9, o), (decide (r.mode ≤ 2), o + 1),
          (decide (r.home ≤ (if r.mode = 0 then 7 else if r.mode = 1 then 1 else 0)), o + 2), (zeroAt b (o + 4) 4, o + 4),
          (r.base % 4096 == 0 && decide (0x10000000 ≤ r.base), o + 8),
          (r.len != 0 && r.len % (4096 * cnt r) == 0 && (r.kind != 6 || r.len == 0x4000000), o + 16),
          (r.loff % 4096 == 0 && decide (0x10000000 ≤ r.loff), o + 24)]) ++
      ((pairsOf rs).map fun (x, y) =>
        (!meets x.2.base x.2.len y.2.base y.2.len &&
          (id.parts x.2.mode x.2.home).all (fun l => !(id.parts y.2.mode y.2.home).contains l ||
            !meets x.2.loff (x.2.len / cnt x.2) y.2.loff (y.2.len / cnt y.2)) &&
          !(x.2.kind == y.2.kind && (x.2.kind == 5 || x.2.kind == 6)), 16 + 32 * y.1)) ++
      (ps.zipIdx.flatMap fun (p, i) =>
        let o := gOff i
        [(decide (p.die < 8), o), (decide (p.shared ≤ 1), o + 1), (zeroAt b (o + 4) 4, o + 4), (p.off % 65536 == 0, o + 8),
          (p.len % 65536 == 0 && p.len != 0 && decide (p.off + p.len ≤ 2 ^ 31), o + 12)]) ++
      ((pairsOf ps).map fun (x, y) => (x.2.die != y.2.die || !meets x.2.off x.2.len y.2.off y.2.len, gOff y.1)))

def carveOver (id : Ident) (b : List Byte) : Option Nat :=
  let cap := id.dies * id.lpDie
  firstOff (((regionsOf b).zipIdx.flatMap fun (r, i) =>
      let o := 16 + 32 * i
      [(decide (if r.mode = 0 then r.home < id.dies else r.mode ≠ 1 ∨ r.home = 0 ∨ id.member = .a8), o + 2),
        (decide (r.base + r.len ≤ cap), o + 8),
        (decide (r.loff + r.len / (id.parts r.mode r.home).length ≤ id.lpDie), o + 24)]) ++
    ((partsOf b).zipIdx.map fun (p, i) => (decide (p.die < id.dies), 16 + 32 * field b 0 2 + 16 * i)))

/-! ### Queue map (R307) -/

def queueContent (b carve : List Byte) : Option Nat :=
  let n := field b 0 2
  if b.length < 16 + 16 * n then some 0
  else
    let e (i : Nat) := slice b (16 + 16 * i) 16
    firstOff ([(within 1 n 4096, 0), (((regionsOf carve)[field b 2 2]?).any (fun r => r.kind == 6), 2), (zeroAt b 4 12, 4)] ++
      ((List.range n).flatMap fun i =>
        let x := e i
        let o := 16 + 16 * i
        [(decide (field x 0 4 ≤ field x 4 4), o), (decide (field x 4 4 ≤ 0xfffff), o + 4),
          (within 1 (field x 8 1) 2, o + 8),
          (if field x 8 1 = 1 then field x 9 1 == 0xff else decide (field x 9 1 < 20), o + 9), (zeroAt x 10 6, o + 10),
          (i == 0 || decide (field (e (i - 1)) 4 4 < field x 0 4), o)]))

/-- The die index of a clock domain (R303). -/
def domainDie (d : Nat) : Nat := if d < 8 then d else d + 16

def queueOver (id : Ident) (b : List Byte) : Option Nat :=
  firstOff ((List.range (field b 0 2)).map fun i =>
    (field b (16 + 16 * i + 8) 1 == 1 || id.diePresent (domainDie (field b (16 + 16 * i + 9) 1)), 16 + 16 * i + 9))

/-! ### Precision policy (R109, R110, R262) -/

def policyContent (b : List Byte) : Option Nat :=
  let rows := field b 0 2
  let maps := field b 2 2
  let profs := field b 4 1
  let pOff (i : Nat) := 64 + 32 * i
  let sOff (i : Nat) := 64 + 32 * profs + 16 * i
  let mOff (i : Nat) := 64 + 32 * profs + 16 * rows + 16 * i
  if b.length < mOff maps then some 0
  else
    let ps := polProfiles b
    let ss := polSeeds b
    let ms := polMaps b
    let used (p rung : Nat) := ((ps[p]?).bind fun x => x.ladder[rung]?).any (· != 0xff)
    firstOff ([(decide (rows ≤ 1024), 0), (decide (maps ≤ 4096), 2), (within 1 profs 16, 4), (decide (field b 5 1 ≤ 1), 5),
        (zeroAt b 6 2, 6)] ++
      ((List.range 8).map fun k => (field b (8 + k) 1 == 0xff || decide (field b (8 + k) 1 ≤ 10), 8 + k)) ++
      ((List.range 8).map fun k => (decide (field b (16 + k) 1 ≤ 3), 16 + k)) ++ [(zeroAt b 24 40, 24)] ++
      (ps.zipIdx.flatMap fun (p, i) =>
        let o := pOff i
        [(p.ladder.all (fun c => c == 0xff || decide (c ≤ 7)) && p.ladder.headD 0xff != 0xff &&
            (neighbours p.ladder).all (fun (x, y) => x != 0xff || y == 0xff), o),
          (decide (p.clip ≤ 3), o + 4), (within 1 p.window 16, o + 5), (decide (p.marginMax ≤ 8), o + 7),
          (p.narrowAfter != 0, o + 16), (zeroAt b (o + 18) 14, o + 18)]) ++
      (ss.zipIdx.flatMap fun (x, i) =>
        let o := sOff i
        [(decide (x.actProfile < profs), o + 2),
          (decide (x.gradProfile < profs) &&
            (((ps[x.gradProfile]?).map (·.ladder)).getD []).all (fun c => c == 0xff || [4, 3, 1, 2].contains c), o + 3),
          (used x.actProfile x.actRung, o + 4), (used x.gradProfile x.gradRung, o + 5), (zeroAt b (o + 6) 2, o + 6),
          (coarseOk x.actCoarse, o + 8), (coarseOk x.gradCoarse, o + 12)]) ++
      ((pairsOf ss).map fun (x, y) => (x.2.layer != y.2.layer || x.2.layer == 0xffff, sOff y.1)) ++
      (ms.zipIdx.flatMap fun (m, i) =>
        let o := mOff i
        [(decide (m.lo < 2 ^ 24) && decide (m.lo ≤ m.hi), o), (decide (m.hi < 2 ^ 24), o + 4), (decide (m.row < rows), o + 8),
          (decide (m.role ≤ 1), o + 10), (decide (m.trole ≤ 7) || m.trole == 0xff, o + 11), (zeroAt b (o + 12) 4, o + 12)]) ++
      ((neighbours ms).zipIdx.map fun ((x, y), i) => (decide (x.hi < y.lo), mOff (i + 1))))

/-! ### Fabric peer map (R333, R334, R325) -/

/-- A peer entry. -/
structure Peer where
  dev : Nat
  ports : Nat
  tiers : Nat
  fibre : Nat
deriving DecidableEq, Repr

/-- A group entry with its members. -/
structure Group where
  gid : Nat
  nmb : Nat
  members : List Nat
deriving DecidableEq, Repr

def pmPeers (b : List Byte) : List Peer :=
  (List.range (field b 2 1)).map fun i =>
    let e := slice b (64 + 8 * i) 8
    ⟨field e 0 2, field e 2 2, field e 4 1, field e 6 2⟩

def pmGroupOff (b : List Byte) (i : Nat) : Nat := 64 + 8 * field b 2 1 + 16 * i

def pmMember (b : List Byte) (k : Nat) : Nat := field b (pmGroupOff b (field b 4 2) + 2 * k) 2

def pmGroups (b : List Byte) : List Group :=
  (List.range (field b 4 2)).map fun i =>
    let e := slice b (pmGroupOff b i) 16
    ⟨field e 0 2, field e 2 2, (List.range (field e 4 4)).map fun k => pmMember b (field e 8 4 + k)⟩

/-- OWN_ID, the bound T, the flags, partners, the commit group and the candidates. -/
def pmOwn (b : List Byte) : Nat := field b 0 2
def pmBound (b : List Byte) : Nat := field b 12 4
def pmPartner (b : List Byte) : Option Nat := if bit (field b 6 2) 2 then some (field b 0x14 2) else none
def pmCommitGroup (b : List Byte) : Nat := field b 0x16 2
def pmCands (b : List Byte) : List Nat := (List.range (field b 3 1)).map fun i => field b (0x18 + 2 * i) 2
def pmDefaultPorts (b : List Byte) : Nat := field b 0x20 2

def pmGroup (b : List Byte) (g : Nat) : Option Group := (pmGroups b).find? fun x => x.gid == g

/-- Members of the commit group. -/
def pmCommit (b : List Byte) : List Nat := ((pmGroup b (pmCommitGroup b)).map (·.members)).getD []

def peerContent (b : List Byte) : Option Nat :=
  let np := field b 2 1
  let ng := field b 4 2
  let nm := field b 8 4
  let mEnd := pmGroupOff b ng + 2 * nm
  let pEnd := pmGroupOff b ng + roundUp (2 * nm) 16
  if b.length < 64 ∨ b.length < pEnd then some 0
  else
    let peers := pmPeers b
    let tiers := field b 0x22 1
    let fibre := field b 0x24 4
    firstOff ([(decide (np ≤ 64), 2), (decide (field b 3 1 ≤ 4) && (np == 0 || field b 3 1 != 0), 3), (within 1 ng 64, 4),
        (decide (field b 6 2 < 8), 6), (decide (1500 + 1500 * tiers + 5 * fibre ≤ pmBound b), 12),
        ((pmCommit b).contains (pmOwn b), 0x16), (decide (tiers ≤ 7), 0x22), (zeroAt b 0x23 1, 0x23), (zeroAt b 0x28 24, 0x28)] ++
      (peers.zipIdx.flatMap fun (p, i) =>
        let o := 64 + 8 * i
        [(p.tiers != 0 || p.ports &&& pmDefaultPorts b == 0, o + 2), (decide (p.tiers ≤ tiers), o + 4),
          (zeroAt b (o + 5) 1, o + 5), (decide (p.fibre ≤ fibre), o + 6)]) ++
      ((pairsOf peers).map fun (x, y) =>
        (x.2.tiers != 0 || y.2.tiers != 0 || x.2.ports &&& y.2.ports == 0, 64 + 8 * y.1)) ++
      ((List.range ng).flatMap fun i =>
        let o := pmGroupOff b i
        [(field b (o + 2) 2 != 0, o + 2), (within 1 (field b (o + 4) 4) 65536, o + 4),
          (decide (field b (o + 8) 4 + field b (o + 4) 4 ≤ nm), o + 8), (zeroAt b (o + 12) 4, o + 12)]) ++
      ((pairsOf (pmGroups b)).map fun (x, y) => (x.2.gid != y.2.gid, pmGroupOff b y.1)) ++
      ((pmGroups b).zipIdx.flatMap fun (g, i) =>
        (pairsOf g.members).map fun (x, y) =>
          (x.2 != y.2, pmGroupOff b ng + 2 * (field b (pmGroupOff b i + 8) 4 + y.1))) ++
      [(zeroAt b mEnd (pEnd - mEnd), mEnd)])

def peerOver (id : Ident) (b : List Byte) : Option Nat :=
  firstOff ((decide (pmDefaultPorts b < 2 ^ id.ports), 0x20) ::
    ((pmPeers b).zipIdx.map fun (p, i) => (decide (p.ports < 2 ^ id.ports), 64 + 8 * i + 2)))

/-! ### Update selection (R269, R271) -/

/-- An update-selection entry. -/
structure UpdEnt where
  layer : Nat
  rule : Nat
  ld : Nat
  mom : Nat
  mask : Nat
  shard : Nat
  nshard : Nat
  tidW : Nat
  tidM : Nat
  rows : Nat
  cols : Nat
  lo : Nat
  cnt : Nat
  wDa : Nat
  sDa : Nat
  maskDa : Nat
  scratch : Nat
  lrMult : Nat
  wdMult : Nat
  trMin : Nat
  trMax : Nat
deriving DecidableEq, Repr

def updAt (b : List Byte) (i : Nat) : UpdEnt :=
  let e := slice b (32 + 96 * i) 96
  ⟨field e 0 2, field e 2 1, field e 3 1, field e 4 1, field e 5 1, field e 6 1, field e 7 1, field e 8 4, field e 12 4,
    field e 16 4, field e 20 4, field e 24 8, field e 32 8, field e 40 8, field e 48 8, field e 56 8, field e 64 8,
    field e 72 4, field e 76 4, field e 80 4, field e 84 4⟩

def updEnts (b : List Byte) : List UpdEnt := (List.range (field b 0 2)).map (updAt b)

def updSkipGroup (b : List Byte) : Nat := field b 2 2

/-- Bytes of one moment element, whether the rule has a second moment, and where moment 2 starts in the record (R270). -/
def UpdEnt.momBytes (e : UpdEnt) : Nat := if e.mom = 0 then 4 else 2
def UpdEnt.twoMoments (e : UpdEnt) : Bool := e.rule == 1 || e.rule == 3
def UpdEnt.mom2 (e : UpdEnt) : Nat := roundUp (64 + e.momBytes * e.cnt) 64
/-- Bytes of the state record. -/
def UpdEnt.recLen (e : UpdEnt) : Nat :=
  if e.twoMoments then e.mom2 + e.momBytes * e.cnt else 64 + e.momBytes * e.cnt

/-- Bytes of the mask bitmap (R260): 64-bit words of row bits, or one bit per 64 x 64 tile. -/
def UpdEnt.maskLen (e : UpdEnt) : Nat :=
  if e.mask = 1 then 8 * ceilDiv e.rows 64 else if e.mask = 2 then ceilDiv (ceilDiv e.rows 64 * ceilDiv e.cols 64) 8 else 0

/-- Bytes of rule-2 scratch (R276). -/
def UpdEnt.scratchLen (e : UpdEnt) : Nat :=
  let r := min e.rows e.cols
  let c := max e.rows e.cols
  4 * (3 * r * c + 2 * r * r)

/-- Finite and not negative, and finite and positive, FP32 codes. -/
def fpNonNeg (c : Nat) : Bool := decide (c < 0x7f800000) || c == 0x80000000
def fpPos (c : Nat) : Bool := decide (0 < c ∧ c < 0x7f800000)

/-- Whether a range lies wholly in one region of some kinds. -/
def inKinds (rs : List Region) (kinds : List Nat) (da n : Nat) : Bool :=
  rs.any fun r => kinds.contains r.kind && decide (r.base ≤ da) && decide (da + n ≤ r.base + r.len)

def updContent (b carve pm : List Byte) : Option Nat :=
  let n := field b 0 2
  if b.length < 32 + 96 * n then some 0
  else
    let rs := regionsOf carve
    let ents := updEnts b
    let skipOk := updSkipGroup b == 0xffff || n != 0 ||
      !(((pmGroup pm (updSkipGroup b)).map (·.members)).getD []).contains (pmOwn pm)
    firstOff ([(decide (n ≤ 1024), 0), (skipOk, 2), (zeroAt b 16 16, 16)] ++
      (ents.zipIdx.flatMap fun (e, i) =>
        let o := 32 + 96 * i
        let whole := e.lo == 0 && e.cnt == e.rows * e.cols && e.nshard == 1
        [(decide (e.rule ≤ 3), o + 2), (decide (e.ld < 8), o + 3), (e.mom == 0 || e.mom == 2, o + 4), (decide (e.mask ≤ 2), o + 5),
          (e.nshard == 0 || decide (e.shard < e.nshard), o + 6), (e.nshard != 0, o + 7), (decide (e.tidW < 2 ^ 24), o + 8),
          (decide (e.tidM < 2 ^ 24), o + 12), (e.rows != 0 && (e.rule != 2 || decide (min e.rows e.cols ≤ 8192)), o + 16),
          (e.cols != 0, o + 20), (e.lo % 32 == 0 && (e.rule != 2 || whole), o + 24),
          (e.cnt != 0 && decide (e.lo + e.cnt ≤ e.rows * e.cols), o + 32),
          (e.wDa % 64 == 0 && inKinds rs [1] e.wDa (2 * e.cnt), o + 40),
          (e.sDa % 64 == 0 && inKinds rs [2] e.sDa e.recLen, o + 48),
          (e.maskDa % 64 == 0 &&
            (if e.mask = 0 then e.maskDa == 0 else inKinds rs [1, 2, 3, 4, 5, 6, 7, 8, 9] e.maskDa e.maskLen), o + 56),
          (e.scratch % 64 == 0 && (if e.rule = 2 then inKinds rs [2, 9] e.scratch e.scratchLen else e.scratch == 0), o + 64),
          (fpPos e.lrMult, o + 72), (fpNonNeg e.wdMult, o + 76),
          (e.rule != 3 || fpPos e.trMin, o + 80), (e.rule != 3 || (fpPos e.trMax && decide (e.trMin ≤ e.trMax)), o + 84),
          (zeroAt b (o + 88) 8, o + 88)]) ++
      ((pairsOf ents).map fun (x, y) =>
        (x.2.layer != y.2.layer ||
          (x.2.ld != y.2.ld && x.2.rule == y.2.rule && x.2.mom == y.2.mom && x.2.mask == y.2.mask &&
            x.2.nshard == y.2.nshard && x.2.tidW == y.2.tidW && x.2.tidM == y.2.tidM && x.2.rows == y.2.rows &&
            x.2.cols == y.2.cols && !meets x.2.lo x.2.cnt y.2.lo y.2.cnt), 32 + 96 * y.1)))

def updOver (id : Ident) (b : List Byte) : Option Nat :=
  firstOff ((updEnts b).zipIdx.map fun (e, i) => (decide (e.ld < id.dies), 32 + 96 * i + 3))

/-! ### Husk and stook policy (R207, R208, R198) -/

/-- A stook entry. -/
structure StookEnt where
  die : Nat
  lossy : Nat
  drop : Nat
  ctrDone : Nat
  ctrDrop : Nat
  region : Nat
  first : Nat
  last : Nat
deriving DecidableEq, Repr

def stookEnts (b : List Byte) : List StookEnt :=
  (List.range (field b 8 1)).map fun i =>
    let e := slice b (16 + 16 * i) 16
    ⟨field e 0 1, field e 1 1, field e 2 1, field e 3 1, field e 4 1, field e 6 2, field e 8 2, field e 10 2⟩

/-- First and last block of the stages on a die. -/
def dieBlocks (stages : List StageEnt) (d : Nat) : Option (Nat × Nat) :=
  match stages.filter fun e => e.onDie d != 0 with
  | [] => none
  | e :: l => some (l.foldl (fun a x => min a x.first) e.first, l.foldl (fun a x => max a x.last) e.last)

def stookContent (id : Ident) (b carve stage : List Byte) : Option Nat :=
  let n := field b 8 1
  if b.length < 16 + 16 * n then some 0
  else
    let ents := stookEnts b
    let st := stagesOf stage
    firstOff (((List.range 8).map fun k => (decide (field b k 1 ≤ 2) || field b k 1 == 0xff, k)) ++
      [(decide (n ≤ 8), 8), (zeroAt b 9 7, 9)] ++
      (ents.zipIdx.flatMap fun (e, i) =>
        let o := 16 + 16 * i
        let reg := (regionsOf carve)[e.region]?
        [(decide (e.die < 8), o), (decide (e.lossy ≤ 2), o + 1), (decide (e.drop ≤ 1), o + 2), (decide (e.ctrDone ≤ 63), o + 3),
          (decide (e.ctrDrop ≤ 63) && e.ctrDrop != e.ctrDone, o + 4), (zeroAt b (o + 5) 1, o + 5),
          (reg.any (fun r => r.kind == 3 && r.mode == 0 && r.home == e.die && r.base % 0x200000 == 0 && r.len % 0x200000 == 0 &&
            within 0x4000000 r.len id.lpDie), o + 6),
          ((dieBlocks st e.die).any (fun x => x.1 == e.first), o + 8),
          ((dieBlocks st e.die).any (fun x => x.2 == e.last) && decide (e.first ≤ e.last), o + 10), (zeroAt b (o + 12) 4, o + 12)]) ++
      ((pairsOf ents).map fun (x, y) => (x.2.die != y.2.die, 16 + 16 * y.1)))

def stookOver (id : Ident) (b : List Byte) : Option Nat :=
  firstOff ((stookEnts b).zipIdx.map fun (e, i) => (decide (e.die < id.dies), 16 + 16 * i))

/-! ### Beat-slot template (R66, R67, R186) -/

/-- Whether a die index is of the kind on which a slot kind acts (R67). -/
def slotTargetOk (id : Ident) (kind t : Nat) : Bool :=
  match kind with
  | 1 => t == 0xffff || decide (t < 8)
  | 2 => t == 0xffff || decide (t < 8) || (if id.member = .a2 then t == 32 else t == 33 || t == 35)
  | 3 => within 24 t 31
  | 4 => t == 0xffff || decide (t < 8)
  | _ => t == 0xffff

/-- The traffic class and share of a collective window. -/
def winClass (x : Slot) : Nat := bits x.param 31 30
def winShare (x : Slot) : Nat := bits x.param 9 0

/-- PARAM of each slot kind (R66). The micro-batch index of a kind 1 slot is at most the 16 bits of a descriptor's (DESIGN CHOICE, log entry 58). -/
def slotParamOk (x : Slot) : Bool :=
  match x.kind with
  | 1 => decide (x.param < 2 ^ 16)
  | 2 => bits x.param 29 10 == 0
  | 3 => decide (x.param < 8)
  | _ => x.param == 0

def tplContent (id : Ident) (b : List Byte) : Option Nat :=
  let n := tplCount b
  if b.length < 32 + 16 * n then some 0
  else
    let l := tplSlots b
    firstOff ([(within 64 (tplStep b) 16777216, 0), (decide (tplAnchor b < tplStep b), 4), (within 1 n 4096, 8), (zeroAt b 10 22, 10)] ++
      (l.zipIdx.flatMap fun (x, i) =>
        let o := 32 + 16 * i
        let sh := ((l.take (i + 1)).filter fun y =>
          y.kind == 2 && winClass y == winClass x && decide (y.start < x.start + x.len ∧ x.start < y.start + y.len)).foldl (fun a y => a + winShare y) 0
        [(within 1 x.kind 5, o), (zeroAt b (o + 1) 1, o + 1), (slotTargetOk id x.kind x.target, o + 2),
          (i == 0 || decide (((l[i - 1]?).map (·.start)).getD 0 ≤ x.start), o),
          ((if x.kind = 5 then x.len == 0 else true) && decide (x.start + x.len ≤ tplStep b), o + 8), (slotParamOk x, o + 12),
          (x.kind != 2 || decide (sh ≤ 1024), o)]))

def tplOver (id : Ident) (b : List Byte) : Option Nat :=
  firstOff ((tplSlots b).zipIdx.map fun (x, i) => (x.target == 0xffff || id.diePresent x.target, 32 + 16 * i + 2))

/-- The rules of R67 and R186 that depend on BEAT_PERIOD, which the arbiter checks (R42): rotation and calibration lengths,
and the gaps between the windows of each device of a target ledger die. -/
def tplPeriodOk (b : List Byte) (p : Nat) : Bool :=
  let l := tplSlots b
  let cal := l.filter fun x => x.kind == 3
  l.all (fun x => (x.kind != 4 || decide (ceilDiv 40000 p ≤ x.len)) && (x.kind != 3 || decide (ceilDiv 64000 p ≤ x.len))) &&
    cal.all fun c => (List.range 3).all fun dev =>
      let st := ((cal.filter fun x => x.target == c.target && bit x.param dev).map (·.start)).mergeSort fun x y => decide (x ≤ y)
      let gaps := (neighbours st).map (fun (x, y) => y - x)
      match st.head?, st.getLast? with
      | some f, some e => (gaps ++ [f + tplStep b - e]).all fun g => decide (g ≤ 128000000 / p)
      | _, _ => false

/-! ### Power policy (R431) -/

/-- The smallest PWR_CAP of a member (R432). -/
def Ident.capMin (id : Ident) : Nat := match id.member with | .a8 => 1200 | .a4 => 600 | .a2 => 300

def powerContent (id : Ident) (b carve : List Byte) : Option Nat :=
  if b.length < 32 then some 0
  else
    let fr := field b 16 2
    let reg := (regionsOf carve)[fr]?
    firstOff [(within id.capMin (field b 12 2) id.cap, 12), (decide (field b 14 1 ≤ 4), 14), (zeroAt b 15 1, 15),
      ((fr == 0xffff && field b 14 1 != 4) ||
        reg.any (fun r => (r.kind == 8 || r.kind == 9) && r.mode == 2 && decide (id.dies * 2 ^ 31 ≤ r.len)), 16),
      (zeroAt b 18 14, 18)]

/-! ### The start-up variant (R517, R526) -/

/-- A section-table entry (R32): TYPE, SVER, OFFSET, LENGTH. -/
structure SecEnt where
  typ : Nat
  sver : Nat
  off : Nat
  len : Nat
deriving DecidableEq, Repr

def secEntAt (b : List Byte) (o : Nat) : SecEnt := ⟨field b o 2, field b (o + 2) 2, field b (o + 8) 4, field b (o + 12) 4⟩

def replEnts (b : List Byte) : List SecEnt := (List.range (field b 0 2)).map fun i => secEntAt b (16 + 32 * i)

def variantContent (b : List Byte) : Option Nat :=
  let n := field b 0 2
  if b.length < 16 + 32 * n then some 0
  else
    let l := replEnts b
    firstOff ([(within 1 n 4, 0), (zeroAt b 2 14, 2)] ++
      (l.zipIdx.flatMap fun (e, i) =>
        let o := 16 + 32 * i
        [([2, 4, 8, 10].contains e.typ, o), (e.sver == 1, o + 2), (zeroAt b (o + 4) 4, o + 4),
          (e.off % 64 == 0 && decide (16 + 32 * n ≤ e.off) && decide (e.off ≤ b.length), o + 8),
          (e.len != 0 && decide (e.off + e.len ≤ b.length), o + 12), (zeroAt b (o + 16) 16, o + 16)]) ++
      ((pairsOf l).map fun (x, y) => (x.2.typ != y.2.typ && !meets x.2.off x.2.len y.2.off y.2.len, 16 + 32 * y.1)))

/-- The replacement sections, by type. -/
def replSecs (b : List Byte) : Secs := (replEnts b).map fun e => (e.typ, slice b e.off e.len)

/-- The set of sections that a variant loads (R45). -/
def Secs.variant (m : Secs) (v : Nat) : Secs :=
  if v = 1 ∧ KMap.has m 12 then (replSecs (m.sec 12)).foldl (fun a e => KMap.set a e.1 e.2) m else m

/-! ### What each unit checks (R28, R34, R37) -/

/-- Whether an image unit exists in the part (R28). -/
def Ident.unitOk (id : Ident) (u : Nat) : Bool :=
  match unitKind u with
  | .clu d _ => decide (d < id.dies) | .die d => decide (d < id.dies) | .ledger n => decide (n < id.dies)
  | .hub h => decide (h < id.hubs)

/-- The section types that a unit loads (R34); the hub role sets are those of R13, both on the A2's hub (R17). -/
def Ident.unitSecs (id : Ident) (u : Nat) : List Nat :=
  match unitKind u with
  | .clu _ _ => [2, 6, 10]
  | .die _ => [1, 2, 3, 4, 10]
  | .ledger _ => [2, 4, 6, 7, 8, 10]
  | .hub h => if id.member = .a2 then [3, 5, 9, 10, 11] else if h % 2 = 1 then [3, 5, 9, 10] else [3, 10, 11]

/-- Checks 12 and 13 of one section of a set, for a unit: the code and the offset. -/
def secCheck (id : Ident) (m : Secs) (u t : Nat) (withV : Bool) : Option Nat :=
  let b := m.sec t
  match t, withV with
  | 1, false => dieMapContent id b (stagesOf (m.sec 2)) (match unitKind u with | .die d => d | _ => 0)
  | 1, true => dieMapOver id b
  | 2, false => stageContent b
  | 2, true => stageOver id b
  | 3, false => routeContent id b
  | 3, true => routeOver id b
  | 4, false => carveContent id b
  | 4, true => carveOver id b
  | 5, false => queueContent b (m.sec 4)
  | 5, true => queueOver id b
  | 6, false => policyContent b
  | 7, false => updContent b (m.sec 4) (m.sec 9)
  | 7, true => updOver id b
  | 8, false => stookContent id b (m.sec 4) (m.sec 2)
  | 8, true => stookOver id b
  | 9, false => peerContent b
  | 9, true => peerOver id b
  | 10, false => tplContent id b
  | 10, true => tplOver id b
  | 11, false => powerContent id b (m.sec 4)
  | _, _ => none

/-- What fails at a unit: the code, the section reported and the offset in it (R37, R519, R526). Check 12 goes over the
unit's sections in ascending type, then the start-up variant, then check 13 (DEDUCED, log entry 18). -/
def unitCheck (id : Ident) (m : Secs) (u : Nat) : Option (Nat × Nat × Nat) :=
  let ts := id.unitSecs u
  let v := KMap.has m 12
  let m1 := m.variant 1
  let repl := replEnts (m.sec 12)
  let one (withV : Bool) (code : Nat) : List (Nat × Nat × Nat) :=
    ts.filterMap (fun t => (secCheck id m u t withV).map fun o => (code, t, o)) ++
      (if v then ts.filterMap (fun t => (secCheck id m1 u t withV).map fun o =>
          match repl.find? fun e => e.typ == t with
          | some e => (code, 12, e.off + o)
          | none => (code, t, o)) else [])
  let vbad := if v && ts.any ([2, 4, 8, 10].contains ·) then (variantContent (m.sec 12)).map fun o => ((0x0c, 12, o) : Nat × Nat × Nat) else none
  match vbad with
  | some x => some ((ts.filterMap (fun t => (secCheck id m u t false).map fun o => ((0x0c, t, o) : Nat × Nat × Nat))).headD x)
  | none => (one false 0x0c ++ one true 0x0d).head?

end Sys2Proof.Machine
end

