-- ==== Sys2Proof/Machine/Wire.lean ====
section
/-! DEFINITION. What stands on a lane: the 32-byte header of a packet (R319), its granules (R314), and the 16-byte link word of a frame
(R313), each written and read. -/
namespace Sys2Proof.Machine

/-! ### The packet header (R319) -/

/-- LEN of a packet: the bytes of its payload, or for a READ request the bytes that it asks for (R319, R320). -/
def pktLen (p : Packet) : Nat := if p.op = 2 then p.len else p.payload.length

/-- The header granule of a packet. DA and OPERAND of a MESSAGE or COLLECTIVE packet stand for fields whose places the spec does not give
(DEDUCED, log entry 55). -/
def pktHeader (p : Packet) : List Byte :=
  leBytes 1 p.op ++ leBytes 1 p.tc ++ leBytes 2 p.dst ++ leBytes 2 p.src ++ leBytes 2 (pktLen p) ++ leBytes 8 p.da ++ leBytes 4 p.tag ++
    leBytes 4 p.sseq ++ leBytes 8 p.operand

/-- Whether every field of a packet fits its place in the header (R319). -/
def pktFits (p : Packet) : Bool :=
  decide (p.op < 256) && decide (p.tc < 4) && decide (p.dst < 2 ^ 16) && decide (p.src < 2 ^ 16) && decide ((pktLen p) ≤ 4096) &&
    decide (p.da < 2 ^ 43) && decide (p.tag < 2 ^ 32) && decide (p.sseq < 2 ^ 32) && decide (p.operand < 2 ^ 64) && decide (p.mid < 2 ^ 32)

/-- The packet that a header and a payload give (DEDUCED, log entry 55). -/
def packetOf (h payload : List Byte) : Packet :=
  let op := field h 0 1
  { op, tc := field h 1 1, dst := field h 2 2, src := field h 4 2, da := field h 8 8, tag := field h 0x10 4, sseq := field h 0x14 4,
    operand := field h 0x18 8, payload, msg := none, coll := none, len := if op = 2 then field h 6 2 else 0, mid := 0, wall := 0 }

/-- Granules of a packet (R314): its header and its payload. A TC0 message is taken as 64 bytes. -/
def pktGranules (p : Packet) : Nat := if p.op = 0x10 then 2 else 1 + ceilDiv p.payload.length 32

/-! ### The link word (R313) -/

/-- The link word of a frame. -/
def frameWord (f : Frame) : Nat :=
  f.seq % 2 ^ 20 * 2 ^ 108 + f.ack % 2 ^ 20 * 2 ^ 88 + b2n f.nak * 2 ^ 87 + f.kind % 4 * 2 ^ 85 + f.first % 32 * 2 ^ 80 +
    f.ctcA % 4 * 2 ^ 78 + f.creditA % 2 ^ 14 * 2 ^ 64 + f.ctcB % 4 * 2 ^ 62 + f.creditB % 2 ^ 14 * 2 ^ 48 + f.active % 16 * 2 ^ 44

/-- A frame on a lane. -/
def wireOf (f : Frame) : WireFrame := ⟨frameWord f, f.pieces, f.ctl⟩

/-- The frame that a lane brings: the fields of its link word. -/
def frameOf (w : WireFrame) : Frame :=
  { seq := bits w.word 127 108, ack := bits w.word 107 88, nak := bit w.word 87, kind := bits w.word 86 85, first := bits w.word 84 80,
    ctcA := bits w.word 79 78, creditA := bits w.word 77 64, ctcB := bits w.word 63 62, creditB := bits w.word 61 48,
    active := bits w.word 47 44, pieces := w.pieces, ctl := w.ctl }

/-- Whether a frame that came whole is one that R313 lays out: a word of 128 bits, at most 25 granules, and at most 20 symbols corrected. -/
def wireFits (w : WireFrame) (syms : Nat) : Bool :=
  decide (w.word < 2 ^ 128) && decide ((w.pieces.map (·.n)).sum ≤ 25) && decide (syms ≤ 20) && w.pieces.all fun q => pktFits q.pkt

end Sys2Proof.Machine
end

