-- ==== Sys2Proof/Machine/Net.lean ====
section
/-! DEFINITION. What the part does on the fabric as a whole: its peer map, sending messages and packets (R319, R323, R332), the
TC0 latency check (R326), the failed device of R521, and the failure freeze and its thaw (R369 to R371). -/
namespace Sys2Proof.Machine

/-! ### The active peer map -/

def State.peerMap (s : State) : List Byte := (s.bank s.fabUnit).sec 9
def State.ownId (s : State) : Nat := pmOwn s.peerMap
def State.peers (s : State) : List Peer := pmPeers s.peerMap

/-- The other members of the commit group. -/
def State.commitOthers (s : State) : List Nat := (pmCommit s.peerMap).filter (· != s.ownId)

/-- The value in effect of an RWL field: the one written before the first commit, the one that the last commit took from then on
(R5). -/
def State.eff (s : State) (f : Field) (u : Nat := 0) (i : Nat := 0) : Nat :=
  if s.str.committedOnce then KMap.get s.str.rwlEff ⟨f, u, i⟩ (s.get f u i) else s.get f u i

/-- BEAT_PERIOD in use (R57). -/
def State.period (s : State) : Nat := s.get .BEAT_STATUS_PERIOD

/-- SRC in effect; a reserved value runs as 0 (R54). -/
def State.beatSource (s : State) : Nat := if s.eff .BEAT_CFG_SRC < 4 then s.eff .BEAT_CFG_SRC else 0

/-- The wall time of the edge of beat n (R56). A part with no master that has heard none, of any SRC, stamps nanoseconds since the cold reset
(DESIGN CHOICE, log entry 58). -/
def State.wallAt (s : State) (n : Nat) : Nat :=
  let st := s.get .BEAT_STATUS_STATE
  let src := s.beatSource
  if src = 3 ∧ st = 4 then s.eff .BEAT_ORIGIN_WALL + n * s.period
  else if src ≠ 0 ∧ s.beat.everFrame ∧ (st = 4 ∨ s.beat.master.isSome) then
    s.beat.lastWall + n * s.period - s.beat.lastBeat * s.period
  else s.beat.coldNs

/-- L of R331 and R368. -/
def State.lBeats (s : State) : Nat := ceilDiv (pmBound s.peerMap) s.period + 1

/-- The fabric layers of the hub of half W (HD1, HD0 on the A2) as a source (R472). -/
def State.fabSrc (s : State) : Nat := srcHub (s.portHub 0) 6

/-! ### Sending -/

def State.port (s : State) (p : Nat) : PortSt := KMap.get s.fab.ports p PortSt.init
def State.setPort (s : State) (p : Nat) (x : PortSt) : State := { s with fab := { s.fab with ports := KMap.set s.fab.ports p x } }

/-- A port that carries traffic: UP or DEGRADED (R337). -/
def State.portUp (s : State) (p : Nat) : Bool := s.get .FAB_PORT_STATE 0 p == 2 || s.get .FAB_PORT_STATE 0 p == 3

/-- The ports that reach a device: its peer entry's, or DEFAULT_PORTS (R332). -/
def State.portsTo (s : State) (dev : Nat) : List Nat :=
  let m := match s.peers.find? fun p => p.dev == dev with
    | some p => p.ports
    | none => pmDefaultPorts s.peerMap
  bitList m s.ident.ports

/-- The free credits of a port in a class: those that it holds, less the granules of the packets that wait there. -/
def PortSt.freeCredit (x : PortSt) (tc : Nat) : Int :=
  ((KMap.get x.credits tc 0 : Nat) : Int) - (((KMap.get x.txq tc []).map pktGranules).sum : Nat)

/-- The best of a list of ports for a class: the most free credits, the lowest number among equals. As each packet that waits takes from
a port's free credits, ports take packets in proportion to them (R332). -/
def State.bestPort (s : State) (tc : Nat) : List Nat → Option Nat
  | [] => none
  | p :: ps =>
    match s.bestPort tc ps with
    | none => some p
    | some q => if (s.port p).freeCredit tc < (s.port q).freeCredit tc then some q else some p

/-- The port that a packet for a device takes: one that is up and reaches it. -/
def State.pickPort (s : State) (dst tc : Nat) : Option Nat :=
  let up := (s.portsTo dst).filter s.portUp
  if tc = 0 then up.head? else s.bestPort tc up

/-- A packet waits at a port. -/
def State.portPut (s : State) (q : Nat) (p : Packet) : State :=
  let x := s.port q
  s.setPort q { x with txq := KMap.set x.txq p.tc (KMap.get x.txq p.tc [] ++ [p]) }

/-- A packet takes the next SSEQ of its (destination, class), is handed to the fabric layers, and waits at a port, if one is up. A failed
device sends nothing (R521). -/
def State.sendVia (s : State) (port : Option Nat) (p : Packet) : State :=
  if s.fab.failed then s
  else
    let k := (p.dst, p.tc)
    let n := KMap.get s.fab.txSseq k 0
    let p := { p with src := s.ownId, sseq := n }
    let s := { s with fab := { s.fab with txSseq := KMap.set s.fab.txSseq k ((n + 1) % 2 ^ 32) } }
    let s := match port with
      | some q => s.portPut q p
      | none => s
    match p.msg with
    | some m => s.emit (.tc0 p.dst m)
    | none => s.emit (.packet p)

/-- A packet for a device. -/
def State.sendPacket (s : State) (p : Packet) : State := s.sendVia (s.pickPort p.dst p.tc) p

/-- Whether the hubs generate a message in hardware: those that no dispute's freeze holds (R412). -/
def hubMsg : Msg → Bool
  | .beatFrame .. | .heartbeat .. | .delayReq .. | .delayResp .. => true
  | _ => false

/-- A TC0 message goes out by a port: it carries its own message ID and the wall time of its sending (R323). -/
def State.tc0Via (s : State) (port : Option Nat) (dst : Nat) (m : Msg) : State :=
  let n := s.fab.nextMid
  ({ s with fab := { s.fab with nextMid := (n + 1) % 2 ^ 32 } } : State).sendVia port
    ⟨0x10, 0, dst, 0, 0, 0, 0, 0, [], some m, none, 0, n, s.wallAt s.now⟩

/-- A TC0 message to a device over a given port. -/
def State.tc0At (s : State) (port dst : Nat) (m : Msg) : State := s.tc0Via (some port) dst m

/-- A TC0 message to a device (R323); the freeze of a seal dispute holds it (R412). -/
def State.tc0 (s : State) (dst : Nat) (m : Msg) : State :=
  if s.sealHeld ∧ !hubMsg m then { s with stw := { s.stw with heldOut := s.stw.heldOut ++ [(dst, m)] } }
  else s.tc0Via (s.pickPort dst 0) dst m

/-- A TC0 message to each of a list of devices. -/
def State.tc0All (s : State) (dsts : List Nat) (m : Msg) : State := dsts.foldl (fun s d => s.tc0 d m) s

/-! ### Receiving -/

/-- A message's arrival against the wall time that it carries (R326): lat is the difference in ns, typ the message's type in
the event. MAXLAT counts whole units of 16 ns. A message other than a beat frame, heartbeat or delay exchange (types 0 to 3) ends a
power state (R430). -/
def State.tc0In (s : State) (src typ lat : Nat) : State :=
  let s := if 4 ≤ typ then s.wake 4 else s
  let u := min (lat / 16) 0xffff
  let s := if s.get .FAB_TC0_MAXLAT < u then s.set .FAB_TC0_MAXLAT u else s
  if pmBound s.peerMap + 40 < lat then
    let s := s.bumpSat .FAB_TC0_LATE
    let due := match KMap.get? s.fab.lateAt src with
      | some b => decide (b + 65536 ≤ s.now)
      | none => true
    if due then
      ({ s with fab := { s.fab with lateAt := KMap.set s.fab.lateAt src s.now } } : State).log' s.fabSrc 0x5006 1
        [(2, src), (1, typ), (4, lat)]
    else s
  else s

/-! ### The failed device (R521) -/

/-- From this moment the part sends nothing on the fabric. -/
def State.failDevice (s : State) : State := { s with fab := { s.fab with failed := true } }

/-! ### Freeze and thaw -/

/-- The stewards as a source: the in-charge complex. -/
def State.stwSrc (s : State) : Nat := srcHub s.inCharge 1

/-- The LEAD of an accepted job-scope commit that is not yet complete (R369). -/
def State.jobLead (s : State) : Nat :=
  if s.str.commitScope = 1 ∧ 3 ≤ s.get .STR_STATUS_STATE then s.str.commitLead else 0

/-- The delay of R369: 4 beats for a part alone in its commit group. -/
def State.freezeDelta (s : State) : Nat :=
  if s.commitOthers = [] then 4 else max 16 (max s.lBeats s.jobLead)

/-- EV_FREEZE (R379) (DEDUCED, log entry 39). -/
def State.freezeEv (s : State) (f : Freeze) : State :=
  s.log' s.stwSrc 0x6003 2 [(8, s.get .ESC_FREEZE_F), (2, f.dev), (1, f.cause), (2, f.lost)]

/-- A freeze is held (R369): F is the least send beat held plus the delay; while frozen a freeze is only logged. -/
def State.freezeHold (s : State) (f : Freeze) : State :=
  if s.get .ESC_STATUS_FROZEN = 1 then s.freezeEv f
  else
    let first := s.esc.freezes.all fun g => decide (f.b < g.b)
    let s := { s with esc := { s.esc with freezes := s.esc.freezes ++ [f] } }
    let s :=
      if first then
        let F := f.b + s.freezeDelta
        ({ s with esc := { s.esc with freezeAt := some F } } : State).set .ESC_FREEZE_F F
      else s
    s.freezeEv f

/-- The part sends a failure freeze to its commit group, and holds it itself (R369). Causes: 0 a peer lost, 1 a cluster lost, 2
the FREEZE operation (DEDUCED, log entry 39). -/
def State.freezeSend (s : State) (cause lost : Nat) : State :=
  let f : Freeze := ⟨s.ownId, s.now, cause, lost⟩
  (s.tc0All s.commitOthers (.freeze f.dev f.b cause lost)).freezeHold f

/-- FREEZE_SEND (R369): the part meets a cause of a freeze. Rows whose effect includes the freeze call the same operation. -/
def execFreezeSend (cause lost : Nat) (s : State) : Res := .next (s.freezeSend cause lost)

/-- FREEZE_RECEIVE (R369, R326) (DEDUCED, log entry 39). -/
def execFreezeReceive (dev b cause lost lat : Nat) (s : State) : Res :=
  .next ((s.tc0In dev 7 lat).freezeHold ⟨dev, b, cause, lost⟩)

end Sys2Proof.Machine
end

