-- ==== Sys2Proof/Machine/Steer.lean ====
section
/-! DEFINITION. The format-steering table (R103 to R108): totals of the tally slots, the row update, and the seeding of the table at a
commit. -/
namespace Sys2Proof.Machine

/-- Row r of a ledger die's table. -/
def State.steerRow (s : State) (ld r : Nat) : SteerRow := KMap.get s.steer (ld, r) SteerRow.init

/-- Two slots combined (R103): counts by saturating addition, AMAX by maximum. -/
def Tally.join (a b : Tally) : Tally :=
  ⟨satAdd 32 a.sat b.sat, satAdd 32 a.under b.under, satAdd 32 a.nonfin b.nonfin, amaxMax a.amax b.amax⟩

/-- Totals of a slot rise by those of another part (R103). -/
def State.totalAdd (s : State) (k : Nat) (t : Tally) : State :=
  { s with totals := KMap.set s.totals k ((KMap.get s.totals k {}).join t) }

/-- Every die controller sends a row's two slots to the ledger die, which adds them, and clears them (R103) (DEDUCED, log entry 26). -/
def State.tallySend (s : State) (row : Nat) : State :=
  let ks := [2 * row, 2 * row + 1]
  let own (k : Nat) : Tally :=
    (List.range s.ident.dies).foldl (fun a d => a.join (KMap.get (s.die d).tally k {})) {}
  let s' := (List.range s.ident.dies).foldl (fun s d =>
    let x := s.die d
    s.setDie d { x with tally := x.tally.filter fun e => !ks.contains e.1 }) s
  ks.foldl (fun s' k =>
    ({ s' with ownTot := KMap.set s'.ownTot k ((KMap.get s'.ownTot k {}).join (own k)) } : State).totalAdd k (own k)) s'

/-- This part's totals of a row, taken for the other parts: what is left says that the slots were sent (DEDUCED, log entry 26). -/
def State.takeOwn (s : State) (row : Nat) : State × Tally × Tally :=
  ({ s with ownTot := KMap.set (KMap.set s.ownTot (2 * row) {}) (2 * row + 1) {} }, KMap.get s.ownTot (2 * row) {}, KMap.get s.ownTot (2 * row + 1) {})

/-- The highest used rung of a ladder. -/
def Profile.top (p : Profile) : Nat := (p.ladder.filter (· != 0xff)).length - 1

/-- COARSE after an update (R105): 1 for FP32 and WF16; else the power of two of ceil(log2(H / Fmax)) + MARGIN while H is not 0. -/
def steerCoarse (fmt margin h old : Nat) : Nat :=
  if fmt = 0 ∨ fmt = 2 then 0x3f800000
  else if h = 0 then old
  else
    match Fmt.ofCode fmt, Fmt.fp32.decode h with
    | some f, .fin v =>
      let k := (v.div f.fmax).ceilLog2 + (margin : Int)
      (127 + max (-126) (min 127 k)).toNat * 2 ^ 23
    | _, _ => old

/-- A role block after the update of step s (R105), with head and fill of the row before it, and whether EV_SAT_HIGH is due. -/
def RoleBlk.steer (b : RoleBlk) (t : Tally) (step : Nat) (skipped : Bool) (p : Profile) (head fill : Nat) : RoleBlk × Bool :=
  let amax := KMap.set b.amax head t.amax
  let open_ := step % p.window = 0
  let winSat := satAdd 32 (if open_ then 0 else b.winSat) t.sat
  let satFlag := if open_ then 0 else b.satFlag
  let hold := b.hold - 1
  let r : Nat × Nat × Nat × Nat × Nat × Bool :=   -- RUNG, MARGIN, HOLD, CLEAN, SAT_FLAG, event
    if t.nonfin > 0 ∨ skipped then (b.rung, min (b.margin + 1) p.marginMax, p.hold, 0, satFlag, false)
    else if winSat > p.satThresh ∧ satFlag = 0 then
      if b.rung < p.top then (b.rung + 1, b.margin, p.hold, 0, 1, true)
      else (b.rung, min (b.margin + 1) p.marginMax, p.hold, 0, 1, true)
    else if t.under > p.underThresh ∧ b.margin > 0 then (b.rung, b.margin - 1, hold, 0, satFlag, false)
    else if t.sat = 0 ∧ t.under ≤ p.underThresh then
      let clean := min (b.clean + 1) 65535
      if clean ≥ p.narrowAfter ∧ hold = 0 ∧ b.rung > 0 then (b.rung - 1, b.margin, hold, 0, satFlag, false)
      else (b.rung, b.margin, hold, clean, satFlag, false)
    else (b.rung, b.margin, hold, 0, satFlag, false)
  let (rung, margin, hold, clean, satFlag, ev) := r
  let fmt := p.ladder.getD rung 0
  let fill' := min (fill + 1) 16
  let h := (List.range fill').foldl (fun m k => amaxMax m (KMap.get amax ((head + 16 - k) % 16) 0)) 0
  (⟨fmt, rung, margin, hold, clean, satFlag, steerCoarse fmt margin h b.coarse, winSat, t.sat, t.under, t.nonfin, amax⟩, ev)

/-- FMT and COARSE of a row in every die controller's steering cache, with what R107 keeps of the row, and LAST_STEP of the latest row written
(R111). -/
def State.cacheRow (s : State) (r : Nat) (x : SteerRow) : State :=
  (List.range s.ident.dies).foldl (fun s d =>
    let s := ((s.set .DCTL_STEER_ENT_FMT x.act.fmt d (2 * r)).set .DCTL_STEER_ENT_COARSE x.act.coarse d (2 * r)).set
      .DCTL_STEER_ENT_FMT x.grad.fmt d (2 * r + 1) |>.set .DCTL_STEER_ENT_COARSE x.grad.coarse d (2 * r + 1)
    let s := s.set .DCTL_STEER_STAT_LAST_STEP x.lastStep d
    let c := s.die d
    s.setDie d { c with cache := KMap.set c.cache r ⟨x.lastStep, x.updated⟩ }) s

/-- A row in the table of every ledger die of the part (R106). -/
def State.tableRow (s : State) (r : Nat) (x : SteerRow) : State :=
  (List.range s.ident.dies).foldl (fun s ld => { s with steer := KMap.set s.steer (ld, r) x }) s

/-- EV_SAT_HIGH (R112), counted in the paired compute die's DCTL_STEER_STAT. -/
def State.satHigh (s : State) (ld step row layer role : Nat) (b b' : RoleBlk) (p : Profile) : State :=
  (s.bump .DCTL_STEER_STAT_SAT_HIGH 1 ld).log' (srcLedger ld 2) 0x4002 1
    [(4, step), (2, row), (2, layer), (1, role), (4, b'.winSat), (4, p.satThresh), (1, b.fmt), (1, b'.fmt), (1, b'.margin)]

/-- A ledger die updates a row for step s (R105), copies it to every ledger die and every steering cache (R106). The totals are
taken; slots that no reduce-scatter sent since the last update of the row are sent now (R103; DEDUCED) (DEDUCED, log entry 26). -/
def State.steerUpdate (s : State) (ld row step : Nat) (skipped : Bool) : State :=
  let s := if KMap.has s.ownTot (2 * row) then s else s.tallySend row
  let pol := s.steerPol.getD []
  match (polSeeds pol)[row]? with
  | none => s
  | some sd =>
    match (polProfiles pol)[sd.actProfile]?, (polProfiles pol)[sd.gradProfile]? with
    | some pa, some pg =>
      let x := s.steerRow ld row
      let (a, ea) := x.act.steer (KMap.get s.totals (2 * row) {}) step skipped pa x.head x.fill
      let (g, eg) := x.grad.steer (KMap.get s.totals (2 * row + 1) {}) step skipped pg x.head x.fill
      let y : SteerRow := ⟨x.layer, step, (x.head + 1) % 16, min (x.fill + 1) 16, a, g, true⟩
      let s := if ea then s.satHigh ld step row x.layer 0 x.act a pa else s
      let s := if eg then s.satHigh ld step row x.layer 1 x.grad g pg else s
      let s := { s with totals := s.totals.filter (fun e => e.1 / 2 != row), ownTot := s.ownTot.filter fun e => e.1 / 2 != row }
      (s.tableRow row y).cacheRow row y
    | _, _ => s

/-- The row of a layer in a ledger die's table, if one has it. -/
def State.layerRow (s : State) (ld layer : Nat) : Option Nat :=
  if layer = 0xffff then none else (List.range 1024).find? fun r => (s.steerRow ld r).layer == layer

/-- A row as the seeds of a policy give it (R109). -/
def seedRow (pol : List Byte) (r : Nat) : SteerRow :=
  match (polSeeds pol)[r]? with
  | none => SteerRow.init
  | some sd =>
    let blk (prof rung coarse : Nat) : RoleBlk :=
      ⟨((polProfiles pol)[prof]?.map (·.ladder.getD rung 0)).getD 0, rung, 0, 0, 0, 0, coarse, 0, 0, 0, 0, []⟩
    ⟨sd.layer, 0, 0, 0, blk sd.actProfile sd.actRung sd.actCoarse, blk sd.gradProfile sd.gradRung sd.gradCoarse, false⟩

/-- The two profiles of a row under a policy. -/
def rowProfiles (pol : List Byte) (r : Nat) : Option (Profile × Profile) :=
  match (polSeeds pol)[r]? with
  | none => none
  | some sd =>
    match (polProfiles pol)[sd.actProfile]?, (polProfiles pol)[sd.gradProfile]? with
    | some a, some b => some (a, b)
    | _, _ => none

/-- What a commit does to the table (R108): startup says that the image was loaded as the start-up variant, whose commit keeps a table that
exists. -/
def State.steerSeed (s : State) (pol : List Byte) (startup : Bool) : State :=
  if pol = [] then s
  else
    let rows := List.range 1024
    let keep (r : Nat) : Bool :=
      match s.steerPol with
      | none => false
      | some old =>
        startup ||
          (field pol 5 1 == 1 && (s.steerRow 0 r).layer == (seedRow pol r).layer && rowProfiles old r == rowProfiles pol r)
    let pol' := if startup ∧ s.steerPol.isSome then s.steerPol else some pol
    let s := rows.foldl (fun s r =>
      let x := if keep r then s.steerRow 0 r else seedRow pol r
      if x = SteerRow.init ∧ s.steerRow 0 r = SteerRow.init then s else (s.tableRow r x).cacheRow r x) s
    { s with steerPol := pol' }

end Sys2Proof.Machine
end

