-- ==== Sys2Proof/Machine/Upd.lean ====
section
/-! DEFINITION. The parameter update (chapter 14, R267 to R291): descriptors, the check phase, the skip decision, the write phase with its
journal, and roll-forward; with the canonical reduction tree (R162, R164) and the escrow's home copy of a chunk (R366). -/
namespace Sys2Proof.Machine

/-! ### The canonical tree (R162, R164) -/

/-- The depth of the tree over n leaves. -/
def treeDepth (n : Nat) : Nat := if n ≤ 1 then 0 else Nat.log2 (n - 1) + 1

/-- The maximal aligned sub-trees (first leaf, size) whose leaves below n lie wholly in [a, b), within the sub-tree of depth k at lo. -/
def subTrees (a b n : Nat) : Nat → Nat → List (Nat × Nat)
  | k, lo =>
    let hi := min (lo + 2 ^ k) n
    if hi ≤ lo ∨ hi ≤ a ∨ b ≤ lo then []
    else if a ≤ lo ∧ hi ≤ b then [(lo, 2 ^ k)]
    else
      match k with
      | 0 => []
      | k' + 1 => subTrees a b n k' lo ++ subTrees a b n k' (lo + 2 ^ k')

/-- The sum of the sub-tree of depth k at lo from partials (first leaf, size, ACC52 code); none where it is empty. -/
def combTree (ps : List (Nat × Nat × Nat)) : Nat → Nat → Option Nat
  | k, lo =>
    match ps.find? fun p => p.1 == lo && p.2.1 == 2 ^ k with
    | some p => some p.2.2
    | none =>
      match k with
      | 0 => none
      | k' + 1 =>
        if ps.any fun p => decide (lo ≤ p.1 ∧ p.1 < lo + 2 ^ k) then
          match combTree ps k' lo, combTree ps k' (lo + 2 ^ k') with
          | none, y => y
          | x, none => x
          | some x, some y => some (accComb x y)
        else none

/-- How many leaves below n a list of sub-trees covers. -/
def covered (n : Nat) (ps : List (Nat × Nat)) : Nat := (ps.map fun p => min (p.1 + p.2) n - p.1).foldl (· + ·) 0

/-! ### Arithmetic of the vector lanes and the matrix array (R267) -/

def fma32 (a b c : Num) : Num := rne32 ((a.mul b).add c)

/-- The square root before its one rounding: an integer root to 2^-300 with a bit for what is left. -/
def sqrtX : Num → Num
  | .nan => .nan
  | .inf true => .nan
  | .inf false => .inf false
  | .fin v =>
    if v.num = 0 then .fin v
    else if v.neg then .nan
    else
      let odd : Nat := (v.exp % 2).toNat
      let n := v.num * 2 ^ (600 + odd) / v.den
      let q := Nat.sqrt n
      .fin ⟨false, 2 * q + (if q * q * v.den = v.num * 2 ^ (600 + odd) then 0 else 1), 1, -301 + (v.exp - odd) / 2⟩

def sqrt32 (x : Num) : Num := rne32 (sqrtX x)

def one32 : Num := .fin (Ex.ofNat 1)

def fp32 (c : Nat) : Num := Fmt.fp32.decode c

/-- The group sum of squares as an ACC52 code (R277). -/
def squareSum (xs : List Num) : Nat := let (t, sticky) := groupSum (xs.map fun x => x.mul x); (accAdd 0 t sticky).1

/-- The tree sum of group codes over their index (R162). -/
def treeSum (cs : List Nat) : Nat := (combTree (cs.zipIdx.map fun (c, i) => (i, 1, c)) (treeDepth cs.length) 0).getD 0

/-- One FP32 output of the matrix array (R267): groups of 32 along K in ascending order from +0, rounded under RNE. -/
def dot32 (a b : List Num) : Num :=
  rne32 (accVal ((chunks 32 (a.zip b)).foldl (fun acc g =>
    let (t, sticky) := groupSum (g.map fun p => p.1.mul p.2)
    (accAdd acc t sticky).1) 0))

/-- Matrices by rows. -/
abbrev Mat := List (List Num)

def matT (m : Mat) : Mat := (List.range (m.headD []).length).map fun j => m.map fun r => r.getD j .nan
/-- a times the transpose of b. -/
def matMulT (a b : Mat) : Mat := a.map fun r => b.map fun c => dot32 r c
def matMul (a b : Mat) : Mat := matMulT a (matT b)
def matZip (f : Num → Num → Num) (a b : Mat) : Mat := (a.zip b).map fun (x, y) => (x.zip y).map fun (u, v) => f u v

/-- Rule 2's iteration (R276): X, and the last A and B with the X before, for scratch. -/
def newtonSchulz (na nb nc : Num) : Nat → Mat → Mat × Mat × Mat × Mat
  | 0, x => (x, x, [], [])
  | n + 1, x =>
    let a := matMulT x x
    let b := matZip (fun u v => add32 (mul32 nb u) (mul32 nc v)) a (matMul a a)
    let y := matZip (fun u v => add32 (mul32 na u) v) x (matMul b x)
    match n with
    | 0 => (y, x, a, b)
    | _ => newtonSchulz na nb nc n y

/-! ### State of an engine -/

def State.updOf (s : State) (ld : Nat) : UpdSt := KMap.get s.upd ld UpdSt.init

/-- The engine's state written back, with UPD_STATUS following it (R290). -/
def State.setUpd (s : State) (ld : Nat) (x : UpdSt) : State :=
  let held := x.queue.length + (x.recs.filter fun r => r.state == 1 || r.state == 2).length
  let st := if x.stop ∧ held ≠ 0 then 5 else x.phase
  (({ s with upd := KMap.set s.upd ld x } : State).set .UPD_STATUS_HELD held ld).set .UPD_STATUS_STATE st ld
    |>.set .UPD_STATUS_ROUND_STEP x.step ld

def updAgent (ld : Nat) : Agent := .unit (8 + ld) (srcLedger ld 2)

/-- Entries of an update selection that a ledger die holds, with their indices. -/
def entsOf (b : List Byte) (ld : Nat) : List (Nat × UpdEnt) :=
  ((updEnts b).zipIdx.map fun (e, i) => (i, e)).filter fun p => p.2.ld == ld

/-- The update selection under the active bank of the lowest ledger die. -/
def State.updSec (s : State) : List Byte := (s.bank (unitLedger 0)).sec 7

/-- The update selection that the round of a step goes by: that of a ledger die that has begun it, else the active one (R289). -/
def State.secAt (s : State) (step : Nat) : List Byte :=
  ((List.range s.ident.dies).findSome? fun ld =>
    let x := s.updOf ld
    if x.step = step ∧ x.sec ≠ [] then some x.sec else none).getD s.updSec

/-- The ledger dies of the part that have entries. -/
def State.diesOf (s : State) (sec : List Byte) : List Nat := (List.range s.ident.dies).filter fun ld => !(entsOf sec ld).isEmpty
def State.updDies (s : State) : List Nat := s.diesOf s.updSec

/-! ### Fields of the descriptor (R150, R272) -/

def updStep (d : Desc) : Nat := dbits d 1 31 0
def updLayer (d : Desc) : Nat := dbits d 0 63 48
def updHp (d : Desc) (k : Nat) : Nat := dbits d (2 + k / 2) (32 * (k % 2) + 31) (32 * (k % 2))
def updGrad (d : Desc) : Nat := dbits d 5 42 0

/-- The hyper-parameters as the rules use them, with lr' and lambda' of an entry. -/
structure Hyp where
  lr : Num
  wd : Num
  b1 : Num
  b2 : Num
  eps : Num
  gs : Num
  nest : Bool
deriving DecidableEq, Repr

def hypOf (e : UpdEnt) (d : Desc) : Hyp :=
  ⟨mul32 (fp32 (updHp d 0)) (fp32 e.lrMult), mul32 (fp32 (updHp d 4)) (fp32 e.wdMult), fp32 (updHp d 1), fp32 (updHp d 2),
    fp32 (updHp d 3), fp32 (updHp d 5), dbit d 0 34⟩

/-- A code in [0, 1). -/
def betaOk (c : Nat) : Bool := decide (c < 0x3f800000) || c == 0x80000000

/-- The fault of R77: a stochastic-rounding index of the entry's range would pass 2^40 - 1. -/
def updFmtFault (e : UpdEnt) (d : Desc) : Option BadField :=
  firstBad [(decide (e.lo + e.cnt ≤ 2 ^ 40), (48, updLayer d))]

/-- The first field at fault of an update descriptor that names entry e (R143, R272). -/
def updFault (e : UpdEnt) (d : Desc) : Option BadField :=
  match firstReserved d [(1, 63, 34), (5, 63, 43), (6, 63, 0), (7, 63, 0)] with
  | some b => some b
  | none =>
    let h (k : Nat) (ok : Bool) : Bool × BadField := (ok, (64 * (2 + k / 2) + 32 * (k % 2), updHp d k))
    firstBad [h 0 (fpNonNeg (updHp d 0)), h 4 (fpNonNeg (updHp d 4)), h 1 (betaOk (updHp d 1)),
      h 2 (!e.twoMoments || betaOk (updHp d 2)), h 3 (e.rule == 0 || fpPos (updHp d 3)), h 5 (fpPos (updHp d 5)),
      (dbits d 0 33 32 == e.rule, (32, dbits d 0 33 32)), (updGrad d % 64 == 0, (320, updGrad d))]

/-! ### Reading and poison -/

/-- The gradient value of a container (R273). -/
def gradOf (gs : Num) (c : Nat) : Num := mul32 (rne32 (accVal (c % 2 ^ 52))) gs

/-- n gradients of an entry from element i of its range on. -/
def State.updGrads (s : State) (ld : Nat) (r : JRec) (gs : Num) (i n : Nat) : List Num :=
  let b := s.rdDa (updAgent ld) r.img (updGrad r.item.d + 8 * i) (8 * n)
  (List.range n).map fun k => gradOf gs (field b (8 * k) 8)

/-- n codes of w bytes at a DA, from element i on. -/
def State.updCodes (s : State) (ld : Nat) (img : Image) (da w i n : Nat) : List Nat :=
  let b := s.rdDa (updAgent ld) img (da + w * i) (w * n)
  (List.range n).map fun k => field b (w * k) w

def momFmt (e : UpdEnt) : Fmt := if e.mom = 0 then .fp32 else .wf16

/-- The DA of moment 1 or 2 of an entry. -/
def UpdEnt.momDa (e : UpdEnt) (m : Nat) : Nat := e.sDa + (if m = 1 then 64 else e.mom2)

/-- The entry of a record. -/
def JRec.ent (r : JRec) : UpdEnt := updAt (r.img.sec 7) r.entry

/-- The first poisoned block of a list of ranges (DA, length). -/
def State.updPoison (s : State) (ld : Nat) (img : Image) (l : List (Nat × Nat)) : Option Nat :=
  l.findSome? fun (da, n) => s.poisonDa (updAgent ld) img da n

/-- A poisoned block is read (R178, R191). -/
def State.updUe (s : State) (ld : Nat) (img : Image) (da : Nat) : State := s.daUe (srcLedger ld 2) (updAgent ld) img da

/-- Whether the engine's own requests to a list of ranges wait (R189). -/
def State.updWaits (s : State) (img : Image) (l : List (Nat × Nat)) : Bool := l.any fun p => s.ownBusy img p.1 p.2

/-- EV_UPD_ABORT (R291). -/
def State.updAbortEv (s : State) (ld step layer chunk da : Nat) : State :=
  s.log' (srcLedger ld 2) 0x4014 2 [(1, ld), (4, step), (2, layer), (4, chunk), (8, da)]

/-- EV_UPD_DESC (R291). -/
def State.updDescEv (s : State) (ld layer : Nat) (b : BadField) : State :=
  s.log' (srcLedger ld 2) 0x4011 2 [(1, ld), (2, layer), (2, b.1), (8, b.2)]

/-- Whether element e of a layer is live under its mask bitmap (R260, R278). -/
def liveEl (e : UpdEnt) (mask : List Byte) (i : Nat) : Bool :=
  let row := i / e.cols
  match e.mask with
  | 1 => bit (mask.getD (row / 8) 0).toNat (row % 8)
  | 2 => let b := row / 64 * ceilDiv e.cols 64 + i % e.cols / 64; bit (mask.getD (b / 8) 0).toNat (b % 8)
  | _ => true

/-- The mask bitmap as it stands. -/
def State.maskOf (s : State) (ld : Nat) (r : JRec) : List Byte := s.rdDa (updAgent ld) r.img r.ent.maskDa r.ent.maskLen

/-! ### The element rules (R274 to R277) -/

/-- What one element is updated from. -/
structure ElIn where
  w : Num
  m : Num
  v : Num
  g : Num
  o : Num
deriving DecidableEq, Repr

/-- m, v and u of rules 1 and 3 (R275). -/
def adaptive (h : Hyp) (c1 c2 : Num) (x : ElIn) : Num × Num × Num :=
  let m := fma32 h.b1 x.m (mul32 (sub32 one32 h.b1) x.g)
  let v := fma32 h.b2 x.v (mul32 (sub32 one32 h.b2) (mul32 x.g x.g))
  (m, v, div32 (div32 m c1) (add32 (sqrt32 (div32 v c2)) h.eps))

/-- New weight before its rounding to FP16, and new moments (R274 to R277). For rule 2, m is M' and o the element of O. -/
def updEl (rule : Nat) (h : Hyp) (c1 c2 ratio sc : Num) (x : ElIn) : Num × Num × Num :=
  match rule with
  | 0 =>
    let v := fma32 h.b1 x.m x.g
    let d := if h.nest then fma32 h.b1 v x.g else v
    (fma32 h.lr.neg (fma32 h.wd x.w d) x.w, v, x.v)
  | 1 =>
    let (m, v, u) := adaptive h c1 c2 x
    (fma32 h.lr.neg (fma32 h.wd x.w u) x.w, m, v)
  | 2 => (fma32 h.lr.neg (fma32 h.wd x.w (mul32 sc x.o)) x.w, x.m, x.v)
  | _ =>
    let (m, v, u) := adaptive h c1 c2 x
    (fma32 (mul32 h.lr.neg ratio) (fma32 h.wd x.w u) x.w, m, v)

/-- c1 and c2 of R275 from the new products. -/
def corr (p : Nat) : Num := sub32 one32 (fp32 p)

/-- P1 or P2 of a state record after a step (R275). -/
def State.newP (s : State) (ld : Nat) (r : JRec) (k : Nat) : Nat :=
  rne32c ((fp32 (field (s.rdDa (updAgent ld) r.img (r.ent.sDa + 4 * k) 4) 0 4)).mul (fp32 (updHp r.item.d (1 + k))))

/-! ### Refusal, queueing (R272) -/

/-- Whether a ledger die's engine works: the part's engines are not stopped, no gate holds its clocks, the die is not in reset. -/
def State.updRuns (s : State) (ld : Nat) : Bool :=
  !s.clk.stopped && (s.gatedAt (nodeLedger ld 1)).isNone && !s.rst.inReset.contains (24 + ld)

/-- The items that a ledger die holds of a core's descriptors. -/
def UpdSt.has (x : UpdSt) (core : Nat) (d : Desc) : Bool :=
  x.queue.any (fun i => i.core == core && i.d == d) ||
    x.recs.any fun r => r.state != 3 && r.item.core == core && r.item.d == d

/-- A step whose first descriptor has come joins the order of the rounds. -/
def UpdSt.comes (x : UpdSt) (step : Nat) (sec : List Byte) : UpdSt :=
  if x.order.any fun o => o.1 == step then x else { x with order := x.order ++ [(step, sec)] }

/-- A ledger die refuses a descriptor, by EV_FMT_ILLEGAL for what R77 names, else by EV_UPD_DESC: the round of its step is flagged, and its
entry counts as checked (DEDUCED, log entry 33). -/
def State.updRefuse (s : State) (ld core : Nat) (d : Desc) (sec : List Byte) (entry : Option Nat) (isFmt : Bool) (b : BadField) : State :=
  let s := if isFmt then s.fmtIllegal (srcLedger ld 2) 9 b else s.updDescEv ld (updLayer d) b
  let x := (s.updOf ld).comes (updStep d) sec
  let s := s.setUpd ld { x with bad := x.bad ++ [(updStep d, entry)], flag := x.flag || (x.phase != 0 && x.phase != 4 && x.step == updStep d) }
  s.refuse core kUpd d

/-- The ledger die takes an update descriptor: it refuses it, completes it at once where its layer is DONE for that step (R287), or
queues it (DEDUCED, log entry 33). -/
def State.updTake (s : State) (core : Nat) (d : Desc) : State :=
  let ld := coreDie core
  let s := s.hold core kUpd d
  let x := s.updOf ld
  let beat := (s.heldFor core kUpd d).beat
  let next := ((s.heldOf core kUpd).find? fun h => !x.has core h.d).map (·.d)
  if next ≠ some d ∨ !s.updRuns ld ∨ x.phase = 4 then s
  else
    let img := s.bankFor (unitLedger ld) beat
    let sec := ((x.order.find? fun o => o.1 == updStep d).map (·.2)).getD (img.sec 7)
    match (entsOf sec ld).find? fun p => p.2.layer == updLayer d with
    | none => s.updRefuse ld core d sec none false (48, updLayer d)
    | some (i, e) =>
      let holds := (x.queue.any fun q => updStep q.d == updStep d && updLayer q.d == updLayer d) ||
        x.recs.any fun r => r.state != 3 && updStep r.item.d == updStep d && r.entry == i
      match updFault e d, updFmtFault e d with
      | some b, _ => s.updRefuse ld core d sec (some i) false b
      | none, some b => s.updRefuse ld core d sec (some i) true b
      | none, none =>
        if holds then s.updRefuse ld core d sec none false (48, updLayer d)
        else
          match s.range (updAgent ld) img (updGrad d) (8 * e.cnt) with
          | .unmapped da => (s.unmappedEv (updAgent ld) da).updRefuse ld core d sec (some i) false (320, updGrad d)
          | _ =>
            let x := x.comes (updStep d) sec
            if x.recs.any fun r => r.state == 3 && r.entry == i && updStep r.item.d == updStep d then (s.setUpd ld x).complete core kUpd d
            else s.setUpd ld { x with queue := x.queue ++ [⟨core, beat, d⟩] }

/-- UPDATE_DESCRIPTOR (R272). -/
def execUpdateDescriptor (core : Nat) (d : Desc) (s : State) : Res :=
  onUnit (s.coreOk core) (if descClass d ≠ 9 then .fault .otherRow else .next (s.atUnit core kUpd d fun s => s.updTake core d))

/-! ### The check phase (R281) -/

/-- The norm pass of rule 3 over a range (R277): a partial of each sum for every maximal aligned sub-tree. -/
def State.normPass (s : State) (ld : Nat) (r : JRec) : List NormPart :=
  let e := r.ent
  let h := hypOf e r.item.d
  let (c1, c2) := (corr (s.newP ld r 0), corr (s.newP ld r 1))
  let ws := s.updCodes ld r.img e.wDa 2 0 e.cnt
  let ms := s.updCodes ld r.img (e.momDa 1) e.momBytes 0 e.cnt
  let vs := s.updCodes ld r.img (e.momDa 2) e.momBytes 0 e.cnt
  let gs := s.updGrads ld r h.gs 0 e.cnt
  let mask := s.maskOf ld r
  let el (i : Nat) : Num × Num :=
    if liveEl e mask (e.lo + i) then
      let x : ElIn := ⟨Fmt.fp16.decode (ws.getD i 0), (momFmt e).decode (ms.getD i 0), (momFmt e).decode (vs.getD i 0), gs.getD i .nan,
        .nan⟩
      let (_, _, u) := adaptive h c1 c2 x
      (x.w, fma32 h.wd x.w u)
    else (.fin (Ex.zero false), .fin (Ex.zero false))
  let groups := (chunks 32 (List.range e.cnt)).map fun g => let l := g.map el; (squareSum (l.map (·.1)), squareSum (l.map (·.2)))
  let n := ceilDiv (e.rows * e.cols) 32
  let g0 := e.lo / 32
  (subTrees g0 (g0 + groups.length) n (treeDepth n) 0).map fun (leaf, size) =>
    let idx := (List.range size).filterMap fun k => (groups[leaf + k - g0]?).map fun p => (k, p)
    let sum (f : Nat × Nat → Nat) : Nat := (combTree (idx.map fun (k, p) => (k, 1, f p)) (treeDepth size) 0).getD 0
    ⟨e.layer, updStep r.item.d, leaf, size, sum (·.1), sum (·.2)⟩

/-- The members of SKIP_GROUP of an update selection, own device among them. -/
def State.skipMembers (s : State) (sec : List Byte) : List Nat :=
  if updSkipGroup sec = 0xffff then [s.ownId]
  else ((pmGroup s.peerMap (updSkipGroup sec)).map (·.members)).getD [s.ownId]

/-- Partials go on TC2 to the ledger dies of SKIP_GROUP that hold a range of the layer: those of this part and, by a packet to each,
those of the other members (R277). -/
def State.sendNorm (s : State) (r : JRec) (ps : List NormPart) : State :=
  let sec := r.img.sec 7
  let s := (List.range s.ident.dies).foldl (fun s ld =>
    if (entsOf sec ld).any fun p => p.2.layer == r.ent.layer then
      let x := s.updOf ld
      s.setUpd ld { x with parts := x.parts ++ ps }
    else s) s
  ((s.skipMembers sec).filter (· != s.ownId)).foldl (fun s dev => ps.foldl (fun s p =>
    s.sendPacket ⟨0x11, 2, dev, 0, 0, 0, 0, p.step, leBytes 8 p.wn ++ leBytes 8 p.dn, none,
      some ⟨updSkipGroup sec, 6, r.ent.tidW, 0, p.leaf, p.size, p.layer, 0, 0⟩, 0, 0, 0⟩) s) s

/-- When every entry of the ledger die is checked, the flag goes to the skip collector (R281, R287). -/
def State.sendFlag (s : State) (ld : Nat) : State :=
  let x := s.updOf ld
  let all := (entsOf x.sec ld).all fun p =>
    x.recs.any (fun r => r.entry == p.1 && updStep r.item.d == x.step) || x.bad.contains (x.step, some p.1)
  if x.phase = 1 ∧ all then
    (s.setUpd ld { x with phase := 2 }).pkgSend (.ledgerFlag ld x.step x.flag)
  else s

/-- The round of the step whose first descriptor came first begins; records kept for another step are freed (R281, R287). -/
def UpdSt.open_ (x : UpdSt) : UpdSt :=
  match x.phase, x.order with
  | 0, (st, sec) :: _ =>
    { x with phase := 1, step := st, sec, flag := x.bad.any fun b => b.1 == st
             recs := x.recs.filter fun r => updStep r.item.d == st
             nonfin := 0, firstLayer := none }
  | _, _ => x

/-- The check of the next descriptor of the round (R281, R288), unless its requests wait (R289) (DEDUCED, log entry 33). -/
def State.updCheck (s : State) (ld : Nat) : State :=
  let s := s.setUpd ld (s.updOf ld).open_
  let x := s.updOf ld
  match x.phase, x.queue.find? fun q => updStep q.d == x.step with
  | 1, some q =>
    let img := (s.bankFor (unitLedger ld) q.beat).withSec 7 x.sec
    match (entsOf x.sec ld).find? fun p => p.2.layer == updLayer q.d with
    | none => s
    | some (i, e) =>
      let own := if e.rule = 3 then [(e.wDa, 2 * e.cnt), (e.sDa, e.recLen), (e.maskDa, e.maskLen)] else []
      if s.updWaits img ((updGrad q.d, 8 * e.cnt) :: own) then s
      else
      let r : JRec := ⟨1, false, i, 0, 0, 0, 0, q, img, 0, 0, []⟩
      let gs := (hypOf e q.d).gs
      let x := { x with queue := x.queue.filter (· != q), recs := x.recs ++ [r] }
      let pg := s.poisonDa (updAgent ld) img (updGrad q.d) (8 * e.cnt)
      let bad := if pg.isSome then 0 else ((s.updGrads ld r gs 0 e.cnt).filter fun g => !g.isFinite).length
      let x := { x with flag := x.flag || pg.isSome || bad != 0
                        nonfin := min (x.nonfin + bad) (2 ^ 32 - 1)
                        firstLayer := if bad ≠ 0 ∧ x.firstLayer.isNone then some e.layer else x.firstLayer }
      let s := s.setUpd ld x
      match pg with
      | some da => (s.updUe ld img da).sendFlag ld
      | none =>
        if e.rule ≠ 3 then s.sendFlag ld
        else
          match s.updPoison ld img own with
          | some da =>
            let s := s.setUpd ld { x with flag := true, stop := true }
            ((s.updUe ld img da).updAbortEv ld x.step e.layer 0 da).sendFlag ld
          | none => (s.sendNorm r (s.normPass ld r)).sendFlag ld
  | _, _ => s.sendFlag ld

/-- UPDATE_CHECK (R281). -/
def execUpdateCheck (ld : Nat) (s : State) : Res :=
  onUnit (s.dieOk ld) (.next (if s.updRuns ld then s.updCheck ld else s))

/-- RULE3_PARTIAL_RECEIVE (R277). A sub-tree that is held already is not taken again. -/
def execRule3PartialReceive (ld layer step leaf size wn dn : Nat) (s : State) : Res :=
  onUnit (s.dieOk ld) (
    let x := s.updOf ld
    let dup := x.parts.any fun p => p.layer == layer && p.step == step && decide (p.leaf < leaf + size ∧ leaf < p.leaf + p.size)
    .next (if dup then s else s.setUpd ld { x with parts := x.parts ++ [⟨layer, step, leaf, size, wn % 2 ^ 52, dn % 2 ^ 52⟩] }))

/-! ### The skip decision (R282, R283, R287) -/

/-- The job flag of a step, once the flags of every member are held: it goes to the ledger dies. -/
def State.jobDecide (s : State) (step : Nat) : State :=
  let fs := s.skip.devs.filter fun d => d.2.1 == step
  if (s.skipMembers (s.secAt step)).all fun m => fs.any fun f => f.1 == m then
    let flag := fs.any fun f => f.2.2
    let s := { s with skip := ⟨s.skip.flags.filter fun f => f.2.1 != step, s.skip.devs, some (step, flag)⟩ }
    s.pkgSend (.jobFlag step flag)
  else s

/-- A device flag is held (R282): flags of earlier steps are dropped once a later one is decided. -/
def State.devFlag (s : State) (dev step : Nat) (flag : Bool) : State :=
  if s.skip.kept.any fun k => k.1 == step then s
  else
    let keep := s.skip.devs.filter fun d => !(d.1 == dev && d.2.1 == step) && !(s.skip.kept.any fun k => k.1 == d.2.1)
    ({ s with skip := { s.skip with devs := (dev, step, flag) :: keep } } : State).jobDecide step

/-- SKIP_FLAG_RECEIVE (R282, R287): the flag of a ledger die reaches the collector. -/
def execSkipFlagReceive (ld step : Nat) (flag : Bool) (s : State) : Res :=
  onUnit (s.dieOk ld) (
    match s.skip.kept with
    | some (st, kept) =>
      if st = step then .next (s.pkgSend (.jobFlag step kept)) else .next (skipIn s)
    | none => .next (skipIn s))
where
  skipIn (s : State) : State :=
    let fl := (ld, step, flag) :: s.skip.flags.filter fun f => !(f.1 == ld && f.2.1 == step)
    let s := { s with skip := { s.skip with flags := fl } }
    let sec := s.secAt step
    if (s.diesOf sec).all fun l => fl.any fun f => f.1 == l && f.2.1 == step then
      let dev := fl.any fun f => f.2.1 == step && f.2.2
      (s.tc0All ((s.skipMembers sec).filter (· != s.ownId)) (.skipFlag s.ownId step dev)).devFlag s.ownId step dev
    else s

/-- DEVICE_SKIP_FLAG_RECEIVE (R282, R326). -/
def execDeviceSkipFlagReceive (dev step : Nat) (flag : Bool) (lat : Nat) (s : State) : Res :=
  .next ((s.tc0In dev 6 lat).devFlag dev step flag)

/-- Rows of layers that no entry of the part updates, when the lowest ledger die with entries ends a round (R106). -/
def State.steerRest (s : State) (ld step : Nat) (skipped : Bool) : State :=
  let sec := (s.updOf ld).sec
  if (s.diesOf sec).head? ≠ some ld then s
  else
    let ents := updEnts sec
    ((List.range 1024).filter fun r =>
      let x := s.steerRow ld r
      x.layer != 0xffff && !(ents.any fun e => e.layer == x.layer)).foldl (fun s r => s.steerUpdate ld r step skipped) s

/-- The layer's row is updated by the lowest ledger die that updates the layer (R105). -/
def State.steerLayer (s : State) (ld : Nat) (sec : List Byte) (layer step : Nat) (skipped : Bool) : State :=
  let lds := ((updEnts sec).filter fun e => e.layer == layer).map (·.ld)
  if lds.any (· < ld) then s
  else
    match s.layerRow ld layer with
    | some r => s.steerUpdate ld r step skipped
    | none => s

/-- A round ends: its entries end written, or SKIPPED (R283) (DEDUCED, log entry 33). -/
def State.roundEnd (s : State) (ld : Nat) (skipped : Bool) : State :=
  let x := s.updOf ld
  let s := s.steerRest ld x.step skipped
  let s := { s with esc := { s.esc with ranRound := true } }
  s.setUpd ld { x with phase := 0, flag := false, recs := [], doneStep := some x.step
                       order := x.order.filter fun o => o.1 != x.step
                       ended := (entsOf x.sec ld).map fun p => (p.1, skipped && !x.recs.any fun r => r.entry == p.1 && r.state == 3)
                       bad := x.bad.filter fun b => b.1 != x.step
                       parts := x.parts.filter fun p => p.step != x.step }

/-- EV_UPD_SKIP (R283, R291), by the lowest ledger die with entries: step, non-finite gradients of the part, first such layer, and the members
whose flags were set. -/
def State.skipEv (s : State) (ld step : Nat) : State :=
  if (s.diesOf (s.updOf ld).sec).head? ≠ some ld then s
  else
    let n := ((List.range s.ident.dies).map fun l => (s.updOf l).nonfin).foldl (· + ·) 0
    let first := ((List.range s.ident.dies).findSome? fun l => (s.updOf l).firstLayer).getD 0
    let set := (s.skip.devs.filter fun d => d.2.1 == step && d.2.2).map fun d => (2, d.1)
    s.log' (srcLedger ld 2) 0x4010 1 ([(4, step), (4, min n (2 ^ 32 - 1)), (2, first)] ++ set)

/-- JOB_FLAG_RECEIVE (R283, R287, R289): a set flag skips the round; a clear one begins the write phase. While the part is frozen nothing is
written. -/
def execJobFlagReceive (ld step : Nat) (flag : Bool) (s : State) : Res :=
  onUnit (s.dieOk ld) (
    let x := s.updOf ld
    if x.phase ≠ 2 ∨ x.step ≠ step then .next s
    else if flag then
      let s := (s.bump .UPD_SKIP_COUNT_COUNT 1 ld).skipEv ld step
      let s := (entsOf x.sec ld).foldl (fun s p => s.steerLayer ld x.sec p.2.layer step true) s
      let s := x.recs.foldl (fun s r => if r.state = 3 then s else s.complete r.item.core kUpd r.item.d) s
      .next (s.roundEnd ld true)
    else if x.flag then
      .next ((s.setUpd ld { x with stop := true }).updAbortEv ld step ((x.firstLayer).getD 0) 0 0)
    else .next (s.setUpd ld { x with phase := 3 }))

/-! ### The write phase (R284 to R288) -/

/-- Elements in a chunk (R284). -/
def chunkEls : Nat := 262144

/-- Chunks of an entry. -/
def UpdEnt.chunkCount (e : UpdEnt) : Nat := ceilDiv e.cnt chunkEls

/-! The home copy (R362, R366). -/

/-- Entries in manifest order with their indices (R362). -/
def manifest (sec : List Byte) : List (Nat × UpdEnt) := (List.range 8).flatMap fun ld => entsOf sec ld

/-- Bytes of an entry image: weights and state record, each padded to 64 (R362). -/
def UpdEnt.imageLen (e : UpdEnt) : Nat := roundUp (2 * e.cnt) 64 + roundUp e.recLen 64

/-- The offset of entry i among the entry images, and the number of its first refresh bit. -/
def entryPlace (sec : List Byte) (i : Nat) : Nat × Nat :=
  ((manifest sec).takeWhile fun p => p.1 != i).foldl (fun a p => (a.1 + p.2.imageLen, a.2 + p.2.chunkCount)) (0, 0)

/-- DA of the home area (R378). -/
def State.homeDa (s : State) : Nat := s.eff .ESC_HOME_BASE * 4096

def escAgent (ld : Nat) : Agent := .unit (8 + ld) (srcLedger ld 3)

/-- The refresh bit of a chunk, by its number in manifest order. -/
def State.refreshBit (s : State) (ld : Nat) (img : Image) (n : Nat) : Bool :=
  bit ((s.rdDa (escAgent ld) img (s.homeDa + 0x10000 + n / 8) 1).getD 0 0).toNat (n % 8)

def State.setRefresh (s : State) (ld : Nat) (img : Image) (n : Nat) : State :=
  let b := ((s.rdDa (escAgent ld) img (s.homeDa + 0x10000 + n / 8) 1).getD 0 0).toNat
  s.wrDa (escAgent ld) img (s.homeDa + 0x10000 + n / 8) (leBytes 1 (putBit b (n % 8) true))

/-- The ranges (offset in the entry image, DA, bytes) of n elements of an entry from element i on: weights and moments. -/
def UpdEnt.ranges (e : UpdEnt) (i n : Nat) : List (Nat × Nat × Nat) :=
  let w := roundUp (2 * e.cnt) 64
  let mb := e.momBytes
  (2 * i, e.wDa + 2 * i, 2 * n) :: (w + 64 + mb * i, e.momDa 1 + mb * i, mb * n) ::
    (if e.twoMoments then [(w + e.mom2 + mb * i, e.momDa 2 + mb * i, mb * n)] else [])

/-- Before a chunk whose refresh bit is clear is first written, its old values go to the home copy, and the bit is set (R366). With the
first chunk of an entry goes the state-record header, which the layer's end writes anew. -/
def State.homeCopy (s : State) (ld : Nat) (r : JRec) : State :=
  if s.eff .ESC_CFG_ENABLE = 0 then s
  else
    let e := r.ent
    let (off, b0) := entryPlace (r.img.sec 7) r.entry
    if s.refreshBit ld r.img (b0 + r.chunk) then s
    else
      let i := r.chunk * chunkEls
      let n := min chunkEls (e.cnt - i)
      let first := (List.range e.chunkCount).all fun k => !s.refreshBit ld r.img (b0 + k)
      let hdr := if first then [(roundUp (2 * e.cnt) 64, e.sDa, 64)] else []
      let s := (hdr ++ e.ranges i n).foldl (fun s (o, da, len) =>
        s.wrDa (escAgent ld) r.img (s.homeDa + 0x300000 + off + o) (s.rdDa (updAgent ld) r.img da len)) s
      s.setRefresh ld r.img (b0 + r.chunk)

/-! Scratch of rule 2 (R276): M' at 0, X after and before the last iteration, A, B. -/

def matBytes (m : Mat) : List Byte := m.flatMap fun r => r.flatMap fun x => leBytes 4 (rne32c x)

/-- Rule 2's orthogonalisation: M' and the working matrices go to scratch. -/
def State.ortho (s : State) (ld : Nat) (r : JRec) : State :=
  let e := r.ent
  let h := hypOf e r.item.d
  let ms := s.updCodes ld r.img (e.momDa 1) e.momBytes 0 e.cnt
  let gs := s.updGrads ld r h.gs 0 e.cnt
  let m' := (ms.zip gs).map fun (m, g) => fma32 h.b1 ((momFmt e).decode m) g
  let d := if h.nest then (m'.zip gs).map fun (m, g) => fma32 h.b1 m g else m'
  let dm : Mat := chunks e.cols d
  let x := if e.rows ≤ e.cols then dm else matT dm
  let n2 := treeSum ((chunks 32 x.flatten).map squareSum)
  let nrm := add32 (sqrt32 (rne32 (accVal n2))) h.eps
  let x := x.map fun row => row.map fun v => div32 v nrm
  let hdr := r.img.sec 7
  let (y, y0, a, b) := newtonSchulz (fp32 (field hdr 4 4)) (fp32 (field hdr 8 4)) (fp32 (field hdr 12 4)) 5 x
  s.wrDa (updAgent ld) r.img e.scratch ((m'.flatMap fun v => leBytes 4 (rne32c v)) ++ matBytes y ++ matBytes y0 ++ matBytes a ++ matBytes b)

/-- O of an element, from scratch. -/
def State.orthoAt (s : State) (ld : Nat) (r : JRec) (i : Nat) : Num :=
  let e := r.ent
  let k := if e.rows ≤ e.cols then i else i % e.cols * e.rows + i / e.cols
  fp32 ((s.updCodes ld r.img (e.scratch + 4 * e.rows * e.cols) 4 k 1).headD 0)

/-- A chunk of the layer is written (R274 to R279, R284): its new weights and moments. -/
def State.writeChunk (s : State) (ld : Nat) (r : JRec) : State × Nat :=
  let e := r.ent
  let h := hypOf e r.item.d
  let i0 := r.chunk * chunkEls
  let n := min chunkEls (e.cnt - i0)
  let (c1, c2) := (corr r.p1, corr r.p2)
  let sc := sqrt32 (Num.max one32 (div32 (.fin (Ex.ofNat e.rows)) (.fin (Ex.ofNat e.cols))))
  let ws := s.updCodes ld r.img e.wDa 2 i0 n
  let ms := s.updCodes ld r.img (e.momDa 1) e.momBytes i0 n
  let vs := if e.twoMoments then s.updCodes ld r.img (e.momDa 2) e.momBytes i0 n else []
  let m's := if e.rule = 2 then s.updCodes ld r.img e.scratch 4 i0 n else []
  let gs := s.updGrads ld r h.gs i0 n
  let sr (tid i : Nat) : Round := .sr (srArx4 r.key (updStep r.item.d) tid (e.lo + i0 + i))
  let mw (k i : Nat) (x : Num) : Nat :=
    if e.mom = 0 then rne32c x else (convert x .wf16 (sr (e.tidM + k - 1) i) true).1
  let new := (List.range n).map fun i =>
    let (w, m, v) := (ws.getD i 0, ms.getD i 0, vs.getD i 0)
    if liveEl e r.mask (e.lo + i0 + i) then
      let x : ElIn := ⟨Fmt.fp16.decode w, if e.rule = 2 then fp32 (m's.getD i 0) else (momFmt e).decode m, (momFmt e).decode v,
        gs.getD i .nan, if e.rule = 2 then s.orthoAt ld r (i0 + i) else .nan⟩
      let (w', m', v') := updEl e.rule h c1 c2 (fp32 r.ratio) sc x
      let (wc, c) := convert w' .fp16 (sr e.tidW i) true
      (wc, mw 1 i m', mw 2 i v', b2n w'.isNaN, c.sat)
    else (w, m, v, 0, 0)
  let s := s.wrDa (updAgent ld) r.img (e.wDa + 2 * i0) (new.flatMap fun t => leBytes 2 t.1)
  let s := s.wrDa (updAgent ld) r.img (e.momDa 1 + e.momBytes * i0) (new.flatMap fun t => leBytes e.momBytes t.2.1)
  let s := if e.twoMoments then
      s.wrDa (updAgent ld) r.img (e.momDa 2 + e.momBytes * i0) (new.flatMap fun t => leBytes e.momBytes t.2.2.1)
    else s
  let nans := (new.map (·.2.2.2.1)).foldl (· + ·) 0
  let sats := (new.map (·.2.2.2.2)).foldl (· + ·) 0
  ((s.bumpSat .UPD_STAT_NAN_OUT nans ld).bumpSat .UPD_STAT_SAT sats ld, nans)

/-- A record in place of that of its entry. -/
def State.putRec (s : State) (ld : Nat) (r : JRec) : State :=
  let x := s.updOf ld
  s.setUpd ld { x with recs := x.recs.map fun q => if q.entry = r.entry ∧ q.item = r.item then r else q }

/-- What a chunk reads: weights, moments, gradient, for rule 2 its scratch, and the state-record header that goes to the home copy. -/
def JRec.reads (r : JRec) : List (Nat × Nat) :=
  let e := r.ent
  let i := r.chunk * chunkEls
  let n := min chunkEls (e.cnt - i)
  ((e.ranges i n).map fun (_, da, len) => (da, len)) ++ [(updGrad r.item.d + 8 * i, 8 * n)] ++
    (if e.rule = 2 then [(e.scratch, 8 * e.rows * e.cols)] else []) ++ [(e.sDa, 64)]

/-- The copy area's bytes go back to the chunk they came from (R286, R288). -/
def State.restoreChunk (s : State) (ld : Nat) (r : JRec) : State :=
  let e := r.ent
  let i := r.chunk * chunkEls
  let n := min chunkEls (e.cnt - i)
  ((e.ranges i n).foldl (fun (a : State × List Byte) (x : Nat × Nat × Nat) =>
    (a.1.wrDa (updAgent ld) r.img x.2.1 (a.2.take x.2.2), a.2.drop x.2.2)) (s, (s.updOf ld).copy)).1

/-- The layer's write phase is over: requests to it wait no longer (R286). -/
def State.unlock (s : State) (ld : Nat) : State := s.setUpd ld { s.updOf ld with lock := none }

/-- The layer ends: header, DONE, UPD_LAST, EV_UPD_NONFIN_OUT (R279, R284, R290). -/
def State.layerDone (s : State) (ld : Nat) (r : JRec) : State :=
  let e := r.ent
  let step := updStep r.item.d
  let hdr := s.rdDa (updAgent ld) r.img e.sDa 16
  let ps := if e.twoMoments then leBytes 4 r.p1 ++ leBytes 4 r.p2 else hdr.take 8
  let s := s.wrDa (updAgent ld) r.img e.sDa (ps ++ leBytes 4 (field hdr 8 4 + 1) ++ leBytes 4 step)
  let s := (s.putRec ld { r with state := 3, copied := false }).unlock ld
  let s := ((s.set .UPD_LAST_STEP step ld).set .UPD_LAST_LAYER e.layer ld).bump .UPD_LAST_COMMITS 1 ld
  let s := if r.nans = 0 then s else s.log' (srcLedger ld 2) 0x4012 2 [(1, ld), (4, step), (2, e.layer), (4, r.nans)]
  s.complete r.item.core kUpd r.item.d

/-- A poisoned block after the commit point (R288): the chunk is as it was, the layer stops, the record is freed. -/
def State.layerTorn (s : State) (ld : Nat) (r : JRec) (da : Nat) : State :=
  let s := if r.copied then s.restoreChunk ld r else s
  let s := (s.putRec ld { r with state := 0, copied := false }).unlock ld
  let x := s.updOf ld
  let s := (s.setUpd ld { x with stop := true }).set .UPD_STATUS_TORN 1 ld
  (s.updUe ld r.img da).updAbortEv ld (updStep r.item.d) r.ent.layer r.chunk da

/-- The chunk that is to be written goes to the copy area, and to the home copy if it is due there: COPIED is set (R284, R366). -/
def State.chunkCopy (s : State) (ld : Nat) (r : JRec) : State :=
  let i := r.chunk * chunkEls
  let len := min chunkEls (r.ent.cnt - i)
  let old := (r.ent.ranges i len).flatMap fun (_, da, l) => s.rdDa (updAgent ld) r.img da l
  let x := s.updOf ld
  (s.setUpd ld { x with copy := old }).homeCopy ld r

/-- The end of a layer whose chunks are all written, unless its request waits, or its state-record header is poisoned (R288, R289). -/
def State.layerEnd (s : State) (ld : Nat) (r : JRec) : State :=
  let hdr := [(r.ent.sDa, 16)]
  if s.updWaits r.img hdr then s.putRec ld r
  else
    match s.updPoison ld r.img hdr with
    | some da => s.layerTorn ld r da
    | none => s.layerDone ld r

/-- Up to n steps of a record in state COMMITTING (R284), as far as no request waits (R289): a step copies a chunk, or writes the chunk that
was copied. -/
def State.writeChunks (s : State) (ld : Nat) : Nat → JRec → State
  | 0, r => if r.chunk ≥ r.ent.chunkCount then s.layerEnd ld r else s.putRec ld r
  | n + 1, r =>
    if r.chunk ≥ r.ent.chunkCount then s.layerEnd ld r
    else if s.updWaits r.img r.reads then s.putRec ld r
    else
      match s.updPoison ld r.img r.reads with
      | some da => s.layerTorn ld r da
      | none =>
        if r.copied then
          let c := s.writeChunk ld r
          c.1.writeChunks ld n { r with chunk := r.chunk + 1, copied := false, nans := r.nans + c.2 }
        else (s.chunkCopy ld r).writeChunks ld n { r with copied := true }

/-- The layer-wide values of rule 3, once the partials held cover every group (R277); none while some are missing. -/
def UpdSt.ratio (x : UpdSt) (e : UpdEnt) (step : Nat) : Option Nat :=
  let n := ceilDiv (e.rows * e.cols) 32
  let ps := x.parts.filter fun p => p.layer == e.layer && p.step == step
  if covered n (ps.map fun p => (p.leaf, p.size)) < n then none
  else
    let sum (f : NormPart → Nat) : Num := rne32 (accVal ((combTree (ps.map fun p => (p.leaf, p.size, f p)) (treeDepth n) 0).getD 0))
    let acc (f : NormPart → Nat) : Num := accVal ((combTree (ps.map fun p => (p.leaf, p.size, f p)) (treeDepth n) 0).getD 0)
    let q := if (acc (·.wn)).isZero || (acc (·.dn)).isZero then one32
      else Num.min (Num.max (div32 (sqrt32 (sum (·.wn))) (sqrt32 (sum (·.dn)))) (fp32 e.trMin)) (fp32 e.trMax)
    some (rne32c q)

/-- Key slot n of a ledger die's update (R290). -/
def State.updKey (s : State) (ld n : Nat) : Nat :=
  s.get .UPD_SRKEY_KEY_HI ld n * 2 ^ 32 + s.get .UPD_SRKEY_KEY_LO ld n

/-- Steps 1 to 3 of a layer (R284): orthogonalisation, steering, the commit point; then up to n steps of its write, during which others'
requests to it wait (R286). -/
def State.layerStart (s : State) (ld : Nat) (r : JRec) (n : Nat) : State :=
  let e := r.ent
  let x := s.updOf ld
  let step := updStep r.item.d
  let pre := [(e.maskDa, e.maskLen)] ++ (if e.twoMoments then [(e.sDa, 64)] else []) ++
    (if e.rule = 2 then [(e.momDa 1, e.momBytes * e.cnt), (updGrad r.item.d, 8 * e.cnt)] else [])
  let l := [(e.wDa, 2 * e.cnt), (e.sDa, e.recLen)]
  if s.updWaits r.img (pre ++ l) then s
  else
  match s.updPoison ld r.img pre with
  | some da => ((s.setUpd ld { x with stop := true }).updUe ld r.img da).updAbortEv ld step e.layer 0 da
  | none =>
    match (if e.rule = 3 then x.ratio e step else some 0) with
    | none => s
    | some ratio =>
      let s := if e.rule = 2 then s.ortho ld r else s
      let s := s.steerLayer ld (r.img.sec 7) e.layer step false
      let (p1, p2) := if e.twoMoments then (s.newP ld r 0, s.newP ld r 1) else (0, 0)
      let r := { r with state := 2, p1, p2, ratio, key := s.updKey ld (dbits r.item.d 1 33 32), mask := s.maskOf ld r }
      let s := s.putRec ld r
      (s.setUpd ld { s.updOf ld with lock := some (r.img, l) }).writeChunks ld n r

/-- The step whose round has completed last on every ledger die with entries under its update selection, if there is one. -/
def State.roundDone (s : State) : Option Nat :=
  ((List.range s.ident.dies).filterMap fun ld => (s.updOf ld).doneStep).find? fun t =>
    let l := s.diesOf (s.secAt t)
    !l.isEmpty && l.all fun ld => (s.updOf ld).doneStep == some t

/-- An escrow step is due (R364): the round of a step that INTERVAL divides has completed on every ledger die, and has not been opened. -/
def State.escDue (s : State) : Option Nat :=
  if s.eff .ESC_CFG_ENABLE = 0 ∨ s.get .ESC_STATUS_FROZEN = 1 then none
  else
    match s.roundDone with
    | some t => if t % s.eff .ESC_CFG_INTERVAL = 0 ∧ s.esc.opened ≠ some t then some t else none
    | none => none

/-- The write phase goes on by up to n steps of one layer: the layer under way, or the next in arrival order. The round ends with its last
layer (DEDUCED, log entry 33). -/
def State.updWrite (s : State) (ld n : Nat) : State :=
  let x := s.updOf ld
  if x.phase ≠ 3 then s
  else
    let s :=
      match x.recs.find? fun r => r.state == 2 with
      | some r => s.writeChunks ld n r
      | none =>
        let late := (s.get .ESC_STATUS_OPEN == 1 && s.get .ESC_STEPS_OPEN_STEP != x.step) || s.escDue.isSome
        if x.stop ∨ s.get .ESC_STATUS_FROZEN = 1 ∨ late then s
        else
          match x.recs.find? fun r => r.state == 1 with
          | some r => s.layerStart ld r n
          | none => s
    let y := s.updOf ld
    if !(y.recs.all fun r => r.state == 3) then s
    else if (entsOf y.sec ld).all fun p => y.recs.any fun r => r.entry == p.1 then s.roundEnd ld false
    else s.setUpd ld { y with phase := 0 }

/-! ### CLEAR and resets (R286, R287, R289) -/

/-- Descriptors that the engine gives up leave their cores' held lists. -/
def State.updForget (s : State) (l : List UpdItem) : State := l.foldl (fun s i => s.unhold i.core kUpd i.d) s

/-- UPD_CTL.CLEAR: records in state 1 are freed and the round queue is empty (R289). -/
def State.updClear (s : State) (ld : Nat) : State :=
  let x := s.updOf ld
  let gone := x.recs.filter fun r => r.state == 0 || r.state == 1
  let kept := x.recs.filter fun r => r.state == 2 || r.state == 3
  let s := s.updForget (x.queue ++ gone.map (·.item))
  let on := kept.any fun r => r.state == 2
  s.setUpd ld { x with queue := [], recs := kept, stop := false, bad := [], parts := [], flag := false
                       order := x.order.filter fun o => on && o.1 == x.step
                       phase := if x.phase = 4 then 4 else if on then 3 else 0 }

/-- UPD_CLEAR (R289). -/
def execUpdClear (ld : Nat) (s : State) : Res := onUnit (s.dieOk ld) (.next (s.updClear ld))

/-- A record in state COMMITTING begins to roll forward (R286): the chunk comes from the copy area if COPIED, and EV_UPD_ROLLFWD is logged. -/
def State.rollBegin (s : State) (ld : Nat) (r : JRec) : State :=
  let s := if r.copied then s.restoreChunk ld r else s
  (s.putRec ld { r with copied := false }).log' (srcLedger ld 2) 0xB020 1 [(1, ld), (4, updStep r.item.d), (2, r.ent.layer), (4, r.chunk)]

/-- A ledger die's engine after a warm reset or a reset of its die (R286, R287): it rolls forward while a record is COMMITTING. -/
def State.updReset (s : State) (ld : Nat) : State :=
  let x := s.updOf ld
  let gone := x.recs.filter fun r => r.state != 2 && r.state != 3
  let s := s.updForget (x.queue ++ gone.map (·.item))
  let on := x.recs.filter fun r => r.state == 2
  let s := s.setUpd ld { x with queue := [], recs := x.recs.filter (fun r => r.state == 2 || r.state == 3), stop := false, bad := []
                                parts := [], order := [], sec := [], flag := false, phase := if on = [] then 0 else 4
                                nonfin := 0, firstLayer := none }
  on.foldl (fun s r => s.rollBegin ld r) s

/-- Rolling forward goes on by up to n steps (R286): the bitmap is read again, and a poisoned one ends the layer (R288). -/
def State.rollStep (s : State) (ld n : Nat) : State :=
  let s :=
    match (s.updOf ld).recs.find? fun r => r.state == 2 with
    | none => s
    | some r =>
      let bm := [(r.ent.maskDa, r.ent.maskLen)]
      if s.updWaits r.img bm then s
      else
        match s.updPoison ld r.img bm with
        | some da => s.layerTorn ld r da
        | none => s.writeChunks ld n { r with mask := s.maskOf ld r }
  let y := s.updOf ld
  if y.recs.any fun r => r.state == 2 then s else s.setUpd ld { y with phase := 0 }

/-- The engine goes on by up to n steps: it rolls forward, or writes. -/
def State.updGo (s : State) (ld n : Nat) : State :=
  if !s.updRuns ld then s else if (s.updOf ld).phase = 4 then s.rollStep ld n else s.updWrite ld n

/-- The failure freeze reaches an engine (R289, R370): a round under way waits for CLEAR. -/
def State.updFreeze (s : State) (ld : Nat) : State :=
  let x := s.updOf ld
  if x.queue.isEmpty ∧ x.recs.isEmpty then s else s.setUpd ld { x with stop := true }

end Sys2Proof.Machine
end

