-- ==== Sys2Proof/Machine/EscBase.lean ====
section
/-! DEFINITION. Areas of the escrow (R362, R363, R372): manifests, entry images, digests, banks and their headers, and the capture of gathered
weights (R365). The spec gives the fields of the home header and of a bank header without their places; the model places them in the order
given. -/
namespace Sys2Proof.Machine

/-- The escrow engine that works for the part as a whole, and the bank whose carve it works under. -/
def escA : Agent := escAgent 0
def State.escImg (s : State) : Image := s.bank (unitLedger 0)

def State.escRd (s : State) (da n : Nat) : List Byte := s.rdDa escA s.escImg da n
def State.escWr (s : State) (da : Nat) (bs : List Byte) : State := s.wrDa escA s.escImg da bs

/-- The first poisoned block of ranges that the escrow engine reads, and EV_MEM_UE for it (R178, R191). -/
def State.escPoison (s : State) (l : List (Nat × Nat)) : Option Nat := l.findSome? fun p => s.poisonDa escA s.escImg p.1 p.2
def State.escUe (s : State) (da : Nat) : State := s.daUe (srcLedger 0 3) escA s.escImg da

/-- Whether the escrow's requests wait (R189): to its areas, or to the live shard. -/
def State.escBusy (s : State) : Bool :=
  ([(s.homeDa, s.eff .ESC_HOME_LEN_LEN), (s.eff .ESC_BANK_BASE * 4096, 2 * s.eff .ESC_BANK_LEN_LEN)] ++
    (manifest s.updSec).flatMap fun (_, e) => [(e.wDa, 2 * e.cnt), (e.sDa, e.recLen)]).any fun p => s.memBusy s.escImg p.1 p.2

/-- A manifest record of an entry, and the bytes of a manifest (R362) (DESIGN CHOICE, log entry 38). -/
def manifestRec (e : UpdEnt) : List Byte :=
  leBytes 2 e.layer ++ leBytes 1 e.ld ++ leBytes 1 e.rule ++ leBytes 1 e.mom ++ leBytes 3 0 ++ leBytes 4 e.tidW ++ leBytes 8 e.lo ++
    leBytes 8 e.cnt ++ leBytes 4 0

def manifestBytes (sec : List Byte) : List Byte := (manifest sec).flatMap fun p => manifestRec p.2

/-- The entries of a manifest: what the images' layout needs of them. -/
def manifestEnts (b : List Byte) : List UpdEnt :=
  (chunks 32 b).map fun e =>
    ⟨field e 0 2, field e 3 1, field e 2 1, field e 4 1, 0, 0, 1, field e 8 4, 0, 0, 0, field e 12 8, field e 20 8, 0, 0, 0, 0, 0, 0, 0, 0⟩

/-- The offset of entry k's image among the images of a list of entries, and the length of all. -/
def imagesOff (es : List UpdEnt) (k : Nat) : Nat := ((es.take k).map (·.imageLen)).foldl (· + ·) 0
def imagesLen (es : List UpdEnt) : Nat := imagesOff es es.length

/-- Where the state record lies in an entry's image. -/
def UpdEnt.recOff (e : UpdEnt) : Nat := roundUp (2 * e.cnt) 64

/-- The moments of a state record without pad bytes. -/
def UpdEnt.moments (e : UpdEnt) (rec_ : List Byte) : List Byte :=
  slice rec_ 64 (e.momBytes * e.cnt) ++ (if e.twoMoments then slice rec_ e.mom2 (e.momBytes * e.cnt) else [])

/-- Shard digest and weight digest of entries, each with its weights and state record (R372). -/
def shardDigests (l : List (UpdEnt × List Byte × List Byte)) : List Byte × List Byte :=
  (sha3 (l.flatMap fun (e, w, r) => sha3 (w ++ r.take 64 ++ e.moments r)), sha3 (l.flatMap fun (_, w, _) => sha3 w))

/-- The live shard: entries with their weights and state records. -/
def State.liveShard (s : State) : List (UpdEnt × List Byte × List Byte) :=
  (manifest s.updSec).map fun (_, e) => (e, s.escRd e.wDa (2 * e.cnt), s.escRd e.sDa e.recLen)

/-- Entry images from a DA: entries with their weights and state records. -/
def State.imagesAt (s : State) (es : List UpdEnt) (da : Nat) : List (UpdEnt × List Byte × List Byte) :=
  es.zipIdx.map fun (e, k) =>
    (e, s.escRd (da + imagesOff es k) (2 * e.cnt), s.escRd (da + imagesOff es k + e.recOff) e.recLen)

/-! Banks (R362). -/

def State.escBankLen (s : State) : Nat := s.eff .ESC_BANK_LEN_LEN
def State.bankDa (s : State) (b : Nat) : Nat := s.eff .ESC_BANK_BASE * 4096 + b * s.escBankLen

def State.bankState (s : State) (b : Nat) : Nat := if b = 0 then s.get .ESC_STATUS_BANK0 else s.get .ESC_STATUS_BANK1

/-- The state of a bank, in ESC_STATUS and in its header. -/
def State.setBank (s : State) (b v : Nat) : State :=
  let s := if b = 0 then s.set .ESC_STATUS_BANK0 v else s.set .ESC_STATUS_BANK1 v
  s.escWr (s.bankDa b + 10) (leBytes 1 v)

/-- A bank's header: step, base step, source, state, entries, shard digest, weight digest (DESIGN CHOICE, log entry 38). -/
def bankHdr (step base src st n : Nat) (dg wdg : List Byte) : List Byte :=
  leBytes 4 step ++ leBytes 4 base ++ leBytes 2 src ++ leBytes 1 st ++ leBytes 1 0 ++ leBytes 4 n ++ dg ++ wdg

/-- The bank that is HELD. -/
def State.heldBank (s : State) : Option Nat :=
  if s.get .ESC_STATUS_BANK0 = 3 then some 0 else if s.get .ESC_STATUS_BANK1 = 3 then some 1 else none

/-- The manifest of a bank: its entries. -/
def State.bankEnts (s : State) (b : Nat) : List UpdEnt :=
  manifestEnts (s.escRd (s.bankDa b + 4096) (32 * field (s.escRd (s.bankDa b) 16) 12 4))

/-- DA of a bank's entry images. -/
def State.bankImages (s : State) (b : Nat) : Nat := s.bankDa b + 0x200000

/-- Whether ranges (first, length) cover [0, n) from byte k on; fuel is the number of ranges. -/
def coversFrom (l : List (Nat × Nat)) (n : Nat) : Nat → Nat → Bool
  | 0, k => decide (n ≤ k)
  | fuel + 1, k =>
    decide (n ≤ k) ||
      match l.find? fun r => decide (r.1 ≤ k ∧ k < r.1 + r.2) with
      | some r => coversFrom l n fuel (r.1 + r.2)
      | none => false

/-- Whether the bytes [a, a + n) are all in some range. -/
def coversRange (l : List (Nat × Nat)) (a n : Nat) : Bool := coversFrom l (a + n) l.length a

/-- An all-gather packet of the source whose TID is a manifest TID_W: its bytes go to that entry's weights in the filling bank, where no
delta has been written (R365). The element is that of the whole gathered tensor. -/
def State.escCapture (s : State) (src tid off : Nat) (bs : List Byte) : State :=
  match s.esc.filling with
  | none => s
  | some b =>
    if src ≠ s.eff .ESC_CFG_SOURCE ∨ s.esc.ignoring then s
    else
      let es := s.bankEnts b
      es.zipIdx.foldl (fun s (e, k) =>
        let lo := 2 * e.lo
        let a := max off lo
        let z := min (off + bs.length) (lo + 2 * e.cnt)
        let o := imagesOff es k + (a - lo)
        if e.tidW ≠ tid ∨ z ≤ a ∨ s.esc.deltas.any fun r => meets r.1 r.2 o (z - a) then s
        else
          let s := s.escWr (s.bankImages b + o) (slice bs (a - off) (z - a))
          { s with esc := { s.esc with captured := (o, z - a) :: s.esc.captured } }) s

end Sys2Proof.Machine
end

