-- ==== Sys2Proof/Machine/Coll.lean ====
section
/-! DEFINITION. Collectives (R327 to R332, R343 to R349): their checks, what members send and receive, reductions, barriers, plain permutes, and
the plans of re-shards (R351, R352). -/
namespace Sys2Proof.Machine

/-! ### Descriptor fields (R150) -/

/-- The operation of a collective descriptor (R327) (DESIGN CHOICE, log entry 36). -/
def collOp (d : Desc) : Nat := dbits d 0 35 32
def collScope (d : Desc) : Nat := dbits d 0 37 36
def collTc (d : Desc) : Nat := dbits d 0 39 38
def collPartial (d : Desc) : Bool := dbit d 0 40
def collFmt (d : Desc) : Nat := dbits d 0 44 41
def collGroup (d : Desc) : Nat := dbits d 0 63 48
def collSrc (d : Desc) : Nat := dbits d 1 42 0
def collDst (d : Desc) : Nat := dbits d 2 42 0
def collLen (d : Desc) : Nat := dbits d 3 39 0
def collVec (d : Desc) : Nat := dbits d 4 42 0
def collEpoch (d : Desc) : Nat := dbits d 5 31 0
def collLo (d : Desc) : Nat := dbits d 5 47 32
def collHi (d : Desc) : Nat := dbits d 5 63 48
def collBeat (d : Desc) : Nat := dbits d 6 63 0
def collTid (d : Desc) : Nat := dbits d 7 23 0

def collReserved : List (Nat × Nat × Nat) := [(1, 63, 43), (2, 63, 43), (3, 63, 40), (4, 63, 43), (7, 63, 24)]

/-- The collective engine as a requester. -/
def State.collAgent (s : State) : Agent := .unit 32 s.fabSrc

/-- The carve and the peer map that a collective issued at a beat runs under (R44, R336). -/
def State.collCarve (s : State) (beat : Nat) : Image := s.carveFor beat
def State.collMap (s : State) (beat : Nat) : List Byte := (s.bankFor s.fabUnit beat).sec 9

/-- The group of a collective of SCOPE 3. -/
def State.collGrp (s : State) (beat : Nat) (d : Desc) : Option Group := pmGroup (s.collMap beat) (collGroup d)

/-- The rank of a device in a list of members. -/
def rankIn (l : List Nat) (dev : Nat) : Option Nat := (findIdx? (· == dev) l 0).map (·.1)

/-- FAB_COLL.RUNNING follows the collectives in progress (R337). -/
def State.setRuns (s : State) (l : List CollRun) : State :=
  ({ s with coll := { s.coll with runs := l } } : State).set .FAB_COLL_RUNNING l.length

def State.putRun (s : State) (r : CollRun) : State :=
  s.setRuns (s.coll.runs.map fun q => if q.core = r.core ∧ q.d = r.d then r else q)

def State.dropRun (s : State) (core : Nat) (d : Desc) : State := s.setRuns (s.coll.runs.filter fun q => !(q.core == core && q.d == d))

/-! ### Refusals (R328, R330, R338) -/

/-- EV_COLL_REFUSED: causes 0 a packed shard off a byte group, 1 a reduction with PARTIAL 0, 2 buffers, 3 a field or group, 4 a plan, 5
overlapping sub-trees, 6 a member lost, 7 poison. -/
def State.collEv (s : State) (d : Desc) (cause rank : Nat) : State :=
  s.log' s.fabSrc 0x5011 2 [(2, collGroup d), (4, collTid d), (1, collOp d), (1, cause), (2, rank)]

/-- A collective ends refused (R155) (DESIGN CHOICE, log entry 36). -/
def State.collRefuse (s : State) (core : Nat) (d : Desc) (cause rank : Nat) : State :=
  (((s.dropRun core d).collEv d cause rank).bumpSat .FAB_COLL_REFUSED).refuse core kColl d

/-- A collective that names a reserved format (R77). -/
def State.collFmtRefuse (s : State) (core : Nat) (d : Desc) : State :=
  (((s.dropRun core d).fmtIllegal s.fabSrc 8 (41, collFmt d)).bumpSat .FAB_COLL_REFUSED).refuse core kColl d

/-- Whether a collective names a reserved format: one that moves packed elements (R77, R328). -/
def collFmtBad (d : Desc) : Bool := (collOp d == 0 || collOp d == 2) && !collPartial d && (Fmt.ofCode (collFmt d)).isNone

/-- A collective ends refused for its layout epoch (R330, R349). -/
def State.epochRefuse (s : State) (core : Nat) (d : Desc) (held got src : Nat) : State :=
  (((s.dropRun core d).log' s.fabSrc 0x5012 2 [(2, collGroup d), (4, collTid d), (4, held), (4, got), (2, src)]).bumpSat
    .FAB_COLL_REFUSED).refuse core kColl d

def State.collDone (s : State) (core : Nat) (d : Desc) : State := (s.dropRun core d).complete core kColl d

/-! ### Shards (R328) -/

/-- Elements of each rank's shard. -/
def State.shardCounts (s : State) (img : Image) (d : Desc) (n : Nat) : List Nat :=
  if collVec d = 0 then List.replicate n (collLen d)
  else let b := s.rdDa s.collAgent img (collVec d) (8 * n); (List.range n).map fun i => field b (8 * i) 8

/-- Bytes of n elements: ACC52 containers, or packed (R76). -/
def collBytes (d : Desc) (n : Nat) : Nat :=
  if collPartial d then 8 * n else ((Fmt.ofCode (collFmt d)).map fun f => f.rowBytes n).getD 0

/-- The first byte of rank i's shard. -/
def shardOff (d : Desc) (cs : List Nat) (i : Nat) : Nat := collBytes d ((cs.take i).foldl (· + ·) 0)

/-- Micro-batches of a member of a fabric group below NMB (R329). -/
def collMbs (d : Desc) (nmb : Nat) : List Nat := (List.range nmb).filter fun m => decide (collLo d ≤ m ∧ m ≤ collHi d)

/-- The ranges that a collective reads and writes on the member of a rank, with k partials per buffer (DA, bytes). -/
def collRanges (d : Desc) (cs : List Nat) (rank k : Nat) : List (Nat × Nat) × List (Nat × Nat) :=
  let total := collBytes d (cs.foldl (· + ·) 0)
  let own := collBytes d (cs.getD rank 0)
  match collOp d with
  | 0 => (if rank = 0 then [(collSrc d, collBytes d (cs.getD 0 0))] else [], [(collDst d, collBytes d (cs.getD 0 0))])
  | 1 => ([(collSrc d, k * total)], [(collDst d, own)])
  | 2 => ([(collSrc d, own)], [(collDst d, total)])
  | 3 => ([(collSrc d, k * total)], [(collDst d, total)])
  | _ => ([], [])

/-- The first check of R328 that fails: its cause (DESIGN CHOICE, log entry 36). -/
def State.collFault (s : State) (img : Image) (d : Desc) (cs : List Nat) (rank k : Nat) : Option Nat :=
  let f := Fmt.ofCode (collFmt d)
  let starts := (List.range cs.length).map fun i => (cs.take i).foldl (· + ·) 0
  let (rds, wrs) := collRanges d cs rank k
  let mapped := (rds ++ wrs).all fun r => s.range s.collAgent img r.1 r.2 == .ok
  if (firstReserved d collReserved).isSome ∨ 5 < collOp d then some 3
  else if (collOp d = 1 ∨ collOp d = 3) ∧ !collPartial d then some 1
  else if !collPartial d && (f.any fun f => starts.any fun x => x % f.group != 0) then some 0
  else if !mapped then some 2
  else none

/-! ### Packets (R319, R332) -/

/-- Bytes go to a device as packets of at most 4,096 bytes. -/
def State.collSend (s : State) (dst tc : Nat) (h : CollHdr) (bs : List Byte) : State :=
  (chunks 4096 bs).zipIdx.foldl (fun s (c, i) =>
    s.sendPacket ⟨0x11, tc, dst, 0, 0, 0, 0, 0, c, none, some { h with elem := h.elem + 4096 * i }, 0, 0, 0⟩) s

def collHdr (d : Desc) (kind rank : Nat) : CollHdr := ⟨collGroup d, kind, collTid d, collEpoch d, 0, 0, 0, 0, rank⟩

/-- Tallies of R103 as they travel. -/
def tallyBytes (a g : Tally) : List Byte := [a.sat, a.under, a.nonfin, a.amax, g.sat, g.under, g.nonfin, g.amax].flatMap (leBytes 4)

/-- The steering row of a tensor ID, if the policy maps it. -/
def State.tidRow (s : State) (tid : Nat) : Option Nat := (tidEntry ((s.bank (unitLedger 0)).sec 6) tid).map (·.row)

/-! ### Reductions (R162, R329) -/

/-- ACC52 codes of n containers at a DA. -/
def State.accCodes (s : State) (img : Image) (da n : Nat) : List Nat :=
  let b := s.rdDa s.collAgent img da (8 * n)
  (List.range n).map fun i => field b (8 * i) 8 % 2 ^ 52

/-- The combined codes of n elements from partials by leaf. -/
def reduceLeaves (ps : List (Nat × Nat × List Nat)) (depth lo n : Nat) : List Nat :=
  (List.range n).map fun i => (combTree (ps.map fun (l, sz, cs) => (l, sz, cs.getD i 0)) depth lo).getD 0

/-- Whether the partials of a shard cover every leaf below nmb, for each of its n elements (R329). -/
def CollRun.covers (r : CollRun) (nmb n : Nat) : Bool :=
  let trees := (r.parts.map fun p => (p.1, p.2.1)).eraseDups
  decide (covered nmb trees = nmb) && trees.all fun t =>
    ((r.parts.filter fun p => (p.1, p.2.1) == t).map fun p => p.2.2.2.length).foldl (· + ·) 0 == n

/-- The reduced shard of n elements. -/
def CollRun.reduce (r : CollRun) (nmb n : Nat) : List Nat :=
  let trees := (r.parts.map fun p => (p.1, p.2.1)).eraseDups
  let whole := trees.map fun (l, sz) =>
    let es := r.parts.filter fun p => p.1 == l && p.2.1 == sz
    (l, sz, (List.range n).map fun i =>
      ((es.find? fun p => decide (p.2.2.1 ≤ i ∧ i < p.2.2.1 + p.2.2.2.length)).map fun p => p.2.2.2.getD (i - p.2.2.1) 0).getD 0)
  reduceLeaves whole (treeDepth nmb) 0 n

def codeBytes (cs : List Nat) : List Byte := cs.flatMap (leBytes 8)

/-! ### Collectives inside the part (R163, R327) -/

/-- The stage that holds a core's logical cluster, if any (R340). -/
def State.coreStage (s : State) (core : Nat) : Option StageEnt :=
  let d := coreDie core
  match s.logClu d (coreClu core % 16) with
  | none => none
  | some l => (stagesOf ((s.bank (unitDie d)).sec 2)).find? fun e => bit (e.onDie d) l

/-- The indices of the members of a collective of SCOPE 0 to 2 that a core issues: cores of its cluster, logical clusters of its stage on
the die, dies of its stage. -/
def State.inMembers (s : State) (core scope : Nat) : List Nat :=
  match scope with
  | 0 => List.range 8
  | 1 => (match s.coreStage core with | some e => bitList (e.onDie (coreDie core)) 12 | none => List.range 12)
  | _ =>
    let ds := List.range s.ident.dies
    (match s.coreStage core with | some e => ds.filter fun d => e.onDie d != 0 | none => ds)

/-- The index of a core at a scope. -/
def State.inIndex (s : State) (core scope : Nat) : Nat :=
  match scope with
  | 0 => core % 8
  | 1 => (s.logClu (coreDie core) (coreClu core % 16)).getD 12
  | _ => coreDie core

/-- Whether two cores belong to one unit at a scope. -/
def sameUnit (a b scope : Nat) : Bool :=
  match scope with
  | 0 => coreClu a == coreClu b
  | 1 => coreDie a == coreDie b
  | _ => true

/-- Whether two descriptors are of one collective (R327). -/
def sameColl (a b : Desc) : Bool :=
  collOp a == collOp b && collScope a == collScope b && collGroup a == collGroup b && collTid a == collTid b &&
    collEpoch a == collEpoch b && collPartial a == collPartial b && collFmt a == collFmt b && collLen a == collLen b

/-- Whether a core may issue work: its cluster runs, it is not halted, and it has a program or a queue (R141, R159). -/
def State.coreMay (s : State) (core : Nat) : Bool :=
  !s.lost (coreClu core) && !(s.core core).halted && !s.rst.inReset.contains (coreDie core) &&
    (s.get .TDY_CFG_AUTO core == 0 ||
      (List.range 16).any fun k => s.get .TDY_QBIND_VALID core k == 1 && s.que.on.contains (s.get .TDY_QBIND_QID core k))

/-- The cores of the member of an index in a collective inside the part. -/
def State.memberCores (s : State) (core scope i : Nat) : List Nat :=
  let ofClu (d l : Nat) : List Nat := match s.physClu d l with | some p => (List.range 8).map (8 * (16 * d + p) + ·) | none => []
  match scope with
  | 0 => [8 * coreClu core + i]
  | 1 => ofClu (coreDie core) i
  | _ => (match s.coreStage core with | some e => bitList (e.onDie i) 12 | none => List.range 12).flatMap (ofClu i)

/-- The runs of the members of a collective inside the part, in index order with their ranks; none while a member has not issued it. A unit
that can issue no work holds no partial, and is an empty leaf (R163) (DESIGN CHOICE, log entry 36). -/
def State.inRuns (s : State) (r : CollRun) : Option (List (Nat × Nat × CollRun)) :=
  let sc := collScope r.d
  let l := (s.inMembers r.core sc).zipIdx.map fun (i, k) =>
    match s.coll.runs.find? fun q => sameColl q.d r.d && sameUnit q.core r.core sc && s.inIndex q.core sc == i with
    | some q => some [(k, i, q)]
    | none => if (s.memberCores r.core sc i).any s.coreMay then none else some []
  if l.all Option.isSome then some (l.filterMap id).flatten else none

/-- Whether the spans of a collective may be accessed on a core (R126, R186, R189). -/
def State.collFree (s : State) (img : Image) (core : Nat) (d : Desc) (l : List (Nat × Nat)) : Bool :=
  s.spansFree core kColl d s.collAgent img l

/-- A collective inside the part whose members have all issued it: it is carried out and completes on each. -/
def State.inRun (s : State) (r : CollRun) : State :=
  match s.inRuns r with
  | none => s
  | some ms =>
    let img := s.collCarve r.beat
    let cs := s.shardCounts img r.d (s.inMembers r.core (collScope r.d)).length
    let spans (x : Nat × Nat × CollRun) : List (Nat × Nat) := let (a, b) := collRanges x.2.2.d cs x.1 1; a ++ b
    if !ms.all (fun x => s.collFree img x.2.2.core x.2.2.d (spans x)) then s else
    let total := cs.foldl (· + ·) 0
    let depth := 4
    let rd (q : CollRun) (off n : Nat) : List Byte := s.rdDa s.collAgent img (collSrc q.d + off) n
    let sum : List Nat := reduceLeaves (ms.map fun (_, i, q) => (i, 1, s.accCodes img (collSrc q.d) total)) depth 0 total
    let wr (s : State) (q : CollRun) (bs : List Byte) : State := s.wrDa s.collAgent img (collDst q.d) bs
    let s :=
      match collOp r.d with
      | 0 => (match ms.head? with
          | some (_, _, q0) => let b := rd q0 0 (collBytes r.d (cs.getD 0 0)); ms.foldl (fun s m => wr s m.2.2 b) s
          | none => s)
      | 1 => ms.foldl (fun s (k, _, q) =>
          wr s q (codeBytes ((sum.drop ((cs.take k).foldl (· + ·) 0)).take (cs.getD k 0)))) s
      | 2 =>
        let b := (List.range cs.length).flatMap fun k => match ms.find? fun m => m.1 == k with
          | some m => rd m.2.2 0 (collBytes r.d (cs.getD k 0))
          | none => List.replicate (collBytes r.d (cs.getD k 0)) 0
        ms.foldl (fun s m => wr s m.2.2 b) s
      | 3 => ms.foldl (fun s m => wr s m.2.2 (codeBytes sum)) s
      | _ => s
    ms.foldl (fun s m => s.collDone m.2.2.core m.2.2.d) s

/-! ### Plans (R351, R352) -/

/-- A plan entry. -/
structure PlanEnt where
  src : Nat
  dst : Nat
  len : Nat
  srcDa : Nat
  dstDa : Nat
deriving DecidableEq, Repr

def planOf (b : List Byte) (n : Nat) : List PlanEnt :=
  (List.range n).map fun i =>
    let e := slice b (64 + 32 * i) 32
    ⟨field e 0 2, field e 2 2, field e 4 4, field e 8 8, field e 16 8⟩

/-- The bytes of a member's copy of a plan. -/
def State.planBytes (s : State) (img : Image) (d : Desc) : List Byte := s.rdDa s.collAgent img (collSrc d) (64 + 32 * collLen d)

/-- Whether the checks of R352 hold for a member of a rank; areas are the staging and the journal area of a re-shard. -/
def State.planOk (s : State) (img : Image) (d : Desc) (rank members : Nat) (areas : Bool) : Bool :=
  let n := collLen d
  let b := s.planBytes img d
  let es := planOf b n
  let blk := 2 ^ field b 4 1
  let rs := regionsOf (img.sec 4)
  let mine := es.zipIdx.flatMap fun (e, _) =>
    (if e.src = rank then [(e.srcDa, e.len)] else []) ++ (if e.dst = rank then [(e.dstDa, e.len)] else [])
  let stag := (collVec d, 2 * blk)
  let jour := (collDst d, 64 + 16 * n)
  let okMap (r : Nat × Nat) : Bool := s.range s.collAgent img r.1 r.2 == .ok
  s.range s.collAgent img (collSrc d) (64 + 32 * n) == .ok && field b 0 4 == n && within 16 (field b 4 1) 24 && zeroAt b 5 27 &&
    slice b 32 32 == sha3 (b.drop 64) &&
    (es.all fun e => decide (e.src < members ∧ e.dst < members) && e.len % 64 == 0 && within 64 e.len blk && e.srcDa % 64 == 0 &&
      e.dstDa % 64 == 0) &&
    (mine.all fun r => okMap r && inKinds rs [1, 2, 5, 9] r.1 r.2) &&
    (!areas || (okMap stag && okMap jour && (mine.all fun r => !meets r.1 r.2 stag.1 stag.2 && !meets r.1 r.2 jour.1 jour.2) &&
      !meets stag.1 stag.2 jour.1 jour.2)) &&
    ((pairsOf es).all fun (x, y) =>
      !(x.2.dst == rank && y.2.src == rank && meets x.2.dstDa x.2.len y.2.srcDa y.2.len) &&
      !(x.2.dst == rank && y.2.dst == rank && meets x.2.dstDa x.2.len y.2.dstDa y.2.len))

/-- Whether a destination range of a member overlaps any of its source ranges (R348). -/
def permuteMeets (es : List PlanEnt) (rank : Nat) : Bool :=
  es.any fun a => es.any fun b => a.dst == rank && b.src == rank && meets a.dstDa a.len b.srcDa b.len

/-! ### Collectives over a fabric group (R327) -/

/-- Bytes that a member must receive from others before its collective completes: for a reduction, in its gathering phase. -/
def collExpect (d : Desc) (cs : List Nat) (es : List PlanEnt) (rank : Nat) : Nat :=
  let total := (List.range cs.length).map fun i => if i = rank then 0 else collBytes d (cs.getD i 0)
  match collOp d with
  | 0 => if rank = 0 then 0 else collBytes d (cs.getD 0 0)
  | 2 => total.foldl (· + ·) 0
  | 3 => total.foldl (· + ·) 0
  | 4 => ((es.filter fun e => e.dst == rank && e.src != rank).map (·.len)).foldl (· + ·) 0
  | _ => 0

/-- The plan of a plain permute; none for other operations. -/
def State.collPlan (s : State) (img : Image) (d : Desc) : List PlanEnt :=
  if collOp d = 4 then planOf (s.planBytes img d) (collLen d) else []

/-- Whether a run that carries tallies has those of every other member (R103): totals then do not depend on timing. -/
def State.talliesIn (s : State) (r : CollRun) (members rank : Nat) : Bool :=
  !(collOp r.d == 1 || collOp r.d == 3) || (s.tidRow (collTid r.d)).isNone ||
    (List.range members).all fun k => k == rank || r.tallied.contains k

/-- A run goes on as far as what it holds allows: the reduction of its shard, the gathering of reduced shards, completion. -/
def State.collTry (s : State) (r : CollRun) : State :=
  let img := s.collCarve r.beat
  match s.collGrp r.beat r.d with
  | none => s
  | some g =>
    match rankIn g.members s.ownId with
    | none => s
    | some rank =>
      let d := r.d
      let cs := s.shardCounts img d g.members.length
      let n := cs.getD rank 0
      let red := collOp d == 1 || collOp d == 3
      let dst := collDst d + (if collOp d = 3 then shardOff d cs rank else 0)
      let ready := !r.reduced && red && (n == 0 || r.covers g.nmb n) && s.collFree img r.core d [(dst, collBytes d n)]
      let (s, r) :=
        if ready then
          let b := codeBytes (r.reduce g.nmb n)
          let s := s.wrDa s.collAgent img dst b
          let s := if collOp d = 3 then
              (g.members.filter (· != s.ownId)).foldl (fun s m =>
                s.collSend m (collTc d) { collHdr d 2 rank with shard := rank } b) s
            else s
          let r := { r with reduced := true, parts := [] }
          (s.putRun r, r)
        else (s, r)
      if (!red || r.reduced) && s.talliesIn r g.members.length rank && decide (collExpect d cs (s.collPlan img d) rank ≤ r.got) then
        s.collDone r.core d
      else s

/-- Where the sub-trees of two partials overlap and their elements too (R329). -/
def partClash (a b : Nat × Nat × Nat × Nat) : Bool :=
  let ((l, sz, e, n), (l', sz', e', n')) := (a, b)
  decide (l < l' + sz' ∧ l' < l + sz) && !((l == l' && sz == sz') && !decide (e < e' + n' ∧ e' < e + n))

/-- A partial of the own shard is taken (R329): first leaf, size, first element and codes, from the member of a rank (DESIGN CHOICE, log entry 36). -/
def State.takePart (s : State) (r : CollRun) (leaf size elem : Nat) (cs : List Nat) (rank : Nat) : State × CollRun :=
  if r.parts.any fun p => partClash (leaf, size, elem, cs.length) (p.1, p.2.1, p.2.2.1, p.2.2.2.length) then
    (s.collEv r.d 5 rank, r)
  else
    let r := { r with parts := r.parts ++ [(leaf, size, elem, cs)] }
    (s.putRun r, r)

/-- A packet of a running collective takes effect: a shard's bytes are written, or a partial is taken (R327, R329). -/
def State.collIn (s : State) (r : CollRun) (p : Packet) (h : CollHdr) : State :=
  let img := s.collCarve r.beat
  match s.collGrp r.beat r.d with
  | none => s
  | some g =>
    let d := r.d
    let cs := s.shardCounts img d g.members.length
    let put (da : Nat) (f : State → State) : State :=
      if !s.collFree img r.core d [(da, p.payload.length)] then s.waitFor ⟨s.collAgent, da, 1, p.payload, none, some p⟩
      else
        let s := f s
        let r := { r with got := r.got + p.payload.length }
        ((s.wrDa s.collAgent img da p.payload).putRun r).collTry r
    match h.op with
    | 0 => put (collDst d + h.elem) id
    | 1 =>
      let codes := (List.range (p.payload.length / 8)).map fun i => field p.payload (8 * i) 8 % 2 ^ 52
      let (s, r) := s.takePart r h.leaf h.size (h.elem / 8) codes h.rank
      s.collTry r
    | 2 =>
      let off := shardOff d cs h.shard + h.elem
      put (collDst d + off) fun s => s.escCapture p.src h.tid off p.payload
    | 4 => (match (s.collPlan img d)[h.shard]? with
        | some e => put (e.dstDa + h.elem) id
        | none => s)
    | 5 => (match s.tidRow h.tid with
        | some row =>
          let t (o : Nat) : Tally := ⟨field p.payload o 4, field p.payload (o + 4) 4, field p.payload (o + 8) 4, field p.payload (o + 12) 4⟩
          let r := { r with tallied := h.rank :: r.tallied }
          (((s.totalAdd (2 * row) (t 0)).totalAdd (2 * row + 1) (t 16)).putRun r).collTry r
        | none => s)
    | _ => s

/-- Whether a packet is one of a collective. -/
def ofColl (d : Desc) (h : CollHdr) : Bool :=
  collScope d == 3 && collGroup d == h.group && collTid d == h.tid &&
    (collOp d == h.op || (collOp d == 3 && (h.op == 1 || h.op == 2)) || ((collOp d == 1 || collOp d == 3) && h.op == 5))

/-- Whether a packet names the group and tensor ID of a collective, under another layout epoch (R330). -/
def offEpoch (d : Desc) (h : CollHdr) : Bool :=
  collScope d == 3 && collGroup d == h.group && collTid d == h.tid && collEpoch d != h.epoch

/-- A collective packet arrives (R329, R330): refused where the collective is held under another epoch, taken where it runs, kept where
its descriptor has not come. -/
def State.collPacket (s : State) (p : Packet) (h : CollHdr) : State :=
  let moving := s.get .FAB_RESHARD_STATE == 2 || s.get .FAB_RESHARD_STATE == 3
  let old := moving && h.epoch == s.get .FAB_LAYOUT_CURRENT
  match s.coll.runs.find? fun r => offEpoch r.d h || (old && ofColl r.d h) with
  | some r => (s.epochRefuse r.core r.d (collEpoch r.d) h.epoch p.src).bumpSat .FAB_COLL_EPOCH
  | none =>
    match s.coll.runs.find? fun r => ofColl r.d h with
    | some r => s.collIn r p h
    | none =>
      if old then
        (s.log' s.fabSrc 0x5012 2 [(2, h.group), (4, h.tid), (4, s.get .FAB_LAYOUT_PENDING), (4, h.epoch), (2, p.src)]).bumpSat
          .FAB_COLL_EPOCH
      else { s with coll := { s.coll with kept := s.coll.kept ++ [p] } }

/-- Packets kept for a collective are taken now that its descriptor has come. -/
def State.takeKept (s : State) (d : Desc) : State :=
  let of (p : Packet) : Bool := p.coll.any fun h => ofColl d h || offEpoch d h
  let mine := s.coll.kept.filter of
  let s := { s with coll := { s.coll with kept := s.coll.kept.filter fun p => !of p } }
  mine.foldl (fun s p => match p.coll with | some h => s.collPacket p h | none => s) s

/-! ### Barriers (R331) -/

/-- The completion beat of a barrier, once every member has arrived. -/
def State.barrierAt (s : State) (r : CollRun) : Option Nat :=
  let ms := if collScope r.d = 3 then ((s.collGrp r.beat r.d).map (·.members)).getD [] else s.inMembers r.core (collScope r.d)
  let may (m : Nat) : Bool := collScope r.d == 3 || (s.memberCores r.core (collScope r.d) m).any s.coreMay
  if ms.all fun m => !may m || r.arrived.any fun a => a.1 == m then
    some (max (collBeat r.d) (r.arrived.foldl (fun x a => max x a.2) 0 + s.lBeats))
  else none

/-- Barriers whose completion beat has come end (DESIGN CHOICE, log entry 36). -/
def State.barrierDue (s : State) : State :=
  s.coll.runs.foldl (fun s r =>
    if collOp r.d = 5 ∧ (s.barrierAt r).any (· ≤ s.now) then s.collDone r.core r.d else s) s

/-- A barrier is issued: arrivals to every other member, and those that came early are held. -/
def State.barrierStart (s : State) (r : CollRun) : State :=
  if collScope r.d = 3 then
    match s.collGrp r.beat r.d with
    | none => s
    | some g =>
      let early := (s.coll.bars.filter fun b => b.2.1 == collGroup r.d && b.2.2.1 == collTid r.d).map fun b => (b.1, b.2.2.2)
      let s := { s with coll := { s.coll with bars := s.coll.bars.filter fun b => !(b.2.1 == collGroup r.d && b.2.2.1 == collTid r.d) } }
      let s := s.tc0All (g.members.filter (· != s.ownId)) (.barrier s.ownId (collGroup r.d) (collTid r.d) s.now)
      s.putRun { r with arrived := (s.ownId, s.now) :: early }
  else
    let sc := collScope r.d
    let me := (s.inIndex r.core sc, s.now)
    let s := s.putRun { r with arrived := [me] }
    s.setRuns (s.coll.runs.map fun q =>
      if sameColl q.d r.d && sameUnit q.core r.core sc then
        let others := (s.coll.runs.filter fun p => sameColl p.d r.d && sameUnit p.core r.core sc).flatMap fun p =>
          p.arrived.filter fun a => a.1 == s.inIndex p.core sc
        { q with arrived := others }
      else q)

/-! ### Start -/

/-- The totals of a row go to the other members of a reduction (R103) (DEDUCED, log entry 26). -/
def State.tallyOut (s : State) (d : Desc) (others : List Nat) (rank : Nat) : State :=
  match s.tidRow (collTid d) with
  | some row =>
    let x := (s.tallySend row).takeOwn row
    others.foldl (fun s m => s.collSend m 2 (collHdr d 5 rank) (tallyBytes x.2.1 x.2.2)) x.1
  | none => s

/-- Shard i of the partial sum v. -/
def shardOf (cs : List Nat) (v : List Nat) (i : Nat) : List Nat := (v.drop ((cs.take i).foldl (· + ·) 0)).take (cs.getD i 0)

/-- A reduction's start: this member's sub-tree sums go to the members that own the shards (R327, R329). -/
def State.collReduce (s : State) (r : CollRun) (g : Group) (rank : Nat) (img : Image) (cs others : List Nat) : State × CollRun :=
  let d := r.d
  let total := cs.foldl (· + ·) 0
  let s := s.tallyOut d others rank
  let mbs := collMbs d g.nmb
  let bufs := mbs.map fun m => (m, 1, s.accCodes img (collSrc d + 8 * total * (m - collLo d)) total)
  let trees := if mbs = [] then [] else subTrees (collLo d) (collHi d + 1) g.nmb (treeDepth g.nmb) 0
  let sums := trees.map fun (l, sz) => (l, sz, reduceLeaves bufs (treeDepth sz) l total)
  let s := g.members.zipIdx.foldl (fun s x =>
    if x.2 = rank then s
    else sums.foldl (fun s v => s.collSend x.1 (collTc d) { collHdr d 1 rank with leaf := v.1, size := v.2.1, shard := x.2 }
      (codeBytes (shardOf cs v.2.2 x.2))) s) s
  sums.foldl (fun (a : State × CollRun) v => a.1.takePart a.2 v.1 v.2.1 0 (shardOf cs v.2.2 rank) rank) (s, r)

/-- What a member sends when its collective over a group starts, and its own contribution (R327, R329, R348). -/
def State.collBegin (s : State) (r : CollRun) (g : Group) (rank : Nat) : State :=
  let img := s.collCarve r.beat
  let d := r.d
  let cs := s.shardCounts img d g.members.length
  let others := g.members.filter (· != s.ownId)
  let s := s.setRuns (s.coll.runs ++ [r])
  let finish (s : State) (r : CollRun) : State :=
    let s := (s.putRun r).takeKept d
    match s.coll.runs.find? fun q => q.core == r.core && q.d == d with
    | some q => s.collTry q
    | none => s
  match collOp d with
  | 0 =>
    if rank = 0 then
      let b := s.rdDa s.collAgent img (collSrc d) (collBytes d (cs.getD 0 0))
      let s := others.foldl (fun s m => s.collSend m (collTc d) (collHdr d 0 0) b) s
      finish (s.wrDa s.collAgent img (collDst d) b) r
    else finish s r
  | 2 =>
    let b := s.rdDa s.collAgent img (collSrc d) (collBytes d (cs.getD rank 0))
    let s := others.foldl (fun s m => s.collSend m (collTc d) { collHdr d 2 rank with shard := rank } b) s
    finish (s.wrDa s.collAgent img (collDst d + shardOff d cs rank) b) r
  | 4 =>
    let es := s.collPlan img d
    let s := es.zipIdx.foldl (fun s (e, i) =>
      if e.src = rank then
        let b := s.rdDa s.collAgent img e.srcDa e.len
        if e.dst = rank then s.wrDa s.collAgent img e.dstDa b
        else s.collSend (g.members.getD e.dst 0) (collTc d) { collHdr d 4 rank with shard := i } b
      else s) s
    finish s r
  | 5 => (s.barrierStart r).barrierDue
  | _ => let x := s.collReduce r g rank img cs others; finish x.1 x.2

/-- Whether the layout epoch lets a collective run now, waits, or refuses it (R349). -/
inductive EpochRes where
  | run
  | wait
  | refuse
deriving DecidableEq, Repr

def State.epochOf (s : State) (core : Nat) (d : Desc) : EpochRes :=
  let e := collEpoch d
  let cur := s.get .FAB_LAYOUT_CURRENT
  if s.get .FAB_RESHARD_STATE = 0 then (if e = cur then .run else .refuse)
  else if e = s.get .FAB_LAYOUT_PENDING then .wait
  else if e = cur ∧ (s.coll.rsh.any fun r => r.before.contains (core, d)) then .run
  else .refuse

/-- A collective that may start: its checks, then its start (R327 to R331, R348, R349). -/
def State.collStart (s : State) (core : Nat) (d : Desc) : State :=
  let s := s.hold core kColl d
  if !s.canStart core kColl d then s
  else
    match s.coll.runs.find? fun r => r.core == core && r.d == d with
    | some r => if collOp d = 5 then s else if collScope d < 3 then s.inRun r else s.collTry r
    | none =>
    let beat := (s.heldFor core kColl d).beat
    let img := s.collCarve beat
    let r : CollRun := ⟨core, beat, d, [], 0, false, [], []⟩
    match s.epochOf core d with
    | .wait => s
    | .refuse => s.epochRefuse core d (s.get .FAB_LAYOUT_CURRENT) (collEpoch d) s.ownId
    | .run =>
      if collFmtBad d then s.collFmtRefuse core d
      else if collScope d < 3 then
        if collOp d = 4 then s.collRefuse core d 3 0
        else
          let ms := s.inMembers core (collScope d)
          let rank := (rankIn ms (s.inIndex core (collScope d)))
          match rank with
          | none => s.collRefuse core d 3 0
          | some rank =>
            match s.collFault img d (s.shardCounts img d ms.length) rank 1 with
            | some c => s.collRefuse core d c rank
            | none =>
              let (rds, wrs) := collRanges d (s.shardCounts img d ms.length) rank 1
              if !s.collFree img core d (rds ++ wrs) then s else
              match rds.findSome? fun x => s.poisonDa s.collAgent img x.1 x.2 with
              | some da => (s.daUe s.fabSrc s.collAgent img da).collRefuse core d 7 rank
              | none =>
                let s := match (if collOp d = 1 ∨ collOp d = 3 then s.tidRow (collTid d) else none) with
                  | some row => s.tallySend row
                  | none => s
                let s := s.setRuns (s.coll.runs ++ [r])
                if collOp d = 5 then (s.barrierStart r).barrierDue else s.inRun r
      else
        match s.collGrp beat d with
        | none => s.collRefuse core d 3 0
        | some g =>
          match rankIn g.members s.ownId with
          | none => s.collRefuse core d 3 0
          | some rank =>
            let cs := s.shardCounts img d g.members.length
            let k := (collMbs d g.nmb).length
            let es := s.collPlan img d
            let plan := collOp d != 4 || (collDst d == 0 && collVec d == 0 && within 1 (collLen d) 1048575 &&
              s.planOk img d rank g.members.length false && !permuteMeets es rank)
            let rds := if collOp d = 4 then (es.filter fun e => e.src == rank).map fun e => (e.srcDa, e.len)
              else (collRanges d cs rank k).1
            match (if collOp d = 4 ∨ collOp d = 5 then (if (firstReserved d collReserved).isSome then some 3 else none)
                else s.collFault img d cs rank k) with
            | some c => s.collRefuse core d c rank
            | none =>
              if !plan then s.collRefuse core d 4 rank
              else if !s.collFree img core d (rds ++ (if collOp d = 4 then (es.filter fun e => e.src == rank && e.dst == rank).map fun e => (e.dstDa, e.len)
                  else if collOp d = 5 then [] else (collRanges d cs rank k).2)) then s
              else
                match rds.findSome? fun x => s.poisonDa s.collAgent img x.1 x.2 with
                | some da => (s.daUe s.fabSrc s.collAgent img da).collRefuse core d 7 rank
                | none => s.collBegin r g rank

/-- The row of an operation takes descriptors of its OP, and those of an OP that the layout does not list, which is refused (R328). -/
def State.collRow (s : State) (core : Nat) (d : Desc) (op : Nat) : Res :=
  onUnit (s.coreOk core) (
    if descClass d ≠ 8 ∨ (collOp d ≠ op ∧ collOp d ≤ 5) then .fault .otherRow else .next (s.atUnit core kColl d fun s => s.collStart core d))

/-- BROADCAST (R327, R343). -/
def execBroadcast (core : Nat) (d : Desc) (s : State) : Res := s.collRow core d 0
/-- REDUCE_SCATTER (R327, R329). -/
def execReduceScatter (core : Nat) (d : Desc) (s : State) : Res := s.collRow core d 1
/-- ALL_GATHER (R327). -/
def execAllGather (core : Nat) (d : Desc) (s : State) : Res := s.collRow core d 2
/-- ALL_REDUCE (R327). -/
def execAllReduce (core : Nat) (d : Desc) (s : State) : Res := s.collRow core d 3
/-- BARRIER (R331). -/
def execBarrier (core : Nat) (d : Desc) (s : State) : Res := s.collRow core d 5

/-- BARRIER_ARRIVAL_RECEIVE (R331, R326): the arrival of a barrier, or that of a re-shard with its phase, digest and outcome (R353, R355). -/
def execBarrierArrivalReceive (dev group tid b lat : Nat) (rsh : Option (Nat × List Byte × Bool)) (s : State) : Res :=
  let s := s.tc0In dev 8 lat
  match rsh with
  | some (phase, digest, ok) =>
    let a : RshArrival := ⟨dev, group, phase, b, digest, ok⟩
    match s.coll.rsh with
    | some r =>
      if collGroup r.d = group then .next { s with coll := { s.coll with rsh := some { r with arrivals := r.arrivals ++ [a] } } }
      else .next { s with coll := { s.coll with rshEarly := s.coll.rshEarly ++ [a] } }
    | none => .next { s with coll := { s.coll with rshEarly := s.coll.rshEarly ++ [a] } }
  | none =>
    match s.coll.runs.find? fun r => collOp r.d == 5 && collScope r.d == 3 && collGroup r.d == group && collTid r.d == tid with
    | some r => .next ((s.putRun { r with arrived := r.arrived ++ [(dev, b)] }).barrierDue)
    | none => .next { s with coll := { s.coll with bars := s.coll.bars ++ [(dev, group, tid, b)] } }

/-- BARRIER_COMPLETE (R331): a barrier whose beat has come completes; before that the event does nothing. -/
def execBarrierComplete (core : Nat) (d : Desc) (s : State) : Res :=
  onUnit (s.coreOk core) (
    .next (match s.coll.runs.find? fun r => r.core == core && r.d == d && collOp r.d == 5 with
      | some r => if (s.barrierAt r).any (· ≤ s.now) then s.collDone core d else s
      | none => s))

/-- Collectives that waited for memory go on (R186, R189). -/
def State.collResume (s : State) : State :=
  s.coll.runs.foldl (fun s r =>
    match s.coll.runs.find? fun q => q.core == r.core && q.d == r.d with
    | some q => if collOp q.d = 5 then s else if collScope q.d < 3 then s.inRun q else s.collTry q
    | none => s) s

/-- A member of a group is lost (R336): every collective over it that has not ended ends refused. -/
def State.collLost (s : State) (dev : Nat) : State :=
  s.coll.runs.foldl (fun s r =>
    match (if collScope r.d = 3 then s.collGrp r.beat r.d else none) with
    | some g => (match rankIn g.members dev with | some k => s.collRefuse r.core r.d 6 k | none => s)
    | none => s) s

end Sys2Proof.Machine
end

