-- ==== Sys2Proof/Machine/Reshard.lean ====
section
/-! DEFINITION. Re-sharding in place (R349 to R360): the re-shard permute, its drain, the moving of its blocks through staging slots with the
journal, and the commit of the new layout. -/
namespace Sys2Proof.Machine

def State.setRsh (s : State) (r : Option ReshardSt) : State := { s with coll := { s.coll with rsh := r } }

/-- The plan, the group's members and the own rank of a re-shard. -/
structure RshView where
  img : Image
  members : List Nat
  rank : Nat
  plan : List PlanEnt
  blk : Nat
  digest : List Byte
deriving DecidableEq, Repr

def State.rshView (s : State) (r : ReshardSt) : RshView :=
  let img := s.collCarve r.beat
  let ms := ((s.collGrp r.beat r.d).map (·.members)).getD []
  let b := s.planBytes img r.d
  ⟨img, ms, (rankIn ms s.ownId).getD 0, planOf b (collLen r.d), 2 ^ field b 4 1, slice b 32 32⟩

/-- Plan indices of the member's destination blocks and of the blocks that it sends, ascending. -/
def RshView.dests (v : RshView) : List Nat := (List.range v.plan.length).filter fun i => (v.plan[i]?).any fun e => e.dst == v.rank
def RshView.srcs (v : RshView) : List Nat := (List.range v.plan.length).filter fun i => (v.plan[i]?).any fun e => e.src == v.rank
def RshView.ent (v : RshView) (i : Nat) : PlanEnt := (v.plan[i]?).getD ⟨0, 0, 0, 0, 0⟩

/-- Bytes of the journal are written (R356). -/
def State.jour (s : State) (r : ReshardSt) (v : RshView) (off : Nat) (bs : List Byte) : State :=
  s.wrDa s.collAgent v.img (collDst r.d + off) bs

/-- The record of a plan entry: STATE, SLOT, BEAT. -/
def State.jourRec (s : State) (r : ReshardSt) (v : RshView) (i st slot : Nat) : State :=
  s.jour r v (64 + 16 * i) (leBytes 1 st ++ leBytes 1 slot ++ leBytes 6 0 ++ leBytes 8 s.now)

/-- FAB_RESHARD_PROG and COMMITTED follow what has been committed and acknowledged (R359). -/
def State.rshProg (s : State) (r : ReshardSt) (v : RshView) : State :=
  let next := ((v.dests.filter fun i => !r.done.contains i).head?).getD v.plan.length
  ((s.set .FAB_RESHARD_COMMITTED r.done.length).set .FAB_RESHARD_PROG_ACKED r.acked.length).set .FAB_RESHARD_PROG_NEXT_DST next

/-- EV_RESHARD_HALT (R360): causes 0 check, 1 digest, 2 member lost (DEDUCED, log entry 37). -/
def State.rshHaltEv (s : State) (r : ReshardSt) (cause rank next : Nat) : State :=
  s.log' s.fabSrc 0x5015 2 [(2, collGroup r.d), (4, collEpoch r.d), (1, cause), (2, rank), (4, next)]

/-- The re-shard ends refused; CURRENT is unchanged (R353, R358). -/
def State.rshRefuse (s : State) (r : ReshardSt) (cause rank : Nat) : State :=
  let s := (s.rshHaltEv r cause rank (s.get .FAB_RESHARD_PROG_NEXT_DST)).setRsh none
  ((((s.set .FAB_RESHARD_STATE 0).set .FAB_LAYOUT_PENDING 0).bumpSat .FAB_COLL_REFUSED)).refuse r.core kColl r.d

/-- A re-shard permute is issued (R350, R353): it enters DRAINING. A second one is refused (R349, R358) (DEDUCED, log entry 37). -/
def State.rshIssue (s : State) (core : Nat) (d : Desc) : State :=
  let s := s.hold core kColl d
  let st := s.get .FAB_RESHARD_STATE
  if s.coll.rsh.any fun r => r.core == core && r.d == d then s
  else if st = 1 ∨ st = 2 ∨ st = 3 then s.epochRefuse core d (s.get .FAB_LAYOUT_CURRENT) (collEpoch d) s.ownId
  else
    let h := s.heldFor core kColl d
    let bad := collScope d != 3 || collEpoch d == 0 || (firstReserved d collReserved).isSome || !within 1 (collLen d) 1048575 ||
      collLo d != 0 || collHi d != 0 || collTid d != 0 || collFmt d != 0 || collPartial d ||
      !((s.collGrp h.beat d).any fun g => g.members.contains s.ownId)
    if bad then s.collRefuse core d 3 0
    else
      let before := (List.range 1024).flatMap fun c => (s.heldOf c kColl).filterMap fun x =>
        if c = core ∧ h.seq ≤ x.seq then none else some (c, x.d)
      let early := s.coll.rshEarly.filter fun a => a.group == collGroup d
      let s := { s with coll := { s.coll with rshEarly := s.coll.rshEarly.filter fun a => a.group != collGroup d } }
      let r : ReshardSt := ⟨core, h.beat, d, s.get .FAB_LAYOUT_CURRENT, before, early, false, [], [], [], [], [], []⟩
      ((((((s.setRsh (some r)).rshProg r (s.rshView r)).set .FAB_RESHARD_STATE 1).set .FAB_RESHARD_GROUP (collGroup d)).set .FAB_LAYOUT_PENDING (collEpoch d)).set
        .FAB_RESHARD_RESUMED 0)

/-- A row of permute descriptors: one of another operation belongs to another row. -/
def State.permRow (s : State) (core : Nat) (d : Desc) (f : State → State) : Res :=
  onUnit (s.coreOk core) (if descClass d ≠ 8 ∨ collOp d ≠ 4 then .fault .otherRow else .next (s.atUnit core kColl d f))

/-- PERMUTE (R348): a permute of the current layout epoch, or one of the new epoch while a re-shard runs. One of another epoch is a re-shard
(R350). -/
def execPermute (core : Nat) (d : Desc) (s : State) : Res :=
  s.permRow core d fun s =>
    if collScope d = 3 ∧ s.coll.rsh.isNone ∧ collEpoch d ≠ s.get .FAB_LAYOUT_CURRENT then s.rshIssue core d else s.collStart core d

/-- RESHARD_ISSUE (R350, R353): a permute of another epoch than CURRENT. One of the current epoch moves its blocks at once (R348), and one of
the epoch to come is held until the commit (R349). -/
def execReshardIssue (core : Nat) (d : Desc) (s : State) : Res :=
  s.permRow core d fun s =>
    if collEpoch d = s.get .FAB_LAYOUT_CURRENT ∨ s.coll.rsh.any fun r => collEpoch r.d == collEpoch d && !(r.core == core && r.d == d) then
      s.collStart core d
    else s.rshIssue core d

/-- Whether every collective of the current epoch issued before the re-shard has ended. -/
def State.rshDrained (s : State) (r : ReshardSt) : Bool :=
  r.before.all fun (c, d) => collEpoch d != r.old || !((s.heldOf c kColl).any fun h => h.d == d)

/-- An arrival of this member goes to every other member and is held here. -/
def State.rshArrive (s : State) (r : ReshardSt) (v : RshView) (phase : Nat) (ok : Bool) : State :=
  let a : RshArrival := ⟨s.ownId, collGroup r.d, phase, s.now, v.digest, ok⟩
  (s.tc0All (v.members.filter (· != s.ownId)) (.reshard s.ownId (collGroup r.d) phase s.now v.digest ok)).setRsh
    (some { r with arrivals := r.arrivals ++ [a] })

/-- RESHARD_DRAIN_COMPLETE (R352, R353). -/
def execReshardDrainComplete (s : State) : Res :=
  match s.coll.rsh with
  | none => .next s
  | some r =>
    if s.get .FAB_RESHARD_STATE ≠ 1 ∨ r.sentDrain ∨ !s.rshDrained r then .next s
    else
      let v := s.rshView r
      .next (s.rshArrive { r with sentDrain := true } v 0 (s.planOk v.img r.d v.rank v.members.length true))

/-- The beat at which a phase ends for every member: s_max + L, once all arrivals are held. -/
def State.rshBeat (s : State) (r : ReshardSt) (v : RshView) (phase : Nat) : Option Nat :=
  let as_ := r.arrivals.filter fun a => a.phase == phase
  if v.members.all fun m => as_.any fun a => a.dev == m then some (as_.foldl (fun x a => max x a.beat) 0 + s.lBeats) else none

/-- A block's bytes arrive in its slot (R354); whole, the block is staged. -/
def State.rshStage (s : State) (r : ReshardSt) (v : RshView) (i off : Nat) (bs : List Byte) : State :=
  match r.slots.find? fun x => x.2.1 == i with
  | none => s
  | some (slot, _, got) =>
    let s := s.wrDa s.collAgent v.img (collVec r.d + slot * v.blk + off) bs
    let r := { r with slots := r.slots.map fun x => if x.2.1 = i then (slot, i, got + bs.length) else x }
    let s := s.setRsh (some r)
    if got + bs.length ≥ (v.ent i).len then s.jourRec r v i 1 slot else s

/-- Whether the re-shard's requests wait (R186, R189): to its slots, its journal, or a range of the plan. -/
def State.rshBusy (s : State) (r : ReshardSt) (v : RshView) (l : List (Nat × Nat)) : Bool :=
  ((collVec r.d, 2 * v.blk) :: (collDst r.d, 64 + 16 * v.plan.length) :: l).any fun p => s.memBusy v.img p.1 p.2

/-- One part of a block goes to its slot. A block of this member's own is read now; one that is poisoned comes from the escrow partner instead
(R358). -/
def State.rshPart (s : State) (r : ReshardSt) (v : RshView) (x : Nat × Nat × Option (List Byte)) : State :=
  match x with
  | (i, off, some bs) => s.rshStage r v i off bs
  | (i, _, none) =>
    let e := v.ent i
    match s.poisonDa s.collAgent v.img e.srcDa e.len with
    | some da => s.daUe s.fabSrc s.collAgent v.img da
    | none => s.rshStage r v i 0 (s.rdDa s.collAgent v.img e.srcDa e.len)

/-- Parts that wait for memory go on in order, as far as they may; fuel is their number. -/
def State.rshUnstash (s : State) : Nat → State
  | 0 => s
  | n + 1 =>
    match s.coll.rsh with
    | none => s
    | some r =>
      let v := s.rshView r
      match r.stash with
      | [] => s
      | x :: rest =>
        if s.rshBusy r v [((v.ent x.1).srcDa, if x.2.2.isNone then (v.ent x.1).len else 0)] then s
        else ((s.setRsh (some { r with stash := rest })).rshPart { r with stash := rest } v x).rshUnstash n

/-- A part of a block joins those that wait, and goes on if it may. -/
def State.rshPut (s : State) (x : Nat × Nat × Option (List Byte)) : State :=
  match s.coll.rsh with
  | none => s
  | some r => (s.setRsh (some { r with stash := r.stash ++ [x] })).rshUnstash (r.stash.length + 1)

/-- Free slots are granted to the next destination blocks in ascending plan order (R354); fuel is the number of slots. -/
def State.rshGrant (s : State) (v : RshView) : Nat → State
  | 0 => s
  | n + 1 =>
    match s.coll.rsh with
    | none => s
    | some r =>
      let next := v.dests.find? fun i => !r.done.contains i && !(r.slots.any fun x => x.2.1 == i)
      let slot := [0, 1].find? fun k => !(r.slots.any fun x => x.1 == k)
      match next, slot with
      | some i, some k =>
        let r := { r with slots := r.slots ++ [(k, i, 0)] }
        let s := s.setRsh (some r)
        let e := v.ent i
        let s :=
          if e.src = v.rank then (s.setRsh (some { r with sent := i :: r.sent })).rshPut (i, 0, none)
          else s.sendPacket ⟨0x11, collTc r.d, v.members.getD e.src 0, 0, 0, 0, 0, 0, [], none, some { collHdr r.d 7 v.rank with shard := i }, 0, 0, 0⟩
        s.rshGrant v n
      | _, _ => s

/-- Whether this member has committed a block that overlaps a source range: its old data is gone, and the escrow partner sends it (R358). -/
def ReshardSt.overwrote (r : ReshardSt) (v : RshView) (i : Nat) : Bool :=
  v.dests.any fun n => r.done.contains n && meets (v.ent n).dstDa (v.ent n).len (v.ent i).srcDa (v.ent i).len

/-- Blocks whose grant has arrived are sent in ascending plan order (R354), as far as their memory is ready (R189). A block that is poisoned at
the source, or whose source range has been written over, is not sent: its escrow partner sends it (R358). -/
def State.rshSend (s : State) (v : RshView) : List Nat → State
  | [] => s
  | i :: rest =>
    match s.coll.rsh with
    | none => s
    | some r =>
      let e := v.ent i
      if r.sent.contains i ∨ r.acked.contains i then s.rshSend v rest
      else if !r.grants.contains i ∨ s.rshBusy r v [(e.srcDa, e.len)] then s
      else
        let gone := r.overwrote v i
        let s := s.setRsh (some { r with sent := i :: r.sent })
        let s := if gone then s
          else
            match s.poisonDa s.collAgent v.img e.srcDa e.len with
            | some da => s.daUe s.fabSrc s.collAgent v.img da
            | none => s.collSend (v.members.getD e.dst 0) (collTc r.d) { collHdr r.d 8 v.rank with shard := i }
                (s.rdDa s.collAgent v.img e.srcDa e.len)
        s.rshSend v rest

/-- COMMITTING begins once every destination block is committed and every block sent is acknowledged (R355) (DEDUCED, log entry 37). -/
def State.rshCheck (s : State) (v : RshView) : State :=
  match s.coll.rsh with
  | none => s
  | some r =>
    let s := s.rshProg r v
    if s.get .FAB_RESHARD_STATE = 2 ∧ (v.dests.all r.done.contains) ∧ (v.srcs.all r.acked.contains) then
      ((s.set .FAB_RESHARD_STATE 3).jour r v 8 (leBytes 1 3)).rshArrive r v 1 true
    else s

/-- Whether a block may be committed: whole in its slot, and every earlier block that the member sends acknowledged (R354). -/
def ReshardSt.mayCommit (r : ReshardSt) (v : RshView) (i : Nat) : Bool :=
  (r.slots.any fun x => x.2.1 == i && decide ((v.ent i).len ≤ x.2.2)) && v.srcs.all fun m => decide (i ≤ m) || r.acked.contains m

/-- A staged block is committed: copied to DST_DA, journaled, acknowledged to its source; its slot goes to the next block (R354). -/
def State.rshCommit (s : State) (r : ReshardSt) (v : RshView) (i : Nat) : State :=
  match r.slots.find? fun x => x.2.1 == i with
  | none => s
  | some (slot, _, _) =>
    let e := v.ent i
    let s := s.wrDa s.collAgent v.img e.dstDa (s.rdDa s.collAgent v.img (collVec r.d + slot * v.blk) e.len)
    let s := s.jourRec r v i 2 slot
    let r := { r with done := i :: r.done, slots := r.slots.filter fun x => x.2.1 != i
                      acked := if e.src = v.rank then i :: r.acked else r.acked }
    let s := s.setRsh (some r)
    let s := if e.src = v.rank then s
      else s.sendPacket ⟨0x11, collTc r.d, v.members.getD e.src 0, 0, 0, 0, 0, 0, [], none, some { collHdr r.d 9 v.rank with shard := i }, 0, 0, 0⟩
    (s.rshGrant v 2).rshCheck v

/-- The journal of an earlier run of the same re-shard is taken up again (R358): committed blocks are kept and acknowledged, staged blocks
recopied from their slots. -/
def State.rshResume (s : State) (r : ReshardSt) (v : RshView) : State :=
  let rec_ (i : Nat) : List Byte := s.rdDa s.collAgent v.img (collDst r.d + 64 + 16 * i) 16
  let done := v.dests.filter fun i => field (rec_ i) 0 1 == 2
  let staged := v.dests.filter fun i => field (rec_ i) 0 1 == 1
  let r := { r with done, slots := staged.map fun i => (field (rec_ i) 1 1, i, (v.ent i).len)
                    acked := done.filter fun i => (v.ent i).src == v.rank }
  let s := (s.setRsh (some r)).set .FAB_RESHARD_RESUMED 1
  let s := done.foldl (fun s i =>
    if (v.ent i).src = v.rank then s
    else s.sendPacket ⟨0x11, collTc r.d, v.members.getD (v.ent i).src 0, 0, 0, 0, 0, 0, [], none,
      some { collHdr r.d 9 v.rank with shard := i }, 0, 0, 0⟩) s
  let s := staged.foldl (fun s i => match s.coll.rsh with
    | some r => if r.mayCommit v i ∧ !s.rshBusy r v [((v.ent i).dstDa, (v.ent i).len)] then s.rshCommit r v i else s
    | none => s) s
  s.log' s.fabSrc 0xB021 1 [(2, collGroup r.d), (4, collEpoch r.d), (4, done.length), (4, staged.length)]

/-- MOVING begins (R353, R356). -/
def State.rshMove (s : State) (r : ReshardSt) (v : RshView) (c : Nat) : State :=
  let hdr := s.rdDa s.collAgent v.img (collDst r.d) 64
  let resumed := field hdr 0 4 == collEpoch r.d && slice hdr 32 32 == v.digest && within 2 (field hdr 8 1) 4
  let s := s.log' s.fabSrc 0x5013 0 [(2, collGroup r.d), (4, r.old), (4, collEpoch r.d), (4, collLen r.d), (8, c)]
  let s := (s.set .FAB_RESHARD_STATE 2).jour r v 0
    (leBytes 4 (collEpoch r.d) ++ leBytes 4 r.old ++ leBytes 1 2 ++ leBytes 23 0 ++ v.digest)
  let s := if resumed then s.rshResume r v
    else (List.range v.plan.length).foldl (fun s i => s.jourRec r v i (if v.dests.contains i then 0 else 3) 0) s
  ((s.rshGrant v 2).rshSend v v.srcs).rshCheck v

/-- RESHARD_MOVE_START (R353): at beat c the blocks begin to move, or the re-shard ends refused. -/
def execReshardMoveStart (s : State) : Res :=
  match s.coll.rsh with
  | none => .next s
  | some r =>
    let v := s.rshView r
    match s.rshBeat r v 0 with
    | none => .next s
    | some b =>
      let c := max (collBeat r.d) b
      if s.get .FAB_RESHARD_STATE ≠ 1 ∨ s.now < c ∨ s.rshBusy r v [] then .next s
      else
        let ds := r.arrivals.filter fun a => a.phase == 0
        let rank (a : RshArrival) : Nat := (rankIn v.members a.dev).getD 0
        match ds.find? fun a => !a.ok with
        | some a => .next (s.rshRefuse r 0 (rank a))
        | none =>
          match ds.find? fun a => a.digest != v.digest with
          | some a => .next (s.rshRefuse r 1 (rank a))
          | none => .next (s.rshMove r v c)

/-- RESHARD_GRANT_RECEIVE (R354): a grant for a plan block that this member sends. -/
def execReshardGrantReceive (block : Nat) (s : State) : Res :=
  match s.coll.rsh with
  | none => .next s
  | some r =>
    let s := s.setRsh (some { r with grants := block :: r.grants })
    let v := s.rshView r
    .next (if s.get .FAB_RESHARD_STATE = 2 then s.rshSend v v.srcs else s)

/-- RESHARD_BLOCK_COMMIT (R354). -/
def execReshardBlockCommit (block : Nat) (s : State) : Res :=
  match s.coll.rsh with
  | none => .next s
  | some r =>
    let v := s.rshView r
    let e := v.ent block
    .next (if s.get .FAB_RESHARD_STATE = 2 ∧ r.mayCommit v block ∧ !s.rshBusy r v [(e.dstDa, e.len)] then s.rshCommit r v block else s)

/-- A block of this member has been committed by its destination (R354). -/
def State.rshAck (s : State) (block : Nat) : State :=
  match s.coll.rsh with
  | none => s
  | some r =>
    let v := s.rshView r
    if v.srcs.contains block ∧ !r.acked.contains block then (s.setRsh (some { r with acked := block :: r.acked })).rshCheck v else s

/-- RESHARD_ACK_RECEIVE (R354). -/
def execReshardAckReceive (block : Nat) (s : State) : Res := .next (s.rshAck block)

/-- A block's bytes or a grant or an acknowledgement of a re-shard arrive as a packet (R354). -/
def State.rshPacket (s : State) (p : Packet) (h : CollHdr) : State :=
  match s.coll.rsh with
  | none => s
  | some r =>
    if collGroup r.d ≠ h.group ∨ collEpoch r.d ≠ h.epoch then s
    else
      let v := s.rshView r
      match h.op with
      | 7 =>
        let s := s.setRsh (some { r with grants := h.shard :: r.grants })
        if s.get .FAB_RESHARD_STATE = 2 then s.rshSend v v.srcs else s
      | 8 => s.rshPut (h.shard, h.elem, some p.payload)
      | _ => s.rshAck h.shard

/-- What waited for memory goes on (R189). -/
def State.rshGo (s : State) : State :=
  match s.coll.rsh with
  | none => s
  | some r =>
    let v := s.rshView r
    if s.get .FAB_RESHARD_STATE = 2 then (s.rshUnstash r.stash.length).rshSend v v.srcs else s

/-- The oldest collective of each core that waited for the new layout starts (R355). -/
def State.rshRelease (s : State) : State :=
  (List.range 1024).foldl (fun s c =>
    match s.heldOf c kColl with
    | h :: _ => if collOp h.d = 4 ∧ collEpoch h.d ≠ s.get .FAB_LAYOUT_CURRENT then s else s.collStart c h.d
    | [] => s) s

/-- RESHARD_COMMIT (R355). -/
def execReshardCommit (s : State) : Res :=
  match s.coll.rsh with
  | none => .next s
  | some r =>
    let v := s.rshView r
    match s.rshBeat r v 1 with
    | none => .next s
    | some c =>
      if s.get .FAB_RESHARD_STATE ≠ 3 ∨ s.now < c then .next s
      else
        let s := (s.jour r v 8 (leBytes 1 0)).setRsh none
        let s := ((s.set .FAB_LAYOUT_CURRENT (collEpoch r.d)).set .FAB_LAYOUT_PENDING 0).set .FAB_RESHARD_STATE 0 |>.irq 9
        let s := s.log' s.fabSrc 0x5014 0 [(2, collGroup r.d), (4, collEpoch r.d), (8, c), (4, r.done.length)]
        .next ((s.complete r.core kColl r.d).rshRelease)

/-- A member of the re-shard's group is lost (R358) (DEDUCED, log entry 37). -/
def State.rshLost (s : State) (dev : Nat) : State :=
  match s.coll.rsh with
  | none => s
  | some r =>
    let v := s.rshView r
    match rankIn v.members dev with
    | none => s
    | some k =>
      if s.get .FAB_RESHARD_STATE = 1 then s.rshRefuse r 2 k
      else
        let s := (s.rshHaltEv r 2 k (s.get .FAB_RESHARD_PROG_NEXT_DST)).jour r v 8 (leBytes 1 4)
        ((((s.setRsh none).set .FAB_RESHARD_STATE 4).irq 9).bumpSat .FAB_COLL_REFUSED).refuse r.core kColl r.d

/-- FAB_LAYOUT.CURRENT as a write changes it (R359). -/
def State.layoutWrite (s : State) (val : Word) : State :=
  if s.get .FAB_RESHARD_STATE = 0 then s.set .FAB_LAYOUT_CURRENT (bits val.toNat 31 0) else s

/-- FAB_LAYOUT_WRITE (R359). -/
def execFabLayoutWrite (_by : Agent) (val : Word) (s : State) : Res := .next (s.layoutWrite val)

end Sys2Proof.Machine
end

