-- ==== Sys2Proof/Machine/Escrow.lean ====
section
/-! DEFINITION. Escrow and recovery (chapter 18, R361 to R379): the escrow step of a source and of a partner, the cut, ROLLBACK, SERVE, RECEIVE,
DIGEST, THAW, and the escrow areas at a commit. -/
namespace Sys2Proof.Machine

def State.setEsc (s : State) (f : EscSt → EscSt) : State := { s with esc := f s.esc }

/-- L of R331 and R368, and the members of the commit group. -/
def State.commitAll (s : State) : List Nat := pmCommit s.peerMap

/-! ### The state block (R363) -/

def roleBytes (b : RoleBlk) : List Byte :=
  leBytes 1 b.fmt ++ leBytes 1 b.rung ++ leBytes 1 b.margin ++ leBytes 1 b.hold ++ leBytes 2 b.clean ++ leBytes 1 b.satFlag ++ leBytes 1 0 ++
    leBytes 4 b.coarse ++ leBytes 4 b.winSat ++ leBytes 4 b.sat ++ leBytes 4 b.under ++ leBytes 4 b.nonfin ++ leBytes 4 0 ++
    ((List.range 16).flatMap fun k => leBytes 4 (KMap.get b.amax k 0)) ++ leBytes 16 0

/-- A steering row in the layout of R104. -/
def rowBytes (r : SteerRow) : List Byte :=
  leBytes 2 r.layer ++ leBytes 2 0 ++ leBytes 4 r.lastStep ++ leBytes 1 r.head ++ leBytes 1 r.fill ++ leBytes 22 0 ++ roleBytes r.act ++
    roleBytes r.grad

def roleOf (b : List Byte) : RoleBlk :=
  ⟨field b 0 1, field b 1 1, field b 2 1, field b 3 1, field b 4 2, field b 6 1, field b 8 4, field b 12 4, field b 16 4, field b 20 4,
    field b 24 4, (List.range 16).filterMap fun k => let v := field b (32 + 4 * k) 4; if v = 0 then none else some (k, v)⟩

/-- A restored row counts as written for the step that it holds (R107). -/
def rowOf (b : List Byte) : SteerRow :=
  ⟨field b 0 2, field b 4 4, field b 8 1, field b 9 1, roleOf (slice b 32 112), roleOf (slice b 144 112), true⟩

/-- The state block of step t (R363). -/
def State.stateBlock (s : State) (t : Nat) : List Byte :=
  let ld := s.updDies.headD 0
  let hdr := leBytes 4 t ++ leBytes 4 (s.get .UPD_SKIP_COUNT_COUNT ld) ++ leBytes 8 (s.get .ESC_CURSOR_VALUE) ++
    leBytes 8 (s.get .ESC_RNG_VALUE) ++ leBytes 4 (s.get .ESC_DRAWS_DRAWS) ++ leBytes 4 (s.get .FAB_LAYOUT_CURRENT) ++
    ((List.range 4).flatMap fun k => leBytes 4 (s.get .UPD_SRKEY_KEY_LO ld k) ++ leBytes 4 (s.get .UPD_SRKEY_KEY_HI ld k)) ++
    ((List.range 8).flatMap fun d => if s.dieOk d then
        leBytes 4 (s.get .DCTL_TALLY_UNMAP0_SAT d) ++ leBytes 4 (s.get .DCTL_TALLY_UNMAP0_NONFIN d) ++
          leBytes 8 (s.get .DCTL_TALLY_UNMAP1_UNDER d)
      else leBytes 16 0)
  hdr ++ leBytes 3904 0 ++ (List.range 1024).flatMap fun r => rowBytes (s.steerRow 0 r)

/-- The length of a state block (R363) (DESIGN CHOICE, log entry 38). -/
def blockLen : Nat := 266240

/-- The check of the random stream (R374): the counter to go on with and whether it was rewound; none where it matches neither value. -/
def rngCheck (b : List Byte) : Option (Nat × Bool) :=
  let e := field b 8 8 * field b 0x18 4 % 2 ^ 64
  let rng := field b 16 8
  if rng = e then some (e, false) else if rng = (e + 1) % 2 ^ 64 then some (e, true) else none

/-- The steering table of a state block goes into every ledger die and every steering cache (R374). -/
def State.restoreTable (s : State) (b : List Byte) : State :=
  let s := (List.range 1024).foldl (fun s r =>
    let x := rowOf (slice b (4096 + 256 * r) 256)
    if x.layer = 0xffff ∧ s.steerRow 0 r = SteerRow.init then s else (s.tableRow r x).cacheRow r x) s
  { s with steerPol := some (s.steerPol.getD ((s.bank (unitLedger 0)).sec 6)) }

/-- Key slot k of a state block goes into UPD_SRKEYk of every ledger die and VEC_SRKEYk of every core. -/
def State.restoreKey (s : State) (b : List Byte) (k : Nat) : State :=
  let lo := field b (32 + 8 * k) 4
  let hi := field b (36 + 8 * k) 4
  (List.range s.ident.dies).foldl (fun s d =>
    let s := (s.set .UPD_SRKEY_KEY_LO lo d k).set .UPD_SRKEY_KEY_HI hi d k
    (List.range 104).foldl (fun s c =>
      (s.set .VEC_SRKEY_KEY_LO lo (128 * d + c) k).set .VEC_SRKEY_KEY_HI hi (128 * d + c) k) s) s

/-- Skip count and unmapped tallies of a state block. -/
def State.restoreCounts (s : State) (b : List Byte) : State :=
  (List.range s.ident.dies).foldl (fun s d =>
    let s := s.set .UPD_SKIP_COUNT_COUNT (field b 4 4) d
    let s := s.set .DCTL_TALLY_UNMAP0_SAT (field b (64 + 16 * d) 4) d
    let s := s.set .DCTL_TALLY_UNMAP0_NONFIN (field b (68 + 16 * d) 4) d
    s.set .DCTL_TALLY_UNMAP1_UNDER (field b (72 + 16 * d) 8) d) s

/-- What a restore writes from a state block once the random stream has passed (R374). -/
def State.restoreBlock (s : State) (b : List Byte) (rng : Nat) (rewound : Bool) : State :=
  let s := if rewound then s.log' s.stwSrc 0x6009 1 [(8, field b 8 8), (8, field b 16 8)] else s
  let s := (s.restoreTable b).restoreCounts b
  let s := (List.range 4).foldl (fun s k => s.restoreKey b k) s
  let s := ((s.set .ESC_CURSOR_VALUE (field b 8 8)).set .ESC_RNG_VALUE rng).set .ESC_DRAWS_DRAWS (field b 24 4)
  if s.get .FAB_RESHARD_STATE = 0 then s.set .FAB_LAYOUT_CURRENT (field b 28 4) else s

/-- EV_RNG_MISMATCH (R374, R379). -/
def State.rngMismatch (s : State) (b : List Byte) : State :=
  s.log' s.stwSrc 0x600A 2 [(8, field b 8 8), (4, field b 0x18 4), (8, field b 16 8)]

/-! ### The source (R364) -/

/-- The home state slot that holds HOME_STEP: its offset; the other one takes the next block. -/
def State.homeSlot (s : State) : Nat :=
  if s.get .ESC_STATUS_HOME = 1 ∧ field (s.escRd (s.homeDa + 0x100000) 4) 0 4 = s.get .ESC_STATUS_HOME_STEP then 0x100000 else 0x200000

/-- The home header: HOME_STEP, home state, manifest digest. -/
def State.setHome (s : State) (step st : Nat) (dg : List Byte) : State :=
  let s := (s.set .ESC_STATUS_HOME_STEP step).set .ESC_STATUS_HOME st
  s.escWr s.homeDa (leBytes 4 step ++ leBytes 4 st ++ dg)

/-- Every refresh bit is cleared (R366). -/
def State.clearRefresh (s : State) : State :=
  let n := ((manifest s.updSec).map fun p => p.2.chunkCount).foldl (· + ·) 0
  s.escWr (s.homeDa + 0x10000) (List.replicate (ceilDiv n 8) 0)

/-- The delta of the bytes that a range of an entry covers (R364). -/
def State.deltaOf (s : State) (full : Bool) (home live : Nat) (n : Nat) (bit_ : Bool) : List Byte :=
  let l := s.escRd live n
  if full then l else if bit_ then (l.zip (s.escRd home n)).map fun (x, y) => x ^^^ y else List.replicate n 0

/-- Delta of an entry's weights, and of its state record with its header unchanged (R364). -/
def State.entryDelta (s : State) (full : Bool) (k : Nat) (e : UpdEnt) : List Byte × List Byte :=
  let (off, b0) := entryPlace s.updSec k
  let home := s.homeDa + 0x300000 + off
  let cs := List.range e.chunkCount
  let part (c : Nat) (o da w : Nat) : List Byte :=
    let i := c * chunkEls
    let n := min chunkEls (e.cnt - i)
    s.deltaOf full (home + o + w * i) (da + w * i) (w * n) (s.refreshBit 0 s.escImg (b0 + c))
  let ws := cs.flatMap fun c => part c 0 e.wDa 2
  let m1 := cs.flatMap fun c => part c (e.recOff + 64) (e.momDa 1) e.momBytes
  let m2 := cs.flatMap fun c => part c (e.recOff + e.mom2) (e.momDa 2) e.momBytes
  let head := s.escRd e.sDa 64 ++ m1
  (ws, if e.twoMoments then head ++ List.replicate (e.mom2 - head.length) 0 ++ m2 else head)

/-- The husk records of a byte string in lossless mode with FRAME 0 (R202). -/
def deltaRecords (b : List Byte) : List (List Byte) := huskRecords 0 0 ((List.range (ceilDiv b.length 2)).map fun i => field b (2 * i) 2)

/-- The header of a packet of the escrow ring (DESIGN CHOICE, log entry 38). -/
def escHdr (kind ent part pos : Nat) : CollHdr := ⟨0, kind, 0, 0, ent, part, pos, 0, 0⟩

/-- What the escrow step of a source reads: the home header, the live shard and, for a delta, the home images (R364). -/
def State.stepReads (s : State) (full : Bool) : List (Nat × Nat) :=
  (s.homeDa, 40) :: ((manifest s.updSec).flatMap fun (_, e) => [(e.wDa, 2 * e.cnt), (e.sDa, e.recLen)]) ++
    (if full then [] else [(s.homeDa + 0x10000, ceilDiv ((manifest s.updSec).map fun p => p.2.chunkCount).sum 8),
      (s.homeDa + 0x300000, imagesLen ((manifest s.updSec).map (·.2)))])

/-- The stream of an escrow step (R364), with nothing between, so that every entry's weights go in delta form. -/
def State.escStream (s : State) (dev t : Nat) (full : Bool) (blk : List Byte) : State :=
  let base := if full then 0xffffffff else s.get .ESC_STATUS_HOME_STEP
  let s := s.collSend dev 2 (escHdr 10 0 0 0) (leBytes 4 t ++ leBytes 4 base ++ manifestBytes s.updSec)
  let ents := manifest s.updSec
  let send (s : State) (k part : Nat) (b : List Byte) : State :=
    (deltaRecords b).zipIdx.foldl (fun s (r, i) => s.collSend dev 2 (escHdr 11 k part i) r) s
  let s := ents.zipIdx.foldl (fun s ((i, e), k) => send s k 1 (s.entryDelta full i e).2) s
  let s := ents.zipIdx.foldl (fun s ((i, e), k) => send s k 0 (s.entryDelta full i e).1) s
  s.collSend dev 2 (escHdr 12 0 0 0) (leBytes 4 t ++ blk)

/-- ESCROW_STEP_OPEN (R363, R364), unless the escrow's requests wait (R189). A poisoned block ends the stream before it begins (R178)
(DEDUCED, log entry 39). -/
def execEscrowStepOpen (s : State) : Res :=
  match s.escDue with
  | none => .next s
  | some t =>
    if s.escBusy then .next s
    else
    let blk := s.stateBlock t
    let slot := if s.homeSlot = 0x100000 then 0x200000 else 0x100000
    let full := s.get .ESC_STATUS_HOME == 0 || slice (s.escRd s.homeDa 40) 8 32 != sha3 (manifestBytes s.updSec) || s.esc.needFull
    let s := s.escWr (s.homeDa + slot) blk
    let s := (s.setEsc fun e => { e with opened := some t }).set .ESC_STATUS_OPEN 1 |>.set .ESC_STEPS_OPEN_STEP t
    match pmPartner s.peerMap, s.escPoison (s.stepReads full) with
    | none, _ => .next s
    | some _, some da => .next (s.escUe da)
    | some dev, none => .next (s.escStream dev t full blk)

/-- NEED_FULL_RECEIVE (R364, R326). -/
def execNeedFullReceive (dev lat : Nat) (s : State) : Res :=
  let s := s.tc0In dev 10 lat
  .next (if pmPartner s.peerMap = some dev then s.setEsc fun e => { e with needFull := true } else s)

/-! ### The partner (R365) -/

/-- EV_ESC_REFUSED: causes 0 base, 1 space, 2 manifest, 3 poison. -/
def State.escRefused (s : State) (src step cause : Nat) : State := s.log' s.stwSrc 0x6004 1 [(2, src), (4, step), (1, cause)]

/-- A stream is refused: NEED_FULL goes to the source. -/
def State.escNeedFull (s : State) (src step cause : Nat) : State :=
  (s.tc0 src (.needFull s.ownId)).escRefused src step cause

/-- OPEN of a step (R365). -/
def State.takeOpen (s : State) (dev step base : Nat) (man : List Byte) : State :=
  if s.eff .ESC_CFG_ENABLE = 0 ∨ dev ≠ s.eff .ESC_CFG_SOURCE ∨ s.get .ESC_STATUS_FROZEN = 1 then s
  else
    let held := s.heldBank
    let b := if held = some 0 then 1 else 0
    let baseOk := base == 0xffffffff || (held.isSome && base == s.get .ESC_STEPS_HELD_STEP)
    let space := decide (0x200000 + imagesLen (manifestEnts man) ≤ s.escBankLen) && decide (4096 + man.length ≤ 0x100000)
    if !baseOk ∨ !space then
      (s.setEsc fun e => { e with filling := none, ignoring := true }).escNeedFull dev step (if baseOk then 1 else 0)
    else
      let s := s.setEsc fun e => { e with filling := some b, inStep := step, inBase := base, ignoring := false, deltas := [], captured := []
                                          closing := none }
      let s := s.escWr (s.bankDa b) (bankHdr step base dev 1 (man.length / 32) (List.replicate 32 0) (List.replicate 32 0))
      let s := s.escWr (s.bankDa b + 4096) man
      s.setBank b 1

/-- A delta (R365): whole records of part 0 (weights) or 1 (state record) of entry k, from tile t on. -/
def State.takeDelta (s : State) (dev k part tile : Nat) (recs : List Byte) : State :=
  match s.esc.filling with
  | none => s
  | some b =>
    if dev ≠ s.eff .ESC_CFG_SOURCE ∨ s.esc.ignoring ∨ s.get .ESC_STATUS_FROZEN = 1 then s
    else
      let es := s.bankEnts b
      match es[k]? with
      | none => s
      | some e =>
        let n := if part = 0 then 2 * e.cnt else e.recLen
        let words := ceilDiv n 2 - 2048 * tile
        let (ws, _) := huskDecode 0 (fun o l => slice recs o l) (fun o l => decide (recs.length < o + l)) (ceilDiv words 2048) words 0 #[]
        let got := (ws.toList.flatMap (leBytes 2)).take (n - 4096 * tile)
        let o := imagesOff es k + (if part = 0 then 0 else e.recOff) + 4096 * tile
        let old := match s.heldBank with
          | some h => if s.esc.inBase = 0xffffffff then [] else s.escRd (s.bankImages h + o) got.length
          | none => []
        let new := got.zipIdx.map fun (x, i) => if part = 1 ∧ 4096 * tile + i < 64 then x else x ^^^ old.getD i 0
        let s := s.escWr (s.bankImages b + o) new
        s.setEsc (fun x => { x with deltas := (o, new.length) :: x.deltas })

/-- Whether every byte of every entry image has been written, pads apart. -/
def State.escComplete (s : State) (b : Nat) : Bool :=
  let es := s.bankEnts b
  let cov := s.esc.deltas ++ s.esc.captured
  es.zipIdx.all fun (e, k) =>
    coversRange cov (imagesOff es k) (2 * e.cnt) && coversRange cov (imagesOff es k + e.recOff) e.recLen

/-- CLOSE of a step (R365). -/
def State.takeClose (s : State) (dev step : Nat) (blk : List Byte) : State :=
  if dev ≠ s.eff .ESC_CFG_SOURCE then s
  else if s.esc.ignoring then s.setEsc fun e => { e with ignoring := false }
  else
    match s.esc.filling with
    | none => s
    | some b =>
      let poison := if s.esc.inBase = 0xffffffff then none else s.heldBank.bind fun h => s.escPoison [(s.bankDa h, s.escBankLen)]
      if s.esc.inStep ≠ step ∨ !s.escComplete b then (s.setEsc fun e => { e with filling := none }).escNeedFull dev step 2
      else
        match poison with
        | some da => ((s.setEsc fun e => { e with filling := none }).escUe da).escNeedFull dev step 3
        | none => s.setEsc fun e => { e with closing := some blk }

/-- ESCROW_BANK_SEAL (R365, R372): the digests are complete, unless the escrow's requests wait (R189). -/
def execEscrowBankSeal (s : State) : Res :=
  match s.esc.filling, s.esc.closing with
  | some b, some blk =>
    if s.escBusy then .next s
    else
    let es := s.bankEnts b
    let (dg, wdg) := shardDigests (s.imagesAt es (s.bankImages b))
    let s := s.escWr (s.bankDa b) (bankHdr s.esc.inStep s.esc.inBase (s.eff .ESC_CFG_SOURCE) 2 es.length dg wdg)
    let s := (s.escWr (s.bankDa b + 0x100000) blk).setBank b 2
    let t := s.esc.inStep
    let s := s.tc0All s.commitOthers (.sealed s.ownId t s.now)
    .next (s.setEsc fun e => { e with closing := none, seals := (s.ownId, t, s.now) :: e.seals })
  | _, _ => .next s

/-- SEALED_RECEIVE (R368, R326). -/
def execSealedReceive (dev step b lat : Nat) (s : State) : Res :=
  .next ((s.tc0In dev 9 lat).setEsc fun e => { e with seals := (dev, step, b) :: e.seals })

/-! ### The cut (R368, R357) -/

/-- The open escrow step ends without a cut: the filling bank is discarded. -/
def State.escDiscard (s : State) : State :=
  let s := match s.esc.filling with | some b => s.setBank b 0 | none => s
  let s := [0, 1].foldl (fun s b => if s.bankState b = 1 ∨ s.bankState b = 2 then s.setBank b 0 else s) s
  (s.setEsc fun e => { e with filling := none, closing := none, ignoring := false }).set .ESC_STATUS_OPEN 0

/-- The digest registers of the HELD bank (R378). -/
def State.setDigest (s : State) (dg : List Byte) : State :=
  (List.range 4).foldl (fun s k => s.set .ESC_DIGEST_DIGEST (field dg (8 * k) 8) 0 k) s

/-- A snapshot point X: cut or not (R368). -/
def State.snapshot (s : State) : State :=
  let rs := s.get .FAB_RESHARD_STATE
  if s.get .ESC_STATUS_OPEN = 0 ∨ s.get .ESC_STATUS_FROZEN = 1 ∨ rs = 1 ∨ rs = 2 ∨ rs = 3 then s
  else
    let t := s.get .ESC_STEPS_OPEN_STEP
    let inTime (b : Nat) : Bool := decide (b + s.lBeats ≤ s.now)
    let missing := s.commitAll.filter fun m => !(s.esc.seals.any fun x => x.1 == m && x.2.1 == t && inTime x.2.2)
    let frozen := s.esc.freezes.any fun f => inTime f.b
    let s := s.setEsc fun e => { e with seals := e.seals.filter fun x => x.2.1 != t }
    if missing.isEmpty ∧ !frozen then
      let held := s.heldBank
      let new := s.esc.filling.filter fun b => s.bankState b == 2
      let s := match held with | some h => s.setBank h 0 | none => s
      let s := match new with
        | some b => (s.setBank b 3).set .ESC_STEPS_HELD_STEP s.esc.inStep |>.setDigest (slice (s.escRd (s.bankDa b) 80) 16 32)
        | none => s
      let s := (s.setHome t 1 (sha3 (manifestBytes s.updSec))).clearRefresh
      let s := (s.setEsc fun e => { e with filling := none, needFull := false }).set .ESC_STATUS_OPEN 0
      s.log' s.stwSrc 0x6001 0 [(4, t), (1, new.getD 0)]
    else s.escDiscard.log' s.stwSrc 0x6002 1 ((4, t) :: missing.map fun m => (2, m))

/-- ESCROW_SNAPSHOT_POINT (R357, R368). -/
def execEscrowSnapshotPoint (s : State) : Res := .next s.snapshot

/-! ### Operations of ESC_CTL (R371 to R375, R378) -/

/-- An operation has ended with a RESULT; the interrupt of R496 goes with the rise of DONE. -/
def State.escResult (s : State) (r : Nat) : State :=
  let up := s.get .ESC_STATUS_DONE == 0
  let s := (s.set .ESC_STATUS_DONE 1).set .ESC_STATUS_RESULT r
  if up then s.irq 4 else s

/-- An operation is given while none is outstanding; else it is not executed and RESULT reads BUSY (R378). -/
def State.escOp (s : State) (f : State → State) : State :=
  if s.esc.receiving.isSome ∨ s.esc.waits.any (fun w => match w with | .op _ _ => true | _ => false) then s.set .ESC_STATUS_RESULT 1 else f ((s.set .ESC_STATUS_DONE 0).set .ESC_STATUS_RESULT 0)

/-- FREEZE (R369). -/
def State.escFreezeOp (s : State) : State := s.escOp fun s => (s.freezeSend 2 s.ownId).escResult 0

/-- DIGEST (R372); poison ends it (R378). -/
def State.escDigestOp (s : State) : State :=
  s.escOp fun s =>
    match s.escPoison ((manifest s.updSec).flatMap fun p => [(p.2.wDa, 2 * p.2.cnt), (p.2.sDa, p.2.recLen)]) with
    | some da => (s.escUe da).escResult 6
    | none =>
      let (dg, wdg) := shardDigests s.liveShard
      ((List.range 8).foldl (fun s k => s.set .ESC_LIVE_DIGEST_DIGEST (field (dg ++ wdg) (8 * k) 8) 0 k) s).escResult 0

/-- The chunks of the shard with their refresh bits set: entry index, entry, chunk. -/
def State.dirtyChunks (s : State) : List (Nat × UpdEnt × Nat) :=
  (manifest s.updSec).flatMap fun (i, e) =>
    ((List.range e.chunkCount).filter fun c => s.refreshBit 0 s.escImg ((entryPlace s.updSec i).2 + c)).map fun c => (i, e, c)

/-- What a rollback copies of an entry and chunk: home DA, live DA, bytes. The header goes with an entry's first chunk. -/
def State.rollRanges (s : State) (l : List (Nat × UpdEnt × Nat)) : List (Nat × Nat × Nat) :=
  l.flatMap fun (i, e, c) =>
    let home := s.homeDa + 0x300000 + (entryPlace s.updSec i).1
    let n := min chunkEls (e.cnt - c * chunkEls)
    (home + e.recOff, e.sDa, 64) :: (e.ranges (c * chunkEls) n).map fun (o, da, len) => (home + o, da, len)

/-- A rollback's bytes: the dirty chunks from their home copies, and the state block, whose generator it checks first (R373, R374). -/
def State.rollInto (s : State) (blk : List Byte) (rs : List (Nat × Nat × Nat)) : State :=
  match rngCheck blk with
  | none => (s.rngMismatch blk).escResult 4
  | some (rng, rew) => ((rs.foldl (fun s r => s.escWr r.2.1 (s.escRd r.1 r.2.2)) s).restoreBlock blk rng rew).escResult 0

/-- ROLLBACK (R373, R374). -/
def State.rollback (s : State) : State :=
  s.escOp fun s =>
    if s.get .ESC_STATUS_FROZEN = 0 then s.escResult 7
    else if s.get .ESC_STATUS_HOME = 0 then s.escResult 2
    else
      let blk := s.escRd (s.homeDa + s.homeSlot) blockLen
      let rs := s.rollRanges s.dirtyChunks
      match s.escPoison ((s.homeDa + s.homeSlot, blockLen) :: rs.map fun r => (r.1, r.2.2)) with
      | some da => (s.escUe da).escResult 6
      | none => s.rollInto blk rs

/-- Bytes that a SERVE sends: those of a poisoned block go as 0xFF, so that the digest fails (R178, R377) (DEDUCED, log entry 39). -/
def State.serveRd (s : State) (da n : Nat) : List Byte :=
  (s.escRd da n).zipIdx.map fun (b, i) => if (s.poisonDa escA s.escImg (da + i) 1).isSome then 0xff else b

/-- SERVE (R375): header, manifest, state block, entry images, on TC3. The header names the target of an earlier fill that did not end in
a thaw (R377). -/
def State.serve (s : State) (target : Nat) : State :=
  s.escOp fun s =>
    if s.get .ESC_STATUS_FROZEN = 0 then s.escResult 7
    else
      match s.heldBank with
      | none => s.escResult 2
      | some b =>
        let es := s.bankEnts b
        let prev := match s.esc.lastFill with | some t => if t = target then 0xffff else t | none => 0xffff
        let l := [(s.bankDa b, 80), (s.bankDa b + 4096, 32 * es.length), (s.bankDa b + 0x100000, blockLen), (s.bankImages b, imagesLen es)]
        let bad := s.escPoison l
        let parts := (l.map fun p => s.serveRd p.1 p.2).zipIdx.map fun (p, k) => if k = 0 then p ++ leBytes 2 prev else p
        let s := parts.zipIdx.foldl (fun s (p, k) => s.collSend target 3 (escHdr 13 0 0 k) p) s
        let n := (parts.map (·.length)).foldl (· + ·) 0
        let s := (s.setEsc fun e => { e with lastFill := some target }).set .ESC_FILL_BYTES n
        match bad with
        | some da => (s.escUe da).escResult 6
        | none => s.escResult 0

/-- RECEIVE (R375): the fill begins, unless a round has run since the last commit. -/
def State.receive (s : State) (target : Nat) : State :=
  s.escOp fun s =>
    if s.esc.ranRound then s.escResult 7
    else (s.setEsc fun e => { e with receiving := some target, fillHdr := [], fillBlock := [], fillGot := 0 }).set .ESC_FILL_BYTES 0

/-- A RECEIVE ends. -/
def State.fillEnd (s : State) (r : Nat) : State := (s.setEsc fun e => { e with receiving := none }).escResult r

/-- The bytes of entry images from an offset go to the live shard and, the same, to the home copy (R375). -/
def State.fillImages (s : State) (off : Nat) (bs : List Byte) : State :=
  let es := (manifest s.updSec).map (·.2)
  let put (s : State) (lo n da : Nat) : State :=
    let a := max off lo
    let z := min (off + bs.length) (lo + n)
    if z ≤ a then s else s.escWr (da + (a - lo)) (slice bs (a - off) (z - a))
  let s := es.zipIdx.foldl (fun s (e, k) =>
    let o := imagesOff es k
    put (put s o (2 * e.cnt) e.wDa) (o + e.recOff) e.recLen e.sDa) s
  s.escWr (s.homeDa + 0x300000 + off) bs

/-- The fill is complete: the home copy is valid, and the digests are compared (R375). -/
def State.fillDone (s : State) : State :=
  let hdr := s.esc.fillHdr
  let step := field hdr 0 4
  let s := s.escWr (s.homeDa + 0x100000) s.esc.fillBlock
  let s := (s.setHome step 1 (sha3 (manifestBytes s.updSec))).clearRefresh
  let (dg, _) := shardDigests s.liveShard
  let s := s.setDigest dg
  let s := if s.eff .ESC_CFG_ENABLE = 1 then s.tc0 (s.eff .ESC_CFG_SOURCE) (.needFull s.ownId) else s
  if dg = slice hdr 16 32 then s.fillEnd 0 else (s.log' s.stwSrc 0x6007 2 [(4, step), (4, 0)]).fillEnd 3

/-- A part of a fill's stream (R375): bytes of section 0 header, 1 manifest, 2 state block or 3 entry images, from an offset on, in order. -/
def State.takeFill (s : State) (dev sec off : Nat) (bs : List Byte) : State :=
  if s.esc.receiving ≠ some dev then s
  else
    let s := s.set .ESC_FILL_BYTES (s.get .ESC_FILL_BYTES + bs.length)
    match sec with
    | 0 =>
      let s := s.setEsc fun e => { e with fillHdr := bs }
      let prev := field bs 80 2
      (if bs.length ≥ 82 ∧ prev ≠ 0xffff then s.log' s.stwSrc 0x600D 1 [(2, prev), (2, s.ownId)] else s)
    | 1 =>
      let man := manifestBytes s.updSec
      if slice man off bs.length = bs ∧ man.length = 32 * field s.esc.fillHdr 12 4 then s
      else ((s.escRefused dev (field s.esc.fillHdr 0 4) 2).fillEnd 5)
    | 2 =>
      let blk := s.esc.fillBlock ++ bs
      let s := s.setEsc fun e => { e with fillBlock := blk }
      if blk.length < blockLen then s
      else
        match rngCheck blk with
        | none => ((s.rngMismatch blk).fillEnd 4)
        | some (rng, rew) => (s.restoreBlock blk rng rew)
    | _ =>
      let s := s.fillImages off bs
      let got := s.esc.fillGot + bs.length
      let s := s.setEsc fun e => { e with fillGot := got }
      (if got ≥ imagesLen ((manifest s.updSec).map (·.2)) then s.fillDone else s)

/-- THAW (R371). -/
def State.thawOp (s : State) : State :=
  s.escOp fun s =>
    let b := s.get .ESC_ARG_BEAT
    if s.get .ESC_STATUS_FROZEN = 0 ∨ b < s.now + s.lBeats then s.escResult 7
    else ((s.tc0All s.commitOthers (.thaw s.ownId b)).setEsc fun e => { e with thawAt := some b }).escResult 0

/-- THAW_RECEIVE (R371, R326). -/
def execThawReceive (dev beat lat : Nat) (s : State) : Res :=
  let s := s.tc0In dev 11 lat
  .next (if s.get .ESC_STATUS_FROZEN = 0 then s else s.setEsc fun e => { e with thawAt := some beat })

/-- The thaw beat: FROZEN is cleared (R371). -/
def State.thaw (s : State) : State :=
  match s.esc.thawAt with
  | some b =>
    if s.get .ESC_STATUS_FROZEN = 1 ∧ b ≤ s.now then
      (s.setEsc fun e => { e with thawAt := none, freezes := [], freezeAt := none, lastFill := none }).set .ESC_STATUS_FROZEN 0 |>.irq 5
    else s
  | none => s

/-- THAW_EFFECTIVE (R371). -/
def execThawEffective (s : State) : Res := .next s.thaw

/-- An operation that reads or writes the escrow's memory: it stays outstanding while its requests wait (R189, R378). -/
def State.escMem (s : State) (op target : Nat) (f : State → State) : State :=
  if s.escBusy then s.escOp fun s => s.setEsc fun e => { e with waits := e.waits ++ [.op op target] } else f s

/-- An operation of ESC_CTL by its code; a code without a meaning completes at once as REFUSED (R378). -/
def State.escCtl (s : State) (op target : Nat) : State :=
  match op with
  | 1 => s.escFreezeOp
  | 2 => s.escMem 2 0 fun s => s.rollback
  | 3 => s.escMem 3 target fun s => s.serve target
  | 4 => s.receive target
  | 5 => s.escMem 5 0 fun s => s.escDigestOp
  | 6 => s.thawOp
  | _ => s.escOp fun s => s.escResult 7

/-! ### What waits for memory (R189) -/

/-- An item of a stream, or an operation, is done now. -/
def State.escDo (s : State) (x : EscIn) : State :=
  match x with
  | .opening dev step base man => s.takeOpen dev step base man
  | .delta dev k part tile recs => s.takeDelta dev k part tile recs
  | .close dev step blk => s.takeClose dev step blk
  | .fill dev sec off bs => s.takeFill dev sec off bs
  | .op o target => s.escCtl o target

/-- An item of a stream waits behind what waits, and while the escrow's requests wait. -/
def State.escIn (s : State) (x : EscIn) : State :=
  if s.esc.waits ≠ [] ∨ s.escBusy then s.setEsc fun e => { e with waits := e.waits ++ [x] } else s.escDo x

/-- What waited goes on in order. -/
def State.escResume (s : State) : State :=
  let l := s.esc.waits
  l.foldl (fun s x => if s.esc.waits ≠ [] ∨ s.escBusy then s.setEsc fun e => { e with waits := e.waits ++ [x] } else s.escDo x)
    (s.setEsc fun e => { e with waits := [] })

/-- ESCROW_OPEN_RECEIVE (R365). -/
def execEscrowOpenReceive (dev step base : Nat) (man : List Byte) (s : State) : Res := .next (s.escIn (.opening dev step base man))

/-- ESCROW_DELTA_RECEIVE (R365). -/
def execEscrowDeltaReceive (dev k part tile : Nat) (recs : List Byte) (s : State) : Res := .next (s.escIn (.delta dev k part tile recs))

/-- ESCROW_CLOSE_RECEIVE (R365). -/
def execEscrowCloseReceive (dev step : Nat) (blk : List Byte) (s : State) : Res := .next (s.escIn (.close dev step blk))

/-- ESC_FILL_STREAM_RECEIVE (R375). -/
def execEscFillStreamReceive (dev sec off : Nat) (bs : List Byte) (s : State) : Res := .next (s.escIn (.fill dev sec off bs))

/-! ### Freeze, commit, loss -/

/-- At F: the part is frozen; ledger dies stop as R289 says, an open escrow step ends without a cut (R370). -/
def State.escFreeze (s : State) : State :=
  let s := ((s.setEsc fun e => { e with freezeAt := none }).set .ESC_STATUS_FROZEN 1).irq 5
  let s := (List.range s.ident.dies).foldl (fun s ld => s.updFreeze ld) s
  if s.get .ESC_STATUS_OPEN = 1 ∨ s.esc.filling.isSome then s.escDiscard else s

/-- What R377 compares across a commit: the ESC registers, section 0x0007 and the kind-4 regions. -/
def State.escKey (s : State) : List Byte :=
  let regs := [s.eff .ESC_CFG_ENABLE, s.eff .ESC_CFG_GROUP, s.eff .ESC_CFG_SOURCE, s.eff .ESC_CFG_INTERVAL, s.eff .ESC_HOME_BASE,
    s.eff .ESC_BANK_BASE, s.eff .ESC_HOME_LEN_LEN, s.eff .ESC_BANK_LEN_LEN].flatMap (leBytes 8)
  let rs := (regionsOf ((s.bank (unitLedger 0)).sec 4)).filter fun r => r.kind == 4
  regs ++ s.updSec ++ rs.flatMap fun r => [r.mode, r.home, r.base, r.len, r.loff].flatMap (leBytes 8)

/-- Escrow areas at a commit (R375, R377): kept where nothing they rest on has changed, their headers read again after a warm reset; else
empty. -/
def State.escCommit (s : State) : State :=
  let key := s.escKey
  let s := s.setEsc fun e => { e with ranRound := false }
  if s.eff .ESC_CFG_ENABLE = 0 then s.setEsc fun e => { e with areaKey := key, reread := false }
  else if key = s.esc.areaKey then
    if s.esc.reread then
      let h := s.escRd s.homeDa 8
      let bad := s.escPoison [(s.homeDa, 8)]
      let s := match bad with | some da => s.escUe da | none => s
      let s := (s.set .ESC_STATUS_HOME_STEP (field h 0 4)).set .ESC_STATUS_HOME (if bad.isSome then 0 else field h 4 4)
      let s := [0, 1].foldl (fun s b =>
        let x := s.escRd (s.bankDa b) 80
        let st := field x 10 1
        if st = 3 then ((s.setBank b 3).set .ESC_STEPS_HELD_STEP (field x 0 4)).setDigest (slice x 16 32) else s.setBank b 0) s
      s.setEsc fun e => { e with reread := false }
    else s
  else
    let s := (s.escDiscard.setHome 0 0 (List.replicate 32 0))
    let s := (s.setBank 0 0).setBank 1 0
    (s.set .ESC_STEPS_HELD_STEP 0).setEsc fun e => { e with areaKey := key, reread := false }

/-- What a part logs when a device of its commit group is lost (R377): the snapshots that go with it. Causes of EV_ESCROW_LOST: 0 the
partner that serves a fill, 1 a loss before the first cut. -/
def State.escLost (s : State) (dev : Nat) : State :=
  let fill := s.esc.receiving == some dev
  let s := if fill then (s.log' s.stwSrc 0x600B 2 [(2, s.ownId), (1, 0)]).fillEnd 2 else s
  if s.eff .ESC_CFG_ENABLE = 0 ∨ !s.commitAll.contains dev then s
  else if s.get .ESC_STATUS_HOME = 0 then (if fill then s else s.log' s.stwSrc 0x600B 2 [(2, dev), (1, 1)])
  else if pmPartner s.peerMap = some dev then s.log' s.stwSrc 0x600C 1 [(2, dev), (4, s.get .ESC_STATUS_HOME_STEP)]
  else s

end Sys2Proof.Machine
end

