-- ==== Sys2Proof/Machine/Arrive.lean ====
section
/-! DEFINITION. The transaction layer (R319 to R321): requests and responses that arrive, in SSEQ order. -/
namespace Sys2Proof.Machine

/-- Whether a device is a peer or a member of a group of the active map (R321). -/
def State.knows (s : State) (dev : Nat) : Bool :=
  s.peers.any (fun p => p.dev == dev) || (pmGroups s.peerMap).any fun g => g.members.contains dev

/-- Whether a request may reach one 64-byte block: an LPDDR6 region of kinds 1 to 7 or 9 of the active carve, or a shared granary
partition (R321). -/
def State.txnBlock (s : State) (da : Nat) : Bool :=
  let img := s.bank (unitLedger 0)
  if da < s.lpSize then
    decide (0x10000000 ≤ da) && decide (img.epoch ≠ 0) && (s.regionAt img da).any fun r => r.kind != 8 && within 1 r.kind 9
  else
    decide (0x40000000000 ≤ da ∧ da < 0x40000000000 + s.ident.dies * 0x80000000) &&
      (partsOf (img.sec 4)).any fun p =>
        let off := (da - 0x40000000000) % 0x80000000
        p.shared == 1 && p.die == (da - 0x40000000000) / 0x80000000 && decide (p.off ≤ off ∧ off < p.off + p.len)

/-- A request's alignment and length (R320): how many bytes it touches, if it is well formed. -/
def txnLen (p : Packet) : Option Nat :=
  match p.op with
  | 1 => if p.da % 8 = 0 ∧ p.payload.length % 8 = 0 ∧ p.payload.length ≤ 4096 then some p.payload.length else none
  | 2 => if p.len ≤ 4096 then some p.len else none
  | _ => if p.da % 8 = 0 then some 8 else none

/-- Why a request is refused (R321): 0 its sender is no peer or member, 1 its DA, 2 its alignment or length; none where it is
accepted (DEDUCED, log entry 35). -/
def State.txnFault (s : State) (p : Packet) : Option Nat :=
  if !s.knows p.src then some 0
  else match txnLen p with
    | none => some 2
    | some n => if (blocksOf p.da (max n 1)).all s.txnBlock then none else some 1

/-- A response in the class of its request (R320) (DEDUCED, log entry 35). -/
def State.respond (s : State) (p : Packet) (op operand : Nat) (bs : List Byte) : State :=
  s.sendPacket ⟨op, p.tc, p.src, 0, 0, p.tag, 0, operand, bs, none, none, 0, 0, 0⟩

/-- A refused request (R321): ERR_RESP for a READ or an atomic, nothing for a WRITE (DEDUCED, log entry 35). -/
def State.txnRefuse (s : State) (p : Packet) (cause : Nat) : State :=
  let s := s.log' s.fabSrc 0x5005 2 [(2, p.src), (1, p.op), (8, p.da), (1, cause)]
  if p.op = 1 then s else s.respond p 8 0 []

/-- The new value of an atomic's word (R320). FADD64 adds modulo 2^64; CAS64 compares with OPERAND and stores its payload. -/
def atomicNew (p : Packet) (old : Nat) : Nat :=
  match p.op with
  | 4 => (old + p.operand) % 2 ^ 64
  | 5 => if old = p.operand % 2 ^ 64 then field p.payload 0 8 else old
  | _ => p.operand % 2 ^ 64

/-- Whether a request waits: for a device that calibrates or is in self-refresh, for an earlier access that waits, or behind an earlier request
of its pair and class that does (R186, R187, R189, R320). -/
def State.txnWaits (s : State) (p : Packet) : Bool :=
  s.memBusy (s.bank (unitLedger 0)) p.da ((txnLen p).getD 0) ||
    s.clk.waitAcc.any fun w => w.pkt.any fun q => q.src == p.src && q.tc == p.tc

/-- A request is performed (R320, R321), or waits. A read of a poisoned block is answered by ERR_RESP (DEDUCED, log entry 35). -/
def State.txn (s : State) (p : Packet) : State :=
  match s.txnFault p with
  | some c => s.txnRefuse p c
  | none =>
    let img := s.bank (unitLedger 0)
    let a := s.collAgent
    if s.txnWaits p then s.waitFor ⟨a, p.da, b2n (p.op == 1), List.replicate ((txnLen p).getD 0) 0, none, some p⟩
    else if p.op = 1 then s.wrDa a img p.da p.payload
    else
      match s.poisonDa a img p.da ((txnLen p).getD 0) with
      | some da => (s.daUe s.fabSrc a img da).respond p 8 0 []
      | none =>
        if p.op = 2 then s.respond p 3 0 (s.rdDa a img p.da p.len)
        else
          let old := field (s.rdDa a img p.da 8) 0 8
          (s.wrDa a img p.da (leBytes 8 (atomicNew p old))).respond p 7 old []

/-- What a collective or escrow packet does (R329, R330, R354): a collective's or a re-shard's is taken here; a norm partial or an escrow
stream's is handed on to its unit. -/
def State.collArrive (s : State) (p : Packet) : State :=
  match p.coll with
  | some h =>
    if h.op ≤ 5 then s.collPacket p h
    else if within 7 h.op 9 then s.rshPacket p h
    else s.emit (.deliver p)
  | none => s

/-- A packet is handled by its OP (R319). -/
def State.perform (s : State) (p : Packet) : State :=
  if within 1 p.op 2 || within 4 p.op 6 then s.txn p
  else if p.op = 3 then s.emit (.txnDone p.tag true p.payload)
  else if p.op = 7 then s.emit (.txnDone p.tag true (leBytes 8 p.operand))
  else if p.op = 8 then s.emit (.txnDone p.tag false [])
  else if p.op = 0x11 then s.collArrive p
  else s

/-- The SSEQ that is due from a sender in a class (R320). -/
def State.sseqDue (s : State) (p : Packet) : Nat := KMap.get s.fab.rxSseq (p.src, p.tc) 0

/-- A packet whose SSEQ is due is handled. -/
def State.performDue (s : State) (p : Packet) : State :=
  ({ s with fab := { s.fab with rxSseq := KMap.set s.fab.rxSseq (p.src, p.tc) ((p.sseq + 1) % 2 ^ 32) } } : State).perform p

/-- Packets that came early are handled as their SSEQ comes due; fuel is their number. -/
def State.performEarly (s : State) : Nat → State
  | 0 => s
  | n + 1 =>
    match s.fab.early.find? fun p => p.sseq == s.sseqDue p with
    | none => s
    | some p =>
      let s := { s with fab := { s.fab with early := s.fab.early.filter (· != p) } }
      (s.performDue p).performEarly n

/-- A packet arrives (R320): in order it is handled, early it is kept, one that has been handled is discarded. A failed device discards
every packet (R521), and a packet for another device is not forwarded. -/
def State.arrive (s : State) (p : Packet) : State :=
  if s.fab.failed ∨ p.dst ≠ s.ownId then s
  else
    let s := s.wake 4
    let due := s.sseqDue p
    if p.sseq = due then (s.performDue p).performEarly s.fab.early.length
    else if (p.sseq + 2 ^ 32 - due) % 2 ^ 32 < 2 ^ 31 ∧ !s.fab.early.any (fun q => q.src == p.src && q.tc == p.tc && q.sseq == p.sseq) then
      { s with fab := { s.fab with early := s.fab.early ++ [p] } }
    else s

/-- A packet given to its row. -/
def State.packetRow (s : State) (op : Nat) (p : Packet) : Res := if p.op = op then .next (s.arrive p) else .fault .otherRow

/-- FABRIC_WRITE (R171, R319 to R321). -/
def execFabricWrite (p : Packet) (s : State) : Res := s.packetRow 1 p
/-- FABRIC_READ (R319 to R321). -/
def execFabricRead (p : Packet) (s : State) : Res := s.packetRow 2 p
/-- READ_RESP (R320). -/
def execReadResp (p : Packet) (s : State) : Res := s.packetRow 3 p
/-- FADD64 (R320, R321). -/
def execFadd64 (p : Packet) (s : State) : Res := s.packetRow 4 p
/-- CAS64 (R320, R321). -/
def execCas64 (p : Packet) (s : State) : Res := s.packetRow 5 p
/-- SWAP64 (R320, R321). -/
def execSwap64 (p : Packet) (s : State) : Res := s.packetRow 6 p
/-- ATOMIC_RESP (R320). -/
def execAtomicResp (p : Packet) (s : State) : Res := s.packetRow 7 p
/-- ERR_RESP (R321). -/
def execErrResp (p : Packet) (s : State) : Res := s.packetRow 8 p
/-- COLLECTIVE_PACKET_RECEIVE (R329, R330). -/
def execCollectivePacketReceive (p : Packet) (s : State) : Res := s.packetRow 0x11 p

end Sys2Proof.Machine
end

