-- ==== Sys2Proof/Machine/Rot.lean ====
section
/-! DEFINITION. The spare cluster: its rotation (R21, R22), the loss of a cluster (R23 to R26, R376), the die map that a commit
or a reload applies (R26), and the arm set that a loss changes (R41, R50). -/
namespace Sys2Proof.Machine

/-! ### Template slots -/

/-- The instance of a template that runs at the current beat, and the beats since it began (R68). -/
def State.tplPos (s : State) (t : List Byte) : Option (Nat × Nat) :=
  let b := s.beat.tplBeat + tplAnchor t
  if t = [] ∨ s.now < b then none else some ((s.now - b) / tplStep t, (s.now - b) % tplStep t)

/-- The template of a compute die's controller. -/
def State.dieTpl (s : State) (d : Nat) : List Byte := (s.bank (unitDie d)).sec 10

/-- The slots of a kind and target that begin at the current beat. -/
def State.slotsNow (s : State) (t : List Byte) (kind : Nat) : List Slot :=
  match s.tplPos t with
  | some (_, o) => (tplSlots t).filter fun x => x.kind == kind && x.start == o
  | none => []

/-- Whether a rotation slot of a die begins now (R21). -/
def State.rotSlot (s : State) (d : Nat) : Bool := (s.slotsNow (s.dieTpl d) 4).any fun x => x.target == d || x.target == 0xffff

/-! ### The arm set -/

/-- Whether a unit has armed (R52). -/
def State.armed (s : State) (u : Nat) : Bool := bit (s.get .STR_ARMED_UNITS 0 (u / 64)) (u % 64)

def State.setArmed (s : State) (u : Nat) (b : Bool) : State := s.setBit .STR_ARMED_UNITS (u % 64) b 0 (u / 64)

/-- A unit that is fenced: at a switch (R49), or with its cluster (R23). -/
def State.unitFenced (s : State) (u : Nat) : Bool :=
  s.str.fenced.contains u || (match unitKind u with | .clu d c => s.lost (16 * d + c) | _ => false)

/-- The arm set: every present unit that is not fenced (R41). -/
def State.armSet (s : State) : List Nat := (List.range 124).filter fun u => s.ident.unitOk u && !s.unitFenced u

/-- Units of the arm set that have not armed. -/
def State.unarmed (s : State) : List Nat := s.armSet.filter fun u => !s.armed u

/-- The source of the STR agent's and arbiter's events. -/
def State.strSrc (s : State) : Nat := srcHub s.inCharge 4

/-- MISSING follows the arm set; in LOADING, once every unit of the set has armed, the state becomes PREPARED (R41). -/
def State.syncMissing (s : State) : State :=
  let st := s.get .STR_STATUS_STATE
  if st = 0 ∨ st = 4 ∨ s.get .STR_EPOCH_PENDING = 0 then s
  else
    let n := s.unarmed.length
    let s := s.set .STR_STATUS_MISSING n
    if st = 1 ∧ n = 0 then
      ((s.set .STR_STATUS_STATE 2).log' s.strSrc 0x7002 0
        [(4, s.get .STR_EPOCH_PENDING), (4, s.armSet.length)]).irq 3
    else s

/-! ### Memory of a cluster -/

/-- Every memory and tile of a physical cluster reads +0 (R376); clu is 16 x die + cluster. -/
def State.zeroClu (s : State) (clu : Nat) : State :=
  let mem := (List.range 8).foldl (fun m k => Mem.zero m (coreLoc (8 * clu + k) 0) (2 ^ 24)) s.mem
  ({ s with mem := Mem.zero mem (cluLoc clu 0) (2 ^ 24) } : State).unpoison (coreLoc (8 * clu) 0) (8 * 2 ^ 24)
    |>.unpoison (cluLoc clu 0) (2 ^ 24)

/-- The poisoned blocks of a range, moved to another place, replace those there. -/
def movePoison (ps : List Nat) (src dst n : Nat) : List Nat :=
  let moved := (ps.filter fun b => decide (src ≤ b ∧ b < src + n)).map fun b => b - src + dst
  moved.foldl insertBlock (ps.filter fun b => !(decide (dst ≤ b) && decide (b < dst + n)))

/-- One cluster's memories copied to another's (R21): core and accumulator memory, and cluster memory. -/
def State.copyClu (s : State) (src dst : Nat) : State :=
  let one (x : State) (a b n : Nat) : State := { x with mem := Mem.copy x.mem a b n, poison := movePoison x.poison a b n }
  let s := (List.range 8).foldl (fun x k => one x (coreLoc (8 * src + k) 0) (coreLoc (8 * dst + k) 0) 0x480000) s
  one s (cluLoc src 0) (cluLoc dst 0) (2 ^ 24)

/-! ### Tests on a spare (R450) -/

/-- Whether logic BIST runs on a physical cluster. -/
def State.bistOn (s : State) (clu : Nat) : Bool := s.rst.running && s.rst.test == some (1, clu / 16 * 16 + clu % 16)

/-- A request of RST_TEST_OP ends with a status (R447, R451). -/
def State.testEnd (s : State) (st : Nat) : State :=
  (((({ s with rst := { s.rst with test := none, running := false, deferred := false, calWait := none } } : State).set
    .RST_TEST_RES_DONE 1).set .RST_TEST_RES_PENDING 0).set .RST_TEST_RES_STATUS st).irq 7

/-- A BIST on a physical cluster ends ABANDONED, and the cluster is zeroed (R450). -/
def State.bistAbandon (s : State) (clu : Nat) : State := if s.bistOn clu then (s.testEnd 4).zeroClu clu else s

/-! ### Rotation -/

/-- The die record of the active image of a die's controller: the section and the record's offset (R518). -/
def State.dieRec (s : State) (d : Nat) : Option (List Byte × Nat) :=
  let b := (s.bank (unitDie d)).sec 1
  if b = [] then none else (dieRecAt b d).map fun o => (b, o)

/-- The new spare of a rotation: the first physical cluster after p, cyclically, that is not lost (R21). -/
def State.nextSpare (s : State) (d p : Nat) : Option Nat :=
  ((List.range 12).map fun k => (p + 1 + k) % 13).find? fun q => !s.lost (16 * d + q)

/-- Whether a die controller may begin a rotation now (R21, R22, R50, R425): not while it is armed for a change of mode that has neither
committed nor aborted (DEDUCED, log entry 21). -/
def State.rotMay (s : State) (d : Nat) : Bool :=
  let p := s.get .DCTL_CLMAP_SPARE d
  s.rotSlot d && (s.die d).rot.isNone && (s.die d).rotBeat != some s.now && decide (p < 13) && !s.bistOn (16 * d + p) &&
    (!s.armed (unitDie d) || s.str.abortSince) && !s.clk.gates.any (fun n => n / 4096 == 2 && n % 4096 / 512 == d) &&
    (match s.dieRec d with | some (b, o) => field b (o + 1) 1 == 1 | none => false)

/-- A rotation begins: the new spare is picked, and the die controller waits for its logical cluster to drain (R21) (DEDUCED, log entry 21). -/
def State.rotStart (s : State) (d : Nat) : State :=
  let p := s.get .DCTL_CLMAP_SPARE d
  if s.rotMay d then
    match s.nextSpare d p with
    | some q =>
      match s.logClu d q with
      | some l => s.setDie d { s.die d with rot := some (q, p, l, false), rotBeat := some s.now }
      | none => s
    | none => s
  else s

/-- Whether no descriptor is outstanding on a physical cluster. -/
def State.cluDrained (s : State) (clu : Nat) : Bool := (List.range 8).all fun k => (s.core (8 * clu + k)).held.isEmpty

/-- The copy of R21: made once the source cluster has drained. -/
def State.rotCopy (s : State) (d : Nat) : State :=
  match (s.die d).rot with
  | some (q, p, l, false) =>
    if s.cluDrained (16 * d + q) then
      (s.copyClu (16 * d + q) (16 * d + p)).setDie d { s.die d with rot := some (q, p, l, true) }
    else s
  | _ => s

/-- The logical cluster l of a die moves to physical cluster p. -/
def State.setLog (s : State) (d l p : Nat) : State :=
  s.set .DCTL_CLMAP_LOG (putBits (s.get .DCTL_CLMAP_LOG d) (4 * l + 3) (4 * l) p) d

/-! ### Loss of a cluster -/

/-- The window unit, the KV walker and the glean unit of a physical cluster hold nothing. -/
def State.idleUnits (s : State) (clu : Nat) : State :=
  let s : State := { s with win := KMap.erase s.win clu, kvw := KMap.erase s.kvw clu }
  [Field.WIN_STATUS_HELD, .WIN_STATUS_GATHERING, .WIN_STATUS_RUNNING, .WIN_CREDIT_CREDIT, .KVW_STATUS_WALKS, .KVW_STATUS_BUSY,
    .KVW_STATUS_HELD_EPOCH, .GLN_STATUS_BUSY].foldl (fun s f => s.set f 0 clu) s

/-- What a fenced cluster loses: its cores and its units abandon every descriptor (R23, R135), and its unit leaves the arm set (R50)
(DEDUCED, log entry 21). -/
def State.fenceClu (s : State) (clu : Nat) : State :=
  let s := s.setBit .DCTL_CLSTAT_LOST (clu % 16) true (clu / 16)
  let s := (List.range 8).foldl (fun s k =>
    (s.setCore (8 * clu + k) { s.core (8 * clu + k) with
      held := [], wait := .none, sigs := [], stall := none, steerWait := [], accWait := [] }).syncMxe (8 * clu + k)) s
  ((s.idleUnits clu).syncBusy (clu / 16)).syncMissing

/-- The map of a two-cluster variant (R24, R518): that of the pair in the die's record, or, under the reset structure, which has
no variants, the present map with the logical clusters of lost physical ones absent. -/
def State.variantMap (s : State) (d : Nat) : Nat :=
  let lost := (List.range 13).filter fun p => s.lost (16 * d + p)
  match s.dieRec d with
  | some (b, o) =>
    match ((variantOffs b (o + 32) 78).zip lostPairs).find? fun v => [v.2.1, v.2.2] == lost with
    | some v => field b (v.1 + 8) 8 % 2 ^ 48
    | none => 2 ^ 48 - 1
  | none =>
    (List.range 12).foldl (fun m l =>
      match s.physClu d l with
      | some p => if s.lost (16 * d + p) then putBits m (4 * l + 3) (4 * l) 15 else m
      | none => m) (s.get .DCTL_CLMAP_LOG d)

/-- A die map takes effect: the map, the spare (15 for none) and STATE. -/
def State.putMap (s : State) (d map spare st : Nat) : State :=
  ((s.set .DCTL_CLMAP_LOG map d).set .DCTL_CLMAP_SPARE spare d).set .DCTL_CLSTAT_STATE st d

/-- Physical clusters whose logical cluster differs under two maps, and that hold one under the new map. -/
def moved (old new : Nat) : List Nat :=
  (List.range 13).filter fun p =>
    let at' (m : Nat) := (List.range 12).find? fun l => bits m (4 * l + 3) (4 * l) == p
    (at' new).isSome && at' new != at' old

/-- The variant takes effect (R24, R376): the clusters that take a logical number start from +0, and the fill starts again. -/
def State.applyVariant (s : State) (d : Nat) : State :=
  let new := s.variantMap d
  let mv := moved (s.get .DCTL_CLMAP_LOG d) new
  let s := s.putMap d new 15 2
  mv.foldl (fun s p => (s.bistAbandon (16 * d + p)).zeroClu (16 * d + p)) s

/-- EV_CLU_LOST and its like (R23, R24). Their payloads are not given: the die and the physical cluster. -/
def State.cluEv (s : State) (clu code sev : Nat) : State := s.log' (srcDie (clu / 16) 0) code sev [(1, clu / 16), (1, clu % 16)]

/-- Whether the spare is what failed: a loss that moves no logical cluster (R25, R449). -/
def State.spareLost (s : State) (clu : Nat) : State := (s.set .DCTL_CLMAP_SPARE 15 (clu / 16)).set .DCTL_CLSTAT_STATE 1 (clu / 16)

/-- What follows the fence of the n-th cluster that a die loses, no rotation being under way (R23, R24) (DEDUCED, log entry 21). -/
def State.loseAs (s : State) (clu n : Nat) : State :=
  let d := clu / 16
  let sp := s.get .DCTL_CLMAP_SPARE d
  match n with
  | 1 =>
    match s.logClu d (clu % 16) with
    | some l =>
      if sp < 13 ∧ !s.lost (16 * d + sp) then
        let s := s.bistAbandon (16 * d + sp)
        let s := ((s.setLog d l sp).set .DCTL_CLMAP_SPARE 15 d).set .DCTL_CLSTAT_STATE 1 d
        (((s.zeroClu (16 * d + sp)).set .DCTL_CLSTAT_FILL 1 d).cluEv clu 0xb012 2).freezeSend 1 clu
      else ((s.setLog d l 15).cluEv clu 0xb012 2).freezeSend 1 clu
    | none => (s.spareLost clu).cluEv clu 0xb012 2
  | 2 => (((s.applyVariant d).set .DCTL_CLSTAT_FILL 1 d).cluEv clu 0xb013 2).freezeSend 1 clu
  | _ =>
    let s := (s.set .DCTL_CLSTAT_STATE 3 d).cluEv clu 0xb014 3
    ({ s with clk := { s.clk with stopped := true } } : State).failDevice

/-! ### The map of a commit or a reload (R26) -/

/-- The map that the active image gives a die under its LOST bits: the logical map, the spare and STATE. -/
def State.imageMap (s : State) (d : Nat) : Nat × Nat × Nat :=
  match s.dieRec d with
  | none => (s.get .DCTL_CLMAP_LOG d, s.get .DCTL_CLMAP_SPARE d, s.get .DCTL_CLSTAT_STATE d)
  | some (b, o) =>
    let m := field b (o + 8) 8 % 2 ^ 48
    let sp := field b (o + 2) 1
    match (List.range 13).filter fun p => s.lost (16 * d + p) with
    | [] => (m, sp, 0)
    | [p] =>
      match (List.range 12).find? fun l => bits m (4 * l + 3) (4 * l) == p with
      | some l => (putBits m (4 * l + 3) (4 * l) sp, 15, 1)
      | none => (m, 15, 1)
    | [_, _] => (s.variantMap d, 15, 2)
    | _ => (s.get .DCTL_CLMAP_LOG d, 15, 3)

/-- The die map of the active image takes effect (R26, R44, R50). The logical cluster that R26 moves starts from +0 (R376); one that sits on
the primary map's spare already does not move (DESIGN CHOICE, log entry 57). A test on a cluster that becomes active is abandoned (R450). -/
def State.mapNow (s : State) (d : Nat) : State :=
  let old := s.get .DCTL_CLMAP_LOG d
  let (m, sp, st) := s.imageMap d
  let s := s.putMap d m sp st
  let s := ((List.range 12).filterMap (s.physClu d)).foldl (fun s p => s.bistAbandon (16 * d + p)) s
  match s.dieRec d, (List.range 13).filter fun p => s.lost (16 * d + p) with
  | some (b, o), [p] =>
    let sp0 := field b (o + 2) 1
    if sp0 ≠ p ∧ (moved old m).contains sp0 then s.zeroClu (16 * d + sp0) else s
  | _, _ => s

/-- A rotation has ended, or none was under way: clusters of the die that are fenced already are handled as its losses, in the order of the
list; then a map that waited takes effect. -/
def State.loseAll (s : State) (d : Nat) (l : List Nat) : State :=
  let k := popCount (s.get .DCTL_CLSTAT_LOST d) 13 - l.length
  let due := (s.die d).mapDue
  let s := s.setDie d { s.die d with rot := none, lossWait := [], mapDue := false }
  let s := l.zipIdx.foldl (fun s e => s.loseAs e.1 (k + e.2 + 1)) s
  if due then s.mapNow d else s

/-- The end of a rotation: the new map, ROT_COUNT and EV_SPARE_ROTATE (R21); then losses that waited for it (R25). The event's payload
is not given: die, new spare, logical cluster. -/
def State.rotComplete (s : State) (d : Nat) : State :=
  match (s.die d).rot with
  | some (q, p, l, true) =>
    let s := ((s.setLog d l p).set .DCTL_CLMAP_SPARE q d).bump .DCTL_CLSTAT_ROT_COUNT 1 d
    (s.log' (srcDie d 0) 0xb011 0 [(1, d), (1, q), (1, l)]).loseAll d (s.die d).lossWait
  | _ => s

/-- A cluster fails (R23 to R25). A rotation under way is abandoned where its source or destination failed; otherwise the copy is
completed first, and the loss is handled with q as the spare: at once where q has drained, else when the rotation completes
(DEDUCED, log entry 21). -/
def State.clusterLost (s : State) (clu : Nat) : State :=
  if s.lost clu then s
  else
    let d := clu / 16
    let s := s.fenceClu clu
    let l := (s.die d).lossWait ++ [clu]
    match (s.die d).rot with
    | some (q, p, _, _) =>
      if clu % 16 = q ∨ clu % 16 = p then s.loseAll d l
      else ((s.setDie d { s.die d with lossWait := l }).rotCopy d).rotComplete d
    | none => s.loseAll d l

/-- The die map of a commit or a reload. A rotation in progress completes first (R70): at once where its source has drained, else the map takes
effect when the rotation ends (DESIGN CHOICE, log entry 57). -/
def State.applyMap (s : State) (d : Nat) : State :=
  let s := s.setDie d { s.die d with mapDue := true }
  match (s.die d).rot with
  | none => s.loseAll d (s.die d).lossWait
  | some _ => (s.rotCopy d).rotComplete d

/-! ### Commands -/

/-- A guard on the compute die of a command. -/
def State.onDie (s : State) (d : Nat) (f : State → State) : Res := onUnit (s.dieOk d) (.next (f s))

/-- SPARE_ROTATION_START (R21, R22): at a rotation slot; elsewhere, and while a rotation may not begin, nothing happens. -/
def execSpareRotationStart (die : Nat) (s : State) : Res := s.onDie die fun s => s.rotStart die

/-- SPARE_ROTATION_COPY (R21) (DESIGN CHOICE, log entry 7). -/
def execSpareRotationCopy (die : Nat) (s : State) : Res := s.onDie die fun s => s.rotCopy die

/-- SPARE_ROTATION_COMPLETE (R21) (DESIGN CHOICE, log entry 7). -/
def execSpareRotationComplete (die : Nat) (s : State) : Res := s.onDie die fun s => s.rotComplete die

/-- CLUSTER_LOST (R23 to R25, R376): physical cluster clu of a die fails. -/
def execClusterLost (die clu : Nat) (s : State) : Res :=
  onUnit (s.cluOk (16 * die + clu) && decide (clu < 16)) (.next (s.clusterLost (16 * die + clu)))

/-- FILL_DONE (R376): a write of 1 to DCTL_FILL.DONE. -/
def execFillDone (die : Nat) (s : State) : Res := s.onDie die fun s => s.set .DCTL_CLSTAT_FILL 0 die

end Sys2Proof.Machine
end

