-- ==== Sys2Proof/Machine/Link.lean ====
section
/-! DEFINITION. The link layer (R313 to R318, R322), ports that train, degrade and go down (R317, R318, R336), and the loss of a peer
(R65, R336). -/
namespace Sys2Proof.Machine

/-! ### The loss of a peer -/

/-- A peer is declared lost (R65, R336): causes 0 heartbeats missing, 1 every port down. Collectives, a re-shard and escrow that need it
end, and a commit-group member starts the failure freeze. -/
def State.peerLost (s : State) (dev cause : Nat) : State :=
  if s.beat.lostPeers.contains dev then s
  else
    let heard := (KMap.get s.beat.heard dev (0, 0)).1
    let s := ({ s with beat := { s.beat with lostPeers := dev :: s.beat.lostPeers } } : State).log' s.fabSrc 0x5010 2
      [(2, dev), (1, cause), (8, heard)]
    let s := ((s.collLost dev).rshLost dev).escLost dev
    if s.commitOthers.contains dev then s.freezeSend 0 dev else s

/-! ### Ports -/

/-- Lanes in use, as a list. -/
def State.lanes (s : State) (p : Nat) : List Nat := bitList (s.get .FAB_PORT_ACTIVE 0 p) 4

/-- Whether a port's partner agrees with the committed port masks (R318); else the device that was expected there, 0xFFFF for none. -/
def State.miswired (s : State) (p dev : Nat) : Option Nat :=
  if (s.bank s.fabUnit).epoch = 0 then none
  else
    match s.peers.find? fun e => e.tiers == 0 && bit e.ports p with
    | some e => if e.dev = dev then none else some e.dev
    | none => if s.peers.any fun e => e.tiers == 0 && e.dev == dev then some 0xffff else none

/-- EV_FAB_MISWIRE (R318, R338) (DEDUCED, log entry 34). -/
def State.miswireEv (s : State) (p dev pport exp : Nat) : State :=
  s.log' (srcPort p) 0x5004 2 [(1, p), (2, dev), (1, pport), (2, exp)]

/-- The packets that a port holds and that its partner has not acknowledged: of frames, of the packet in progress, and those that wait,
each once and oldest first. -/
def PortSt.unsent (x : PortSt) : List Packet :=
  let fs := x.replay.flatMap fun f => f.pieces.map (·.pkt)
  let l := fs ++ (x.part.map (·.1)).toList ++ x.copies.map (·.1) ++ x.txq.flatMap (·.2)
  l.foldl (fun acc p => if acc.contains p then acc else acc ++ [p]) []

/-- A packet that a port could not finish waits at another port that reaches its device (R336). -/
def State.requeue (s : State) (p : Packet) : State :=
  match s.pickPort p.dst p.tc with
  | some q => s.portPut q p
  | none => s

/-- A link's measured delay and the time of its last request end with the link (R61). -/
def State.forgetDelay (s : State) (p : Nat) : State :=
  { s with beat := { s.beat with delay := KMap.erase s.beat.delay p, delayAt := KMap.erase s.beat.delayAt p } }

/-- A port goes down (R336, R337): causes 0 lanes lost, 1 retrain, 2 disable. What it had not sent goes to the other ports that reach
the same device; a direct peer with no port left is lost at once (DEDUCED, log entry 34). -/
def State.portDown (s : State) (p cause : Nat) : State :=
  let up := s.portUp p
  let x := s.port p
  let dev := s.get .FAB_PORT_PEER 0 p
  let s := ((s.setPort p PortSt.init).forgetDelay p).set .FAB_PORT_STATE 0 0 p
  let s := s.set .FAB_PORT_ACTIVE 0 0 p
  if !up then s
  else
    let s := s.log' (srcPort p) 0x5002 1 [(1, p), (2, dev), (1, cause)]
    let s := x.unsent.foldl (fun s q => s.requeue q) s
    (s.peers.filter fun e => e.tiers == 0 && bit e.ports p).foldl (fun s e =>
      if (bitList e.ports s.ident.ports).any s.portUp then s else s.peerLost e.dev 1) s

/-- Whether a port exists: 0 to 15 on the A8, 0 to 7 on the A4, 0 to 3 on the A2 (R312). -/
def State.portOk (s : State) (p : Nat) : Bool := decide (p < s.ident.ports)

/-- PORT_DOWN (R336). -/
def execPortDown (port cause : Nat) (s : State) : Res := onUnit (s.portOk port) (.next (s.portDown port cause))

/-- Whether a port may train: it is not disabled, its fibre-attach block is latched, and its optics run (R337, R421, R427, R515);
its hub is not in reset, and its optics do not recalibrate (R440, R447). -/
def State.mayTrain (s : State) (p : Nat) : Bool :=
  !bit (s.get .FAB_PORT_CTL_DISABLE) p && !s.fab.unlatched.contains (p / 4) && !s.clk.stopped && s.get .PWR_STATE_CURRENT != 4 &&
    !s.rst.inReset.contains (32 + s.portHub p) && !(s.rst.running && s.rst.test == some (3, p))

/-- The lanes that a port uses of those that hold lock: all 4, else the lowest 2, else 1 (R317). -/
def useLanes (m : Nat) : Nat :=
  match bitList m 4 with
  | [_, _, _, _] => 15
  | a :: b :: _ => 2 ^ a + 2 ^ b
  | [a] => 2 ^ a
  | [] => 0

/-- Ports that are down and may train start to (R318, R441): at start-up, and as a hub or the part comes back. -/
def State.startPorts (s : State) : State :=
  (List.range s.ident.ports).foldl (fun s p =>
    if s.get .FAB_PORT_STATE 0 p = 0 ∧ s.mayTrain p then s.set .FAB_PORT_STATE 1 0 p else s) s

/-- A port that trains has done so (R315, R317, R318): it has met port pport of device dev, with a mask of lanes that hold lock and the
credits in granules that its partner gives TC1 to TC3; TC0's are 8 KiB (DEDUCED, log entry 34). -/
def State.portTrain (s : State) (p dev pport m c1 c2 c3 : Nat) : State :=
  if !s.mayTrain p ∨ s.get .FAB_PORT_STATE 0 p ≠ 1 ∨ useLanes m = 0 then s
  else
    let n := (bitList (useLanes m) 4).length
    let s := ((s.set .FAB_PORT_PEER dev 0 p).set .FAB_PORT_PEER_PORT pport 0 p).set .FAB_PORT_ACTIVE (useLanes m) 0 p
    let s := s.setPort p { PortSt.init with healthy := m % 16, credits := [(0, 256), (1, c1), (2, c2), (3, c3)] }
    match s.miswired p dev with
    | some e => (s.set .FAB_PORT_STATE 4 0 p).miswireEv p dev pport e
    | none => (s.set .FAB_PORT_STATE (if n = 4 then 2 else 3) 0 p).log' (srcPort p) 0x5001 0 [(1, p), (2, dev), (1, n)]

/-- PORT_TRAINING (R318). -/
def execPortTraining (port dev pport lanes c1 c2 c3 : Nat) (s : State) : Res :=
  onUnit (s.portOk port) (.next (s.portTrain port dev pport lanes c1 c2 c3))

/-- The port masks of a new map are checked again (R318, R336). -/
def State.recheckPorts (s : State) : State :=
  (List.range s.ident.ports).foldl (fun s p =>
    let st := s.get .FAB_PORT_STATE 0 p
    let dev := s.get .FAB_PORT_PEER 0 p
    if st = 2 ∨ st = 3 ∨ st = 4 then
      match s.miswired p dev with
      | some e => if st = 4 then s else (s.set .FAB_PORT_STATE 4 0 p).miswireEv p dev (s.get .FAB_PORT_PEER_PORT 0 p) e
      | none => if st = 4 then s.set .FAB_PORT_STATE (if (s.lanes p).length = 4 then 2 else 3) 0 p else s
    else s) s

/-- A RETRAIN bit retrains a port on all its lanes (R317, R337): it goes down and trains. -/
def State.retrain (s : State) (p : Nat) : State :=
  if s.mayTrain p then (s.portDown p 1).set .FAB_PORT_STATE 1 0 p else s

/-- A write of FAB_PORT_CTL.RETRAIN. -/
def State.retrainAll (s : State) (mask : Nat) : State := (bitList mask s.ident.ports).foldl (fun s p => s.retrain p) s

/-- PORT_RETRAIN (R317). -/
def execPortRetrain (_by : Agent) (mask : Nat) (s : State) : Res := .next (s.retrainAll mask)

/-- A write of FAB_PORT_CTL.DISABLE (R337): a bit that is set holds its port down in state DISABLED; a port whose bit clears is DOWN until
it is retrained (DEDUCED, log entry 34). -/
def State.portDisable (s : State) (mask : Nat) : State :=
  let old := s.get .FAB_PORT_CTL_DISABLE
  let s := s.set .FAB_PORT_CTL_DISABLE (mask % 65536)
  (List.range s.ident.ports).foldl (fun s p =>
    if bit mask p ∧ !bit old p then (s.portDown p 2).set .FAB_PORT_STATE 5 0 p
    else if !bit mask p ∧ bit old p then s.set .FAB_PORT_STATE 0 0 p
    else s) s

/-- PORT_DISABLE (R337). -/
def execPortDisable (_by : Agent) (mask : Nat) (s : State) : Res := .next (s.portDisable mask)

/-- A port goes over to the lanes that hold lock (R317): 2 of them or 1; with none left it is down. It sends again what is not acknowledged,
once both ends have agreed on the SEQ at which they change over. -/
def State.laneChange (s : State) (p healthy : Nat) (heard : Bool) : State :=
  let m := useLanes healthy
  if m = 0 then s.portDown p 0
  else
    let x := s.port p
    let q := match x.replay with | f :: _ => f.seq | [] => x.seq
    ((s.setPort p { x with healthy, change := some (q, heard), resend := x.replay, bad := [], corr := [] }).set
      .FAB_PORT_ACTIVE m 0 p).set .FAB_PORT_STATE 3 0 p

/-- A lane is dropped (R317): causes 0 lock lost, 1 frames uncorrectable, 2 corrected symbols. A lane that is not in use may no longer be
used. -/
def State.laneDrop (s : State) (p lane cause : Nat) : State :=
  if !s.portUp p then s
  else
    let x := s.port p
    let h := putBit x.healthy lane false
    if !(s.lanes p).contains lane then s.setPort p { x with healthy := h }
    else
      let s := s.bump .FAB_PORT_DEGRADES 1 0 p
      let s := s.log' (srcPort p) 0x5003 1 [(1, p), (1, lane), (1, useLanes h), (1, cause)]
      s.laneChange p h false

/-- LANE_DROP (R317). -/
def execLaneDrop (port lane cause : Nat) (s : State) : Res := onUnit (s.portOk port && decide (lane < 4)) (.next (s.laneDrop port lane cause))

/-! ### Sending a frame (R313 to R316, R322) -/

/-- A frame that is being filled: the port, the pieces, the granules that are free, the first header's granule, and whether a message
has been found that the shaper delays. -/
structure FrameFill where
  x : PortSt
  pieces : List Piece
  free : Nat
  first : Nat
  delayed : Bool
deriving DecidableEq, Repr

/-- A packet, or its start, goes into the frame; paid granules come off the class's credits (R315). -/
def FrameFill.place (b : FrameFill) (p : Packet) (paid : Nat) : FrameFill :=
  let n := min b.free (pktGranules p)
  { b with
    x := { b.x with
      part := if n < pktGranules p then some (p, n) else none
      credits := KMap.set b.x.credits p.tc (KMap.get b.x.credits p.tc 0 - paid) }
    pieces := b.pieces ++ [⟨p, 0, n⟩], free := b.free - n, first := if b.first = 31 then 25 - b.free else b.first }

/-- The packet in progress goes on. -/
def FrameFill.goOn (b : FrameFill) : FrameFill :=
  match b.x.part with
  | none => b
  | some (p, k) =>
    let n := min b.free (pktGranules p - k)
    { b with x := { b.x with part := if k + n < pktGranules p then some (p, k + n) else none }, pieces := b.pieces ++ [⟨p, k, n⟩],
             free := b.free - n }

/-- Second copies of TC0 packets go on another lane, or in the next frame of a port with one lane (R316); their granules were paid with the
first's; fuel is their number. -/
def FrameFill.second (b : FrameFill) (lane : Nat) (single : Bool) : Nat → FrameFill
  | 0 => b
  | n + 1 =>
    match b.x.copies.find? fun c => (single || c.2 != lane) && decide (pktGranules c.1 ≤ b.free) with
    | some c => (({ b with x := { b.x with copies := b.x.copies.filter (· != c) } } : FrameFill).place c.1 0).second lane single n
    | none => b

/-- TC0 packets, through the shaper (R322); a packet that lacks room waits for the next frame, and so does all behind it (R314). Credits for
both copies are held first (R315, R316). The Bool says whether other classes may follow. -/
def FrameFill.urgent (b : FrameFill) (lane : Nat) : Nat → FrameFill × Bool
  | 0 => (b, true)
  | n + 1 =>
    match KMap.get b.x.txq 0 [] with
    | [] => (b, true)
    | p :: ps =>
      if KMap.get b.x.credits 0 0 < 2 * pktGranules p then (b, true)
      else if b.x.bucket < 32 * (pktGranules p) then ({ b with x := { b.x with shaped := true }, delayed := b.delayed || !b.x.shaped }, true)
      else if b.free < pktGranules p then (b, false)
      else
        let x := { b.x with
          txq := KMap.set b.x.txq 0 ps, bucket := b.x.bucket - 32 * (pktGranules p), shaped := false, copies := b.x.copies ++ [(p, lane)] }
        (({ b with x := x } : FrameFill).place p (2 * pktGranules p)).urgent lane n

/-- Whether a class has a packet whose granules are all in credit (R315). -/
def PortSt.canSend (x : PortSt) (tc : Nat) : Option Packet :=
  match KMap.get x.txq tc [] with
  | p :: _ => if pktGranules p ≤ KMap.get x.credits tc 0 then some p else none
  | [] => none

/-- The class served next (R322): one that an open window owes bandwidth, else round-robin from the class served last. The Bool says
which. -/
def PortSt.nextClass (x : PortSt) : Option (Nat × Bool) :=
  match [1, 2, 3].find? fun c => decide (0 < KMap.get x.share c 0) && (x.canSend c).isSome with
  | some c => some (c, true)
  | none =>
    (([x.rr % 3 + 1, (x.rr + 1) % 3 + 1, (x.rr + 2) % 3 + 1]).find? fun c => (x.canSend c).isSome).map fun c => (c, false)

/-- Packets of TC1 to TC3 fill the frame. On a port with one lane a packet that would run into the next frame waits while a second copy is
due there (R316). -/
def FrameFill.bulk (b : FrameFill) (single : Bool) : Nat → FrameFill
  | 0 => b
  | n + 1 =>
    if b.free = 0 ∨ b.x.part.isSome then b
    else
      match b.x.nextClass with
      | none => b
      | some (c, owed) =>
        match KMap.get b.x.txq c [] with
        | [] => b
        | p :: ps =>
          if single && !b.x.copies.isEmpty && decide (b.free < pktGranules p) then b
          else
            let x := { b.x with
              txq := KMap.set b.x.txq c ps
              share := if owed then KMap.set b.x.share c (KMap.get b.x.share c 0 - 1024 * (pktGranules p)) else b.x.share
              rr := if owed then b.x.rr else c }
            (({ b with x := x } : FrameFill).place p (pktGranules p)).bulk single n

/-- The bandwidth that open collective windows reserve on a port for a class, in 1/1,024: windows that overlap add (R67, R68). -/
def State.portShare (s : State) (p c : Nat) : Nat :=
  let t := (s.bank s.fabUnit).sec 10
  match s.tplPos t with
  | some (_, o) =>
    (((tplSlots t).filter fun x => x.kind == 2 && winClass x == c && (x.target == 0xffff || x.target == 32 + s.portHub p) &&
      decide (x.start ≤ o ∧ o < x.start + x.len)).map winShare).sum
  | none => 0

/-- Open windows add their share of a frame to what a class is owed, 1,024 granules at most; a class with none is owed nothing
(DEDUCED, log entry 34). -/
def State.windowShare (s : State) (p : Nat) (x : PortSt) : KMap Nat Int :=
  ([1, 2, 3].filter fun c => s.portShare p c != 0).map fun c => (c, min (KMap.get x.share c 0 + 25 * s.portShare p c) 1048576)

/-- A port that carries TC0 only: under the reset structure, and in Q3 (R318, R336) (DEDUCED, log entry 34). -/
def State.tc0Only (s : State) : Bool := (s.bank s.fabUnit).epoch == 0 || decide (3 ≤ s.get .PWR_STATE_CURRENT)

/-- Credits to return, by class, of at most two classes (R313). -/
def PortSt.returns (x : PortSt) : List (Nat × Nat) :=
  (([0, 1, 2, 3].map fun c => (c, min (KMap.get x.owed c 0) 16383)).filter fun e => decide (0 < e.2)).take 2

/-- The link word's part about what was received goes into a frame, and the credits and the NAK count as sent. -/
def PortSt.seal (x : PortSt) (active : Nat) (f : Frame) : PortSt × Frame :=
  let r := x.returns
  let a := r.getD 0 (0, 0)
  let b := r.getD 1 (0, 0)
  let owed := r.foldl (fun m e => KMap.set m e.1 (KMap.get m e.1 0 - e.2)) x.owed
  ({ x with owed := owed, nak := false },
    { f with ack := (x.expect + 2 ^ 20 - 1) % 2 ^ 20, nak := x.nak, ctcA := a.1, creditA := a.2, ctcB := b.1, creditB := b.2,
             active := active })

/-- Whether a frame's turn is on a lane: frames go round-robin by SEQ over the lanes in use (R313). -/
def laneTurn (lanes : List Nat) (seq lane : Nat) : Bool := lanes[seq % lanes.length]? == some lane

/-- A frame that carries no granules: idle, or with what a control frame says. -/
def PortSt.blank (x : PortSt) (ctl : Option Ctl) : Frame :=
  ⟨x.seq, 0, false, if ctl.isSome then 2 else 1, 31, 0, 0, 0, 0, 0, [], ctl⟩

/-- A frame goes out with the link word's part about what was received; the port is left as x. -/
def State.putFrame (s : State) (p lane : Nat) (x : PortSt) (f : Frame) : State :=
  let (x, f) := x.seal (s.get .FAB_PORT_ACTIVE 0 p) f
  (s.setPort p x).emit (.frame p lane (wireOf f))

/-- The granules of this part's receive buffer for a class, which FAB_TCBUF gives in units of 8 KiB (R315). -/
def State.ownCredit (s : State) (tc : Nat) : Nat :=
  256 * s.eff (if tc = 1 then .FAB_TCBUF_TC1 else if tc = 2 then .FAB_TCBUF_TC2 else .FAB_TCBUF_TC3)

/-- A port's data frame: the packet in progress, second copies, TC0, then the other classes (R314, R316, R322). -/
def State.dataFrame (s : State) (p lane : Nat) (x : PortSt) : State :=
  let single := (s.lanes p).length == 1
  let b := (⟨x, [], 25, 31, false⟩ : FrameFill).goOn
  let b :=
    if b.x.part.isSome then b
    else
      let b := b.second lane single b.x.copies.length
      let (b, more) := b.urgent lane 25
      if more ∧ !s.tc0Only then b.bulk single 25 else b
  let s := if b.delayed then s.bumpSat .FAB_TC0_SHAPED else s
  if b.pieces = [] then s.putFrame p lane b.x (b.x.blank none)
  else
    let (x, f) := b.x.seal (s.get .FAB_PORT_ACTIVE 0 p) ⟨b.x.seq, 0, false, 0, b.first, 0, 0, 0, 0, 0, b.pieces, none⟩
    (s.setPort p { x with seq := (x.seq + 1) % 2 ^ 20, replay := x.replay ++ [f] }).emit (.frame p lane (wireOf f))

/-- A frame leaves on a lane (R313, R316 to R318, R322): a port that trains says who it is; one that changes lanes says so until its partner
agrees; else frames are sent again or filled, each on the lane whose turn it is, and a lane without one idles. -/
def State.sendFrame (s : State) (p lane : Nat) : State :=
  if s.get .FAB_PORT_STATE 0 p = 1 ∧ s.mayTrain p then
    s.emit (.frame p lane (wireOf ((s.port p).blank (some (.train s.ownId p (s.ownCredit 1) (s.ownCredit 2) (s.ownCredit 3))))))
  else if !s.portUp p ∨ !(s.lanes p).contains lane then s
  else
    let x := s.port p
    let x := { x with bucket := min (x.bucket + 8) 2048, share := s.windowShare p x }
    match x.change with
    | some (q, heard) => s.putFrame p lane { x with change := if heard then none else x.change } (x.blank (some (.degrade x.healthy q heard)))
    | none =>
      match x.resend with
      | f :: fs =>
        if laneTurn (s.lanes p) f.seq lane then (s.putFrame p lane { x with resend := fs } f).bumpSat .FAB_RETRY_REPLAY 1 0 p
        else s.putFrame p lane x (x.blank none)
      | [] =>
        if !laneTurn (s.lanes p) x.seq lane ∨ 2048 ≤ x.replay.length ∨ s.fab.failed then s.putFrame p lane x (x.blank none)
        else s.dataFrame p lane x

/-- LINK_FRAME_SEND (R313): the next frame of an active lane. -/
def execLinkFrameSend (port lane : Nat) (s : State) : Res :=
  onUnit (s.portOk port && decide (lane < 4)) (.next (s.sendFrame port lane))

/-! ### Receiving a frame (R313 to R317) -/

/-- An acknowledgement, a NAK and credit returns are taken from a frame's link word. -/
def PortSt.takeWord (x : PortSt) (f : Frame) : PortSt :=
  let rest := x.replay.filter fun g => !decide ((f.ack + 2 ^ 20 - g.seq) % 2 ^ 20 < 2 ^ 19)
  let credits := KMap.set x.credits f.ctcA (KMap.get x.credits f.ctcA 0 + f.creditA)
  { x with
    replay := rest
    resend := if f.nak then rest else x.resend.filter fun g => rest.any fun r => r.seq == g.seq
    credits := KMap.set credits f.ctcB (KMap.get credits f.ctcB 0 + f.creditB) }

/-- Granules of a class are released, and their credits owed. -/
def PortSt.release (x : PortSt) (tc n : Nat) : PortSt := { x with owed := KMap.set x.owed tc (KMap.get x.owed tc 0 + n) }

/-- A packet that has arrived whole goes to its unit; a failed device discards it (R521). -/
def State.handOn (s : State) (p : Packet) : State := if s.fab.failed then s else s.emit (.deliver p)

/-- Whether a SEQ is that of a frame from the expected one on. -/
def PortSt.isNew (x : PortSt) (seq : Nat) : Bool := decide ((seq + 2 ^ 20 - x.expect) % 2 ^ 20 < 2 ^ 19)

/-- The TC0 packets of a frame that was corrected, in order or not: the first copy of each message is delivered, the second discarded
(R316). Credits are owed once for each frame. -/
def State.takeUrgent (s : State) (p : Nat) (f : Frame) : State :=
  let x := s.port p
  let fresh := x.isNew f.seq && !x.seen.contains f.seq
  let s := if fresh then s.setPort p { x with seen := f.seq :: x.seen } else s
  (f.pieces.filter fun q => q.pkt.tc == 0).foldl (fun s q =>
    let s := if fresh then s.setPort p ((s.port p).release 0 q.n) else s
    let k := (q.pkt.src, q.pkt.mid)
    if s.fab.taken.contains k then s
    else ({ s with fab := { s.fab with taken := (k :: s.fab.taken).take 65536 } } : State).handOn q.pkt) s

/-- The granules of TC1 to TC3 of a frame that came in order. -/
def State.takeBulk (s : State) (p : Nat) (f : Frame) : State :=
  (f.pieces.filter fun q => q.pkt.tc != 0).foldl (fun s q =>
    let x := s.port p
    let got := q.n + (match x.rx with | some (r, k) => if q.first ≠ 0 ∧ r = q.pkt then k else 0 | none => 0)
    if got < (pktGranules q.pkt) then s.setPort p { x with rx := some (q.pkt, got) }
    else (s.setPort p ({ x with rx := none }.release q.pkt.tc (pktGranules q.pkt))).handOn q.pkt) s

/-- A frame that could not be corrected is discarded and counted, and later ones with it until the replay comes (R316); the eighth in a row
drops the lane (R317). -/
def State.badFrame (s : State) (p lane : Nat) : State :=
  let x := s.port p
  let n := KMap.get x.bad lane 0 + 1
  let s := (s.setPort p { x with bad := KMap.set x.bad lane n, nak := true, lost := true, ahead := [] }).bumpSat .FAB_RETRY_UNCORR 1 0 p
  if 8 ≤ n then s.laneDrop p lane 1 else s

/-- Symbols that were corrected on a lane, against the limit of R317 over any 2^20 beats. -/
def State.countSyms (s : State) (p lane syms : Nat) : State :=
  let x := s.port p
  let l := (KMap.get x.corr lane []).filter fun e => decide (s.now < e.1 + 2 ^ 20)
  let l := if syms = 0 then l else (s.now, syms) :: l
  let s := s.setPort p { x with bad := KMap.erase x.bad lane, corr := KMap.set x.corr lane l }
  if 2 ^ 24 < (l.map (·.2)).sum then s.laneDrop p lane 2 else s

/-- A data frame whose turn has come is taken. -/
def State.takeNext (s : State) (p : Nat) (f : Frame) : State :=
  let x := s.port p
  let x := { x with expect := (x.expect + 1) % 2 ^ 20, lost := false, ahead := x.ahead.filter fun g => g.seq != f.seq }
  (s.setPort p { x with seen := x.seen.filter x.isNew }).takeBulk p f

/-- Frames that came before their turn are taken as it comes; fuel is their number. -/
def State.takeAhead (s : State) (p : Nat) : Nat → State
  | 0 => s
  | n + 1 =>
    match (s.port p).ahead.find? fun g => g.seq == (s.port p).expect with
    | some g => (s.takeNext p g).takeAhead p n
    | none => s

/-- The receiver restores the order of SEQ (R313). After a loss it discards what is not due, and asks for the replay (R316). -/
def State.takeSeq (s : State) (p : Nat) (f : Frame) : State :=
  let x := s.port p
  if f.kind ≠ 0 ∨ !x.isNew f.seq then s
  else if f.seq = x.expect then (s.takeNext p f).takeAhead p x.ahead.length
  else if x.lost then s.setPort p { x with nak := true }
  else if x.ahead.any fun g => g.seq == f.seq then s
  else s.setPort p { x with ahead := x.ahead ++ [f] }

/-- A control frame about a change of lanes (R317): both ends use the lanes that hold lock for both. Each goes on once it knows that the other
has its word. -/
def State.takeCtl (s : State) (p : Nat) (f : Frame) : State :=
  match f.ctl with
  | some (.degrade lanes _ heard) =>
    let x := s.port p
    let h := x.healthy &&& lanes
    if useLanes h ≠ s.get .FAB_PORT_ACTIVE 0 p then s.laneChange p h true
    else
      let q := match x.change with | some (q, _) => q | none => x.seq
      s.setPort p { x with healthy := h, change := if heard then none else some (q, true) }
  | _ => s

/-- A frame arrives (R313 to R317) (DEDUCED, log entry 34). -/
def State.takeFrame (s : State) (p lane : Nat) (w : Option WireFrame) (syms : Nat) : State :=
  if !s.portUp p then s
  else
    match w with
    | none => s.badFrame p lane
    | some w =>
      let f := frameOf w
      let s := (s.setPort p ((s.port p).takeWord f)).takeCtl p f
      if s.portUp p then ((s.takeUrgent p f).takeSeq p f).countSyms p lane syms else s

/-- LINK_FRAME_RECEIVE (R316): a frame as its lane corrected it, with the symbols corrected, or one that could not be corrected. -/
def execLinkFrameReceive (port lane : Nat) (f : Option WireFrame) (syms : Nat) (s : State) : Res :=
  onUnit (s.portOk port && decide (lane < 4)) (.next (s.takeFrame port lane f syms))

end Sys2Proof.Machine
end

