-- ==== Sys2Proof/Machine/Beat.lean ====
section
/-! DEFINITION. The beat: its source and the part's role (R54, R55), beat frames and alignment (R60 to R63), the loss of the source and
of a peer (R64, R65), the period (R57) and the wall time (R56). The beat edge itself is in Machine/Edge.lean. -/
namespace Sys2Proof.Machine

/-! ### Role and source -/

def State.mapBeat (s : State) (f : BeatSt → BeatSt) : State := { s with beat := f s.beat }



/-- Whether an image is active (R60, R63). -/
def State.imageOn (s : State) : Bool := s.get .STR_EPOCH_ACTIVE != 0

/-- The time-master candidates of the active peer map in rank order, and the rank of a device (R55). -/
def State.timeCands (s : State) : List Nat := pmCands s.peerMap
def State.candRank (s : State) (dev : Nat) : Option Nat := (s.timeCands.zipIdx.find? fun c => c.1 == dev).map (·.2)

/-- Whether a candidate is declared lost: as the source, or as a peer. -/
def State.candLost (s : State) (dev : Nat) : Bool := s.beat.lostCands.contains dev || s.beat.lostPeers.contains dev

/-- The role follows SRC and the candidates: a follower or candidate acquires a master, and a standalone part has none (R54, R55) (DEDUCED, log entry 14). -/
def State.beatRole (s : State) : State :=
  let s := s.mapBeat fun b => { b with
    master := none, since := s.now, demote := false, hold := none, adopt := none, behind := false, slewing := false
    pendPeriod := none, reports := [], lostCands := [], alignLogged := false, lastOwn := b.edges }
  ((s.set .BEAT_STATUS_STATE (if s.beatSource = 0 then 0 else 1)).set .BEAT_STATUS_MASTER 0).set .BEAT_STATUS_RANK 0

/-- Whether the part derives its own edges and so takes BEAT_CFG.PERIOD at a commit (R57): standalone, master, or a candidate that knows
no master. -/
def State.ownPeriod (s : State) : Bool :=
  s.beatSource == 0 || s.get .BEAT_STATUS_STATE == 4 || (s.beatSource != 1 && s.beat.master.isNone)

/-- A period takes effect; wall times count from this beat on (R56, R57). -/
def State.setPeriod (s : State) (p : Nat) : State :=
  let b := s.beat
  let s := if b.everFrame then s.mapBeat fun x => { x with
      lastBeat := s.now, lastWall := b.lastWall + s.now * s.period - b.lastBeat * s.period } else s
  s.set .BEAT_STATUS_PERIOD p



/-! ### Alignment (R62, R63) -/

/-- BEAT_OFFSET as a number of 1/16 ns. -/
def State.offset (s : State) : Int :=
  let v := s.get .BEAT_OFFSET_OFFSET
  if v < 2 ^ 31 then (v : Int) else (v : Int) - 2 ^ 32

def State.setOffset (s : State) (x : Int) : State := s.set .BEAT_OFFSET_OFFSET (x % 2 ^ 32).toNat

/-- EV_BEAT_MASTER (R64, R73) (DEDUCED, log entry 14). -/
def State.masterEv (s : State) (dev rank : Nat) : State := s.log' s.beatSrc 0x1103 0 [(2, dev), (1, rank)]

/-- A follower whose count agrees locks once its offset is within 20 ns (R61, R63, R73) (DEDUCED, log entry 14). -/
def State.beatLock (s : State) : State :=
  let st := s.get .BEAT_STATUS_STATE
  if s.beat.slewing ∧ (st = 1 ∨ st = 3) ∧ s.offset.natAbs ≤ 320 then
    let s := if st = 3 then s.masterEv (s.get .BEAT_STATUS_MASTER) (s.get .BEAT_STATUS_RANK) else s
    (s.set .BEAT_STATUS_STATE 2).log' s.beatSrc 0x1101 0 [(2, s.get .BEAT_STATUS_MASTER), (4, s.get .BEAT_OFFSET_OFFSET)]
  else s

/-- EV_BEAT_ALIGN, once for each excursion beyond 20 ns while LOCKED (R62). -/
def State.beatAlign (s : State) : State :=
  if s.offset.natAbs ≤ 320 then s.mapBeat fun b => { b with alignLogged := false }
  else if s.get .BEAT_STATUS_STATE = 2 ∧ !s.beat.alignLogged then
    (s.mapBeat fun b => { b with alignLogged := true }).log' s.beatSrc 0x1104 1 [(4, s.get .BEAT_OFFSET_OFFSET)]
  else s

/-- EV_BEAT_STEP (R63). -/
def State.stepEv (s : State) (old new : Nat) : State := s.log' s.beatSrc 0x1105 2 [(8, old), (8, new)]

/-- What a follower does about the master's count (R63) (DEDUCED, log entry 13). -/
def State.beatCount (s : State) (count : Nat) (img : Bool) : State :=
  let own := s.now
  if s.beat.hold.isSome ∨ s.beat.adopt.isSome then s
  else if count ≤ own + 1 ∧ own ≤ count + 1 then (s.mapBeat fun b => { b with behind := false, slewing := true }).beatLock
  else if own < count then
    if s.imageOn then
      let s := (s.stepEv own count).mapBeat fun b => { b with passedFrom := some own, slewing := true }
      (s.set .BEAT_NOW_COUNT count).beatLock
    else s.mapBeat fun b => { b with adopt := some (count - own), slewing := false }
  else if s.imageOn then (s.stepEv own count).mapBeat fun b => { b with hold := some (own - count), slewing := false }
  else if s.beat.behind then s
  else if img then s.mapBeat fun b => { b with hold := some (own - count), behind := true, slewing := false }
  else s.mapBeat fun b => { b with behind := true, slewing := false }

/-- The own rank of a part that may become master (R54, R55). -/
def State.ownRank (s : State) : Option Nat := if s.beatSource = 2 ∨ s.beatSource = 3 then s.candRank s.ownId else none

/-- Whether a follower heeds a frame (R54, R55): a candidate follows higher-ranked ones only; and it has no master, the frame is its master's,
its source is lost, or the sender ranks higher than its master. -/
def State.heeds (s : State) (dev rank : Nat) : Bool :=
  (match s.ownRank with | some r => decide (rank < r) | none => true) &&
  match s.beat.master with
  | none => true
  | some m => m == dev || s.get .BEAT_STATUS_STATE == 3 || decide (rank < s.get .BEAT_STATUS_RANK)

/-- A frame from the master that the follower has or takes now (R55, R57, R63). -/
def State.follow (s : State) (dev rank count period : Nat) (ann : Option (Nat × Nat)) (wall : Nat) (img : Bool) (offset : Int) : State :=
  let old := s.beat.master
  let s := if old = some dev then s else s.mapBeat fun b => { b with behind := false, slewing := false }
  let s :=
    if old.isSome ∧ old ≠ some dev ∧ s.get .BEAT_STATUS_STATE ≠ 3 then (s.masterEv dev rank).set .BEAT_STATUS_STATE 1 else s
  let s := s.mapBeat fun b => { b with master := some dev, lostCands := b.lostCands.filter (· != dev) }
  let s := (s.set .BEAT_STATUS_MASTER dev).set .BEAT_STATUS_RANK rank
  let s := if period = s.period then s else s.setPeriod period
  let s := s.mapBeat fun b => { b with lastOwn := b.edges, lastBeat := count, lastWall := wall, everFrame := true
                                       pendPeriod := ann }
  (s.setOffset offset).beatCount count img |>.beatAlign

/-- A heartbeat or beat frame restarts the loss count of a peer (R65). A peer declared lost stays lost until a map that does not name it (DEDUCED, log entry 14). -/
def State.hear (s : State) (dev : Nat) : State :=
  if s.peers.any (·.dev == dev) ∧ !s.beat.lostPeers.contains dev then
    s.mapBeat fun b => { b with heard := KMap.set b.heard dev (s.now, b.edges) }
  else s

/-- The offset of the own edge from the master's, from the time at which the frame of that edge came in on a port: the link's delay, as
measured, is taken off the arrival (R61). -/
def State.compensate (s : State) (port : Nat) (raw : Int) : Int := raw + KMap.get s.beat.delay port 0

/-- A candidate that is not master keeps the wall time of the last frame from any master, heeded or not (R56). -/
def State.heardWall (s : State) (count wall : Nat) : State :=
  s.mapBeat fun b => { b with lastBeat := count, lastWall := wall, everFrame := true }

/-- BEAT_FRAME_RECEIVE (R55, R57, R60, R61, R63). raw is the own edge minus the time at which the frame of the master's edge came in on the
port, in 1/16 ns. -/
def execBeatFrameReceive (hop : Hop) (rank count period : Nat) (ann : Option (Nat × Nat)) (wall : Nat) (img : Bool) (raw : Int) (lat : Nat)
    (s : State) : Res :=
  let dev := hop.dev
  let s := (s.tc0In dev 0 lat).hear dev
  .next
    (if s.beatSource = 0 then s
    else if s.get .BEAT_STATUS_STATE = 4 then
      if rank < s.get .BEAT_STATUS_RANK then
        s.mapBeat fun b => { b with demote := true, lostCands := b.lostCands.filter (· != dev) }
      else s
    else if s.heeds dev rank then s.follow dev rank count period ann wall img (s.compensate hop.port raw)
    else s.heardWall count wall)

/-! ### Beat frames and heartbeats out (R60) -/

/-- The period that a master announces: that of a commit that has been accepted, with its beat (R57). -/
def State.announced (s : State) : Option (Nat × Nat) :=
  if s.get .STR_STATUS_STATE = 3 ∧ s.get .BEAT_CFG_PERIOD ≠ s.period then some (s.get .BEAT_CFG_PERIOD, s.str.commitB) else none

/-- A candidate becomes master at a beat-frame beat after every higher-ranked one has been declared lost (R55) (DEDUCED, log entry 14). -/
def State.beatPromote (s : State) : State :=
  match s.candRank s.ownId with
  | some r =>
    if s.beatSource ≠ 2 ∧ s.beatSource ≠ 3 ∨ s.get .BEAT_STATUS_STATE = 4 ∨ s.now ≤ s.beat.since then s
    else if (s.timeCands.take r).all s.candLost && (s.beat.master.isNone || s.get .BEAT_STATUS_STATE == 3) then
      let s := s.mapBeat fun b => { b with master := some s.ownId, hold := none, adopt := none, slewing := false, reports := [] }
      let s := ((s.set .BEAT_STATUS_STATE 4).set .BEAT_STATUS_MASTER s.ownId).set .BEAT_STATUS_RANK r
      (s.setOffset 0).masterEv s.ownId r
    else s
  | none => s

/-- A master without an image moves its count to the largest that its followers report (R63). -/
def State.beatAdopt (s : State) : State :=
  let best := s.beat.reports.foldl (fun m r => max m (r.count + (s.now - r.own))) s.now
  let s := if s.imageOn then s else s.set .BEAT_NOW_COUNT best
  s.mapBeat fun b => { b with reports := [] }

/-- BEAT_FRAME_SEND (R55, R60, R63): on a beat that is a multiple of 16. -/
def execBeatFrameSend (s : State) : Res :=
  .next
    (if s.now % 16 ≠ 0 then s
    else
      let s := s.beatPromote
      if s.get .BEAT_STATUS_STATE ≠ 4 then s
      else if s.beat.demote then s.beatRole
      else
        let s := s.beatAdopt
        if s.now % 16 ≠ 0 then s
        else
          s.tc0All (s.peers.map (·.dev))
            (.beatFrame s.now s.ownId (s.get .BEAT_STATUS_RANK) s.period s.announced (s.wallAt s.now) s.imageOn))

/-- HEARTBEAT_SEND (R60): on a beat that is a multiple of 8. -/
def execHeartbeatSend (s : State) : Res :=
  .next (if s.now % 8 = 0 then s.tc0All (s.peers.map (·.dev)) (.heartbeat s.ownId) else s)

/-- HEARTBEAT_RECEIVE (R65). -/
def execHeartbeatReceive (dev lat : Nat) (s : State) : Res := .next ((s.tc0In dev 1 lat).hear dev)

/-! ### Link delay (R61) -/

/-- Whether a request is due on a link: it is up, and none has gone out since it came up, or 4,096 beats have passed since the last (R61). -/
def State.delayDue (s : State) (port : Nat) : Bool :=
  s.portUp port && (match KMap.get? s.beat.delayAt port with | some e => decide (e + 4096 ≤ s.beat.edges) | none => true)

/-- DELAY_REQUEST_SEND (R61): a follower's request over one of the links to its master, time-stamped t1 in 1/16 ns. -/
def execDelayRequestSend (hop : Hop) (t1 : Nat) (s : State) : Res :=
  let dev := hop.dev
  let port := hop.port
  .next
    (if s.beat.master = some dev ∧ s.get .BEAT_STATUS_STATE ≠ 4 ∧ (s.portsTo dev).contains port ∧ s.delayDue port then
      (s.mapBeat fun b => { b with delayAt := KMap.set b.delayAt port b.edges }).tc0At port dev (.delayReq s.ownId s.now t1)
    else s)

/-- DELAY_REQUEST_RECEIVE (R61, R63): a master answers with the stamps of the request, of its arrival and of the response, and keeps the
count that the request reports. -/
def execDelayRequestReceive (dev count t1 t2 t3 lat : Nat) (s : State) : Res :=
  let s := s.tc0In dev 2 lat
  .next
    (if s.get .BEAT_STATUS_STATE = 4 then
      (s.tc0 dev (.delayResp s.ownId t1 t2 t3)).mapBeat fun b => { b with reports := b.reports ++ [⟨dev, count, s.now⟩] }
    else s)

/-- DELAY_RESPONSE_RECEIVE (R61): the delay of a link in one direction is half of the round trip. -/
def execDelayResponseReceive (hop : Hop) (t1 t2 t3 t4 lat : Nat) (s : State) : Res :=
  .next ((s.tc0In hop.dev 3 lat).mapBeat fun b => { b with
    delay := KMap.set b.delay hop.port ((((t4 : Int) - t1) - ((t3 : Int) - t2)) / 2) })

/-! ### Losses (R64, R65) -/

/-- The source is declared lost after 64 beats without a beat frame (R64); a commit that has not passed its cutoff is to abort (R50) (DEDUCED, log entry 15). -/
def State.sourceLost (s : State) : State :=
  let st := s.get .BEAT_STATUS_STATE
  match s.beat.master with
  | some m =>
    if (st = 1 ∨ st = 2) ∧ s.beat.lastOwn + 64 ≤ s.beat.edges then
      let s := (s.set .BEAT_STATUS_STATE 3).log' s.beatSrc 0x1102 1 [(2, m), (8, s.beat.lastBeat)]
      let s := s.mapBeat fun b => { b with
        lostCands := m :: b.lostCands.filter (· != m), since := s.now, hold := none, adopt := none, slewing := false }
      if s.get .STR_STATUS_STATE = 3 ∧ !s.str.cutDone then { s with str := { s.str with aborted := true } } else s
    else s
  | none => s

/-- The edge from which the loss count of a peer runs (R65) (DEDUCED, log entry 15). -/
def State.heardAt (s : State) (dev : Nat) : Nat := (KMap.get s.beat.heard dev (0, 0)).2

/-- A peer that has been silent for 64 beats is declared lost (R65) (DEDUCED, log entry 15). -/
def State.peerCheck (s : State) (dev : Nat) : State :=
  if s.peers.any (·.dev == dev) ∧ s.heardAt dev + 64 ≤ s.beat.edges ∧ !s.beat.lostPeers.contains dev then
    (s.peerLost dev 0).mapBeat fun b => { b with since := s.now }
  else s

/-- PEER_LOST (R65). -/
def execPeerLost (dev : Nat) (s : State) : Res := .next (s.peerCheck dev)

/-! ### IEEE 1588 (R56, R408, R416) -/

/-- Whether a management port exists: A, and B on the A8 (R406). -/
def State.mgtOk (s : State) (port : Nat) : Bool := port == 0 || (port == 1 && s.ident.member == .a8)

/-- PTP_MESSAGE_RECEIVE (R56, R408, R416): under SRC 3 the port that MGT_PORT selects runs the slave: it has a master from then on, and asks it
for the delay. A master's edges are disciplined to it, so that beat n begins at BEAT_ORIGIN + n x BEAT_PERIOD: BEAT_WALL holds that time.
Elsewhere the part runs no slave, and the message has no effect. -/
def execPtpMessageReceive (port : Nat) (s : State) : Res :=
  onUnit (s.mgtOk port) (.next
    (if s.beatSource = 3 ∧ s.eff .BEAT_CFG_MGT_PORT = port then
      (if port = 0 then s.set .MGT_STATUS_PTP_A 1 else s.set .MGT_STATUS_PTP_B 1).emit (.ptpDelayReq port)
    else s))

/-! ### A new peer map (R65) -/

/-- At a commit: devices that the old map did not name count from B; the role follows SRC and the candidates (DEDUCED, log entry 14). -/
def State.beatCommit (s : State) (oldPeers oldCands : List Nat) (oldSrc : Nat) : State :=
  let new := s.peers.map (·.dev)
  let s := s.mapBeat fun b => { b with
    heard := new.map fun d => (d, if oldPeers.contains d then KMap.get b.heard d (0, 0) else (s.now, b.edges))
    lostPeers := b.lostPeers.filter fun d => new.contains d && oldPeers.contains d }
  if s.beatSource = oldSrc ∧ s.timeCands = oldCands then s else s.beatRole

end Sys2Proof.Machine
end

