-- ==== Sys2Proof/Machine/Kv.lean ====
section
/-! DEFINITION. The KV cache (chapter 12, R233 to R250): the pool, the page-table walk and the look-aside buffers, gathers, gleans, and
the bushel manager with its operations. The manager is LD0's, the ledger die with the lowest number among those present. -/
namespace Sys2Proof.Machine

def State.kvwSt (s : State) (clu : Nat) : KvwSt := KMap.get s.kvw clu KvwSt.init
def State.setKvw (s : State) (clu : Nat) (x : KvwSt) : State := { s with kvw := KMap.set s.kvw clu x }

/-- The end of a chain of bushels (R235). -/
def noBushel : Nat := 0x1fffffff

/-! ### The pool (R233, R234) -/

/-- The pool header, with the BASE and length of its region. -/
structure Pool where
  base : Nat
  rlen : Nat
  nb : Nat
  rank : Nat
  fmt : Nat
  flags : Nat
  root : Nat
  descOff : Nat
  seqOff : Nat
  gleanOff : Nat
  dataOff : Nat
  bytes : Nat
deriving DecidableEq, Repr

/-- The KV pool region of an image. -/
def poolRegion (img : Image) : Option Region := (regionsOf (img.sec 4)).find? fun r => r.kind == 5

def poolOf (r : Region) (h : List Byte) : Pool :=
  ⟨r.base, r.len, field h 0 4, field h 4 2, field h 6 1, field h 7 1, field h 8 8, field h 16 8, field h 24 8, field h 32 8,
    field h 40 8, field h 48 4⟩

/-- The pool as an agent reads it, where the image has one. -/
def State.pool (s : State) (a : Agent) (img : Image) : Option Pool :=
  (poolRegion img).map fun r => poolOf r (s.rdDa a img r.base 64)

/-- Latent formats of a pool (R233). -/
def latFmt (c : Nat) : Option Fmt :=
  match c with | 1 => some .fp16 | 2 => some .wf16 | 3 => some .a8 | 5 => some .w6a | _ => none

/-- The pitch of a token row, and BUSHEL_BYTES (R234). -/
def Pool.pitch (p : Pool) : Nat := 64 * ceilDiv (p.rank * ((latFmt p.fmt).getD .fp16).width) 512
def Pool.bushelBytes (p : Pool) : Nat :=
  roundUp (64 * p.pitch + (if ((latFmt p.fmt).getD .fp16).hasFine then 64 * (p.rank / 32) else 0)) 64
def Pool.glean (p : Pool) : Bool := bit p.flags 0

/-- Spans of the tables, the root node and the data, as offsets from BASE. -/
def Pool.spans (p : Pool) : List (Nat × Nat) :=
  [(p.root - p.base, 0x8000), (p.descOff, 16 * p.nb), (p.seqOff, 0x800000), (p.dataOff, p.nb * p.bytes)] ++
    (if p.glean then [(p.gleanOff, 768 * p.nb)] else [])

/-- The first header field that fails the check of R233: its offset and value. -/
def Pool.fault (p : Pool) (h : List Byte) : Option BadField :=
  let fits (off n : Nat) : Bool := off % 4096 == 0 && decide (off + n ≤ p.rlen)
  match firstBad [(decide (1 ≤ p.nb ∧ p.nb ≤ 2 ^ 28), (0, p.nb)), (decide (64 ≤ p.rank ∧ p.rank ≤ 1024) && p.rank % 64 == 0, (4, p.rank)),
      ((latFmt p.fmt).isSome, (6, p.fmt)), (decide (p.flags < 4), (7, p.flags)),
      (p.root % 0x8000 == 0 && decide (p.base ≤ p.root ∧ p.root + 0x8000 ≤ p.base + p.rlen), (8, p.root)),
      (fits p.descOff (16 * p.nb), (16, p.descOff)), (fits p.seqOff 0x800000, (24, p.seqOff)),
      (!p.glean || fits p.gleanOff (768 * p.nb), (32, p.gleanOff)), (fits p.dataOff (p.nb * p.bytes), (40, p.dataOff)),
      (p.bytes == p.bushelBytes, (48, p.bytes)), (zeroAt h 52 12, (52, field h 52 8))] with
  | some b => some b
  | none => if (pairsOf p.spans).any fun (x, y) => meets x.2.1 x.2.2 y.2.1 y.2.2 then some (40, p.dataOff) else none

/-! ### The manager's tables (R235) -/

def mgrAgent : Agent := .unit 8 (srcLedger 0 0)
/-- The manager's carve: until it has taken the pool of a new image, that of the image before (R44, R247). -/
def State.mgrBank (s : State) : Image := if s.kv.taken then s.bank (unitLedger 0) else s.str.prevCarve

/-- A bushel descriptor. -/
structure Bushel where
  count : Nat
  cow : Bool
  held : Bool
  freeq : Bool
  epoch : Nat
  next : Nat
deriving DecidableEq, Repr

def State.bushel (s : State) (p : Pool) (n : Nat) : Bushel :=
  let w := s.rdDa mgrAgent s.mgrBank (p.base + p.descOff + 16 * n) 16
  let w0 := field w 0 8
  ⟨bits w0 15 0, bit w0 16, bit w0 17, bit w0 18, bits w0 63 32, bits (field w 8 8) 28 0⟩

def State.setBushel (s : State) (p : Pool) (n : Nat) (b : Bushel) : State :=
  let w0 := b.count + 2 ^ 16 * b2n b.cow + 2 ^ 17 * b2n b.held + 2 ^ 18 * b2n b.freeq + 2 ^ 32 * b.epoch
  s.wrDa mgrAgent s.mgrBank (p.base + p.descOff + 16 * n) (leBytes 8 w0 ++ leBytes 8 b.next)

/-- The length of a sequence. -/
def State.seqLen (s : State) (a : Agent) (img : Image) (p : Pool) (seq : Nat) : Nat :=
  leNat (s.rdDa a img (p.base + p.seqOff + 8 * seq) 8) % 2 ^ 34

/-! ### The walk (R236) -/

/-- The index of a level of the walk. -/
def walkIdx (seq vb : Nat) : Nat → Nat
  | 1 => bits seq 19 8
  | 2 => bits seq 7 0 * 16 + bits vb 27 24
  | 3 => bits vb 23 12
  | _ => bits vb 11 0

/-- A walk's outcome: the DA and word of the leaf entry, the level whose entry is invalid, or a poisoned block. -/
inductive Walk where
  | leaf (da w : Nat)
  | bad (level : Nat)
  | poison (da : Nat)
deriving DecidableEq, Repr

/-- The walk from a node at a level down; levels left counts what follows the leaf's (DEDUCED, log entry 31). -/
def State.walkFrom (s : State) (a : Agent) (img : Image) (seq vb : Nat) : Nat → Nat → Walk
  | left, node =>
    let level := 4 - left
    let da := node + 8 * walkIdx seq vb level
    match s.poisonDa a img da 8 with
    | some p => .poison p
    | none =>
      let w := leNat (s.rdDa a img da 8)
      match left with
      | 0 => .leaf da w
      | n + 1 => if bit w 63 then s.walkFrom a img seq vb n (bits w 42 15 * 0x8000) else .bad level

def State.walk (s : State) (a : Agent) (img : Image) (p : Pool) (seq vb : Nat) : Walk := s.walkFrom a img seq vb 3 p.root

/-! ### Clusters -/

/-- Every walker of the part: those of the present clusters that are not fenced. -/
def State.walkers (s : State) : List Nat :=
  (List.range 128).filter fun clu => s.cluOk clu && !s.lost clu && !s.rst.inReset.contains (clu / 16)

/-- POOL in every walker (R235). -/
def State.setPoolBits (s : State) (v : Bool) : State :=
  ((List.range 128).filter s.cluOk).foldl (fun s clu => s.set .KVW_STATUS_POOL (b2n v) clu) s

/-! ### Taking the pool at a commit (R233, R235) -/

/-- Whether a device that may hold the pool calibrates or is in self-refresh: table accesses then wait (R186, R187) (DEDUCED, log entry 31). -/
def State.poolBusy (s : State) (img : Image) : Bool :=
  match poolRegion img with
  | some r => (s.participants r.mode r.home).any fun ld => s.get .LDG_STATUS_STATE ld == 3 || s.rst.cal.any fun c => c.1 / 3 == ld
  | none => false

/-- With INIT: every descriptor is zeroed, and all bushels are chained in ascending order. -/
def State.poolInit (s : State) (p : Pool) : State :=
  let tab := (List.range p.nb).flatMap fun n => leBytes 8 0 ++ leBytes 8 (if n + 1 = p.nb then noBushel else n + 1)
  let s := s.wrDa mgrAgent s.mgrBank (p.base + p.descOff) tab
  let s := s.wrDa mgrAgent s.mgrBank (p.base + 7) [BitVec.ofNat 8 (p.flags % 2)]
  { s with kv := { s.kv with freeHead := 0, freeCount := p.nb, recHead := noBushel, recTail := noBushel } }

/-- The region entry of the pool and its header, byte for byte. -/
def State.poolKey (s : State) : List Byte :=
  match (regionsOf (s.mgrBank.sec 4)).zipIdx.find? fun e => e.1.kind == 5 with
  | some (r, i) => slice (s.mgrBank.sec 4) (16 + 32 * i) 32 ++ s.rdDa mgrAgent s.mgrBank r.base 64
  | none => []

def State.setValid (s : State) (v : Bool) : State :=
  ({ s with kv := { s.kv with valid := v, key := s.poolKey, resetSince := false, taken := true } } : State).setPoolBits v

/-- KV_POOL_INIT (R233, R235): after a commit the manager checks the header; it initialises the pool, keeps it, or holds it invalid. -/
def State.poolTake (s : State) : State :=
  let s : State := { s with kv := { s.kv with taken := true } }
  match poolRegion s.mgrBank with
  | none => s.setValid false
  | some r =>
    let h := s.rdDa mgrAgent s.mgrBank r.base 64
    let p := poolOf r h
    match p.fault h with
    | some b => (s.setValid false).log' (srcLedger 0 0) 0xc005 2 [(2, b.1), (8, b.2)]
    | none =>
      if bit p.flags 1 then (s.poolInit p).setValid true
      else s.setValid (s.kv.valid && s.poolKey == s.kv.key && !s.kv.resetSince)

/-! ### Bushel operations (R244) -/

/-- An operation completes: KVW_BOP_RES of its block. -/
def State.bopDone (s : State) (clu st cow count b : Nat) : State :=
  ((((s.set .KVW_BOP_RES_DONE 1 clu).set .KVW_BOP_RES_STATUS st clu).set .KVW_BOP_RES_COW cow clu).set .KVW_BOP_RES_COUNT count clu).set
    .KVW_BOP_RES_BUSHEL b clu

/-- A bushel loses one leaf; at COUNT 0 it joins the reclaim queue with the current beat (R244). -/
def State.release (s : State) (p : Pool) (n : Nat) : State :=
  let b := s.bushel p n
  let c := b.count - 1
  if c ≠ 0 then s.setBushel p n { b with count := c }
  else
    let s := s.setBushel p n { b with count := 0, freeq := true, epoch := s.now % 2 ^ 32, next := noBushel }
    if s.kv.recHead = noBushel then { s with kv := { s.kv with recHead := n, recTail := n } }
    else
      let t := s.kv.recTail
      let s := s.setBushel p t { s.bushel p t with next := n }
      { s with kv := { s.kv with recTail := n } }

/-- A bushel goes to the head of the free list. -/
def State.freeBushel (s : State) (p : Pool) (n : Nat) : State :=
  let s := s.setBushel p n { s.bushel p n with held := false, freeq := false, next := s.kv.freeHead }
  { s with kv := { s.kv with freeHead := n, freeCount := s.kv.freeCount + 1 } }

/-- Bushels on the reclaim queue. -/
def State.recCount (s : State) (p : Pool) : Nat → Nat → Nat
  | 0, _ => 0
  | k + 1, n => if n = noBushel then 0 else 1 + s.recCount p k (s.bushel p n).next

/-- MAP and UNMAP go to every LAB of the part and wait for the acknowledgements (R244); what they release is released then, so that a gather
that translated the old leaf holds an epoch no later than FREE_EPOCH (R246). -/
def State.bopWait (s : State) (o : BOp) (release : Option Nat) (cow count b : Nat) : State :=
  { s with kv := { s.kv with cur := some ⟨o, s.walkers, release, cow, count, b⟩ } }

def bopFail (s : State) (o : BOp) (st : Nat) : State := s.bopDone o.clu st 0 0 0

/-- An operation that meets a poisoned block is refused (R178, R247) (DEDUCED, log entry 31). -/
def State.bopPoison (s : State) (o : BOp) (da : Nat) : State :=
  bopFail (s.daUe (srcLedger 0 0) mgrAgent s.mgrBank da) o 3

/-- The first poisoned descriptor of a list of bushels. -/
def State.bushelUe (s : State) (p : Pool) (l : List Nat) : Option Nat :=
  (l.filter (· != noBushel)).findSome? fun n => s.poisonDa mgrAgent s.mgrBank (p.base + p.descOff + 16 * n) 16

def State.doAlloc (s : State) (p : Pool) (o : BOp) : State :=
  let n := s.kv.freeHead
  if n = noBushel then
    (bopFail s o 1).log' (srcLedger 0 0) 0xc004 1 [(4, srcClu o.clu 2), (4, s.recCount p p.nb s.kv.recHead)]
  else
    match s.bushelUe p [n] with
    | some da => s.bopPoison o da
    | none =>
    let b := s.bushel p n
    let s := s.setBushel p n ⟨0, false, true, false, b.epoch, noBushel⟩
    ({ s with kv := { s.kv with freeHead := b.next, freeCount := s.kv.freeCount - 1 } } : State).bopDone o.clu 0 0 0 n

/-- MAP of a bushel operation (R244) (DEDUCED, log entry 31; UNVERIFIED, log entry 32). -/
def State.doMap (s : State) (p : Pool) (o : BOp) : State :=
  let n := o.arg
  let b := s.bushel p n
  match (if n < p.nb then s.bushelUe p [n] else none) with
  | some da => s.bopPoison o da
  | none =>
  if p.nb ≤ n ∨ (!b.held ∧ b.count = 0) then bopFail s o 5
  else
    match s.walk mgrAgent s.mgrBank p o.seq o.vb with
    | .bad _ => bopFail s o 3
    | .poison da => s.bopPoison o da
    | .leaf da w =>
      let old := if bit w 63 ∧ bits w 27 0 ≠ n then some (bits w 27 0) else none
      match s.bushelUe p (old.toList ++ [s.kv.recTail]) with
      | some da => s.bopPoison o da
      | none =>
        if b.count = 65535 then bopFail s o 4
        else
          let b := { b with count := b.count + 1, held := false, cow := b.cow || decide (0 < b.count) }
          let s := (s.setBushel p n b).wrDa mgrAgent s.mgrBank da (leBytes 8 (2 ^ 63 + n))
          s.bopWait o old (b2n b.cow) b.count n

def State.doUnmap (s : State) (p : Pool) (o : BOp) : State :=
  match s.walk mgrAgent s.mgrBank p o.seq o.vb with
  | .bad _ => bopFail s o 3
  | .poison da => s.bopPoison o da
  | .leaf da w =>
    if !bit w 63 then bopFail s o 2
    else
      let n := bits w 27 0
      match s.bushelUe p [n, s.kv.recTail] with
      | some da => s.bopPoison o da
      | none => (s.wrDa mgrAgent s.mgrBank da (leBytes 8 0)).bopWait o (some n) 0 0 n

def State.doQuery (s : State) (p : Pool) (o : BOp) : State :=
  match s.walk mgrAgent s.mgrBank p o.seq o.vb with
  | .bad _ => bopFail s o 3
  | .poison da => s.bopPoison o da
  | .leaf _ w =>
    if !bit w 63 then bopFail s o 2
    else
      match s.bushelUe p [bits w 27 0] with
      | some da => s.bopPoison o da
      | none =>
      let b := s.bushel p (bits w 27 0)
      s.bopDone o.clu 0 (b2n b.cow) b.count (bits w 27 0)

def State.doSetlen (s : State) (p : Pool) (o : BOp) : State :=
  (s.wrDa mgrAgent s.mgrBank (p.base + p.seqOff + 8 * o.seq) (leBytes 8 (o.arg % 2 ^ 34))).bopDone o.clu 0 0 0 0

/-- RETURN of a bushel operation (R244) (DEDUCED, log entry 31). -/
def State.doReturn (s : State) (p : Pool) (o : BOp) : State :=
  match (if o.arg < p.nb then s.bushelUe p [o.arg] else none) with
  | some da => s.bopPoison o da
  | none =>
  if p.nb ≤ o.arg ∨ !(s.bushel p o.arg).held then bopFail s o 5
  else (s.freeBushel p o.arg).bopDone o.clu 0 0 0 o.arg

def State.doPoolstat (s : State) (o : BOp) : State := s.bopDone o.clu 0 0 0 s.kv.freeCount

/-- One operation at the manager: NO_POOL while the pool is invalid. An operation code that R244 does not list does nothing and
completes. -/
def State.bopRun (s : State) (o : BOp) : State :=
  match (if s.kv.valid then s.pool mgrAgent s.mgrBank else none) with
  | none => bopFail s o 7
  | some p =>
    match o.op with
    | 1 => s.doAlloc p o
    | 2 => s.doMap p o
    | 3 => s.doUnmap p o
    | 4 => s.doQuery p o
    | 5 => s.doSetlen p o
    | 6 => s.doReturn p o
    | 7 => s.doPoolstat o
    | _ => s.bopDone o.clu 0 0 0 0

/-- The manager takes operations in arrival order, one at a time; after a commit they wait until it has taken the pool (R244,
R247). -/
def State.bopNext (s : State) : Nat → State
  | 0 => s
  | k + 1 =>
    match s.kv.cur, s.kv.ops with
    | none, o :: rest => if s.kv.taken && !(s.kv.valid && s.poolBusy s.mgrBank) then (({ s with kv := { s.kv with ops := rest } } : State).bopRun o).bopNext k else s
    | _, _ => s

/-- The bushel operations that wait are done in their order (DEDUCED, log entry 31). -/
def State.bopGo (s : State) : State := s.bopNext s.kv.ops.length

/-- MAP or UNMAP is done: what it releases is released, and an UNMAP tells how its bushel then stands (R244). -/
def State.bopFinish (s : State) (w : BopWait) : State :=
  let s : State := { s with kv := { s.kv with cur := none } }
  match w.release, s.pool mgrAgent s.mgrBank with
  | some n, some p =>
    let s := s.release p n
    if w.op.op = 3 then s.bopDone w.op.clu 0 (b2n (s.bushel p n).cow) (s.bushel p n).count n
    else s.bopDone w.op.clu 0 w.cow w.count w.bushel
  | _, _ => s.bopDone w.op.clu 0 w.cow w.count w.bushel

/-- MAP or UNMAP completes with the last acknowledgement; walkers of clusters that were fenced, or of dies that
went into reset, meanwhile give none. -/
def State.bopAcks (s : State) : State :=
  match s.kv.cur with
  | some w =>
    let w := { w with walkers := w.walkers.filter fun clu => !s.lost clu && !s.rst.inReset.contains (clu / 16) }
    if w.walkers = [] ∧ !s.poolBusy s.mgrBank then (s.bopFinish w).bopGo else { s with kv := { s.kv with cur := some w } }
  | none => s

/-- Whether a KVW block has an operation outstanding. -/
def State.bopBusy (s : State) (clu : Nat) : Bool :=
  s.kv.ops.any (fun o => o.clu == clu) || (match s.kv.cur with | some w => w.op.clu == clu | none => false)

/-- A write of KVW_BOP (R244, R248): held back before READY (R445); refused with BUSY while the block has an operation; else it goes
to the manager. -/
def State.bopWrite (s : State) (by_ : Agent) (clu op seq vb : Nat) : State :=
  s.whenReady by_ (0x7f200000000 + clu / 16 * 0x10000000 + clu % 16 * 0x1000000 + 0xf20018) fun s =>
    if s.bopBusy clu then s.setKvw clu { s.kvwSt clu with bopBusy := true }
    else
      let o : BOp := ⟨op, clu, seq % 2 ^ 20, vb % 2 ^ 28, s.get .KVW_BOP_ARG_VALUE clu⟩
      let s := s.set .KVW_BOP_RES_DONE 0 clu
      ({ s with kv := { s.kv with ops := s.kv.ops ++ [o] } } : State).bopGo

/-- The row of an operation. -/
def State.bopOp (s : State) (by_ : Agent) (clu op seq vb : Nat) : Res := onUnit (s.cluOk clu) (.next (s.bopWrite by_ clu op seq vb))

def execAlloc (by_ : Agent) (clu seq vb : Nat) (s : State) : Res := s.bopOp by_ clu 1 seq vb
def execMap (by_ : Agent) (clu seq vb : Nat) (s : State) : Res := s.bopOp by_ clu 2 seq vb
def execUnmap (by_ : Agent) (clu seq vb : Nat) (s : State) : Res := s.bopOp by_ clu 3 seq vb
def execQuery (by_ : Agent) (clu seq vb : Nat) (s : State) : Res := s.bopOp by_ clu 4 seq vb
def execSetlen (by_ : Agent) (clu seq vb : Nat) (s : State) : Res := s.bopOp by_ clu 5 seq vb
def execReturnBushel (by_ : Agent) (clu seq vb : Nat) (s : State) : Res := s.bopOp by_ clu 6 seq vb
def execPoolstat (by_ : Agent) (clu seq vb : Nat) (s : State) : Res := s.bopOp by_ clu 7 seq vb

/-- KV_POOL_INIT (R233, R235, R247): once the operation under way is done, the manager takes the pool, and operations that waited for it
follow. -/
def execKvPoolInit (s : State) : Res :=
  .next (if s.kv.cur.isSome ∨ s.poolBusy (s.bank (unitLedger 0)) then s else s.poolTake.bopGo)

/-! ### Epochs and reclaim (R246) -/

/-- Whether a is before b, modulo 2^32. -/
def epochLt (a b : Nat) : Bool := let x := (b + 2 ^ 32 - a % 2 ^ 32) % 2 ^ 32; decide (0 < x ∧ x < 2 ^ 31)

/-- The least epoch that a walker or glean unit holds, or this edge's beat. -/
def State.epochFloor (s : State) : Nat :=
  let es := s.kvw.flatMap fun e => (e.2.gather.toList ++ e.2.glean.toList).map (·.epoch)
  es.foldl (fun m e => if epochLt e m then e else m) (s.now % 2 ^ 32)

/-- Bushels whose FREE_EPOCH is below the floor are reclaimed in queue order. -/
def State.reclaim (s : State) (p : Pool) : Nat → State
  | 0 => s
  | k + 1 =>
    let n := s.kv.recHead
    if n = noBushel then s
    else
      let b := s.bushel p n
      if epochLt b.epoch s.kv.floor then
        let s : State := { s with kv := { s.kv with recHead := b.next, recTail := if b.next = noBushel then noBushel else s.kv.recTail } }
        (s.freeBushel p n).reclaim p k
      else s

/-- What the manager does at a beat edge: reclaim under the floor formed at the edge before, then the new floor (DEDUCED, log entry 31). -/
def State.kvEdge (s : State) : State :=
  let s := match (if s.kv.valid && s.kv.taken && !s.poolBusy s.mgrBank then s.pool mgrAgent s.mgrBank else none) with
    | some p => s.reclaim p p.nb
    | none => s
  ({ s with kv := { s.kv with floor := s.epochFloor } } : State).bopAcks

/-! ### Walkers: translation (R237) -/

def kvAgent (clu : Nat) : Agent := .unit (clu / 16) (srcClu clu 2)
def glnAgent (clu : Nat) : Agent := .unit (clu / 16) (srcClu clu 3)

/-- WALKS, BUSY and HELD_EPOCH follow the walker (R248, R249). -/
def State.syncKvw (s : State) (clu : Nat) : State :=
  let x := s.kvwSt clu
  let s := (s.set .KVW_STATUS_WALKS x.walks.length clu).set .KVW_STATUS_BUSY (b2n x.gather.isSome) clu
  (s.set .KVW_STATUS_HELD_EPOCH ((x.gather.map (·.epoch)).getD 0) clu).set .GLN_STATUS_BUSY (b2n x.glean.isSome) clu

/-- The look-aside buffer with an entry brought to the front; 128 entries, the least recently used dropped. -/
def labPut (lab : List (Nat × Nat × Nat)) (seq vb n : Nat) : List (Nat × Nat × Nat) :=
  ((seq, vb, n) :: lab.filter fun e => !(e.1 == seq && e.2.1 == vb)).take 128

def labGet (lab : List (Nat × Nat × Nat)) (seq vb : Nat) : Option Nat :=
  (lab.find? fun e => e.1 == seq && e.2.1 == vb).map (·.2.2)

/-- A job's sequence. -/
def KvJob.seq (j : KvJob) : Nat := dbits j.d 1 19 0

/-- The bank of a job. -/
def State.jobBank (s : State) (j : KvJob) (kind : Nat) : Image := s.bankFor (unitDie (coreDie j.core)) (s.heldFor j.core kind j.d).beat

/-- A walker's refusal: counted, with an event where one is named (R247, R250). -/
def State.kvRefuse (s : State) (core : Nat) (d : Desc) : State :=
  (s.bump .KVW_STATUS_REFUSED 1 (coreClu core)).refuse core kKv d

def State.kvDesc (s : State) (core : Nat) (d : Desc) (b : BadField) : State :=
  (s.log' (srcClu (coreClu core) 2) 0xc003 2 [(2, core), (2, b.1), (8, b.2)]).kvRefuse core d

def State.glnRefuse (s : State) (core : Nat) (d : Desc) : State :=
  (s.bump .GLN_STATUS_REFUSED 1 (coreClu core)).refuse core kGln d

def State.glnDesc (s : State) (core : Nat) (d : Desc) (b : BadField) : State :=
  (s.log' (srcClu (coreClu core) 3) 0xc006 2 [(2, core), (2, b.1), (8, b.2)]).glnRefuse core d

/-! ### Gathers (R238, R239) -/

def kvRow (d : Desc) : Nat := 64 * (dbits d 3 31 16 + 1)
def kvDst (d : Desc) : Nat := 64 * dbits d 3 15 0
def kvUp (d : Desc) : Nat := 64 * dbits d 3 47 32
def kvRank (d : Desc) : Nat := dbits d 2 25 16 + 1
def kvN (d : Desc) : Nat := dbits d 2 15 0 + 1
/-- Rows that a gather writes: both keys and values under KV 3. -/
def kvRows (d : Desc) : Nat := if dbits d 1 63 62 = 3 then 2 * kvN d else kvN d
/-- The key (0) and value (1) blocks that it writes, each with its first row. -/
def kvBlocks (d : Desc) : List (Nat × Nat) :=
  match dbits d 1 63 62 with
  | 1 => [(0, 0)] | 2 => [(1, 0)] | 3 => [(0, 0), (1, kvN d)] | _ => []

/-- A latent element with its fine scale, from a bushel's bytes (R234). -/
def latent (f : Fmt) (rank pitch : Nat) (b : List Byte) (tok k : Nat) : Num :=
  let o := k * f.width
  let x := f.decode (field b (tok * pitch + o / 8) 3 / 2 ^ (o % 8) % 2 ^ f.width)
  if f.hasFine then applyFine x (field b (64 * pitch + tok * (rank / 32) + k / 32) 1) else x

/-- An up-projection element: kind 0 keys, 1 values (R239). -/
def State.upElem (s : State) (core : Nat) (d : Desc) (kind k j : Nat) : Num :=
  let base := kvUp d + dbits d 1 61 54 * 2 * kvRank d * 256 + kind * kvRank d * 256
  Fmt.fp16.decode (leNat (s.rd (coreLoc core (base + k * 256 + 2 * j)) 2))

/-- One expanded value: its ACC52 code, and what its additions count (R239, R118 to R120, R136). -/
def State.expandAcc (s : State) (core : Nat) (d : Desc) (kind : Nat) (lat : List Num) (j : Nat) : Nat × MmaCount :=
  (List.range (ceilDiv lat.length 32)).foldl (fun acc g =>
    let ps := ((lat.drop (32 * g)).take 32).zipIdx.map fun (x, q) => x.mul (s.upElem core d kind (32 * g + q) j)
    let (t, st) := groupSum ps
    let (c, tie) := accAdd acc.1 t st
    (c, ⟨if st then g :: acc.2.sticky else acc.2.sticky, acc.2.ties + tie⟩)) (0, ⟨[], 0⟩)

/-- The latent of a token of a bushel. -/
def Pool.latRow (p : Pool) (b : List Byte) (tok : Nat) : List Num :=
  (List.range p.rank).map fun k => latent ((latFmt p.fmt).getD .fp16) p.rank p.pitch b tok k

/-- What the expansion of a token counts: its groups with a sticky bit, each a number of its block, 64-token half, tile and group, and the
ties they decided (R136, R239). -/
def State.expandCount (s : State) (core : Nat) (d : Desc) (p : Pool) (b : List Byte) (tok row : Nat) : MmaCount :=
  let lat := p.latRow b tok
  (kvBlocks d).foldl (fun acc e =>
    (List.range 128).foldl (fun acc j =>
      let n := (s.expandAcc core d e.1 lat j).2
      ⟨(n.sticky.map fun g => ((e.1 * 65536 + row / 64) * 2 + j / 64) * 64 + g) ++ acc.sticky, acc.ties + n.ties⟩) acc) ⟨[], 0⟩

/-- A gathered row, written (R238, R239): +0 for a listed token past the length. A row that expands passes through tiles 14 and
15; a gather names no tensor, so the counts of its conversions go to no tally slot (DESIGN CHOICE, log entry 58). -/
def State.kvWriteRow (s : State) (core : Nat) (d : Desc) (p : Pool) (data : Option (List Byte)) (tok row : Nat) : State :=
  let f := (latFmt p.fmt).getD .fp16
  let dst (r : Nat) : Nat := coreLoc core (kvDst d + r * kvRow d)
  (kvBlocks d).foldl (fun s e =>
    let (kind, first) := e
    let r := first + row
    if kvUp d = 0 then
      let n := f.rowBytes p.rank
      let fine := coreLoc core (kvDst d + kvRows d * kvRow d + r * (p.rank / 32))
      match data with
      | some b =>
        let s := s.wr (dst r) (slice b (tok * p.pitch) n)
        if f.hasFine then s.wr fine (slice b (64 * p.pitch + tok * (p.rank / 32)) (p.rank / 32)) else s
      | none =>
        let s := s.wr (dst r) (List.replicate n 0)
        if f.hasFine then s.wr fine (List.replicate (p.rank / 32) 127) else s
    else
      let accs := match data with
        | some b =>
          (List.range 128).map fun j => (s.expandAcc core d kind (p.latRow b tok) j).1
        | none => List.replicate 128 0
      let s := accs.zipIdx.foldl (fun s e => s.setAcc core (14 + e.2 / 64) (row % 64) (e.2 % 64) e.1) s
      s.wr (dst r) (accs.flatMap fun c => leBytes 2 (convert (accVal c) .fp16 .rne true).1)) s

/-- What a gather reads of one bushel: the rows of its tokens, and their fine scales (R234). -/
def Pool.itemSpans (p : Pool) (it : KvItem) (n : Nat) : List (Nat × Nat) :=
  let da := p.base + p.dataOff + n * p.bytes
  (da + it.tok * p.pitch, it.n * p.pitch) ::
    (if ((latFmt p.fmt).getD .fp16).hasFine then [(da + 64 * p.pitch + it.tok * (p.rank / 32), it.n * (p.rank / 32))] else [])

/-- One bushel of a gather: its rows are written, and its additions counted. -/
def State.kvItem (s : State) (j : KvJob) (p : Pool) (it : KvItem) (n : Nat) : State × KvJob :=
  let b := s.rdDa (kvAgent (coreClu j.core)) (s.jobBank j kKv) (p.base + p.dataOff + n * p.bytes) p.bytes
  (List.range it.n).foldl (fun acc i =>
    let t := it.tok + i
    let live := decide (it.vb * 64 + t < j.len)
    let cnt := if live && kvUp j.d != 0 then acc.1.expandCount j.core j.d p b t (it.row + i) else ⟨[], 0⟩
    let new := cnt.sticky.eraseDups.filter fun k => !acc.2.sticky.contains k
    let s := acc.1.kvWriteRow j.core j.d p (if live then some b else none) t (it.row + i)
    ((s.bumpSat .MXE_STICKY_GROUPS new.length j.core).bumpSat .MXE_STICKY_TIES cnt.ties j.core, { acc.2 with sticky := new ++ acc.2.sticky }))
    (s, j)

/-- The end of a gather: counters and completion (R136, R239). -/
def State.kvFinish (s : State) (j : KvJob) : State :=
  let core := j.core
  let clu := coreClu core
  let s := s.setKvw clu { s.kvwSt clu with gather := none }
  let s := if kvUp j.d = 0 then s
    else
      let g := (kvBlocks j.d).length * ceilDiv (kvN j.d) 64 * 2 * (kvRank j.d / 32)
      ((s.bump .MXE_GROUPS_COUNT g core).setBit .TDY_STATUS_TILE_LIVE 14 false core).setBit .TDY_STATUS_TILE_LIVE 15 false core
  (s.complete core kKv j.d).syncKvw clu

/-- A gather ends refused: the rows already written stay written. -/
def State.kvStop (s : State) (j : KvJob) : State :=
  let clu := coreClu j.core
  ((s.setKvw clu { s.kvwSt clu with gather := none }).kvRefuse j.core j.d).syncKvw clu

/-! ### Gleans (R241, R242) -/

def glnP (d : Desc) : Nat := dbits d 1 27 20 + 1
def glnW (d : Desc) : Nat := dbits d 1 35 28
def glnS (d : Desc) : Nat := dbits d 1 43 36
def glnRows (d : Desc) : Nat := dbits d 1 49 44 + 1
def glnFmt (c : Nat) : Option Fmt :=
  match c with | 1 => some .fp16 | 3 => some .a8 | 4 => some .g8 | 5 => some .w6a | 6 => some .w6b | 7 => some .n4 | _ => none

/-- The query rows, widened to FP16 (exactly). -/
def State.glnQuery (s : State) (core : Nat) (d : Desc) : List (List Num) :=
  let f := (glnFmt (dbits d 2 35 32)).getD .fp16
  let pitch := 64 * ceilDiv (128 * f.width) 512
  (List.range (glnRows d)).map fun i => (List.range 128).map fun k =>
    f.decode (s.elem f (coreLoc core (64 * dbits d 2 15 0 + i * pitch)) k)

/-- The score of a candidate from its record (R241), as an FP32 code. -/
def glnScore (score : Nat) (q : List (List Num)) (rec : List Byte) : Nat :=
  let at' (off k : Nat) : Num := Fmt.fp16.decode (field rec (off + 2 * k) 2)
  let row (r : List Num) : Num :=
    pairSum 7 (r.zipIdx.map fun (x, k) =>
      if score = 0 then mul32 x (at' 0 k) else (mul32 x (at' 256 k)).max (mul32 x (at' 512 k)))
  match q.map row with
  | [] => Fmt.fp32.nan
  | x :: rest => rne32c (rest.foldl Num.max x)

/-- Whether score code a ranks before b: greater, a NaN last. -/
def scoreBefore (a b : Nat × Nat) : Bool :=
  let x := Fmt.fp32.decode a.2
  let y := Fmt.fp32.decode b.2
  if x.isNaN then y.isNaN && decide (a.1 < b.1)
  else if y.isNaN then true
  else y.lt x || (!x.lt y && decide (a.1 < b.1))

/-- The forced bushels of nb, in ascending VB (R242). -/
def glnForced (d : Desc) (nb : Nat) : List Nat :=
  (List.range nb).filter fun v => decide (v < glnS d) || decide (nb ≤ v + glnW d)

/-- The list that a glean writes (R242). -/
def glnList (vbs : List Nat) : List Byte := leBytes 4 vbs.length ++ leBytes 4 0 ++ vbs.flatMap (leBytes 4)

/-- The end of a glean: the selection, in ascending VB. -/
def State.glnFinish (s : State) (j : KvJob) : State :=
  let clu := coreClu j.core
  let nb := ceilDiv j.len 64
  let sel := if nb ≤ glnP j.d then List.range nb
    else
      let f := glnForced j.d nb
      let best := ((j.scores.mergeSort scoreBefore).take (glnP j.d - f.length)).map (·.1)
      (List.range nb).filter fun v => f.contains v || best.contains v
  let s := s.wr (coreLoc j.core (64 * dbits j.d 2 31 16)) (glnList sel)
  ((s.setKvw clu { s.kvwSt clu with glean := none }).complete j.core kGln j.d).syncKvw clu

def State.glnStop (s : State) (j : KvJob) : State :=
  let clu := coreClu j.core
  ((s.setKvw clu { s.kvwSt clu with glean := none }).glnRefuse j.core j.d).syncKvw clu

/-- The score of one candidate of a glean. -/
def State.glnItem (s : State) (j : KvJob) (p : Pool) (n : Nat) : Nat :=
  let clu := coreClu j.core
  glnScore (s.get .GLN_CFG_SCORE clu) (s.glnQuery j.core j.d)
    (s.rdDa (glnAgent clu) (s.jobBank j kGln) (p.base + p.gleanOff + 768 * n) 768)

/-! ### Jobs -/

def State.setJob (s : State) (clu : Nat) (gln : Bool) (j : KvJob) : State :=
  let x := s.kvwSt clu
  s.setKvw clu (if gln then { x with glean := some j } else { x with gather := some j })

/-- EV_MEM_UE of a walker or a glean unit, and the job's end. -/
def State.jobPoison (s : State) (clu : Nat) (gln : Bool) (j : KvJob) (da : Nat) : State :=
  let s := s.daUe (srcClu clu (if gln then 3 else 2)) (if gln then glnAgent clu else kvAgent clu) (s.jobBank j (if gln then kGln else kKv)) da
  if gln then s.glnStop j else s.kvStop j

/-- Walks start for the bushels of a job that no translation is at hand for, in order, at most 8 at once (R237). -/
def State.startWalks (s : State) (clu : Nat) (gln : Bool) (j : KvJob) : State :=
  (j.items.foldl (fun s it =>
    let x := s.kvwSt clu
    if (!gln && decide (j.len ≤ it.vb * 64 + it.tok)) || KMap.has j.got it.vb || (labGet x.lab j.seq it.vb).isSome ||
        x.walks.any (fun w => w.1 == j.seq && w.2.1 == it.vb) || decide (8 ≤ x.walks.length) then s
    else (s.setKvw clu { x with walks := x.walks ++ [(j.seq, it.vb, true)] }).bumpSat .KVW_LAB_MISS 1 clu) s).syncKvw clu

/-- A job goes on through its bushels as far as their translations are at hand and their devices do not calibrate; at a miss walks start
(R186, R237). -/
def State.jobGo (s : State) (clu : Nat) (gln : Bool) : Nat → State
  | 0 => s
  | fuel + 1 =>
    let x := s.kvwSt clu
    match (if gln then x.glean else x.gather) with
    | none => s
    | some j =>
      match j.items with
      | [] => if gln then s.glnFinish j else s.kvFinish j
      | it :: rest =>
        let img := s.jobBank j (if gln then kGln else kKv)
        match s.pool (kvAgent clu) img with
        | none => if gln then s.glnStop j else s.kvStop j
        | some p =>
          let spans (n : Nat) : List (Nat × Nat) := if gln then [(p.base + p.gleanOff + 768 * n, 768)] else p.itemSpans it n
          let use (s : State) (n : Nat) : State :=
            match (spans n).findSome? fun x => s.poisonDa (kvAgent clu) img x.1 x.2 with
            | some da => s.jobPoison clu gln j da
            | none =>
              if gln then
                ((s.setJob clu true { j with items := rest, scores := j.scores ++ [(it.vb, s.glnItem j p n)] }).bumpSat
                  .GLN_STATUS_SCORED 1 clu).jobGo clu true fuel
              else
                let x := s.kvItem j p it n
                (x.1.setJob clu false { x.2 with items := rest }).jobGo clu false fuel
          let busy (n : Nat) : Bool := (spans n).any fun x => s.memBusy img x.1 x.2
          if !gln ∧ j.len ≤ it.vb * 64 + it.tok then
            let s := (List.range it.n).foldl (fun s i => s.kvWriteRow j.core j.d p none (it.tok + i) (it.row + i)) s
            (s.setJob clu false { j with items := rest }).jobGo clu false fuel
          else
            match KMap.get? j.got it.vb with
            | some n => if busy n then s else use s n
            | none =>
              match labGet x.lab j.seq it.vb with
              | some n =>
                if busy n then s else use ((s.setKvw clu { x with lab := labPut x.lab j.seq it.vb n }).bumpSat .KVW_LAB_HIT 1 clu) n
              | none => s.startWalks clu gln j

/-- Every bushel of a job takes one turn, and its end one more. -/
def State.jobRun (s : State) (clu : Nat) (gln : Bool) : State :=
  let x := s.kvwSt clu
  s.jobGo clu gln (((if gln then x.glean else x.gather).map fun j => j.items.length).getD 0 + 1)

/-- Jobs that waited for memory go on (R186, R189). -/
def State.kvResume (s : State) : State := (s.kvw.map (·.1)).foldl (fun s clu => (s.jobRun clu false).jobRun clu true) s.bopAcks.bopGo

/-- KV_GATHER's checks by its words and the pool (R238 to R240, R247). -/
def kvFault (d : Desc) (p : Pool) (len : Nat) (list : List Byte) : Option BadField :=
  let tok0 := dbits d 1 53 20
  let f := (latFmt p.fmt).getD .fp16
  let n := kvRows d
  let rowLen := if kvUp d = 0 then f.rowBytes p.rank else 256
  let fine := if kvUp d = 0 ∧ f.hasFine then n * (p.rank / 32) else 0
  match firstReserved d [(2, 63, 31), (4, 63, 0), (5, 63, 0), (6, 63, 0), (7, 63, 0)] with
  | some b => some b
  | none => firstBad [(dbits d 1 63 62 != 0, (126, 0)), (kvRank d == p.rank, (144, kvRank d - 1)), (dbits d 2 29 26 == p.fmt, (154, dbits d 2 29 26)),
      (if dbit d 2 30 then decide (tok0 + kvN d - 1 < 64 * field list 0 4) else decide (tok0 + kvN d - 1 < len), (84, tok0)),
      (decide (256 ≤ kvRow d), (208, dbits d 3 31 16)),
      (decide (kvDst d + (n - 1) * kvRow d + rowLen ≤ coreMem) && decide (kvDst d + n * kvRow d + fine ≤ coreMem || fine = 0), (192, dbits d 3 15 0)),
      (decide (kvUp d = 0 ∨ kvUp d + (dbits d 1 61 54 + 1) * 2 * p.rank * 256 ≤ coreMem), (224, dbits d 3 47 32))]

/-- The bushels of a gather in order. -/
def kvItems (d : Desc) (list : List Byte) : List KvItem :=
  let t0 := dbits d 1 53 20
  let t1 := t0 + kvN d
  (List.range ((t1 - 1) / 64 - t0 / 64 + 1)).map fun i =>
    let blk := t0 / 64 + i
    let lo := max t0 (blk * 64)
    let hi := min t1 (blk * 64 + 64)
    ⟨if dbit d 2 30 then field list (8 + 4 * blk) 4 % 2 ^ 28 else blk, lo - blk * 64, hi - lo, lo - t0⟩

/-- A gather at its walker: it waits its turn (R152); it is checked; then it holds its epoch and translates. -/
def State.kvStart (s : State) (core : Nat) (d : Desc) : State :=
  let clu := coreClu core
  let x := s.kvwSt clu
  match x.gather with
  | some j => if j.core = core ∧ j.d = d then s.jobRun clu false else s.hold core kKv d
  | none =>
    if !s.canStart core kKv d ∨ (kvUp d ≠ 0 ∧ !s.spansClear core kKv d) then s.hold core kKv d
    else
      let img := s.bankFor (unitDie (coreDie core)) (s.heldFor core kKv d).beat
      match (if s.get .KVW_STATUS_POOL clu = 1 then s.pool (kvAgent clu) img else none) with
      | none => s.kvDesc core d (64, dbits d 1 19 0)
      | some p =>
        if (latFmt (dbits d 2 29 26)).isNone then
          (s.fmtIllegal (srcClu clu 2) (descClass d) (154, dbits d 2 29 26)).kvRefuse core d
        else if p.fmt = 2 then (s.log' (srcClu clu 2) 0xc001 2 [(2, core), (4, dbits d 1 19 0), (1, 2)]).kvRefuse core d
        else
          let seq := dbits d 1 19 0
          let listAt := 64 * dbits d 3 63 48
          let list := if dbit d 2 30 then s.rd (coreLoc core listAt) 1032 else []
          let len := s.seqLen (kvAgent clu) img p seq
          let reads : Spans := (if dbit d 2 30 then [(listAt, 8 + 4 * min 256 (field list 0 4))] else []) ++
            (if kvUp d = 0 then [] else (kvBlocks d).map fun e => (kvUp d + (dbits d 1 61 54 * 2 + e.1) * p.rank * 256, p.rank * 256))
          match reads.findSome? fun x => s.poisonIn (coreLoc core x.1) x.2 with
          | some place => (s.coreUe (srcClu clu 2) core place).kvRefuse core d
          | none =>
            match kvFault d p len list with
            | some b => s.kvDesc core d b
            | none =>
              let s := s.hold core kKv d
              ((s.setJob clu false ⟨core, d, s.now % 2 ^ 32, len, kvItems d list, [], [], []⟩).syncKvw clu).jobRun clu false

/-- KV_GATHER (R238, R239). -/
def execKvGather (core : Nat) (d : Desc) (s : State) : Res :=
  onUnit (s.coreOk core) (.next (s.atUnit core kKv d fun s => s.kvStart core d))

/-- GLEAN's checks (R241, R242). -/
def glnFault (d : Desc) (p : Pool) : Option BadField :=
  let f := (glnFmt (dbits d 2 35 32)).getD .fp16
  match firstReserved d [(1, 63, 50), (2, 63, 36), (3, 63, 0), (4, 63, 0), (5, 63, 0), (6, 63, 0), (7, 63, 0)] with
  | some b => some b
  | none => firstBad [(p.glean, (64, dbits d 1 19 0)),
      (decide (glnS d + glnW d ≤ glnP d), (92, glnW d)),
      (decide (64 * dbits d 2 15 0 + glnRows d * (64 * ceilDiv (128 * f.width) 512) ≤ coreMem), (128, dbits d 2 15 0)),
      (decide (64 * dbits d 2 31 16 + 8 + 4 * glnP d ≤ coreMem), (144, dbits d 2 31 16))]

/-- A glean at its unit. -/
def State.glnStart (s : State) (core : Nat) (d : Desc) : State :=
  let clu := coreClu core
  let x := s.kvwSt clu
  match x.glean with
  | some j => if j.core = core ∧ j.d = d then s.jobRun clu true else s.hold core kGln d
  | none =>
    if !s.canStart core kGln d then s.hold core kGln d
    else
      let img := s.bankFor (unitDie (coreDie core)) (s.heldFor core kGln d).beat
      match (if s.get .KVW_STATUS_POOL clu = 1 then s.pool (glnAgent clu) img else none) with
      | none => s.glnDesc core d (64, dbits d 1 19 0)
      | some p =>
        if (glnFmt (dbits d 2 35 32)).isNone then
          (s.fmtIllegal (srcClu clu 3) (descClass d) (160, dbits d 2 35 32)).glnRefuse core d
        else
        match glnFault d p with
        | some b => s.glnDesc core d b
        | none =>
          let len := s.seqLen (glnAgent clu) img p (dbits d 1 19 0)
          let nb := ceilDiv len 64
          let forced := glnForced d nb
          let items : List KvItem := if nb ≤ glnP d then []
            else ((List.range nb).filter fun v => !forced.contains v).map fun v => ⟨v, 0, 0, 0⟩
          let s := s.hold core kGln d
          ((s.setJob clu true ⟨core, d, s.now % 2 ^ 32, len, items, [], [], []⟩).syncKvw clu).jobRun clu true

/-- GLEAN (R242). -/
def execGlean (core : Nat) (d : Desc) (s : State) : Res :=
  onUnit (s.coreOk core) (.next (s.atUnit core kGln d fun s => s.glnStart core d))

/-- A job of the walker that waits for (SEQ, VB). -/
def KvJob.waits (j : KvJob) (seq vb : Nat) : Bool := j.seq == seq && j.items.any fun it => it.vb == vb

/-- A walk ends: its bushel goes to the jobs that wait for it and, unless it was invalidated, into the LAB; an invalid entry
refuses them (R237, R247). -/
def State.walkEnd (s : State) (clu seq vb : Nat) : State :=
  let x := s.kvwSt clu
  match x.walks.find? fun w => w.1 == seq && w.2.1 == vb with
  | none => s
  | some (_, _, fill) =>
    let s := (s.setKvw clu { x with walks := x.walks.filter fun w => !(w.1 == seq && w.2.1 == vb) }).syncKvw clu
    let jobs : List (Bool × KvJob) := (x.gather.toList.map fun j => (false, j)) ++ (x.glean.toList.map fun j => (true, j))
    match jobs.filter fun j => j.2.waits seq vb with
    | [] => s
    | js@((g0, j0) :: _) =>
      let img := s.jobBank j0 (if g0 then kGln else kKv)
      match s.pool (kvAgent clu) img with
      | none => s
      | some p =>
        if s.poolBusy img then s.setKvw clu x else
        match s.walk (kvAgent clu) img p seq vb with
        | .poison da => js.foldl (fun s j => s.jobPoison clu j.1 j.2 da) s
        | r =>
          let lvl := match r with | .leaf _ w => if bit w 63 then 0 else 4 | .bad l => l | _ => 0
          let n := match r with | .leaf _ w => bits w 27 0 | _ => 0
          if lvl ≠ 0 then
            js.foldl (fun s j =>
              let s := s.log' (srcClu clu (if j.1 then 3 else 2)) 0xc002 2 [(2, j.2.core), (4, seq), (4, vb), (1, lvl)]
              if j.1 then s.glnStop j.2 else s.kvStop j.2) s
          else
            let y := s.kvwSt clu
            let s := if fill then s.setKvw clu { y with lab := labPut y.lab seq vb n } else s
            let s := js.foldl (fun s j => s.setJob clu j.1 { j.2 with got := KMap.set j.2.got vb n }) s
            js.foldl (fun s j => s.jobRun clu j.1) s

/-- KV_WALK_COMPLETE (R237). -/
def execKvWalkComplete (clu seq vb : Nat) (s : State) : Res := onUnit (s.cluOk clu) (.next (s.walkEnd clu seq vb))

/-- LAB_INVALIDATE (R237, R244): the entry goes, a walk of it will not fill, and the manager has this walker's acknowledgement. -/
def execLabInvalidate (clu seq vb : Nat) (s : State) : Res :=
  onUnit (s.cluOk clu) <| .next <|
    let x := s.kvwSt clu
    let s := s.setKvw clu { x with
      lab := x.lab.filter fun e => !(e.1 == seq && e.2.1 == vb)
      walks := x.walks.map fun w => if w.1 = seq ∧ w.2.1 = vb then (seq, vb, false) else w }
    match s.kv.cur with
    | some w =>
      if w.op.seq = seq ∧ w.op.vb = vb then
        ({ s with kv := { s.kv with cur := some { w with walkers := w.walkers.filter (· != clu) } } } : State).bopAcks
      else s
    | none => s

/-- LAB_FLUSH (R237). Walks under way serve their jobs and do not fill. -/
def State.labFlush (s : State) (clu : Nat) : State :=
  let x := s.kvwSt clu
  s.setKvw clu { x with lab := [], walks := x.walks.map fun w => (w.1, w.2.1, false) }

def execLabFlush (clu : Nat) (s : State) : Res := onUnit (s.cluOk clu) (.next (s.labFlush clu))

/-- At a commit beat every LAB is flushed, and operations wait until the manager has looked at the new pool (R247) (DEDUCED, log entry 31). -/
def State.kvSwitch (s : State) : State :=
  let s := s.walkers.foldl (fun s clu => s.labFlush clu) s
  { s with kv := { s.kv with taken := false } }

end Sys2Proof.Machine
end

