-- ==== Sys2Proof/Machine/Log.lean ====
section
/-! DEFINITION. The trouble log (chapter 24): intake, ring, coalescing, the log interrupt, the cursor, and the moves of the log between the
hubs (R470). -/
namespace Sys2Proof.Machine

/-! ### Entries -/

/-- The bytes of an entry (R471). -/
def Entry.bytes (e : Entry) : List Byte :=
  leBytes 8 e.beat ++ leBytes 8 e.wall ++ leBytes 4 e.source ++ leBytes 2 e.code ++ leBytes 1 e.sev ++ leBytes 1 e.rep ++ leBytes 8 0 ++ e.payload

/-- Slots of the ring (R468, R469). -/
def logRing : Nat := 262144

def State.mapLog (s : State) (f : LogSt → LogSt) : State := { s with log := f s.log }

/-- The intake's contents and LOG_STATUS.INTAKE (R481). -/
def State.setIntake (s : State) (l : List (Nat × Entry)) : State :=
  (s.mapLog fun g => { g with intake := l }).set .LOG_STATUS_INTAKE (min l.length 8191)

/-- Whether the intake has room for an event: 4,096 entries, 16 of them for severity 3, whose events are never discarded (R468, R476). While
no half has held the seal, the hub of each half has its own (R470). -/
def State.logRoom (s : State) (half sev : Nat) : Bool :=
  let mine := if s.log.started then s.log.intake else s.log.intake.filter fun e => e.1 == half
  sev == 3 || decide (mine.length < 4080)

/-! ### Intake (R468, R476) -/

/-- An event reaches its log hub: it enters the intake, or is discarded and counted (DEDUCED, log entry 54). -/
def State.logIn (s : State) (half : Nat) (e : Entry) : State :=
  if s.logRoom half e.sev then s.setIntake (s.log.intake ++ [(half, e)])
  else
    (s.mapLog fun g => { g with
      dropCount := g.dropCount + 1
      dropFirst := if g.dropCount = 0 then e.beat else g.dropFirst
      dropLast := e.beat }).bumpSat .LOG_STATUS_DROPPED

/-- LOG_EVENT_INTAKE (R468): event k of those on their way arrives, 0 the oldest. -/
def execLogEventIntake (k : Nat) (s : State) : Res :=
  match s.log.flight[k]? with
  | some (half, e) => .next ((s.mapLog fun g => { g with flight := g.flight.eraseIdx k }).logIn half e)
  | none => .next s

/-- LOG_DROP (R476, R483): room has returned after discards. -/
def State.logDrop (s : State) : State :=
  let g := s.log
  let half := s.get .LOG_STATUS_HUB
  if g.dropCount = 0 ∨ !s.logRoom half 1 then s
  else
    let e : Entry := ⟨s.now, s.get .BEAT_WALL_WALL, srcHub (2 * half) 10, 0xb060, 1, 0,
      payloadOf [(4, g.dropCount), (8, g.dropFirst), (8, g.dropLast)]⟩
    (s.mapLog fun g => { g with dropCount := 0, dropFirst := 0, dropLast := 0 }).logIn half e

/-- LOG_DROP (R476) (DEDUCED, log entry 54). -/
def execLogDrop (s : State) : Res := .next s.logDrop

/-! ### The ring (R469, R474, R477) -/

/-- Whether an event repeats an entry (R474). -/
def Entry.same (a e : Entry) : Bool :=
  a.source == e.source && a.code == e.code && a.sev == e.sev && a.payload == e.payload && decide (a.rep < 255)

/-- A new entry n: it overwrites the one a whole ring before, and raises the log interrupt by its severity. -/
def State.logNew (s : State) (n : Nat) (e : Entry) : State :=
  let ring := if logRing ≤ n then KMap.erase s.log.ring (n - logRing) else s.log.ring
  let s := s.mapLog fun g => { g with ring := KMap.set ring n e }
  let s := (if logRing ≤ n then s.bump .LOG_OVER_OVERWRITTEN else s).set .LOG_SEQ_NEXT ((n + 1) % 2 ^ 64)
  if e.sev = 3 then s.irq 1 true else if s.get .LOG_CFG_IRQ_SEV ≤ e.sev then s.irq 1 else s

/-- An event is written: coalesced with the newest entry that it repeats, or as the next entry. -/
def State.logWrite (s : State) (e : Entry) : State :=
  let n := s.get .LOG_SEQ_NEXT
  let prev := if n = 0 then none else KMap.get? s.log.ring (n - 1)
  match prev with
  | some a =>
    if a.same e then s.mapLog fun g => { g with ring := KMap.set g.ring (n - 1) { a with rep := a.rep + 1 } } else s.logNew n e
  | none => s.logNew n e

/-- LOG_APPEND (R469): the next entry of the intake, once a log exists (DESIGN CHOICE, log entry 7; DEDUCED, log entry 54). -/
def execLogAppend (s : State) : Res :=
  match s.log.started, s.log.intake with
  | true, (_, e) :: rest => .next ((s.setIntake rest).logWrite e)
  | _, _ => .next s

/-! ### Where the log is (R470) -/

/-- The payload of EV_RESET: kind, cause, die index or core ID (R452). -/
def resetPayload (kind cause unit : Nat) : List Byte := payloadOf [(1, kind), (1, cause), (2, unit)]

/-- Entries that wait, in beat order, half W first at equal beats. -/
def logMerge (l : List (Nat × Entry)) : List (Nat × Entry) :=
  l.mergeSort fun a b => decide (a.2.beat < b.2.beat) || (a.2.beat == b.2.beat && decide (a.1 ≤ b.1))

/-- A half first holds the seal since a cold reset, or start-up has failed with no holder: the log begins with EV_RESET, and what waited in
both intakes follows. -/
def State.logStart (s : State) (half : Nat) : State :=
  if s.log.started then s
  else
    let e : Entry := ⟨0, 0, srcHub (2 * half) 12, 0xb001, 0, 0, resetPayload 0 (s.get .RST_STATUS_CAUSE) 0⟩
    let s := (s.mapLog fun g => { g with started := true }).set .LOG_STATUS_HUB half
    s.setIntake ((half, e) :: logMerge s.log.intake)

/-- The log moves to a half's hub with its entries: SEG and the numbering go on, and a segment that this hub kept is lost. -/
def State.logMove (s : State) (half : Nat) : State :=
  if s.get .LOG_STATUS_HUB = half then s
  else (s.mapLog fun g => { g with oldSeg := match g.oldSeg with | some o => if o.1 = half then none else some o | none => none }).set
    .LOG_STATUS_HUB half

/-- A half takes the seal with cause LOST: SEG rises, numbering begins again in its hub, and the old segment stays in the old hub. -/
def State.logTake (s : State) (half : Nat) : State :=
  if s.get .LOG_STATUS_HUB = half then s
  else
    let old := s.get .LOG_STATUS_HUB
    let seg := s.get .LOG_STATUS_SEG
    let s := s.mapLog fun g => { g with oldSeg := some (old, seg, g.ring), ring := [] }
    (((s.set .LOG_STATUS_SEG ((seg + 1) % 65536)).set .LOG_SEQ_NEXT 0).set .LOG_OVER_OVERWRITTEN 0).set .LOG_STATUS_HUB half

/-! ### Reading (R478, R479) -/

/-- The entries and NEXT of a segment that is held: the current one, or the previous one where it is kept. -/
def State.logSeg (s : State) (seg : Nat) : Option (KMap Nat Entry × Nat) :=
  if seg = s.get .LOG_STATUS_SEG then some (s.log.ring, s.get .LOG_SEQ_NEXT)
  else match s.log.oldSeg with
    | some (_, n, l) => if n = seg then some (l, l.foldl (fun m e => max m (e.1 + 1)) 0) else none
    | none => none

/-- The cursor latches its entry: STATE, and LOG_DATA where the entry is held. -/
def State.logLatch (s : State) : State :=
  let n := s.get .LOG_CURSOR_SEQ
  match s.logSeg (s.get .LOG_CURSOR_SEG) with
  | none => s.set .LOG_CURSOR_STATE 3
  | some (l, next) =>
    if next ≤ n then s.set .LOG_CURSOR_STATE 2
    else match KMap.get? l n with
      | some e => (List.range 8).foldl (fun s i => s.set .LOG_DATA_DATA (field e.bytes (8 * i) 8) 0 i) (s.set .LOG_CURSOR_STATE 0)
      | none => s.set .LOG_CURSOR_STATE 1

/-- A write of LOG_CURSOR (R478, R481). -/
def State.cursorWrite (s : State) (val : Word) : State :=
  ((s.set .LOG_CURSOR_SEG (bits val.toNat 63 48)).set .LOG_CURSOR_SEQ (bits val.toNat 47 2)).logLatch

/-- LOG_CURSOR_WRITE (R478). -/
def execLogCursorWrite (_by : Agent) (val : Word) (s : State) : Res := .next (s.cursorWrite val)

/-- A read of LOG_DATA7 (R478): the cursor goes on while STATE reads VALID or OVERWRITTEN, and latches the same number again while it reads
NOT_WRITTEN. -/
def State.logNextRead (s : State) : State :=
  let st := s.get .LOG_CURSOR_STATE
  if st < 2 then (s.set .LOG_CURSOR_SEQ ((s.get .LOG_CURSOR_SEQ + 1) % 2 ^ 46)).logLatch else if st = 2 then s.logLatch else s

/-- The reply to a LOG_READ (R479): segment, first number, count, NEXT, LOG_OVER, and the entries (DEDUCED, log entry 54). -/
def State.logRead (s : State) (seg n count : Nat) : Nat × Nat × List Entry :=
  match s.logSeg seg with
  | none => (n, 0, [])
  | some (l, next) =>
    let first := max n (next - logRing)
    let es := (List.range (min count 16)).filterMap fun i => KMap.get? l (first + i)
    (first, es.length, es)

end Sys2Proof.Machine
end

