-- ==== Sys2Proof/Machine/Vce.lean ====
section
/-! DEFINITION. The codec engines (chapter 19): streams and their frame pool, items, frames, and how an engine chooses. What a bitstream
decodes to, and the bits of an encode, are those of the video standards (Config.vceDecode, Config.vceEncode). -/
namespace Sys2Proof.Machine

/-! ### Items (R383) -/

def vOp (d : Desc) : Nat := dbits d 0 39 32
def vSlot (d : Desc) : Nat := dbits d 0 44 40
def vLive (d : Desc) : Bool := dbit d 0 45
def vSig (d : Desc) : Bool := dbit d 0 46
def vBs (d : Desc) : Nat := dbits d 1 42 0
def vBsLen (d : Desc) : Nat := dbits d 2 31 0
def vBsCap (d : Desc) : Nat := dbits d 2 63 32
def vDeadline (d : Desc) : Nat := dbits d 3 63 0
def vPic (d : Desc) : Nat := dbits d 4 42 0
def vDst (d : Desc) : Nat := dbits d 5 42 0
def vLayout (d : Desc) : Nat := dbits d 5 44 43
def vFmt (d : Desc) : Nat := dbits d 5 48 45
def vRes (d : Desc) : Nat := dbits d 6 42 0
def vTarget (d : Desc) : Nat := dbits d 6 52 43
def vCounter (d : Desc) : Nat := dbits d 6 58 53
def vCtx (d : Desc) : Nat := dbits d 7 42 0
def vPitch (d : Desc) : Nat := 64 * (dbits d 7 15 0 + 1)
def vKey (d : Desc) : Bool := dbit d 7 16

/-- Reserved bits of an item (R143, R383). -/
def vReserved : List (Nat × Nat × Nat) := [(0, 15, 5), (0, 63, 47), (1, 63, 43), (4, 63, 43), (5, 63, 49), (6, 63, 59), (7, 63, 43)]

/-! ### The engine -/

def State.vceOf (s : State) (e : Nat) : VceSt := KMap.get s.vce e VceSt.init

/-- Whether an engine stands still at its frame boundary (R370, R396, R421). -/
def State.vceStopped (s : State) (e : Nat) : Bool :=
  s.get .ESC_STATUS_FROZEN == 1 || s.clk.stopped || s.rst.inReset.contains (32 + e / 2) || decide (3 ≤ s.get .PWR_STATE_CURRENT)

/-- VCE_STATUS follows the engine (R397). -/
def State.setVce (s : State) (e : Nat) (x : VceSt) : State :=
  let s := { s with vce := KMap.set s.vce e x }
  let st := match x.job with
    | some j => if j.waiting then 3 else if vOp j.d = 2 then 1 else 2
    | none => if s.vceStopped e then 4 else 0
  (s.set .VCE_STATUS_OPEN x.streams.length e).set .VCE_STATUS_STATE st e

def State.setStream (s : State) (e slot : Nat) (st : VceStream) : State :=
  let x := s.vceOf e
  s.setVce e { x with streams := KMap.set x.streams slot st }

/-- The engine as a requester: a unit of its hub. -/
def vceAgent (e : Nat) : Agent := .unit (32 + e / 2) (srcCodec e)

/-- The carve that an engine works under: that of its frame's beginning (R44). -/
def State.vceImg (s : State) (e : Nat) : Image :=
  match (s.vceOf e).job with | some j => s.carveFor j.start | none => s.bank (unitLedger 0)
def State.vceRd (s : State) (e da n : Nat) : List Byte := s.rdDa (vceAgent e) (s.vceImg e) da n
def State.vceWr (s : State) (e da : Nat) (bs : List Byte) : State := s.wrDa (vceAgent e) (s.vceImg e) da bs
def State.vceMapped (s : State) (e da n : Nat) : Bool := s.range (vceAgent e) (s.vceImg e) da n == .ok

/-- An item is refused (R384). -/
def State.vceRefuse (s : State) (e qid : Nat) (d : Desc) (b : BadField) : State :=
  (s.bump .VCE_STATUS_REFUSED 1 e).log' (srcCodec e) 0x9001 2 [(1, e), (4, qid), (1, vSlot d), (1, vOp d), (2, b.1), (8, b.2)]

/-- A stream ends (R396): causes 0 close, 1 overflow, 2 size, 3 region change, 4 reset. -/
def State.endStream (s : State) (e slot cause : Nat) : State :=
  let x := s.vceOf e
  (s.setVce e { x with streams := KMap.erase x.streams slot }).log' (srcCodec e) 0x9006 1 [(1, e), (1, slot), (1, cause)]

/-! ### The stream context (R386) -/

def cCodec (c : List Byte) : Nat := field c 0 1
def cDir (c : List Byte) : Nat := field c 1 1
def cW (c : List Byte) : Nat := field c 4 2
def cH (c : List Byte) : Nat := field c 6 2
def cDepth (c : List Byte) : Nat := field c 8 1
def cChroma (c : List Byte) : Nat := field c 9 1
def cBufs (c : List Byte) : Nat := field c 10 1
def cBufBytes (c : List Byte) : Nat := field c 12 4
def cBufBase (c : List Byte) : Nat := field c 16 8

/-- Bytes of a sample (R386). -/
def cSample (c : List Byte) : Nat := if cDepth c = 10 then 2 else 1

/-- The planes of a picture: width and height in samples. -/
def cPlanes (c : List Byte) : List (Nat × Nat) :=
  (cW c, cH c) :: match cChroma c with
    | 1 => [(cW c / 2, cH c / 2), (cW c / 2, cH c / 2)]
    | 2 => [(cW c / 2, cH c), (cW c / 2, cH c)]
    | _ => []

def planePitch (c : List Byte) (w : Nat) : Nat := roundUp (w * cSample c) 64
/-- The first byte of plane k, and the bytes of planes. -/
def planesLen (c : List Byte) (ps : List (Nat × Nat)) : Nat := (ps.map fun p => planePitch c p.1 * p.2).foldl (· + ·) 0
def planeOff (c : List Byte) (ps : List (Nat × Nat)) (k : Nat) : Nat := planesLen c (ps.take k)

/-- The planes of motion search beside an encode's picture: a quarter and a sixteenth of the area (R389). -/
def cSearch (c : List Byte) : List (Nat × Nat) := if cDir c = 1 then [(cW c / 2, cH c / 2), (cW c / 4, cH c / 4)] else []

/-- The depths and chroma forms of a profile (R380). -/
def profileOk (codec dir prof depth chroma : Nat) : Bool :=
  match codec, dir, prof with
  | 0, 0, 0 => depth == 8 && decide (chroma ≤ 1)
  | 1, _, 0 => depth == 8 && chroma == 1
  | 1, 0, 1 => (depth == 8 || depth == 10) && decide (chroma ≤ 1)
  | 1, 1, 1 => (depth == 8 || depth == 10) && chroma == 1
  | 1, 0, 2 => (depth == 8 || depth == 10) && decide (chroma ≤ 2)
  | 2, 0, 0 => (depth == 8 || depth == 10) && decide (chroma ≤ 1)
  | 2, 1, 0 => (depth == 8 || depth == 10) && chroma == 1
  | _, _, _ => false

/-- Whether a context is one that R380 and R386 allow. -/
def ctxOk (c : List Byte) : Bool :=
  let least := if cDir c = 1 then 64 else 16
  decide (cCodec c ≤ 2 ∧ cDir c ≤ 1) && profileOk (cCodec c) (cDir c) (field c 2 1) (cDepth c) (cChroma c) && within 1 (field c 3 1) 61 &&
    within least (cW c) 8192 && within least (cH c) 4352 &&
    (cChroma c == 0 || cW c % 2 == 0) && (cChroma c != 1 || cH c % 2 == 0) && within 2 (cBufs c) 32 && decide (field c 11 1 ≤ 2) &&
    cBufBytes c % 4096 == 0 && decide (planesLen c (cPlanes c ++ cSearch c) ≤ cBufBytes c) && cBufBase c % 4096 == 0 &&
    (cDir c == 0 || (decide (field c 29 1 ≤ 3) && decide (1 ≤ field c 30 2))) && zeroAt c 32 32

/-- Whether a range lies in a kind-7 region of the carve (R182, R386). -/
def State.inPool (s : State) (e da n : Nat) : Bool :=
  decide ((s.vceImg e).epoch ≠ 0) && (s.regionAt (s.vceImg e) da).any fun r => r.kind == 7 && decide (da + n ≤ r.base + r.len)

/-! ### Checks (R384) -/

def dAligned (da : Nat) : Bool := da % 64 == 0

/-- Checks that every item has (R142, R143, R383): class, EOP, reserved bits, OP. -/
def vHead (d : Desc) : Option BadField :=
  (firstReserved d vReserved).orElse fun _ =>
    firstBad [(descClass d == 14, 0, descClass d), (descEop d, 4, 0), (within 1 (vOp d) 6, 32, vOp d)]

/-- Checks of the record and the signal that a frame's item names (R383, R385). -/
def State.vEndBad (s : State) (e : Nat) (d : Desc) : List (Bool × BadField) :=
  [(dAligned (vRes d) && s.vceMapped e (vRes d) 64, 384, vRes d),
   (!vSig d || (decide (vTarget d / 8 % 16 < 12) && s.dieOk (vTarget d / 128)), 384 + 43, vTarget d)]

/-- The first field at fault of an item for an engine. -/
def State.vFault (s : State) (e : Nat) (d : Desc) : Option BadField :=
  (vHead d).orElse fun _ =>
    let x := s.vceOf e
    let slot : BadField := (40, vSlot d)
    match vOp d, KMap.get? x.streams (vSlot d) with
    | 1, some _ => some slot
    | 1, none =>
      let c := s.vceRd e (vCtx d) 64
      firstBad [(dAligned (vCtx d) && s.inPool e (vCtx d) (64 + 16 * cBufs c) && (s.poisonDa (vceAgent e) (s.vceImg e) (vCtx d) 64).isNone &&
        ctxOk c && s.inPool e (cBufBase c) (cBufs c * cBufBytes c), 448, vCtx d)]
    | _, none => some slot
    | 2, some st =>
      let c := st.ctx
      let map := vLayout d == 2 || vLayout d == 3
      firstBad ([(cDir c == 0, 32, vOp d), (dAligned (vBs d) && s.vceMapped e (vBs d) (vBsLen d), 64, vBs d),
        (!map || (dAligned (vDst d) && decide (0x40000000000 ≤ vDst d) && (blocksOf (vDst d) (cW c * cH c * 64)).all s.txnBlock), 320, vDst d),
        (!map || vFmt d == 1 || (vFmt d == 8 && cDepth c == 8), 320 + 45, vFmt d)] ++ s.vEndBad e d)
    | 3, some st =>
      let c := st.ctx
      firstBad ([(cDir c == 1, 32, vOp d), (dAligned (vBs d) && s.vceMapped e (vBs d) (vBsCap d), 64, vBs d),
        (dAligned (vPic d) && s.vceMapped e (vPic d) (((cPlanes c).map fun p => vPitch d * p.2).foldl (· + ·) 0), 256, vPic d)] ++
        s.vEndBad e d ++ [((cPlanes c).all fun p => decide (p.1 * cSample c ≤ vPitch d), 448, dbits d 7 15 0)])
    | 4, some st =>
      firstBad [(decide (vBs d < cBufs st.ctx) && (KMap.get? st.marks (vBs d)).any (·.held), 64, vBs d)]
    | 5, some st =>
      firstBad ([(cDir st.ctx == 0 || (dAligned (vBs d) && s.vceMapped e (vBs d) (vBsCap d)), 64, vBs d)] ++ s.vEndBad e d)
    | _, some _ => none

/-! ### Marks (R387) -/

def VceMark.init : VceMark := ⟨false, false, false, 0, 0, 0⟩

/-- The bytes of a mark record. -/
def VceMark.bytes (m : VceMark) : List Byte :=
  leBytes 1 (b2n m.ref + 2 * b2n m.long + 4 * b2n m.held) ++ leBytes 3 0 ++ leBytes 4 m.order ++ leBytes 4 m.frame ++ leBytes 4 0

/-- A buffer's marks change, here and in its record. -/
def State.setMark (s : State) (e slot buf : Nat) (m : VceMark) : State :=
  match KMap.get? (s.vceOf e).streams slot with
  | some st => (s.setStream e slot { st with marks := KMap.set st.marks buf m }).vceWr e (st.ctxDa + 64 + 16 * buf) m.bytes
  | none => s

/-- Buffers with no mark set, lowest first. -/
def VceStream.freeBufs (st : VceStream) : List Nat :=
  (List.range (cBufs st.ctx)).filter fun b => let m := KMap.get st.marks b VceMark.init; !(m.ref || m.long || m.held)

/-! ### Pictures -/

/-- A sample of a picture's bytes. -/
def sampleAt (c bs : List Byte) (off pitch x y : Nat) : Nat :=
  let b := cSample c
  field bs (off + y * pitch + x * b) b % 1024

/-- The map of a picture (R216, R388): Y, Cb and Cr of each position, each chroma sample repeated over the positions that it covers. A
picture without chroma has free values there, from number free on. -/
def mapBytes (c bs : List Byte) (fmt : Fmt) (free : Nat) : List Byte :=
  let ps := cPlanes c
  let code (v : Nat) : Nat :=
    if fmt = .i8 then (v + 128) % 256 else (convert (.fin ⟨false, v, 2 ^ cDepth c - 1, 0⟩) fmt .rne false).1
  (List.range (cW c * cH c)).flatMap fun i =>
    let x := i % cW c
    let y := i / cW c
    let v (k : Nat) : Nat :=
      match ps[k]? with
      | some (w, h) => code (sampleAt c bs (planeOff c ps k) (planePitch c w) (x * w / cW c) (y * h / cH c))
      | none => (Config.freeValue (free + 2 * i + k)).toNat
    let b := packRow fmt [v 0, v 1, v 2]
    b ++ List.replicate (64 - b.length) 0

/-- A plane of half the width and height: the mean of each 2 x 2 group, rounded half up (R389). -/
def halvePlane (c bs : List Byte) (off w h : Nat) : List Byte :=
  let p := planePitch c w
  let q := planePitch c (w / 2)
  (List.range (h / 2)).flatMap fun y =>
    let row := (List.range (w / 2)).flatMap fun x =>
      let v (i j : Nat) := sampleAt c bs off p (2 * x + i) (2 * y + j)
      leBytes (cSample c) ((v 0 0 + v 1 0 + v 0 1 + v 1 1 + 2) / 4)
    row ++ List.replicate (q - row.length) 0

/-- A picture's bytes with the planes of motion search behind it (R386, R389). -/
def withSearch (c bs : List Byte) : List Byte :=
  let q := halvePlane c bs 0 (cW c) (cH c)
  bs ++ q ++ halvePlane c q 0 (cW c / 2) (cH c / 2)

/-- The source picture of an ENCODE in the layout of a frame buffer (R386): its planes follow one another with row pitch PIC_LD (DEDUCED, log entry 40). -/
def State.sourcePic (s : State) (e : Nat) (c : List Byte) (d : Desc) : List Byte :=
  (List.range (cPlanes c).length).flatMap fun k =>
    let p := (cPlanes c).getD k (0, 0)
    let base := vPic d + (((cPlanes c).take k).map fun q => vPitch d * q.2).foldl (· + ·) 0
    (List.range p.2).flatMap fun y =>
      let row := s.vceRd e (base + y * vPitch d) (p.1 * cSample c)
      row ++ List.replicate (planePitch c p.1 - row.length) 0

/-- Whether the requests of a stream, or of an item of it, wait for memory (R189, R396). -/
def State.vceBusy (s : State) (e : Nat) (d : Desc) : Bool :=
  let pool := match KMap.get? (s.vceOf e).streams (vSlot d) with
    | some st => [(cBufBase st.ctx, cBufs st.ctx * cBufBytes st.ctx), (st.ctxDa, 64 + 16 * cBufs st.ctx)]
    | none => [(vCtx d, 64 + 16 * 32)]
  let own := match vOp d with
    | 2 => [(vBs d, vBsLen d), (vRes d, 64)]
    | 3 => [(vBs d, vBsCap d), (vPic d, match KMap.get? (s.vceOf e).streams (vSlot d) with
        | some st => ((cPlanes st.ctx).map fun p => vPitch d * p.2).sum
        | none => 0), (vRes d, 64)]
    | 5 => [(vBs d, vBsCap d), (vRes d, 64)]
    | _ => []
  (pool ++ own).any fun p => s.memBusy (s.vceImg e) p.1 p.2

/-- Poisoned places of a range, as distances from its start. -/
def State.badPlaces (s : State) (e da n : Nat) : List Nat :=
  ((blocksOf da n).filter fun b => (s.poisonDa (vceAgent e) (s.vceImg e) b 64).isSome).map fun b => b - da

/-! ### Frames -/

def State.bufDa (c : List Byte) (b : Nat) : Nat := cBufBase c + b * cBufBytes c

/-- EV_VCE_POOL_WAIT (R394, R398) (DEDUCED, log entry 40). -/
def State.poolWait (s : State) (e : Nat) (d : Desc) (st : VceStream) : State :=
  s.log' (srcCodec e) 0x9004 1
    [(1, e), (1, vSlot d), (1, cBufs st.ctx), (1, (st.marks.filter fun m => m.2.held).length)]

/-- A DECODE runs (R388, R395): its pictures go to the lowest free buffers, and the last one shown to the map. It waits where too few
buffers are free. -/
def State.decodeGo (s : State) (e : Nat) (j : VceJob) (st : VceStream) : State :=
  let c := st.ctx
  let x := s.vceOf e
  let n := planesLen c (cPlanes c)
  let kept := st.marks.filter fun m => m.2.ref
  let refs := kept.map fun m => (m.2.frame, s.vceRd e (State.bufDa c m.1) n)
  let bad := s.badPlaces e (vBs j.d) (vBsLen j.d) ++ kept.flatMap fun m => s.badPlaces e (State.bufDa c m.1) n
  let au := s.vceRd e (vBs j.d) (vBsLen j.d)
  let out := Config.vceDecode c st.hist refs au bad
  let free := st.freeBufs
  if !out.big ∧ free.length < out.pics.length then
    let s := s.setVce e { x with job := some { j with waiting := true } }
    if j.waiting then s else s.poolWait e j.d st
  else if out.big then
    s.setVce e { x with job := some { j with waiting := false, rec_ := ⟨3, 0xff, st.frames, 0, 0, 0, 0⟩ } }
  else
    let pics := (out.pics.zip free).zipIdx.map fun ((p, b), i) => (b, p.order % 2 ^ 32, st.frames + i, p)
    let s := pics.foldl (fun s (b, _, _, p) => s.vceWr e (State.bufDa c b) ((List.range n).map p.byte)) s
    let here := pics.map fun (b, o, f, _) => (b, o, f)
    let old := st.marks.map fun m => (m.1, m.2.order, m.2.frame)
    let top := (here ++ old).filter fun p => out.shown.contains p.2.2
    let last := top.foldl (fun (a : Option (Nat × Nat × Nat)) p => match a with
      | some q => if q.2.2 < p.2.2 then some p else some q
      | none => some p) none
    let s := match last with
      | some (b, _, _) =>
        if vLayout j.d = 2 ∨ vLayout j.d = 3 then
          let s := s.vceWr e (vDst j.d) (mapBytes c (s.vceRd e (State.bufDa c b) n) (if vFmt j.d = 8 then .i8 else .fp16) s.free)
          if cChroma c = 0 then s.ticks (2 * (cW c * cH c) + 1) else s
        else s
      | none => s
    let r : VceRec := ⟨if out.errs = 0 ∧ bad = [] then 0 else 1, (last.map (·.1)).getD 0xff, (last.map (·.2.2)).getD (st.frames + out.pics.length - 1),
      (last.map (·.2.1)).getD 0, 0, out.errs % 2 ^ 32, if bad ≠ [] then 2 else out.cause⟩
    let st := { st with hist := st.hist ++ [au], frames := st.frames + out.pics.length }
    (s.setStream e (vSlot j.d) st).setVce e { x with
      streams := KMap.set x.streams (vSlot j.d) st
      job := some { j with waiting := false, rec_ := r, pics := here, keep := out.keep, shown := out.shown, coded := out.pics.length, nums := [] } }

/-- An ENCODE or FLUSH of an encode stream runs (R386, R390, R391). An ENCODE copies its picture into the lowest free buffer, and waits
where none is free; a FLUSH codes what waits. A frame whose bytes exceed BS_CAP is coded again at the largest QP; where it still does
not fit, nothing is written. -/
def State.encodeGo (s : State) (e : Nat) (j : VceJob) (st : VceStream) : State :=
  let c := st.ctx
  let x := s.vceOf e
  let flush := vOp j.d == 5
  let n := planesLen c (cPlanes c)
  match st.freeBufs, flush with
  | [], false =>
    let s := s.setVce e { x with job := some { j with waiting := true } }
    if j.waiting then s else s.poolWait e j.d st
  | free, _ =>
    let src := if flush then [] else s.sourcePic e c j.d
    let bad := if flush then [] else s.badPlaces e (vPic j.d) n
    let flags := if flush then 4 else b2n (vKey j.d)
    let one := Config.vceEncode c (st.srcs ++ [(src, flags)]) bad
    let again := decide (vBsCap j.d < one.bytes.length)
    let out := if again then Config.vceEncode c (st.srcs ++ [(src, flags + 2)]) bad else one
    let k := st.srcs.length
    let nums := out.coded.zipIdx.map fun (p, i) => (p, st.frames + i)
    let buf := free.headD 0
    let here := if flush then [] else [(buf, k, k)]
    let st := { st with srcs := st.srcs ++ [(src, if again then flags + 2 else flags)], frames := st.frames + out.coded.length }
    let s := if flush then s else s.vceWr e (State.bufDa c buf) (withSearch c src)
    if vBsCap j.d < out.bytes.length then
      s.setVce e { x with
        streams := KMap.set x.streams (vSlot j.d) st
        job := some { j with waiting := false, rec_ := ⟨2, 0xff, out.frame % 2 ^ 32, out.order % 2 ^ 32, out.bytes.length, 0, 0⟩ } }
    else
      let s := s.vceWr e (vBs j.d) out.bytes
      let held := st.marks.map fun m => (m.1, m.2.order, m.2.place)
      let s := (here ++ held).foldl (fun s p =>
        if out.coded.contains p.2.2 then s.vceWr e (State.bufDa c p.1) (withSearch c ((List.range n).map (out.recon p.2.2))) else s) s
      let r : VceRec := ⟨0, if flush then 0xff else buf, out.frame % 2 ^ 32, out.order % 2 ^ 32, out.bytes.length, 0, 0⟩
      s.setVce e { x with
        streams := KMap.set x.streams (vSlot j.d) st
        job := some { j with waiting := false, rec_ := r, pics := here, keep := out.keep.take 4, shown := out.coded, coded := out.coded.length, nums := nums } }

/-- The frame in progress runs, or goes on waiting: for its memory (R396), or for a buffer. A FLUSH of a decode stream outputs nothing (R388)
(DEDUCED, log entry 40). -/
def State.frameGo (s : State) (e : Nat) (j : VceJob) : State :=
  match KMap.get? (s.vceOf e).streams (vSlot j.d) with
  | none => s
  | some st =>
    let wait := s.vceBusy e j.d
    let j := { j with stuck := wait }
    if wait then s.setVce e { s.vceOf e with job := some j }
    else if cDir st.ctx = 1 then s.encodeGo e j st
    else if vOp j.d = 2 then s.decodeGo e j st
    else s.setVce e { s.vceOf e with job := some j }

/-- A frame's item is taken (R385, R392). -/
def State.frameStart (s : State) (e qid : Nat) (d : Desc) : State :=
  let s := match KMap.get? (s.vceOf e).streams (vSlot d) with
    | some st => if vLive d then s.setStream e (vSlot d) { st with live := true } else s
    | none => s
  s.frameGo e ⟨qid, d, s.now, false, ⟨0, 0xff, 0, 0, 0, 0, 0⟩, [], [], [], 0, [], false⟩

/-- OPEN (R386): the slot opens with the context; its mark records read free (DEDUCED, log entry 40). -/
def State.vceOpen (s : State) (e : Nat) (d : Desc) : State :=
  let c := s.vceRd e (vCtx d) 64
  let s := s.setStream e (vSlot d) ⟨c, vCtx d, [], [], 0, [], false, none, false⟩
  (List.range (cBufs c)).foldl (fun s b => s.vceWr e (vCtx d + 64 + 16 * b) VceMark.init.bytes) s

/-- RELEASE (R387). -/
def State.vceRelease (s : State) (e : Nat) (d : Desc) : State :=
  match KMap.get? (s.vceOf e).streams (vSlot d) with
  | some st => s.setMark e (vSlot d) (vBs d) { KMap.get st.marks (vBs d) VceMark.init with held := false }
  | none => s

/-- An item that an engine has taken at a frame boundary (R384, R392): refused, or done. While a frame waits for a buffer, only OPEN,
RELEASE and CLOSE are taken (R392, R394) (DEDUCED, log entry 40). -/
def State.vceItem (s : State) (e qid : Nat) (d : Desc) : State :=
  let x := s.vceOf e
  let quick := vOp d == 1 || vOp d == 4 || vOp d == 6
  let at_ := match x.job with | some j => j.waiting && quick | none => true
  if !at_ || s.vceStopped e || (quick && s.vceBusy e d) then s
  else
    match s.gatedAt (nodeCodec e) with
    | some n =>
      (s.bump .VCE_STATUS_REFUSED 1 e).log' (srcCodec e) 0x1004 2 [(4, srcCodec e), (2, n), (1, descClass d)]
    | none =>
      match s.vFault e d with
      | some b => s.vceRefuse e qid d b
      | none =>
        match vOp d with
        | 1 => s.vceOpen e d
        | 4 => s.vceRelease e d
        | 6 =>
          let s := if x.job.any fun j => vSlot j.d == vSlot d then s.setVce e { x with job := none } else s
          s.endStream e (vSlot d) 0
        | _ => s.frameStart e qid d

def State.engineOk (s : State) (e : Nat) : Bool := decide (e < s.ident.engines)

/-- An item given to the row of its operation; one of an operation that R383 does not list is refused by any row (R384). -/
def State.vceRow (s : State) (e qid : Nat) (d : Desc) (op : Nat) : Res :=
  onUnit (s.engineOk e) (if vOp d = op ∨ !within 1 (vOp d) 6 then .next (s.vceItem e qid d) else .fault .otherRow)

/-- CODEC_OPEN (R386). -/
def execCodecOpen (e qid : Nat) (d : Desc) (s : State) : Res := s.vceRow e qid d 1
/-- CODEC_DECODE (R388). -/
def execCodecDecode (e qid : Nat) (d : Desc) (s : State) : Res := s.vceRow e qid d 2
/-- CODEC_ENCODE (R386, R390). -/
def execCodecEncode (e qid : Nat) (d : Desc) (s : State) : Res := s.vceRow e qid d 3
/-- CODEC_RELEASE (R387). -/
def execCodecRelease (e qid : Nat) (d : Desc) (s : State) : Res := s.vceRow e qid d 4
/-- CODEC_FLUSH (R391). -/
def execCodecFlush (e qid : Nat) (d : Desc) (s : State) : Res := s.vceRow e qid d 5
/-- CODEC_CLOSE (R396). -/
def execCodecClose (e qid : Nat) (d : Desc) (s : State) : Res := s.vceRow e qid d 6

/-- CODEC_BUFFER_RESUME (R394). -/
def execCodecBufferResume (e : Nat) (s : State) : Res :=
  onUnit (s.engineOk e) (.next (match (s.vceOf e).job with
    | some j => if j.waiting && !s.vceStopped e then s.frameGo e j else s
    | none => s))

/-! ### Completion (R385, R387, R393) -/

/-- The bytes of a completion record. -/
def VceRec.toBytes (r : VceRec) (start now : Nat) : List Byte :=
  leBytes 1 r.status ++ leBytes 1 r.buf ++ leBytes 2 0 ++ leBytes 4 r.frame ++ leBytes 4 r.order ++ leBytes 4 (if r.status = 2 then 0 else r.bytes) ++
    leBytes 4 r.errs ++ leBytes 4 0 ++ leBytes 8 start ++ leBytes 8 now ++ leBytes 24 0

/-- REF, LONG and HELD of every buffer as a frame leaves them. -/
def State.frameMarks (s : State) (e : Nat) (j : VceJob) : State :=
  match KMap.get? (s.vceOf e).streams (vSlot j.d) with
  | none => s
  | some st =>
    (List.range (cBufs st.ctx)).foldl (fun s b =>
      let old := KMap.get st.marks b VceMark.init
      let m : VceMark := match j.pics.find? fun p => p.1 == b with
        | some (_, o, f) => ⟨false, false, false, o, f, f⟩
        | none => old
      let mine := j.pics.any (fun p => p.1 == b) || old.ref || old.long || old.held
      let k := j.keep.find? fun p => p.1 == m.place
      let shown := j.shown.contains m.place && (vLayout j.d == 1 || vLayout j.d == 3)
      if mine then s.setMark e (vSlot j.d) b { m with frame := KMap.get j.nums m.place m.frame, ref := k.isSome, long := k.any (·.2), held := m.held || shown } else s) s

/-- A live frame's lateness (R393). -/
def State.frameLate (s : State) (e : Nat) (j : VceJob) : State :=
  if !vLive j.d ∨ s.now ≤ vDeadline j.d then s
  else
    let late := s.now - vDeadline j.d
    let s := s.bumpSat .VCE_LATE_FRAMES 1 e
    let s := if s.get .VCE_LATE_WORST e < late then s.set .VCE_LATE_WORST (min late (2 ^ 32 - 1)) e else s
    match KMap.get? (s.vceOf e).streams (vSlot j.d) with
    | some st =>
      if st.lateAt.all fun b => decide (b + 65536 ≤ s.now) then
        (s.setStream e (vSlot j.d) { st with lateAt := some s.now }).log' (srcCodec e) 0x9003 1
          [(1, e), (1, vSlot j.d), (4, j.rec_.frame), (8, vDeadline j.d), (8, late)]
      else s
    | none => s

/-- The frame in progress completes (R385, R387, R391, R393, R395, R396). -/
def State.frameEnd (s : State) (e : Nat) (j : VceJob) : State :=
  let slot := vSlot j.d
  let ending := (KMap.get? (s.vceOf e).streams slot).any (·.ending)
  let lumas := match KMap.get? (s.vceOf e).streams slot with | some st => cW st.ctx * cH st.ctx | none => 0
  let r := if ending then { j.rec_ with status := 3 } else j.rec_
  let s := s.frameMarks e j
  let s := if vOp j.d = 2 then s.bumpSat .VCE_FRAMES_DECODED j.coded e else s.bumpSat .VCE_FRAMES_ENCODED j.coded e
  let s := s.bump .VCE_PIXELS_COUNT (j.coded * lumas) e
  let s := s.vceWr e (vRes j.d) (r.toBytes j.start s.now)
  let s := if vSig j.d then s.sendSignal (vTarget j.d) (vCounter j.d) 1 else s
  let s := if j.rec_.status = 1 then
      s.log' (srcCodec e) 0x9002 1 [(1, e), (1, slot), (4, r.frame), (4, r.errs), (1, r.cause)] else s
  let s := s.frameLate e j
  let s := s.setVce e { s.vceOf e with job := none }
  if j.rec_.status = 2 then
    (s.log' (srcCodec e) 0x9005 2 [(1, e), (1, slot), (4, r.frame), (4, vBsCap j.d), (4, r.bytes)]).endStream e slot 1
  else if j.rec_.status = 3 then s.endStream e slot 2
  else
    ((s.vceOf e).streams.filter fun x => x.2.ending).foldl (fun s x => s.endStream e x.1 3) s

/-- CODEC_FRAME_COMPLETE (R385): a frame whose requests wait goes on waiting (R396). -/
def execCodecFrameComplete (e : Nat) (s : State) : Res :=
  onUnit (s.engineOk e) (.next (match (s.vceOf e).job with
    | some j => if j.waiting || j.stuck || s.clk.stopped || s.vceBusy e j.d then s else s.frameEnd e j
    | none => s))

/-- Frames that waited for memory run (R189, R396). -/
def State.vceResume (s : State) : State :=
  (List.range s.ident.engines).foldl (fun s e => match (s.vceOf e).job with
    | some j => if j.stuck && !s.vceStopped e then s.frameGo e j else s
    | none => s) s

/-! ### The next item (R392) -/

/-- A candidate: binding, queue, level and item. -/
structure VceCand where
  bind : Nat
  qid : Nat
  level : Nat
  d : Option Desc
deriving DecidableEq, Repr

/-- The next packets of the bound queues that name the engine as reader (R383). -/
def State.vceCands (s : State) (e : Nat) : List VceCand :=
  (List.range 8).filterMap fun i =>
    if s.get .VCE_QBIND_VALID e i = 1 then
      let q := s.get .VCE_QBIND_QID e i
      match s.qPeek q with
      | some (v, l, item) => if qReaderKind v = 3 ∧ qReader v = e then some ⟨i, q, l, item⟩ else none
      | none => none
    else none

/-- Whether an item is taken at once at any boundary: OPEN, RELEASE, CLOSE, and one that is no frame at all. -/
def VceCand.quick (c : VceCand) : Bool := match c.d with | some d => !(vOp d == 2 || vOp d == 3 || vOp d == 5) | none => true

def VceCand.live (c : VceCand) : Bool := c.d.any vLive
def VceCand.deadline (c : VceCand) : Nat := match c.d with | some d => if vLive d then vDeadline d else 0 | none => 0

/-- Whether a candidate goes before another (R392). -/
def VceCand.before (a b : VceCand) : Bool :=
  if a.quick != b.quick then a.quick
  else if a.live != b.live then a.live
  else if a.deadline ≠ b.deadline then decide (a.deadline < b.deadline)
  else if a.level ≠ b.level then decide (b.level < a.level)
  else decide (a.bind < b.bind)

def bestCand : List VceCand → Option VceCand
  | [] => none
  | c :: cs => match bestCand cs with
    | none => some c
    | some b => if b.before c then some b else some c

/-- The engine takes its next item from its queue and does it. -/
def State.vceNext (s : State) (e : Nat) : State :=
  let waiting := (s.vceOf e).job.any (·.waiting)
  if s.vceStopped e || ((s.vceOf e).job.isSome && !waiting) then s
  else
    match bestCand ((s.vceCands e).filter fun c => !waiting || c.quick) with
    | none => s
    | some c =>
      match s.qPeek c.qid with
      | some (v, l, some d) =>
        if c.quick && s.vceBusy e d then s
        else (s.qTake c.qid v l (descEop d)).vceItem e c.qid d
      | some (v, l, none) => s.otherTake c.qid v l none
      | none => s

/-- CODEC_ITEM_SELECT (R392). -/
def execCodecItemSelect (e : Nat) (s : State) : Res := onUnit (s.engineOk e) (.next (s.vceNext e))

/-! ### What others do to the engines (R396) -/

/-- The kind-7 entries of a carve. -/
def poolEntries (img : Image) : List Region := (regionsOf (img.sec 4)).filter fun r => r.kind == 7

/-- At a commit that changes the kind-7 entries, every open stream ends at its next frame boundary. -/
def State.vceCommit (s : State) (old new : Image) : State :=
  if poolEntries old = poolEntries new then s
  else
    (List.range s.ident.engines).foldl (fun s e =>
      let x := s.vceOf e
      if x.job.isNone then x.streams.foldl (fun s y => s.endStream e y.1 3) s
      else s.setVce e { x with streams := x.streams.map fun y => (y.1, { y.2 with ending := true }) }) s

/-- Every stream of an engine ends with a reset of its hub, or of the part. -/
def State.vceReset (s : State) (e : Nat) : State :=
  let s := s.setVce e { s.vceOf e with job := none }
  (s.vceOf e).streams.foldl (fun s y => s.endStream e y.1 4) s

/-- VCE_STATUS.STATE of every engine follows a stop or its end. -/
def State.vceSync (s : State) : State := (List.range s.ident.engines).foldl (fun s e => s.setVce e (s.vceOf e)) s

end Sys2Proof.Machine
end

