-- ==== Sys2Proof/Machine/Lp.lean ====
section
/-! DEFINITION. LPDDR6 (chapter 09): requests at a ledger die with the array code and the link code, scrub, refresh, calibration and training; and
the accesses to memory that wait. -/
namespace Sys2Proof.Machine

/-! ### A start-up that fails (R443) -/

/-- A step of start-up fails the part: STAGE reads FAILED, and a log that no half has started begins (R443, R470). The failing unit is given
as a source. -/
def State.startFail (s : State) (unit cause : Nat) : State :=
  let stage := s.get .RST_STATUS_STAGE
  let s := s.log' (srcHub s.inCharge 12) 0xb004 3 [(1, stage), (4, unit), (1, cause)]
  (s.set .RST_STATUS_STAGE 6).logStart (if s.inCharge = 2 then 1 else 0)

/-! ### Places -/

/-- The mapped regions of a bank (R181). -/
def State.regions (s : State) (img : Image) : List Region :=
  if img.epoch = 0 then [⟨9, 2, 0, 0xff, 0, s.lpSize, 0⟩] else firmwareRegion :: regionsOf (img.sec 4)

/-- The DA of a local offset, where a region maps it: translate of R180 turned round. -/
def State.daOf (s : State) (img : Image) (ld off : Nat) : Option Nat :=
  (s.regions img).findSome? fun r =>
    let l := s.participants r.mode r.home
    match findIdx? (· == ld) l 0 with
    | some (i, _) =>
      if r.loff ≤ off ∧ off < r.loff + r.len / l.length then
        some (r.base + ((off - r.loff) / 4096 * l.length + i) * 4096 + off % 4096)
      else none
    | none => none

/-! ### Errors (R176, R178) -/

/-- Corrections on a link of a channel. -/
def State.linkErr (s : State) (ld ch n : Nat) (write : Bool) : State :=
  if n = 0 then s
  else
    let s := if write then s.bumpSat .LDG_LINK_WRITE n ld else s.bumpSat .LDG_LINK_READ n ld
    let c := KMap.get s.lp.link (ld, ch) ⟨[], none⟩
    let recent := (s.now, n) :: c.recent.filter fun x => decide (s.now < x.1 + 1048576)
    let count := (recent.map (·.2)).foldl (· + ·) 0
    let hit := decide (4096 < count) && (match c.loggedAt with | some b => decide (b + 1048576 ≤ s.now) | none => true)
    let s := { s with lp := { s.lp with link := KMap.set s.lp.link (ld, ch) ⟨recent, if hit then some s.now else c.loggedAt⟩ } }
    if hit then s.log' (srcLedger ld 5) 0x3003 1 [(1, ld), (1, ch), (4, count)] else s

/-- EV_MEM_CE, at most once per channel per 2^16 beats. -/
def State.corrected (s : State) (ld ch da : Nat) : State :=
  let s := s.bumpSat .LDG_ECC_CE 1 ld
  if (KMap.get? s.lp.ceAt (ld, ch)).all fun b => decide (b + 65536 ≤ s.now) then
    ({ s with lp := { s.lp with ceAt := KMap.set s.lp.ceAt (ld, ch) s.now } } : State).log' (srcLedger ld 5) 0x3001 0 [(1, ld), (1, ch), (8, da)]
  else s

/-- What the array code makes of a block of 48 symbols, 43 of data and 5 of check, of which some are in error (R177). -/
inductive Decoded where
  | clean
  | corrected
  | bad
deriving DecidableEq, Repr

/-- The code corrects one symbol, and detects two to four (R177). -/
def decodeBlock (symbols : Nat) : Decoded := if symbols = 0 then .clean else if symbols = 1 then .corrected else .bad

/-- A read of a block in which err symbols are in error (R177, R178); a fenced channel's reads all return poisoned blocks (R188)
(DESIGN CHOICE, log entry 52). -/
def State.arrayRead (s : State) (ld off da err who : Nat) : State :=
  if s.fencedAt (lpLoc ld off) then s.uncorrectable ld off da who
  else
    match decodeBlock err with
    | .clean => s
    | .corrected => s.corrected ld (lpChan off) da
    | .bad => s.uncorrectable ld off da who

/-! ### Accesses that wait -/

/-- Whether an access must wait now: a host's for a power state, any for a rotation copy, a device, or an earlier access that waits for one of
its blocks (R171, R189, R430, R487). -/
def State.accHeld (s : State) (a : Agent) (da n : Nat) : Bool :=
  let img := s.carveBank a
  (match a with | .host _ => decide (2 ≤ s.get .PWR_STATE_CURRENT) | _ => false) || s.range a img da n == .wait || s.memBusy img da n

/-- Whether a DA lies in an accumulator window (R126). -/
def State.accDa (s : State) (a : Agent) (da : Nat) : Bool :=
  match s.resolve a (s.carveBank a) da with | .at loc => isAcc loc | _ => false

/-- The word that an atomic stores (R320, R399): kinds 2 FetchAdd, 3 Swap, 4 CAS; the operand, and the swap value of a CAS, lie in bs. -/
def atomicWord (kind old : Nat) (bs : List Byte) : Nat :=
  match kind with
  | 2 => (old + field bs 0 8) % 2 ^ 64
  | 3 => field bs 0 8
  | _ => if old = field bs 0 8 then field bs 8 8 else old

/-- An access to memory is made (R178, R180, R401): refused where a DA is unmapped. -/
def State.accGo (s : State) (a : Agent) (da kind : Nat) (bs : List Byte) : State :=
  let img := s.carveBank a
  let n := accBytes kind bs
  match s.range a img da n with
  | .unmapped x => (s.unmappedEv a x).emit (.answer a false [])
  | _ =>
    if kind = 1 then (s.wrDa a img da bs).emit (.answer a true [])
    else
      let data := s.rdDa a img da n
      if kind = 0 then s.emit (.answer a (s.poisonDa a img da n).isNone data)
      else if (s.poisonDa a img da n).isSome then s.emit (.answer a false data)
      else (s.wrDa a img da (leBytes 8 (atomicWord kind (field data 0 8) bs))).emit (.answer a true data)

/-- An access is made, or waits behind those that wait; the accumulator windows have their own rule (R126) (DEDUCED, log entry 29). -/
def State.memAcc (s : State) (a : Agent) (da kind : Nat) (bs : List Byte) : State :=
  if s.accHeld a da (accBytes kind bs) then s.waitFor ⟨a, da, kind, bs, none, none⟩
  else if kind < 2 ∧ s.accDa a da then s.accAccess a da (kind == 1) bs
  else s.accGo a da kind bs



/-! ### Requests, scrub and refresh -/

/-- A ledger die serves one request to a block, of up to its end (R177, R178, R180, R184): the requester, whether the request carries the
old bank parity, the DA, the bytes written or a read's length, what the array holds (arrayRead), and the link corrections. A write of less
than a block reads the block first (DEDUCED, log entry 29). -/
def State.lpRequest (s : State) (a : Agent) (old : Bool) (da : Nat) (write : Bool) (bs : List Byte) (err link : Nat) : State :=
  let img := if old then s.str.prevCarve else s.bank (unitLedger 0)
  let bs := bs.take (64 - da % 64)
  let who := s.agentSrc a
  match s.regionAt img da, s.resolve a img da with
  | some _, .at loc =>
    if s.memBusy img da bs.length then s.waitFor ⟨a, da, b2n write, bs, some (old, err, link), none⟩
    else
      let ld := loc / 2 ^ 40
      let off := loc % 2 ^ 40
      let s := s.linkErr ld (lpChan off) link write
      let whole := write && bs.length == 64
      let s := if whole then s else s.arrayRead ld off da err who
      if write then (s.wr loc bs).emit (.answer a true [])
      else s.emit (.answer a (!s.poisoned (blockOf loc) 64) (s.rd loc bs.length))
  | _, _ => (s.unmappedEv a da).emit (.answer a false [])

/-- Accesses that wait no longer are made in arrival order (R189, R430, R487). -/
def State.accResume (s : State) : State :=
  let l := s.clk.waitAcc
  let s := { s with clk := { s.clk with waitAcc := [] } }
  l.foldl (fun s w => match w.pkt, w.req with
    | some p, _ => if p.op = 0x11 then s.collArrive p else s.txn p
    | none, none => s.memAcc w.who w.da w.kind w.data
    | none, some (old, err, link) => s.lpRequest w.who old w.da (w.kind == 1) w.data err link) s |>.collResume.kvResume.escResume.rshGo.vceResume

/-- UPDATE_LAYER_WRITE (R284, R286): a layer is written, or rolled forward, by up to n steps more; a layer that ends with them completes, and
the requests that waited for it are made (DEDUCED, log entry 33). -/
def execUpdateLayerWrite (ld n : Nat) (s : State) : Res := onUnit (s.dieOk ld) (.next (s.updGo ld n).accResume)

/-- LEDGER_MEMORY_REQUEST (R180). -/
def execLedgerMemoryRequest (by_ : Agent) (old : Bool) (da : Nat) (write : Bool) (data : List Byte) (err link : Nat) (s : State) : Res :=
  .next (if da < s.lpSize then s.lpRequest by_ old da write data err link else (s.unmappedEv by_ da).emit (.answer by_ false []))

/-- Whether a request waits for the channel of a local offset, or its device calibrates (R179, R186). -/
def State.chanBusy (s : State) (ld off : Nat) : Bool :=
  s.rst.cal.any (fun c => c.1 == lpDev ld off) || s.clk.waitAcc.any fun w =>
    match s.regionAt (s.bank (unitLedger ld)) w.da with
    | some r =>
      let loc := s.regionLoc r w.da
      decide (w.da < s.lpSize) && loc / 2 ^ 40 == ld && lpChan (loc % 2 ^ 40) == lpChan off
    | none => false

/-- The scrub's next block (R179), treated as a read of it, while no other request to its channel waits; a block that no region maps has no DA,
and a free value stands for it (DEDUCED, log entry 29). -/
def State.scrub (s : State) (ld err : Nat) : State :=
  if s.get .LDG_CFG_SCRUB_H ld = 0 ∨ s.get .LDG_STATUS_STATE ld = 3 ∨ s.clk.stopped ∨ s.chanBusy ld (KMap.get s.rst.scrub ld 0) then s
  else
    let off := KMap.get s.rst.scrub ld 0
    let s := { s with rst := { s.rst with scrub := KMap.set s.rst.scrub ld ((off + 64) % s.ident.lpDie) } }
    match s.daOf (s.bank (unitLedger ld)) ld off with
    | some da => s.arrayRead ld off da err (srcLedger ld 5)
    | none => if err = 0 then s else s.tick.arrayRead ld off (s.fresh.toNat % 2 ^ 43) err (srcLedger ld 5)

/-- SCRUB_READ (R179). -/
def execScrubRead (ld err : Nat) (s : State) : Res := onUnit (s.dieOk ld) (.next (s.scrub ld err))

/-- REFRESH (R185): a bank of a device is refreshed, which changes nothing that the part holds. -/
def execRefresh (ld : Nat) (s : State) : Res := onUnit (s.dieOk ld) (.next s)

/-! ### Calibration (R186 to R189) -/

/-- The list of the calibrations that run (DEDUCED, log entry 29). -/
def State.setCal (s : State) (l : List (Nat × Nat)) : State := { s with rst := { s.rst with cal := l } }

/-- Devices of a ledger die begin their calibration. A device in self-refresh is not touched (R187) (DEDUCED, log entry 29). -/
def State.calBegin (s : State) (ld mask : Nat) : State :=
  if s.get .LDG_STATUS_STATE ld = 3 ∨ s.get .LDG_STATUS_STATE ld = 5 ∨ s.clk.stopped then s
  else
    let devs := (bitList mask 3).filter fun i => !(s.rst.cal.any fun c => c.1 == 3 * ld + i)
    if devs = [] then s
    else
      let s := s.setCal (s.rst.cal ++ devs.map fun i => (3 * ld + i, s.now))
      let s := { s with rst := { s.rst with
        calAt := devs.foldl (fun m i => KMap.set m (3 * ld + i) s.now) s.rst.calAt
        calWait := match s.rst.calWait with
          | some d => if devs.any fun i => 3 * ld + i == d then none else some d
          | none => none
        running := s.rst.running || (match s.rst.test with | some (2, d) => devs.any fun i => 3 * ld + i == d | _ => false) } }
      s.set .LDG_STATUS_STATE 4 ld

/-- Devices that a calibration may begin for now: those that windows beginning at this beat name, or under the reset structure those that
the ledger die chooses (R186). -/
def State.calDue (s : State) (ld mask : Nat) : Nat :=
  let b := s.bank (unitLedger ld)
  if b.sec 10 = [] then mask % 8
  else ((s.slotsNow (b.sec 10) 3).filter fun x => x.target == 24 + ld).foldl (fun m x => m ||| (x.param % 8)) 0

/-- CALIBRATION_START (R186). -/
def execCalibrationStart (ld mask : Nat) (s : State) : Res := onUnit (s.dieOk ld) (.next (s.calBegin ld (s.calDue ld mask)))

/-- A channel's calibration ends (R188): a failure is retried once, and the second one fences the channel. -/
def State.calChannel (s : State) (ld ch : Nat) (ok : Bool) : State :=
  let retry := bit (s.get .LDG_CAL_RETRY ld) ch
  if ok then s.setBit .LDG_CAL_RETRY ch false ld
  else if retry then
    ((((s.setBit .LDG_CAL_RETRY ch false ld).setBit .LDG_STATUS_CH_FENCED ch true ld).log' (srcLedger ld 5) 0x3005 2
      [(1, ld), (1, ch)])).failDevice
  else s.setBit .LDG_CAL_RETRY ch true ld

/-- A device's calibration ends, with a mask of its channels that failed; requests that waited for it go on (R189). -/
def State.calEnd (s : State) (dev failed : Nat) : State :=
  if !(s.rst.cal.any fun c => c.1 == dev) then s
  else
    let ld := dev / 3
    let s := s.setCal (s.rst.cal.filter fun c => c.1 != dev)
    let s := s.bump .LDG_CAL_COUNT 1 ld
    let s := (List.range 8).foldl (fun s i => s.calChannel ld (8 * (dev % 3) + i) (!bit failed i)) s
    let s := if s.rst.cal.any fun c => c.1 / 3 == ld then s else s.set .LDG_STATUS_STATE 2 ld
    s.accResume

/-- CALIBRATION_COMPLETE (R188). -/
def execCalibrationComplete (dev failed : Nat) (s : State) : Res := onUnit (s.dieOk (dev / 3)) (.next (s.calEnd dev failed))

/-- All devices of a ledger die calibrate at once on leaving self-refresh (R187); fails is a mask of its channels that failed. -/
def State.calAll (s : State) (ld fails : Nat) : State :=
  let s := s.set .LDG_STATUS_STATE 2 ld
  let s := s.setCal (s.rst.cal.filter fun c => c.1 / 3 != ld)
  let s := s.bump .LDG_CAL_COUNT 3 ld
  (List.range 24).foldl (fun s ch => s.calChannel ld ch (!bit fails ch)) s

/-! ### Training (R175) -/

/-- Why a ledger die's training fails, with the device: 0 absent, 1 type, 2 mismatch, 3 training, 4 rate. types gives what each device reports:
0 absent, 1 48 GiB, 2 96 GiB, else unsupported; bad is a device whose channel fails training. -/
def State.trainFault (s : State) (ld : Nat) (types : List Nat) (bad : Option Nat) : Option (Nat × Nat) :=
  let t (i : Nat) : Nat := types.getD i 0
  let others := (List.range s.ident.dies).map fun n => s.get .LDG_STATUS_DEV_TYPE n
  match (List.range 3).find? fun i => t i == 0 with
  | some i => some (i, 0)
  | none =>
    match (List.range 3).find? fun i => decide (2 < t i) with
    | some i => some (i, 1)
    | none =>
      match (List.range 3).find? fun i => t i != t 0 || others.any fun o => o != 0 && o != t 0 with
      | some i => some (i, 2)
      | none =>
        match bad with
        | some i => some (i % 3, 3)
        | none =>
          if 5 < s.get .LDG_CFG_RATE ld ∨ (List.range s.ident.dies).any fun n => s.get .LDG_CFG_RATE n != s.get .LDG_CFG_RATE ld then some (0, 4)
          else none

/-- A ledger die identifies and trains its devices, whose type gives the part its capacity (R174, R485) (DEDUCED, log entry 29). -/
def State.lpTrain (s : State) (ld : Nat) (types : List Nat) (bad : Option Nat) : State :=
  match s.trainFault ld types bad with
  | some (dev, cause) =>
    ((s.set .LDG_STATUS_STATE 5 ld).log' (srcLedger ld 5) 0x3006 3 [(1, ld), (1, 3 * ld + dev), (1, cause)]).startFail (srcLedger ld 5) cause
  | none =>
    let s : State := { s with ident := { s.ident with dev96 := types.getD 0 0 == 2 } }
    (s.set .LDG_STATUS_DEV_TYPE (types.getD 0 0) ld).set .LDG_STATUS_STATE 1 ld

/-- LPDDR6_TRAINING (R175): before LPDDR6 is usable for the first time since a cold reset. -/
def execLpddr6Training (ld : Nat) (types : List Nat) (bad : Option Nat) (s : State) : Res :=
  onUnit (s.dieOk ld) (.next (if s.rst.lpOk ∨ s.get .RST_STATUS_STAGE = 6 ∨ s.get .LDG_STATUS_STATE ld ≠ 0 then s else s.lpTrain ld types bad))

end Sys2Proof.Machine
end

