-- ==== Sys2Proof/Machine/Clk.lean ====
section
/-! DEFINITION. Clocks and power (chapter 21): the reference monitor, the gating tree, DBG_CLKOUT, the power states, capping and throttling. -/
namespace Sys2Proof.Machine

/-- The clock and power control of the in-charge hub as a source (R472). -/
def State.clkSrc (s : State) : Nat := srcHub s.inCharge 13

/-! ### The reference monitor (R420 to R422) -/

/-- A host link goes down (R399, R421) (DEDUCED, log entry 41). -/
def State.hostLink (s : State) (link : Nat) (up : Bool) (rate width : Nat) (flit : Bool) : State :=
  let s :=
    if link = 0 then
      ((((s.set .HST_LINKA_UP (b2n up)).set .HST_LINKA_RATE (if up then rate else 0)).set .HST_LINKA_WIDTH (if up then width else 0)).set
        .HST_LINKA_FLIT (b2n (up && flit))).set .HST_LINKA_DEGRADED (b2n (up && decide (width < 16)))
    else
      ((((s.set .HST_LINKB_UP (b2n up)).set .HST_LINKB_RATE (if up then rate else 0)).set .HST_LINKB_WIDTH (if up then width else 0)).set
        .HST_LINKB_FLIT (b2n (up && flit))).set .HST_LINKB_DEGRADED (b2n (up && decide (width < 16)))
  s.log' (srcHub (2 * link) 8) 0xb040 1 [(1, link), (1, b2n up), (1, if up then rate else 0), (1, if up then width else 0)]

/-- A fault of the reference (R421): causes 0 frequency, 1 missing edges. Engines, ledger dies and links stop; the hubs run from the fallback
clock (DEDUCED, log entry 46). -/
def State.refFault (s : State) (half cause : Nat) : State :=
  if s.get .CLK_STATUS_FALLBACK = 1 then s
  else
    let s := ((s.set .CLK_STATUS_FALLBACK 1).set .CLK_STATUS_REF_OK 0).bump .CLK_MON_FAULTS
    let s := { s with clk := { s.clk with stopped := true, fallBeat := s.now } }
    let s := (List.range s.ident.dies).foldl (fun s ld => if s.get .LDG_STATUS_STATE ld = 5 then s else s.set .LDG_STATUS_STATE 3 ld) s
    let s := (s.setCal []).emit .stwNmi
    let s := s.log' (srcHub (2 * half) 7) 0x1001 3 [(1, 2 * half), (1, cause), (2, s.get .CLK_MON_LAST), (4, s.get .CLK_MON_CAL)]
    let s := (List.range s.ident.ports).foldl (fun s p => s.portDown p 0) s
    let s := if s.linkUp 0 then s.hostLink 0 false 0 0 false else s
    let s := if s.linkUp 1 then s.hostLink 1 false 0 0 false else s
    let s := ((s.set .MGT_STATUS_LINK_A 0).set .MGT_STATUS_LINK_B 0).set .MGT_STATUS_PTP_A 0
    ((s.set .MGT_STATUS_PTP_B 0).set .BEAT_STATUS_STATE 3).vceSync

/-- Whether a half carries a reference monitor (R420). -/
def State.monitorOk (s : State) (half : Nat) : Bool := half == 0 || (half == 1 && s.ident.member == .a8)

/-- REF_MONITOR_WINDOW (R420): the HREFCLK edges of a window of 4,096 watch cycles, against CAL / 16. Continuous monitoring begins with the
calibration. -/
def execRefMonitorWindow (half count : Nat) (s : State) : Res :=
  onUnit (s.monitorOk half) (
    let cal := s.get .CLK_MON_CAL
    if cal = 0 then .next s
    else
      let s := s.set .CLK_MON_LAST (count % 65536)
      let x := 16 * count
      let d := if x < cal then cal - x else x - cal
      .next (if 2 * cal < 100 * d then s.refFault half 0 else s))

/-- REF_MISSING_EDGE (R420). -/
def execRefMissingEdge (half : Nat) (s : State) : Res :=
  onUnit (s.monitorOk half) (.next (if s.get .CLK_MON_CAL = 0 then s else s.refFault half 1))

/-- REF_RECOVERED (R422): the hubs leave the fallback clock; everything else stays halted until a warm or cold reset. -/
def execRefRecovered (half : Nat) (s : State) : Res :=
  onUnit (s.monitorOk half) (.next (
    if s.get .CLK_STATUS_FALLBACK = 0 then s
    else ((s.set .CLK_STATUS_FALLBACK 0).set .CLK_STATUS_REF_OK 1).log' (srcHub (2 * half) 7) 0x1002 1 [(8, s.now - s.clk.fallBeat)]))

/-- WATCH_CALIBRATION_COMPLETE (R420, R441): CAL is stored and monitoring begins; after a cold reset the PLLs are locked and the boot ROM
starts. -/
def execWatchCalibrationComplete (half count : Nat) (s : State) : Res :=
  onUnit (s.monitorOk half) (
    let s := (s.set .CLK_MON_CAL (count % 2 ^ 32)).set .CLK_STATUS_REF_OK 1
    .next (if s.get .RST_STATUS_STAGE = 0 then s.set .RST_STATUS_STAGE 1 else s))

/-! ### The gating tree (R423 to R425) -/

/-- Whether a number is a node: a KIND of R423, units that are present, and 0 in every other bit. -/
def State.nodeOk (s : State) (n : Nat) : Bool :=
  let die := n % 4096 / 512
  let c := n % 512 / 32
  let core := n % 32 / 4
  let low := n % 4
  match n / 4096 with
  | 1 => s.dieOk die && n % 512 == 0
  | 2 => s.cluOk (16 * die + c) && n % 32 == 0
  | 3 => s.cluOk (16 * die + c) && low == 0
  | 4 => s.cluOk (16 * die + c) && decide (low < 3)
  | 5 => s.cluOk (16 * die + c) && core == 0
  | 6 => s.dieOk die && n % 512 / 4 == 0
  | 7 => decide (n % 4096 < s.ident.engines)
  | _ => false

/-- Whether a core's unit of a kind holds a descriptor. -/
def State.holdsAny (s : State) (cores : List Nat) (kind : Nat) : Bool := cores.any fun c => !(s.heldOf c kind).isEmpty

/-- Whether a leaf of the tree is in use by itself (R424): it holds a descriptor, reads an enabled queue, or has an open stream. -/
def State.leafBusy (s : State) (n : Nat) : Bool :=
  let die := n % 4096 / 512
  let clu := 16 * die + n % 512 / 32
  let core := 8 * clu + n % 32 / 4
  let reads (kind reader : Nat) : Bool := s.que.on.any fun q => match s.qFind q with
    | .desc v => qReaderKind v == kind && (if kind = 0 then s.physCore (qReader v) == some reader else qReader v == reader)
    | _ => false
  let cores := (List.range 8).map (8 * clu + ·)
  let mine := (List.range 128).map (128 * die + ·)
  match n / 4096, n % 4 with
  | 4, 0 => s.holdsAny [core] kMxe
  | 4, 1 => s.holdsAny [core] kVec
  | 4, 2 => (s.core core).wait != .none || !(s.core core).sigs.isEmpty || (s.core core).stall.isSome || reads 0 core
  | 5, 0 => s.holdsAny cores kDma
  | 5, 1 => s.holdsAny cores kWin
  | 5, 2 => s.holdsAny cores kKv
  | 5, 3 => s.holdsAny cores kGln
  | 6, 0 => s.holdsAny mine kHsk
  | 6, 1 => s.holdsAny mine kUpd || reads 2 die
  | 7, _ => !(s.vceOf (n % 4096)).streams.isEmpty || reads 3 (n % 4096)
  | 2, _ => s.bistOn clu
  | _, _ => false

/-- The nodes at and below a node, itself first, ascending. -/
def State.nodesUnder (s : State) (n : Nat) : List Nat :=
  let die := n % 4096 / 512
  let c := n % 512 / 32
  let core (c k : Nat) : List Nat := nodeCore (128 * die + 8 * c + k) :: (List.range 3).map fun e => nodeEngine (128 * die + 8 * c + k) e
  let clu (c : Nat) : List Nat := (nodeClu (16 * die + c) :: (List.range 8).flatMap (core c)) ++ (List.range 4).map fun u => nodeUnit (16 * die + c) u
  let l := match n / 4096 with
    | 1 => n :: (List.range 13).flatMap clu
    | 2 => clu c
    | 3 => core c (n % 32 / 4)
    | _ => [n]
  (l.filter s.nodeOk).mergeSort fun a b => decide (a ≤ b)

/-- A gate operation ends (R424, R434): statuses 0 OK, 1 CHILD_BUSY, 2 SPARE, 3 NODE, 4 PARENT_GATED (DEDUCED, log entry 46). -/
def State.gateDone (s : State) (node st blocker : Nat) : State :=
  let s := ((s.set .CLK_GATE_RES_DONE 1).set .CLK_GATE_RES_STATUS st).set .CLK_GATE_RES_BLOCKER blocker
  if st = 0 then s else s.log' s.clkSrc 0x1003 1 [(2, node), (1, st), (2, blocker)]

/-- GATE (R424). -/
def State.gate (s : State) (n : Nat) : State :=
  if !s.nodeOk n then s.gateDone n 3 0
  else if n / 4096 = 2 ∧ s.get .DCTL_CLMAP_SPARE (n % 4096 / 512) = n % 512 / 32 then s.gateDone n 2 0
  else
    match (s.nodesUnder n).find? s.leafBusy with
    | some b => s.gateDone n 1 b
    | none => ({ s with clk := { s.clk with gates := if s.clk.gates.contains n then s.clk.gates else n :: s.clk.gates } } : State).gateDone n 0 0

/-- UNGATE (R424). -/
def State.ungate (s : State) (n : Nat) : State :=
  if !s.nodeOk n then s.gateDone n 3 0
  else if (nodeParent n).any s.clk.gates.contains then s.gateDone n 4 0
  else ({ s with clk := { s.clk with gates := s.clk.gates.filter (· != n) } } : State).gateDone n 0 0

/-- CLK_GATE (R424). -/
def execClkGate (_by : Agent) (node : Nat) (s : State) : Res := .next (s.gate (node % 65536))
/-- CLK_UNGATE (R424). -/
def execClkUngate (_by : Agent) (node : Nat) (s : State) : Res := .next (s.ungate (node % 65536))

/-! ### DBG_CLKOUT (R426) -/

/-- The pin rate that LDG_CFG.RATE names, in Mb/s per pin (R174) (PRESUMED, log entry 47). -/
def lpRate : Nat → Nat
  | 0 => 8500 | 1 => 9600 | 2 => 10700 | 3 => 12000 | 4 => 12800 | _ => 14400

/-- The frequency in kHz of a select code, as it goes into the divider; none for a reserved code. The watch oscillator counts at its upper
limit; the LPDDR6 PHY clock is taken as half the pin rate (DEDUCED, log entry 46; PRESUMED, log entry 47). -/
def State.dbgClock (s : State) (sel : Nat) : Option Nat :=
  let k := sel % 8
  match sel / 8 with
  | 0 => match sel with | 0 => some 0 | 1 => some 100000 | 2 => some 44000 | 3 => some 400000 | _ => none
  | 2 => if k < s.ident.dies then some (s.get .PWR_CLOCK_RUN_MHZ * 1000) else none
  | 3 => if k < s.ident.dies then some 1500000 else none
  | 4 => if k < s.ident.dies then some 2100000 else none
  | 5 => if k < s.ident.dies then some (lpRate (s.get .LDG_CFG_RATE k) * 1000 / 16) else none
  | 6 => if k < s.ident.hubs then some 2400000 else none
  | 7 => if k < s.ident.ports / 4 then some 218750 else none
  | _ => none

/-- A write of CLK_DBG: taken, or refused with the old setting kept (DESIGN CHOICE, log entry 12). -/
def State.dbgWrite (s : State) (val : Word) : State :=
  let sel := bits val.toNat 7 0
  let div := bits val.toNat 23 8
  match s.dbgClock sel with
  | some f =>
    if div = 0 ∨ 250000 * (div + 1) < f then s.set .CLK_DBG_REFUSED 1
    else ((s.set .CLK_DBG_REFUSED 0).set .CLK_DBG_DIV div).set .CLK_DBG_SEL sel
  | none => s.set .CLK_DBG_REFUSED 1

/-- CLK_DBG_WRITE (R426). -/
def execClkDbgWrite (_by : Agent) (val : Word) (s : State) : Res := .next (s.dbgWrite val)

/-! ### Power states (R427 to R430) -/

/-- Exit and entry times of a state in ns (R427). -/
def exitNs : Nat → Nat | 1 => 200 | 2 => 60000 | 3 => 1500000 | 4 => 40000000 | _ => 0
def entryNs : Nat → Nat | 2 => 20000 | 3 => 400000 | 4 => 3000000 | _ => 0

/-- The power policy of the active image (R431) (DEDUCED, log entry 46). -/
def State.powerPolicy (s : State) : List Byte := (s.bank (unitHub 0)).sec 11

/-- The flush region of the policy. -/
def State.flushRegion (s : State) : Option Region :=
  let p := s.powerPolicy
  if p = [] ∨ field p 0x10 2 = 0xffff then none else (regionsOf ((s.bank (unitLedger 0)).sec 4))[field p 0x10 2]?

/-- Whether the part is idle (R429, R447). -/
def State.idle (s : State) : Bool :=
  s.cores.all (fun e => !e.2.inPacket && !e.2.chosen && e.2.held.isEmpty && e.2.sigs.isEmpty && e.2.dropping.isNone) &&
    s.que.on.all (fun q => match s.qFind q with | .desc v => qClass v != 1 || qOcc v == 0 | _ => true) &&
    s.upd.all (fun e => e.2.phase == 0 && e.2.queue.isEmpty) &&
    s.coll.runs.isEmpty && s.coll.rsh.isNone && (List.range s.ident.engines).all (fun e => (s.vceOf e).job.isNone) &&
    s.esc.filling.isNone && s.esc.receiving.isNone && s.esc.closing.isNone && s.esc.waits.isEmpty &&
    !(within 1 (s.get .STR_STATUS_STATE) 1 || within 3 (s.get .STR_STATUS_STATE) 4) &&
    s.get .ESC_STATUS_FROZEN == 0 && s.esc.freezeAt.isNone && s.stw.offer.isNone && s.stw.dispute.isNone && !s.rst.running

/-- The beats of the next events that R429 names. -/
def State.powerBeats (s : State) : List Nat :=
  let t := (s.bank s.fabUnit).sec 10
  let slots := if t = [] then [] else
    let b := s.beat.tplBeat + tplAnchor t
    (tplSlots t).map fun x =>
      if s.now < b then b + x.start
      else
        let o := (s.now - b) % tplStep t
        if o < x.start then s.now + (x.start - o) else s.now + (tplStep t - o + x.start)
  let waits := s.cores.filterMap fun e => match e.2.wait with
    | .beat opens b _ _ => s.waitBase e.1 opens b
    | _ => none
  let bars := s.coll.runs.filterMap s.barrierAt
  let hand := match s.stw.offer with | some o => o.h.toList | none => []
  (slots ++ waits ++ bars ++ s.esc.thawAt.toList ++ hand).filter fun b => decide (s.now < b)

/-- N of R429: none where no such event is to come. -/
def State.powerN (s : State) : Option Nat :=
  s.powerBeats.foldl (fun m b => match m with | some x => some (min x b) | none => some b) none

/-- Whether R429 allows a state now. Without a power policy no state is deeper than Q1. -/
def State.powerOk (s : State) (q : Nat) : Bool :=
  let p := s.powerPolicy
  let deepest := if p = [] then 1 else field p 14 1
  let live := (List.range s.ident.engines).any fun e => (s.vceOf e).streams.any (·.2.live)
  decide (q ≤ deepest) && decide (exitNs q ≤ s.get .PWR_LAT_TOL_NS) &&
    (q == 1 || (s.idle && (!live || decide (exitNs q ≤ s.get .PWR_LIVE_TOL_NS)) &&
      (match s.powerN with | some n => decide (s.now + ceilDiv (entryNs q + exitNs q) s.period + 1 ≤ n) | none => true) &&
      (q != 4 || (s.peers.isEmpty && s.get .BEAT_CFG_SRC == 0 && s.flushRegion.isSome))))

/-- The deepest state that R429 allows now. -/
def State.powerAllowed (s : State) : Nat := ([4, 3, 2, 1].find? s.powerOk).getD 0

/-- The choice at a beat edge (R429): an entry begins, or the exit that a coming event needs (DEDUCED, log entry 46). -/
def State.powerSelect (s : State) : State :=
  let q := s.powerAllowed
  let s := s.set .PWR_STATE_ALLOWED q
  let cur := s.get .PWR_STATE_CURRENT
  if 2 ≤ cur then
    match s.powerN with
    | some n => if n ≤ s.now + ceilDiv (exitNs cur) s.period + 1 then s.wake 1 else s
    | none => s
  else if 2 ≤ q ∧ s.clk.entering.isNone ∧ !s.clk.stopped then { s with clk := { s.clk with entering := some q, wake := none } }
  else s

/-- EV_PWR_STATE (R436). -/
def State.powerEv (s : State) (q : Nat) : State :=
  s.log' s.clkSrc 0x2001 0 [(1, q), (1, s.get .PWR_STATE_EXIT_CAUSE), (8, s.now - s.clk.enteredAt)]

/-- The granary's cells and poison move to the flush region (R428). -/
def State.granaryFlush (s : State) (r : Region) : State :=
  let gran := s.mem.filter fun c => decide (2 ^ 44 ≤ c.1 ∧ c.1 < 2 ^ 45)
  let off (loc : Nat) : Nat := (loc - 2 ^ 44) / 2 ^ 32 * 0x80000000 + (loc - 2 ^ 44) % 2 ^ 32
  let place (loc : Nat) : Nat := s.regionLoc r (r.base + off loc)
  let n := s.ident.dies * 0x80000000
  let l := s.participants r.mode r.home
  let clear (m : List Host.Cell) : List Host.Cell := l.foldl (fun m ld => Mem.zero m (lpLoc ld r.loff) (n / l.length)) m
  let stays (b : Nat) : Bool := !(l.any fun ld => decide (lpLoc ld r.loff ≤ b ∧ b < lpLoc ld r.loff + n / l.length))
  let moved := (s.poison.filter fun b => decide (2 ^ 44 ≤ b ∧ b < 2 ^ 45)).map place
  { s with
    mem := gran.foldl (fun m c => Mem.write m (place c.1) c.2) (clear s.mem)
    poison := moved.foldl insertBlock (s.poison.filter stays) }

/-- The same bytes come back; ue lists the blocks of the copy, as distances in the region, that are uncorrectable on their way. -/
def State.granaryBack (s : State) (r : Region) (ue : List Nat) : State :=
  let l := s.participants r.mode r.home
  let n := s.ident.dies * 0x80000000
  let back (loc : Nat) : Option Nat :=
    match findIdx? (· == loc / 2 ^ 40) l 0 with
    | some (i, _) =>
      let o := loc % 2 ^ 40
      let f := ((o - r.loff) / 4096 * l.length + i) * 4096 + o % 4096
      if r.loff ≤ o ∧ f < n then some (granLoc (f / 0x80000000) (f % 0x80000000)) else none
    | none => none
  let lpd := s.mem.filter fun c => decide (c.1 < 2 ^ 44)
  let m := Mem.zero s.mem (2 ^ 44) (2 ^ 44)
  let poison := s.poison.filter fun b => !decide (2 ^ 44 ≤ b ∧ b < 2 ^ 45)
  let moved := (poison.filter fun b => decide (b < 2 ^ 44)).filterMap back ++ ue.map fun o => granLoc (o / 0x80000000) (o % 0x80000000 / 64 * 64)
  { s with
    mem := lpd.foldl (fun m c => match back c.1 with | some g => Mem.write m g c.2 | none => m) m
    poison := moved.foldl insertBlock poison }

/-- Core, accumulator and cluster memories lose their contents (R427) (DEDUCED, log entry 46). -/
def State.sramLost (s : State) : State :=
  { s with mem := s.mem.filter fun c => decide (c.1 < 2 ^ 45), poison := s.poison.filter fun b => decide (b < 2 ^ 45) }

/-- An entry completes (R427, R428); a wake trigger that came meanwhile is followed at once (R433). -/
def State.powerEnter (s : State) : State :=
  match s.clk.entering with
  | none => s
  | some q =>
    let w := s.clk.wake
    let s := { s with clk := { s.clk with entering := none, wake := none } }
    let s := if 3 ≤ q then
        ((List.range s.ident.dies).foldl (fun s ld => if s.get .LDG_STATUS_STATE ld = 5 then s else s.set .LDG_STATUS_STATE 3 ld) s).setCal []
      else s
    let s := if q = 4 then
        let s := match s.flushRegion with | some r => s.granaryFlush r | none => s
        let s := { s with mem := Mem.zero s.mem (2 ^ 44) (2 ^ 44), poison := s.poison.filter fun b => !decide (2 ^ 44 ≤ b ∧ b < 2 ^ 45) }
        (List.range s.ident.ports).foldl (fun s p => s.portDown p 0) s.sramLost
      else s
    let s := ((s.set .PWR_STATE_CURRENT q).set .PWR_STATE_EXIT_CAUSE 0).bump .PWR_STATE_ENTRIES
    let s := (s.powerEv q).vceSync
    let s := { s with clk := { s.clk with enteredAt := s.now, q1 := [] } }
    match w with | some c => s.wake c | none => s

/-- POWER_ENTRY_COMPLETE (R428). -/
def execPowerEntryComplete (s : State) : Res := .next s.powerEnter

/-- POWER_EXIT (R429, R430): causes 1 scheduled beat, 2 doorbell, 3 host access, 4 fabric, 5 tolerance lowered. Rows whose effect includes the
trigger call the same operation. -/
def execPowerExit (cause : Nat) (s : State) : Res := .next (if within 1 cause 5 then s.wake cause else s)

/-- The compute core clock in use: the lower of the two clocks, outside Q2 to Q4 (R432, R433). -/
def State.runClock (s : State) : State :=
  if 2 ≤ s.get .PWR_STATE_CURRENT then s else s.set .PWR_CLOCK_RUN_MHZ (min (s.get .PWR_CLOCK_CAP_MHZ) (s.get .PWR_CLOCK_THERM_MHZ))

/-- The exit completes (R187, R427, R428, R430). -/
def State.powerLeave (s : State) (ue fails : List Nat) : State :=
  match s.clk.exiting with
  | none => s
  | some _ =>
    let q := s.get .PWR_STATE_CURRENT
    let s := { s with clk := { s.clk with exiting := none } }
    let s := if 3 ≤ q ∧ !s.clk.stopped then
        (List.range s.ident.dies).foldl (fun s ld => if s.get .LDG_STATUS_STATE ld = 3 then s.calAll ld (fails.getD ld 0) else s) s
      else s
    let s := if q = 4 then (match s.flushRegion with | some r => s.granaryBack r ue | none => s) else s
    let s := (s.powerEv q).set .PWR_STATE_CURRENT 0
    let s := { s with clk := { s.clk with enteredAt := s.now } }
    (if q = 4 then s.startPorts else s).runClock.vceSync.accResume

/-- Whether a cluster is idle: no core of it has work, and none of its units holds a descriptor (R427). -/
def State.cluIdle (s : State) (clu : Nat) : Bool :=
  ((List.range 8).map (8 * clu + ·)).all fun c =>
    let x := s.core c
    !x.inPacket && !x.chosen && x.held.isEmpty && x.sigs.isEmpty

/-- Q1_CLUSTER_GATE (R427, R429): a cluster that has been idle for 64 compute cycles is clock-gated. -/
def execQ1ClusterGate (clu : Nat) (s : State) : Res :=
  onUnit (s.cluOk clu) (.next (
    if s.powerOk 1 ∧ s.cluIdle clu ∧ s.get .PWR_STATE_CURRENT < 2 ∧ !s.clk.q1.contains clu then
      ({ s with clk := { s.clk with q1 := clu :: s.clk.q1 } } : State).set .PWR_STATE_CURRENT 1
    else s))

/-! ### Capping and throttling (R432) -/

/-- EV_PWR_LIMIT, and the power interrupt at its start. -/
def State.limitEv (s : State) (ends : Nat) : State :=
  let s := s.log' s.clkSrc 0x2002 0
    [(1, ends), (2, s.get .PWR_CAP_WATTS), (2, s.get .PWR_MEAS_PKG), (2, s.get .PWR_CLOCK_CAP_MHZ)]
  if ends = 0 then s.irq 10 else s

/-- The cap clock moves by a step. -/
def State.capMove (s : State) (mhz : Nat) : State :=
  let s := (s.set .PWR_CLOCK_CAP_MHZ mhz).runClock
  if mhz < 2100 ∧ !s.clk.capLow then ({ s with clk := { s.clk with capLow := true } } : State).limitEv 0
  else if mhz = 2100 ∧ s.clk.capLow then ({ s with clk := { s.clk with capLow := false } } : State).limitEv 1
  else s

/-- At 500 MHz with the package still above the cap: EV_PWR_FLOOR, at most once per second. -/
def State.capFloor (s : State) : State :=
  let w := s.get .BEAT_WALL_WALL
  if s.clk.floorAt.all fun t => decide (t + 1000000000 ≤ w) then
    (({ s with clk := { s.clk with floorAt := some w } } : State).log' s.clkSrc 0x2004 2
      [(2, s.get .PWR_CAP_WATTS), (2, s.get .PWR_MEAS_PKG)]).irq 10
  else s

/-- CAP_STEP (R432): the package power averaged over 1 ms is above the cap for 100 µs, or at or below 98 % of it for 10 ms. -/
def execCapStep (pkg : Nat) (s : State) : Res :=
  let s := s.set .PWR_MEAS_PKG (min pkg 4095)
  let cap := s.get .PWR_CAP_WATTS
  let mhz := s.get .PWR_CLOCK_CAP_MHZ
  .next (
    if cap < pkg then
      if 500 < mhz then
        let s := s.capMove (mhz - 25)
        if mhz = 525 then s.capFloor else s
      else s.capFloor
    else if 100 * pkg ≤ 98 * cap ∧ mhz < 2100 then s.capMove (mhz + 25)
    else s)

/-- EV_PWR_THERMAL, and the power interrupt at its start. -/
def State.thermEv (s : State) (ends die : Nat) : State :=
  let s := s.log' s.clkSrc 0x2003 1 [(1, ends), (1, die), (2, s.get .PWR_MEAS_TJ_MAX), (2, s.get .PWR_CLOCK_THERM_MHZ)]
  if ends = 0 then s.irq 10 else s

/-- THERMAL_STEP (R432): the hottest compute die and its junction in °C, at 105 or above for 100 µs or at 100 or below for 10 ms. -/
def execThermalStep (die tj : Nat) (s : State) : Res :=
  let s := s.set .PWR_MEAS_TJ_MAX (min tj 255)
  let mhz := s.get .PWR_CLOCK_THERM_MHZ
  .next (
    if 105 ≤ tj ∧ 500 < mhz then
      let s := (s.set .PWR_CLOCK_THERM_MHZ (mhz - 25)).runClock
      if s.clk.thermLow then s else ({ s with clk := { s.clk with thermLow := true } } : State).thermEv 0 die
    else if tj ≤ 100 ∧ mhz < 2100 then
      let s := (s.set .PWR_CLOCK_THERM_MHZ (mhz + 25)).runClock
      if mhz = 2075 ∧ s.clk.thermLow then ({ s with clk := { s.clk with thermLow := false } } : State).thermEv 1 die else s
    else s)

/-! ### Registers -/

/-- A write of PWR_CAP: outside the range it is ignored, with EV_PWR_CFG. -/
def State.capWrite (s : State) (val : Word) : State :=
  let v := bits val.toNat 11 0
  if within s.ident.capMin v s.ident.cap then s.set .PWR_CAP_WATTS v
  else s.log' s.clkSrc 0x2005 1 [(8, 0x7f000020010), (8, v)]

/-- PWR_CAP_WRITE (R432). -/
def execPwrCapWrite (_by : Agent) (val : Word) (s : State) : Res := .next (s.capWrite val)

/-- A write of PWR_LAT_TOL: below the current state's exit latency, the exit begins (R430). -/
def State.latWrite (s : State) (val : Word) : State :=
  let v := bits val.toNat 39 0
  let s := s.set .PWR_LAT_TOL_NS v
  let q := match s.clk.entering with | some q => q | none => s.get .PWR_STATE_CURRENT
  if v < exitNs q then s.wake 5 else s

/-- PWR_LAT_TOL_WRITE (R430). -/
def execPwrLatTolWrite (_by : Agent) (val : Word) (s : State) : Res := .next (s.latWrite val)

end Sys2Proof.Machine
end

