-- ==== Sys2Proof/Machine/Husk.lean ====
section
/-! DEFINITION. The husk of each ledger die and the stook (chapter 10, R192 to R212): encodes, decodes, the policy chain of R203,
and what a commit or HSK_CTL.CLEAR does to the directory. A core's husk descriptors go to the ledger die paired with its compute
die (R198). -/
namespace Sys2Proof.Machine

def State.stk (s : State) (ld : Nat) : StookSt := KMap.get s.stook ld StookSt.init
def State.setStk (s : State) (ld : Nat) (x : StookSt) : State := { s with stook := KMap.set s.stook ld x }

/-- A ledger die's husk as an agent and a source (R472). -/
def huskAgent (ld : Nat) : Agent := .unit (8 + ld) (srcLedger ld 1)

/-- The bank that a husk descriptor runs under. -/
def State.huskBank (s : State) (core : Nat) (d : Desc) : Image := s.bankFor (unitLedger (coreDie core)) (s.heldFor core kHsk d).beat

/-- BUSY and STALLED follow the descriptors that the husk holds and the encodes that wait (R211). -/
def State.syncHusk (s : State) (ld : Nat) : State :=
  (s.syncBusy ld).set .HSK_STATUS_STALLED ((s.stk ld).line.filter fun e => e.2.2).length ld

/-- A count field raised by one number and lowered by another. -/
def State.shift (s : State) (f : Field) (ld up down : Nat) : State := s.set f (s.get f ld + up - down) ld

/-! ### The stook of a ledger die -/

/-- A die's stook under an image: its policy entry and region (R198, R207). -/
def stookOf (img : Image) (ld : Nat) : Option (StookEnt × Region) :=
  match (stookEnts (img.sec 8)).find? fun e => e.die == ld with
  | some e => ((regionsOf (img.sec 4))[e.region]?).map fun r => (e, r)
  | none => none

/-- The place of a byte of a stook region; the region is local, so its bytes are contiguous (R180, R198). -/
def State.stookLoc (s : State) (r : Region) (off : Nat) : Nat := s.regionLoc r r.base + off

def chunkBytes : Nat := 0x200000
/-- The slot of a key (R198). -/
def slotOf (mb block : Nat) : Nat := mb % 256 * 128 + block % 128

/-- A directory entry. -/
structure DirEnt where
  mb : Nat
  block : Nat
  state : Nat
  mode : Nat
  first : Nat
  chunks : Nat
  srcLen : Nat
  frame : Nat
deriving DecidableEq, Repr

def State.dirGet (s : State) (r : Region) (slot : Nat) : DirEnt :=
  let e := s.rd (s.stookLoc r (32 * slot)) 32
  ⟨field e 0 2, field e 2 2, field e 4 1, field e 5 1, field e 8 4, field e 12 4, field e 16 8, field e 24 8⟩

def State.dirPut (s : State) (r : Region) (slot : Nat) (e : DirEnt) : State :=
  s.wr (s.stookLoc r (32 * slot)) (leBytes 2 e.mb ++ leBytes 2 e.block ++ leBytes 1 e.state ++ leBytes 1 e.mode ++ leBytes 2 0 ++
    leBytes 4 e.first ++ leBytes 4 e.chunks ++ leBytes 8 e.srcLen ++ leBytes 8 e.frame)

/-- An entry is emptied: every byte reads 0. -/
def State.dirClear (s : State) (r : Region) (slot : Nat) : State := s.wr (s.stookLoc r (32 * slot)) (List.replicate 32 0)

/-- A chain in the link table: each chunk names the next, the last 0xFFFF_FFFF. -/
def State.linkPut (s : State) (r : Region) : List Nat → State
  | [] => s
  | c :: cs => (s.wr (s.stookLoc r (0x100000 + 4 * c)) (leBytes 4 (cs.headD 0xffffffff))).linkPut r cs

/-- The chunks of a chain of n. -/
def State.chain (s : State) (r : Region) : Nat → Nat → List Nat
  | 0, _ => []
  | n + 1, c => c :: s.chain r n (leNat (s.rd (s.stookLoc r (0x100000 + 4 * c)) 4))

/-- The offset in the region of byte o of the records chained over a list of chunks. -/
def chainOff (cs : List Nat) (o : Nat) : Nat := cs.getD (o / chunkBytes) 0 * chunkBytes + o % chunkBytes

/-- Entries of a directory that are not empty, by their STATE bytes. -/
def State.dirCount (s : State) (dir : Nat) : Nat :=
  (s.mem.filter fun c => decide (dir ≤ c.1 ∧ c.1 < dir + 0x100000) && (c.1 - dir) % 32 == 4).length

/-- Chunks that are free and not reserved (R199). -/
def StookSt.avail (x : StookSt) : Nat := x.free.length - (x.runs.map (·.reserved)).foldl (· + ·) 0

/-- RESERVED follows the encodes that run. -/
def State.syncReserved (s : State) (ld : Nat) : State :=
  (s.set .HSK_STOOK_RESERVED (((s.stk ld).runs.map (·.reserved)).foldl (· + ·) 0) ld).set .HSK_STOOK_FREE (s.stk ld).free.length ld

/-- The need of R199: chunks for LEN source bytes in a mode. -/
def stookNeed (len mode : Nat) : Nat := ceilDiv (ceilDiv len 4096 * (if mode = 0 then 4160 else 2176)) chunkBytes

/-! ### Descriptor fields and checks (R150, R193) -/

def hskDst (d : Desc) : Nat := dbits d 2 42 0
def hskSrc (d : Desc) : Nat := dbits d 1 42 0
def hskLen (d : Desc) : Nat := dbits d 3 39 0
def hskFrame (d : Desc) : Nat := dbits d 4 39 0
def hskBlock (d : Desc) : Nat := dbits d 0 63 48

/-- The mode of an encode: MODE, or the section's mode for role 7; none where the section gives none (R199, R207). -/
def hskMode (img : Image) (d : Desc) : Option Nat :=
  if dbits d 0 34 33 = 3 then (let m := field (img.sec 8) 7 1; if img.sec 8 = [] ∨ 2 < m then none else some m)
  else some (dbits d 0 34 33)

def hskReserved : List (Nat × Nat × Nat) :=
  [(1, 63, 43), (2, 63, 43), (3, 63, 40), (4, 63, 40), (5, 63, 24), (6, 63, 0), (7, 63, 0)]

/-- The first field at fault of a husk descriptor, by its own words. -/
def hskFault (img : Image) (d : Desc) : Option BadField :=
  match firstReserved d hskReserved with
  | some b => some b
  | none => firstBad [(hskLen d % 64 == 0, (192, hskLen d)),
      (hskFrame d % 64 == 0 && decide (hskFrame d ≤ hskLen d), (256, hskFrame d)),
      (dbit d 0 32 || (hskMode img d).isSome, (33, dbits d 0 34 33))]

/-- Whether a DA is the BASE of a region of another die's stook: the paired ledger die alone serves a stook (R198). -/
def otherStook (img : Image) (ld da : Nat) : Bool :=
  (stookEnts (img.sec 8)).any fun e => e.die != ld && ((regionsOf (img.sec 4))[e.region]?).any fun r => r.base == da

/-- Whether requests to a ledger die's stook wait: a device of it calibrates or is in self-refresh (R189, R210). -/
def State.stookBusy (s : State) (ld : Nat) : Bool := s.get .LDG_STATUS_STATE ld == 3 || s.rst.cal.any fun c => c.1 / 3 == ld

/-! ### Forward passes (R203, R206) -/

def StookSt.fwdOf (x : StookSt) (mb : Nat) : Fwd := (x.fwd.find? fun f => f.mb == mb).getD ⟨mb, false, none, []⟩

def StookSt.setFwd (x : StookSt) (f : Fwd) : StookSt := { x with fwd := f :: x.fwd.filter fun g => g.mb != f.mb }

/-- One more block that an action affects. -/
def addAct : List FwdAct → Nat → Nat → Nat → List FwdAct
  | [], act, block, free => [⟨act, 1, block, free⟩]
  | a :: l, act, block, free => if a.act = act then { a with count := a.count + 1 } :: l else a :: addAct l act block free

/-- An action of R203 on a block: counted in HSK_FULL and for the end of the forward pass. -/
def State.stookAct (s : State) (ld mb block act : Nat) : State :=
  let x := s.stk ld
  let f := x.fwdOf mb
  let f := { f with acts := addAct f.acts act block x.free.length
                    lossy := f.lossy || act == 1
                    b0 := if act = 2 ∧ f.b0.isNone then some block else f.b0 }
  let s := s.setStk ld (x.setFwd f)
  match act with
  | 1 => s.bumpSat .HSK_FULL_LOSSY 1 ld
  | 2 => s.bumpSat .HSK_FULL_DROPS 1 ld
  | _ => s.bumpSat .HSK_FULL_STALLS 1 ld

/-- The end of a micro-batch's forward pass on the die: EV_STOOK_FULL once for each action taken (R206). -/
def State.stookEnd (s : State) (ld mb : Nat) : State :=
  let x := s.stk ld
  let s := ([1, 2, 3].filterMap fun n => (x.fwdOf mb).acts.find? fun a => a.act == n).foldl (fun s a =>
    s.log' (srcLedger ld 1) 0xd101 1 [(1, ld), (2, mb), (1, a.act), (4, a.count), (2, a.first), (4, a.free)]) s
  s.setStk ld { x with fwd := x.fwd.filter fun g => g.mb != mb }

/-- The forward pass ends with its last block. -/
def State.stookLast (s : State) (ld : Nat) (e : StookEnt) (mb block : Nat) : State :=
  if block = e.last then s.stookEnd ld mb else s

/-! ### Emptying the stook -/

/-- Every entry of the directory in force is emptied (R209, R210). -/
def State.stookEmpty (s : State) (ld cause : Nat) (always : Bool) : State :=
  let x := s.stk ld
  match x.dir with
  | none => s
  | some dir =>
    let n := s.dirCount dir
    let s := ({ s with mem := Mem.zero s.mem dir 0x100000 } : State)
    let all := (List.range (s.get .HSK_STOOK_FREE ld + s.get .HSK_STOOK_USED ld)).map (· + 1)
    let s := s.setStk ld { x with free := all, runs := [], reads := [], fwd := [], clearing := none }
    let s := (((s.set .HSK_STOOK_USED 0 ld).set .HSK_STATUS_STORED 0 ld).set .HSK_STATUS_DROPPED 0 ld).syncReserved ld
    if always ∨ 0 < n then s.log' (srcLedger ld 1) 0xd102 1 [(1, ld), (4, n), (1, cause)] else s

/-- A clear that waits takes effect once the husk descriptors that it waits for have ended (R210). -/
def State.clearDue (s : State) (ld : Nat) : State :=
  match (s.stk ld).clearing with
  | none => s
  | some l => if l.all fun e => !((s.heldOf e.1 kHsk).any fun h => h.d == e.2) then s.stookEmpty ld 3 true else s

/-- Registers, and a clear, follow the end of a husk descriptor. -/
def State.huskEnded (s : State) (ld : Nat) : State := (s.syncHusk ld).clearDue ld

/-- A husk descriptor is refused (R155). -/
def State.huskDrop (s : State) (core : Nat) (d : Desc) : State := (s.refuse core kHsk d).huskEnded (coreDie core)

/-- EV_HUSK_DESC and the refusal (R212, R155). -/
def State.huskRefuse (s : State) (core : Nat) (d : Desc) (b : BadField) : State :=
  let ld := coreDie core
  (s.log' (srcLedger ld 1) 0xd103 2
    [(1, ld), (2, core), (2, descMb d), (2, dbits d 0 63 48), (2, b.1), (8, b.2)]).huskDrop core d

/-- A husk descriptor completes. -/
def State.huskDone (s : State) (core : Nat) (d : Desc) : State := (s.complete core kHsk d).huskEnded (coreDie core)

/-! ### Encodes -/

/-- The source words of an encode. -/
def State.huskWords (s : State) (ld : Nat) (img : Image) (d : Desc) : List Nat :=
  let b := s.rdDa (huskAgent ld) img (hskSrc d) (hskLen d)
  (List.range (b.length / 2)).map fun i => field b (2 * i) 2

/-- EV_MEM_UE of a husk for a poisoned block (R178, R191). -/
def State.huskUe (s : State) (ld : Nat) (img : Image) (da : Nat) : State := s.daUe (srcLedger ld 1) (huskAgent ld) img da

/-- An encode writes its records into chunks of its reservation (R199): the chain, the entry in state 1, and what is left of the
reservation. A poisoned source block ends it as refused, with nothing kept (R178). -/
def State.encStart (s : State) (core : Nat) (d : Desc) (img : Image) (r : Region) (mode : Nat) : State :=
  let ld := coreDie core
  match s.poisonDa (huskAgent ld) img (hskSrc d) (hskLen d) with
  | some p => (s.huskUe ld img p).huskDrop core d
  | none =>
    let recs := (huskRecords mode (hskFrame d) (s.huskWords ld img d)).flatMap id
    let k := ceilDiv recs.length chunkBytes
    let x := s.stk ld
    let cs := x.free.take k
    let s := (s.hold core kHsk d).setStk ld { x with
      free := x.free.drop k
      runs := x.runs ++ [⟨core, d, descMb d, hskBlock d, mode, stookNeed (hskLen d) mode - k, recs.length⟩] }
    let s := ((chunks chunkBytes recs).zip cs).foldl (fun s e => s.wr (s.stookLoc r (e.2 * chunkBytes)) e.1) s
    let s := (s.linkPut r cs).dirPut r (slotOf (descMb d) (hskBlock d))
      ⟨descMb d, hskBlock d, 1, mode, cs.headD 0xffffffff, k, hskLen d, hskFrame d⟩
    ((s.shift .HSK_STOOK_USED ld k 0).syncReserved ld).syncHusk ld

/-- A dropped block input (R203, action 2): its entry holds no chunks, and the encode completes without its source. -/
def State.encDrop (s : State) (core : Nat) (d : Desc) (e : StookEnt) (r : Region) (mode : Nat) : State :=
  let ld := coreDie core
  let s := s.dirPut r (slotOf (descMb d) (hskBlock d)) ⟨descMb d, hskBlock d, 3, mode, 0xffffffff, 0, hskLen d, hskFrame d⟩
  let s := (s.stookAct ld (descMb d) (hskBlock d) 2).shift .HSK_STATUS_DROPPED ld 1 0
  (s.stookLast ld e (descMb d) (hskBlock d)).huskDone core d

/-- The decision on an encode whose turn has come (R199, R203): it is refused where its key's slot is not empty, starts, is dropped, or (none)
stalls (DEDUCED, log entry 30). -/
def State.encTry (s : State) (core : Nat) (d : Desc) (img : Image) (e : StookEnt) (r : Region) (mode : Nat) : Option State :=
  let ld := coreDie core
  let x := s.stk ld
  let mb := descMb d
  let block := hskBlock d
  let f := x.fwdOf mb
  let eff := if f.lossy then e.lossy else mode
  let again := match f.b0 with | some b => decide (b < block) && (block - b) % 2 == 0 | none => false
  if (s.dirGet r (slotOf mb block)).state ≠ 0 then some (s.huskRefuse core d (48, block))
  else if again then some (s.encDrop core d e r eff)
  else if stookNeed (hskLen d) eff ≤ x.avail then
    some ((if f.lossy then s.stookAct ld mb block 1 else s).encStart core d img r eff)
  else if eff = 0 ∧ e.lossy ≠ 0 ∧ stookNeed (hskLen d) e.lossy ≤ x.avail then
    some ((s.stookAct ld mb block 1).encStart core d img r e.lossy)
  else if e.drop = 1 ∧ block ≠ e.first ∧ f.b0.isNone then some (s.encDrop core d e r eff)
  else none

/-- An encode into the stook (R199): refused where its key's slot is not empty; behind one that waits it waits too; else it is
decided. -/
def State.encStook (s : State) (core : Nat) (d : Desc) (img : Image) (e : StookEnt) (r : Region) (mode : Nat) : State :=
  let ld := coreDie core
  let x := s.stk ld
  if (s.dirGet r (slotOf (descMb d) (hskBlock d))).state ≠ 0 then s.huskRefuse core d (48, hskBlock d)
  else if x.line ≠ [] then ((s.hold core kHsk d).setStk ld { x with line := x.line ++ [(core, d, false)] }).syncHusk ld
  else
    match s.encTry core d img e r mode with
    | some s' => s'
    | none =>
      let s := (s.hold core kHsk d).stookAct ld (descMb d) (hskBlock d) 3
      (s.setStk ld { s.stk ld with line := [(core, d, true)] }).syncHusk ld

/-- An encode to an address (R202): its records in sequence at DST. At a poisoned source block the tiles before it are written,
64 bytes of 0xFF follow them, and it ends as refused (R178). -/
def State.encAddr (s : State) (core : Nat) (d : Desc) (img : Image) (mode : Nat) : State :=
  let ld := coreDie core
  let a := huskAgent ld
  let recs := huskRecords mode (hskFrame d) (s.huskWords ld img d)
  match s.poisonDa a img (hskSrc d) (hskLen d) with
  | some p =>
    let good := (recs.take ((p - hskSrc d) / 4096)).flatMap id
    ((s.wrDa a img (hskDst d) (good ++ List.replicate 64 0xff)).huskUe ld img p).huskDrop core d
  | none =>
    let out := recs.flatMap id
    match s.range a img (hskDst d) out.length with
    | .unmapped da => (s.unmappedEv a da).huskDrop core d
    | .wait => s.hold core kHsk d
    | .ok =>
      if !s.spansFree core kHsk d a img [(hskDst d, out.length)] then s.hold core kHsk d
      else (((s.wrDa a img (hskDst d) out).bump .HSK_ENC_IN_COUNT (hskLen d) ld).bump .HSK_ENC_OUT_COUNT out.length ld).huskDone core d

/-- Whether a descriptor of a core is already at work in its husk: being written, in line, or being read. -/
def State.huskBusy (s : State) (core : Nat) (d : Desc) : Bool :=
  let x := s.stk (coreDie core)
  x.runs.any (fun r => r.core == core && r.d == d) || x.line.any (fun e => e.1 == core && e.2.1 == d) ||
    x.reads.any (fun e => e.1 == core && e.2.1 == d)

/-- Whether a husk descriptor waits: for an earlier one of its core that has not reached the husk (R152), for old-bank descriptors (R44), for
a clear under way (R210), or because the husk is stopped. -/
def State.huskWaits (s : State) (core : Nat) (d : Desc) : Bool :=
  let ld := coreDie core
  s.clk.stopped || s.get .ESC_STATUS_FROZEN == 1 || s.rst.inReset.contains (24 + ld) ||
    (s.ahead core kHsk d).any (fun h => h.kind == kHsk && !s.huskBusy core h.d) ||
    s.bankWait core kHsk (s.heldFor core kHsk d).beat ||
    match (s.stk ld).clearing with
    | some l => !l.contains (core, d)
    | none => false

/-- A husk descriptor that reaches its ledger die: checked, then its encode or decode (DEDUCED, log entry 30). -/
def State.huskStart (s : State) (core : Nat) (d : Desc) (run : State → Image → State) : State :=
  let img := s.huskBank core d
  if s.huskBusy core d then s
  else if s.huskWaits core d then s.hold core kHsk d
  else
    match hskFault img d with
    | some b => s.huskRefuse core d b
    | none =>
      if !dbit d 0 32 && otherStook img (coreDie core) (hskDst d) then s.huskRefuse core d (128, hskDst d)
      else if dbit d 0 32 && otherStook img (coreDie core) (hskSrc d) then s.huskRefuse core d (64, hskSrc d)
      else run s img

/-- The source of an encode is mapped and can be read now (R180, R126, R189); then the encode goes on. -/
def State.encSrc (s : State) (core : Nat) (d : Desc) (img : Image) (run : State → State) : State :=
  let a := huskAgent (coreDie core)
  match s.range a img (hskSrc d) (hskLen d) with
  | .unmapped da => (s.unmappedEv a da).huskDrop core d
  | .wait => s.hold core kHsk d
  | .ok => if s.spansFree core kHsk d a img [(hskSrc d, hskLen d)] then run s else s.hold core kHsk d

/-- HUSK_ENCODE (R193, R199, R202, R203). -/
def execHuskEncode (core : Nat) (d : Desc) (s : State) : Res :=
  onUnit (s.coreOk core) <|
    if dbit d 0 32 then .fault .otherRow
    else .next (s.atUnit core kHsk d fun s => s.huskStart core d fun s img => s.encSrc core d img fun s =>
      let mode := (hskMode img d).getD 0
      match stookOf img (coreDie core) with
      | some (e, r) =>
        if r.base ≠ hskDst d then s.encAddr core d img mode
        else if s.stookBusy (coreDie core) then s.hold core kHsk d
        else s.encStook core d img e r mode
      | none => s.encAddr core d img mode)

/-- The encodes in line are decided in order until one stalls (R203); the head waits for its own need alone. -/
def State.lineRun (s : State) (ld : Nat) : Nat → State
  | 0 => s
  | n + 1 =>
    let x := s.stk ld
    match x.line with
    | [] => s
    | (core, d, stalled) :: rest =>
      let img := s.huskBank core d
      match stookOf img ld with
      | none => s
      | some (e, r) =>
        let mode := (hskMode img d).getD 0
        let eff := if (x.fwdOf (descMb d)).lossy then e.lossy else mode
        if (stalled ∧ x.avail < stookNeed (hskLen d) eff) ∨ s.stookBusy ld ∨
            !s.spansFree core kHsk d (huskAgent ld) img [(hskSrc d, hskLen d)] then s
        else
          match (s.setStk ld { x with line := rest }).encTry core d img e r mode with
          | some s' => (s'.syncHusk ld).lineRun ld n
          | none =>
            let s := s.stookAct ld (descMb d) (hskBlock d) 3
            (s.setStk ld { s.stk ld with line := (core, d, true) :: rest }).syncHusk ld

/-- STOOK_ENCODE_RESUME (R203): freed chunks may meet the need of the encode that waits first. Under a freeze it goes on
waiting (R210). -/
def execStookEncodeResume (ld : Nat) (s : State) : Res :=
  onUnit (s.dieOk ld) (.next (if s.get .ESC_STATUS_FROZEN = 1 ∨ s.clk.stopped then s else s.lineRun ld (s.stk ld).line.length))

/-- STOOK_ENCODE_COMPLETE (R199, R206) (DESIGN CHOICE, log entry 7). -/
def execStookEncodeComplete (core : Nat) (d : Desc) (s : State) : Res :=
  onUnit (s.coreOk core) <|
    let ld := coreDie core
    let x := s.stk ld
    let img := s.huskBank core d
    match x.runs.find? (fun r => r.core == core && r.d == d), stookOf img ld with
    | some run, some (e, r) =>
      let slot := slotOf run.mb run.block
      let s := s.setStk ld { x with runs := x.runs.filter fun q => !(q.core == core && q.d == d) }
      let s := s.dirPut r slot { s.dirGet r slot with state := 2 }
      let s := (s.shift .HSK_STATUS_STORED ld 1 0).syncReserved ld
      let s := (s.bump .HSK_ENC_IN_COUNT (hskLen d) ld).bump .HSK_ENC_OUT_COUNT run.bytes ld
      .next ((s.stookLast ld e run.mb run.block).huskDone core d)
    | _, _ => .next s

/-! ### Decodes -/

/-- Decoded words as bytes. -/
def wordBytes (ws : Array Nat) : List Byte := ws.toList.flatMap (leBytes 2)

/-- The bytes of a stream of records, from their headers (R193). -/
def streamLen (rd : Nat → Nat → List Byte) : Nat → Nat → Nat
  | 0, off => off
  | tiles + 1, off => streamLen rd tiles (off + recLen (rd off 16))

/-- A record that breaks the coding (R194): its first block is an uncorrectable block of its ledger die, or is poisoned in another tier
(R178). -/
def State.badRecord (s : State) (ld : Nat) (img : Image) (da : Nat) : State :=
  match s.resolve (huskAgent ld) img da with
  | .at loc =>
    if loc < 2 ^ 44 then s.uncorrectable (loc / 2 ^ 40) (loc % 2 ^ 40) da (srcLedger ld 1)
    else ((List.range 8).foldl (fun s k => s.poisonAt (blockOf loc + 8 * k)) s).huskUe ld img da
  | _ => s

/-- A decode of a record stream into DST: the state, and whether all was well. At a bad or poisoned record its tile's
destination is written 0xFF and the descriptor ends as refused (R178, R194). -/
def State.huskRead (s : State) (core : Nat) (d : Desc) (img : Image) (len frame : Nat) (daOf : Nat → Nat) : State × Bool :=
  let ld := coreDie core
  let a := huskAgent ld
  let rd (o n : Nat) : List Byte := (List.range n).flatMap fun k => s.rdDa a img (daOf (o + k)) 1
  let poison (o n : Nat) : Option Nat := (List.range (ceilDiv n 64)).findSome? fun k => s.poisonDa a img (daOf (o + 64 * k)) 1
  let r := huskDecode frame rd (fun o n => (poison o n).isSome) (ceilDiv len 4096) (len / 2) 0 #[]
  match r.2 with
  | none => (s.wrDa a img (hskDst d) (wordBytes r.1), true)
  | some off =>
    let done := 2 * r.1.size
    let s' := s.wrDa a img (hskDst d) (wordBytes r.1 ++ List.replicate (min 4096 (len - done)) 0xff)
    match poison off (max 64 (recLen (rd off 16))) with
    | some p => (s'.huskUe ld img p, false)
    | none => (s'.badRecord ld img (daOf off), false)

/-- The chunks and the entry of a slot are given back. -/
def State.dirFree (s : State) (ld : Nat) (r : Region) (slot : Nat) : State :=
  let e := s.dirGet r slot
  let cs := s.chain r e.chunks e.first
  let x := s.stk ld
  let s := (s.setStk ld { x with free := cs.foldl insertBlock x.free }).dirClear r slot
  (s.shift .HSK_STOOK_USED ld 0 e.chunks).syncReserved ld

/-- The device address of byte o of a stook entry's records. -/
def State.entryDa (s : State) (r : Region) (e : DirEnt) (o : Nat) : Nat := r.base + chainOff (s.chain r e.chunks e.first) o

/-- A decode from the stook begins: the entry reads 4 until it completes. -/
def State.readBegin (s : State) (core : Nat) (d : Desc) (r : Region) (slot : Nat) (dropped : Bool) : State :=
  let ld := coreDie core
  let s := (s.hold core kHsk d).dirPut r slot { s.dirGet r slot with state := 4 }
  let s := if dropped then s.shift .HSK_STATUS_DROPPED ld 0 1 else s.shift .HSK_STATUS_STORED ld 0 1
  (s.setStk ld { s.stk ld with reads := (s.stk ld).reads ++ [(core, d, dropped)] }).syncHusk ld

/-- A decode from the stook (R200) (DEDUCED, log entry 30). -/
def State.decStook (s : State) (core : Nat) (d : Desc) (img : Image) (r : Region) : State :=
  let ld := coreDie core
  let mb := descMb d
  let slot := slotOf mb (hskBlock d)
  let e := s.dirGet r slot
  if e.mb ≠ mb ∨ e.block ≠ hskBlock d ∨ (e.state ≠ 2 ∧ e.state ≠ 3) then s.huskRefuse core d (48, hskBlock d)
  else if hskLen d = 0 then s.readBegin core d r slot (e.state == 3)
  else if hskLen d ≠ e.srcLen then s.huskRefuse core d (192, hskLen d)
  else
    match s.range (huskAgent ld) img (hskDst d) (hskLen d) with
    | .unmapped da => (s.unmappedEv (huskAgent ld) da).huskDrop core d
    | .wait => s.hold core kHsk d
    | .ok =>
      if !s.spansFree core kHsk d (huskAgent ld) img [(hskDst d, hskLen d)] then s.hold core kHsk d
      else
      let prevSlot := slotOf mb (hskBlock d - 1)
      let p := s.dirGet r prevSlot
      let src := if e.state = 3 then p else e
      if e.state = 3 ∧ (p.mb ≠ mb ∨ p.block + 1 ≠ hskBlock d ∨ p.state ≠ 2 ∨ p.srcLen ≠ hskLen d) then
        s.huskRefuse core d (48, hskBlock d)
      else
        let res := s.huskRead core d img (hskLen d) src.frame (s.entryDa r src)
        if res.2 then res.1.readBegin core d r slot (e.state == 3)
        else
          let s := res.1.dirFree ld r (if e.state = 3 then prevSlot else slot)
          (s.shift .HSK_STATUS_STORED ld 0 1).huskDrop core d

/-- A decode from an address (R202): its records lie in sequence at SRC. -/
def State.decAddr (s : State) (core : Nat) (d : Desc) (img : Image) : State :=
  let ld := coreDie core
  let a := huskAgent ld
  let n := streamLen (fun o l => s.rdDa a img (hskSrc d + o) l) (ceilDiv (hskLen d) 4096) 0
  match s.range a img (hskSrc d) n, s.range a img (hskDst d) (hskLen d) with
  | .unmapped da, _ => (s.unmappedEv a da).huskDrop core d
  | _, .unmapped da => (s.unmappedEv a da).huskDrop core d
  | .wait, _ => s.hold core kHsk d
  | _, .wait => s.hold core kHsk d
  | .ok, .ok =>
    if !s.spansFree core kHsk d a img [(hskSrc d, n), (hskDst d, hskLen d)] then s.hold core kHsk d
    else
      let res := s.huskRead core d img (hskLen d) (hskFrame d) (fun o => hskSrc d + o)
      if res.2 then res.1.huskDone core d else res.1.huskDrop core d

/-- HUSK_DECODE (R200, R202). -/
def execHuskDecode (core : Nat) (d : Desc) (s : State) : Res :=
  onUnit (s.coreOk core) <|
    if !dbit d 0 32 then .fault .otherRow
    else .next (s.atUnit core kHsk d fun s => s.huskStart core d fun s img =>
      match stookOf img (coreDie core) with
      | some (_, r) =>
        if r.base ≠ hskSrc d then s.decAddr core d img
        else if s.stookBusy (coreDie core) then s.hold core kHsk d
        else s.decStook core d img r
      | none => s.decAddr core d img)

/-- STOOK_DECODE_COMPLETE (R200, R201): the entry is emptied, its chunks are freed, and the issuing core gets its signals, that of
CTR_DROP first. -/
def execStookDecodeComplete (core : Nat) (d : Desc) (s : State) : Res :=
  onUnit (s.coreOk core) <|
    let ld := coreDie core
    let x := s.stk ld
    let img := s.huskBank core d
    match x.reads.find? (fun e => e.1 == core && e.2.1 == d), stookOf img ld with
    | some (_, _, dropped), some (e, r) =>
      let s := s.setStk ld { x with reads := x.reads.filter fun q => !(q.1 == core && q.2.1 == d) }
      let s := (s.dirFree ld r (slotOf (descMb d) (hskBlock d))).huskDone core d
      .next (match s.logCore core with
        | some l => (if dropped then s.sendSignal l e.ctrDrop 1 else s).sendSignal l e.ctrDone 1
        | none => s)
    | _, _ => .next s

/-! ### Commit and clear -/

/-- TIGHT and ACTIVE take the values of the new image at a switch (R209, R211) (DEDUCED, log entry 30). -/
def State.stookSwitch (s : State) (ld : Nat) : State :=
  let img := s.bank (unitLedger ld)
  (s.set .HSK_STATUS_TIGHT (b2n (img.variant == 1)) ld).set .HSK_STATUS_ACTIVE (b2n (stookOf img ld).isSome) ld

/-- The stook entry of a die and the region entry that it names, byte for byte (R209). -/
def stookKey (img : Image) (ld : Nat) : List Byte :=
  match (stookEnts (img.sec 8)).zipIdx.find? fun e => e.1.die == ld with
  | some (e, i) => slice (img.sec 8) (16 + 16 * i) 16 ++ slice (img.sec 4) (16 + 32 * e.region) 32
  | none => []

/-- STOOK_DIRECTORY_COMMIT (R209): once its old-bank descriptors have drained, a ledger die keeps its directory or empties it and
sets up the new one. -/
def State.stookCommit (s : State) (ld : Nat) : State :=
  let img := s.bank (unitLedger ld)
  let x := s.stk ld
  if KMap.has s.str.oldBank (unitLedger ld) then s
  else if stookKey img ld = x.key ∧ !x.resetSince then s
  else
    let s := s.stookEmpty ld (if x.resetSince then 1 else 0) false
    match stookOf img ld with
    | none => (s.setStk ld { StookSt.init with key := [] }).syncReserved ld
    | some (_, r) =>
      let dir := s.stookLoc r 0
      let n := if x.dir = some dir then 0 else s.dirCount dir
      let s := ({ s with mem := Mem.zero s.mem dir 0x100000 } : State)
      let s := if 0 < n ∧ x.resetSince then s.log' (srcLedger ld 1) 0xd102 1 [(1, ld), (4, n), (1, 1)] else s
      let s := s.setStk ld { StookSt.init with
        dir := some dir, key := stookKey img ld, free := (List.range (r.len / chunkBytes - 1)).map (· + 1) }
      (s.set .HSK_STOOK_USED 0 ld).syncReserved ld

def execStookDirectoryCommit (ld : Nat) (s : State) : Res := onUnit (s.dieOk ld) (.next (s.stookCommit ld))

/-- HSK_CLEAR (R210): encodes in line are refused, and every entry is emptied once the other husk descriptors have completed. -/
def State.hskClear (s : State) (ld : Nat) : State :=
  let x := s.stk ld
  let s := s.setStk ld { x with line := [] }
  let s := x.line.foldl (fun s e => s.refuse e.1 kHsk e.2.1) s
  let l := (List.range 104).flatMap fun k => (s.heldOf (128 * ld + k) kHsk).map fun h => (128 * ld + k, h.d)
  ((s.setStk ld { s.stk ld with clearing := some l }).syncHusk ld).clearDue ld

/-- HSK_CLEAR (R210) (DEDUCED, log entry 30). -/
def execHskClear (ld : Nat) (s : State) : Res := onUnit (s.dieOk ld) (.next (s.hskClear ld))

end Sys2Proof.Machine
end

