-- ==== Sys2Proof/Machine/Win.lean ====
section
/-! DEFINITION. The window unit (chapter 11, R213 to R230): convolution and pooling by stripes. Lines are loaded into the line slots; a stripe
adds the groups that read a line, and then retires it (DESIGN CHOICE, log entry 58: the tiles of an output row go on together, line by
line, which changes no bit of a result). -/
namespace Sys2Proof.Machine

def State.winSt (s : State) (clu : Nat) : WinSt := KMap.get s.win clu WinSt.init
def State.setWin (s : State) (clu : Nat) (x : WinSt) : State := { s with win := KMap.set s.win clu x }

/-! ### The descriptor (R148, R213) -/

/-- A window descriptor; extents and counts are the fields plus one. -/
structure WinD where
  src : Nat
  pool : Nat
  pad : Nat
  inFmt : Nat
  w : Nat
  h : Nat
  t : Nat
  c : Nat
  kw : Nat
  kh : Nat
  kt : Nat
  sw : Nat
  sh : Nat
  st : Nat
  dw : Nat
  dh : Nat
  dt : Nat
  pl : Nat
  pr : Nat
  ptop : Nat
  pbot : Nat
  pf : Nat
  pk : Nat
  const : Nat
  wgt : Nat
  oc : Nat
  stripe : Nat
  ns : Nat
  tile : Nat
  round : Nat
  sat : Bool
  slot : Nat
  outFmt : Nat
  dst : Nat
  idx : Nat
  tid : Nat
deriving DecidableEq, Repr

def winOf (d : Desc) : WinD where
  src := dbits d 1 42 0
  pool := dbits d 1 44 43
  pad := dbits d 1 46 45
  inFmt := dbits d 1 50 47
  w := dbits d 2 15 0 + 1
  h := dbits d 2 31 16 + 1
  t := dbits d 2 47 32 + 1
  c := dbits d 2 63 48 + 1
  kw := dbits d 3 3 0 + 1
  kh := dbits d 3 7 4 + 1
  kt := dbits d 3 10 8 + 1
  sw := dbits d 3 23 16
  sh := dbits d 3 31 24
  st := dbits d 3 39 32
  dw := dbits d 3 47 40
  dh := dbits d 3 55 48
  dt := dbits d 3 63 56
  pl := dbits d 4 7 0
  pr := dbits d 4 15 8
  ptop := dbits d 4 23 16
  pbot := dbits d 4 31 24
  pf := dbits d 4 39 32
  pk := dbits d 4 47 40
  const := dbits d 4 63 48
  wgt := 64 * dbits d 5 15 0
  oc := dbits d 5 31 16 + 1
  stripe := dbits d 5 39 32
  ns := dbits d 5 47 40 + 1
  tile := dbits d 5 51 48
  round := dbits d 5 53 52
  sat := dbit d 5 54
  slot := dbits d 5 56 55
  outFmt := dbits d 5 60 57
  dst := dbits d 6 42 0
  idx := dbits d 7 39 0
  tid := dbits d 7 63 40

def winReserved : List (Nat × Nat × Nat) := [(1, 63, 51), (3, 15, 11), (5, 63, 61), (6, 63, 43)]

/-- An output extent (R218). -/
def outExt (n lo hi dil k stride : Nat) : Int := ((n : Int) + lo + hi - dil * ((k : Int) - 1) - 1) / stride + 1

def WinD.ow (x : WinD) : Nat := (outExt x.w x.pl x.pr x.dw x.kw x.sw).toNat
def WinD.oh (x : WinD) : Nat := (outExt x.h x.ptop x.pbot x.dh x.kh x.sh).toNat
def WinD.ot (x : WinD) : Nat := (outExt x.t x.pf x.pk x.dt x.kt x.st).toNat

/-- The position pitch of a map (R216). -/
def pitch (c : Nat) (f : Fmt) : Nat := 64 * ceilDiv (c * f.width) 512

/-- src_index of R219; none is padding, under zero or constant padding. -/
def srcIndex (v : Int) (n mode : Nat) : Option Nat :=
  if 0 ≤ v ∧ v < n then some v.toNat
  else if mode ≤ 1 then none
  else if mode = 2 then some (if v < 0 then 0 else n - 1)
  else if n = 1 then some 0
  else
    let p := 2 * ((n : Int) - 1)
    let m := v % p
    some (if m < n then m else p - m).toNat

/-- The mapped coordinates of a tap on each axis (R218, R219). -/
def WinD.tapX (x : WinD) (ox kw : Nat) : Option Nat := srcIndex ((ox * x.sw : Nat) - (x.pl : Int) + (kw * x.dw : Nat)) x.w x.pad
def WinD.tapY (x : WinD) (oy kh : Nat) : Option Nat := srcIndex ((oy * x.sh : Nat) - (x.ptop : Int) + (kh * x.dh : Nat)) x.h x.pad
def WinD.tapT (x : WinD) (ot kt : Nat) : Option Nat := srcIndex ((ot * x.st : Nat) - (x.pf : Int) + (kt * x.dt : Nat)) x.t x.pad

/-- The first output column of stripe k (R224). -/
def WinD.oxLo (x : WinD) (k : Nat) : Nat := k * x.ow / x.ns
/-- The first input column that stripe k owns (R224). -/
def WinD.own (x : WinD) (k : Nat) : Nat :=
  if k = 0 then 0 else if x.ns ≤ k then x.w else (min (max (((x.oxLo k * x.sw : Nat) : Int) - x.pl) 0) x.w).toNat

/-- Output columns of a stripe. -/
def WinD.oxs (x : WinD) (k : Nat) : List Nat := (List.range (x.oxLo (k + 1) - x.oxLo k)).map (· + x.oxLo k)

/-- Stored input columns that a stripe reads. -/
def WinD.cols (x : WinD) (k : Nat) : List Nat :=
  ((x.oxs k).flatMap fun ox => (List.range x.kw).filterMap fun kw => x.tapX ox kw).eraseDups

/-- Whether a stripe reads its own and its right neighbour's columns only (R224), and whether it reads any of the latter. -/
def WinD.colsOk (x : WinD) (k : Nat) : Bool := (x.cols k).all fun c => decide (x.own k ≤ c ∧ c < x.own (min (k + 2) x.ns))
def WinD.halo (x : WinD) (k : Nat) : Bool := (x.cols k).any fun c => decide (x.own (k + 1) ≤ c)

/-- The input and output maps' bytes (R216). -/
def WinD.inLen (x : WinD) (f : Fmt) : Nat := x.w * x.h * x.t * pitch x.c f
def WinD.outLen (x : WinD) (f : Fmt) : Nat := x.ow * x.oh * x.ot * pitch x.oc f

/-- Cg, and the row pitch of the filter (R216). -/
def WinD.cg (x : WinD) : Nat := 32 * ceilDiv x.c 32
def WinD.wPitch (x : WinD) : Nat := 64 * ceilDiv x.oc 32
def WinD.wLen (x : WinD) : Nat := x.kt * x.kh * x.kw * x.cg * x.wPitch

/-- Input and output formats (R217). -/
def winIn (c : Nat) : Option Fmt :=
  match c with
  | 1 => some .fp16 | 3 => some .a8 | 4 => some .g8 | 5 => some .w6a | 6 => some .w6b | 7 => some .n4 | 8 => some .i8
  | _ => none
def winOut (c : Nat) : Option Fmt := match c with | 0 => some .fp32 | 1 => some .fp16 | 2 => some .wf16 | _ => none

/-- The first check of R227 that a descriptor fails by its own words; ranges are checked apart. -/
def WinD.fault (x : WinD) (d : Desc) : Option BadField :=
  match firstReserved d winReserved with
  | some b => some b
  | none =>
    match firstBad [((winIn x.inFmt).isSome, (111, x.inFmt)), ((winOut x.outFmt).isSome, (377, x.outFmt)),
        (decide (x.kw ≤ 11), (192, x.kw - 1)), (decide (x.kh ≤ 11), (196, x.kh - 1)), (decide (x.kt ≤ 5), (200, x.kt - 1)),
        (x.sw != 0, (208, 0)), (x.sh != 0, (216, 0)), (x.st != 0, (224, 0)), (x.dw != 0, (232, 0)), (x.dh != 0, (240, 0)),
        (x.dt != 0, (248, 0)),
        (decide (1 ≤ outExt x.w x.pl x.pr x.dw x.kw x.sw), (128, x.w - 1)),
        (decide (1 ≤ outExt x.h x.ptop x.pbot x.dh x.kh x.sh), (144, x.h - 1)),
        (decide (1 ≤ outExt x.t x.pf x.pk x.dt x.kt x.st), (160, x.t - 1)),
        (decide (x.w * 64 * ceilDiv x.c 64 ≤ 524288), (128, x.w - 1)), (decide (x.ns ≤ 8), (360, x.ns - 1)),
        (decide (x.stripe < x.ns), (352, x.stripe))] with
    | some b => some b
    | none => firstBad [(x.colsOk x.stripe, (352, x.stripe)), (x.tile % 2 == 0, (368, x.tile)),
        (x.pool != 0 || decide (x.wgt + x.wLen ≤ coreMem), (320, x.wgt / 64)), (x.pool != 3, (107, x.pool)),
        (x.pool == 0 || x.oc == x.c, (336, x.oc - 1)),
        (x.pad != 1 || (Fmt.fp16.decode x.const).isFinite, (304, x.const)),
        (x.src % 64 == 0, (64, x.src)), (x.dst % 64 == 0, (384, x.dst)),
        (!meets x.src (x.inLen ((winIn x.inFmt).getD .fp16)) x.dst (x.outLen ((winOut x.outFmt).getD .fp32)), (384, x.dst))]

/-- Faults of R77: a reserved rounding mode, or a stochastic-rounding index that would pass 2^40 - 1. -/
def WinD.fmtFault (x : WinD) : Option BadField :=
  firstBad [(decide (x.round ≠ 3), (372, x.round)),
    (x.round != 2 || decide (x.idx + x.ot * x.oh * x.ow * x.oc ≤ 2 ^ 40), (448, x.idx))]

/-- The fields of a window descriptor but STRIPE: high and low bit. -/
def winFields : List (Nat × Nat) :=
  [(106, 64), (108, 107), (110, 109), (114, 111), (143, 128), (159, 144), (175, 160), (191, 176), (195, 192), (199, 196), (202, 200),
    (215, 208), (223, 216), (231, 224), (239, 232), (247, 240), (255, 248), (263, 256), (271, 264), (279, 272), (287, 280), (295, 288),
    (303, 296), (319, 304), (335, 320), (351, 336), (367, 360), (371, 368), (373, 372), (374, 374), (376, 375), (380, 377), (426, 384),
    (487, 448), (511, 488)]

/-- The first field in which a descriptor differs from another (R227, R230). -/
def winDiffers (a b : Desc) : BadField :=
  match winFields.find? fun r => bits a.toNat r.1 r.2 != bits b.toNat r.1 r.2 with
  | some r => (r.2, bits a.toNat r.1 r.2)
  | none => (0, bits a.toNat 15 0)

/-- The descriptor without its header and stripe: what the stripes of one convolution share (R215). -/
def winKey (d : Desc) : Nat := putBits (d.toNat / 2 ^ 64) (256 + 39) (256 + 32) 0

/-! ### Refusals and aborts -/

/-- A cluster's window unit as an agent. -/
def winAgent (clu : Nat) : Agent := .unit (clu / 16) (srcClu clu 1)

/-- The registers that follow the unit's state (R226, R229). -/
def State.syncWin (s : State) (clu : Nat) : State :=
  let x := s.winSt clu
  let s := s.set .WIN_STATUS_HELD (x.gather.foldl (fun m e => putBit m e.1 true) 0) clu
  let s := (s.set .WIN_STATUS_GATHERING (b2n (x.gather != [])) clu).set .WIN_STATUS_RUNNING (b2n (x.run != [])) clu
  let cr := (List.range 7).foldl (fun v b =>
    let k := if x.run.length ≤ b + 1 then 0 else min 32 (KMap.get x.retired b 0 + 32 - KMap.get x.loaded (b + 1) 0)
    putBits v (8 * b + 7) (8 * b) k) 0
  s.set .WIN_CREDIT_CREDIT cr clu

/-- Stripes are refused under R155, each counted. -/
def State.winDrop (s : State) (clu : Nat) (l : List (Nat × Nat × Desc)) : State :=
  l.foldl (fun s e => (s.bump .WIN_STATUS_REFUSED 1 clu).refuse e.2.1 kWin e.2.2) s

/-- Stripes of a convolution have ended refused: those of its stripes that come later are refused too, until each has come (R227, R228). -/
def State.winDead (s : State) (clu : Nat) (d : Desc) (stripes : List Nat) : State :=
  let x := s.winSt clu
  let n := (winOf d).ns
  let l := (stripes ++ ((x.dead.find? fun e => e.1 == winKey d).map (·.2)).getD []).eraseDups
  let rest := x.dead.filter fun e => e.1 != winKey d
  s.setWin clu { x with dead := if n ≤ l.length then rest else (winKey d, l) :: rest }

/-- The refusal of a descriptor, by EV_FMT_ILLEGAL for what R77 names, else by EV_WIN_DESC; the refusal of a stripe ends its convolution
(R227). -/
def State.winRefuse (s : State) (core : Nat) (d : Desc) (isFmt : Bool) (b : BadField) : State :=
  let clu := coreClu core
  let x := s.winSt clu
  let s := if isFmt then s.fmtIllegal (srcClu clu 1) (descClass d) b
    else s.log' (srcClu clu 1) 0xd001 2 [(2, core), (1, dbits d 5 39 32), (2, b.1), (8, b.2)]
  let s := (s.bump .WIN_STATUS_REFUSED 1 clu).refuse core kWin d
  if x.gather.any fun e => winKey e.2.2 == winKey d then
    ((((s.setWin clu { x with gather := [] }).winDead clu d ((winOf d).stripe :: x.gather.map (·.1))).winDrop clu x.gather)).syncWin clu
  else (s.winDead clu d [(winOf d).stripe]).syncWin clu

/-- EV_WIN_ABORT: cluster, cause (0 core reset, 1 die reset, 2 poison, 3 commit, 4 cancel), stripes ended, last output row written
(R230). -/
def State.winAbortEv (s : State) (clu cause mask row : Nat) : State :=
  s.log' (srcClu clu 1) 0xd002 2 [(1, clu), (1, cause), (1, mask), (2, row)]

def stripeMask (l : List (Nat × Nat × Desc)) : Nat := l.foldl (fun m e => putBit m e.1 true) 0

/-- Stripes that ended with a core or a die reset (cause 0 or 1): the others of their convolution are refused as they come (R228). -/
def State.winDeadAll (s : State) (clu cause : Nat) (l : List (Nat × Nat × Desc)) : State :=
  match l with
  | [] => s
  | e :: _ => if cause ≤ 1 then s.winDead clu e.2.2 (l.map fun g => g.1) else s

/-- The gathering convolution ends: its held stripes are refused (R228). -/
def State.winEndGather (s : State) (clu cause : Nat) : State :=
  let x := s.winSt clu
  if x.gather = [] then s
  else
    let s := ((s.setWin clu { x with gather := [] }).winDeadAll clu cause x.gather).winDrop clu x.gather
    (s.winAbortEv clu cause (stripeMask x.gather) 0).syncWin clu

/-! ### Running -/

/-- A whole gathered convolution starts when none runs and its bank has (R44, R215): each stripe's engine latches the key and the step (R93,
R154). -/
def State.winStart (s : State) (clu : Nat) : State :=
  let x := s.winSt clu
  match x.run, x.gather with
  | [], e :: _ =>
    if x.gather.length = (winOf e.2.2).ns ∧ x.gather.all fun g => !s.bankWait g.2.1 kWin (s.heldFor g.2.1 kWin g.2.2).beat then
      let sr := x.gather.map fun g => (g.1, s.srIn g.2.1 (winOf g.2.2).slot 0 0)
      ((s.setWin clu { WinSt.init with run := x.gather, dead := x.dead, sr := sr.map fun e => (e.1, e.2.key, e.2.step) }).set .WIN_STATUS_DONE 0 clu).syncWin clu
    else s
  | _, _ => s

/-- The running convolution ends: every stripe that has not completed is refused (R228). -/
def State.winEndRun (s : State) (clu cause : Nat) : State :=
  let x := s.winSt clu
  if x.run = [] then s
  else
    let left := x.run.filter fun e => !bit (s.get .WIN_STATUS_DONE clu) e.1
    let s := (s.setWin clu { WinSt.init with gather := x.gather, dead := x.dead }).winDrop clu left
    ((s.winAbortEv clu cause (stripeMask left) x.lastRow).winStart clu).syncWin clu

/-- A descriptor reaches the window unit (R215, R227): it waits behind others of its core that the unit has not taken; it is refused, or it
joins the gathering convolution. A stripe of a convolution that has been refused is refused. -/
def State.winArrive (s : State) (core : Nat) (d : Desc) : State :=
  let clu := coreClu core
  let w := s.winSt clu
  let x := winOf d
  let mine := (s.heldOf core kWin).takeWhile fun h => h.d != d
  let img := s.bankFor (unitDie (coreDie core)) (s.heldFor core kWin d).beat
  let off := w.gather.find? fun e => winKey e.2.2 != winKey d || e.1 == x.stripe
  if (w.gather ++ w.run).any (fun e => e.2.1 == core && e.2.2 == d) then s.winStart clu
  else if s.clk.stopped || !mine.all (fun h => (w.gather ++ w.run).any fun e => e.2.1 == core && e.2.2 == h.d) then s.hold core kWin d
  else if w.dead.any (fun e => e.1 == winKey d && !e.2.contains x.stripe) then
    ((s.bump .WIN_STATUS_REFUSED 1 clu).refuse core kWin d).winDead clu d [x.stripe]
  else
    match x.fault d, x.fmtFault with
    | some b, _ => s.winRefuse core d false b
    | none, some b => s.winRefuse core d true b
    | none, none =>
      match s.range (winAgent clu) img x.src (x.inLen ((winIn x.inFmt).getD .fp16)),
          s.range (winAgent clu) img x.dst (x.outLen ((winOut x.outFmt).getD .fp32)), off with
      | .unmapped da, _, _ => (s.unmappedEv (winAgent clu) da).winRefuse core d false (64, x.src)
      | _, .unmapped da, _ => (s.unmappedEv (winAgent clu) da).winRefuse core d false (384, x.dst)
      | .wait, _, _ => s.hold core kWin d
      | _, .wait, _ => s.hold core kWin d
      | .ok, .ok, some e => s.winRefuse core d false (if winKey e.2.2 ≠ winKey d then winDiffers d e.2.2 else (352, x.stripe))
      | .ok, .ok, none =>
        if w.gather.any fun e => e.2.1 == core then s.hold core kWin d
        else (((s.hold core kWin d).setWin clu { w with gather := w.gather ++ [(x.stripe, core, d)] }).winStart clu).syncWin clu

/-! ### Lines -/

/-- The row and tap of line n: ot, oy, kt, kh (R225). -/
def WinD.line (x : WinD) (n : Nat) : Nat × Nat × Nat × Nat :=
  (n / (x.kh * x.kt * x.oh), n / (x.kh * x.kt) % x.oh, n / x.kh % x.kt, n % x.kh)

def WinD.lines (x : WinD) : Nat := x.ot * x.oh * x.kt * x.kh

/-- The input row that a line maps to; none for a line wholly in padding. -/
def WinD.lineRow (x : WinD) (n : Nat) : Option (Nat × Nat) :=
  let (ot, oy, kt, kh) := x.line n
  match x.tapT ot kt, x.tapY oy kh with
  | some t, some y => some (t, y)
  | _, _ => none

/-- Whether a stripe may load line n now (R225). -/
def WinSt.mayLoad (w : WinSt) (k n : Nat) : Bool :=
  decide (n < 32) ||
    (decide (n - 32 < KMap.get w.retired k 0) && (k == 0 || decide (n - 32 < KMap.get w.retired (k - 1) 0)))

/-! ### Computing one output row -/

/-- A filter element (R216). -/
def State.winWgt (s : State) (core : Nat) (x : WinD) (tap c oc : Nat) : Num :=
  Fmt.fp16.decode (leNat (s.rd (coreLoc core (x.wgt + (tap * x.cg + c) * x.wPitch + 2 * oc)) 2))

/-- The taps in order (R221). -/
def WinD.taps (x : WinD) : List (Nat × Nat × Nat) :=
  (List.range x.kt).flatMap fun kt => (List.range x.kh).flatMap fun kh => (List.range x.kw).map fun kw => (kt, kh, kw)

/-- The stored position of a tap of output (ot, oy, ox), if it is not padding. -/
def WinD.tapPos (x : WinD) (ot oy ox : Nat) (k : Nat × Nat × Nat) : Option (Nat × Nat × Nat) :=
  match x.tapT ot k.1, x.tapY oy k.2.1, x.tapX ox k.2.2 with
  | some t, some y, some xx => some (t, y, xx)
  | _, _, _ => none

/-- A stored input element of line n as stripe k reads it: from its own slot, or its right neighbour's (R214, R216, R224). -/
def WinSt.slotElem (w : WinSt) (x : WinD) (f : Fmt) (k n xx c : Nat) : Num :=
  let j := if x.own (k + 1) ≤ xx then k + 1 else k
  let b := c * f.width
  f.decode (leNat (slice (KMap.get w.slots (j, n % 32) []) ((xx - x.own j) * pitch x.c f + b / 8) 4) / 2 ^ (b % 8) % 2 ^ f.width)

/-- What a tap of line n reads: a stored element, or the padding value; none where a zero-padded tap forms no product (R216, R220). -/
def WinSt.tapElem (w : WinSt) (x : WinD) (f : Fmt) (n ox kw c : Nat) : Option Num :=
  let (ot, oy, kt, kh) := x.line n
  match x.tapPos ot oy ox (kt, kh, kw) with
  | some (_, _, xx) => some (w.slotElem x f x.stripe n xx c)
  | none => if x.pad = 1 then some (Fmt.fp16.decode x.const) else none

/-- The groups of one output element that read line n are added (R118, R120, R221, R223). -/
def State.lineElem (s : State) (core : Nat) (w : WinSt) (x : WinD) (f : Fmt) (n ox oc : Nat) (p : WinPart) : WinPart :=
  let (_, _, kt, kh) := x.line n
  if x.pool = 0 then
    ((List.range x.kw).flatMap fun kw => (List.range (ceilDiv x.c 32)).map fun g => (kw, g)).foldl (fun p e =>
      let (kw, g) := e
      let i := (kt * x.kh + kh) * x.kw + kw
      let ps := (List.range (min 32 (x.c - 32 * g))).filterMap fun q =>
        (w.tapElem x f n ox kw (32 * g + q)).map fun v => v.mul (s.winWgt core x i (32 * g + q) oc)
      let (t, st) := groupSum ps
      let (c, tie) := accAdd p.code t st
      { p with code := c, sticky := if st then (i * ceilDiv x.c 32 + g) :: p.sticky else p.sticky, ties := p.ties + tie }) p
  else
    (List.range x.kw).foldl (fun p kw =>
      let v := w.tapElem x f n ox kw oc
      if x.pool = 1 then
        { p with best := match p.best, v with | some a, some b => some (a.max b) | none, b => b | a, none => a }
      else { p with code := (accAdd p.code (v.getD (.fin (Ex.zero false))) false).1 }) p

/-- The value of an output element once its last group is added (R222, R223). -/
def WinD.outVal (x : WinD) (p : WinPart) : Num :=
  if x.pool = 1 then p.best.getD (.inf true)
  else if x.pool = 0 then accVal p.code
  else (accVal p.code).mul (rne32 ((Num.fin (Ex.ofNat 1)).div (.fin (Ex.ofNat (x.kt * x.kh * x.kw)))))

/-- The sums of a stripe's row as they stand, by output column and channel. -/
def WinSt.parts (w : WinSt) (x : WinD) : List WinPart :=
  match KMap.get w.part x.stripe [] with
  | [] => List.replicate ((x.oxs x.stripe).length * x.oc) ⟨0, [], 0, none⟩
  | l => l

/-- Line n is added to the row of a stripe. -/
def State.lineAdd (s : State) (clu core : Nat) (x : WinD) (n : Nat) : State :=
  let w := s.winSt clu
  let f := (winIn x.inFmt).getD .fp16
  let l := (w.parts x).zipIdx.map fun (p, i) => s.lineElem core w x f n (x.oxLo x.stripe + i / x.oc) (i % x.oc) p
  s.setWin clu { w with part := KMap.set w.part x.stripe l }

/-- Tiles of an output row of a stripe: runs of 64 positions by runs of 64 output channels (R221). -/
def WinD.rowTiles (x : WinD) (k : Nat) : List (List Nat × List Nat) :=
  (chunks 64 (x.oxs k)).flatMap fun p => (chunks 64 (List.range x.oc)).map fun c => (p, c)

/-- What one tile of a convolution leaves: its tile of accumulator memory and the counters (R215, R220, R136). -/
def State.convTile (s : State) (core : Nat) (x : WinD) (ot oy tile : Nat) (l : List WinPart) (p c : List Nat) : State :=
  let skip := if x.pad = 0 then (x.taps.filter fun k => p.all fun ox => (x.tapPos ot oy ox k).isNone).length else 0
  let cells := p.zipIdx.flatMap fun (ox, i) => c.zipIdx.map fun (oc, j) =>
    (i, j, l.getD ((ox - x.oxLo x.stripe) * x.oc + oc) ⟨0, [], 0, none⟩)
  let s := cells.foldl (fun acc e => acc.setAcc core tile e.1 e.2.1 e.2.2.code) s
  let sticky := (cells.flatMap fun e => e.2.2.sticky).eraseDups.length
  let ties := (cells.map fun e => e.2.2.ties).foldl (· + ·) 0
  let s := (s.bump .WIN_PADSKIP_COUNT skip (coreClu core)).bump .MXE_GROUPS_COUNT
    ((x.taps.length - skip) * ceilDiv x.c 32) core
  ((s.bumpSat .MXE_STICKY_GROUPS sticky core).bumpSat .MXE_STICKY_TIES ties core).setBit .TDY_STATUS_TILE_LIVE tile false core

/-- The bytes of a stripe's part of an output row (R216). -/
def WinD.rowSpan (x : WinD) (ot oy : Nat) : Nat × Nat :=
  let p := pitch x.oc ((winOut x.outFmt).getD .fp32)
  (x.dst + ((ot * x.oh + oy) * x.ow + x.oxLo x.stripe) * p, (x.oxs x.stripe).length * p)

/-- The outputs of one row of a stripe, converted and written (R216, R222, R223), under the key and step of the convolution's start. The tiles of
a row go on together (DESIGN CHOICE, log entry 58). -/
def State.winRow (s : State) (core : Nat) (d : Desc) (ot oy : Nat) : State :=
  let clu := coreClu core
  let x := winOf d
  let a := winAgent clu
  let h := s.heldFor core kWin d
  let img := s.bankFor (unitDie (coreDie core)) h.beat
  let pol := (s.bankFor (unitClu clu) h.beat).sec 6
  let fo := (winOut x.outFmt).getD .fp32
  let w := s.winSt clu
  let ks := KMap.get w.sr x.stripe (0, 0)
  let sr : SrIn := ⟨ks.1, ks.2, x.tid, x.idx⟩
  let l := w.parts x
  let tiles := if x.pool = 0 then x.rowTiles x.stripe else []
  let t0 := KMap.get w.tiles x.stripe 0
  let s1 := (tiles.zipIdx.foldl (fun acc e => acc.convTile core x ot oy (x.tile + (t0 + e.2) % 2) l e.1.1 e.1.2) s)
  let s1 := s1.setWin clu { w with
    tiles := KMap.set w.tiles x.stripe (t0 + tiles.length), lastRow := ot * x.oh + oy, part := KMap.erase w.part x.stripe }
  (x.oxs x.stripe).foldl (fun acc ox =>
    let vals := (List.range x.oc).map fun oc => x.outVal (l.getD ((ox - x.oxLo x.stripe) * x.oc + oc) ⟨0, [], 0, none⟩)
    let base := x.idx + ((ot * x.oh + oy) * x.ow + ox) * x.oc
    let (codes, _, cnt) := convertRow fo 0 x.sat (fun j => roundOf x.round sr (base + j)) vals
    let row := packRow fo codes
    let da := x.dst + ((ot * x.oh + oy) * x.ow + ox) * pitch x.oc fo
    let acc := acc.wrDa a img da (row ++ List.replicate (pitch x.oc fo - row.length) 0)
    acc.tallyAdd (coreDie core) pol x.tid cnt (amaxCode (amaxOf vals))) s1

/-- Whether a stripe may go on with line n: its tiles and its filter are free of what its core issued before it (R122, R126, R133), and at the
end of a row its output may be written (R186, R189). -/
def State.stripeMay (s : State) (core : Nat) (d : Desc) (n : Nat) : Bool :=
  let x := winOf d
  let (ot, oy, kt, kh) := x.line n
  let img := s.bankFor (unitDie (coreDie core)) (s.heldFor core kWin d).beat
  let r := x.rowSpan ot oy
  s.tileFree core kWin d && (x.pool != 0 || s.spansClear core kWin d) &&
    (!(kt + 1 == x.kt && kh + 1 == x.kh) || s.spansFree core kWin d (winAgent (coreClu core)) img [r])

/-- A stripe goes on as far as the lines that it and its right neighbour have loaded allow: it adds the groups that read a line, writes the
output row with the last line of that row, and retires the line (R221, R225). -/
def State.stripeGo (s : State) (clu : Nat) (e : Nat × Nat × Desc) : Nat → State
  | 0 => s
  | n + 1 =>
    let w := s.winSt clu
    let x := winOf e.2.2
    let k := e.1
    let l := KMap.get w.retired k 0
    if x.lines ≤ l ∨ KMap.get w.loaded k 0 ≤ l ∨ !s.stripeMay e.2.1 e.2.2 l then s
    else if x.halo k ∧ (x.lineRow l).isSome ∧ KMap.get w.loaded (k + 1) 0 ≤ l then
      s.setWin clu { w with waiting := insertBlock w.waiting k }
    else
      let (ot, oy, kt, kh) := x.line l
      let s := s.lineAdd clu e.2.1 x l
      let s := if kt + 1 = x.kt ∧ kh + 1 = x.kh then s.winRow e.2.1 e.2.2 ot oy else s
      let w := s.winSt clu
      (s.setWin clu { w with retired := KMap.set w.retired k (l + 1), waiting := w.waiting.filter (· != k) }).stripeGo clu e n

/-- The stripe of a running convolution. -/
def WinSt.stripe (w : WinSt) (k : Nat) : Option (Nat × Nat × Desc) := w.run.find? fun e => e.1 == k

/-- A stripe advances. -/
def State.stripeAdvance (s : State) (clu k : Nat) : State :=
  let w := s.winSt clu
  match w.stripe k with
  | some e => if s.clk.stopped then s else (s.stripeGo clu e ((winOf e.2.2).lines - KMap.get w.retired k 0)).syncWin clu
  | none => s

/-- A stripe loads its columns of the next line (R225): a stripe with no credit waits (R226); a poisoned block ends the
convolution (R228). -/
def State.stripeLoad (s : State) (clu k : Nat) : State :=
  let w := s.winSt clu
  match w.stripe k with
  | none => s
  | some e =>
    let x := winOf e.2.2
    let n := KMap.get w.loaded k 0
    let a := winAgent clu
    let img := s.bankFor (unitDie (clu / 16)) (s.heldFor e.2.1 kWin e.2.2).beat
    let f := (winIn x.inFmt).getD .fp16
    let seg := match x.lineRow n with
      | some (t, y) => [(x.src + ((t * x.h + y) * x.w + x.own k) * pitch x.c f, (x.own (k + 1) - x.own k) * pitch x.c f)]
      | none => []
    if s.clk.stopped ∨ x.lines ≤ n ∨ !s.spansFree e.2.1 kWin e.2.2 a img seg then s
    else if (x.lineRow n).isSome && !w.mayLoad k n then s.setWin clu { w with waiting := insertBlock w.waiting k }
    else
      match seg.findSome? fun p => s.poisonDa a img p.1 p.2 with
      | some p => (s.daUe (srcClu clu 1) a img p).winEndRun clu 2
      | none =>
        let w := { w with
          loaded := KMap.set w.loaded k (n + 1), waiting := w.waiting.filter (· != k)
          slots := seg.foldl (fun m p => KMap.set m (k, n % 32) (s.rdDa a img p.1 p.2)) w.slots }
        (s.setWin clu w).stripeAdvance clu k

/-- A stripe whose last output is written completes (R215); with the last stripe the convolution ends, and a gathered one starts. -/
def State.stripeDone (s : State) (clu k : Nat) : State :=
  let w := s.winSt clu
  match w.stripe k with
  | none => s
  | some e =>
    if KMap.get w.retired k 0 < (winOf e.2.2).lines ∨ bit (s.get .WIN_STATUS_DONE clu) k then s
    else
      let s := (s.setBit .WIN_STATUS_DONE k true clu).complete e.2.1 kWin e.2.2
      if s.get .WIN_STATUS_DONE clu = 2 ^ w.run.length - 1 then
        ((s.setWin clu { WinSt.init with gather := w.gather, dead := w.dead }).winStart clu).syncWin clu
      else s.syncWin clu

/-! ### Commands -/

/-- The row of a POOL code: POOL 3 is refused by each (R227); another row's code belongs to that row. -/
def State.winOp (s : State) (core : Nat) (d : Desc) (pool : Nat) : Res :=
  onUnit (s.coreOk core) <|
    if dbits d 1 44 43 = pool ∨ dbits d 1 44 43 = 3 then .next (s.atUnit core kWin d fun s => s.winArrive core d) else .fault .otherRow

def execWindowConvolution (core : Nat) (d : Desc) (s : State) : Res := s.winOp core d 0
def execWindowMaxPool (core : Nat) (d : Desc) (s : State) : Res := s.winOp core d 1
def execWindowMeanPool (core : Nat) (d : Desc) (s : State) : Res := s.winOp core d 2

/-- STRIPE_LINE_LOAD (R225) (DESIGN CHOICE, log entry 7). -/
def execStripeLineLoad (clu stripe : Nat) (s : State) : Res := onUnit (s.cluOk clu) (.next (s.stripeLoad clu stripe))

/-- STRIPE_HALO_RESUME (R226): a stripe that waited goes on, or goes on waiting. -/
def execStripeHaloResume (clu stripe : Nat) (s : State) : Res := onUnit (s.cluOk clu) (.next (s.stripeAdvance clu stripe))

/-- WINDOW_STRIPE_COMPLETE (R215). -/
def execWindowStripeComplete (clu stripe : Nat) (s : State) : Res := onUnit (s.cluOk clu) (.next (s.stripeDone clu stripe))

/-- WIN_CANCEL (R228). -/
def execWinCancel (clu : Nat) (s : State) : Res := onUnit (s.cluOk clu) (.next (s.winEndGather clu 4))

end Sys2Proof.Machine
end

