-- ==== Sys2Proof/Machine/Str.lean ====
section
/-! DEFINITION. Structure images (chapter 03): prepare and its checks (R37 to R39, R519), arming (R41), the commit with its cutoff, aborts
and switch (R42 to R50), and what the switch does in every unit. -/
namespace Sys2Proof.Machine

def State.mapStr (s : State) (f : StrSt → StrSt) : State := { s with str := f s.str }

/-! ### RWL registers (R4, R5, R39) -/

/-- The RWL fields. -/
def rwlFields : List Field :=
  [.BEAT_CFG_PERIOD, .BEAT_CFG_MGT_PORT, .BEAT_CFG_SRC, .BEAT_ORIGIN_WALL, .FAB_TCBUF_TC3, .FAB_TCBUF_TC2, .FAB_TCBUF_TC1,
    .ESC_CFG_ENABLE, .ESC_CFG_GROUP, .ESC_CFG_SOURCE, .ESC_CFG_INTERVAL, .ESC_HOME_BASE, .ESC_BANK_BASE, .ESC_HOME_LEN_LEN,
    .ESC_BANK_LEN_LEN]

def State.rwlNow (s : State) : KMap FKey Nat := rwlFields.map fun f => (⟨f, 0, 0⟩, s.get f)

/-- The values that STR_PREPARE.GO found are put back (R5, R39); before the first commit the beat source follows (DEDUCED, log entry 17). -/
def State.rwlBack (s : State) : State :=
  if s.str.rwlSaved = [] then s
  else
    let t := s.str.rwlSaved.foldl (fun s e => s.set e.1.f e.2 e.1.u e.1.i) s |>.mapStr fun x => { x with rwlSaved := [] }
    if !s.str.committedOnce ∧ t.beatSource ≠ s.beatSource then t.beatRole else t

/-! ### Pending banks -/

/-- The sections of the pending image, from the pending banks of all units. -/
def State.pendSecs (s : State) : Secs :=
  s.str.pendingBank.foldl (fun m e => e.2.secs.foldl (fun m x => KMap.set m x.1 x.2) m) []

/-- The commit group of the pending image, or of the active one where none is pending. -/
def State.strGroup (s : State) : Nat × List Nat :=
  let m := if s.get .STR_EPOCH_PENDING = 0 then s.peerMap else s.pendSecs.sec 9
  (pmOwn m, (pmCommit m).filter (· != pmOwn m))

/-- GROUP_READY (R52): COMMIT_READY is held from every other member; in COMMITTING with the same B and epoch (DEDUCED, log entry 19). -/
def State.syncGroup (s : State) : State :=
  let others := s.strGroup.2
  let ok (d : Nat) := s.str.ready.any fun r => r.1 == d && (s.get .STR_STATUS_STATE != 3 ||
    (r.2.1 == s.str.commitB && r.2.2 == s.get .STR_EPOCH_PENDING))
  s.set .STR_STATUS_GROUP_READY (b2n (!others.isEmpty && others.all ok))

/-- Every pending bank is cleared (R39, R46). -/
def State.pendClear (s : State) : State :=
  let s := s.mapStr fun x => { x with pendingBank := [] }
  ((((s.set .STR_ARMED_UNITS 0 0 0).set .STR_ARMED_UNITS 0 0 1).set .STR_STATUS_MISSING 0).set .STR_EPOCH_PENDING 0).syncGroup

/-- The state returns to IDLE with a LAST value (R496 gives the interrupt). -/
def State.strIdle (s : State) (last : Nat) : State := ((s.set .STR_STATUS_STATE 0).set .STR_STATUS_LAST last).irq 3

/-! ### Refusal (R37, R39, R519) -/

/-- A prepare is refused: code, unit, section and offset (DEDUCED, log entry 17). -/
def State.strRefuse (s : State) (epoch code unit sec off : Nat) : State :=
  let s := s.pendClear.rwlBack.set .STR_STATUS_REFUSE code
  let s := ((s.set .STR_REFUSE_INFO_UNIT unit).set .STR_REFUSE_INFO_SECTION sec).set .STR_REFUSE_INFO_OFFSET off
  (s.strIdle 4).log' s.strSrc 0x7001 1 [(4, epoch), (1, code), (1, unit), (2, sec), (4, off)]

/-! ### Checks 1 to 11 (R37) -/

def isNote (t : Nat) : Bool := within 0x100 t 0x1ff

/-- A key slot that check 5 accepts (R454): enrolled, with a key that matches its fused digest, and not revoked. -/
def State.ownerKey (s : State) (slot : Nat) : Option (List Byte) :=
  let k := KMap.get s.sec.ownKey slot []
  if slot < 4 ∧ bit (s.get .SEC_FUSE_OWN_ENR) slot ∧ !bit (s.get .SEC_FUSE_OWN_REV) slot ∧ sha3 k = KMap.get s.sec.ownDig slot [] then some k
  else none

/-- The first non-zero byte of some ranges. -/
def firstNonZero (b : List Byte) (rs : List (Nat × Nat)) : Option Nat :=
  (rs.flatMap fun r => (List.range r.2).map (· + r.1)).find? fun o => field b o 1 != 0

/-- The section-table entries of an image. -/
def imgEnts (b : List Byte) : List SecEnt := (List.range (field b 0x10 2)).map fun i => secEntAt b (0x40 + 32 * i)

/-- Check 8 of entry i (R32, R33): the offset of the first failing field (DEDUCED, log entry 18). -/
def entFault (b : List Byte) (es : List SecEnt) (i : Nat) (e : SecEnt) : Option Nat :=
  let o := 0x40 + 32 * i
  let lo := roundUp (0x40 + 32 * es.length) 64
  let hi := field b 0x14 4 - 2420
  firstOff [(e.sver == 1 || isNote e.typ, o + 2), (zeroAt b (o + 4) 4, o + 4),
    (e.off % 64 == 0 && decide (lo ≤ e.off) && decide (e.off < hi) && (es.take i).all (fun f => !meets f.off f.len e.off e.len), o + 8),
    (e.len != 0 && decide (e.off + e.len ≤ hi), o + 12), (zeroAt b (o + 16) 16, o + 16)]

/-- What fails of checks 1 to 11 in an image that lies at the load address: code, section and offset. len is STR_LOAD_LEN; b holds the
header at least (DEDUCED, log entry 18). -/
def State.strCheck (s : State) (b : List Byte) (len : Nat) : Option (Nat × Nat × Nat) :=
  let imgLen := field b 0x14 4
  let n := field b 0x10 2
  let dg := sha3 (b.take (imgLen - 2420))
  let act := (List.range 4).flatMap fun i => leBytes 8 (s.get .STR_ACTIVE_DIGEST_DIGEST 0 i)
  let es := imgEnts b
  if b.take 4 ≠ [0x46, 0x4e, 0x53, 0x4f] then some (1, 0, 0)
  else if field b 4 2 ≠ 1 then some (2, 0, 4)
  else if field b 6 2 ≠ 0x40 then some (2, 0, 6)
  else
    match firstNonZero b [(0x12, 2), (0x1c, 4), (0x30, 16)] with
    | some o => some (2, 0, o)
    | none =>
      if imgLen ≠ len ∨ 67108864 < imgLen ∨ imgLen < 0x40 + 32 * n + 2420 then some (4, 0, 0x14)
      else if field b 0xc 2 ≠ s.ident.part then some (3, 0, 0xc)
      else if field b 0xe 1 ≠ 0xff ∧ field b 0xe 1 ≠ s.ident.stepping then some (3, 0, 0xe)
      else
        match s.ownerKey (field b 0xf 1) with
        | none => some (5, 0, 0xf)
        | some pk =>
          if !Config.mldsaVerify pk dg [] (slice b (imgLen - 2420) 2420) then some (6, 0, imgLen - 2420)
          else if field b 8 4 < s.get .STR_EPOCH_ACTIVE ∨ (field b 8 4 = s.get .STR_EPOCH_ACTIVE ∧ dg ≠ act) then some (7, 0, 8)
          else if !within 11 n 64 then some (8, 0, 0x10)
          else
            match es.zipIdx.findSome? fun e => (entFault b es e.2 e.1).map fun o => (8, e.1.typ, o) with
            | some x => some x
            | none =>
              match es.zipIdx.find? fun e => (es.take e.2).any fun f => f.typ == e.1.typ with
              | some e => some (0xa, e.1.typ, 0x40 + 32 * e.2)
              | none =>
                match es.zipIdx.find? fun e => !within 1 e.1.typ 12 && !isNote e.1.typ with
                | some e => some (0xb, e.1.typ, 0x40 + 32 * e.2)
                | none => ((List.range 11).find? fun t => !es.any fun e => e.typ == t + 1).map fun t => (9, t + 1, 0x40)

/-! ### Prepare (R37, R50) -/

/-- The bytes of the image at the load address: the header, and the rest where the length allows an image; none where they cannot be
read (DEDUCED, log entry 18). -/
def State.strRead (s : State) (da len : Nat) : Option (List Byte) :=
  let img := s.carveBank .steward
  let n := if len ≤ 67108864 then max 64 len else 64
  match s.range .steward img da n with
  | .ok => if (s.poisonDa .steward img da n).isSome then none else some (s.rdDa .steward img da n)
  | _ => none

/-- The section set of an image that has passed checks 1 to 11; notes are never loaded (R34). -/
def imgSecs (b : List Byte) : Secs :=
  ((imgEnts b).filter fun e => !isNote e.typ).map fun e => (e.typ, slice b e.off e.len)

/-- The sections of a set that a unit loads, with the start-up variant. -/
def State.unitPart (s : State) (m : Secs) (u : Nat) : Secs :=
  m.filter fun e => (s.ident.unitSecs u).contains e.1 || e.1 == 12

/-- A prepare: checks 1 to 11, and the sections go to the pending banks of the arm set (DEDUCED, log entry 17). -/
def State.strPrepare (s : State) : State :=
  let st := s.get .STR_STATUS_STATE
  if st = 1 ∨ st = 3 ∨ st = 4 then s.set .STR_STATUS_REFUSE 0x10
  else
    let s := (s.pendClear.set .STR_STATUS_STATE 1).mapStr fun x => { x with
      prepOpen := true, rwlSaved := s.rwlNow, readySent := false, abortSince := false }
    let da := s.get .STR_LOAD_ADDR_ADDR * 4096
    let len := s.get .STR_LOAD_LEN_LEN
    match s.strRead da len with
    | none => s.strRefuse 0 4 0xff 0 0x14
    | some b =>
      match s.strCheck b len with
      | some (code, sec, off) => s.strRefuse (field b 8 4) code 0xff sec off
      | none =>
        let m := imgSecs b
        let img (u : Nat) : Image := ⟨field b 8 4, 0, slice b 0x20 16, s.unitPart m u⟩
        let s := s.mapStr fun x => { x with
          pendingBank := s.armSet.map fun u => (u, img u)
          pendDigest := sha3 (b.take (field b 0x14 4 - 2420)), secOff := (imgEnts b).map fun e => (e.typ, e.off), pendAddr := da
          pendLen := len }
        (s.set .STR_EPOCH_PENDING (field b 8 4)).syncMissing.syncGroup

/-- STR_PREPARE_GO (R37, R50, R445). -/
def execStrPrepareGo (by_ : Agent) (s : State) : Res := .next (s.whenReady by_ 0x7f000100010 fun s => s.strPrepare)

/-! ### Arming (R41) -/

/-- The die of an image unit (R13, R28). -/
def unitDieIdx (u : Nat) : Nat :=
  match unitKind u with | .clu d _ => d | .die d => d | .ledger n => 24 + n | .hub h => 32 + h

/-- A unit makes its own checks and arms; a failure refuses the prepare, and the lowest-numbered unit that fails is reported (R37) (DEDUCED, log entry 18). -/
def State.unitArm (s : State) (u : Nat) : State :=
  if s.get .STR_STATUS_STATE ≠ 1 ∨ !s.armSet.contains u ∨ s.armed u ∨ !KMap.has s.str.pendingBank u ∨ s.rst.inReset.contains (unitDieIdx u) then s
  else
    let m := s.pendSecs
    match unitCheck s.ident m u with
    | none => (s.setArmed u true).syncMissing
    | some _ =>
      match s.armSet.findSome? fun v => (unitCheck s.ident m v).map fun x => (v, x) with
      | some (v, code, sec, off) =>
        s.strRefuse (s.get .STR_EPOCH_PENDING) code v sec (KMap.get s.str.secOff sec 0 + off)
      | none => s

/-- UNIT_ARM (R41). -/
def execUnitArm (u : Nat) (s : State) : Res := onUnit (s.ident.unitOk u) (.next (s.unitArm u))

/-! ### Abort (R43, R46, R47) -/

/-- The commit aborts: no unit switches, the banks stay loaded and armed, or are cleared where ABANDON asked for it (R46). Where they are
cleared, STATE becomes IDLE, and LAST reads ABORTED (DESIGN CHOICE, log entry 58). -/
def State.strAbort (s : State) (who : Nat) : State :=
  let e := s.get .STR_EPOCH_PENDING
  let b := s.str.commitB
  let gone := s.str.abandonReq
  let s := (s.mapStr fun x => { x with
    aborted := false, abandonReq := false, readySent := false, abortSince := true }).set .STR_STATUS_LAST 3
  let s := (if gone then s.pendClear.rwlBack.set .STR_STATUS_STATE 0 else s.set .STR_STATUS_STATE 2).irq 3
  (s.log' s.strSrc 0x7004 1 [(4, e), (8, b), (2, who)]).syncGroup

/-- STR_PREPARE.ABANDON (R46). In IDLE, LOADING and DRAINING it does nothing (DESIGN CHOICE, log entry 58) (DEDUCED, log entry 17). -/
def State.strAbandon (s : State) : State :=
  let st := s.get .STR_STATUS_STATE
  let ev (s : State) : State := s.log' s.strSrc 0x7006 0 [(4, s.get .STR_EPOCH_PENDING), (1, st)]
  if st = 2 then (ev s).pendClear.rwlBack.strIdle 5
  else if st = 3 then
    let s := ev s
    if s.str.cutDone ∨ s.str.commitB ≤ s.now + s.str.commitLead then s else s.mapStr fun x => { x with abandonReq := true }
  else s

/-- STR_ABANDON (R46, R445). -/
def execStrAbandon (by_ : Agent) (s : State) : Res := .next (s.whenReady by_ 0x7f000100010 fun s => s.strAbandon)

/-! ### Commit (R42, R48) -/

/-- A fabric message goes to the other members of the pending commit group. -/
def State.strTell (s : State) (m : Msg) : State := s.tc0All s.strGroup.2 m

/-- COMMIT_READY goes out once the commit is accepted and the arm set is complete (R47) (DEDUCED, log entry 19). -/
def State.sendReady (s : State) : State :=
  if s.get .STR_STATUS_STATE = 3 ∧ s.str.commitScope = 1 ∧ !s.str.readySent ∧ s.unarmed = [] then
    (s.strTell (.commitReady s.strGroup.1 s.str.commitB (s.get .STR_EPOCH_PENDING))).mapStr fun x => { x with readySent := true }
  else s

/-- Whether an area lies wholly in regions of kind 4, which may follow one another. -/
def inEscrow (rs : List Region) (da n : Nat) : Bool :=
  coversRange ((rs.filter fun r => r.kind == 4).map fun r => (r.base, r.len)) da n

/-- The escrow configuration under a set of sections (R362). -/
def State.escConfigOk (s : State) (m : Secs) : Bool :=
  let rs := regionsOf (m.sec 4)
  let home := s.get .ESC_HOME_BASE * 4096
  let bank := s.get .ESC_BANK_BASE * 4096
  let hl := s.get .ESC_HOME_LEN_LEN
  let bl := 2 * s.get .ESC_BANK_LEN_LEN
  let imgs := imagesLen ((manifest (m.sec 7)).map (·.2))
  let pm := m.sec 9
  inEscrow rs home hl && inEscrow rs bank bl && !meets home hl bank bl && decide (0x300000 + imgs ≤ hl) &&
    within 1 (s.get .ESC_CFG_INTERVAL) 256 &&
    (match pmPartner pm with
      | some p => (((pmGroup pm (s.get .ESC_CFG_GROUP)).map (·.members)).getD []).contains p
      | none => false) &&
    (pmPeers pm).any (fun p => p.dev == s.get .ESC_CFG_SOURCE)

/-- Whether every RWL register holds a value that its definition admits (R42). -/
def State.rwlOk (s : State) (m : Secs) : Bool :=
  within 256 (s.get .BEAT_CFG_PERIOD) 65536 && decide (s.get .BEAT_CFG_SRC ≤ 3) &&
    decide (s.get .FAB_TCBUF_TC1 + s.get .FAB_TCBUF_TC2 + s.get .FAB_TCBUF_TC3 ≤ 31) &&
    (s.get .ESC_CFG_ENABLE == 0 || s.escConfigOk m) && tplPeriodOk (m.sec 10) (s.get .BEAT_CFG_PERIOD)

/-- The code of the first check of R42 that fails, for LEAD, SCOPE and VARIANT. -/
def State.commitFault (s : State) (lead scope variant : Nat) : Option Nat :=
  let m := s.pendSecs
  if s.get .STR_STATUS_STATE ≠ 2 then some 0x10
  else if s.get .STR_COMMIT_BEAT_BEAT < s.now + max 64 (lead + 48) then some 0x11
  else if scope = 1 ∧ (lead < 16 ∨ lead * s.period < pmBound (m.sec 9) + 600) then some 0x12
  else if 2 ≤ variant ∨ (variant = 1 ∧ !KMap.has m 12) then some 0x13
  else if !s.rwlOk (m.variant variant) then some 0x14
  else none

/-- A write of STR_COMMIT with GO = 1. -/
def State.strCommit (s : State) (val : Word) : State :=
  let scope := bits val.toNat 1 1
  let lead := if scope = 1 then bits val.toNat 23 16 else 16
  let variant := bits val.toNat 9 8
  match s.commitFault lead scope variant with
  | some c => s.set .STR_STATUS_REFUSE c
  | none =>
    let s := s.mapStr fun x => { x with
      commitB := s.get .STR_COMMIT_BEAT_BEAT, commitLead := lead, commitScope := scope, commitVariant := variant
      aborted := false, abandonReq := false, cutDone := false, readySent := false, abortSince := false }
    (s.set .STR_STATUS_STATE 3).sendReady.syncGroup

/-- STR_COMMIT_GO (R42, R47, R48). -/
def execStrCommitGo (val : Word) (s : State) : Res := .next (if bit val.toNat 0 then s.strCommit val else s)

/-- COMMIT_READY_RECEIVE (R47, R326): held until its beat B, whoever sent it; the members of the commit group are looked at where it counts (DEDUCED, log entry 19). -/
def execCommitReadyReceive (dev b epoch lat : Nat) (s : State) : Res :=
  let s := s.tc0In dev 4 lat
  .next
    (if s.now < b then
      (s.mapStr fun x => { x with ready := (dev, b, epoch) :: x.ready.filter fun r => !(r.1 == dev && r.2.1 == b) }).syncGroup
    else s)

/-! ### Cutoff (R43, R47) -/

/-- Who is missing at the cutoff: a unit, or a member of the commit group; 0xFFFF for an abort that neither causes. Stopped engines abort too
(DESIGN CHOICE, log entry 58). -/
def State.cutFault (s : State) : Option Nat :=
  if s.str.abandonReq ∨ s.clk.stopped then some 0xffff
  else
    match s.unarmed with
    | u :: _ => some u
    | [] =>
      if s.str.commitScope = 1 then
        s.strGroup.2.find? fun d => !s.str.ready.contains (d, s.str.commitB, s.get .STR_EPOCH_PENDING)
      else none

/-- The cutoff at beat B - LEAD: the arm set is sampled; in job scope an abort goes to every member too. -/
def State.strCutoff (s : State) : State :=
  if s.get .STR_STATUS_STATE ≠ 3 ∨ s.str.cutDone ∨ s.now + s.str.commitLead < s.str.commitB then s
  else
    let s := s.mapStr fun x => { x with cutDone := true }
    match s.cutFault with
    | none => s
    | some who =>
      let s := if s.str.commitScope = 1 then s.strTell (.jobAbort s.strGroup.1 s.str.commitB) else s
      s.strAbort who

/-- An abort that the loss of the beat source has decided is made at once: the worked example of R65 aborts on the beat of the loss. -/
def State.abortDue (s : State) : State :=
  if s.get .STR_STATUS_STATE = 3 ∧ s.str.aborted ∧ !s.str.cutDone then
    (if s.str.commitScope = 1 then s.strTell (.jobAbort s.strGroup.1 s.str.commitB) else s).strAbort 0xffff
  else s

/-- BEAT_SOURCE_LOST (R64, R50) (DEDUCED, log entry 15). -/
def execBeatSourceLost (s : State) : Res := .next s.sourceLost.abortDue

/-- COMMIT_CUTOFF (R43) (DESIGN CHOICE, log entry 7). -/
def execCommitCutoff (s : State) : Res := .next s.strCutoff

/-- JOB_ABORT_RECEIVE (R47, R326): the abort of another member for the same B; its COMMIT_READY is discarded. -/
def execJobAbortReceive (dev b lat : Nat) (s : State) : Res :=
  let s := (s.tc0In dev 5 lat).mapStr fun x => { x with ready := x.ready.filter fun r => !(r.1 == dev && r.2.1 == b) }
  .next
    ((if s.get .STR_STATUS_STATE = 3 ∧ s.str.commitScope = 1 ∧ s.str.commitB = b ∧ s.now < b then s.strAbort dev else s).syncGroup)

/-! ### What a TC0 freeze does to a commit (R50) -/

/-- At F every armed unit with B > F disarms, and the arbiter records an abort, which goes to the members of a job-scope commit too (R47)
(DEDUCED, log entry 19; DEDUCED, log entry 39). -/
def State.strFreeze (s : State) (F : Nat) : State :=
  if s.get .STR_STATUS_STATE = 3 ∧ F < s.str.commitB then
    let s := if s.str.commitScope = 1 then s.strTell (.jobAbort s.strGroup.1 s.str.commitB) else s
    (((s.set .STR_ARMED_UNITS 0 0 0).set .STR_ARMED_UNITS 0 0 1).strAbort 0xffff).syncMissing
  else s

/-! ### Draining (R44) -/

/-- All old banks are released: the commit is complete (DEDUCED, log entry 20). -/
def State.strDone (s : State) : State :=
  if s.get .STR_STATUS_STATE = 4 ∧ s.str.oldBank = [] then
    let fenced := s.get .STR_FENCED_UNITS 0 0 != 0 || s.get .STR_FENCED_UNITS 0 1 != 0
    let img := s.bank (unitHub (s.inCharge))
    (s.strIdle (if fenced then 2 else 1)).log' s.strSrc 0x7003 0
      [(4, s.get .STR_EPOCH_ACTIVE), (1, s.str.commitVariant), (8, s.str.commitB), (16, leNat img.tag)]
  else s

/-- A unit releases its old bank; a ledger die then looks at its stook (R209) (DEDUCED, log entry 20). -/
def State.unitDrain (s : State) (u : Nat) : State :=
  if s.get .STR_STATUS_STATE = 4 ∧ KMap.has s.str.oldBank u ∧ !s.outstanding u then
    let s := s.mapStr fun x => { x with oldBank := KMap.erase x.oldBank u }
    (match unitKind u with | .ledger n => s.stookCommit n | _ => s).strDone
  else s

/-- STR_DRAIN_COMPLETE (R44) (DESIGN CHOICE, log entry 7). -/
def execStrDrainComplete (u : Nat) (s : State) : Res := onUnit (s.ident.unitOk u) (.next (s.unitDrain u))

/-! ### Queues at a commit (R308) -/

/-- An operation that waits on a queue which is cut off completes: a FLUSH with STATE, a DISABLE with OK (R308). -/
def State.qForced (s : State) (q : Nat) (v : QD) : State :=
  match s.que.waiting with
  | some (op, q', _) =>
    if q' = q then ({ s with que := { s.que with waiting := none } } : State).qDone (if op = 3 then 5 else 0) (qOcc v) else s
  | none => s

/-- A commit disables a queue at once, as with FORCE; an operation of that queue that waits completes. -/
def State.qForce (s : State) (q : Nat) : State :=
  match s.qFind q with
  | .desc v =>
    let x := s.qEndPacket q v
    (x.1.qOff q (putBit x.2 61 false)).qForced q x.2
  | _ => s.qSetOn q false

/-- A changed kind-6 region entry: every queue is disabled, under the old table. -/
def State.qRegionChange (s : State) : State :=
  let any := !s.que.on.isEmpty
  let s := s.que.on.foldl (fun s q => s.qForce q) s
  let s := { s with que := { s.que with on := [], cache := [], dueOff := [], waiting := none } }
  if any then s.qDisabledEv (srcHub s.inCharge 5) 0xfffff 1 else s

/-- An unchanged one: queues whose ring is no longer mapped are disabled at once, and those whose range changes class or domain at their
next packet boundary. -/
def State.qKeepTable (s : State) (old : List QRange) : State :=
  s.que.on.foldl (fun s q =>
    match s.qFind q with
    | .desc v =>
      if !s.ringOk v then ((s.qForce q).qDisabledEv (s.qSrc v) q 2)
      else
        let was := old.find? fun r => decide (r.lo ≤ q) && decide (q ≤ r.hi)
        if (s.qRange q).map (fun r => (r.cls, r.domain)) = was.map (fun r => (r.cls, r.domain)) then s
        else ({ s with que := { s.que with dueOff := KMap.set s.que.dueOff q 0 } } : State).qBoundary q
    | _ => s) s

/-- The kind-6 entry of a carve, byte for byte. -/
def tableEntry (img : Image) : List Byte :=
  match (regionsOf (img.sec 4)).zipIdx.find? fun e => e.1.kind == 6 with
  | some (_, i) => slice (img.sec 4) (16 + 32 * i) 32
  | none => []

/-! ### The switch (R44, R45, R49) -/

/-- M3 is extended at a commit (R463). -/
def State.extendM3 (s : State) (epoch variant : Nat) : State :=
  let d := sha3 (s.str.pendDigest ++ leBytes 4 epoch ++ leBytes 1 variant)
  let ext (s : State) (h : Nat) : State :=
    let m := KMap.get s.sec.meas (3, h) (List.replicate 32 0)
    { s with sec := { s.sec with meas := KMap.set s.sec.meas (3, h) (sha3 (m ++ d)) } }
  if s.ident.member = .a8 then ext (ext s 0) 1 else ext s 0

/-- Banks at B: every unit of a list takes its pending bank; those with descriptors in execution keep the old one until they drain. -/
def State.strBanks (s : State) (good : List Nat) (variant : Nat) : State :=
  let new (u : Nat) : Image :=
    let p := KMap.get s.str.pendingBank u Image.empty
    ⟨p.epoch, variant, p.tag, (Secs.variant p.secs variant).filter fun e => (s.ident.unitSecs u).contains e.1⟩
  let olds := (good.filter s.outstanding).map fun u => (u, s.bank u)
  s.mapStr fun x => { x with
    active := good.foldl (fun m u => KMap.set m u (new u)) x.active
    oldBank := olds, pendingBank := [], parity := 1 - x.parity % 2, committedOnce := true, prepOpen := false
    rwlEff := s.rwlNow, rwlSaved := [], lastAddr := x.pendAddr, lastLen := x.pendLen, prevCarve := s.bank (unitLedger 0) }

/-- A unit that does not switch is fenced (R49), until a reset of its die (DESIGN CHOICE, log entry 58). -/
def State.strFence (s : State) (epoch u : Nat) : State :=
  let s := (s.mapStr fun x => { x with fenced := u :: x.fenced.filter (· != u) }).setBit .STR_FENCED_UNITS (u % 64) true 0 (u / 64)
  let s := s.log' s.strSrc 0x7005 2 [(4, epoch), (8, s.str.commitB), (1, u)]
  match unitKind u with
  | .clu d c => s.clusterLost (16 * d + c)
  | _ => s.failDevice

/-- The power policy's defaults (R431). -/
def State.powerCommit (s : State) : State :=
  let p := s.powerPolicy
  if p = [] then s
  else ((s.set .PWR_LAT_TOL_NS (field p 0 8)).set .PWR_LIVE_TOL_NS (field p 8 4)).set .PWR_CAP_WATTS (field p 12 2)

/-- FAB_ID at a commit (R337), and the queue table flag (R309). -/
def State.idCommit (s : State) : State :=
  ((s.set .FAB_ID_DEVICE s.ownId).set .FAB_ID_NPEER s.peers.length).set .QUE_STATUS_TABLE (b2n s.qTable.isSome)

/-- What units do at B once their banks have switched. A step that is open keeps no instance of the old template (DESIGN CHOICE, log entry 58). -/
def State.strHooks (s : State) (old : State) : State :=
  let carveOld := old.bank (unitLedger 0)
  let carveNew := s.bank (unitLedger 0)
  let s := s.mapBeat fun b => { b with tplBeat := s.str.commitB }
  let s : State := { s with cores := s.cores.map fun e => (e.1, { e.2 with stepInst := none, stepLate := false }) }
  let s := (List.range s.ident.dies).foldl (fun s d => if s.unitFenced (unitDie d) then s else s.applyMap d) s
  let s := s.beatCommit (old.peers.map fun p => p.dev) old.timeCands old.beatSource
  let s := if s.ownPeriod then s.setPeriod (s.eff .BEAT_CFG_PERIOD) else s
  let s := s.idCommit
  let s := if tableEntry carveOld = tableEntry carveNew then s.qKeepTable (qRanges ((old.bank old.fabUnit).sec 5)) else s
  let s := s.powerCommit.steerSeed (carveNew.sec 6) (s.str.commitVariant == 1)
  let s := s.recheckPorts
  let s := (List.range s.ident.dies).foldl (fun s ld => (s.stookSwitch ld).stookCommit ld) s
  let s := (s.kvSwitch.vceCommit carveOld carveNew).escCommit
  ((List.range s.ident.dies).flatMap fun d => (List.range 13).map fun c => 16 * d + c).foldl (fun s clu => s.winEndGather clu 3) s

/-- The switch at beat B. failed lists armed units that fail at that beat (DEDUCED, log entry 20). -/
def State.strSwitch (s : State) (failed : List Nat) : State :=
  if s.get .STR_STATUS_STATE ≠ 3 ∨ s.now < s.str.commitB ∨ !s.str.cutDone then s
  else
    let epoch := s.get .STR_EPOCH_PENDING
    let v := s.str.commitVariant
    let (bad, good) := s.armSet.partition fun u => failed.contains u || !s.armed u || s.clk.stopped
    let old := s
    let newCarve := KMap.get s.str.pendingBank (unitLedger 0) Image.empty
    let tabNew := tableEntry ⟨epoch, v, [], Secs.variant newCarve.secs v⟩
    let s := if tableEntry (old.bank (unitLedger 0)) = tabNew then s else s.qRegionChange
    let s := s.extendM3 epoch v
    let s := (s.strBanks good v).pendClear
    let s := (List.range 4).foldl (fun s i => s.set .STR_ACTIVE_DIGEST_DIGEST (field s.str.pendDigest (8 * i) 8) 0 i) s
    let s := ((s.set .STR_EPOCH_ACTIVE epoch).set .STR_FENCED_UNITS 0 0 0).set .STR_FENCED_UNITS 0 0 1
    let s := s.set .STR_STATUS_STATE 4
    let s := s.mapStr fun x => { x with fenced := x.fenced.filter fun u => !bad.contains u }
    let s := bad.foldl (fun s u => s.strFence epoch u) s
    (s.strHooks old).strDone

/-- COMMIT_BEAT_SWITCH (R44, R49): at beat B, after the cutoff (DESIGN CHOICE, log entry 7). -/
def execCommitBeatSwitch (failed : List Nat) (s : State) : Res := .next (s.strCutoff.strSwitch failed)

/-- COMMIT_READY messages are discarded at their beat B (R47). -/
def State.readyExpire (s : State) : State :=
  if s.str.ready.any fun r => decide (r.2.1 ≤ s.now) then
    (s.mapStr fun x => { x with ready := x.ready.filter fun r => decide (s.now < r.2.1) }).syncGroup
  else s

/-- A seal handover in PREPARED clears the pending banks (R50, R411). -/
def State.strHandover (s : State) : State := if s.get .STR_STATUS_STATE = 2 then s.pendClear.rwlBack.strIdle 5 else s

/-- A failure freeze takes effect at F (R370, R50). -/
def State.freezeEffective (s : State) : State :=
  match s.esc.freezeAt with
  | some F => if F ≤ s.now then ((s.strFreeze F).escFreeze).vceSync else s
  | none => s

/-- FREEZE_EFFECTIVE (R370). -/
def execFreezeEffective (s : State) : Res := .next s.freezeEffective

end Sys2Proof.Machine
end

