-- ==== Sys2Proof/Machine/Seal.lean ====
section
/-! DEFINITION. The seal (R409 to R413): claims, heartbeats, the handover and the dispute. The halves are 0 (W) and 1 (E). -/
namespace Sys2Proof.Machine

def State.mapSeal (s : State) (f : SealSt → SealSt) : State := { s with stw := f s.stw }

/-- A half's seal unit works: its hub die is present and not in reset (R409). -/
def State.sealUnit (s : State) (half : Nat) : Bool :=
  (half == 0 || (half == 1 && s.ident.member == .a8)) && !s.rst.inReset.contains (32 + 2 * half)

/-- The half that SEAL_PREF names; half W on the A4 and the A2 (R409). -/
def State.sealPref (s : State) : Nat := if s.ident.member = .a8 then s.get .STW_SEAL_PREF else 0

/-- A half's seal unit as a source (R472). -/
def sealSrc (half : Nat) : Nat := srcHub (2 * half) 3

/-- The sequence number of the seal (DEDUCED, log entry 44). -/
def State.sealSeq (s : State) : Nat := s.get .STW_SEAL_SEQ

/-- The SEQ with which a half takes itself to hold the seal. -/
def State.sealHolds (s : State) (half : Nat) : Option Nat := (s.stw.holds.find? fun h => h.1 == half).map (·.2)

/-- The state of a half's steward complex (R415) (DEDUCED, log entry 50). -/
def State.complex (s : State) (half : Nat) : Nat := if half = 0 then s.get .STW_STATUS_HALF_W else s.get .STW_STATUS_HALF_E
def State.setComplex (s : State) (half v : Nat) : State :=
  if half = 0 then s.set .STW_STATUS_HALF_W v else s.set .STW_STATUS_HALF_E v

/-- A complex that has booted is in charge or in standby (R404). -/
def State.syncComplex (s : State) : State :=
  [0, 1].foldl (fun s h =>
    if s.complex h = 3 ∨ s.complex h = 4 then
      s.setComplex h (if s.get .STW_SEAL_STATE ≠ 3 ∧ s.get .STW_SEAL_HOLDER = h then 4 else 3)
    else s) s

/-- The seal passes to a half with a SEQ value (R496 gives the interrupt). -/
def State.sealTo (s : State) (half seq : Nat) : State :=
  let moved := s.get .STW_SEAL_HOLDER != half
  let s := s.mapSeal fun x => { x with holds := [(half, seq % 2 ^ 32)] }
  let s := (((s.set .STW_SEAL_HOLDER half).set .STW_SEAL_SEQ seq).set .STW_SEAL_STATE 0).syncComplex
  if moved then s.irq 2 else s

/-! ### Claims (R409, R410) -/

/-- A claim: causes 0 STRAP, 1 FALLBACK, 2 LOST. A claim that meets the other half's holding leaves the seal there until the dispute is
decided, but for one of cause LOST, whose unit takes the seal (DEDUCED, log entry 44). -/
def State.sealClaim (s : State) (half cause : Nat) : State :=
  let seq := (s.sealSeq + 1) % 2 ^ 32
  let other := s.stw.holds.filter fun h => h.1 != half
  let s :=
    if other = [] then s.sealTo half seq
    else if cause = 2 then (s.sealTo half seq).mapSeal fun x => { x with holds := (half, seq) :: other }
    else s.mapSeal fun x => { x with holds := (half, seq) :: other }
  let s := s.mapSeal fun x => { x with claimed := half :: x.claimed.filter (· != half) }
  let s :=
    if !s.log.started then s.logStart half
    else if cause = 2 then s.logTake half
    else if other = [] then s.logMove half
    else s
  (s.log' (sealSrc half) 0xb030 0 [(1, half), (4, seq), (1, cause)]).emit (.pkg (.sealClaim half seq cause))

/-- SEAL_STRAP_CLAIM (R409): the half named by SEAL_PREF claims once its firmware is verified. -/
def execSealStrapClaim (half : Nat) (s : State) : Res :=
  .next (if half = s.sealPref ∧ s.sealUnit half ∧ s.rst.verified.contains half ∧ !s.stw.claimed.contains half then s.sealClaim half 0 else s)

/-- SEAL_FALLBACK_CLAIM (R409): the other half claims 200 ms after the reset began if it has received no claim. -/
def execSealFallbackClaim (half : Nat) (s : State) : Res :=
  .next
    (if half < 2 ∧ half ≠ s.sealPref ∧ s.sealUnit half ∧ s.rst.verified.contains half ∧ !s.stw.claimed.contains half ∧
        !s.stw.seen.contains half ∧ s.stw.origin + 200000000 ≤ s.beat.coldNs then s.sealClaim half 1 else s)

/-- SEAL_HEARTBEAT_SEND (R410). -/
def execSealHeartbeatSend (half : Nat) (s : State) : Res :=
  .next (match s.sealHolds half with
    | some seq => if s.sealUnit half then s.emit (.pkg (.sealHeartbeat half seq)) else s
    | none => s)

/-- SEAL_HEARTBEAT_RECEIVE (R410): half is the unit that receives it. -/
def execSealHeartbeatReceive (half : Nat) (s : State) : Res :=
  .next (if half < 2 ∧ s.sealUnit half then s.mapSeal fun x => { x with heard := KMap.set x.heard half s.beat.edges } else s)

/-- SEAL_LOST_CLAIM (R410): the heartbeats have stopped for 64 beats. -/
def execSealLostClaim (half : Nat) (s : State) : Res :=
  .next (match KMap.get? s.stw.heard half with
    | some t =>
      if half < 2 ∧ s.sealUnit half ∧ s.rst.verified.contains half ∧ (s.sealHolds half).isNone ∧ s.get .STW_SEAL_STATE ≠ 3 ∧
          t + 64 ≤ s.beat.edges then s.sealClaim half 2 else s
    | none => s)

/-! ### Dispute (R412) -/

/-- A dispute is declared by the arbiter of HD0; without HD0 half E holds the seal unopposed (DESIGN CHOICE, log entry 12). -/
def State.sealDispute (s : State) : State :=
  match s.sealHolds 0, s.sealHolds 1 with
  | some w, some e =>
    if w = e ∨ s.stw.dispute.isSome then s
    else if !s.sealUnit 0 then s.sealTo 1 e
    else
      let s := s.mapSeal fun x => { x with dispute := some ⟨s.now, w, e, none, 0, none, false⟩, offer := none }
      ((s.set .STW_SEAL_STATE 2).emit (.sealFreeze (s.now + 4))).irq 2
  | _, _ => s

/-- SEAL_DISPUTE (R412): both units hold the seal with different SEQ values. -/
def execSealDispute (s : State) : Res := .next s.sealDispute

/-- SEAL_CLAIM_RECEIVE (R409, R410, R412): half is the unit that receives the other's claim. -/
def execSealClaimReceive (half seq : Nat) (s : State) : Res :=
  if !s.sealUnit half then .next s
  else
    let s := s.mapSeal fun x => { x with seen := half :: x.seen.filter (· != half), heard := KMap.set x.heard half s.beat.edges }
    .next (match s.sealHolds half with
      | some own =>
        if own = seq then s
        else
          let s := if (s.sealHolds (1 - half)).isSome then s else s.mapSeal fun x => { x with holds := (1 - half, seq) :: x.holds }
          s.sealDispute
      | none => s)

/-- The dispute is decided (R412): the winner holds the seal with SEQ one above the larger, and the loser's complex takes a warm reset (DEDUCED, log entry 44). -/
def State.sealResolve (s : State) (winner : Nat) (grant : Option Nat) : State :=
  match s.stw.dispute with
  | some x =>
    if x.r.isSome then s
    else
      let s := s.sealTo winner (max x.seqW x.seqE + 1)
      let s := s.mapSeal fun y => { y with dispute := some { x with r := some s.now, winner := winner, grant := grant } }
      let s := s.setComplex (1 - winner) 5
      let s : State := { s with rst := { s.rst with
        verified := s.rst.verified.filter (· == winner), booted := s.rst.booted.filter (· == winner) } }
      s.logMove winner
  | none => s

/-- SEAL_DISPUTE_TIMEOUT (R412): half W wins. -/
def execSealDisputeTimeout (s : State) : Res :=
  .next (match s.stw.dispute with
    | some x => if x.r.isNone ∧ x.d + ceilDiv 50000000 s.period ≤ s.now then s.sealResolve 0 none else s
    | none => s)

/-- SEAL_DISPUTE_FREEZE_END (R412): at R + 4 what the freeze held is sent, and both units log EV_SEAL_DISPUTE. -/
def execSealDisputeFreezeEnd (s : State) : Res :=
  .next (match s.stw.dispute with
    | some x =>
      match x.r with
      | some r =>
        if s.now < r + 4 then s
        else
          let pkg := s.stw.heldPkg
          let out := s.stw.heldOut
          let s := s.mapSeal fun y => { y with dispute := none, heldPkg := [], heldOut := [] }
          let s := pkg.foldl (fun s m => s.emit (.pkg m)) s
          let s := out.foldl (fun s m => s.tc0 m.1 m.2) s
          [0, 1].foldl (fun s h => s.log' (sealSrc h) 0xb033 2
            [(8, x.d), (8, r), (1, x.winner), (1, if x.grant.isSome then 0 else 1), (1, x.grant.getD 0), (4, x.seqW), (4, x.seqE)]) s
      | none => s
    | none => s)

/-! ### Handover (R411) -/

/-- EV_SEAL_ABORT (R417): causes 0 STR, 1 TIMEOUT, 2 ABSENT. -/
def State.sealAbortEv (s : State) (taker cause : Nat) : State :=
  s.log' (sealSrc (s.get .STW_SEAL_HOLDER)) 0xb032 1 [(1, taker), (1, cause)]

/-- The holder handles a handover request (DEDUCED, log entry 44). -/
def State.sealOffer (s : State) (byHost : Bool) : State :=
  let taker := 1 - s.get .STW_SEAL_HOLDER
  let st := s.get .STR_STATUS_STATE
  if s.get .STW_SEAL_STATE ≠ 0 then s
  else if s.ident.member ≠ .a8 then s.sealAbortEv taker 2
  else if st = 1 ∨ st = 3 ∨ st = 4 then s.sealAbortEv taker 0
  else
    let s := s.strHandover.mapSeal fun x => { x with offer := some ⟨taker, byHost, s.now, false, none, none, none, false⟩ }
    (s.set .STW_SEAL_STATE 1).emit (.pkg (.sealOffer (1 - taker) (s.sealSeq + 1)))

/-- SEAL_OFFER (R411): a write of STW_SEAL_CTL.OFFER by the in-charge Bursar. -/
def execSealOffer (s : State) : Res := .next (s.sealOffer false)

/-- A host grant (R411 to R413): recorded; it decides an open dispute, or starts a handover. Grants through both links in one cycle are
ordered A first, then B, so the one through B decides. -/
def State.sealGrant (s : State) (link half : Nat) (alsoB : Option Nat) : State :=
  let (link, half) := match alsoB with | some b => (1, b % 2) | none => (link, half % 2)
  if s.ident.member ≠ .a8 ∧ half = 1 then s.sealAbortEv 1 2
  else
    let s := (s.set .STW_SEAL_GRANT_VALID 1).set .STW_SEAL_GRANT_HALF half
    if (s.stw.dispute.map fun x => x.r.isNone) = some true then s.sealResolve half (some link)
    else if s.get .STW_SEAL_STATE = 0 ∧ half ≠ s.get .STW_SEAL_HOLDER then s.sealOffer true
    else s

/-- SEAL_HOST_GRANT (R411 to R413). -/
def execSealHostGrant (link half : Nat) (alsoB : Option Nat) (s : State) : Res := .next (s.sealGrant link half alsoB)

/-- A change of the offer, where there is one. -/
def State.onOffer (s : State) (f : SealOffer → State) : State := match s.stw.offer with | some o => f o | none => s

def State.setOffer (s : State) (o : Option SealOffer) : State := s.mapSeal fun x => { x with offer := o }

/-- SEAL_OFFER_RECEIVE (R411): the standby unit has the OFFER. -/
def execSealOfferReceive (s : State) : Res :=
  .next (s.onOffer fun o => if o.withdrawn ∨ !s.sealUnit o.taker then s else s.setOffer (some { o with got := true }))

/-- STW_SEAL_CTL.ACCEPT: the taker's unit sends ACCEPT (DEDUCED, log entry 44). -/
def State.sealAccept (s : State) : State :=
  s.onOffer fun o =>
    if o.got ∧ o.accepted.isNone ∧ s.sealUnit o.taker then
      (s.setOffer (some { o with accepted := some s.now })).emit (.pkg (.sealAccept o.taker (s.sealSeq + 1)))
    else s

/-- SEAL_ACCEPT (R411). -/
def execSealAccept (s : State) : Res := .next s.sealAccept

/-- SEAL_ACCEPT_RECEIVE (R411): COMMIT names H, at least 4 beats ahead; ahead is what the holder chooses. -/
def execSealAcceptReceive (ahead : Nat) (s : State) : Res :=
  .next (s.onOffer fun o =>
    if o.accepted.isSome ∧ !o.withdrawn ∧ o.h.isNone then
      let h := s.now + max 4 ahead
      (s.setOffer (some { o with h := some h })).emit (.pkg (.sealCommit (1 - o.taker) (s.sealSeq + 1) h))
    else s)

/-- SEAL_COMMIT_RECEIVE (R411, R412): half is the unit that receives it; a unit that holds the seal under another SEQ finds a dispute. -/
def execSealCommitReceive (half seq h : Nat) (s : State) : Res :=
  if !s.sealUnit half then .next s
  else
    .next (match s.sealHolds half with
      | some own => if own = seq then s else s.sealDispute
      | none => s.onOffer fun o => if o.taker = half ∧ o.accepted.isSome then s.setOffer (some { o with takerH := some h }) else s)

/-- SEAL_HANDOVER (R411): at H the taker holds the seal; the log moves, and both units log EV_SEAL_HANDOVER. The other whole-part functions
are one each in the state, so that they move with the seal (DEDUCED, log entry 44). -/
def execSealHandover (s : State) : Res :=
  .next (s.onOffer fun o =>
    match o.takerH with
    | some h =>
      if s.now < h then s
      else
        let from_ := 1 - o.taker
        let seq := (s.sealSeq + 1) % 2 ^ 32
        let s := ((s.setOffer none).sealTo o.taker seq).logMove o.taker
        let s := s.mapSeal fun x => { x with heard := KMap.set x.heard from_ s.beat.edges }
        [from_, o.taker].foldl (fun s u => s.log' (sealSrc u) 0xb031 0 [(1, from_), (1, o.taker), (4, seq), (8, h), (1, b2n o.byHost)]) s
    | none => s)

/-- SEAL_OFFER_TIMEOUT (R411): no ACCEPT within 1 ms. -/
def execSealOfferTimeout (s : State) : Res :=
  .next (s.onOffer fun o =>
    if o.h.isSome ∨ o.withdrawn ∨ s.now < o.since + ceilDiv 1000000 s.period then s
    else
      let s := s.setOffer (if o.accepted.isSome then some { o with withdrawn := true } else none)
      (s.set .STW_SEAL_STATE 0).sealAbortEv o.taker 1)

/-- SEAL_COMMIT_TIMEOUT (R411): a taker without a COMMIT 1 ms after its ACCEPT claims the seal. -/
def execSealCommitTimeout (s : State) : Res :=
  .next (s.onOffer fun o =>
    match o.accepted, o.takerH with
    | some t, none => if s.now < t + ceilDiv 1000000 s.period then s else (s.setOffer none).sealClaim o.taker 2
    | _, _ => s)

end Sys2Proof.Machine
end

