-- ==== Sys2Proof/Machine/Sec.lean ====
section
/-! DEFINITION. The root of trust (chapter 23): firmware verification and installation, owner keys and revocation, measurements and
attestation. -/
namespace Sys2Proof.Machine

def State.mapSec (s : State) (f : SecSt → SecSt) : State := { s with sec := f s.sec }

/-- The in-charge root as a source (R472), and the root of a half. -/
def State.secSrc (s : State) : Nat := srcHub s.inCharge 2
def rotSrc (half : Nat) : Nat := srcHub (2 * half) 2

/-- The halves that carry a root of trust (R453). -/
def State.roots (s : State) : List Nat := if s.ident.member = .a8 then [0, 1] else [0]

/-! ### Fuses (R453, R466) -/

/-- Fuses are burnt: the registers read them, and every reset leaves them. -/
def State.burn (s : State) (f : Field) (v : Nat) : State :=
  let s := s.set f v
  { s with ident := match f with
      | .SEC_FUSE_FIRST_DONE => { s.ident with firstDone := v }
      | .SEC_FUSE_OWN_REV => { s.ident with ownRev := v }
      | .SEC_FUSE_OWN_ENR => { s.ident with ownEnr := v }
      | .SEC_FUSE_VEN_REV => { s.ident with venRev := v }
      | .SEC_SVN_SVN => { s.ident with svn := v }
      | _ => s.ident }

/-- A new challenge from the entropy source (R461). -/
def State.newChallenge (s : State) : State :=
  (List.range 4).foldl (fun s i => (s.set .SEC_CHALLENGE_VALUE s.fresh.toNat 0 i).tick) s

def State.challenge (s : State) : List Byte := (List.range 4).flatMap fun i => leBytes 8 (s.get .SEC_CHALLENGE_VALUE 0 i)
def State.nonce (s : State) : List Byte := (List.range 4).flatMap fun i => leBytes 8 (s.get .SEC_NONCE_VALUE 0 i)

/-! ### Firmware (R457, R458) -/

def fwVkey (b : List Byte) : Nat := field b 6 1
def fwSvnOf (b : List Byte) : Nat := field b 8 4
def fwLen (b : List Byte) : Nat := field b 0xc 4
def fwVpub (b : List Byte) : List Byte := slice b 0x40 1312
/-- Part k of the image: 0 hub firmware, 1 Bursar, 2 codec firmware. -/
def fwPart (b : List Byte) (k : Nat) : List Byte := slice b (field b (0x10 + 8 * k) 4) (field b (0x14 + 8 * k) 4)

/-- The check that a firmware image fails: 0 its header, 1 the vendor key, 2 the signature, 3 the security version. -/
def State.fwFault (s : State) (b : List Byte) : Option Nat :=
  let n := fwLen b
  if b.take 4 ≠ [0x57, 0x46, 0x57, 0x49] ∨ field b 4 2 ≠ 1 ∨ !within 3796 n 33554432 ∨ b.length < n then some 0
  else if 4 ≤ fwVkey b ∨ bit (s.get .SEC_FUSE_VEN_REV) (fwVkey b) ∨ sha3 (fwVpub b) ≠ KMap.get s.sec.venDig (fwVkey b) [] then some 1
  else if !Config.mldsaVerify (fwVpub b) (sha3 (b.take (n - 2420))) [] (slice b (n - 2420) 2420) then some 2
  else if fwSvnOf b < s.get .SEC_SVN_SVN then some 3
  else none

/-- A measurement register (R463). -/
def State.meas (s : State) (m half : Nat) : List Byte := KMap.get s.sec.meas (m, half) (List.replicate 32 0)
def State.setMeas (s : State) (m half : Nat) (v : List Byte) : State := s.mapSec fun x => { x with meas := KMap.set x.meas (m, half) v }
def State.extend (s : State) (m half : Nat) (d : List Byte) : State := s.setMeas m half (sha3 (s.meas m half ++ d))

/-- What a root measures of the firmware it has verified (R463). M2 is HD0's, copied to HD2's. -/
def State.fwMeasure (s : State) (half : Nat) (b : List Byte) : State :=
  let s := (s.extend 0 half (sha3 (fwPart b 0))).extend 0 half (sha3 (fwVpub b))
  let s := s.extend 1 half (sha3 (fwPart b 1))
  if s.ident.member = .a8 ∧ half = 0 then
    let s := s.extend 2 0 (sha3 (fwPart b 2))
    s.setMeas 2 1 (s.meas 2 0)
  else s

/-- Milliseconds since the last reset of the whole part began (R451). -/
def State.bootMs (s : State) : Nat := (s.beat.coldNs - s.stw.origin) / 1000000

/-- Verification of the image that a half's boot ROM has read ends (R443, R457): it passes, and the steward cores may start; or its slot
fails, and the ROM goes on to slot B, or the part fails (DEDUCED, log entry 45). -/
def State.fwVerify (s : State) (half : Nat) : State :=
  match KMap.get? s.rst.loaded half with
  | some slot =>
    if 1 < slot ∨ s.rst.verified.contains half ∨ s.get .RST_STATUS_STAGE = 6 then s
    else
      let b := KMap.get s.sec.slots (half, slot) []
      match s.fwFault b with
      | none =>
        let s := (s.fwMeasure half b).mapSec fun x => { x with vkey := fwVkey b, fwSvn := fwSvnOf b }
        let s : State := { s with rst := { s.rst with verified := half :: s.rst.verified } }
        let s := (s.set .RST_STATUS_FW_SLOT slot).setComplex half 2
        if s.get .RST_STATUS_STAGE = 2 then ((s.set .RST_STATUS_STAGE 3).set .RST_BOOT_FW_MS s.bootMs).startPorts else s
      | some c =>
        let s := s.log' (rotSrc half) 0xa001 1 [(1, 2 * half), (1, slot), (1, c)]
        if slot = 0 then
          ({ s with rst := { s.rst with loaded := KMap.set s.rst.loaded half 2 } } : State).log' (srcHub (2 * half) 12) 0xb003 1
            [(1, 2 * half), (1, 0)]
        else s.startFail (rotSrc half) c
  | none => s

/-- FIRMWARE_VERIFIED (R443, R457). -/
def execFirmwareVerified (half : Nat) (s : State) : Res := onUnit (s.monitorOk half) (.next (s.fwVerify half))

/-- The staging area (R458). -/
def stagingDa : Nat := 0x8000000

/-- A staged image is checked and installed: slot A goes to slot B, and the image into slot A, in both roots. The status. -/
def State.secInstall (s : State) : State × Nat :=
  let img := s.carveBank .steward
  let n := min 33554432 (max 3796 (field (s.rdDa .steward img stagingDa 16) 0xc 4))
  let b := s.rdDa .steward img stagingDa n
  if (s.poisonDa .steward img stagingDa n).isSome ∨ (s.fwFault b).isSome then (s, 7)
  else
    (s.roots.foldl (fun s h => s.mapSec fun x => { x with
      slots := KMap.set (KMap.set x.slots (h, 1) (KMap.get x.slots (h, 0) [])) (h, 0) b }) s, 0)

/-! ### Operations of SEC_OP (R445, R465, R466) -/

/-- An operation ends: DONE rises, with STATUS and LEN; a refusal is logged (R467, R496). -/
def State.secDone (s : State) (op st len : Nat) : State :=
  let s := (((s.set .SEC_OP_RES_DONE 1).set .SEC_OP_RES_STATUS st).set .SEC_OP_RES_LEN len).irq 6
  if st = 0 then s else s.log' s.secSrc 0xa004 1 [(1, op), (1, st)]

/-- A write of SEC_OP. Every operation is one step of the model, so none is outstanding when another is written (DEDUCED, log entry 45). -/
def State.secOp (s : State) (by_ : Agent) (f : State → State) : State :=
  s.whenReady by_ 0x7f000200010 fun s => f (s.set .SEC_OP_RES_DONE 0)

/-- The DA of the record or output. -/
def State.secDa (s : State) : Nat := s.get .SEC_OP_ADDR_ADDR * 64

/-- Whether 4 KiB at the DA lie in the firmware area or in one region of kind 8 or 9. -/
def State.secOutOk (s : State) : Bool :=
  let img := s.carveBank .steward
  let a := s.secDa
  decide (a + 4096 ≤ s.lpSize) &&
    match s.regionAt img a with
    | some r => (r.kind == 8 || r.kind == 9) && decide (a + 4096 ≤ r.base + r.len)
    | none => false

/-- SEC_STAGE (R458). -/
def execSecStage (by_ : Agent) (s : State) : Res :=
  .next (s.secOp by_ fun s => let (s, st) := s.secInstall; s.secDone 2 st 0)

/-- SEC_ADVANCE_SVN (R459). -/
def execSecAdvanceSvn (by_ : Agent) (s : State) : Res :=
  .next (s.secOp by_ fun s =>
    if s.get .RST_STATUS_FW_SLOT = 1 then s.secDone 4 8 0 else (s.burn .SEC_SVN_SVN (max (s.get .SEC_SVN_SVN) s.sec.fwSvn)).secDone 4 0 0)

/-- SEC_CERT (R455). -/
def execSecCert (by_ : Agent) (s : State) : Res :=
  .next (s.secOp by_ fun s =>
    if s.secOutOk then
      let c := s.sec.cert.take 4096
      (s.wrDa .steward (s.carveBank .steward) s.secDa c).secDone 5 0 c.length
    else s.secDone 5 9 0)

/-! ### Keys (R460, R461) -/

/-- The request record. -/
def State.keyRecord (s : State) : List Byte := s.rdDa .steward (s.carveBank .steward) s.secDa 3780

/-- Whether the record can be read. -/
def State.keyReadable (s : State) : Bool :=
  let img := s.carveBank .steward
  s.range .steward img s.secDa 3780 == .ok && (s.poisonDa .steward img s.secDa 3780).isNone

def krKind (b : List Byte) : Nat := field b 0 1
def krSlot (b : List Byte) : Nat := field b 1 1
def krSigner (b : List Byte) : Nat := field b 2 1
def krKey (b : List Byte) : List Byte := slice b 0x30 1312

/-- Whether the record's signature verifies under a key. -/
def krVerify (b pk : List Byte) : Bool := Config.mldsaVerify pk (sha3 (b.take 0x550)) [] (slice b 0x550 2420)

/-- The status that the signer's key gives: 4 SIGNER, 3 SIGNATURE, 0 good (DEDUCED, log entry 45). -/
def State.signerStatus (s : State) (b : List Byte) : Nat :=
  let n := krSigner b
  if krKind b = 3 then
    if 4 ≤ n then 4
    else if sha3 (krKey b) ≠ KMap.get s.sec.venDig n [] ∨ !krVerify b (krKey b) then 3
    else if bit (s.get .SEC_FUSE_VEN_REV) n then 4
    else 0
  else if krKind b = 1 ∧ n = 0xff ∧ s.get .SEC_FUSE_FIRST_DONE = 0 then 0
  else
    let k := KMap.get s.sec.ownKey n []
    if 4 ≤ n ∨ !bit (s.get .SEC_FUSE_OWN_ENR) n ∨ sha3 k ≠ KMap.get s.sec.ownDig n [] then 4
    else if !krVerify b k then 3
    else if bit (s.get .SEC_FUSE_OWN_REV) n then 4
    else 0

/-- The status of a key request (R461) (DEDUCED, log entry 45). -/
def State.keyStatus (s : State) (b : List Byte) : Nat :=
  let n := krSlot b
  let enr := s.get .SEC_FUSE_OWN_ENR
  let rev := s.get .SEC_FUSE_OWN_REV
  if field b 8 8 ≠ s.ident.serial ∨ slice b 0x10 32 ≠ s.challenge then 2
  else if !within 1 (krKind b) 3 then 3
  else if s.signerStatus b ≠ 0 then s.signerStatus b
  else if 4 ≤ n ∨ (krKind b = 1 ∧ (bit enr n ∨ bit rev n)) then 5
  else if krKind b = 2 ∧ !((List.range 4).any fun k => bit enr k && !bit rev k && k != n) then 6
  else if krKind b = 3 ∧ !((List.range 4).any fun k => !bit (s.get .SEC_FUSE_VEN_REV) k && k != n) then 6
  else 0

/-- An accepted request burns its fuses. -/
def State.keyBurn (s : State) (b : List Byte) : State :=
  let n := krSlot b
  let s := match krKind b with
    | 1 =>
      let s := s.mapSec fun x => { x with ownKey := KMap.set x.ownKey n (krKey b), ownDig := KMap.set x.ownDig n (sha3 (krKey b)) }
      (s.burn .SEC_FUSE_OWN_ENR (putBit (s.get .SEC_FUSE_OWN_ENR) n true)).burn .SEC_FUSE_FIRST_DONE 1
    | 2 => s.burn .SEC_FUSE_OWN_REV (putBit (s.get .SEC_FUSE_OWN_REV) n true)
    | _ => s.burn .SEC_FUSE_VEN_REV (putBit (s.get .SEC_FUSE_VEN_REV) n true)
  s.log' s.secSrc 0xa002 0 [(1, krKind b), (1, n), (1, krSigner b)]

/-- OP KEY with the record at the DA. A new challenge follows every key operation (DEDUCED, log entry 45). -/
def State.secKey (s : State) : State :=
  if !s.keyReadable then s.newChallenge.secDone 3 9 0
  else
    let b := s.keyRecord
    match s.keyStatus b with
    | 0 => (s.keyBurn b).newChallenge.secDone 3 0 0
    | st => s.newChallenge.secDone 3 st 0

/-- SEC_ENROLL_OWNER (R460, R461): OP KEY. Which operation it is, the record says. -/
def execSecEnrollOwner (by_ : Agent) (s : State) : Res := .next (s.secOp by_ fun s => s.secKey)
/-- SEC_REVOKE_OWNER (R460, R461): OP KEY, likewise. -/
def execSecRevokeOwner (by_ : Agent) (s : State) : Res := .next (s.secOp by_ fun s => s.secKey)
/-- SEC_REVOKE_VENDOR (R460, R461): OP KEY, likewise. -/
def execSecRevokeVendor (by_ : Agent) (s : State) : Res := .next (s.secOp by_ fun s => s.secKey)

/-! ### Attestation (R464) -/

/-- The report without its signature (DEDUCED, log entry 45). -/
def State.report (s : State) : List Byte :=
  let fuses := s.get .SEC_FUSE_PROD * 8192 + s.get .SEC_FUSE_FIRST_DONE * 4096 + s.get .SEC_FUSE_OWN_REV * 256 +
    s.get .SEC_FUSE_OWN_ENR * 16 + s.get .SEC_FUSE_VEN_REV
  let e (m : Nat) : List Byte := if s.ident.member = .a8 then s.meas m 1 else List.replicate 32 0
  [0x41, 0x54, 0x53, 0x54] ++ leBytes 2 1 ++ leBytes 2 s.ident.part ++ leBytes 1 s.ident.stepping ++
    leBytes 1 (s.get .STW_SEAL_HOLDER) ++ leBytes 2 0 ++ leBytes 4 s.sealSeq ++ leBytes 8 s.ident.serial ++ leBytes 8 s.now ++
    leBytes 8 (s.get .BEAT_WALL_WALL) ++ s.nonce ++ leBytes 4 (s.get .SEC_SVN_SVN) ++ leBytes 4 fuses ++
    leBytes 4 (s.get .STR_EPOCH_ACTIVE) ++ leBytes 1 (s.bank (unitHub s.inCharge)).variant ++ leBytes 1 s.sec.vkey ++ leBytes 2 0 ++
    ((List.range 4).flatMap fun i => leBytes 8 (s.get .STR_ACTIVE_DIGEST_DIGEST 0 i)) ++ s.meas 0 0 ++ e 0 ++ s.meas 1 0 ++ e 1 ++
    s.meas 2 0 ++ s.meas 3 0 ++ leBytes 8 0

/-- The context string "WX-ATTEST". -/
def attestCtx : List Byte := [0x57, 0x58, 0x2d, 0x41, 0x54, 0x54, 0x45, 0x53, 0x54]

/-- SEC_ATTEST (R464). -/
def execSecAttest (by_ : Agent) (s : State) : Res :=
  .next (s.secOp by_ fun s =>
    if s.secOutOk then
      let r := s.report
      let sig := (List.range 2420).map (Config.mldsaSign s.sec.idSeed (sha3 r) attestCtx s.fresh)
      let s := s.tick.wrDa .steward (s.carveBank .steward) s.secDa (r ++ sig)
      (s.log' s.secSrc 0xa005 0 [(8, s.get .SEC_NONCE_VALUE 0 0), (4, s.get .STR_EPOCH_ACTIVE)]).secDone 1 0 2740
    else s.secDone 1 9 0)

end Sys2Proof.Machine
end

