-- ==== Sys2Proof/Machine/Host.lean ====
section
/-! DEFINITION. The host links (R399 to R401, R494), the management ports (R406 to R408, R416, R479) and the operations of ESC_CTL (R378). -/
namespace Sys2Proof.Machine

/-- Whether a host link exists (R400). -/
def State.linkOk (s : State) (link : Nat) : Bool := link == 0 || (link == 1 && s.ident.member == .a8)

/-! ### BAR2 (R399, R401) -/

/-- log2 of the size of a function's BAR2, and the DA that an offset in it names. -/
def State.bar2Log (s : State) (link : Nat) : Nat := KMap.get s.hst.bar2 link 34

def State.bar2Da (s : State) (link off : Nat) : Nat :=
  let n := 2 ^ s.bar2Log link
  let base := if s.bar2Log link = 43 then 0 else s.get .HST_BAR2_BASE * 4096 / n * n
  base + off % n

/-- An access through BAR2: before READY it completes as Unsupported Request; it is a wake trigger (R430) (DEDUCED, log entry 41). -/
def State.bar2 (s : State) (link off kind : Nat) (bs : List Byte) : State :=
  if s.get .RST_STATUS_READY = 0 then s.emit (.answer (.host link) false [])
  else (s.wake 3).memAcc (.host link) (s.bar2Da link off) kind bs

/-- BAR2_ACCESS (R401): a write of data, or a read of as many bytes. -/
def execBar2Access (link off : Nat) (write : Bool) (data : List Byte) (s : State) : Res :=
  onUnit (s.linkOk link) (.next (s.bar2 link off (b2n write) data))

/-- HOST_ATOMIC (R399): kinds 0 FetchAdd, 1 Swap, 2 CAS, on an aligned word. A misaligned one completes as Unsupported Request (DEDUCED, log entry 41). -/
def execHostAtomic (link off kind : Nat) (operand swap : Word) (s : State) : Res :=
  onUnit (s.linkOk link) (.next (
    if off % 8 ≠ 0 ∨ 2 < kind then s.emit (.answer (.host link) false [])
    else s.bar2 link off (kind + 2) (leBytes 8 operand.toNat ++ leBytes 8 swap.toNat)))

/-- HOST_LINK_CHANGE (R399, R417). -/
def execHostLinkChange (link : Nat) (up : Bool) (rate width : Nat) (flit : Bool) (s : State) : Res :=
  onUnit (s.linkOk link) (.next (s.hostLink link up rate width flit))

/-! ### Configuration space (R401, R494) -/

/-- log2 of the size of a BAR. -/
def State.barLog (s : State) (link n : Nat) : Nat := if n = 0 then 36 else if n = 2 then s.bar2Log link else 32

/-- A BAR as it reads: its address, and the type bits of a 64-bit BAR, prefetchable for BAR2 (PRESUMED, log entry 42). -/
def State.barRead (s : State) (link n : Nat) : Nat :=
  KMap.get s.hst.bars (link, n) 0 / 2 ^ s.barLog link n * 2 ^ s.barLog link n + (if n = 2 then 12 else 4)

/-- A configuration register's value (DEDUCED, log entry 41). -/
def State.cfgRead (s : State) (link : Nat) (reg : CfgReg) : Nat :=
  match reg with
  | .ids => 0xf1a5 + s.ident.part * 65536
  | .classRev => s.ident.stepping + 0x120000 * 256
  | .subsystem => 0xf1a5 + s.ident.part * 65536
  | .serialLo => s.ident.serial % 2 ^ 32
  | .serialHi => s.ident.serial / 2 ^ 32 % 2 ^ 32
  | .bar n upper => if [0, 2, 4].contains n then (if upper then s.barRead link n / 2 ^ 32 else s.barRead link n % 2 ^ 32) else 0
  | .rebar => 2 + 32 + (s.bar2Log link - 20) * 256

/-- A write of a configuration register: identification is read-only; a BAR keeps the bits above its size; the size field of the Resizable
BAR capability takes the sizes of R401 (PRESUMED, log entry 42). -/
def State.cfgWrite (s : State) (link : Nat) (reg : CfgReg) (v : Nat) : State :=
  match reg with
  | .bar n upper =>
    if [0, 2, 4].contains n then
      let old := KMap.get s.hst.bars (link, n) 0
      let new := if upper then putBits old 63 32 v else putBits old 31 0 v
      { s with hst := { s.hst with bars := KMap.set s.hst.bars (link, n) (new / 2 ^ s.barLog link n * 2 ^ s.barLog link n) } }
    else s
  | .rebar =>
    let k := bits v 13 8 + 20
    if within 30 k 43 then { s with hst := { s.hst with bar2 := KMap.set s.hst.bar2 link k } } else s
  | _ => s

/-- HOST_CONFIG_ACCESS (R401, R441, R494): a read where val is none. In a cold start-up a request is answered with Retry Status until the
boot ROM has read the firmware. -/
def execHostConfigAccess (link : Nat) (reg : CfgReg) (val : Option Nat) (s : State) : Res :=
  onUnit (s.linkOk link) (.next (
    if s.get .RST_STATUS_STAGE ≤ 1 ∧ s.get .RST_STATUS_LAST_KIND = 0 then s.emit (.answer (.host link) false [])
    else
      match val with
      | none => s.emit (.answer (.host link) true (leBytes 4 (s.cfgRead link reg)))
      | some v => (s.cfgWrite link reg v).emit (.answer (.host link) true [])))

/-! ### Management ports (R406, R407) -/

/-- A management port is up and enabled. -/
def State.mgtUp (s : State) (port : Nat) : Bool :=
  if port = 0 then s.get .MGT_STATUS_LINK_A == 1 && s.get .MGT_CFGA_ENABLE == 1
  else s.mgtOk port && s.get .MGT_STATUS_LINK_B == 1 && s.get .MGT_CFGB_ENABLE == 1

/-- A request that a port passes to the in-charge Bursar: counted, and answered once Bursar serves (DESIGN CHOICE, log entry 43). -/
def State.mgtReq (s : State) (port : Nat) (f : State → State) : Res :=
  onUnit (s.mgtOk port) (.next (
    if s.mgtUp port then
      let s := s.bumpSat .MGT_STATUS_REQUESTS
      if s.get .RST_STATUS_READY = 1 then f s else s
    else s))

/-- A monitoring resource (R407), its values one after the other: 0 identity, 1 temperatures, 2 rails, 3 power, 4 link states, 5 counters.
The spec does not give the records; what the rails measure is a free value (DESIGN CHOICE, log entry 43). -/
def State.resource (s : State) (r : Nat) : List Byte :=
  match r with
  | 0 => leBytes 2 s.ident.part ++ leBytes 1 s.ident.stepping ++ leBytes 8 s.ident.serial ++ leBytes 8 s.ident.mask
  | 1 => leBytes 2 (s.get .PWR_MEAS_TJ_MAX)
  | 2 => leBytes 8 s.fresh.toNat
  | 3 => leBytes 2 (s.get .PWR_MEAS_PKG) ++ leBytes 2 (s.get .PWR_CAP_WATTS) ++ leBytes 1 (s.get .PWR_STATE_CURRENT)
  | 4 => [b2n (s.linkUp 0), b2n (s.linkUp 1), s.get .MGT_STATUS_LINK_A, s.get .MGT_STATUS_LINK_B].flatMap (leBytes 1) ++
      (List.range s.ident.ports).flatMap fun p => leBytes 1 (s.get .FAB_PORT_STATE 0 p)
  | 5 => leBytes 4 (s.get .MGT_STATUS_REQUESTS) ++ leBytes 4 (s.get .RST_COUNT_WARM) ++ leBytes 8 (s.get .LOG_SEQ_NEXT)
  | _ => []

/-- MGT_GET (R407). -/
def execMgtGet (port seq resource : Nat) (s : State) : Res :=
  s.mgtReq port fun s => (if resource = 2 then s.tick else s).emit (.mgtReply port (seq % 2 ^ 32) (s.resource resource))

/-- MGT_LOG_READ (R479). -/
def execMgtLogRead (port seq seg first count : Nat) (s : State) : Res :=
  s.mgtReq port fun s =>
    let (k, next, es) := s.logRead seg first count
    s.emit (.mgtReply port (seq % 2 ^ 32) (leBytes 2 seg ++ leBytes 8 k ++ leBytes 1 es.length ++ leBytes 8 next ++
      leBytes 8 (s.get .LOG_OVER_OVERWRITTEN) ++ es.flatMap Entry.bytes))

/-- MGT_STAGE (R407): one chunk of 1,024 bytes at an offset in the staging area; another length, or an offset outside it, stores nothing (DESIGN CHOICE, log entry 43). -/
def execMgtStage (port seq off : Nat) (data : List Byte) (s : State) : Res :=
  s.mgtReq port fun s =>
    let s := if data.length = 1024 ∧ off + 1024 ≤ 33554432 then s.wrDa .steward (s.carveBank .steward) (stagingDa + off) data else s
    s.emit (.mgtReply port (seq % 2 ^ 32) [])

/-- MGT_STAGE_DONE (R407, R458). -/
def execMgtStageDone (port seq : Nat) (s : State) : Res :=
  s.mgtReq port fun s =>
    let (s, st) := s.secInstall
    (s.secDone 2 st 0).emit (.mgtReply port (seq % 2 ^ 32) (leBytes 1 st))

/-- MGT_NEIGHBOUR_DISCOVERY (R406). -/
def execMgtNeighbourDiscovery (port : Nat) (s : State) : Res :=
  onUnit (s.mgtOk port) (.next (
    if s.mgtUp port then s.emit (.mgtNeighbour port (if port = 0 then s.get .MGT_MACA_MAC else s.get .MGT_MACB_MAC)) else s))

/-- MGT_LINK_CHANGE (R416). -/
def execMgtLinkChange (port : Nat) (up : Bool) (s : State) : Res :=
  onUnit (s.mgtOk port) (.next (
    if port = 0 then
      let s := s.set .MGT_STATUS_LINK_A (b2n up)
      if up then s else s.set .MGT_STATUS_PTP_A 0
    else
      let s := s.set .MGT_STATUS_LINK_B (b2n up)
      if up then s else s.set .MGT_STATUS_PTP_B 0))

/-- PTP_MASTER_LOST (R416). -/
def execPtpMasterLost (port : Nat) (s : State) : Res :=
  onUnit (s.mgtOk port) (.next (if port = 0 then s.set .MGT_STATUS_PTP_A 0 else s.set .MGT_STATUS_PTP_B 0))

/-! ### Operations of ESC_CTL (R378, R445) -/

/-- A write of ESC_CTL. -/
def State.escWrite (s : State) (by_ : Agent) (op target : Nat) : State :=
  s.whenReady by_ 0x7f003000040 fun s => s.escCtl op target

/-- ESC_FREEZE (R369). -/
def execEscFreeze (by_ : Agent) (s : State) : Res := .next (s.escWrite by_ 1 0)
/-- ESC_ROLLBACK (R373). -/
def execEscRollback (by_ : Agent) (s : State) : Res := .next (s.escWrite by_ 2 0)
/-- ESC_SERVE (R375). -/
def execEscServe (by_ : Agent) (target : Nat) (s : State) : Res := .next (s.escWrite by_ 3 target)
/-- ESC_RECEIVE (R375). -/
def execEscReceive (by_ : Agent) (target : Nat) (s : State) : Res := .next (s.escWrite by_ 4 target)
/-- ESC_DIGEST (R372). -/
def execEscDigest (by_ : Agent) (s : State) : Res := .next (s.escWrite by_ 5 0)
/-- ESC_THAW (R371). -/
def execEscThaw (by_ : Agent) (s : State) : Res := .next (s.escWrite by_ 6 0)
/-- ESC_BAD_OP (R378). The operation codes of R378 have rows of their own. -/
def execEscBadOp (by_ : Agent) (op : Nat) (s : State) : Res :=
  if within 1 (op % 16) 6 then .fault .otherRow else .next (s.escWrite by_ (op % 16) 0)

end Sys2Proof.Machine
end

