-- ==== Sys2Proof/Machine/Irq.lean ====
section
/-! DEFINITION. The global interrupt registers and the MSI-X tables (R493, R496 to R500). -/
namespace Sys2Proof.Machine

/-- IRQ_SOURCE_RAISE (R496, R497): the condition of a source occurs; sev3 for a log entry of severity 3. Rows whose effect includes it call
the same operation. -/
def execIrqSourceRaise (src : Nat) (sev3 : Bool) (s : State) : Res := .next (if src < 12 then s.irq src sev3 else s)

/-- A W1C write of GLB_IRQ_STATUS: a source whose condition occurs in the same cycle (again) stays set, and its message is sent. -/
def State.irqClear (s : State) (mask again : Nat) : State :=
  let st := s.get .GLB_IRQ_STATUS_SRC
  let s := s.set .GLB_IRQ_STATUS_SRC (st &&& (0xfff ^^^ (mask % 4096)))
  (bitList again 12).foldl (fun s n => s.irq n) s

/-- IRQ_STATUS_CLEAR (R497). -/
def execIrqStatusClear (_by : Agent) (mask again : Nat) (s : State) : Res := .next (s.irqClear mask again)

/-- A write of GLB_IRQ_EN: a bit that it sets sends one message at once where the source has occurred (R497). -/
def State.irqEnable (s : State) (mask : Nat) : State :=
  let old := s.get .GLB_IRQ_EN_HOST
  let s := s.set .GLB_IRQ_EN_HOST (mask % 4096)
  (bitList mask 12).foldl (fun s n =>
    if !bit old n && bit (s.get .GLB_IRQ_STATUS_SRC) n && !irqUnmaskable n then s.sendMsix (s.irqVec n) false else s) s

/-- A write of GLB_IRQ_STW: likewise, an interrupt to the in-charge complex (R497, R500). -/
def State.stwEnable (s : State) (mask : Nat) : State :=
  let old := s.get .GLB_IRQ_STW_STW
  let s := s.set .GLB_IRQ_STW_STW (mask % 4096)
  (bitList mask 12).foldl (fun s n => if !bit old n && bit (s.get .GLB_IRQ_STATUS_SRC) n then s.emit (.stwIrq n) else s) s

/-- IRQ_ENABLE_WRITE (R497): GLB_IRQ_EN, or GLB_IRQ_STW where stw is set. -/
def execIrqEnableWrite (_by : Agent) (stw : Bool) (mask : Nat) (s : State) : Res :=
  .next (if stw then s.stwEnable mask else s.irqEnable mask)

/-- The reset value of a dword of an MSI-X table: the vector is masked (PRESUMED, log entry 42). -/
def msixReset (dw : Nat) : Nat := if dw % 4 = 3 then 1 else 0

/-- A dword of a function's MSI-X block (R493): the table, then the pending bits (PRESUMED, log entry 42). -/
def State.msixRead (s : State) (link off : Nat) : Nat :=
  if off < 0x8000 then KMap.get s.msixTab (link, off / 4) (msixReset (off / 4))
  else if off < 0x8100 then
    (List.range 32).foldl (fun a i => a + b2n (KMap.get s.pba (link, (off - 0x8000) * 8 + i) false) * 2 ^ i) 0
  else 0

/-- A write of a dword: unmasking a vector that is pending sends its message. Pending bits are read-only. -/
def State.msixWrite (s : State) (link off val : Nat) : State :=
  if off < 0x8000 then
    let dw := off / 4
    let v := if dw % 4 = 3 then val % 2 else if dw % 4 = 0 then val / 4 * 4 % 2 ^ 32 else val % 2 ^ 32
    let s := { s with msixTab := KMap.set s.msixTab (link, dw) v }
    if dw % 4 = 3 ∧ v = 0 ∧ KMap.get s.pba (link, dw / 4) false then
      ({ s with pba := KMap.erase s.pba (link, dw / 4) } : State).emit (.msix link (dw / 4))
    else s
  else s

/-- MSIX_ACCESS (R493): an aligned 32-bit read (no value) or write by the host over a link. -/
def execMsixAccess (link off : Nat) (val : Option Nat) (s : State) : Res :=
  onUnit (link == 0 || (link == 1 && s.ident.member == .a8)) (
    if off % 4 ≠ 0 then .next (s.emit (.answer (.host link) false []))
    else match val with
      | some v => .next (s.msixWrite link off v)
      | none => .next (s.emit (.answer (.host link) true (leBytes 4 (s.msixRead link off)))))

end Sys2Proof.Machine
end

