-- ==== Sys2Proof/Machine/Rst.lean ====
section
/-! DEFINITION. Resets, start-up and self-test (chapter 22), and the fibre-attach blocks (R514, R515). -/
namespace Sys2Proof.Machine

def State.mapRst (s : State) (f : RstSt → RstSt) : State := { s with rst := f s.rst }

/-- The reset unit of the in-charge hub as a source (R472). -/
def State.rstSrc (s : State) : Nat := srcHub s.inCharge 12

/-- EV_RESET (R452): kinds 0 cold, 1 warm, 2 die, 3 core; the cause as RST_STATUS.CAUSE codes it; die index or core ID. -/
def State.resetEv (s : State) (kind cause unit : Nat) : State := s.log' s.rstSrc 0xb001 1 [(1, kind), (1, cause), (2, unit)]

/-! ### Registers that a reset returns to their reset values (R4, R438) -/

def blockFields (b : Block) : List Field := b.regs.flatMap fun r => r.row.fields

/-- The registers of a block in the units named take their reset values; RWS registers are kept (R438). -/
def State.regsReset (s : State) (b : Block) (us : Nat → Bool) : State :=
  let fs := blockFields b
  { s with flds := s.flds.filter fun e => !(fs.contains e.1.f && us e.1.u) || e.1.f.row.acc == .rws }

/-- Fields that a warm reset keeps: RWS registers (R4), and what other rules keep: the beat (R58), the log's place (R470), trained host links
(R444), management links (R406), the device type, which no training finds again (R444), the fallback clock (R422), counts since a cold
reset (R415, R434), and fuses (R453) (DEDUCED, log entry 49). -/
def keptWarm (f : Field) : Bool :=
  f.row.acc == .rws || [.BEAT_NOW_COUNT, .BEAT_WALL_WALL, .BEAT_PHASE_CYCLES, .LOG_SEQ_NEXT, .LOG_STATUS_SEG, .LOG_STATUS_HUB,
    .LOG_STATUS_INTAKE, .LOG_OVER_OVERWRITTEN, .HST_LINKA_UP, .HST_LINKA_RATE, .HST_LINKA_WIDTH, .HST_LINKA_FLIT,
    .HST_LINKA_DEGRADED, .HST_LINKB_UP, .HST_LINKB_RATE, .HST_LINKB_WIDTH, .HST_LINKB_FLIT, .HST_LINKB_DEGRADED,
    .MGT_STATUS_LINK_A, .MGT_STATUS_LINK_B, .MGT_STATUS_PTP_A, .MGT_STATUS_PTP_B, .LDG_STATUS_DEV_TYPE, .CLK_STATUS_FALLBACK,
    .CLK_MON_FAULTS, .STW_SEAL_SEQ, .SEC_FUSE_PROD, .SEC_FUSE_FIRST_DONE, .SEC_FUSE_OWN_REV, .SEC_FUSE_OWN_ENR, .SEC_FUSE_VEN_REV,
    .SEC_SVN_SVN].contains f

/-! ### Keys (R454) -/

/-- A root reads each enrolled key; one that does not match its fused digest is logged. -/
def State.keyRead (s : State) (half : Nat) : State :=
  (bitList (s.get .SEC_FUSE_OWN_ENR) 4).foldl (fun s k =>
    if sha3 (KMap.get s.sec.ownKey k []) = KMap.get s.sec.ownDig k [] then s
    else s.log' (rotSrc half) 0xa003 2 [(1, 2 * half), (1, k)]) s

/-! ### Cold reset (R437, R438) -/

/-- A cold reset: what fuses, boot stores and the fibre-attach blocks hold is left. The strap is SEAL_PREF as it is sampled (R409) (DEDUCED, log entry 49). -/
def State.coldReset (s : State) (strap : Nat) : State :=
  let x := s.sec
  let n : State := { State.cold { s.ident with sealPref := strap % 2 } with
    sec := { SecSt.init with venDig := x.venDig, ownDig := x.ownDig, idSeed := x.idSeed, slots := x.slots, ownKey := x.ownKey, cert := x.cert }
    fab := { FabSt.init with unlatched := s.fab.unlatched }
    out := s.out, free := s.free, pending := s.pending }
  n.roots.foldl (fun s h => s.keyRead h) n.newChallenge

/-- RESET_COLD (R437): power-on, or deassertion of PERST_N (DEDUCED, log entry 49). -/
def execResetCold (strap : Nat) (s : State) : Res := .next (s.coldReset strap)

/-- PERST_N_ASSERT (R515): a cold reset, whatever is in progress (DEDUCED, log entry 49). -/
def execPerstNAssert (s : State) : Res := .next (s.coldReset s.ident.sealPref)

/-! ### Warm reset (R437, R438, R444, R446) -/

/-- The descriptors of the queue table that read ENABLED = 1, by the cells that hold that bit: each reads ENABLED, ARMED and FLUSH_PEND 0 (R308). -/
def State.queWarm (s : State) : State :=
  match s.qTable with
  | none => s
  | some r =>
    let img := s.ledgerCarve
    let qs := s.mem.filterMap fun c =>
      if c.1 < 2 ^ 44 ∧ bit c.2.toNat 7 then
        match s.daOf img (c.1 / 2 ^ 40) (c.1 % 2 ^ 40) with
        | some da => if r.base ≤ da ∧ da < r.base + r.len ∧ (da - r.base) % 64 = 7 then some ((da - r.base) / 64) else none
        | none => none
      else none
    qs.foldl (fun s q => match s.qFind q with
      | .desc v => if qEnabled v then s.qPut q (putBit (putBit (putBit v 63 false) 62 false) 61 false) else s
      | _ => s) s

/-- An update engine's state that a warm reset, or a reset of its die, keeps until it rolls forward (R286, R289): the journal records that have
passed their commit point. -/
def UpdSt.held (x : UpdSt) : UpdSt :=
  { UpdSt.init with recs := x.recs.filter (fun r => r.state == 2 || r.state == 3)
                    copy := x.copy, lock := x.lock, step := x.step, doneStep := x.doneStep, ended := x.ended, stop := true }

/-- The test request that a warm reset meets ends ABANDONED (R446). -/
def State.testWarm (s old : State) : State :=
  match old.rst.test with
  | some (_, t) => (((s.set .RST_TEST_RES_DONE 1).set .RST_TEST_RES_STATUS 4).set .RST_TEST_RES_TARGET t)
  | none => s

/-- What a warm reset leaves of the state, before its registers are set (DEDUCED, log entry 49). -/
def State.warmBase (s : State) : State :=
  let x := s.sec
  { State.cold s.ident with
    flds := s.flds.filter fun e => keptWarm e.1.f
    mem := s.mem.filter fun c => decide (c.1 < 2 ^ 44)
    poison := s.poison.filter fun b => decide (b < 2 ^ 44)
    beat := { BeatSt.init with
      coldNs := s.beat.coldNs, started := s.beat.started, since := s.now, everFrame := s.beat.everFrame
      lastBeat := s.beat.lastBeat, lastWall := s.beat.lastWall }
    log := s.log, steer := s.steer, steerPol := s.steerPol
    upd := s.upd.map fun e => (e.1, e.2.held)
    fab := { FabSt.init with unlatched := s.fab.unlatched }
    esc := { EscSt.init with reread := true, areaKey := s.esc.areaKey }
    stook := s.stook.map fun e => (e.1, { StookSt.init with dir := e.2.dir, key := e.2.key, resetSince := true })
    kv := { KvSt.init with resetSince := true }
    stw := { SealSt.init with origin := s.beat.coldNs }
    hst := s.hst
    sec := { SecSt.init with venDig := x.venDig, ownDig := x.ownDig, idSeed := x.idSeed, slots := x.slots, ownKey := x.ownKey, cert := x.cert }
    clk := { ClkSt.init with stopped := s.get .CLK_STATUS_FALLBACK == 1, fallBeat := s.clk.fallBeat, enteredAt := s.now }
    out := s.out, free := s.free, pending := s.pending }

/-- A function-level reset of a link (R399, R401): it is counted, and its function's BARs take their reset values (PRESUMED, log entry 42). -/
def State.flr (s : State) (link : Nat) : State :=
  let s := if link = 0 then s.bump .HST_LINKA_FLR_COUNT else s.bump .HST_LINKB_FLR_COUNT
  { s with hst := ⟨s.hst.bars.filter fun e => e.1.1 != link, KMap.erase s.hst.bar2 link⟩ }

/-- A warm reset with its cause: 1 or 2 a function-level reset on link A or B, 3 RST_CTL or firmware (DEDUCED, log entry 49). -/
def State.warmReset (s : State) (cause : Nat) : State :=
  let s := s.queWarm
  let s := (List.range s.ident.engines).foldl (fun s e => s.vceReset e) s
  let s := if s.get .ESC_STATUS_OPEN = 1 ∨ s.esc.filling.isSome then s.escDiscard else s
  let n := s.warmBase
  let n := (List.range n.ident.dies).foldl (fun n ld =>
    if s.get .LDG_STATUS_STATE ld = 5 then n.set .LDG_STATUS_STATE 5 ld else n.set .LDG_STATUS_STATE 3 ld) n
  let n := if cause = 1 ∨ cause = 2 then n.flr (cause - 1) else n
  let n := ((n.set .RST_STATUS_STAGE 1).set .RST_STATUS_CAUSE cause).set .RST_STATUS_LAST_KIND 1
  let n := ((n.bumpSat .RST_COUNT_WARM).testWarm s).newChallenge
  let e : Entry := ⟨s.now, s.get .BEAT_WALL_WALL, s.rstSrc, 0xb001, 1, 0, resetPayload 1 cause 0⟩
  let n := if n.log.started then n.logWrite e else n.mapLog fun g => { g with intake := g.intake ++ [(0, e)] }
  n.roots.foldl (fun s h => s.keyRead h) n

/-- RESET_WARM (R437, R444). -/
def execResetWarm (cause : Nat) (s : State) : Res :=
  .next (s.warmReset (if cause = 1 then 1 else if cause = 2 ∧ s.ident.member = .a8 then 2 else 3))

/-! ### Core reset (R439) -/

/-- A convolution of which a stripe's core is reset ends (R228): the other stripes are refused. -/
def State.winReset (s : State) (clu : Nat) (cores : List Nat) (cause : Nat) : State :=
  let mine (e : Nat × Nat × Desc) : Bool := cores.contains e.2.1
  let x := s.winSt clu
  let s :=
    if x.gather.any mine then
      let s := (s.setWin clu { x with gather := [] }).winDrop clu (x.gather.filter fun e => !mine e)
      s.winAbortEv clu cause (stripeMask x.gather) 0
    else s
  let x := s.winSt clu
  if x.run.any mine then
    let left := x.run.filter fun e => !bit (s.get .WIN_STATUS_DONE clu) e.1
    let s := (s.setWin clu { WinSt.init with gather := x.gather }).winDrop clu (left.filter fun e => !mine e)
    ((s.winAbortEv clu cause (stripeMask left) x.lastRow).winStart clu).syncWin clu
  else s.syncWin clu

/-- Gathers and gleans of cores are abandoned, and their epochs drop at once (R247). -/
def State.kvAbandon (s : State) (clu : Nat) (cores : List Nat) : State :=
  let x := s.kvwSt clu
  let keep (j : Option KvJob) : Option KvJob := j.filter fun j => !cores.contains j.core
  (s.setKvw clu { x with gather := keep x.gather, glean := keep x.glean }).syncKvw clu

/-- Husk descriptors of cores are abandoned (R210): an entry in state 1 is emptied and its chunks return; one that was being decoded stays. -/
def State.huskAbandon (s : State) (ld : Nat) (cores : List Nat) : State :=
  let x := s.stk ld
  let mine := x.runs.filter fun q => cores.contains q.core
  let reads := x.reads.filter fun q => cores.contains q.1
  let s := s.setStk ld { x with
    runs := x.runs.filter fun q => !cores.contains q.core
    line := x.line.filter fun q => !cores.contains q.1
    reads := x.reads.filter fun q => !cores.contains q.1 }
  match stookOf (s.bank (unitLedger ld)) ld with
  | none => s
  | some (_, r) =>
    let s := mine.foldl (fun s q => s.dirFree ld r (slotOf q.mb q.block)) s
    let s := reads.foldl (fun s q =>
      let slot := slotOf (descMb q.2.1) (hskBlock q.2.1)
      let s := s.dirPut r slot { s.dirGet r slot with state := if q.2.2 then 3 else 2 }
      if q.2.2 then s.shift .HSK_STATUS_DROPPED ld 1 0 else s.shift .HSK_STATUS_STORED ld 1 0) s
    let s := s.syncReserved ld
    if mine = [] then s else s.log' (srcLedger ld 1) 0xd102 1 [(1, ld), (4, mine.length), (1, 2)]

/-- Packets in progress of readers that are reset end as R155 does for a refusal: the hub discards what is left of them (R308)
(DEDUCED, log entry 51). -/
def State.hubDiscard (s : State) (reader : QD → Bool) : State :=
  s.que.on.foldl (fun s q => match s.qFind q with
    | .desc v => if reader v then (s.qEndPacket q v).1 else s
    | _ => s) s

/-- Whether a queue's reader is a tidy core of a list. -/
def State.readerIn (s : State) (cores : List Nat) (v : QD) : Bool :=
  qReaderKind v == 0 && (match s.physCore (qReader v) with | some c => cores.contains c | none => false)

/-- Cores of one die are reset (R124, R135, R439): their MXE, VEC and TDY blocks, tiles and descriptors. What they have issued to an update
engine or to a hub's collective unit runs on there. cause is that of EV_WIN_ABORT (DEDUCED, log entry 51). -/
def State.coresReset (s : State) (die : Nat) (cores : List Nat) (cause : Nat) : State :=
  let clus := (cores.map coreClu).eraseDups
  let s := clus.foldl (fun s clu => (s.winReset clu cores cause).kvAbandon clu cores) s
  let s := (s.huskAbandon die cores).hubDiscard (s.readerIn cores)
  let s : State := cores.foldl (fun s c =>
    ({ s with mem := Mem.zero s.mem (coreLoc c 0x400000) 0x80000 } : State).unpoison (coreLoc c 0x400000) 0x80000) s
  let s := [Block.MXE, .VEC, .TDY].foldl (fun s b => s.regsReset b cores.contains) s
  let s := cores.foldl (fun s c =>
    let x := s.core c
    (s.setCore c { CoreSt.init with
      held := x.held.filter fun h => h.kind == kUpd || h.kind == kColl
      accWait := x.accWait, halted := x.halted }).drainAcc c) s
  (s.syncHusk die).clearDue die

/-- A core reset. An ID that names no core resets nothing (DEDUCED, log entry 51). -/
def State.coreReset (s : State) (core : Nat) : State :=
  if s.coreOk core then
    ((((s.bump .RST_COUNT_CORE).resetEv 3 3 core).bistAbandon (coreClu core)).coresReset (coreDie core) [core] 0)
  else s

/-- RESET_CORE (R439). -/
def execResetCore (core : Nat) (s : State) : Res := .next (s.coreReset core)

/-! ### Die reset (R440) -/

/-- Whether a die index names a die that a die reset accepts: a compute, ledger or hub die that is present (DEDUCED, log entry 51). -/
def State.mayReset (s : State) (die : Nat) : Bool :=
  (decide (die < 8) && s.dieOk die) || (within 24 die 31 && s.dieOk (die - 24)) || (within 32 die 35 && s.hubOk (die - 32))

/-- The image units of a compute or ledger die (R28). -/
def dieUnits (die : Nat) : List Nat :=
  if die < 8 then (List.range 13).map (13 * die + ·) ++ [unitDie die] else if die < 32 then [unitLedger (die - 24)] else []

/-- What a die reset does to a change of mode (R50). Units that are fenced at a switch cease to be so (DESIGN CHOICE, log entry 58). In PREPARED
and COMMITTING the die's units lose both banks; the active ones go when the die rejoins. -/
def State.strDieReset (s : State) (die : Nat) : State :=
  let us := dieUnits die
  if us = [] then s
  else
    let lost := s.get .STR_STATUS_STATE == 2 || s.get .STR_STATUS_STATE == 3
    let s := if s.get .STR_STATUS_STATE = 1 then s.strRefuse (s.get .STR_EPOCH_PENDING) 0x0e (us.headD 0) 0 0 else s
    let s := us.foldl (fun s u => s.setArmed u false) s
    (s.mapStr fun x => { x with
      pendingBank := x.pendingBank.filter fun e => !us.contains e.1
      oldBank := x.oldBank.filter fun e => !us.contains e.1
      fenced := x.fenced.filter fun u => !us.contains u
      banksLost := (if lost then [die] else []) ++ x.banksLost.filter (· != die) }).syncMissing.strDone

/-- A compute die and its two granary dies. -/
def State.computeReset (s : State) (d : Nat) : State :=
  let cores := (List.range 104).map (128 * d + ·)
  let clus := (List.range 13).map (16 * d + ·)
  let s := clus.foldl (fun s clu => s.bistAbandon clu) s
  let s := s.coresReset d cores 1
  let s := clus.foldl (fun s clu =>
    ({ s with win := KMap.erase s.win clu, kvw := KMap.erase s.kvw clu } : State).zeroClu clu) s
  let s := ({ s with mem := Mem.zero s.mem (granLoc d 0) 0x80000000 } : State).unpoison (granLoc d 0) 0x80000000
  let s := { s with
    dies := KMap.erase s.dies d
    clk := { s.clk with
      q1 := s.clk.q1.filter fun c => c / 16 != d
      waitAcc := s.clk.waitAcc.filter fun a => match a.who with | .tidy c => coreDie c != d | _ => true } }
  let s := s.regsReset .DCTL (· == d)
  ([Block.WIN, .KVW, .GLN].foldl (fun s b => s.regsReset b clus.contains) s).bopAcks

/-- The manager's ledger die is reset (R247): its pool is invalid, and the operations that it holds fail. -/
def State.kvReset (s : State) : State :=
  let cur := match s.kv.cur with | some w => [w.op] | none => []
  let s : State := { s with kv := { s.kv with valid := false, resetSince := true, taken := true, cur := none, ops := cur ++ s.kv.ops } }
  (s.setPoolBits false).bopGo

/-- A ledger die: its devices go into self-refresh (DEDUCED, log entry 51). -/
def State.ledgerReset (s : State) (n : Nat) : State :=
  let cores := (List.range 104).map (128 * n + ·)
  let s := cores.foldl (fun s c =>
    if (s.heldOf c kHsk).isEmpty then s
    else (s.setCore c { s.core c with held := (s.core c).held.filter fun h => h.kind != kHsk }).unstall c) s
  let s := s.setStk n { s.stk n with runs := [], line := [], reads := [], fwd := [], clearing := none, resetSince := true }
  let x := s.updOf n
  let s := s.updForget (x.queue ++ (x.recs.filter fun r => r.state != 2 && r.state != 3).map (·.item))
  let s := if n = 0 then s.kvReset else s
  let s := if s.get .ESC_STATUS_OPEN = 1 ∨ s.esc.filling.isSome then s.escDiscard else s
  let s := s.setCal (s.rst.cal.filter fun c => c.1 / 3 != n)
  let s := s.hubDiscard fun v => qReaderKind v == 2 && qReader v == n
  let typ := s.get .LDG_STATUS_DEV_TYPE n
  let s := [Block.LDG, .HSK, .UPD].foldl (fun s b => s.regsReset b (· == n)) s
  ((s.set .LDG_STATUS_DEV_TYPE typ n).set .LDG_STATUS_STATE 3 n).setUpd n x.held

/-- The steward side of a hub: HD0 or HD2 of a half. Its link goes down, its root and its Bursar start again, and what it held of the seal
goes, unless no other half could take it (R410, R465). -/
def State.stewardReset (s : State) (half : Nat) : State :=
  let s := if s.linkUp half then s.hostLink half false 0 0 false else s
  let s := s.mapRst fun r => { r with
    verified := r.verified.filter (· != half), booted := r.booted.filter (· != half), loaded := KMap.erase r.loaded half }
  let s := (s.setComplex half 0).mapSec fun x => { x with
    meas := KMap.erase (KMap.erase x.meas (0, half)) (1, half) }
  let s := if s.ident.member = .a8 then (s.setMeas 2 half (s.meas 2 (1 - half))).setMeas 3 half (s.meas 3 (1 - half)) else s
  let s := (s.keyRead half).hubDiscard fun v => qReaderKind v == 1 && qReader v % 2 == half
  if s.ident.member = .a8 then
    let s := if s.stw.offer.isSome then (s.setOffer none).set .STW_SEAL_STATE 0 else s
    s.mapSeal fun x => { x with holds := x.holds.filter fun h => h.1 != half }
  else s

/-- The fabric side of a hub: its queue cache is written back, its ports go down, and its management port with them (R293, R336, R438). -/
def State.fabricReset (s : State) (h : Nat) : State :=
  let s := { s with que := { s.que with cache := KMap.erase s.que.cache h } }
  let s := ((List.range s.ident.ports).filter fun p => s.portHub p == h).foldl (fun s p => s.portDown p 0) s
  if h = 3 then (s.set .MGT_STATUS_LINK_B 0).set .MGT_STATUS_PTP_B 0 else (s.set .MGT_STATUS_LINK_A 0).set .MGT_STATUS_PTP_A 0

/-- A hub die: its engines' streams end (R396), and its functions follow (DEDUCED, log entry 51). -/
def State.hubReset (s : State) (h : Nat) : State :=
  let es := (List.range s.ident.engines).filter fun e => e / 2 == h
  let s := es.foldl (fun s e => s.vceReset e) s
  let s := (s.regsReset .VCE es.contains).hubDiscard fun v => qReaderKind v == 3 && es.contains (qReader v)
  let s := es.foldl (fun s e => s.setVce e VceSt.init) s
  let s := if h % 2 = 0 then s.stewardReset (h / 2) else s
  if h % 2 = 1 ∨ s.ident.member = .a2 then s.fabricReset h else s

/-- A die reset; one that names a granary die, an optical engine or an absent die is refused (DEDUCED, log entry 51). -/
def State.dieReset (s : State) (die : Nat) : State :=
  if !s.mayReset die then s
  else
    let s := ((s.bump .RST_COUNT_DIE).resetEv 2 3 die).strDieReset die
    let s := s.mapRst fun r => { r with inReset := die :: r.inReset.filter (· != die) }
    if die < 8 then s.computeReset die
    else if die < 32 then s.ledgerReset (die - 24)
    else s.hubReset (die - 32)

/-- RESET_DIE (R440). -/
def execResetDie (die : Nat) (s : State) : Res := .next (s.dieReset die)

/-! ### Clusters that fail a start-up test (R442) -/

/-- A cluster fails: it is fenced; the spare takes its place, or with a second one the die has no spare. -/
def State.startLost (s : State) (clu : Nat) : State :=
  let d := clu / 16
  let l := s.logClu d (clu % 16)
  let sp := s.get .DCTL_CLMAP_SPARE d
  let s := s.setBit .DCTL_CLSTAT_LOST (clu % 16) true d
  match popCount (s.get .DCTL_CLSTAT_LOST d) 13 with
  | 1 =>
    let s := match l with | some l => s.setLog d l (if sp < 13 then sp else 15) | none => s
    (s.set .DCTL_CLMAP_SPARE 15 d).set .DCTL_CLSTAT_STATE 1 d
  | 2 => s.putMap d (s.variantMap d) 15 2
  | _ => s.set .DCTL_CLSTAT_STATE 3 d

/-- The clusters of a die that its tests at start-up lose (DEDUCED, log entry 50). -/
def State.startLosses (s : State) (d mask : Nat) : State :=
  (bitList mask 13).foldl (fun s p => if s.lost (16 * d + p) then s else s.startLost (16 * d + p)) s

/-! ### The end of a die reset (R50, R440) -/

/-- The active banks of a die's units are loaded again from the last committed image, once its digest matches; answers whether they were. Units
whose banks were lost in a change of mode have none until an image commits. -/
def State.strReload (s : State) (die : Nat) : State × Bool :=
  let us := dieUnits die
  let v := (s.bank (unitHub 0)).variant
  let act := (List.range 4).flatMap fun i => leBytes 8 (s.get .STR_ACTIVE_DIGEST_DIGEST 0 i)
  let gone := s.mapStr fun x => { x with active := x.active.filter fun e => !us.contains e.1 }
  let e := s.get .STR_EPOCH_ACTIVE
  if us = [] then (s, true)
  else if e = 0 ∨ s.str.banksLost.contains die then
    (gone.mapStr fun x => { x with banksLost := x.banksLost.filter (· != die) }, true)
  else
    match s.strRead s.str.lastAddr s.str.lastLen with
    | some b =>
      if field b 0x14 4 = s.str.lastLen ∧ sha3 (b.take (s.str.lastLen - 2420)) = act then
        let m := imgSecs b
        let img (u : Nat) : Image :=
          ⟨e, v, slice b 0x20 16, (Secs.variant (s.unitPart m u) v).filter fun x => (s.ident.unitSecs u).contains x.1⟩
        (s.mapStr fun x => { x with active := us.foldl (fun m u => KMap.set m u (img u)) x.active }, true)
      else (gone, false)
    | none => (gone, false)

/-- A die rejoins (DEDUCED, log entry 51). -/
def State.rejoin (s : State) (die : Nat) : State := s.mapRst fun r => { r with inReset := r.inReset.filter (· != die) }

/-- A compute die rejoins: its die map follows the image and the losses of its test; its caches fill from the table and its walkers learn of
the pool (R26, R107, R235). -/
def State.computeBack (s : State) (d : Nat) : State :=
  let s := s.applyMap d
  let s := if s.get .DCTL_CLSTAT_STATE d = 3 then
      let s := s.cluEv (16 * d + (bitList (s.get .DCTL_CLSTAT_LOST d) 13).getLastD 0) 0xb014 3
      ({ s with clk := { s.clk with stopped := true } } : State).failDevice
    else s
  let s := ((List.range 13).map (16 * d + ·)).foldl (fun s clu => s.set .KVW_STATUS_POOL (b2n s.kv.valid) clu) s
  (s.steer.filter fun e => e.1.1 == d).foldl (fun s e =>
    let r := e.1.2
    let x := e.2
    let s := ((s.set .DCTL_STEER_ENT_FMT x.act.fmt d (2 * r)).set .DCTL_STEER_ENT_COARSE x.act.coarse d (2 * r)).set
      .DCTL_STEER_ENT_FMT x.grad.fmt d (2 * r + 1) |>.set .DCTL_STEER_ENT_COARSE x.grad.coarse d (2 * r + 1)
    let s := s.set .DCTL_STEER_STAT_LAST_STEP x.lastStep d
    s.setDie d { s.die d with cache := KMap.set (s.die d).cache r ⟨x.lastStep, x.updated⟩ }) s

/-- A ledger die rejoins: it has calibrated, rolls its journal forward, and its stook is empty (R187, R209, R210, R286). fails is a mask of
channels whose calibration failed. -/
def State.ledgerBack (s : State) (n fails : Nat) : State :=
  let s := (((s.calAll n fails).updReset n).stookSwitch n).stookCommit n
  (s.setStk n { s.stk n with resetSince := true }).accResume

/-- A die reset ends: lost is the mask of the clusters that failed a compute die's test, fails that of the channels that failed a ledger die's
calibration. A hub with a steward complex rejoins once its Bursar has booted. -/
def State.dieBack (s : State) (die lost fails : Nat) : State :=
  if !s.rst.inReset.contains die ∨ (dieUnits die).any s.str.fenced.contains then s
  else if 32 ≤ die ∧ die % 2 = 0 ∧ !s.rst.booted.contains ((die - 32) / 2) then s
  else
    let s := if die < 8 then s.startLosses die lost else s
    match s.strReload die with
    | (s, false) =>
      (s.mapStr fun x => { x with fenced := dieUnits die ++ x.fenced }).log' s.strSrc 0x7007 2 [(4, s.get .STR_EPOCH_ACTIVE), (1, die)]
    | (s, true) =>
      let s := s.rejoin die
      if die < 8 then s.computeBack die else if die < 32 then s.ledgerBack (die - 24) fails else s.startPorts

/-- DIE_RESET_COMPLETE (R440). -/
def execDieResetComplete (die lost fails : Nat) (s : State) : Res := .next (s.dieBack die lost fails)

/-! ### Start-up (R441 to R445) -/

/-- The start-up test begins once a Bursar has booted and LPDDR6 is ready (DEDUCED, log entry 50). -/
def State.stageStep (s : State) : State :=
  if s.get .RST_STATUS_STAGE = 3 ∧ s.rst.lpOk ∧ s.rst.booted ≠ [] then s.set .RST_STATUS_STAGE 4 else s

/-- BOOT_ROM_LOAD (R441, R443): a half's boot ROM reads slot A, and slot B once slot A has failed. -/
def execBootRomLoad (half : Nat) (s : State) : Res :=
  onUnit (s.monitorOk half) (.next (
    let go (slot : Nat) : State :=
      let s := (s.mapRst fun r => { r with loaded := KMap.set r.loaded half slot }).setComplex half 1
      if s.get .RST_STATUS_STAGE = 1 then s.set .RST_STATUS_STAGE 2 else s
    if s.get .RST_STATUS_STAGE = 0 ∨ s.get .RST_STATUS_STAGE = 6 then s
    else
      match KMap.get? s.rst.loaded half with
      | none => go 0
      | some 2 => go 1
      | some _ => s))

/-- BURSAR_BOOTED (R404): Bursar of a half runs, in charge where the half holds the seal. -/
def execBursarBooted (half : Nat) (s : State) : Res :=
  onUnit (s.monitorOk half) (.next (
    if s.rst.verified.contains half ∧ !s.rst.booted.contains half then
      let s := s.mapRst fun r => { r with booted := half :: r.booted }
      let s := (s.setComplex half 3).syncComplex
      (if s.get .RST_STATUS_READY = 0 ∧ s.get .RST_BOOT_BURSAR_MS = 0 then s.set .RST_BOOT_BURSAR_MS s.bootMs else s).stageStep
    else s))

/-- LPDDR6 becomes usable (R441, R444): after a cold reset every block is written with zeros; after a warm reset the devices leave self-refresh,
calibrate, and the journals roll forward. fails gives a mask of channels whose calibration fails, by ledger die (DEDUCED, log entry 50). -/
def State.lpReady (s : State) (fails : List Nat) : State :=
  let lds := List.range s.ident.dies
  let warm := s.get .RST_STATUS_LAST_KIND == 1
  if s.rst.lpOk ∨ s.get .RST_STATUS_STAGE = 6 ∨ s.get .RST_STATUS_STAGE = 0 ∨ lds.any fun ld => s.get .LDG_STATUS_STATE ld != (if warm then 3 else 1) then s
  else
    let s :=
      if warm then lds.foldl (fun s ld => (s.calAll ld (fails.getD ld 0)).updReset ld) s
      else
        let s : State := { s with mem := s.mem.filter fun c => decide (2 ^ 44 ≤ c.1), poison := s.poison.filter fun b => decide (2 ^ 44 ≤ b) }
        lds.foldl (fun s ld => s.set .LDG_STATUS_STATE 2 ld) s
    let s := (s.mapRst fun r => { r with lpOk := true }).set .RST_BOOT_LP_MS s.bootMs
    s.stageStep.accResume

/-- LPDDR6_INIT_COMPLETE (R441, R444). -/
def execLpddr6InitComplete (fails : List Nat) (s : State) : Res := .next (s.lpReady fails)

/-- The start-up test ends (R442): lost gives a mask of failed clusters by compute die, bad the other units that failed, as sources (DEDUCED, log entry 50). -/
def State.startTest (s : State) (lost bad : List Nat) : State :=
  if s.get .RST_STATUS_STAGE ≠ 4 ∨ s.rst.tested then s
  else
    let ds := List.range s.ident.dies
    let s := ds.foldl (fun s d => s.startLosses d (lost.getD d 0)) s
    let dead := ds.find? fun d => s.get .DCTL_CLSTAT_STATE d == 3
    let sev := if bad ≠ [] ∨ dead.isSome then 3 else if ds.any fun d => s.get .DCTL_CLSTAT_LOST d != 0 then 2 else 0
    let s := (s.mapRst fun r => { r with tested := true }).log' s.rstSrc 0xb005 sev
      ((ds.map fun d => (2, s.get .DCTL_CLSTAT_LOST d)) ++ bad.map fun u => (4, u))
    if sev = 3 then s.startFail (bad.headD (srcDie (dead.getD 0) 0)) 0 else s

/-- STARTUP_TEST_COMPLETE (R442). -/
def execStartupTestComplete (lost bad : List Nat) (s : State) : Res := .next (s.startTest lost bad)

/-- PART_READY (R441, R445): the in-charge Bursar sets READY (DEDUCED, log entry 50). -/
def execPartReady (s : State) : Res :=
  .next (
    if s.get .RST_STATUS_STAGE = 4 ∧ s.rst.tested ∧ (s.complex 0 = 4 ∨ s.complex 1 = 4) then
      let s := ((s.set .RST_STATUS_READY 1).set .RST_STATUS_STAGE 5).set .RST_BOOT_READY_MS s.bootMs
      (s.log' s.rstSrc 0xb002 0 [(2, s.get .RST_BOOT_FW_MS), (2, s.get .RST_BOOT_LP_MS), (2, s.get .RST_BOOT_BURSAR_MS),
        (2, s.get .RST_BOOT_READY_MS)]).irq 0
    else s)

/-! ### Tests during work (R447 to R450) -/

/-- A request is refused with a status, and logged. -/
def State.testRefuse (s : State) (kind target st : Nat) : State :=
  (((s.set .RST_TEST_RES_TARGET target).testEnd st)).log' s.rstSrc 0xb052 1 [(1, kind), (2, target), (1, st)]

/-- A request is taken: it runs, or waits (DEDUCED, log entry 53). -/
def State.testTake (s : State) (kind target : Nat) (runs : Bool) : State :=
  let s := s.mapRst fun r => { r with
    test := some (kind, target), running := runs, since := s.beat.coldNs, deferred := false
    calWait := if kind = 2 then some target else none }
  (((s.set .RST_TEST_RES_DONE 0).set .RST_TEST_RES_PENDING (b2n (!runs))).set .RST_TEST_RES_STATUS 0).set .RST_TEST_RES_TARGET target

/-- A request is given while none is outstanding (R447). -/
def State.testWrite (s : State) (f : State → State) : State :=
  if s.rst.test.isSome then s.set .RST_TEST_RES_STATUS 8 else f s

/-- Logic BIST of a physical cluster (DEDUCED, log entry 53). -/
def State.testBist (s : State) (target : Nat) : State :=
  s.testWrite fun s =>
    let die := bits target 7 4
    let clu := 16 * die + bits target 3 0
    if 256 ≤ target ∨ !s.cluOk clu then s.testRefuse 1 target 3
    else if (s.get .DCTL_CLMAP_SPARE die ≠ clu % 16 ∧ !s.lost clu) ∨ (s.die die).rot.isSome ∨ s.rst.inReset.contains die then s.testRefuse 1 target 2
    else s.testTake 1 target true

/-- Calibration of one device: in the next window that names it, or within 1 ms under the reset structure. -/
def State.testCal (s : State) (target : Nat) : State :=
  s.testWrite fun s =>
    let ld := target / 3
    let t := (s.bank (unitLedger ld)).sec 10
    if 3 * s.ident.dies ≤ target then s.testRefuse 2 target 3
    else if t ≠ [] ∧ !((tplSlots t).any fun x => x.kind == 3 && x.target == 24 + ld && bit x.param (target % 3)) then s.testRefuse 2 target 6
    else s.testTake 2 target false

/-- The device that would be left without a TC0 route with a port down (R448) (DEDUCED, log entry 53). -/
def State.routeLost (s : State) (p : Nat) : Option Nat :=
  let other (m : Nat) : Bool := (bitList m s.ident.ports).any fun q => q != p && s.portUp q
  let dflt := pmDefaultPorts s.peerMap
  match s.peers.find? fun e => bit e.ports p && !other e.ports with
  | some e => some e.dev
  | none =>
    let far := ((s.timeCands ++ (pmGroups s.peerMap).flatMap (·.members)).filter fun d => d != s.ownId && !(s.peers.any fun e => e.dev == d))
    if bit dflt p ∧ !other dflt then far.head? else none

/-- A recalibration starts: the port goes down. -/
def State.recalStart (s : State) (p : Nat) : State :=
  let s := if s.get .FAB_PORT_STATE 0 p = 5 then s else s.portDown p 1
  (s.mapRst fun r => { r with running := true }).set .RST_TEST_RES_PENDING 0 |>.set .RST_TEST_RES_STATUS 0

/-- The deferred recalibration starts once no route condition is left (R448) (DEDUCED, log entry 53). -/
def State.recalCheck (s : State) : State :=
  match s.rst.test with
  | some (3, p) => if s.rst.running ∨ (s.routeLost p).isSome then s else s.recalStart p
  | _ => s

/-- Optical recalibration of one port. -/
def State.testRecal (s : State) (target : Nat) : State :=
  s.testWrite fun s =>
    if s.ident.ports ≤ target then s.testRefuse 3 target 3
    else
      let s := s.testTake 3 target false
      match s.routeLost target with
      | none => s.recalStart target
      | some d => ((s.mapRst fun r => { r with deferred := true }).set .RST_TEST_RES_STATUS 5).log' s.rstSrc 0xb053 0 [(1, target), (2, d)]

/-- CANCEL ends a request that waits or is deferred (DEDUCED, log entry 53). -/
def State.testCancel (s : State) : State := if s.rst.test.isSome ∧ !s.rst.running then s.testEnd 7 else s

/-- TEST_LOGIC_BIST (R447). -/
def execTestLogicBist (_by : Agent) (target : Nat) (s : State) : Res := .next (s.testBist (target % 65536))
/-- TEST_LPDDR6_CAL (R447). -/
def execTestLpddr6Cal (_by : Agent) (target : Nat) (s : State) : Res := .next (s.testCal (target % 65536))
/-- TEST_OPTICAL_RECAL (R447, R448). -/
def execTestOpticalRecal (_by : Agent) (target : Nat) (s : State) : Res := .next (s.testRecal (target % 65536))
/-- TEST_CANCEL (R448). -/
def execTestCancel (_by : Agent) (s : State) : Res := .next s.testCancel
/-- OPTICAL_RECAL_START (R448). -/
def execOpticalRecalStart (s : State) : Res := .next s.recalCheck

/-- A running test ends (R449): a spare that fails its BIST is lost; a port that has recalibrated trains. -/
def State.testDone (s : State) (fail : Option Nat) : State :=
  match s.rst.test with
  | none => s
  | some (k, t) =>
    if !s.rst.running ∨ (k = 2 ∧ s.rst.cal.any fun c => c.1 == t) then s
    else
      let ms := (s.beat.coldNs - s.rst.since) / 1000000
      let s := s.testEnd (b2n fail.isSome)
      let s :=
        if k = 1 ∧ fail.isSome ∧ !s.lost t then (s.fenceClu t).spareLost t
        else if k = 3 ∧ fail.isNone ∧ s.mayTrain t then s.set .FAB_PORT_STATE 1 0 t
        else s
      match fail with
      | none => s.log' s.rstSrc 0xb050 0 [(1, k), (2, t), (4, ms)]
      | some u => s.log' s.rstSrc 0xb051 1 [(1, k), (2, t), (1, u)]

/-- TEST_COMPLETE (R449): fail names the sub-unit that failed, if one did. -/
def execTestComplete (fail : Option Nat) (s : State) : Res := .next (s.testDone fail)

/-! ### Fibre-attach blocks (R514, R515) -/

/-- Whether an optical engine exists (R13). -/
def State.opticsOk (s : State) (m : Nat) : Bool := decide (m < s.ident.ports / 4)

/-- FIBRE_BLOCK_UNLATCH: the lasers of the block turn off, and its four ports go down. -/
def execFibreBlockUnlatch (block : Nat) (s : State) : Res :=
  onUnit (s.opticsOk block) (.next (
    let s : State := { s with fab := { s.fab with unlatched := block :: s.fab.unlatched.filter (· != block) } }
    ((List.range 4).map (4 * block + ·)).foldl (fun s p => if s.get .FAB_PORT_STATE 0 p = 5 then s else s.portDown p 0) s))

/-- FIBRE_BLOCK_LATCH: the ports stay down until a retrain or a recalibration. -/
def execFibreBlockLatch (block : Nat) (s : State) : Res :=
  onUnit (s.opticsOk block) (.next { s with fab := { s.fab with unlatched := s.fab.unlatched.filter (· != block) } })

/-! ### RST_CTL and RST_TEST_OP (R451) -/

/-- A write of RST_CTL: another key or kind does nothing. -/
def State.rstCtl (s : State) (val : Word) : State :=
  let v := val.toNat
  if bits v 31 16 ≠ 0xa55a then s
  else
    match bits v 63 60 with
    | 1 => s.warmReset 3
    | 2 => s.dieReset (bits v 5 0)
    | 3 => s.coreReset (bits v 15 6)
    | _ => s

/-- A write of RST_TEST_OP: CANCEL goes first; another kind does nothing. -/
def State.rstTest (s : State) (val : Word) : State :=
  let v := val.toNat
  if bit v 59 then s.testCancel
  else
    match bits v 63 60 with
    | 1 => s.testBist (bits v 15 0)
    | 2 => s.testCal (bits v 15 0)
    | 3 => s.testRecal (bits v 15 0)
    | _ => s

end Sys2Proof.Machine
end

