-- ==== Sys2Proof/Machine/Reg.lean ====
section
/-! DEFINITION. Register writes: the access rules (R2 to R5), who reaches which block (R488 to R490, R444), the register index (R492), and what
a write of each register does. -/
namespace Sys2Proof.Machine

/-! ### The register index (R492) -/

/-- Where a DA lies in register space: the block that is present there, the unit that it belongs to and the offset in it. -/
inductive RegPlace where
  | block (b : Block) (unit off : Nat)
  /-- A block without registers: a cluster's CLU block, of the cluster given. -/
  | none_ (clu : Nat)
  | msix (off : Nat)
  | absent
deriving DecidableEq, Repr

/-- A block below BAR0 offset 2^32, by its 64 KiB page. -/
def State.hubBlock (s : State) (page off : Nat) : RegPlace :=
  match page with
  | 0x0000 => .block .GLB 0 off
  | 0x0001 => .block .CLK 0 off
  | 0x0002 => .block .PWR 0 off
  | 0x0003 => .block .RST 0 off
  | 0x0004 => .block .BEAT 0 off
  | 0x0010 => .block .STR 0 off
  | 0x0020 => .block .SEC 0 off
  | 0x0030 => .block .LOG 0 off
  | 0x0040 => .block .HST 0 off
  | 0x0050 => .block .STW 0 off
  | 0x0060 => .block .MGT 0 off
  | 0x0080 => .msix off
  | 0x0100 => .block .QUE 0 off
  | 0x0200 => .block .FAB 0 off
  | 0x0300 => .block .ESC 0 off
  | p => if 0x0400 ≤ p ∧ p < 0x0400 + s.ident.engines then .block .VCE (p - 0x0400) off else .absent

/-- A block of a ledger die: its 16 MiB window holds LDG, UPD and HSK. -/
def State.ledgerBlock (s : State) (n page off : Nat) : RegPlace :=
  if !s.dieOk n then .absent
  else
    match page with
    | 0x00 => .block .LDG n off
    | 0x10 => .block .UPD n off
    | 0x20 => .block .HSK n off
    | _ => .absent

/-- A block of a compute die: DCTL, the blocks of each physical cluster, and those of its cores. -/
def State.dieBlock (s : State) (d page off : Nat) : RegPlace :=
  let c := page / 0x100
  let p := page % 0x100
  if !s.dieOk d then .absent
  else if c = 15 then (if p = 0 then .block .DCTL d off else .absent)
  else if 13 ≤ c then .absent
  else
    let clu := 16 * d + c
    let core := 8 * clu + p / 0x10
    match p with
    | 0xf0 => .none_ clu
    | 0xf1 => .block .WIN clu off
    | 0xf2 => .block .KVW clu off
    | 0xf3 => .block .GLN clu off
    | _ =>
      if 0x80 ≤ p then .absent
      else
        match p % 0x10 with
        | 0 => .block .MXE core off
        | 1 => .block .VEC core off
        | 2 => .block .TDY core off
        | _ => .absent

/-- The place of a register-space DA. -/
def State.regPlace (s : State) (da : Nat) : RegPlace :=
  let page := da / 0x10000
  let off := da % 0x10000
  if da < 0x7f100000000 then s.hubBlock (page % 0x10000) off
  else if da < 0x7f200000000 then s.ledgerBlock (page / 0x100 % 0x100) (page % 0x100) off
  else if da < 0x7f280000000 then s.dieBlock (page / 0x1000 % 8) (page % 0x1000) off
  else .absent

/-- The register at an offset of a block, with its number in an array. -/
def regAt (b : Block) (off : Nat) : Option (Reg × Nat) :=
  (b.regs.find? fun r => decide (r.row.off ≤ off ∧ off < r.row.off + 8 * r.row.count)).map fun r => (r, (off - r.row.off) / 8)

/-! ### Who reaches a block -/

/-- The die that a block belongs to (R490): its die index. -/
def State.blockDie (s : State) (b : Block) (u : Nat) : Nat :=
  match b with
  | .MXE | .VEC | .TDY => coreDie u
  | .WIN | .KVW | .GLN => u / 16
  | .DCTL => u
  | .LDG | .UPD | .HSK => 24 + u
  | .VCE => 32 + u / 2
  | _ => 32 + s.inCharge

/-- Whether the host may write a block before READY (R444); the writes of R445 complete too. -/
def earlyOk (b : Block) (off : Nat) : Bool :=
  [Block.GLB, .RST, .LOG, .HST].contains b || b == .STR && off == 0x10 || b == .QUE && off == 0 || b == .ESC && off == 0x40 ||
    b == .KVW && off == 0x18 || b == .SEC && off == 0x10

/-- The blocks that answer in every power state (R430). -/
def alwaysOn (b : Block) : Bool :=
  [Block.GLB, .CLK, .PWR, .RST, .BEAT, .STR, .SEC, .LOG, .HST, .STW, .MGT, .QUE].contains b

/-- Whether a requester may write a block (R488, R489); DCTL and BEAT a tidy core only reads. -/
def mayWrite (a : Agent) (b : Block) (u : Nat) : Bool :=
  match a with
  | .host _ | .steward => true
  | .tidy core =>
    match b with
    | .MXE | .VEC | .TDY => coreClu u == coreClu core
    | .WIN | .KVW | .GLN => u == coreClu core
    | _ => false
  | .unit _ _ => false

/-! ### What a write does -/

/-- A write of a register whose fields are stored, cleared or ignored by their access types (R3, R4, R5). An RWL field is stored until the
first commit, and from each prepare until the commit after it. -/
def State.plainWrite (s : State) (r : Reg) (u i v : Nat) : State :=
  r.row.fields.foldl (fun s f =>
    let w := bits v f.row.hi f.row.lo
    match f.row.acc with
    | .ro | .wo => s
    | .rw | .rws => s.set f w u i
    | .rwl => if !s.str.committedOnce || s.str.prepOpen then s.set f w u i else s
    | .w1c => s.set f (s.get f u i - (s.get f u i &&& w)) u i) s

/-- A write of BEAT_CFG: before the first commit a new source takes effect at once (R5, R54). -/
def State.beatCfgWrite (s : State) (v : Nat) : State :=
  let t := s.plainWrite .BEAT_CFG 0 0 v
  if !s.str.committedOnce ∧ t.beatSource ≠ s.beatSource then t.beatRole else t

/-- A write of QUE_OP (R305, R525). -/
def State.queWrite (s : State) (by_ : Agent) (v : Nat) : Res :=
  let q := bits v 19 0
  match bits v 63 60 with
  | 1 => execQueueEnable by_ q s
  | 2 => execQueueDisable by_ q (bit v 59) s
  | 3 => execQueueFlush by_ q (bits v 55 48) s
  | 4 => execQueueSetlevel by_ q s
  | 5 => execQueueQuery by_ q s
  | op => execQueueBadOp by_ op s

/-- A write of SEC_OP (R466); another code does nothing (DESIGN CHOICE, log entry 12). -/
def State.secWrite (s : State) (by_ : Agent) (v : Nat) : Res :=
  match bits v 63 60 with
  | 1 => execSecAttest by_ s
  | 2 => execSecStage by_ s
  | 3 => .next (s.secOp by_ fun s => s.secKey)
  | 4 => execSecAdvanceSvn by_ s
  | 5 => execSecCert by_ s
  | _ => .next (s.whenReady by_ 0x7f000200010 id)

/-- A write of STR_PREPARE (R37, R46): with both bits set, ABANDON goes first (DESIGN CHOICE, log entry 12). -/
def State.prepWrite (s : State) (by_ : Agent) (v : Nat) : State :=
  s.whenReady by_ 0x7f000100010 fun s =>
    let s := if bit v 1 then s.strAbandon else s
    if bit v 0 then s.strPrepare else s

/-- A write of a register by one who may write it (DEDUCED, log entry 11; DESIGN CHOICE, log entry 12). -/
def State.regWrite (s : State) (by_ : Agent) (r : Reg) (u i : Nat) (val : Word) : Res :=
  let v := val.toNat
  match r with
  | .BEAT_CFG => .next (s.beatCfgWrite v)
  | .STR_PREPARE => .next (s.prepWrite by_ v)
  | .STR_COMMIT => .next (if bit v 0 then s.strCommit val else s)
  | .QUE_OP => s.queWrite by_ v
  | .ESC_CTL => .next (s.escWrite by_ (bits v 63 60) (bits v 15 0))
  | .KVW_BOP => .next (s.bopWrite by_ u (bits v 63 60) (bits v 47 28) (bits v 27 0))
  | .KVW_CTL => .next (if bit v 0 then s.labFlush u else s)
  | .UPD_CTL => .next (if bit v 0 then s.updClear u else s)
  | .HSK_CTL => .next (if bit v 0 then s.hskClear u else s)
  | .WIN_CTL => .next (if bit v 0 then s.winEndGather u 4 else s)
  | .DCTL_FILL => .next (if bit v 0 then s.set .DCTL_CLSTAT_FILL 0 u else s)
  | .SEC_OP => s.secWrite by_ v
  | .RST_CTL => .next (s.rstCtl val)
  | .RST_TEST_OP => .next (s.rstTest val)
  | .CLK_GATE_OP =>
    .next (match bits v 63 62 with | 1 => s.gate (bits v 15 0) | 2 => s.ungate (bits v 15 0) | _ => s)
  | .CLK_DBG => .next (s.dbgWrite val)
  | .PWR_CAP => .next (s.capWrite val)
  | .PWR_LAT_TOL => .next (s.latWrite val)
  | .LOG_CURSOR => .next (s.cursorWrite val)
  | .GLB_IRQ_STATUS => .next (s.irqClear (bits v 11 0) 0)
  | .GLB_IRQ_EN => .next (s.irqEnable (bits v 11 0))
  | .GLB_IRQ_STW => .next (s.stwEnable (bits v 11 0))
  | .HST_SEAL_GRANT => .next (match by_ with | .host l => s.sealGrant l (bits v 0 0) none | _ => s)
  | .STW_SEAL_CTL =>
    .next (let s := if bit v 0 then s.sealOffer false else s
           if bit v 1 then s.sealAccept else s)
  | .FAB_PORT_CTL => .next ((s.portDisable (bits v 31 16)).retrainAll (bits v 15 0))
  | .FAB_LAYOUT => .next (s.layoutWrite val)
  | r => .next (s.plainWrite r u i v)

/-! ### Refusals -/

/-- An access that a die in reset, or an early host access, does not take: it completes as Unsupported Request, without an event (R444, R490) (DEDUCED, log entry 11). -/
def State.regRefuse (s : State) (a : Agent) : State := s.emit (.answer a false [])

/-- A tidy core whose access is refused discards the rest of its packet (R155, R489) (DEDUCED, log entry 11). -/
def State.tidyRefused (s : State) (core : Nat) : State :=
  let c := s.core core
  if c.inPacket ∧ c.dropping.isNone then
    s.dropPacket core ⟨c.seq, 0, s.get .TDY_QBIND_QID core c.bind, c.packetMb, c.pkt, s.now, 0⟩
  else s

/-- An access outside a requester's reach: EV_MEM_UNMAPPED (R488) (DEDUCED, log entry 11). -/
def State.regUnmapped (s : State) (a : Agent) (da : Nat) : State :=
  let s := (s.unmappedEv a da).regRefuse a
  match a with | .tidy core => s.tidyRefused core | _ => s

/-! ### The access -/

/-- Whether R2 discards an access: a write that is not a whole register, a read that is neither a whole one nor an aligned half. -/
def discarded (write : Bool) (off size : Nat) : Bool :=
  !(size == 8 && off % 8 == 0) && (write || !(size == 4 && off % 4 == 0))

/-- A host access to a block that does not answer in every power state wakes the part, and waits where the part is in Q2 to Q4 (R430). -/
def State.hostWait (s : State) (a : Agent) (b : Block) (da size : Nat) (val : Option Word) (f : State → Res) : Res :=
  match a with
  | .host _ =>
    if alwaysOn b then f s
    else if 2 ≤ s.get .PWR_STATE_CURRENT then
      .next (let s := s.wake 3
             { s with clk := { s.clk with waitReg := s.clk.waitReg ++ [(a, da, size, val)] } })
    else f (s.wake 3)
  | _ => f s

/-- Whether an access is the host's before READY. -/
def State.hostEarly (s : State) (a : Agent) : Bool :=
  match a with | .host _ => s.get .RST_STATUS_READY == 0 | _ => false

/-- A write at a place in register space (DEDUCED, log entry 11). -/
def State.regAccess (s : State) (a : Agent) (da size : Nat) (val : Word) : Res :=
  match s.regPlace da with
  | .absent => .next (s.regUnmapped a da)
  | .msix off =>
    match a with
    | .host l =>
      if s.hostEarly a then .next (s.regRefuse a)
      else .next (if size = 4 ∧ off % 4 = 0 then s.msixWrite l off val.toNat else s)
    | .steward => .next s
    | _ => .next (s.regUnmapped a da)
  | .none_ clu =>
    if s.rst.inReset.contains (clu / 16) then .next (s.regRefuse a)
    else match a with
      | .host _ => .next (if s.hostEarly a then s.regRefuse a else if discarded true (da % 65536) size then s else s.wake 3)
      | .steward => .next s
      | _ => .next (s.regUnmapped a da)
  | .block b u off =>
    if !mayWrite a b u then .next (s.regUnmapped a da)
    else if s.rst.inReset.contains (s.blockDie b u) then .next (s.regRefuse a)
    else if s.hostEarly a ∧ !earlyOk b off then .next (s.regRefuse a)
    else if discarded true off size then .next s
    else s.hostWait a b da size (some val) fun s =>
      match regAt b off with
      | some (r, i) => s.regWrite a r u i val
      | none => .next s

/-! ### Reads (R2 to R4) -/

/-- Whether a requester may read a block (R488, R489): a tidy core also reads DCTL of its own die, and BEAT. -/
def mayRead (a : Agent) (b : Block) (u : Nat) : Bool :=
  mayWrite a b u ||
    match a with
    | .tidy core => (b == .DCTL && u == coreDie core) || b == .BEAT
    | _ => false

/-- The word that a register reads as: a WO field and every reserved bit read 0 (R3, R4). -/
def State.regWord (s : State) (r : Reg) (u i : Nat) : Nat :=
  r.row.fields.foldl (fun w f => if f.row.acc = .wo then w else w + s.get f u i * 2 ^ f.row.lo) 0

/-- What KVW_BOP_RES reads as: STATUS reads BUSY after a write that was not executed (R248). -/
def State.regWordNow (s : State) (r : Reg) (u i : Nat) : Nat :=
  let w := s.regWord r u i
  if r = .KVW_BOP_RES ∧ (s.kvwSt u).bopBusy then putBits w 55 52 6 else w

/-- The data of a read of a block: a whole register or one half of it (R2); 0 where no register is defined (R490). -/
def State.regData (s : State) (b : Block) (u off size : Nat) : List Byte :=
  match regAt b off with
  | some (r, i) => leBytes size (s.regWordNow r u i / 2 ^ (8 * (off % 8)))
  | none => List.replicate size 0

/-- What a read changes: LOG_DATA7 moves the cursor on (R478), and a read of KVW_BOP_RES ends its BUSY (R248). -/
def State.regReadEffect (s : State) (r : Reg) (u i : Nat) : State :=
  match r with
  | .LOG_DATA => if i = 7 then s.logNextRead else s
  | .KVW_BOP_RES => s.setKvw u { s.kvwSt u with bopBusy := false }
  | _ => s

/-- A read of size bytes at a place in register space, answered with its data (DEDUCED, log entry 11). -/
def State.regRead (s : State) (a : Agent) (da size : Nat) : Res :=
  let zero (s : State) : Res := .next (s.emit (.answer a true (List.replicate size 0)))
  match s.regPlace da with
  | .absent => .next (s.regUnmapped a da)
  | .msix off =>
    match a with
    | .host l =>
      if s.hostEarly a then .next (s.regRefuse a)
      else if size = 4 ∧ off % 4 = 0 then .next (s.emit (.answer a true (leBytes 4 (s.msixRead l off))))
      else zero s
    | .steward => zero s
    | _ => .next (s.regUnmapped a da)
  | .none_ clu =>
    if s.rst.inReset.contains (clu / 16) then .next (s.regRefuse a)
    else match a with
      | .host _ => if s.hostEarly a then .next (s.regRefuse a) else if discarded false (da % 65536) size then zero s else zero (s.wake 3)
      | .steward => zero s
      | _ => .next (s.regUnmapped a da)
  | .block b u off =>
    if !mayRead a b u then .next (s.regUnmapped a da)
    else if s.rst.inReset.contains (s.blockDie b u) then .next (s.regRefuse a)
    else if s.hostEarly a ∧ !([Block.GLB, .RST, .LOG, .HST].contains b) then .next (s.regRefuse a)
    else if discarded false off size then zero s
    else s.hostWait a b da size none fun s =>
      let s' := s.emit (.answer a true (s.regData b u off size))
      .next (match regAt b off with
        | some (r, i) => s'.regReadEffect r u i
        | none => s')

/-- The next state of an outcome, or the state itself where it is none (DEDUCED, log entry 11). -/
def State.orStay (s : State) (r : Res) : State := match r with | .next t => t | _ => s

/-- Register accesses that waited for their target are made in the order in which they came (R430) (DEDUCED, log entry 11). -/
def State.regResume (s : State) : State :=
  if 2 ≤ s.get .PWR_STATE_CURRENT then s
  else
    let l := s.clk.waitReg
    let s := { s with clk := { s.clk with waitReg := [] } }
    l.foldl (fun s x => s.orStay (match x.2.2.2 with
      | some v => s.regAccess x.1 x.2.1 x.2.2.1 v
      | none => s.regRead x.1 x.2.1 x.2.2.1)) s

/-- Whether an agent exists. -/
def State.agentOk (s : State) : Agent → Bool
  | .host l => s.linkOk l
  | .steward => true
  | .tidy core => s.coreOk core
  | .unit _ _ => true

/-- REGISTER_WRITE (R2 to R5, R488 to R490): a write of size bytes at a DA. A doorbell page takes it as R297 says; outside register space and
the doorbells it is a write of memory, which the host's BAR0 does not reach. -/
def execRegisterWrite (by_ : Agent) (da size : Nat) (val : Word) (s : State) : Res :=
  onUnit (s.agentOk by_) (
    if 0x7f000000000 ≤ da ∧ da < 0x7f800000000 then s.regAccess by_ da size val
    else if 0x7f800000000 ≤ da ∧ da < 0x7f900000000 then
      match by_ with
      | .unit _ _ => .next (s.regUnmapped by_ da)
      | _ => execDoorbellWrite by_ ((da - 0x7f800000000) / 4096) (da % 4096) size val s
    else
      match by_ with
      | .host _ => .next (s.regUnmapped by_ da)
      | _ => .next (s.memAcc by_ da 1 (leBytes size val.toNat)))

/-- LOG_DATA7_READ (R2, R478): a read of size bytes at an offset in LOG_DATA7. The latched word, or its half, is read; then the cursor goes on, or
latches the same number again. -/
def execLogData7Read (rd : RegRd) (s : State) : Res := s.regRead rd.by_ (0x7f000300078 + rd.off % 8) rd.size

/-- POWER_EXIT_COMPLETE (R428): with the blocks of a granary copy that are uncorrectable, and a mask for each ledger die of the channels whose
calibration fails. -/
def execPowerExitComplete (ue fails : List Nat) (s : State) : Res := .next (s.powerLeave ue fails).regResume

end Sys2Proof.Machine
end

