-- ==== Sys2Proof/Machine/Edge.lean ====
section
/-! DEFINITION. The beat edge (R58, R62, R63, R71): the count, and what falls on an edge, in the order of R71. -/
namespace Sys2Proof.Machine

/-- The count at an edge (R58, R63): it starts at 0 on the first edge after a cold reset; then it goes on by one, a follower that holds keeps it,
and one that adopts its master's count moves to it. -/
def State.edgeCount (s : State) : State :=
  if !s.beat.started then (s.set .BEAT_NOW_COUNT 0).mapBeat fun b => { b with started := true } else
  match s.beat.hold, s.beat.adopt with
  | some k, _ => s.mapBeat fun b => { b with hold := if k ≤ 1 then none else some (k - 1), slewing := decide (k ≤ 1) }
  | none, some n => (s.set .BEAT_NOW_COUNT (s.now + 1 + n)).mapBeat fun b => { b with adopt := none, slewing := true }
  | none, none => s.set .BEAT_NOW_COUNT (s.now + 1)

/-- A follower moves its edge by at most 2 ns toward its master's (R62), and locks within 20 ns (R63). -/
def State.edgeSlew (s : State) : State :=
  if s.beat.master.isNone ∨ s.get .BEAT_STATUS_STATE = 4 then s
  else
    let x := s.offset
    (s.setOffset (if 32 < x then x - 32 else if x < -32 then x + 32 else 0)).beatLock.beatAlign

/-- BEAT_TPL (R72) of the template that the hub holding the BEAT block has active. -/
def State.edgeTpl (s : State) : State :=
  let (n, o) := (s.tplPos ((s.bank (unitHub 0)).sec 10)).getD (0, 0)
  (s.set .BEAT_TPL_INSTANCE n).set .BEAT_TPL_OFFSET o

/-- The period that a master announced takes effect at its beat (R57). -/
def State.edgePeriod (s : State) : State :=
  match s.beat.pendPeriod with
  | some (p, b) => if b ≤ s.now then (s.setPeriod p).mapBeat fun x => { x with pendPeriod := none } else s
  | none => s

/-- The snapshot points whose beats lie after lo and not after hi, one entry each (R63, R68) (DEDUCED, log entry 16). -/
def State.pointsIn (s : State) (t : List Byte) (lo hi : Nat) : List Nat :=
  let b := s.beat.tplBeat + tplAnchor t
  if t = [] ∨ hi < b then []
  else
    let first := (lo + 1 - b) / tplStep t
    let last := (hi - b) / tplStep t
    (List.range (last + 1 - first)).flatMap fun k =>
      ((tplSlots t).filter fun x => x.kind == 5).filterMap fun x =>
        let p := b + (first + k) * tplStep t + x.start
        if lo < p ∧ p ≤ hi then some p else none

/-- Escrow snapshot points after a beat and up to this one (R71) (DEDUCED, log entry 16). -/
def State.edgePoints (s : State) (lo : Nat) : State :=
  (s.pointsIn ((s.bank (unitLedger 0)).sec 10) lo s.now).foldl (fun s _ => s.snapshot) s

/-- Item 1 of R71: cutoff, freeze and switch; a freeze whose beat comes before B goes first (R50). -/
def State.edgeImage (s : State) (failed : List Nat) : State :=
  let s := match s.esc.freezeAt with
    | some F => if F < s.str.commitB then s.freezeEffective else s
    | none => s
  (s.strCutoff.strSwitch failed).readyExpire.sendReady

/-- The freeze of a seal dispute disarms pending commits at its beat (R412). -/
def State.edgeDispute (s : State) : State :=
  match s.stw.dispute with
  | some x =>
    if x.d + 4 ≤ s.now ∧ !x.felt then
      (s.mapSeal fun y => { y with dispute := some { x with felt := true } }).strFreeze (x.d + 4)
    else s
  | none => s

/-- The checks that close an edge (R71, R64, R65): peers, then the beat source. -/
def State.edgeChecks (s : State) : State :=
  ((s.peers.map (·.dev)).foldl (fun s d => s.peerCheck d) s).sourceLost.abortDue

/-- What falls on a beat, in the order of R71; its snapshot points lie after beat lo (DEDUCED, log entry 16). -/
def State.beatActions (s : State) (lo : Nat) (failed : List Nat) : State :=
  let s := (s.edgeImage failed).edgeDispute.freezeEffective.edgePeriod.edgeTpl
  let s := (s.accResume.regResume.barrierDue.thaw.kvEdge).edgePoints lo
  (s.cores.map (·.1)).foldl (fun s c => s.waitRelease c 0) s

/-- The first beat after lo, and before the current one, for which an action is scheduled: cutoff or switch of a commit, a freeze, the freeze of
a dispute, a period, a thaw, a wait-beat, or a snapshot point (R63). -/
def State.nextPassed (s : State) (lo : Nat) : Option Nat :=
  let waits := s.cores.filterMap fun e =>
    match e.2.wait with | .beat opens b _ _ => s.waitBase e.1 opens b | _ => none
  let bs := (if s.get .STR_STATUS_STATE = 3 then [s.str.commitB - s.str.commitLead, s.str.commitB] else []) ++ s.esc.freezeAt.toList ++
    (match s.stw.dispute with | some x => [x.d + 4] | none => []) ++ (match s.beat.pendPeriod with | some (_, b) => [b] | none => []) ++
    s.esc.thawAt.toList ++ (s.coll.runs.filterMap fun r => if collOp r.d = 5 then s.barrierAt r else none) ++ waits ++ s.pointsIn ((s.bank (unitLedger 0)).sec 10) lo (s.now - 1)
  (bs.filter fun b => decide (lo < b ∧ b < s.now)).min?

/-- Scheduled actions whose beats a step of the count passed over fire in beat order: each beat's are done as at that beat, and logged at the
present one (R63). At most n beats. -/
def State.catchUp (s : State) (failed : List Nat) : Nat → Nat → State
  | 0, _ => s
  | n + 1, lo =>
    match s.nextPassed lo with
    | none => s
    | some b =>
      let now := s.now
      let t := ((s.set .BEAT_NOW_COUNT b).mapBeat fun x => { x with stamp := some now }).beatActions lo failed
      ((t.set .BEAT_NOW_COUNT now).mapBeat fun x => { x with stamp := none }).catchUp failed n b

/-- What a beat edge does after the count: what was passed over, this beat's actions, the checks that close an edge, and the choice of a power
state (R63, R71, R429). -/
def State.edgeActions (s : State) (old : Nat) (failed : List Nat) : State :=
  let lo := s.beat.passedFrom.getD old
  let s := if lo + 1 < s.now then s.catchUp failed (s.now - lo) lo else s
  let s := s.beatActions (if lo < s.now then s.now - 1 else lo) failed
  (s.edgeChecks.recalCheck.mapBeat fun b => { b with passedFrom := none }).powerSelect

/-- The time since the deassertion of PERST_N at an edge (R56): a period on from the last edge; at the first edge, the time that the reference
took to lock, a free value (DESIGN CHOICE, log entry 48). -/
def State.coldTime (s : State) : State :=
  let s := if s.beat.started then s else s.tick
  s.mapBeat fun b => { b with coldNs := if b.started then b.coldNs + s.period else s.fresh.toNat, edges := b.edges + 1 }

/-- BEAT_EDGE (R71). failed lists armed units that fail at a switch on this edge (R49). No edge comes before the reference is locked (R58) (DESIGN CHOICE, log entry 8; DEDUCED, log entry 13; DESIGN CHOICE, log entry 48). -/
def execBeatEdge (failed : List Nat) (s : State) : Res :=
  .next
    (if s.get .RST_STATUS_STAGE = 0 then s
    else
      let old := s.now
      let s := s.coldTime.edgeCount
      let s := ((s.set .BEAT_PHASE_CYCLES 0).set .BEAT_WALL_WALL (s.wallAt s.now)).edgeSlew
      s.edgeActions old failed)

end Sys2Proof.Machine
end

