-- ==== Sys2Proof/Machine/Dispatch.lean ====
section
/-! DEFINITION. The meaning of each command: one arm per constructor of Instr. -/
namespace Sys2Proof.Machine

def exec (i : Instr) (s : State) : Host.Outcome State Fault Refusal :=
  match i with
  | .registerWrite by_ da size val => Sys2Proof.Machine.execRegisterWrite by_ da size val s
  | .spareRotationStart die => Sys2Proof.Machine.execSpareRotationStart die s
  | .spareRotationCopy die => Sys2Proof.Machine.execSpareRotationCopy die s
  | .spareRotationComplete die => Sys2Proof.Machine.execSpareRotationComplete die s
  | .clusterLost die clu => Sys2Proof.Machine.execClusterLost die clu s
  | .strPrepareGo by_ => Sys2Proof.Machine.execStrPrepareGo by_ s
  | .unitArm u => Sys2Proof.Machine.execUnitArm u s
  | .strAbandon by_ => Sys2Proof.Machine.execStrAbandon by_ s
  | .strCommitGo val => Sys2Proof.Machine.execStrCommitGo val s
  | .commitReadyReceive dev b epoch lat => Sys2Proof.Machine.execCommitReadyReceive dev b epoch lat s
  | .jobAbortReceive dev b lat => Sys2Proof.Machine.execJobAbortReceive dev b lat s
  | .commitBeatSwitch failed => Sys2Proof.Machine.execCommitBeatSwitch failed s
  | .strDrainComplete u => Sys2Proof.Machine.execStrDrainComplete u s
  | .beatEdge failed => Sys2Proof.Machine.execBeatEdge failed s
  | .beatFrameReceive hop rank count period ann wall img raw lat => Sys2Proof.Machine.execBeatFrameReceive hop rank count period ann wall img raw lat s
  | .heartbeatReceive dev lat => Sys2Proof.Machine.execHeartbeatReceive dev lat s
  | .delayRequestSend hop t1 => Sys2Proof.Machine.execDelayRequestSend hop t1 s
  | .delayRequestReceive dev count t1 t2 t3 lat => Sys2Proof.Machine.execDelayRequestReceive dev count t1 t2 t3 lat s
  | .delayResponseReceive hop t1 t2 t3 t4 lat => Sys2Proof.Machine.execDelayResponseReceive hop t1 t2 t3 t4 lat s
  | .peerLost dev => Sys2Proof.Machine.execPeerLost dev s
  | .ptpMessageReceive port => Sys2Proof.Machine.execPtpMessageReceive port s
  | .tdLd core dn addr => Sys2Proof.Machine.execTdLd core dn addr s
  | .tdSetf core dn rs1 rs2 => Sys2Proof.Machine.execTdSetf core dn rs1 rs2 s
  | .tdIssue core rd dn => Sys2Proof.Machine.execTdIssue core rd dn s
  | .tdNext core rd dn => Sys2Proof.Machine.execTdNext core rd dn s
  | .tdDone core rd rs1 => Sys2Proof.Machine.execTdDone core rd rs1 s
  | .tdSt core dn addr => Sys2Proof.Machine.execTdSt core dn addr s
  | .mmaDescriptor core d => Sys2Proof.Machine.execMmaDescriptor core d s
  | .accmemAccess by_ da write data => Sys2Proof.Machine.execAccmemAccess by_ da write data s
  | .vecConvert core d => Sys2Proof.Machine.execVecConvert core d s
  | .vecAdd core d => Sys2Proof.Machine.execVecAdd core d s
  | .vecSub core d => Sys2Proof.Machine.execVecSub core d s
  | .vecMul core d => Sys2Proof.Machine.execVecMul core d s
  | .vecAxpb core d => Sys2Proof.Machine.execVecAxpb core d s
  | .vecMax core d => Sys2Proof.Machine.execVecMax core d s
  | .vecMin core d => Sys2Proof.Machine.execVecMin core d s
  | .vecExp core d => Sys2Proof.Machine.execVecExp core d s
  | .vecLog core d => Sys2Proof.Machine.execVecLog core d s
  | .vecRsqrt core d => Sys2Proof.Machine.execVecRsqrt core d s
  | .vecRecip core d => Sys2Proof.Machine.execVecRecip core d s
  | .vecTanh core d => Sys2Proof.Machine.execVecTanh core d s
  | .vecSigmoid core d => Sys2Proof.Machine.execVecSigmoid core d s
  | .vecRowsum core d => Sys2Proof.Machine.execVecRowsum core d s
  | .vecRowmax core d => Sys2Proof.Machine.execVecRowmax core d s
  | .vecRowsq core d => Sys2Proof.Machine.execVecRowsq core d s
  | .steeredDescriptorResume core d => Sys2Proof.Machine.execSteeredDescriptorResume core d s
  | .waitBeat core d => Sys2Proof.Machine.execWaitBeat core d s
  | .waitBeatRelease core phase => Sys2Proof.Machine.execWaitBeatRelease core phase s
  | .signal core d => Sys2Proof.Machine.execSignal core d s
  | .signalSend core => Sys2Proof.Machine.execSignalSend core s
  | .signalDeliver core ctr inc => Sys2Proof.Machine.execSignalDeliver core ctr inc s
  | .fence core d => Sys2Proof.Machine.execFence core d s
  | .fenceRelease core => Sys2Proof.Machine.execFenceRelease core s
  | .fenceTimeout core => Sys2Proof.Machine.execFenceTimeout core s
  | .schedulerPacketBoundary core => Sys2Proof.Machine.execSchedulerPacketBoundary core s
  | .switchWaitExpiry core => Sys2Proof.Machine.execSwitchWaitExpiry core s
  | .packetReady core mb => Sys2Proof.Machine.execPacketReady core mb s
  | .dmaCopy core d => Sys2Proof.Machine.execDmaCopy core d s
  | .dmaFill core d => Sys2Proof.Machine.execDmaFill core d s
  | .dmaTileSave core d => Sys2Proof.Machine.execDmaTileSave core d s
  | .dmaTileRestore core d => Sys2Proof.Machine.execDmaTileRestore core d s
  | .ledgerMemoryRequest by_ old da write data err link => Sys2Proof.Machine.execLedgerMemoryRequest by_ old da write data err link s
  | .scrubRead ld err => Sys2Proof.Machine.execScrubRead ld err s
  | .refresh ld => Sys2Proof.Machine.execRefresh ld s
  | .calibrationStart ld mask => Sys2Proof.Machine.execCalibrationStart ld mask s
  | .calibrationComplete dev failed => Sys2Proof.Machine.execCalibrationComplete dev failed s
  | .lpddr6Training ld types bad => Sys2Proof.Machine.execLpddr6Training ld types bad s
  | .huskEncode core d => Sys2Proof.Machine.execHuskEncode core d s
  | .stookEncodeResume ld => Sys2Proof.Machine.execStookEncodeResume ld s
  | .stookEncodeComplete core d => Sys2Proof.Machine.execStookEncodeComplete core d s
  | .huskDecode core d => Sys2Proof.Machine.execHuskDecode core d s
  | .stookDecodeComplete core d => Sys2Proof.Machine.execStookDecodeComplete core d s
  | .stookDirectoryCommit ld => Sys2Proof.Machine.execStookDirectoryCommit ld s
  | .hskClear ld => Sys2Proof.Machine.execHskClear ld s
  | .windowConvolution core d => Sys2Proof.Machine.execWindowConvolution core d s
  | .windowMaxPool core d => Sys2Proof.Machine.execWindowMaxPool core d s
  | .windowMeanPool core d => Sys2Proof.Machine.execWindowMeanPool core d s
  | .stripeLineLoad clu stripe => Sys2Proof.Machine.execStripeLineLoad clu stripe s
  | .stripeHaloResume clu stripe => Sys2Proof.Machine.execStripeHaloResume clu stripe s
  | .windowStripeComplete clu stripe => Sys2Proof.Machine.execWindowStripeComplete clu stripe s
  | .winCancel clu => Sys2Proof.Machine.execWinCancel clu s
  | .kvGather core d => Sys2Proof.Machine.execKvGather core d s
  | .kvWalkComplete clu seq vb => Sys2Proof.Machine.execKvWalkComplete clu seq vb s
  | .glean core d => Sys2Proof.Machine.execGlean core d s
  | .alloc by_ clu seq vb => Sys2Proof.Machine.execAlloc by_ clu seq vb s
  | .map by_ clu seq vb => Sys2Proof.Machine.execMap by_ clu seq vb s
  | .unmap by_ clu seq vb => Sys2Proof.Machine.execUnmap by_ clu seq vb s
  | .query by_ clu seq vb => Sys2Proof.Machine.execQuery by_ clu seq vb s
  | .setlen by_ clu seq vb => Sys2Proof.Machine.execSetlen by_ clu seq vb s
  | .returnBushel by_ clu seq vb => Sys2Proof.Machine.execReturnBushel by_ clu seq vb s
  | .poolstat by_ clu seq vb => Sys2Proof.Machine.execPoolstat by_ clu seq vb s
  | .labInvalidate clu seq vb => Sys2Proof.Machine.execLabInvalidate clu seq vb s
  | .labFlush clu => Sys2Proof.Machine.execLabFlush clu s
  | .updateDescriptor core d => Sys2Proof.Machine.execUpdateDescriptor core d s
  | .updateCheck ld => Sys2Proof.Machine.execUpdateCheck ld s
  | .skipFlagReceive ld step flag => Sys2Proof.Machine.execSkipFlagReceive ld step flag s
  | .deviceSkipFlagReceive dev step flag lat => Sys2Proof.Machine.execDeviceSkipFlagReceive dev step flag lat s
  | .jobFlagReceive ld step flag => Sys2Proof.Machine.execJobFlagReceive ld step flag s
  | .rule3PartialReceive ld layer step leaf size wn dn => Sys2Proof.Machine.execRule3PartialReceive ld layer step leaf size wn dn s
  | .updateLayerWrite ld n => Sys2Proof.Machine.execUpdateLayerWrite ld n s
  | .updClear ld => Sys2Proof.Machine.execUpdClear ld s
  | .doorbellWrite by_ qid off size val => Sys2Proof.Machine.execDoorbellWrite by_ qid off size val s
  | .doorbellRead by_ qid off size => Sys2Proof.Machine.execDoorbellRead by_ qid off size s
  | .queueTake qid => Sys2Proof.Machine.execQueueTake qid s
  | .queueEnable by_ qid => Sys2Proof.Machine.execQueueEnable by_ qid s
  | .queueDisable by_ qid force => Sys2Proof.Machine.execQueueDisable by_ qid force s
  | .queueFlush by_ qid mask => Sys2Proof.Machine.execQueueFlush by_ qid mask s
  | .queueSetlevel by_ qid => Sys2Proof.Machine.execQueueSetlevel by_ qid s
  | .queueQuery by_ qid => Sys2Proof.Machine.execQueueQuery by_ qid s
  | .queueBadOp by_ op => Sys2Proof.Machine.execQueueBadOp by_ op s
  | .queueBoundaryEffect qid => Sys2Proof.Machine.execQueueBoundaryEffect qid s
  | .linkFrameSend port lane => Sys2Proof.Machine.execLinkFrameSend port lane s
  | .linkFrameReceive port lane f syms => Sys2Proof.Machine.execLinkFrameReceive port lane f syms s
  | .laneDrop port lane cause => Sys2Proof.Machine.execLaneDrop port lane cause s
  | .portTraining port dev pport lanes c1 c2 c3 => Sys2Proof.Machine.execPortTraining port dev pport lanes c1 c2 c3 s
  | .portRetrain by_ mask => Sys2Proof.Machine.execPortRetrain by_ mask s
  | .portDisable by_ mask => Sys2Proof.Machine.execPortDisable by_ mask s
  | .portDown port cause => Sys2Proof.Machine.execPortDown port cause s
  | .fabricWrite p => Sys2Proof.Machine.execFabricWrite p s
  | .fabricRead p => Sys2Proof.Machine.execFabricRead p s
  | .readResp p => Sys2Proof.Machine.execReadResp p s
  | .fadd64 p => Sys2Proof.Machine.execFadd64 p s
  | .cas64 p => Sys2Proof.Machine.execCas64 p s
  | .swap64 p => Sys2Proof.Machine.execSwap64 p s
  | .atomicResp p => Sys2Proof.Machine.execAtomicResp p s
  | .errResp p => Sys2Proof.Machine.execErrResp p s
  | .broadcast core d => Sys2Proof.Machine.execBroadcast core d s
  | .reduceScatter core d => Sys2Proof.Machine.execReduceScatter core d s
  | .allGather core d => Sys2Proof.Machine.execAllGather core d s
  | .allReduce core d => Sys2Proof.Machine.execAllReduce core d s
  | .permute core d => Sys2Proof.Machine.execPermute core d s
  | .barrier core d => Sys2Proof.Machine.execBarrier core d s
  | .collectivePacketReceive p => Sys2Proof.Machine.execCollectivePacketReceive p s
  | .barrierArrivalReceive dev group tid b lat rsh => Sys2Proof.Machine.execBarrierArrivalReceive dev group tid b lat rsh s
  | .barrierComplete core d => Sys2Proof.Machine.execBarrierComplete core d s
  | .reshardIssue core d => Sys2Proof.Machine.execReshardIssue core d s
  | .reshardGrantReceive block => Sys2Proof.Machine.execReshardGrantReceive block s
  | .reshardBlockCommit block => Sys2Proof.Machine.execReshardBlockCommit block s
  | .reshardAckReceive block => Sys2Proof.Machine.execReshardAckReceive block s
  | .fabLayoutWrite by_ val => Sys2Proof.Machine.execFabLayoutWrite by_ val s
  | .escrowOpenReceive dev step base man => Sys2Proof.Machine.execEscrowOpenReceive dev step base man s
  | .escrowDeltaReceive dev k part tile recs => Sys2Proof.Machine.execEscrowDeltaReceive dev k part tile recs s
  | .escrowCloseReceive dev step blk => Sys2Proof.Machine.execEscrowCloseReceive dev step blk s
  | .sealedReceive dev step b lat => Sys2Proof.Machine.execSealedReceive dev step b lat s
  | .needFullReceive dev lat => Sys2Proof.Machine.execNeedFullReceive dev lat s
  | .freezeSend cause lost => Sys2Proof.Machine.execFreezeSend cause lost s
  | .freezeReceive dev b cause lost lat => Sys2Proof.Machine.execFreezeReceive dev b cause lost lat s
  | .escFreeze by_ => Sys2Proof.Machine.execEscFreeze by_ s
  | .escRollback by_ => Sys2Proof.Machine.execEscRollback by_ s
  | .escServe by_ target => Sys2Proof.Machine.execEscServe by_ target s
  | .escReceive by_ target => Sys2Proof.Machine.execEscReceive by_ target s
  | .escDigest by_ => Sys2Proof.Machine.execEscDigest by_ s
  | .escThaw by_ => Sys2Proof.Machine.execEscThaw by_ s
  | .escBadOp by_ op => Sys2Proof.Machine.execEscBadOp by_ op s
  | .thawReceive dev beat lat => Sys2Proof.Machine.execThawReceive dev beat lat s
  | .fillDone die => Sys2Proof.Machine.execFillDone die s
  | .codecOpen e qid d => Sys2Proof.Machine.execCodecOpen e qid d s
  | .codecDecode e qid d => Sys2Proof.Machine.execCodecDecode e qid d s
  | .codecEncode e qid d => Sys2Proof.Machine.execCodecEncode e qid d s
  | .codecRelease e qid d => Sys2Proof.Machine.execCodecRelease e qid d s
  | .codecFlush e qid d => Sys2Proof.Machine.execCodecFlush e qid d s
  | .codecClose e qid d => Sys2Proof.Machine.execCodecClose e qid d s
  | .codecItemSelect e => Sys2Proof.Machine.execCodecItemSelect e s
  | .codecFrameComplete e => Sys2Proof.Machine.execCodecFrameComplete e s
  | .codecBufferResume e => Sys2Proof.Machine.execCodecBufferResume e s
  | .bar2Access link off write data => Sys2Proof.Machine.execBar2Access link off write data s
  | .hostAtomic link off kind operand swap => Sys2Proof.Machine.execHostAtomic link off kind operand swap s
  | .msixAccess link off val => Sys2Proof.Machine.execMsixAccess link off val s
  | .hostLinkChange link up rate width flit => Sys2Proof.Machine.execHostLinkChange link up rate width flit s
  | .mgtGet port seq resource => Sys2Proof.Machine.execMgtGet port seq resource s
  | .mgtLogRead port seq seg first count => Sys2Proof.Machine.execMgtLogRead port seq seg first count s
  | .mgtStage port seq off data => Sys2Proof.Machine.execMgtStage port seq off data s
  | .mgtStageDone port seq => Sys2Proof.Machine.execMgtStageDone port seq s
  | .mgtNeighbourDiscovery port => Sys2Proof.Machine.execMgtNeighbourDiscovery port s
  | .sealStrapClaim half => Sys2Proof.Machine.execSealStrapClaim half s
  | .sealFallbackClaim half => Sys2Proof.Machine.execSealFallbackClaim half s
  | .sealHeartbeatSend half => Sys2Proof.Machine.execSealHeartbeatSend half s
  | .sealHeartbeatReceive half => Sys2Proof.Machine.execSealHeartbeatReceive half s
  | .sealLostClaim half => Sys2Proof.Machine.execSealLostClaim half s
  | .sealHostGrant link half alsoB => Sys2Proof.Machine.execSealHostGrant link half alsoB s
  | .sealAcceptReceive ahead => Sys2Proof.Machine.execSealAcceptReceive ahead s
  | .sealCommitReceive half seq h => Sys2Proof.Machine.execSealCommitReceive half seq h s
  | .refMonitorWindow half count => Sys2Proof.Machine.execRefMonitorWindow half count s
  | .refMissingEdge half => Sys2Proof.Machine.execRefMissingEdge half s
  | .refRecovered half => Sys2Proof.Machine.execRefRecovered half s
  | .clkGate by_ node => Sys2Proof.Machine.execClkGate by_ node s
  | .clkUngate by_ node => Sys2Proof.Machine.execClkUngate by_ node s
  | .clkDbgWrite by_ val => Sys2Proof.Machine.execClkDbgWrite by_ val s
  | .q1ClusterGate clu => Sys2Proof.Machine.execQ1ClusterGate clu s
  | .powerExit cause => Sys2Proof.Machine.execPowerExit cause s
  | .powerExitComplete ue fails => Sys2Proof.Machine.execPowerExitComplete ue fails s
  | .capStep pkg => Sys2Proof.Machine.execCapStep pkg s
  | .thermalStep die tj => Sys2Proof.Machine.execThermalStep die tj s
  | .pwrCapWrite by_ val => Sys2Proof.Machine.execPwrCapWrite by_ val s
  | .pwrLatTolWrite by_ val => Sys2Proof.Machine.execPwrLatTolWrite by_ val s
  | .resetCold strap => Sys2Proof.Machine.execResetCold strap s
  | .resetWarm cause => Sys2Proof.Machine.execResetWarm cause s
  | .resetDie die => Sys2Proof.Machine.execResetDie die s
  | .resetCore core => Sys2Proof.Machine.execResetCore core s
  | .bootRomLoad half => Sys2Proof.Machine.execBootRomLoad half s
  | .firmwareVerified half => Sys2Proof.Machine.execFirmwareVerified half s
  | .bursarBooted half => Sys2Proof.Machine.execBursarBooted half s
  | .lpddr6InitComplete fails => Sys2Proof.Machine.execLpddr6InitComplete fails s
  | .startupTestComplete lost bad => Sys2Proof.Machine.execStartupTestComplete lost bad s
  | .testLogicBist by_ target => Sys2Proof.Machine.execTestLogicBist by_ target s
  | .testLpddr6Cal by_ target => Sys2Proof.Machine.execTestLpddr6Cal by_ target s
  | .testOpticalRecal by_ target => Sys2Proof.Machine.execTestOpticalRecal by_ target s
  | .testCancel by_ => Sys2Proof.Machine.execTestCancel by_ s
  | .testComplete fail => Sys2Proof.Machine.execTestComplete fail s
  | .secAttest by_ => Sys2Proof.Machine.execSecAttest by_ s
  | .secStage by_ => Sys2Proof.Machine.execSecStage by_ s
  | .secEnrollOwner by_ => Sys2Proof.Machine.execSecEnrollOwner by_ s
  | .secRevokeOwner by_ => Sys2Proof.Machine.execSecRevokeOwner by_ s
  | .secRevokeVendor by_ => Sys2Proof.Machine.execSecRevokeVendor by_ s
  | .secAdvanceSvn by_ => Sys2Proof.Machine.execSecAdvanceSvn by_ s
  | .secCert by_ => Sys2Proof.Machine.execSecCert by_ s
  | .logEventIntake k => Sys2Proof.Machine.execLogEventIntake k s
  | .logCursorWrite by_ val => Sys2Proof.Machine.execLogCursorWrite by_ val s
  | .logData7Read rd => Sys2Proof.Machine.execLogData7Read rd s
  | .irqSourceRaise src sev3 => Sys2Proof.Machine.execIrqSourceRaise src sev3 s
  | .irqStatusClear by_ mask again => Sys2Proof.Machine.execIrqStatusClear by_ mask again s
  | .irqEnableWrite by_ stw mask => Sys2Proof.Machine.execIrqEnableWrite by_ stw mask s
  | .fibreBlockUnlatch block => Sys2Proof.Machine.execFibreBlockUnlatch block s
  | .fibreBlockLatch block => Sys2Proof.Machine.execFibreBlockLatch block s
  | .dieResetComplete die lost fails => Sys2Proof.Machine.execDieResetComplete die lost fails s
  | .watchCalibrationComplete half count => Sys2Proof.Machine.execWatchCalibrationComplete half count s
  | .sealClaimReceive half seq => Sys2Proof.Machine.execSealClaimReceive half seq s
  | .hostConfigAccess link reg val => Sys2Proof.Machine.execHostConfigAccess link reg val s
  | .mgtLinkChange port up => Sys2Proof.Machine.execMgtLinkChange port up s
  | .ptpMasterLost port => Sys2Proof.Machine.execPtpMasterLost port s
  | .escFillStreamReceive dev sec off bs => Sys2Proof.Machine.execEscFillStreamReceive dev sec off bs s
  | .commitCutoff => Sys2Proof.Machine.execCommitCutoff s
  | .beatFrameSend => Sys2Proof.Machine.execBeatFrameSend s
  | .heartbeatSend => Sys2Proof.Machine.execHeartbeatSend s
  | .beatSourceLost => Sys2Proof.Machine.execBeatSourceLost s
  | .kvPoolInit => Sys2Proof.Machine.execKvPoolInit s
  | .reshardDrainComplete => Sys2Proof.Machine.execReshardDrainComplete s
  | .reshardMoveStart => Sys2Proof.Machine.execReshardMoveStart s
  | .reshardCommit => Sys2Proof.Machine.execReshardCommit s
  | .escrowStepOpen => Sys2Proof.Machine.execEscrowStepOpen s
  | .escrowBankSeal => Sys2Proof.Machine.execEscrowBankSeal s
  | .escrowSnapshotPoint => Sys2Proof.Machine.execEscrowSnapshotPoint s
  | .freezeEffective => Sys2Proof.Machine.execFreezeEffective s
  | .thawEffective => Sys2Proof.Machine.execThawEffective s
  | .sealOffer => Sys2Proof.Machine.execSealOffer s
  | .sealAccept => Sys2Proof.Machine.execSealAccept s
  | .sealHandover => Sys2Proof.Machine.execSealHandover s
  | .sealOfferTimeout => Sys2Proof.Machine.execSealOfferTimeout s
  | .sealCommitTimeout => Sys2Proof.Machine.execSealCommitTimeout s
  | .sealDispute => Sys2Proof.Machine.execSealDispute s
  | .sealDisputeTimeout => Sys2Proof.Machine.execSealDisputeTimeout s
  | .sealDisputeFreezeEnd => Sys2Proof.Machine.execSealDisputeFreezeEnd s
  | .powerEntryComplete => Sys2Proof.Machine.execPowerEntryComplete s
  | .partReady => Sys2Proof.Machine.execPartReady s
  | .opticalRecalStart => Sys2Proof.Machine.execOpticalRecalStart s
  | .logAppend => Sys2Proof.Machine.execLogAppend s
  | .logDrop => Sys2Proof.Machine.execLogDrop s
  | .perstNAssert => Sys2Proof.Machine.execPerstNAssert s
  | .sealOfferReceive => Sys2Proof.Machine.execSealOfferReceive s

end Sys2Proof.Machine
end

