-- ==== Sys2Proof/WellFormed.lean ====
section
/-! DEFINITION. Well-formed commands: every unit that a command names is one that the largest part has, every narrow operand fits its field, and
a descriptor, item or packet is given to the row of its own operation. Which units a smaller part has is a matter of the state. -/
namespace Sys2Proof
open Machine

/-- A physical cluster of some compute die: 16 x die + cluster (R6). -/
def cluNum (clu : Nat) : Bool := decide (clu < 128) && decide (clu % 16 < 13)

/-- A physical core ID (R6). -/
def coreNum (core : Nat) : Bool := cluNum (core / 8)

/-- 1 to n. -/
def within1 (x n : Nat) : Bool := decide (1 ≤ x) && decide (x ≤ n)

/-- A requester that some part has. -/
def agentNum : Agent → Bool
  | .host link => decide (link < 2)
  | .steward => true
  | .tidy core => coreNum core
  | .unit _ _ => true

/-- The row of a vector operation takes descriptors of its OP, and those of an OP that R147 does not list (R522). -/
def vecSel (d : Desc) (op : Nat) : Bool :=
  let o := dbits d 0 39 32
  o == op || !(within1 o 12 || (decide (16 ≤ o) && decide (o ≤ 18)))

/-- The row of a window operation takes descriptors of its POOL code, and those of code 3 (R227). -/
def winSel (d : Desc) (pool : Nat) : Bool := dbits d 1 44 43 == pool || dbits d 1 44 43 == 3

/-- The row of a collective operation takes descriptors of class 8 with its OP, and those of an OP that is not listed. -/
def collSel (d : Desc) (op : Nat) : Bool := dbits d 0 3 0 == 8 && (dbits d 0 35 32 == op || decide (5 < dbits d 0 35 32))

/-- The row of a permute. -/
def permSel (d : Desc) : Bool := dbits d 0 3 0 == 8 && dbits d 0 35 32 == 4

/-- The row of a codec operation takes items of its OP, and those of an OP that is not listed. -/
def vceSel (d : Desc) (op : Nat) : Bool := dbits d 0 39 32 == op || !within1 (dbits d 0 39 32) 6

/-- A frame that came whole is one that R313 lays out. -/
def frameFits (f : Option WireFrame) (syms : Nat) : Bool :=
  match f with
  | some w => wireFits w syms
  | none => true

/-- The row of a packet operation takes packets of its OP whose fields fit the header (R319). -/
def pktSel (p : Packet) (op : Nat) : Bool := p.op == op && pktFits p

/-- Whether a command is well formed. -/
def Instr.wf : Instr → Bool
  | .registerWrite by_ _ size _ => agentNum by_ && [1, 2, 4, 8].contains size
  | .spareRotationStart die => decide (die < 8)
  | .spareRotationCopy die => decide (die < 8)
  | .spareRotationComplete die => decide (die < 8)
  | .clusterLost die clu => decide (die < 8) && decide (clu < 13)
  | .strPrepareGo by_ => agentNum by_
  | .unitArm u => decide (u < 128)
  | .strAbandon by_ => agentNum by_
  | .strCommitGo _ => true
  | .commitReadyReceive dev _ _ _ => decide (dev < 65536)
  | .commitCutoff => true
  | .jobAbortReceive dev _ _ => decide (dev < 65536)
  | .commitBeatSwitch _ => true
  | .strDrainComplete u => decide (u < 128)
  | .beatEdge _ => true
  | .beatFrameSend => true
  | .beatFrameReceive hop _ _ _ _ _ _ _ _ => decide (hop.dev < 65536)
  | .heartbeatSend => true
  | .heartbeatReceive dev _ => decide (dev < 65536)
  | .delayRequestSend hop _ => decide (hop.dev < 65536)
  | .delayRequestReceive dev _ _ _ _ _ => decide (dev < 65536)
  | .delayResponseReceive hop _ _ _ _ _ => decide (hop.dev < 65536)
  | .beatSourceLost => true
  | .peerLost dev => decide (dev < 65536)
  | .ptpMessageReceive port => decide (port < 2)
  | .tdLd core dn _ => coreNum core && decide (dn < 8)
  | .tdSetf core dn _ _ => coreNum core && decide (dn < 8)
  | .tdIssue core rd dn => coreNum core && decide (rd < 32) && decide (dn < 8)
  | .tdNext core rd dn => coreNum core && decide (rd < 32) && decide (dn < 8)
  | .tdDone core rd _ => coreNum core && decide (rd < 32)
  | .tdSt core dn _ => coreNum core && decide (dn < 8)
  | .mmaDescriptor core _ => coreNum core
  | .accmemAccess by_ _ _ _ => agentNum by_
  | .vecConvert core _ => coreNum core
  | .vecAdd core d => coreNum core && vecSel d 0x01
  | .vecSub core d => coreNum core && vecSel d 0x02
  | .vecMul core d => coreNum core && vecSel d 0x03
  | .vecAxpb core d => coreNum core && vecSel d 0x04
  | .vecMax core d => coreNum core && vecSel d 0x05
  | .vecMin core d => coreNum core && vecSel d 0x06
  | .vecExp core d => coreNum core && vecSel d 0x07
  | .vecLog core d => coreNum core && vecSel d 0x08
  | .vecRsqrt core d => coreNum core && vecSel d 0x09
  | .vecRecip core d => coreNum core && vecSel d 0x0a
  | .vecTanh core d => coreNum core && vecSel d 0x0b
  | .vecSigmoid core d => coreNum core && vecSel d 0x0c
  | .vecRowsum core d => coreNum core && vecSel d 0x10
  | .vecRowmax core d => coreNum core && vecSel d 0x11
  | .vecRowsq core d => coreNum core && vecSel d 0x12
  | .steeredDescriptorResume core _ => coreNum core
  | .waitBeat core _ => coreNum core
  | .waitBeatRelease core _ => coreNum core
  | .signal core _ => coreNum core
  | .signalSend core => coreNum core
  | .signalDeliver core ctr _ => coreNum core && decide (ctr < 64)
  | .fence core _ => coreNum core
  | .fenceRelease core => coreNum core
  | .fenceTimeout core => coreNum core
  | .schedulerPacketBoundary core => coreNum core
  | .switchWaitExpiry core => coreNum core
  | .packetReady core _ => coreNum core
  | .dmaCopy core d => coreNum core && dbits d 3 49 48 == 0
  | .dmaFill core d => coreNum core && dbits d 3 49 48 == 1
  | .dmaTileSave core d => coreNum core && dbits d 3 49 48 == 2
  | .dmaTileRestore core d => coreNum core && dbits d 3 49 48 == 3
  | .ledgerMemoryRequest by_ _ _ _ _ err _ => agentNum by_ && decide (err < 5)
  | .scrubRead ld err => decide (ld < 8) && decide (err < 5)
  | .refresh ld => decide (ld < 8)
  | .calibrationStart ld _ => decide (ld < 8)
  | .calibrationComplete dev _ => decide (dev < 24)
  | .lpddr6Training ld _ _ => decide (ld < 8)
  | .huskEncode core d => coreNum core && !dbit d 0 32
  | .stookEncodeResume ld => decide (ld < 8)
  | .stookEncodeComplete core _ => coreNum core
  | .huskDecode core d => coreNum core && dbit d 0 32
  | .stookDecodeComplete core _ => coreNum core
  | .stookDirectoryCommit ld => decide (ld < 8)
  | .hskClear ld => decide (ld < 8)
  | .windowConvolution core d => coreNum core && winSel d 0
  | .windowMaxPool core d => coreNum core && winSel d 1
  | .windowMeanPool core d => coreNum core && winSel d 2
  | .stripeLineLoad clu _ => cluNum clu
  | .stripeHaloResume clu _ => cluNum clu
  | .windowStripeComplete clu _ => cluNum clu
  | .winCancel clu => cluNum clu
  | .kvGather core _ => coreNum core
  | .kvWalkComplete clu _ _ => cluNum clu
  | .glean core _ => coreNum core
  | .alloc by_ clu _ _ => agentNum by_ && cluNum clu
  | .map by_ clu _ _ => agentNum by_ && cluNum clu
  | .unmap by_ clu _ _ => agentNum by_ && cluNum clu
  | .query by_ clu _ _ => agentNum by_ && cluNum clu
  | .setlen by_ clu _ _ => agentNum by_ && cluNum clu
  | .returnBushel by_ clu _ _ => agentNum by_ && cluNum clu
  | .poolstat by_ clu _ _ => agentNum by_ && cluNum clu
  | .labInvalidate clu _ _ => cluNum clu
  | .labFlush clu => cluNum clu
  | .kvPoolInit => true
  | .updateDescriptor core d => coreNum core && dbits d 0 3 0 == 9
  | .updateCheck ld => decide (ld < 8)
  | .skipFlagReceive ld _ _ => decide (ld < 8)
  | .deviceSkipFlagReceive dev _ _ _ => decide (dev < 65536)
  | .jobFlagReceive ld _ _ => decide (ld < 8)
  | .rule3PartialReceive ld _ _ _ _ _ _ => decide (ld < 8)
  | .updateLayerWrite ld _ => decide (ld < 8)
  | .updClear ld => decide (ld < 8)
  | .doorbellWrite by_ qid _ size _ => agentNum by_ && decide (qid < 1048576) && [1, 2, 4, 8].contains size
  | .doorbellRead by_ qid _ size => agentNum by_ && decide (qid < 1048576) && [1, 2, 4, 8].contains size
  | .queueTake qid => decide (qid < 1048576)
  | .queueEnable by_ qid => agentNum by_ && decide (qid < 1048576)
  | .queueDisable by_ qid _ => agentNum by_ && decide (qid < 1048576)
  | .queueFlush by_ qid _ => agentNum by_ && decide (qid < 1048576)
  | .queueSetlevel by_ qid => agentNum by_ && decide (qid < 1048576)
  | .queueQuery by_ qid => agentNum by_ && decide (qid < 1048576)
  | .queueBadOp by_ op => agentNum by_ && !within1 (op % 16) 5
  | .queueBoundaryEffect qid => decide (qid < 1048576)
  | .linkFrameSend port lane => decide (port < 16) && decide (lane < 4)
  | .linkFrameReceive port lane f syms => decide (port < 16) && decide (lane < 4) && frameFits f syms
  | .laneDrop port lane cause => decide (port < 16) && decide (lane < 4) && decide (cause < 3)
  | .portTraining port dev pport lanes c1 c2 c3 =>
    decide (port < 16) && decide (dev < 65536) && decide (pport < 256) && decide (lanes < 16) && decide (c1 + c2 + c3 ≤ 7936)
  | .portRetrain by_ _ => agentNum by_
  | .portDisable by_ _ => agentNum by_
  | .portDown port _ => decide (port < 16)
  | .fabricWrite p => pktSel p 1
  | .fabricRead p => pktSel p 2
  | .readResp p => pktSel p 3
  | .fadd64 p => pktSel p 4
  | .cas64 p => pktSel p 5
  | .swap64 p => pktSel p 6
  | .atomicResp p => pktSel p 7
  | .errResp p => pktSel p 8
  | .broadcast core d => coreNum core && collSel d 0
  | .reduceScatter core d => coreNum core && collSel d 1
  | .allGather core d => coreNum core && collSel d 2
  | .allReduce core d => coreNum core && collSel d 3
  | .permute core d => coreNum core && permSel d
  | .barrier core d => coreNum core && collSel d 5
  | .collectivePacketReceive p => pktSel p 0x11
  | .barrierArrivalReceive dev _ _ _ _ _ => decide (dev < 65536)
  | .barrierComplete core _ => coreNum core
  | .reshardIssue core d => coreNum core && permSel d
  | .reshardDrainComplete => true
  | .reshardMoveStart => true
  | .reshardGrantReceive _ => true
  | .reshardBlockCommit _ => true
  | .reshardAckReceive _ => true
  | .reshardCommit => true
  | .fabLayoutWrite by_ _ => agentNum by_
  | .escrowStepOpen => true
  | .escrowOpenReceive dev _ _ _ => decide (dev < 65536)
  | .escrowDeltaReceive dev _ _ _ _ => decide (dev < 65536)
  | .escrowCloseReceive dev _ _ => decide (dev < 65536)
  | .escrowBankSeal => true
  | .sealedReceive dev _ _ _ => decide (dev < 65536)
  | .needFullReceive dev _ => decide (dev < 65536)
  | .escrowSnapshotPoint => true
  | .freezeSend _ _ => true
  | .freezeReceive dev _ _ _ _ => decide (dev < 65536)
  | .freezeEffective => true
  | .escFreeze by_ => agentNum by_
  | .escRollback by_ => agentNum by_
  | .escServe by_ _ => agentNum by_
  | .escReceive by_ _ => agentNum by_
  | .escDigest by_ => agentNum by_
  | .escThaw by_ => agentNum by_
  | .escBadOp by_ op => agentNum by_ && !within1 (op % 16) 6
  | .thawReceive dev _ _ => decide (dev < 65536)
  | .thawEffective => true
  | .fillDone die => decide (die < 8)
  | .codecOpen e qid d => decide (e < 8) && decide (qid < 1048576) && vceSel d 1
  | .codecDecode e qid d => decide (e < 8) && decide (qid < 1048576) && vceSel d 2
  | .codecEncode e qid d => decide (e < 8) && decide (qid < 1048576) && vceSel d 3
  | .codecRelease e qid d => decide (e < 8) && decide (qid < 1048576) && vceSel d 4
  | .codecFlush e qid d => decide (e < 8) && decide (qid < 1048576) && vceSel d 5
  | .codecClose e qid d => decide (e < 8) && decide (qid < 1048576) && vceSel d 6
  | .codecItemSelect e => decide (e < 8)
  | .codecFrameComplete e => decide (e < 8)
  | .codecBufferResume e => decide (e < 8)
  | .bar2Access link _ _ _ => decide (link < 2)
  | .hostAtomic link _ kind _ _ => decide (link < 2) && decide (kind < 3)
  | .msixAccess link _ _ => decide (link < 2)
  | .hostLinkChange link _ _ _ _ => decide (link < 2)
  | .mgtGet port _ _ => decide (port < 2)
  | .mgtLogRead port _ _ _ _ => decide (port < 2)
  | .mgtStage port _ _ _ => decide (port < 2)
  | .mgtStageDone port _ => decide (port < 2)
  | .mgtNeighbourDiscovery port => decide (port < 2)
  | .sealStrapClaim half => decide (half < 2)
  | .sealFallbackClaim half => decide (half < 2)
  | .sealHeartbeatSend half => decide (half < 2)
  | .sealHeartbeatReceive half => decide (half < 2)
  | .sealLostClaim half => decide (half < 2)
  | .sealOffer => true
  | .sealHostGrant link half _ => decide (link < 2) && decide (half < 2)
  | .sealAccept => true
  | .sealAcceptReceive _ => true
  | .sealCommitReceive half _ _ => decide (half < 2)
  | .sealHandover => true
  | .sealOfferTimeout => true
  | .sealCommitTimeout => true
  | .sealDispute => true
  | .sealDisputeTimeout => true
  | .sealDisputeFreezeEnd => true
  | .refMonitorWindow half _ => decide (half < 2)
  | .refMissingEdge half => decide (half < 2)
  | .refRecovered half => decide (half < 2)
  | .clkGate by_ _ => agentNum by_
  | .clkUngate by_ _ => agentNum by_
  | .clkDbgWrite by_ _ => agentNum by_
  | .q1ClusterGate clu => cluNum clu
  | .powerEntryComplete => true
  | .powerExit cause => within1 cause 5
  | .powerExitComplete _ _ => true
  | .capStep _ => true
  | .thermalStep die _ => decide (die < 8)
  | .pwrCapWrite by_ _ => agentNum by_
  | .pwrLatTolWrite by_ _ => agentNum by_
  | .resetCold _ => true
  | .resetWarm _ => true
  | .resetDie die => decide (die < 40)
  | .resetCore core => coreNum core
  | .bootRomLoad half => decide (half < 2)
  | .firmwareVerified half => decide (half < 2)
  | .bursarBooted half => decide (half < 2)
  | .lpddr6InitComplete _ => true
  | .startupTestComplete _ _ => true
  | .partReady => true
  | .testLogicBist by_ _ => agentNum by_
  | .testLpddr6Cal by_ _ => agentNum by_
  | .testOpticalRecal by_ _ => agentNum by_
  | .testCancel by_ => agentNum by_
  | .opticalRecalStart => true
  | .testComplete _ => true
  | .secAttest by_ => agentNum by_
  | .secStage by_ => agentNum by_
  | .secEnrollOwner by_ => agentNum by_
  | .secRevokeOwner by_ => agentNum by_
  | .secRevokeVendor by_ => agentNum by_
  | .secAdvanceSvn by_ => agentNum by_
  | .secCert by_ => agentNum by_
  | .logEventIntake _ => true
  | .logAppend => true
  | .logDrop => true
  | .logCursorWrite by_ _ => agentNum by_
  | .logData7Read rd => agentNum rd.by_ && decide (rd.off < 8) && [1, 2, 4, 8].contains rd.size
  | .irqSourceRaise src _ => decide (src < 12)
  | .irqStatusClear by_ _ _ => agentNum by_
  | .irqEnableWrite by_ _ _ => agentNum by_
  | .fibreBlockUnlatch block => decide (block < 4)
  | .fibreBlockLatch block => decide (block < 4)
  | .dieResetComplete die _ _ => decide (die < 40)
  | .perstNAssert => true
  | .watchCalibrationComplete half _ => decide (half < 2)
  | .sealClaimReceive half _ => decide (half < 2)
  | .sealOfferReceive => true
  | .hostConfigAccess link _ _ => decide (link < 2)
  | .mgtLinkChange port _ => decide (port < 2)
  | .ptpMasterLost port => decide (port < 2)
  | .escFillStreamReceive dev _ _ _ => decide (dev < 65536)

end Sys2Proof
end

