-- ==== Sys2Proof/Safety.lean ====
section
/-! DEFINITION. What a safe command and a sound state are, in the terms that claims use. -/
namespace Sys2Proof.Machine

/-- Whether the part has the unit that a command acts on: what no well-formedness of the command alone can say. -/
def State.has (s : State) : Instr → Bool
  | .registerWrite by_ _ _ _ => s.agentOk by_
  | .spareRotationStart die => s.dieOk die
  | .spareRotationCopy die => s.dieOk die
  | .spareRotationComplete die => s.dieOk die
  | .clusterLost die clu => s.cluOk (16 * die + clu) && decide (clu < 16)
  | .strPrepareGo _ => true
  | .unitArm u => s.ident.unitOk u
  | .strAbandon _ => true
  | .strCommitGo _ => true
  | .commitReadyReceive _ _ _ _ => true
  | .commitCutoff => true
  | .jobAbortReceive _ _ _ => true
  | .commitBeatSwitch _ => true
  | .strDrainComplete u => s.ident.unitOk u
  | .beatEdge _ => true
  | .beatFrameSend => true
  | .beatFrameReceive _ _ _ _ _ _ _ _ _ => true
  | .heartbeatSend => true
  | .heartbeatReceive _ _ => true
  | .delayRequestSend _ _ => true
  | .delayRequestReceive _ _ _ _ _ _ => true
  | .delayResponseReceive _ _ _ _ _ _ => true
  | .beatSourceLost => true
  | .peerLost _ => true
  | .ptpMessageReceive port => s.mgtOk port
  | .tdLd core _ _ => s.coreOk core
  | .tdSetf core _ _ _ => s.coreOk core
  | .tdIssue core _ _ => s.coreOk core
  | .tdNext core _ _ => s.coreOk core
  | .tdDone core _ _ => s.coreOk core
  | .tdSt core _ _ => s.coreOk core
  | .mmaDescriptor core _ => s.coreOk core
  | .accmemAccess _ _ _ _ => true
  | .vecConvert core _ => s.coreOk core
  | .vecAdd core _ => s.coreOk core
  | .vecSub core _ => s.coreOk core
  | .vecMul core _ => s.coreOk core
  | .vecAxpb core _ => s.coreOk core
  | .vecMax core _ => s.coreOk core
  | .vecMin core _ => s.coreOk core
  | .vecExp core _ => s.coreOk core
  | .vecLog core _ => s.coreOk core
  | .vecRsqrt core _ => s.coreOk core
  | .vecRecip core _ => s.coreOk core
  | .vecTanh core _ => s.coreOk core
  | .vecSigmoid core _ => s.coreOk core
  | .vecRowsum core _ => s.coreOk core
  | .vecRowmax core _ => s.coreOk core
  | .vecRowsq core _ => s.coreOk core
  | .steeredDescriptorResume core _ => s.coreOk core
  | .waitBeat core _ => s.coreOk core
  | .waitBeatRelease core _ => s.coreOk core
  | .signal core _ => s.coreOk core
  | .signalSend core => s.coreOk core
  | .signalDeliver core _ _ => s.coreOk core
  | .fence core _ => s.coreOk core
  | .fenceRelease core => s.coreOk core
  | .fenceTimeout core => s.coreOk core
  | .schedulerPacketBoundary core => s.coreOk core
  | .switchWaitExpiry core => s.coreOk core
  | .packetReady core _ => s.coreOk core
  | .dmaCopy core _ => s.coreOk core
  | .dmaFill core _ => s.coreOk core
  | .dmaTileSave core _ => s.coreOk core
  | .dmaTileRestore core _ => s.coreOk core
  | .ledgerMemoryRequest _ _ _ _ _ _ _ => true
  | .scrubRead ld _ => s.dieOk ld
  | .refresh ld => s.dieOk ld
  | .calibrationStart ld _ => s.dieOk ld
  | .calibrationComplete dev _ => s.dieOk (dev / 3)
  | .lpddr6Training ld _ _ => s.dieOk ld
  | .huskEncode core _ => s.coreOk core
  | .stookEncodeResume ld => s.dieOk ld
  | .stookEncodeComplete core _ => s.coreOk core
  | .huskDecode core _ => s.coreOk core
  | .stookDecodeComplete core _ => s.coreOk core
  | .stookDirectoryCommit ld => s.dieOk ld
  | .hskClear ld => s.dieOk ld
  | .windowConvolution core _ => s.coreOk core
  | .windowMaxPool core _ => s.coreOk core
  | .windowMeanPool core _ => s.coreOk core
  | .stripeLineLoad clu _ => s.cluOk clu
  | .stripeHaloResume clu _ => s.cluOk clu
  | .windowStripeComplete clu _ => s.cluOk clu
  | .winCancel clu => s.cluOk clu
  | .kvGather core _ => s.coreOk core
  | .kvWalkComplete clu _ _ => s.cluOk clu
  | .glean core _ => s.coreOk core
  | .alloc _ clu _ _ => s.cluOk clu
  | .map _ clu _ _ => s.cluOk clu
  | .unmap _ clu _ _ => s.cluOk clu
  | .query _ clu _ _ => s.cluOk clu
  | .setlen _ clu _ _ => s.cluOk clu
  | .returnBushel _ clu _ _ => s.cluOk clu
  | .poolstat _ clu _ _ => s.cluOk clu
  | .labInvalidate clu _ _ => s.cluOk clu
  | .labFlush clu => s.cluOk clu
  | .kvPoolInit => true
  | .updateDescriptor core _ => s.coreOk core
  | .updateCheck ld => s.dieOk ld
  | .skipFlagReceive ld _ _ => s.dieOk ld
  | .deviceSkipFlagReceive _ _ _ _ => true
  | .jobFlagReceive ld _ _ => s.dieOk ld
  | .rule3PartialReceive ld _ _ _ _ _ _ => s.dieOk ld
  | .updateLayerWrite ld _ => s.dieOk ld
  | .updClear ld => s.dieOk ld
  | .doorbellWrite _ _ _ _ _ => true
  | .doorbellRead _ _ _ _ => true
  | .queueTake _ => true
  | .queueEnable _ _ => true
  | .queueDisable _ _ _ => true
  | .queueFlush _ _ _ => true
  | .queueSetlevel _ _ => true
  | .queueQuery _ _ => true
  | .queueBadOp _ _ => true
  | .queueBoundaryEffect _ => true
  | .linkFrameSend port lane => s.portOk port && decide (lane < 4)
  | .linkFrameReceive port lane _ _ => s.portOk port && decide (lane < 4)
  | .laneDrop port lane _ => s.portOk port && decide (lane < 4)
  | .portTraining port _ _ _ _ _ _ => s.portOk port
  | .portRetrain _ _ => true
  | .portDisable _ _ => true
  | .portDown port _ => s.portOk port
  | .fabricWrite _ => true
  | .fabricRead _ => true
  | .readResp _ => true
  | .fadd64 _ => true
  | .cas64 _ => true
  | .swap64 _ => true
  | .atomicResp _ => true
  | .errResp _ => true
  | .broadcast core _ => s.coreOk core
  | .reduceScatter core _ => s.coreOk core
  | .allGather core _ => s.coreOk core
  | .allReduce core _ => s.coreOk core
  | .permute core _ => s.coreOk core
  | .barrier core _ => s.coreOk core
  | .collectivePacketReceive _ => true
  | .barrierArrivalReceive _ _ _ _ _ _ => true
  | .barrierComplete core _ => s.coreOk core
  | .reshardIssue core _ => s.coreOk core
  | .reshardDrainComplete => true
  | .reshardMoveStart => true
  | .reshardGrantReceive _ => true
  | .reshardBlockCommit _ => true
  | .reshardAckReceive _ => true
  | .reshardCommit => true
  | .fabLayoutWrite _ _ => true
  | .escrowStepOpen => true
  | .escrowOpenReceive _ _ _ _ => true
  | .escrowDeltaReceive _ _ _ _ _ => true
  | .escrowCloseReceive _ _ _ => true
  | .escrowBankSeal => true
  | .sealedReceive _ _ _ _ => true
  | .needFullReceive _ _ => true
  | .escrowSnapshotPoint => true
  | .freezeSend _ _ => true
  | .freezeReceive _ _ _ _ _ => true
  | .freezeEffective => true
  | .escFreeze _ => true
  | .escRollback _ => true
  | .escServe _ _ => true
  | .escReceive _ _ => true
  | .escDigest _ => true
  | .escThaw _ => true
  | .escBadOp _ _ => true
  | .thawReceive _ _ _ => true
  | .thawEffective => true
  | .fillDone die => s.dieOk die
  | .codecOpen e _ _ => s.engineOk e
  | .codecDecode e _ _ => s.engineOk e
  | .codecEncode e _ _ => s.engineOk e
  | .codecRelease e _ _ => s.engineOk e
  | .codecFlush e _ _ => s.engineOk e
  | .codecClose e _ _ => s.engineOk e
  | .codecItemSelect e => s.engineOk e
  | .codecFrameComplete e => s.engineOk e
  | .codecBufferResume e => s.engineOk e
  | .bar2Access link _ _ _ => s.linkOk link
  | .hostAtomic link _ _ _ _ => s.linkOk link
  | .msixAccess link _ _ => s.linkOk link
  | .hostLinkChange link _ _ _ _ => s.linkOk link
  | .mgtGet port _ _ => s.mgtOk port
  | .mgtLogRead port _ _ _ _ => s.mgtOk port
  | .mgtStage port _ _ _ => s.mgtOk port
  | .mgtStageDone port _ => s.mgtOk port
  | .mgtNeighbourDiscovery port => s.mgtOk port
  | .sealStrapClaim _ => true
  | .sealFallbackClaim _ => true
  | .sealHeartbeatSend _ => true
  | .sealHeartbeatReceive _ => true
  | .sealLostClaim _ => true
  | .sealOffer => true
  | .sealHostGrant _ _ _ => true
  | .sealAccept => true
  | .sealAcceptReceive _ => true
  | .sealCommitReceive _ _ _ => true
  | .sealHandover => true
  | .sealOfferTimeout => true
  | .sealCommitTimeout => true
  | .sealDispute => true
  | .sealDisputeTimeout => true
  | .sealDisputeFreezeEnd => true
  | .refMonitorWindow half _ => s.monitorOk half
  | .refMissingEdge half => s.monitorOk half
  | .refRecovered half => s.monitorOk half
  | .clkGate _ _ => true
  | .clkUngate _ _ => true
  | .clkDbgWrite _ _ => true
  | .q1ClusterGate clu => s.cluOk clu
  | .powerEntryComplete => true
  | .powerExit _ => true
  | .powerExitComplete _ _ => true
  | .capStep _ => true
  | .thermalStep _ _ => true
  | .pwrCapWrite _ _ => true
  | .pwrLatTolWrite _ _ => true
  | .resetCold _ => true
  | .resetWarm _ => true
  | .resetDie _ => true
  | .resetCore _ => true
  | .bootRomLoad half => s.monitorOk half
  | .firmwareVerified half => s.monitorOk half
  | .bursarBooted half => s.monitorOk half
  | .lpddr6InitComplete _ => true
  | .startupTestComplete _ _ => true
  | .partReady => true
  | .testLogicBist _ _ => true
  | .testLpddr6Cal _ _ => true
  | .testOpticalRecal _ _ => true
  | .testCancel _ => true
  | .opticalRecalStart => true
  | .testComplete _ => true
  | .secAttest _ => true
  | .secStage _ => true
  | .secEnrollOwner _ => true
  | .secRevokeOwner _ => true
  | .secRevokeVendor _ => true
  | .secAdvanceSvn _ => true
  | .secCert _ => true
  | .logEventIntake _ => true
  | .logAppend => true
  | .logDrop => true
  | .logCursorWrite _ _ => true
  | .logData7Read _ => true
  | .irqSourceRaise _ _ => true
  | .irqStatusClear _ _ _ => true
  | .irqEnableWrite _ _ _ => true
  | .fibreBlockUnlatch block => s.opticsOk block
  | .fibreBlockLatch block => s.opticsOk block
  | .dieResetComplete _ _ _ => true
  | .perstNAssert => true
  | .watchCalibrationComplete half _ => s.monitorOk half
  | .sealClaimReceive _ _ => true
  | .sealOfferReceive => true
  | .hostConfigAccess link _ _ => s.linkOk link
  | .mgtLinkChange port _ => s.mgtOk port
  | .ptpMasterLost port => s.mgtOk port
  | .escFillStreamReceive _ _ _ _ => true

/-- Every register field that is listed holds a value that fits its bits. -/
def fldsOk (m : KMap FKey Nat) : Prop := ∀ e ∈ m, e.2 < 2 ^ e.1.f.width

/-- A sound state: memory in canonical form, the poisoned blocks strictly ascending, and register fields that fit. -/
def State.Sound (s : State) : Prop := Mem.wf s.mem = true ∧ s.poison.Pairwise (· < ·) ∧ fldsOk s.flds

/-- Whether a core's unit of a kind takes a descriptor that reaches it: the core is present, its cluster neither lost nor in reset, and the unit
holds the descriptor already, or has room and no gate. -/
def State.unitTakes (s : State) (core kind : Nat) (d : Desc) : Bool :=
  s.coreOk core && !s.lost (coreClu core) && !s.rst.inReset.contains (coreDie core) &&
    ((s.heldOf core kind).any (fun h => h.d == d) || ((s.gateOf core kind).isNone && s.hasRoom core kind))

/-- What is fixed in a part and no command changes: its member, stepping, serial number and MAC addresses. -/
def Ident.same (a b : Ident) : Prop :=
  b.member = a.member ∧ b.stepping = a.stepping ∧ b.serial = a.serial ∧ b.macA = a.macA ∧ b.macB = a.macB

/-- What every command does to a state: the commands that wait stay as they are, soundness is kept clause by clause, the part stays the
part it is, a free value is taken only once, and nothing that was sent is taken back. -/
structure Keeps (r s : State) : Prop where
  pending : s.pending = r.pending
  mem : Mem.wf r.mem = true → Mem.wf s.mem = true
  poison : r.poison.Pairwise (· < ·) → s.poison.Pairwise (· < ·)
  flds : fldsOk r.flds → fldsOk s.flds
  ident : Ident.same r.ident s.ident
  free : r.free ≤ s.free
  out : ∃ l, s.out = l ++ r.out

end Sys2Proof.Machine
end

