-- ==== Sys2Proof/Certificates/Slice0/Obligations.lean ====
section
/-! DEFINITION. The statements for the provers. Rules R<n> are those of spec/. -/
open Sys2Proof Sys2Proof.Machine

/-- Step takes the front command; on an empty queue the block idles (the model's choice, log entry 5). -/
def Obligations.StepRunsTheFrontCommand : Prop :=
  (∀ (c : Instr) (s : State) (rest : List Instr), step { s with pending := c :: rest } = exec c { s with pending := rest }) ∧
  (∀ s : State, s.pending = [] → step s = .next s)

/-- State.reset meets the invariant that steps keep. -/
def Obligations.ResetIsSound : Prop := State.reset.Sound ∧ State.reset.pending = []

/-- The invariant of every step. -/
def Obligations.StepKeepsSound : Prop := ∀ s t : State, s.Sound → step s = .next t → t.Sound

/-- What every command keeps. -/
def Obligations.CommandsKeepWhatTheyMust : Prop := ∀ (c : Instr) (s t : State), exec c s = .next t → Keeps s t

/-- A rotation of the spare (R21, R22), and the end of a fill (R376). -/
def Obligations.SpareRotationMovesACluster : Prop :=
  (∀ (s : State) (d q l : Nat), s.dieOk d = true → s.rotMay d = true → s.nextSpare d (s.get .DCTL_CLMAP_SPARE d) = some q →
    s.logClu d q = some l →
    exec (.spareRotationStart d) s =
      .next (s.setDie d { s.die d with rot := some (q, s.get .DCTL_CLMAP_SPARE d, l, false), rotBeat := some s.now })) ∧
  (∀ (s : State) (d : Nat), s.dieOk d = true → s.rotMay d = false → exec (.spareRotationStart d) s = .next s) ∧
  (∀ (s : State) (d q p l : Nat), s.dieOk d = true → Mem.wf s.mem = true → (s.die d).rot = some (q, p, l, false) → q < 16 → p < 16 → q ≠ p →
    s.cluDrained (16 * d + q) = true →
    ∃ t, exec (.spareRotationCopy d) s = .next t ∧ (t.die d).rot = some (q, p, l, true) ∧ t.flds = s.flds ∧ t.cores = s.cores ∧
      (∀ k off, k < 8 → off < 0x480000 → Mem.read t.mem (coreLoc (8 * (16 * d + p) + k) off) =
        storedByte (coreLoc (8 * (16 * d + p) + k) off) (Mem.read s.mem (coreLoc (8 * (16 * d + q) + k) off))) ∧
      (∀ off, off < 2 ^ 24 → Mem.read t.mem (cluLoc (16 * d + p) off) =
        storedByte (cluLoc (16 * d + p) off) (Mem.read s.mem (cluLoc (16 * d + q) off))) ∧
      (∀ a, (∀ k off, k < 8 → off < 0x480000 → a ≠ coreLoc (8 * (16 * d + p) + k) off) →
        (∀ off, off < 2 ^ 24 → a ≠ cluLoc (16 * d + p) off) → Mem.read t.mem a = Mem.read s.mem a)) ∧
  (∀ (s : State) (d q p l : Nat), s.dieOk d = true → (s.die d).rot = some (q, p, l, true) → (s.die d).lossWait = [] → (s.die d).mapDue = false →
    q < 16 → p < 13 → l < 12 →
    ∃ t, exec (.spareRotationComplete d) s = .next t ∧ (t.die d).rot = none ∧ t.physClu d l = some p ∧ t.get .DCTL_CLMAP_SPARE d = q ∧
      t.get .DCTL_CLSTAT_ROT_COUNT d = (s.get .DCTL_CLSTAT_ROT_COUNT d + 1) % 2 ^ 16 ∧ t.mem = s.mem ∧ t.cores = s.cores ∧
      (∀ f u i, f ∉ [Field.DCTL_CLMAP_LOG, .DCTL_CLMAP_SPARE, .DCTL_CLSTAT_ROT_COUNT] ∨ u ≠ d → t.get f u i = s.get f u i)) ∧
  (∀ (s : State) (d : Nat), s.dieOk d = true → ((s.die d).rot = none ∨ ∃ q p l, (s.die d).rot = some (q, p, l, false)) →
    exec (.spareRotationComplete d) s = .next s) ∧
  (∀ (s : State) (d : Nat), s.dieOk d = true → exec (.fillDone d) s = .next (s.set .DCTL_CLSTAT_FILL 0 d))

/-- The loss of a cluster (R23 to R25). -/
def Obligations.ClusterLossIsHandledByCount : Prop :=
  (∀ (s : State) (d c : Nat), s.cluOk (16 * d + c) = true → c < 16 → s.lost (16 * d + c) = true → exec (.clusterLost d c) s = .next s) ∧
  (∀ (s F : State) (d c n : Nat), s.cluOk (16 * d + c) = true → c < 16 → s.lost (16 * d + c) = false →
    F = (s.fenceClu (16 * d + c)).setDie d { (s.fenceClu (16 * d + c)).die d with rot := none, lossWait := [], mapDue := false } →
    (s.die d).rot = none → (s.die d).lossWait = [] → (s.fenceClu (16 * d + c)).die d = s.die d → (s.die d).mapDue = false →
    popCount (F.get .DCTL_CLSTAT_LOST d) 13 = n →
    (n = 1 → F.logClu d c = none →
      ∃ t, exec (.clusterLost d c) s = .next t ∧ t = ((F.set .DCTL_CLMAP_SPARE 15 d).set .DCTL_CLSTAT_STATE 1 d).log'
        (srcDie d 0) 0xb012 2 [(1, d), (1, c)] ∧ t.get .DCTL_CLMAP_SPARE d = 15 ∧ t.get .DCTL_CLSTAT_STATE d = 1) ∧
    (∀ l, n = 1 → F.logClu d c = some l → F.get .DCTL_CLMAP_SPARE d < 13 → F.lost (16 * d + F.get .DCTL_CLMAP_SPARE d) = false →
      exec (.clusterLost d c) s = .next (((((((F.bistAbandon (16 * d + F.get .DCTL_CLMAP_SPARE d)).setLog d l
        (F.get .DCTL_CLMAP_SPARE d)).set .DCTL_CLMAP_SPARE 15 d).set .DCTL_CLSTAT_STATE 1 d).zeroClu (16 * d + F.get .DCTL_CLMAP_SPARE d)).set
        .DCTL_CLSTAT_FILL 1 d).log' (srcDie d 0) 0xb012 2 [(1, d), (1, c)] |>.freezeSend 1 (16 * d + c))) ∧
    (∀ l, n = 1 → F.logClu d c = some l → 13 ≤ F.get .DCTL_CLMAP_SPARE d →
      exec (.clusterLost d c) s = .next ((F.setLog d l 15).log' (srcDie d 0) 0xb012 2 [(1, d), (1, c)] |>.freezeSend 1 (16 * d + c))) ∧
    (n = 2 → exec (.clusterLost d c) s = .next (((F.applyVariant d).set .DCTL_CLSTAT_FILL 1 d).log' (srcDie d 0) 0xb013 2
      [(1, d), (1, c)] |>.freezeSend 1 (16 * d + c))) ∧
    (n = 3 → ∃ t, exec (.clusterLost d c) s = .next t ∧ t.clk.stopped = true ∧ t.fab.failed = true ∧ t.get .DCTL_CLSTAT_STATE d = 3)) ∧
  (∀ (s F : State) (d c q p l : Nat) (b : Bool), s.cluOk (16 * d + c) = true → c < 16 → s.lost (16 * d + c) = false →
    F = s.fenceClu (16 * d + c) → (F.die d).rot = some (q, p, l, b) →
    (c = q ∨ c = p → exec (.clusterLost d c) s = .next (F.loseAll d ((F.die d).lossWait ++ [16 * d + c]))) ∧
    (c ≠ q → c ≠ p → b = false → F.cluDrained (16 * d + q) = false →
      exec (.clusterLost d c) s = .next (F.setDie d { F.die d with lossWait := (F.die d).lossWait ++ [16 * d + c] })) ∧
    (c ≠ q → c ≠ p → b = true →
      exec (.clusterLost d c) s =
        .next ((F.setDie d { F.die d with lossWait := (F.die d).lossWait ++ [16 * d + c] }).rotComplete d)))

/-- Structure images (R37 to R46): what each command does in the state that it meets. -/
def Obligations.StructureCommandsFollowTheState : Prop :=
  (∀ (s : State) (a : Agent), s.get .RST_STATUS_READY = 1 → s.get .STR_STATUS_STATE ∈ [1, 3, 4] →
    exec (.strPrepareGo a) s = .next (s.set .STR_STATUS_REFUSE 0x10)) ∧
  (∀ (s : State) (a : Agent) (b : List Byte), s.get .RST_STATUS_READY = 1 → s.get .STR_STATUS_STATE ∈ [0, 2] →
    let x := (s.pendClear.set .STR_STATUS_STATE 1).mapStr fun y => { y with prepOpen := true, rwlSaved := s.rwlNow, readySent := false, abortSince := false }
    x.strRead (x.get .STR_LOAD_ADDR_ADDR * 4096) (x.get .STR_LOAD_LEN_LEN) = some b →
    exec (.strPrepareGo a) s = .next (match x.strCheck b (x.get .STR_LOAD_LEN_LEN) with
      | some (code, sec, off) => x.strRefuse (field b 8 4) code 0xff sec off
      | none => ((x.mapStr fun y => { y with
          pendingBank := x.armSet.map fun u => (u, ⟨field b 8 4, 0, slice b 0x20 16, x.unitPart (imgSecs b) u⟩)
          pendDigest := sha3 (b.take (field b 0x14 4 - 2420)), secOff := (imgEnts b).map fun e => (e.typ, e.off)
          pendAddr := x.get .STR_LOAD_ADDR_ADDR * 4096, pendLen := x.get .STR_LOAD_LEN_LEN }).set .STR_EPOCH_PENDING (field b 8 4)).syncMissing.syncGroup)) ∧
  (∀ (s : State) (epoch code unit sec off : Nat), ∃ t, s.strRefuse epoch code unit sec off = t ∧ t.get .STR_STATUS_STATE = 0 ∧
    t.get .STR_STATUS_LAST = 4 ∧ t.str.pendingBank = []) ∧
  (∀ (s : State) (u : Nat), s.ident.unitOk u = true → u < 124 → s.get .STR_STATUS_STATE = 1 → s.armSet.contains u = true → s.armed u = false →
    KMap.has s.str.pendingBank u = true → s.rst.inReset.contains (unitDieIdx u) = false → unitCheck s.ident s.pendSecs u = none →
    exec (.unitArm u) s = .next (s.setArmed u true).syncMissing ∧ (s.setArmed u true).armed u = true) ∧
  (∀ (s : State) (u : Nat), s.ident.unitOk u = true → s.get .STR_STATUS_STATE ≠ 1 → exec (.unitArm u) s = .next s) ∧
  (∀ (s : State) (v : Word) (c : Nat), bit v.toNat 0 = true →
    s.commitFault (if bits v.toNat 1 1 = 1 then bits v.toNat 23 16 else 16) (bits v.toNat 1 1) (bits v.toNat 9 8) = some c →
    exec (.strCommitGo v) s = .next (s.set .STR_STATUS_REFUSE c)) ∧
  (∀ (s : State) (v : Word), bit v.toNat 0 = true →
    s.commitFault (if bits v.toNat 1 1 = 1 then bits v.toNat 23 16 else 16) (bits v.toNat 1 1) (bits v.toNat 9 8) = none →
    exec (.strCommitGo v) s = .next (((s.mapStr fun y => { y with
      commitB := s.get .STR_COMMIT_BEAT_BEAT, commitLead := if bits v.toNat 1 1 = 1 then bits v.toNat 23 16 else 16
      commitScope := bits v.toNat 1 1, commitVariant := bits v.toNat 9 8
      aborted := false, abandonReq := false, cutDone := false, readySent := false, abortSince := false }).set .STR_STATUS_STATE 3).sendReady.syncGroup)) ∧
  (∀ (s : State), s.get .STR_STATUS_STATE = 3 → s.str.cutDone = false → s.str.commitB ≤ s.now + s.str.commitLead →
    (s.mapStr fun y => { y with cutDone := true }).cutFault = none →
    exec .commitCutoff s = .next (s.mapStr fun y => { y with cutDone := true })) ∧
  (∀ (s : State) (u : Nat), s.get .STR_STATUS_STATE = 3 → s.str.cutDone = false → s.str.commitB ≤ s.now + s.str.commitLead →
    s.str.commitScope = 0 → (s.mapStr fun y => { y with cutDone := true }).cutFault = some u → s.str.abandonReq = false →
    ∃ t, exec .commitCutoff s = .next t ∧ t = (s.mapStr fun y => { y with cutDone := true }).strAbort u ∧
      t.get .STR_STATUS_STATE = 2 ∧ t.get .STR_STATUS_LAST = 3 ∧ t.get .STR_EPOCH_PENDING = s.get .STR_EPOCH_PENDING) ∧
  (∀ (s : State) (u : Nat), s.get .STR_STATUS_STATE = 3 → s.str.cutDone = false → s.str.commitB ≤ s.now + s.str.commitLead →
    s.str.commitScope = 1 → (s.mapStr fun y => { y with cutDone := true }).cutFault = some u →
    exec .commitCutoff s = .next (((s.mapStr fun y => { y with cutDone := true }).strTell
      (.jobAbort (s.mapStr fun y => { y with cutDone := true }).strGroup.1 s.str.commitB)).strAbort u)) ∧
  (∀ (s : State), s.get .STR_STATUS_STATE ≠ 3 ∨ s.str.cutDone = true ∨ s.now + s.str.commitLead < s.str.commitB →
    exec .commitCutoff s = .next s) ∧
  (∀ (s : State) (a : Agent), s.get .RST_STATUS_READY = 1 → s.get .STR_STATUS_STATE = 2 →
    ∃ t, exec (.strAbandon a) s = .next t ∧ t.get .STR_STATUS_STATE = 0 ∧ t.get .STR_STATUS_LAST = 5 ∧ t.str.pendingBank = [] ∧
      t.mem = s.mem)

/-- The commit group, the switch and freezes (R44 to R50, R369 to R371). -/
def Obligations.CommitGroupAndFreezesActAtTheirBeats : Prop :=
  (∀ (s : State) (dev b epoch lat : Nat), let x := s.tc0In dev 4 lat
    x.now < b →
    ∃ t, exec (.commitReadyReceive dev b epoch lat) s = .next t ∧ (dev, b, epoch) ∈ t.str.ready ∧ t.mem = x.mem ∧
      (∀ r ∈ t.str.ready, r = (dev, b, epoch) ∨ r ∈ x.str.ready)) ∧
  (∀ (s : State) (dev b epoch lat : Nat), b ≤ (s.tc0In dev 4 lat).now → exec (.commitReadyReceive dev b epoch lat) s = .next (s.tc0In dev 4 lat)) ∧
  (∀ (s : State) (dev b lat : Nat), let x := (s.tc0In dev 5 lat).mapStr fun y => { y with ready := y.ready.filter fun r => !(r.1 == dev && r.2.1 == b) }
    x.get .STR_STATUS_STATE = 3 → x.str.commitScope = 1 → x.str.commitB = b → x.now < b → x.str.abandonReq = false →
    ∃ t, exec (.jobAbortReceive dev b lat) s = .next t ∧ t.get .STR_STATUS_STATE = 2 ∧ t.get .STR_STATUS_LAST = 3 ∧
      t.str.active = x.str.active) ∧
  (∀ (s : State) (l : List Nat), s.strCutoff.get .STR_STATUS_STATE ≠ 3 ∨ s.strCutoff.now < s.strCutoff.str.commitB ∨ s.strCutoff.str.cutDone = false →
    exec (.commitBeatSwitch l) s = .next s.strCutoff) ∧
  (∀ (s : State) (l : List Nat) (v u : Nat), u ∈ l → (s.strBanks l v).bank u =
    ⟨(KMap.get s.str.pendingBank u Image.empty).epoch, v, (KMap.get s.str.pendingBank u Image.empty).tag,
      (Secs.variant (KMap.get s.str.pendingBank u Image.empty).secs v).filter fun e => (s.ident.unitSecs u).contains e.1⟩) ∧
  (∀ (s : State) (u : Nat), s.ident.unitOk u = true → s.get .STR_STATUS_STATE ≠ 4 ∨ KMap.has s.str.oldBank u = false ∨ s.outstanding u = true →
    exec (.strDrainComplete u) s = .next s) ∧
  (∀ (s : State) (u : Nat), s.ident.unitOk u = true → s.get .STR_STATUS_STATE = 4 → KMap.has s.str.oldBank u = true → s.outstanding u = false →
    (∀ n, unitKind u ≠ .ledger n) →
    exec (.strDrainComplete u) s = .next (s.mapStr fun x => { x with oldBank := KMap.erase x.oldBank u }).strDone) ∧
  (∀ (s : State) (cause lost : Nat), let x := s.tc0All s.commitOthers (.freeze s.ownId s.now cause lost)
    x.get .ESC_STATUS_FROZEN ≠ 1 → x.esc.freezes = [] → s.now + x.freezeDelta < 2 ^ 64 →
    ∃ t, exec (.freezeSend cause lost) s = .next t ∧ t.esc.freezeAt = some (s.now + x.freezeDelta) ∧
      t.get .ESC_FREEZE_F = s.now + x.freezeDelta ∧ t.esc.freezes = [⟨s.ownId, s.now, cause, lost⟩] ∧ t.mem = x.mem) ∧
  (∀ (s : State) (dev b cause lost lat : Nat), let x := s.tc0In dev 7 lat
    x.get .ESC_STATUS_FROZEN ≠ 1 → x.esc.freezes = [] → b + x.freezeDelta < 2 ^ 64 →
    ∃ t, exec (.freezeReceive dev b cause lost lat) s = .next t ∧ t.esc.freezeAt = some (b + x.freezeDelta) ∧
      t.get .ESC_FREEZE_F = b + x.freezeDelta ∧ t.esc.freezes = [⟨dev, b, cause, lost⟩]) ∧
  (∀ (s : State) (F : Nat), s.esc.freezeAt = some F → F ≤ s.now →
    exec .freezeEffective s = .next ((s.strFreeze F).escFreeze).vceSync ∧
      (s.get .STR_STATUS_STATE = 3 → F < s.str.commitB → s.strFreeze F =
        ((((if s.str.commitScope = 1 then s.strTell (.jobAbort s.strGroup.1 s.str.commitB) else s).set .STR_ARMED_UNITS 0 0 0).set .STR_ARMED_UNITS 0 0 1).strAbort 0xffff).syncMissing)) ∧
  (∀ (s : State), s.esc.freezeAt = none → exec .freezeEffective s = .next s) ∧
  (∀ (s : State) (dev beat lat : Nat), let x := s.tc0In dev 11 lat
    x.get .ESC_STATUS_FROZEN = 1 → exec (.thawReceive dev beat lat) s = .next (x.setEsc fun e => { e with thawAt := some beat })) ∧
  (∀ (s : State) (b : Nat), s.esc.thawAt = some b → s.get .ESC_STATUS_FROZEN = 1 → b ≤ s.now →
    ∃ t, exec .thawEffective s = .next t ∧ t.get .ESC_STATUS_FROZEN = 0 ∧ t.esc.freezes = [] ∧ t.esc.freezeAt = none ∧ t.mem = s.mem)

/-- The beat (R55 to R65, R71). -/
def Obligations.BeatEdgesAndFramesDriveTheCount : Prop :=
  (∀ (s : State) (l : List Nat), s.get .RST_STATUS_STAGE = 0 → exec (.beatEdge l) s = .next s) ∧
  (∀ (s : State) (l : List Nat), s.get .RST_STATUS_STAGE ≠ 0 →
    let x := s.coldTime.edgeCount
    exec (.beatEdge l) s = .next (((x.set .BEAT_PHASE_CYCLES 0).set .BEAT_WALL_WALL (x.wallAt x.now)).edgeSlew.edgeActions s.now l) ∧
      x.beat.edges = s.beat.edges + 1 ∧
      (s.beat.started = false → x.now = 0 ∧ x.beat.started = true) ∧
      (s.beat.started = true → s.beat.hold = none → s.beat.adopt = none → x.now = (s.now + 1) % 2 ^ 64) ∧
      (∀ k, s.beat.started = true → s.beat.hold = some k → x.now = s.now) ∧
      (∀ n, s.beat.started = true → s.beat.hold = none → s.beat.adopt = some n → x.now = (s.now + 1 + n) % 2 ^ 64)) ∧
  (∀ (s : State), s.now % 16 ≠ 0 → exec .beatFrameSend s = .next s) ∧
  (∀ (s : State), s.now % 16 = 0 → let x := s.beatPromote
    x.get .BEAT_STATUS_STATE = 4 → x.beat.demote = false → x.beatAdopt.now % 16 = 0 →
    exec .beatFrameSend s = .next (x.beatAdopt.tc0All (x.beatAdopt.peers.map (·.dev)) (.beatFrame x.beatAdopt.now x.beatAdopt.ownId
      (x.beatAdopt.get .BEAT_STATUS_RANK) x.beatAdopt.period x.beatAdopt.announced (x.beatAdopt.wallAt x.beatAdopt.now) x.beatAdopt.imageOn))) ∧
  (∀ (s : State), s.now % 8 = 0 → exec .heartbeatSend s = .next (s.tc0All (s.peers.map (·.dev)) (.heartbeat s.ownId))) ∧
  (∀ (s : State), s.now % 8 ≠ 0 → exec .heartbeatSend s = .next s) ∧
  (∀ (s : State) (dev port rank count period wall lat : Nat) (ann : Option (Nat × Nat)) (img : Bool) (o : Int), let x := (s.tc0In dev 0 lat).hear dev
    x.beatSource = 0 → exec (.beatFrameReceive ⟨dev, port⟩ rank count period ann wall img o lat) s = .next x) ∧
  (∀ (s : State) (dev port rank count period wall lat : Nat) (ann : Option (Nat × Nat)) (img : Bool) (o : Int), let x := (s.tc0In dev 0 lat).hear dev
    x.beatSource ≠ 0 → x.get .BEAT_STATUS_STATE ≠ 4 → x.heeds dev rank = true →
    exec (.beatFrameReceive ⟨dev, port⟩ rank count period ann wall img o lat) s = .next (x.follow dev rank count period ann wall img (x.compensate port o))) ∧
  (∀ (s : State) (dev port rank count period wall lat : Nat) (ann : Option (Nat × Nat)) (img : Bool) (o : Int), let x := (s.tc0In dev 0 lat).hear dev
    x.beatSource ≠ 0 → x.get .BEAT_STATUS_STATE ≠ 4 → x.heeds dev rank = false →
    exec (.beatFrameReceive ⟨dev, port⟩ rank count period ann wall img o lat) s = .next (x.heardWall count wall)) ∧
  (∀ (s : State) (dev lat : Nat), let x := s.tc0In dev 1 lat
    x.peers.any (·.dev == dev) = true → x.beat.lostPeers.contains dev = false →
    ∃ t, exec (.heartbeatReceive dev lat) s = .next t ∧ t.heardAt dev = x.beat.edges ∧ t.flds = x.flds ∧ t.mem = x.mem) ∧
  (∀ (s : State) (dev port t1 : Nat), s.beat.master = some dev → s.get .BEAT_STATUS_STATE ≠ 4 → port ∈ s.portsTo dev → s.delayDue port = true →
    exec (.delayRequestSend ⟨dev, port⟩ t1) s = .next ((s.mapBeat fun b => { b with delayAt := KMap.set b.delayAt port b.edges }).tc0At port dev
      (.delayReq s.ownId s.now t1))) ∧
  (∀ (s : State) (dev port t1 : Nat), s.beat.master ≠ some dev ∨ s.delayDue port = false ∨ port ∉ s.portsTo dev →
    exec (.delayRequestSend ⟨dev, port⟩ t1) s = .next s) ∧
  (∀ (s : State) (dev count t1 t2 t3 lat : Nat), let x := s.tc0In dev 2 lat
    x.get .BEAT_STATUS_STATE = 4 → exec (.delayRequestReceive dev count t1 t2 t3 lat) s =
      .next ((x.tc0 dev (.delayResp x.ownId t1 t2 t3)).mapBeat fun b => { b with reports := b.reports ++ [⟨dev, count, x.now⟩] })) ∧
  (∀ (s : State) (dev port t1 t2 t3 t4 lat : Nat),
    ∃ t, exec (.delayResponseReceive ⟨dev, port⟩ t1 t2 t3 t4 lat) s = .next t ∧
      KMap.get t.beat.delay port 0 = (((t4 : Int) - t1) - ((t3 : Int) - t2)) / 2) ∧
  (∀ (s : State) (m : Nat), s.beat.master = some m → s.get .BEAT_STATUS_STATE ∈ [1, 2] → s.beat.lastOwn + 64 ≤ s.beat.edges →
    ¬(s.get .STR_STATUS_STATE = 3 ∧ s.str.cutDone = false) →
    ∃ t, exec .beatSourceLost s = .next t ∧ t.get .BEAT_STATUS_STATE = 3 ∧ m ∈ t.beat.lostCands ∧ t.mem = s.mem) ∧
  (∀ (s : State), s.beat.edges < s.beat.lastOwn + 64 → ¬(s.get .STR_STATUS_STATE = 3 ∧ s.str.aborted = true ∧ s.str.cutDone = false) →
    exec .beatSourceLost s = .next s) ∧
  (∀ (s : State) (dev : Nat), s.beat.edges < s.heardAt dev + 64 → exec (.peerLost dev) s = .next s) ∧
  (∀ (s : State) (dev : Nat), s.peers.any (·.dev == dev) = true → s.heardAt dev + 64 ≤ s.beat.edges → s.beat.lostPeers.contains dev = false →
    exec (.peerLost dev) s = .next ((s.peerLost dev 0).mapBeat fun b => { b with since := s.now }))

/-- The descriptor instructions of a tidy core (R140, R141). -/
def Obligations.TidyCoreInstructionsMoveDescriptors : Prop :=
  (∀ (s : State) (core dn addr : Nat), s.coreOk core = true → s.programRuns core = true → addr % 64 = 0 → addr + 64 ≤ coreMem →
    ∃ t, exec (.tdLd core dn addr) s = .next t ∧
      KMap.get (t.core core).dreg (dn % 8) 0 = BitVec.ofNat 512 (leNat (s.rd (coreLoc core addr) 64)) ∧
      t = s.setCore core { s.core core with dreg := KMap.set (s.core core).dreg (dn % 8) (BitVec.ofNat 512 (leNat (s.rd (coreLoc core addr) 64))) }) ∧
  (∀ (s : State) (core dn addr : Nat), s.coreOk core = true → s.programRuns core = true → Mem.wf s.mem = true → addr % 64 = 0 → addr + 64 ≤ coreMem →
    ∃ t, exec (.tdSt core dn addr) s = .next t ∧ t.cores = s.cores ∧ t.flds = s.flds ∧
      (∀ k, (h : k < 64) → Mem.read t.mem (coreLoc core addr + k) = (leBytes 64 (KMap.get (s.core core).dreg (dn % 8) 0).toNat).getD k 0) ∧
      (∀ a, a < coreLoc core addr ∨ coreLoc core addr + 64 ≤ a → Mem.read t.mem a = Mem.read s.mem a)) ∧
  (∀ (s : State) (core dn addr : Nat), s.coreOk core = true → s.programRuns core = true → addr % 64 ≠ 0 ∨ coreMem < addr + 64 →
    exec (.tdLd core dn addr) s = .next s ∧ exec (.tdSt core dn addr) s = .next s) ∧
  (∀ (s : State) (core dn : Nat) (v sel : Word), s.coreOk core = true → s.programRuns core = true →
    ∃ t, exec (.tdSetf core dn v sel) s = .next t ∧ t = s.setCore core { s.core core with
        dreg := KMap.set (s.core core).dreg (dn % 8) (KMap.get (t.core core).dreg (dn % 8) 0) } ∧
      (∀ i, i < 512 → (KMap.get (t.core core).dreg (dn % 8) 0).toNat.testBit i =
        let lo := 64 * bits sel.toNat 2 0 + bits sel.toNat 8 3
        let hi := 64 * bits sel.toNat 2 0 + min (bits sel.toNat 8 3 + bits sel.toNat 14 9) 63
        if lo ≤ i ∧ i ≤ hi then v.toNat.testBit (i - lo) else (KMap.get (s.core core).dreg (dn % 8) 0).toNat.testBit i)) ∧
  (∀ (s : State) (core rd dn : Nat), s.coreOk core = true →
    let d := KMap.get (s.core core).dreg (dn % 8) 0
    s.programRuns core = true → s.canIssue core d = true → s.tdyAdmits d = true → descClass d = 1 → s.gateOf core kMxe = none → s.clk.q1 = [] →
    ∃ t, exec (.tdIssue core rd dn) s = .next t ∧
      (t.core core).held = (s.core core).held ++ [⟨(s.core core).seq, kMxe, noQid, descMb d, (s.core core).pkt, s.now, d⟩] ∧
      (t.core core).seq = (s.core core).seq + 1 ∧ t.mem = s.mem ∧
      (rd % 32 ≠ 0 → KMap.get (t.core core).x (rd % 32) 0 = BitVec.ofNat 64 (s.core core).seq) ∧
      (rd % 32 = 0 → (t.core core).x = (s.core core).x)) ∧
  (∀ (s : State) (core rd dn : Nat), s.coreOk core = true → (s.core core).wait ≠ .none →
    exec (.tdIssue core rd dn) s = .next s) ∧
  (∀ (s : State) (core rd dn : Nat), s.coreOk core = true → s.programRuns core = true → (s.core core).wait = .none →
    s.tdyAdmits (KMap.get (s.core core).dreg (dn % 8) 0) = true → s.canIssue core (KMap.get (s.core core).dreg (dn % 8) 0) = false →
    exec (.tdIssue core rd dn) s = .next (s.setCore core { s.core core with stall := some (rd % 32, dn % 8) })) ∧
  (∀ (s : State) (core rd : Nat) (v : Word), s.coreOk core = true → s.programRuns core = true → rd % 32 ≠ 0 →
    ∃ t, exec (.tdDone core rd v) s = .next t ∧ t = s.setCore core { s.core core with
      x := KMap.set (s.core core).x (rd % 32) (BitVec.ofNat 64 (KMap.get (s.core core).done v.toNat 0)) }) ∧
  (∀ (s : State) (core rd : Nat) (v : Word), s.coreOk core = true → s.programRuns core = true → rd % 32 = 0 → exec (.tdDone core rd v) s = .next s) ∧
  (∀ (s : State) (core rd dn : Nat), s.coreOk core = true → s.programRuns core = true → (s.core core).wait = .none →
    s.tdyAdmits (KMap.get (s.core core).dreg (dn % 8) 0) = false →
    exec (.tdIssue core rd dn) s = .next ((s.tdyRefuse core noQid (KMap.get (s.core core).dreg (dn % 8) 0)).setX core (rd % 32)
      (BitVec.ofNat 64 (s.core core).seq))) ∧
  (∀ (s : State) (core dn rd addr : Nat) (v w : Word), s.coreOk core = true → s.programRuns core = false →
    ∀ c ∈ [Instr.tdLd core dn addr, .tdSt core dn addr, .tdSetf core dn v w, .tdIssue core rd dn, .tdNext core rd dn, .tdDone core rd v],
      exec c s = .next s)

/-- Wait-beats, signals and fences (R153, R154). -/
def Obligations.WaitsSignalsAndFencesGateIssue : Prop :=
  (∀ (s : State) (core : Nat) (d : Desc), s.coreOk core = true → (s.core core).wait = .none → s.tdyAdmits d = true → dbit d 0 32 = false →
    s.waitDue core false (dbits d 1 63 0) (dbits d 2 17 0) (s.get .BEAT_PHASE_CYCLES) = true →
    exec (.waitBeat core d) s = .next (s.setWait core .none)) ∧
  (∀ (s : State) (core : Nat) (d : Desc), s.coreOk core = true → (s.core core).wait = .none → s.tdyAdmits d = true →
    s.waitDue core (dbit d 0 32) (dbits d 1 63 0) (dbits d 2 17 0) (s.get .BEAT_PHASE_CYCLES) = false →
    ∃ t, exec (.waitBeat core d) s = .next t ∧ (t.core core).wait = .beat (dbit d 0 32) (dbits d 1 63 0) (dbits d 2 17 0) (dbits d 2 63 32) ∧
      t.get .TDY_STATUS_STATE core = 2 ∧ t.mem = s.mem) ∧
  (∀ (s : State) (core : Nat) (d : Desc), s.coreOk core = true → (s.core core).wait = .none → s.tdyAdmits d = false →
    exec (.waitBeat core d) s = .next (s.tdyRefuse core noQid d) ∧ exec (.signal core d) s = .next (s.tdyRefuse core noQid d) ∧
    exec (.fence core d) s = .next (s.tdyRefuse core noQid d)) ∧
  (∀ (s : State) (core phase b ph step : Nat), let x := s.set .BEAT_PHASE_CYCLES (max phase (s.get .BEAT_PHASE_CYCLES))
    s.coreOk core = true → (s.core core).wait = .beat false b ph step →
    x.waitDue core false b ph (max phase (s.get .BEAT_PHASE_CYCLES)) = true →
    ∃ t, exec (.waitBeatRelease core phase) s = .next t ∧ (t.core core).wait = .none ∧ t.get .TDY_STATUS_STATE core = 1) ∧
  (∀ (s : State) (core phase b ph step : Nat) (o : Bool), let x := s.set .BEAT_PHASE_CYCLES (max phase (s.get .BEAT_PHASE_CYCLES))
    s.coreOk core = true → (s.core core).wait = .beat o b ph step →
    x.waitDue core o b ph (max phase (s.get .BEAT_PHASE_CYCLES)) = false → exec (.waitBeatRelease core phase) s = .next x) ∧
  (∀ (s : State) (core : Nat) (d : Desc), s.coreOk core = true → (s.core core).wait = .none → s.tdyAdmits d = true →
    ∃ t, exec (.signal core d) s = .next t ∧ (t.core core).seq = (s.core core).seq + 1 ∧ (t.core core).wait = .none ∧ t.mem = s.mem ∧
      (t.core core).sigs = (s.core core).sigs ++ [⟨(s.core core).seq, dbits d 1 57 48,
        if dbit d 1 10 then (s.logCore core).getD (dbits d 1 9 0) else dbits d 1 9 0, dbits d 1 21 16, dbits d 1 47 32⟩]) ∧
  (∀ (s : State) (core : Nat) (g : PendSig) (rest : List PendSig), s.coreOk core = true → s.sigReady core = some (g, rest) → s.sealHeld = false →
    ∃ t, exec (.signalSend core) s = .next t ∧ (t.core core).sigs = rest ∧
      KMap.get (t.core core).done kSig 0 = KMap.get (s.core core).done kSig 0 + 1 ∧ t.out = .pkg (.signal g.target g.ctr g.inc) :: s.out) ∧
  (∀ (s : State) (core ctr inc : Nat), s.coreOk core = true →
    ∃ t, exec (.signalDeliver core ctr inc) s = .next t ∧
      t.get .TDY_SIG_COUNT core (ctr % 64) = (s.get .TDY_SIG_COUNT core (ctr % 64) + inc) % 2 ^ 32 ∧ t.cores = s.cores ∧ t.mem = s.mem ∧
      (∀ f u i, f ≠ .TDY_SIG_COUNT ∨ u ≠ core ∨ i ≠ ctr % 64 → t.get f u i = s.get f u i)) ∧
  (∀ (s : State) (core : Nat) (d : Desc), s.coreOk core = true → (s.core core).wait = .none → s.tdyAdmits d = true →
    let x := s.setCore core { s.core core with seq := (s.core core).seq + 1 }
    (x.fenceMet core (s.core core).seq (dbits d 1 9 0) (dbit d 1 22) (dbits d 1 21 16) (dbits d 2 31 0) = true →
      exec (.fence core d) s = .next x) ∧
    (x.fenceMet core (s.core core).seq (dbits d 1 9 0) (dbit d 1 22) (dbits d 1 21 16) (dbits d 2 31 0) = false →
      exec (.fence core d) s = .next (x.setWait core (.fence (s.core core).seq (dbits d 1 9 0) (dbit d 1 22) (dbits d 1 21 16) (dbits d 2 31 0)
        (dbits d 2 63 32) s.now)))) ∧
  (∀ (s : State) (core seq drain ctr value tmo start : Nat) (u : Bool), s.coreOk core = true → (s.core core).wait = .fence seq drain u ctr value tmo start →
    (s.fenceMet core seq drain u ctr value = true → exec (.fenceRelease core) s = .next (s.setWait core .none)) ∧
    (s.fenceMet core seq drain u ctr value = false → exec (.fenceRelease core) s = .next s)) ∧
  (∀ (s : State) (core seq drain ctr value tmo start : Nat) (u : Bool), s.coreOk core = true → (s.core core).wait = .fence seq drain u ctr value tmo start →
    tmo ≠ 0 → start + tmo ≤ s.now → s.fenceMet core seq drain u ctr value = false →
    ∃ t, exec (.fenceTimeout core) s = .next t ∧ (t.core core).wait = .none ∧ t.mem = s.mem ∧
      t.get .TDY_STATUS_DROPPED core = (s.get .TDY_STATUS_DROPPED core + 1) % 2 ^ 16)

/-- The matrix engine's additions, its admission of a descriptor, and accesses of its tiles (R113, R120, R122, R126, R129). -/
def Obligations.MatrixDescriptorsAddIntoTiles : Prop :=
  (∀ (s : State) (core : Nat) (x : Mma) (fa fb : Fmt) (ng i j : Nat), Mem.wf s.mem = true → x.m ≤ 64 → x.n ≤ 64 → x.tile < 16 → i < 64 → j < 64 →
    let t := (s.mmaAdd core x fa fb ng).1
    t.acc core x.tile i j =
      (if i < x.m ∧ j < x.n then
        (if (s.liveRows core x).contains i then (s.elemAdd core x fa fb i j ng (if x.ovw then 0 else s.acc core x.tile i j)).1 % 2 ^ 52
         else if x.ovw then 0 else s.acc core x.tile i j)
       else s.acc core x.tile i j) ∧ t.flds = s.flds ∧
      ∀ a, (∀ i' j', i' < x.m → j' < x.n → a < accLoc core x.tile i' j' ∨ accLoc core x.tile i' j' + 8 ≤ a) → Mem.read t.mem a = Mem.read s.mem a) ∧
  (∀ (s : State) (core : Nat) (d : Desc) (fa fb : Fmt) (fo co : Nat), s.unitTakes core kMxe d = true →
    let x := mmaOf d
    let row := dbits d 4 9 0
    let ff := (Fmt.ofCode fo).getD .fp32
    (s.canStart core kMxe d = false ∨ s.spansClear core kMxe d = false → exec (.mmaDescriptor core d) s = .next (s.hold core kMxe d)) ∧
    (s.canStart core kMxe d = true → s.spansClear core kMxe d = true →
      ((x.steer && s.stale (coreDie core) row (s.get .TDY_STEP_STEP core)) = true →
        exec (.mmaDescriptor core d) s = .next (s.steerHold core kMxe d)) ∧
      ((x.steer && s.stale (coreDie core) row (s.get .TDY_STEP_STEP core)) = false →
        (fo, co) = (if x.steer then s.steered (coreDie core) row x.role else (x.outFmt, x.outCoarse)) →
        (∀ b, x.fmtFault d fo co = some b → exec (.mmaDescriptor core d) s = .next (s.mxeRefuse core d true b)) ∧
        (x.fmtFault d fo co = none → mmaFmt x.aFmt = some fa → mmaFmt x.bFmt = some fb →
          (∀ b, x.fault d fa fb ff = some b → exec (.mmaDescriptor core d) s = .next (s.mxeRefuse core d false b)) ∧
          (x.fault d fa fb ff = none →
            let pol := (s.bankFor (unitClu (coreClu core)) (s.heldFor core kMxe d).beat).sec 6
            let clip := clipOf pol (if x.steer then some (row, x.role) else none) x.tid
            exec (.mmaDescriptor core d) s = .next (s.mmaRun core d x fa fb ff co clip pol) ∧
            (x.out = false → s.poisonGroup core x fa fb = none → (s.core core).accWait = [] → (s.core core).stall = none →
              ∃ t, exec (.mmaDescriptor core d) s = .next t ∧ t.mem = (s.mmaAdd core x fa fb (ceilDiv x.k 32)).1.mem ∧
                t.get .MXE_GROUPS_COUNT core = (s.get .MXE_GROUPS_COUNT core +
                  (if (s.liveRows core x).length = 0 then 0 else ceilDiv x.k 32)) % 2 ^ 64)))))) ∧
  (∀ (s : State) (a : Agent) (da loc : Nat) (w : Bool) (data : List Byte), s.resolve a (s.carveBank a) da = .at loc →
    (isAcc loc = true → s.tilesBusy (accCore loc) (s.core (accCore loc)).seq (accTiles (accOff loc) data.length) = true →
      ∃ t, exec (.accmemAccess a da w data) s = .next t ∧ t.mem = s.mem ∧ t.flds = s.flds ∧ t.out = s.out ∧
        (t.core (accCore loc)).accWait = (s.core (accCore loc)).accWait ++ [⟨a, accOff loc, w, data, (s.core (accCore loc)).seq⟩]) ∧
    (isAcc loc = true → s.tilesBusy (accCore loc) (s.core (accCore loc)).seq (accTiles (accOff loc) data.length) = false → w = true →
      ∃ t, exec (.accmemAccess a da w data) s = .next t ∧ t.flds = s.flds ∧ t.out = .answer a true [] :: s.out ∧
        (Mem.wf s.mem = true → ∀ k, (h : k < data.length) → Mem.read t.mem (loc + k) = storedByte (loc + k) data[k]) ∧
        (Mem.wf s.mem = true → ∀ p, p < loc ∨ loc + data.length ≤ p → Mem.read t.mem p = Mem.read s.mem p)) ∧
    (isAcc loc = true → s.tilesBusy (accCore loc) (s.core (accCore loc)).seq (accTiles (accOff loc) data.length) = false → w = false →
      exec (.accmemAccess a da w data) s = .next (s.emit (.answer a true (s.rd loc data.length)))) ∧
    (isAcc loc = false → exec (.accmemAccess a da w data) s = .next (s.emit (.answer a false [])))) ∧
  (∀ (s : State) (a : Agent) (da : Nat) (w : Bool) (data : List Byte), (∀ loc, s.resolve a (s.carveBank a) da ≠ .at loc) →
    exec (.accmemAccess a da w data) s = .next ((s.unmappedEv a da).emit (.answer a false [])))

/-- The vector engine's operations, the convert, and the resumption of a steered descriptor (R85, R107, R147, R152, R522). -/
def Obligations.VectorOperationsWriteTheirRows : Prop :=
  (∀ p ∈ [(Instr.vecAdd, 0x01), (.vecSub, 0x02), (.vecMul, 0x03), (.vecAxpb, 0x04), (.vecMax, 0x05), (.vecMin, 0x06), (.vecExp, 0x07),
      (.vecLog, 0x08), (.vecRsqrt, 0x09), (.vecRecip, 0x0a), (.vecTanh, 0x0b), (.vecSigmoid, 0x0c), (.vecRowsum, 0x10), (.vecRowmax, 0x11),
      (.vecRowsq, 0x12)], ∀ (s : State) (core : Nat) (d : Desc), s.coreOk core = true →
    (s.unitTakes core kVec d = true →
      dbits d 0 39 32 = p.2 ∨ vecOpListed (dbits d 0 39 32) = false → exec (p.1 core d) s = .next (s.vecStart core d false)) ∧
    (dbits d 0 39 32 ≠ p.2 → vecOpListed (dbits d 0 39 32) = true → exec (p.1 core d) s = .fault .otherRow)) ∧
  (∀ (s : State) (core : Nat) (d : Desc), s.unitTakes core kVec d = true →
    exec (.vecConvert core d) s = .next (s.vecStart core d true)) ∧
  (∀ (s : State) (core : Nat) (d : Desc) (conv : Bool) (fd co : Nat),
    let x := vecOf d
    let row := dbits d 3 41 32
    let ff (c : Nat) := (Fmt.ofCode c).getD .fp32
    (s.canStart core kVec d = false → s.vecStart core d conv = s.hold core kVec d) ∧
    (s.canStart core kVec d = true →
      ((x.steer && s.stale (coreDie core) row (s.get .TDY_STEP_STEP core)) = true → s.vecStart core d conv = s.steerHold core kVec d) ∧
      ((x.steer && s.stale (coreDie core) row (s.get .TDY_STEP_STEP core)) = false →
        (fd, co) = (if x.steer then s.steered (coreDie core) row x.role else (x.dstFmt, x.dstCoarse)) →
        firstReserved d (vecReserved conv x.steer) = none →
        (conv = false → vecOpListed x.op = false → s.vecStart core d conv = s.vecRefuse core d false (32, x.op)) ∧
        (conv = true ∨ vecOpListed x.op = true →
          (∀ b, x.fmtFault d conv fd co = some b → s.vecStart core d conv = s.vecRefuse core d true b) ∧
          (∀ b, x.fmtFault d conv fd co = none → x.fault d conv (ff x.srcFmt) (ff x.bFmt) (ff fd) = some b →
            s.vecStart core d conv = s.vecRefuse core d false b) ∧
          (x.fmtFault d conv fd co = none → x.fault d conv (ff x.srcFmt) (ff x.bFmt) (ff fd) = none →
            ∀ n p, s.vecPoison core x d conv (ff x.srcFmt) (ff x.bFmt) = some (n, p) →
            let pol := (s.bankFor (unitClu (coreClu core)) (s.heldFor core kVec d).beat).sec 6
            s.vecStart core d conv = ((s.vecRun core x conv (ff x.srcFmt) (ff x.bFmt) (ff fd) co
              (clipOf pol (if x.steer then some (row, x.role) else none) x.tid) pol n).coreUe (srcCore core) core p).refuse core kVec d) ∧
          (x.fmtFault d conv fd co = none → x.fault d conv (ff x.srcFmt) (ff x.bFmt) (ff fd) = none →
            s.vecPoison core x d conv (ff x.srcFmt) (ff x.bFmt) = none →
            let pol := (s.bankFor (unitClu (coreClu core)) (s.heldFor core kVec d).beat).sec 6
            s.vecStart core d conv = (s.vecRun core x conv (ff x.srcFmt) (ff x.bFmt) (ff fd) co
              (clipOf pol (if x.steer then some (row, x.role) else none) x.tid) pol x.rows).complete core kVec d))))) ∧
  (∀ (s : State) (core : Nat) (x : VecD) (conv : Bool) (fa fb fd : Fmt) (co clip : Nat) (pol : List Byte) (n : Nat), Mem.wf s.mem = true →
    let t := s.vecRun core x conv fa fb fd co clip pol n
    t.cores = s.cores ∧
    (∀ f u i, f ∉ [Field.DCTL_TALLY_UNMAP0_SAT, .DCTL_TALLY_UNMAP0_NONFIN, .DCTL_TALLY_UNMAP1_UNDER] ∨ u ≠ coreDie core →
      t.get f u i = s.get f u i) ∧
    (∀ a, (∀ r < n, let c := (convertRow fd clip (x.sat || scaled fd co)
            (fun j => roundOf x.round (s.srIn core x.slot x.tid x.idx) (x.idx + r * x.idxRow + j))
            ((s.vecVals core x conv fa fb r).map fun v => v.div (.fin (coarseVal fd co))))
          (a < coreLoc core (x.dst + r * x.dstLd) ∨ coreLoc core (x.dst + r * x.dstLd) + (packRow fd c.1).length ≤ a) ∧
          (fd.hasFine = true → a < coreLoc core (x.dstScl + r * x.dstSld) ∨ coreLoc core (x.dstScl + r * x.dstSld) + c.2.1.length ≤ a)) →
      Mem.read t.mem a = Mem.read s.mem a) ∧
    (fd.hasFine = false → ∀ r < n, let bs (r : Nat) := packRow fd (convertRow fd clip (x.sat || scaled fd co)
          (fun j => roundOf x.round (s.srIn core x.slot x.tid x.idx) (x.idx + r * x.idxRow + j))
          ((s.vecVals core x conv fa fb r).map fun v => v.div (.fin (coarseVal fd co)))).1
      (∀ r' < n, (bs r').length ≤ x.dstLd) →
        ∀ k, (h : k < (bs r).length) →
        Mem.read t.mem (coreLoc core (x.dst + r * x.dstLd) + k) = storedByte (coreLoc core (x.dst + r * x.dstLd) + k) ((bs r)[k]))) ∧
  (∀ (s : State) (core : Nat) (d : Desc), s.coreOk core = true →
    ((s.core core).steerWait.contains d = false → exec (.steeredDescriptorResume core d) s = .next s) ∧
    ((s.core core).steerWait.contains d = true →
      (s.stale (coreDie core) (if descClass d = 1 then dbits d 4 9 0 else dbits d 3 41 32) (s.get .TDY_STEP_STEP core) = true →
        exec (.steeredDescriptorResume core d) s = .next s) ∧
      (s.stale (coreDie core) (if descClass d = 1 then dbits d 4 9 0 else dbits d 3 41 32) (s.get .TDY_STEP_STEP core) = false →
        exec (.steeredDescriptorResume core d) s =
          .next (if descClass d = 1 then (s.steerTake core d).mmaStart core d else (s.steerTake core d).vecStart core d (descClass d == 3)))))

/-- Doorbells of queues (R297, R298, R304, R524). The numbers of the causes are the model's choice. -/
def Obligations.DoorbellsPublishOrAreDiscarded : Prop :=
  (∀ (s : State) (q loc : Nat) (v : QD), Mem.wf s.mem = true → s.qLoc q = some loc → loc + 64 ≤ 2 ^ 44 → s.poisoned loc 64 = false →
    (s.qPut q v).qFind q = .desc (v % 2 ^ 512) ∧ (s.qPut q v).flds = s.flds ∧
    ∀ a, a < loc ∨ loc + 64 ≤ a → Mem.read (s.qPut q v).mem a = Mem.read s.mem a) ∧
  (∀ (v : QD) (l l' n : Nat), l < 8 → l' < 8 → qTail (qSetTail v l n % 2 ^ 512) l' = (if l' = l then n % 2 ^ 16 else qTail (v % 2 ^ 512) l') ∧
    qHead (qSetTail v l n % 2 ^ 512) l' = qHead (v % 2 ^ 512) l' ∧ qEnabled (qSetTail v l n % 2 ^ 512) = qEnabled (v % 2 ^ 512)) ∧
  (∀ (s : State) (a : Agent) (q l : Nat) (w : Word) (v : QD), q < 2 ^ 20 → l < 8 →
    let x := s.wake 2
    let n := bits w.toNat 15 0
    let u := qSetTail v l n
    x.qFind q = .desc v →
    (qEnabled v = true → l < qLevels v → (n + 65536 - qTail v l) % 65536 < 2 ^ 15 → (n + 65536 - qHead v l) % 65536 ≤ 2 ^ qLog2 v →
      (qClass v = 2 → x.agentDomain a = some (qReaderDomain v)) →
      (¬ (qOcc v ≤ qLevel u ∧ qLevel u < qOcc u ∧ qArmed u = true ∧ qIrqEn u = true) →
        exec (.doorbellWrite a q (8 * l) 8 w) s = .next ((x.qTouch v q).qPut q u)) ∧
      (qOcc v ≤ qLevel u ∧ qLevel u < qOcc u ∧ qArmed u = true ∧ qIrqEn u = true →
        exec (.doorbellWrite a q (8 * l) 8 w) s =
          .next ((if qIrqDest u = 0 then (x.qTouch v q).sendMsix (qVector u) false
            else (x.qTouch v q).emit (.stwQueue q)).qPut q (qSetArmed u false)))) ∧
    (∀ cause, (cause = 0 ∧ qEnabled v = false) ∨ (cause = 1 ∧ qEnabled v = true ∧ qLevels v ≤ l) ∨
      (cause = 2 ∧ qEnabled v = true ∧ l < qLevels v ∧ 2 ^ 15 ≤ (n + 65536 - qTail v l) % 65536) ∨
      (cause = 3 ∧ qEnabled v = true ∧ l < qLevels v ∧ (n + 65536 - qTail v l) % 65536 < 2 ^ 15 ∧ 2 ^ qLog2 v < (n + 65536 - qHead v l) % 65536) ∨
      (cause = 4 ∧ qEnabled v = true ∧ l < qLevels v ∧ (n + 65536 - qTail v l) % 65536 < 2 ^ 15 ∧ (n + 65536 - qHead v l) % 65536 ≤ 2 ^ qLog2 v ∧
        qClass v = 2 ∧ x.agentDomain a ≠ some (qReaderDomain v)) →
      exec (.doorbellWrite a q (8 * l) 8 w) s = .next ((x.qTouch v q).doorbellEv (x.qTouch v q |>.qSrc v) q l n v cause))) ∧
  (∀ (s : State) (a : Agent) (q l : Nat) (w : Word), q < 2 ^ 20 → l < 8 →
    ((s.wake 2).qFind q = .noTable → exec (.doorbellWrite a q (8 * l) 8 w) s =
      .next ((s.wake 2).doorbellEv (srcHub ((s.wake 2).fabUnit - 120) 5) q l (bits w.toNat 15 0) 0 0)) ∧
    ((s.wake 2).qFind q = .poison → exec (.doorbellWrite a q (8 * l) 8 w) s =
      .next (((s.wake 2).qUe q).doorbellEv (srcHub ((s.wake 2).fabUnit - 120) 5) q l (bits w.toNat 15 0) 0 5))) ∧
  (∀ (s : State) (src q l n : Nat) (v : QD) (cause : Nat), (s.doorbellEv src q l n v cause).mem = s.mem ∧
    (s.doorbellEv src q l n v cause).que = s.que ∧ (s.qTouch v q).mem = s.mem ∧ (s.qTouch v q).que.on = s.que.on) ∧
  (∀ (s : State) (a : Agent) (q off size : Nat) (w : Word), ¬ (size = 8 ∧ off % 8 = 0 ∧ off / 8 < 8) →
    exec (.doorbellWrite a q off size w) s = .next s) ∧
  (∀ (s : State) (a : Agent) (q l : Nat) (v : QD), q < 2 ^ 20 → s.qFind q = .desc v → l < 8 →
    exec (.doorbellRead a q (8 * l) 8) s = .next ((s.qTouch v q).emit
      (.answer a true (leBytes 8 (qHead v l + qTail v l * 2 ^ 16 + b2n (qEnabled v) * 2 ^ 63))))) ∧
  (∀ (s : State) (a : Agent) (q l : Nat), q < 2 ^ 20 → s.qFind q = .noTable ∨ 8 ≤ l ∧ s.qFind q ≠ .poison →
    ∃ t, exec (.doorbellRead a q (8 * l) 8) s = .next t ∧ t.out = .answer a true (leBytes 8 0) :: s.out ∧ t.mem = s.mem) ∧
  (∀ (s : State) (a : Agent) (q off size : Nat), ¬ (size = 8 ∧ off % 8 = 0) → ¬ (size = 4 ∧ off % 4 = 0) →
    exec (.doorbellRead a q off size) s = .next (s.emit (.answer a true (List.replicate size 0))))

/-- The operations of the QUE block (R302, R305, R306, R524, R525). -/
def Obligations.QueueOperationsComplete : Prop :=
  (∀ (s : State) (a : Agent) (q : Nat) (v : QD), s.get .RST_STATUS_READY = 1 → s.que.waiting = none → q < 2 ^ 20 → s.qFind q = .desc v →
    let y := (s.set .QUE_OP_RES_DONE 0).qTouch v q
    (y.enableStatus q v = 0 →
      ∃ t, exec (.queueEnable a q) s = .next t ∧ t = ((y.qPut q (qRearm (putBit v 63 true))).qSetOn q true).qDone 0 (qOcc v) ∧
        t.get .QUE_OP_RES_DONE = 1 ∧ t.get .QUE_OP_RES_STATUS = 0 ∧ q ∈ t.que.on ∧ t.get .QUE_STATUS_ENABLED = t.que.on.length % 2 ^ Field.QUE_STATUS_ENABLED.width ∧ t.cores = s.cores) ∧
    (y.enableStatus q v ≠ 0 →
      ∃ t, exec (.queueEnable a q) s = .next t ∧ t.mem = s.mem ∧ t.que.on = s.que.on ∧ t.get .QUE_OP_RES_STATUS = y.enableStatus q v % 2 ^ Field.QUE_OP_RES_STATUS.width ∧
        t.get .QUE_OP_RES_DONE = 1) ∧
    (qInPkt v = false →
      exec (.queueDisable a q false) s = .next ((y.qOff q v).qDone 0 (qOcc v)) ∧
      (∀ m, exec (.queueFlush a q m) s = .next ((y.qFlush q v (m % 256)).1.qDone 0 (qOcc (y.qFlush q v (m % 256)).2)))) ∧
    exec (.queueDisable a q true) s = .next (((y.qEndPacket q v).1.qOff q (y.qEndPacket q v).2).qDone 0 (qOcc (y.qEndPacket q v).2)) ∧
    (qInPkt v = true →
      (∃ t, exec (.queueDisable a q false) s = .next t ∧ t.que.waiting = some (2, q, 0) ∧ t.mem = s.mem ∧ t.que.on = s.que.on ∧
        t.get .QUE_OP_RES_DONE = 0) ∧
      (∀ m, ∃ t, exec (.queueFlush a q m) s = .next t ∧ t.que.waiting = some (3, q, m % 256) ∧ t.que.on = s.que.on ∧
        t.get .QUE_OP_RES_DONE = 0 ∧ t.mem = (y.qPut q (putBit v 61 true)).mem)) ∧
    (∃ t, exec (.queueSetlevel a q) s = .next t ∧ t.mem = (y.qPut q (qRearm (putBits v 51 32 (s.get .QUE_OP_ARG_LEVEL)))).mem ∧
      t.que.on = s.que.on ∧ t.get .QUE_OP_RES_DONE = 1 ∧ t.get .QUE_OP_RES_STATUS = 0) ∧
    (∃ t, exec (.queueQuery a q) s = .next t ∧ t.mem = s.mem ∧ t.que.on = s.que.on ∧ t.get .QUE_OP_RES_DONE = 1 ∧
      t.get .QUE_OP_RES_STATUS = 0 ∧ t.get .QUE_OP_RES_OCC = qOcc v % 2 ^ Field.QUE_OP_RES_OCC.width)) ∧
  (∀ (s : State) (a : Agent) (q m : Nat) (b : Bool), s.get .RST_STATUS_READY = 1 → s.que.waiting = none → q < 2 ^ 20 →
    ∀ c ∈ [Instr.queueEnable a q, .queueDisable a q b, .queueFlush a q m, .queueSetlevel a q, .queueQuery a q],
      (s.qFind q = .noTable → exec c s = .next ((s.set .QUE_OP_RES_DONE 0).qEnd 7)) ∧
      (s.qFind q = .poison → exec c s = .next (((s.set .QUE_OP_RES_DONE 0).qUe q).qEnd 8))) ∧
  (∀ (s : State) (a : Agent) (q m op : Nat) (b : Bool), ¬ (1 ≤ op % 16 ∧ op % 16 ≤ 5) →
    ∀ c ∈ [Instr.queueEnable a q, .queueDisable a q b, .queueFlush a q m, .queueSetlevel a q, .queueQuery a q, .queueBadOp a op],
      (s.get .RST_STATUS_READY = 1 → s.que.waiting.isSome = true → exec c s = .next (s.set .QUE_OP_RES_STATUS 6)) ∧
      (s.get .RST_STATUS_READY ≠ 1 →
        exec c s = .next (s.log' (srcHub s.inCharge 12) 0xb006 1 [(8, 0x7f001000000), (4, s.agentSrc a)]))) ∧
  (∀ (s : State) (a : Agent) (op : Nat), s.get .RST_STATUS_READY = 1 → s.que.waiting = none → ¬ (1 ≤ op % 16 ∧ op % 16 ≤ 5) →
    ∃ t, exec (.queueBadOp a op) s = .next t ∧ t.mem = s.mem ∧ t.que = s.que ∧ t.get .QUE_OP_RES_STATUS = 9 ∧ t.get .QUE_OP_RES_DONE = 1) ∧
  (∀ (s : State) (a : Agent) (op : Nat), 1 ≤ op % 16 ∧ op % 16 ≤ 5 → exec (.queueBadOp a op) s = .fault .otherRow) ∧
  (∀ (s : State) (q : Nat) (v : QD), q < 2 ^ 20 → s.qFind q = .desc v →
    (qInPkt v = true → exec (.queueBoundaryEffect q) s = .next s) ∧
    (qInPkt v = false → KMap.get? s.que.dueOff q = none →
      (∀ m, s.que.waiting = some (2, q, m) →
        exec (.queueBoundaryEffect q) s = .next (({ s.qOff q v with que := { (s.qOff q v).que with waiting := none } } : State).qDone 0 (qOcc v))) ∧
      (∀ m, s.que.waiting = some (3, q, m) → (s.qFlush q v m).1.que.dueOff = s.que.dueOff →
        exec (.queueBoundaryEffect q) s = .next (({ (s.qFlush q v m).1 with que := { (s.qFlush q v m).1.que with waiting := none } } : State).qDone 0
          (qOcc (s.qFlush q v m).2))) ∧
      (s.que.waiting = none → exec (.queueBoundaryEffect q) s = .next s)))

/-- The scheduler and the taking of items (R140, R157 to R160, R300). -/
def Obligations.SchedulerTakesTheBestReadyPacket : Prop :=
  (∀ (s : State) (core : Nat) (l : List Cand), (s.candBest core l = none ↔ l = []) ∧
    ∀ k, s.candBest core l = some k → k ∈ l ∧ ∀ k' ∈ l, ¬ s.candKey core k' < s.candKey core k) ∧
  (∀ (s : State) (core : Nat) (k : Cand), let t := s.takePacket core k
    t.get .TDY_STATUS_CUR_MB core = k.mb % 2 ^ 16 ∧ (t.core core).chosen = true ∧ (t.core core).bind = k.bind ∧
    (t.core core).packetMb = k.mb ∧ (t.core core).wait = .none ∧
    (s.switchTiles core k.mb = 0 ∨ k.mb = s.curMb core → t.mem = s.mem) ∧
    (s.switchTiles core k.mb = 0 → k.mb ≠ s.curMb core → s.curMb core ≠ 0xffff →
      t.get .TDY_SWITCH_SWITCHES core = min (s.get .TDY_SWITCH_SWITCHES core + 1) (2 ^ 32 - 1))) ∧
  (∀ (s : State) (core : Nat), s.coreOk core = true → s.atBoundary core = true →
    (∀ k, s.candBest core ((s.readyCands core).filter fun k => k.mb == s.curMb core) = some k →
      exec (.schedulerPacketBoundary core) s = .next (s.takePacket core k)) ∧
    (s.candBest core ((s.readyCands core).filter fun k => k.mb == s.curMb core) = none →
      exec (.schedulerPacketBoundary core) s = .next (s.setWait core .switch)) ∧
    ((s.core core).wait = .switch →
      (∀ k, s.candBest core (s.readyCands core) = some k → exec (.switchWaitExpiry core) s = .next (s.takePacket core k)) ∧
      (s.candBest core (s.readyCands core) = none →
        ∃ t, exec (.switchWaitExpiry core) s = .next t ∧ (t.core core).wait = .none ∧ t.get .TDY_STATUS_STATE core = 0 ∧ t.mem = s.mem)) ∧
    (∀ mb, ((s.core core).wait = .none ∧ s.get .TDY_STATUS_STATE core = 0) ∨ mb = s.curMb core →
      (∀ k, s.candBest core ((s.readyCands core).filter fun k => k.mb == mb) = some k →
        exec (.packetReady core mb) s = .next (s.takePacket core k)) ∧
      (s.candBest core ((s.readyCands core).filter fun k => k.mb == mb) = none → exec (.packetReady core mb) s = .next s))) ∧
  (∀ (s : State) (core mb : Nat), s.coreOk core = true → s.atBoundary core = false →
    exec (.schedulerPacketBoundary core) s = .next s ∧ exec (.switchWaitExpiry core) s = .next s ∧ exec (.packetReady core mb) s = .next s) ∧
  (∀ (s : State) (q l : Nat) (v : QD) (d : Desc), q < 2 ^ 20 → s.qPeek q = some (v, l, some d) → qReaderKind v ≠ 0 →
    (s.get .ESC_STATUS_FROZEN ≠ 1 ∨ qInPkt v = true) → (qReaderKind v = 3 → (KMap.get s.vce (qReader v) VceSt.init).job = none) →
    (KMap.has s.que.drop q = false →
      exec (.queueTake q) s = .next ((s.qTake q v l (descEop d)).emit (.item (qReaderKind v) (qReader v) q d))) ∧
    (KMap.has s.que.drop q = true → descEop d = false → exec (.queueTake q) s = .next (s.qTake q v l false)) ∧
    (KMap.has s.que.drop q = true → descEop d = true →
      exec (.queueTake q) s = .next (({ s with que := { s.que with drop := KMap.erase s.que.drop q } } : State).qTake q v l true))) ∧
  (∀ (s : State) (q : Nat), q < 2 ^ 20 → s.qPeek q = none → s.qFind q ≠ .poison → exec (.queueTake q) s = .next s) ∧
  (∀ (s : State) (q l core : Nat) (v : QD) (item : Option Desc), q < 2 ^ 20 → s.qPeek q = some (v, l, item) → qReaderKind v = 0 →
    KMap.has s.que.drop q = false → s.physCore (qReader v) = some core → s.poisonBind core q = none →
    (s.get .TDY_CFG_AUTO core = 1 ∨ (s.core core).dropping.isSome = true → s.coreMayTake core q = true →
      exec (.queueTake q) s = .next (s.coreTake core q fun s d => s.tdyDo core q d)) ∧
    (s.coreMayTake core q = false → exec (.queueTake q) s = .next s)) ∧
  (∀ (s : State) (core rd dn l : Nat) (v : QD) (d : Desc), s.coreOk core = true → s.programRuns core = true →
    (s.core core).chosen = true → (s.core core).inPacket = false → (s.core core).dropping = none →
    s.qPeek (s.get .TDY_QBIND_QID core (s.core core).bind) = some (v, l, some d) → descEop d = false →
    ∃ t, exec (.tdNext core rd dn) s = .next t ∧ (t.core core).packetMb = descMb d ∧ (t.core core).inPacket = true ∧
      KMap.get (t.core core).dreg (dn % 8) 0 = d ∧ (rd % 32 ≠ 0 → KMap.get (t.core core).x (rd % 32) 0 = BitVec.ofNat 64 (descClass d))) ∧
  (∀ (s : State) (core rd dn : Nat), s.coreOk core = true → s.programRuns core = true → (s.core core).inPacket = false → (s.core core).chosen = false →
    exec (.tdNext core rd dn) s = .next (s.setX core (rd % 32) 0)) ∧
  (∀ (s : State) (q l : Nat) (v : QD), let t := s.qTake q v l false
    t.mem = (s.qPut q (qAdvance v l false)).mem ∧ t.cores = s.cores ∧ t.out = s.out)

/-- The DMA engine (R149, R169, R178, R180). -/
def Obligations.DmaMovesRowsThroughTheMap : Prop :=
  (∀ (s : State) (a : Agent) (img : Image) (da : Nat) (bs : List Byte), Mem.wf s.mem = true → da % 64 = 0 → bs.length % 64 = 0 →
    let t := s.wrDa a img da bs
    t.flds = s.flds ∧ t.cores = s.cores ∧ t.out = s.out ∧
    (∀ p, (∀ i < bs.length / 64, ∀ loc, s.resolve a img (da + 64 * i) = .at loc → p < loc ∨ loc + 64 ≤ p) →
      Mem.read t.mem p = Mem.read s.mem p) ∧
    (∀ i < bs.length / 64, ∀ loc, s.resolve a img (da + 64 * i) = .at loc →
      (∀ j < bs.length / 64, i < j → ∀ l, s.resolve a img (da + 64 * j) = .at l → l + 64 ≤ loc ∨ loc + 64 ≤ l) →
      ∀ k < 64, Mem.read t.mem (loc + k) = storedByte (loc + k) (bs.getD (64 * i + k) 0))) ∧
  (∀ c ∈ [(Instr.dmaCopy, 0), (.dmaFill, 1), (.dmaTileSave, 2), (.dmaTileRestore, 3)], ∀ (s : State) (core : Nat) (d : Desc),
    s.coreOk core = true →
    (dbits d 3 49 48 ≠ c.2 → exec (c.1 core d) s = .fault .otherRow) ∧
    (dbits d 3 49 48 = c.2 → s.unitTakes core kDma d = true →
      exec (c.1 core d) s = .next (s.dmaStart core d c.2))) ∧
  (∀ (s : State) (core : Nat) (d : Desc) (mode : Nat), mode < 4 →
    let a := dmaAgent core
    let img := s.bankFor (unitDie (coreDie core)) (s.heldFor core kDma d).beat
    let src := dbits d 1 42 0
    let dst := dbits d 2 42 0
    let ss := if mode = 0 then dmaRows d false else if mode = 1 then [] else [(src, 0x8000)]
    let ds := if mode ≤ 1 then dmaRows d true else [(dst, 0x8000)]
    let ok := firstReserved d dmaReserved = none ∧ (mode ≤ 1 → dbits d 3 23 0 % 64 = 0) ∧ src % 64 = 0 ∧ dst % 64 = 0 ∧
      (mode = 2 → (s.ownTile a img core src).isSome = true) ∧ (mode = 3 → (s.ownTile a img core dst).isSome = true) ∧ spansMeet ss ds = false
    (s.canStart core kDma d = false → s.dmaStart core d mode = s.hold core kDma d) ∧
    (s.canStart core kDma d = true →
      (¬ ok → ∃ b, s.dmaStart core d mode = s.dmaRefuse core d b) ∧
      (ok →
        (∀ da, s.spansRange a img ss = .unmapped da → s.dmaStart core d mode = (s.unmappedEv a da).dmaRefuse core d (64, src)) ∧
        (∀ da, (∀ x, s.spansRange a img ss ≠ .unmapped x) → s.spansRange a img ds = .unmapped da →
          s.dmaStart core d mode = (s.unmappedEv a da).dmaRefuse core d (128, dst)) ∧
        (s.spansRange a img ss = .ok → s.spansRange a img ds = .wait → s.dmaStart core d mode = s.hold core kDma d) ∧
        (s.spansRange a img ss = .ok → s.spansRange a img ds = .ok →
          (s.spansFree core kDma d a img (ss ++ ds) = false → s.dmaStart core d mode = s.hold core kDma d) ∧
          (s.spansFree core kDma d a img (ss ++ ds) = true →
            (mode = 1 → s.dmaStart core d mode = (ds.foldl (fun acc x => acc.wrDa a img x.1
              ((List.replicate (x.2 / 8) (leBytes 8 (dbits d 6 63 0))).flatMap id)) s).complete core kDma d) ∧
            (mode ≠ 1 → (s.dmaCopyRows a img (ss.zip ds)).2 = none →
              s.dmaStart core d mode = (s.dmaCopyRows a img (ss.zip ds)).1.complete core kDma d) ∧
            (∀ p, mode ≠ 1 → (s.dmaCopyRows a img (ss.zip ds)).2 = some p →
              s.dmaStart core d mode = (s.dmaCopyRows a img (ss.zip ds)).1.dmaPoison core d a img p))))))

/-- LPDDR6 (R175 to R189). -/
def Obligations.LedgerDiesServeTheirMemory : Prop :=
  (∀ (s : State) (a : Agent) (da loc : Nat) (r : Region) (bs : List Byte), da < s.lpSize → s.regionAt (s.bank (unitLedger 0)) da = some r →
    s.resolve a (s.bank (unitLedger 0)) da = .at loc →
    (s.memBusy (s.bank (unitLedger 0)) da (bs.take (64 - da % 64)).length = true → ∀ w err link,
      ∃ t, exec (.ledgerMemoryRequest a false da w bs err link) s = .next t ∧
        t.clk.waitAcc = s.clk.waitAcc ++ [⟨a, da, b2n w, bs.take (64 - da % 64), some (false, err, link), none⟩] ∧ t.mem = s.mem ∧ t.flds = s.flds ∧ t.out = s.out) ∧
    (s.memBusy (s.bank (unitLedger 0)) da (bs.take (64 - da % 64)).length = false → loc < 2 ^ 44 → s.fencedAt loc = false →
      exec (.ledgerMemoryRequest a false da true bs 0 0) s = .next ((s.wr loc (bs.take (64 - da % 64))).emit (.answer a true [])) ∧
      exec (.ledgerMemoryRequest a false da false bs 0 0) s =
        .next (s.emit (.answer a (!s.poisoned (blockOf loc) 64) (s.rd loc (bs.take (64 - da % 64)).length))) ∧
      (∀ err, 2 ≤ err → ∃ t, exec (.ledgerMemoryRequest a false da false bs err 0) s = .next t ∧ t.mem = s.mem ∧ blockOf loc ∈ t.poison ∧
        t.out = .answer a false (s.rd loc (bs.take (64 - da % 64)).length) :: s.out ∧
        t.get .LDG_ECC_UE (loc / 2 ^ 40) = satAdd Field.LDG_ECC_UE.width (s.get .LDG_ECC_UE (loc / 2 ^ 40)) 1 % 2 ^ Field.LDG_ECC_UE.width ∧
        t.get .LDG_ECC_ADDR_ADDR (loc / 2 ^ 40) = da / 64 * 64 % 2 ^ Field.LDG_ECC_ADDR_ADDR.width ∧
        t.get .LDG_ECC_ADDR_VALID (loc / 2 ^ 40) = 1) ∧
      (∃ t, exec (.ledgerMemoryRequest a false da false bs 1 0) s = .next t ∧ t.mem = s.mem ∧ t.poison = s.poison ∧
        t.get .LDG_ECC_CE (loc / 2 ^ 40) = satAdd Field.LDG_ECC_CE.width (s.get .LDG_ECC_CE (loc / 2 ^ 40)) 1 % 2 ^ Field.LDG_ECC_CE.width))) ∧
  (∀ (s : State) (a : Agent) (da : Nat) (w : Bool) (bs : List Byte) (err link : Nat),
    s.lpSize ≤ da ∨ s.regionAt (s.bank (unitLedger 0)) da = none →
    exec (.ledgerMemoryRequest a false da w bs err link) s = .next ((s.unmappedEv a da).emit (.answer a false []))) ∧
  (∀ (s : State) (ld : Nat), s.dieOk ld = true →
    exec (.refresh ld) s = .next s ∧
    (s.get .LDG_CFG_SCRUB_H ld = 0 ∨ s.get .LDG_STATUS_STATE ld = 3 ∨ s.clk.stopped = true ∨ s.chanBusy ld (KMap.get s.rst.scrub ld 0) = true →
      ∀ err, exec (.scrubRead ld err) s = .next s) ∧
    (s.get .LDG_CFG_SCRUB_H ld ≠ 0 → s.get .LDG_STATUS_STATE ld ≠ 3 → s.clk.stopped = false → s.chanBusy ld (KMap.get s.rst.scrub ld 0) = false →
      s.fencedAt (lpLoc ld (KMap.get s.rst.scrub ld 0)) = false →
      ∃ t, exec (.scrubRead ld 0) s = .next t ∧ KMap.get t.rst.scrub ld 0 = (KMap.get s.rst.scrub ld 0 + 64) % s.ident.lpDie ∧
        t.mem = s.mem ∧ t.flds = s.flds ∧ t.poison = s.poison ∧ t.log = s.log)) ∧
  (∀ (s : State) (ld mask : Nat), s.dieOk ld = true →
    (s.get .LDG_STATUS_STATE ld = 3 ∨ s.get .LDG_STATUS_STATE ld = 5 ∨ s.clk.stopped = true ∨
      (∀ i ∈ bitList (s.calDue ld mask) 3, (s.rst.cal.any fun c => c.1 == 3 * ld + i) = true) → exec (.calibrationStart ld mask) s = .next s) ∧
    (s.get .LDG_STATUS_STATE ld ≠ 3 → s.get .LDG_STATUS_STATE ld ≠ 5 → s.clk.stopped = false →
      ∀ i ∈ bitList (s.calDue ld mask) 3, (s.rst.cal.any fun c => c.1 == 3 * ld + i) = false →
      ∃ t, exec (.calibrationStart ld mask) s = .next t ∧ (3 * ld + i, s.now) ∈ t.rst.cal ∧ t.get .LDG_STATUS_STATE ld = 4 ∧ t.mem = s.mem ∧
        ∀ f u n, f ≠ .LDG_STATUS_STATE ∨ u ≠ ld → t.get f u n = s.get f u n)) ∧
  (∀ (s : State) (dev failed : Nat), s.dieOk (dev / 3) = true →
    ((s.rst.cal.any fun c => c.1 == dev) = false → exec (.calibrationComplete dev failed) s = .next s) ∧
    ((s.rst.cal.any fun c => c.1 == dev) = true →
      ∃ t : State, exec (.calibrationComplete dev failed) s = .next t.accResume ∧ t.rst.cal = (s.rst.cal.filter fun c => c.1 != dev) ∧ t.mem = s.mem ∧
        t.get .LDG_CAL_COUNT (dev / 3) = (s.get .LDG_CAL_COUNT (dev / 3) + 1) % 2 ^ Field.LDG_CAL_COUNT.width ∧
        ((s.rst.cal.filter fun c => c.1 != dev).any (fun c => c.1 / 3 == dev / 3) = false → t.get .LDG_STATUS_STATE (dev / 3) = 2))) ∧
  (∀ (s : State) (ld ch : Nat), ch < 24 →
    bit ((s.calChannel ld ch true).get .LDG_CAL_RETRY ld) ch = false ∧
    (bit (s.get .LDG_CAL_RETRY ld) ch = false →
      bit ((s.calChannel ld ch false).get .LDG_CAL_RETRY ld) ch = true ∧
      (s.calChannel ld ch false).get .LDG_STATUS_CH_FENCED ld = s.get .LDG_STATUS_CH_FENCED ld) ∧
    (bit (s.get .LDG_CAL_RETRY ld) ch = true →
      bit ((s.calChannel ld ch false).get .LDG_STATUS_CH_FENCED ld) ch = true ∧ (s.calChannel ld ch false).fab.failed = true ∧
      bit ((s.calChannel ld ch false).get .LDG_CAL_RETRY ld) ch = false)) ∧
  (∀ (s : State) (ld : Nat) (types : List Nat) (bad : Option Nat), s.dieOk ld = true →
    (s.rst.lpOk = true ∨ s.get .RST_STATUS_STAGE = 6 ∨ s.get .LDG_STATUS_STATE ld ≠ 0 → exec (.lpddr6Training ld types bad) s = .next s) ∧
    (s.rst.lpOk = false → s.get .RST_STATUS_STAGE ≠ 6 → s.get .LDG_STATUS_STATE ld = 0 →
      (s.trainFault ld types bad = none →
        exec (.lpddr6Training ld types bad) s = .next ((({ s with ident := { s.ident with dev96 := types.getD 0 0 == 2 } } : State).set .LDG_STATUS_DEV_TYPE (types.getD 0 0) ld).set .LDG_STATUS_STATE 1 ld)) ∧
      (∀ f, s.trainFault ld types bad = some f →
        ∃ t, exec (.lpddr6Training ld types bad) s = .next t ∧ t.get .LDG_STATUS_STATE ld = 5 ∧ t.get .RST_STATUS_STAGE = 6 ∧ t.mem = s.mem)))

/-- The husk and the stook (R193, R199 to R203, R209, R210). -/
def Obligations.HuskKeepsTheStook : Prop :=
  (∀ (s : State) (core : Nat) (d : Desc), s.unitTakes core kHsk d = true →
    let ld := coreDie core
    let img := s.huskBank core d
    let a := huskAgent ld
    let mode := (hskMode img d).getD 0
    let enc := exec (.huskEncode core d) s
    let dec := exec (.huskDecode core d) s
    (s.huskBusy core d = true → (dbit d 0 32 = false → enc = .next s) ∧ (dbit d 0 32 = true → dec = .next s)) ∧
    (s.huskBusy core d = false → s.huskWaits core d = true →
      (dbit d 0 32 = false → enc = .next (s.hold core kHsk d)) ∧ (dbit d 0 32 = true → dec = .next (s.hold core kHsk d))) ∧
    (s.huskBusy core d = false → s.huskWaits core d = false →
      (∀ b, hskFault img d = some b →
        (dbit d 0 32 = false → enc = .next (s.huskRefuse core d b)) ∧ (dbit d 0 32 = true → dec = .next (s.huskRefuse core d b))) ∧
      (hskFault img d = none →
        (dbit d 0 32 = false → otherStook img ld (hskDst d) = true → enc = .next (s.huskRefuse core d (128, hskDst d))) ∧
        (dbit d 0 32 = true → otherStook img ld (hskSrc d) = true → dec = .next (s.huskRefuse core d (64, hskSrc d))) ∧
        (dbit d 0 32 = false → otherStook img ld (hskDst d) = false → s.range a img (hskSrc d) (hskLen d) = .ok →
          s.spansFree core kHsk d a img [(hskSrc d, hskLen d)] = true →
          (stookOf img ld).all (fun x => x.2.base != hskDst d) = true →
          s.poisonDa a img (hskSrc d) (hskLen d) = none →
          let out := (huskRecords mode (hskFrame d) (s.huskWords ld img d)).flatMap id
          s.range a img (hskDst d) out.length = .ok → s.spansFree core kHsk d a img [(hskDst d, out.length)] = true →
          enc = .next ((((s.wrDa a img (hskDst d) out).bump .HSK_ENC_IN_COUNT (hskLen d) ld).bump
            .HSK_ENC_OUT_COUNT out.length ld).huskDone core d)) ∧
        (dbit d 0 32 = false → otherStook img ld (hskDst d) = false → s.range a img (hskSrc d) (hskLen d) = .ok →
          s.spansFree core kHsk d a img [(hskSrc d, hskLen d)] = true →
          ∀ e r, stookOf img ld = some (e, r) → r.base = hskDst d →
          (s.stookBusy ld = true → enc = .next (s.hold core kHsk d)) ∧
          (s.stookBusy ld = false → (s.dirGet r (slotOf (descMb d) (hskBlock d))).state ≠ 0 →
            enc = .next (s.huskRefuse core d (48, hskBlock d))) ∧
          (s.stookBusy ld = false → (s.dirGet r (slotOf (descMb d) (hskBlock d))).state = 0 →
            ((s.stk ld).line ≠ [] → ∃ t : State, enc = .next t ∧ (t.stk ld).line = (s.stk ld).line ++ [(core, d, false)]) ∧
            ((s.stk ld).line = [] →
              (∀ t, s.encTry core d img e r mode = some t → enc = .next t) ∧
              (s.encTry core d img e r mode = none → ∃ t : State, enc = .next t ∧ (t.stk ld).line = [(core, d, true)])))) ∧
        (dbit d 0 32 = true → otherStook img ld (hskSrc d) = false →
          (∀ e r, stookOf img ld = some (e, r) → r.base = hskSrc d →
            (s.stookBusy ld = true → dec = .next (s.hold core kHsk d)) ∧
            (s.stookBusy ld = false → dec = .next (s.decStook core d img r))) ∧
          ((stookOf img ld).all (fun x => x.2.base != hskSrc d) = true → dec = .next (s.decAddr core d img)))))) ∧
  (∀ (s : State) (core : Nat) (d : Desc), s.coreOk core = true →
    (dbit d 0 32 = true → exec (.huskEncode core d) s = .fault .otherRow) ∧ (dbit d 0 32 = false → exec (.huskDecode core d) s = .fault .otherRow)) ∧
  (∀ (s : State) (core : Nat) (d : Desc) (img : Image) (r : Region), let ld := coreDie core
    (let n := streamLen (fun o l => s.rdDa (huskAgent ld) img (hskSrc d + o) l) (ceilDiv (hskLen d) 4096) 0
     s.range (huskAgent ld) img (hskSrc d) n = .ok → s.range (huskAgent ld) img (hskDst d) (hskLen d) = .ok →
      s.spansFree core kHsk d (huskAgent ld) img [(hskSrc d, n), (hskDst d, hskLen d)] = true →
      (s.huskRead core d img (hskLen d) (hskFrame d) fun o => hskSrc d + o).2 = true →
      s.decAddr core d img = (s.huskRead core d img (hskLen d) (hskFrame d) fun o => hskSrc d + o).1.huskDone core d) ∧
    (let e := s.dirGet r (slotOf (descMb d) (hskBlock d))
     (e.mb ≠ descMb d ∨ e.block ≠ hskBlock d ∨ (e.state ≠ 2 ∧ e.state ≠ 3) → s.decStook core d img r = s.huskRefuse core d (48, hskBlock d)) ∧
     (e.mb = descMb d → e.block = hskBlock d → e.state = 2 ∨ e.state = 3 → hskLen d = 0 →
       s.decStook core d img r = s.readBegin core d r (slotOf (descMb d) (hskBlock d)) (e.state == 3)) ∧
     (e.mb = descMb d → e.block = hskBlock d → e.state = 2 ∨ e.state = 3 → hskLen d ≠ 0 → hskLen d ≠ e.srcLen →
       s.decStook core d img r = s.huskRefuse core d (192, hskLen d)))) ∧
  (∀ (s : State) (ld mb block act : Nat), let t := s.stookAct ld mb block act
    t.mem = s.mem ∧ t.cores = s.cores ∧
    (act = 1 → t.get .HSK_FULL_LOSSY ld = satAdd Field.HSK_FULL_LOSSY.width (s.get .HSK_FULL_LOSSY ld) 1 % 2 ^ Field.HSK_FULL_LOSSY.width) ∧
    (act = 2 → t.get .HSK_FULL_DROPS ld = satAdd Field.HSK_FULL_DROPS.width (s.get .HSK_FULL_DROPS ld) 1 % 2 ^ Field.HSK_FULL_DROPS.width)) ∧
  (∀ (s : State) (core : Nat) (d : Desc), s.coreOk core = true → let ld := coreDie core
    ((s.stk ld).runs.find? (fun r => r.core == core && r.d == d) = none → exec (.stookEncodeComplete core d) s = .next s) ∧
    ((s.stk ld).reads.find? (fun r => r.1 == core && r.2.1 == d) = none → exec (.stookDecodeComplete core d) s = .next s) ∧
    (∀ run e r, (s.stk ld).runs.find? (fun r => r.core == core && r.d == d) = some run → stookOf (s.huskBank core d) ld = some (e, r) →
      let x := s.stk ld
      let y := s.setStk ld { x with runs := x.runs.filter fun q => !(q.core == core && q.d == d) }
      let z := ((y.dirPut r (slotOf run.mb run.block) { y.dirGet r (slotOf run.mb run.block) with state := 2 }).shift .HSK_STATUS_STORED ld 1 0).syncReserved ld
      exec (.stookEncodeComplete core d) s = .next ((((z.bump .HSK_ENC_IN_COUNT (hskLen d) ld).bump .HSK_ENC_OUT_COUNT run.bytes ld).stookLast
        ld e run.mb run.block).huskDone core d)) ∧
    (∀ dropped e r, (s.stk ld).reads.find? (fun r => r.1 == core && r.2.1 == d) = some (core, d, dropped) → stookOf (s.huskBank core d) ld = some (e, r) →
      let y := ((s.setStk ld { s.stk ld with reads := (s.stk ld).reads.filter fun q => !(q.1 == core && q.2.1 == d) }).dirFree ld r
        (slotOf (descMb d) (hskBlock d))).huskDone core d
      (∀ l, y.logCore core = some l → exec (.stookDecodeComplete core d) s =
        .next ((if dropped then y.sendSignal l e.ctrDrop 1 else y).sendSignal l e.ctrDone 1)) ∧
      (y.logCore core = none → exec (.stookDecodeComplete core d) s = .next y))) ∧
  (∀ (s : State) (ld : Nat), s.dieOk ld = true →
    (s.get .ESC_STATUS_FROZEN = 1 ∨ s.clk.stopped = true ∨ (s.stk ld).line = [] → exec (.stookEncodeResume ld) s = .next s) ∧
    (s.get .ESC_STATUS_FROZEN ≠ 1 → s.clk.stopped = false → exec (.stookEncodeResume ld) s = .next (s.lineRun ld (s.stk ld).line.length)) ∧
    (KMap.has s.str.oldBank (unitLedger ld) = true ∨ (stookKey (s.bank (unitLedger ld)) ld = (s.stk ld).key ∧ (s.stk ld).resetSince = false) →
      exec (.stookDirectoryCommit ld) s = .next s) ∧
    (KMap.has s.str.oldBank (unitLedger ld) = false → stookKey (s.bank (unitLedger ld)) ld ≠ (s.stk ld).key ∨ (s.stk ld).resetSince = true →
      ∃ t, exec (.stookDirectoryCommit ld) s = .next t ∧ (t.stk ld).runs = [] ∧ (t.stk ld).line = [] ∧ (t.stk ld).reads = [] ∧
        (t.stk ld).resetSince = false ∧ t.get .HSK_STOOK_RESERVED ld = 0 ∧ t.cores = s.cores ∧
        (∀ e r, stookOf (s.bank (unitLedger ld)) ld = some (e, r) →
          (t.stk ld).free = (List.range (r.len / chunkBytes - 1)).map (· + 1) ∧ (t.stk ld).dir = some (s.stookLoc r 0) ∧ t.get .HSK_STOOK_USED ld = 0))) ∧
  (∀ (s : State) (ld : Nat), s.dieOk ld = true → (s.stk ld).line = [] →
    let held := (List.range 104).flatMap fun k => (s.heldOf (128 * ld + k) kHsk).map fun h => (128 * ld + k, h.d)
    (held = [] → ∀ dir, (s.stk ld).dir = some dir →
      ∃ t : State, exec (.hskClear ld) s = .next t ∧ t.get .HSK_STOOK_USED ld = 0 ∧ t.get .HSK_STATUS_STORED ld = 0 ∧
        t.get .HSK_STATUS_DROPPED ld = 0 ∧ t.get .HSK_STOOK_RESERVED ld = 0 ∧ (t.stk ld).clearing = none ∧ t.cores = s.cores ∧
        (Mem.wf s.mem = true → ∀ p, Mem.read t.mem p = if dir ≤ p ∧ p < dir + 0x100000 then 0 else Mem.read s.mem p)) ∧
    (held ≠ [] → ∃ t : State, exec (.hskClear ld) s = .next t ∧ (t.stk ld).clearing = some held ∧ t.mem = s.mem ∧ t.cores = s.cores))

/-- The window unit (R215, R225 to R229). -/
def Obligations.WindowUnitGathersAndRunsStripes : Prop :=
  (∀ c ∈ [(Instr.windowConvolution, 0), (.windowMaxPool, 1), (.windowMeanPool, 2)], ∀ (s : State) (core : Nat) (d : Desc),
    (s.coreOk core = true → dbits d 1 44 43 ≠ c.2 → dbits d 1 44 43 ≠ 3 → exec (c.1 core d) s = .fault .otherRow) ∧
    (s.unitTakes core kWin d = true → dbits d 1 44 43 = c.2 ∨ dbits d 1 44 43 = 3 → exec (c.1 core d) s = .next (s.winArrive core d))) ∧
  (∀ (s : State) (core : Nat) (d : Desc), let clu := coreClu core
    let w := s.winSt clu
    let x := winOf d
    let img := s.bankFor (unitDie (coreDie core)) (s.heldFor core kWin d).beat
    let first := ((s.heldOf core kWin).takeWhile fun h => h.d != d).all fun h => (w.gather ++ w.run).any fun e => e.2.1 == core && e.2.2 == h.d
    let off := w.gather.find? fun e => winKey e.2.2 != winKey d || e.1 == x.stripe
    ((w.gather ++ w.run).any (fun e => e.2.1 == core && e.2.2 == d) = true → s.winArrive core d = s.winStart clu) ∧
    ((w.gather ++ w.run).any (fun e => e.2.1 == core && e.2.2 == d) = false →
      (s.clk.stopped = true ∨ first = false → s.winArrive core d = s.hold core kWin d) ∧
      (s.clk.stopped = false → first = true →
        (w.dead.any (fun e => e.1 == winKey d && !e.2.contains x.stripe) = true →
          s.winArrive core d = ((s.bump .WIN_STATUS_REFUSED 1 clu).refuse core kWin d).winDead clu d [x.stripe]) ∧
        (w.dead.any (fun e => e.1 == winKey d && !e.2.contains x.stripe) = false →
          (∀ b, x.fault d = some b → s.winArrive core d = s.winRefuse core d false b) ∧
          (∀ b, x.fault d = none → x.fmtFault = some b → s.winArrive core d = s.winRefuse core d true b) ∧
          (x.fault d = none → x.fmtFault = none → s.range (winAgent clu) img x.src (x.inLen ((winIn x.inFmt).getD .fp16)) = .ok →
            s.range (winAgent clu) img x.dst (x.outLen ((winOut x.outFmt).getD .fp32)) = .ok →
            (∀ e, off = some e → s.winArrive core d =
              s.winRefuse core d false (if winKey e.2.2 ≠ winKey d then winDiffers d e.2.2 else (352, x.stripe))) ∧
            (off = none → w.gather.any (fun e => e.2.1 == core) = true → s.winArrive core d = s.hold core kWin d) ∧
            (off = none → w.gather.any (fun e => e.2.1 == core) = false →
              s.winArrive core d = (((s.hold core kWin d).setWin clu { w with gather := w.gather ++ [(x.stripe, core, d)] }).winStart clu).syncWin clu)))))) ∧
  (∀ (s : State) (clu : Nat) (e : Nat × Nat × Desc) (l : List (Nat × Nat × Desc)), (s.winSt clu).gather = e :: l →
    let whole := (e :: l).length = (winOf e.2.2).ns ∧ (e :: l).all (fun g => !s.bankWait g.2.1 kWin (s.heldFor g.2.1 kWin g.2.2).beat) = true
    ((s.winSt clu).run = [] → whole →
      (s.winStart clu).winSt clu = { WinSt.init with
        run := e :: l, dead := (s.winSt clu).dead
        sr := (e :: l).map fun g => (g.1, s.get .VEC_SRKEY_KEY_HI g.2.1 (winOf g.2.2).slot * 2 ^ 32 + s.get .VEC_SRKEY_KEY_LO g.2.1 (winOf g.2.2).slot, s.get .TDY_STEP_STEP g.2.1) } ∧
      (s.winStart clu).get .WIN_STATUS_DONE clu = 0 ∧ (s.winStart clu).get .WIN_STATUS_RUNNING clu = 1 ∧
      (s.winStart clu).get .WIN_STATUS_GATHERING clu = 0 ∧ (s.winStart clu).mem = s.mem ∧ (s.winStart clu).cores = s.cores) ∧
    ((s.winSt clu).run ≠ [] ∨ ¬ whole → s.winStart clu = s)) ∧
  (∀ (s : State) (clu k : Nat), s.cluOk clu = true →
    ((s.winSt clu).stripe k = none → exec (.stripeLineLoad clu k) s = .next s ∧ exec (.stripeHaloResume clu k) s = .next s ∧
      exec (.windowStripeComplete clu k) s = .next s) ∧
    (∀ e, (s.winSt clu).stripe k = some e →
      let w := s.winSt clu
      let x := winOf e.2.2
      let n := KMap.get w.loaded k 0
      let row := x.lineRow n
      let a := winAgent clu
      let img := s.bankFor (unitDie (clu / 16)) (s.heldFor e.2.1 kWin e.2.2).beat
      let f := (winIn x.inFmt).getD .fp16
      let seg := match row with
        | some (t, y) => [(x.src + ((t * x.h + y) * x.w + x.own k) * pitch x.c f, (x.own (k + 1) - x.own k) * pitch x.c f)]
        | none => []
      let bad := seg.findSome? fun p => s.poisonDa a img p.1 p.2
      let go := s.clk.stopped = false ∧ n < x.lines ∧ s.spansFree e.2.1 kWin e.2.2 a img seg = true
      (¬ go → exec (.stripeLineLoad clu k) s = .next s) ∧
      (go → row.isSome = true → w.mayLoad k n = false →
        exec (.stripeLineLoad clu k) s = .next (s.setWin clu { w with waiting := insertBlock w.waiting k })) ∧
      (go → row = none ∨ w.mayLoad k n = true →
        (∀ p, bad = some p → exec (.stripeLineLoad clu k) s = .next ((s.daUe (srcClu clu 1) a img p).winEndRun clu 2)) ∧
        (bad = none → exec (.stripeLineLoad clu k) s =
          .next ((s.setWin clu { w with
            loaded := KMap.set w.loaded k (n + 1), waiting := w.waiting.filter (· != k)
            slots := seg.foldl (fun m p => KMap.set m (k, n % 32) (s.rdDa a img p.1 p.2)) w.slots }).stripeAdvance clu k))) ∧
      (s.clk.stopped = true ∨ KMap.get w.loaded k 0 ≤ KMap.get w.retired k 0 →
        ∃ t : State, exec (.stripeHaloResume clu k) s = .next t ∧ t.winSt clu = w ∧ t.mem = s.mem ∧ t.cores = s.cores) ∧
      (s.clk.stopped = false → exec (.stripeHaloResume clu k) s =
        .next ((s.stripeGo clu e (x.lines - KMap.get w.retired k 0)).syncWin clu)) ∧
      (KMap.get w.retired k 0 < x.lines ∨ bit (s.get .WIN_STATUS_DONE clu) k = true → exec (.windowStripeComplete clu k) s = .next s) ∧
      (x.lines ≤ KMap.get w.retired k 0 → bit (s.get .WIN_STATUS_DONE clu) k = false →
        let y := (s.setBit .WIN_STATUS_DONE k true clu).complete e.2.1 kWin e.2.2
        exec (.windowStripeComplete clu k) s = .next (if y.get .WIN_STATUS_DONE clu = 2 ^ w.run.length - 1 then
          ((y.setWin clu { WinSt.init with gather := w.gather, dead := w.dead }).winStart clu).syncWin clu else y.syncWin clu)))) ∧
  (∀ (s : State) (clu : Nat), s.cluOk clu = true →
    ((s.winSt clu).gather = [] → exec (.winCancel clu) s = .next s) ∧
    ((s.winSt clu).gather ≠ [] →
      exec (.winCancel clu) s = .next (((((s.setWin clu { s.winSt clu with gather := [] }).winDrop clu (s.winSt clu).gather)).winAbortEv clu 4
        (stripeMask (s.winSt clu).gather) 0).syncWin clu)))

/-- R525: what the queue operations do with no queue table, and what an OP that is not in the table of R305 does. -/
def Obligations.NoQueueTableAndBadOp : Prop :=
  ∀ (s : State) (a : Agent) (q m op : Nat) (b : Bool), s.get .RST_STATUS_READY = 1 → s.que.waiting = none → q < 2 ^ 20 →
    (s.qFind q = .noTable → ∀ c ∈ [Instr.queueEnable a q, .queueDisable a q b, .queueFlush a q m, .queueSetlevel a q, .queueQuery a q],
      ∃ t, exec c s = .next t ∧ t.get .QUE_OP_RES_DONE = 1 ∧ t.get .QUE_OP_RES_STATUS = 7 ∧ t.mem = s.mem ∧ t.que = s.que ∧ t.cores = s.cores ∧
        t.log = s.log ∧ ∀ f u i, f ∉ [Field.QUE_OP_RES_DONE, .QUE_OP_RES_STATUS, .GLB_IRQ_ROUTE_LOST, .GLB_IRQ_STATUS_SRC] → t.get f u i = s.get f u i) ∧
    (¬ (1 ≤ op % 16 ∧ op % 16 ≤ 5) →
      ∃ t, exec (.queueBadOp a op) s = .next t ∧ t.get .QUE_OP_RES_DONE = 1 ∧ t.get .QUE_OP_RES_STATUS = 9 ∧ t.mem = s.mem ∧ t.que = s.que ∧ t.cores = s.cores ∧
        t.log = s.log ∧ ∀ f u i, f ∉ [Field.QUE_OP_RES_DONE, .QUE_OP_RES_STATUS, .GLB_IRQ_ROUTE_LOST, .GLB_IRQ_STATUS_SRC] → t.get f u i = s.get f u i)

/-- The trouble log (R468, R469, R474, R476, R478). -/
def Obligations.TroubleLogTakesWritesAndReads : Prop :=
  (∀ (s : State) (k half : Nat) (e : Entry), s.log.flight[k]? = some (half, e) →
    (s.logRoom half e.sev = true →
      ∃ t, exec (.logEventIntake k) s = .next t ∧ t.log.intake = s.log.intake ++ [(half, e)] ∧ t.log.flight = s.log.flight.eraseIdx k ∧
        t.get .LOG_STATUS_INTAKE = min (s.log.intake.length + 1) 8191 ∧ t.log.ring = s.log.ring ∧ t.mem = s.mem ∧ t.cores = s.cores) ∧
    (s.logRoom half e.sev = false →
      e.sev ≠ 3 ∧ ∃ t, exec (.logEventIntake k) s = .next t ∧ t.log.intake = s.log.intake ∧ t.log.flight = s.log.flight.eraseIdx k ∧
        t.log.dropCount = s.log.dropCount + 1 ∧ t.log.dropLast = e.beat ∧ t.log.ring = s.log.ring ∧ t.mem = s.mem ∧ t.cores = s.cores)) ∧
  (∀ (s : State) (half : Nat) (e : Entry) (rest : List (Nat × Entry)), s.log.started = true → s.log.intake = (half, e) :: rest →
    let n := s.get .LOG_SEQ_NEXT
    let repeats := n ≠ 0 ∧ ∃ a, KMap.get? s.log.ring (n - 1) = some a ∧ a.same e = true
    (∀ a, n ≠ 0 → KMap.get? s.log.ring (n - 1) = some a → a.same e = true →
      ∃ t, exec .logAppend s = .next t ∧ t.log.intake = rest ∧ t.get .LOG_SEQ_NEXT = n ∧
        KMap.get? t.log.ring (n - 1) = some { a with rep := a.rep + 1 } ∧ (∀ k, k ≠ n - 1 → KMap.get? t.log.ring k = KMap.get? s.log.ring k) ∧
        t.mem = s.mem ∧ t.cores = s.cores) ∧
    (¬ repeats →
      ∃ t, exec .logAppend s = .next t ∧ t.log.intake = rest ∧ t.get .LOG_SEQ_NEXT = (n + 1) % 2 ^ 64 ∧
        KMap.get? t.log.ring n = some e ∧
        (∀ k, k ≠ n → (262144 ≤ n → k ≠ n - 262144) → KMap.get? t.log.ring k = KMap.get? s.log.ring k) ∧
        t.get .LOG_OVER_OVERWRITTEN = (if 262144 ≤ n then (s.get .LOG_OVER_OVERWRITTEN + 1) % 2 ^ Field.LOG_OVER_OVERWRITTEN.width else s.get .LOG_OVER_OVERWRITTEN) ∧
        t.mem = s.mem ∧ t.cores = s.cores)) ∧
  (∀ s : State, s.log.dropCount ≠ 0 → s.logRoom (s.get .LOG_STATUS_HUB) 1 = true →
    ∃ t e, exec .logDrop s = .next t ∧ t.log.intake = s.log.intake ++ [(s.get .LOG_STATUS_HUB, e)] ∧ e.code = 0xb060 ∧ e.sev = 1 ∧
      e.payload = payloadOf [(4, s.log.dropCount), (8, s.log.dropFirst), (8, s.log.dropLast)] ∧ t.log.dropCount = 0 ∧ t.mem = s.mem ∧
      t.cores = s.cores) ∧
  (∀ (s : State) (a : Agent) (v : Word), exec (.logCursorWrite a v) s =
    .next ((s.set .LOG_CURSOR_SEG (bits v.toNat 63 48)).set .LOG_CURSOR_SEQ (bits v.toNat 47 2)).logLatch) ∧
  (∀ (s : State) (a : Agent) (off size : Nat), mayRead a .LOG 0 = true → s.rst.inReset.contains (32 + s.inCharge) = false →
    let answered (n : Nat) := s.emit (.answer a true (leBytes size (s.get .LOG_DATA_DATA 0 7 / 2 ^ (8 * n))))
    (size = 8 ∧ off % 8 = 0 ∨ size = 4 ∧ off % 4 = 0 →
      let t := answered (off % 8)
      (s.get .LOG_CURSOR_STATE < 2 → exec (.logData7Read ⟨a, off, size⟩) s =
        .next ((t.set .LOG_CURSOR_SEQ ((s.get .LOG_CURSOR_SEQ + 1) % 2 ^ 46)).logLatch)) ∧
      (s.get .LOG_CURSOR_STATE = 2 → exec (.logData7Read ⟨a, off, size⟩) s = .next t.logLatch) ∧
      (2 < s.get .LOG_CURSOR_STATE → exec (.logData7Read ⟨a, off, size⟩) s = .next t)) ∧
    (¬ (size = 8 ∧ off % 8 = 0 ∨ size = 4 ∧ off % 4 = 0) → exec (.logData7Read ⟨a, off, size⟩) s =
      .next (s.emit (.answer a true (List.replicate size 0))))) ∧
  (∀ s : State, (s.logSeg (s.get .LOG_CURSOR_SEG) = none → s.logLatch.get .LOG_CURSOR_STATE = 3) ∧
    (∀ l next, s.logSeg (s.get .LOG_CURSOR_SEG) = some (l, next) →
      (next ≤ s.get .LOG_CURSOR_SEQ → s.logLatch.get .LOG_CURSOR_STATE = 2) ∧
      (∀ e, s.get .LOG_CURSOR_SEQ < next → KMap.get? l (s.get .LOG_CURSOR_SEQ) = some e →
        s.logLatch.get .LOG_CURSOR_STATE = 0 ∧ ∀ i, i < 8 → s.logLatch.get .LOG_DATA_DATA 0 i = field e.bytes (8 * i) 8 % 2 ^ 64)))

/-- Global interrupts (R497). A message is State.sendMsix, which R498 describes: it records what leaves, or what is lost. -/
def Obligations.InterruptsSendOnceAtARise : Prop :=
  ∀ (s : State) (n : Nat), n < 12 →
    (∀ b : Bool, ∃ t, exec (.irqSourceRaise n b) s = .next t ∧ (∀ k, bit (t.get .GLB_IRQ_STATUS_SRC) k = (decide (k = n) || bit (s.get .GLB_IRQ_STATUS_SRC) k) ∨ 12 ≤ k) ∧
      t.mem = s.mem ∧ t.cores = s.cores ∧ t.log = s.log ∧
      (∀ f u i, f ≠ .GLB_IRQ_STATUS_SRC → f ≠ .GLB_IRQ_ROUTE_LOST → t.get f u i = s.get f u i) ∧
      (bit (s.get .GLB_IRQ_STATUS_SRC) n = false →
        let x := s.setBit .GLB_IRQ_STATUS_SRC n true
        let y := if b = true ∨ irqUnmaskable n = true ∨ bit (s.get .GLB_IRQ_EN_HOST) n = true then x.sendMsix (s.irqVec n) (b || irqUnmaskable n) else x
        t = if bit (s.get .GLB_IRQ_STW_STW) n = true then y.emit (.stwIrq n) else y) ∧
      (bit (s.get .GLB_IRQ_STATUS_SRC) n = true →
        (b = false → t.out = s.out ∧ t.pba = s.pba) ∧
        (b = true → t = (s.setBit .GLB_IRQ_STATUS_SRC n true).sendMsix (s.irqVec n) true))) ∧
    (∀ a : Agent,
      let x := s.set .GLB_IRQ_EN_HOST (2 ^ n)
      let y := s.set .GLB_IRQ_STW_STW (2 ^ n)
      (bit (s.get .GLB_IRQ_STATUS_SRC) n = true → bit (s.get .GLB_IRQ_EN_HOST) n = false → irqUnmaskable n = false →
        exec (.irqEnableWrite a false (2 ^ n)) s = .next (x.sendMsix (x.irqVec n) false)) ∧
      (bit (s.get .GLB_IRQ_STATUS_SRC) n = false ∨ bit (s.get .GLB_IRQ_EN_HOST) n = true ∨ irqUnmaskable n = true →
        exec (.irqEnableWrite a false (2 ^ n)) s = .next x) ∧
      (bit (s.get .GLB_IRQ_STATUS_SRC) n = true → bit (s.get .GLB_IRQ_STW_STW) n = false →
        exec (.irqEnableWrite a true (2 ^ n)) s = .next (y.emit (.stwIrq n))) ∧
      (bit (s.get .GLB_IRQ_STATUS_SRC) n = false ∨ bit (s.get .GLB_IRQ_STW_STW) n = true →
        exec (.irqEnableWrite a true (2 ^ n)) s = .next y)) ∧
    (∀ a : Agent, s.get .GLB_IRQ_STATUS_SRC < 2 ^ 12 →
      (∃ t, exec (.irqStatusClear a (2 ^ n) 0) s = .next t ∧ t.out = s.out ∧ t.pba = s.pba ∧ t.mem = s.mem ∧
        ∀ k, bit (t.get .GLB_IRQ_STATUS_SRC) k = (decide (k ≠ n) && bit (s.get .GLB_IRQ_STATUS_SRC) k)) ∧
      (let c := s.set .GLB_IRQ_STATUS_SRC (s.get .GLB_IRQ_STATUS_SRC &&& (0xfff ^^^ 2 ^ n))
       exec (.irqStatusClear a (2 ^ n) (2 ^ n)) s = exec (.irqSourceRaise n false) c ∧ bit (c.get .GLB_IRQ_STATUS_SRC) n = false))

/-- The host links (R399, R401, R493, R494) and the management ports (R406, R407, R416, R479); record encodings are log entry 43's and PCIe's, log entry 42. -/
def Obligations.HostAndManagementAccessesAreAnswered : Prop :=
  (∀ (s : State) (link off : Nat) (w : Bool) (bs : List Byte), s.linkOk link = true →
    (s.get .RST_STATUS_READY = 0 → exec (.bar2Access link off w bs) s = .next (s.emit (.answer (.host link) false []))) ∧
    (s.get .RST_STATUS_READY ≠ 0 → s.clk.entering = none → s.get .PWR_STATE_CURRENT < 2 →
      exec (.bar2Access link off w bs) s = .next (s.memAcc (.host link) (s.bar2Da link off) (b2n w) bs)) ∧
    (∀ (kind : Nat) (x y : Word),
      (off % 8 ≠ 0 → exec (.hostAtomic link off kind x y) s = .next (s.emit (.answer (.host link) false []))) ∧
      (off % 8 = 0 → kind ≤ 2 → s.get .RST_STATUS_READY ≠ 0 → s.clk.entering = none → s.get .PWR_STATE_CURRENT < 2 →
        exec (.hostAtomic link off kind x y) s = .next (s.memAcc (.host link) (s.bar2Da link off) (kind + 2) (leBytes 8 x.toNat ++ leBytes 8 y.toNat)))) ∧
    (∀ (up : Bool) (rate width : Nat) (flit : Bool), exec (.hostLinkChange link up rate width flit) s = .next (s.hostLink link up rate width flit)) ∧
    (∀ reg : CfgReg, s.get .RST_STATUS_STAGE > 1 ∨ s.get .RST_STATUS_LAST_KIND ≠ 0 →
      exec (.hostConfigAccess link reg none) s = .next (s.emit (.answer (.host link) true (leBytes 4 (s.cfgRead link reg)))) ∧
      (∀ v, ∃ t, exec (.hostConfigAccess link reg (some v)) s = .next t ∧ t.flds = s.flds ∧ t.mem = s.mem ∧ t.ident = s.ident ∧
        t.out = .answer (.host link) true [] :: s.out ∧
        (reg = .rebar → t.bar2Log link = if within 30 (bits v 13 8 + 20) 43 = true then bits v 13 8 + 20 else s.bar2Log link))) ∧
    (off % 4 ≠ 0 → ∀ v, exec (.msixAccess link off v) s = .next (s.emit (.answer (.host link) false []))) ∧
    (off % 4 = 0 →
      exec (.msixAccess link off none) s = .next (s.emit (.answer (.host link) true (leBytes 4 (s.msixRead link off)))) ∧
      (∀ v, off < 0x8000 → ∃ t, exec (.msixAccess link off (some v)) s = .next t ∧ t.flds = s.flds ∧ t.mem = s.mem ∧
        KMap.get t.msixTab (link, off / 4) 0 = (if off / 4 % 4 = 3 then v % 2 else if off / 4 % 4 = 0 then v / 4 * 4 % 2 ^ 32 else v % 2 ^ 32) ∧
        (off / 4 % 4 = 3 → v % 2 = 0 → KMap.get s.pba (link, off / 16) false = true → t.out = .msix link (off / 16) :: s.out)))) ∧
  (∀ (s : State) (port : Nat), s.mgtOk port = true → s.mgtUp port = true →
    let r := s.bumpSat .MGT_STATUS_REQUESTS
    (∀ seq res,
      (s.get .RST_STATUS_READY ≠ 1 → exec (.mgtGet port seq res) s = .next r) ∧
      (s.get .RST_STATUS_READY = 1 → res ≠ 2 → exec (.mgtGet port seq res) s = .next (r.emit (.mgtReply port (seq % 2 ^ 32) (r.resource res)))) ∧
      (s.get .RST_STATUS_READY = 1 → ∀ seg first count, exec (.mgtLogRead port seq seg first count) s =
        .next (r.emit (.mgtReply port (seq % 2 ^ 32) (leBytes 2 seg ++ leBytes 8 (r.logRead seg first count).1 ++
          leBytes 1 (r.logRead seg first count).2.2.length ++ leBytes 8 (r.logRead seg first count).2.1 ++
          leBytes 8 (s.get .LOG_OVER_OVERWRITTEN) ++ (r.logRead seg first count).2.2.flatMap Entry.bytes)))) ∧
      (s.get .RST_STATUS_READY = 1 → ∀ off data,
        (data.length = 1024 → off + 1024 ≤ 33554432 → exec (.mgtStage port seq off data) s =
          .next ((r.wrDa .steward (r.carveBank .steward) (stagingDa + off) data).emit (.mgtReply port (seq % 2 ^ 32) []))) ∧
        (data.length ≠ 1024 ∨ 33554432 < off + 1024 → exec (.mgtStage port seq off data) s = .next (r.emit (.mgtReply port (seq % 2 ^ 32) [])))) ∧
      (s.get .RST_STATUS_READY = 1 → exec (.mgtStageDone port seq) s =
        .next ((r.secInstall.1.secDone 2 r.secInstall.2 0).emit (.mgtReply port (seq % 2 ^ 32) (leBytes 1 r.secInstall.2))))) ∧
    exec (.mgtNeighbourDiscovery port) s =
      .next (s.emit (.mgtNeighbour port (if port = 0 then s.get .MGT_MACA_MAC else s.get .MGT_MACB_MAC)))) ∧
  (∀ (s : State) (port : Nat), s.mgtOk port = true →
    (s.mgtUp port = false → ∀ seq res, exec (.mgtGet port seq res) s = .next s ∧ exec (.mgtNeighbourDiscovery port) s = .next s) ∧
    (∀ up : Bool, ∃ t, exec (.mgtLinkChange port up) s = .next t ∧ t.mem = s.mem ∧ t.out = s.out ∧
      t.get (if port = 0 then .MGT_STATUS_LINK_A else .MGT_STATUS_LINK_B) = b2n up ∧
      (up = false → t.get (if port = 0 then .MGT_STATUS_PTP_A else .MGT_STATUS_PTP_B) = 0) ∧
      ∀ f u i, f ∉ [Field.MGT_STATUS_LINK_A, .MGT_STATUS_LINK_B, .MGT_STATUS_PTP_A, .MGT_STATUS_PTP_B] → t.get f u i = s.get f u i) ∧
    (∃ t, exec (.ptpMasterLost port) s = .next t ∧ t.mem = s.mem ∧ t.out = s.out ∧
      t.get (if port = 0 then .MGT_STATUS_PTP_A else .MGT_STATUS_PTP_B) = 0 ∧
      ∀ f u i, f ∉ [Field.MGT_STATUS_PTP_A, .MGT_STATUS_PTP_B] → t.get f u i = s.get f u i))

/-- Claims and heartbeats of the seal (R409, R410). -/
def Obligations.SealClaimsAndHeartbeats : Prop :=
  (∀ (s : State) (half : Nat) (e : Entry), half < 2 → s.stw.holds.filter (fun h => h.1 != half) = [] → s.sealUnit half = true →
    s.rst.verified.contains half = true → (s.get .STW_SEAL_SEQ + 1) % 2 ^ 32 = (s.get .STW_SEAL_SEQ + 1) → s.stw.claimed.contains half = false →
    ∀ ck ∈ [(Instr.sealStrapClaim half, 0), (.sealFallbackClaim half, 1), (.sealLostClaim half, 2)],
      (ck.2 = 0 → half = s.sealPref) → (ck.2 = 1 → half ≠ s.sealPref ∧ s.stw.seen.contains half = false ∧ s.stw.origin + 200000000 ≤ s.beat.coldNs) →
      (ck.2 = 2 → s.sealHolds half = none ∧ s.get .STW_SEAL_STATE ≠ 3 ∧ ∃ t0, KMap.get? s.stw.heard half = some t0 ∧ t0 + 64 ≤ s.beat.edges) →
      ∃ t, exec ck.1 s = .next t ∧ t.get .STW_SEAL_HOLDER = half ∧ t.get .STW_SEAL_SEQ = s.get .STW_SEAL_SEQ + 1 ∧ t.get .STW_SEAL_STATE = 0 ∧
        t.stw.holds = [(half, s.get .STW_SEAL_SEQ + 1)] ∧ t.out.head? = some (.pkg (.sealClaim half (s.get .STW_SEAL_SEQ + 1) ck.2)) ∧
        (∃ x l, t.log.flight = l ++ [(half, x)] ∧ x.code = 0xb030 ∧ x.sev = 0 ∧ x.payload = payloadOf [(1, half), (4, s.get .STW_SEAL_SEQ + 1), (1, ck.2)]) ∧
        t.mem = s.mem ∧ t.cores = s.cores) ∧
  (∀ (s : State) (half : Nat),
    (half ≠ s.sealPref ∨ s.sealUnit half = false ∨ s.rst.verified.contains half = false ∨ s.stw.claimed.contains half = true →
      exec (.sealStrapClaim half) s = .next s) ∧
    (half = s.sealPref ∨ s.sealUnit half = false ∨ s.stw.seen.contains half = true ∨ s.beat.coldNs < s.stw.origin + 200000000 →
      exec (.sealFallbackClaim half) s = .next s) ∧
    (s.sealUnit half = false ∨ s.sealHolds half ≠ none ∨ (∀ t0, KMap.get? s.stw.heard half = some t0 → s.beat.edges < t0 + 64) →
      exec (.sealLostClaim half) s = .next s)) ∧
  (∀ (s : State) (half : Nat), s.sealUnit half = true → half < 2 →
    (∀ q, s.sealHolds half = some q → exec (.sealHeartbeatSend half) s = .next (s.emit (.pkg (.sealHeartbeat half q)))) ∧
    (s.sealHolds half = none → exec (.sealHeartbeatSend half) s = .next s) ∧
    (∃ t, exec (.sealHeartbeatReceive half) s = .next t ∧ KMap.get? t.stw.heard half = some s.beat.edges ∧ t.stw.holds = s.stw.holds ∧
      t.flds = s.flds ∧ t.out = s.out ∧ t.mem = s.mem ∧ t.cores = s.cores))

/-- The handover of the seal (R411). -/
def Obligations.SealHandover : Prop :=
  (∀ s : State, s.get .STW_SEAL_STATE = 0 →
    (s.ident.member = .a8 → (s.get .STR_STATUS_STATE ≠ 1 ∧ s.get .STR_STATUS_STATE ≠ 3 ∧ s.get .STR_STATUS_STATE ≠ 4) →
      (∃ t, exec .sealOffer s = .next t ∧ t.get .STW_SEAL_STATE = 1 ∧
        t.stw.offer = some ⟨1 - s.get .STW_SEAL_HOLDER, false, s.now, false, none, none, none, false⟩ ∧
        t.out.head? = some (.pkg (.sealOffer (1 - (1 - s.get .STW_SEAL_HOLDER)) (s.strHandover.get .STW_SEAL_SEQ + 1)))) ∧
      (∀ link half, s.stw.dispute = none → s.get .STR_STATUS_STATE ≠ 2 → half < 2 → half ≠ s.get .STW_SEAL_HOLDER →
        ∃ t, exec (.sealHostGrant link half none) s = .next t ∧ t.get .STW_SEAL_GRANT_VALID = 1 ∧ t.get .STW_SEAL_GRANT_HALF = half ∧
          t.get .STW_SEAL_STATE = 1 ∧ ∃ o, t.stw.offer = some o ∧ o.byHost = true)) ∧
    (s.ident.member = .a8 → (s.get .STR_STATUS_STATE = 1 ∨ s.get .STR_STATUS_STATE = 3 ∨ s.get .STR_STATUS_STATE = 4) →
      exec .sealOffer s = .next (s.log' (sealSrc (s.get .STW_SEAL_HOLDER)) 0xb032 1 [(1, 1 - s.get .STW_SEAL_HOLDER), (1, 0)])) ∧
    (s.ident.member ≠ .a8 →
      exec .sealOffer s = .next (s.log' (sealSrc (s.get .STW_SEAL_HOLDER)) 0xb032 1 [(1, 1 - s.get .STW_SEAL_HOLDER), (1, 2)]))) ∧
  (∀ (s : State) (o : SealOffer), s.stw.offer = some o →
    (o.withdrawn = false → s.sealUnit o.taker = true → exec .sealOfferReceive s = .next (s.setOffer (some { o with got := true }))) ∧
    (o.got = true → o.accepted = none → s.sealUnit o.taker = true →
      exec .sealAccept s = .next ((s.setOffer (some { o with accepted := some s.now })).emit (.pkg (.sealAccept o.taker (s.get .STW_SEAL_SEQ + 1))))) ∧
    (∀ ahead, o.accepted.isSome = true → o.withdrawn = false → o.h = none →
      exec (.sealAcceptReceive ahead) s = .next ((s.setOffer (some { o with h := some (s.now + max 4 ahead) })).emit
        (.pkg (.sealCommit (1 - o.taker) (s.get .STW_SEAL_SEQ + 1) (s.now + max 4 ahead))))) ∧
    (∀ q h, s.sealUnit o.taker = true → s.sealHolds o.taker = none → o.accepted.isSome = true →
      exec (.sealCommitReceive o.taker q h) s = .next (s.setOffer (some { o with takerH := some h }))) ∧
    (∀ h, o.takerH = some h →
      (s.now < h → exec .sealHandover s = .next s) ∧
      (h ≤ s.now → o.taker < 2 →
        ∃ t, exec .sealHandover s = .next t ∧ t.get .STW_SEAL_HOLDER = o.taker ∧ t.get .STW_SEAL_SEQ = (s.get .STW_SEAL_SEQ + 1) % 2 ^ 32 ∧
          t.get .STW_SEAL_STATE = 0 ∧ t.stw.offer = none ∧ t.stw.holds = [(o.taker, (s.get .STW_SEAL_SEQ + 1) % 2 ^ 32)] ∧ t.mem = s.mem ∧ t.cores = s.cores)) ∧
    (o.h = none → o.withdrawn = false → o.since + ceilDiv 1000000 s.period ≤ s.now → o.accepted = none →
      exec .sealOfferTimeout s = .next (((s.setOffer none).set .STW_SEAL_STATE 0).sealAbortEv o.taker 1)) ∧
    (∀ a, o.accepted = some a → o.takerH = none →
      (s.now < a + ceilDiv 1000000 s.period → exec .sealCommitTimeout s = .next s) ∧
      (a + ceilDiv 1000000 s.period ≤ s.now → exec .sealCommitTimeout s = .next ((s.setOffer none).sealClaim o.taker 2)))) ∧
  (∀ s : State, s.stw.offer = none → ∀ c ∈ [Instr.sealOfferReceive, .sealAccept, .sealHandover, .sealOfferTimeout, .sealCommitTimeout],
    exec c s = .next s)

/-- The dispute of the seal (R412). -/
def Obligations.SealDisputes : Prop :=
  (∀ (s : State) (w e : Nat), s.sealHolds 0 = some w → s.sealHolds 1 = some e → w ≠ e → s.stw.dispute = none →
    (s.sealUnit 0 = true →
      (∃ t, exec .sealDispute s = .next t ∧ t.get .STW_SEAL_STATE = 2 ∧ t.stw.dispute = some ⟨s.now, w, e, none, 0, none, false⟩ ∧
        t.stw.offer = none ∧ t.stw.holds = s.stw.holds ∧ .sealFreeze (s.now + 4) ∈ t.out ∧ bit (t.get .GLB_IRQ_STATUS_SRC) 2 = true ∧ t.mem = s.mem ∧ t.cores = s.cores)) ∧
    (s.sealUnit 0 = false → exec .sealDispute s = .next (s.sealTo 1 e))) ∧
  (∀ s : State, s.stw.dispute.isSome = true ∨ s.sealHolds 0 = none ∨ s.sealHolds 1 = none → exec .sealDispute s = .next s) ∧
  (∀ (s : State) (half q own : Nat), half < 2 → s.sealUnit half = true → s.sealUnit 0 = true → s.sealHolds half = some own → own ≠ q → s.sealHolds (1 - half) = none → s.stw.dispute = none →
    ∃ t, exec (.sealClaimReceive half q) s = .next t ∧ t.get .STW_SEAL_STATE = 2 ∧ t.stw.dispute.isSome = true ∧
      t.stw.holds = (1 - half, q) :: s.stw.holds ∧ t.mem = s.mem ∧ t.cores = s.cores) ∧
  (∀ (s : State) (half q : Nat), s.sealUnit half = true → s.sealHolds half = none →
    ∃ t, exec (.sealClaimReceive half q) s = .next t ∧ half ∈ t.stw.seen ∧ t.stw.holds = s.stw.holds ∧ t.flds = s.flds ∧ t.mem = s.mem) ∧
  (∀ (s : State) (x : SealDispute), s.stw.dispute = some x → x.r = none →
    let wins := fun (t : State) (w : Nat) => t.get .STW_SEAL_HOLDER = w ∧ t.get .STW_SEAL_SEQ = (max x.seqW x.seqE + 1) % 2 ^ 32 ∧ t.get .STW_SEAL_STATE = 0 ∧
      (∃ y, t.stw.dispute = some y ∧ y.r = some s.now ∧ y.winner = w) ∧ (if w = 0 then t.get .STW_STATUS_HALF_E else t.get .STW_STATUS_HALF_W) = 5 ∧
      t.mem = s.mem ∧ t.cores = s.cores
    (s.ident.member = .a8 → ∀ link half, half < 2 →
      (∃ t, exec (.sealHostGrant link half none) s = .next t ∧ wins t half) ∧
      (∀ b, b < 2 → ∃ t, exec (.sealHostGrant link half (some b)) s = .next t ∧ wins t b)) ∧
    (x.d + ceilDiv 50000000 s.period ≤ s.now → ∃ t, exec .sealDisputeTimeout s = .next t ∧ wins t 0) ∧
    (s.now < x.d + ceilDiv 50000000 s.period → exec .sealDisputeTimeout s = .next s) ∧ exec .sealDisputeFreezeEnd s = .next s) ∧
  (∀ (s : State) (x : SealDispute) (r : Nat), s.stw.dispute = some x → x.r = some r →
    exec .sealDisputeTimeout s = .next s ∧
    (s.now < r + 4 → exec .sealDisputeFreezeEnd s = .next s) ∧
    (r + 4 ≤ s.now → s.stw.heldOut = [] →
      ∃ t, exec .sealDisputeFreezeEnd s = .next t ∧ t.stw.dispute = none ∧ t.stw.heldPkg = [] ∧ t.out = (s.stw.heldPkg.map Out.pkg).reverse ++ s.out ∧
        (∃ a b l, t.log.flight = l ++ [(0, a), (1, b)] ∧ a.code = 0xb033 ∧ b.code = 0xb033 ∧ a.sev = 2 ∧ a.payload = b.payload) ∧
        t.mem = s.mem ∧ t.cores = s.cores))

/-- The reference monitor (R420 to R422), the gating tree (R424) and DBG_CLKOUT (R426; its frequencies are log entry 47's). -/
def Obligations.ClocksAreMonitoredGatedAndShown : Prop :=
  (∀ (s : State) (half count : Nat), s.monitorOk half = true →
    (∃ t, exec (.watchCalibrationComplete half count) s = .next t ∧ t.get .CLK_MON_CAL = count % 2 ^ 32 ∧ t.get .CLK_STATUS_REF_OK = 1 ∧
      t.get .RST_STATUS_STAGE = (if s.get .RST_STATUS_STAGE = 0 then 1 else s.get .RST_STATUS_STAGE) ∧ t.mem = s.mem ∧ t.cores = s.cores ∧
      ∀ f u i, f ∉ [Field.CLK_MON_CAL, .CLK_STATUS_REF_OK, .RST_STATUS_STAGE] → t.get f u i = s.get f u i) ∧
    (s.get .CLK_MON_CAL = 0 → exec (.refMonitorWindow half count) s = .next s ∧ exec (.refMissingEdge half) s = .next s) ∧
    (s.get .CLK_MON_CAL ≠ 0 →
      (100 * (16 * count - s.get .CLK_MON_CAL) ≤ 2 * s.get .CLK_MON_CAL → 100 * (s.get .CLK_MON_CAL - 16 * count) ≤ 2 * s.get .CLK_MON_CAL →
        exec (.refMonitorWindow half count) s = .next (s.set .CLK_MON_LAST (count % 65536))) ∧
      (2 * s.get .CLK_MON_CAL < 100 * (16 * count - s.get .CLK_MON_CAL) ∨ 2 * s.get .CLK_MON_CAL < 100 * (s.get .CLK_MON_CAL - 16 * count) →
        exec (.refMonitorWindow half count) s = .next ((s.set .CLK_MON_LAST (count % 65536)).refFault half 0)) ∧
      exec (.refMissingEdge half) s = .next (s.refFault half 1)) ∧
    (s.get .CLK_STATUS_FALLBACK = 0 → exec (.refRecovered half) s = .next s) ∧
    (s.get .CLK_STATUS_FALLBACK = 1 → (∀ c, s.refFault half c = s) ∧
      ∃ t, exec (.refRecovered half) s = .next t ∧ t.get .CLK_STATUS_FALLBACK = 0 ∧ t.get .CLK_STATUS_REF_OK = 1 ∧ t.clk = s.clk ∧ t.mem = s.mem ∧
        t.cores = s.cores)) ∧
  (∀ (s : State) (a : Agent) (n : Nat), n < 65536 →
    (s.nodeOk n = false → ∀ c ∈ [Instr.clkGate a n, .clkUngate a n], ∃ t, exec c s = .next t ∧ t.get .CLK_GATE_RES_DONE = 1 ∧
      t.get .CLK_GATE_RES_STATUS = 3 ∧ t.clk = s.clk) ∧
    (s.nodeOk n = true →
      (n / 4096 = 2 → s.get .DCTL_CLMAP_SPARE (n % 4096 / 512) = n % 512 / 32 →
        ∃ t, exec (.clkGate a n) s = .next t ∧ t.get .CLK_GATE_RES_DONE = 1 ∧ t.get .CLK_GATE_RES_STATUS = 2 ∧ t.clk = s.clk) ∧
      (n / 4096 ≠ 2 ∨ s.get .DCTL_CLMAP_SPARE (n % 4096 / 512) ≠ n % 512 / 32 →
        (∀ b, (s.nodesUnder n).find? s.leafBusy = some b →
          ∃ t, exec (.clkGate a n) s = .next t ∧ t.get .CLK_GATE_RES_DONE = 1 ∧ t.get .CLK_GATE_RES_STATUS = 1 ∧
            t.get .CLK_GATE_RES_BLOCKER = b % 65536 ∧ t.clk = s.clk) ∧
        ((s.nodesUnder n).find? s.leafBusy = none →
          ∃ t, exec (.clkGate a n) s = .next t ∧ t.get .CLK_GATE_RES_DONE = 1 ∧ t.get .CLK_GATE_RES_STATUS = 0 ∧ n ∈ t.clk.gates ∧
            (∀ m, m ∈ t.clk.gates ↔ m = n ∨ m ∈ s.clk.gates) ∧ t.mem = s.mem ∧ t.cores = s.cores ∧ t.log = s.log)) ∧
      ((nodeParent n).any s.clk.gates.contains = true →
        ∃ t, exec (.clkUngate a n) s = .next t ∧ t.get .CLK_GATE_RES_DONE = 1 ∧ t.get .CLK_GATE_RES_STATUS = 4 ∧ t.clk = s.clk) ∧
      ((nodeParent n).any s.clk.gates.contains = false →
        ∃ t, exec (.clkUngate a n) s = .next t ∧ t.get .CLK_GATE_RES_DONE = 1 ∧ t.get .CLK_GATE_RES_STATUS = 0 ∧ n ∉ t.clk.gates ∧
          (∀ m, m ≠ n → (m ∈ t.clk.gates ↔ m ∈ s.clk.gates)) ∧ t.mem = s.mem ∧ t.cores = s.cores ∧ t.log = s.log))) ∧
  (∀ (s : State) (a : Agent) (v : Word) (f : Nat), s.dbgClock (bits v.toNat 7 0) = some f →
    (bits v.toNat 23 8 ≠ 0 → f ≤ 250000 * (bits v.toNat 23 8 + 1) →
      ∃ t, exec (.clkDbgWrite a v) s = .next t ∧ t.get .CLK_DBG_REFUSED = 0 ∧ t.get .CLK_DBG_SEL = bits v.toNat 7 0 ∧
        t.get .CLK_DBG_DIV = bits v.toNat 23 8 ∧ t.mem = s.mem) ∧
    (bits v.toNat 23 8 = 0 ∨ 250000 * (bits v.toNat 23 8 + 1) < f → exec (.clkDbgWrite a v) s = .next (s.set .CLK_DBG_REFUSED 1))) ∧
  (∀ (s : State) (a : Agent) (v : Word), s.dbgClock (bits v.toNat 7 0) = none → exec (.clkDbgWrite a v) s = .next (s.set .CLK_DBG_REFUSED 1))

/-- Power states (R427 to R430), the cap and the thermal limit (R432). -/
def Obligations.PowerStatesAndClocksFollowTheirRules : Prop :=
  (∀ (s : State) (q : Nat), s.clk.entering = some q → s.clk.wake = none → q = 2 ∨ q = 3 →
    ∃ t, exec .powerEntryComplete s = .next t ∧ t.get .PWR_STATE_CURRENT = q ∧ t.clk.entering = none ∧ t.clk.q1 = [] ∧
      t.get .PWR_STATE_EXIT_CAUSE = 0 ∧ t.mem = s.mem ∧ t.poison = s.poison ∧ t.cores = s.cores ∧ (q = 2 → t.get .PWR_STATE_ENTRIES = (s.get .PWR_STATE_ENTRIES + 1) % 2 ^ Field.PWR_STATE_ENTRIES.width)) ∧
  (∀ s : State, s.clk.entering = none → exec .powerEntryComplete s = .next s) ∧
  (∀ (s : State) (c : Nat), 1 ≤ c → c ≤ 5 → s.clk.entering = none →
    (s.get .PWR_STATE_CURRENT < 2 ∨ s.clk.exiting.isSome = true → exec (.powerExit c) s = .next s) ∧
    (2 ≤ s.get .PWR_STATE_CURRENT → s.clk.exiting = none → ∃ t, exec (.powerExit c) s = .next t ∧ t.clk.exiting = some c ∧
      t.get .PWR_STATE_EXIT_CAUSE = c ∧ t.get .PWR_STATE_CURRENT = s.get .PWR_STATE_CURRENT ∧ t.mem = s.mem)) ∧
  (∀ (s : State) (ue fails : List Nat), s.clk.exiting.isSome = true → s.get .PWR_STATE_CURRENT = 2 →
    ∃ t : State, exec (.powerExitComplete ue fails) s = .next t.accResume.regResume ∧ t.get .PWR_STATE_CURRENT = 0 ∧ t.clk.exiting = none ∧
      t.get .PWR_CLOCK_RUN_MHZ = min (s.get .PWR_CLOCK_CAP_MHZ) (s.get .PWR_CLOCK_THERM_MHZ) % 2 ^ Field.PWR_CLOCK_RUN_MHZ.width ∧ t.mem = s.mem ∧
      t.poison = s.poison ∧ t.cores = s.cores) ∧
  (∀ (s : State) (clu : Nat), s.cluOk clu = true →
    (s.powerOk 1 = true → s.cluIdle clu = true → s.get .PWR_STATE_CURRENT < 2 → s.clk.q1.contains clu = false →
      ∃ t, exec (.q1ClusterGate clu) s = .next t ∧ t.clk.q1 = clu :: s.clk.q1 ∧ t.get .PWR_STATE_CURRENT = 1 ∧ t.mem = s.mem ∧ t.cores = s.cores) ∧
    (s.powerOk 1 = false ∨ s.cluIdle clu = false ∨ s.clk.q1.contains clu = true → exec (.q1ClusterGate clu) s = .next s)) ∧
  (∀ (s : State) (w : Nat), s.get .PWR_CLOCK_CAP_MHZ < 2 ^ 16 →
    let cap := s.get .PWR_CAP_WATTS
    let mhz := s.get .PWR_CLOCK_CAP_MHZ
    ∃ t, exec (.capStep w) s = .next t ∧ t.get .PWR_MEAS_PKG = min w 4095 ∧
      t.get .PWR_CLOCK_CAP_MHZ = (if cap < w then (if 500 < mhz then mhz - 25 else mhz) else if 100 * w ≤ 98 * cap ∧ mhz < 2100 then mhz + 25 else mhz) ∧
      t.mem = s.mem ∧ t.cores = s.cores) ∧
  (∀ (s : State) (die tj : Nat), s.get .PWR_CLOCK_THERM_MHZ < 2 ^ 16 →
    let mhz := s.get .PWR_CLOCK_THERM_MHZ
    ∃ t, exec (.thermalStep die tj) s = .next t ∧ t.get .PWR_MEAS_TJ_MAX = min tj 255 ∧
      t.get .PWR_CLOCK_THERM_MHZ = (if 105 ≤ tj ∧ 500 < mhz then mhz - 25 else if tj ≤ 100 ∧ mhz < 2100 then mhz + 25 else mhz) ∧
      t.mem = s.mem ∧ t.cores = s.cores) ∧
  (∀ (s : State) (a : Agent) (v : Word),
    (within s.ident.capMin (bits v.toNat 11 0) s.ident.cap = true →
      ∃ t, exec (.pwrCapWrite a v) s = .next t ∧ t.get .PWR_CAP_WATTS = bits v.toNat 11 0 ∧ t.mem = s.mem ∧
        ∀ f u i, f ≠ .PWR_CAP_WATTS → t.get f u i = s.get f u i) ∧
    (within s.ident.capMin (bits v.toNat 11 0) s.ident.cap = false →
      ∃ t x, exec (.pwrCapWrite a v) s = .next t ∧ t.flds = s.flds ∧ t.mem = s.mem ∧ t.log.flight = s.log.flight ++ [(s.inCharge / 2, x)] ∧ x.code = 0x2005 ∧ x.sev = 1) ∧
    (s.clk.entering = none →
      (exitNs (s.get .PWR_STATE_CURRENT) ≤ bits v.toNat 39 0 → exec (.pwrLatTolWrite a v) s = .next (s.set .PWR_LAT_TOL_NS (bits v.toNat 39 0))) ∧
      (bits v.toNat 39 0 < exitNs (s.get .PWR_STATE_CURRENT) → 2 ≤ s.get .PWR_STATE_CURRENT → s.clk.exiting = none →
        ∃ t, exec (.pwrLatTolWrite a v) s = .next t ∧ t.get .PWR_LAT_TOL_NS = bits v.toNat 39 0 ∧ t.clk.exiting = some 5 ∧ t.mem = s.mem)))

/-- The kinds of reset (R437 to R440, R515); what the spec gives no reset value takes log entries 1 and 2. -/
def Obligations.ResetsKeepAndLoseWhatTheySay : Prop :=
  (∀ (s : State) (strap : Nat), ∀ c ∈ [(Instr.resetCold strap, strap % 2), (.perstNAssert, s.ident.sealPref % 2)],
    ∃ t, exec c.1 s = .next t ∧ t.mem = [] ∧ t.poison = [] ∧ t.cores = [] ∧ t.str = StrSt.init ∧ t.que = State.reset.que ∧ t.coll = CollSt.init ∧
      t.ident = { s.ident with sealPref := c.2 } ∧ t.fab.unlatched = s.fab.unlatched ∧
      ∀ f u i, f ≠ .SEC_CHALLENGE_VALUE → t.get f u i = f.reset { s.ident with sealPref := c.2 } i) ∧
  (∀ s : State, Mem.wf s.mem = true → s.qTable = none → (∀ e, (s.vceOf e).streams = []) → s.get .ESC_STATUS_OPEN ≠ 1 → s.esc.filling = none →
    ∃ t, exec (.resetWarm 3) s = .next t ∧ t.cores = [] ∧ t.str = StrSt.init ∧ t.coll = CollSt.init ∧ t.ident = s.ident ∧
      (∀ a, a < 2 ^ 44 → Mem.read t.mem a = Mem.read s.mem a) ∧ (∀ a, 2 ^ 44 ≤ a → Mem.read t.mem a = 0) ∧
      t.get .BEAT_NOW_COUNT = s.get .BEAT_NOW_COUNT ∧ t.get .RST_STATUS_LAST_KIND = 1 ∧ t.get .RST_STATUS_CAUSE = 3 ∧ t.get .RST_STATUS_STAGE = 1 ∧
      t.get .RST_STATUS_READY = 0) ∧
  (∀ (s : State) (c : Nat),
    (s.coreOk c = false → exec (.resetCore c) s = .next s) ∧
    (s.coreOk c = true → exec (.resetCore c) s =
      .next ((((s.bump .RST_COUNT_CORE).resetEv 3 3 c).bistAbandon (coreClu c)).coresReset (coreDie c) [c] 0)) ∧
    (s.mayReset c = false → exec (.resetDie c) s = .next s) ∧
    (s.mayReset c = true →
      let y := (((s.bump .RST_COUNT_DIE).resetEv 2 3 c).strDieReset c).mapRst fun r => { r with inReset := c :: r.inReset.filter (· != c) }
      (c < 8 → exec (.resetDie c) s = .next (y.computeReset c)) ∧
      (8 ≤ c → c < 32 → exec (.resetDie c) s = .next (y.ledgerReset (c - 24))) ∧
      (32 ≤ c → exec (.resetDie c) s = .next (y.hubReset (c - 32)))) ∧
    (∀ lost fails, s.rst.inReset.contains c = false → exec (.dieResetComplete c lost fails) s = .next s) ∧
    (∀ lost fails y, s.rst.inReset.contains c = true → (dieUnits c).any s.str.fenced.contains = false → 24 ≤ c → c < 32 →
      s.strReload c = (y, true) → exec (.dieResetComplete c lost fails) s = .next ((y.rejoin c).ledgerBack (c - 24) fails)))

/-- Start-up (R441 to R445; the choices of log entries 45 and 50) and tests during work (R447 to R449; those of log entry 53). -/
def Obligations.StartUpReachesReadyAndTestsRun : Prop :=
  (∀ (s : State) (h : Nat), s.monitorOk h = true → s.get .RST_STATUS_STAGE ≠ 0 → s.get .RST_STATUS_STAGE ≠ 6 →
    ∀ slot, (slot = 0 ∧ KMap.get? s.rst.loaded h = none) ∨ (slot = 1 ∧ KMap.get? s.rst.loaded h = some 2) →
    ∃ t, exec (.bootRomLoad h) s = .next t ∧ KMap.get? t.rst.loaded h = some slot ∧ t.mem = s.mem ∧ t.sec = s.sec ∧
      t.get .RST_STATUS_STAGE = if s.get .RST_STATUS_STAGE = 1 then 2 else s.get .RST_STATUS_STAGE) ∧
  (∀ (s : State) (h slot : Nat), s.monitorOk h = true → KMap.get? s.rst.loaded h = some slot → slot < 2 → s.rst.verified.contains h = false →
    s.get .RST_STATUS_STAGE ≠ 6 →
    let img := KMap.get s.sec.slots (h, slot) []
    (s.fwFault img = none → ∃ t, exec (.firmwareVerified h) s = .next t ∧ t.rst.verified = h :: s.rst.verified ∧ t.get .RST_STATUS_FW_SLOT = slot ∧
      t.sec.fwSvn = fwSvnOf img ∧ t.sec.vkey = fwVkey img ∧ t.mem = s.mem ∧
      t.get .RST_STATUS_STAGE = if s.get .RST_STATUS_STAGE = 2 then 3 else s.get .RST_STATUS_STAGE) ∧
    (∀ c, s.fwFault img = some c → slot = 0 → ∃ t x, exec (.firmwareVerified h) s = .next t ∧ KMap.get? t.rst.loaded h = some 2 ∧ t.rst.verified = s.rst.verified ∧
      t.flds = s.flds ∧ x.code = 0xa001 ∧ (∃ k, (k, x) ∈ t.log.flight))) ∧
  (∀ (s : State) (h : Nat), s.monitorOk h = true → s.rst.verified.contains h = true → s.rst.booted.contains h = false →
    ∃ t, exec (.bursarBooted h) s = .next t ∧ t.rst.booted = h :: s.rst.booted ∧ t.get .RST_STATUS_READY = s.get .RST_STATUS_READY ∧ t.mem = s.mem) ∧
  (∀ (s : State) (fails : List Nat), Mem.wf s.mem = true → s.rst.lpOk = false → s.get .RST_STATUS_STAGE ≠ 0 → s.get .RST_STATUS_STAGE ≠ 6 →
    s.get .RST_STATUS_LAST_KIND ≠ 1 → (∀ ld, ld < s.ident.dies → s.get .LDG_STATUS_STATE ld = 1) →
    ∃ t : State, exec (.lpddr6InitComplete fails) s = .next t.accResume ∧ t.rst.lpOk = true ∧ (∀ ld, ld < s.ident.dies → t.get .LDG_STATUS_STATE ld = 2) ∧
      (∀ a, a < 2 ^ 44 → Mem.read t.mem a = 0) ∧ (∀ a, 2 ^ 44 ≤ a → Mem.read t.mem a = Mem.read s.mem a)) ∧
  (∀ s : State, s.get .RST_STATUS_STAGE = 4 → s.rst.tested = false →
    (∀ d, d < s.ident.dies → s.get .DCTL_CLSTAT_STATE d ≠ 3) →
    ∃ t, exec (.startupTestComplete [] []) s = .next t ∧ t.rst.tested = true ∧ t.flds = s.flds ∧ t.mem = s.mem) ∧
  (∀ s : State, s.get .RST_STATUS_STAGE = 4 → s.rst.tested = true → s.complex 0 = 4 ∨ s.complex 1 = 4 →
    ∃ t, exec .partReady s = .next t ∧ t.get .RST_STATUS_READY = 1 ∧ t.get .RST_STATUS_STAGE = 5 ∧ t.mem = s.mem ∧ t.cores = s.cores ∧
      bit (t.get .GLB_IRQ_STATUS_SRC) 0 = true) ∧
  (∀ (s : State) (a : Agent) (x : Nat), x < 65536 →
    (s.rst.test.isSome = true → ∀ c ∈ [Instr.testLogicBist a x, .testLpddr6Cal a x, .testOpticalRecal a x],
      exec c s = .next (s.set .RST_TEST_RES_STATUS 8)) ∧
    (s.rst.test = none →
      (x < 256 → s.cluOk (16 * bits x 7 4 + bits x 3 0) = true → s.get .DCTL_CLMAP_SPARE (bits x 7 4) = bits x 3 0 ∨ s.lost (16 * bits x 7 4 + bits x 3 0) = true →
        (s.die (bits x 7 4)).rot = none → s.rst.inReset.contains (bits x 7 4) = false →
        ∃ t, exec (.testLogicBist a x) s = .next t ∧ t.rst.test = some (1, x) ∧ t.rst.running = true ∧ t.get .RST_TEST_RES_DONE = 0 ∧
          t.get .RST_TEST_RES_PENDING = 0 ∧ t.mem = s.mem ∧ t.cores = s.cores) ∧
      (x < 3 * s.ident.dies → (s.bank (unitLedger (x / 3))).sec 10 = [] →
        ∃ t, exec (.testLpddr6Cal a x) s = .next t ∧ t.rst.test = some (2, x) ∧ t.rst.running = false ∧ t.get .RST_TEST_RES_DONE = 0 ∧
          t.get .RST_TEST_RES_PENDING = 1 ∧ t.mem = s.mem ∧ t.cores = s.cores) ∧
      (3 * s.ident.dies ≤ x → ∃ t, exec (.testLpddr6Cal a x) s = .next t ∧ t.rst.test = none ∧ t.get .RST_TEST_RES_DONE = 1 ∧
        t.get .RST_TEST_RES_STATUS = 3 ∧ t.mem = s.mem ∧ t.cores = s.cores) ∧
      (x < s.ident.ports → s.peers = [] → s.timeCands = [] → s.peerMap = [] →
        exec (.testOpticalRecal a x) s = .next ((s.testTake 3 x false).recalStart x) ∧ ((s.testTake 3 x false).recalStart x).rst.running = true))) ∧
  (∀ (s : State) (p : Nat), s.rst.test = some (3, p) → s.rst.running = false → s.routeLost p = none →
    exec .opticalRecalStart s = .next (s.recalStart p)) ∧
  (∀ (s : State) (a : Agent), s.rst.test.isSome = true → s.rst.running = false →
    ∃ t, exec (.testCancel a) s = .next t ∧ t.rst.test = none ∧ t.get .RST_TEST_RES_DONE = 1 ∧ t.get .RST_TEST_RES_STATUS = 7 ∧ t.mem = s.mem ∧ t.cores = s.cores) ∧
  (∀ (s : State) (x : Nat), s.rst.test = some (1, x) → s.rst.running = true →
    ∃ t, exec (.testComplete none) s = .next t ∧ t.rst.test = none ∧ t.rst.running = false ∧ t.get .RST_TEST_RES_DONE = 1 ∧
      t.get .RST_TEST_RES_STATUS = 0 ∧ t.mem = s.mem ∧ t.cores = s.cores)

/-- Security operations (R455, R458 to R466). The order of the checks of a key request, and where several statuses fit, is log entry 45's; signatures are
free functions of Config, so the hypotheses of a verified signature have no computed witness. -/
def Obligations.SecurityOperationsAnswerAndChangeOnlyTheirOwn : Prop :=
  let Done := fun (t : State) (st : Nat) => t.get .SEC_OP_RES_DONE = 1 ∧ t.get .SEC_OP_RES_STATUS = st
  (∀ (s : State) (a : Agent), s.get .RST_STATUS_READY = 1 →
    let n := s.set .SEC_OP_RES_DONE 0
    (s.get .RST_STATUS_FW_SLOT = 1 →
      ∃ t, exec (.secAdvanceSvn a) s = .next t ∧ Done t 8 ∧ t.get .SEC_SVN_SVN = s.get .SEC_SVN_SVN ∧ t.ident = s.ident ∧ t.sec = s.sec ∧ t.mem = s.mem) ∧
    (s.get .RST_STATUS_FW_SLOT ≠ 1 → s.get .SEC_SVN_SVN < 128 → s.sec.fwSvn < 128 →
      ∃ t, exec (.secAdvanceSvn a) s = .next t ∧ Done t 0 ∧ t.get .SEC_SVN_SVN = max (s.get .SEC_SVN_SVN) s.sec.fwSvn ∧
        t.ident.svn = max (s.get .SEC_SVN_SVN) s.sec.fwSvn ∧ t.sec = s.sec ∧ t.mem = s.mem) ∧
    (n.secOutOk = false → ∀ c ∈ [Instr.secCert a, .secAttest a],
      ∃ t, exec c s = .next t ∧ Done t 9 ∧ t.mem = s.mem ∧ t.sec = s.sec ∧ t.ident = s.ident) ∧
    (n.secOutOk = true →
      (∃ t, exec (.secCert a) s = .next t ∧ Done t 0 ∧ t.get .SEC_OP_RES_LEN = (s.sec.cert.take 4096).length ∧
        t.mem = (n.wrDa .steward (n.carveBank .steward) n.secDa (s.sec.cert.take 4096)).mem ∧ t.sec = s.sec ∧ t.ident = s.ident) ∧
      (∃ t sig, exec (.secAttest a) s = .next t ∧ Done t 0 ∧ t.get .SEC_OP_RES_LEN = 2740 ∧ sig.length = 2420 ∧
        t.mem = (n.tick.wrDa .steward (n.carveBank .steward) n.secDa (n.report ++ sig)).mem ∧ t.sec = s.sec ∧ t.ident = s.ident)) ∧
    (let img := n.carveBank .steward
     let len := min 33554432 (max 3796 (field (n.rdDa .steward img stagingDa 16) 0xc 4))
     let b := n.rdDa .steward img stagingDa len
     ((n.poisonDa .steward img stagingDa len).isSome ∨ (n.fwFault b).isSome →
        ∃ t, exec (.secStage a) s = .next t ∧ Done t 7 ∧ t.sec = s.sec ∧ t.mem = s.mem ∧ t.ident = s.ident) ∧
     (n.poisonDa .steward img stagingDa len = none → n.fwFault b = none →
        ∃ t, exec (.secStage a) s = .next t ∧ Done t 0 ∧ t.mem = s.mem ∧ t.ident = s.ident ∧ ∀ h, s.roots.contains h = true →
          KMap.get t.sec.slots (h, 0) [] = b ∧ KMap.get t.sec.slots (h, 1) [] = KMap.get s.sec.slots (h, 0) [])) ∧
    (∀ c ∈ [Instr.secEnrollOwner a, .secRevokeOwner a, .secRevokeVendor a],
      (n.keyReadable = false → ∃ t, exec c s = .next t ∧ Done t 9 ∧ t.sec = s.sec ∧ t.ident = s.ident ∧ t.mem = s.mem) ∧
      (n.keyReadable = true →
        let b := n.keyRecord
        (n.keyStatus b ≠ 0 → ∃ t, exec c s = .next t ∧ Done t (n.keyStatus b) ∧ t.sec = s.sec ∧ t.ident = s.ident ∧ t.mem = s.mem) ∧
        (n.keyStatus b = 0 → ∃ t, exec c s = .next t ∧ Done t 0 ∧ t.mem = s.mem ∧
          (krKind b = 1 → t.ident.firstDone = 1 ∧ t.ident.ownEnr = putBit (s.get .SEC_FUSE_OWN_ENR) (krSlot b) true ∧ t.ident.ownRev = s.ident.ownRev ∧
            KMap.get t.sec.ownKey (krSlot b) [] = krKey b ∧ KMap.get t.sec.ownDig (krSlot b) [] = sha3 (krKey b)) ∧
          (krKind b = 2 → t.ident.ownRev = putBit (s.get .SEC_FUSE_OWN_REV) (krSlot b) true ∧ t.ident.ownEnr = s.ident.ownEnr ∧ t.sec = s.sec) ∧
          (krKind b = 3 → t.ident.venRev = putBit (s.get .SEC_FUSE_VEN_REV) (krSlot b) true ∧ t.ident.ownRev = s.ident.ownRev ∧ t.sec = s.sec))))) ∧
  (∀ (s : State) (a : Agent), s.get .RST_STATUS_READY ≠ 1 →
    ∀ c ∈ [Instr.secAttest a, .secStage a, .secEnrollOwner a, .secRevokeOwner a, .secRevokeVendor a, .secAdvanceSvn a, .secCert a],
      ∃ t, exec c s = .next t ∧ t.flds = s.flds ∧ t.sec = s.sec ∧ t.ident = s.ident ∧ t.mem = s.mem ∧ t.log.flight.length = s.log.flight.length + 1)

/-- The link layer (R313 to R318, R322, R336, R337) and the fibre-attach blocks (R515). -/
def Obligations.PortsTrainDegradeAndCarryFrames : Prop :=
  (∀ (s : State) (p dev pp m c1 c2 c3 : Nat), s.portOk p = true →
    (s.mayTrain p = false ∨ s.get .FAB_PORT_STATE 0 p ≠ 1 ∨ useLanes m = 0 → exec (.portTraining p dev pp m c1 c2 c3) s = .next s) ∧
    (s.mayTrain p = true → s.get .FAB_PORT_STATE 0 p = 1 → useLanes m ≠ 0 → ∃ t, exec (.portTraining p dev pp m c1 c2 c3) s = .next t ∧
      t.get .FAB_PORT_STATE 0 p = (if (s.miswired p dev).isSome then 4 else if useLanes m = 15 then 2 else 3) ∧
      t.get .FAB_PORT_PEER 0 p = dev % 65536 ∧ t.get .FAB_PORT_ACTIVE 0 p = useLanes m ∧
      t.port p = { PortSt.init with healthy := m % 16, credits := [(0, 256), (1, c1), (2, c2), (3, c3)] } ∧ t.mem = s.mem ∧
      ∀ q, q ≠ p → t.port q = s.port q ∧ t.get .FAB_PORT_STATE 0 q = s.get .FAB_PORT_STATE 0 q)) ∧
  (∀ (s : State) (p lane cause : Nat), s.portOk p = true → lane < 4 → s.portUp p = true → (s.lanes p).contains lane = true →
    let x := s.port p
    let h := putBit x.healthy lane false
    useLanes h ≠ 0 → ∃ t, exec (.laneDrop p lane cause) s = .next t ∧ t.get .FAB_PORT_ACTIVE 0 p = useLanes h ∧ t.get .FAB_PORT_STATE 0 p = 3 ∧
      t.get .FAB_PORT_DEGRADES 0 p = (s.get .FAB_PORT_DEGRADES 0 p + 1) % 65536 ∧
      t.port p = { x with healthy := h, change := some (match x.replay with | f :: _ => f.seq | [] => x.seq, false), resend := x.replay, bad := [], corr := [] } ∧
      (∀ q, q ≠ p → t.port q = s.port q) ∧ t.mem = s.mem) ∧
  (∀ (s : State) (p lane cause : Nat), s.portOk p = true → lane < 4 →
    (s.portUp p = false → exec (.laneDrop p lane cause) s = .next s) ∧
    (s.portUp p = true → (s.lanes p).contains lane = false →
      exec (.laneDrop p lane cause) s = .next (s.setPort p { s.port p with healthy := putBit (s.port p).healthy lane false }))) ∧
  (∀ (s : State) (p cause : Nat), s.portOk p = true →
    (s.portUp p = true → (s.port p).unsent = [] → (s.peers.filter fun e => e.tiers == 0 && bit e.ports p) = [] →
      ∃ t, exec (.portDown p cause) s = .next t ∧ t.get .FAB_PORT_STATE 0 p = 0 ∧ t.get .FAB_PORT_ACTIVE 0 p = 0 ∧
        t.port p = PortSt.init ∧ t.mem = s.mem ∧
        (∃ k x, (k, x) ∈ t.log.flight ∧ x.code = 0x5002 ∧ x.sev = 1) ∧ bit (t.get .GLB_IRQ_STATUS_SRC) 11 = true) ∧
    (s.portUp p = false → ∃ t, exec (.portDown p cause) s = .next t ∧ t.get .FAB_PORT_STATE 0 p = 0 ∧ t.get .FAB_PORT_ACTIVE 0 p = 0 ∧
        t.port p = PortSt.init ∧ t.mem = s.mem ∧ t.log = s.log)) ∧
  (∀ (s : State) (a : Agent) (p mask : Nat), bitList mask s.ident.ports = [p] →
    (s.mayTrain p = false → exec (.portRetrain a mask) s = .next s) ∧
    (s.mayTrain p = true → s.portUp p = false → ∃ t, exec (.portRetrain a mask) s = .next t ∧ t.get .FAB_PORT_STATE 0 p = 1 ∧
      t.get .FAB_PORT_ACTIVE 0 p = 0 ∧ t.mem = s.mem ∧ ∀ q, q ≠ p → t.get .FAB_PORT_STATE 0 q = s.get .FAB_PORT_STATE 0 q)) ∧
  (∀ (s : State) (a : Agent) (mask : Nat), (∀ p, s.portUp p = false) →
    ∃ t, exec (.portDisable a mask) s = .next t ∧ t.get .FAB_PORT_CTL_DISABLE = mask % 65536 ∧ t.mem = s.mem ∧ t.log = s.log ∧
      ∀ p, t.get .FAB_PORT_STATE 0 p = (if p < s.ident.ports then (if bit mask p ∧ ¬ bit (s.get .FAB_PORT_CTL_DISABLE) p then 5
        else if ¬ bit mask p ∧ bit (s.get .FAB_PORT_CTL_DISABLE) p then 0 else s.get .FAB_PORT_STATE 0 p) else s.get .FAB_PORT_STATE 0 p)) ∧
  (∀ (s : State) (b : Nat), s.opticsOk b = true →
    ((∀ p, s.portUp p = false) → ∃ t, exec (.fibreBlockUnlatch b) s = .next t ∧ t.mem = s.mem ∧ t.log = s.log ∧
      ∀ p, p / 4 = b → t.mayTrain p = false ∧ t.get .FAB_PORT_STATE 0 p = if s.get .FAB_PORT_STATE 0 p = 5 then 5 else 0) ∧
    (∃ t, exec (.fibreBlockLatch b) s = .next t ∧ t.flds = s.flds ∧ t.mem = s.mem ∧ t.fab.unlatched.contains b = false ∧
      ∀ x, x ≠ b → t.fab.unlatched.contains x = s.fab.unlatched.contains x)) ∧
  (∀ (s : State) (p lane : Nat), s.portOk p = true → lane < 4 →
    (s.get .FAB_PORT_STATE 0 p ≠ 1 ∨ s.mayTrain p = false → s.portUp p = false ∨ (s.lanes p).contains lane = false →
      exec (.linkFrameSend p lane) s = .next s) ∧
    (s.get .FAB_PORT_STATE 0 p = 1 → s.mayTrain p = true → ∃ t w, exec (.linkFrameSend p lane) s = .next t ∧ t.out = .frame p lane w :: s.out ∧
      (frameOf w).kind = 2 ∧ w.pieces = [] ∧ w.ctl = some (.train s.ownId p (s.ownCredit 1) (s.ownCredit 2) (s.ownCredit 3)) ∧ t.mem = s.mem) ∧
    (s.portUp p = true → (s.lanes p).contains lane = true → ∃ t w, exec (.linkFrameSend p lane) s = .next t ∧ t.out = .frame p lane w :: s.out ∧
      w.word < 2 ^ 128 ∧ (frameOf w).active = s.get .FAB_PORT_ACTIVE 0 p % 16 ∧ (frameOf w).ack = ((s.port p).expect + 2 ^ 20 - 1) % 2 ^ 20 ∧ t.mem = s.mem)) ∧
  (∀ (s : State) (p lane syms : Nat), s.portOk p = true → lane < 4 →
    (∀ w, s.portUp p = false → exec (.linkFrameReceive p lane w syms) s = .next s) ∧
    (s.portUp p = true → KMap.get (s.port p).bad lane 0 < 7 → ∃ t, exec (.linkFrameReceive p lane none syms) s = .next t ∧ (t.port p).nak = true ∧ (t.port p).lost = true ∧
      KMap.get (t.port p).bad lane 0 = KMap.get (s.port p).bad lane 0 + 1 ∧ t.get .FAB_RETRY_UNCORR 0 p = satAdd 32 (s.get .FAB_RETRY_UNCORR 0 p) 1 ∧
      t.mem = s.mem) ∧
    (∀ w : WireFrame, s.portUp p = true → w.pieces = [] → w.ctl = none → (frameOf w).kind = 0 → (frameOf w).seq = (s.port p).expect → syms ≤ 20 →
      (s.port p).ahead = [] → KMap.get (s.port p).corr lane [] = [] →
      let x := (s.port p).takeWord (frameOf w)
      ∃ t, exec (.linkFrameReceive p lane (some w) syms) s = .next t ∧ (t.port p).expect = ((s.port p).expect + 1) % 2 ^ 20 ∧
        (t.port p).lost = false ∧ (t.port p).replay = x.replay ∧ (t.port p).resend = x.resend ∧ (t.port p).credits = x.credits ∧ t.out = s.out ∧ t.mem = s.mem))

/-- Bushel operations and look-aside buffers (R235 to R237, R244; the choices of log entries 31 and 32). -/
def Obligations.BushelOperationsChangeThePoolAsListed : Prop :=
  let Res := fun (t : State) (clu st cow count b : Nat) => t.get .KVW_BOP_RES_DONE clu = 1 ∧ t.get .KVW_BOP_RES_STATUS clu = st ∧
    t.get .KVW_BOP_RES_COW clu = cow ∧ t.get .KVW_BOP_RES_COUNT clu = count % 65536 ∧ t.get .KVW_BOP_RES_BUSHEL clu = b % 2 ^ 29
  (∀ (s : State) (a : Agent) (clu seq vb : Nat), s.cluOk clu = true → s.get .RST_STATUS_READY = 1 →
    (s.bopBusy clu = true → ∀ c ∈ [Instr.alloc a clu seq vb, .map a clu seq vb, .unmap a clu seq vb, .query a clu seq vb, .setlen a clu seq vb,
      .returnBushel a clu seq vb, .poolstat a clu seq vb], exec c s = .next (s.setKvw clu { s.kvwSt clu with bopBusy := true })) ∧
    (seq < 2 ^ 20 → vb < 2 ^ 28 → s.kv.ops = [] → s.kv.cur = none → s.kv.taken = true →
      let n := s.set .KVW_BOP_RES_DONE 0 clu
      let arg := s.get .KVW_BOP_ARG_VALUE clu
      (s.kv.valid = false → ∀ c ∈ [Instr.alloc a clu seq vb, .map a clu seq vb, .unmap a clu seq vb, .query a clu seq vb, .setlen a clu seq vb,
        .returnBushel a clu seq vb, .poolstat a clu seq vb], ∃ t : State, exec c s = .next t ∧ Res t clu 7 0 0 0 ∧ t.mem = s.mem ∧ t.kv = s.kv) ∧
      (s.kv.valid = true → n.poolBusy n.mgrBank = false → ∀ p, n.pool mgrAgent n.mgrBank = some p →
        (s.kv.freeHead = noBushel → ∃ t : State, exec (.alloc a clu seq vb) s = .next t ∧ Res t clu 1 0 0 0 ∧ t.mem = s.mem ∧ t.kv = s.kv) ∧
        (s.kv.freeHead ≠ noBushel → n.bushelUe p [s.kv.freeHead] = none → ∃ t : State, exec (.alloc a clu seq vb) s = .next t ∧ Res t clu 0 0 0 s.kv.freeHead ∧
          t.kv.freeHead = (n.bushel p s.kv.freeHead).next ∧ t.kv.freeCount = s.kv.freeCount - 1 ∧
          t.mem = (n.setBushel p s.kv.freeHead ⟨0, false, true, false, (n.bushel p s.kv.freeHead).epoch, noBushel⟩).mem) ∧
        (∃ t : State, exec (.poolstat a clu seq vb) s = .next t ∧ Res t clu 0 0 0 s.kv.freeCount ∧ t.mem = s.mem ∧ t.kv = s.kv) ∧
        (∃ t : State, exec (.setlen a clu seq vb) s = .next t ∧ Res t clu 0 0 0 0 ∧
          t.mem = (n.wrDa mgrAgent n.mgrBank (p.base + p.seqOff + 8 * seq) (leBytes 8 (arg % 2 ^ 34))).mem ∧ t.kv = s.kv) ∧
        (n.bushelUe p [arg] = none →
          (p.nb ≤ arg ∨ (n.bushel p arg).held = false → ∃ t : State, exec (.returnBushel a clu seq vb) s = .next t ∧ Res t clu 5 0 0 0 ∧ t.mem = s.mem ∧ t.kv = s.kv) ∧
          (arg < p.nb → (n.bushel p arg).held = true → ∃ t : State, exec (.returnBushel a clu seq vb) s = .next t ∧ Res t clu 0 0 0 arg ∧
            t.kv.freeHead = arg ∧ t.kv.freeCount = s.kv.freeCount + 1 ∧
            t.mem = (n.setBushel p arg { n.bushel p arg with held := false, freeq := false, next := s.kv.freeHead }).mem) ∧
          (p.nb ≤ arg ∨ ((n.bushel p arg).held = false ∧ (n.bushel p arg).count = 0) → ∃ t : State, exec (.map a clu seq vb) s = .next t ∧ Res t clu 5 0 0 0 ∧
            t.mem = s.mem ∧ t.kv = s.kv)) ∧
        (∀ da w, n.walk mgrAgent n.mgrBank p seq vb = .leaf da w →
          (bit w 63 = true → n.bushelUe p [bits w 27 0] = none → ∃ t : State, exec (.query a clu seq vb) s = .next t ∧
            Res t clu 0 (b2n (n.bushel p (bits w 27 0)).cow) (n.bushel p (bits w 27 0)).count (bits w 27 0) ∧ t.mem = s.mem ∧ t.kv = s.kv) ∧
          (bit w 63 = false → ∀ c ∈ [Instr.query a clu seq vb, .unmap a clu seq vb], ∃ t : State, exec c s = .next t ∧ Res t clu 2 0 0 0 ∧ t.mem = s.mem ∧ t.kv = s.kv) ∧
          (bit w 63 = true → n.bushelUe p [bits w 27 0, s.kv.recTail] = none → ∃ t : State, exec (.unmap a clu seq vb) s = .next t ∧ t.get .KVW_BOP_RES_DONE clu = 0 ∧
            t.kv.cur = some ⟨⟨3, clu, seq, vb, arg⟩, n.walkers, some (bits w 27 0), 0, 0, bits w 27 0⟩ ∧
            t.mem = (n.wrDa mgrAgent n.mgrBank da (leBytes 8 0)).mem) ∧
          (arg < p.nb → n.bushelUe p [arg] = none → (n.bushel p arg).held = true ∨ (n.bushel p arg).count ≠ 0 → (n.bushel p arg).count ≠ 65535 →
            let old := if bit w 63 = true ∧ bits w 27 0 ≠ arg then some (bits w 27 0) else none
            n.bushelUe p (old.toList ++ [s.kv.recTail]) = none →
            let b := { n.bushel p arg with count := (n.bushel p arg).count + 1, held := false, cow := (n.bushel p arg).cow || decide (0 < (n.bushel p arg).count) }
            ∃ t : State, exec (.map a clu seq vb) s = .next t ∧ t.get .KVW_BOP_RES_DONE clu = 0 ∧
              t.kv.cur = some ⟨⟨2, clu, seq, vb, arg⟩, n.walkers, old, b2n b.cow, b.count, arg⟩ ∧
              t.mem = ((n.setBushel p arg b).wrDa mgrAgent n.mgrBank da (leBytes 8 (2 ^ 63 + arg))).mem)) ∧
        (∀ lvl, n.walk mgrAgent n.mgrBank p seq vb = .bad lvl → ∀ c ∈ [Instr.query a clu seq vb, .unmap a clu seq vb],
          ∃ t : State, exec c s = .next t ∧ Res t clu 3 0 0 0 ∧ t.mem = s.mem ∧ t.kv = s.kv)))) ∧
  (∀ (s : State) (clu seq vb : Nat), s.cluOk clu = true →
    (∃ t : State, exec (.labFlush clu) s = .next t ∧ (t.kvwSt clu).lab = [] ∧ (∀ w ∈ (t.kvwSt clu).walks, w.2.2 = false) ∧ t.flds = s.flds ∧ t.mem = s.mem ∧ t.kv = s.kv) ∧
    (s.kv.cur = none → ∃ t : State, exec (.labInvalidate clu seq vb) s = .next t ∧ labGet (t.kvwSt clu).lab seq vb = none ∧
      (∀ w ∈ (t.kvwSt clu).walks, w.1 = seq → w.2.1 = vb → w.2.2 = false) ∧ t.flds = s.flds ∧ t.mem = s.mem ∧ t.kv = s.kv) ∧
    (∀ w, s.kv.cur = some w → w.op.seq = seq → w.op.vb = vb → (∀ k ∈ w.walkers, k = clu) → w.cow < 2 → s.kv.ops = [] → s.poolBusy s.mgrBank = false →
      (w.release = none → ∃ t : State, exec (.labInvalidate clu seq vb) s = .next t ∧ Res t w.op.clu 0 w.cow w.count w.bushel ∧ t.kv.cur = none ∧ t.mem = s.mem) ∧
      (∀ m p, w.release = some m → s.pool mgrAgent s.mgrBank = some p → 1 < (s.bushel p m).count → w.op.op = 3 →
        let r := s.setBushel p m { s.bushel p m with count := (s.bushel p m).count - 1 }
        ∃ t : State, exec (.labInvalidate clu seq vb) s = .next t ∧ Res t w.op.clu 0 (b2n (r.bushel p m).cow) (r.bushel p m).count m ∧ t.kv.cur = none ∧ t.mem = r.mem))) ∧
  (∀ s : State, let img := s.bank (unitLedger 0)
    (s.kv.cur.isSome = true ∨ s.poolBusy img = true → exec .kvPoolInit s = .next s) ∧
    (s.kv.ops = [] → s.kv.cur = none → s.poolBusy img = false →
      (poolRegion img = none → ∃ t : State, exec .kvPoolInit s = .next t ∧ t.kv.valid = false ∧ t.kv.taken = true ∧ t.mem = s.mem ∧
        ∀ clu < 128, s.cluOk clu = true → t.get .KVW_STATUS_POOL clu = 0) ∧
      (∀ r b, poolRegion img = some r → (poolOf r (s.rdDa mgrAgent img r.base 64)).fault (s.rdDa mgrAgent img r.base 64) = some b →
        ∃ t : State, exec .kvPoolInit s = .next t ∧ t.kv.valid = false ∧ t.mem = s.mem ∧
          ∀ clu < 128, s.cluOk clu = true → t.get .KVW_STATUS_POOL clu = 0) ∧
      (∀ r, poolRegion img = some r → (poolOf r (s.rdDa mgrAgent img r.base 64)).fault (s.rdDa mgrAgent img r.base 64) = none →
        bit (poolOf r (s.rdDa mgrAgent img r.base 64)).flags 1 = true →
        ∃ t : State, exec .kvPoolInit s = .next t ∧ t.kv.valid = true ∧ t.kv.freeHead = 0 ∧ t.kv.freeCount = (poolOf r (s.rdDa mgrAgent img r.base 64)).nb ∧
          t.kv.recHead = noBushel ∧ t.mem = (({ s with kv := { s.kv with taken := true } } : State).poolInit (poolOf r (s.rdDa mgrAgent img r.base 64))).mem ∧
          ∀ clu < 128, s.cluOk clu = true → t.get .KVW_STATUS_POOL clu = 1)))

/-- Gathers, gleans and walks (R236 to R242, R247). -/
def Obligations.GathersAndGleansWalkAndComplete : Prop :=
  (∀ (s : State) (core : Nat) (d : Desc), s.unitTakes core kKv d = true →
    let clu := coreClu core
    let img := s.bankFor (unitDie (coreDie core)) (s.heldFor core kKv d).beat
    let seq := dbits d 1 19 0
    let listAt := 64 * dbits d 3 63 48
    let list := if dbit d 2 30 then s.rd (coreLoc core listAt) 1032 else []
    (∀ j, (s.kvwSt clu).gather = some j → j.core ≠ core ∨ j.d ≠ d → exec (.kvGather core d) s = .next (s.hold core kKv d)) ∧
    ((s.kvwSt clu).gather = none → s.canStart core kKv d = false ∨ (kvUp d ≠ 0 ∧ s.spansClear core kKv d = false) →
      exec (.kvGather core d) s = .next (s.hold core kKv d)) ∧
    ((s.kvwSt clu).gather = none → s.canStart core kKv d = true → (kvUp d = 0 ∨ s.spansClear core kKv d = true) →
      (s.get .KVW_STATUS_POOL clu ≠ 1 ∨ s.pool (kvAgent clu) img = none → exec (.kvGather core d) s = .next (s.kvDesc core d (64, seq))) ∧
      (∀ p, s.get .KVW_STATUS_POOL clu = 1 → s.pool (kvAgent clu) img = some p →
        (latFmt (dbits d 2 29 26) = none → exec (.kvGather core d) s =
          .next ((s.fmtIllegal (srcClu clu 2) (descClass d) (154, dbits d 2 29 26)).kvRefuse core d)) ∧
        (latFmt (dbits d 2 29 26) ≠ none → p.fmt = 2 → exec (.kvGather core d) s =
          .next ((s.log' (srcClu clu 2) 0xc001 2 [(2, core), (4, seq), (1, 2)]).kvRefuse core d)) ∧
        (latFmt (dbits d 2 29 26) ≠ none → p.fmt ≠ 2 → dbit d 2 30 = false ∨ s.poisonIn (coreLoc core listAt) (8 + 4 * min 256 (field list 0 4)) = none → kvUp d = 0 →
          let len := s.seqLen (kvAgent clu) img p seq
          (∀ b, kvFault d p len list = some b → exec (.kvGather core d) s = .next (s.kvDesc core d b)) ∧
          (kvFault d p len list = none →
            let j : KvJob := ⟨core, d, s.now % 2 ^ 32, len, kvItems d list, [], [], []⟩
            let u := ((s.hold core kKv d).setJob clu false j).syncKvw clu
            (∀ it rest q, j.items = it :: rest → u.pool (kvAgent clu) (u.jobBank j kKv) = some q → it.vb * 64 + it.tok < len →
              labGet (s.kvwSt clu).lab seq it.vb = none → (s.kvwSt clu).walks = [] →
              ∃ t : State, exec (.kvGather core d) s = .next t ∧ t.mem = s.mem ∧ (t.kvwSt clu).gather = some j ∧
                (seq, it.vb, true) ∈ (t.kvwSt clu).walks ∧ (t.kvwSt clu).walks.length ≤ 8 ∧ t.get .KVW_STATUS_BUSY clu = 1) ∧
            ((s.core core).accWait = [] → ∀ it q n, j.items = [it] → u.pool (kvAgent clu) (u.jobBank j kKv) = some q → it.vb * 64 + it.tok + it.n ≤ len → it.n ≠ 0 →
              labGet (s.kvwSt clu).lab seq it.vb = some n →
              (q.itemSpans it n).any (fun x => u.memBusy (u.jobBank j kKv) x.1 x.2) = false →
              ((q.itemSpans it n).findSome? fun x => u.poisonDa (kvAgent clu) (u.jobBank j kKv) x.1 x.2) = none →
              let b := u.rdDa (kvAgent clu) (u.jobBank j kKv) (q.base + q.dataOff + n * q.bytes) q.bytes
              ∃ t : State, exec (.kvGather core d) s = .next t ∧ (t.kvwSt clu).gather = none ∧ t.get .KVW_STATUS_BUSY clu = 0 ∧
                t.mem = ((List.range it.n).foldl (fun y i => y.kvWriteRow core d q (some b) (it.tok + i) (it.row + i)) s).mem) ∧
            ((s.core core).accWait = [] → ∀ it q, j.items = [it] → u.pool (kvAgent clu) (u.jobBank j kKv) = some q → len ≤ it.vb * 64 + it.tok →
              ∃ t : State, exec (.kvGather core d) s = .next t ∧ (t.kvwSt clu).gather = none ∧
                t.mem = ((List.range it.n).foldl (fun y i => y.kvWriteRow core d q none (it.tok + i) (it.row + i)) s).mem)))))) ∧
  (∀ (s : State) (core : Nat) (d : Desc), s.unitTakes core kGln d = true →
    let clu := coreClu core
    let img := s.bankFor (unitDie (coreDie core)) (s.heldFor core kGln d).beat
    let seq := dbits d 1 19 0
    (∀ j, (s.kvwSt clu).glean = some j → j.core ≠ core ∨ j.d ≠ d → exec (.glean core d) s = .next (s.hold core kGln d)) ∧
    ((s.kvwSt clu).glean = none → s.canStart core kGln d = false → exec (.glean core d) s = .next (s.hold core kGln d)) ∧
    ((s.kvwSt clu).glean = none → s.canStart core kGln d = true →
      (s.get .KVW_STATUS_POOL clu ≠ 1 ∨ s.pool (glnAgent clu) img = none → exec (.glean core d) s = .next (s.glnDesc core d (64, seq))) ∧
      (∀ p, s.get .KVW_STATUS_POOL clu = 1 → s.pool (glnAgent clu) img = some p →
        (glnFmt (dbits d 2 35 32) = none → exec (.glean core d) s =
          .next ((s.fmtIllegal (srcClu clu 3) (descClass d) (160, dbits d 2 35 32)).glnRefuse core d)) ∧
        (∀ b, glnFmt (dbits d 2 35 32) ≠ none → glnFault d p = some b → exec (.glean core d) s = .next (s.glnDesc core d b)) ∧
        (glnFmt (dbits d 2 35 32) ≠ none → glnFault d p = none →
          let len := s.seqLen (glnAgent clu) img p seq
          (ceilDiv len 64 ≤ glnP d → (s.core core).accWait = [] → ∃ t : State, exec (.glean core d) s = .next t ∧ (t.kvwSt clu).glean = none ∧ t.get .GLN_STATUS_BUSY clu = 0 ∧
            t.mem = (s.wr (coreLoc core (64 * dbits d 2 31 16)) (glnList (List.range (ceilDiv len 64)))).mem) ∧
          (glnP d < ceilDiv len 64 → (s.kvwSt clu).walks = [] → (s.kvwSt clu).lab = [] →
            let items : List KvItem := ((List.range (ceilDiv len 64)).filter fun v => !(glnForced d (ceilDiv len 64)).contains v).map fun v => ⟨v, 0, 0, 0⟩
            let j : KvJob := ⟨core, d, s.now % 2 ^ 32, len, items, [], [], []⟩
            let u := ((s.hold core kGln d).setJob clu true j).syncKvw clu
            ∀ it rest q, items = it :: rest → u.pool (kvAgent clu) (u.jobBank j kGln) = some q →
              ∃ t : State, exec (.glean core d) s = .next t ∧ t.mem = s.mem ∧ (t.kvwSt clu).glean = some j ∧
                (seq, it.vb, true) ∈ (t.kvwSt clu).walks ∧ (t.kvwSt clu).walks.length ≤ 8 ∧ t.get .GLN_STATUS_BUSY clu = 1))))) ∧
  (∀ (s : State) (clu seq vb : Nat), s.cluOk clu = true →
    (((s.kvwSt clu).walks.find? fun w => w.1 == seq && w.2.1 == vb) = none → exec (.kvWalkComplete clu seq vb) s = .next s) ∧
    (∀ w, ((s.kvwSt clu).walks.find? fun w => w.1 == seq && w.2.1 == vb) = some w →
      let y := (s.setKvw clu { s.kvwSt clu with walks := (s.kvwSt clu).walks.filter fun w => !(w.1 == seq && w.2.1 == vb) }).syncKvw clu
      ((∀ j, (s.kvwSt clu).gather = some j → j.waits seq vb = false) → (∀ j, (s.kvwSt clu).glean = some j → j.waits seq vb = false) →
        exec (.kvWalkComplete clu seq vb) s = .next y) ∧
      (∀ j p, (s.kvwSt clu).gather = some j → (s.kvwSt clu).glean = none → j.waits seq vb = true → y.pool (kvAgent clu) (y.jobBank j kKv) = some p →
        y.poolBusy (y.jobBank j kKv) = false →
        (∀ lvl, y.walk (kvAgent clu) (y.jobBank j kKv) p seq vb = .bad lvl → lvl ≠ 0 →
          exec (.kvWalkComplete clu seq vb) s = .next ((y.log' (srcClu clu 2) 0xc002 2 [(2, j.core), (4, seq), (4, vb), (1, lvl)]).kvStop j)) ∧
        (∀ da e, y.walk (kvAgent clu) (y.jobBank j kKv) p seq vb = .leaf da e →
          (bit e 63 = false → exec (.kvWalkComplete clu seq vb) s = .next ((y.log' (srcClu clu 2) 0xc002 2 [(2, j.core), (4, seq), (4, vb), (1, 4)]).kvStop j)) ∧
          (bit e 63 = true → w.2.2 = true → ∃ z : State, exec (.kvWalkComplete clu seq vb) s = .next (z.jobRun clu false) ∧ z.mem = s.mem ∧
            labGet (z.kvwSt clu).lab seq vb = some (bits e 27 0) ∧ (z.kvwSt clu).lab.length ≤ 128 ∧
            ∃ j', (z.kvwSt clu).gather = some j' ∧ j'.items = j.items ∧ KMap.get? j'.got vb = some (bits e 27 0))))))

/-- The parameter update (R272, R277, R281 to R284, R287, R289, R290). -/
def Obligations.UpdatesAreCheckedDecidedAndWritten : Prop :=
  (∀ (s : State) (core : Nat) (d : Desc), s.unitTakes core kUpd d = true →
    (descClass d ≠ 9 → exec (.updateDescriptor core d) s = .fault .otherRow) ∧
    (descClass d = 9 →
      let ld := coreDie core
      let h := s.hold core kUpd d
      let x := h.updOf ld
      let beat := (h.heldFor core kUpd d).beat
      let img := h.bankFor (unitLedger ld) beat
      let sec := ((x.order.find? fun o => o.1 == updStep d).map (·.2)).getD (img.sec 7)
      let next := ((h.heldOf core kUpd).find? fun y => !x.has core y.d).map (·.d)
      (next ≠ some d ∨ h.updRuns ld = false ∨ x.phase = 4 → exec (.updateDescriptor core d) s = .next h) ∧
      (next = some d → h.updRuns ld = true → x.phase ≠ 4 →
        (((entsOf sec ld).find? fun p => p.2.layer == updLayer d) = none →
          exec (.updateDescriptor core d) s = .next (h.updRefuse ld core d sec none false (48, updLayer d))) ∧
        (∀ i e, ((entsOf sec ld).find? fun p => p.2.layer == updLayer d) = some (i, e) →
          let holds := (x.queue.any fun q => updStep q.d == updStep d && updLayer q.d == updLayer d) ||
            x.recs.any fun r => r.state != 3 && updStep r.item.d == updStep d && r.entry == i
          (∀ b, updFault e d = some b → exec (.updateDescriptor core d) s = .next (h.updRefuse ld core d sec (some i) false b)) ∧
          (∀ b, updFault e d = none → updFmtFault e d = some b → exec (.updateDescriptor core d) s = .next (h.updRefuse ld core d sec (some i) true b)) ∧
          (updFault e d = none → updFmtFault e d = none → holds = true →
            exec (.updateDescriptor core d) s = .next (h.updRefuse ld core d sec none false (48, updLayer d))) ∧
          (updFault e d = none → updFmtFault e d = none → holds = false → h.range (updAgent ld) img (updGrad d) (8 * e.cnt) = .ok →
            ((x.recs.any fun r => r.state == 3 && r.entry == i && updStep r.item.d == updStep d) = true →
              exec (.updateDescriptor core d) s = .next ((h.setUpd ld (x.comes (updStep d) sec)).complete core kUpd d)) ∧
            ((x.recs.any fun r => r.state == 3 && r.entry == i && updStep r.item.d == updStep d) = false →
              ∃ t : State, exec (.updateDescriptor core d) s = .next t ∧ t.mem = h.mem ∧ (t.updOf ld).queue = x.queue ++ [⟨core, beat, d⟩] ∧
                (t.updOf ld).recs = x.recs ∧ ∃ o, o ∈ (t.updOf ld).order ∧ o.1 = updStep d)))))) ∧
  (∀ (s : State) (ld : Nat), s.dieOk ld = true →
    (s.updRuns ld = false → exec (.updateCheck ld) s = .next s) ∧
    (s.updRuns ld = true → ∀ q i e, (s.updOf ld).phase = 1 → ((s.updOf ld).queue.find? fun q => updStep q.d == (s.updOf ld).step) = some q →
      ((entsOf (s.updOf ld).sec ld).find? fun p => p.2.layer == updLayer q.d) = some (i, e) → e.rule ≠ 3 →
      let u := s.setUpd ld (s.updOf ld)
      let img := (u.bankFor (unitLedger ld) q.beat).withSec 7 (s.updOf ld).sec
      let r : JRec := ⟨1, false, i, 0, 0, 0, 0, q, img, 0, 0, []⟩
      (u.updWaits img [(updGrad q.d, 8 * e.cnt)] = true → exec (.updateCheck ld) s = .next u) ∧
      (u.updWaits img [(updGrad q.d, 8 * e.cnt)] = false → u.poisonDa (updAgent ld) img (updGrad q.d) (8 * e.cnt) = none →
        let bad := ((u.updGrads ld r (hypOf e q.d).gs 0 e.cnt).filter fun g => !g.isFinite).length
        ∃ t : State, exec (.updateCheck ld) s = .next t ∧ t.mem = s.mem ∧ (t.updOf ld).recs = (s.updOf ld).recs ++ [r] ∧
          q ∉ (t.updOf ld).queue ∧ (t.updOf ld).flag = ((s.updOf ld).flag || bad != 0) ∧
          (t.updOf ld).nonfin = min ((s.updOf ld).nonfin + bad) (2 ^ 32 - 1))) ∧
    (∀ layer step leaf size wn dn, let x := s.updOf ld
      let dup := x.parts.any fun p => p.layer == layer && p.step == step && decide (p.leaf < leaf + size ∧ leaf < p.leaf + p.size)
      (dup = true → exec (.rule3PartialReceive ld layer step leaf size wn dn) s = .next s) ∧
      (dup = false → ∃ t : State, exec (.rule3PartialReceive ld layer step leaf size wn dn) s = .next t ∧ t.mem = s.mem ∧
        (t.updOf ld).parts = x.parts ++ [⟨layer, step, leaf, size, wn % 2 ^ 52, dn % 2 ^ 52⟩] ∧ (t.updOf ld).recs = x.recs)) ∧
    (∀ step flag kept, s.skip.kept = some (step, kept) → exec (.skipFlagReceive ld step flag) s = .next (s.pkgSend (.jobFlag step kept))) ∧
    (∀ step flag, (∀ k, s.skip.kept = some k → k.1 ≠ step) →
      let fl := (ld, step, flag) :: s.skip.flags.filter fun f => !(f.1 == ld && f.2.1 == step)
      let u : State := { s with skip := { s.skip with flags := fl } }
      let all := (u.diesOf (u.secAt step)).all fun l => fl.any fun f => f.1 == l && f.2.1 == step
      (all = false → exec (.skipFlagReceive ld step flag) s = .next u) ∧
      (all = true → u.skipMembers (u.secAt step) = [s.ownId] → (fl.any fun f => f.2.1 == step && f.2.2) = true →
        ∃ t : State, exec (.skipFlagReceive ld step flag) s = .next t ∧ t.skip.kept = some (step, true) ∧ t.mem = s.mem ∧ t.upd = s.upd)) ∧
    (∀ step flag, let x := s.updOf ld
      (x.phase ≠ 2 ∨ x.step ≠ step → exec (.jobFlagReceive ld step flag) s = .next s) ∧
      (x.phase = 2 → x.step = step →
        (x.flag = false → ∃ t : State, exec (.jobFlagReceive ld step false) s = .next t ∧ (t.updOf ld).phase = 3 ∧ (t.updOf ld).recs = x.recs ∧ t.mem = s.mem) ∧
        (x.flag = true → ∃ t : State, exec (.jobFlagReceive ld step false) s = .next t ∧ (t.updOf ld).stop = true ∧ (t.updOf ld).phase = 2 ∧ t.mem = s.mem) ∧
        (∃ t : State, exec (.jobFlagReceive ld step true) s = .next t ∧ (t.updOf ld).phase = 0 ∧ (t.updOf ld).recs = [] ∧
          t.get .UPD_SKIP_COUNT_COUNT ld = (s.get .UPD_SKIP_COUNT_COUNT ld + 1) % 2 ^ 32))) ∧
    (∀ n, let x := s.updOf ld
      (s.updRuns ld = false ∨ x.phase ≠ 3 ∧ x.phase ≠ 4 → exec (.updateLayerWrite ld n) s = .next s.accResume) ∧
      (s.updRuns ld = true → x.phase = 3 → ∀ r, (x.recs.find? fun r => r.state == 2) = some r → r.chunk < r.ent.chunkCount → s.updWaits r.img r.reads = false →
        s.updPoison ld r.img r.reads = none →
        (r.copied = false → s.eff .ESC_CFG_ENABLE = 0 → ∃ t : State, exec (.updateLayerWrite ld 1) s = .next t.accResume ∧ t.mem = s.mem ∧
          { r with copied := true } ∈ (t.updOf ld).recs ∧
          (t.updOf ld).copy = (r.ent.ranges (r.chunk * chunkEls) (min chunkEls (r.ent.cnt - r.chunk * chunkEls))).flatMap fun y => s.rdDa (updAgent ld) r.img y.2.1 y.2.2) ∧
        (r.copied = true → r.chunk + 1 < r.ent.chunkCount → ∃ t : State, exec (.updateLayerWrite ld 1) s = .next t.accResume ∧
          t.mem = (s.writeChunk ld r).1.mem ∧
          { r with chunk := r.chunk + 1, copied := false, nans := r.nans + (s.writeChunk ld r).2 } ∈ (t.updOf ld).recs)) ∧
      (s.updRuns ld = true → x.phase = 3 → ∀ r, (x.recs.find? fun r => r.state == 2) = some r → r.ent.chunkCount ≤ r.chunk → s.updWaits r.img [(r.ent.sDa, 16)] = false →
        s.updPoison ld r.img [(r.ent.sDa, 16)] = none →
        ∃ t : State, exec (.updateLayerWrite ld n) s = .next t.accResume ∧ t.get .UPD_LAST_STEP ld = updStep r.item.d ∧
          t.get .UPD_LAST_LAYER ld = r.ent.layer % 2 ^ 16 ∧ t.get .UPD_LAST_COMMITS ld = (s.get .UPD_LAST_COMMITS ld + 1) % 2 ^ 16)) ∧
    (∃ t : State, exec (.updClear ld) s = .next t ∧ (t.updOf ld).queue = [] ∧ (t.updOf ld).parts = [] ∧ (t.updOf ld).bad = [] ∧ (t.updOf ld).stop = false ∧
      (t.updOf ld).recs = (s.updOf ld).recs.filter (fun r => r.state == 2 || r.state == 3) ∧ (t.updOf ld).copy = (s.updOf ld).copy)) ∧
  (∀ (s : State) (dev step : Nat) (flag : Bool) (lat : Nat), let m := s.tc0In dev 6 lat
    (∀ kept, m.skip.kept = some (step, kept) → exec (.deviceSkipFlagReceive dev step flag lat) s = .next m) ∧
    (m.skip.kept = none →
      let devs := (dev, step, flag) :: m.skip.devs.filter fun e => !(e.1 == dev && e.2.1 == step)
      let u : State := { m with skip := { m.skip with devs := devs } }
      ((∃ k ∈ u.skipMembers (u.secAt step), ∀ f ∈ devs, f.2.1 = step → f.1 ≠ k) →
        exec (.deviceSkipFlagReceive dev step flag lat) s = .next u) ∧
      ((∀ k ∈ u.skipMembers (u.secAt step), ∃ f ∈ devs, f.2.1 = step ∧ f.1 = k) → ∃ t : State, exec (.deviceSkipFlagReceive dev step flag lat) s = .next t ∧
        t.skip.kept = some (step, devs.any fun f => f.2.1 == step && f.2.2) ∧ t.mem = m.mem ∧ t.upd = m.upd)))

/-- Requests and responses of the fabric (R171, R319 to R321, R521; the choices of log entry 35). -/
def Obligations.FabricPacketsAreHandledInOrder : Prop :=
  (∀ (s : State) (p : Packet) (c : Instr) (op : Nat),
    (op, c) ∈ [(1, Instr.fabricWrite p), (2, .fabricRead p), (3, .readResp p), (4, .fadd64 p), (5, .cas64 p), (6, .swap64 p), (7, .atomicResp p), (8, .errResp p),
      (0x11, .collectivePacketReceive p)] →
    (p.op ≠ op → exec c s = .fault .otherRow) ∧
    (p.op = op →
      (s.fab.failed = true ∨ p.dst ≠ s.ownId → exec c s = .next s) ∧
      (s.fab.failed = false → p.dst = s.ownId →
        let w := s.wake 4
        let ahead := (p.sseq + 2 ^ 32 - w.sseqDue p) % 2 ^ 32
        (0 < ahead → ahead < 2 ^ 31 → p.sseq ≠ w.sseqDue p → (∀ q ∈ w.fab.early, q.src = p.src → q.tc = p.tc → q.sseq ≠ p.sseq) →
          ∃ t : State, exec c s = .next t ∧ t.fab.early = w.fab.early ++ [p] ∧ t.mem = w.mem ∧ t.out = w.out ∧ t.flds = w.flds ∧ t.sseqDue p = w.sseqDue p) ∧
        (2 ^ 31 ≤ ahead → p.sseq ≠ w.sseqDue p → exec c s = .next w) ∧
        (p.sseq = w.sseqDue p → w.fab.early = [] →
          let v : State := { w with fab := { w.fab with rxSseq := KMap.set w.fab.rxSseq (p.src, p.tc) ((p.sseq + 1) % 2 ^ 32) } }
          v.sseqDue p = (p.sseq + 1) % 2 ^ 32 ∧
          ((op ∈ [1, 2, 4, 5, 6]) → ∀ cause, v.txnFault p = some cause →
            ∃ t : State, exec c s = .next t ∧ t.mem = w.mem ∧ t.sseqDue p = (p.sseq + 1) % 2 ^ 32 ∧
              (op ≠ 1 → ∃ q, Out.packet q ∈ t.out ∧ q.op = 8 ∧ q.dst = p.src ∧ q.tag = p.tag)) ∧
          ((op ∈ [1, 2, 4, 5, 6]) → v.txnFault p = none → v.txnWaits p = true →
            ∃ t : State, exec c s = .next t ∧ t.mem = w.mem ∧ t.out = w.out ∧ ∃ x ∈ t.clk.waitAcc, x.da = p.da ∧ x.pkt = some p)))) ) ∧
  (∀ (s : State) (p : Packet), s.fab.failed = false → p.dst = s.ownId →
    let w := s.wake 4
    p.sseq = w.sseqDue p → w.fab.early = [] →
    let v : State := { w with fab := { w.fab with rxSseq := KMap.set w.fab.rxSseq (p.src, p.tc) ((p.sseq + 1) % 2 ^ 32) } }
    let img := v.bank (unitLedger 0)
    let a := v.collAgent
    let n := (txnLen p).getD 0
    let old := field (v.rdDa a img p.da 8) 0 8
    let Answers := fun (t : State) (op operand : Nat) (bs : List Byte) =>
      ∃ q, Out.packet q ∈ t.out ∧ q.op = op ∧ q.dst = p.src ∧ q.tc = p.tc ∧ q.tag = p.tag ∧ q.operand = operand ∧ q.payload = bs
    (v.txnFault p = none → v.txnWaits p = false →
      (p.op = 1 → ∃ t : State, exec (.fabricWrite p) s = .next t ∧ t.mem = (v.wrDa a img p.da p.payload).mem ∧ t.out = w.out ∧ t.flds = w.flds) ∧
      (∀ da, v.poisonDa a img p.da n = some da → ∀ c op, (op, c) ∈ [(2, Instr.fabricRead p), (4, .fadd64 p), (5, .cas64 p), (6, .swap64 p)] → p.op = op →
        ∃ t : State, exec c s = .next t ∧ t.mem = w.mem ∧ Answers t 8 0 []) ∧
      (v.poisonDa a img p.da n = none →
        (p.op = 2 → ∃ t : State, exec (.fabricRead p) s = .next t ∧ t.mem = w.mem ∧ Answers t 3 0 (v.rdDa a img p.da p.len)) ∧
        (p.op = 4 → ∃ t : State, exec (.fadd64 p) s = .next t ∧ t.mem = (v.wrDa a img p.da (leBytes 8 ((old + p.operand) % 2 ^ 64))).mem ∧ Answers t 7 old []) ∧
        (p.op = 5 → ∃ t : State, exec (.cas64 p) s = .next t ∧ Answers t 7 old [] ∧
          (old = p.operand % 2 ^ 64 → t.mem = (v.wrDa a img p.da (leBytes 8 (field p.payload 0 8))).mem) ∧
          (old ≠ p.operand % 2 ^ 64 → t.mem = (v.wrDa a img p.da (leBytes 8 old)).mem)) ∧
        (p.op = 6 → ∃ t : State, exec (.swap64 p) s = .next t ∧ t.mem = (v.wrDa a img p.da (leBytes 8 (p.operand % 2 ^ 64))).mem ∧ Answers t 7 old []))) ∧
    (p.op = 3 → ∃ t : State, exec (.readResp p) s = .next t ∧ t.mem = w.mem ∧ t.out = .txnDone p.tag true p.payload :: w.out) ∧
    (p.op = 7 → ∃ t : State, exec (.atomicResp p) s = .next t ∧ t.mem = w.mem ∧ t.out = .txnDone p.tag true (leBytes 8 p.operand) :: w.out) ∧
    (p.op = 8 → ∃ t : State, exec (.errResp p) s = .next t ∧ t.mem = w.mem ∧ t.out = .txnDone p.tag false [] :: w.out))

/-- The link word and the packet header, written and read (R313, R314, R319, R320; what the header's DA and OPERAND stand for in a message or a
collective packet is the choice of log entry 55, and those packets are left out here). -/
def Obligations.LinkWordsAndHeadersReadBackWhatTheyStandFor : Prop :=
  (∀ f : Frame, f.seq < 2 ^ 20 → f.ack < 2 ^ 20 → f.kind < 4 → f.first < 32 → f.ctcA < 4 → f.creditA < 2 ^ 14 → f.ctcB < 4 → f.creditB < 2 ^ 14 →
    f.active < 16 → (wireOf f).word < 2 ^ 128 ∧ (wireOf f).word % 2 ^ 44 = 0 ∧ frameOf (wireOf f) = f) ∧
  (∀ w : WireFrame, w.word < 2 ^ 128 → w.word % 2 ^ 44 = 0 → wireOf (frameOf w) = w) ∧
  (∀ p : Packet, p.msg = none → p.coll = none → p.mid = 0 → p.wall = 0 → pktFits p = true → (p.op = 2 → p.payload = []) → (p.op ≠ 2 → p.len = 0) →
    (pktHeader p).length = 32 ∧ packetOf (pktHeader p) p.payload = p ∧ (p.op ≠ 0x10 → pktGranules p = 1 + (p.payload.length + 31) / 32))

/-- Collectives (R327 to R331, R343, R348, R349; the choices of log entry 36). -/
def Obligations.CollectivesRunAsTheirOperationSays : Prop :=
  (∀ (s : State) (core : Nat) (d : Desc) (c : Instr) (op : Nat),
    (op, c) ∈ [(0, Instr.broadcast core d), (1, .reduceScatter core d), (2, .allGather core d), (3, .allReduce core d), (4, .permute core d), (5, .barrier core d)] →
    s.unitTakes core kColl d = true →
    (descClass d ≠ 8 ∨ (collOp d ≠ op ∧ collOp d ≤ 5) → exec c s = .fault .otherRow) ∧
    (descClass d = 8 → collOp d = op → (op = 4 → collScope d ≠ 3 ∨ s.coll.rsh.isSome = true ∨ collEpoch d = s.get .FAB_LAYOUT_CURRENT) →
      let h := s.hold core kColl d
      let beat := (h.heldFor core kColl d).beat
      let img := h.collCarve beat
      let r : CollRun := ⟨core, beat, d, [], 0, false, [], []⟩
      let i := core % 8
      (h.canStart core kColl d = false → exec c s = .next h) ∧
      (h.canStart core kColl d = true → h.coll.runs = [] → h.coll.kept = [] →
        (h.epochOf core d = .wait → exec c s = .next h) ∧
        (h.epochOf core d = .refuse → exec c s = .next (h.epochRefuse core d (h.get .FAB_LAYOUT_CURRENT) (collEpoch d) h.ownId)) ∧
        (h.epochOf core d = .run →
          (collFmtBad d = true → exec c s = .next (h.collFmtRefuse core d)) ∧
          (collFmtBad d = false → collScope d = 0 → op ≠ 4 →
            let cs := h.shardCounts img d 8
            let rds := (collRanges d cs i 1).1
            let wrs := (collRanges d cs i 1).2
            (∀ f, h.collFault img d cs i 1 = some f → exec c s = .next (h.collRefuse core d f i)) ∧
            (h.collFault img d cs i 1 = none → h.collFree img core d (rds ++ wrs) = true →
              (∀ da, (rds.findSome? fun x => h.poisonDa h.collAgent img x.1 x.2) = some da →
                exec c s = .next ((h.daUe h.fabSrc h.collAgent img da).collRefuse core d 7 i)) ∧
              ((rds.findSome? fun x => h.poisonDa h.collAgent img x.1 x.2) = none → (op = 1 ∨ op = 3 → h.tidRow (collTid d) = none) →
                let u := h.setRuns [r]
                (∀ k < 8, k ≠ i → u.coreMay (8 * coreClu core + k) = false) → u.collFree img core d (rds ++ wrs) = true → (u.core core).accWait = [] →
                let src := fun n => h.rdDa h.collAgent img (collSrc d) n
                let codes := h.accCodes img (collSrc d) (cs.foldl (· + ·) 0)
                let Stores := fun bs => ∃ t : State, exec c s = .next t ∧ t.coll.runs = [] ∧ t.get .FAB_COLL_RUNNING = 0 ∧ t.mem = (h.wrDa h.collAgent img (collDst d) bs).mem
                (op = 0 → i = 0 → Stores (src (collBytes d (cs.getD 0 0)))) ∧
                (op = 1 → Stores (codeBytes ((codes.drop ((cs.take i).foldl (· + ·) 0)).take (cs.getD i 0)))) ∧
                (op = 2 → Stores ((List.range cs.length).flatMap fun k => if k = i then src (collBytes d (cs.getD i 0)) else List.replicate (collBytes d (cs.getD k 0)) 0)) ∧
                (op = 3 → Stores (codeBytes codes)) ∧
                (op = 5 → ∃ t : State, exec c s = .next t ∧ t.mem = h.mem ∧ t.coll.runs = [{ r with arrived := [(i, h.now)] }])))) ∧
          (collFmtBad d = false → collScope d = 3 →
            (h.collGrp beat d = none → exec c s = .next (h.collRefuse core d 3 0)) ∧
            (∀ g, h.collGrp beat d = some g →
              (rankIn g.members h.ownId = none → exec c s = .next (h.collRefuse core d 3 0)) ∧
              (∀ rank, rankIn g.members h.ownId = some rank →
                let cs := h.shardCounts img d g.members.length
                let k := (collMbs d g.nmb).length
                (op ≤ 3 → ∀ f, h.collFault img d cs rank k = some f → exec c s = .next (h.collRefuse core d f rank)) ∧
                (op ≤ 3 → h.collFault img d cs rank k = none → h.collFree img core d ((collRanges d cs rank k).1 ++ (collRanges d cs rank k).2) = true →
                  ((collRanges d cs rank k).1.findSome? fun x => h.poisonDa h.collAgent img x.1 x.2) = none →
                  exec c s = .next (h.collBegin r g rank) ∧
                  (op = 0 → rank = 0 → (h.core core).accWait = [] →
                    ∃ t : State, exec c s = .next t ∧ t.coll.runs = [] ∧
                      t.mem = (h.wrDa h.collAgent img (collDst d) (h.rdDa h.collAgent img (collSrc d) (collBytes d (cs.getD 0 0)))).mem)) ∧
                (op = 4 → (firstReserved d collReserved).isSome = true → exec c s = .next (h.collRefuse core d 3 rank)) ∧
                (op = 4 → firstReserved d collReserved = none → h.planOk img d rank g.members.length false = false → exec c s = .next (h.collRefuse core d 4 rank)) ∧
                (op = 4 → firstReserved d collReserved = none → collDst d = 0 → collVec d = 0 → h.planOk img d rank g.members.length false = true →
                  ∀ e, h.collPlan img d = [e] → collLen d = 1 → e.src = rank → e.dst = rank → meets e.dstDa e.len e.srcDa e.len = false →
                  h.collFree img core d [(e.srcDa, e.len), (e.dstDa, e.len)] = true → h.poisonDa h.collAgent img e.srcDa e.len = none → (h.core core).accWait = [] →
                  ∃ t : State, exec c s = .next t ∧ t.coll.runs = [] ∧ t.mem = (h.wrDa h.collAgent img e.dstDa (h.rdDa h.collAgent img e.srcDa e.len)).mem)))))))) ∧
  (∀ (s : State) (p : Packet) (h : CollHdr), p.op = 0x11 → p.coll = some h → h.op ≤ 5 → s.fab.failed = false → p.dst = s.ownId →
    let w := s.wake 4
    p.sseq = w.sseqDue p → w.fab.early = [] → w.get .FAB_RESHARD_STATE = 0 →
    let v : State := { w with fab := { w.fab with rxSseq := KMap.set w.fab.rxSseq (p.src, p.tc) ((p.sseq + 1) % 2 ^ 32) } }
    (w.coll.runs.find? (fun r => offEpoch r.d h) = none → w.coll.runs.find? (fun r => ofColl r.d h) = none →
      ∃ t : State, exec (.collectivePacketReceive p) s = .next t ∧ t.coll.kept = w.coll.kept ++ [p] ∧ t.coll.runs = w.coll.runs ∧ t.mem = w.mem ∧ t.flds = w.flds) ∧
    (∀ r, w.coll.runs.find? (fun r => offEpoch r.d h) = some r →
      exec (.collectivePacketReceive p) s = .next ((v.epochRefuse r.core r.d (collEpoch r.d) h.epoch p.src).bumpSat .FAB_COLL_EPOCH)) ∧
    (∀ r g, w.coll.runs.find? (fun r => offEpoch r.d h) = none → w.coll.runs.find? (fun r => ofColl r.d h) = some r → v.collGrp r.beat r.d = some g →
      h.op = 0 → collOp r.d = 0 → v.collFree (v.collCarve r.beat) r.core r.d [(collDst r.d + h.elem, p.payload.length)] = true → (v.core r.core).accWait = [] →
      ∃ t : State, exec (.collectivePacketReceive p) s = .next t ∧
        t.mem = (v.wrDa v.collAgent (v.collCarve r.beat) (collDst r.d + h.elem) p.payload).mem)) ∧
  (∀ (s : State) (dev group tid b lat : Nat), let m := s.tc0In dev 8 lat
    let run := m.coll.runs.find? fun r => collOp r.d == 5 && collScope r.d == 3 && collGroup r.d == group && collTid r.d == tid
    (run = none → exec (.barrierArrivalReceive dev group tid b lat none) s = .next { m with coll := { m.coll with bars := m.coll.bars ++ [(dev, group, tid, b)] } }) ∧
    (∀ r, run = some r → m.coll.runs = [r] → m.barrierAt { r with arrived := r.arrived ++ [(dev, b)] } = none →
      ∃ t : State, exec (.barrierArrivalReceive dev group tid b lat none) s = .next t ∧ t.coll.runs = [{ r with arrived := r.arrived ++ [(dev, b)] }] ∧ t.mem = m.mem) ∧
    (∀ phase digest ok, m.coll.rsh = none → exec (.barrierArrivalReceive dev group tid b lat (some (phase, digest, ok))) s =
      .next { m with coll := { m.coll with rshEarly := m.coll.rshEarly ++ [⟨dev, group, phase, b, digest, ok⟩] } }) ∧
    (∀ phase digest ok r, m.coll.rsh = some r → collGroup r.d = group →
      ∃ t : State, exec (.barrierArrivalReceive dev group tid b lat (some (phase, digest, ok))) s = .next t ∧ t.mem = m.mem ∧
        t.coll.rsh = some { r with arrivals := r.arrivals ++ [⟨dev, group, phase, b, digest, ok⟩] })) ∧
  (∀ (s : State) (core : Nat) (d : Desc), s.coreOk core = true →
    let run := s.coll.runs.find? fun r => r.core == core && r.d == d && collOp r.d == 5
    (run = none → exec (.barrierComplete core d) s = .next s) ∧
    (∀ r, run = some r → s.barrierAt r = none → exec (.barrierComplete core d) s = .next s) ∧
    (∀ r n, run = some r → s.barrierAt r = some n → s.now < n → exec (.barrierComplete core d) s = .next s) ∧
    (∀ r n, run = some r → s.barrierAt r = some n → n ≤ s.now → ∃ t : State, exec (.barrierComplete core d) s = .next t ∧
      ∀ q ∈ t.coll.runs, ¬(q.core = core ∧ q.d = d)))

/-- Re-sharding in place (R349 to R359; the choices of log entry 37). -/
def Obligations.ReshardMovesToItsNewEpoch : Prop :=
  (∀ (s : State) (core : Nat) (d : Desc), s.unitTakes core kColl d = true →
    let h := s.hold core kColl d
    let allowed : Prop := collScope d = 3 ∧ collEpoch d ≠ 0 ∧ firstReserved d collReserved = none ∧ 1 ≤ collLen d ∧ collLen d ≤ 1048575 ∧ collLo d = 0 ∧
      collHi d = 0 ∧ collTid d = 0 ∧ collFmt d = 0 ∧ collPartial d = false ∧ ∃ g, h.collGrp (h.heldFor core kColl d).beat d = some g ∧ s.ownId ∈ g.members
    (descClass d ≠ 8 ∨ collOp d ≠ 4 → exec (.reshardIssue core d) s = .fault .otherRow) ∧
    (descClass d = 8 → collOp d = 4 → collEpoch d ≠ s.get .FAB_LAYOUT_CURRENT → s.coll.rsh = none → (s.get .FAB_RESHARD_STATE = 0 ∨ s.get .FAB_RESHARD_STATE = 4) →
      (¬allowed → exec (.reshardIssue core d) s = .next (h.collRefuse core d 3 0)) ∧
      (allowed → ∃ (t : State) (r : ReshardSt), exec (.reshardIssue core d) s = .next t ∧ t.coll.rsh = some r ∧ r.core = core ∧ r.d = d ∧
        r.old = s.get .FAB_LAYOUT_CURRENT ∧ r.done = [] ∧ r.slots = [] ∧ r.sentDrain = false ∧ t.get .FAB_RESHARD_STATE = 1 ∧
        t.get .FAB_RESHARD_GROUP = collGroup d ∧ t.get .FAB_LAYOUT_PENDING = collEpoch d ∧ t.get .FAB_LAYOUT_CURRENT = s.get .FAB_LAYOUT_CURRENT ∧
        t.get .FAB_RESHARD_RESUMED = 0 ∧ t.get .FAB_RESHARD_COMMITTED = 0 ∧ t.mem = s.mem ∧ (t.heldOf core kColl).any (fun x => x.d == d) = true)) ∧
    (∀ r, descClass d = 8 → collOp d = 4 → collEpoch d ≠ s.get .FAB_LAYOUT_CURRENT → s.coll.rsh = some r → collEpoch r.d ≠ collEpoch d →
      (s.get .FAB_RESHARD_STATE = 1 ∨ s.get .FAB_RESHARD_STATE = 2 ∨ s.get .FAB_RESHARD_STATE = 3) →
      exec (.reshardIssue core d) s = .next (h.epochRefuse core d (s.get .FAB_LAYOUT_CURRENT) (collEpoch d) s.ownId))) ∧
  (∀ (s : State) (by_ : Agent) (val : Word),
    (s.get .FAB_RESHARD_STATE = 0 → exec (.fabLayoutWrite by_ val) s = .next (s.set .FAB_LAYOUT_CURRENT (val.toNat % 2 ^ 32))) ∧
    (s.get .FAB_RESHARD_STATE ≠ 0 → exec (.fabLayoutWrite by_ val) s = .next s)) ∧
  (∀ (s : State) (block : Nat), s.coll.rsh = none →
    ∀ c ∈ [Instr.reshardDrainComplete, .reshardMoveStart, .reshardGrantReceive block, .reshardBlockCommit block, .reshardAckReceive block, .reshardCommit],
      exec c s = .next s) ∧
  (∀ (s : State) (r : ReshardSt) (block : Nat), s.coll.rsh = some r →
    let v := s.rshView r
    let e := v.ent block
    let st := s.get .FAB_RESHARD_STATE
    let moved := fun (x : ReshardSt) => v.dests.all x.done.contains && v.srcs.all x.acked.contains
    (st ≠ 1 ∨ r.sentDrain = true ∨ s.rshDrained r = false → exec .reshardDrainComplete s = .next s) ∧
    (st = 1 → r.sentDrain = false → s.rshDrained r = true →
      ∃ t : State, exec .reshardDrainComplete s = .next t ∧ t.mem = s.mem ∧ t.flds = s.flds ∧ t.coll.rsh = some { r with sentDrain := true, arrivals := r.arrivals ++ [⟨s.ownId, collGroup r.d, 0, s.now, v.digest, s.planOk v.img r.d v.rank v.members.length true⟩] }) ∧
    (s.rshBeat r v 0 = none → exec .reshardMoveStart s = .next s) ∧
    (∀ b, s.rshBeat r v 0 = some b → let c := max (collBeat r.d) b
      let arr := r.arrivals.filter fun a => a.phase == 0
      (st ≠ 1 ∨ s.now < c ∨ s.rshBusy r v [] = true → exec .reshardMoveStart s = .next s) ∧
      (st = 1 → c ≤ s.now → s.rshBusy r v [] = false →
        ((∃ a ∈ arr, a.ok = false ∨ a.digest ≠ v.digest) → ∃ t : State, exec .reshardMoveStart s = .next t ∧ t.coll.rsh = none ∧ t.get .FAB_RESHARD_STATE = 0 ∧
          t.get .FAB_LAYOUT_PENDING = 0 ∧ t.get .FAB_LAYOUT_CURRENT = s.get .FAB_LAYOUT_CURRENT) ∧
        ((∀ a ∈ arr, a.ok = true ∧ a.digest = v.digest) → r.done = [] → v.dests ≠ [] → field (s.rdDa s.collAgent v.img (collDst r.d) 64) 0 4 ≠ collEpoch r.d →
          ∃ t : State, exec .reshardMoveStart s = .next t ∧ t.get .FAB_RESHARD_STATE = 2 ∧ t.get .FAB_LAYOUT_CURRENT = s.get .FAB_LAYOUT_CURRENT ∧
            (∃ x, t.coll.rsh = some x ∧ x.d = r.d ∧ x.done = [])))) ∧
    (st ≠ 2 → exec (.reshardGrantReceive block) s = .next (s.setRsh (some { r with grants := block :: r.grants }))) ∧
    (st = 2 → v.srcs = [block] → block ∉ r.sent → block ∉ r.acked → s.rshBusy r v [(e.srcDa, e.len)] = false → r.overwrote v block = false →
      s.poisonDa s.collAgent v.img e.srcDa e.len = none →
      ∃ t : State, exec (.reshardGrantReceive block) s = .next t ∧ t.mem = s.mem ∧
        t.coll.rsh = some { r with grants := block :: r.grants, sent := block :: r.sent }) ∧
    (st ≠ 2 ∨ r.mayCommit v block = false ∨ s.rshBusy r v [(e.dstDa, e.len)] = true → exec (.reshardBlockCommit block) s = .next s) ∧
    (st = 2 → r.mayCommit v block = true → s.rshBusy r v [(e.dstDa, e.len)] = false → ∀ slot i got, r.slots.find? (fun x => x.2.1 == block) = some (slot, i, got) →
      (∃ t : State, exec (.reshardBlockCommit block) s = .next t) ∧
      ((∀ n ∈ v.dests, n ∈ r.done ∨ n = block) → (∃ m ∈ v.srcs, m ∉ r.acked ∧ m ≠ block) →
        ∃ t : State, exec (.reshardBlockCommit block) s = .next t ∧
          t.mem = ((s.wrDa s.collAgent v.img e.dstDa (s.rdDa s.collAgent v.img (collVec r.d + slot * v.blk) e.len)).jourRec r v block 2 slot).mem ∧
          t.get .FAB_RESHARD_STATE = 2 ∧ t.get .FAB_RESHARD_COMMITTED = (r.done.length + 1) % 2 ^ 32 ∧
          t.coll.rsh = some { r with done := block :: r.done, slots := r.slots.filter (fun x => x.2.1 != block), acked := if e.src = v.rank then block :: r.acked else r.acked })) ∧
    (block ∉ v.srcs ∨ block ∈ r.acked → exec (.reshardAckReceive block) s = .next s) ∧
    (block ∈ v.srcs → block ∉ r.acked → let x : ReshardSt := { r with acked := block :: r.acked }
      (st ≠ 2 ∨ moved x = false → ∃ t : State, exec (.reshardAckReceive block) s = .next t ∧ t.coll.rsh = some x ∧ t.mem = s.mem ∧
        t.get .FAB_RESHARD_PROG_ACKED = (r.acked.length + 1) % 2 ^ 32 ∧ t.get .FAB_RESHARD_STATE = st) ∧
      (st = 2 → moved x = true → ∃ t : State, exec (.reshardAckReceive block) s = .next t ∧ t.get .FAB_RESHARD_STATE = 3 ∧
        t.mem = (s.jour r v 8 (leBytes 1 3)).mem ∧
        t.coll.rsh = some { x with arrivals := r.arrivals ++ [⟨s.ownId, collGroup r.d, 1, s.now, v.digest, true⟩] })) ∧
    (s.rshBeat r v 1 = none → exec .reshardCommit s = .next s) ∧
    (∀ c, s.rshBeat r v 1 = some c →
      (st ≠ 3 ∨ s.now < c → exec .reshardCommit s = .next s) ∧
      (st = 3 → c ≤ s.now → ∃ t : State, exec .reshardCommit s = .next t ∧ t.coll.rsh = none ∧ t.get .FAB_LAYOUT_CURRENT = collEpoch r.d ∧
        t.get .FAB_LAYOUT_PENDING = 0 ∧ t.get .FAB_RESHARD_STATE = 0 ∧
        ((∀ k < 1024, ∀ x ∈ s.heldOf k kColl, s.heldOf k kColl = [x] ∧ k = r.core ∧ x.d = r.d) → (s.core r.core).accWait = [] → (s.core r.core).stall = none →
          t.mem = (s.jour r v 8 (leBytes 1 0)).mem))))

/-- The codec engines (R383 to R397; what they decode and encode to are the values of log entry 3, choices that of log entry 40). -/
def Obligations.CodecEnginesDoTheirItems : Prop :=
  (∀ (s : State) (e qid : Nat) (d : Desc) (op : Nat) (c : Instr),
    (op, c) ∈ [(1, Instr.codecOpen e qid d), (2, .codecDecode e qid d), (3, .codecEncode e qid d), (4, .codecRelease e qid d), (5, .codecFlush e qid d), (6, .codecClose e qid d)] →
    (s.engineOk e = false → exec c s = .fault .absentUnit) ∧
    (s.engineOk e = true →
      (vOp d ≠ op → 1 ≤ vOp d → vOp d ≤ 6 → exec c s = .fault .otherRow) ∧
      (vOp d = op ∨ vOp d = 0 ∨ 6 < vOp d →
        (s.vceStopped e = true ∨ (∃ j, (s.vceOf e).job = some j ∧ j.waiting = false) → exec c s = .next s) ∧
        (s.vceStopped e = false → (s.vceOf e).job = none → (op = 1 ∨ op = 4 ∨ op = 6 → s.vceBusy e d = false) →
          (∀ n, s.gatedAt (nodeCodec e) = some n → ∃ t : State, exec c s = .next t ∧ t.get .VCE_STATUS_REFUSED e = (s.get .VCE_STATUS_REFUSED e + 1) % 2 ^ 32 ∧ t.mem = s.mem ∧ t.vce = s.vce) ∧
          (s.gatedAt (nodeCodec e) = none →
            (∀ b, s.vFault e d = some b → ∃ t : State, exec c s = .next t ∧ t = s.vceRefuse e qid d b ∧
              t.get .VCE_STATUS_REFUSED e = (s.get .VCE_STATUS_REFUSED e + 1) % 2 ^ 32 ∧ t.mem = s.mem ∧ t.vce = s.vce) ∧
            (s.vFault e d = none →
              (op = 1 → let x := s.vceRd e (vCtx d) 64
                ∃ t : State, exec c s = .next t ∧ KMap.get? (t.vceOf e).streams (vSlot d) = some ⟨x, vCtx d, [], [], 0, [], false, none, false⟩ ∧
                  t.mem = ((List.range (cBufs x)).foldl (fun m b => m.vceWr e (vCtx d + 64 + 16 * b) VceMark.init.bytes) s).mem ∧
                  t.get .VCE_STATUS_OPEN e = ((s.vceOf e).streams.length + 1) % 2 ^ 8) ∧
              (op = 6 → ∃ t : State, exec c s = .next t ∧ (t.vceOf e).streams = KMap.erase (s.vceOf e).streams (vSlot d) ∧ t.mem = s.mem) ∧
              (∀ st, KMap.get? (s.vceOf e).streams (vSlot d) = some st →
                let x := st.ctx
                (op = 4 → let m : VceMark := { KMap.get st.marks (vBs d) VceMark.init with held := false }
                  ∃ t : State, exec c s = .next t ∧ KMap.get? (t.vceOf e).streams (vSlot d) = some { st with marks := KMap.set st.marks (vBs d) m } ∧
                    t.mem = (s.vceWr e (st.ctxDa + 64 + 16 * vBs d) m.bytes).mem) ∧
                (op = 2 ∨ op = 3 ∨ op = 5 → s.vceBusy e d = true →
                  ∃ (t : State) (j : VceJob), exec c s = .next t ∧ (t.vceOf e).job = some j ∧ j.d = d ∧ j.qid = qid ∧ j.start = s.now ∧ j.stuck = true ∧ t.mem = s.mem) ∧
                (op = 2 → s.vceBusy e d = false →
                  let kept := st.marks.filter fun m => m.2.ref
                  let bad := s.badPlaces e (vBs d) (vBsLen d) ++ kept.flatMap fun m => s.badPlaces e (State.bufDa x m.1) (planesLen x (cPlanes x))
                  let out := Config.vceDecode x st.hist (kept.map fun m => (m.2.frame, s.vceRd e (State.bufDa x m.1) (planesLen x (cPlanes x)))) (s.vceRd e (vBs d) (vBsLen d)) bad
                  ∃ (t : State) (j : VceJob), exec c s = .next t ∧ (t.vceOf e).job = some j ∧ j.d = d ∧ j.qid = qid ∧ j.start = s.now ∧ j.stuck = false ∧
                    (j.waiting = true ↔ out.big = false ∧ st.freeBufs.length < out.pics.length) ∧
                    (j.waiting = true ∨ out.big = true → t.mem = s.mem) ∧
                    (j.waiting = false → j.rec_.status = if out.big then 3 else if out.errs = 0 ∧ bad = [] then 0 else 1)) ∧
                (op = 3 ∨ (op = 5 ∧ cDir x = 1) → s.vceBusy e d = false →
                  let src := if op = 5 then [] else s.sourcePic e x d
                  let bad := if op = 5 then [] else s.badPlaces e (vPic d) (planesLen x (cPlanes x))
                  let flags := if op = 5 then 4 else b2n (vKey d)
                  let one := Config.vceEncode x (st.srcs ++ [(src, flags)]) bad
                  let out := if vBsCap d < one.bytes.length then Config.vceEncode x (st.srcs ++ [(src, flags + 2)]) bad else one
                  ∃ (t : State) (j : VceJob), exec c s = .next t ∧ (t.vceOf e).job = some j ∧ j.d = d ∧ j.qid = qid ∧ j.start = s.now ∧
                    (j.waiting = true ↔ op = 3 ∧ st.freeBufs = []) ∧ (j.waiting = true → t.mem = s.mem) ∧
                    (j.waiting = false → j.rec_.status = (if vBsCap d < out.bytes.length then 2 else 0) ∧ j.rec_.bytes = out.bytes.length)) ∧
                (op = 5 → cDir x = 0 → s.vceBusy e d = false →
                  ∃ (t : State) (j : VceJob), exec c s = .next t ∧ (t.vceOf e).job = some j ∧ j.d = d ∧ j.qid = qid ∧ j.rec_.status = 0 ∧ j.pics = [] ∧ j.waiting = false ∧ t.mem = s.mem)))))))) ∧
  (∀ (s : State) (e : Nat), s.engineOk e = true →
    ((s.vceOf e).job = none → exec (.codecFrameComplete e) s = .next s ∧ exec (.codecBufferResume e) s = .next s) ∧
    (∀ j, (s.vceOf e).job = some j →
      (j.waiting = true ∨ j.stuck = true ∨ s.clk.stopped = true ∨ s.vceBusy e j.d = true → exec (.codecFrameComplete e) s = .next s) ∧
      (j.waiting = false → j.stuck = false → s.clk.stopped = false → s.vceBusy e j.d = false →
        ∃ t : State, exec (.codecFrameComplete e) s = .next t ∧ (t.vceOf e).job = none ∧
          (∀ st, KMap.get? (s.vceOf e).streams (vSlot j.d) = some st →
            t.get .VCE_PIXELS_COUNT e = (s.get .VCE_PIXELS_COUNT e + j.coded * (cW st.ctx * cH st.ctx)) % 2 ^ 64 ∧
            (vSig j.d = false → t.mem = ((s.frameMarks e j).vceWr e (vRes j.d)
              ((if st.ending then { j.rec_ with status := 3 } else j.rec_).toBytes j.start s.now)).mem))) ∧
      (j.waiting = false ∨ s.vceStopped e = true → exec (.codecBufferResume e) s = .next s) ∧
      (j.waiting = true → s.vceStopped e = false →
        exec (.codecBufferResume e) s = .next (s.frameGo e j) ∧
        (∀ st, KMap.get? (s.vceOf e).streams (vSlot j.d) = some st → vOp j.d = 3 → cDir st.ctx = 1 → s.vceBusy e j.d = false → st.freeBufs ≠ [] →
          ∃ (t : State) (k : VceJob), exec (.codecBufferResume e) s = .next t ∧ (t.vceOf e).job = some k ∧ k.d = j.d ∧ k.start = j.start ∧ k.waiting = false)))) ∧
  (∀ (s : State) (e : Nat), s.engineOk e = true → let w := (s.vceOf e).job.any (·.waiting)
    let best := bestCand ((s.vceCands e).filter fun x => !w || x.quick)
    (s.vceStopped e = true ∨ ((s.vceOf e).job.isSome = true ∧ w = false) ∨ best = none → exec (.codecItemSelect e) s = .next s) ∧
    (∀ x v l d, s.vceStopped e = false → ((s.vceOf e).job = none ∨ w = true) → best = some x → s.qPeek x.qid = some (v, l, some d) → (x.quick && s.vceBusy e d) = false →
      exec (.codecItemSelect e) s = .next ((s.qTake x.qid v l (descEop d)).vceItem e x.qid d)))

/-- Operations of ESC_CTL (R369 to R378; the choices of log entries 38 and 39). -/
def Obligations.EscrowOperationsEndWithTheirResult : Prop :=
  ∀ (s : State) (by_ : Agent) (target op : Nat),
    let all := [Instr.escFreeze by_, .escRollback by_, .escServe by_ target, .escReceive by_ target, .escDigest by_, .escThaw by_]
    let waiting := s.esc.waits.any (fun w => match w with | .op _ _ => true | _ => false)
    let Ends := fun (c : Instr) (r : Nat) (p : State → Prop) => ∃ t : State, exec c s = .next t ∧ t.get .ESC_STATUS_DONE = 1 ∧ t.get .ESC_STATUS_RESULT = r ∧
      bit (t.get .GLB_IRQ_STATUS_SRC) 4 = true ∧ p t
    (1 ≤ op % 16 → op % 16 ≤ 6 → exec (.escBadOp by_ op) s = .fault .otherRow) ∧
    (∀ c, c ∈ all ∨ (c = .escBadOp by_ op ∧ ¬(1 ≤ op % 16 ∧ op % 16 ≤ 6)) →
      (s.get .RST_STATUS_READY ≠ 1 → ∃ t : State, exec c s = .next t ∧ t.mem = s.mem ∧ t.esc = s.esc ∧ t.flds = s.flds) ∧
      (s.get .RST_STATUS_READY = 1 → s.esc.receiving.isSome = true ∨ waiting = true → exec c s = .next (s.set .ESC_STATUS_RESULT 1))) ∧
    (s.get .RST_STATUS_READY = 1 → s.esc.receiving = none → waiting = false →
      (¬(1 ≤ op % 16 ∧ op % 16 ≤ 6) → Ends (.escBadOp by_ op) 7 fun t => t.mem = s.mem ∧ t.esc = s.esc) ∧
      (Ends (.escFreeze by_) 0 fun t => t.mem = s.mem ∧ (s.get .ESC_STATUS_FROZEN = 0 → t.esc.freezes = s.esc.freezes ++ [⟨s.ownId, s.now, 2, s.ownId⟩])) ∧
      (s.esc.ranRound = true → Ends (.escReceive by_ target) 7 fun t => t.mem = s.mem ∧ t.esc = s.esc) ∧
      (s.esc.ranRound = false → ∃ t : State, exec (.escReceive by_ target) s = .next t ∧ t.mem = s.mem ∧ t.get .ESC_STATUS_DONE = 0 ∧ t.get .ESC_FILL_BYTES = 0 ∧
        t.esc = { s.esc with receiving := some target, fillHdr := [], fillBlock := [], fillGot := 0 }) ∧
      (s.get .ESC_STATUS_FROZEN = 0 ∨ s.get .ESC_ARG_BEAT < s.now + s.lBeats → Ends (.escThaw by_) 7 fun t => t.mem = s.mem ∧ t.esc = s.esc) ∧
      (s.get .ESC_STATUS_FROZEN = 1 → s.now + s.lBeats ≤ s.get .ESC_ARG_BEAT → Ends (.escThaw by_) 0 fun t => t.mem = s.mem ∧
        t.esc = { s.esc with thawAt := some (s.get .ESC_ARG_BEAT) }) ∧
      (s.escBusy = true → ∀ c k g, (c, k, g) ∈ [(Instr.escRollback by_, 2, 0), (.escServe by_ target, 3, target), (.escDigest by_, 5, 0)] →
        ∃ t : State, exec c s = .next t ∧ t.mem = s.mem ∧ t.get .ESC_STATUS_DONE = 0 ∧ t.esc = { s.esc with waits := s.esc.waits ++ [.op k g] }) ∧
      (s.escBusy = false →
        (s.get .ESC_STATUS_FROZEN = 0 → (Ends (.escRollback by_) 7 fun t => t.mem = s.mem) ∧ Ends (.escServe by_ target) 7 fun t => t.mem = s.mem ∧ t.esc = s.esc) ∧
        (s.get .ESC_STATUS_FROZEN = 1 → s.get .ESC_STATUS_HOME = 0 → Ends (.escRollback by_) 2 fun t => t.mem = s.mem) ∧
        (s.get .ESC_STATUS_FROZEN = 1 → s.get .ESC_STATUS_HOME = 1 →
          let at_ := s.homeDa + s.homeSlot
          let blk := s.escRd at_ blockLen
          let rs := s.rollRanges s.dirtyChunks
          let bad := s.escPoison ((at_, blockLen) :: rs.map fun r => (r.1, r.2.2))
          (bad.isSome = true → Ends (.escRollback by_) 6 fun t => t.mem = s.mem) ∧
          (bad = none → rngCheck blk = none → Ends (.escRollback by_) 4 fun t => t.mem = s.mem) ∧
          (bad = none → ∀ n rew, rngCheck blk = some (n, rew) → Ends (.escRollback by_) 0 fun t =>
            t.mem = (rs.foldl (fun s r => s.escWr r.2.1 (s.escRd r.1 r.2.2)) s).mem ∧ t.get .ESC_CURSOR_VALUE = field blk 8 8 ∧
            t.get .ESC_RNG_VALUE = n % 2 ^ 64 ∧ t.get .ESC_DRAWS_DRAWS = field blk 24 4 ∧
            t.get .FAB_LAYOUT_CURRENT = if s.get .FAB_RESHARD_STATE = 0 then field blk 28 4 else s.get .FAB_LAYOUT_CURRENT)) ∧
        (s.get .ESC_STATUS_FROZEN = 1 → s.heldBank = none → Ends (.escServe by_ target) 2 fun t => t.mem = s.mem ∧ t.esc = s.esc) ∧
        (s.get .ESC_STATUS_FROZEN = 1 → ∀ b, s.heldBank = some b →
          let l := [(s.bankDa b, 80), (s.bankDa b + 4096, 32 * (s.bankEnts b).length), (s.bankDa b + 0x100000, blockLen), (s.bankImages b, imagesLen (s.bankEnts b))]
          Ends (.escServe by_ target) (if (s.escPoison l).isSome then 6 else 0) fun t => t.mem = s.mem ∧ t.esc = { s.esc with lastFill := some target } ∧
            t.get .ESC_FILL_BYTES = (82 + 32 * (s.bankEnts b).length + blockLen + imagesLen (s.bankEnts b)) % 2 ^ 64) ∧
        (let bad := s.escPoison ((manifest s.updSec).flatMap fun p => [(p.2.wDa, 2 * p.2.cnt), (p.2.sDa, p.2.recLen)]);
          (bad.isSome = true → Ends (.escDigest by_) 6 fun t => t.mem = s.mem ∧ ∀ k < 8, t.get .ESC_LIVE_DIGEST_DIGEST 0 k = s.get .ESC_LIVE_DIGEST_DIGEST 0 k) ∧
          (bad = none → Ends (.escDigest by_) 0 fun t => t.mem = s.mem ∧ t.esc = s.esc ∧ ∀ k < 8, t.get .ESC_LIVE_DIGEST_DIGEST 0 k =
            field ((shardDigests s.liveShard).1 ++ (shardDigests s.liveShard).2) (8 * k) 8))))

/-- The escrow stream, the cut and the fill (R363 to R377; the choices of log entries 38 and 39). -/
def Obligations.EscrowStreamSealsCutsAndFills : Prop :=
  (∀ (s : State),
    (s.escDue = none ∨ s.escBusy = true → exec .escrowStepOpen s = .next s) ∧
    (∀ n, s.escDue = some n → s.escBusy = false → ∃ t : State, exec .escrowStepOpen s = .next t ∧ t.esc.opened = some n ∧ t.get .ESC_STATUS_OPEN = 1 ∧
      t.get .ESC_STEPS_OPEN_STEP = n % 2 ^ 32 ∧ t.get .ESC_STATUS_HOME_STEP = s.get .ESC_STATUS_HOME_STEP ∧
      t.mem = (s.escWr (s.homeDa + (if s.homeSlot = 0x100000 then 0x200000 else 0x100000)) (s.stateBlock n)).mem)) ∧
  (∀ (s : State) (dev lat : Nat),
    (pmPartner s.peerMap = some dev → ∃ t : State, exec (.needFullReceive dev lat) s = .next t ∧ t.esc = { s.esc with needFull := true } ∧ t.mem = s.mem) ∧
    (pmPartner s.peerMap ≠ some dev → ∃ t : State, exec (.needFullReceive dev lat) s = .next t ∧ t.esc = s.esc ∧ t.mem = s.mem)) ∧
  (∀ (s : State) (dev step b lat : Nat), ∃ t : State, exec (.sealedReceive dev step b lat) s = .next t ∧ t.esc = { s.esc with seals := (dev, step, b) :: s.esc.seals } ∧
    t.mem = s.mem) ∧
  (∀ (s : State) (dev step base k part tile sec off : Nat) (man recs blk bs : List Byte),
    (s.esc.waits ≠ [] ∨ s.escBusy = true → ∀ c x, (c, x) ∈ [(Instr.escrowOpenReceive dev step base man, EscIn.opening dev step base man),
        (.escrowDeltaReceive dev k part tile recs, .delta dev k part tile recs), (.escrowCloseReceive dev step blk, .close dev step blk),
        (.escFillStreamReceive dev sec off bs, .fill dev sec off bs)] →
      exec c s = .next (s.setEsc fun e => { e with waits := e.waits ++ [x] })) ∧
    (s.esc.waits = [] → s.escBusy = false →
      (s.eff .ESC_CFG_ENABLE = 0 ∨ dev ≠ s.eff .ESC_CFG_SOURCE ∨ s.get .ESC_STATUS_FROZEN = 1 → exec (.escrowOpenReceive dev step base man) s = .next s) ∧
      (s.eff .ESC_CFG_ENABLE = 1 → dev = s.eff .ESC_CFG_SOURCE → s.get .ESC_STATUS_FROZEN = 0 →
        let based : Prop := base = 0xffffffff ∨ ((∃ h, s.heldBank = some h) ∧ base = s.get .ESC_STEPS_HELD_STEP)
        let fits : Prop := 0x200000 + imagesLen (manifestEnts man) ≤ s.escBankLen ∧ 4096 + man.length ≤ 0x100000
        (¬(based ∧ fits) → ∃ t : State, exec (.escrowOpenReceive dev step base man) s = .next t ∧ t.esc = { s.esc with filling := none, ignoring := true } ∧ t.mem = s.mem) ∧
        (based → fits → let b := if s.heldBank = some 0 then 1 else 0
          ∃ t : State, exec (.escrowOpenReceive dev step base man) s = .next t ∧ t.bankState b = 1 ∧ t.bankState (1 - b) = s.bankState (1 - b) ∧
            t.esc = { s.esc with filling := some b, inStep := step, inBase := base, ignoring := false, deltas := [], captured := [], closing := none })) ∧
      (s.esc.filling = none ∨ dev ≠ s.eff .ESC_CFG_SOURCE ∨ s.esc.ignoring = true ∨ s.get .ESC_STATUS_FROZEN = 1 →
        exec (.escrowDeltaReceive dev k part tile recs) s = .next s) ∧
      (∀ b e, s.esc.filling = some b → dev = s.eff .ESC_CFG_SOURCE → s.esc.ignoring = false → s.get .ESC_STATUS_FROZEN = 0 → (s.bankEnts b)[k]? = some e →
        let n := if part = 0 then 2 * e.cnt else e.recLen
        let words := ceilDiv n 2 - 2048 * tile
        let got := ((huskDecode 0 (fun o l => slice recs o l) (fun o l => decide (recs.length < o + l)) (ceilDiv words 2048) words 0 #[]).1.toList.flatMap (leBytes 2)).take
          (n - 4096 * tile)
        ∃ (t : State) (new : List Byte), exec (.escrowDeltaReceive dev k part tile recs) s = .next t ∧ new.length = got.length ∧
          (s.esc.inBase = 0xffffffff → new = got) ∧
          let o := imagesOff (s.bankEnts b) k + (if part = 0 then 0 else e.recOff) + 4096 * tile
          t.mem = (s.escWr (s.bankImages b + o) new).mem ∧ t.esc = { s.esc with deltas := (o, got.length) :: s.esc.deltas }) ∧
      (dev ≠ s.eff .ESC_CFG_SOURCE ∨ (s.esc.ignoring = false ∧ s.esc.filling = none) → exec (.escrowCloseReceive dev step blk) s = .next s) ∧
      (dev = s.eff .ESC_CFG_SOURCE → s.esc.ignoring = true → exec (.escrowCloseReceive dev step blk) s = .next (s.setEsc fun e => { e with ignoring := false })) ∧
      (∀ b, dev = s.eff .ESC_CFG_SOURCE → s.esc.ignoring = false → s.esc.filling = some b →
        let bad := if s.esc.inBase = 0xffffffff then none else s.heldBank.bind fun h => s.escPoison [(s.bankDa h, s.escBankLen)]
        (s.esc.inStep ≠ step ∨ s.escComplete b = false ∨ bad.isSome = true →
          ∃ t : State, exec (.escrowCloseReceive dev step blk) s = .next t ∧ t.esc = { s.esc with filling := none } ∧ t.mem = s.mem) ∧
        (s.esc.inStep = step → s.escComplete b = true → bad = none →
          exec (.escrowCloseReceive dev step blk) s = .next (s.setEsc fun e => { e with closing := some blk }))) ∧
      (s.esc.receiving ≠ some dev → exec (.escFillStreamReceive dev sec off bs) s = .next s) ∧
      (s.esc.receiving = some dev → let n := (s.get .ESC_FILL_BYTES + bs.length) % 2 ^ 64
        (sec = 0 → ∃ t : State, exec (.escFillStreamReceive dev sec off bs) s = .next t ∧ t.esc = { s.esc with fillHdr := bs } ∧ t.mem = s.mem ∧ t.get .ESC_FILL_BYTES = n) ∧
        (sec = 1 → let same : Prop := slice (manifestBytes s.updSec) off bs.length = bs ∧ (manifestBytes s.updSec).length = 32 * field s.esc.fillHdr 12 4
          (same → exec (.escFillStreamReceive dev sec off bs) s = .next (s.set .ESC_FILL_BYTES n)) ∧
          (¬same → ∃ t : State, exec (.escFillStreamReceive dev sec off bs) s = .next t ∧ t.esc = { s.esc with receiving := none } ∧ t.mem = s.mem ∧
            t.get .ESC_STATUS_RESULT = 5 ∧ t.get .ESC_STATUS_DONE = 1 ∧ t.get .ESC_FILL_BYTES = n)) ∧
        (sec = 2 → (s.esc.fillBlock ++ bs).length < blockLen →
          ∃ t : State, exec (.escFillStreamReceive dev sec off bs) s = .next t ∧ t.esc = { s.esc with fillBlock := s.esc.fillBlock ++ bs } ∧ t.mem = s.mem ∧ t.get .ESC_FILL_BYTES = n) ∧
        (sec = 3 → s.esc.fillGot + bs.length < imagesLen ((manifest s.updSec).map (·.2)) →
          ∃ t : State, exec (.escFillStreamReceive dev sec off bs) s = .next t ∧ t.esc = { s.esc with fillGot := s.esc.fillGot + bs.length } ∧ t.get .ESC_FILL_BYTES = n) ∧
        (sec = 3 → imagesLen ((manifest s.updSec).map (·.2)) ≤ s.esc.fillGot + bs.length →
          ∃ t : State, exec (.escFillStreamReceive dev sec off bs) s = .next t ∧ t.esc.receiving = none ∧ t.get .ESC_STATUS_HOME = 1 ∧
            t.get .ESC_STATUS_HOME_STEP = field s.esc.fillHdr 0 4 ∧ t.get .ESC_STATUS_DONE = 1 ∧ (t.get .ESC_STATUS_RESULT = 0 ∨ t.get .ESC_STATUS_RESULT = 3))))) ∧
  (∀ (s : State),
    (s.esc.filling = none ∨ s.esc.closing = none ∨ s.escBusy = true → exec .escrowBankSeal s = .next s) ∧
    (∀ b blk, s.esc.filling = some b → s.esc.closing = some blk → s.escBusy = false →
      let dg := shardDigests (s.imagesAt (s.bankEnts b) (s.bankImages b))
      ∃ t : State, exec .escrowBankSeal s = .next t ∧ t.bankState b = 2 ∧ t.esc = { s.esc with closing := none, seals := (s.ownId, s.esc.inStep, s.now) :: s.esc.seals } ∧
        t.mem = (((s.escWr (s.bankDa b) (bankHdr s.esc.inStep s.esc.inBase (s.eff .ESC_CFG_SOURCE) 2 (s.bankEnts b).length dg.1 dg.2)).escWr
          (s.bankDa b + 0x100000) blk).escWr (s.bankDa b + 10) (leBytes 1 2)).mem)) ∧
  (∀ (s : State),
    let rs := s.get .FAB_RESHARD_STATE
    let n := s.get .ESC_STEPS_OPEN_STEP
    let sealed (m : Nat) : Prop := ∃ x ∈ s.esc.seals, x.1 = m ∧ x.2.1 = n ∧ x.2.2 + s.lBeats ≤ s.now
    let cut : Prop := (∀ m ∈ s.commitAll, sealed m) ∧ ∀ f ∈ s.esc.freezes, s.now < f.b + s.lBeats
    (s.get .ESC_STATUS_OPEN = 0 ∨ s.get .ESC_STATUS_FROZEN = 1 ∨ rs = 1 ∨ rs = 2 ∨ rs = 3 → exec .escrowSnapshotPoint s = .next s) ∧
    (s.get .ESC_STATUS_OPEN = 1 → s.get .ESC_STATUS_FROZEN = 0 → rs = 0 ∨ rs = 4 →
      (cut → ∃ t : State, exec .escrowSnapshotPoint s = .next t ∧ t.get .ESC_STATUS_OPEN = 0 ∧ t.get .ESC_STATUS_HOME = 1 ∧ t.get .ESC_STATUS_HOME_STEP = n % 2 ^ 32 ∧
        t.esc = { s.esc with filling := none, needFull := false, seals := s.esc.seals.filter fun x => x.2.1 != n } ∧
        ∀ b, s.esc.filling = some b → s.bankState b = 2 → t.bankState b = 3 ∧ t.get .ESC_STEPS_HELD_STEP = s.esc.inStep % 2 ^ 32) ∧
      (¬cut → ∃ t : State, exec .escrowSnapshotPoint s = .next t ∧ t.get .ESC_STATUS_OPEN = 0 ∧ t.get .ESC_STATUS_HOME = s.get .ESC_STATUS_HOME ∧
        t.get .ESC_STATUS_HOME_STEP = s.get .ESC_STATUS_HOME_STEP ∧
        t.esc = { s.esc with filling := none, closing := none, ignoring := false, seals := s.esc.seals.filter fun x => x.2.1 != n } ∧
        ∀ b < 2, t.bankState b ≠ 1 ∧ t.bankState b ≠ 2)))

/-- Register writes (R2 to R5, R430, R444, R488 to R490; choices of log entries 11 and 12), and PTP messages (R56, R408). -/
def Obligations.RegisterWritesFollowTheirAccessTypes : Prop :=
  (∀ (s : State) (by_ : Agent) (da size : Nat) (val : Word),
    let c := Instr.registerWrite by_ da size val
    let v := val.toNat
    (s.agentOk by_ = false → exec c s = .fault .absentUnit) ∧
    (s.agentOk by_ = true →
      (0x7f000000000 ≤ da → da < 0x7f800000000 →
        (s.regPlace da = .absent → ∃ t : State, exec c s = .next t ∧ t = s.regUnmapped by_ da ∧ t.mem = s.mem) ∧
        (∀ clu, s.regPlace da = .none_ clu → ∃ t : State, exec c s = .next t ∧ t.mem = s.mem) ∧
        (∀ off, s.regPlace da = .msix off → ∃ t : State, exec c s = .next t ∧ t.mem = s.mem) ∧
        (∀ b u off, s.regPlace da = .block b u off →
          (mayWrite by_ b u = false → exec c s = .next (s.regUnmapped by_ da)) ∧
          (mayWrite by_ b u = true → s.rst.inReset.contains (s.blockDie b u) = true ∨ (s.hostEarly by_ = true ∧ earlyOk b off = false) →
            ∃ t : State, exec c s = .next t ∧ t.out = .answer by_ false [] :: s.out ∧ t.mem = s.mem ∧ t.flds = s.flds) ∧
          (mayWrite by_ b u = true → s.rst.inReset.contains (s.blockDie b u) = false → s.hostEarly by_ = false ∨ earlyOk b off = true →
            (¬(size = 8 ∧ off % 8 = 0) → exec c s = .next s) ∧
            (size = 8 → off % 8 = 0 →
              (∀ l, by_ = .host l → alwaysOn b = false → 2 ≤ s.get .PWR_STATE_CURRENT →
                ∃ t : State, exec c s = .next t ∧ t.mem = s.mem ∧ t.clk.waitReg = s.clk.waitReg ++ [(by_, da, size, some val)]) ∧
              ((∀ l, by_ ≠ .host l) ∨ alwaysOn b = true ∨ s.get .PWR_STATE_CURRENT < 2 →
                let w := match by_ with | .host _ => if alwaysOn b then s else s.wake 3 | _ => s
                (regAt b off = none → exec c s = .next w) ∧
                (∀ r i, regAt b off = some (r, i) →
                  (∃ t : State, exec c s = .next t) ∧
                  (r ∉ [Reg.BEAT_CFG, .STR_PREPARE, .STR_COMMIT, .QUE_OP, .ESC_CTL, .KVW_BOP, .KVW_CTL, .UPD_CTL, .HSK_CTL, .WIN_CTL, .DCTL_FILL, .SEC_OP, .RST_CTL,
                      .RST_TEST_OP, .CLK_GATE_OP, .CLK_DBG, .PWR_CAP, .PWR_LAT_TOL, .LOG_CURSOR, .GLB_IRQ_STATUS, .GLB_IRQ_EN, .GLB_IRQ_STW, .HST_SEAL_GRANT,
                      .STW_SEAL_CTL, .FAB_PORT_CTL, .FAB_LAYOUT] →
                    ∃ t : State, exec c s = .next t ∧ t.mem = w.mem ∧
                      (∀ f ∈ r.row.fields, let x := bits v f.row.hi f.row.lo
                        t.get f u i = match f.row.acc with
                          | .ro | .wo => w.get f u i
                          | .rw | .rws => x
                          | .rwl => if !w.str.committedOnce || w.str.prepOpen then x else w.get f u i
                          | .w1c => (w.get f u i - (w.get f u i &&& x)) % 2 ^ f.width) ∧
                      (∀ f u' i', f ∉ r.row.fields ∨ u' ≠ u ∨ i' ≠ i → t.get f u' i' = w.get f u' i')) ∧
                  (r = .FAB_LAYOUT → exec c s = exec (.fabLayoutWrite by_ val) w) ∧
                  (r = .QUE_OP → let q := bits v 19 0
                    (bits v 63 60 = 1 → exec c s = exec (.queueEnable by_ q) w) ∧ (bits v 63 60 = 2 → exec c s = exec (.queueDisable by_ q (bit v 59)) w) ∧
                    (bits v 63 60 = 3 → exec c s = exec (.queueFlush by_ q (bits v 55 48)) w) ∧ (bits v 63 60 = 4 → exec c s = exec (.queueSetlevel by_ q) w) ∧
                    (bits v 63 60 = 5 → exec c s = exec (.queueQuery by_ q) w)) ∧
                  (r = .ESC_CTL →
                    (bits v 63 60 = 1 → exec c s = exec (.escFreeze by_) w) ∧ (bits v 63 60 = 2 → bits v 15 0 = 0 → exec c s = exec (.escRollback by_) w) ∧
                    (bits v 63 60 = 3 → exec c s = exec (.escServe by_ (bits v 15 0)) w) ∧ (bits v 63 60 = 4 → exec c s = exec (.escReceive by_ (bits v 15 0)) w)))))))) ∧
      (0x7f800000000 ≤ da → da < 0x7f900000000 → (∀ x y, by_ ≠ .unit x y) →
        exec c s = exec (.doorbellWrite by_ ((da - 0x7f800000000) / 4096) (da % 4096) size val) s) ∧
      (da < 0x7f000000000 ∨ 0x7f900000000 ≤ da →
        (∀ l, by_ = .host l → exec c s = .next (s.regUnmapped by_ da)) ∧
        ((∀ l, by_ ≠ .host l) → exec c s = .next (s.memAcc by_ da 1 (leBytes size v)))))) ∧
  (∀ (s : State) (port : Nat), s.mgtOk port = true →
    (s.beatSource = 3 → s.eff .BEAT_CFG_MGT_PORT = port → ∃ t : State, exec (.ptpMessageReceive port) s = .next t ∧ t.out = .ptpDelayReq port :: s.out ∧ t.mem = s.mem ∧
      (port = 0 → t.get .MGT_STATUS_PTP_A = 1 ∧ t.get .MGT_STATUS_PTP_B = s.get .MGT_STATUS_PTP_B) ∧
      (port = 1 → t.get .MGT_STATUS_PTP_B = 1 ∧ t.get .MGT_STATUS_PTP_A = s.get .MGT_STATUS_PTP_A)) ∧
    (s.beatSource ≠ 3 ∨ s.eff .BEAT_CFG_MGT_PORT ≠ port → exec (.ptpMessageReceive port) s = .next s))
end

