-- ==== Sys2Proof/Laws/Bits.lean ====
section
/-! SUPPORT. Laws of bit fields: what a field and a bit read after a field is written. -/
namespace Sys2Proof.Machine

theorem putBits_parts (w hi lo v : Nat) (h : lo ≤ hi + 1) : putBits w hi lo v =
    2 ^ lo * (2 ^ (hi + 1 - lo) * (w / 2 ^ (hi + 1)) + v % 2 ^ (hi + 1 - lo)) + w % 2 ^ lo := by
  have hp : (2 : Nat) ^ (hi + 1) = 2 ^ lo * 2 ^ (hi + 1 - lo) := by rw [← pow_add]; congr 1; omega
  have h1 := Nat.div_add_mod w (2 ^ lo)
  have h2 := Nat.div_add_mod (w / 2 ^ lo) (2 ^ (hi + 1 - lo))
  rw [Nat.div_div_eq_div_mul, ← hp] at h2
  unfold putBits bits
  rw [Nat.shiftRight_eq_div_pow]
  generalize w / 2 ^ lo % 2 ^ (hi + 1 - lo) = b at *
  generalize w / 2 ^ (hi + 1) = a at *
  generalize w % 2 ^ lo = c at *
  generalize v % 2 ^ (hi + 1 - lo) = x
  rw [← h2] at h1
  have : w = 2 ^ lo * (2 ^ (hi + 1 - lo) * a) + c + b * 2 ^ lo := by rw [← h1]; ring
  rw [this, Nat.add_sub_cancel]
  ring

theorem testBit_putBits (w hi lo v i : Nat) (h : lo ≤ hi + 1) :
    (putBits w hi lo v).testBit i = if lo ≤ i ∧ i ≤ hi then v.testBit (i - lo) else w.testBit i := by
  rw [putBits_parts w hi lo v h, Nat.testBit_two_pow_mul_add _ (Nat.mod_lt _ (Nat.two_pow_pos _)),
    Nat.testBit_two_pow_mul_add _ (Nat.mod_lt _ (Nat.two_pow_pos _))]
  by_cases a : i < lo
  · rw [if_pos a, if_neg (by omega), Nat.testBit_mod_two_pow]
    simp [a]
  · rw [if_neg a]
    by_cases b : i ≤ hi
    · rw [if_pos (by omega), if_pos ⟨by omega, b⟩, Nat.testBit_mod_two_pow]
      simp only [Bool.and_eq_right_iff_imp, decide_eq_true_eq]
      omega
    · rw [if_neg (by omega), if_neg (by omega), Nat.testBit_div_two_pow]
      congr 1
      omega

theorem testBit_bits (w hi lo i : Nat) : (bits w hi lo).testBit i = (decide (i < hi + 1 - lo) && w.testBit (lo + i)) := by
  unfold bits
  rw [Nat.testBit_mod_two_pow, Nat.testBit_shiftRight]

/-- A bit field reads as what was written to it, cut to its width. -/
theorem bits_putBits_self (w hi lo v : Nat) (h : lo ≤ hi + 1) : bits (putBits w hi lo v) hi lo = v % 2 ^ (hi + 1 - lo) := by
  refine Nat.eq_of_testBit_eq fun i => ?_
  rw [testBit_bits, testBit_putBits _ _ _ _ _ h, Nat.testBit_mod_two_pow]
  by_cases c : i < hi + 1 - lo
  · rw [if_pos (by omega), Nat.add_sub_cancel_left]
  · simp [c]

/-- A bit field that shares no bit with the one that is written reads as before. -/
theorem bits_putBits_ne (w hi lo v hi' lo' : Nat) (h : lo ≤ hi + 1) (hd : hi < lo' ∨ hi' < lo) :
    bits (putBits w hi lo v) hi' lo' = bits w hi' lo' := by
  refine Nat.eq_of_testBit_eq fun i => ?_
  rw [testBit_bits, testBit_bits, testBit_putBits _ _ _ _ _ h]
  by_cases c : i < hi' + 1 - lo'
  · rw [if_neg (by omega)]
  · simp [c]

/-- A bit field below a cut reads as before it. -/
theorem bits_mod (w n hi lo : Nat) (h : hi < n) : bits (w % 2 ^ n) hi lo = bits w hi lo := by
  refine Nat.eq_of_testBit_eq fun i => ?_
  rw [testBit_bits, testBit_bits, Nat.testBit_mod_two_pow]
  by_cases c : i < hi + 1 - lo
  · have : lo + i < n := by omega
    simp [this]
  · simp [c]

/-- A bit after a bit is written. -/
theorem bit_putBit (w i j : Nat) (b : Bool) : bit (putBit w i b) j = if j = i then b else bit w j := by
  unfold bit putBit
  rw [testBit_putBits _ _ _ _ _ (by omega)]
  by_cases c : j = i
  · subst c
    cases b <;> simp [b2n]
  · rw [if_neg (by omega), if_neg c]

/-- A bit below a cut reads as before it. -/
theorem bit_mod (w n i : Nat) (h : i < n) : bit (w % 2 ^ n) i = bit w i := by
  unfold bit
  rw [Nat.testBit_mod_two_pow]
  simp [h]

/-- A bit field fits its width. -/
theorem bits_lt (w hi lo : Nat) : bits w hi lo < 2 ^ (hi + 1 - lo) := Nat.mod_lt _ (Nat.two_pow_pos _)

@[simp] theorem length_leBytes (n v : Nat) : (leBytes n v).length = n := by
  induction n generalizing v with
  | zero => rfl
  | succ n ih => simp [leBytes, ih]

end Sys2Proof.Machine
end

