-- ==== Sys2Proof/Laws/State.lean ====
section
/-! SUPPORT. What each update of the state leaves as it was, field by field, and what a register field reads after a write. A proof about a
command rewrites with these and does not unfold an update. -/
namespace Sys2Proof.Machine

/-! ### Maps -/

@[simp] theorem KMap.get_set_self {κ β : Type} [DecidableEq κ] (m : KMap κ β) (k : κ) (v d : β) : KMap.get (KMap.set m k v) k d = v := by
  simp [KMap.set, KMap.get]

theorem KMap.get_erase_ne {κ β : Type} [DecidableEq κ] (m : KMap κ β) (k k' : κ) (d : β) (h : k' ≠ k) :
    KMap.get (KMap.erase m k) k' d = KMap.get m k' d := by
  induction m with
  | nil => rfl
  | cons e m ih =>
    unfold KMap.erase at ih ⊢
    by_cases he : e.1 = k
    · rw [List.filter_cons_of_neg (by simp [he]), ih, KMap.get, if_neg (fun x => h (x.symm.trans he))]
    · rw [List.filter_cons_of_pos (by simp [he]), KMap.get, KMap.get, ih]

theorem KMap.get_set_ne {κ β : Type} [DecidableEq κ] (m : KMap κ β) (k k' : κ) (v d : β) (h : k' ≠ k) :
    KMap.get (KMap.set m k v) k' d = KMap.get m k' d := by
  rw [KMap.set, KMap.get, if_neg (fun x => h x.symm), KMap.get_erase_ne _ _ _ _ h]

@[simp] theorem KMap.get?_set_self {κ β : Type} [DecidableEq κ] (m : KMap κ β) (k : κ) (v : β) : KMap.get? (KMap.set m k v) k = some v := by
  simp [KMap.set, KMap.get?]

theorem KMap.get?_erase_ne {κ β : Type} [DecidableEq κ] (m : KMap κ β) (k k' : κ) (h : k' ≠ k) :
    KMap.get? (KMap.erase m k) k' = KMap.get? m k' := by
  induction m with
  | nil => rfl
  | cons e m ih =>
    unfold KMap.erase at ih ⊢
    by_cases he : e.1 = k
    · rw [List.filter_cons_of_neg (by simp [he]), ih, KMap.get?, if_neg (fun x => h (x.symm.trans he))]
    · rw [List.filter_cons_of_pos (by simp [he]), KMap.get?, KMap.get?, ih]

theorem KMap.get?_set_ne {κ β : Type} [DecidableEq κ] (m : KMap κ β) (k k' : κ) (v : β) (h : k' ≠ k) :
    KMap.get? (KMap.set m k v) k' = KMap.get? m k' := by
  rw [KMap.set, KMap.get?, if_neg (fun x => h x.symm), KMap.get?_erase_ne _ _ _ h]

/-- Many keys set, each to its own value. -/
theorem KMap.get_foldl_set {κ β : Type} [DecidableEq κ] (f : κ → β) (l : List κ) (m : KMap κ β) (k : κ) (d : β) :
    KMap.get (l.foldl (fun m u => KMap.set m u (f u)) m) k d = if k ∈ l then f k else KMap.get m k d := by
  induction l generalizing m with
  | nil => simp
  | cons a l ih =>
    rw [List.foldl_cons, ih]
    by_cases h : k ∈ l
    · simp [h]
    · by_cases e : k = a
      · subst e
        simp [h]
      · rw [if_neg h, if_neg (by simp [h, e]), KMap.get_set_ne _ _ _ _ _ e]

/-! ### Register fields -/

@[simp] theorem State.get_set_self (s : State) (f : Field) (v u i : Nat) : (s.set f v u i).get f u i = v % 2 ^ f.width :=
  KMap.get_set_self ..

theorem State.get_set_ne (s : State) (f g : Field) (v u i u' i' : Nat) (h : g ≠ f ∨ u' ≠ u ∨ i' ≠ i) :
    (s.set f v u i).get g u' i' = s.get g u' i' := by
  unfold State.get State.set
  refine KMap.get_set_ne _ _ _ _ _ fun e => ?_
  cases e
  simp at h

/-- A read after a write: the value cut to the field where it is the same field of the same unit and place, else what it was. -/
@[simp] theorem State.get_set (s : State) (f g : Field) (v u i u' i' : Nat) :
    (s.set f v u i).get g u' i' = if g = f ∧ u' = u ∧ i' = i then v % 2 ^ f.width else s.get g u' i' := by
  by_cases a : g = f
  · by_cases b : u' = u
    · by_cases c : i' = i
      · subst a b c
        simp
      · rw [State.get_set_ne _ _ _ _ _ _ _ _ (.inr (.inr c)), if_neg fun h => c h.2.2]
    · rw [State.get_set_ne _ _ _ _ _ _ _ _ (.inr (.inl b)), if_neg fun h => b h.2.1]
  · rw [State.get_set_ne _ _ _ _ _ _ _ _ (.inl a), if_neg fun h => a h.1]

@[simp] theorem State.bump_eq (s : State) (f : Field) (n u i : Nat) : s.bump f n u i = s.set f (s.get f u i + n) u i := (rfl)
@[simp] theorem State.bumpSat_eq (s : State) (f : Field) (n u i : Nat) : s.bumpSat f n u i = s.set f (satAdd f.width (s.get f u i) n) u i := (rfl)
@[simp] theorem State.setBit_eq (s : State) (f : Field) (b : Nat) (v : Bool) (u i : Nat) :
    s.setBit f b v u i = s.set f (putBit (s.get f u i) b v) u i := (rfl)

/-! ### set -/

@[simp] theorem State.set_ident (s : State) (f : Field) (v u i : Nat) : (s.set f v u i).ident = s.ident := (rfl)
@[simp] theorem State.set_mem (s : State) (f : Field) (v u i : Nat) : (s.set f v u i).mem = s.mem := (rfl)
@[simp] theorem State.set_poison (s : State) (f : Field) (v u i : Nat) : (s.set f v u i).poison = s.poison := (rfl)
@[simp] theorem State.set_str (s : State) (f : Field) (v u i : Nat) : (s.set f v u i).str = s.str := (rfl)
@[simp] theorem State.set_beat (s : State) (f : Field) (v u i : Nat) : (s.set f v u i).beat = s.beat := (rfl)
@[simp] theorem State.set_log (s : State) (f : Field) (v u i : Nat) : (s.set f v u i).log = s.log := (rfl)
@[simp] theorem State.set_cores (s : State) (f : Field) (v u i : Nat) : (s.set f v u i).cores = s.cores := (rfl)
@[simp] theorem State.set_dies (s : State) (f : Field) (v u i : Nat) : (s.set f v u i).dies = s.dies := (rfl)
@[simp] theorem State.set_steer (s : State) (f : Field) (v u i : Nat) : (s.set f v u i).steer = s.steer := (rfl)
@[simp] theorem State.set_totals (s : State) (f : Field) (v u i : Nat) : (s.set f v u i).totals = s.totals := (rfl)
@[simp] theorem State.set_ownTot (s : State) (f : Field) (v u i : Nat) : (s.set f v u i).ownTot = s.ownTot := (rfl)
@[simp] theorem State.set_steerPol (s : State) (f : Field) (v u i : Nat) : (s.set f v u i).steerPol = s.steerPol := (rfl)
@[simp] theorem State.set_upd (s : State) (f : Field) (v u i : Nat) : (s.set f v u i).upd = s.upd := (rfl)
@[simp] theorem State.set_skip (s : State) (f : Field) (v u i : Nat) : (s.set f v u i).skip = s.skip := (rfl)
@[simp] theorem State.set_que (s : State) (f : Field) (v u i : Nat) : (s.set f v u i).que = s.que := (rfl)
@[simp] theorem State.set_fab (s : State) (f : Field) (v u i : Nat) : (s.set f v u i).fab = s.fab := (rfl)
@[simp] theorem State.set_coll (s : State) (f : Field) (v u i : Nat) : (s.set f v u i).coll = s.coll := (rfl)
@[simp] theorem State.set_esc (s : State) (f : Field) (v u i : Nat) : (s.set f v u i).esc = s.esc := (rfl)
@[simp] theorem State.set_stook (s : State) (f : Field) (v u i : Nat) : (s.set f v u i).stook = s.stook := (rfl)
@[simp] theorem State.set_win (s : State) (f : Field) (v u i : Nat) : (s.set f v u i).win = s.win := (rfl)
@[simp] theorem State.set_kvw (s : State) (f : Field) (v u i : Nat) : (s.set f v u i).kvw = s.kvw := (rfl)
@[simp] theorem State.set_kv (s : State) (f : Field) (v u i : Nat) : (s.set f v u i).kv = s.kv := (rfl)
@[simp] theorem State.set_vce (s : State) (f : Field) (v u i : Nat) : (s.set f v u i).vce = s.vce := (rfl)
@[simp] theorem State.set_lp (s : State) (f : Field) (v u i : Nat) : (s.set f v u i).lp = s.lp := (rfl)
@[simp] theorem State.set_stw (s : State) (f : Field) (v u i : Nat) : (s.set f v u i).stw = s.stw := (rfl)
@[simp] theorem State.set_hst (s : State) (f : Field) (v u i : Nat) : (s.set f v u i).hst = s.hst := (rfl)
@[simp] theorem State.set_sec (s : State) (f : Field) (v u i : Nat) : (s.set f v u i).sec = s.sec := (rfl)
@[simp] theorem State.set_clk (s : State) (f : Field) (v u i : Nat) : (s.set f v u i).clk = s.clk := (rfl)
@[simp] theorem State.set_rst (s : State) (f : Field) (v u i : Nat) : (s.set f v u i).rst = s.rst := (rfl)
@[simp] theorem State.set_msixTab (s : State) (f : Field) (v u i : Nat) : (s.set f v u i).msixTab = s.msixTab := (rfl)
@[simp] theorem State.set_pba (s : State) (f : Field) (v u i : Nat) : (s.set f v u i).pba = s.pba := (rfl)
@[simp] theorem State.set_out (s : State) (f : Field) (v u i : Nat) : (s.set f v u i).out = s.out := (rfl)
@[simp] theorem State.set_free (s : State) (f : Field) (v u i : Nat) : (s.set f v u i).free = s.free := (rfl)
@[simp] theorem State.set_pending (s : State) (f : Field) (v u i : Nat) : (s.set f v u i).pending = s.pending := (rfl)

/-! ### emit -/

@[simp] theorem State.emit_ident (s : State) (o : Out) : (s.emit o).ident = s.ident := (rfl)
@[simp] theorem State.emit_flds (s : State) (o : Out) : (s.emit o).flds = s.flds := (rfl)
@[simp] theorem State.emit_mem (s : State) (o : Out) : (s.emit o).mem = s.mem := (rfl)
@[simp] theorem State.emit_poison (s : State) (o : Out) : (s.emit o).poison = s.poison := (rfl)
@[simp] theorem State.emit_str (s : State) (o : Out) : (s.emit o).str = s.str := (rfl)
@[simp] theorem State.emit_beat (s : State) (o : Out) : (s.emit o).beat = s.beat := (rfl)
@[simp] theorem State.emit_log (s : State) (o : Out) : (s.emit o).log = s.log := (rfl)
@[simp] theorem State.emit_cores (s : State) (o : Out) : (s.emit o).cores = s.cores := (rfl)
@[simp] theorem State.emit_dies (s : State) (o : Out) : (s.emit o).dies = s.dies := (rfl)
@[simp] theorem State.emit_steer (s : State) (o : Out) : (s.emit o).steer = s.steer := (rfl)
@[simp] theorem State.emit_totals (s : State) (o : Out) : (s.emit o).totals = s.totals := (rfl)
@[simp] theorem State.emit_ownTot (s : State) (o : Out) : (s.emit o).ownTot = s.ownTot := (rfl)
@[simp] theorem State.emit_steerPol (s : State) (o : Out) : (s.emit o).steerPol = s.steerPol := (rfl)
@[simp] theorem State.emit_upd (s : State) (o : Out) : (s.emit o).upd = s.upd := (rfl)
@[simp] theorem State.emit_skip (s : State) (o : Out) : (s.emit o).skip = s.skip := (rfl)
@[simp] theorem State.emit_que (s : State) (o : Out) : (s.emit o).que = s.que := (rfl)
@[simp] theorem State.emit_fab (s : State) (o : Out) : (s.emit o).fab = s.fab := (rfl)
@[simp] theorem State.emit_coll (s : State) (o : Out) : (s.emit o).coll = s.coll := (rfl)
@[simp] theorem State.emit_esc (s : State) (o : Out) : (s.emit o).esc = s.esc := (rfl)
@[simp] theorem State.emit_stook (s : State) (o : Out) : (s.emit o).stook = s.stook := (rfl)
@[simp] theorem State.emit_win (s : State) (o : Out) : (s.emit o).win = s.win := (rfl)
@[simp] theorem State.emit_kvw (s : State) (o : Out) : (s.emit o).kvw = s.kvw := (rfl)
@[simp] theorem State.emit_kv (s : State) (o : Out) : (s.emit o).kv = s.kv := (rfl)
@[simp] theorem State.emit_vce (s : State) (o : Out) : (s.emit o).vce = s.vce := (rfl)
@[simp] theorem State.emit_lp (s : State) (o : Out) : (s.emit o).lp = s.lp := (rfl)
@[simp] theorem State.emit_stw (s : State) (o : Out) : (s.emit o).stw = s.stw := (rfl)
@[simp] theorem State.emit_hst (s : State) (o : Out) : (s.emit o).hst = s.hst := (rfl)
@[simp] theorem State.emit_sec (s : State) (o : Out) : (s.emit o).sec = s.sec := (rfl)
@[simp] theorem State.emit_clk (s : State) (o : Out) : (s.emit o).clk = s.clk := (rfl)
@[simp] theorem State.emit_rst (s : State) (o : Out) : (s.emit o).rst = s.rst := (rfl)
@[simp] theorem State.emit_msixTab (s : State) (o : Out) : (s.emit o).msixTab = s.msixTab := (rfl)
@[simp] theorem State.emit_pba (s : State) (o : Out) : (s.emit o).pba = s.pba := (rfl)
@[simp] theorem State.emit_free (s : State) (o : Out) : (s.emit o).free = s.free := (rfl)
@[simp] theorem State.emit_pending (s : State) (o : Out) : (s.emit o).pending = s.pending := (rfl)
@[simp] theorem State.emit_get (s : State) (o : Out) (f : Field) (u i : Nat) : (s.emit o).get f u i = s.get f u i := (rfl)
@[simp] theorem State.emit_out (s : State) (o : Out) : (s.emit o).out = o :: s.out := (rfl)

/-! ### tick -/

@[simp] theorem State.tick_ident (s : State) : (s.tick).ident = s.ident := (rfl)
@[simp] theorem State.tick_flds (s : State) : (s.tick).flds = s.flds := (rfl)
@[simp] theorem State.tick_mem (s : State) : (s.tick).mem = s.mem := (rfl)
@[simp] theorem State.tick_poison (s : State) : (s.tick).poison = s.poison := (rfl)
@[simp] theorem State.tick_str (s : State) : (s.tick).str = s.str := (rfl)
@[simp] theorem State.tick_beat (s : State) : (s.tick).beat = s.beat := (rfl)
@[simp] theorem State.tick_log (s : State) : (s.tick).log = s.log := (rfl)
@[simp] theorem State.tick_cores (s : State) : (s.tick).cores = s.cores := (rfl)
@[simp] theorem State.tick_dies (s : State) : (s.tick).dies = s.dies := (rfl)
@[simp] theorem State.tick_steer (s : State) : (s.tick).steer = s.steer := (rfl)
@[simp] theorem State.tick_totals (s : State) : (s.tick).totals = s.totals := (rfl)
@[simp] theorem State.tick_ownTot (s : State) : (s.tick).ownTot = s.ownTot := (rfl)
@[simp] theorem State.tick_steerPol (s : State) : (s.tick).steerPol = s.steerPol := (rfl)
@[simp] theorem State.tick_upd (s : State) : (s.tick).upd = s.upd := (rfl)
@[simp] theorem State.tick_skip (s : State) : (s.tick).skip = s.skip := (rfl)
@[simp] theorem State.tick_que (s : State) : (s.tick).que = s.que := (rfl)
@[simp] theorem State.tick_fab (s : State) : (s.tick).fab = s.fab := (rfl)
@[simp] theorem State.tick_coll (s : State) : (s.tick).coll = s.coll := (rfl)
@[simp] theorem State.tick_esc (s : State) : (s.tick).esc = s.esc := (rfl)
@[simp] theorem State.tick_stook (s : State) : (s.tick).stook = s.stook := (rfl)
@[simp] theorem State.tick_win (s : State) : (s.tick).win = s.win := (rfl)
@[simp] theorem State.tick_kvw (s : State) : (s.tick).kvw = s.kvw := (rfl)
@[simp] theorem State.tick_kv (s : State) : (s.tick).kv = s.kv := (rfl)
@[simp] theorem State.tick_vce (s : State) : (s.tick).vce = s.vce := (rfl)
@[simp] theorem State.tick_lp (s : State) : (s.tick).lp = s.lp := (rfl)
@[simp] theorem State.tick_stw (s : State) : (s.tick).stw = s.stw := (rfl)
@[simp] theorem State.tick_hst (s : State) : (s.tick).hst = s.hst := (rfl)
@[simp] theorem State.tick_sec (s : State) : (s.tick).sec = s.sec := (rfl)
@[simp] theorem State.tick_clk (s : State) : (s.tick).clk = s.clk := (rfl)
@[simp] theorem State.tick_rst (s : State) : (s.tick).rst = s.rst := (rfl)
@[simp] theorem State.tick_msixTab (s : State) : (s.tick).msixTab = s.msixTab := (rfl)
@[simp] theorem State.tick_pba (s : State) : (s.tick).pba = s.pba := (rfl)
@[simp] theorem State.tick_out (s : State) : (s.tick).out = s.out := (rfl)
@[simp] theorem State.tick_pending (s : State) : (s.tick).pending = s.pending := (rfl)
@[simp] theorem State.tick_get (s : State) (f : Field) (u i : Nat) : (s.tick ).get f u i = s.get f u i := (rfl)
@[simp] theorem State.tick_free (s : State) : (s.tick).free = s.free + 1 := (rfl)

/-! ### ticks -/

@[simp] theorem State.ticks_ident (s : State) (n : Nat) : (s.ticks n).ident = s.ident := (rfl)
@[simp] theorem State.ticks_flds (s : State) (n : Nat) : (s.ticks n).flds = s.flds := (rfl)
@[simp] theorem State.ticks_mem (s : State) (n : Nat) : (s.ticks n).mem = s.mem := (rfl)
@[simp] theorem State.ticks_poison (s : State) (n : Nat) : (s.ticks n).poison = s.poison := (rfl)
@[simp] theorem State.ticks_str (s : State) (n : Nat) : (s.ticks n).str = s.str := (rfl)
@[simp] theorem State.ticks_beat (s : State) (n : Nat) : (s.ticks n).beat = s.beat := (rfl)
@[simp] theorem State.ticks_log (s : State) (n : Nat) : (s.ticks n).log = s.log := (rfl)
@[simp] theorem State.ticks_cores (s : State) (n : Nat) : (s.ticks n).cores = s.cores := (rfl)
@[simp] theorem State.ticks_dies (s : State) (n : Nat) : (s.ticks n).dies = s.dies := (rfl)
@[simp] theorem State.ticks_steer (s : State) (n : Nat) : (s.ticks n).steer = s.steer := (rfl)
@[simp] theorem State.ticks_totals (s : State) (n : Nat) : (s.ticks n).totals = s.totals := (rfl)
@[simp] theorem State.ticks_ownTot (s : State) (n : Nat) : (s.ticks n).ownTot = s.ownTot := (rfl)
@[simp] theorem State.ticks_steerPol (s : State) (n : Nat) : (s.ticks n).steerPol = s.steerPol := (rfl)
@[simp] theorem State.ticks_upd (s : State) (n : Nat) : (s.ticks n).upd = s.upd := (rfl)
@[simp] theorem State.ticks_skip (s : State) (n : Nat) : (s.ticks n).skip = s.skip := (rfl)
@[simp] theorem State.ticks_que (s : State) (n : Nat) : (s.ticks n).que = s.que := (rfl)
@[simp] theorem State.ticks_fab (s : State) (n : Nat) : (s.ticks n).fab = s.fab := (rfl)
@[simp] theorem State.ticks_coll (s : State) (n : Nat) : (s.ticks n).coll = s.coll := (rfl)
@[simp] theorem State.ticks_esc (s : State) (n : Nat) : (s.ticks n).esc = s.esc := (rfl)
@[simp] theorem State.ticks_stook (s : State) (n : Nat) : (s.ticks n).stook = s.stook := (rfl)
@[simp] theorem State.ticks_win (s : State) (n : Nat) : (s.ticks n).win = s.win := (rfl)
@[simp] theorem State.ticks_kvw (s : State) (n : Nat) : (s.ticks n).kvw = s.kvw := (rfl)
@[simp] theorem State.ticks_kv (s : State) (n : Nat) : (s.ticks n).kv = s.kv := (rfl)
@[simp] theorem State.ticks_vce (s : State) (n : Nat) : (s.ticks n).vce = s.vce := (rfl)
@[simp] theorem State.ticks_lp (s : State) (n : Nat) : (s.ticks n).lp = s.lp := (rfl)
@[simp] theorem State.ticks_stw (s : State) (n : Nat) : (s.ticks n).stw = s.stw := (rfl)
@[simp] theorem State.ticks_hst (s : State) (n : Nat) : (s.ticks n).hst = s.hst := (rfl)
@[simp] theorem State.ticks_sec (s : State) (n : Nat) : (s.ticks n).sec = s.sec := (rfl)
@[simp] theorem State.ticks_clk (s : State) (n : Nat) : (s.ticks n).clk = s.clk := (rfl)
@[simp] theorem State.ticks_rst (s : State) (n : Nat) : (s.ticks n).rst = s.rst := (rfl)
@[simp] theorem State.ticks_msixTab (s : State) (n : Nat) : (s.ticks n).msixTab = s.msixTab := (rfl)
@[simp] theorem State.ticks_pba (s : State) (n : Nat) : (s.ticks n).pba = s.pba := (rfl)
@[simp] theorem State.ticks_out (s : State) (n : Nat) : (s.ticks n).out = s.out := (rfl)
@[simp] theorem State.ticks_pending (s : State) (n : Nat) : (s.ticks n).pending = s.pending := (rfl)
@[simp] theorem State.ticks_get (s : State) (n : Nat) (f : Field) (u i : Nat) : (s.ticks n).get f u i = s.get f u i := (rfl)
@[simp] theorem State.ticks_free (s : State) (n : Nat) : (s.ticks n).free = s.free + n := (rfl)

/-! ### setCore -/

@[simp] theorem State.setCore_ident (s : State) (c : Nat) (x : CoreSt) : (s.setCore c x).ident = s.ident := (rfl)
@[simp] theorem State.setCore_flds (s : State) (c : Nat) (x : CoreSt) : (s.setCore c x).flds = s.flds := (rfl)
@[simp] theorem State.setCore_mem (s : State) (c : Nat) (x : CoreSt) : (s.setCore c x).mem = s.mem := (rfl)
@[simp] theorem State.setCore_poison (s : State) (c : Nat) (x : CoreSt) : (s.setCore c x).poison = s.poison := (rfl)
@[simp] theorem State.setCore_str (s : State) (c : Nat) (x : CoreSt) : (s.setCore c x).str = s.str := (rfl)
@[simp] theorem State.setCore_beat (s : State) (c : Nat) (x : CoreSt) : (s.setCore c x).beat = s.beat := (rfl)
@[simp] theorem State.setCore_log (s : State) (c : Nat) (x : CoreSt) : (s.setCore c x).log = s.log := (rfl)
@[simp] theorem State.setCore_dies (s : State) (c : Nat) (x : CoreSt) : (s.setCore c x).dies = s.dies := (rfl)
@[simp] theorem State.setCore_steer (s : State) (c : Nat) (x : CoreSt) : (s.setCore c x).steer = s.steer := (rfl)
@[simp] theorem State.setCore_totals (s : State) (c : Nat) (x : CoreSt) : (s.setCore c x).totals = s.totals := (rfl)
@[simp] theorem State.setCore_ownTot (s : State) (c : Nat) (x : CoreSt) : (s.setCore c x).ownTot = s.ownTot := (rfl)
@[simp] theorem State.setCore_steerPol (s : State) (c : Nat) (x : CoreSt) : (s.setCore c x).steerPol = s.steerPol := (rfl)
@[simp] theorem State.setCore_upd (s : State) (c : Nat) (x : CoreSt) : (s.setCore c x).upd = s.upd := (rfl)
@[simp] theorem State.setCore_skip (s : State) (c : Nat) (x : CoreSt) : (s.setCore c x).skip = s.skip := (rfl)
@[simp] theorem State.setCore_que (s : State) (c : Nat) (x : CoreSt) : (s.setCore c x).que = s.que := (rfl)
@[simp] theorem State.setCore_fab (s : State) (c : Nat) (x : CoreSt) : (s.setCore c x).fab = s.fab := (rfl)
@[simp] theorem State.setCore_coll (s : State) (c : Nat) (x : CoreSt) : (s.setCore c x).coll = s.coll := (rfl)
@[simp] theorem State.setCore_esc (s : State) (c : Nat) (x : CoreSt) : (s.setCore c x).esc = s.esc := (rfl)
@[simp] theorem State.setCore_stook (s : State) (c : Nat) (x : CoreSt) : (s.setCore c x).stook = s.stook := (rfl)
@[simp] theorem State.setCore_win (s : State) (c : Nat) (x : CoreSt) : (s.setCore c x).win = s.win := (rfl)
@[simp] theorem State.setCore_kvw (s : State) (c : Nat) (x : CoreSt) : (s.setCore c x).kvw = s.kvw := (rfl)
@[simp] theorem State.setCore_kv (s : State) (c : Nat) (x : CoreSt) : (s.setCore c x).kv = s.kv := (rfl)
@[simp] theorem State.setCore_vce (s : State) (c : Nat) (x : CoreSt) : (s.setCore c x).vce = s.vce := (rfl)
@[simp] theorem State.setCore_lp (s : State) (c : Nat) (x : CoreSt) : (s.setCore c x).lp = s.lp := (rfl)
@[simp] theorem State.setCore_stw (s : State) (c : Nat) (x : CoreSt) : (s.setCore c x).stw = s.stw := (rfl)
@[simp] theorem State.setCore_hst (s : State) (c : Nat) (x : CoreSt) : (s.setCore c x).hst = s.hst := (rfl)
@[simp] theorem State.setCore_sec (s : State) (c : Nat) (x : CoreSt) : (s.setCore c x).sec = s.sec := (rfl)
@[simp] theorem State.setCore_clk (s : State) (c : Nat) (x : CoreSt) : (s.setCore c x).clk = s.clk := (rfl)
@[simp] theorem State.setCore_rst (s : State) (c : Nat) (x : CoreSt) : (s.setCore c x).rst = s.rst := (rfl)
@[simp] theorem State.setCore_msixTab (s : State) (c : Nat) (x : CoreSt) : (s.setCore c x).msixTab = s.msixTab := (rfl)
@[simp] theorem State.setCore_pba (s : State) (c : Nat) (x : CoreSt) : (s.setCore c x).pba = s.pba := (rfl)
@[simp] theorem State.setCore_out (s : State) (c : Nat) (x : CoreSt) : (s.setCore c x).out = s.out := (rfl)
@[simp] theorem State.setCore_free (s : State) (c : Nat) (x : CoreSt) : (s.setCore c x).free = s.free := (rfl)
@[simp] theorem State.setCore_pending (s : State) (c : Nat) (x : CoreSt) : (s.setCore c x).pending = s.pending := (rfl)
@[simp] theorem State.setCore_get (s : State) (c : Nat) (x : CoreSt) (f : Field) (u i : Nat) : (s.setCore c x).get f u i = s.get f u i := (rfl)
@[simp] theorem State.setCore_cores (s : State) (c : Nat) (x : CoreSt) : (s.setCore c x).cores = KMap.set s.cores c x := (rfl)

/-! ### setDie -/

@[simp] theorem State.setDie_ident (s : State) (d : Nat) (x : DieSt) : (s.setDie d x).ident = s.ident := (rfl)
@[simp] theorem State.setDie_flds (s : State) (d : Nat) (x : DieSt) : (s.setDie d x).flds = s.flds := (rfl)
@[simp] theorem State.setDie_mem (s : State) (d : Nat) (x : DieSt) : (s.setDie d x).mem = s.mem := (rfl)
@[simp] theorem State.setDie_poison (s : State) (d : Nat) (x : DieSt) : (s.setDie d x).poison = s.poison := (rfl)
@[simp] theorem State.setDie_str (s : State) (d : Nat) (x : DieSt) : (s.setDie d x).str = s.str := (rfl)
@[simp] theorem State.setDie_beat (s : State) (d : Nat) (x : DieSt) : (s.setDie d x).beat = s.beat := (rfl)
@[simp] theorem State.setDie_log (s : State) (d : Nat) (x : DieSt) : (s.setDie d x).log = s.log := (rfl)
@[simp] theorem State.setDie_cores (s : State) (d : Nat) (x : DieSt) : (s.setDie d x).cores = s.cores := (rfl)
@[simp] theorem State.setDie_steer (s : State) (d : Nat) (x : DieSt) : (s.setDie d x).steer = s.steer := (rfl)
@[simp] theorem State.setDie_totals (s : State) (d : Nat) (x : DieSt) : (s.setDie d x).totals = s.totals := (rfl)
@[simp] theorem State.setDie_ownTot (s : State) (d : Nat) (x : DieSt) : (s.setDie d x).ownTot = s.ownTot := (rfl)
@[simp] theorem State.setDie_steerPol (s : State) (d : Nat) (x : DieSt) : (s.setDie d x).steerPol = s.steerPol := (rfl)
@[simp] theorem State.setDie_upd (s : State) (d : Nat) (x : DieSt) : (s.setDie d x).upd = s.upd := (rfl)
@[simp] theorem State.setDie_skip (s : State) (d : Nat) (x : DieSt) : (s.setDie d x).skip = s.skip := (rfl)
@[simp] theorem State.setDie_que (s : State) (d : Nat) (x : DieSt) : (s.setDie d x).que = s.que := (rfl)
@[simp] theorem State.setDie_fab (s : State) (d : Nat) (x : DieSt) : (s.setDie d x).fab = s.fab := (rfl)
@[simp] theorem State.setDie_coll (s : State) (d : Nat) (x : DieSt) : (s.setDie d x).coll = s.coll := (rfl)
@[simp] theorem State.setDie_esc (s : State) (d : Nat) (x : DieSt) : (s.setDie d x).esc = s.esc := (rfl)
@[simp] theorem State.setDie_stook (s : State) (d : Nat) (x : DieSt) : (s.setDie d x).stook = s.stook := (rfl)
@[simp] theorem State.setDie_win (s : State) (d : Nat) (x : DieSt) : (s.setDie d x).win = s.win := (rfl)
@[simp] theorem State.setDie_kvw (s : State) (d : Nat) (x : DieSt) : (s.setDie d x).kvw = s.kvw := (rfl)
@[simp] theorem State.setDie_kv (s : State) (d : Nat) (x : DieSt) : (s.setDie d x).kv = s.kv := (rfl)
@[simp] theorem State.setDie_vce (s : State) (d : Nat) (x : DieSt) : (s.setDie d x).vce = s.vce := (rfl)
@[simp] theorem State.setDie_lp (s : State) (d : Nat) (x : DieSt) : (s.setDie d x).lp = s.lp := (rfl)
@[simp] theorem State.setDie_stw (s : State) (d : Nat) (x : DieSt) : (s.setDie d x).stw = s.stw := (rfl)
@[simp] theorem State.setDie_hst (s : State) (d : Nat) (x : DieSt) : (s.setDie d x).hst = s.hst := (rfl)
@[simp] theorem State.setDie_sec (s : State) (d : Nat) (x : DieSt) : (s.setDie d x).sec = s.sec := (rfl)
@[simp] theorem State.setDie_clk (s : State) (d : Nat) (x : DieSt) : (s.setDie d x).clk = s.clk := (rfl)
@[simp] theorem State.setDie_rst (s : State) (d : Nat) (x : DieSt) : (s.setDie d x).rst = s.rst := (rfl)
@[simp] theorem State.setDie_msixTab (s : State) (d : Nat) (x : DieSt) : (s.setDie d x).msixTab = s.msixTab := (rfl)
@[simp] theorem State.setDie_pba (s : State) (d : Nat) (x : DieSt) : (s.setDie d x).pba = s.pba := (rfl)
@[simp] theorem State.setDie_out (s : State) (d : Nat) (x : DieSt) : (s.setDie d x).out = s.out := (rfl)
@[simp] theorem State.setDie_free (s : State) (d : Nat) (x : DieSt) : (s.setDie d x).free = s.free := (rfl)
@[simp] theorem State.setDie_pending (s : State) (d : Nat) (x : DieSt) : (s.setDie d x).pending = s.pending := (rfl)
@[simp] theorem State.setDie_get (s : State) (d : Nat) (x : DieSt) (f : Field) (u i : Nat) : (s.setDie d x).get f u i = s.get f u i := (rfl)
@[simp] theorem State.setDie_dies (s : State) (d : Nat) (x : DieSt) : (s.setDie d x).dies = KMap.set s.dies d x := (rfl)

/-! ### setStk -/

@[simp] theorem State.setStk_ident (s : State) (ld : Nat) (x : StookSt) : (s.setStk ld x).ident = s.ident := (rfl)
@[simp] theorem State.setStk_flds (s : State) (ld : Nat) (x : StookSt) : (s.setStk ld x).flds = s.flds := (rfl)
@[simp] theorem State.setStk_mem (s : State) (ld : Nat) (x : StookSt) : (s.setStk ld x).mem = s.mem := (rfl)
@[simp] theorem State.setStk_poison (s : State) (ld : Nat) (x : StookSt) : (s.setStk ld x).poison = s.poison := (rfl)
@[simp] theorem State.setStk_str (s : State) (ld : Nat) (x : StookSt) : (s.setStk ld x).str = s.str := (rfl)
@[simp] theorem State.setStk_beat (s : State) (ld : Nat) (x : StookSt) : (s.setStk ld x).beat = s.beat := (rfl)
@[simp] theorem State.setStk_log (s : State) (ld : Nat) (x : StookSt) : (s.setStk ld x).log = s.log := (rfl)
@[simp] theorem State.setStk_cores (s : State) (ld : Nat) (x : StookSt) : (s.setStk ld x).cores = s.cores := (rfl)
@[simp] theorem State.setStk_dies (s : State) (ld : Nat) (x : StookSt) : (s.setStk ld x).dies = s.dies := (rfl)
@[simp] theorem State.setStk_steer (s : State) (ld : Nat) (x : StookSt) : (s.setStk ld x).steer = s.steer := (rfl)
@[simp] theorem State.setStk_totals (s : State) (ld : Nat) (x : StookSt) : (s.setStk ld x).totals = s.totals := (rfl)
@[simp] theorem State.setStk_ownTot (s : State) (ld : Nat) (x : StookSt) : (s.setStk ld x).ownTot = s.ownTot := (rfl)
@[simp] theorem State.setStk_steerPol (s : State) (ld : Nat) (x : StookSt) : (s.setStk ld x).steerPol = s.steerPol := (rfl)
@[simp] theorem State.setStk_upd (s : State) (ld : Nat) (x : StookSt) : (s.setStk ld x).upd = s.upd := (rfl)
@[simp] theorem State.setStk_skip (s : State) (ld : Nat) (x : StookSt) : (s.setStk ld x).skip = s.skip := (rfl)
@[simp] theorem State.setStk_que (s : State) (ld : Nat) (x : StookSt) : (s.setStk ld x).que = s.que := (rfl)
@[simp] theorem State.setStk_fab (s : State) (ld : Nat) (x : StookSt) : (s.setStk ld x).fab = s.fab := (rfl)
@[simp] theorem State.setStk_coll (s : State) (ld : Nat) (x : StookSt) : (s.setStk ld x).coll = s.coll := (rfl)
@[simp] theorem State.setStk_esc (s : State) (ld : Nat) (x : StookSt) : (s.setStk ld x).esc = s.esc := (rfl)
@[simp] theorem State.setStk_win (s : State) (ld : Nat) (x : StookSt) : (s.setStk ld x).win = s.win := (rfl)
@[simp] theorem State.setStk_kvw (s : State) (ld : Nat) (x : StookSt) : (s.setStk ld x).kvw = s.kvw := (rfl)
@[simp] theorem State.setStk_kv (s : State) (ld : Nat) (x : StookSt) : (s.setStk ld x).kv = s.kv := (rfl)
@[simp] theorem State.setStk_vce (s : State) (ld : Nat) (x : StookSt) : (s.setStk ld x).vce = s.vce := (rfl)
@[simp] theorem State.setStk_lp (s : State) (ld : Nat) (x : StookSt) : (s.setStk ld x).lp = s.lp := (rfl)
@[simp] theorem State.setStk_stw (s : State) (ld : Nat) (x : StookSt) : (s.setStk ld x).stw = s.stw := (rfl)
@[simp] theorem State.setStk_hst (s : State) (ld : Nat) (x : StookSt) : (s.setStk ld x).hst = s.hst := (rfl)
@[simp] theorem State.setStk_sec (s : State) (ld : Nat) (x : StookSt) : (s.setStk ld x).sec = s.sec := (rfl)
@[simp] theorem State.setStk_clk (s : State) (ld : Nat) (x : StookSt) : (s.setStk ld x).clk = s.clk := (rfl)
@[simp] theorem State.setStk_rst (s : State) (ld : Nat) (x : StookSt) : (s.setStk ld x).rst = s.rst := (rfl)
@[simp] theorem State.setStk_msixTab (s : State) (ld : Nat) (x : StookSt) : (s.setStk ld x).msixTab = s.msixTab := (rfl)
@[simp] theorem State.setStk_pba (s : State) (ld : Nat) (x : StookSt) : (s.setStk ld x).pba = s.pba := (rfl)
@[simp] theorem State.setStk_out (s : State) (ld : Nat) (x : StookSt) : (s.setStk ld x).out = s.out := (rfl)
@[simp] theorem State.setStk_free (s : State) (ld : Nat) (x : StookSt) : (s.setStk ld x).free = s.free := (rfl)
@[simp] theorem State.setStk_pending (s : State) (ld : Nat) (x : StookSt) : (s.setStk ld x).pending = s.pending := (rfl)
@[simp] theorem State.setStk_get (s : State) (ld : Nat) (x : StookSt) (f : Field) (u i : Nat) : (s.setStk ld x).get f u i = s.get f u i := (rfl)
@[simp] theorem State.setStk_stook (s : State) (ld : Nat) (x : StookSt) : (s.setStk ld x).stook = KMap.set s.stook ld x := (rfl)

/-! ### setWin -/

@[simp] theorem State.setWin_ident (s : State) (clu : Nat) (x : WinSt) : (s.setWin clu x).ident = s.ident := (rfl)
@[simp] theorem State.setWin_flds (s : State) (clu : Nat) (x : WinSt) : (s.setWin clu x).flds = s.flds := (rfl)
@[simp] theorem State.setWin_mem (s : State) (clu : Nat) (x : WinSt) : (s.setWin clu x).mem = s.mem := (rfl)
@[simp] theorem State.setWin_poison (s : State) (clu : Nat) (x : WinSt) : (s.setWin clu x).poison = s.poison := (rfl)
@[simp] theorem State.setWin_str (s : State) (clu : Nat) (x : WinSt) : (s.setWin clu x).str = s.str := (rfl)
@[simp] theorem State.setWin_beat (s : State) (clu : Nat) (x : WinSt) : (s.setWin clu x).beat = s.beat := (rfl)
@[simp] theorem State.setWin_log (s : State) (clu : Nat) (x : WinSt) : (s.setWin clu x).log = s.log := (rfl)
@[simp] theorem State.setWin_cores (s : State) (clu : Nat) (x : WinSt) : (s.setWin clu x).cores = s.cores := (rfl)
@[simp] theorem State.setWin_dies (s : State) (clu : Nat) (x : WinSt) : (s.setWin clu x).dies = s.dies := (rfl)
@[simp] theorem State.setWin_steer (s : State) (clu : Nat) (x : WinSt) : (s.setWin clu x).steer = s.steer := (rfl)
@[simp] theorem State.setWin_totals (s : State) (clu : Nat) (x : WinSt) : (s.setWin clu x).totals = s.totals := (rfl)
@[simp] theorem State.setWin_ownTot (s : State) (clu : Nat) (x : WinSt) : (s.setWin clu x).ownTot = s.ownTot := (rfl)
@[simp] theorem State.setWin_steerPol (s : State) (clu : Nat) (x : WinSt) : (s.setWin clu x).steerPol = s.steerPol := (rfl)
@[simp] theorem State.setWin_upd (s : State) (clu : Nat) (x : WinSt) : (s.setWin clu x).upd = s.upd := (rfl)
@[simp] theorem State.setWin_skip (s : State) (clu : Nat) (x : WinSt) : (s.setWin clu x).skip = s.skip := (rfl)
@[simp] theorem State.setWin_que (s : State) (clu : Nat) (x : WinSt) : (s.setWin clu x).que = s.que := (rfl)
@[simp] theorem State.setWin_fab (s : State) (clu : Nat) (x : WinSt) : (s.setWin clu x).fab = s.fab := (rfl)
@[simp] theorem State.setWin_coll (s : State) (clu : Nat) (x : WinSt) : (s.setWin clu x).coll = s.coll := (rfl)
@[simp] theorem State.setWin_esc (s : State) (clu : Nat) (x : WinSt) : (s.setWin clu x).esc = s.esc := (rfl)
@[simp] theorem State.setWin_stook (s : State) (clu : Nat) (x : WinSt) : (s.setWin clu x).stook = s.stook := (rfl)
@[simp] theorem State.setWin_kvw (s : State) (clu : Nat) (x : WinSt) : (s.setWin clu x).kvw = s.kvw := (rfl)
@[simp] theorem State.setWin_kv (s : State) (clu : Nat) (x : WinSt) : (s.setWin clu x).kv = s.kv := (rfl)
@[simp] theorem State.setWin_vce (s : State) (clu : Nat) (x : WinSt) : (s.setWin clu x).vce = s.vce := (rfl)
@[simp] theorem State.setWin_lp (s : State) (clu : Nat) (x : WinSt) : (s.setWin clu x).lp = s.lp := (rfl)
@[simp] theorem State.setWin_stw (s : State) (clu : Nat) (x : WinSt) : (s.setWin clu x).stw = s.stw := (rfl)
@[simp] theorem State.setWin_hst (s : State) (clu : Nat) (x : WinSt) : (s.setWin clu x).hst = s.hst := (rfl)
@[simp] theorem State.setWin_sec (s : State) (clu : Nat) (x : WinSt) : (s.setWin clu x).sec = s.sec := (rfl)
@[simp] theorem State.setWin_clk (s : State) (clu : Nat) (x : WinSt) : (s.setWin clu x).clk = s.clk := (rfl)
@[simp] theorem State.setWin_rst (s : State) (clu : Nat) (x : WinSt) : (s.setWin clu x).rst = s.rst := (rfl)
@[simp] theorem State.setWin_msixTab (s : State) (clu : Nat) (x : WinSt) : (s.setWin clu x).msixTab = s.msixTab := (rfl)
@[simp] theorem State.setWin_pba (s : State) (clu : Nat) (x : WinSt) : (s.setWin clu x).pba = s.pba := (rfl)
@[simp] theorem State.setWin_out (s : State) (clu : Nat) (x : WinSt) : (s.setWin clu x).out = s.out := (rfl)
@[simp] theorem State.setWin_free (s : State) (clu : Nat) (x : WinSt) : (s.setWin clu x).free = s.free := (rfl)
@[simp] theorem State.setWin_pending (s : State) (clu : Nat) (x : WinSt) : (s.setWin clu x).pending = s.pending := (rfl)
@[simp] theorem State.setWin_get (s : State) (clu : Nat) (x : WinSt) (f : Field) (u i : Nat) : (s.setWin clu x).get f u i = s.get f u i := (rfl)
@[simp] theorem State.setWin_win (s : State) (clu : Nat) (x : WinSt) : (s.setWin clu x).win = KMap.set s.win clu x := (rfl)

/-! ### setKvw -/

@[simp] theorem State.setKvw_ident (s : State) (clu : Nat) (x : KvwSt) : (s.setKvw clu x).ident = s.ident := (rfl)
@[simp] theorem State.setKvw_flds (s : State) (clu : Nat) (x : KvwSt) : (s.setKvw clu x).flds = s.flds := (rfl)
@[simp] theorem State.setKvw_mem (s : State) (clu : Nat) (x : KvwSt) : (s.setKvw clu x).mem = s.mem := (rfl)
@[simp] theorem State.setKvw_poison (s : State) (clu : Nat) (x : KvwSt) : (s.setKvw clu x).poison = s.poison := (rfl)
@[simp] theorem State.setKvw_str (s : State) (clu : Nat) (x : KvwSt) : (s.setKvw clu x).str = s.str := (rfl)
@[simp] theorem State.setKvw_beat (s : State) (clu : Nat) (x : KvwSt) : (s.setKvw clu x).beat = s.beat := (rfl)
@[simp] theorem State.setKvw_log (s : State) (clu : Nat) (x : KvwSt) : (s.setKvw clu x).log = s.log := (rfl)
@[simp] theorem State.setKvw_cores (s : State) (clu : Nat) (x : KvwSt) : (s.setKvw clu x).cores = s.cores := (rfl)
@[simp] theorem State.setKvw_dies (s : State) (clu : Nat) (x : KvwSt) : (s.setKvw clu x).dies = s.dies := (rfl)
@[simp] theorem State.setKvw_steer (s : State) (clu : Nat) (x : KvwSt) : (s.setKvw clu x).steer = s.steer := (rfl)
@[simp] theorem State.setKvw_totals (s : State) (clu : Nat) (x : KvwSt) : (s.setKvw clu x).totals = s.totals := (rfl)
@[simp] theorem State.setKvw_ownTot (s : State) (clu : Nat) (x : KvwSt) : (s.setKvw clu x).ownTot = s.ownTot := (rfl)
@[simp] theorem State.setKvw_steerPol (s : State) (clu : Nat) (x : KvwSt) : (s.setKvw clu x).steerPol = s.steerPol := (rfl)
@[simp] theorem State.setKvw_upd (s : State) (clu : Nat) (x : KvwSt) : (s.setKvw clu x).upd = s.upd := (rfl)
@[simp] theorem State.setKvw_skip (s : State) (clu : Nat) (x : KvwSt) : (s.setKvw clu x).skip = s.skip := (rfl)
@[simp] theorem State.setKvw_que (s : State) (clu : Nat) (x : KvwSt) : (s.setKvw clu x).que = s.que := (rfl)
@[simp] theorem State.setKvw_fab (s : State) (clu : Nat) (x : KvwSt) : (s.setKvw clu x).fab = s.fab := (rfl)
@[simp] theorem State.setKvw_coll (s : State) (clu : Nat) (x : KvwSt) : (s.setKvw clu x).coll = s.coll := (rfl)
@[simp] theorem State.setKvw_esc (s : State) (clu : Nat) (x : KvwSt) : (s.setKvw clu x).esc = s.esc := (rfl)
@[simp] theorem State.setKvw_stook (s : State) (clu : Nat) (x : KvwSt) : (s.setKvw clu x).stook = s.stook := (rfl)
@[simp] theorem State.setKvw_win (s : State) (clu : Nat) (x : KvwSt) : (s.setKvw clu x).win = s.win := (rfl)
@[simp] theorem State.setKvw_kv (s : State) (clu : Nat) (x : KvwSt) : (s.setKvw clu x).kv = s.kv := (rfl)
@[simp] theorem State.setKvw_vce (s : State) (clu : Nat) (x : KvwSt) : (s.setKvw clu x).vce = s.vce := (rfl)
@[simp] theorem State.setKvw_lp (s : State) (clu : Nat) (x : KvwSt) : (s.setKvw clu x).lp = s.lp := (rfl)
@[simp] theorem State.setKvw_stw (s : State) (clu : Nat) (x : KvwSt) : (s.setKvw clu x).stw = s.stw := (rfl)
@[simp] theorem State.setKvw_hst (s : State) (clu : Nat) (x : KvwSt) : (s.setKvw clu x).hst = s.hst := (rfl)
@[simp] theorem State.setKvw_sec (s : State) (clu : Nat) (x : KvwSt) : (s.setKvw clu x).sec = s.sec := (rfl)
@[simp] theorem State.setKvw_clk (s : State) (clu : Nat) (x : KvwSt) : (s.setKvw clu x).clk = s.clk := (rfl)
@[simp] theorem State.setKvw_rst (s : State) (clu : Nat) (x : KvwSt) : (s.setKvw clu x).rst = s.rst := (rfl)
@[simp] theorem State.setKvw_msixTab (s : State) (clu : Nat) (x : KvwSt) : (s.setKvw clu x).msixTab = s.msixTab := (rfl)
@[simp] theorem State.setKvw_pba (s : State) (clu : Nat) (x : KvwSt) : (s.setKvw clu x).pba = s.pba := (rfl)
@[simp] theorem State.setKvw_out (s : State) (clu : Nat) (x : KvwSt) : (s.setKvw clu x).out = s.out := (rfl)
@[simp] theorem State.setKvw_free (s : State) (clu : Nat) (x : KvwSt) : (s.setKvw clu x).free = s.free := (rfl)
@[simp] theorem State.setKvw_pending (s : State) (clu : Nat) (x : KvwSt) : (s.setKvw clu x).pending = s.pending := (rfl)
@[simp] theorem State.setKvw_get (s : State) (clu : Nat) (x : KvwSt) (f : Field) (u i : Nat) : (s.setKvw clu x).get f u i = s.get f u i := (rfl)
@[simp] theorem State.setKvw_kvw (s : State) (clu : Nat) (x : KvwSt) : (s.setKvw clu x).kvw = KMap.set s.kvw clu x := (rfl)

/-! ### setPort -/

@[simp] theorem State.setPort_ident (s : State) (p : Nat) (x : PortSt) : (s.setPort p x).ident = s.ident := (rfl)
@[simp] theorem State.setPort_flds (s : State) (p : Nat) (x : PortSt) : (s.setPort p x).flds = s.flds := (rfl)
@[simp] theorem State.setPort_mem (s : State) (p : Nat) (x : PortSt) : (s.setPort p x).mem = s.mem := (rfl)
@[simp] theorem State.setPort_poison (s : State) (p : Nat) (x : PortSt) : (s.setPort p x).poison = s.poison := (rfl)
@[simp] theorem State.setPort_str (s : State) (p : Nat) (x : PortSt) : (s.setPort p x).str = s.str := (rfl)
@[simp] theorem State.setPort_beat (s : State) (p : Nat) (x : PortSt) : (s.setPort p x).beat = s.beat := (rfl)
@[simp] theorem State.setPort_log (s : State) (p : Nat) (x : PortSt) : (s.setPort p x).log = s.log := (rfl)
@[simp] theorem State.setPort_cores (s : State) (p : Nat) (x : PortSt) : (s.setPort p x).cores = s.cores := (rfl)
@[simp] theorem State.setPort_dies (s : State) (p : Nat) (x : PortSt) : (s.setPort p x).dies = s.dies := (rfl)
@[simp] theorem State.setPort_steer (s : State) (p : Nat) (x : PortSt) : (s.setPort p x).steer = s.steer := (rfl)
@[simp] theorem State.setPort_totals (s : State) (p : Nat) (x : PortSt) : (s.setPort p x).totals = s.totals := (rfl)
@[simp] theorem State.setPort_ownTot (s : State) (p : Nat) (x : PortSt) : (s.setPort p x).ownTot = s.ownTot := (rfl)
@[simp] theorem State.setPort_steerPol (s : State) (p : Nat) (x : PortSt) : (s.setPort p x).steerPol = s.steerPol := (rfl)
@[simp] theorem State.setPort_upd (s : State) (p : Nat) (x : PortSt) : (s.setPort p x).upd = s.upd := (rfl)
@[simp] theorem State.setPort_skip (s : State) (p : Nat) (x : PortSt) : (s.setPort p x).skip = s.skip := (rfl)
@[simp] theorem State.setPort_que (s : State) (p : Nat) (x : PortSt) : (s.setPort p x).que = s.que := (rfl)
@[simp] theorem State.setPort_coll (s : State) (p : Nat) (x : PortSt) : (s.setPort p x).coll = s.coll := (rfl)
@[simp] theorem State.setPort_esc (s : State) (p : Nat) (x : PortSt) : (s.setPort p x).esc = s.esc := (rfl)
@[simp] theorem State.setPort_stook (s : State) (p : Nat) (x : PortSt) : (s.setPort p x).stook = s.stook := (rfl)
@[simp] theorem State.setPort_win (s : State) (p : Nat) (x : PortSt) : (s.setPort p x).win = s.win := (rfl)
@[simp] theorem State.setPort_kvw (s : State) (p : Nat) (x : PortSt) : (s.setPort p x).kvw = s.kvw := (rfl)
@[simp] theorem State.setPort_kv (s : State) (p : Nat) (x : PortSt) : (s.setPort p x).kv = s.kv := (rfl)
@[simp] theorem State.setPort_vce (s : State) (p : Nat) (x : PortSt) : (s.setPort p x).vce = s.vce := (rfl)
@[simp] theorem State.setPort_lp (s : State) (p : Nat) (x : PortSt) : (s.setPort p x).lp = s.lp := (rfl)
@[simp] theorem State.setPort_stw (s : State) (p : Nat) (x : PortSt) : (s.setPort p x).stw = s.stw := (rfl)
@[simp] theorem State.setPort_hst (s : State) (p : Nat) (x : PortSt) : (s.setPort p x).hst = s.hst := (rfl)
@[simp] theorem State.setPort_sec (s : State) (p : Nat) (x : PortSt) : (s.setPort p x).sec = s.sec := (rfl)
@[simp] theorem State.setPort_clk (s : State) (p : Nat) (x : PortSt) : (s.setPort p x).clk = s.clk := (rfl)
@[simp] theorem State.setPort_rst (s : State) (p : Nat) (x : PortSt) : (s.setPort p x).rst = s.rst := (rfl)
@[simp] theorem State.setPort_msixTab (s : State) (p : Nat) (x : PortSt) : (s.setPort p x).msixTab = s.msixTab := (rfl)
@[simp] theorem State.setPort_pba (s : State) (p : Nat) (x : PortSt) : (s.setPort p x).pba = s.pba := (rfl)
@[simp] theorem State.setPort_out (s : State) (p : Nat) (x : PortSt) : (s.setPort p x).out = s.out := (rfl)
@[simp] theorem State.setPort_free (s : State) (p : Nat) (x : PortSt) : (s.setPort p x).free = s.free := (rfl)
@[simp] theorem State.setPort_pending (s : State) (p : Nat) (x : PortSt) : (s.setPort p x).pending = s.pending := (rfl)
@[simp] theorem State.setPort_get (s : State) (p : Nat) (x : PortSt) (f : Field) (u i : Nat) : (s.setPort p x).get f u i = s.get f u i := (rfl)
@[simp] theorem State.setPort_fab (s : State) (p : Nat) (x : PortSt) : (s.setPort p x).fab = { s.fab with ports := KMap.set s.fab.ports p x } := (rfl)

/-! ### mapStr -/

@[simp] theorem State.mapStr_ident (s : State) (f : StrSt → StrSt) : (s.mapStr f).ident = s.ident := (rfl)
@[simp] theorem State.mapStr_flds (s : State) (f : StrSt → StrSt) : (s.mapStr f).flds = s.flds := (rfl)
@[simp] theorem State.mapStr_mem (s : State) (f : StrSt → StrSt) : (s.mapStr f).mem = s.mem := (rfl)
@[simp] theorem State.mapStr_poison (s : State) (f : StrSt → StrSt) : (s.mapStr f).poison = s.poison := (rfl)
@[simp] theorem State.mapStr_beat (s : State) (f : StrSt → StrSt) : (s.mapStr f).beat = s.beat := (rfl)
@[simp] theorem State.mapStr_log (s : State) (f : StrSt → StrSt) : (s.mapStr f).log = s.log := (rfl)
@[simp] theorem State.mapStr_cores (s : State) (f : StrSt → StrSt) : (s.mapStr f).cores = s.cores := (rfl)
@[simp] theorem State.mapStr_dies (s : State) (f : StrSt → StrSt) : (s.mapStr f).dies = s.dies := (rfl)
@[simp] theorem State.mapStr_steer (s : State) (f : StrSt → StrSt) : (s.mapStr f).steer = s.steer := (rfl)
@[simp] theorem State.mapStr_totals (s : State) (f : StrSt → StrSt) : (s.mapStr f).totals = s.totals := (rfl)
@[simp] theorem State.mapStr_ownTot (s : State) (f : StrSt → StrSt) : (s.mapStr f).ownTot = s.ownTot := (rfl)
@[simp] theorem State.mapStr_steerPol (s : State) (f : StrSt → StrSt) : (s.mapStr f).steerPol = s.steerPol := (rfl)
@[simp] theorem State.mapStr_upd (s : State) (f : StrSt → StrSt) : (s.mapStr f).upd = s.upd := (rfl)
@[simp] theorem State.mapStr_skip (s : State) (f : StrSt → StrSt) : (s.mapStr f).skip = s.skip := (rfl)
@[simp] theorem State.mapStr_que (s : State) (f : StrSt → StrSt) : (s.mapStr f).que = s.que := (rfl)
@[simp] theorem State.mapStr_fab (s : State) (f : StrSt → StrSt) : (s.mapStr f).fab = s.fab := (rfl)
@[simp] theorem State.mapStr_coll (s : State) (f : StrSt → StrSt) : (s.mapStr f).coll = s.coll := (rfl)
@[simp] theorem State.mapStr_esc (s : State) (f : StrSt → StrSt) : (s.mapStr f).esc = s.esc := (rfl)
@[simp] theorem State.mapStr_stook (s : State) (f : StrSt → StrSt) : (s.mapStr f).stook = s.stook := (rfl)
@[simp] theorem State.mapStr_win (s : State) (f : StrSt → StrSt) : (s.mapStr f).win = s.win := (rfl)
@[simp] theorem State.mapStr_kvw (s : State) (f : StrSt → StrSt) : (s.mapStr f).kvw = s.kvw := (rfl)
@[simp] theorem State.mapStr_kv (s : State) (f : StrSt → StrSt) : (s.mapStr f).kv = s.kv := (rfl)
@[simp] theorem State.mapStr_vce (s : State) (f : StrSt → StrSt) : (s.mapStr f).vce = s.vce := (rfl)
@[simp] theorem State.mapStr_lp (s : State) (f : StrSt → StrSt) : (s.mapStr f).lp = s.lp := (rfl)
@[simp] theorem State.mapStr_stw (s : State) (f : StrSt → StrSt) : (s.mapStr f).stw = s.stw := (rfl)
@[simp] theorem State.mapStr_hst (s : State) (f : StrSt → StrSt) : (s.mapStr f).hst = s.hst := (rfl)
@[simp] theorem State.mapStr_sec (s : State) (f : StrSt → StrSt) : (s.mapStr f).sec = s.sec := (rfl)
@[simp] theorem State.mapStr_clk (s : State) (f : StrSt → StrSt) : (s.mapStr f).clk = s.clk := (rfl)
@[simp] theorem State.mapStr_rst (s : State) (f : StrSt → StrSt) : (s.mapStr f).rst = s.rst := (rfl)
@[simp] theorem State.mapStr_msixTab (s : State) (f : StrSt → StrSt) : (s.mapStr f).msixTab = s.msixTab := (rfl)
@[simp] theorem State.mapStr_pba (s : State) (f : StrSt → StrSt) : (s.mapStr f).pba = s.pba := (rfl)
@[simp] theorem State.mapStr_out (s : State) (f : StrSt → StrSt) : (s.mapStr f).out = s.out := (rfl)
@[simp] theorem State.mapStr_free (s : State) (f : StrSt → StrSt) : (s.mapStr f).free = s.free := (rfl)
@[simp] theorem State.mapStr_pending (s : State) (f : StrSt → StrSt) : (s.mapStr f).pending = s.pending := (rfl)
@[simp] theorem State.mapStr_get (s : State) (h : StrSt → StrSt) (f : Field) (u i : Nat) : (s.mapStr h).get f u i = s.get f u i := (rfl)
@[simp] theorem State.mapStr_str (s : State) (f : StrSt → StrSt) : (s.mapStr f).str = f s.str := (rfl)

/-! ### mapBeat -/

@[simp] theorem State.mapBeat_ident (s : State) (f : BeatSt → BeatSt) : (s.mapBeat f).ident = s.ident := (rfl)
@[simp] theorem State.mapBeat_flds (s : State) (f : BeatSt → BeatSt) : (s.mapBeat f).flds = s.flds := (rfl)
@[simp] theorem State.mapBeat_mem (s : State) (f : BeatSt → BeatSt) : (s.mapBeat f).mem = s.mem := (rfl)
@[simp] theorem State.mapBeat_poison (s : State) (f : BeatSt → BeatSt) : (s.mapBeat f).poison = s.poison := (rfl)
@[simp] theorem State.mapBeat_str (s : State) (f : BeatSt → BeatSt) : (s.mapBeat f).str = s.str := (rfl)
@[simp] theorem State.mapBeat_log (s : State) (f : BeatSt → BeatSt) : (s.mapBeat f).log = s.log := (rfl)
@[simp] theorem State.mapBeat_cores (s : State) (f : BeatSt → BeatSt) : (s.mapBeat f).cores = s.cores := (rfl)
@[simp] theorem State.mapBeat_dies (s : State) (f : BeatSt → BeatSt) : (s.mapBeat f).dies = s.dies := (rfl)
@[simp] theorem State.mapBeat_steer (s : State) (f : BeatSt → BeatSt) : (s.mapBeat f).steer = s.steer := (rfl)
@[simp] theorem State.mapBeat_totals (s : State) (f : BeatSt → BeatSt) : (s.mapBeat f).totals = s.totals := (rfl)
@[simp] theorem State.mapBeat_ownTot (s : State) (f : BeatSt → BeatSt) : (s.mapBeat f).ownTot = s.ownTot := (rfl)
@[simp] theorem State.mapBeat_steerPol (s : State) (f : BeatSt → BeatSt) : (s.mapBeat f).steerPol = s.steerPol := (rfl)
@[simp] theorem State.mapBeat_upd (s : State) (f : BeatSt → BeatSt) : (s.mapBeat f).upd = s.upd := (rfl)
@[simp] theorem State.mapBeat_skip (s : State) (f : BeatSt → BeatSt) : (s.mapBeat f).skip = s.skip := (rfl)
@[simp] theorem State.mapBeat_que (s : State) (f : BeatSt → BeatSt) : (s.mapBeat f).que = s.que := (rfl)
@[simp] theorem State.mapBeat_fab (s : State) (f : BeatSt → BeatSt) : (s.mapBeat f).fab = s.fab := (rfl)
@[simp] theorem State.mapBeat_coll (s : State) (f : BeatSt → BeatSt) : (s.mapBeat f).coll = s.coll := (rfl)
@[simp] theorem State.mapBeat_esc (s : State) (f : BeatSt → BeatSt) : (s.mapBeat f).esc = s.esc := (rfl)
@[simp] theorem State.mapBeat_stook (s : State) (f : BeatSt → BeatSt) : (s.mapBeat f).stook = s.stook := (rfl)
@[simp] theorem State.mapBeat_win (s : State) (f : BeatSt → BeatSt) : (s.mapBeat f).win = s.win := (rfl)
@[simp] theorem State.mapBeat_kvw (s : State) (f : BeatSt → BeatSt) : (s.mapBeat f).kvw = s.kvw := (rfl)
@[simp] theorem State.mapBeat_kv (s : State) (f : BeatSt → BeatSt) : (s.mapBeat f).kv = s.kv := (rfl)
@[simp] theorem State.mapBeat_vce (s : State) (f : BeatSt → BeatSt) : (s.mapBeat f).vce = s.vce := (rfl)
@[simp] theorem State.mapBeat_lp (s : State) (f : BeatSt → BeatSt) : (s.mapBeat f).lp = s.lp := (rfl)
@[simp] theorem State.mapBeat_stw (s : State) (f : BeatSt → BeatSt) : (s.mapBeat f).stw = s.stw := (rfl)
@[simp] theorem State.mapBeat_hst (s : State) (f : BeatSt → BeatSt) : (s.mapBeat f).hst = s.hst := (rfl)
@[simp] theorem State.mapBeat_sec (s : State) (f : BeatSt → BeatSt) : (s.mapBeat f).sec = s.sec := (rfl)
@[simp] theorem State.mapBeat_clk (s : State) (f : BeatSt → BeatSt) : (s.mapBeat f).clk = s.clk := (rfl)
@[simp] theorem State.mapBeat_rst (s : State) (f : BeatSt → BeatSt) : (s.mapBeat f).rst = s.rst := (rfl)
@[simp] theorem State.mapBeat_msixTab (s : State) (f : BeatSt → BeatSt) : (s.mapBeat f).msixTab = s.msixTab := (rfl)
@[simp] theorem State.mapBeat_pba (s : State) (f : BeatSt → BeatSt) : (s.mapBeat f).pba = s.pba := (rfl)
@[simp] theorem State.mapBeat_out (s : State) (f : BeatSt → BeatSt) : (s.mapBeat f).out = s.out := (rfl)
@[simp] theorem State.mapBeat_free (s : State) (f : BeatSt → BeatSt) : (s.mapBeat f).free = s.free := (rfl)
@[simp] theorem State.mapBeat_pending (s : State) (f : BeatSt → BeatSt) : (s.mapBeat f).pending = s.pending := (rfl)
@[simp] theorem State.mapBeat_get (s : State) (h : BeatSt → BeatSt) (f : Field) (u i : Nat) : (s.mapBeat h).get f u i = s.get f u i := (rfl)
@[simp] theorem State.mapBeat_beat (s : State) (f : BeatSt → BeatSt) : (s.mapBeat f).beat = f s.beat := (rfl)

/-! ### mapLog -/

@[simp] theorem State.mapLog_ident (s : State) (f : LogSt → LogSt) : (s.mapLog f).ident = s.ident := (rfl)
@[simp] theorem State.mapLog_flds (s : State) (f : LogSt → LogSt) : (s.mapLog f).flds = s.flds := (rfl)
@[simp] theorem State.mapLog_mem (s : State) (f : LogSt → LogSt) : (s.mapLog f).mem = s.mem := (rfl)
@[simp] theorem State.mapLog_poison (s : State) (f : LogSt → LogSt) : (s.mapLog f).poison = s.poison := (rfl)
@[simp] theorem State.mapLog_str (s : State) (f : LogSt → LogSt) : (s.mapLog f).str = s.str := (rfl)
@[simp] theorem State.mapLog_beat (s : State) (f : LogSt → LogSt) : (s.mapLog f).beat = s.beat := (rfl)
@[simp] theorem State.mapLog_cores (s : State) (f : LogSt → LogSt) : (s.mapLog f).cores = s.cores := (rfl)
@[simp] theorem State.mapLog_dies (s : State) (f : LogSt → LogSt) : (s.mapLog f).dies = s.dies := (rfl)
@[simp] theorem State.mapLog_steer (s : State) (f : LogSt → LogSt) : (s.mapLog f).steer = s.steer := (rfl)
@[simp] theorem State.mapLog_totals (s : State) (f : LogSt → LogSt) : (s.mapLog f).totals = s.totals := (rfl)
@[simp] theorem State.mapLog_ownTot (s : State) (f : LogSt → LogSt) : (s.mapLog f).ownTot = s.ownTot := (rfl)
@[simp] theorem State.mapLog_steerPol (s : State) (f : LogSt → LogSt) : (s.mapLog f).steerPol = s.steerPol := (rfl)
@[simp] theorem State.mapLog_upd (s : State) (f : LogSt → LogSt) : (s.mapLog f).upd = s.upd := (rfl)
@[simp] theorem State.mapLog_skip (s : State) (f : LogSt → LogSt) : (s.mapLog f).skip = s.skip := (rfl)
@[simp] theorem State.mapLog_que (s : State) (f : LogSt → LogSt) : (s.mapLog f).que = s.que := (rfl)
@[simp] theorem State.mapLog_fab (s : State) (f : LogSt → LogSt) : (s.mapLog f).fab = s.fab := (rfl)
@[simp] theorem State.mapLog_coll (s : State) (f : LogSt → LogSt) : (s.mapLog f).coll = s.coll := (rfl)
@[simp] theorem State.mapLog_esc (s : State) (f : LogSt → LogSt) : (s.mapLog f).esc = s.esc := (rfl)
@[simp] theorem State.mapLog_stook (s : State) (f : LogSt → LogSt) : (s.mapLog f).stook = s.stook := (rfl)
@[simp] theorem State.mapLog_win (s : State) (f : LogSt → LogSt) : (s.mapLog f).win = s.win := (rfl)
@[simp] theorem State.mapLog_kvw (s : State) (f : LogSt → LogSt) : (s.mapLog f).kvw = s.kvw := (rfl)
@[simp] theorem State.mapLog_kv (s : State) (f : LogSt → LogSt) : (s.mapLog f).kv = s.kv := (rfl)
@[simp] theorem State.mapLog_vce (s : State) (f : LogSt → LogSt) : (s.mapLog f).vce = s.vce := (rfl)
@[simp] theorem State.mapLog_lp (s : State) (f : LogSt → LogSt) : (s.mapLog f).lp = s.lp := (rfl)
@[simp] theorem State.mapLog_stw (s : State) (f : LogSt → LogSt) : (s.mapLog f).stw = s.stw := (rfl)
@[simp] theorem State.mapLog_hst (s : State) (f : LogSt → LogSt) : (s.mapLog f).hst = s.hst := (rfl)
@[simp] theorem State.mapLog_sec (s : State) (f : LogSt → LogSt) : (s.mapLog f).sec = s.sec := (rfl)
@[simp] theorem State.mapLog_clk (s : State) (f : LogSt → LogSt) : (s.mapLog f).clk = s.clk := (rfl)
@[simp] theorem State.mapLog_rst (s : State) (f : LogSt → LogSt) : (s.mapLog f).rst = s.rst := (rfl)
@[simp] theorem State.mapLog_msixTab (s : State) (f : LogSt → LogSt) : (s.mapLog f).msixTab = s.msixTab := (rfl)
@[simp] theorem State.mapLog_pba (s : State) (f : LogSt → LogSt) : (s.mapLog f).pba = s.pba := (rfl)
@[simp] theorem State.mapLog_out (s : State) (f : LogSt → LogSt) : (s.mapLog f).out = s.out := (rfl)
@[simp] theorem State.mapLog_free (s : State) (f : LogSt → LogSt) : (s.mapLog f).free = s.free := (rfl)
@[simp] theorem State.mapLog_pending (s : State) (f : LogSt → LogSt) : (s.mapLog f).pending = s.pending := (rfl)
@[simp] theorem State.mapLog_get (s : State) (h : LogSt → LogSt) (f : Field) (u i : Nat) : (s.mapLog h).get f u i = s.get f u i := (rfl)
@[simp] theorem State.mapLog_log (s : State) (f : LogSt → LogSt) : (s.mapLog f).log = f s.log := (rfl)

/-! ### mapRst -/

@[simp] theorem State.mapRst_ident (s : State) (f : RstSt → RstSt) : (s.mapRst f).ident = s.ident := (rfl)
@[simp] theorem State.mapRst_flds (s : State) (f : RstSt → RstSt) : (s.mapRst f).flds = s.flds := (rfl)
@[simp] theorem State.mapRst_mem (s : State) (f : RstSt → RstSt) : (s.mapRst f).mem = s.mem := (rfl)
@[simp] theorem State.mapRst_poison (s : State) (f : RstSt → RstSt) : (s.mapRst f).poison = s.poison := (rfl)
@[simp] theorem State.mapRst_str (s : State) (f : RstSt → RstSt) : (s.mapRst f).str = s.str := (rfl)
@[simp] theorem State.mapRst_beat (s : State) (f : RstSt → RstSt) : (s.mapRst f).beat = s.beat := (rfl)
@[simp] theorem State.mapRst_log (s : State) (f : RstSt → RstSt) : (s.mapRst f).log = s.log := (rfl)
@[simp] theorem State.mapRst_cores (s : State) (f : RstSt → RstSt) : (s.mapRst f).cores = s.cores := (rfl)
@[simp] theorem State.mapRst_dies (s : State) (f : RstSt → RstSt) : (s.mapRst f).dies = s.dies := (rfl)
@[simp] theorem State.mapRst_steer (s : State) (f : RstSt → RstSt) : (s.mapRst f).steer = s.steer := (rfl)
@[simp] theorem State.mapRst_totals (s : State) (f : RstSt → RstSt) : (s.mapRst f).totals = s.totals := (rfl)
@[simp] theorem State.mapRst_ownTot (s : State) (f : RstSt → RstSt) : (s.mapRst f).ownTot = s.ownTot := (rfl)
@[simp] theorem State.mapRst_steerPol (s : State) (f : RstSt → RstSt) : (s.mapRst f).steerPol = s.steerPol := (rfl)
@[simp] theorem State.mapRst_upd (s : State) (f : RstSt → RstSt) : (s.mapRst f).upd = s.upd := (rfl)
@[simp] theorem State.mapRst_skip (s : State) (f : RstSt → RstSt) : (s.mapRst f).skip = s.skip := (rfl)
@[simp] theorem State.mapRst_que (s : State) (f : RstSt → RstSt) : (s.mapRst f).que = s.que := (rfl)
@[simp] theorem State.mapRst_fab (s : State) (f : RstSt → RstSt) : (s.mapRst f).fab = s.fab := (rfl)
@[simp] theorem State.mapRst_coll (s : State) (f : RstSt → RstSt) : (s.mapRst f).coll = s.coll := (rfl)
@[simp] theorem State.mapRst_esc (s : State) (f : RstSt → RstSt) : (s.mapRst f).esc = s.esc := (rfl)
@[simp] theorem State.mapRst_stook (s : State) (f : RstSt → RstSt) : (s.mapRst f).stook = s.stook := (rfl)
@[simp] theorem State.mapRst_win (s : State) (f : RstSt → RstSt) : (s.mapRst f).win = s.win := (rfl)
@[simp] theorem State.mapRst_kvw (s : State) (f : RstSt → RstSt) : (s.mapRst f).kvw = s.kvw := (rfl)
@[simp] theorem State.mapRst_kv (s : State) (f : RstSt → RstSt) : (s.mapRst f).kv = s.kv := (rfl)
@[simp] theorem State.mapRst_vce (s : State) (f : RstSt → RstSt) : (s.mapRst f).vce = s.vce := (rfl)
@[simp] theorem State.mapRst_lp (s : State) (f : RstSt → RstSt) : (s.mapRst f).lp = s.lp := (rfl)
@[simp] theorem State.mapRst_stw (s : State) (f : RstSt → RstSt) : (s.mapRst f).stw = s.stw := (rfl)
@[simp] theorem State.mapRst_hst (s : State) (f : RstSt → RstSt) : (s.mapRst f).hst = s.hst := (rfl)
@[simp] theorem State.mapRst_sec (s : State) (f : RstSt → RstSt) : (s.mapRst f).sec = s.sec := (rfl)
@[simp] theorem State.mapRst_clk (s : State) (f : RstSt → RstSt) : (s.mapRst f).clk = s.clk := (rfl)
@[simp] theorem State.mapRst_msixTab (s : State) (f : RstSt → RstSt) : (s.mapRst f).msixTab = s.msixTab := (rfl)
@[simp] theorem State.mapRst_pba (s : State) (f : RstSt → RstSt) : (s.mapRst f).pba = s.pba := (rfl)
@[simp] theorem State.mapRst_out (s : State) (f : RstSt → RstSt) : (s.mapRst f).out = s.out := (rfl)
@[simp] theorem State.mapRst_free (s : State) (f : RstSt → RstSt) : (s.mapRst f).free = s.free := (rfl)
@[simp] theorem State.mapRst_pending (s : State) (f : RstSt → RstSt) : (s.mapRst f).pending = s.pending := (rfl)
@[simp] theorem State.mapRst_get (s : State) (h : RstSt → RstSt) (f : Field) (u i : Nat) : (s.mapRst h).get f u i = s.get f u i := (rfl)
@[simp] theorem State.mapRst_rst (s : State) (f : RstSt → RstSt) : (s.mapRst f).rst = f s.rst := (rfl)

/-! ### mapSeal -/

@[simp] theorem State.mapSeal_ident (s : State) (f : SealSt → SealSt) : (s.mapSeal f).ident = s.ident := (rfl)
@[simp] theorem State.mapSeal_flds (s : State) (f : SealSt → SealSt) : (s.mapSeal f).flds = s.flds := (rfl)
@[simp] theorem State.mapSeal_mem (s : State) (f : SealSt → SealSt) : (s.mapSeal f).mem = s.mem := (rfl)
@[simp] theorem State.mapSeal_poison (s : State) (f : SealSt → SealSt) : (s.mapSeal f).poison = s.poison := (rfl)
@[simp] theorem State.mapSeal_str (s : State) (f : SealSt → SealSt) : (s.mapSeal f).str = s.str := (rfl)
@[simp] theorem State.mapSeal_beat (s : State) (f : SealSt → SealSt) : (s.mapSeal f).beat = s.beat := (rfl)
@[simp] theorem State.mapSeal_log (s : State) (f : SealSt → SealSt) : (s.mapSeal f).log = s.log := (rfl)
@[simp] theorem State.mapSeal_cores (s : State) (f : SealSt → SealSt) : (s.mapSeal f).cores = s.cores := (rfl)
@[simp] theorem State.mapSeal_dies (s : State) (f : SealSt → SealSt) : (s.mapSeal f).dies = s.dies := (rfl)
@[simp] theorem State.mapSeal_steer (s : State) (f : SealSt → SealSt) : (s.mapSeal f).steer = s.steer := (rfl)
@[simp] theorem State.mapSeal_totals (s : State) (f : SealSt → SealSt) : (s.mapSeal f).totals = s.totals := (rfl)
@[simp] theorem State.mapSeal_ownTot (s : State) (f : SealSt → SealSt) : (s.mapSeal f).ownTot = s.ownTot := (rfl)
@[simp] theorem State.mapSeal_steerPol (s : State) (f : SealSt → SealSt) : (s.mapSeal f).steerPol = s.steerPol := (rfl)
@[simp] theorem State.mapSeal_upd (s : State) (f : SealSt → SealSt) : (s.mapSeal f).upd = s.upd := (rfl)
@[simp] theorem State.mapSeal_skip (s : State) (f : SealSt → SealSt) : (s.mapSeal f).skip = s.skip := (rfl)
@[simp] theorem State.mapSeal_que (s : State) (f : SealSt → SealSt) : (s.mapSeal f).que = s.que := (rfl)
@[simp] theorem State.mapSeal_fab (s : State) (f : SealSt → SealSt) : (s.mapSeal f).fab = s.fab := (rfl)
@[simp] theorem State.mapSeal_coll (s : State) (f : SealSt → SealSt) : (s.mapSeal f).coll = s.coll := (rfl)
@[simp] theorem State.mapSeal_esc (s : State) (f : SealSt → SealSt) : (s.mapSeal f).esc = s.esc := (rfl)
@[simp] theorem State.mapSeal_stook (s : State) (f : SealSt → SealSt) : (s.mapSeal f).stook = s.stook := (rfl)
@[simp] theorem State.mapSeal_win (s : State) (f : SealSt → SealSt) : (s.mapSeal f).win = s.win := (rfl)
@[simp] theorem State.mapSeal_kvw (s : State) (f : SealSt → SealSt) : (s.mapSeal f).kvw = s.kvw := (rfl)
@[simp] theorem State.mapSeal_kv (s : State) (f : SealSt → SealSt) : (s.mapSeal f).kv = s.kv := (rfl)
@[simp] theorem State.mapSeal_vce (s : State) (f : SealSt → SealSt) : (s.mapSeal f).vce = s.vce := (rfl)
@[simp] theorem State.mapSeal_lp (s : State) (f : SealSt → SealSt) : (s.mapSeal f).lp = s.lp := (rfl)
@[simp] theorem State.mapSeal_hst (s : State) (f : SealSt → SealSt) : (s.mapSeal f).hst = s.hst := (rfl)
@[simp] theorem State.mapSeal_sec (s : State) (f : SealSt → SealSt) : (s.mapSeal f).sec = s.sec := (rfl)
@[simp] theorem State.mapSeal_clk (s : State) (f : SealSt → SealSt) : (s.mapSeal f).clk = s.clk := (rfl)
@[simp] theorem State.mapSeal_rst (s : State) (f : SealSt → SealSt) : (s.mapSeal f).rst = s.rst := (rfl)
@[simp] theorem State.mapSeal_msixTab (s : State) (f : SealSt → SealSt) : (s.mapSeal f).msixTab = s.msixTab := (rfl)
@[simp] theorem State.mapSeal_pba (s : State) (f : SealSt → SealSt) : (s.mapSeal f).pba = s.pba := (rfl)
@[simp] theorem State.mapSeal_out (s : State) (f : SealSt → SealSt) : (s.mapSeal f).out = s.out := (rfl)
@[simp] theorem State.mapSeal_free (s : State) (f : SealSt → SealSt) : (s.mapSeal f).free = s.free := (rfl)
@[simp] theorem State.mapSeal_pending (s : State) (f : SealSt → SealSt) : (s.mapSeal f).pending = s.pending := (rfl)
@[simp] theorem State.mapSeal_get (s : State) (h : SealSt → SealSt) (f : Field) (u i : Nat) : (s.mapSeal h).get f u i = s.get f u i := (rfl)
@[simp] theorem State.mapSeal_stw (s : State) (f : SealSt → SealSt) : (s.mapSeal f).stw = f s.stw := (rfl)

/-! ### mapSec -/

@[simp] theorem State.mapSec_ident (s : State) (f : SecSt → SecSt) : (s.mapSec f).ident = s.ident := (rfl)
@[simp] theorem State.mapSec_flds (s : State) (f : SecSt → SecSt) : (s.mapSec f).flds = s.flds := (rfl)
@[simp] theorem State.mapSec_mem (s : State) (f : SecSt → SecSt) : (s.mapSec f).mem = s.mem := (rfl)
@[simp] theorem State.mapSec_poison (s : State) (f : SecSt → SecSt) : (s.mapSec f).poison = s.poison := (rfl)
@[simp] theorem State.mapSec_str (s : State) (f : SecSt → SecSt) : (s.mapSec f).str = s.str := (rfl)
@[simp] theorem State.mapSec_beat (s : State) (f : SecSt → SecSt) : (s.mapSec f).beat = s.beat := (rfl)
@[simp] theorem State.mapSec_log (s : State) (f : SecSt → SecSt) : (s.mapSec f).log = s.log := (rfl)
@[simp] theorem State.mapSec_cores (s : State) (f : SecSt → SecSt) : (s.mapSec f).cores = s.cores := (rfl)
@[simp] theorem State.mapSec_dies (s : State) (f : SecSt → SecSt) : (s.mapSec f).dies = s.dies := (rfl)
@[simp] theorem State.mapSec_steer (s : State) (f : SecSt → SecSt) : (s.mapSec f).steer = s.steer := (rfl)
@[simp] theorem State.mapSec_totals (s : State) (f : SecSt → SecSt) : (s.mapSec f).totals = s.totals := (rfl)
@[simp] theorem State.mapSec_ownTot (s : State) (f : SecSt → SecSt) : (s.mapSec f).ownTot = s.ownTot := (rfl)
@[simp] theorem State.mapSec_steerPol (s : State) (f : SecSt → SecSt) : (s.mapSec f).steerPol = s.steerPol := (rfl)
@[simp] theorem State.mapSec_upd (s : State) (f : SecSt → SecSt) : (s.mapSec f).upd = s.upd := (rfl)
@[simp] theorem State.mapSec_skip (s : State) (f : SecSt → SecSt) : (s.mapSec f).skip = s.skip := (rfl)
@[simp] theorem State.mapSec_que (s : State) (f : SecSt → SecSt) : (s.mapSec f).que = s.que := (rfl)
@[simp] theorem State.mapSec_fab (s : State) (f : SecSt → SecSt) : (s.mapSec f).fab = s.fab := (rfl)
@[simp] theorem State.mapSec_coll (s : State) (f : SecSt → SecSt) : (s.mapSec f).coll = s.coll := (rfl)
@[simp] theorem State.mapSec_esc (s : State) (f : SecSt → SecSt) : (s.mapSec f).esc = s.esc := (rfl)
@[simp] theorem State.mapSec_stook (s : State) (f : SecSt → SecSt) : (s.mapSec f).stook = s.stook := (rfl)
@[simp] theorem State.mapSec_win (s : State) (f : SecSt → SecSt) : (s.mapSec f).win = s.win := (rfl)
@[simp] theorem State.mapSec_kvw (s : State) (f : SecSt → SecSt) : (s.mapSec f).kvw = s.kvw := (rfl)
@[simp] theorem State.mapSec_kv (s : State) (f : SecSt → SecSt) : (s.mapSec f).kv = s.kv := (rfl)
@[simp] theorem State.mapSec_vce (s : State) (f : SecSt → SecSt) : (s.mapSec f).vce = s.vce := (rfl)
@[simp] theorem State.mapSec_lp (s : State) (f : SecSt → SecSt) : (s.mapSec f).lp = s.lp := (rfl)
@[simp] theorem State.mapSec_stw (s : State) (f : SecSt → SecSt) : (s.mapSec f).stw = s.stw := (rfl)
@[simp] theorem State.mapSec_hst (s : State) (f : SecSt → SecSt) : (s.mapSec f).hst = s.hst := (rfl)
@[simp] theorem State.mapSec_clk (s : State) (f : SecSt → SecSt) : (s.mapSec f).clk = s.clk := (rfl)
@[simp] theorem State.mapSec_rst (s : State) (f : SecSt → SecSt) : (s.mapSec f).rst = s.rst := (rfl)
@[simp] theorem State.mapSec_msixTab (s : State) (f : SecSt → SecSt) : (s.mapSec f).msixTab = s.msixTab := (rfl)
@[simp] theorem State.mapSec_pba (s : State) (f : SecSt → SecSt) : (s.mapSec f).pba = s.pba := (rfl)
@[simp] theorem State.mapSec_out (s : State) (f : SecSt → SecSt) : (s.mapSec f).out = s.out := (rfl)
@[simp] theorem State.mapSec_free (s : State) (f : SecSt → SecSt) : (s.mapSec f).free = s.free := (rfl)
@[simp] theorem State.mapSec_pending (s : State) (f : SecSt → SecSt) : (s.mapSec f).pending = s.pending := (rfl)
@[simp] theorem State.mapSec_get (s : State) (h : SecSt → SecSt) (f : Field) (u i : Nat) : (s.mapSec h).get f u i = s.get f u i := (rfl)
@[simp] theorem State.mapSec_sec (s : State) (f : SecSt → SecSt) : (s.mapSec f).sec = f s.sec := (rfl)

/-! ### setEsc -/

@[simp] theorem State.setEsc_ident (s : State) (f : EscSt → EscSt) : (s.setEsc f).ident = s.ident := (rfl)
@[simp] theorem State.setEsc_flds (s : State) (f : EscSt → EscSt) : (s.setEsc f).flds = s.flds := (rfl)
@[simp] theorem State.setEsc_mem (s : State) (f : EscSt → EscSt) : (s.setEsc f).mem = s.mem := (rfl)
@[simp] theorem State.setEsc_poison (s : State) (f : EscSt → EscSt) : (s.setEsc f).poison = s.poison := (rfl)
@[simp] theorem State.setEsc_str (s : State) (f : EscSt → EscSt) : (s.setEsc f).str = s.str := (rfl)
@[simp] theorem State.setEsc_beat (s : State) (f : EscSt → EscSt) : (s.setEsc f).beat = s.beat := (rfl)
@[simp] theorem State.setEsc_log (s : State) (f : EscSt → EscSt) : (s.setEsc f).log = s.log := (rfl)
@[simp] theorem State.setEsc_cores (s : State) (f : EscSt → EscSt) : (s.setEsc f).cores = s.cores := (rfl)
@[simp] theorem State.setEsc_dies (s : State) (f : EscSt → EscSt) : (s.setEsc f).dies = s.dies := (rfl)
@[simp] theorem State.setEsc_steer (s : State) (f : EscSt → EscSt) : (s.setEsc f).steer = s.steer := (rfl)
@[simp] theorem State.setEsc_totals (s : State) (f : EscSt → EscSt) : (s.setEsc f).totals = s.totals := (rfl)
@[simp] theorem State.setEsc_ownTot (s : State) (f : EscSt → EscSt) : (s.setEsc f).ownTot = s.ownTot := (rfl)
@[simp] theorem State.setEsc_steerPol (s : State) (f : EscSt → EscSt) : (s.setEsc f).steerPol = s.steerPol := (rfl)
@[simp] theorem State.setEsc_upd (s : State) (f : EscSt → EscSt) : (s.setEsc f).upd = s.upd := (rfl)
@[simp] theorem State.setEsc_skip (s : State) (f : EscSt → EscSt) : (s.setEsc f).skip = s.skip := (rfl)
@[simp] theorem State.setEsc_que (s : State) (f : EscSt → EscSt) : (s.setEsc f).que = s.que := (rfl)
@[simp] theorem State.setEsc_fab (s : State) (f : EscSt → EscSt) : (s.setEsc f).fab = s.fab := (rfl)
@[simp] theorem State.setEsc_coll (s : State) (f : EscSt → EscSt) : (s.setEsc f).coll = s.coll := (rfl)
@[simp] theorem State.setEsc_stook (s : State) (f : EscSt → EscSt) : (s.setEsc f).stook = s.stook := (rfl)
@[simp] theorem State.setEsc_win (s : State) (f : EscSt → EscSt) : (s.setEsc f).win = s.win := (rfl)
@[simp] theorem State.setEsc_kvw (s : State) (f : EscSt → EscSt) : (s.setEsc f).kvw = s.kvw := (rfl)
@[simp] theorem State.setEsc_kv (s : State) (f : EscSt → EscSt) : (s.setEsc f).kv = s.kv := (rfl)
@[simp] theorem State.setEsc_vce (s : State) (f : EscSt → EscSt) : (s.setEsc f).vce = s.vce := (rfl)
@[simp] theorem State.setEsc_lp (s : State) (f : EscSt → EscSt) : (s.setEsc f).lp = s.lp := (rfl)
@[simp] theorem State.setEsc_stw (s : State) (f : EscSt → EscSt) : (s.setEsc f).stw = s.stw := (rfl)
@[simp] theorem State.setEsc_hst (s : State) (f : EscSt → EscSt) : (s.setEsc f).hst = s.hst := (rfl)
@[simp] theorem State.setEsc_sec (s : State) (f : EscSt → EscSt) : (s.setEsc f).sec = s.sec := (rfl)
@[simp] theorem State.setEsc_clk (s : State) (f : EscSt → EscSt) : (s.setEsc f).clk = s.clk := (rfl)
@[simp] theorem State.setEsc_rst (s : State) (f : EscSt → EscSt) : (s.setEsc f).rst = s.rst := (rfl)
@[simp] theorem State.setEsc_msixTab (s : State) (f : EscSt → EscSt) : (s.setEsc f).msixTab = s.msixTab := (rfl)
@[simp] theorem State.setEsc_pba (s : State) (f : EscSt → EscSt) : (s.setEsc f).pba = s.pba := (rfl)
@[simp] theorem State.setEsc_out (s : State) (f : EscSt → EscSt) : (s.setEsc f).out = s.out := (rfl)
@[simp] theorem State.setEsc_free (s : State) (f : EscSt → EscSt) : (s.setEsc f).free = s.free := (rfl)
@[simp] theorem State.setEsc_pending (s : State) (f : EscSt → EscSt) : (s.setEsc f).pending = s.pending := (rfl)
@[simp] theorem State.setEsc_get (s : State) (h : EscSt → EscSt) (f : Field) (u i : Nat) : (s.setEsc h).get f u i = s.get f u i := (rfl)
@[simp] theorem State.setEsc_esc (s : State) (f : EscSt → EscSt) : (s.setEsc f).esc = f s.esc := (rfl)

/-! ### setRsh -/

@[simp] theorem State.setRsh_ident (s : State) (r : Option ReshardSt) : (s.setRsh r).ident = s.ident := (rfl)
@[simp] theorem State.setRsh_flds (s : State) (r : Option ReshardSt) : (s.setRsh r).flds = s.flds := (rfl)
@[simp] theorem State.setRsh_mem (s : State) (r : Option ReshardSt) : (s.setRsh r).mem = s.mem := (rfl)
@[simp] theorem State.setRsh_poison (s : State) (r : Option ReshardSt) : (s.setRsh r).poison = s.poison := (rfl)
@[simp] theorem State.setRsh_str (s : State) (r : Option ReshardSt) : (s.setRsh r).str = s.str := (rfl)
@[simp] theorem State.setRsh_beat (s : State) (r : Option ReshardSt) : (s.setRsh r).beat = s.beat := (rfl)
@[simp] theorem State.setRsh_log (s : State) (r : Option ReshardSt) : (s.setRsh r).log = s.log := (rfl)
@[simp] theorem State.setRsh_cores (s : State) (r : Option ReshardSt) : (s.setRsh r).cores = s.cores := (rfl)
@[simp] theorem State.setRsh_dies (s : State) (r : Option ReshardSt) : (s.setRsh r).dies = s.dies := (rfl)
@[simp] theorem State.setRsh_steer (s : State) (r : Option ReshardSt) : (s.setRsh r).steer = s.steer := (rfl)
@[simp] theorem State.setRsh_totals (s : State) (r : Option ReshardSt) : (s.setRsh r).totals = s.totals := (rfl)
@[simp] theorem State.setRsh_ownTot (s : State) (r : Option ReshardSt) : (s.setRsh r).ownTot = s.ownTot := (rfl)
@[simp] theorem State.setRsh_steerPol (s : State) (r : Option ReshardSt) : (s.setRsh r).steerPol = s.steerPol := (rfl)
@[simp] theorem State.setRsh_upd (s : State) (r : Option ReshardSt) : (s.setRsh r).upd = s.upd := (rfl)
@[simp] theorem State.setRsh_skip (s : State) (r : Option ReshardSt) : (s.setRsh r).skip = s.skip := (rfl)
@[simp] theorem State.setRsh_que (s : State) (r : Option ReshardSt) : (s.setRsh r).que = s.que := (rfl)
@[simp] theorem State.setRsh_fab (s : State) (r : Option ReshardSt) : (s.setRsh r).fab = s.fab := (rfl)
@[simp] theorem State.setRsh_esc (s : State) (r : Option ReshardSt) : (s.setRsh r).esc = s.esc := (rfl)
@[simp] theorem State.setRsh_stook (s : State) (r : Option ReshardSt) : (s.setRsh r).stook = s.stook := (rfl)
@[simp] theorem State.setRsh_win (s : State) (r : Option ReshardSt) : (s.setRsh r).win = s.win := (rfl)
@[simp] theorem State.setRsh_kvw (s : State) (r : Option ReshardSt) : (s.setRsh r).kvw = s.kvw := (rfl)
@[simp] theorem State.setRsh_kv (s : State) (r : Option ReshardSt) : (s.setRsh r).kv = s.kv := (rfl)
@[simp] theorem State.setRsh_vce (s : State) (r : Option ReshardSt) : (s.setRsh r).vce = s.vce := (rfl)
@[simp] theorem State.setRsh_lp (s : State) (r : Option ReshardSt) : (s.setRsh r).lp = s.lp := (rfl)
@[simp] theorem State.setRsh_stw (s : State) (r : Option ReshardSt) : (s.setRsh r).stw = s.stw := (rfl)
@[simp] theorem State.setRsh_hst (s : State) (r : Option ReshardSt) : (s.setRsh r).hst = s.hst := (rfl)
@[simp] theorem State.setRsh_sec (s : State) (r : Option ReshardSt) : (s.setRsh r).sec = s.sec := (rfl)
@[simp] theorem State.setRsh_clk (s : State) (r : Option ReshardSt) : (s.setRsh r).clk = s.clk := (rfl)
@[simp] theorem State.setRsh_rst (s : State) (r : Option ReshardSt) : (s.setRsh r).rst = s.rst := (rfl)
@[simp] theorem State.setRsh_msixTab (s : State) (r : Option ReshardSt) : (s.setRsh r).msixTab = s.msixTab := (rfl)
@[simp] theorem State.setRsh_pba (s : State) (r : Option ReshardSt) : (s.setRsh r).pba = s.pba := (rfl)
@[simp] theorem State.setRsh_out (s : State) (r : Option ReshardSt) : (s.setRsh r).out = s.out := (rfl)
@[simp] theorem State.setRsh_free (s : State) (r : Option ReshardSt) : (s.setRsh r).free = s.free := (rfl)
@[simp] theorem State.setRsh_pending (s : State) (r : Option ReshardSt) : (s.setRsh r).pending = s.pending := (rfl)
@[simp] theorem State.setRsh_get (s : State) (r : Option ReshardSt) (f : Field) (u i : Nat) : (s.setRsh r).get f u i = s.get f u i := (rfl)

/-! ### wr -/

@[simp] theorem State.wr_ident (s : State) (loc : Nat) (bs : List Byte) : (s.wr loc bs).ident = s.ident := (rfl)
@[simp] theorem State.wr_flds (s : State) (loc : Nat) (bs : List Byte) : (s.wr loc bs).flds = s.flds := (rfl)
@[simp] theorem State.wr_str (s : State) (loc : Nat) (bs : List Byte) : (s.wr loc bs).str = s.str := (rfl)
@[simp] theorem State.wr_beat (s : State) (loc : Nat) (bs : List Byte) : (s.wr loc bs).beat = s.beat := (rfl)
@[simp] theorem State.wr_log (s : State) (loc : Nat) (bs : List Byte) : (s.wr loc bs).log = s.log := (rfl)
@[simp] theorem State.wr_cores (s : State) (loc : Nat) (bs : List Byte) : (s.wr loc bs).cores = s.cores := (rfl)
@[simp] theorem State.wr_dies (s : State) (loc : Nat) (bs : List Byte) : (s.wr loc bs).dies = s.dies := (rfl)
@[simp] theorem State.wr_steer (s : State) (loc : Nat) (bs : List Byte) : (s.wr loc bs).steer = s.steer := (rfl)
@[simp] theorem State.wr_totals (s : State) (loc : Nat) (bs : List Byte) : (s.wr loc bs).totals = s.totals := (rfl)
@[simp] theorem State.wr_ownTot (s : State) (loc : Nat) (bs : List Byte) : (s.wr loc bs).ownTot = s.ownTot := (rfl)
@[simp] theorem State.wr_steerPol (s : State) (loc : Nat) (bs : List Byte) : (s.wr loc bs).steerPol = s.steerPol := (rfl)
@[simp] theorem State.wr_upd (s : State) (loc : Nat) (bs : List Byte) : (s.wr loc bs).upd = s.upd := (rfl)
@[simp] theorem State.wr_skip (s : State) (loc : Nat) (bs : List Byte) : (s.wr loc bs).skip = s.skip := (rfl)
@[simp] theorem State.wr_que (s : State) (loc : Nat) (bs : List Byte) : (s.wr loc bs).que = s.que := (rfl)
@[simp] theorem State.wr_fab (s : State) (loc : Nat) (bs : List Byte) : (s.wr loc bs).fab = s.fab := (rfl)
@[simp] theorem State.wr_coll (s : State) (loc : Nat) (bs : List Byte) : (s.wr loc bs).coll = s.coll := (rfl)
@[simp] theorem State.wr_esc (s : State) (loc : Nat) (bs : List Byte) : (s.wr loc bs).esc = s.esc := (rfl)
@[simp] theorem State.wr_stook (s : State) (loc : Nat) (bs : List Byte) : (s.wr loc bs).stook = s.stook := (rfl)
@[simp] theorem State.wr_win (s : State) (loc : Nat) (bs : List Byte) : (s.wr loc bs).win = s.win := (rfl)
@[simp] theorem State.wr_kvw (s : State) (loc : Nat) (bs : List Byte) : (s.wr loc bs).kvw = s.kvw := (rfl)
@[simp] theorem State.wr_kv (s : State) (loc : Nat) (bs : List Byte) : (s.wr loc bs).kv = s.kv := (rfl)
@[simp] theorem State.wr_vce (s : State) (loc : Nat) (bs : List Byte) : (s.wr loc bs).vce = s.vce := (rfl)
@[simp] theorem State.wr_lp (s : State) (loc : Nat) (bs : List Byte) : (s.wr loc bs).lp = s.lp := (rfl)
@[simp] theorem State.wr_stw (s : State) (loc : Nat) (bs : List Byte) : (s.wr loc bs).stw = s.stw := (rfl)
@[simp] theorem State.wr_hst (s : State) (loc : Nat) (bs : List Byte) : (s.wr loc bs).hst = s.hst := (rfl)
@[simp] theorem State.wr_sec (s : State) (loc : Nat) (bs : List Byte) : (s.wr loc bs).sec = s.sec := (rfl)
@[simp] theorem State.wr_clk (s : State) (loc : Nat) (bs : List Byte) : (s.wr loc bs).clk = s.clk := (rfl)
@[simp] theorem State.wr_rst (s : State) (loc : Nat) (bs : List Byte) : (s.wr loc bs).rst = s.rst := (rfl)
@[simp] theorem State.wr_msixTab (s : State) (loc : Nat) (bs : List Byte) : (s.wr loc bs).msixTab = s.msixTab := (rfl)
@[simp] theorem State.wr_pba (s : State) (loc : Nat) (bs : List Byte) : (s.wr loc bs).pba = s.pba := (rfl)
@[simp] theorem State.wr_out (s : State) (loc : Nat) (bs : List Byte) : (s.wr loc bs).out = s.out := (rfl)
@[simp] theorem State.wr_free (s : State) (loc : Nat) (bs : List Byte) : (s.wr loc bs).free = s.free := (rfl)
@[simp] theorem State.wr_pending (s : State) (loc : Nat) (bs : List Byte) : (s.wr loc bs).pending = s.pending := (rfl)
@[simp] theorem State.wr_get (s : State) (loc : Nat) (bs : List Byte) (f : Field) (u i : Nat) : (s.wr loc bs).get f u i = s.get f u i := (rfl)
@[simp] theorem State.wr_mem (s : State) (loc : Nat) (bs : List Byte) : (s.wr loc bs).mem = Mem.writeN s.mem loc bs := (rfl)

/-! ### poisonAt -/

@[simp] theorem State.poisonAt_ident (s : State) (loc : Nat) : (s.poisonAt loc).ident = s.ident := (rfl)
@[simp] theorem State.poisonAt_flds (s : State) (loc : Nat) : (s.poisonAt loc).flds = s.flds := (rfl)
@[simp] theorem State.poisonAt_mem (s : State) (loc : Nat) : (s.poisonAt loc).mem = s.mem := (rfl)
@[simp] theorem State.poisonAt_str (s : State) (loc : Nat) : (s.poisonAt loc).str = s.str := (rfl)
@[simp] theorem State.poisonAt_beat (s : State) (loc : Nat) : (s.poisonAt loc).beat = s.beat := (rfl)
@[simp] theorem State.poisonAt_log (s : State) (loc : Nat) : (s.poisonAt loc).log = s.log := (rfl)
@[simp] theorem State.poisonAt_cores (s : State) (loc : Nat) : (s.poisonAt loc).cores = s.cores := (rfl)
@[simp] theorem State.poisonAt_dies (s : State) (loc : Nat) : (s.poisonAt loc).dies = s.dies := (rfl)
@[simp] theorem State.poisonAt_steer (s : State) (loc : Nat) : (s.poisonAt loc).steer = s.steer := (rfl)
@[simp] theorem State.poisonAt_totals (s : State) (loc : Nat) : (s.poisonAt loc).totals = s.totals := (rfl)
@[simp] theorem State.poisonAt_ownTot (s : State) (loc : Nat) : (s.poisonAt loc).ownTot = s.ownTot := (rfl)
@[simp] theorem State.poisonAt_steerPol (s : State) (loc : Nat) : (s.poisonAt loc).steerPol = s.steerPol := (rfl)
@[simp] theorem State.poisonAt_upd (s : State) (loc : Nat) : (s.poisonAt loc).upd = s.upd := (rfl)
@[simp] theorem State.poisonAt_skip (s : State) (loc : Nat) : (s.poisonAt loc).skip = s.skip := (rfl)
@[simp] theorem State.poisonAt_que (s : State) (loc : Nat) : (s.poisonAt loc).que = s.que := (rfl)
@[simp] theorem State.poisonAt_fab (s : State) (loc : Nat) : (s.poisonAt loc).fab = s.fab := (rfl)
@[simp] theorem State.poisonAt_coll (s : State) (loc : Nat) : (s.poisonAt loc).coll = s.coll := (rfl)
@[simp] theorem State.poisonAt_esc (s : State) (loc : Nat) : (s.poisonAt loc).esc = s.esc := (rfl)
@[simp] theorem State.poisonAt_stook (s : State) (loc : Nat) : (s.poisonAt loc).stook = s.stook := (rfl)
@[simp] theorem State.poisonAt_win (s : State) (loc : Nat) : (s.poisonAt loc).win = s.win := (rfl)
@[simp] theorem State.poisonAt_kvw (s : State) (loc : Nat) : (s.poisonAt loc).kvw = s.kvw := (rfl)
@[simp] theorem State.poisonAt_kv (s : State) (loc : Nat) : (s.poisonAt loc).kv = s.kv := (rfl)
@[simp] theorem State.poisonAt_vce (s : State) (loc : Nat) : (s.poisonAt loc).vce = s.vce := (rfl)
@[simp] theorem State.poisonAt_lp (s : State) (loc : Nat) : (s.poisonAt loc).lp = s.lp := (rfl)
@[simp] theorem State.poisonAt_stw (s : State) (loc : Nat) : (s.poisonAt loc).stw = s.stw := (rfl)
@[simp] theorem State.poisonAt_hst (s : State) (loc : Nat) : (s.poisonAt loc).hst = s.hst := (rfl)
@[simp] theorem State.poisonAt_sec (s : State) (loc : Nat) : (s.poisonAt loc).sec = s.sec := (rfl)
@[simp] theorem State.poisonAt_clk (s : State) (loc : Nat) : (s.poisonAt loc).clk = s.clk := (rfl)
@[simp] theorem State.poisonAt_rst (s : State) (loc : Nat) : (s.poisonAt loc).rst = s.rst := (rfl)
@[simp] theorem State.poisonAt_msixTab (s : State) (loc : Nat) : (s.poisonAt loc).msixTab = s.msixTab := (rfl)
@[simp] theorem State.poisonAt_pba (s : State) (loc : Nat) : (s.poisonAt loc).pba = s.pba := (rfl)
@[simp] theorem State.poisonAt_out (s : State) (loc : Nat) : (s.poisonAt loc).out = s.out := (rfl)
@[simp] theorem State.poisonAt_free (s : State) (loc : Nat) : (s.poisonAt loc).free = s.free := (rfl)
@[simp] theorem State.poisonAt_pending (s : State) (loc : Nat) : (s.poisonAt loc).pending = s.pending := (rfl)
@[simp] theorem State.poisonAt_get (s : State) (loc : Nat) (f : Field) (u i : Nat) : (s.poisonAt loc).get f u i = s.get f u i := (rfl)
@[simp] theorem State.poisonAt_poison (s : State) (loc : Nat) : (s.poisonAt loc).poison = insertBlock s.poison (loc / granule loc * granule loc) := (rfl)

/-! ### Interrupts and events

A message goes out or becomes pending, a register counts it; nothing else changes. -/

@[simp] theorem State.msixOn_ident (s : State) (l vec : Nat) : (s.msixOn l vec).ident = s.ident := by
  unfold State.msixOn
  split <;> rfl
@[simp] theorem State.msixOn_flds (s : State) (l vec : Nat) : (s.msixOn l vec).flds = s.flds := by
  unfold State.msixOn
  split <;> rfl
@[simp] theorem State.msixOn_mem (s : State) (l vec : Nat) : (s.msixOn l vec).mem = s.mem := by
  unfold State.msixOn
  split <;> rfl
@[simp] theorem State.msixOn_poison (s : State) (l vec : Nat) : (s.msixOn l vec).poison = s.poison := by
  unfold State.msixOn
  split <;> rfl
@[simp] theorem State.msixOn_str (s : State) (l vec : Nat) : (s.msixOn l vec).str = s.str := by
  unfold State.msixOn
  split <;> rfl
@[simp] theorem State.msixOn_beat (s : State) (l vec : Nat) : (s.msixOn l vec).beat = s.beat := by
  unfold State.msixOn
  split <;> rfl
@[simp] theorem State.msixOn_log (s : State) (l vec : Nat) : (s.msixOn l vec).log = s.log := by
  unfold State.msixOn
  split <;> rfl
@[simp] theorem State.msixOn_cores (s : State) (l vec : Nat) : (s.msixOn l vec).cores = s.cores := by
  unfold State.msixOn
  split <;> rfl
@[simp] theorem State.msixOn_dies (s : State) (l vec : Nat) : (s.msixOn l vec).dies = s.dies := by
  unfold State.msixOn
  split <;> rfl
@[simp] theorem State.msixOn_steer (s : State) (l vec : Nat) : (s.msixOn l vec).steer = s.steer := by
  unfold State.msixOn
  split <;> rfl
@[simp] theorem State.msixOn_totals (s : State) (l vec : Nat) : (s.msixOn l vec).totals = s.totals := by
  unfold State.msixOn
  split <;> rfl
@[simp] theorem State.msixOn_ownTot (s : State) (l vec : Nat) : (s.msixOn l vec).ownTot = s.ownTot := by
  unfold State.msixOn
  split <;> rfl
@[simp] theorem State.msixOn_steerPol (s : State) (l vec : Nat) : (s.msixOn l vec).steerPol = s.steerPol := by
  unfold State.msixOn
  split <;> rfl
@[simp] theorem State.msixOn_upd (s : State) (l vec : Nat) : (s.msixOn l vec).upd = s.upd := by
  unfold State.msixOn
  split <;> rfl
@[simp] theorem State.msixOn_skip (s : State) (l vec : Nat) : (s.msixOn l vec).skip = s.skip := by
  unfold State.msixOn
  split <;> rfl
@[simp] theorem State.msixOn_que (s : State) (l vec : Nat) : (s.msixOn l vec).que = s.que := by
  unfold State.msixOn
  split <;> rfl
@[simp] theorem State.msixOn_fab (s : State) (l vec : Nat) : (s.msixOn l vec).fab = s.fab := by
  unfold State.msixOn
  split <;> rfl
@[simp] theorem State.msixOn_coll (s : State) (l vec : Nat) : (s.msixOn l vec).coll = s.coll := by
  unfold State.msixOn
  split <;> rfl
@[simp] theorem State.msixOn_esc (s : State) (l vec : Nat) : (s.msixOn l vec).esc = s.esc := by
  unfold State.msixOn
  split <;> rfl
@[simp] theorem State.msixOn_stook (s : State) (l vec : Nat) : (s.msixOn l vec).stook = s.stook := by
  unfold State.msixOn
  split <;> rfl
@[simp] theorem State.msixOn_win (s : State) (l vec : Nat) : (s.msixOn l vec).win = s.win := by
  unfold State.msixOn
  split <;> rfl
@[simp] theorem State.msixOn_kvw (s : State) (l vec : Nat) : (s.msixOn l vec).kvw = s.kvw := by
  unfold State.msixOn
  split <;> rfl
@[simp] theorem State.msixOn_kv (s : State) (l vec : Nat) : (s.msixOn l vec).kv = s.kv := by
  unfold State.msixOn
  split <;> rfl
@[simp] theorem State.msixOn_vce (s : State) (l vec : Nat) : (s.msixOn l vec).vce = s.vce := by
  unfold State.msixOn
  split <;> rfl
@[simp] theorem State.msixOn_lp (s : State) (l vec : Nat) : (s.msixOn l vec).lp = s.lp := by
  unfold State.msixOn
  split <;> rfl
@[simp] theorem State.msixOn_stw (s : State) (l vec : Nat) : (s.msixOn l vec).stw = s.stw := by
  unfold State.msixOn
  split <;> rfl
@[simp] theorem State.msixOn_hst (s : State) (l vec : Nat) : (s.msixOn l vec).hst = s.hst := by
  unfold State.msixOn
  split <;> rfl
@[simp] theorem State.msixOn_sec (s : State) (l vec : Nat) : (s.msixOn l vec).sec = s.sec := by
  unfold State.msixOn
  split <;> rfl
@[simp] theorem State.msixOn_clk (s : State) (l vec : Nat) : (s.msixOn l vec).clk = s.clk := by
  unfold State.msixOn
  split <;> rfl
@[simp] theorem State.msixOn_rst (s : State) (l vec : Nat) : (s.msixOn l vec).rst = s.rst := by
  unfold State.msixOn
  split <;> rfl
@[simp] theorem State.msixOn_msixTab (s : State) (l vec : Nat) : (s.msixOn l vec).msixTab = s.msixTab := by
  unfold State.msixOn
  split <;> rfl
@[simp] theorem State.msixOn_free (s : State) (l vec : Nat) : (s.msixOn l vec).free = s.free := by
  unfold State.msixOn
  split <;> rfl
@[simp] theorem State.msixOn_pending (s : State) (l vec : Nat) : (s.msixOn l vec).pending = s.pending := by
  unfold State.msixOn
  split <;> rfl
@[simp] theorem State.msixOn_get (s : State) (l vec : Nat) (f : Field) (u i : Nat) : (s.msixOn l vec).get f u i = s.get f u i := by
  unfold State.msixOn
  split <;> rfl
@[simp] theorem State.sendMsix_ident (s : State) (vec : Nat) (all : Bool) : (s.sendMsix vec all).ident = s.ident := by
  unfold State.sendMsix
  simp only []
  repeat' first | rfl | simp only [State.bumpSat_eq, State.msixOn_ident] | split
@[simp] theorem State.sendMsix_mem (s : State) (vec : Nat) (all : Bool) : (s.sendMsix vec all).mem = s.mem := by
  unfold State.sendMsix
  simp only []
  repeat' first | rfl | simp only [State.bumpSat_eq, State.msixOn_mem] | split
@[simp] theorem State.sendMsix_poison (s : State) (vec : Nat) (all : Bool) : (s.sendMsix vec all).poison = s.poison := by
  unfold State.sendMsix
  simp only []
  repeat' first | rfl | simp only [State.bumpSat_eq, State.msixOn_poison] | split
@[simp] theorem State.sendMsix_str (s : State) (vec : Nat) (all : Bool) : (s.sendMsix vec all).str = s.str := by
  unfold State.sendMsix
  simp only []
  repeat' first | rfl | simp only [State.bumpSat_eq, State.msixOn_str] | split
@[simp] theorem State.sendMsix_beat (s : State) (vec : Nat) (all : Bool) : (s.sendMsix vec all).beat = s.beat := by
  unfold State.sendMsix
  simp only []
  repeat' first | rfl | simp only [State.bumpSat_eq, State.msixOn_beat] | split
@[simp] theorem State.sendMsix_log (s : State) (vec : Nat) (all : Bool) : (s.sendMsix vec all).log = s.log := by
  unfold State.sendMsix
  simp only []
  repeat' first | rfl | simp only [State.bumpSat_eq, State.msixOn_log] | split
@[simp] theorem State.sendMsix_cores (s : State) (vec : Nat) (all : Bool) : (s.sendMsix vec all).cores = s.cores := by
  unfold State.sendMsix
  simp only []
  repeat' first | rfl | simp only [State.bumpSat_eq, State.msixOn_cores] | split
@[simp] theorem State.sendMsix_dies (s : State) (vec : Nat) (all : Bool) : (s.sendMsix vec all).dies = s.dies := by
  unfold State.sendMsix
  simp only []
  repeat' first | rfl | simp only [State.bumpSat_eq, State.msixOn_dies] | split
@[simp] theorem State.sendMsix_steer (s : State) (vec : Nat) (all : Bool) : (s.sendMsix vec all).steer = s.steer := by
  unfold State.sendMsix
  simp only []
  repeat' first | rfl | simp only [State.bumpSat_eq, State.msixOn_steer] | split
@[simp] theorem State.sendMsix_totals (s : State) (vec : Nat) (all : Bool) : (s.sendMsix vec all).totals = s.totals := by
  unfold State.sendMsix
  simp only []
  repeat' first | rfl | simp only [State.bumpSat_eq, State.msixOn_totals] | split
@[simp] theorem State.sendMsix_ownTot (s : State) (vec : Nat) (all : Bool) : (s.sendMsix vec all).ownTot = s.ownTot := by
  unfold State.sendMsix
  simp only []
  repeat' first | rfl | simp only [State.bumpSat_eq, State.msixOn_ownTot] | split
@[simp] theorem State.sendMsix_steerPol (s : State) (vec : Nat) (all : Bool) : (s.sendMsix vec all).steerPol = s.steerPol := by
  unfold State.sendMsix
  simp only []
  repeat' first | rfl | simp only [State.bumpSat_eq, State.msixOn_steerPol] | split
@[simp] theorem State.sendMsix_upd (s : State) (vec : Nat) (all : Bool) : (s.sendMsix vec all).upd = s.upd := by
  unfold State.sendMsix
  simp only []
  repeat' first | rfl | simp only [State.bumpSat_eq, State.msixOn_upd] | split
@[simp] theorem State.sendMsix_skip (s : State) (vec : Nat) (all : Bool) : (s.sendMsix vec all).skip = s.skip := by
  unfold State.sendMsix
  simp only []
  repeat' first | rfl | simp only [State.bumpSat_eq, State.msixOn_skip] | split
@[simp] theorem State.sendMsix_que (s : State) (vec : Nat) (all : Bool) : (s.sendMsix vec all).que = s.que := by
  unfold State.sendMsix
  simp only []
  repeat' first | rfl | simp only [State.bumpSat_eq, State.msixOn_que] | split
@[simp] theorem State.sendMsix_fab (s : State) (vec : Nat) (all : Bool) : (s.sendMsix vec all).fab = s.fab := by
  unfold State.sendMsix
  simp only []
  repeat' first | rfl | simp only [State.bumpSat_eq, State.msixOn_fab] | split
@[simp] theorem State.sendMsix_coll (s : State) (vec : Nat) (all : Bool) : (s.sendMsix vec all).coll = s.coll := by
  unfold State.sendMsix
  simp only []
  repeat' first | rfl | simp only [State.bumpSat_eq, State.msixOn_coll] | split
@[simp] theorem State.sendMsix_esc (s : State) (vec : Nat) (all : Bool) : (s.sendMsix vec all).esc = s.esc := by
  unfold State.sendMsix
  simp only []
  repeat' first | rfl | simp only [State.bumpSat_eq, State.msixOn_esc] | split
@[simp] theorem State.sendMsix_stook (s : State) (vec : Nat) (all : Bool) : (s.sendMsix vec all).stook = s.stook := by
  unfold State.sendMsix
  simp only []
  repeat' first | rfl | simp only [State.bumpSat_eq, State.msixOn_stook] | split
@[simp] theorem State.sendMsix_win (s : State) (vec : Nat) (all : Bool) : (s.sendMsix vec all).win = s.win := by
  unfold State.sendMsix
  simp only []
  repeat' first | rfl | simp only [State.bumpSat_eq, State.msixOn_win] | split
@[simp] theorem State.sendMsix_kvw (s : State) (vec : Nat) (all : Bool) : (s.sendMsix vec all).kvw = s.kvw := by
  unfold State.sendMsix
  simp only []
  repeat' first | rfl | simp only [State.bumpSat_eq, State.msixOn_kvw] | split
@[simp] theorem State.sendMsix_kv (s : State) (vec : Nat) (all : Bool) : (s.sendMsix vec all).kv = s.kv := by
  unfold State.sendMsix
  simp only []
  repeat' first | rfl | simp only [State.bumpSat_eq, State.msixOn_kv] | split
@[simp] theorem State.sendMsix_vce (s : State) (vec : Nat) (all : Bool) : (s.sendMsix vec all).vce = s.vce := by
  unfold State.sendMsix
  simp only []
  repeat' first | rfl | simp only [State.bumpSat_eq, State.msixOn_vce] | split
@[simp] theorem State.sendMsix_lp (s : State) (vec : Nat) (all : Bool) : (s.sendMsix vec all).lp = s.lp := by
  unfold State.sendMsix
  simp only []
  repeat' first | rfl | simp only [State.bumpSat_eq, State.msixOn_lp] | split
@[simp] theorem State.sendMsix_stw (s : State) (vec : Nat) (all : Bool) : (s.sendMsix vec all).stw = s.stw := by
  unfold State.sendMsix
  simp only []
  repeat' first | rfl | simp only [State.bumpSat_eq, State.msixOn_stw] | split
@[simp] theorem State.sendMsix_hst (s : State) (vec : Nat) (all : Bool) : (s.sendMsix vec all).hst = s.hst := by
  unfold State.sendMsix
  simp only []
  repeat' first | rfl | simp only [State.bumpSat_eq, State.msixOn_hst] | split
@[simp] theorem State.sendMsix_sec (s : State) (vec : Nat) (all : Bool) : (s.sendMsix vec all).sec = s.sec := by
  unfold State.sendMsix
  simp only []
  repeat' first | rfl | simp only [State.bumpSat_eq, State.msixOn_sec] | split
@[simp] theorem State.sendMsix_clk (s : State) (vec : Nat) (all : Bool) : (s.sendMsix vec all).clk = s.clk := by
  unfold State.sendMsix
  simp only []
  repeat' first | rfl | simp only [State.bumpSat_eq, State.msixOn_clk] | split
@[simp] theorem State.sendMsix_rst (s : State) (vec : Nat) (all : Bool) : (s.sendMsix vec all).rst = s.rst := by
  unfold State.sendMsix
  simp only []
  repeat' first | rfl | simp only [State.bumpSat_eq, State.msixOn_rst] | split
@[simp] theorem State.sendMsix_msixTab (s : State) (vec : Nat) (all : Bool) : (s.sendMsix vec all).msixTab = s.msixTab := by
  unfold State.sendMsix
  simp only []
  repeat' first | rfl | simp only [State.bumpSat_eq, State.msixOn_msixTab] | split
@[simp] theorem State.sendMsix_free (s : State) (vec : Nat) (all : Bool) : (s.sendMsix vec all).free = s.free := by
  unfold State.sendMsix
  simp only []
  repeat' first | rfl | simp only [State.bumpSat_eq, State.msixOn_free] | split
@[simp] theorem State.sendMsix_pending (s : State) (vec : Nat) (all : Bool) : (s.sendMsix vec all).pending = s.pending := by
  unfold State.sendMsix
  simp only []
  repeat' first | rfl | simp only [State.bumpSat_eq, State.msixOn_pending] | split

theorem State.sendMsix_get (s : State) (vec : Nat) (all : Bool) (f : Field) (u i : Nat) (h : f ≠ .GLB_IRQ_ROUTE_LOST) :
    (s.sendMsix vec all).get f u i = s.get f u i := by
  unfold State.sendMsix
  simp only []
  repeat' first | rfl | simp only [State.bumpSat_eq, State.msixOn_get, State.get_set_ne _ _ _ _ _ _ _ _ (Or.inl h)] | split

@[simp] theorem State.irq_ident (s : State) (n : Nat) (sev3 : Bool) : (s.irq n sev3).ident = s.ident := by
  unfold State.irq
  simp only []
  repeat' first | rfl | simp only [State.setBit_eq, State.sendMsix_ident, State.set_ident, State.emit_ident] | split
@[simp] theorem State.irq_mem (s : State) (n : Nat) (sev3 : Bool) : (s.irq n sev3).mem = s.mem := by
  unfold State.irq
  simp only []
  repeat' first | rfl | simp only [State.setBit_eq, State.sendMsix_mem, State.set_mem, State.emit_mem] | split
@[simp] theorem State.irq_poison (s : State) (n : Nat) (sev3 : Bool) : (s.irq n sev3).poison = s.poison := by
  unfold State.irq
  simp only []
  repeat' first | rfl | simp only [State.setBit_eq, State.sendMsix_poison, State.set_poison, State.emit_poison] | split
@[simp] theorem State.irq_str (s : State) (n : Nat) (sev3 : Bool) : (s.irq n sev3).str = s.str := by
  unfold State.irq
  simp only []
  repeat' first | rfl | simp only [State.setBit_eq, State.sendMsix_str, State.set_str, State.emit_str] | split
@[simp] theorem State.irq_beat (s : State) (n : Nat) (sev3 : Bool) : (s.irq n sev3).beat = s.beat := by
  unfold State.irq
  simp only []
  repeat' first | rfl | simp only [State.setBit_eq, State.sendMsix_beat, State.set_beat, State.emit_beat] | split
@[simp] theorem State.irq_log (s : State) (n : Nat) (sev3 : Bool) : (s.irq n sev3).log = s.log := by
  unfold State.irq
  simp only []
  repeat' first | rfl | simp only [State.setBit_eq, State.sendMsix_log, State.set_log, State.emit_log] | split
@[simp] theorem State.irq_cores (s : State) (n : Nat) (sev3 : Bool) : (s.irq n sev3).cores = s.cores := by
  unfold State.irq
  simp only []
  repeat' first | rfl | simp only [State.setBit_eq, State.sendMsix_cores, State.set_cores, State.emit_cores] | split
@[simp] theorem State.irq_dies (s : State) (n : Nat) (sev3 : Bool) : (s.irq n sev3).dies = s.dies := by
  unfold State.irq
  simp only []
  repeat' first | rfl | simp only [State.setBit_eq, State.sendMsix_dies, State.set_dies, State.emit_dies] | split
@[simp] theorem State.irq_steer (s : State) (n : Nat) (sev3 : Bool) : (s.irq n sev3).steer = s.steer := by
  unfold State.irq
  simp only []
  repeat' first | rfl | simp only [State.setBit_eq, State.sendMsix_steer, State.set_steer, State.emit_steer] | split
@[simp] theorem State.irq_totals (s : State) (n : Nat) (sev3 : Bool) : (s.irq n sev3).totals = s.totals := by
  unfold State.irq
  simp only []
  repeat' first | rfl | simp only [State.setBit_eq, State.sendMsix_totals, State.set_totals, State.emit_totals] | split
@[simp] theorem State.irq_ownTot (s : State) (n : Nat) (sev3 : Bool) : (s.irq n sev3).ownTot = s.ownTot := by
  unfold State.irq
  simp only []
  repeat' first | rfl | simp only [State.setBit_eq, State.sendMsix_ownTot, State.set_ownTot, State.emit_ownTot] | split
@[simp] theorem State.irq_steerPol (s : State) (n : Nat) (sev3 : Bool) : (s.irq n sev3).steerPol = s.steerPol := by
  unfold State.irq
  simp only []
  repeat' first | rfl | simp only [State.setBit_eq, State.sendMsix_steerPol, State.set_steerPol, State.emit_steerPol] | split
@[simp] theorem State.irq_upd (s : State) (n : Nat) (sev3 : Bool) : (s.irq n sev3).upd = s.upd := by
  unfold State.irq
  simp only []
  repeat' first | rfl | simp only [State.setBit_eq, State.sendMsix_upd, State.set_upd, State.emit_upd] | split
@[simp] theorem State.irq_skip (s : State) (n : Nat) (sev3 : Bool) : (s.irq n sev3).skip = s.skip := by
  unfold State.irq
  simp only []
  repeat' first | rfl | simp only [State.setBit_eq, State.sendMsix_skip, State.set_skip, State.emit_skip] | split
@[simp] theorem State.irq_que (s : State) (n : Nat) (sev3 : Bool) : (s.irq n sev3).que = s.que := by
  unfold State.irq
  simp only []
  repeat' first | rfl | simp only [State.setBit_eq, State.sendMsix_que, State.set_que, State.emit_que] | split
@[simp] theorem State.irq_fab (s : State) (n : Nat) (sev3 : Bool) : (s.irq n sev3).fab = s.fab := by
  unfold State.irq
  simp only []
  repeat' first | rfl | simp only [State.setBit_eq, State.sendMsix_fab, State.set_fab, State.emit_fab] | split
@[simp] theorem State.irq_coll (s : State) (n : Nat) (sev3 : Bool) : (s.irq n sev3).coll = s.coll := by
  unfold State.irq
  simp only []
  repeat' first | rfl | simp only [State.setBit_eq, State.sendMsix_coll, State.set_coll, State.emit_coll] | split
@[simp] theorem State.irq_esc (s : State) (n : Nat) (sev3 : Bool) : (s.irq n sev3).esc = s.esc := by
  unfold State.irq
  simp only []
  repeat' first | rfl | simp only [State.setBit_eq, State.sendMsix_esc, State.set_esc, State.emit_esc] | split
@[simp] theorem State.irq_stook (s : State) (n : Nat) (sev3 : Bool) : (s.irq n sev3).stook = s.stook := by
  unfold State.irq
  simp only []
  repeat' first | rfl | simp only [State.setBit_eq, State.sendMsix_stook, State.set_stook, State.emit_stook] | split
@[simp] theorem State.irq_win (s : State) (n : Nat) (sev3 : Bool) : (s.irq n sev3).win = s.win := by
  unfold State.irq
  simp only []
  repeat' first | rfl | simp only [State.setBit_eq, State.sendMsix_win, State.set_win, State.emit_win] | split
@[simp] theorem State.irq_kvw (s : State) (n : Nat) (sev3 : Bool) : (s.irq n sev3).kvw = s.kvw := by
  unfold State.irq
  simp only []
  repeat' first | rfl | simp only [State.setBit_eq, State.sendMsix_kvw, State.set_kvw, State.emit_kvw] | split
@[simp] theorem State.irq_kv (s : State) (n : Nat) (sev3 : Bool) : (s.irq n sev3).kv = s.kv := by
  unfold State.irq
  simp only []
  repeat' first | rfl | simp only [State.setBit_eq, State.sendMsix_kv, State.set_kv, State.emit_kv] | split
@[simp] theorem State.irq_vce (s : State) (n : Nat) (sev3 : Bool) : (s.irq n sev3).vce = s.vce := by
  unfold State.irq
  simp only []
  repeat' first | rfl | simp only [State.setBit_eq, State.sendMsix_vce, State.set_vce, State.emit_vce] | split
@[simp] theorem State.irq_lp (s : State) (n : Nat) (sev3 : Bool) : (s.irq n sev3).lp = s.lp := by
  unfold State.irq
  simp only []
  repeat' first | rfl | simp only [State.setBit_eq, State.sendMsix_lp, State.set_lp, State.emit_lp] | split
@[simp] theorem State.irq_stw (s : State) (n : Nat) (sev3 : Bool) : (s.irq n sev3).stw = s.stw := by
  unfold State.irq
  simp only []
  repeat' first | rfl | simp only [State.setBit_eq, State.sendMsix_stw, State.set_stw, State.emit_stw] | split
@[simp] theorem State.irq_hst (s : State) (n : Nat) (sev3 : Bool) : (s.irq n sev3).hst = s.hst := by
  unfold State.irq
  simp only []
  repeat' first | rfl | simp only [State.setBit_eq, State.sendMsix_hst, State.set_hst, State.emit_hst] | split
@[simp] theorem State.irq_sec (s : State) (n : Nat) (sev3 : Bool) : (s.irq n sev3).sec = s.sec := by
  unfold State.irq
  simp only []
  repeat' first | rfl | simp only [State.setBit_eq, State.sendMsix_sec, State.set_sec, State.emit_sec] | split
@[simp] theorem State.irq_clk (s : State) (n : Nat) (sev3 : Bool) : (s.irq n sev3).clk = s.clk := by
  unfold State.irq
  simp only []
  repeat' first | rfl | simp only [State.setBit_eq, State.sendMsix_clk, State.set_clk, State.emit_clk] | split
@[simp] theorem State.irq_rst (s : State) (n : Nat) (sev3 : Bool) : (s.irq n sev3).rst = s.rst := by
  unfold State.irq
  simp only []
  repeat' first | rfl | simp only [State.setBit_eq, State.sendMsix_rst, State.set_rst, State.emit_rst] | split
@[simp] theorem State.irq_msixTab (s : State) (n : Nat) (sev3 : Bool) : (s.irq n sev3).msixTab = s.msixTab := by
  unfold State.irq
  simp only []
  repeat' first | rfl | simp only [State.setBit_eq, State.sendMsix_msixTab, State.set_msixTab, State.emit_msixTab] | split
@[simp] theorem State.irq_free (s : State) (n : Nat) (sev3 : Bool) : (s.irq n sev3).free = s.free := by
  unfold State.irq
  simp only []
  repeat' first | rfl | simp only [State.setBit_eq, State.sendMsix_free, State.set_free, State.emit_free] | split
@[simp] theorem State.irq_pending (s : State) (n : Nat) (sev3 : Bool) : (s.irq n sev3).pending = s.pending := by
  unfold State.irq
  simp only []
  repeat' first | rfl | simp only [State.setBit_eq, State.sendMsix_pending, State.set_pending, State.emit_pending] | split

theorem State.irq_get (s : State) (n : Nat) (sev3 : Bool) (f : Field) (u i : Nat) (h : f ≠ .GLB_IRQ_ROUTE_LOST)
    (h' : f ≠ .GLB_IRQ_STATUS_SRC) : (s.irq n sev3).get f u i = s.get f u i := by
  unfold State.irq
  simp only []
  repeat' first
    | rfl
    | simp only [State.setBit_eq, State.emit_get, State.sendMsix_get _ _ _ _ _ _ h, State.get_set_ne _ _ _ _ _ _ _ _ (Or.inl h')]
    | split

@[simp] theorem State.log'_ident (s : State) (src code sev : Nat) (fs : List (Nat × Nat)) : (s.log' src code sev fs).ident = s.ident := by
  unfold State.log'
  simp only []
  split
  · rw [State.irq_ident]
  · rfl
@[simp] theorem State.log'_mem (s : State) (src code sev : Nat) (fs : List (Nat × Nat)) : (s.log' src code sev fs).mem = s.mem := by
  unfold State.log'
  simp only []
  split
  · rw [State.irq_mem]
  · rfl
@[simp] theorem State.log'_poison (s : State) (src code sev : Nat) (fs : List (Nat × Nat)) : (s.log' src code sev fs).poison = s.poison := by
  unfold State.log'
  simp only []
  split
  · rw [State.irq_poison]
  · rfl
@[simp] theorem State.log'_str (s : State) (src code sev : Nat) (fs : List (Nat × Nat)) : (s.log' src code sev fs).str = s.str := by
  unfold State.log'
  simp only []
  split
  · rw [State.irq_str]
  · rfl
@[simp] theorem State.log'_beat (s : State) (src code sev : Nat) (fs : List (Nat × Nat)) : (s.log' src code sev fs).beat = s.beat := by
  unfold State.log'
  simp only []
  split
  · rw [State.irq_beat]
  · rfl
@[simp] theorem State.log'_cores (s : State) (src code sev : Nat) (fs : List (Nat × Nat)) : (s.log' src code sev fs).cores = s.cores := by
  unfold State.log'
  simp only []
  split
  · rw [State.irq_cores]
  · rfl
@[simp] theorem State.log'_dies (s : State) (src code sev : Nat) (fs : List (Nat × Nat)) : (s.log' src code sev fs).dies = s.dies := by
  unfold State.log'
  simp only []
  split
  · rw [State.irq_dies]
  · rfl
@[simp] theorem State.log'_steer (s : State) (src code sev : Nat) (fs : List (Nat × Nat)) : (s.log' src code sev fs).steer = s.steer := by
  unfold State.log'
  simp only []
  split
  · rw [State.irq_steer]
  · rfl
@[simp] theorem State.log'_totals (s : State) (src code sev : Nat) (fs : List (Nat × Nat)) : (s.log' src code sev fs).totals = s.totals := by
  unfold State.log'
  simp only []
  split
  · rw [State.irq_totals]
  · rfl
@[simp] theorem State.log'_ownTot (s : State) (src code sev : Nat) (fs : List (Nat × Nat)) : (s.log' src code sev fs).ownTot = s.ownTot := by
  unfold State.log'
  simp only []
  split
  · rw [State.irq_ownTot]
  · rfl
@[simp] theorem State.log'_steerPol (s : State) (src code sev : Nat) (fs : List (Nat × Nat)) : (s.log' src code sev fs).steerPol = s.steerPol := by
  unfold State.log'
  simp only []
  split
  · rw [State.irq_steerPol]
  · rfl
@[simp] theorem State.log'_upd (s : State) (src code sev : Nat) (fs : List (Nat × Nat)) : (s.log' src code sev fs).upd = s.upd := by
  unfold State.log'
  simp only []
  split
  · rw [State.irq_upd]
  · rfl
@[simp] theorem State.log'_skip (s : State) (src code sev : Nat) (fs : List (Nat × Nat)) : (s.log' src code sev fs).skip = s.skip := by
  unfold State.log'
  simp only []
  split
  · rw [State.irq_skip]
  · rfl
@[simp] theorem State.log'_que (s : State) (src code sev : Nat) (fs : List (Nat × Nat)) : (s.log' src code sev fs).que = s.que := by
  unfold State.log'
  simp only []
  split
  · rw [State.irq_que]
  · rfl
@[simp] theorem State.log'_fab (s : State) (src code sev : Nat) (fs : List (Nat × Nat)) : (s.log' src code sev fs).fab = s.fab := by
  unfold State.log'
  simp only []
  split
  · rw [State.irq_fab]
  · rfl
@[simp] theorem State.log'_coll (s : State) (src code sev : Nat) (fs : List (Nat × Nat)) : (s.log' src code sev fs).coll = s.coll := by
  unfold State.log'
  simp only []
  split
  · rw [State.irq_coll]
  · rfl
@[simp] theorem State.log'_esc (s : State) (src code sev : Nat) (fs : List (Nat × Nat)) : (s.log' src code sev fs).esc = s.esc := by
  unfold State.log'
  simp only []
  split
  · rw [State.irq_esc]
  · rfl
@[simp] theorem State.log'_stook (s : State) (src code sev : Nat) (fs : List (Nat × Nat)) : (s.log' src code sev fs).stook = s.stook := by
  unfold State.log'
  simp only []
  split
  · rw [State.irq_stook]
  · rfl
@[simp] theorem State.log'_win (s : State) (src code sev : Nat) (fs : List (Nat × Nat)) : (s.log' src code sev fs).win = s.win := by
  unfold State.log'
  simp only []
  split
  · rw [State.irq_win]
  · rfl
@[simp] theorem State.log'_kvw (s : State) (src code sev : Nat) (fs : List (Nat × Nat)) : (s.log' src code sev fs).kvw = s.kvw := by
  unfold State.log'
  simp only []
  split
  · rw [State.irq_kvw]
  · rfl
@[simp] theorem State.log'_kv (s : State) (src code sev : Nat) (fs : List (Nat × Nat)) : (s.log' src code sev fs).kv = s.kv := by
  unfold State.log'
  simp only []
  split
  · rw [State.irq_kv]
  · rfl
@[simp] theorem State.log'_vce (s : State) (src code sev : Nat) (fs : List (Nat × Nat)) : (s.log' src code sev fs).vce = s.vce := by
  unfold State.log'
  simp only []
  split
  · rw [State.irq_vce]
  · rfl
@[simp] theorem State.log'_lp (s : State) (src code sev : Nat) (fs : List (Nat × Nat)) : (s.log' src code sev fs).lp = s.lp := by
  unfold State.log'
  simp only []
  split
  · rw [State.irq_lp]
  · rfl
@[simp] theorem State.log'_stw (s : State) (src code sev : Nat) (fs : List (Nat × Nat)) : (s.log' src code sev fs).stw = s.stw := by
  unfold State.log'
  simp only []
  split
  · rw [State.irq_stw]
  · rfl
@[simp] theorem State.log'_hst (s : State) (src code sev : Nat) (fs : List (Nat × Nat)) : (s.log' src code sev fs).hst = s.hst := by
  unfold State.log'
  simp only []
  split
  · rw [State.irq_hst]
  · rfl
@[simp] theorem State.log'_sec (s : State) (src code sev : Nat) (fs : List (Nat × Nat)) : (s.log' src code sev fs).sec = s.sec := by
  unfold State.log'
  simp only []
  split
  · rw [State.irq_sec]
  · rfl
@[simp] theorem State.log'_clk (s : State) (src code sev : Nat) (fs : List (Nat × Nat)) : (s.log' src code sev fs).clk = s.clk := by
  unfold State.log'
  simp only []
  split
  · rw [State.irq_clk]
  · rfl
@[simp] theorem State.log'_rst (s : State) (src code sev : Nat) (fs : List (Nat × Nat)) : (s.log' src code sev fs).rst = s.rst := by
  unfold State.log'
  simp only []
  split
  · rw [State.irq_rst]
  · rfl
@[simp] theorem State.log'_msixTab (s : State) (src code sev : Nat) (fs : List (Nat × Nat)) : (s.log' src code sev fs).msixTab = s.msixTab := by
  unfold State.log'
  simp only []
  split
  · rw [State.irq_msixTab]
  · rfl
@[simp] theorem State.log'_free (s : State) (src code sev : Nat) (fs : List (Nat × Nat)) : (s.log' src code sev fs).free = s.free := by
  unfold State.log'
  simp only []
  split
  · rw [State.irq_free]
  · rfl
@[simp] theorem State.log'_pending (s : State) (src code sev : Nat) (fs : List (Nat × Nat)) : (s.log' src code sev fs).pending = s.pending := by
  unfold State.log'
  simp only []
  split
  · rw [State.irq_pending]
  · rfl

theorem State.log'_get (s : State) (src code sev : Nat) (fs : List (Nat × Nat)) (f : Field) (u i : Nat) (h : f ≠ .GLB_IRQ_ROUTE_LOST)
    (h' : f ≠ .GLB_IRQ_STATUS_SRC) : (s.log' src code sev fs).get f u i = s.get f u i := by
  unfold State.log'
  simp only []
  split
  · rw [State.irq_get _ _ _ _ _ _ h h']
    rfl
  · rfl

/-- An event but those of a lost peer and a link that goes down changes the log alone, so every register reads as before. -/
theorem State.log'_get_other (s : State) (src code sev : Nat) (fs : List (Nat × Nat)) (f : Field) (u i : Nat)
    (h : ¬(code = 0x5010 ∨ code = 0x5002)) : (s.log' src code sev fs).get f u i = s.get f u i := by
  unfold State.log'
  rw [if_neg h]
  rfl

theorem State.log'_out_other (s : State) (src code sev : Nat) (fs : List (Nat × Nat)) (h : ¬(code = 0x5010 ∨ code = 0x5002)) :
    (s.log' src code sev fs).out = s.out := by
  unfold State.log'
  rw [if_neg h]

/-- An event in flight: it carries the beat and the wall time of the last edge (R468, R471), the beat of that edge also while passed-over actions fire (R63). -/
@[simp] theorem State.log'_log (s : State) (src code sev : Nat) (fs : List (Nat × Nat)) :
    (s.log' src code sev fs).log = { s.log with flight := s.log.flight ++
      [(halfOfSrc src, ⟨s.beat.stamp.getD s.now, s.get .BEAT_WALL_WALL, src, code, sev, 0, payloadOf fs⟩)] } := by
  unfold State.log'
  simp only []
  split
  · rw [State.irq_log]
  · rfl

end Sys2Proof.Machine
end

