-- ==== Sys2Proof/Laws/Frame.lean ====
section
/-! SUPPORT. What shared operations leave as it was, and what they set: lemmas that a statement's proof cites. -/
namespace Sys2Proof.Machine
open Sys2Proof

theorem State.irq_same (s : State) (n : Nat) (b : Bool) (f : Field) (u i : Nat) (h : f ≠ .GLB_IRQ_ROUTE_LOST ∧ f ≠ .GLB_IRQ_STATUS_SRC) :
    (s.irq n b).get f u i = s.get f u i := State.irq_get _ _ _ _ _ _ h.1 h.2

theorem State.syncComplex_get (s : State) (f : Field) (u i : Nat) (h1 : f ≠ .STW_STATUS_HALF_W) (h2 : f ≠ .STW_STATUS_HALF_E) : s.syncComplex.get f u i = s.get f u i := by
  have hs : ∀ (x : State) h v, (x.setComplex h v).get f u i = x.get f u i := by
    intro x h v; simp only [State.setComplex]; split <;> exact State.get_set_ne _ _ _ _ _ _ _ _ (.inl (by assumption))
  simp only [State.syncComplex, List.foldl]
  repeat' first | rfl | simp only [hs] | split

theorem State.syncComplex_rest (s : State) : s.syncComplex.stw = s.stw ∧ s.syncComplex.mem = s.mem ∧ s.syncComplex.cores = s.cores ∧ s.syncComplex.log = s.log ∧
   s.syncComplex.out = s.out ∧ s.syncComplex.beat = s.beat ∧ s.syncComplex.ident = s.ident ∧ s.syncComplex.rst = s.rst := by
  have hs : ∀ (x : State) h v, (x.setComplex h v).stw = x.stw ∧ (x.setComplex h v).mem = x.mem ∧ (x.setComplex h v).cores = x.cores ∧ (x.setComplex h v).log = x.log ∧
     (x.setComplex h v).out = x.out ∧ (x.setComplex h v).beat = x.beat ∧ (x.setComplex h v).ident = x.ident ∧ (x.setComplex h v).rst = x.rst := by
    intro x h v; simp only [State.setComplex]; split <;> exact ⟨rfl, rfl, rfl, rfl, rfl, rfl, rfl, rfl⟩
  simp only [State.syncComplex, List.foldl]
  repeat' first | exact ⟨rfl, rfl, rfl, rfl, rfl, rfl, rfl, rfl⟩ | simp only [hs, and_self] | split

theorem State.sealTo_spec (s : State) (half seq : Nat) : let t := s.sealTo half seq
    t.get .STW_SEAL_HOLDER = half % 2 ∧ t.get .STW_SEAL_SEQ = seq % 2 ^ 32 ∧ t.get .STW_SEAL_STATE = 0 ∧ t.stw = { s.stw with holds := [(half, seq % 2 ^ 32)] } ∧
    t.mem = s.mem ∧ t.cores = s.cores ∧ t.log = s.log ∧ t.beat = s.beat ∧ t.ident = s.ident ∧ t.rst = s.rst := by
  have w1 : Field.STW_SEAL_HOLDER.width = 1 := rfl
  have w2 : Field.STW_SEAL_SEQ.width = 32 := rfl
  intro t
  have key : ∀ y : State, y = ((((s.mapSeal fun x => { x with holds := [(half, seq % 2 ^ 32)] }).set .STW_SEAL_HOLDER half).set .STW_SEAL_SEQ seq).set .STW_SEAL_STATE 0).syncComplex →
     y.get .STW_SEAL_HOLDER = half % 2 ∧ y.get .STW_SEAL_SEQ = seq % 2 ^ 32 ∧ y.get .STW_SEAL_STATE = 0 ∧ y.stw = { s.stw with holds := [(half, seq % 2 ^ 32)] } ∧
    y.mem = s.mem ∧ y.cores = s.cores ∧ y.log = s.log ∧ y.beat = s.beat ∧ y.ident = s.ident ∧ y.rst = s.rst := by
    intro y hy; subst hy
    refine ⟨?_, ?_, ?_, ?_⟩
    · rw [State.syncComplex_get _ _ _ _ (by decide) (by decide)]; simp [w1]
    · rw [State.syncComplex_get _ _ _ _ (by decide) (by decide)]; simp [w2]
    · rw [State.syncComplex_get _ _ _ _ (by decide) (by decide)]; simp
    · obtain ⟨h1, h2, h3, h4, h5, h6, h7, h8⟩ := State.syncComplex_rest ((((s.mapSeal fun x => { x with holds := [(half, seq % 2 ^ 32)] }).set .STW_SEAL_HOLDER half).set .STW_SEAL_SEQ seq).set .STW_SEAL_STATE 0)
      exact ⟨h1, h2, h3, h4, h6, h7, h8⟩
  obtain ⟨k1, k2, k3, k4, k5, k6, k7, k8, k9, k10⟩ := key _ rfl
  simp only [t, State.sealTo]
  split
  · exact ⟨by rw [State.irq_same _ _ _ _ _ _ (by decide)]; exact k1, by rw [State.irq_same _ _ _ _ _ _ (by decide)]; exact k2, by rw [State.irq_same _ _ _ _ _ _ (by decide)]; exact k3,
      (State.irq_stw ..).trans k4, (State.irq_mem ..).trans k5, (State.irq_cores ..).trans k6, (State.irq_log ..).trans k7, (State.irq_beat ..).trans k8,
      (State.irq_ident ..).trans k9, (State.irq_rst ..).trans k10⟩
  · exact ⟨k1, k2, k3, k4, k5, k6, k7, k8, k9, k10⟩

theorem State.logMoves_spec (s : State) (half : Nat) : let P := fun (t : State) => t.stw = s.stw ∧ t.mem = s.mem ∧ t.cores = s.cores ∧ ∀ f u i, f ∉ [Field.LOG_STATUS_HUB, .LOG_STATUS_SEG, .LOG_SEQ_NEXT, .LOG_OVER_OVERWRITTEN, .LOG_STATUS_INTAKE] → t.get f u i = s.get f u i
    P (s.logStart half) ∧ P (s.logMove half) ∧ P (s.logTake half) := by
  intro P
  refine ⟨?_, ?_, ?_⟩ <;> simp only [P, State.logStart, State.logMove, State.logTake] <;> split
  all_goals refine ⟨by simp [State.setIntake, State.mapLog], by simp [State.setIntake, State.mapLog], by simp [State.setIntake, State.mapLog], fun f u i h => ?_⟩
  all_goals simp only [List.mem_cons, List.not_mem_nil, or_false, not_or] at h
  all_goals simp [State.setIntake, h]

theorem State.msixOn_out (s : State) (l v : Nat) (o : Out) (h : o ∈ s.out) : o ∈ (s.msixOn l v).out := by
  simp only [State.msixOn]; split
  · exact h
  · exact List.mem_cons_of_mem _ h

theorem State.sendMsix_out (s : State) (v : Nat) (a : Bool) (o : Out) (h : o ∈ s.out) : o ∈ (s.sendMsix v a).out := by
  simp only [State.sendMsix]
  repeat' first | exact h | exact State.msixOn_out _ _ _ _ (by assumption) | exact State.msixOn_out _ _ _ _ (State.msixOn_out _ _ _ _ h) | split

/-- What has been sent stays recorded when an interrupt is raised. -/
theorem State.irq_out (s : State) (n : Nat) (b : Bool) (o : Out) (h : o ∈ s.out) : o ∈ (s.irq n b).out := by
  have h1 : o ∈ (s.setBit .GLB_IRQ_STATUS_SRC n true).out := h
  simp only [State.irq]
  repeat' first | exact h1 | exact State.sendMsix_out _ _ _ _ h1 | exact List.mem_cons_of_mem _ h1 | exact List.mem_cons_of_mem _ (State.sendMsix_out _ _ _ _ h1) | split

/-- Raising an interrupt sets its source's bit. -/
theorem State.irq_bit (s : State) (n : Nat) (b : Bool) (h : n < 12) : bit ((s.irq n b).get .GLB_IRQ_STATUS_SRC) n = true := by
  have hs : (s.irq n b).get .GLB_IRQ_STATUS_SRC = (s.setBit .GLB_IRQ_STATUS_SRC n true).get .GLB_IRQ_STATUS_SRC := by
    simp only [State.irq]
    repeat' first | rfl | rw [State.emit_get] | rw [State.sendMsix_get _ _ _ _ _ _ (by decide)] | split
  have w : Field.GLB_IRQ_STATUS_SRC.width = 12 := rfl
  rw [hs]; simp only [State.setBit_eq, State.get_set_self, w, bit_mod _ _ _ h, bit_putBit, if_true]

/-- Refreshing VCE_STATUS changes those two fields alone, and no memory, core or clock. -/
theorem State.vceSync_spec (s : State) : s.vceSync.mem = s.mem ∧ s.vceSync.cores = s.cores ∧ s.vceSync.clk = s.clk ∧ s.vceSync.log = s.log ∧ s.vceSync.out = s.out ∧
    s.vceSync.rst = s.rst ∧ s.vceSync.poison = s.poison ∧
    ∀ f u i, f ≠ .VCE_STATUS_OPEN → f ≠ .VCE_STATUS_STATE → s.vceSync.get f u i = s.get f u i := by
  unfold State.vceSync
  generalize List.range s.ident.engines = l
  induction l generalizing s with
  | nil => exact ⟨rfl, rfl, rfl, rfl, rfl, rfl, rfl, fun _ _ _ _ _ => rfl⟩
  | cons e l ih =>
    obtain ⟨h1, h2, h3, h4, h5, h6, h7, h8⟩ := ih (s.setVce e (s.vceOf e))
    rw [List.foldl_cons]
    refine ⟨h1, h2, h3, h4, h5, h6, h7, fun f u i a b => ?_⟩
    rw [h8 f u i a b]
    simp only [State.setVce]
    rw [State.get_set_ne _ _ _ _ _ _ _ _ (.inl b), State.get_set_ne _ _ _ _ _ _ _ _ (.inl a)]
    rfl

/-- A wake trigger outside an entry: in Q2 to Q4 the exit begins, with its cause; elsewhere nothing happens. -/
theorem State.wake_spec (s : State) (c : Nat) (he : s.clk.entering = none) :
    (s.get .PWR_STATE_CURRENT < 2 ∨ s.clk.exiting.isSome = true → s.wake c = s) ∧
    (2 ≤ s.get .PWR_STATE_CURRENT → s.clk.exiting = none →
      s.wake c = ({ s with clk := { s.clk with exiting := some c } } : State).set .PWR_STATE_EXIT_CAUSE c) := by
  refine ⟨fun h => ?_, fun h1 h2 => ?_⟩ <;> simp only [State.wake, he]
  · rw [if_neg (by simp), if_pos h]
  · rw [if_neg (by simp), if_neg (by rw [h2]; simp; omega)]

/-- The roots' key check only logs. -/
theorem State.keyRead_spec (s : State) (half : Nat) : (s.keyRead half).mem = s.mem ∧ (s.keyRead half).poison = s.poison ∧ (s.keyRead half).cores = s.cores ∧
    (s.keyRead half).str = s.str ∧ (s.keyRead half).que = s.que ∧ (s.keyRead half).coll = s.coll ∧ (s.keyRead half).fab = s.fab ∧ (s.keyRead half).ident = s.ident ∧
    ∀ f u i, (s.keyRead half).get f u i = s.get f u i := by
  unfold State.keyRead
  generalize bitList (s.get .SEC_FUSE_OWN_ENR) 4 = l
  induction l generalizing s with
  | nil => exact ⟨rfl, rfl, rfl, rfl, rfl, rfl, rfl, rfl, fun _ _ _ => rfl⟩
  | cons a l ih =>
    rw [List.foldl_cons]
    split
    · exact ih s
    · obtain ⟨h1, h2, h3, h4, h5, h6, h7, h8, h9⟩ := ih (s.log' (rotSrc half) 0xa003 2 [(1, 2 * half), (1, a)])
      exact ⟨h1.trans (by simp), h2.trans (by simp), h3.trans (by simp), h4.trans (by simp), h5.trans (by simp), h6.trans (by simp), h7.trans (by simp), h8.trans (by simp),
        fun f u i => (h9 f u i).trans (State.log'_get_other _ _ _ _ _ _ _ _ (by decide))⟩

theorem State.keyReads_spec (l : List Nat) (s : State) : let t := l.foldl (fun s h => s.keyRead h) s
    t.mem = s.mem ∧ t.poison = s.poison ∧ t.cores = s.cores ∧ t.str = s.str ∧ t.que = s.que ∧ t.coll = s.coll ∧ t.fab = s.fab ∧ t.ident = s.ident ∧
    ∀ f u i, t.get f u i = s.get f u i := by
  induction l generalizing s with
  | nil => exact ⟨rfl, rfl, rfl, rfl, rfl, rfl, rfl, rfl, fun _ _ _ => rfl⟩
  | cons a l ih =>
    obtain ⟨h1, h2, h3, h4, h5, h6, h7, h8, h9⟩ := ih (s.keyRead a)
    obtain ⟨k1, k2, k3, k4, k5, k6, k7, k8, k9⟩ := s.keyRead_spec a
    exact ⟨h1.trans k1, h2.trans k2, h3.trans k3, h4.trans k4, h5.trans k5, h6.trans k6, h7.trans k7, h8.trans k8, fun f u i => (h9 f u i).trans (k9 f u i)⟩

/-- A new challenge changes its own register alone. -/
theorem State.newChallenge_spec (s : State) : s.newChallenge.mem = s.mem ∧ s.newChallenge.poison = s.poison ∧ s.newChallenge.cores = s.cores ∧
    s.newChallenge.str = s.str ∧ s.newChallenge.que = s.que ∧ s.newChallenge.coll = s.coll ∧ s.newChallenge.fab = s.fab ∧ s.newChallenge.ident = s.ident ∧
    s.newChallenge.log = s.log ∧ ∀ f u i, f ≠ .SEC_CHALLENGE_VALUE → s.newChallenge.get f u i = s.get f u i := by
  refine ⟨rfl, rfl, rfl, rfl, rfl, rfl, rfl, rfl, rfl, fun f u i h => ?_⟩
  unfold State.newChallenge
  simp only [show List.range 4 = [0, 1, 2, 3] from rfl, List.foldl]
  simp [h]

/-- An entry that raises no interrupt only joins the entries on their way. -/
theorem State.log'_eq (s : State) (src code sev : Nat) (fs) (hc : ¬(code = 0x5010 ∨ code = 0x5002)) : (s.log' src code sev fs) =
    { s with log := { s.log with flight := s.log.flight ++ [(halfOfSrc src, ⟨s.beat.stamp.getD s.now, s.get .BEAT_WALL_WALL, src, code, sev, 0, payloadOf fs⟩)] } } := by
  simp only [State.log', if_neg hc]

/-- A write of mapped bytes changes bytes and poison alone. -/
theorem State.wrDa_eq (s : State) (a : Agent) (img : Image) (da : Nat) (bs : List Byte) :
    ∃ m p, s.wrDa a img da bs = { s with mem := m, poison := p } := by
  have key : ∀ (l : List Nat) (y : State) m p, y = { s with mem := m, poison := p } → ∃ m p, l.foldl (fun s' b =>
      match s.resolve a img b with
      | .at loc =>
        let lo := max b da
        let hi := min (b + 64) (da + bs.length)
        s'.wr (loc + (lo - b)) (slice bs (lo - da) (hi - lo))
      | _ => s') y = { s with mem := m, poison := p } := by
    intro l
    induction l with
    | nil => intro y m p h; exact ⟨m, p, h⟩
    | cons b l ih =>
      intro y m p h
      rw [List.foldl_cons]
      split
      · exact ih _ _ _ (by rw [h]; rfl)
      · exact ih _ _ _ h
  exact key _ s s.mem s.poison rfl

/-- A request for the RST block ends: its result, the interrupt, and nothing else that is held. -/
theorem State.testEnd_spec (s : State) (st : Nat) : let t := s.testEnd st
    t.rst.test = none ∧ t.rst.running = false ∧ t.get .RST_TEST_RES_DONE = 1 ∧ t.get .RST_TEST_RES_STATUS = st % 2 ^ Field.RST_TEST_RES_STATUS.width ∧
    t.mem = s.mem ∧ t.cores = s.cores := by
  intro t
  have w1 : Field.RST_TEST_RES_DONE.width = 1 := rfl
  simp only [t, State.testEnd]
  refine ⟨by simp, by simp, by rw [State.irq_same _ _ _ _ _ _ (by decide)]; simp [w1], by rw [State.irq_same _ _ _ _ _ _ (by decide)]; simp, by simp, by simp⟩

end Sys2Proof.Machine
end

