-- ==== Sys2Proof/Laws/Mem.lean ====
section
/-! SUPPORT. Laws of memory: every operation keeps the canonical form, a read after a write, and what a write leaves alone. -/
namespace Sys2Proof.Machine

/-! ### The canonical form by its clauses -/

/-- Places strictly rise from a bound on, and no cell holds what an unlisted place reads as. -/
def Mem.above : List Host.Cell → Nat → Prop
  | [], _ => True
  | c :: m, lo => lo ≤ c.1 ∧ c.2 ≠ Mem.unlisted ∧ Mem.above m (c.1 + 1)

theorem Mem.above_mono {m : List Host.Cell} {a b : Nat} (hab : a ≤ b) (h : Mem.above m b) : Mem.above m a := by
  cases m with
  | nil => trivial
  | cons c m => exact ⟨le_trans hab h.1, h.2⟩

theorem Mem.wf_cons (c : Host.Cell) (m : List Host.Cell) : Mem.wf (c :: m) = true ↔ c.2 ≠ Mem.unlisted ∧ Mem.above m (c.1 + 1) := by
  induction m generalizing c with
  | nil => simp [Mem.wf, Mem.above]
  | cons d m ih =>
    have := ih d
    simp only [Mem.wf, Bool.and_eq_true, bne_iff_ne, ne_eq, decide_eq_true_eq, this, Mem.above, Nat.succ_le_iff]
    tauto

theorem Mem.wf_iff (m : List Host.Cell) : Mem.wf m = true ↔ Mem.above m 0 := by
  cases m with
  | nil => simp [Mem.wf, Mem.above]
  | cons c m => simp [Mem.wf_cons, Mem.above]

/-! ### Operations -/

theorem Mem.above_clear {m : List Host.Cell} {lo : Nat} (loc : Nat) (h : Mem.above m lo) : Mem.above (Mem.clear m loc) lo := by
  induction m generalizing lo with
  | nil => trivial
  | cons c m ih =>
    obtain ⟨h1, h2, h3⟩ := h
    unfold Mem.clear
    split
    · exact Mem.above_mono (by omega) h3
    · split
      · exact ⟨h1, h2, h3⟩
      · exact ⟨h1, h2, ih h3⟩

theorem Mem.above_put {m : List Host.Cell} {lo loc : Nat} {v : Byte} (h : Mem.above m lo) (hl : lo ≤ loc) (hv : v ≠ Mem.unlisted) :
    Mem.above (Mem.put m loc v) lo := by
  induction m generalizing lo with
  | nil => exact ⟨hl, hv, trivial⟩
  | cons c m ih =>
    obtain ⟨h1, h2, h3⟩ := h
    unfold Mem.put
    split
    · exact ⟨h1, hv, h3⟩
    · split
      · exact ⟨hl, hv, by simp only; omega, h2, h3⟩
      · exact ⟨h1, h2, ih h3 (by simp only; omega)⟩

theorem Mem.above_filter {m : List Host.Cell} {lo : Nat} (p : Host.Cell → Bool) (h : Mem.above m lo) : Mem.above (m.filter p) lo := by
  induction m generalizing lo with
  | nil => trivial
  | cons c m ih =>
    obtain ⟨h1, h2, h3⟩ := h
    rw [List.filter_cons]
    split
    · exact ⟨h1, h2, ih h3⟩
    · exact Mem.above_mono (by omega) (ih h3)

/-- A write keeps the canonical form. -/
theorem Mem.wf_write (m : List Host.Cell) (loc : Nat) (v : Byte) (h : Mem.wf m = true) : Mem.wf (Mem.write m loc v) = true := by
  rw [Mem.wf_iff] at *
  simp only [Mem.write]
  split
  · exact Mem.above_clear _ h
  · exact Mem.above_put h (Nat.zero_le _) ‹_›

theorem Mem.wf_filter (p : Host.Cell → Bool) (m : List Host.Cell) (h : Mem.wf m = true) : Mem.wf (m.filter p) = true := by
  rw [Mem.wf_iff] at *
  exact Mem.above_filter p h

theorem Mem.wf_zero (m : List Host.Cell) (loc n : Nat) (h : Mem.wf m = true) : Mem.wf (Mem.zero m loc n) = true := Mem.wf_filter _ _ h

theorem Mem.wf_foldl {α : Type} (l : List α) (f : List Host.Cell → α → List Host.Cell)
    (hf : ∀ m a, Mem.wf m = true → Mem.wf (f m a) = true) (m : List Host.Cell) (h : Mem.wf m = true) : Mem.wf (l.foldl f m) = true := by
  induction l generalizing m with
  | nil => exact h
  | cons a l ih => exact ih _ (hf _ _ h)

theorem Mem.wf_writeN (bs : List Byte) : ∀ (m : List Host.Cell) (loc : Nat), Mem.wf m = true → Mem.wf (Mem.writeN m loc bs) = true := by
  induction bs with
  | nil => exact fun _ _ h => h
  | cons b bs ih => exact fun _ _ h => ih _ _ (Mem.wf_write _ _ _ h)

theorem Mem.wf_copy (m : List Host.Cell) (src dst n : Nat) (h : Mem.wf m = true) : Mem.wf (Mem.copy m src dst n) = true :=
  Mem.wf_foldl _ _ (fun _ _ h => Mem.wf_write _ _ _ h) _ (Mem.wf_zero _ _ _ h)

/-! ### Reads -/

theorem Mem.read_below {m : List Host.Cell} {lo loc : Nat} (h : Mem.above m lo) (hl : loc < lo) : Mem.read m loc = Mem.unlisted := by
  cases m with
  | nil => rfl
  | cons c m =>
    have := h.1
    unfold Mem.read
    rw [if_neg (by omega), if_pos (by omega)]

theorem Mem.read_clear {m : List Host.Cell} {lo : Nat} (h : Mem.above m lo) (loc a : Nat) :
    Mem.read (Mem.clear m loc) a = if a = loc then Mem.unlisted else Mem.read m a := by
  induction m generalizing lo with
  | nil => simp [Mem.clear, Mem.read]
  | cons c m ih =>
    obtain ⟨h1, h2, h3⟩ := h
    have hi := ih h3
    have hb := fun x => Mem.read_below (loc := x) h3
    unfold Mem.clear
    by_cases e : loc = c.1
    · rw [if_pos e]
      by_cases ea : a = loc
      · rw [if_pos ea, hb a (by omega)]
      · rw [if_neg ea]
        conv => rhs; unfold Mem.read
        rw [if_neg (by omega)]
        split
        · exact hb a (by omega)
        · rfl
    · rw [if_neg e]
      by_cases l : loc < c.1
      · rw [if_pos l]
        by_cases ea : a = loc
        · subst ea
          rw [if_pos rfl]
          unfold Mem.read
          rw [if_neg e, if_pos l]
        · rw [if_neg ea]
      · rw [if_neg l]
        unfold Mem.read
        by_cases ea : a = c.1
        · rw [if_pos ea, if_neg (by omega), if_pos ea]
        · rw [if_neg ea, if_neg ea]
          by_cases la : a < c.1
          · rw [if_pos la, if_pos la, if_neg (by omega)]
          · rw [if_neg la, if_neg la, hi]

theorem Mem.read_put {m : List Host.Cell} {lo : Nat} (h : Mem.above m lo) (loc : Nat) (v : Byte) (a : Nat) :
    Mem.read (Mem.put m loc v) a = if a = loc then v else Mem.read m a := by
  induction m generalizing lo with
  | nil =>
    simp only [Mem.put, Mem.read]
    split
    · rfl
    · split <;> rfl
  | cons c m ih =>
    obtain ⟨h1, h2, h3⟩ := h
    have hi := ih h3
    unfold Mem.put
    by_cases e : loc = c.1
    · rw [if_pos e]
      unfold Mem.read
      rw [← e]
      by_cases ea : a = loc
      · rw [if_pos ea, if_pos ea]
      · rw [if_neg ea, if_neg ea, if_neg ea]
    · rw [if_neg e]
      by_cases l : loc < c.1
      · rw [if_pos l]
        conv => lhs; unfold Mem.read
        by_cases ea : a = loc
        · rw [if_pos ea, if_pos ea]
        · rw [if_neg ea, if_neg ea]
          split
          · unfold Mem.read
            rw [if_neg (by omega), if_pos (by omega)]
          · rfl
      · rw [if_neg l]
        unfold Mem.read
        by_cases ea : a = c.1
        · rw [if_pos ea, if_neg (by omega), if_pos ea]
        · rw [if_neg ea, if_neg ea]
          by_cases la : a < c.1
          · rw [if_pos la, if_pos la, if_neg (by omega)]
          · rw [if_neg la, if_neg la, hi]

/-- A byte read after a byte is written: what the write stored at its place, and what was there before at every other one. -/
theorem Mem.read_write (m : List Host.Cell) (h : Mem.wf m = true) (loc : Nat) (v : Byte) (a : Nat) :
    Mem.read (Mem.write m loc v) a = if a = loc then storedByte loc v else Mem.read m a := by
  rw [Mem.wf_iff] at h
  simp only [Mem.write]
  split
  · rename_i e
    rw [Mem.read_clear h, e]
  · exact Mem.read_put h _ _ _

/-- A byte outside the bytes written reads as before. -/
theorem Mem.read_writeN_outside (bs : List Byte) : ∀ (m : List Host.Cell) (_ : Mem.wf m = true) (loc a : Nat),
    (a < loc ∨ loc + bs.length ≤ a) → Mem.read (Mem.writeN m loc bs) a = Mem.read m a := by
  induction bs with
  | nil => intros; rfl
  | cons b bs ih =>
    intro m h loc a ha
    simp only [List.length_cons] at ha
    have hne : a ≠ loc := by rcases ha with ha | ha <;> omega
    unfold Mem.writeN
    rw [ih _ (Mem.wf_write _ _ _ h) _ _ (by omega), Mem.read_write _ h, if_neg hne]

/-- Byte k of those written reads as what a write of it stores. -/
theorem Mem.read_writeN (bs : List Byte) : ∀ (m : List Host.Cell) (_ : Mem.wf m = true) (loc k : Nat) (hk : k < bs.length),
    Mem.read (Mem.writeN m loc bs) (loc + k) = storedByte (loc + k) bs[k] := by
  induction bs with
  | nil => intro _ _ _ k hk; simp at hk
  | cons b bs ih =>
    intro m h loc k hk
    unfold Mem.writeN
    cases k with
    | zero =>
      show Mem.read (Mem.writeN (Mem.write m loc b) (loc + 1) bs) loc = storedByte loc b
      rw [Mem.read_writeN_outside bs _ (Mem.wf_write _ _ _ h) _ _ (by omega), Mem.read_write _ h, if_pos rfl]
    | succ k =>
      have := ih (Mem.write m loc b) (Mem.wf_write _ _ _ h) (loc + 1) k (by simpa using hk)
      rw [show loc + 1 + k = loc + (k + 1) by omega] at this
      rw [this]
      rfl

/-- A filter by place: the kept places read as before, the others as nothing written. -/
theorem Mem.read_filter {m : List Host.Cell} {lo : Nat} (h : Mem.above m lo) (p : Nat → Bool) (a : Nat) :
    Mem.read (m.filter fun c => p c.1) a = if p a then Mem.read m a else Mem.unlisted := by
  induction m generalizing lo with
  | nil => simp [Mem.read]
  | cons c m ih =>
    obtain ⟨-, -, h3⟩ := h
    have hi := ih h3
    by_cases hp : p c.1 = true
    · rw [List.filter_cons_of_pos (p := fun c : Host.Cell => p c.1) hp]
      unfold Mem.read
      by_cases e : a = c.1
      · subst e
        simp [hp]
      · rw [if_neg e, if_neg e]
        by_cases l : a < c.1
        · simp [l]
        · rw [if_neg l, if_neg l, hi]
    · rw [List.filter_cons_of_neg (p := fun c : Host.Cell => p c.1) hp, hi]
      by_cases pa : p a = true
      · rw [if_pos pa, if_pos pa]
        conv => rhs; unfold Mem.read
        have e : a ≠ c.1 := fun e => hp (e ▸ pa)
        rw [if_neg e]
        split
        · exact Mem.read_below h3 (by omega)
        · rfl
      · rw [if_neg pa, if_neg pa]

/-- Zeroed places read as nothing written, the others as before. -/
theorem Mem.read_zero {m : List Host.Cell} (h : Mem.wf m = true) (loc n a : Nat) :
    Mem.read (Mem.zero m loc n) a = if loc ≤ a ∧ a < loc + n then Mem.unlisted else Mem.read m a := by
  refine (Mem.read_filter ((Mem.wf_iff m).1 h) (fun x => !(decide (loc ≤ x) && decide (x < loc + n))) a).trans ?_
  by_cases c : loc ≤ a ∧ a < loc + n <;> simp [c]

theorem Mem.read_unlisted (m : List Host.Cell) (a : Nat) (h : ∀ c ∈ m, c.1 ≠ a) : Mem.read m a = Mem.unlisted := by
  induction m with
  | nil => rfl
  | cons c m ih =>
    unfold Mem.read
    rw [if_neg (h c (by simp)).symm, ih fun c hc => h c (by simp [hc])]
    simp

theorem Mem.storedByte_unlisted (loc : Nat) : storedByte loc Mem.unlisted = Mem.unlisted := by
  unfold storedByte Mem.unlisted
  repeat' split
  all_goals decide

/-- Cells written at the places that a rising function gives. -/
theorem Mem.read_foldl_write {l : List Host.Cell} {lo : Nat} (hl : Mem.above l lo) (src dst : Nat) (hs : ∀ c ∈ l, src ≤ c.1) :
    ∀ (acc : List Host.Cell) (_ : Mem.wf acc = true) (a : Nat), Mem.read (l.foldl (fun acc c => Mem.write acc (c.1 - src + dst) c.2) acc) a =
      if dst ≤ a ∧ ∃ c ∈ l, c.1 = a - dst + src then storedByte a (Mem.read l (a - dst + src)) else Mem.read acc a := by
  induction l generalizing lo with
  | nil => simp
  | cons c l ih =>
    intro acc ha a
    obtain ⟨-, -, h3⟩ := hl
    have hc := hs c (by simp)
    rw [List.foldl_cons, ih h3 (fun d hd => hs d (by simp [hd])) _ (Mem.wf_write _ _ _ ha) a, Mem.read_write _ ha]
    by_cases hd : dst ≤ a ∧ ∃ d ∈ l, d.1 = a - dst + src
    · obtain ⟨hda, d, hdl, hde⟩ := hd
      have hgt : c.1 < a - dst + src := by
        have : ∀ (l : List Host.Cell) lo, Mem.above l lo → ∀ d ∈ l, lo ≤ d.1 := by
          intro l
          induction l with
          | nil => simp
          | cons e l ih =>
            intro lo h d hd
            rcases List.mem_cons.1 hd with rfl | hd
            · exact h.1
            · exact le_trans (by have := h.1; omega) (ih _ h.2.2 d hd)
        have := this l _ h3 d hdl
        omega
      rw [if_pos ⟨hda, d, hdl, hde⟩, if_pos ⟨hda, d, by simp [hdl], hde⟩]
      conv => rhs; unfold Mem.read
      rw [if_neg (by omega), if_neg (by omega)]
    · rw [if_neg hd]
      by_cases e : a = c.1 - src + dst
      · subst e
        have e' : c.1 - src + dst - dst + src = c.1 := by omega
        rw [if_pos rfl, if_pos ⟨by omega, c, by simp, e'.symm⟩, e']
        unfold Mem.read
        rw [if_pos rfl]
      · rw [if_neg e, if_neg]
        rintro ⟨hda, d, hdl, hde⟩
        rcases List.mem_cons.1 hdl with rfl | hdl
        · omega
        · exact hd ⟨hda, d, hdl, hde⟩

/-- What a copy does: each place of the target reads as a write of what its source read, every other place as before. -/
theorem Mem.read_copy {m : List Host.Cell} (h : Mem.wf m = true) (src dst n a : Nat) :
    Mem.read (Mem.copy m src dst n) a =
      if dst ≤ a ∧ a < dst + n then storedByte a (Mem.read m (a - dst + src)) else Mem.read m a := by
  have hm := (Mem.wf_iff m).1 h
  have hp := fun x => Mem.read_filter hm (fun x => decide (src ≤ x) && decide (x < src + n)) x
  unfold Mem.copy
  rw [Mem.read_foldl_write (Mem.above_filter _ hm) src dst (by simp; tauto) _ (Mem.wf_zero _ _ _ h) a, Mem.read_zero h]
  by_cases r : dst ≤ a ∧ a < dst + n
  · rw [if_pos r, if_pos r]
    split
    · rw [hp, if_pos]
      simp
      omega
    · rename_i hn
      have hu : Mem.read (m.filter fun c => decide (src ≤ c.1) && decide (c.1 < src + n)) (a - dst + src) = Mem.unlisted :=
        Mem.read_unlisted _ _ fun c hc e => hn ⟨r.1, c, hc, e⟩
      rw [hp, if_pos (by simp; omega)] at hu
      rw [hu, Mem.storedByte_unlisted]
  · rw [if_neg r, if_neg r, if_neg]
    rintro ⟨hda, c, hc, e⟩
    simp at hc
    omega

/-- Equal bytes at every place are equal memories: the canonical form is one. -/
theorem Mem.ext {m n : List Host.Cell} (hm : Mem.wf m = true) (hn : Mem.wf n = true) (h : ∀ a, Mem.read m a = Mem.read n a) : m = n := by
  rw [Mem.wf_iff] at *
  suffices ∀ (m n : List Host.Cell) (lo : Nat), Mem.above m lo → Mem.above n lo → (∀ a, Mem.read m a = Mem.read n a) → m = n from
    this m n 0 hm hn h
  intro m
  induction m with
  | nil =>
    intro n lo _ hn h
    cases n with
    | nil => rfl
    | cons d n =>
      have := h d.1
      simp only [Mem.read, if_pos] at this
      exact absurd this.symm hn.2.1
  | cons c m ih =>
    intro n lo hm hn h
    cases n with
    | nil =>
      have := h c.1
      simp only [Mem.read, if_pos] at this
      exact absurd this hm.2.1
    | cons d n =>
      have hc := h c.1
      have hd := h d.1
      unfold Mem.read at hc hd
      rw [if_pos rfl] at hc hd
      have e1 : c.1 = d.1 := by
        rcases Nat.lt_trichotomy c.1 d.1 with l | e | l
        · rw [if_neg (by omega), if_pos l] at hc
          exact absurd hc hm.2.1
        · exact e
        · rw [if_neg (by omega), if_pos l] at hd
          exact absurd hd.symm hn.2.1
      rw [if_pos e1] at hc
      have e : c = d := Prod.ext e1 hc
      subst e
      rw [ih n (c.1 + 1) hm.2.2 hn.2.2 fun a => ?_]
      rcases Nat.lt_or_ge a (c.1 + 1) with l | l
      · rw [Mem.read_below hm.2.2 l, Mem.read_below hn.2.2 l]
      · have := h a
        unfold Mem.read at this
        rwa [if_neg (by omega), if_neg (by omega), if_neg (by omega), if_neg (by omega)] at this

/-! ### Poisoned blocks -/

theorem insertBlock_mem (l : List Nat) (b x : Nat) : x ∈ insertBlock l b ↔ x = b ∨ x ∈ l := by
  induction l with
  | nil => simp [insertBlock]
  | cons y l ih =>
    unfold insertBlock
    split
    · rename_i e
      subst e
      simp
    · split
      · simp
      · simp only [List.mem_cons, ih]
        tauto

theorem poison_insert {l : List Nat} (h : l.Pairwise (· < ·)) (b : Nat) : (insertBlock l b).Pairwise (· < ·) := by
  induction l with
  | nil => simp [insertBlock]
  | cons y l ih =>
    rw [List.pairwise_cons] at h
    unfold insertBlock
    split
    · exact List.pairwise_cons.2 h
    · split
      · rename_i hlt
        refine List.pairwise_cons.2 ⟨fun z hz => ?_, List.pairwise_cons.2 h⟩
        rcases List.mem_cons.1 hz with rfl | hz
        · exact hlt
        · exact lt_trans hlt (h.1 z hz)
      · refine List.pairwise_cons.2 ⟨fun z hz => ?_, ih h.2⟩
        rcases (insertBlock_mem _ _ _).1 hz with rfl | hz
        · omega
        · exact h.1 z hz

theorem poison_filter {l : List Nat} (p : Nat → Bool) (h : l.Pairwise (· < ·)) : (l.filter p).Pairwise (· < ·) := h.filter p

theorem poison_inserts (bs : List Nat) : ∀ {l : List Nat}, l.Pairwise (· < ·) → (bs.foldl insertBlock l).Pairwise (· < ·) := by
  induction bs with
  | nil => exact fun h => h
  | cons b bs ih => exact fun h => ih (poison_insert h b)

end Sys2Proof.Machine
end

