-- ==== Sys2Proof/Laws/Keep.lean ====
section
/-! SUPPORT. What every operation keeps (Keeps of Safety.lean): the relation itself, register writes, record updates, folds and outcomes. The files
Keep1 to Keep8 have one lemma for each function that makes a state; a proof about a command cites the command's own. -/
namespace Sys2Proof.Machine

theorem Keeps.refl (s : State) : Keeps s s := ⟨rfl, id, id, id, ⟨rfl, rfl, rfl, rfl, rfl⟩, le_refl _, [], rfl⟩

theorem Ident.same_trans {a b c : Ident} (h : Ident.same a b) (k : Ident.same b c) : Ident.same a c := by
  obtain ⟨h1, h2, h3, h4, h5⟩ := h
  obtain ⟨k1, k2, k3, k4, k5⟩ := k
  exact ⟨k1.trans h1, k2.trans h2, k3.trans h3, k4.trans h4, k5.trans h5⟩

theorem Keeps.trans {r s t : State} (h : Keeps r s) (k : Keeps s t) : Keeps r t := by
  obtain ⟨l, hl⟩ := h.out
  obtain ⟨l', hl'⟩ := k.out
  exact ⟨k.pending.trans h.pending, fun w => k.mem (h.mem w), fun w => k.poison (h.poison w), fun w => k.flds (h.flds w),
    Ident.same_trans h.ident k.ident, le_trans h.free k.free, l' ++ l, by rw [hl', hl, List.append_assoc]⟩

/-! ### Register fields -/

theorem fldsOk_set {m : KMap FKey Nat} {k : FKey} {v : Nat} (h : fldsOk m) (hv : v < 2 ^ k.f.width) : fldsOk (KMap.set m k v) := by
  intro e he
  simp only [KMap.set, KMap.erase, List.mem_cons, List.mem_filter] at he
  rcases he with rfl | ⟨he, -⟩
  · exact hv
  · exact h e he

theorem fldsOk_filter {m : KMap FKey Nat} (p : FKey × Nat → Bool) (h : fldsOk m) : fldsOk (m.filter p) :=
  fun e he => h e (List.mem_of_mem_filter he)

variable {r0 s : State}

theorem keeps_set (h : Keeps r0 s) (f : Field) (v u i : Nat) : Keeps r0 (s.set f v u i) :=
  ⟨h.pending, h.mem, h.poison, fun w => fldsOk_set (h.flds w) (Nat.mod_lt _ (Nat.two_pow_pos _)), h.ident, h.free, h.out⟩

theorem keeps_bump (h : Keeps r0 s) (f : Field) (n u i : Nat) : Keeps r0 (s.bump f n u i) := keeps_set h ..

theorem keeps_bumpSat (h : Keeps r0 s) (f : Field) (n u i : Nat) : Keeps r0 (s.bumpSat f n u i) := keeps_set h ..

theorem keeps_setBit (h : Keeps r0 s) (f : Field) (b : Nat) (v : Bool) (u i : Nat) : Keeps r0 (s.setBit f b v u i) := keeps_set h ..

/-! ### Record updates -/

/-- An update of other fields than those that Keeps speaks of. -/
theorem keeps_mk (h : Keeps r0 s) {x4 x5 x6 x7 x8 x9 x10 x11 x12 x13 x14 x15 x16 x17 x18 x19 x20 x21 x22 x23 x24 x25 x26 x27
    x28 x29 x30 x31} :
    Keeps r0 ⟨s.ident, s.flds, s.mem, s.poison, x4, x5, x6, x7, x8, x9, x10, x11, x12, x13, x14, x15, x16, x17, x18, x19,
    x20, x21, x22, x23, x24, x25, x26, x27, x28, x29, x30, x31, s.out, s.free, s.pending⟩ :=
  ⟨h.pending, h.mem, h.poison, h.flds, h.ident, h.free, h.out⟩

/-- An update of memory and of the poisoned blocks that keeps both in order, with other fields. -/
theorem keeps_mkm (h : Keeps r0 s) {m p x4 x5 x6 x7 x8 x9 x10 x11 x12 x13 x14 x15 x16 x17 x18 x19 x20 x21 x22 x23 x24 x25
    x26 x27 x28 x29 x30 x31} (hm : Mem.wf s.mem = true → Mem.wf m = true) (hp : s.poison.Pairwise (· < ·) → p.Pairwise (· <
    ·)) :
    Keeps r0 ⟨s.ident, s.flds, m, p, x4, x5, x6, x7, x8, x9, x10, x11, x12, x13, x14, x15, x16, x17, x18, x19, x20, x21,
    x22, x23, x24, x25, x26, x27, x28, x29, x30, x31, s.out, s.free, s.pending⟩ :=
  ⟨h.pending, fun w => hm (h.mem w), fun w => hp (h.poison w), h.flds, h.ident, h.free, h.out⟩

/-! ### Folds, conditions and outcomes -/

theorem keeps_foldl {α : Type} (l : List α) (f : State → α → State) (s : State) (h : Keeps r0 s)
    (hf : ∀ s a, Keeps r0 s → Keeps r0 (f s a)) : Keeps r0 (l.foldl f s) := by
  induction l generalizing s with
  | nil => exact h
  | cons a l ih => exact ih _ (hf _ _ h)

theorem keeps_foldl_fst {α β : Type} (l : List α) (f : State × β → α → State × β) (s : State × β) (h : Keeps r0 s.1)
    (hf : ∀ s a, Keeps r0 s.1 → Keeps r0 (f s a).1) : Keeps r0 (l.foldl f s).1 := by
  induction l generalizing s with
  | nil => exact h
  | cons a l ih => exact ih _ (hf _ _ h)

theorem keeps_ite {c : Prop} [Decidable c] {a b : State} (ha : c → Keeps r0 a) (hb : ¬ c → Keeps r0 b) :
    Keeps r0 (if c then a else b) := by
  split
  · exact ha ‹_›
  · exact hb ‹_›

/-- An outcome that keeps what Keeps says, where it is a next state. -/
def KeepsR (r : State) (x : Res) : Prop := ∀ t, x = .next t → Keeps r t

theorem KeepsR_next {t : State} : KeepsR r0 (.next t) = Keeps r0 t := by simp [KeepsR]

theorem KeepsR_fault {f : Fault} : KeepsR r0 (.fault f) = True := by simp [KeepsR]

theorem keepsR_ite {c : Prop} [Decidable c] {a b : Res} (ha : c → KeepsR r0 a) (hb : ¬ c → KeepsR r0 b) :
    KeepsR r0 (if c then a else b) := by
  split
  · exact ha ‹_›
  · exact hb ‹_›

theorem KeepsR_onUnit {ok : Bool} {x : Res} (h : KeepsR r0 x) : KeepsR r0 (onUnit ok x) := by
  cases ok
  · intro t e
    cases e
  · exact h

theorem keeps_orStay (h : Keeps r0 s) {x : Res} (hx : KeepsR r0 x) : Keeps r0 (s.orStay x) := by
  cases x with
  | next t => exact hx t rfl
  | fault => exact h
  | refused => exact h

end Sys2Proof.Machine
end

