-- ==== Sys2Proof/Laws/Keep1.lean ====
section
/-! SUPPORT. What every operation keeps: memory, completion, the tile dispatcher, the matrix and vector engines and the DMA engine. -/
namespace Sys2Proof.Machine

/-! ### Mem.lean -/

theorem keeps_poisonAt {r0 s : State} (h : Keeps r0 s) (loc : Nat) : Keeps r0 (State.poisonAt s loc) :=
  keeps_mkm h id (fun w => poison_insert w _)

theorem keeps_unpoison {r0 s : State} (h : Keeps r0 s) (loc n : Nat) : Keeps r0 (State.unpoison s loc n) :=
  keeps_mkm h id (fun w => poison_filter _ w)

theorem keeps_wr {r0 s : State} (h : Keeps r0 s) (loc : Nat) (bs : List Byte) : Keeps r0 (State.wr s loc bs) :=
  keeps_mkm h (fun w => Mem.wf_writeN _ _ _ w) (fun w => poison_filter _ w)

/-! ### Ops.lean -/

theorem keeps_tick {r0 s : State} (h : Keeps r0 s) : Keeps r0 (State.tick s) :=
  ⟨h.pending, h.mem, h.poison, h.flds, h.ident, Nat.le_succ_of_le h.free, h.out⟩

theorem keeps_ticks {r0 s : State} (h : Keeps r0 s) (n : Nat) : Keeps r0 (State.ticks s n) :=
  ⟨h.pending, h.mem, h.poison, h.flds, h.ident, Nat.le_add_right_of_le h.free, h.out⟩

theorem keeps_emit {r0 s : State} (h : Keeps r0 s) (o : Out) : Keeps r0 (State.emit s o) :=
  ⟨h.pending, h.mem, h.poison, h.flds, h.ident, h.free, h.out.elim fun l e => ⟨o :: l, congrArg (o :: ·) e⟩⟩

theorem keeps_pkgSend {r0 s : State} (h : Keeps r0 s) (m : Msg) : Keeps r0 (State.pkgSend s m) := by
  unfold State.pkgSend
  simp (maxDischargeDepth := 60) +contextual only [keeps_ite, implies_true, keeps_mk, keeps_emit, *]

theorem keeps_msixOn {r0 s : State} (h : Keeps r0 s) (l vec : Nat) : Keeps r0 (State.msixOn s l vec) := by
  unfold State.msixOn
  simp (maxDischargeDepth := 60) +contextual only [keeps_ite, implies_true, keeps_mk, keeps_emit, *]

theorem keeps_sendMsix {r0 s : State} (h : Keeps r0 s) (vec : Nat) (all : Bool) : Keeps r0 (State.sendMsix s vec all) := by
  unfold State.sendMsix
  simp (maxDischargeDepth := 60) +contextual only [keeps_ite, implies_true, keeps_bumpSat, keeps_msixOn, *]

theorem keeps_irq {r0 s : State} (h : Keeps r0 s) (n : Nat) (sev3 : Bool) : Keeps r0 (State.irq s n sev3) := by
  unfold State.irq
  simp (maxDischargeDepth := 60) +contextual only [keeps_ite, implies_true, keeps_emit, keeps_sendMsix, keeps_setBit, *]

theorem keeps_log' {r0 s : State} (h : Keeps r0 s) (src code sev : Nat) (fs : List (Nat × Nat)) : Keeps r0 (State.log' s src code
    sev fs) := by
  unfold State.log'
  simp (maxDischargeDepth := 60) +contextual only [keeps_ite, implies_true, keeps_mk, keeps_irq, *]

theorem keeps_wake {r0 s : State} (h : Keeps r0 s) (cause : Nat) : Keeps r0 (State.wake s cause) := by
  unfold State.wake
  simp (maxDischargeDepth := 60) +contextual only [keeps_ite, implies_true, keeps_mk, keeps_set, *]

theorem keeps_q1Wake {r0 s : State} (h : Keeps r0 s) (clu : Nat) : Keeps r0 (State.q1Wake s clu) := by
  unfold State.q1Wake
  simp (maxDischargeDepth := 60) +contextual only [keeps_ite, implies_true, keeps_mk, keeps_set, *]

theorem keeps_setDie {r0 s : State} (h : Keeps r0 s) (d : Nat) (x : DieSt) : Keeps r0 (State.setDie s d x) := by
  unfold State.setDie
  simp (maxDischargeDepth := 60) +contextual only [keeps_mk, *]

theorem keeps_waitFor {r0 s : State} (h : Keeps r0 s) (w : WaitAcc) : Keeps r0 (State.waitFor s w) := by
  unfold State.waitFor
  simp (maxDischargeDepth := 60) +contextual only [keeps_mk, *]

theorem keeps_wrDa {r0 s : State} (h : Keeps r0 s) (a : Agent) (img : Image) (da : Nat) (bs : List Byte) : Keeps r0 (State.wrDa s
    a img da bs) := by
  refine keeps_foldl _ _ _ h fun s' b hs => ?_
  split
  · exact keeps_wr hs ..
  · exact hs

theorem keeps_unmappedEv {r0 s : State} (h : Keeps r0 s) (a : Agent) (da : Nat) : Keeps r0 (State.unmappedEv s a da) := by
  unfold State.unmappedEv
  simp (maxDischargeDepth := 60) +contextual only [keeps_log', *]

/-! ### Issue.lean -/

theorem keeps_setCore {r0 s : State} (h : Keeps r0 s) (c : Nat) (x : CoreSt) : Keeps r0 (State.setCore s c x) := by
  unfold State.setCore
  simp (maxDischargeDepth := 60) +contextual only [keeps_mk, *]

theorem keeps_syncMxe {r0 s : State} (h : Keeps r0 s) (core : Nat) : Keeps r0 (State.syncMxe s core) := by
  unfold State.syncMxe
  simp (maxDischargeDepth := 60) +contextual only [keeps_set, *]

theorem keeps_syncBusy {r0 s : State} (h : Keeps r0 s) (ld : Nat) : Keeps r0 (State.syncBusy s ld) := by
  unfold State.syncBusy
  simp (maxDischargeDepth := 60) +contextual only [keeps_set, *]

theorem keeps_syncKind {r0 s : State} (h : Keeps r0 s) (core kind : Nat) : Keeps r0 (State.syncKind s core kind) := by
  unfold State.syncKind
  simp (maxDischargeDepth := 60) +contextual only [keeps_ite, implies_true, keeps_syncBusy, *]

theorem keeps_issue {r0 s : State} (h : Keeps r0 s) (core kind qid : Nat) (d : Desc) : Keeps r0 (State.issue s core kind qid d)
    := by
  unfold State.issue
  simp (maxDischargeDepth := 60) +contextual only [keeps_q1Wake, keeps_setCore, keeps_syncKind, keeps_syncMxe, *]

theorem keeps_hold {r0 s : State} (h : Keeps r0 s) (core kind : Nat) (d : Desc) : Keeps r0 (State.hold s core kind d) := by
  unfold State.hold
  simp (maxDischargeDepth := 60) +contextual only [keeps_ite, implies_true, keeps_issue, *]

theorem keeps_setX {r0 s : State} (h : Keeps r0 s) (core rd : Nat) (v : Word) : Keeps r0 (State.setX s core rd v) := by
  unfold State.setX
  simp (maxDischargeDepth := 60) +contextual only [keeps_ite, implies_true, keeps_setCore, *]

theorem keeps_unstall {r0 s : State} (h : Keeps r0 s) (core : Nat) : Keeps r0 (State.unstall s core) := by
  unfold State.unstall
  repeat' first
    | (with_reducible assumption)
    | (solve | simp (maxDischargeDepth := 60) +contextual only [keeps_ite, implies_true, keeps_issue, keeps_setCore,
        keeps_setX, *])
    | (with_reducible intro _)
    | (simp only [])
    | split

theorem keeps_accDo {r0 s : State} (h : Keeps r0 s) (by_ : Agent) (core off : Nat) (write : Bool) (data : List Byte) : Keeps r0
    (State.accDo s by_ core off write data) := by
  unfold State.accDo
  simp (maxDischargeDepth := 60) +contextual only [keeps_ite, implies_true, keeps_emit, keeps_wr, *]

theorem keeps_drainAcc {r0 s : State} (h : Keeps r0 s) (core : Nat) : Keeps r0 (State.drainAcc s core) := by
  unfold State.drainAcc
  simp (maxDischargeDepth := 60) +contextual only [implies_true, keeps_foldl, keeps_accDo, keeps_setCore, *]

theorem keeps_unhold {r0 s : State} (h : Keeps r0 s) (core kind : Nat) (d : Desc) : Keeps r0 (State.unhold s core kind d) := by
  unfold State.unhold
  simp (maxDischargeDepth := 60) +contextual only [implies_true, keeps_foldl, keeps_drainAcc, keeps_setCore, keeps_syncKind,
      keeps_syncMxe, keeps_unstall, *]

theorem keeps_complete {r0 s : State} (h : Keeps r0 s) (core kind : Nat) (d : Desc) : Keeps r0 (State.complete s core kind d)
    := by
  unfold State.complete
  simp (maxDischargeDepth := 60) +contextual only [keeps_setCore, keeps_unhold, *]

theorem keeps_cmdDrop {r0 s : State} (h : Keeps r0 s) (core qid mb cls items : Nat) : Keeps r0 (State.cmdDrop s core qid mb cls
    items) := by
  unfold State.cmdDrop
  simp (maxDischargeDepth := 60) +contextual only [keeps_log', *]

theorem keeps_countDrop {r0 s : State} (h : Keeps r0 s) (core pkt : Nat) : Keeps r0 (State.countDrop s core pkt) := by
  unfold State.countDrop
  simp (maxDischargeDepth := 60) +contextual only [keeps_bump, keeps_setCore, *]

theorem keeps_tdyState {r0 s : State} (h : Keeps r0 s) (core st : Nat) : Keeps r0 (State.tdyState s core st) := by
  unfold State.tdyState
  simp (maxDischargeDepth := 60) +contextual only [keeps_set, *]

theorem keeps_setWait {r0 s : State} (h : Keeps r0 s) (core : Nat) (w : Wait) : Keeps r0 (State.setWait s core w) := by
  unfold State.setWait
  simp (maxDischargeDepth := 60) +contextual only [keeps_setCore, keeps_tdyState, *]

theorem keeps_dropWait {r0 s : State} (h : Keeps r0 s) (core pkt : Nat) : Keeps r0 (State.dropWait s core pkt) := by
  unfold State.dropWait
  simp (maxDischargeDepth := 60) +contextual only [keeps_ite, implies_true, keeps_setWait, *]

theorem keeps_dropPacket {r0 s : State} (h : Keeps r0 s) (core : Nat) (h : Held) : Keeps r0 (State.dropPacket s core h) := by
  unfold State.dropPacket
  simp (maxDischargeDepth := 60) +contextual only [keeps_ite, implies_true, keeps_bump, keeps_cmdDrop, keeps_countDrop,
      keeps_dropWait, keeps_setCore, *]

theorem keeps_refuse {r0 s : State} (h : Keeps r0 s) (core kind : Nat) (d : Desc) : Keeps r0 (State.refuse s core kind d) := by
  unfold State.refuse
  simp (maxDischargeDepth := 60) +contextual only [keeps_dropPacket, keeps_unhold, *]

theorem keeps_gatedIssue {r0 s : State} (h : Keeps r0 s) (core kind qid : Nat) (d : Desc) (node : Nat) : Keeps r0
    (State.gatedIssue s core kind qid d node) := by
  unfold State.gatedIssue
  simp (maxDischargeDepth := 60) +contextual only [keeps_dropPacket, keeps_log', *]

theorem keeps_atUnit {r0 s : State} (h : Keeps r0 s) (core kind : Nat) (d : Desc) (f : State → State) (hf3 : ∀ y0, Keeps r0 y0 →
    Keeps r0 (f y0)) : Keeps r0 (State.atUnit s core kind d f) := by
  unfold State.atUnit
  repeat' first
    | (with_reducible assumption)
    | (solve | simp (maxDischargeDepth := 60) +contextual only [keeps_ite, implies_true, keeps_gatedIssue, *])
    | (with_reducible intro _)
    | (simp only [])
    | split

theorem keeps_fmtIllegal {r0 s : State} (h : Keeps r0 s) (src cls : Nat) (b : BadField) : Keeps r0 (State.fmtIllegal s src cls b)
    := by
  unfold State.fmtIllegal
  simp (maxDischargeDepth := 60) +contextual only [keeps_log', *]

theorem keeps_memUe {r0 s : State} (h : Keeps r0 s) (src die chan da who : Nat) : Keeps r0 (State.memUe s src die chan da who)
    := by
  unfold State.memUe
  simp (maxDischargeDepth := 60) +contextual only [keeps_log', *]

theorem keeps_daUe {r0 s : State} (h : Keeps r0 s) (src : Nat) (a : Agent) (img : Image) (da : Nat) : Keeps r0 (State.daUe s src a
    img da) := by
  unfold State.daUe
  repeat' first
    | (with_reducible assumption)
    | (solve | simp (maxDischargeDepth := 60) +contextual only [keeps_memUe, *])
    | (with_reducible intro _)
    | (simp only [])
    | split

theorem keeps_coreUe {r0 s : State} (h : Keeps r0 s) (src core place : Nat) : Keeps r0 (State.coreUe s src core place) := by
  unfold State.coreUe
  simp (maxDischargeDepth := 60) +contextual only [keeps_memUe, *]

theorem keeps_uncorrectable {r0 s : State} (h : Keeps r0 s) (ld off da who : Nat) : Keeps r0 (State.uncorrectable s ld off da who)
    := by
  unfold State.uncorrectable
  simp (maxDischargeDepth := 60) +contextual only [keeps_bumpSat, keeps_log', keeps_poisonAt, keeps_set, *]

theorem keeps_tallyAdd {r0 s : State} (h : Keeps r0 s) (die : Nat) (pol : List Byte) (tid : Nat) (c : Counts) (amax : Nat) : Keeps
    r0 (State.tallyAdd s die pol tid c amax) := by
  unfold State.tallyAdd
  repeat' first
    | (with_reducible assumption)
    | (solve | simp (maxDischargeDepth := 60) +contextual only [keeps_bumpSat, keeps_setDie, *])
    | (with_reducible intro _)
    | (simp only [])
    | split

theorem keeps_steerHold {r0 s : State} (h : Keeps r0 s) (core kind : Nat) (d : Desc) : Keeps r0 (State.steerHold s core kind d)
    := by
  unfold State.steerHold
  simp (maxDischargeDepth := 60) +contextual only [keeps_ite, implies_true, keeps_bumpSat, keeps_hold, keeps_setCore, *]

/-! ### Mxe.lean -/

theorem keeps_setAcc {r0 s : State} (h : Keeps r0 s) (core tile i j c : Nat) : Keeps r0 (State.setAcc s core tile i j c) := by
  unfold State.setAcc
  simp (maxDischargeDepth := 60) +contextual only [keeps_wr, *]

theorem keeps_mmaAdd {r0 s : State} (h : Keeps r0 s) (core : Nat) (x : Mma) (fa fb : Fmt) (ng : Nat) : Keeps r0 (State.mmaAdd s
    core x fa fb ng).1 := by
  refine keeps_foldl_fst _ _ _ h fun acc ij hs => ?_
  simp only []
  split
  · exact keeps_setAcc hs ..
  · split
    · exact keeps_setAcc hs ..
    · exact hs

theorem keeps_mmaOut {r0 s : State} (h : Keeps r0 s) (core : Nat) (x : Mma) (fa fb fo : Fmt) (co clip : Nat) (pol : List Byte) :
    Keeps r0 (State.mmaOut s core x fa fb fo co clip pol) := by
  unfold State.mmaOut
  simp (maxDischargeDepth := 60) +contextual only [keeps_ite, implies_true, keeps_foldl, keeps_tallyAdd, keeps_wr, *]

theorem keeps_mxeRefuse {r0 s : State} (h : Keeps r0 s) (core : Nat) (d : Desc) (isFmt : Bool) (b : BadField) : Keeps r0
    (State.mxeRefuse s core d isFmt b) := by
  unfold State.mxeRefuse
  simp (maxDischargeDepth := 60) +contextual only [keeps_ite, implies_true, keeps_bump, keeps_fmtIllegal, keeps_log',
      keeps_refuse, *]

theorem keeps_mmaRun {r0 s : State} (h : Keeps r0 s) (core : Nat) (d : Desc) (x : Mma) (fa fb fo : Fmt) (co clip : Nat) (pol :
    List Byte) : Keeps r0 (State.mmaRun s core d x fa fb fo co clip pol) := by
  unfold State.mmaRun
  repeat' first
    | (with_reducible assumption)
    | (solve | simp (maxDischargeDepth := 60) +contextual only [keeps_bump, keeps_bumpSat, keeps_complete, keeps_coreUe,
        keeps_mmaAdd, keeps_mmaOut, keeps_refuse, keeps_setBit, *])
    | (with_reducible intro _)
    | (simp only [])
    | split

theorem keeps_mmaStart {r0 s : State} (h : Keeps r0 s) (core : Nat) (d : Desc) : Keeps r0 (State.mmaStart s core d) := by
  unfold State.mmaStart
  repeat' first
    | (with_reducible assumption)
    | (solve | simp (maxDischargeDepth := 60) +contextual only [implies_true, keeps_hold, keeps_mmaRun, keeps_mxeRefuse,
        keeps_steerHold, *])
    | (with_reducible intro _)
    | (simp only [])
    | split

theorem keeps_execMmaDescriptor {r0 s : State} (h : Keeps r0 s) (core : Nat) (d : Desc) : KeepsR r0 (execMmaDescriptor core d s)
    := by
  unfold execMmaDescriptor
  simp (maxDischargeDepth := 60) +contextual only [implies_true, KeepsR_next, KeepsR_onUnit, keeps_atUnit, keeps_mmaStart, *]

theorem keeps_accAt {r0 s : State} (h : Keeps r0 s) (by_ : Agent) (loc : Nat) (write : Bool) (data : List Byte) : Keeps r0
    (State.accAt s by_ loc write data) := by
  unfold State.accAt
  simp (maxDischargeDepth := 60) +contextual only [keeps_ite, implies_true, keeps_accDo, keeps_emit, keeps_setCore, *]

theorem keeps_accAccess {r0 s : State} (h : Keeps r0 s) (by_ : Agent) (da : Nat) (write : Bool) (data : List Byte) : Keeps r0
    (State.accAccess s by_ da write data) := by
  unfold State.accAccess
  generalize s.resolve by_ (s.carveBank by_) da = x
  cases x with
  | unmapped => exact keeps_emit (keeps_unmappedEv h ..) ..
  | wait => exact keeps_emit (keeps_unmappedEv h ..) ..
  | _ loc => exact keeps_accAt h ..

theorem keeps_execAccmemAccess {r0 s : State} (h : Keeps r0 s) (by_ : Agent) (da : Nat) (write : Bool) (data : List Byte) : KeepsR
    r0 (execAccmemAccess by_ da write data s) := by
  unfold execAccmemAccess
  simp (maxDischargeDepth := 60) +contextual only [KeepsR_next, keeps_accAccess, *]

/-! ### Vec.lean -/

theorem keeps_vecRun {r0 s : State} (h : Keeps r0 s) (core : Nat) (x : VecD) (conv : Bool) (fa fb fd : Fmt) (co clip : Nat) (pol :
    List Byte) (n : Nat) : Keeps r0 (State.vecRun s core x conv fa fb fd co clip pol n) := by
  unfold State.vecRun
  simp (maxDischargeDepth := 60) +contextual only [keeps_ite, implies_true, keeps_foldl, keeps_tallyAdd, keeps_wr, *]

theorem keeps_vecRefuse {r0 s : State} (h : Keeps r0 s) (core : Nat) (d : Desc) (isFmt : Bool) (b : BadField) : Keeps r0
    (State.vecRefuse s core d isFmt b) := by
  unfold State.vecRefuse
  simp (maxDischargeDepth := 60) +contextual only [keeps_ite, implies_true, keeps_fmtIllegal, keeps_log', keeps_refuse, *]

theorem keeps_vecStart {r0 s : State} (h : Keeps r0 s) (core : Nat) (d : Desc) (conv : Bool) : Keeps r0 (State.vecStart s core d
    conv) := by
  unfold State.vecStart
  repeat' first
    | (with_reducible assumption)
    | (solve | simp (maxDischargeDepth := 60) +contextual only [implies_true, keeps_complete, keeps_coreUe, keeps_hold,
        keeps_refuse, keeps_steerHold, keeps_vecRefuse, keeps_vecRun, *])
    | (with_reducible intro _)
    | (simp only [])
    | split

theorem keeps_vecOpRow {r0 s : State} (h : Keeps r0 s) (core : Nat) (d : Desc) (op : Nat) : KeepsR r0 (State.vecOpRow s core d op)
    := by
  unfold State.vecOpRow
  simp (maxDischargeDepth := 60) +contextual only [implies_true, KeepsR_next, KeepsR_fault, keepsR_ite, KeepsR_onUnit,
      keeps_atUnit, keeps_vecStart, *]

theorem keeps_execVecConvert {r0 s : State} (h : Keeps r0 s) (core : Nat) (d : Desc) : KeepsR r0 (execVecConvert core d s) := by
  unfold execVecConvert
  simp (maxDischargeDepth := 60) +contextual only [implies_true, KeepsR_next, KeepsR_onUnit, keeps_atUnit, keeps_vecStart, *]

theorem keeps_execVecAdd {r0 s : State} (h : Keeps r0 s) (core : Nat) (d : Desc) : KeepsR r0 (execVecAdd core d s) := by
  unfold execVecAdd
  simp (maxDischargeDepth := 60) +contextual only [keeps_vecOpRow, *]

theorem keeps_execVecSub {r0 s : State} (h : Keeps r0 s) (core : Nat) (d : Desc) : KeepsR r0 (execVecSub core d s) := by
  unfold execVecSub
  simp (maxDischargeDepth := 60) +contextual only [keeps_vecOpRow, *]

theorem keeps_execVecMul {r0 s : State} (h : Keeps r0 s) (core : Nat) (d : Desc) : KeepsR r0 (execVecMul core d s) := by
  unfold execVecMul
  simp (maxDischargeDepth := 60) +contextual only [keeps_vecOpRow, *]

theorem keeps_execVecAxpb {r0 s : State} (h : Keeps r0 s) (core : Nat) (d : Desc) : KeepsR r0 (execVecAxpb core d s) := by
  unfold execVecAxpb
  simp (maxDischargeDepth := 60) +contextual only [keeps_vecOpRow, *]

theorem keeps_execVecMax {r0 s : State} (h : Keeps r0 s) (core : Nat) (d : Desc) : KeepsR r0 (execVecMax core d s) := by
  unfold execVecMax
  simp (maxDischargeDepth := 60) +contextual only [keeps_vecOpRow, *]

theorem keeps_execVecMin {r0 s : State} (h : Keeps r0 s) (core : Nat) (d : Desc) : KeepsR r0 (execVecMin core d s) := by
  unfold execVecMin
  simp (maxDischargeDepth := 60) +contextual only [keeps_vecOpRow, *]

theorem keeps_execVecExp {r0 s : State} (h : Keeps r0 s) (core : Nat) (d : Desc) : KeepsR r0 (execVecExp core d s) := by
  unfold execVecExp
  simp (maxDischargeDepth := 60) +contextual only [keeps_vecOpRow, *]

theorem keeps_execVecLog {r0 s : State} (h : Keeps r0 s) (core : Nat) (d : Desc) : KeepsR r0 (execVecLog core d s) := by
  unfold execVecLog
  simp (maxDischargeDepth := 60) +contextual only [keeps_vecOpRow, *]

theorem keeps_execVecRsqrt {r0 s : State} (h : Keeps r0 s) (core : Nat) (d : Desc) : KeepsR r0 (execVecRsqrt core d s) := by
  unfold execVecRsqrt
  simp (maxDischargeDepth := 60) +contextual only [keeps_vecOpRow, *]

theorem keeps_execVecRecip {r0 s : State} (h : Keeps r0 s) (core : Nat) (d : Desc) : KeepsR r0 (execVecRecip core d s) := by
  unfold execVecRecip
  simp (maxDischargeDepth := 60) +contextual only [keeps_vecOpRow, *]

theorem keeps_execVecTanh {r0 s : State} (h : Keeps r0 s) (core : Nat) (d : Desc) : KeepsR r0 (execVecTanh core d s) := by
  unfold execVecTanh
  simp (maxDischargeDepth := 60) +contextual only [keeps_vecOpRow, *]

theorem keeps_execVecSigmoid {r0 s : State} (h : Keeps r0 s) (core : Nat) (d : Desc) : KeepsR r0 (execVecSigmoid core d s) := by
  unfold execVecSigmoid
  simp (maxDischargeDepth := 60) +contextual only [keeps_vecOpRow, *]

theorem keeps_execVecRowsum {r0 s : State} (h : Keeps r0 s) (core : Nat) (d : Desc) : KeepsR r0 (execVecRowsum core d s) := by
  unfold execVecRowsum
  simp (maxDischargeDepth := 60) +contextual only [keeps_vecOpRow, *]

theorem keeps_execVecRowmax {r0 s : State} (h : Keeps r0 s) (core : Nat) (d : Desc) : KeepsR r0 (execVecRowmax core d s) := by
  unfold execVecRowmax
  simp (maxDischargeDepth := 60) +contextual only [keeps_vecOpRow, *]

theorem keeps_execVecRowsq {r0 s : State} (h : Keeps r0 s) (core : Nat) (d : Desc) : KeepsR r0 (execVecRowsq core d s) := by
  unfold execVecRowsq
  simp (maxDischargeDepth := 60) +contextual only [keeps_vecOpRow, *]

theorem keeps_steerTake {r0 s : State} (h : Keeps r0 s) (core : Nat) (d : Desc) : Keeps r0 (State.steerTake s core d) := by
  unfold State.steerTake
  simp (maxDischargeDepth := 60) +contextual only [keeps_setCore, *]

/-! ### Dma.lean -/

theorem keeps_dmaRefuse {r0 s : State} (h : Keeps r0 s) (core : Nat) (d : Desc) (b : BadField) : Keeps r0 (State.dmaRefuse s core
    d b) := by
  unfold State.dmaRefuse
  simp (maxDischargeDepth := 60) +contextual only [keeps_log', keeps_refuse, *]

theorem keeps_dmaRow {r0 s : State} (h : Keeps r0 s) (a : Agent) (img : Image) (src dst len : Nat) : Keeps r0 (State.dmaRow s a
    img src dst len).1 := by
  unfold State.dmaRow
  repeat' first
    | (with_reducible assumption)
    | (solve | simp (maxDischargeDepth := 60) +contextual only [keeps_wrDa, *])
    | (with_reducible intro _)
    | (simp only [])
    | split

theorem keeps_dmaPoison {r0 s : State} (h : Keeps r0 s) (core : Nat) (d : Desc) (a : Agent) (img : Image) (da : Nat) : Keeps r0
    (State.dmaPoison s core d a img da) := by
  unfold State.dmaPoison
  simp (maxDischargeDepth := 60) +contextual only [keeps_daUe, keeps_refuse, *]

theorem keeps_dmaCopyRows {r0 s : State} (h : Keeps r0 s) (a : Agent) (img : Image) (l : List ((Nat × Nat) × (Nat × Nat))) : Keeps
    r0 (State.dmaCopyRows s a img l).1 := by
  induction l generalizing s with
  | nil => exact h
  | cons x l ih =>
    have hr := keeps_dmaRow h a img x.1.1 x.2.1 x.1.2
    unfold State.dmaCopyRows
    revert hr
    cases s.dmaRow a img x.1.1 x.2.1 x.1.2 with
    | mk t b =>
      intro hr
      cases b
      · exact ih hr
      · exact hr

theorem keeps_dmaStart {r0 s : State} (h : Keeps r0 s) (core : Nat) (d : Desc) (mode : Nat) : Keeps r0 (State.dmaStart s core d
    mode) := by
  unfold State.dmaStart
  split
  · exact keeps_hold h ..
  extract_lets a img src dst ss ds
  split
  · exact keeps_dmaRefuse h ..
  split
  · exact keeps_dmaRefuse h ..
  split
  · exact keeps_dmaRefuse (keeps_unmappedEv h ..) ..
  · exact keeps_dmaRefuse (keeps_unmappedEv h ..) ..
  · exact keeps_hold h ..
  · exact keeps_hold h ..
  split
  · exact keeps_hold h ..
  split
  · exact keeps_complete (keeps_foldl _ _ _ h fun s x hs => keeps_wrDa hs ..) ..
  · have hc := keeps_dmaCopyRows h a img (ss.zip ds)
    split
    · rename_i t e
      rw [e] at hc
      exact keeps_complete hc ..
    · rename_i t p e
      rw [e] at hc
      exact keeps_dmaPoison hc ..

theorem keeps_dmaModeRow {r0 s : State} (h : Keeps r0 s) (core : Nat) (d : Desc) (mode : Nat) : KeepsR r0 (State.dmaModeRow s core
    d mode) := by
  unfold State.dmaModeRow
  simp (maxDischargeDepth := 60) +contextual only [implies_true, KeepsR_next, KeepsR_fault, keepsR_ite, KeepsR_onUnit,
      keeps_atUnit, keeps_dmaStart, *]

theorem keeps_execDmaCopy {r0 s : State} (h : Keeps r0 s) (core : Nat) (d : Desc) : KeepsR r0 (execDmaCopy core d s) := by
  unfold execDmaCopy
  simp (maxDischargeDepth := 60) +contextual only [keeps_dmaModeRow, *]

theorem keeps_execDmaFill {r0 s : State} (h : Keeps r0 s) (core : Nat) (d : Desc) : KeepsR r0 (execDmaFill core d s) := by
  unfold execDmaFill
  simp (maxDischargeDepth := 60) +contextual only [keeps_dmaModeRow, *]

theorem keeps_execDmaTileSave {r0 s : State} (h : Keeps r0 s) (core : Nat) (d : Desc) : KeepsR r0 (execDmaTileSave core d s) := by
  unfold execDmaTileSave
  simp (maxDischargeDepth := 60) +contextual only [keeps_dmaModeRow, *]

theorem keeps_execDmaTileRestore {r0 s : State} (h : Keeps r0 s) (core : Nat) (d : Desc) : KeepsR r0 (execDmaTileRestore core d s)
    := by
  unfold execDmaTileRestore
  simp (maxDischargeDepth := 60) +contextual only [keeps_dmaModeRow, *]

theorem keeps_execSteeredDescriptorResume {r0 s : State} (h : Keeps r0 s) (core : Nat) (d : Desc) : KeepsR r0
    (execSteeredDescriptorResume core d s) := by
  unfold execSteeredDescriptorResume
  simp (maxDischargeDepth := 60) +contextual only [implies_true, KeepsR_next, keepsR_ite, KeepsR_onUnit, keeps_mmaStart,
      keeps_steerTake, keeps_vecStart, *]

/-! ### Tdy.lean -/

theorem keeps_waitOpen {r0 s : State} (h : Keeps r0 s) (core : Nat) (opens : Bool) (b step : Nat) (late : Bool) : Keeps r0
    (State.waitOpen s core opens b step late) := by
  unfold State.waitOpen
  simp (maxDischargeDepth := 60) +contextual only [keeps_ite, implies_true, keeps_log', keeps_set, keeps_setCore,
      keeps_setWait, *]

theorem keeps_waitBeat {r0 s : State} (h : Keeps r0 s) (core : Nat) (d : Desc) : Keeps r0 (State.waitBeat s core d) := by
  unfold State.waitBeat
  simp (maxDischargeDepth := 60) +contextual only [keeps_ite, implies_true, keeps_setWait, keeps_waitOpen, *]

theorem keeps_waitRelease {r0 s : State} (h : Keeps r0 s) (core cyc : Nat) : Keeps r0 (State.waitRelease s core cyc) := by
  unfold State.waitRelease
  repeat' first
    | (with_reducible assumption)
    | (solve | simp (maxDischargeDepth := 60) +contextual only [keeps_ite, implies_true, keeps_waitOpen, *])
    | (with_reducible intro _)
    | (simp only [])
    | split

theorem keeps_deliver {r0 s : State} (h : Keeps r0 s) (core ctr inc : Nat) : Keeps r0 (State.deliver s core ctr inc) := by
  unfold State.deliver
  simp (maxDischargeDepth := 60) +contextual only [keeps_bump, *]

theorem keeps_sendSignal {r0 s : State} (h : Keeps r0 s) (lcore ctr inc : Nat) : Keeps r0 (State.sendSignal s lcore ctr inc) := by
  unfold State.sendSignal
  simp (maxDischargeDepth := 60) +contextual only [keeps_pkgSend, *]

theorem keeps_signal {r0 s : State} (h : Keeps r0 s) (core : Nat) (d : Desc) : Keeps r0 (State.signal s core d) := by
  unfold State.signal
  simp (maxDischargeDepth := 60) +contextual only [keeps_setCore, *]

theorem keeps_fence {r0 s : State} (h : Keeps r0 s) (core : Nat) (d : Desc) : Keeps r0 (State.fence s core d) := by
  unfold State.fence
  simp (maxDischargeDepth := 60) +contextual only [keeps_ite, implies_true, keeps_setCore, keeps_setWait, *]

theorem keeps_fenceRelease {r0 s : State} (h : Keeps r0 s) (core : Nat) : Keeps r0 (State.fenceRelease s core) := by
  unfold State.fenceRelease
  repeat' first
    | (with_reducible assumption)
    | (solve | simp (maxDischargeDepth := 60) +contextual only [keeps_ite, implies_true, keeps_setWait, *])
    | (with_reducible intro _)
    | (simp only [])
    | split

theorem keeps_tdyRefuse {r0 s : State} (h : Keeps r0 s) (core qid : Nat) (d : Desc) : Keeps r0 (State.tdyRefuse s core qid d)
    := by
  unfold State.tdyRefuse
  simp (maxDischargeDepth := 60) +contextual only [keeps_dropPacket, *]

theorem keeps_tdyDo {r0 s : State} (h : Keeps r0 s) (core qid : Nat) (d : Desc) : Keeps r0 (State.tdyDo s core qid d) := by
  unfold State.tdyDo
  repeat' first
    | (with_reducible assumption)
    | (solve | simp (maxDischargeDepth := 60) +contextual only [keeps_fence, keeps_gatedIssue, keeps_issue, keeps_signal,
        keeps_tdyRefuse, keeps_waitBeat, *])
    | (with_reducible intro _)
    | (simp only [])
    | split

theorem keeps_onCore {r0 s : State} (h : Keeps r0 s) (core : Nat) (f : State → State) (hf2 : ∀ y0, Keeps r0 y0 → Keeps r0 (f y0))
    : KeepsR r0 (State.onCore s core f) := by
  unfold State.onCore
  simp (maxDischargeDepth := 60) +contextual only [KeepsR_next, KeepsR_next, KeepsR_onUnit, *]

theorem keeps_onProgram {r0 s : State} (h : Keeps r0 s) (core : Nat) (f : State → State) (hf2 : ∀ y0, Keeps r0 y0 → Keeps r0 (f
    y0)) : KeepsR r0 (State.onProgram s core f) := by
  unfold State.onProgram
  simp (maxDischargeDepth := 60) +contextual only [keeps_ite, implies_true, keeps_onCore, *]

theorem keeps_execTdLd {r0 s : State} (h : Keeps r0 s) (core dn addr : Nat) : KeepsR r0 (execTdLd core dn addr s) := by
  unfold execTdLd
  simp (maxDischargeDepth := 60) +contextual only [keeps_ite, implies_true, keeps_onProgram, keeps_setCore, *]

theorem keeps_execTdSetf {r0 s : State} (h : Keeps r0 s) (core dn : Nat) (rs1 rs2 : Word) : KeepsR r0 (execTdSetf core dn rs1 rs2
    s) := by
  unfold execTdSetf
  simp (maxDischargeDepth := 60) +contextual only [implies_true, keeps_onProgram, keeps_setCore, *]

theorem keeps_execTdIssue {r0 s : State} (h : Keeps r0 s) (core rd dn : Nat) : KeepsR r0 (execTdIssue core rd dn s) := by
  unfold execTdIssue
  simp (maxDischargeDepth := 60) +contextual only [keeps_ite, implies_true, keeps_onProgram, keeps_setCore, keeps_setX,
      keeps_tdyDo, *]

theorem keeps_execTdDone {r0 s : State} (h : Keeps r0 s) (core rd : Nat) (rs1 : Word) : KeepsR r0 (execTdDone core rd rs1 s) := by
  unfold execTdDone
  simp (maxDischargeDepth := 60) +contextual only [implies_true, keeps_onProgram, keeps_setX, *]

theorem keeps_execTdSt {r0 s : State} (h : Keeps r0 s) (core dn addr : Nat) : KeepsR r0 (execTdSt core dn addr s) := by
  unfold execTdSt
  simp (maxDischargeDepth := 60) +contextual only [keeps_ite, implies_true, keeps_onProgram, keeps_wr, *]

theorem keeps_execWaitBeat {r0 s : State} (h : Keeps r0 s) (core : Nat) (d : Desc) : KeepsR r0 (execWaitBeat core d s) := by
  unfold execWaitBeat
  simp (maxDischargeDepth := 60) +contextual only [keeps_ite, implies_true, keeps_onCore, keeps_tdyRefuse, keeps_waitBeat, *]

theorem keeps_execWaitBeatRelease {r0 s : State} (h : Keeps r0 s) (core phase : Nat) : KeepsR r0 (execWaitBeatRelease core phase
    s) := by
  unfold execWaitBeatRelease
  simp (maxDischargeDepth := 60) +contextual only [implies_true, keeps_onCore, keeps_set, keeps_waitRelease, *]

theorem keeps_execSignal {r0 s : State} (h : Keeps r0 s) (core : Nat) (d : Desc) : KeepsR r0 (execSignal core d s) := by
  unfold execSignal
  simp (maxDischargeDepth := 60) +contextual only [keeps_ite, implies_true, keeps_onCore, keeps_signal, keeps_tdyRefuse, *]

theorem keeps_execSignalSend {r0 s : State} (h : Keeps r0 s) (core : Nat) : KeepsR r0 (execSignalSend core s) := by
  unfold execSignalSend
  repeat' first
    | (with_reducible assumption)
    | (solve | simp (maxDischargeDepth := 60) +contextual only [keeps_sendSignal, keeps_setCore, *])
    | (with_reducible intro _)
    | (with_reducible apply keeps_onCore)
    | (with_reducible apply KeepsR_onUnit)
    | (with_reducible rw [KeepsR_next])
    | (simp only [])
    | split

theorem keeps_execSignalDeliver {r0 s : State} (h : Keeps r0 s) (core ctr inc : Nat) : KeepsR r0 (execSignalDeliver core ctr inc
    s) := by
  unfold execSignalDeliver
  simp (maxDischargeDepth := 60) +contextual only [implies_true, keeps_deliver, keeps_onCore, *]

theorem keeps_execFence {r0 s : State} (h : Keeps r0 s) (core : Nat) (d : Desc) : KeepsR r0 (execFence core d s) := by
  unfold execFence
  simp (maxDischargeDepth := 60) +contextual only [keeps_ite, implies_true, keeps_fence, keeps_onCore, keeps_tdyRefuse, *]

theorem keeps_execFenceRelease {r0 s : State} (h : Keeps r0 s) (core : Nat) : KeepsR r0 (execFenceRelease core s) := by
  unfold execFenceRelease
  simp (maxDischargeDepth := 60) +contextual only [implies_true, keeps_fenceRelease, keeps_onCore, *]

theorem keeps_execFenceTimeout {r0 s : State} (h : Keeps r0 s) (core : Nat) : KeepsR r0 (execFenceTimeout core s) := by
  unfold execFenceTimeout
  repeat' first
    | (with_reducible assumption)
    | (solve | simp (maxDischargeDepth := 60) +contextual only [keeps_ite, implies_true, keeps_countDrop, keeps_log',
        keeps_setCore, keeps_setWait, *])
    | (with_reducible intro _)
    | (with_reducible apply keeps_onCore)
    | (with_reducible apply KeepsR_onUnit)
    | (with_reducible rw [KeepsR_next])
    | (simp only [])
    | split

end Sys2Proof.Machine
end

