-- ==== Sys2Proof/Laws/Keep2.lean ====
section
/-! SUPPORT. What every operation keeps: queues, the fabric network, spare rotation, the husk engine and the window walker. -/
namespace Sys2Proof.Machine

/-! ### Queue.lean -/

theorem keeps_qPut {r0 s : State} (h : Keeps r0 s) (q : Nat) (v : QD) : Keeps r0 (State.qPut s q v) := by
  unfold State.qPut
  repeat' first
    | (with_reducible assumption)
    | (solve | simp (maxDischargeDepth := 60) +contextual only [keeps_wr, *])
    | (with_reducible intro _)
    | (simp only [])
    | split

theorem keeps_qTouch {r0 s : State} (h : Keeps r0 s) (v : QD) (q : Nat) : Keeps r0 (State.qTouch s v q) := by
  unfold State.qTouch
  simp (maxDischargeDepth := 60) +contextual only [keeps_ite, implies_true, keeps_mk, keeps_bumpSat, *]

theorem keeps_qSetOn {r0 s : State} (h : Keeps r0 s) (q : Nat) (b : Bool) : Keeps r0 (State.qSetOn s q b) := by
  unfold State.qSetOn
  simp (maxDischargeDepth := 60) +contextual only [keeps_mk, keeps_set, *]

theorem keeps_unchoose {r0 s : State} (h : Keeps r0 s) (q : Nat) (v : QD) : Keeps r0 (State.unchoose s q v) := by
  unfold State.unchoose
  repeat' first
    | (with_reducible assumption)
    | (solve | simp (maxDischargeDepth := 60) +contextual only [keeps_ite, implies_true, keeps_setCore, *])
    | (with_reducible intro _)
    | (simp only [])
    | split

theorem keeps_qOff {r0 s : State} (h : Keeps r0 s) (q : Nat) (v : QD) : Keeps r0 (State.qOff s q v) := by
  unfold State.qOff
  simp (maxDischargeDepth := 60) +contextual only [keeps_mk, keeps_qPut, keeps_qSetOn, keeps_unchoose, *]

theorem keeps_qEnd {r0 s : State} (h : Keeps r0 s) (st : Nat) : Keeps r0 (State.qEnd s st) := by
  unfold State.qEnd
  simp (maxDischargeDepth := 60) +contextual only [keeps_irq, keeps_set, *]

theorem keeps_qDone {r0 s : State} (h : Keeps r0 s) (st occ : Nat) : Keeps r0 (State.qDone s st occ) := by
  unfold State.qDone
  simp (maxDischargeDepth := 60) +contextual only [keeps_qEnd, keeps_set, *]

theorem keeps_qFlush {r0 s : State} (h : Keeps r0 s) (q : Nat) (v : QD) (mask : Nat) : Keeps r0 (State.qFlush s q v mask).1 := by
  unfold State.qFlush
  simp (maxDischargeDepth := 60) +contextual only [keeps_log', keeps_qPut, keeps_unchoose, *]

theorem keeps_qDisabledEv {r0 s : State} (h : Keeps r0 s) (src q cause : Nat) : Keeps r0 (State.qDisabledEv s src q cause) := by
  unfold State.qDisabledEv
  simp (maxDischargeDepth := 60) +contextual only [keeps_log', *]

theorem keeps_qBoundary {r0 s : State} (h : Keeps r0 s) (q : Nat) : Keeps r0 (State.qBoundary s q) := by
  unfold State.qBoundary
  repeat' first
    | (with_reducible assumption)
    | (solve | simp (maxDischargeDepth := 60) +contextual only [keeps_mk, keeps_qDisabledEv, keeps_qDone, keeps_qFlush,
        keeps_qOff, *])
    | (with_reducible intro _)
    | (simp only [])
    | split

theorem keeps_doorbellEv {r0 s : State} (h : Keeps r0 s) (src q l new : Nat) (v : QD) (cause : Nat) : Keeps r0 (State.doorbellEv s
    src q l new v cause) := by
  unfold State.doorbellEv
  simp (maxDischargeDepth := 60) +contextual only [keeps_log', *]

theorem keeps_qLevelIrq {r0 s : State} (h : Keeps r0 s) (q before : Nat) (v : QD) : Keeps r0 (State.qLevelIrq s q before v).1
    := by
  unfold State.qLevelIrq
  repeat' first
    | (with_reducible assumption)
    | (solve | simp (maxDischargeDepth := 60) +contextual only [keeps_ite, implies_true, keeps_emit, keeps_sendMsix, *])
    | (with_reducible intro _)
    | (simp only [])
    | split

theorem keeps_coreCut {r0 s : State} (h : Keeps r0 s) (core q n : Nat) : Keeps r0 (State.coreCut s core q n) := by
  unfold State.coreCut
  repeat' first
    | (with_reducible assumption)
    | (solve | simp (maxDischargeDepth := 60) +contextual only [keeps_ite, implies_true, keeps_cmdDrop, keeps_countDrop,
        keeps_dropWait, keeps_setCore, *])
    | (with_reducible intro _)
    | (simp only [])
    | split

theorem keeps_qCut {r0 s : State} (h : Keeps r0 s) (q : Nat) (v : QD) : Keeps r0 (State.qCut s q v).1 := by
  unfold State.qCut
  simp (maxDischargeDepth := 60) +contextual only [keeps_mk, keeps_qPut, *]

theorem keeps_qEndPacket {r0 s : State} (h : Keeps r0 s) (q : Nat) (v : QD) : Keeps r0 (State.qEndPacket s q v).1 := by
  unfold State.qEndPacket
  repeat' first
    | (with_reducible assumption)
    | (solve | simp (maxDischargeDepth := 60) +contextual only [keeps_coreCut, keeps_qCut, *])
    | (with_reducible intro _)
    | (simp only [])
    | split

theorem keeps_qUe {r0 s : State} (h : Keeps r0 s) (q : Nat) : Keeps r0 (State.qUe s q) := by
  unfold State.qUe
  repeat' first
    | (with_reducible assumption)
    | (solve | simp (maxDischargeDepth := 60) +contextual only [keeps_ite, implies_true, keeps_mkm, keeps_coreCut, keeps_memUe,
        keeps_qEnd, keeps_qSetOn, *])
    | (with_reducible intro _)
    | (with_reducible refine keeps_foldl _ _ _ ?_ ?_)
    | (simp only [])
    | split

theorem keeps_publish {r0 s : State} (h : Keeps r0 s) (by_ : Agent) (q l new : Nat) : Keeps r0 (State.publish s by_ q l new) := by
  unfold State.publish
  repeat' first
    | (with_reducible assumption)
    | (solve | simp (maxDischargeDepth := 60) +contextual only [keeps_ite, implies_true, keeps_doorbellEv, keeps_qLevelIrq,
        keeps_qPut, keeps_qTouch, keeps_qUe, *])
    | (with_reducible intro _)
    | (simp only [])
    | split

theorem keeps_execDoorbellWrite {r0 s : State} (h : Keeps r0 s) (by_ : Agent) (qid off size : Nat) (val : Word) : KeepsR r0
    (execDoorbellWrite by_ qid off size val s) := by
  unfold execDoorbellWrite
  simp (maxDischargeDepth := 60) +contextual only [implies_true, KeepsR_next, keepsR_ite, keeps_publish, keeps_wake, *]

theorem keeps_execDoorbellRead {r0 s : State} (h : Keeps r0 s) (by_ : Agent) (qid off size : Nat) : KeepsR r0 (execDoorbellRead
    by_ qid off size s) := by
  unfold execDoorbellRead
  repeat' first
    | (with_reducible assumption)
    | (solve | simp (maxDischargeDepth := 60) +contextual only [KeepsR_next, keeps_emit, keeps_qTouch, keeps_qUe, *])
    | (with_reducible intro _)
    | (with_reducible apply KeepsR_onUnit)
    | (with_reducible rw [KeepsR_next])
    | (simp only [])
    | split

theorem keeps_qTake {r0 s : State} (h : Keeps r0 s) (q : Nat) (v : QD) (l : Nat) (eop : Bool) : Keeps r0 (State.qTake s q v l eop)
    := by
  unfold State.qTake
  simp (maxDischargeDepth := 60) +contextual only [keeps_ite, implies_true, keeps_qBoundary, keeps_qPut, keeps_qTouch, *]

theorem keeps_dropItem {r0 s : State} (h : Keeps r0 s) (core : Nat) (eop : Bool) : Keeps r0 (State.dropItem s core eop) := by
  unfold State.dropItem
  repeat' first
    | (with_reducible assumption)
    | (solve | simp (maxDischargeDepth := 60) +contextual only [keeps_ite, implies_true, keeps_cmdDrop, keeps_setCore, *])
    | (with_reducible intro _)
    | (simp only [])
    | split

theorem keeps_saveTiles {r0 s : State} (h : Keeps r0 s) (core : Nat) : Keeps r0 (State.saveTiles s core) := by
  unfold State.saveTiles
  simp (maxDischargeDepth := 60) +contextual only [keeps_ite, implies_true, keeps_foldl, keeps_setCore, keeps_wrDa, *]

theorem keeps_restoreTiles {r0 s : State} (h : Keeps r0 s) (core mb : Nat) : Keeps r0 (State.restoreTiles s core mb) := by
  unfold State.restoreTiles
  repeat' first
    | (with_reducible assumption)
    | (solve | simp (maxDischargeDepth := 60) +contextual only [keeps_ite, implies_true, keeps_foldl, keeps_set, keeps_setCore,
        keeps_wr, *])
    | (with_reducible intro _)
    | (with_reducible refine keeps_foldl _ _ _ ?_ ?_)
    | (simp only [])
    | split

theorem keeps_takePacket {r0 s : State} (h : Keeps r0 s) (core : Nat) (k : Cand) : Keeps r0 (State.takePacket s core k) := by
  unfold State.takePacket
  simp (maxDischargeDepth := 60) +contextual only [keeps_ite, implies_true, keeps_bumpSat, keeps_restoreTiles, keeps_saveTiles,
      keeps_set, keeps_setCore, keeps_tdyState, *]

theorem keeps_execSchedulerPacketBoundary {r0 s : State} (h : Keeps r0 s) (core : Nat) : KeepsR r0 (execSchedulerPacketBoundary
    core s) := by
  unfold execSchedulerPacketBoundary
  repeat' first
    | (with_reducible assumption)
    | (solve | simp (maxDischargeDepth := 60) +contextual only [keeps_setWait, keeps_takePacket, *])
    | (with_reducible intro _)
    | (with_reducible apply keeps_onCore)
    | (with_reducible apply KeepsR_onUnit)
    | (with_reducible rw [KeepsR_next])
    | (simp only [])
    | split

theorem keeps_execSwitchWaitExpiry {r0 s : State} (h : Keeps r0 s) (core : Nat) : KeepsR r0 (execSwitchWaitExpiry core s) := by
  unfold execSwitchWaitExpiry
  repeat' first
    | (with_reducible assumption)
    | (solve | simp (maxDischargeDepth := 60) +contextual only [keeps_setCore, keeps_takePacket, keeps_tdyState, *])
    | (with_reducible intro _)
    | (with_reducible apply keeps_onCore)
    | (with_reducible apply KeepsR_onUnit)
    | (with_reducible rw [KeepsR_next])
    | (simp only [])
    | split

theorem keeps_execPacketReady {r0 s : State} (h : Keeps r0 s) (core mb : Nat) : KeepsR r0 (execPacketReady core mb s) := by
  unfold execPacketReady
  repeat' first
    | (with_reducible assumption)
    | (solve | simp (maxDischargeDepth := 60) +contextual only [keeps_takePacket, *])
    | (with_reducible intro _)
    | (with_reducible apply keeps_onCore)
    | (with_reducible apply KeepsR_onUnit)
    | (with_reducible rw [KeepsR_next])
    | (simp only [])
    | split

theorem keeps_coreTake {r0 s : State} (h : Keeps r0 s) (core q : Nat) (use : State → Desc → State) (hf : ∀ y d, Keeps r0 y → Keeps
    r0 (use y d)) : Keeps r0 (State.coreTake s core q use) := by
  unfold State.coreTake
  split
  · exact h
  · exact keeps_ite (fun _ => keeps_dropItem (keeps_qTake h ..) ..) (fun _ => keeps_countDrop (keeps_setCore (keeps_qTake h
      ..) ..) ..)
  · refine keeps_ite (fun _ => keeps_dropItem (keeps_qTake h ..) ..) (fun _ => ?_)
    have hs : ∀ y, Keeps r0 y → ∀ (b : Bool) (c : CoreSt), Keeps r0 (if b = true then y else y.setCore core c) :=
      fun y hy b c => keeps_ite (fun _ => hy) (fun _ => keeps_setCore hy ..)
    have hu : ∀ y d, Keeps r0 y → ∀ b : Prop, [Decidable b] → Keeps r0 (if b then use y d else y.tdyRefuse core q d) :=
      fun y d hy b _ => keeps_ite (fun _ => hf y d hy) (fun _ => keeps_tdyRefuse hy ..)
    exact keeps_ite (fun _ => keeps_setCore (hu _ _ (hs _ (keeps_qTake h ..) ..) _) ..)
      (fun _ => hu _ _ (hs _ (keeps_qTake h ..) ..) _)

theorem keeps_otherTake {r0 s : State} (h : Keeps r0 s) (q : Nat) (v : QD) (l : Nat) (item : Option Desc) : Keeps r0
    (State.otherTake s q v l item) := by
  unfold State.otherTake
  repeat' first
    | (with_reducible assumption)
    | (solve | simp (maxDischargeDepth := 60) +contextual only [keeps_ite, implies_true, keeps_mk, keeps_emit, keeps_qTake, *])
    | (with_reducible intro _)
    | (simp only [])
    | split

theorem keeps_qPoisonEnd {r0 s : State} (h : Keeps r0 s) (q : Nat) : Keeps r0 (State.qPoisonEnd s q) := by
  unfold State.qPoisonEnd
  repeat' first
    | (with_reducible assumption)
    | (solve | simp (maxDischargeDepth := 60) +contextual only [keeps_qUe, *])
    | (with_reducible intro _)
    | (simp only [])
    | split

theorem keeps_execQueueTake {r0 s : State} (h : Keeps r0 s) (qid : Nat) : KeepsR r0 (execQueueTake qid s) := by
  unfold execQueueTake
  repeat' first
    | (with_reducible assumption)
    | (solve | simp (maxDischargeDepth := 60) +contextual only [implies_true, KeepsR_next, keepsR_ite, keeps_coreTake,
        keeps_otherTake, keeps_qPoisonEnd, keeps_setCore, keeps_tdyDo, *])
    | (with_reducible intro _)
    | (with_reducible apply keeps_coreTake)
    | (with_reducible apply KeepsR_onUnit)
    | (with_reducible rw [KeepsR_next])
    | (simp only [])
    | split

theorem keeps_execTdNext {r0 s : State} (h : Keeps r0 s) (core rd dn : Nat) : KeepsR r0 (execTdNext core rd dn s) := by
  unfold execTdNext
  simp (maxDischargeDepth := 60) +contextual only [keeps_ite, implies_true, keeps_coreTake, keeps_onProgram, keeps_qPoisonEnd,
      keeps_setCore, keeps_setX, *]

theorem keeps_whenReady {r0 s : State} (h : Keeps r0 s) (by_ : Agent) (da : Nat) (f : State → State) (hf3 : ∀ y0, Keeps r0 y0 →
    Keeps r0 (f y0)) : Keeps r0 (State.whenReady s by_ da f) := by
  unfold State.whenReady
  simp (maxDischargeDepth := 60) +contextual only [keeps_ite, implies_true, keeps_log', *]

theorem keeps_queOp {r0 s : State} (h : Keeps r0 s) (by_ : Agent) (f : State → State) (hf2 : ∀ y0, Keeps r0 y0 → Keeps r0 (f y0))
    : KeepsR r0 (State.queOp s by_ f) := by
  unfold State.queOp
  simp (maxDischargeDepth := 60) +contextual only [keeps_ite, implies_true, KeepsR_next, KeepsR_next, keeps_set,
      keeps_whenReady, *]

theorem keeps_onQueue {r0 s : State} (h : Keeps r0 s) (q : Nat) (f : State → QD → State) (hf2 : ∀ y0 y1, Keeps r0 y0 → Keeps r0 (f
    y0 y1)) : Keeps r0 (State.onQueue s q f) := by
  unfold State.onQueue
  repeat' first
    | (with_reducible assumption)
    | (solve | simp (maxDischargeDepth := 60) +contextual only [keeps_qEnd, keeps_qTouch, keeps_qUe, *])
    | (with_reducible intro _)
    | (simp only [])
    | split

theorem keeps_execQueueEnable {r0 s : State} (h : Keeps r0 s) (by_ : Agent) (qid : Nat) : KeepsR r0 (execQueueEnable by_ qid s)
    := by
  unfold execQueueEnable
  simp (maxDischargeDepth := 60) +contextual only [keeps_ite, implies_true, keeps_onQueue, keeps_qDone, keeps_qPut,
      keeps_qSetOn, keeps_queOp, *]

theorem keeps_execQueueDisable {r0 s : State} (h : Keeps r0 s) (by_ : Agent) (qid : Nat) (force : Bool) : KeepsR r0
    (execQueueDisable by_ qid force s) := by
  unfold execQueueDisable
  simp (maxDischargeDepth := 60) +contextual only [keeps_ite, implies_true, keeps_mk, keeps_onQueue, keeps_qDone,
      keeps_qEndPacket, keeps_qOff, keeps_queOp, *]

theorem keeps_execQueueFlush {r0 s : State} (h : Keeps r0 s) (by_ : Agent) (qid mask : Nat) : KeepsR r0 (execQueueFlush by_ qid
    mask s) := by
  unfold execQueueFlush
  simp (maxDischargeDepth := 60) +contextual only [keeps_ite, implies_true, keeps_mk, keeps_onQueue, keeps_qDone, keeps_qFlush,
      keeps_qPut, keeps_queOp, *]

theorem keeps_execQueueSetlevel {r0 s : State} (h : Keeps r0 s) (by_ : Agent) (qid : Nat) : KeepsR r0 (execQueueSetlevel by_ qid
    s) := by
  unfold execQueueSetlevel
  simp (maxDischargeDepth := 60) +contextual only [implies_true, keeps_onQueue, keeps_qDone, keeps_qPut, keeps_queOp, *]

theorem keeps_execQueueQuery {r0 s : State} (h : Keeps r0 s) (by_ : Agent) (qid : Nat) : KeepsR r0 (execQueueQuery by_ qid s)
    := by
  unfold execQueueQuery
  simp (maxDischargeDepth := 60) +contextual only [implies_true, keeps_onQueue, keeps_qDone, keeps_queOp, *]

theorem keeps_execQueueBadOp {r0 s : State} (h : Keeps r0 s) (by_ : Agent) (op : Nat) : KeepsR r0 (execQueueBadOp by_ op s) := by
  unfold execQueueBadOp
  simp (maxDischargeDepth := 60) +contextual only [implies_true, KeepsR_fault, keepsR_ite, keeps_qEnd, keeps_queOp, *]

theorem keeps_execQueueBoundaryEffect {r0 s : State} (h : Keeps r0 s) (qid : Nat) : KeepsR r0 (execQueueBoundaryEffect qid s)
    := by
  unfold execQueueBoundaryEffect
  simp (maxDischargeDepth := 60) +contextual only [KeepsR_next, keeps_qBoundary, *]

/-! ### Net.lean -/

theorem keeps_setPort {r0 s : State} (h : Keeps r0 s) (p : Nat) (x : PortSt) : Keeps r0 (State.setPort s p x) := by
  unfold State.setPort
  simp (maxDischargeDepth := 60) +contextual only [keeps_mk, *]

theorem keeps_portPut {r0 s : State} (h : Keeps r0 s) (q : Nat) (p : Packet) : Keeps r0 (State.portPut s q p) := by
  unfold State.portPut
  simp (maxDischargeDepth := 60) +contextual only [keeps_setPort, *]

theorem keeps_sendVia {r0 s : State} (h : Keeps r0 s) (port : Option Nat) (p : Packet) : Keeps r0 (State.sendVia s port p) := by
  unfold State.sendVia
  repeat' first
    | (with_reducible assumption)
    | (solve | simp (maxDischargeDepth := 60) +contextual only [implies_true, keeps_mk, keeps_emit, keeps_portPut, *])
    | (with_reducible intro _)
    | (simp only [])
    | split

theorem keeps_sendPacket {r0 s : State} (h : Keeps r0 s) (p : Packet) : Keeps r0 (State.sendPacket s p) := by
  unfold State.sendPacket
  simp (maxDischargeDepth := 60) +contextual only [keeps_sendVia, *]

theorem keeps_tc0Via {r0 s : State} (h : Keeps r0 s) (port : Option Nat) (dst : Nat) (m : Msg) : Keeps r0 (State.tc0Via s port dst
    m) := by
  unfold State.tc0Via
  simp (maxDischargeDepth := 60) +contextual only [keeps_mk, keeps_sendVia, *]

theorem keeps_tc0At {r0 s : State} (h : Keeps r0 s) (port dst : Nat) (m : Msg) : Keeps r0 (State.tc0At s port dst m) := by
  unfold State.tc0At
  simp (maxDischargeDepth := 60) +contextual only [keeps_tc0Via, *]

theorem keeps_tc0 {r0 s : State} (h : Keeps r0 s) (dst : Nat) (m : Msg) : Keeps r0 (State.tc0 s dst m) := by
  unfold State.tc0
  simp (maxDischargeDepth := 60) +contextual only [keeps_ite, implies_true, keeps_mk, keeps_tc0Via, *]

theorem keeps_tc0All {r0 s : State} (h : Keeps r0 s) (dsts : List Nat) (m : Msg) : Keeps r0 (State.tc0All s dsts m) := by
  unfold State.tc0All
  simp (maxDischargeDepth := 60) +contextual only [implies_true, keeps_foldl, keeps_tc0, *]

theorem keeps_tc0In {r0 s : State} (h : Keeps r0 s) (src typ lat : Nat) : Keeps r0 (State.tc0In s src typ lat) := by
  unfold State.tc0In
  simp (maxDischargeDepth := 60) +contextual only [keeps_ite, implies_true, keeps_mk, keeps_bumpSat, keeps_log', keeps_set,
      keeps_wake, *]

theorem keeps_failDevice {r0 s : State} (h : Keeps r0 s) : Keeps r0 (State.failDevice s) := by
  unfold State.failDevice
  simp (maxDischargeDepth := 60) +contextual only [keeps_mk, *]

theorem keeps_freezeEv {r0 s : State} (h : Keeps r0 s) (f : Freeze) : Keeps r0 (State.freezeEv s f) := by
  unfold State.freezeEv
  simp (maxDischargeDepth := 60) +contextual only [keeps_log', *]

theorem keeps_freezeHold {r0 s : State} (h : Keeps r0 s) (f : Freeze) : Keeps r0 (State.freezeHold s f) := by
  unfold State.freezeHold
  simp (maxDischargeDepth := 60) +contextual only [keeps_ite, implies_true, keeps_mk, keeps_freezeEv, keeps_set, *]

theorem keeps_freezeSend {r0 s : State} (h : Keeps r0 s) (cause lost : Nat) : Keeps r0 (State.freezeSend s cause lost) := by
  unfold State.freezeSend
  simp (maxDischargeDepth := 60) +contextual only [keeps_freezeHold, keeps_tc0All, *]

theorem keeps_execFreezeSend {r0 s : State} (h : Keeps r0 s) (cause lost : Nat) : KeepsR r0 (execFreezeSend cause lost s) := by
  unfold execFreezeSend
  simp (maxDischargeDepth := 60) +contextual only [KeepsR_next, keeps_freezeSend, *]

theorem keeps_execFreezeReceive {r0 s : State} (h : Keeps r0 s) (dev b cause lost lat : Nat) : KeepsR r0 (execFreezeReceive dev b
    cause lost lat s) := by
  unfold execFreezeReceive
  simp (maxDischargeDepth := 60) +contextual only [KeepsR_next, keeps_freezeHold, keeps_tc0In, *]

/-! ### Rot.lean -/

theorem keeps_setArmed {r0 s : State} (h : Keeps r0 s) (u : Nat) (b : Bool) : Keeps r0 (State.setArmed s u b) := by
  unfold State.setArmed
  simp (maxDischargeDepth := 60) +contextual only [keeps_setBit, *]

theorem keeps_syncMissing {r0 s : State} (h : Keeps r0 s) : Keeps r0 (State.syncMissing s) := by
  unfold State.syncMissing
  simp (maxDischargeDepth := 60) +contextual only [keeps_ite, implies_true, keeps_irq, keeps_log', keeps_set, *]

theorem keeps_zeroClu {r0 s : State} (h : Keeps r0 s) (clu : Nat) : Keeps r0 (State.zeroClu s clu) := by
  unfold State.zeroClu
  simp (maxDischargeDepth := 60) +contextual only [implies_true, keeps_mkm, Mem.wf_zero, Mem.wf_foldl, keeps_unpoison, *]

theorem keeps_copyClu {r0 s : State} (h : Keeps r0 s) (src dst : Nat) : Keeps r0 (State.copyClu s src dst) := by
  have one : ∀ x : State, Keeps r0 x → ∀ a b n,
      Keeps r0 { x with mem := Mem.copy x.mem a b n, poison := movePoison x.poison a b n } :=
    fun x hx a b n => keeps_mkm hx (Mem.wf_copy x.mem a b n) (fun w => poison_inserts _ (poison_filter _ w))
  exact one _ (keeps_foldl _ _ _ h fun x k hx => one x hx _ _ _) _ _ _

theorem keeps_testEnd {r0 s : State} (h : Keeps r0 s) (st : Nat) : Keeps r0 (State.testEnd s st) := by
  unfold State.testEnd
  simp (maxDischargeDepth := 60) +contextual only [keeps_mk, keeps_irq, keeps_set, *]

theorem keeps_bistAbandon {r0 s : State} (h : Keeps r0 s) (clu : Nat) : Keeps r0 (State.bistAbandon s clu) := by
  unfold State.bistAbandon
  simp (maxDischargeDepth := 60) +contextual only [keeps_ite, implies_true, keeps_testEnd, keeps_zeroClu, *]

theorem keeps_rotStart {r0 s : State} (h : Keeps r0 s) (d : Nat) : Keeps r0 (State.rotStart s d) := by
  unfold State.rotStart
  repeat' first
    | (with_reducible assumption)
    | (solve | simp (maxDischargeDepth := 60) +contextual only [keeps_setDie, *])
    | (with_reducible intro _)
    | (simp only [])
    | split

theorem keeps_rotCopy {r0 s : State} (h : Keeps r0 s) (d : Nat) : Keeps r0 (State.rotCopy s d) := by
  unfold State.rotCopy
  repeat' first
    | (with_reducible assumption)
    | (solve | simp (maxDischargeDepth := 60) +contextual only [keeps_ite, implies_true, keeps_copyClu, keeps_setDie, *])
    | (with_reducible intro _)
    | (simp only [])
    | split

theorem keeps_setLog {r0 s : State} (h : Keeps r0 s) (d l p : Nat) : Keeps r0 (State.setLog s d l p) := by
  unfold State.setLog
  simp (maxDischargeDepth := 60) +contextual only [keeps_set, *]

theorem keeps_idleUnits {r0 s : State} (h : Keeps r0 s) (clu : Nat) : Keeps r0 (State.idleUnits s clu) := by
  unfold State.idleUnits
  simp (maxDischargeDepth := 60) +contextual only [implies_true, keeps_mk, keeps_foldl, keeps_set, *]

theorem keeps_fenceClu {r0 s : State} (h : Keeps r0 s) (clu : Nat) : Keeps r0 (State.fenceClu s clu) := by
  unfold State.fenceClu
  simp (maxDischargeDepth := 60) +contextual only [implies_true, keeps_foldl, keeps_idleUnits, keeps_setBit, keeps_setCore,
      keeps_syncBusy, keeps_syncMissing, keeps_syncMxe, *]

theorem keeps_putMap {r0 s : State} (h : Keeps r0 s) (d map spare st : Nat) : Keeps r0 (State.putMap s d map spare st) := by
  unfold State.putMap
  simp (maxDischargeDepth := 60) +contextual only [keeps_set, *]

theorem keeps_applyVariant {r0 s : State} (h : Keeps r0 s) (d : Nat) : Keeps r0 (State.applyVariant s d) := by
  unfold State.applyVariant
  simp (maxDischargeDepth := 60) +contextual only [implies_true, keeps_foldl, keeps_bistAbandon, keeps_putMap, keeps_zeroClu, *]

theorem keeps_cluEv {r0 s : State} (h : Keeps r0 s) (clu code sev : Nat) : Keeps r0 (State.cluEv s clu code sev) := by
  unfold State.cluEv
  simp (maxDischargeDepth := 60) +contextual only [keeps_log', *]

theorem keeps_spareLost {r0 s : State} (h : Keeps r0 s) (clu : Nat) : Keeps r0 (State.spareLost s clu) := by
  unfold State.spareLost
  simp (maxDischargeDepth := 60) +contextual only [keeps_set, *]

theorem keeps_loseAs {r0 s : State} (h : Keeps r0 s) (clu n : Nat) : Keeps r0 (State.loseAs s clu n) := by
  unfold State.loseAs
  extract_lets d sp
  split
  · split
    · refine keeps_ite (fun _ => ?_) (fun _ => ?_)
      · exact keeps_freezeSend (keeps_cluEv (keeps_set (keeps_zeroClu (keeps_set (keeps_set (keeps_setLog
          (keeps_bistAbandon h ..) ..) ..) ..) ..) ..) ..) ..
      · exact keeps_freezeSend (keeps_cluEv (keeps_setLog h ..) ..) ..
    · exact keeps_cluEv (keeps_spareLost h ..) ..
  · exact keeps_freezeSend (keeps_cluEv (keeps_set (keeps_applyVariant h ..) ..) ..) ..
  · exact keeps_failDevice (keeps_mk (keeps_cluEv (keeps_set h ..) ..))

theorem keeps_mapNow {r0 s : State} (h : Keeps r0 s) (d : Nat) : Keeps r0 (State.mapNow s d) := by
  unfold State.mapNow
  repeat' first
    | (with_reducible assumption)
    | (solve | simp (maxDischargeDepth := 60) +contextual only [keeps_ite, implies_true, keeps_foldl, keeps_bistAbandon,
        keeps_putMap, keeps_zeroClu, *])
    | (with_reducible intro _)
    | (with_reducible refine keeps_foldl _ _ _ ?_ ?_)
    | (simp only [])
    | split

theorem keeps_loseAll {r0 s : State} (h : Keeps r0 s) (d : Nat) (l : List Nat) : Keeps r0 (State.loseAll s d l) := by
  unfold State.loseAll
  repeat' first
    | (with_reducible assumption)
    | extract_lets
    | (with_reducible intro _)
    | (with_reducible refine keeps_ite (fun _ => ?_) (fun _ => ?_))
    | (with_reducible refine keeps_foldl _ _ _ ?_ (fun _ _ _ => ?_))
    | (with_reducible apply keeps_loseAs)
    | (with_reducible apply keeps_mapNow)
    | (with_reducible apply keeps_setDie)

theorem keeps_rotComplete {r0 s : State} (h : Keeps r0 s) (d : Nat) : Keeps r0 (State.rotComplete s d) := by
  unfold State.rotComplete
  repeat' first
    | (with_reducible assumption)
    | (solve | simp (maxDischargeDepth := 60) +contextual only [keeps_bump, keeps_log', keeps_loseAll, keeps_set, keeps_setLog,
        *])
    | (with_reducible intro _)
    | (simp only [])
    | split

theorem keeps_clusterLost {r0 s : State} (h : Keeps r0 s) (clu : Nat) : Keeps r0 (State.clusterLost s clu) := by
  unfold State.clusterLost
  refine keeps_ite (fun _ => h) (fun _ => ?_)
  extract_lets d s1 l
  have h1 : Keeps r0 s1 := keeps_fenceClu h ..
  split
  · exact keeps_ite (fun _ => keeps_loseAll h1 ..) (fun _ => keeps_rotComplete (keeps_rotCopy (keeps_setDie h1 ..) ..) ..)
  · exact keeps_loseAll h1 ..

theorem keeps_applyMap {r0 s : State} (h : Keeps r0 s) (d : Nat) : Keeps r0 (State.applyMap s d) := by
  unfold State.applyMap
  repeat' first
    | (with_reducible assumption)
    | (solve | simp (maxDischargeDepth := 60) +contextual only [keeps_loseAll, keeps_rotComplete, keeps_rotCopy, keeps_setDie,
        *])
    | (with_reducible intro _)
    | (simp only [])
    | split

theorem keeps_onDie {r0 s : State} (h : Keeps r0 s) (d : Nat) (f : State → State) (hf2 : ∀ y0, Keeps r0 y0 → Keeps r0 (f y0)) :
    KeepsR r0 (State.onDie s d f) := by
  unfold State.onDie
  simp (maxDischargeDepth := 60) +contextual only [KeepsR_next, KeepsR_next, KeepsR_onUnit, *]

theorem keeps_execSpareRotationStart {r0 s : State} (h : Keeps r0 s) (die : Nat) : KeepsR r0 (execSpareRotationStart die s) := by
  unfold execSpareRotationStart
  simp (maxDischargeDepth := 60) +contextual only [implies_true, keeps_onDie, keeps_rotStart, *]

theorem keeps_execSpareRotationCopy {r0 s : State} (h : Keeps r0 s) (die : Nat) : KeepsR r0 (execSpareRotationCopy die s) := by
  unfold execSpareRotationCopy
  simp (maxDischargeDepth := 60) +contextual only [implies_true, keeps_onDie, keeps_rotCopy, *]

theorem keeps_execSpareRotationComplete {r0 s : State} (h : Keeps r0 s) (die : Nat) : KeepsR r0 (execSpareRotationComplete die s)
    := by
  unfold execSpareRotationComplete
  simp (maxDischargeDepth := 60) +contextual only [implies_true, keeps_onDie, keeps_rotComplete, *]

theorem keeps_execClusterLost {r0 s : State} (h : Keeps r0 s) (die clu : Nat) : KeepsR r0 (execClusterLost die clu s) := by
  unfold execClusterLost
  simp (maxDischargeDepth := 60) +contextual only [KeepsR_next, KeepsR_onUnit, keeps_clusterLost, *]

theorem keeps_execFillDone {r0 s : State} (h : Keeps r0 s) (die : Nat) : KeepsR r0 (execFillDone die s) := by
  unfold execFillDone
  simp (maxDischargeDepth := 60) +contextual only [implies_true, keeps_onDie, keeps_set, *]

/-! ### Husk.lean -/

theorem keeps_setStk {r0 s : State} (h : Keeps r0 s) (ld : Nat) (x : StookSt) : Keeps r0 (State.setStk s ld x) := by
  unfold State.setStk
  simp (maxDischargeDepth := 60) +contextual only [keeps_mk, *]

theorem keeps_syncHusk {r0 s : State} (h : Keeps r0 s) (ld : Nat) : Keeps r0 (State.syncHusk s ld) := by
  unfold State.syncHusk
  simp (maxDischargeDepth := 60) +contextual only [keeps_set, keeps_syncBusy, *]

theorem keeps_shift {r0 s : State} (h : Keeps r0 s) (f : Field) (ld up down : Nat) : Keeps r0 (State.shift s f ld up down) := by
  unfold State.shift
  simp (maxDischargeDepth := 60) +contextual only [keeps_set, *]

theorem keeps_dirPut {r0 s : State} (h : Keeps r0 s) (r : Region) (slot : Nat) (e : DirEnt) : Keeps r0 (State.dirPut s r slot e)
    := by
  unfold State.dirPut
  simp (maxDischargeDepth := 60) +contextual only [keeps_wr, *]

theorem keeps_dirClear {r0 s : State} (h : Keeps r0 s) (r : Region) (slot : Nat) : Keeps r0 (State.dirClear s r slot) := by
  unfold State.dirClear
  simp (maxDischargeDepth := 60) +contextual only [keeps_wr, *]

theorem keeps_linkPut {r0 s : State} (h : Keeps r0 s) (r : Region) (cs : List Nat) : Keeps r0 (State.linkPut s r cs) := by
  induction cs generalizing s with
  | nil =>
    unfold State.linkPut
    assumption
  | cons c cs ih =>
    unfold State.linkPut
    simp (maxDischargeDepth := 60) +contextual only [keeps_wr, *]

theorem keeps_syncReserved {r0 s : State} (h : Keeps r0 s) (ld : Nat) : Keeps r0 (State.syncReserved s ld) := by
  unfold State.syncReserved
  simp (maxDischargeDepth := 60) +contextual only [keeps_set, *]

theorem keeps_stookAct {r0 s : State} (h : Keeps r0 s) (ld mb block act : Nat) : Keeps r0 (State.stookAct s ld mb block act) := by
  unfold State.stookAct
  repeat' first
    | (with_reducible assumption)
    | (solve | simp (maxDischargeDepth := 60) +contextual only [keeps_bumpSat, keeps_setStk, *])
    | (with_reducible intro _)
    | (simp only [])
    | split

theorem keeps_stookEnd {r0 s : State} (h : Keeps r0 s) (ld mb : Nat) : Keeps r0 (State.stookEnd s ld mb) := by
  unfold State.stookEnd
  simp (maxDischargeDepth := 60) +contextual only [implies_true, keeps_foldl, keeps_log', keeps_setStk, *]

theorem keeps_stookLast {r0 s : State} (h : Keeps r0 s) (ld : Nat) (e : StookEnt) (mb block : Nat) : Keeps r0 (State.stookLast s
    ld e mb block) := by
  unfold State.stookLast
  simp (maxDischargeDepth := 60) +contextual only [keeps_ite, implies_true, keeps_stookEnd, *]

theorem keeps_stookEmpty {r0 s : State} (h : Keeps r0 s) (ld cause : Nat) (always : Bool) : Keeps r0 (State.stookEmpty s ld cause
    always) := by
  unfold State.stookEmpty
  repeat' first
    | (with_reducible assumption)
    | (solve | simp (maxDischargeDepth := 60) +contextual only [keeps_ite, implies_true, keeps_mkm, Mem.wf_zero, keeps_log',
        keeps_set, keeps_setStk, keeps_syncReserved, *])
    | (with_reducible intro _)
    | (simp only [])
    | split

theorem keeps_clearDue {r0 s : State} (h : Keeps r0 s) (ld : Nat) : Keeps r0 (State.clearDue s ld) := by
  unfold State.clearDue
  repeat' first
    | (with_reducible assumption)
    | (solve | simp (maxDischargeDepth := 60) +contextual only [keeps_ite, implies_true, keeps_stookEmpty, *])
    | (with_reducible intro _)
    | (simp only [])
    | split

theorem keeps_huskEnded {r0 s : State} (h : Keeps r0 s) (ld : Nat) : Keeps r0 (State.huskEnded s ld) := by
  unfold State.huskEnded
  simp (maxDischargeDepth := 60) +contextual only [keeps_clearDue, keeps_syncHusk, *]

theorem keeps_huskDrop {r0 s : State} (h : Keeps r0 s) (core : Nat) (d : Desc) : Keeps r0 (State.huskDrop s core d) := by
  unfold State.huskDrop
  simp (maxDischargeDepth := 60) +contextual only [keeps_huskEnded, keeps_refuse, *]

theorem keeps_huskRefuse {r0 s : State} (h : Keeps r0 s) (core : Nat) (d : Desc) (b : BadField) : Keeps r0 (State.huskRefuse s
    core d b) := by
  unfold State.huskRefuse
  simp (maxDischargeDepth := 60) +contextual only [keeps_huskDrop, keeps_log', *]

theorem keeps_huskDone {r0 s : State} (h : Keeps r0 s) (core : Nat) (d : Desc) : Keeps r0 (State.huskDone s core d) :=
  keeps_huskEnded (keeps_complete h ..) ..

theorem keeps_huskUe {r0 s : State} (h : Keeps r0 s) (ld : Nat) (img : Image) (da : Nat) : Keeps r0 (State.huskUe s ld img da)
    := by
  unfold State.huskUe
  simp (maxDischargeDepth := 60) +contextual only [keeps_daUe, *]

theorem keeps_encStart {r0 s : State} (h : Keeps r0 s) (core : Nat) (d : Desc) (img : Image) (r : Region) (mode : Nat) : Keeps r0
    (State.encStart s core d img r mode) := by
  unfold State.encStart
  repeat' first
    | (with_reducible assumption)
    | (solve | simp (maxDischargeDepth := 60) +contextual only [implies_true, keeps_foldl, keeps_dirPut, keeps_hold,
        keeps_huskDrop, keeps_huskUe, keeps_linkPut, keeps_setStk, keeps_shift, keeps_syncHusk, keeps_syncReserved, keeps_wr,
        *])
    | (with_reducible intro _)
    | (with_reducible refine keeps_foldl _ _ _ ?_ ?_)
    | (simp only [])
    | split

theorem keeps_encDrop {r0 s : State} (h : Keeps r0 s) (core : Nat) (d : Desc) (e : StookEnt) (r : Region) (mode : Nat) :
    Keeps r0 (State.encDrop s core d e r mode) :=
  keeps_huskDone (keeps_stookLast (keeps_shift (keeps_stookAct (keeps_dirPut h ..) ..) ..) ..) ..

theorem keeps_encTry {r0 s : State} (h : Keeps r0 s) (core : Nat) (d : Desc) (img : Image) (e : StookEnt) (r : Region) (mode :
    Nat) : ∀ t, State.encTry s core d img e r mode = some t → Keeps r0 t := by
  intro t ht
  have hs : ∀ (p : Bool) eff, Keeps r0 ((if p = true then s.stookAct (coreDie core) (descMb d) (hskBlock d) 1 else s).encStart
      core d img r eff) :=
    fun _ _ => keeps_encStart (keeps_ite (fun _ => keeps_stookAct h ..) (fun _ => h)) ..
  have hl : ∀ eff, Keeps r0 ((s.stookAct (coreDie core) (descMb d) (hskBlock d) 1).encStart core d img r eff) :=
    fun _ => keeps_encStart (keeps_stookAct h ..) ..
  have key : ∀ (c : Prop) [Decidable c] (a b : Option State), (∀ t, a = some t → Keeps r0 t) → (∀ t, b = some t → Keeps r0 t) →
      ∀ t, (if c then a else b) = some t → Keeps r0 t := by
    intro c _ a b ha hb t
    by_cases hc : c
    · rw [if_pos hc]; exact ha t
    · rw [if_neg hc]; exact hb t
  have sm : ∀ x : State, Keeps r0 x → ∀ t, some x = some t → Keeps r0 t := fun x hx t e => Option.some.inj e ▸ hx
  have hd : ∀ eff, ∀ t, some (s.encDrop core d e r eff) = some t → Keeps r0 t := fun _ => sm _ (keeps_encDrop h ..)
  unfold State.encTry at ht
  extract_lets ld x mb block f eff again at ht
  exact key _ _ _ (sm _ (keeps_huskRefuse h ..)) (key _ _ _ (hd _) (key _ _ _ (sm _ (hs _ _)) (key _ _ _ (sm _ (hl _))
    (key _ _ _ (hd _) (fun _ e => absurd e (by simp)))))) t ht

theorem keeps_encStook {r0 s : State} (h : Keeps r0 s) (core : Nat) (d : Desc) (img : Image) (e : StookEnt) (r : Region) (mode :
    Nat) : Keeps r0 (State.encStook s core d img e r mode) := by
  unfold State.encStook
  refine keeps_ite (fun _ => keeps_huskRefuse h ..) (fun _ => keeps_ite (fun _ => keeps_syncHusk (keeps_setStk (keeps_hold h
      ..) ..) ..)
    (fun _ => ?_))
  split
  · rename_i t ht
    exact keeps_encTry h core d img e r mode t ht
  · exact keeps_syncHusk (keeps_setStk (keeps_stookAct (keeps_hold h ..) ..) ..) ..

theorem keeps_encAddr {r0 s : State} (h : Keeps r0 s) (core : Nat) (d : Desc) (img : Image) (mode : Nat) : Keeps r0 (State.encAddr
    s core d img mode) := by
  unfold State.encAddr
  repeat' first
    | (with_reducible assumption)
    | (solve | simp (maxDischargeDepth := 60) +contextual only [keeps_ite, implies_true, keeps_bump, keeps_hold,
        keeps_huskDone, keeps_huskDrop, keeps_huskUe, keeps_unmappedEv, keeps_wrDa, *])
    | (with_reducible intro _)
    | (simp only [])
    | split

theorem keeps_huskStart {r0 s : State} (h : Keeps r0 s) (core : Nat) (d : Desc) (run : State → Image → State) (hf3 : ∀ y0 y1,
    Keeps r0 y0 → Keeps r0 (run y0 y1)) : Keeps r0 (State.huskStart s core d run) := by
  unfold State.huskStart
  repeat' first
    | (with_reducible assumption)
    | (solve | simp (maxDischargeDepth := 60) +contextual only [keeps_ite, implies_true, keeps_hold, keeps_huskRefuse, *])
    | (with_reducible intro _)
    | (simp only [])
    | split

theorem keeps_encSrc {r0 s : State} (h : Keeps r0 s) (core : Nat) (d : Desc) (img : Image) (run : State → State) (hf4 : ∀ y0,
    Keeps r0 y0 → Keeps r0 (run y0)) : Keeps r0 (State.encSrc s core d img run) := by
  unfold State.encSrc
  repeat' first
    | (with_reducible assumption)
    | (solve | simp (maxDischargeDepth := 60) +contextual only [keeps_ite, implies_true, keeps_hold, keeps_huskDrop,
        keeps_unmappedEv, *])
    | (with_reducible intro _)
    | (simp only [])
    | split

theorem keeps_execHuskEncode {r0 s : State} (h : Keeps r0 s) (core : Nat) (d : Desc) : KeepsR r0 (execHuskEncode core d s) := by
  unfold execHuskEncode
  repeat' first
    | (with_reducible assumption)
    | (solve | simp (maxDischargeDepth := 60) +contextual only [keeps_ite, implies_true, KeepsR_next, KeepsR_fault,
        keeps_encAddr, keeps_encStook, keeps_hold, *])
    | (with_reducible intro _)
    | (with_reducible apply keeps_atUnit)
    | (with_reducible apply keeps_encSrc)
    | (with_reducible apply keeps_huskStart)
    | (with_reducible apply KeepsR_onUnit)
    | (with_reducible rw [KeepsR_next])
    | (simp only [])
    | split

theorem keeps_lineRun {r0 s : State} (h : Keeps r0 s) (ld n : Nat) : Keeps r0 (State.lineRun s ld n) := by
  induction n generalizing s with
  | zero => exact h
  | succ n ih =>
    unfold State.lineRun
    extract_lets +onlyGivenNames x
    split
    · exact h
    extract_lets +onlyGivenNames img
    split
    · exact h
    extract_lets +onlyGivenNames mode eff
    refine keeps_ite (fun _ => h) (fun _ => ?_)
    split
    · rename_i t ht
      exact ih (keeps_syncHusk (keeps_encTry (keeps_setStk h ..) _ _ _ _ _ _ t ht) ..)
    · exact keeps_syncHusk (keeps_setStk (keeps_stookAct h ..) ..) ..

theorem keeps_execStookEncodeResume {r0 s : State} (h : Keeps r0 s) (ld : Nat) : KeepsR r0 (execStookEncodeResume ld s) := by
  unfold execStookEncodeResume
  simp (maxDischargeDepth := 60) +contextual only [keeps_ite, implies_true, KeepsR_next, KeepsR_onUnit, keeps_lineRun, *]

theorem keeps_execStookEncodeComplete {r0 s : State} (h : Keeps r0 s) (core : Nat) (d : Desc) : KeepsR r0 (execStookEncodeComplete
    core d s) := by
  unfold execStookEncodeComplete
  repeat' first
    | (with_reducible assumption)
    | (solve | simp (maxDischargeDepth := 60) +contextual only [KeepsR_next, keeps_bump, keeps_dirPut, keeps_huskDone,
        keeps_setStk, keeps_shift, keeps_stookLast, keeps_syncReserved, *])
    | (with_reducible intro _)
    | (with_reducible apply KeepsR_onUnit)
    | (with_reducible rw [KeepsR_next])
    | (simp only [])
    | split

theorem keeps_badRecord {r0 s : State} (h : Keeps r0 s) (ld : Nat) (img : Image) (da : Nat) : Keeps r0 (State.badRecord s ld img
    da) := by
  unfold State.badRecord
  split
  · exact keeps_ite (fun _ => keeps_uncorrectable h ..)
      (fun _ => keeps_huskUe (keeps_foldl _ _ _ h fun _ _ hs => keeps_poisonAt hs ..) ..)
  · exact h

theorem keeps_huskRead {r0 s : State} (h : Keeps r0 s) (core : Nat) (d : Desc) (img : Image) (len frame : Nat) (daOf : Nat → Nat)
    : Keeps r0 (State.huskRead s core d img len frame daOf).1 := by
  unfold State.huskRead
  repeat' first
    | (with_reducible assumption)
    | (solve | simp (maxDischargeDepth := 60) +contextual only [keeps_badRecord, keeps_huskUe, keeps_wrDa, *])
    | (with_reducible intro _)
    | (simp only [])
    | split

theorem keeps_dirFree {r0 s : State} (h : Keeps r0 s) (ld : Nat) (r : Region) (slot : Nat) : Keeps r0 (State.dirFree s ld r slot)
    := by
  unfold State.dirFree
  simp (maxDischargeDepth := 60) +contextual only [keeps_dirClear, keeps_setStk, keeps_shift, keeps_syncReserved, *]

theorem keeps_readBegin {r0 s : State} (h : Keeps r0 s) (core : Nat) (d : Desc) (r : Region) (slot : Nat) (dropped : Bool) : Keeps
    r0 (State.readBegin s core d r slot dropped) := by
  unfold State.readBegin
  simp (maxDischargeDepth := 60) +contextual only [keeps_ite, implies_true, keeps_dirPut, keeps_hold, keeps_setStk,
      keeps_shift, keeps_syncHusk, *]

theorem keeps_decStook {r0 s : State} (h : Keeps r0 s) (core : Nat) (d : Desc) (img : Image) (r : Region) : Keeps r0
    (State.decStook s core d img r) := by
  unfold State.decStook
  repeat' first
    | (with_reducible assumption)
    | (solve | simp (maxDischargeDepth := 60) +contextual only [keeps_ite, implies_true, keeps_dirFree, keeps_hold,
        keeps_huskDrop, keeps_huskRead, keeps_huskRefuse, keeps_readBegin, keeps_shift, keeps_unmappedEv, *])
    | (with_reducible intro _)
    | (simp only [])
    | split

theorem keeps_decAddr {r0 s : State} (h : Keeps r0 s) (core : Nat) (d : Desc) (img : Image) : Keeps r0 (State.decAddr s core d
    img) := by
  unfold State.decAddr
  repeat' first
    | (with_reducible assumption)
    | (solve | simp (maxDischargeDepth := 60) +contextual only [keeps_ite, implies_true, keeps_hold, keeps_huskDone,
        keeps_huskDrop, keeps_huskRead, keeps_unmappedEv, *])
    | (with_reducible intro _)
    | (simp only [])
    | split

theorem keeps_execHuskDecode {r0 s : State} (h : Keeps r0 s) (core : Nat) (d : Desc) : KeepsR r0 (execHuskDecode core d s) := by
  unfold execHuskDecode
  repeat' first
    | (with_reducible assumption)
    | (solve | simp (maxDischargeDepth := 60) +contextual only [keeps_ite, implies_true, KeepsR_next, KeepsR_fault,
        keeps_decAddr, keeps_decStook, keeps_hold, *])
    | (with_reducible intro _)
    | (with_reducible apply keeps_atUnit)
    | (with_reducible apply keeps_huskStart)
    | (with_reducible apply KeepsR_onUnit)
    | (with_reducible rw [KeepsR_next])
    | (simp only [])
    | split

theorem keeps_execStookDecodeComplete {r0 s : State} (h : Keeps r0 s) (core : Nat) (d : Desc) : KeepsR r0 (execStookDecodeComplete
    core d s) := by
  unfold execStookDecodeComplete
  refine KeepsR_onUnit ?_
  extract_lets +onlyGivenNames ld x img
  split
  · extract_lets +onlyGivenNames t u
    have hu : Keeps r0 u := keeps_huskDone (keeps_dirFree (keeps_setStk h ..) ..) ..
    rw [KeepsR_next]
    split
    · exact keeps_sendSignal (keeps_ite (fun _ => keeps_sendSignal hu ..) (fun _ => hu)) ..
    · exact hu
  · rw [KeepsR_next]
    exact h

theorem keeps_stookSwitch {r0 s : State} (h : Keeps r0 s) (ld : Nat) : Keeps r0 (State.stookSwitch s ld) := by
  unfold State.stookSwitch
  simp (maxDischargeDepth := 60) +contextual only [keeps_set, *]

theorem keeps_stookCommit {r0 s : State} (h : Keeps r0 s) (ld : Nat) : Keeps r0 (State.stookCommit s ld) := by
  unfold State.stookCommit
  repeat' first
    | (with_reducible assumption)
    | (solve | simp (maxDischargeDepth := 60) +contextual only [keeps_ite, implies_true, keeps_mkm, Mem.wf_zero, keeps_log',
        keeps_set, keeps_setStk, keeps_stookEmpty, keeps_syncReserved, *])
    | (with_reducible intro _)
    | (simp only [])
    | split

theorem keeps_execStookDirectoryCommit {r0 s : State} (h : Keeps r0 s) (ld : Nat) : KeepsR r0 (execStookDirectoryCommit ld s)
    := by
  unfold execStookDirectoryCommit
  simp (maxDischargeDepth := 60) +contextual only [KeepsR_next, KeepsR_onUnit, keeps_stookCommit, *]

theorem keeps_hskClear {r0 s : State} (h : Keeps r0 s) (ld : Nat) : Keeps r0 (State.hskClear s ld) := by
  unfold State.hskClear
  simp (maxDischargeDepth := 60) +contextual only [implies_true, keeps_foldl, keeps_clearDue, keeps_refuse, keeps_setStk,
      keeps_syncHusk, *]

theorem keeps_execHskClear {r0 s : State} (h : Keeps r0 s) (ld : Nat) : KeepsR r0 (execHskClear ld s) := by
  unfold execHskClear
  simp (maxDischargeDepth := 60) +contextual only [KeepsR_next, KeepsR_onUnit, keeps_hskClear, *]

/-! ### Win.lean -/

theorem keeps_setWin {r0 s : State} (h : Keeps r0 s) (clu : Nat) (x : WinSt) : Keeps r0 (State.setWin s clu x) := by
  unfold State.setWin
  simp (maxDischargeDepth := 60) +contextual only [keeps_mk, *]

theorem keeps_syncWin {r0 s : State} (h : Keeps r0 s) (clu : Nat) : Keeps r0 (State.syncWin s clu) := by
  unfold State.syncWin
  simp (maxDischargeDepth := 60) +contextual only [keeps_set, *]

theorem keeps_winDrop {r0 s : State} (h : Keeps r0 s) (clu : Nat) (l : List (Nat × Nat × Desc)) : Keeps r0 (State.winDrop s clu l)
    := by
  unfold State.winDrop
  simp (maxDischargeDepth := 60) +contextual only [implies_true, keeps_foldl, keeps_bump, keeps_refuse, *]

theorem keeps_winDead {r0 s : State} (h : Keeps r0 s) (clu : Nat) (d : Desc) (stripes : List Nat) : Keeps r0 (State.winDead s clu
    d stripes) := by
  unfold State.winDead
  simp (maxDischargeDepth := 60) +contextual only [keeps_setWin, *]

theorem keeps_winRefuse {r0 s : State} (h : Keeps r0 s) (core : Nat) (d : Desc) (isFmt : Bool) (b : BadField) : Keeps r0
    (State.winRefuse s core d isFmt b) := by
  unfold State.winRefuse
  simp (maxDischargeDepth := 60) +contextual only [keeps_ite, implies_true, keeps_bump, keeps_fmtIllegal, keeps_log',
      keeps_refuse, keeps_setWin, keeps_syncWin, keeps_winDead, keeps_winDrop, *]

theorem keeps_winAbortEv {r0 s : State} (h : Keeps r0 s) (clu cause mask row : Nat) : Keeps r0 (State.winAbortEv s clu cause mask
    row) := by
  unfold State.winAbortEv
  simp (maxDischargeDepth := 60) +contextual only [keeps_log', *]

theorem keeps_winDeadAll {r0 s : State} (h : Keeps r0 s) (clu cause : Nat) (l : List (Nat × Nat × Desc)) : Keeps r0
    (State.winDeadAll s clu cause l) := by
  unfold State.winDeadAll
  repeat' first
    | (with_reducible assumption)
    | (solve | simp (maxDischargeDepth := 60) +contextual only [keeps_ite, implies_true, keeps_winDead, *])
    | (with_reducible intro _)
    | (simp only [])
    | split

theorem keeps_winEndGather {r0 s : State} (h : Keeps r0 s) (clu cause : Nat) : Keeps r0 (State.winEndGather s clu cause) := by
  unfold State.winEndGather
  simp (maxDischargeDepth := 60) +contextual only [keeps_ite, implies_true, keeps_setWin, keeps_syncWin, keeps_winAbortEv,
      keeps_winDeadAll, keeps_winDrop, *]

theorem keeps_winStart {r0 s : State} (h : Keeps r0 s) (clu : Nat) : Keeps r0 (State.winStart s clu) := by
  unfold State.winStart
  repeat' first
    | (with_reducible assumption)
    | (solve | simp (maxDischargeDepth := 60) +contextual only [keeps_ite, implies_true, keeps_set, keeps_setWin,
        keeps_syncWin, *])
    | (with_reducible intro _)
    | (simp only [])
    | split

theorem keeps_winEndRun {r0 s : State} (h : Keeps r0 s) (clu cause : Nat) : Keeps r0 (State.winEndRun s clu cause) := by
  unfold State.winEndRun
  simp (maxDischargeDepth := 60) +contextual only [keeps_ite, implies_true, keeps_setWin, keeps_syncWin, keeps_winAbortEv,
      keeps_winDrop, keeps_winStart, *]

theorem keeps_winArrive {r0 s : State} (h : Keeps r0 s) (core : Nat) (d : Desc) : Keeps r0 (State.winArrive s core d) := by
  unfold State.winArrive
  repeat' first
    | (with_reducible assumption)
    | (solve | simp (maxDischargeDepth := 60) +contextual only [keeps_ite, implies_true, keeps_bump, keeps_hold, keeps_refuse,
        keeps_setWin, keeps_syncWin, keeps_unmappedEv, keeps_winDead, keeps_winRefuse, keeps_winStart, *])
    | (with_reducible intro _)
    | (simp only [])
    | split

theorem keeps_lineAdd {r0 s : State} (h : Keeps r0 s) (clu core : Nat) (x : WinD) (n : Nat) : Keeps r0 (State.lineAdd s clu core x
    n) := by
  unfold State.lineAdd
  simp (maxDischargeDepth := 60) +contextual only [keeps_setWin, *]

theorem keeps_convTile {r0 s : State} (h : Keeps r0 s) (core : Nat) (x : WinD) (ot oy tile : Nat) (l : List WinPart) (p c : List
    Nat) : Keeps r0 (State.convTile s core x ot oy tile l p c) := by
  unfold State.convTile
  simp (maxDischargeDepth := 60) +contextual only [implies_true, keeps_foldl, keeps_bump, keeps_bumpSat, keeps_setAcc,
      keeps_setBit, *]

theorem keeps_winRow {r0 s : State} (h : Keeps r0 s) (core : Nat) (d : Desc) (ot oy : Nat) : Keeps r0 (State.winRow s core d ot
    oy) := by
  unfold State.winRow
  simp (maxDischargeDepth := 60) +contextual only [implies_true, keeps_foldl, keeps_convTile, keeps_setWin, keeps_tallyAdd,
      keeps_wrDa, *]

theorem keeps_stripeGo {r0 s : State} (h : Keeps r0 s) (clu : Nat) (e : Nat × Nat × Desc) (n : Nat) : Keeps r0 (State.stripeGo s
    clu e n) := by
  induction n generalizing s with
  | zero =>
    unfold State.stripeGo
    assumption
  | succ n ih =>
    unfold State.stripeGo
    simp (maxDischargeDepth := 60) +contextual only [keeps_ite, implies_true, keeps_lineAdd, keeps_setWin, keeps_winRow, *]

theorem keeps_stripeAdvance {r0 s : State} (h : Keeps r0 s) (clu k : Nat) : Keeps r0 (State.stripeAdvance s clu k) := by
  unfold State.stripeAdvance
  repeat' first
    | (with_reducible assumption)
    | (solve | simp (maxDischargeDepth := 60) +contextual only [keeps_ite, implies_true, keeps_stripeGo, keeps_syncWin, *])
    | (with_reducible intro _)
    | (simp only [])
    | split

theorem keeps_stripeLoad {r0 s : State} (h : Keeps r0 s) (clu k : Nat) : Keeps r0 (State.stripeLoad s clu k) := by
  unfold State.stripeLoad
  repeat' first
    | (with_reducible assumption)
    | (solve | simp (maxDischargeDepth := 60) +contextual only [implies_true, keeps_daUe, keeps_setWin, keeps_stripeAdvance,
        keeps_winEndRun, *])
    | (with_reducible intro _)
    | (with_reducible refine keeps_foldl _ _ _ ?_ ?_)
    | (simp only [])
    | split

theorem keeps_stripeDone {r0 s : State} (h : Keeps r0 s) (clu k : Nat) : Keeps r0 (State.stripeDone s clu k) := by
  unfold State.stripeDone
  repeat' first
    | (with_reducible assumption)
    | (solve | simp (maxDischargeDepth := 60) +contextual only [keeps_ite, implies_true, keeps_complete, keeps_setBit,
        keeps_setWin, keeps_syncWin, keeps_winStart, *])
    | (with_reducible intro _)
    | (simp only [])
    | split

theorem keeps_winOp {r0 s : State} (h : Keeps r0 s) (core : Nat) (d : Desc) (pool : Nat) : KeepsR r0 (State.winOp s core d pool)
    := by
  unfold State.winOp
  simp (maxDischargeDepth := 60) +contextual only [implies_true, KeepsR_next, KeepsR_fault, keepsR_ite, KeepsR_onUnit,
      keeps_atUnit, keeps_winArrive, *]

theorem keeps_execWindowConvolution {r0 s : State} (h : Keeps r0 s) (core : Nat) (d : Desc) : KeepsR r0 (execWindowConvolution
    core d s) := by
  unfold execWindowConvolution
  simp (maxDischargeDepth := 60) +contextual only [keeps_winOp, *]

theorem keeps_execWindowMaxPool {r0 s : State} (h : Keeps r0 s) (core : Nat) (d : Desc) : KeepsR r0 (execWindowMaxPool core d s)
    := by
  unfold execWindowMaxPool
  simp (maxDischargeDepth := 60) +contextual only [keeps_winOp, *]

theorem keeps_execWindowMeanPool {r0 s : State} (h : Keeps r0 s) (core : Nat) (d : Desc) : KeepsR r0 (execWindowMeanPool core d s)
    := by
  unfold execWindowMeanPool
  simp (maxDischargeDepth := 60) +contextual only [keeps_winOp, *]

theorem keeps_execStripeLineLoad {r0 s : State} (h : Keeps r0 s) (clu stripe : Nat) : KeepsR r0 (execStripeLineLoad clu stripe s)
    := by
  unfold execStripeLineLoad
  simp (maxDischargeDepth := 60) +contextual only [KeepsR_next, KeepsR_onUnit, keeps_stripeLoad, *]

theorem keeps_execStripeHaloResume {r0 s : State} (h : Keeps r0 s) (clu stripe : Nat) : KeepsR r0 (execStripeHaloResume clu stripe
    s) := by
  unfold execStripeHaloResume
  simp (maxDischargeDepth := 60) +contextual only [KeepsR_next, KeepsR_onUnit, keeps_stripeAdvance, *]

theorem keeps_execWindowStripeComplete {r0 s : State} (h : Keeps r0 s) (clu stripe : Nat) : KeepsR r0 (execWindowStripeComplete
    clu stripe s) := by
  unfold execWindowStripeComplete
  simp (maxDischargeDepth := 60) +contextual only [KeepsR_next, KeepsR_onUnit, keeps_stripeDone, *]

theorem keeps_execWinCancel {r0 s : State} (h : Keeps r0 s) (clu : Nat) : KeepsR r0 (execWinCancel clu s) := by
  unfold execWinCancel
  simp (maxDischargeDepth := 60) +contextual only [KeepsR_next, KeepsR_onUnit, keeps_winEndGather, *]

end Sys2Proof.Machine
end

