-- ==== Sys2Proof/Laws/Keep3.lean ====
section
/-! SUPPORT. What every operation keeps: the key-value cache, steering and the update engine. -/
namespace Sys2Proof.Machine

/-! ### Kv.lean -/

theorem keeps_setKvw {r0 s : State} (h : Keeps r0 s) (clu : Nat) (x : KvwSt) : Keeps r0 (State.setKvw s clu x) := by
  unfold State.setKvw
  simp (maxDischargeDepth := 60) +contextual only [keeps_mk, *]

theorem keeps_setBushel {r0 s : State} (h : Keeps r0 s) (p : Pool) (n : Nat) (b : Bushel) : Keeps r0 (State.setBushel s p n b)
    := by
  unfold State.setBushel
  simp (maxDischargeDepth := 60) +contextual only [keeps_wrDa, *]

theorem keeps_setPoolBits {r0 s : State} (h : Keeps r0 s) (v : Bool) : Keeps r0 (State.setPoolBits s v) := by
  unfold State.setPoolBits
  simp (maxDischargeDepth := 60) +contextual only [implies_true, keeps_foldl, keeps_set, *]

theorem keeps_poolInit {r0 s : State} (h : Keeps r0 s) (p : Pool) : Keeps r0 (State.poolInit s p) := by
  unfold State.poolInit
  simp (maxDischargeDepth := 60) +contextual only [keeps_mk, keeps_wrDa, *]

theorem keeps_setValid {r0 s : State} (h : Keeps r0 s) (v : Bool) : Keeps r0 (State.setValid s v) := by
  unfold State.setValid
  simp (maxDischargeDepth := 60) +contextual only [keeps_mk, keeps_setPoolBits, *]

theorem keeps_poolTake {r0 s : State} (h : Keeps r0 s) : Keeps r0 (State.poolTake s) := by
  unfold State.poolTake
  repeat' first
    | (with_reducible assumption)
    | (solve | simp (maxDischargeDepth := 60) +contextual only [keeps_ite, implies_true, keeps_mk, keeps_log', keeps_poolInit,
        keeps_setValid, *])
    | (with_reducible intro _)
    | (simp only [])
    | split

theorem keeps_bopDone {r0 s : State} (h : Keeps r0 s) (clu st cow count b : Nat) : Keeps r0 (State.bopDone s clu st cow count b)
    := by
  unfold State.bopDone
  simp (maxDischargeDepth := 60) +contextual only [keeps_set, *]

theorem keeps_release {r0 s : State} (h : Keeps r0 s) (p : Pool) (n : Nat) : Keeps r0 (State.release s p n) := by
  unfold State.release
  extract_lets b c t
  have ht : Keeps r0 t := keeps_setBushel h ..
  refine keeps_ite (fun _ => keeps_setBushel h ..) (fun _ => keeps_ite (fun _ => keeps_mk ht) (fun _ => ?_))
  exact keeps_mk (keeps_setBushel ht ..)

theorem keeps_freeBushel {r0 s : State} (h : Keeps r0 s) (p : Pool) (n : Nat) : Keeps r0 (State.freeBushel s p n) := by
  unfold State.freeBushel
  simp (maxDischargeDepth := 60) +contextual only [keeps_mk, keeps_setBushel, *]

theorem keeps_bopWait {r0 s : State} (h : Keeps r0 s) (o : BOp) (release : Option Nat) (cow count b : Nat) : Keeps r0
    (State.bopWait s o release cow count b) := by
  unfold State.bopWait
  simp (maxDischargeDepth := 60) +contextual only [keeps_mk, *]

theorem keeps_bopFail {r0 s : State} (h : Keeps r0 s) (o : BOp) (st : Nat) : Keeps r0 (bopFail s o st) := by
  unfold bopFail
  simp (maxDischargeDepth := 60) +contextual only [keeps_bopDone, *]

theorem keeps_bopPoison {r0 s : State} (h : Keeps r0 s) (o : BOp) (da : Nat) : Keeps r0 (State.bopPoison s o da) := by
  unfold State.bopPoison
  simp (maxDischargeDepth := 60) +contextual only [keeps_bopFail, keeps_daUe, *]

theorem keeps_doAlloc {r0 s : State} (h : Keeps r0 s) (p : Pool) (o : BOp) : Keeps r0 (State.doAlloc s p o) := by
  unfold State.doAlloc
  repeat' first
    | (with_reducible assumption)
    | (solve | simp (maxDischargeDepth := 60) +contextual only [implies_true, keeps_mk, keeps_bopDone, keeps_bopFail,
        keeps_bopPoison, keeps_log', keeps_setBushel, *])
    | (with_reducible intro _)
    | (simp only [])
    | split

theorem keeps_doMap {r0 s : State} (h : Keeps r0 s) (p : Pool) (o : BOp) : Keeps r0 (State.doMap s p o) := by
  unfold State.doMap
  extract_lets +onlyGivenNames n b
  split
  · exact keeps_bopPoison h ..
  refine keeps_ite (fun _ => keeps_bopFail h ..) (fun _ => ?_)
  split
  · exact keeps_bopFail h ..
  · exact keeps_bopPoison h ..
  extract_lets +onlyGivenNames old
  split
  · exact keeps_bopPoison h ..
  · exact keeps_ite (fun _ => keeps_bopFail h ..) (fun _ => keeps_bopWait (keeps_wrDa (keeps_setBushel h ..) ..) ..)

theorem keeps_doUnmap {r0 s : State} (h : Keeps r0 s) (p : Pool) (o : BOp) : Keeps r0 (State.doUnmap s p o) := by
  unfold State.doUnmap
  repeat' first
    | (with_reducible assumption)
    | (solve | simp (maxDischargeDepth := 60) +contextual only [keeps_bopFail, keeps_bopPoison, keeps_bopWait, keeps_wrDa, *])
    | (with_reducible intro _)
    | (simp only [])
    | split

theorem keeps_doQuery {r0 s : State} (h : Keeps r0 s) (p : Pool) (o : BOp) : Keeps r0 (State.doQuery s p o) := by
  unfold State.doQuery
  repeat' first
    | (with_reducible assumption)
    | (solve | simp (maxDischargeDepth := 60) +contextual only [keeps_bopDone, keeps_bopFail, keeps_bopPoison, *])
    | (with_reducible intro _)
    | (simp only [])
    | split

theorem keeps_doSetlen {r0 s : State} (h : Keeps r0 s) (p : Pool) (o : BOp) : Keeps r0 (State.doSetlen s p o) := by
  unfold State.doSetlen
  simp (maxDischargeDepth := 60) +contextual only [keeps_bopDone, keeps_wrDa, *]

theorem keeps_doReturn {r0 s : State} (h : Keeps r0 s) (p : Pool) (o : BOp) : Keeps r0 (State.doReturn s p o) := by
  unfold State.doReturn
  repeat' first
    | (with_reducible assumption)
    | (solve | simp (maxDischargeDepth := 60) +contextual only [keeps_ite, implies_true, keeps_bopDone, keeps_bopFail,
        keeps_bopPoison, keeps_freeBushel, *])
    | (with_reducible intro _)
    | (simp only [])
    | split

theorem keeps_doPoolstat {r0 s : State} (h : Keeps r0 s) (o : BOp) : Keeps r0 (State.doPoolstat s o) := by
  unfold State.doPoolstat
  simp (maxDischargeDepth := 60) +contextual only [keeps_bopDone, *]

theorem keeps_bopRun {r0 s : State} (h : Keeps r0 s) (o : BOp) : Keeps r0 (State.bopRun s o) := by
  unfold State.bopRun
  repeat' first
    | (with_reducible assumption)
    | (solve | simp (maxDischargeDepth := 60) +contextual only [keeps_bopDone, keeps_bopFail, keeps_doAlloc, keeps_doMap,
        keeps_doPoolstat, keeps_doQuery, keeps_doReturn, keeps_doSetlen, keeps_doUnmap, *])
    | (with_reducible intro _)
    | (simp only [])
    | split

theorem keeps_bopNext {r0 s : State} (h : Keeps r0 s) (n : Nat) : Keeps r0 (State.bopNext s n) := by
  induction n generalizing s with
  | zero =>
    unfold State.bopNext
    assumption
  | succ n ih =>
    unfold State.bopNext
    repeat' first
      | (with_reducible assumption)
      | (solve | simp (maxDischargeDepth := 60) +contextual only [keeps_ite, implies_true, keeps_mk, keeps_bopRun, *])
      | (with_reducible intro _)
      | (simp only [])
      | split

theorem keeps_bopGo {r0 s : State} (h : Keeps r0 s) : Keeps r0 (State.bopGo s) := by
  unfold State.bopGo
  simp (maxDischargeDepth := 60) +contextual only [keeps_bopNext, *]

theorem keeps_bopFinish {r0 s : State} (h : Keeps r0 s) (w : BopWait) : Keeps r0 (State.bopFinish s w) := by
  unfold State.bopFinish
  repeat' first
    | (with_reducible assumption)
    | (solve | simp (maxDischargeDepth := 60) +contextual only [keeps_ite, implies_true, keeps_mk, keeps_bopDone,
        keeps_release, *])
    | (with_reducible intro _)
    | (simp only [])
    | split

theorem keeps_bopAcks {r0 s : State} (h : Keeps r0 s) : Keeps r0 (State.bopAcks s) := by
  unfold State.bopAcks
  repeat' first
    | (with_reducible assumption)
    | (solve | simp (maxDischargeDepth := 60) +contextual only [keeps_ite, implies_true, keeps_mk, keeps_bopFinish,
        keeps_bopGo, *])
    | (with_reducible intro _)
    | (simp only [])
    | split

theorem keeps_bopWrite {r0 s : State} (h : Keeps r0 s) (by_ : Agent) (clu op seq vb : Nat) : Keeps r0 (State.bopWrite s by_ clu op
    seq vb) := by
  unfold State.bopWrite
  simp (maxDischargeDepth := 60) +contextual only [keeps_ite, implies_true, keeps_mk, keeps_bopGo, keeps_set, keeps_setKvw,
      keeps_whenReady, *]

theorem keeps_bopOp {r0 s : State} (h : Keeps r0 s) (by_ : Agent) (clu op seq vb : Nat) : KeepsR r0 (State.bopOp s by_ clu op seq
    vb) := by
  unfold State.bopOp
  simp (maxDischargeDepth := 60) +contextual only [KeepsR_next, KeepsR_onUnit, keeps_bopWrite, *]

theorem keeps_execAlloc {r0 s : State} (h : Keeps r0 s) (by_ : Agent) (clu seq vb : Nat) : KeepsR r0 (execAlloc by_ clu seq vb s)
    := by
  unfold execAlloc
  simp (maxDischargeDepth := 60) +contextual only [keeps_bopOp, *]

theorem keeps_execMap {r0 s : State} (h : Keeps r0 s) (by_ : Agent) (clu seq vb : Nat) : KeepsR r0 (execMap by_ clu seq vb s)
    := by
  unfold execMap
  simp (maxDischargeDepth := 60) +contextual only [keeps_bopOp, *]

theorem keeps_execUnmap {r0 s : State} (h : Keeps r0 s) (by_ : Agent) (clu seq vb : Nat) : KeepsR r0 (execUnmap by_ clu seq vb s)
    := by
  unfold execUnmap
  simp (maxDischargeDepth := 60) +contextual only [keeps_bopOp, *]

theorem keeps_execQuery {r0 s : State} (h : Keeps r0 s) (by_ : Agent) (clu seq vb : Nat) : KeepsR r0 (execQuery by_ clu seq vb s)
    := by
  unfold execQuery
  simp (maxDischargeDepth := 60) +contextual only [keeps_bopOp, *]

theorem keeps_execSetlen {r0 s : State} (h : Keeps r0 s) (by_ : Agent) (clu seq vb : Nat) : KeepsR r0 (execSetlen by_ clu seq vb
    s) := by
  unfold execSetlen
  simp (maxDischargeDepth := 60) +contextual only [keeps_bopOp, *]

theorem keeps_execReturnBushel {r0 s : State} (h : Keeps r0 s) (by_ : Agent) (clu seq vb : Nat) : KeepsR r0 (execReturnBushel by_
    clu seq vb s) := by
  unfold execReturnBushel
  simp (maxDischargeDepth := 60) +contextual only [keeps_bopOp, *]

theorem keeps_execPoolstat {r0 s : State} (h : Keeps r0 s) (by_ : Agent) (clu seq vb : Nat) : KeepsR r0 (execPoolstat by_ clu seq
    vb s) := by
  unfold execPoolstat
  simp (maxDischargeDepth := 60) +contextual only [keeps_bopOp, *]

theorem keeps_execKvPoolInit {r0 s : State} (h : Keeps r0 s) : KeepsR r0 (execKvPoolInit s) := by
  unfold execKvPoolInit
  simp (maxDischargeDepth := 60) +contextual only [keeps_ite, implies_true, KeepsR_next, keeps_bopGo, keeps_poolTake, *]

theorem keeps_reclaim {r0 s : State} (h : Keeps r0 s) (p : Pool) (n : Nat) : Keeps r0 (State.reclaim s p n) := by
  induction n generalizing s with
  | zero =>
    unfold State.reclaim
    assumption
  | succ n ih =>
    unfold State.reclaim
    simp (maxDischargeDepth := 60) +contextual only [keeps_ite, implies_true, keeps_mk, keeps_freeBushel, *]

theorem keeps_kvEdge {r0 s : State} (h : Keeps r0 s) : Keeps r0 (State.kvEdge s) := by
  unfold State.kvEdge
  repeat' first
    | (with_reducible assumption)
    | (solve | simp (maxDischargeDepth := 60) +contextual only [keeps_mk, keeps_bopAcks, keeps_reclaim, *])
    | (with_reducible intro _)
    | (simp only [])
    | split

theorem keeps_syncKvw {r0 s : State} (h : Keeps r0 s) (clu : Nat) : Keeps r0 (State.syncKvw s clu) := by
  unfold State.syncKvw
  simp (maxDischargeDepth := 60) +contextual only [keeps_set, *]

theorem keeps_kvRefuse {r0 s : State} (h : Keeps r0 s) (core : Nat) (d : Desc) : Keeps r0 (State.kvRefuse s core d) := by
  unfold State.kvRefuse
  simp (maxDischargeDepth := 60) +contextual only [keeps_bump, keeps_refuse, *]

theorem keeps_kvDesc {r0 s : State} (h : Keeps r0 s) (core : Nat) (d : Desc) (b : BadField) : Keeps r0 (State.kvDesc s core d b)
    := by
  unfold State.kvDesc
  simp (maxDischargeDepth := 60) +contextual only [keeps_kvRefuse, keeps_log', *]

theorem keeps_glnRefuse {r0 s : State} (h : Keeps r0 s) (core : Nat) (d : Desc) : Keeps r0 (State.glnRefuse s core d) := by
  unfold State.glnRefuse
  simp (maxDischargeDepth := 60) +contextual only [keeps_bump, keeps_refuse, *]

theorem keeps_glnDesc {r0 s : State} (h : Keeps r0 s) (core : Nat) (d : Desc) (b : BadField) : Keeps r0 (State.glnDesc s core d b)
    := by
  unfold State.glnDesc
  simp (maxDischargeDepth := 60) +contextual only [keeps_glnRefuse, keeps_log', *]

theorem keeps_kvWriteRow {r0 s : State} (h : Keeps r0 s) (core : Nat) (d : Desc) (p : Pool) (data : Option (List Byte)) (tok row :
    Nat) : Keeps r0 (State.kvWriteRow s core d p data tok row) := by
  unfold State.kvWriteRow
  repeat' first
    | (with_reducible assumption)
    | (solve | simp (maxDischargeDepth := 60) +contextual only [keeps_ite, implies_true, keeps_foldl, keeps_setAcc, keeps_wr,
        *])
    | (with_reducible intro _)
    | (with_reducible refine keeps_foldl _ _ _ ?_ ?_)
    | (simp only [])
    | split

theorem keeps_kvItem {r0 s : State} (h : Keeps r0 s) (j : KvJob) (p : Pool) (it : KvItem) (n : Nat) : Keeps r0 (State.kvItem s j p
    it n).1 := by
  unfold State.kvItem
  exact keeps_foldl_fst _ _ _ h fun _ _ hs => keeps_bumpSat (keeps_bumpSat (keeps_kvWriteRow hs ..) ..) ..

theorem keeps_kvFinish {r0 s : State} (h : Keeps r0 s) (j : KvJob) : Keeps r0 (State.kvFinish s j) := by
  unfold State.kvFinish
  simp (maxDischargeDepth := 60) +contextual only [keeps_ite, implies_true, keeps_bump, keeps_complete, keeps_setBit,
      keeps_setKvw, keeps_syncKvw, *]

theorem keeps_kvStop {r0 s : State} (h : Keeps r0 s) (j : KvJob) : Keeps r0 (State.kvStop s j) := by
  unfold State.kvStop
  simp (maxDischargeDepth := 60) +contextual only [keeps_kvRefuse, keeps_setKvw, keeps_syncKvw, *]

theorem keeps_glnFinish {r0 s : State} (h : Keeps r0 s) (j : KvJob) : Keeps r0 (State.glnFinish s j) := by
  unfold State.glnFinish
  simp (maxDischargeDepth := 60) +contextual only [keeps_complete, keeps_setKvw, keeps_syncKvw, keeps_wr, *]

theorem keeps_glnStop {r0 s : State} (h : Keeps r0 s) (j : KvJob) : Keeps r0 (State.glnStop s j) := by
  unfold State.glnStop
  simp (maxDischargeDepth := 60) +contextual only [keeps_glnRefuse, keeps_setKvw, keeps_syncKvw, *]

theorem keeps_setJob {r0 s : State} (h : Keeps r0 s) (clu : Nat) (gln : Bool) (j : KvJob) : Keeps r0 (State.setJob s clu gln j)
    := by
  unfold State.setJob
  simp (maxDischargeDepth := 60) +contextual only [keeps_setKvw, *]

theorem keeps_jobPoison {r0 s : State} (h : Keeps r0 s) (clu : Nat) (gln : Bool) (j : KvJob) (da : Nat) : Keeps r0
    (State.jobPoison s clu gln j da) := by
  unfold State.jobPoison
  simp (maxDischargeDepth := 60) +contextual only [keeps_ite, implies_true, keeps_daUe, keeps_glnStop, keeps_kvStop, *]

theorem keeps_startWalks {r0 s : State} (h : Keeps r0 s) (clu : Nat) (gln : Bool) (j : KvJob) : Keeps r0 (State.startWalks s clu
    gln j) := by
  unfold State.startWalks
  simp (maxDischargeDepth := 60) +contextual only [keeps_ite, implies_true, keeps_foldl, keeps_bumpSat, keeps_setKvw,
      keeps_syncKvw, *]

theorem keeps_jobGo {r0 s : State} (h : Keeps r0 s) (clu : Nat) (gln : Bool) (n : Nat) : Keeps r0 (State.jobGo s clu gln n) :=
    by
  induction n generalizing s gln with
  | zero => exact h
  | succ fuel ih =>
    unfold State.jobGo
    extract_lets +onlyGivenNames x
    split
    · exact h
    split
    · exact keeps_ite (fun _ => keeps_glnFinish h ..) (fun _ => keeps_kvFinish h ..)
    extract_lets +onlyGivenNames img
    split
    · exact keeps_ite (fun _ => keeps_glnStop h ..) (fun _ => keeps_kvStop h ..)
    extract_lets +onlyGivenNames spans use busy
    have hu : ∀ y n, Keeps r0 y → Keeps r0 (use y n) := by
      intro y n hy
      unfold use
      split
      · exact keeps_jobPoison hy ..
      · exact keeps_ite (fun _ => ih (keeps_bumpSat (keeps_setJob hy ..) ..) ..) (fun _ => ih (keeps_setJob (keeps_kvItem hy
          ..) ..) ..)
    refine keeps_ite (fun _ => ?_) (fun _ => ?_)
    · exact ih (keeps_setJob (keeps_foldl _ _ _ h fun _ _ hs => keeps_kvWriteRow hs ..) ..) ..
    split
    · exact keeps_ite (fun _ => h) (fun _ => hu _ _ h)
    split
    · exact keeps_ite (fun _ => h) (fun _ => hu _ _ (keeps_bumpSat (keeps_setKvw h ..) ..))
    · exact keeps_startWalks h ..

theorem keeps_jobRun {r0 s : State} (h : Keeps r0 s) (clu : Nat) (gln : Bool) : Keeps r0 (State.jobRun s clu gln) := by
  unfold State.jobRun
  simp (maxDischargeDepth := 60) +contextual only [keeps_jobGo, *]

theorem keeps_kvResume {r0 s : State} (h : Keeps r0 s) : Keeps r0 (State.kvResume s) := by
  unfold State.kvResume
  simp (maxDischargeDepth := 60) +contextual only [implies_true, keeps_foldl, keeps_bopAcks, keeps_bopGo, keeps_jobRun, *]

theorem keeps_kvStart {r0 s : State} (h : Keeps r0 s) (core : Nat) (d : Desc) : Keeps r0 (State.kvStart s core d) := by
  unfold State.kvStart
  repeat' first
    | (with_reducible assumption)
    | (solve | simp (maxDischargeDepth := 60) +contextual only [keeps_ite, implies_true, keeps_coreUe, keeps_fmtIllegal,
        keeps_hold, keeps_jobRun, keeps_kvDesc, keeps_kvRefuse, keeps_log', keeps_setJob, keeps_syncKvw, *])
    | (with_reducible intro _)
    | (simp only [])
    | split

theorem keeps_execKvGather {r0 s : State} (h : Keeps r0 s) (core : Nat) (d : Desc) : KeepsR r0 (execKvGather core d s) := by
  unfold execKvGather
  simp (maxDischargeDepth := 60) +contextual only [implies_true, KeepsR_next, KeepsR_onUnit, keeps_atUnit, keeps_kvStart, *]

theorem keeps_glnStart {r0 s : State} (h : Keeps r0 s) (core : Nat) (d : Desc) : Keeps r0 (State.glnStart s core d) := by
  unfold State.glnStart
  repeat' first
    | (with_reducible assumption)
    | (solve | simp (maxDischargeDepth := 60) +contextual only [keeps_ite, implies_true, keeps_fmtIllegal, keeps_glnDesc,
        keeps_glnRefuse, keeps_hold, keeps_jobRun, keeps_setJob, keeps_syncKvw, *])
    | (with_reducible intro _)
    | (simp only [])
    | split

theorem keeps_execGlean {r0 s : State} (h : Keeps r0 s) (core : Nat) (d : Desc) : KeepsR r0 (execGlean core d s) := by
  unfold execGlean
  simp (maxDischargeDepth := 60) +contextual only [implies_true, KeepsR_next, KeepsR_onUnit, keeps_atUnit, keeps_glnStart, *]

theorem keeps_walkEnd {r0 s : State} (h : Keeps r0 s) (clu seq vb : Nat) : Keeps r0 (State.walkEnd s clu seq vb) := by
  unfold State.walkEnd
  repeat' first
    | (with_reducible assumption)
    | (solve | simp (maxDischargeDepth := 60) +contextual only [keeps_ite, implies_true, keeps_foldl, keeps_glnStop,
        keeps_jobPoison, keeps_jobRun, keeps_kvStop, keeps_log', keeps_setJob, keeps_setKvw, keeps_syncKvw, *])
    | (with_reducible intro _)
    | (with_reducible refine keeps_foldl _ _ _ ?_ ?_)
    | (simp only [])
    | split

theorem keeps_execKvWalkComplete {r0 s : State} (h : Keeps r0 s) (clu seq vb : Nat) : KeepsR r0 (execKvWalkComplete clu seq vb s)
    := by
  unfold execKvWalkComplete
  simp (maxDischargeDepth := 60) +contextual only [KeepsR_next, KeepsR_onUnit, keeps_walkEnd, *]

theorem keeps_execLabInvalidate {r0 s : State} (h : Keeps r0 s) (clu seq vb : Nat) : KeepsR r0 (execLabInvalidate clu seq vb s)
    := by
  unfold execLabInvalidate
  repeat' first
    | (with_reducible assumption)
    | (solve | simp (maxDischargeDepth := 60) +contextual only [keeps_ite, implies_true, keeps_mk, KeepsR_next, keeps_bopAcks,
        keeps_setKvw, *])
    | (with_reducible intro _)
    | (with_reducible apply KeepsR_onUnit)
    | (with_reducible rw [KeepsR_next])
    | (simp only [])
    | split

theorem keeps_labFlush {r0 s : State} (h : Keeps r0 s) (clu : Nat) : Keeps r0 (State.labFlush s clu) := by
  unfold State.labFlush
  simp (maxDischargeDepth := 60) +contextual only [keeps_setKvw, *]

theorem keeps_execLabFlush {r0 s : State} (h : Keeps r0 s) (clu : Nat) : KeepsR r0 (execLabFlush clu s) := by
  unfold execLabFlush
  simp (maxDischargeDepth := 60) +contextual only [KeepsR_next, KeepsR_onUnit, keeps_labFlush, *]

theorem keeps_kvSwitch {r0 s : State} (h : Keeps r0 s) : Keeps r0 (State.kvSwitch s) := by
  unfold State.kvSwitch
  simp (maxDischargeDepth := 60) +contextual only [implies_true, keeps_mk, keeps_foldl, keeps_labFlush, *]

/-! ### Steer.lean -/

theorem keeps_totalAdd {r0 s : State} (h : Keeps r0 s) (k : Nat) (t : Tally) : Keeps r0 (State.totalAdd s k t) := by
  unfold State.totalAdd
  simp (maxDischargeDepth := 60) +contextual only [keeps_mk, *]

theorem keeps_tallySend {r0 s : State} (h : Keeps r0 s) (row : Nat) : Keeps r0 (State.tallySend s row) := by
  unfold State.tallySend
  simp (maxDischargeDepth := 60) +contextual only [implies_true, keeps_mk, keeps_foldl, keeps_setDie, keeps_totalAdd, *]

theorem keeps_takeOwn {r0 s : State} (h : Keeps r0 s) (row : Nat) : Keeps r0 (State.takeOwn s row).1 := by
  unfold State.takeOwn
  simp (maxDischargeDepth := 60) +contextual only [keeps_mk, *]

theorem keeps_cacheRow {r0 s : State} (h : Keeps r0 s) (r : Nat) (x : SteerRow) : Keeps r0 (State.cacheRow s r x) := by
  unfold State.cacheRow
  simp (maxDischargeDepth := 60) +contextual only [implies_true, keeps_foldl, keeps_set, keeps_setDie, *]

theorem keeps_tableRow {r0 s : State} (h : Keeps r0 s) (r : Nat) (x : SteerRow) : Keeps r0 (State.tableRow s r x) := by
  unfold State.tableRow
  simp (maxDischargeDepth := 60) +contextual only [implies_true, keeps_mk, keeps_foldl, *]

theorem keeps_satHigh {r0 s : State} (h : Keeps r0 s) (ld step row layer role : Nat) (b : RoleBlk) (b' : RoleBlk) (p : Profile) :
    Keeps r0 (State.satHigh s ld step row layer role b b' p) := by
  unfold State.satHigh
  simp (maxDischargeDepth := 60) +contextual only [keeps_bump, keeps_log', *]

theorem keeps_steerUpdate {r0 s : State} (h : Keeps r0 s) (ld row step : Nat) (skipped : Bool) : Keeps r0 (State.steerUpdate s ld
    row step skipped) := by
  unfold State.steerUpdate
  repeat' first
    | (with_reducible assumption)
    | (solve | simp (maxDischargeDepth := 60) +contextual only [keeps_ite, implies_true, keeps_mk, keeps_cacheRow,
        keeps_satHigh, keeps_tableRow, keeps_tallySend, *])
    | (with_reducible intro _)
    | (simp only [])
    | split

theorem keeps_steerSeed {r0 s : State} (h : Keeps r0 s) (pol : List Byte) (startup : Bool) : Keeps r0 (State.steerSeed s pol
    startup) := by
  unfold State.steerSeed
  simp (maxDischargeDepth := 60) +contextual only [keeps_ite, implies_true, keeps_mk, keeps_foldl, keeps_cacheRow,
      keeps_tableRow, *]

/-! ### Upd.lean -/

theorem keeps_setUpd {r0 s : State} (h : Keeps r0 s) (ld : Nat) (x : UpdSt) : Keeps r0 (State.setUpd s ld x) := by
  unfold State.setUpd
  simp (maxDischargeDepth := 60) +contextual only [keeps_mk, keeps_set, *]

theorem keeps_updUe {r0 s : State} (h : Keeps r0 s) (ld : Nat) (img : Image) (da : Nat) : Keeps r0 (State.updUe s ld img da) := by
  unfold State.updUe
  simp (maxDischargeDepth := 60) +contextual only [keeps_daUe, *]

theorem keeps_updAbortEv {r0 s : State} (h : Keeps r0 s) (ld step layer chunk da : Nat) : Keeps r0 (State.updAbortEv s ld step
    layer chunk da) := by
  unfold State.updAbortEv
  simp (maxDischargeDepth := 60) +contextual only [keeps_log', *]

theorem keeps_updDescEv {r0 s : State} (h : Keeps r0 s) (ld layer : Nat) (b : BadField) : Keeps r0 (State.updDescEv s ld layer b)
    := by
  unfold State.updDescEv
  simp (maxDischargeDepth := 60) +contextual only [keeps_log', *]

theorem keeps_updRefuse {r0 s : State} (h : Keeps r0 s) (ld core : Nat) (d : Desc) (sec : List Byte) (entry : Option Nat) (isFmt :
    Bool) (b : BadField) : Keeps r0 (State.updRefuse s ld core d sec entry isFmt b) := by
  unfold State.updRefuse
  simp (maxDischargeDepth := 60) +contextual only [keeps_ite, implies_true, keeps_fmtIllegal, keeps_refuse, keeps_setUpd,
      keeps_updDescEv, *]

theorem keeps_updTake {r0 s : State} (h : Keeps r0 s) (core : Nat) (d : Desc) : Keeps r0 (State.updTake s core d) := by
  unfold State.updTake
  repeat' first
    | (with_reducible assumption)
    | (solve | simp (maxDischargeDepth := 60) +contextual only [keeps_ite, implies_true, keeps_complete, keeps_hold,
        keeps_setUpd, keeps_unmappedEv, keeps_updRefuse, *])
    | (with_reducible intro _)
    | (simp only [])
    | split

theorem keeps_execUpdateDescriptor {r0 s : State} (h : Keeps r0 s) (core : Nat) (d : Desc) : KeepsR r0 (execUpdateDescriptor core
    d s) := by
  unfold execUpdateDescriptor
  simp (maxDischargeDepth := 60) +contextual only [implies_true, KeepsR_next, KeepsR_fault, keepsR_ite, KeepsR_onUnit,
      keeps_atUnit, keeps_updTake, *]

theorem keeps_sendNorm {r0 s : State} (h : Keeps r0 s) (r : JRec) (ps : List NormPart) : Keeps r0 (State.sendNorm s r ps) := by
  unfold State.sendNorm
  simp (maxDischargeDepth := 60) +contextual only [keeps_ite, implies_true, keeps_foldl, keeps_sendPacket, keeps_setUpd, *]

theorem keeps_sendFlag {r0 s : State} (h : Keeps r0 s) (ld : Nat) : Keeps r0 (State.sendFlag s ld) := by
  unfold State.sendFlag
  simp (maxDischargeDepth := 60) +contextual only [keeps_ite, implies_true, keeps_pkgSend, keeps_setUpd, *]

theorem keeps_updCheck {r0 s : State} (h : Keeps r0 s) (ld : Nat) : Keeps r0 (State.updCheck s ld) := by
  unfold State.updCheck
  repeat' first
    | (with_reducible assumption)
    | (solve | simp (maxDischargeDepth := 60) +contextual only [implies_true, keeps_sendFlag, keeps_sendNorm, keeps_setUpd,
        keeps_updAbortEv, keeps_updUe, *])
    | (with_reducible intro _)
    | (simp only [])
    | split

theorem keeps_execUpdateCheck {r0 s : State} (h : Keeps r0 s) (ld : Nat) : KeepsR r0 (execUpdateCheck ld s) := by
  unfold execUpdateCheck
  simp (maxDischargeDepth := 60) +contextual only [keeps_ite, implies_true, KeepsR_next, KeepsR_onUnit, keeps_updCheck, *]

theorem keeps_execRule3PartialReceive {r0 s : State} (h : Keeps r0 s) (ld layer step leaf size wn dn : Nat) : KeepsR r0
    (execRule3PartialReceive ld layer step leaf size wn dn s) := by
  unfold execRule3PartialReceive
  simp (maxDischargeDepth := 60) +contextual only [keeps_ite, implies_true, KeepsR_next, KeepsR_onUnit, keeps_setUpd, *]

theorem keeps_jobDecide {r0 s : State} (h : Keeps r0 s) (step : Nat) : Keeps r0 (State.jobDecide s step) := by
  unfold State.jobDecide
  simp (maxDischargeDepth := 60) +contextual only [keeps_ite, implies_true, keeps_mk, keeps_pkgSend, *]

theorem keeps_devFlag {r0 s : State} (h : Keeps r0 s) (dev step : Nat) (flag : Bool) : Keeps r0 (State.devFlag s dev step flag)
    := by
  unfold State.devFlag
  simp (maxDischargeDepth := 60) +contextual only [keeps_ite, implies_true, keeps_mk, keeps_jobDecide, *]

theorem keeps_skipIn {r0 s : State} (h : Keeps r0 s) (ld step : Nat) (flag : Bool) : Keeps r0 (execSkipFlagReceive.skipIn ld step
    flag s) := by
  unfold execSkipFlagReceive.skipIn
  extract_lets +onlyGivenNames fl k t sec
  have ht : Keeps r0 t := keeps_mk h
  exact keeps_ite (fun _ => keeps_devFlag (keeps_tc0All ht ..) ..) (fun _ => ht)

theorem keeps_execSkipFlagReceive {r0 s : State} (h : Keeps r0 s) (ld step : Nat) (flag : Bool) : KeepsR r0 (execSkipFlagReceive
    ld step flag s) := by
  unfold execSkipFlagReceive
  refine KeepsR_onUnit ?_
  split
  · refine keepsR_ite (fun _ => ?_) (fun _ => ?_) <;> rw [KeepsR_next]
    · exact keeps_pkgSend h ..
    · exact keeps_skipIn h ..
  · rw [KeepsR_next]
    exact keeps_skipIn h ..

theorem keeps_execDeviceSkipFlagReceive {r0 s : State} (h : Keeps r0 s) (dev step : Nat) (flag : Bool) (lat : Nat) : KeepsR r0
    (execDeviceSkipFlagReceive dev step flag lat s) := by
  unfold execDeviceSkipFlagReceive
  simp (maxDischargeDepth := 60) +contextual only [KeepsR_next, keeps_devFlag, keeps_tc0In, *]

theorem keeps_steerRest {r0 s : State} (h : Keeps r0 s) (ld step : Nat) (skipped : Bool) : Keeps r0 (State.steerRest s ld step
    skipped) := by
  unfold State.steerRest
  simp (maxDischargeDepth := 60) +contextual only [keeps_ite, implies_true, keeps_foldl, keeps_steerUpdate, *]

theorem keeps_steerLayer {r0 s : State} (h : Keeps r0 s) (ld : Nat) (sec : List Byte) (layer step : Nat) (skipped : Bool) : Keeps
    r0 (State.steerLayer s ld sec layer step skipped) := by
  unfold State.steerLayer
  repeat' first
    | (with_reducible assumption)
    | (solve | simp (maxDischargeDepth := 60) +contextual only [implies_true, keeps_steerUpdate, *])
    | (with_reducible intro _)
    | (simp only [])
    | split

theorem keeps_roundEnd {r0 s : State} (h : Keeps r0 s) (ld : Nat) (skipped : Bool) : Keeps r0 (State.roundEnd s ld skipped) := by
  unfold State.roundEnd
  simp (maxDischargeDepth := 60) +contextual only [keeps_mk, keeps_setUpd, keeps_steerRest, *]

theorem keeps_skipEv {r0 s : State} (h : Keeps r0 s) (ld step : Nat) : Keeps r0 (State.skipEv s ld step) := by
  unfold State.skipEv
  simp (maxDischargeDepth := 60) +contextual only [keeps_ite, implies_true, keeps_log', *]

theorem keeps_execJobFlagReceive {r0 s : State} (h : Keeps r0 s) (ld step : Nat) (flag : Bool) : KeepsR r0 (execJobFlagReceive ld
    step flag s) := by
  unfold execJobFlagReceive
  simp (maxDischargeDepth := 60) +contextual only [keeps_ite, implies_true, keeps_foldl, KeepsR_next, keepsR_ite,
      KeepsR_onUnit, keeps_bump, keeps_complete, keeps_roundEnd, keeps_setUpd, keeps_skipEv, keeps_steerLayer,
      keeps_updAbortEv, *]

theorem keeps_setRefresh {r0 s : State} (h : Keeps r0 s) (ld : Nat) (img : Image) (n : Nat) : Keeps r0 (State.setRefresh s ld img
    n) := by
  unfold State.setRefresh
  simp (maxDischargeDepth := 60) +contextual only [keeps_wrDa, *]

theorem keeps_homeCopy {r0 s : State} (h : Keeps r0 s) (ld : Nat) (r : JRec) : Keeps r0 (State.homeCopy s ld r) := by
  unfold State.homeCopy
  simp (maxDischargeDepth := 60) +contextual only [keeps_ite, implies_true, keeps_foldl, keeps_setRefresh, keeps_wrDa, *]

theorem keeps_ortho {r0 s : State} (h : Keeps r0 s) (ld : Nat) (r : JRec) : Keeps r0 (State.ortho s ld r) := by
  unfold State.ortho
  extract_lets
  split
  exact keeps_wrDa h ..

theorem keeps_writeChunk {r0 s : State} (h : Keeps r0 s) (ld : Nat) (r : JRec) : Keeps r0 (State.writeChunk s ld r).1 := by
  unfold State.writeChunk
  simp (maxDischargeDepth := 60) +contextual only [keeps_ite, implies_true, keeps_bumpSat, keeps_wrDa, *]

theorem keeps_putRec {r0 s : State} (h : Keeps r0 s) (ld : Nat) (r : JRec) : Keeps r0 (State.putRec s ld r) := by
  unfold State.putRec
  simp (maxDischargeDepth := 60) +contextual only [keeps_setUpd, *]

theorem keeps_restoreChunk {r0 s : State} (h : Keeps r0 s) (ld : Nat) (r : JRec) : Keeps r0 (State.restoreChunk s ld r) :=
  keeps_foldl_fst _ _ _ h fun _ _ hs => keeps_wrDa hs ..

theorem keeps_unlock {r0 s : State} (h : Keeps r0 s) (ld : Nat) : Keeps r0 (State.unlock s ld) := by
  unfold State.unlock
  simp (maxDischargeDepth := 60) +contextual only [keeps_setUpd, *]

theorem keeps_layerDone {r0 s : State} (h : Keeps r0 s) (ld : Nat) (r : JRec) : Keeps r0 (State.layerDone s ld r) := by
  unfold State.layerDone
  extract_lets +onlyGivenNames e step hdr ps t u v w
  have hv : Keeps r0 v := keeps_bump (keeps_set (keeps_set (keeps_unlock (keeps_putRec (keeps_wrDa h ..) ..) ..) ..) ..) ..
  exact keeps_complete (keeps_ite (fun _ => hv) (fun _ => keeps_log' hv ..)) ..

theorem keeps_layerTorn {r0 s : State} (h : Keeps r0 s) (ld : Nat) (r : JRec) (da : Nat) : Keeps r0 (State.layerTorn s ld r da)
    := by
  unfold State.layerTorn
  simp (maxDischargeDepth := 60) +contextual only [keeps_ite, implies_true, keeps_putRec, keeps_restoreChunk, keeps_set,
      keeps_setUpd, keeps_unlock, keeps_updAbortEv, keeps_updUe, *]

theorem keeps_chunkCopy {r0 s : State} (h : Keeps r0 s) (ld : Nat) (r : JRec) : Keeps r0 (State.chunkCopy s ld r) := by
  unfold State.chunkCopy
  simp (maxDischargeDepth := 60) +contextual only [keeps_homeCopy, keeps_setUpd, *]

theorem keeps_layerEnd {r0 s : State} (h : Keeps r0 s) (ld : Nat) (r : JRec) : Keeps r0 (State.layerEnd s ld r) := by
  unfold State.layerEnd
  extract_lets +onlyGivenNames hdr
  refine keeps_ite (fun _ => keeps_putRec h ..) (fun _ => ?_)
  split
  · exact keeps_layerTorn h ..
  · exact keeps_layerDone h ..

theorem keeps_writeChunks {r0 s : State} (h : Keeps r0 s) (ld n : Nat) (r : JRec) : Keeps r0 (State.writeChunks s ld n r) := by
  induction n generalizing s r with
  | zero => exact keeps_ite (fun _ => keeps_layerEnd h ..) (fun _ => keeps_putRec h ..)
  | succ n ih =>
    unfold State.writeChunks
    refine keeps_ite (fun _ => keeps_layerEnd h ..) (fun _ => keeps_ite (fun _ => keeps_putRec h ..) (fun _ => ?_))
    split
    · exact keeps_layerTorn h ..
    · exact keeps_ite (fun _ => ih (keeps_writeChunk h ..) ..) (fun _ => ih (keeps_chunkCopy h ..) ..)

theorem keeps_layerStart {r0 s : State} (h : Keeps r0 s) (ld : Nat) (r : JRec) (n : Nat) : Keeps r0 (State.layerStart s ld r n)
    := by
  unfold State.layerStart
  extract_lets +onlyGivenNames e x step pre l
  refine keeps_ite (fun _ => h) (fun _ => ?_)
  split
  · exact keeps_updAbortEv (keeps_updUe (keeps_setUpd h ..) ..) ..
  split
  · exact h
  · extract_lets +onlyGivenNames a b r' c
    have ha : Keeps r0 a := keeps_ite (fun _ => keeps_ortho h ..) (fun _ => h)
    exact keeps_writeChunks (keeps_setUpd (keeps_putRec (keeps_steerLayer ha ..) ..) ..) ..

theorem keeps_updWrite {r0 s : State} (h : Keeps r0 s) (ld n : Nat) : Keeps r0 (State.updWrite s ld n) := by
  unfold State.updWrite
  extract_lets +onlyGivenNames x late t y
  refine keeps_ite (fun _ => h) (fun _ => ?_)
  have ht : Keeps r0 t := by
    unfold t
    split
    · exact keeps_writeChunks h ..
    · refine keeps_ite (fun _ => h) (fun _ => ?_)
      split
      · exact keeps_layerStart h ..
      · exact h
  exact keeps_ite (fun _ => ht) (fun _ => keeps_ite (fun _ => keeps_roundEnd ht ..) (fun _ => keeps_setUpd ht ..))

theorem keeps_updForget {r0 s : State} (h : Keeps r0 s) (l : List UpdItem) : Keeps r0 (State.updForget s l) := by
  unfold State.updForget
  simp (maxDischargeDepth := 60) +contextual only [implies_true, keeps_foldl, keeps_unhold, *]

theorem keeps_updClear {r0 s : State} (h : Keeps r0 s) (ld : Nat) : Keeps r0 (State.updClear s ld) := by
  unfold State.updClear
  simp (maxDischargeDepth := 60) +contextual only [keeps_setUpd, keeps_updForget, *]

theorem keeps_execUpdClear {r0 s : State} (h : Keeps r0 s) (ld : Nat) : KeepsR r0 (execUpdClear ld s) := by
  unfold execUpdClear
  simp (maxDischargeDepth := 60) +contextual only [KeepsR_next, KeepsR_onUnit, keeps_updClear, *]

theorem keeps_rollBegin {r0 s : State} (h : Keeps r0 s) (ld : Nat) (r : JRec) : Keeps r0 (State.rollBegin s ld r) := by
  unfold State.rollBegin
  simp (maxDischargeDepth := 60) +contextual only [keeps_ite, implies_true, keeps_log', keeps_putRec, keeps_restoreChunk, *]

theorem keeps_updReset {r0 s : State} (h : Keeps r0 s) (ld : Nat) : Keeps r0 (State.updReset s ld) := by
  unfold State.updReset
  simp (maxDischargeDepth := 60) +contextual only [implies_true, keeps_foldl, keeps_rollBegin, keeps_setUpd, keeps_updForget, *]

theorem keeps_rollStep {r0 s : State} (h : Keeps r0 s) (ld n : Nat) : Keeps r0 (State.rollStep s ld n) := by
  unfold State.rollStep
  extract_lets +onlyGivenNames t y
  have ht : Keeps r0 t := by
    unfold t
    split
    · exact h
    · refine keeps_ite (fun _ => h) (fun _ => ?_)
      split
      · exact keeps_layerTorn h ..
      · exact keeps_writeChunks h ..
  exact keeps_ite (fun _ => ht) (fun _ => keeps_setUpd ht ..)

theorem keeps_updGo {r0 s : State} (h : Keeps r0 s) (ld n : Nat) : Keeps r0 (State.updGo s ld n) := by
  unfold State.updGo
  simp (maxDischargeDepth := 60) +contextual only [keeps_ite, implies_true, keeps_rollStep, keeps_updWrite, *]

theorem keeps_updFreeze {r0 s : State} (h : Keeps r0 s) (ld : Nat) : Keeps r0 (State.updFreeze s ld) := by
  unfold State.updFreeze
  simp (maxDischargeDepth := 60) +contextual only [keeps_ite, implies_true, keeps_setUpd, *]

end Sys2Proof.Machine
end

