-- ==== Sys2Proof/Laws/Keep4.lean ====
section
/-! SUPPORT. What every operation keeps: collectives and re-sharding. -/
namespace Sys2Proof.Machine

/-! ### EscBase.lean -/

theorem keeps_escWr {r0 s : State} (h : Keeps r0 s) (da : Nat) (bs : List Byte) : Keeps r0 (State.escWr s da bs) := by
  unfold State.escWr
  simp (maxDischargeDepth := 60) +contextual only [keeps_wrDa, *]

theorem keeps_escUe {r0 s : State} (h : Keeps r0 s) (da : Nat) : Keeps r0 (State.escUe s da) := by
  unfold State.escUe
  simp (maxDischargeDepth := 60) +contextual only [keeps_daUe, *]

theorem keeps_setBank {r0 s : State} (h : Keeps r0 s) (b v : Nat) : Keeps r0 (State.setBank s b v) := by
  unfold State.setBank
  simp (maxDischargeDepth := 60) +contextual only [keeps_ite, implies_true, keeps_escWr, keeps_set, *]

theorem keeps_escCapture {r0 s : State} (h : Keeps r0 s) (src tid off : Nat) (bs : List Byte) : Keeps r0 (State.escCapture s src
    tid off bs) := by
  unfold State.escCapture
  repeat' first
    | (with_reducible assumption)
    | (solve | simp (maxDischargeDepth := 60) +contextual only [keeps_ite, implies_true, keeps_mk, keeps_foldl, keeps_escWr, *])
    | (with_reducible intro _)
    | (with_reducible refine keeps_foldl _ _ _ ?_ ?_)
    | (simp only [])
    | split

/-! ### Coll.lean -/

theorem keeps_setRuns {r0 s : State} (h : Keeps r0 s) (l : List CollRun) : Keeps r0 (State.setRuns s l) := by
  unfold State.setRuns
  simp (maxDischargeDepth := 60) +contextual only [keeps_mk, keeps_set, *]

theorem keeps_putRun {r0 s : State} (h : Keeps r0 s) (r : CollRun) : Keeps r0 (State.putRun s r) := by
  unfold State.putRun
  simp (maxDischargeDepth := 60) +contextual only [keeps_setRuns, *]

theorem keeps_dropRun {r0 s : State} (h : Keeps r0 s) (core : Nat) (d : Desc) : Keeps r0 (State.dropRun s core d) := by
  unfold State.dropRun
  simp (maxDischargeDepth := 60) +contextual only [keeps_setRuns, *]

theorem keeps_collEv {r0 s : State} (h : Keeps r0 s) (d : Desc) (cause rank : Nat) : Keeps r0 (State.collEv s d cause rank) := by
  unfold State.collEv
  simp (maxDischargeDepth := 60) +contextual only [keeps_log', *]

theorem keeps_collRefuse {r0 s : State} (h : Keeps r0 s) (core : Nat) (d : Desc) (cause rank : Nat) : Keeps r0 (State.collRefuse s
    core d cause rank) := by
  unfold State.collRefuse
  simp (maxDischargeDepth := 60) +contextual only [keeps_bumpSat, keeps_collEv, keeps_dropRun, keeps_refuse, *]

theorem keeps_collFmtRefuse {r0 s : State} (h : Keeps r0 s) (core : Nat) (d : Desc) : Keeps r0 (State.collFmtRefuse s core d)
    := by
  unfold State.collFmtRefuse
  simp (maxDischargeDepth := 60) +contextual only [keeps_bumpSat, keeps_dropRun, keeps_fmtIllegal, keeps_refuse, *]

theorem keeps_epochRefuse {r0 s : State} (h : Keeps r0 s) (core : Nat) (d : Desc) (held got src : Nat) : Keeps r0
    (State.epochRefuse s core d held got src) := by
  unfold State.epochRefuse
  simp (maxDischargeDepth := 60) +contextual only [keeps_bumpSat, keeps_dropRun, keeps_log', keeps_refuse, *]

theorem keeps_collDone {r0 s : State} (h : Keeps r0 s) (core : Nat) (d : Desc) : Keeps r0 (State.collDone s core d) := by
  unfold State.collDone
  simp (maxDischargeDepth := 60) +contextual only [keeps_complete, keeps_dropRun, *]

theorem keeps_collSend {r0 s : State} (h : Keeps r0 s) (dst tc : Nat) (h : CollHdr) (bs : List Byte) : Keeps r0 (State.collSend s
    dst tc h bs) := by
  unfold State.collSend
  simp (maxDischargeDepth := 60) +contextual only [implies_true, keeps_foldl, keeps_sendPacket, *]

theorem keeps_inRun {r0 s : State} (h : Keeps r0 s) (r : CollRun) : Keeps r0 (State.inRun s r) := by
  unfold State.inRun
  repeat' first
    | (with_reducible assumption)
    | (solve | simp (maxDischargeDepth := 60) +contextual only [implies_true, keeps_foldl, keeps_collDone, keeps_wrDa, *])
    | (with_reducible intro _)
    | (with_reducible refine keeps_foldl _ _ _ ?_ ?_)
    | (simp only [])
    | split

theorem keeps_collTry {r0 s : State} (h : Keeps r0 s) (r : CollRun) : Keeps r0 (State.collTry s r) := by
  unfold State.collTry
  repeat' first
    | (with_reducible assumption)
    | (solve | simp (maxDischargeDepth := 60) +contextual only [keeps_ite, implies_true, keeps_foldl, keeps_collDone,
        keeps_collSend, keeps_putRun, keeps_wrDa, *])
    | (with_reducible intro _)
    | (with_reducible refine keeps_foldl _ _ _ ?_ ?_)
    | (simp only [])
    | split

theorem keeps_takePart {r0 s : State} (h : Keeps r0 s) (r : CollRun) (leaf size elem : Nat) (cs : List Nat) (rank : Nat) : Keeps
    r0 (State.takePart s r leaf size elem cs rank).1 := by
  unfold State.takePart
  repeat' first
    | (with_reducible assumption)
    | (solve | simp (maxDischargeDepth := 60) +contextual only [keeps_collEv, keeps_putRun, *])
    | (with_reducible intro _)
    | (simp only [])
    | split

theorem keeps_collIn {r0 s : State} (h : Keeps r0 s) (r : CollRun) (p : Packet) (c : CollHdr) : Keeps r0 (State.collIn s r p c)
    := by
  unfold State.collIn
  extract_lets +onlyGivenNames img
  split
  · exact h
  extract_lets +onlyGivenNames d cs r1 put
  have hp : ∀ da f, (∀ y, Keeps r0 y → Keeps r0 (f y)) → Keeps r0 (put da f) := fun da f hf =>
    keeps_ite (fun _ => keeps_waitFor h ..) (fun _ => keeps_collTry (keeps_putRun (keeps_wrDa (hf _ h) ..) ..) ..)
  clear_value put
  split
  · exact hp _ _ fun _ hy => hy
  · exact keeps_collTry (keeps_takePart h ..) ..
  · exact hp _ _ fun _ hy => keeps_escCapture hy ..
  · split
    · exact hp _ _ fun _ hy => hy
    · exact h
  · split
    · exact keeps_collTry (keeps_putRun (keeps_totalAdd (keeps_totalAdd h ..) ..) ..) ..
    · exact h
  · exact h

theorem keeps_collPacket {r0 s : State} (h : Keeps r0 s) (p : Packet) (h : CollHdr) : Keeps r0 (State.collPacket s p h) := by
  unfold State.collPacket
  repeat' first
    | (with_reducible assumption)
    | (solve | simp (maxDischargeDepth := 60) +contextual only [keeps_ite, implies_true, keeps_mk, keeps_bumpSat, keeps_collIn,
        keeps_epochRefuse, keeps_log', *])
    | (with_reducible intro _)
    | (with_reducible apply keeps_collIn)
    | (simp only [])
    | split

theorem keeps_takeKept {r0 s : State} (h : Keeps r0 s) (d : Desc) : Keeps r0 (State.takeKept s d) := by
  unfold State.takeKept
  repeat' first
    | (with_reducible assumption)
    | (solve | simp (maxDischargeDepth := 60) +contextual only [keeps_mk, keeps_collPacket, *])
    | (with_reducible intro _)
    | (with_reducible refine keeps_foldl _ _ _ ?_ ?_)
    | (simp only [])
    | split

theorem keeps_barrierDue {r0 s : State} (h : Keeps r0 s) : Keeps r0 (State.barrierDue s) := by
  unfold State.barrierDue
  simp (maxDischargeDepth := 60) +contextual only [keeps_ite, implies_true, keeps_foldl, keeps_collDone, *]

theorem keeps_barrierStart {r0 s : State} (h : Keeps r0 s) (r : CollRun) : Keeps r0 (State.barrierStart s r) := by
  unfold State.barrierStart
  repeat' first
    | (with_reducible assumption)
    | (solve | simp (maxDischargeDepth := 60) +contextual only [implies_true, keeps_mkm, keeps_putRun, keeps_setRuns,
        keeps_tc0All, *])
    | (with_reducible intro _)
    | (simp only [])
    | split

theorem keeps_tallyOut {r0 s : State} (h : Keeps r0 s) (d : Desc) (others : List Nat) (rank : Nat) : Keeps r0 (State.tallyOut s d
    others rank) := by
  unfold State.tallyOut
  repeat' first
    | (with_reducible assumption)
    | (solve | simp (maxDischargeDepth := 60) +contextual only [implies_true, keeps_foldl, keeps_collSend, keeps_takeOwn,
        keeps_tallySend, *])
    | (with_reducible intro _)
    | (with_reducible refine keeps_foldl _ _ _ ?_ ?_)
    | (simp only [])
    | split

theorem keeps_collReduce {r0 s : State} (h : Keeps r0 s) (r : CollRun) (g : Group) (rank : Nat) (img : Image) (cs others : List
    Nat) : Keeps r0 (State.collReduce s r g rank img cs others).1 := by
  unfold State.collReduce
  refine keeps_foldl_fst _ _ _ (keeps_foldl _ _ _ (keeps_tallyOut h ..) fun _ _ hs => ?_) fun _ _ hs => keeps_takePart hs ..
  exact keeps_ite (fun _ => hs) (fun _ => keeps_foldl _ _ _ hs fun _ _ hs => keeps_collSend hs ..)

theorem keeps_collBegin {r0 s : State} (h : Keeps r0 s) (r : CollRun) (g : Group) (rank : Nat) : Keeps r0 (State.collBegin s r g
    rank) := by
  unfold State.collBegin
  extract_lets +onlyGivenNames img d cs others t finish
  have ht : Keeps r0 t := keeps_setRuns h ..
  have hf : ∀ y r, Keeps r0 y → Keeps r0 (finish y r) := by
    intro y r hy
    have hz : Keeps r0 ((y.putRun r).takeKept d) := keeps_takeKept (keeps_putRun hy ..) ..
    unfold finish
    simp only []
    split
    · exact keeps_collTry hz ..
    · exact hz
  split
  · exact keeps_ite (fun _ => hf _ _ (keeps_wrDa (keeps_foldl _ _ _ ht fun _ _ hs => keeps_collSend hs ..) ..)) (fun _ => hf _
      _ ht)
  · exact hf _ _ (keeps_wrDa (keeps_foldl _ _ _ ht fun _ _ hs => keeps_collSend hs ..) ..)
  · refine hf _ _ (keeps_foldl _ _ _ ht fun _ _ hs => ?_)
    exact keeps_ite (fun _ => keeps_ite (fun _ => keeps_wrDa hs ..) (fun _ => keeps_collSend hs ..)) (fun _ => hs)
  · exact keeps_barrierDue (keeps_barrierStart ht ..) ..
  · exact hf _ _ (keeps_collReduce ht ..)

theorem keeps_collStart {r0 s : State} (h : Keeps r0 s) (core : Nat) (d : Desc) : Keeps r0 (State.collStart s core d) := by
  unfold State.collStart
  extract_lets +onlyGivenNames t
  have ht : Keeps r0 t := keeps_hold h ..
  refine keeps_ite (fun _ => ht) (fun _ => ?_)
  split
  · exact keeps_ite (fun _ => ht) (fun _ => keeps_ite (fun _ => keeps_inRun ht ..) (fun _ => keeps_collTry ht ..))
  extract_lets +onlyGivenNames beat img r
  split
  · exact ht
  · exact keeps_epochRefuse ht ..
  refine keeps_ite (fun _ => keeps_collFmtRefuse ht ..) (fun _ => keeps_ite (fun _ => keeps_ite (fun _ => keeps_collRefuse ht
      ..)
    (fun _ => ?_)) (fun _ => ?_))
  · extract_lets +onlyGivenNames ms rank
    clear_value rank
    split
    · exact keeps_collRefuse ht ..
    split
    · exact keeps_collRefuse ht ..
    split
    refine keeps_ite (fun _ => ht) (fun _ => ?_)
    split
    · exact keeps_collRefuse (keeps_daUe ht ..) ..
    extract_lets +onlyGivenNames u v
    have hu : Keeps r0 u := by
      unfold u
      split
      · exact keeps_tallySend ht ..
      · exact ht
    exact keeps_ite (fun _ => keeps_barrierDue (keeps_barrierStart (keeps_setRuns hu ..) ..) ..)
      (fun _ => keeps_inRun (keeps_setRuns hu ..) ..)
  · split
    · exact keeps_collRefuse ht ..
    split
    · exact keeps_collRefuse ht ..
    extract_lets +onlyGivenNames cs k es plan rds
    split
    · exact keeps_collRefuse ht ..
    refine keeps_ite (fun _ => keeps_collRefuse ht ..) (fun _ => keeps_ite (fun _ => ht) (fun _ => ?_))
    split
    · exact keeps_collRefuse (keeps_daUe ht ..) ..
    · exact keeps_collBegin ht ..

theorem keeps_collRow {r0 s : State} (h : Keeps r0 s) (core : Nat) (d : Desc) (op : Nat) : KeepsR r0 (State.collRow s core d op)
    := by
  unfold State.collRow
  simp (maxDischargeDepth := 60) +contextual only [implies_true, KeepsR_next, KeepsR_fault, keepsR_ite, KeepsR_onUnit,
      keeps_atUnit, keeps_collStart, *]

theorem keeps_execBroadcast {r0 s : State} (h : Keeps r0 s) (core : Nat) (d : Desc) : KeepsR r0 (execBroadcast core d s) := by
  unfold execBroadcast
  simp (maxDischargeDepth := 60) +contextual only [keeps_collRow, *]

theorem keeps_execReduceScatter {r0 s : State} (h : Keeps r0 s) (core : Nat) (d : Desc) : KeepsR r0 (execReduceScatter core d s)
    := by
  unfold execReduceScatter
  simp (maxDischargeDepth := 60) +contextual only [keeps_collRow, *]

theorem keeps_execAllGather {r0 s : State} (h : Keeps r0 s) (core : Nat) (d : Desc) : KeepsR r0 (execAllGather core d s) := by
  unfold execAllGather
  simp (maxDischargeDepth := 60) +contextual only [keeps_collRow, *]

theorem keeps_execAllReduce {r0 s : State} (h : Keeps r0 s) (core : Nat) (d : Desc) : KeepsR r0 (execAllReduce core d s) := by
  unfold execAllReduce
  simp (maxDischargeDepth := 60) +contextual only [keeps_collRow, *]

theorem keeps_execBarrier {r0 s : State} (h : Keeps r0 s) (core : Nat) (d : Desc) : KeepsR r0 (execBarrier core d s) := by
  unfold execBarrier
  simp (maxDischargeDepth := 60) +contextual only [keeps_collRow, *]

theorem keeps_execBarrierArrivalReceive {r0 s : State} (h : Keeps r0 s) (dev group tid b lat : Nat) (rsh : Option (Nat × List Byte
    × Bool)) : KeepsR r0 (execBarrierArrivalReceive dev group tid b lat rsh s) := by
  unfold execBarrierArrivalReceive
  repeat' first
    | (with_reducible assumption)
    | (solve | simp (maxDischargeDepth := 60) +contextual only [implies_true, keeps_mk, KeepsR_next, keepsR_ite,
        keeps_barrierDue, keeps_putRun, keeps_tc0In, *])
    | (with_reducible intro _)
    | (with_reducible apply KeepsR_onUnit)
    | (with_reducible rw [KeepsR_next])
    | (simp only [])
    | split

theorem keeps_execBarrierComplete {r0 s : State} (h : Keeps r0 s) (core : Nat) (d : Desc) : KeepsR r0 (execBarrierComplete core d
    s) := by
  unfold execBarrierComplete
  repeat' first
    | (with_reducible assumption)
    | (solve | simp (maxDischargeDepth := 60) +contextual only [keeps_ite, implies_true, KeepsR_next, keeps_collDone, *])
    | (with_reducible intro _)
    | (with_reducible apply KeepsR_onUnit)
    | (with_reducible rw [KeepsR_next])
    | (simp only [])
    | split

theorem keeps_collResume {r0 s : State} (h : Keeps r0 s) : Keeps r0 (State.collResume s) := by
  unfold State.collResume
  repeat' first
    | (with_reducible assumption)
    | (solve | simp (maxDischargeDepth := 60) +contextual only [keeps_ite, implies_true, keeps_collTry, keeps_inRun, *])
    | (with_reducible intro _)
    | (with_reducible refine keeps_foldl _ _ _ ?_ ?_)
    | (simp only [])
    | split

theorem keeps_collLost {r0 s : State} (h : Keeps r0 s) (dev : Nat) : Keeps r0 (State.collLost s dev) := by
  unfold State.collLost
  repeat' first
    | (with_reducible assumption)
    | (solve | simp (maxDischargeDepth := 60) +contextual only [keeps_collRefuse, *])
    | (with_reducible intro _)
    | (with_reducible refine keeps_foldl _ _ _ ?_ ?_)
    | (simp only [])
    | split

/-! ### Reshard.lean -/

theorem keeps_setRsh {r0 s : State} (h : Keeps r0 s) (r : Option ReshardSt) : Keeps r0 (State.setRsh s r) := by
  unfold State.setRsh
  simp (maxDischargeDepth := 60) +contextual only [keeps_mk, *]

theorem keeps_jour {r0 s : State} (h : Keeps r0 s) (r : ReshardSt) (v : RshView) (off : Nat) (bs : List Byte) : Keeps r0
    (State.jour s r v off bs) := by
  unfold State.jour
  simp (maxDischargeDepth := 60) +contextual only [keeps_wrDa, *]

theorem keeps_jourRec {r0 s : State} (h : Keeps r0 s) (r : ReshardSt) (v : RshView) (i st slot : Nat) : Keeps r0 (State.jourRec s
    r v i st slot) := by
  unfold State.jourRec
  simp (maxDischargeDepth := 60) +contextual only [keeps_jour, *]

theorem keeps_rshProg {r0 s : State} (h : Keeps r0 s) (r : ReshardSt) (v : RshView) : Keeps r0 (State.rshProg s r v) := by
  unfold State.rshProg
  simp (maxDischargeDepth := 60) +contextual only [keeps_set, *]

theorem keeps_rshHaltEv {r0 s : State} (h : Keeps r0 s) (r : ReshardSt) (cause rank next : Nat) : Keeps r0 (State.rshHaltEv s r
    cause rank next) := by
  unfold State.rshHaltEv
  simp (maxDischargeDepth := 60) +contextual only [keeps_log', *]

theorem keeps_rshRefuse {r0 s : State} (h : Keeps r0 s) (r : ReshardSt) (cause rank : Nat) : Keeps r0 (State.rshRefuse s r cause
    rank) := by
  unfold State.rshRefuse
  simp (maxDischargeDepth := 60) +contextual only [keeps_bumpSat, keeps_refuse, keeps_rshHaltEv, keeps_set, keeps_setRsh, *]

theorem keeps_rshIssue {r0 s : State} (h : Keeps r0 s) (core : Nat) (d : Desc) : Keeps r0 (State.rshIssue s core d) := by
  unfold State.rshIssue
  simp (maxDischargeDepth := 60) +contextual only [keeps_ite, implies_true, keeps_mkm, keeps_collRefuse, keeps_epochRefuse,
      keeps_hold, keeps_rshProg, keeps_set, keeps_setRsh, *]

theorem keeps_permRow {r0 s : State} (h : Keeps r0 s) (core : Nat) (d : Desc) (f : State → State) (hf3 : ∀ y0, Keeps r0 y0 → Keeps
    r0 (f y0)) : KeepsR r0 (State.permRow s core d f) := by
  unfold State.permRow
  simp (maxDischargeDepth := 60) +contextual only [implies_true, KeepsR_next, KeepsR_fault, keepsR_ite, KeepsR_next,
      KeepsR_fault, keepsR_ite, KeepsR_onUnit, keeps_atUnit, *]

theorem keeps_execPermute {r0 s : State} (h : Keeps r0 s) (core : Nat) (d : Desc) : KeepsR r0 (execPermute core d s) := by
  unfold execPermute
  simp (maxDischargeDepth := 60) +contextual only [keeps_ite, implies_true, keeps_collStart, keeps_permRow, keeps_rshIssue, *]

theorem keeps_execReshardIssue {r0 s : State} (h : Keeps r0 s) (core : Nat) (d : Desc) : KeepsR r0 (execReshardIssue core d s)
    := by
  unfold execReshardIssue
  simp (maxDischargeDepth := 60) +contextual only [keeps_ite, implies_true, keeps_collStart, keeps_permRow, keeps_rshIssue, *]

theorem keeps_rshArrive {r0 s : State} (h : Keeps r0 s) (r : ReshardSt) (v : RshView) (phase : Nat) (ok : Bool) : Keeps r0
    (State.rshArrive s r v phase ok) := by
  unfold State.rshArrive
  simp (maxDischargeDepth := 60) +contextual only [keeps_setRsh, keeps_tc0All, *]

theorem keeps_execReshardDrainComplete {r0 s : State} (h : Keeps r0 s) : KeepsR r0 (execReshardDrainComplete s) := by
  unfold execReshardDrainComplete
  repeat' first
    | (with_reducible assumption)
    | (solve | simp (maxDischargeDepth := 60) +contextual only [implies_true, KeepsR_next, keepsR_ite, keeps_rshArrive, *])
    | (with_reducible intro _)
    | (with_reducible apply KeepsR_onUnit)
    | (with_reducible rw [KeepsR_next])
    | (simp only [])
    | split

theorem keeps_rshStage {r0 s : State} (h : Keeps r0 s) (r : ReshardSt) (v : RshView) (i off : Nat) (bs : List Byte) : Keeps r0
    (State.rshStage s r v i off bs) := by
  unfold State.rshStage
  repeat' first
    | (with_reducible assumption)
    | (solve | simp (maxDischargeDepth := 60) +contextual only [keeps_ite, implies_true, keeps_jourRec, keeps_setRsh,
        keeps_wrDa, *])
    | (with_reducible intro _)
    | (with_reducible apply KeepsR_onUnit)
    | (with_reducible rw [KeepsR_next])
    | (simp only [])
    | split

theorem keeps_rshPart {r0 s : State} (h : Keeps r0 s) (r : ReshardSt) (v : RshView) (x : Nat × Nat × Option (List Byte)) : Keeps
    r0 (State.rshPart s r v x) := by
  unfold State.rshPart
  repeat' first
    | (with_reducible assumption)
    | (solve | simp (maxDischargeDepth := 60) +contextual only [keeps_daUe, keeps_rshStage, *])
    | (with_reducible intro _)
    | (with_reducible apply KeepsR_onUnit)
    | (with_reducible rw [KeepsR_next])
    | (simp only [])
    | split

theorem keeps_rshUnstash {r0 s : State} (h : Keeps r0 s) (n : Nat) : Keeps r0 (State.rshUnstash s n) := by
  induction n generalizing s with
  | zero =>
    unfold State.rshUnstash
    assumption
  | succ n ih =>
    unfold State.rshUnstash
    repeat' first
      | (with_reducible assumption)
      | (solve | simp (maxDischargeDepth := 60) +contextual only [keeps_ite, implies_true, keeps_rshPart, keeps_setRsh, *])
      | (with_reducible intro _)
      | (simp only [])
      | split

theorem keeps_rshPut {r0 s : State} (h : Keeps r0 s) (x : Nat × Nat × Option (List Byte)) : Keeps r0 (State.rshPut s x) := by
  unfold State.rshPut
  repeat' first
    | (with_reducible assumption)
    | (solve | simp (maxDischargeDepth := 60) +contextual only [keeps_rshUnstash, keeps_setRsh, *])
    | (with_reducible intro _)
    | (simp only [])
    | split

theorem keeps_rshGrant {r0 s : State} (h : Keeps r0 s) (v : RshView) (n : Nat) : Keeps r0 (State.rshGrant s v n) := by
  induction n generalizing s with
  | zero =>
    unfold State.rshGrant
    assumption
  | succ n ih =>
    unfold State.rshGrant
    repeat' first
      | (with_reducible assumption)
      | (solve | simp (maxDischargeDepth := 60) +contextual only [keeps_ite, implies_true, keeps_rshPut, keeps_sendPacket,
          keeps_setRsh, *])
      | (with_reducible intro _)
      | (simp only [])
      | split

theorem keeps_rshSend {r0 s : State} (h : Keeps r0 s) (v : RshView) (l : List Nat) : Keeps r0 (State.rshSend s v l) := by
  induction l generalizing s with
  | nil =>
    unfold State.rshSend
    assumption
  | cons c cs ih =>
    unfold State.rshSend
    repeat' first
      | (with_reducible assumption)
      | (solve | simp (maxDischargeDepth := 60) +contextual only [keeps_collSend, keeps_daUe, keeps_setRsh, *])
      | (with_reducible intro _)
      | (simp only [])
      | split

theorem keeps_rshCheck {r0 s : State} (h : Keeps r0 s) (v : RshView) : Keeps r0 (State.rshCheck s v) := by
  unfold State.rshCheck
  repeat' first
    | (with_reducible assumption)
    | (solve | simp (maxDischargeDepth := 60) +contextual only [keeps_ite, implies_true, keeps_jour, keeps_rshArrive,
        keeps_rshProg, keeps_set, *])
    | (with_reducible intro _)
    | (simp only [])
    | split

theorem keeps_rshCommit {r0 s : State} (h : Keeps r0 s) (r : ReshardSt) (v : RshView) (i : Nat) : Keeps r0 (State.rshCommit s r v
    i) := by
  unfold State.rshCommit
  repeat' first
    | (with_reducible assumption)
    | (solve | simp (maxDischargeDepth := 60) +contextual only [keeps_ite, implies_true, keeps_jourRec, keeps_rshCheck,
        keeps_rshGrant, keeps_sendPacket, keeps_setRsh, keeps_wrDa, *])
    | (with_reducible intro _)
    | (with_reducible apply KeepsR_onUnit)
    | (with_reducible rw [KeepsR_next])
    | (simp only [])
    | split

theorem keeps_rshResume {r0 s : State} (h : Keeps r0 s) (r : ReshardSt) (v : RshView) : Keeps r0 (State.rshResume s r v) := by
  unfold State.rshResume
  simp only []
  refine keeps_log' (keeps_foldl _ _ _ (keeps_foldl _ _ _ (keeps_set (keeps_setRsh h ..) ..) fun t i ht => ?_) fun t i ht =>
      ?_) ..
  · exact keeps_ite (fun _ => ht) (fun _ => keeps_sendPacket ht ..)
  · split
    · exact keeps_ite (fun _ => keeps_rshCommit ht ..) (fun _ => ht)
    · exact ht

theorem keeps_rshMove {r0 s : State} (h : Keeps r0 s) (r : ReshardSt) (v : RshView) (c : Nat) : Keeps r0 (State.rshMove s r v c)
    := by
  unfold State.rshMove
  simp (maxDischargeDepth := 60) +contextual only [keeps_ite, implies_true, keeps_foldl, keeps_jour, keeps_jourRec, keeps_log',
      keeps_rshCheck, keeps_rshGrant, keeps_rshResume, keeps_rshSend, keeps_set, *]

theorem keeps_execReshardMoveStart {r0 s : State} (h : Keeps r0 s) : KeepsR r0 (execReshardMoveStart s) := by
  unfold execReshardMoveStart
  repeat' first
    | (with_reducible assumption)
    | (solve | simp (maxDischargeDepth := 60) +contextual only [KeepsR_next, keeps_rshMove, keeps_rshRefuse, *])
    | (with_reducible intro _)
    | (with_reducible apply KeepsR_onUnit)
    | (with_reducible rw [KeepsR_next])
    | (simp only [])
    | split

theorem keeps_execReshardGrantReceive {r0 s : State} (h : Keeps r0 s) (block : Nat) : KeepsR r0 (execReshardGrantReceive block s)
    := by
  unfold execReshardGrantReceive
  repeat' first
    | (with_reducible assumption)
    | (solve | simp (maxDischargeDepth := 60) +contextual only [keeps_ite, implies_true, KeepsR_next, keeps_rshSend,
        keeps_setRsh, *])
    | (with_reducible intro _)
    | (with_reducible apply KeepsR_onUnit)
    | (with_reducible rw [KeepsR_next])
    | (simp only [])
    | split

theorem keeps_execReshardBlockCommit {r0 s : State} (h : Keeps r0 s) (block : Nat) : KeepsR r0 (execReshardBlockCommit block s)
    := by
  unfold execReshardBlockCommit
  repeat' first
    | (with_reducible assumption)
    | (solve | simp (maxDischargeDepth := 60) +contextual only [keeps_ite, implies_true, KeepsR_next, keeps_rshCommit, *])
    | (with_reducible intro _)
    | (with_reducible apply KeepsR_onUnit)
    | (with_reducible rw [KeepsR_next])
    | (simp only [])
    | split

theorem keeps_rshAck {r0 s : State} (h : Keeps r0 s) (block : Nat) : Keeps r0 (State.rshAck s block) := by
  unfold State.rshAck
  repeat' first
    | (with_reducible assumption)
    | (solve | simp (maxDischargeDepth := 60) +contextual only [keeps_ite, implies_true, keeps_rshCheck, keeps_setRsh, *])
    | (with_reducible intro _)
    | (simp only [])
    | split

theorem keeps_execReshardAckReceive {r0 s : State} (h : Keeps r0 s) (block : Nat) : KeepsR r0 (execReshardAckReceive block s)
    := by
  unfold execReshardAckReceive
  simp (maxDischargeDepth := 60) +contextual only [KeepsR_next, keeps_rshAck, *]

theorem keeps_rshPacket {r0 s : State} (h : Keeps r0 s) (p : Packet) (h : CollHdr) : Keeps r0 (State.rshPacket s p h) := by
  unfold State.rshPacket
  repeat' first
    | (with_reducible assumption)
    | (solve | simp (maxDischargeDepth := 60) +contextual only [keeps_ite, implies_true, keeps_rshAck, keeps_rshPut,
        keeps_rshSend, keeps_setRsh, *])
    | (with_reducible intro _)
    | (simp only [])
    | split

theorem keeps_rshGo {r0 s : State} (h : Keeps r0 s) : Keeps r0 (State.rshGo s) := by
  unfold State.rshGo
  repeat' first
    | (with_reducible assumption)
    | (solve | simp (maxDischargeDepth := 60) +contextual only [keeps_ite, implies_true, keeps_rshSend, keeps_rshUnstash, *])
    | (with_reducible intro _)
    | (simp only [])
    | split

theorem keeps_rshRelease {r0 s : State} (h : Keeps r0 s) : Keeps r0 (State.rshRelease s) := by
  refine keeps_foldl _ _ _ h fun t c ht => ?_
  split
  · exact keeps_ite (fun _ => ht) (fun _ => keeps_collStart ht ..)
  · exact ht

theorem keeps_execReshardCommit {r0 s : State} (h : Keeps r0 s) : KeepsR r0 (execReshardCommit s) := by
  unfold execReshardCommit
  repeat' first
    | (with_reducible assumption)
    | (solve | simp (maxDischargeDepth := 60) +contextual only [implies_true, KeepsR_next, keepsR_ite, keeps_complete,
        keeps_irq, keeps_jour, keeps_log', keeps_rshRelease, keeps_set, keeps_setRsh, *])
    | (with_reducible intro _)
    | (with_reducible apply KeepsR_onUnit)
    | (with_reducible rw [KeepsR_next])
    | (simp only [])
    | split

theorem keeps_rshLost {r0 s : State} (h : Keeps r0 s) (dev : Nat) : Keeps r0 (State.rshLost s dev) := by
  unfold State.rshLost
  repeat' first
    | (with_reducible assumption)
    | (solve | simp (maxDischargeDepth := 60) +contextual only [keeps_ite, implies_true, keeps_bumpSat, keeps_irq, keeps_jour,
        keeps_refuse, keeps_rshHaltEv, keeps_rshRefuse, keeps_set, keeps_setRsh, *])
    | (with_reducible intro _)
    | (simp only [])
    | split

theorem keeps_layoutWrite {r0 s : State} (h : Keeps r0 s) (val : Word) : Keeps r0 (State.layoutWrite s val) := by
  unfold State.layoutWrite
  simp (maxDischargeDepth := 60) +contextual only [keeps_ite, implies_true, keeps_set, *]

theorem keeps_execFabLayoutWrite {r0 s : State} (h : Keeps r0 s) (_by : Agent) (val : Word) : KeepsR r0 (execFabLayoutWrite _by
    val s) := by
  unfold execFabLayoutWrite
  simp (maxDischargeDepth := 60) +contextual only [KeepsR_next, keeps_layoutWrite, *]

end Sys2Proof.Machine
end

