-- ==== Sys2Proof/Laws/Keep5.lean ====
section
/-! SUPPORT. What every operation keeps: escrow, arrivals, links and the beat. -/
namespace Sys2Proof.Machine

/-! ### Escrow.lean -/

theorem keeps_setEsc {r0 s : State} (h : Keeps r0 s) (f : EscSt → EscSt) : Keeps r0 (State.setEsc s f) := by
  unfold State.setEsc
  simp (maxDischargeDepth := 60) +contextual only [keeps_mk, *]

theorem keeps_restoreTable {r0 s : State} (h : Keeps r0 s) (b : List Byte) : Keeps r0 (State.restoreTable s b) := by
  unfold State.restoreTable
  refine keeps_mk (keeps_foldl _ _ _ h fun t r ht => ?_)
  exact keeps_ite (fun _ => ht) (fun _ => keeps_cacheRow (keeps_tableRow ht ..) ..)

theorem keeps_restoreKey {r0 s : State} (h : Keeps r0 s) (b : List Byte) (k : Nat) : Keeps r0 (State.restoreKey s b k) := by
  unfold State.restoreKey
  simp (maxDischargeDepth := 60) +contextual only [implies_true, keeps_foldl, keeps_set, *]

theorem keeps_restoreCounts {r0 s : State} (h : Keeps r0 s) (b : List Byte) : Keeps r0 (State.restoreCounts s b) := by
  unfold State.restoreCounts
  simp (maxDischargeDepth := 60) +contextual only [implies_true, keeps_foldl, keeps_set, *]

theorem keeps_restoreBlock {r0 s : State} (h : Keeps r0 s) (b : List Byte) (rng : Nat) (rewound : Bool) : Keeps r0
    (State.restoreBlock s b rng rewound) := by
  unfold State.restoreBlock
  extract_lets t u v w
  have ht : Keeps r0 t := keeps_ite (fun _ => keeps_log' h ..) (fun _ => h)
  have hw : Keeps r0 w := keeps_set (keeps_set (keeps_set
    (keeps_foldl _ _ _ (keeps_restoreCounts (keeps_restoreTable ht ..) ..) fun _ _ hs => keeps_restoreKey hs ..) ..) ..) ..
  exact keeps_ite (fun _ => keeps_set hw ..) (fun _ => hw)

theorem keeps_rngMismatch {r0 s : State} (h : Keeps r0 s) (b : List Byte) : Keeps r0 (State.rngMismatch s b) := by
  unfold State.rngMismatch
  simp (maxDischargeDepth := 60) +contextual only [keeps_log', *]

theorem keeps_setHome {r0 s : State} (h : Keeps r0 s) (step st : Nat) (dg : List Byte) : Keeps r0 (State.setHome s step st dg)
    := by
  unfold State.setHome
  simp (maxDischargeDepth := 60) +contextual only [keeps_escWr, keeps_set, *]

theorem keeps_clearRefresh {r0 s : State} (h : Keeps r0 s) : Keeps r0 (State.clearRefresh s) := by
  unfold State.clearRefresh
  simp (maxDischargeDepth := 60) +contextual only [keeps_escWr, *]

theorem keeps_escStream {r0 s : State} (h : Keeps r0 s) (dev t : Nat) (full : Bool) (blk : List Byte) : Keeps r0 (State.escStream
    s dev t full blk) := by
  unfold State.escStream
  simp (maxDischargeDepth := 60) +contextual only [implies_true, keeps_foldl, keeps_collSend, *]

theorem keeps_execEscrowStepOpen {r0 s : State} (h : Keeps r0 s) : KeepsR r0 (execEscrowStepOpen s) := by
  unfold execEscrowStepOpen
  repeat' first
    | (with_reducible assumption)
    | (solve | simp (maxDischargeDepth := 60) +contextual only [KeepsR_next, keeps_escStream, keeps_escUe, keeps_escWr,
        keeps_set, keeps_setEsc, *])
    | (with_reducible intro _)
    | (with_reducible apply KeepsR_onUnit)
    | (with_reducible rw [KeepsR_next])
    | (simp only [])
    | split

theorem keeps_execNeedFullReceive {r0 s : State} (h : Keeps r0 s) (dev lat : Nat) : KeepsR r0 (execNeedFullReceive dev lat s)
    := by
  unfold execNeedFullReceive
  simp (maxDischargeDepth := 60) +contextual only [keeps_ite, implies_true, KeepsR_next, keeps_setEsc, keeps_tc0In, *]

theorem keeps_escRefused {r0 s : State} (h : Keeps r0 s) (src step cause : Nat) : Keeps r0 (State.escRefused s src step cause)
    := by
  unfold State.escRefused
  simp (maxDischargeDepth := 60) +contextual only [keeps_log', *]

theorem keeps_escNeedFull {r0 s : State} (h : Keeps r0 s) (src step cause : Nat) : Keeps r0 (State.escNeedFull s src step cause)
    := by
  unfold State.escNeedFull
  simp (maxDischargeDepth := 60) +contextual only [keeps_escRefused, keeps_tc0, *]

theorem keeps_takeOpen {r0 s : State} (h : Keeps r0 s) (dev step base : Nat) (man : List Byte) : Keeps r0 (State.takeOpen s dev
    step base man) := by
  unfold State.takeOpen
  simp (maxDischargeDepth := 60) +contextual only [keeps_ite, implies_true, keeps_escNeedFull, keeps_escWr, keeps_setBank,
      keeps_setEsc, *]

theorem keeps_takeDelta {r0 s : State} (h : Keeps r0 s) (dev k part tile : Nat) (recs : List Byte) : Keeps r0 (State.takeDelta s
    dev k part tile recs) := by
  unfold State.takeDelta
  repeat' first
    | (with_reducible assumption)
    | (solve | simp (maxDischargeDepth := 60) +contextual only [keeps_escWr, keeps_setEsc, *])
    | (with_reducible intro _)
    | (simp only [])
    | split

theorem keeps_takeClose {r0 s : State} (h : Keeps r0 s) (dev step : Nat) (blk : List Byte) : Keeps r0 (State.takeClose s dev step
    blk) := by
  unfold State.takeClose
  repeat' first
    | (with_reducible assumption)
    | (solve | simp (maxDischargeDepth := 60) +contextual only [implies_true, keeps_escNeedFull, keeps_escUe, keeps_setEsc, *])
    | (with_reducible intro _)
    | (simp only [])
    | split

theorem keeps_execEscrowBankSeal {r0 s : State} (h : Keeps r0 s) : KeepsR r0 (execEscrowBankSeal s) := by
  unfold execEscrowBankSeal
  repeat' first
    | (with_reducible assumption)
    | (solve | simp (maxDischargeDepth := 60) +contextual only [implies_true, KeepsR_next, keepsR_ite, keeps_escWr,
        keeps_setBank, keeps_setEsc, keeps_tc0All, *])
    | (with_reducible intro _)
    | (with_reducible apply KeepsR_onUnit)
    | (with_reducible rw [KeepsR_next])
    | (simp only [])
    | split

theorem keeps_execSealedReceive {r0 s : State} (h : Keeps r0 s) (dev step b lat : Nat) : KeepsR r0 (execSealedReceive dev step b
    lat s) := by
  unfold execSealedReceive
  simp (maxDischargeDepth := 60) +contextual only [KeepsR_next, keeps_setEsc, keeps_tc0In, *]

theorem keeps_escDiscard {r0 s : State} (h : Keeps r0 s) : Keeps r0 (State.escDiscard s) := by
  unfold State.escDiscard
  repeat' first
    | (with_reducible assumption)
    | (solve | simp (maxDischargeDepth := 60) +contextual only [keeps_ite, implies_true, keeps_foldl, keeps_set, keeps_setBank,
        keeps_setEsc, *])
    | (with_reducible intro _)
    | (with_reducible refine keeps_foldl _ _ _ ?_ ?_)
    | (simp only [])
    | split

theorem keeps_setDigest {r0 s : State} (h : Keeps r0 s) (dg : List Byte) : Keeps r0 (State.setDigest s dg) := by
  unfold State.setDigest
  simp (maxDischargeDepth := 60) +contextual only [implies_true, keeps_foldl, keeps_set, *]

theorem keeps_snapshot {r0 s : State} (h : Keeps r0 s) : Keeps r0 (State.snapshot s) := by
  unfold State.snapshot
  repeat' first
    | (with_reducible assumption)
    | (solve | simp (maxDischargeDepth := 60) +contextual only [implies_true, keeps_clearRefresh, keeps_escDiscard, keeps_log',
        keeps_set, keeps_setBank, keeps_setDigest, keeps_setEsc, keeps_setHome, *])
    | (with_reducible intro _)
    | (simp only [])
    | split

theorem keeps_execEscrowSnapshotPoint {r0 s : State} (h : Keeps r0 s) : KeepsR r0 (execEscrowSnapshotPoint s) := by
  unfold execEscrowSnapshotPoint
  simp (maxDischargeDepth := 60) +contextual only [KeepsR_next, keeps_snapshot, *]

theorem keeps_escResult {r0 s : State} (h : Keeps r0 s) (r : Nat) : Keeps r0 (State.escResult s r) := by
  unfold State.escResult
  simp (maxDischargeDepth := 60) +contextual only [keeps_ite, implies_true, keeps_irq, keeps_set, *]

theorem keeps_escOp {r0 s : State} (h : Keeps r0 s) (f : State → State) (hf1 : ∀ y0, Keeps r0 y0 → Keeps r0 (f y0)) : Keeps r0
    (State.escOp s f) := by
  unfold State.escOp
  simp (maxDischargeDepth := 60) +contextual only [keeps_ite, implies_true, keeps_set, *]

theorem keeps_escFreezeOp {r0 s : State} (h : Keeps r0 s) : Keeps r0 (State.escFreezeOp s) := by
  unfold State.escFreezeOp
  simp (maxDischargeDepth := 60) +contextual only [implies_true, keeps_escOp, keeps_escResult, keeps_freezeSend, *]

theorem keeps_escDigestOp {r0 s : State} (h : Keeps r0 s) : Keeps r0 (State.escDigestOp s) := by
  unfold State.escDigestOp
  repeat' first
    | (with_reducible assumption)
    | (solve | simp (maxDischargeDepth := 60) +contextual only [implies_true, keeps_foldl, keeps_escResult, keeps_escUe,
        keeps_set, *])
    | (with_reducible intro _)
    | (with_reducible refine keeps_foldl _ _ _ ?_ ?_)
    | (with_reducible apply keeps_escOp)
    | (simp only [])
    | split

theorem keeps_rollInto {r0 s : State} (h : Keeps r0 s) (blk : List Byte) (rs : List (Nat × Nat × Nat)) : Keeps r0 (State.rollInto
    s blk rs) := by
  unfold State.rollInto
  split
  · exact keeps_escResult (keeps_rngMismatch h ..) ..
  · exact keeps_escResult (keeps_restoreBlock (keeps_foldl _ _ _ h fun _ _ hs => keeps_escWr hs ..) ..) ..

theorem keeps_rollback {r0 s : State} (h : Keeps r0 s) : Keeps r0 (State.rollback s) := by
  refine keeps_escOp h _ fun t ht => ?_
  refine keeps_ite (fun _ => keeps_escResult ht ..) (fun _ => keeps_ite (fun _ => keeps_escResult ht ..) (fun _ => ?_))
  extract_lets +onlyGivenNames blk rs
  split
  · exact keeps_escResult (keeps_escUe ht ..) ..
  · exact keeps_rollInto ht ..

theorem keeps_serve {r0 s : State} (h : Keeps r0 s) (target : Nat) : Keeps r0 (State.serve s target) := by
  unfold State.serve
  repeat' first
    | (with_reducible assumption)
    | (solve | simp (maxDischargeDepth := 60) +contextual only [implies_true, keeps_foldl, keeps_collSend, keeps_escResult,
        keeps_escUe, keeps_set, keeps_setEsc, *])
    | (with_reducible intro _)
    | (with_reducible refine keeps_foldl _ _ _ ?_ ?_)
    | (with_reducible apply keeps_escOp)
    | (simp only [])
    | split

theorem keeps_receive {r0 s : State} (h : Keeps r0 s) (target : Nat) : Keeps r0 (State.receive s target) := by
  unfold State.receive
  simp (maxDischargeDepth := 60) +contextual only [keeps_ite, implies_true, keeps_escOp, keeps_escResult, keeps_set,
      keeps_setEsc, *]

theorem keeps_fillEnd {r0 s : State} (h : Keeps r0 s) (r : Nat) : Keeps r0 (State.fillEnd s r) := by
  unfold State.fillEnd
  simp (maxDischargeDepth := 60) +contextual only [keeps_escResult, keeps_setEsc, *]

theorem keeps_fillImages {r0 s : State} (h : Keeps r0 s) (off : Nat) (bs : List Byte) : Keeps r0 (State.fillImages s off bs) := by
  unfold State.fillImages
  simp (maxDischargeDepth := 60) +contextual only [keeps_ite, implies_true, keeps_foldl, keeps_escWr, *]

theorem keeps_fillDone {r0 s : State} (h : Keeps r0 s) : Keeps r0 (State.fillDone s) := by
  unfold State.fillDone
  simp (maxDischargeDepth := 60) +contextual only [keeps_ite, implies_true, keeps_clearRefresh, keeps_escWr, keeps_fillEnd,
      keeps_log', keeps_setDigest, keeps_setHome, keeps_tc0, *]

theorem keeps_takeFill {r0 s : State} (h : Keeps r0 s) (dev sec off : Nat) (bs : List Byte) : Keeps r0 (State.takeFill s dev sec
    off bs) := by
  unfold State.takeFill
  refine keeps_ite (fun _ => h) (fun _ => ?_)
  extract_lets +onlyGivenNames t
  have ht : Keeps r0 t := keeps_set h ..
  clear_value t
  split
  · exact keeps_ite (fun _ => keeps_log' (keeps_setEsc ht ..) ..) (fun _ => keeps_setEsc ht ..)
  · exact keeps_ite (fun _ => ht) (fun _ => keeps_fillEnd (keeps_escRefused ht ..) ..)
  · extract_lets +onlyGivenNames blk u
    refine keeps_ite (fun _ => keeps_setEsc ht ..) (fun _ => ?_)
    split
    · exact keeps_fillEnd (keeps_rngMismatch (keeps_setEsc ht ..) ..) ..
    · exact keeps_restoreBlock (keeps_setEsc ht ..) ..
  · exact keeps_ite (fun _ => keeps_fillDone (keeps_setEsc (keeps_fillImages ht ..) ..)) (fun _ => keeps_setEsc
      (keeps_fillImages ht ..) ..)

theorem keeps_thawOp {r0 s : State} (h : Keeps r0 s) : Keeps r0 (State.thawOp s) := by
  unfold State.thawOp
  simp (maxDischargeDepth := 60) +contextual only [keeps_ite, implies_true, keeps_escOp, keeps_escResult, keeps_setEsc,
      keeps_tc0All, *]

theorem keeps_execThawReceive {r0 s : State} (h : Keeps r0 s) (dev beat lat : Nat) : KeepsR r0 (execThawReceive dev beat lat s)
    := by
  unfold execThawReceive
  simp (maxDischargeDepth := 60) +contextual only [keeps_ite, implies_true, KeepsR_next, keeps_setEsc, keeps_tc0In, *]

theorem keeps_thaw {r0 s : State} (h : Keeps r0 s) : Keeps r0 (State.thaw s) := by
  unfold State.thaw
  repeat' first
    | (with_reducible assumption)
    | (solve | simp (maxDischargeDepth := 60) +contextual only [keeps_ite, implies_true, keeps_irq, keeps_set, keeps_setEsc, *])
    | (with_reducible intro _)
    | (simp only [])
    | split

theorem keeps_execThawEffective {r0 s : State} (h : Keeps r0 s) : KeepsR r0 (execThawEffective s) := by
  unfold execThawEffective
  simp (maxDischargeDepth := 60) +contextual only [KeepsR_next, keeps_thaw, *]

theorem keeps_escMem {r0 s : State} (h : Keeps r0 s) (op target : Nat) (f : State → State) (hf2 : ∀ y0, Keeps r0 y0 → Keeps r0 (f
    y0)) : Keeps r0 (State.escMem s op target f) := by
  unfold State.escMem
  simp (maxDischargeDepth := 60) +contextual only [keeps_ite, implies_true, keeps_escOp, keeps_setEsc, *]

theorem keeps_escCtl {r0 s : State} (h : Keeps r0 s) (op target : Nat) : Keeps r0 (State.escCtl s op target) := by
  unfold State.escCtl
  repeat' first
    | (with_reducible assumption)
    | (solve | simp (maxDischargeDepth := 60) +contextual only [implies_true, keeps_escDigestOp, keeps_escFreezeOp,
        keeps_escMem, keeps_escOp, keeps_escResult, keeps_receive, keeps_rollback, keeps_serve, keeps_thawOp, *])
    | (with_reducible intro _)
    | (with_reducible apply keeps_escMem)
    | (with_reducible apply keeps_escOp)
    | (simp only [])
    | split

theorem keeps_escDo {r0 s : State} (h : Keeps r0 s) (x : EscIn) : Keeps r0 (State.escDo s x) := by
  unfold State.escDo
  repeat' first
    | (with_reducible assumption)
    | (solve | simp (maxDischargeDepth := 60) +contextual only [keeps_escCtl, keeps_takeClose, keeps_takeDelta, keeps_takeFill,
        keeps_takeOpen, *])
    | (with_reducible intro _)
    | (simp only [])
    | split

theorem keeps_escIn {r0 s : State} (h : Keeps r0 s) (x : EscIn) : Keeps r0 (State.escIn s x) := by
  unfold State.escIn
  simp (maxDischargeDepth := 60) +contextual only [keeps_ite, implies_true, keeps_escDo, keeps_setEsc, *]

theorem keeps_escResume {r0 s : State} (h : Keeps r0 s) : Keeps r0 (State.escResume s) := by
  unfold State.escResume
  simp (maxDischargeDepth := 60) +contextual only [keeps_ite, implies_true, keeps_foldl, keeps_escDo, keeps_setEsc, *]

theorem keeps_execEscrowOpenReceive {r0 s : State} (h : Keeps r0 s) (dev step base : Nat) (man : List Byte) : KeepsR r0
    (execEscrowOpenReceive dev step base man s) := by
  unfold execEscrowOpenReceive
  simp (maxDischargeDepth := 60) +contextual only [KeepsR_next, keeps_escIn, *]

theorem keeps_execEscrowDeltaReceive {r0 s : State} (h : Keeps r0 s) (dev k part tile : Nat) (recs : List Byte) : KeepsR r0
    (execEscrowDeltaReceive dev k part tile recs s) := by
  unfold execEscrowDeltaReceive
  simp (maxDischargeDepth := 60) +contextual only [KeepsR_next, keeps_escIn, *]

theorem keeps_execEscrowCloseReceive {r0 s : State} (h : Keeps r0 s) (dev step : Nat) (blk : List Byte) : KeepsR r0
    (execEscrowCloseReceive dev step blk s) := by
  unfold execEscrowCloseReceive
  simp (maxDischargeDepth := 60) +contextual only [KeepsR_next, keeps_escIn, *]

theorem keeps_execEscFillStreamReceive {r0 s : State} (h : Keeps r0 s) (dev sec off : Nat) (bs : List Byte) : KeepsR r0
    (execEscFillStreamReceive dev sec off bs s) := by
  unfold execEscFillStreamReceive
  simp (maxDischargeDepth := 60) +contextual only [KeepsR_next, keeps_escIn, *]

theorem keeps_escFreeze {r0 s : State} (h : Keeps r0 s) : Keeps r0 (State.escFreeze s) := by
  unfold State.escFreeze
  simp (maxDischargeDepth := 60) +contextual only [keeps_ite, implies_true, keeps_foldl, keeps_escDiscard, keeps_irq,
      keeps_set, keeps_setEsc, keeps_updFreeze, *]

theorem keeps_escCommit {r0 s : State} (h : Keeps r0 s) : Keeps r0 (State.escCommit s) := by
  unfold State.escCommit
  repeat' first
    | (with_reducible assumption)
    | (solve | simp (maxDischargeDepth := 60) +contextual only [keeps_ite, implies_true, keeps_foldl, keeps_escDiscard,
        keeps_escUe, keeps_set, keeps_setBank, keeps_setDigest, keeps_setEsc, keeps_setHome, *])
    | (with_reducible intro _)
    | (with_reducible refine keeps_foldl _ _ _ ?_ ?_)
    | (simp only [])
    | split

theorem keeps_escLost {r0 s : State} (h : Keeps r0 s) (dev : Nat) : Keeps r0 (State.escLost s dev) := by
  unfold State.escLost
  repeat' first
    | (with_reducible assumption)
    | (solve | simp (maxDischargeDepth := 60) +contextual only [keeps_ite, implies_true, keeps_fillEnd, keeps_log', *])
    | (with_reducible intro _)
    | (simp only [])
    | split

/-! ### Arrive.lean -/

theorem keeps_respond {r0 s : State} (h : Keeps r0 s) (p : Packet) (op operand : Nat) (bs : List Byte) : Keeps r0 (State.respond s
    p op operand bs) := by
  unfold State.respond
  simp (maxDischargeDepth := 60) +contextual only [keeps_sendPacket, *]

theorem keeps_txnRefuse {r0 s : State} (h : Keeps r0 s) (p : Packet) (cause : Nat) : Keeps r0 (State.txnRefuse s p cause) := by
  unfold State.txnRefuse
  simp (maxDischargeDepth := 60) +contextual only [keeps_ite, implies_true, keeps_log', keeps_respond, *]

theorem keeps_txn {r0 s : State} (h : Keeps r0 s) (p : Packet) : Keeps r0 (State.txn s p) := by
  unfold State.txn
  repeat' first
    | (with_reducible assumption)
    | (solve | simp (maxDischargeDepth := 60) +contextual only [keeps_ite, implies_true, keeps_daUe, keeps_respond,
        keeps_txnRefuse, keeps_waitFor, keeps_wrDa, *])
    | (with_reducible intro _)
    | (simp only [])
    | split

theorem keeps_collArrive {r0 s : State} (h : Keeps r0 s) (p : Packet) : Keeps r0 (State.collArrive s p) := by
  unfold State.collArrive
  repeat' first
    | (with_reducible assumption)
    | (solve | simp (maxDischargeDepth := 60) +contextual only [keeps_ite, implies_true, keeps_collPacket, keeps_emit,
        keeps_rshPacket, *])
    | (with_reducible intro _)
    | (simp only [])
    | split

theorem keeps_perform {r0 s : State} (h : Keeps r0 s) (p : Packet) : Keeps r0 (State.perform s p) := by
  unfold State.perform
  simp (maxDischargeDepth := 60) +contextual only [keeps_ite, implies_true, keeps_collArrive, keeps_emit, keeps_txn, *]

theorem keeps_performDue {r0 s : State} (h : Keeps r0 s) (p : Packet) : Keeps r0 (State.performDue s p) := by
  unfold State.performDue
  simp (maxDischargeDepth := 60) +contextual only [keeps_mk, keeps_perform, *]

theorem keeps_performEarly {r0 s : State} (h : Keeps r0 s) (n : Nat) : Keeps r0 (State.performEarly s n) := by
  induction n generalizing s with
  | zero =>
    unfold State.performEarly
    assumption
  | succ n ih =>
    unfold State.performEarly
    repeat' first
      | (with_reducible assumption)
      | (solve | simp (maxDischargeDepth := 60) +contextual only [keeps_mk, keeps_performDue, *])
      | (with_reducible intro _)
      | (simp only [])
      | split

theorem keeps_arrive {r0 s : State} (h : Keeps r0 s) (p : Packet) : Keeps r0 (State.arrive s p) := by
  unfold State.arrive
  simp (maxDischargeDepth := 60) +contextual only [keeps_ite, implies_true, keeps_mk, keeps_performDue, keeps_performEarly,
      keeps_wake, *]

theorem keeps_packetRow {r0 s : State} (h : Keeps r0 s) (op : Nat) (p : Packet) : KeepsR r0 (State.packetRow s op p) := by
  unfold State.packetRow
  simp (maxDischargeDepth := 60) +contextual only [implies_true, KeepsR_next, KeepsR_fault, keepsR_ite, keeps_arrive, *]

theorem keeps_execFabricWrite {r0 s : State} (h : Keeps r0 s) (p : Packet) : KeepsR r0 (execFabricWrite p s) := by
  unfold execFabricWrite
  simp (maxDischargeDepth := 60) +contextual only [keeps_packetRow, *]

theorem keeps_execFabricRead {r0 s : State} (h : Keeps r0 s) (p : Packet) : KeepsR r0 (execFabricRead p s) := by
  unfold execFabricRead
  simp (maxDischargeDepth := 60) +contextual only [keeps_packetRow, *]

theorem keeps_execReadResp {r0 s : State} (h : Keeps r0 s) (p : Packet) : KeepsR r0 (execReadResp p s) := by
  unfold execReadResp
  simp (maxDischargeDepth := 60) +contextual only [keeps_packetRow, *]

theorem keeps_execFadd64 {r0 s : State} (h : Keeps r0 s) (p : Packet) : KeepsR r0 (execFadd64 p s) := by
  unfold execFadd64
  simp (maxDischargeDepth := 60) +contextual only [keeps_packetRow, *]

theorem keeps_execCas64 {r0 s : State} (h : Keeps r0 s) (p : Packet) : KeepsR r0 (execCas64 p s) := by
  unfold execCas64
  simp (maxDischargeDepth := 60) +contextual only [keeps_packetRow, *]

theorem keeps_execSwap64 {r0 s : State} (h : Keeps r0 s) (p : Packet) : KeepsR r0 (execSwap64 p s) := by
  unfold execSwap64
  simp (maxDischargeDepth := 60) +contextual only [keeps_packetRow, *]

theorem keeps_execAtomicResp {r0 s : State} (h : Keeps r0 s) (p : Packet) : KeepsR r0 (execAtomicResp p s) := by
  unfold execAtomicResp
  simp (maxDischargeDepth := 60) +contextual only [keeps_packetRow, *]

theorem keeps_execErrResp {r0 s : State} (h : Keeps r0 s) (p : Packet) : KeepsR r0 (execErrResp p s) := by
  unfold execErrResp
  simp (maxDischargeDepth := 60) +contextual only [keeps_packetRow, *]

theorem keeps_execCollectivePacketReceive {r0 s : State} (h : Keeps r0 s) (p : Packet) : KeepsR r0 (execCollectivePacketReceive p
    s) := by
  unfold execCollectivePacketReceive
  simp (maxDischargeDepth := 60) +contextual only [keeps_packetRow, *]

/-! ### Link.lean -/

theorem keeps_peerLost {r0 s : State} (h : Keeps r0 s) (dev cause : Nat) : Keeps r0 (State.peerLost s dev cause) := by
  unfold State.peerLost
  simp (maxDischargeDepth := 60) +contextual only [keeps_ite, implies_true, keeps_mk, keeps_collLost, keeps_escLost,
      keeps_freezeSend, keeps_log', keeps_rshLost, *]

theorem keeps_miswireEv {r0 s : State} (h : Keeps r0 s) (p dev pport exp : Nat) : Keeps r0 (State.miswireEv s p dev pport exp)
    := by
  unfold State.miswireEv
  simp (maxDischargeDepth := 60) +contextual only [keeps_log', *]

theorem keeps_requeue {r0 s : State} (h : Keeps r0 s) (p : Packet) : Keeps r0 (State.requeue s p) := by
  unfold State.requeue
  repeat' first
    | (with_reducible assumption)
    | (solve | simp (maxDischargeDepth := 60) +contextual only [keeps_portPut, *])
    | (with_reducible intro _)
    | (simp only [])
    | split

theorem keeps_forgetDelay {r0 s : State} (h : Keeps r0 s) (p : Nat) : Keeps r0 (State.forgetDelay s p) := by
  unfold State.forgetDelay
  simp (maxDischargeDepth := 60) +contextual only [keeps_mk, *]

theorem keeps_portDown {r0 s : State} (h : Keeps r0 s) (p cause : Nat) : Keeps r0 (State.portDown s p cause) := by
  unfold State.portDown
  simp (maxDischargeDepth := 60) +contextual only [keeps_ite, implies_true, keeps_foldl, keeps_forgetDelay, keeps_log',
      keeps_peerLost, keeps_requeue, keeps_set, keeps_setPort, *]

theorem keeps_execPortDown {r0 s : State} (h : Keeps r0 s) (port cause : Nat) : KeepsR r0 (execPortDown port cause s) := by
  unfold execPortDown
  simp (maxDischargeDepth := 60) +contextual only [KeepsR_next, KeepsR_onUnit, keeps_portDown, *]

theorem keeps_startPorts {r0 s : State} (h : Keeps r0 s) : Keeps r0 (State.startPorts s) := by
  unfold State.startPorts
  simp (maxDischargeDepth := 60) +contextual only [keeps_ite, implies_true, keeps_foldl, keeps_set, *]

theorem keeps_portTrain {r0 s : State} (h : Keeps r0 s) (p dev pport m c1 c2 c3 : Nat) : Keeps r0 (State.portTrain s p dev pport m
    c1 c2 c3) := by
  unfold State.portTrain
  repeat' first
    | (with_reducible assumption)
    | (solve | simp (maxDischargeDepth := 60) +contextual only [implies_true, keeps_log', keeps_miswireEv, keeps_set,
        keeps_setPort, *])
    | (with_reducible intro _)
    | (simp only [])
    | split

theorem keeps_execPortTraining {r0 s : State} (h : Keeps r0 s) (port dev pport lanes c1 c2 c3 : Nat) : KeepsR r0 (execPortTraining
    port dev pport lanes c1 c2 c3 s) := by
  unfold execPortTraining
  simp (maxDischargeDepth := 60) +contextual only [KeepsR_next, KeepsR_onUnit, keeps_portTrain, *]

theorem keeps_recheckPorts {r0 s : State} (h : Keeps r0 s) : Keeps r0 (State.recheckPorts s) := by
  unfold State.recheckPorts
  repeat' first
    | (with_reducible assumption)
    | (solve | simp (maxDischargeDepth := 60) +contextual only [keeps_ite, implies_true, keeps_miswireEv, keeps_set, *])
    | (with_reducible intro _)
    | (with_reducible refine keeps_foldl _ _ _ ?_ ?_)
    | (simp only [])
    | split

theorem keeps_retrain {r0 s : State} (h : Keeps r0 s) (p : Nat) : Keeps r0 (State.retrain s p) := by
  unfold State.retrain
  simp (maxDischargeDepth := 60) +contextual only [keeps_ite, implies_true, keeps_portDown, keeps_set, *]

theorem keeps_retrainAll {r0 s : State} (h : Keeps r0 s) (mask : Nat) : Keeps r0 (State.retrainAll s mask) := by
  unfold State.retrainAll
  simp (maxDischargeDepth := 60) +contextual only [implies_true, keeps_foldl, keeps_retrain, *]

theorem keeps_execPortRetrain {r0 s : State} (h : Keeps r0 s) (_by : Agent) (mask : Nat) : KeepsR r0 (execPortRetrain _by mask s)
    := by
  unfold execPortRetrain
  simp (maxDischargeDepth := 60) +contextual only [KeepsR_next, keeps_retrainAll, *]

theorem keeps_portDisable {r0 s : State} (h : Keeps r0 s) (mask : Nat) : Keeps r0 (State.portDisable s mask) := by
  unfold State.portDisable
  simp (maxDischargeDepth := 60) +contextual only [keeps_ite, implies_true, keeps_foldl, keeps_portDown, keeps_set, *]

theorem keeps_execPortDisable {r0 s : State} (h : Keeps r0 s) (_by : Agent) (mask : Nat) : KeepsR r0 (execPortDisable _by mask s)
    := by
  unfold execPortDisable
  simp (maxDischargeDepth := 60) +contextual only [KeepsR_next, keeps_portDisable, *]

theorem keeps_laneChange {r0 s : State} (h : Keeps r0 s) (p healthy : Nat) (heard : Bool) : Keeps r0 (State.laneChange s p healthy
    heard) := by
  unfold State.laneChange
  simp (maxDischargeDepth := 60) +contextual only [keeps_ite, implies_true, keeps_portDown, keeps_set, keeps_setPort, *]

theorem keeps_laneDrop {r0 s : State} (h : Keeps r0 s) (p lane cause : Nat) : Keeps r0 (State.laneDrop s p lane cause) := by
  unfold State.laneDrop
  simp (maxDischargeDepth := 60) +contextual only [keeps_ite, implies_true, keeps_bump, keeps_laneChange, keeps_log',
      keeps_setPort, *]

theorem keeps_execLaneDrop {r0 s : State} (h : Keeps r0 s) (port lane cause : Nat) : KeepsR r0 (execLaneDrop port lane cause s)
    := by
  unfold execLaneDrop
  simp (maxDischargeDepth := 60) +contextual only [KeepsR_next, KeepsR_onUnit, keeps_laneDrop, *]

theorem keeps_putFrame {r0 s : State} (h : Keeps r0 s) (p lane : Nat) (x : PortSt) (f : Frame) : Keeps r0 (State.putFrame s p lane
    x f) := by
  unfold State.putFrame
  simp (maxDischargeDepth := 60) +contextual only [keeps_emit, keeps_setPort, *]

theorem keeps_dataFrame {r0 s : State} (h : Keeps r0 s) (p lane : Nat) (x : PortSt) : Keeps r0 (State.dataFrame s p lane x) := by
  unfold State.dataFrame
  simp (maxDischargeDepth := 60) +contextual only [keeps_ite, implies_true, keeps_bumpSat, keeps_emit, keeps_putFrame,
      keeps_setPort, *]

theorem keeps_sendFrame {r0 s : State} (h : Keeps r0 s) (p lane : Nat) : Keeps r0 (State.sendFrame s p lane) := by
  unfold State.sendFrame
  repeat' first
    | (with_reducible assumption)
    | (solve | simp (maxDischargeDepth := 60) +contextual only [keeps_ite, implies_true, keeps_bumpSat, keeps_dataFrame,
        keeps_emit, keeps_putFrame, *])
    | (with_reducible intro _)
    | (simp only [])
    | split

theorem keeps_execLinkFrameSend {r0 s : State} (h : Keeps r0 s) (port lane : Nat) : KeepsR r0 (execLinkFrameSend port lane s)
    := by
  unfold execLinkFrameSend
  simp (maxDischargeDepth := 60) +contextual only [KeepsR_next, KeepsR_onUnit, keeps_sendFrame, *]

theorem keeps_handOn {r0 s : State} (h : Keeps r0 s) (p : Packet) : Keeps r0 (State.handOn s p) := by
  unfold State.handOn
  simp (maxDischargeDepth := 60) +contextual only [keeps_ite, implies_true, keeps_emit, *]

theorem keeps_takeUrgent {r0 s : State} (h : Keeps r0 s) (p : Nat) (f : Frame) : Keeps r0 (State.takeUrgent s p f) := by
  unfold State.takeUrgent
  simp (maxDischargeDepth := 60) +contextual only [keeps_ite, implies_true, keeps_mk, keeps_foldl, keeps_handOn, keeps_setPort,
      *]

theorem keeps_takeBulk {r0 s : State} (h : Keeps r0 s) (p : Nat) (f : Frame) : Keeps r0 (State.takeBulk s p f) := by
  unfold State.takeBulk
  simp (maxDischargeDepth := 60) +contextual only [keeps_ite, implies_true, keeps_foldl, keeps_handOn, keeps_setPort, *]

theorem keeps_badFrame {r0 s : State} (h : Keeps r0 s) (p lane : Nat) : Keeps r0 (State.badFrame s p lane) := by
  unfold State.badFrame
  simp (maxDischargeDepth := 60) +contextual only [keeps_ite, implies_true, keeps_bumpSat, keeps_laneDrop, keeps_setPort, *]

theorem keeps_countSyms {r0 s : State} (h : Keeps r0 s) (p lane syms : Nat) : Keeps r0 (State.countSyms s p lane syms) := by
  unfold State.countSyms
  simp (maxDischargeDepth := 60) +contextual only [keeps_ite, implies_true, keeps_laneDrop, keeps_setPort, *]

theorem keeps_takeNext {r0 s : State} (h : Keeps r0 s) (p : Nat) (f : Frame) : Keeps r0 (State.takeNext s p f) := by
  unfold State.takeNext
  simp (maxDischargeDepth := 60) +contextual only [keeps_setPort, keeps_takeBulk, *]

theorem keeps_takeAhead {r0 s : State} (h : Keeps r0 s) (p n : Nat) : Keeps r0 (State.takeAhead s p n) := by
  induction n generalizing s with
  | zero =>
    unfold State.takeAhead
    assumption
  | succ n ih =>
    unfold State.takeAhead
    repeat' first
      | (with_reducible assumption)
      | (solve | simp (maxDischargeDepth := 60) +contextual only [keeps_takeNext, *])
      | (with_reducible intro _)
      | (simp only [])
      | split

theorem keeps_takeSeq {r0 s : State} (h : Keeps r0 s) (p : Nat) (f : Frame) : Keeps r0 (State.takeSeq s p f) := by
  unfold State.takeSeq
  simp (maxDischargeDepth := 60) +contextual only [keeps_ite, implies_true, keeps_setPort, keeps_takeAhead, keeps_takeNext, *]

theorem keeps_takeCtl {r0 s : State} (h : Keeps r0 s) (p : Nat) (f : Frame) : Keeps r0 (State.takeCtl s p f) := by
  unfold State.takeCtl
  repeat' first
    | (with_reducible assumption)
    | (solve | simp (maxDischargeDepth := 60) +contextual only [keeps_ite, implies_true, keeps_laneChange, keeps_setPort, *])
    | (with_reducible intro _)
    | (simp only [])
    | split

theorem keeps_takeFrame {r0 s : State} (h : Keeps r0 s) (p lane : Nat) (w : Option WireFrame) (syms : Nat) : Keeps r0
    (State.takeFrame s p lane w syms) := by
  unfold State.takeFrame
  repeat' first
    | (with_reducible assumption)
    | (solve | simp (maxDischargeDepth := 60) +contextual only [keeps_ite, implies_true, keeps_badFrame, keeps_countSyms,
        keeps_setPort, keeps_takeCtl, keeps_takeSeq, keeps_takeUrgent, *])
    | (with_reducible intro _)
    | (simp only [])
    | split

theorem keeps_execLinkFrameReceive {r0 s : State} (h : Keeps r0 s) (port lane : Nat) (f : Option WireFrame) (syms : Nat) : KeepsR
    r0 (execLinkFrameReceive port lane f syms s) := by
  unfold execLinkFrameReceive
  simp (maxDischargeDepth := 60) +contextual only [KeepsR_next, KeepsR_onUnit, keeps_takeFrame, *]

/-! ### Beat.lean -/

theorem keeps_mapBeat {r0 s : State} (h : Keeps r0 s) (f : BeatSt → BeatSt) : Keeps r0 (State.mapBeat s f) := by
  unfold State.mapBeat
  simp (maxDischargeDepth := 60) +contextual only [keeps_mk, *]

theorem keeps_beatRole {r0 s : State} (h : Keeps r0 s) : Keeps r0 (State.beatRole s) := by
  unfold State.beatRole
  simp (maxDischargeDepth := 60) +contextual only [keeps_mapBeat, keeps_set, *]

theorem keeps_setPeriod {r0 s : State} (h : Keeps r0 s) (p : Nat) : Keeps r0 (State.setPeriod s p) := by
  unfold State.setPeriod
  simp (maxDischargeDepth := 60) +contextual only [keeps_ite, implies_true, keeps_mapBeat, keeps_set, *]

theorem keeps_setOffset {r0 s : State} (h : Keeps r0 s) (x : Int) : Keeps r0 (State.setOffset s x) := by
  unfold State.setOffset
  simp (maxDischargeDepth := 60) +contextual only [keeps_set, *]

theorem keeps_masterEv {r0 s : State} (h : Keeps r0 s) (dev rank : Nat) : Keeps r0 (State.masterEv s dev rank) := by
  unfold State.masterEv
  simp (maxDischargeDepth := 60) +contextual only [keeps_log', *]

theorem keeps_beatLock {r0 s : State} (h : Keeps r0 s) : Keeps r0 (State.beatLock s) := by
  unfold State.beatLock
  simp (maxDischargeDepth := 60) +contextual only [keeps_ite, implies_true, keeps_log', keeps_masterEv, keeps_set, *]

theorem keeps_beatAlign {r0 s : State} (h : Keeps r0 s) : Keeps r0 (State.beatAlign s) := by
  unfold State.beatAlign
  simp (maxDischargeDepth := 60) +contextual only [keeps_ite, implies_true, keeps_log', keeps_mapBeat, *]

theorem keeps_stepEv {r0 s : State} (h : Keeps r0 s) (old new : Nat) : Keeps r0 (State.stepEv s old new) := by
  unfold State.stepEv
  simp (maxDischargeDepth := 60) +contextual only [keeps_log', *]

theorem keeps_beatCount {r0 s : State} (h : Keeps r0 s) (count : Nat) (img : Bool) : Keeps r0 (State.beatCount s count img) := by
  unfold State.beatCount
  simp (maxDischargeDepth := 60) +contextual only [keeps_ite, implies_true, keeps_beatLock, keeps_mapBeat, keeps_set,
      keeps_stepEv, *]

theorem keeps_follow {r0 s : State} (h : Keeps r0 s) (dev rank count period : Nat) (ann : Option (Nat × Nat)) (wall : Nat) (img :
    Bool) (offset : Int) : Keeps r0 (State.follow s dev rank count period ann wall img offset) := by
  unfold State.follow
  simp (maxDischargeDepth := 60) +contextual only [keeps_ite, implies_true, keeps_beatAlign, keeps_beatCount, keeps_mapBeat,
      keeps_masterEv, keeps_set, keeps_setOffset, keeps_setPeriod, *]

theorem keeps_hear {r0 s : State} (h : Keeps r0 s) (dev : Nat) : Keeps r0 (State.hear s dev) := by
  unfold State.hear
  simp (maxDischargeDepth := 60) +contextual only [keeps_ite, implies_true, keeps_mapBeat, *]

theorem keeps_heardWall {r0 s : State} (h : Keeps r0 s) (count wall : Nat) : Keeps r0 (State.heardWall s count wall) := by
  unfold State.heardWall
  simp (maxDischargeDepth := 60) +contextual only [keeps_mapBeat, *]

theorem keeps_execBeatFrameReceive {r0 s : State} (h : Keeps r0 s) (hop : Hop) (rank count period : Nat) (ann : Option (Nat × Nat))
    (wall : Nat) (img : Bool) (raw : Int) (lat : Nat) : KeepsR r0 (execBeatFrameReceive hop rank count period ann wall img
    raw lat s) := by
  unfold execBeatFrameReceive
  simp (maxDischargeDepth := 60) +contextual only [keeps_ite, implies_true, KeepsR_next, keeps_follow, keeps_hear,
      keeps_heardWall, keeps_mapBeat, keeps_tc0In, *]

theorem keeps_beatPromote {r0 s : State} (h : Keeps r0 s) : Keeps r0 (State.beatPromote s) := by
  unfold State.beatPromote
  repeat' first
    | (with_reducible assumption)
    | (solve | simp (maxDischargeDepth := 60) +contextual only [keeps_ite, implies_true, keeps_mapBeat, keeps_masterEv,
        keeps_set, keeps_setOffset, *])
    | (with_reducible intro _)
    | (simp only [])
    | split

theorem keeps_beatAdopt {r0 s : State} (h : Keeps r0 s) : Keeps r0 (State.beatAdopt s) := by
  unfold State.beatAdopt
  simp (maxDischargeDepth := 60) +contextual only [keeps_ite, implies_true, keeps_mapBeat, keeps_set, *]

theorem keeps_execBeatFrameSend {r0 s : State} (h : Keeps r0 s) : KeepsR r0 (execBeatFrameSend s) := by
  unfold execBeatFrameSend
  simp (maxDischargeDepth := 60) +contextual only [keeps_ite, implies_true, KeepsR_next, keeps_beatAdopt, keeps_beatPromote,
      keeps_beatRole, keeps_tc0All, *]

theorem keeps_execHeartbeatSend {r0 s : State} (h : Keeps r0 s) : KeepsR r0 (execHeartbeatSend s) := by
  unfold execHeartbeatSend
  simp (maxDischargeDepth := 60) +contextual only [keeps_ite, implies_true, KeepsR_next, keeps_tc0All, *]

theorem keeps_execHeartbeatReceive {r0 s : State} (h : Keeps r0 s) (dev lat : Nat) : KeepsR r0 (execHeartbeatReceive dev lat s)
    := by
  unfold execHeartbeatReceive
  simp (maxDischargeDepth := 60) +contextual only [KeepsR_next, keeps_hear, keeps_tc0In, *]

theorem keeps_execDelayRequestSend {r0 s : State} (h : Keeps r0 s) (hop : Hop) (t1 : Nat) : KeepsR r0 (execDelayRequestSend hop
    t1 s) := by
  unfold execDelayRequestSend
  simp (maxDischargeDepth := 60) +contextual only [keeps_ite, implies_true, KeepsR_next, keeps_mapBeat, keeps_tc0At, *]

theorem keeps_execDelayRequestReceive {r0 s : State} (h : Keeps r0 s) (dev count t1 t2 t3 lat : Nat) : KeepsR r0
    (execDelayRequestReceive dev count t1 t2 t3 lat s) := by
  unfold execDelayRequestReceive
  simp (maxDischargeDepth := 60) +contextual only [keeps_ite, implies_true, KeepsR_next, keeps_mapBeat, keeps_tc0, keeps_tc0In,
      *]

theorem keeps_execDelayResponseReceive {r0 s : State} (h : Keeps r0 s) (hop : Hop) (t1 t2 t3 t4 lat : Nat) : KeepsR r0
    (execDelayResponseReceive hop t1 t2 t3 t4 lat s) := by
  unfold execDelayResponseReceive
  simp (maxDischargeDepth := 60) +contextual only [KeepsR_next, keeps_mapBeat, keeps_tc0In, *]

theorem keeps_sourceLost {r0 s : State} (h : Keeps r0 s) : Keeps r0 (State.sourceLost s) := by
  unfold State.sourceLost
  repeat' first
    | (with_reducible assumption)
    | (solve | simp (maxDischargeDepth := 60) +contextual only [keeps_ite, implies_true, keeps_mk, keeps_log', keeps_mapBeat,
        keeps_set, *])
    | (with_reducible intro _)
    | (simp only [])
    | split

theorem keeps_peerCheck {r0 s : State} (h : Keeps r0 s) (dev : Nat) : Keeps r0 (State.peerCheck s dev) := by
  unfold State.peerCheck
  simp (maxDischargeDepth := 60) +contextual only [keeps_ite, implies_true, keeps_mapBeat, keeps_peerLost, *]

theorem keeps_execPeerLost {r0 s : State} (h : Keeps r0 s) (dev : Nat) : KeepsR r0 (execPeerLost dev s) := by
  unfold execPeerLost
  simp (maxDischargeDepth := 60) +contextual only [KeepsR_next, keeps_peerCheck, *]

theorem keeps_execPtpMessageReceive {r0 s : State} (h : Keeps r0 s) (port : Nat) : KeepsR r0 (execPtpMessageReceive port s) := by
  unfold execPtpMessageReceive
  simp (maxDischargeDepth := 60) +contextual only [keeps_ite, implies_true, KeepsR_next, KeepsR_onUnit, keeps_emit, keeps_set,
      *]

theorem keeps_beatCommit {r0 s : State} (h : Keeps r0 s) (oldPeers oldCands : List Nat) (oldSrc : Nat) : Keeps r0
    (State.beatCommit s oldPeers oldCands oldSrc) := by
  unfold State.beatCommit
  simp (maxDischargeDepth := 60) +contextual only [keeps_ite, implies_true, keeps_beatRole, keeps_mapBeat, *]

end Sys2Proof.Machine
end

