-- ==== Sys2Proof/Laws/Keep6.lean ====
section
/-! SUPPORT. What every operation keeps: the video codec, the log, interrupts, LPDDR6, clocks and power. -/
namespace Sys2Proof.Machine

/-! ### Vce.lean -/

theorem keeps_setVce {r0 s : State} (h : Keeps r0 s) (e : Nat) (x : VceSt) : Keeps r0 (State.setVce s e x) := by
  unfold State.setVce
  simp (maxDischargeDepth := 60) +contextual only [keeps_mk, keeps_set, *]

theorem keeps_setStream {r0 s : State} (h : Keeps r0 s) (e slot : Nat) (st : VceStream) : Keeps r0 (State.setStream s e slot st)
    := by
  unfold State.setStream
  simp (maxDischargeDepth := 60) +contextual only [keeps_setVce, *]

theorem keeps_vceWr {r0 s : State} (h : Keeps r0 s) (e da : Nat) (bs : List Byte) : Keeps r0 (State.vceWr s e da bs) := by
  unfold State.vceWr
  simp (maxDischargeDepth := 60) +contextual only [keeps_wrDa, *]

theorem keeps_vceRefuse {r0 s : State} (h : Keeps r0 s) (e qid : Nat) (d : Desc) (b : BadField) : Keeps r0 (State.vceRefuse s e
    qid d b) := by
  unfold State.vceRefuse
  simp (maxDischargeDepth := 60) +contextual only [keeps_bump, keeps_log', *]

theorem keeps_endStream {r0 s : State} (h : Keeps r0 s) (e slot cause : Nat) : Keeps r0 (State.endStream s e slot cause) := by
  unfold State.endStream
  simp (maxDischargeDepth := 60) +contextual only [keeps_log', keeps_setVce, *]

theorem keeps_setMark {r0 s : State} (h : Keeps r0 s) (e slot buf : Nat) (m : VceMark) : Keeps r0 (State.setMark s e slot buf m)
    := by
  unfold State.setMark
  repeat' first
    | (with_reducible assumption)
    | (solve | simp (maxDischargeDepth := 60) +contextual only [keeps_setStream, keeps_vceWr, *])
    | (with_reducible intro _)
    | (simp only [])
    | split

theorem keeps_poolWait {r0 s : State} (h : Keeps r0 s) (e : Nat) (d : Desc) (st : VceStream) : Keeps r0 (State.poolWait s e d st)
    := by
  unfold State.poolWait
  simp (maxDischargeDepth := 60) +contextual only [keeps_log', *]

theorem keeps_decodeGo {r0 s : State} (h : Keeps r0 s) (e : Nat) (j : VceJob) (st : VceStream) : Keeps r0 (State.decodeGo s e j
    st) := by
  unfold State.decodeGo
  repeat' first
    | (with_reducible assumption)
    | (solve | simp (maxDischargeDepth := 60) +contextual only [keeps_ite, implies_true, keeps_foldl, keeps_poolWait,
        keeps_setStream, keeps_setVce, keeps_ticks, keeps_vceWr, *])
    | (with_reducible intro _)
    | (with_reducible refine keeps_foldl _ _ _ ?_ ?_)
    | (simp only [])
    | split

theorem keeps_encodeGo {r0 s : State} (h : Keeps r0 s) (e : Nat) (j : VceJob) (st : VceStream) : Keeps r0 (State.encodeGo s e j
    st) := by
  unfold State.encodeGo
  repeat' first
    | (with_reducible assumption)
    | (solve | simp (maxDischargeDepth := 60) +contextual only [keeps_ite, implies_true, keeps_foldl, keeps_poolWait,
        keeps_setVce, keeps_vceWr, *])
    | (with_reducible intro _)
    | (with_reducible refine keeps_foldl _ _ _ ?_ ?_)
    | (simp only [])
    | split

theorem keeps_frameGo {r0 s : State} (h : Keeps r0 s) (e : Nat) (j : VceJob) : Keeps r0 (State.frameGo s e j) := by
  unfold State.frameGo
  repeat' first
    | (with_reducible assumption)
    | (solve | simp (maxDischargeDepth := 60) +contextual only [keeps_ite, implies_true, keeps_decodeGo, keeps_encodeGo,
        keeps_setVce, *])
    | (with_reducible intro _)
    | (simp only [])
    | split

theorem keeps_frameStart {r0 s : State} (h : Keeps r0 s) (e qid : Nat) (d : Desc) : Keeps r0 (State.frameStart s e qid d) := by
  unfold State.frameStart
  repeat' first
    | (with_reducible assumption)
    | (solve | simp (maxDischargeDepth := 60) +contextual only [keeps_ite, implies_true, keeps_frameGo, keeps_setStream, *])
    | (with_reducible intro _)
    | (simp only [])
    | split

theorem keeps_vceOpen {r0 s : State} (h : Keeps r0 s) (e : Nat) (d : Desc) : Keeps r0 (State.vceOpen s e d) := by
  unfold State.vceOpen
  simp (maxDischargeDepth := 60) +contextual only [implies_true, keeps_foldl, keeps_setStream, keeps_vceWr, *]

theorem keeps_vceRelease {r0 s : State} (h : Keeps r0 s) (e : Nat) (d : Desc) : Keeps r0 (State.vceRelease s e d) := by
  unfold State.vceRelease
  repeat' first
    | (with_reducible assumption)
    | (solve | simp (maxDischargeDepth := 60) +contextual only [keeps_setMark, *])
    | (with_reducible intro _)
    | (simp only [])
    | split

theorem keeps_vceItem {r0 s : State} (h : Keeps r0 s) (e qid : Nat) (d : Desc) : Keeps r0 (State.vceItem s e qid d) := by
  unfold State.vceItem
  repeat' first
    | (with_reducible assumption)
    | (solve | simp (maxDischargeDepth := 60) +contextual only [keeps_ite, implies_true, keeps_bump, keeps_endStream,
        keeps_frameStart, keeps_log', keeps_setVce, keeps_vceOpen, keeps_vceRefuse, keeps_vceRelease, *])
    | (with_reducible intro _)
    | (simp only [])
    | split

theorem keeps_vceRow {r0 s : State} (h : Keeps r0 s) (e qid : Nat) (d : Desc) (op : Nat) : KeepsR r0 (State.vceRow s e qid d op)
    := by
  unfold State.vceRow
  simp (maxDischargeDepth := 60) +contextual only [implies_true, KeepsR_next, KeepsR_fault, keepsR_ite, KeepsR_onUnit,
      keeps_vceItem, *]

theorem keeps_execCodecOpen {r0 s : State} (h : Keeps r0 s) (e qid : Nat) (d : Desc) : KeepsR r0 (execCodecOpen e qid d s) := by
  unfold execCodecOpen
  simp (maxDischargeDepth := 60) +contextual only [keeps_vceRow, *]

theorem keeps_execCodecDecode {r0 s : State} (h : Keeps r0 s) (e qid : Nat) (d : Desc) : KeepsR r0 (execCodecDecode e qid d s)
    := by
  unfold execCodecDecode
  simp (maxDischargeDepth := 60) +contextual only [keeps_vceRow, *]

theorem keeps_execCodecEncode {r0 s : State} (h : Keeps r0 s) (e qid : Nat) (d : Desc) : KeepsR r0 (execCodecEncode e qid d s)
    := by
  unfold execCodecEncode
  simp (maxDischargeDepth := 60) +contextual only [keeps_vceRow, *]

theorem keeps_execCodecRelease {r0 s : State} (h : Keeps r0 s) (e qid : Nat) (d : Desc) : KeepsR r0 (execCodecRelease e qid d s)
    := by
  unfold execCodecRelease
  simp (maxDischargeDepth := 60) +contextual only [keeps_vceRow, *]

theorem keeps_execCodecFlush {r0 s : State} (h : Keeps r0 s) (e qid : Nat) (d : Desc) : KeepsR r0 (execCodecFlush e qid d s) := by
  unfold execCodecFlush
  simp (maxDischargeDepth := 60) +contextual only [keeps_vceRow, *]

theorem keeps_execCodecClose {r0 s : State} (h : Keeps r0 s) (e qid : Nat) (d : Desc) : KeepsR r0 (execCodecClose e qid d s) := by
  unfold execCodecClose
  simp (maxDischargeDepth := 60) +contextual only [keeps_vceRow, *]

theorem keeps_execCodecBufferResume {r0 s : State} (h : Keeps r0 s) (e : Nat) : KeepsR r0 (execCodecBufferResume e s) := by
  unfold execCodecBufferResume
  repeat' first
    | (with_reducible assumption)
    | (solve | simp (maxDischargeDepth := 60) +contextual only [keeps_ite, implies_true, KeepsR_next, keeps_frameGo, *])
    | (with_reducible intro _)
    | (with_reducible apply KeepsR_onUnit)
    | (with_reducible rw [KeepsR_next])
    | (simp only [])
    | split

theorem keeps_frameMarks {r0 s : State} (h : Keeps r0 s) (e : Nat) (j : VceJob) : Keeps r0 (State.frameMarks s e j) := by
  unfold State.frameMarks
  repeat' first
    | (with_reducible assumption)
    | (solve | simp (maxDischargeDepth := 60) +contextual only [keeps_ite, implies_true, keeps_foldl, keeps_setMark, *])
    | (with_reducible intro _)
    | (with_reducible refine keeps_foldl _ _ _ ?_ ?_)
    | (simp only [])
    | split

theorem keeps_frameLate {r0 s : State} (h : Keeps r0 s) (e : Nat) (j : VceJob) : Keeps r0 (State.frameLate s e j) := by
  unfold State.frameLate
  repeat' first
    | (with_reducible assumption)
    | (solve | simp (maxDischargeDepth := 60) +contextual only [keeps_ite, implies_true, keeps_bumpSat, keeps_log', keeps_set,
        keeps_setStream, *])
    | (with_reducible intro _)
    | (simp only [])
    | split

theorem keeps_frameEnd {r0 s : State} (h : Keeps r0 s) (e : Nat) (j : VceJob) : Keeps r0 (State.frameEnd s e j) := by
  unfold State.frameEnd
  simp (maxDischargeDepth := 60) +contextual only [keeps_ite, implies_true, keeps_foldl, keeps_bump, keeps_bumpSat,
      keeps_endStream, keeps_frameLate, keeps_frameMarks, keeps_log', keeps_sendSignal, keeps_setVce, keeps_vceWr, *]

theorem keeps_execCodecFrameComplete {r0 s : State} (h : Keeps r0 s) (e : Nat) : KeepsR r0 (execCodecFrameComplete e s) := by
  unfold execCodecFrameComplete
  repeat' first
    | (with_reducible assumption)
    | (solve | simp (maxDischargeDepth := 60) +contextual only [keeps_ite, implies_true, KeepsR_next, keeps_frameEnd, *])
    | (with_reducible intro _)
    | (with_reducible apply KeepsR_onUnit)
    | (with_reducible rw [KeepsR_next])
    | (simp only [])
    | split

theorem keeps_vceResume {r0 s : State} (h : Keeps r0 s) : Keeps r0 (State.vceResume s) := by
  unfold State.vceResume
  repeat' first
    | (with_reducible assumption)
    | (solve | simp (maxDischargeDepth := 60) +contextual only [keeps_ite, implies_true, keeps_frameGo, *])
    | (with_reducible intro _)
    | (with_reducible refine keeps_foldl _ _ _ ?_ ?_)
    | (simp only [])
    | split

theorem keeps_vceNext {r0 s : State} (h : Keeps r0 s) (e : Nat) : Keeps r0 (State.vceNext s e) := by
  unfold State.vceNext
  repeat' first
    | (with_reducible assumption)
    | (solve | simp (maxDischargeDepth := 60) +contextual only [keeps_ite, implies_true, keeps_otherTake, keeps_qTake,
        keeps_vceItem, *])
    | (with_reducible intro _)
    | (simp only [])
    | split

theorem keeps_execCodecItemSelect {r0 s : State} (h : Keeps r0 s) (e : Nat) : KeepsR r0 (execCodecItemSelect e s) := by
  unfold execCodecItemSelect
  simp (maxDischargeDepth := 60) +contextual only [KeepsR_next, KeepsR_onUnit, keeps_vceNext, *]

theorem keeps_vceCommit {r0 s : State} (h : Keeps r0 s) (old new : Image) : Keeps r0 (State.vceCommit s old new) := by
  unfold State.vceCommit
  simp (maxDischargeDepth := 60) +contextual only [keeps_ite, implies_true, keeps_foldl, keeps_endStream, keeps_setVce, *]

theorem keeps_vceReset {r0 s : State} (h : Keeps r0 s) (e : Nat) : Keeps r0 (State.vceReset s e) := by
  unfold State.vceReset
  simp (maxDischargeDepth := 60) +contextual only [implies_true, keeps_foldl, keeps_endStream, keeps_setVce, *]

theorem keeps_vceSync {r0 s : State} (h : Keeps r0 s) : Keeps r0 (State.vceSync s) := by
  unfold State.vceSync
  simp (maxDischargeDepth := 60) +contextual only [implies_true, keeps_foldl, keeps_setVce, *]

/-! ### Log.lean -/

theorem keeps_mapLog {r0 s : State} (h : Keeps r0 s) (f : LogSt → LogSt) : Keeps r0 (State.mapLog s f) := by
  unfold State.mapLog
  simp (maxDischargeDepth := 60) +contextual only [keeps_mk, *]

theorem keeps_setIntake {r0 s : State} (h : Keeps r0 s) (l : List (Nat × Entry)) : Keeps r0 (State.setIntake s l) := by
  unfold State.setIntake
  simp (maxDischargeDepth := 60) +contextual only [keeps_mapLog, keeps_set, *]

theorem keeps_logIn {r0 s : State} (h : Keeps r0 s) (half : Nat) (e : Entry) : Keeps r0 (State.logIn s half e) := by
  unfold State.logIn
  simp (maxDischargeDepth := 60) +contextual only [keeps_ite, implies_true, keeps_bumpSat, keeps_mapLog, keeps_setIntake, *]

theorem keeps_execLogEventIntake {r0 s : State} (h : Keeps r0 s) (k : Nat) : KeepsR r0 (execLogEventIntake k s) := by
  unfold execLogEventIntake
  repeat' first
    | (with_reducible assumption)
    | (solve | simp (maxDischargeDepth := 60) +contextual only [KeepsR_next, keeps_logIn, keeps_mapLog, *])
    | (with_reducible intro _)
    | (with_reducible apply KeepsR_onUnit)
    | (with_reducible rw [KeepsR_next])
    | (simp only [])
    | split

theorem keeps_logDrop {r0 s : State} (h : Keeps r0 s) : Keeps r0 (State.logDrop s) := by
  unfold State.logDrop
  simp (maxDischargeDepth := 60) +contextual only [keeps_ite, implies_true, keeps_logIn, keeps_mapLog, *]

theorem keeps_execLogDrop {r0 s : State} (h : Keeps r0 s) : KeepsR r0 (execLogDrop s) := by
  unfold execLogDrop
  simp (maxDischargeDepth := 60) +contextual only [KeepsR_next, keeps_logDrop, *]

theorem keeps_logNew {r0 s : State} (h : Keeps r0 s) (n : Nat) (e : Entry) : Keeps r0 (State.logNew s n e) := by
  unfold State.logNew
  simp (maxDischargeDepth := 60) +contextual only [keeps_ite, implies_true, keeps_bump, keeps_irq, keeps_mapLog, keeps_set, *]

theorem keeps_logWrite {r0 s : State} (h : Keeps r0 s) (e : Entry) : Keeps r0 (State.logWrite s e) := by
  unfold State.logWrite
  repeat' first
    | (with_reducible assumption)
    | (solve | simp (maxDischargeDepth := 60) +contextual only [keeps_ite, implies_true, keeps_logNew, keeps_mapLog, *])
    | (with_reducible intro _)
    | (simp only [])
    | split

theorem keeps_execLogAppend {r0 s : State} (h : Keeps r0 s) : KeepsR r0 (execLogAppend s) := by
  unfold execLogAppend
  repeat' first
    | (with_reducible assumption)
    | (solve | simp (maxDischargeDepth := 60) +contextual only [KeepsR_next, keeps_logWrite, keeps_setIntake, *])
    | (with_reducible intro _)
    | (with_reducible apply KeepsR_onUnit)
    | (with_reducible rw [KeepsR_next])
    | (simp only [])
    | split

theorem keeps_logStart {r0 s : State} (h : Keeps r0 s) (half : Nat) : Keeps r0 (State.logStart s half) := by
  unfold State.logStart
  simp (maxDischargeDepth := 60) +contextual only [keeps_ite, implies_true, keeps_mapLog, keeps_set, keeps_setIntake, *]

theorem keeps_logMove {r0 s : State} (h : Keeps r0 s) (half : Nat) : Keeps r0 (State.logMove s half) := by
  unfold State.logMove
  simp (maxDischargeDepth := 60) +contextual only [keeps_ite, implies_true, keeps_mapLog, keeps_set, *]

theorem keeps_logTake {r0 s : State} (h : Keeps r0 s) (half : Nat) : Keeps r0 (State.logTake s half) := by
  unfold State.logTake
  simp (maxDischargeDepth := 60) +contextual only [keeps_ite, implies_true, keeps_mapLog, keeps_set, *]

theorem keeps_logLatch {r0 s : State} (h : Keeps r0 s) : Keeps r0 (State.logLatch s) := by
  unfold State.logLatch
  repeat' first
    | (with_reducible assumption)
    | (solve | simp (maxDischargeDepth := 60) +contextual only [implies_true, keeps_foldl, keeps_set, *])
    | (with_reducible intro _)
    | (with_reducible refine keeps_foldl _ _ _ ?_ ?_)
    | (simp only [])
    | split

theorem keeps_cursorWrite {r0 s : State} (h : Keeps r0 s) (val : Word) : Keeps r0 (State.cursorWrite s val) := by
  unfold State.cursorWrite
  simp (maxDischargeDepth := 60) +contextual only [keeps_logLatch, keeps_set, *]

theorem keeps_execLogCursorWrite {r0 s : State} (h : Keeps r0 s) (_by : Agent) (val : Word) : KeepsR r0 (execLogCursorWrite _by
    val s) := by
  unfold execLogCursorWrite
  simp (maxDischargeDepth := 60) +contextual only [KeepsR_next, keeps_cursorWrite, *]

theorem keeps_logNextRead {r0 s : State} (h : Keeps r0 s) : Keeps r0 (State.logNextRead s) := by
  unfold State.logNextRead
  simp (maxDischargeDepth := 60) +contextual only [keeps_ite, implies_true, keeps_logLatch, keeps_set, *]

/-! ### Irq.lean -/

theorem keeps_execIrqSourceRaise {r0 s : State} (h : Keeps r0 s) (src : Nat) (sev3 : Bool) : KeepsR r0 (execIrqSourceRaise src
    sev3 s) := by
  unfold execIrqSourceRaise
  simp (maxDischargeDepth := 60) +contextual only [keeps_ite, implies_true, KeepsR_next, keeps_irq, *]

theorem keeps_irqClear {r0 s : State} (h : Keeps r0 s) (mask again : Nat) : Keeps r0 (State.irqClear s mask again) := by
  unfold State.irqClear
  simp (maxDischargeDepth := 60) +contextual only [implies_true, keeps_foldl, keeps_irq, keeps_set, *]

theorem keeps_execIrqStatusClear {r0 s : State} (h : Keeps r0 s) (_by : Agent) (mask again : Nat) : KeepsR r0 (execIrqStatusClear
    _by mask again s) := by
  unfold execIrqStatusClear
  simp (maxDischargeDepth := 60) +contextual only [KeepsR_next, keeps_irqClear, *]

theorem keeps_irqEnable {r0 s : State} (h : Keeps r0 s) (mask : Nat) : Keeps r0 (State.irqEnable s mask) := by
  unfold State.irqEnable
  simp (maxDischargeDepth := 60) +contextual only [keeps_ite, implies_true, keeps_foldl, keeps_sendMsix, keeps_set, *]

theorem keeps_stwEnable {r0 s : State} (h : Keeps r0 s) (mask : Nat) : Keeps r0 (State.stwEnable s mask) := by
  unfold State.stwEnable
  simp (maxDischargeDepth := 60) +contextual only [keeps_ite, implies_true, keeps_foldl, keeps_emit, keeps_set, *]

theorem keeps_execIrqEnableWrite {r0 s : State} (h : Keeps r0 s) (_by : Agent) (stw : Bool) (mask : Nat) : KeepsR r0
    (execIrqEnableWrite _by stw mask s) := by
  unfold execIrqEnableWrite
  simp (maxDischargeDepth := 60) +contextual only [keeps_ite, implies_true, KeepsR_next, keeps_irqEnable, keeps_stwEnable, *]

theorem keeps_msixWrite {r0 s : State} (h : Keeps r0 s) (link off val : Nat) : Keeps r0 (State.msixWrite s link off val) := by
  unfold State.msixWrite
  simp (maxDischargeDepth := 60) +contextual only [keeps_ite, implies_true, keeps_mk, keeps_emit, *]

theorem keeps_execMsixAccess {r0 s : State} (h : Keeps r0 s) (link off : Nat) (val : Option Nat) : KeepsR r0 (execMsixAccess link
    off val s) := by
  unfold execMsixAccess
  repeat' first
    | (with_reducible assumption)
    | (solve | simp (maxDischargeDepth := 60) +contextual only [KeepsR_next, keeps_emit, keeps_msixWrite, *])
    | (with_reducible intro _)
    | (with_reducible apply KeepsR_onUnit)
    | (with_reducible rw [KeepsR_next])
    | (simp only [])
    | split

/-! ### Lp.lean -/

theorem keeps_startFail {r0 s : State} (h : Keeps r0 s) (unit cause : Nat) : Keeps r0 (State.startFail s unit cause) := by
  unfold State.startFail
  simp (maxDischargeDepth := 60) +contextual only [keeps_log', keeps_logStart, keeps_set, *]

theorem keeps_linkErr {r0 s : State} (h : Keeps r0 s) (ld ch n : Nat) (write : Bool) : Keeps r0 (State.linkErr s ld ch n write)
    := by
  unfold State.linkErr
  simp (maxDischargeDepth := 60) +contextual only [keeps_ite, implies_true, keeps_mk, keeps_bumpSat, keeps_log', *]

theorem keeps_corrected {r0 s : State} (h : Keeps r0 s) (ld ch da : Nat) : Keeps r0 (State.corrected s ld ch da) := by
  unfold State.corrected
  simp (maxDischargeDepth := 60) +contextual only [keeps_ite, implies_true, keeps_mk, keeps_bumpSat, keeps_log', *]

theorem keeps_arrayRead {r0 s : State} (h : Keeps r0 s) (ld off da err who : Nat) : Keeps r0 (State.arrayRead s ld off da err who)
    := by
  unfold State.arrayRead
  repeat' first
    | (with_reducible assumption)
    | (solve | simp (maxDischargeDepth := 60) +contextual only [keeps_corrected, keeps_uncorrectable, *])
    | (with_reducible intro _)
    | (simp only [])
    | split

theorem keeps_accGo {r0 s : State} (h : Keeps r0 s) (a : Agent) (da kind : Nat) (bs : List Byte) : Keeps r0 (State.accGo s a da
    kind bs) := by
  unfold State.accGo
  repeat' first
    | (with_reducible assumption)
    | (solve | simp (maxDischargeDepth := 60) +contextual only [keeps_ite, implies_true, keeps_emit, keeps_unmappedEv,
        keeps_wrDa, *])
    | (with_reducible intro _)
    | (simp only [])
    | split

theorem keeps_memAcc {r0 s : State} (h : Keeps r0 s) (a : Agent) (da kind : Nat) (bs : List Byte) : Keeps r0 (State.memAcc s a da
    kind bs) := by
  unfold State.memAcc
  simp (maxDischargeDepth := 60) +contextual only [keeps_ite, implies_true, keeps_accAccess, keeps_accGo, keeps_waitFor, *]

theorem keeps_lpRequest {r0 s : State} (h : Keeps r0 s) (a : Agent) (old : Bool) (da : Nat) (write : Bool) (bs : List Byte) (err
    link : Nat) : Keeps r0 (State.lpRequest s a old da write bs err link) := by
  unfold State.lpRequest
  repeat' first
    | (with_reducible assumption)
    | (solve | simp (maxDischargeDepth := 60) +contextual only [keeps_ite, implies_true, keeps_arrayRead, keeps_emit,
        keeps_linkErr, keeps_unmappedEv, keeps_waitFor, keeps_wr, *])
    | (with_reducible intro _)
    | (simp only [])
    | split

theorem keeps_accResume {r0 s : State} (h : Keeps r0 s) : Keeps r0 (State.accResume s) := by
  unfold State.accResume
  refine keeps_vceResume (keeps_rshGo (keeps_escResume (keeps_kvResume (keeps_collResume (keeps_foldl _ _ _ (keeps_mk h)
    fun t w ht => ?_)))))
  split
  · exact keeps_ite (fun _ => keeps_collArrive ht ..) (fun _ => keeps_txn ht ..)
  · exact keeps_memAcc ht ..
  · exact keeps_lpRequest ht ..

theorem keeps_execUpdateLayerWrite {r0 s : State} (h : Keeps r0 s) (ld n : Nat) : KeepsR r0 (execUpdateLayerWrite ld n s) := by
  unfold execUpdateLayerWrite
  simp (maxDischargeDepth := 60) +contextual only [KeepsR_next, KeepsR_onUnit, keeps_accResume, keeps_updGo, *]

theorem keeps_execLedgerMemoryRequest {r0 s : State} (h : Keeps r0 s) (by_ : Agent) (old : Bool) (da : Nat) (write : Bool) (data :
    List Byte) (err link : Nat) : KeepsR r0 (execLedgerMemoryRequest by_ old da write data err link s) := by
  unfold execLedgerMemoryRequest
  simp (maxDischargeDepth := 60) +contextual only [keeps_ite, implies_true, KeepsR_next, keeps_emit, keeps_lpRequest,
      keeps_unmappedEv, *]

theorem keeps_scrub {r0 s : State} (h : Keeps r0 s) (ld err : Nat) : Keeps r0 (State.scrub s ld err) := by
  unfold State.scrub
  repeat' first
    | (with_reducible assumption)
    | (solve | simp (maxDischargeDepth := 60) +contextual only [keeps_ite, implies_true, keeps_mk, keeps_arrayRead, keeps_tick,
        *])
    | (with_reducible intro _)
    | (simp only [])
    | split

theorem keeps_execScrubRead {r0 s : State} (h : Keeps r0 s) (ld err : Nat) : KeepsR r0 (execScrubRead ld err s) := by
  unfold execScrubRead
  simp (maxDischargeDepth := 60) +contextual only [KeepsR_next, KeepsR_onUnit, keeps_scrub, *]

theorem keeps_execRefresh {r0 s : State} (h : Keeps r0 s) (ld : Nat) : KeepsR r0 (execRefresh ld s) := by
  unfold execRefresh
  simp (maxDischargeDepth := 60) +contextual only [KeepsR_next, KeepsR_onUnit, *]

theorem keeps_setCal {r0 s : State} (h : Keeps r0 s) (l : List (Nat × Nat)) : Keeps r0 (State.setCal s l) := by
  unfold State.setCal
  simp (maxDischargeDepth := 60) +contextual only [keeps_mk, *]

theorem keeps_calBegin {r0 s : State} (h : Keeps r0 s) (ld mask : Nat) : Keeps r0 (State.calBegin s ld mask) := by
  unfold State.calBegin
  simp (maxDischargeDepth := 60) +contextual only [keeps_ite, implies_true, keeps_mk, keeps_set, keeps_setCal, *]

theorem keeps_execCalibrationStart {r0 s : State} (h : Keeps r0 s) (ld mask : Nat) : KeepsR r0 (execCalibrationStart ld mask s)
    := by
  unfold execCalibrationStart
  simp (maxDischargeDepth := 60) +contextual only [KeepsR_next, KeepsR_onUnit, keeps_calBegin, *]

theorem keeps_calChannel {r0 s : State} (h : Keeps r0 s) (ld ch : Nat) (ok : Bool) : Keeps r0 (State.calChannel s ld ch ok) := by
  unfold State.calChannel
  simp (maxDischargeDepth := 60) +contextual only [keeps_ite, implies_true, keeps_failDevice, keeps_log', keeps_setBit, *]

theorem keeps_calEnd {r0 s : State} (h : Keeps r0 s) (dev failed : Nat) : Keeps r0 (State.calEnd s dev failed) := by
  unfold State.calEnd
  simp (maxDischargeDepth := 60) +contextual only [keeps_ite, implies_true, keeps_foldl, keeps_accResume, keeps_bump,
      keeps_calChannel, keeps_set, keeps_setCal, *]

theorem keeps_execCalibrationComplete {r0 s : State} (h : Keeps r0 s) (dev failed : Nat) : KeepsR r0 (execCalibrationComplete dev
    failed s) := by
  unfold execCalibrationComplete
  simp (maxDischargeDepth := 60) +contextual only [KeepsR_next, KeepsR_onUnit, keeps_calEnd, *]

theorem keeps_calAll {r0 s : State} (h : Keeps r0 s) (ld fails : Nat) : Keeps r0 (State.calAll s ld fails) := by
  unfold State.calAll
  simp (maxDischargeDepth := 60) +contextual only [implies_true, keeps_foldl, keeps_bump, keeps_calChannel, keeps_set,
      keeps_setCal, *]

theorem keeps_lpTrain {r0 s : State} (h : Keeps r0 s) (ld : Nat) (types : List Nat) (bad : Option Nat) : Keeps r0 (State.lpTrain s
    ld types bad) := by
  unfold State.lpTrain
  split
  · exact keeps_startFail (keeps_log' (keeps_set h ..) ..) ..
  · extract_lets +onlyGivenNames i t
    have ht : Keeps r0 t := ⟨h.pending, h.mem, h.poison, h.flds, h.ident, h.free, h.out⟩
    exact keeps_set (keeps_set ht ..) ..

theorem keeps_execLpddr6Training {r0 s : State} (h : Keeps r0 s) (ld : Nat) (types : List Nat) (bad : Option Nat) : KeepsR r0
    (execLpddr6Training ld types bad s) := by
  unfold execLpddr6Training
  simp (maxDischargeDepth := 60) +contextual only [keeps_ite, implies_true, KeepsR_next, KeepsR_onUnit, keeps_lpTrain, *]

/-! ### Clk.lean -/

theorem keeps_hostLink {r0 s : State} (h : Keeps r0 s) (link : Nat) (up : Bool) (rate width : Nat) (flit : Bool) : Keeps r0
    (State.hostLink s link up rate width flit) := by
  unfold State.hostLink
  simp (maxDischargeDepth := 60) +contextual only [keeps_ite, implies_true, keeps_log', keeps_set, *]

theorem keeps_refFault {r0 s : State} (h : Keeps r0 s) (half cause : Nat) : Keeps r0 (State.refFault s half cause) := by
  unfold State.refFault
  simp (maxDischargeDepth := 60) +contextual only [keeps_ite, implies_true, keeps_mk, keeps_foldl, keeps_bump, keeps_emit,
      keeps_hostLink, keeps_log', keeps_portDown, keeps_set, keeps_setCal, keeps_vceSync, *]

theorem keeps_execRefMonitorWindow {r0 s : State} (h : Keeps r0 s) (half count : Nat) : KeepsR r0 (execRefMonitorWindow half count
    s) := by
  unfold execRefMonitorWindow
  simp (maxDischargeDepth := 60) +contextual only [keeps_ite, implies_true, KeepsR_next, keepsR_ite, KeepsR_onUnit,
      keeps_refFault, keeps_set, *]

theorem keeps_execRefMissingEdge {r0 s : State} (h : Keeps r0 s) (half : Nat) : KeepsR r0 (execRefMissingEdge half s) := by
  unfold execRefMissingEdge
  simp (maxDischargeDepth := 60) +contextual only [keeps_ite, implies_true, KeepsR_next, KeepsR_onUnit, keeps_refFault, *]

theorem keeps_execRefRecovered {r0 s : State} (h : Keeps r0 s) (half : Nat) : KeepsR r0 (execRefRecovered half s) := by
  unfold execRefRecovered
  simp (maxDischargeDepth := 60) +contextual only [keeps_ite, implies_true, KeepsR_next, KeepsR_onUnit, keeps_log', keeps_set,
      *]

theorem keeps_execWatchCalibrationComplete {r0 s : State} (h : Keeps r0 s) (half count : Nat) : KeepsR r0
    (execWatchCalibrationComplete half count s) := by
  unfold execWatchCalibrationComplete
  simp (maxDischargeDepth := 60) +contextual only [keeps_ite, implies_true, KeepsR_next, KeepsR_onUnit, keeps_set, *]

theorem keeps_gateDone {r0 s : State} (h : Keeps r0 s) (node st blocker : Nat) : Keeps r0 (State.gateDone s node st blocker) := by
  unfold State.gateDone
  simp (maxDischargeDepth := 60) +contextual only [keeps_ite, implies_true, keeps_log', keeps_set, *]

theorem keeps_gate {r0 s : State} (h : Keeps r0 s) (n : Nat) : Keeps r0 (State.gate s n) := by
  unfold State.gate
  repeat' first
    | (with_reducible assumption)
    | (solve | simp (maxDischargeDepth := 60) +contextual only [implies_true, keeps_mk, keeps_gateDone, *])
    | (with_reducible intro _)
    | (simp only [])
    | split

theorem keeps_ungate {r0 s : State} (h : Keeps r0 s) (n : Nat) : Keeps r0 (State.ungate s n) := by
  unfold State.ungate
  simp (maxDischargeDepth := 60) +contextual only [keeps_ite, implies_true, keeps_mk, keeps_gateDone, *]

theorem keeps_execClkGate {r0 s : State} (h : Keeps r0 s) (_by : Agent) (node : Nat) : KeepsR r0 (execClkGate _by node s) := by
  unfold execClkGate
  simp (maxDischargeDepth := 60) +contextual only [KeepsR_next, keeps_gate, *]

theorem keeps_execClkUngate {r0 s : State} (h : Keeps r0 s) (_by : Agent) (node : Nat) : KeepsR r0 (execClkUngate _by node s)
    := by
  unfold execClkUngate
  simp (maxDischargeDepth := 60) +contextual only [KeepsR_next, keeps_ungate, *]

theorem keeps_dbgWrite {r0 s : State} (h : Keeps r0 s) (val : Word) : Keeps r0 (State.dbgWrite s val) := by
  unfold State.dbgWrite
  repeat' first
    | (with_reducible assumption)
    | (solve | simp (maxDischargeDepth := 60) +contextual only [keeps_ite, implies_true, keeps_set, *])
    | (with_reducible intro _)
    | (simp only [])
    | split

theorem keeps_execClkDbgWrite {r0 s : State} (h : Keeps r0 s) (_by : Agent) (val : Word) : KeepsR r0 (execClkDbgWrite _by val s)
    := by
  unfold execClkDbgWrite
  simp (maxDischargeDepth := 60) +contextual only [KeepsR_next, keeps_dbgWrite, *]

theorem keeps_powerSelect {r0 s : State} (h : Keeps r0 s) : Keeps r0 (State.powerSelect s) := by
  unfold State.powerSelect
  repeat' first
    | (with_reducible assumption)
    | (solve | simp (maxDischargeDepth := 60) +contextual only [keeps_ite, implies_true, keeps_mk, keeps_set, keeps_wake, *])
    | (with_reducible intro _)
    | (simp only [])
    | split

theorem keeps_powerEv {r0 s : State} (h : Keeps r0 s) (q : Nat) : Keeps r0 (State.powerEv s q) := by
  unfold State.powerEv
  simp (maxDischargeDepth := 60) +contextual only [keeps_log', *]

theorem keeps_granaryFlush {r0 s : State} (h : Keeps r0 s) (r : Region) : Keeps r0 (State.granaryFlush s r) :=
  keeps_mkm h (fun w => Mem.wf_foldl _ _ (fun _ _ hm => Mem.wf_write _ _ _ hm) _ (Mem.wf_foldl _ _ (fun _ _ hm => Mem.wf_zero
      _ _ _ hm) _ w))
    (fun w => poison_inserts _ (poison_filter _ w))

theorem keeps_granaryBack {r0 s : State} (h : Keeps r0 s) (r : Region) (ue : List Nat) : Keeps r0 (State.granaryBack s r ue) := by
  unfold State.granaryBack
  refine keeps_mkm h (fun w => Mem.wf_foldl _ _ (fun m c hm => ?_) _ (Mem.wf_zero _ _ _ w)) (fun w => poison_inserts _
      (poison_filter _ w))
  split
  · exact Mem.wf_write _ _ _ hm
  · exact hm

theorem keeps_sramLost {r0 s : State} (h : Keeps r0 s) : Keeps r0 (State.sramLost s) :=
  keeps_mkm h (fun w => Mem.wf_filter _ _ w) (fun w => poison_filter _ w)

theorem keeps_powerEnter {r0 s : State} (h : Keeps r0 s) : Keeps r0 (State.powerEnter s) := by
  unfold State.powerEnter
  repeat' first
    | (with_reducible assumption)
    | (solve | simp (maxDischargeDepth := 60) +contextual only [keeps_ite, implies_true, keeps_mkm, Mem.wf_zero, poison_filter,
        keeps_foldl, keeps_bump, keeps_granaryFlush, keeps_portDown, keeps_powerEv, keeps_set, keeps_setCal, keeps_sramLost,
        keeps_vceSync, keeps_wake, *])
    | (with_reducible intro _)
    | (with_reducible refine keeps_foldl _ _ _ ?_ ?_)
    | (simp only [])
    | split

theorem keeps_execPowerEntryComplete {r0 s : State} (h : Keeps r0 s) : KeepsR r0 (execPowerEntryComplete s) := by
  unfold execPowerEntryComplete
  simp (maxDischargeDepth := 60) +contextual only [KeepsR_next, keeps_powerEnter, *]

theorem keeps_execPowerExit {r0 s : State} (h : Keeps r0 s) (cause : Nat) : KeepsR r0 (execPowerExit cause s) := by
  unfold execPowerExit
  simp (maxDischargeDepth := 60) +contextual only [keeps_ite, implies_true, KeepsR_next, keeps_wake, *]

theorem keeps_runClock {r0 s : State} (h : Keeps r0 s) : Keeps r0 (State.runClock s) := by
  unfold State.runClock
  simp (maxDischargeDepth := 60) +contextual only [keeps_ite, implies_true, keeps_set, *]

theorem keeps_powerLeave {r0 s : State} (h : Keeps r0 s) (ue fails : List Nat) : Keeps r0 (State.powerLeave s ue fails) := by
  unfold State.powerLeave
  split
  · exact h
  extract_lets +onlyGivenNames q c t u v w c' x
  have ht : Keeps r0 t := keeps_mk h
  have hu : Keeps r0 u := keeps_ite (fun _ => keeps_foldl _ _ _ ht fun _ _ hs => keeps_ite (fun _ => keeps_calAll hs ..) (fun
      _ => hs))
    (fun _ => ht)
  have hv : Keeps r0 v := by
    refine keeps_ite (fun _ => ?_) (fun _ => hu)
    split
    · exact keeps_granaryBack hu ..
    · exact hu
  have hx : Keeps r0 x := keeps_mk (keeps_set (keeps_powerEv hv ..) ..)
  exact keeps_accResume (keeps_vceSync (keeps_runClock (keeps_ite (fun _ => keeps_startPorts hx) (fun _ => hx))))

theorem keeps_execQ1ClusterGate {r0 s : State} (h : Keeps r0 s) (clu : Nat) : KeepsR r0 (execQ1ClusterGate clu s) := by
  unfold execQ1ClusterGate
  simp (maxDischargeDepth := 60) +contextual only [keeps_ite, implies_true, keeps_mk, KeepsR_next, KeepsR_onUnit, keeps_set, *]

theorem keeps_limitEv {r0 s : State} (h : Keeps r0 s) (ends : Nat) : Keeps r0 (State.limitEv s ends) := by
  unfold State.limitEv
  simp (maxDischargeDepth := 60) +contextual only [keeps_ite, implies_true, keeps_irq, keeps_log', *]

theorem keeps_capMove {r0 s : State} (h : Keeps r0 s) (mhz : Nat) : Keeps r0 (State.capMove s mhz) := by
  unfold State.capMove
  simp (maxDischargeDepth := 60) +contextual only [keeps_ite, implies_true, keeps_mk, keeps_limitEv, keeps_runClock, keeps_set,
      *]

theorem keeps_capFloor {r0 s : State} (h : Keeps r0 s) : Keeps r0 (State.capFloor s) := by
  unfold State.capFloor
  simp (maxDischargeDepth := 60) +contextual only [keeps_ite, implies_true, keeps_mk, keeps_irq, keeps_log', *]

theorem keeps_execCapStep {r0 s : State} (h : Keeps r0 s) (pkg : Nat) : KeepsR r0 (execCapStep pkg s) := by
  unfold execCapStep
  simp (maxDischargeDepth := 60) +contextual only [keeps_ite, implies_true, KeepsR_next, keeps_capFloor, keeps_capMove,
      keeps_set, *]

theorem keeps_thermEv {r0 s : State} (h : Keeps r0 s) (ends die : Nat) : Keeps r0 (State.thermEv s ends die) := by
  unfold State.thermEv
  simp (maxDischargeDepth := 60) +contextual only [keeps_ite, implies_true, keeps_irq, keeps_log', *]

theorem keeps_execThermalStep {r0 s : State} (h : Keeps r0 s) (die tj : Nat) : KeepsR r0 (execThermalStep die tj s) := by
  unfold execThermalStep
  simp (maxDischargeDepth := 60) +contextual only [keeps_ite, implies_true, keeps_mk, KeepsR_next, keeps_runClock, keeps_set,
      keeps_thermEv, *]

theorem keeps_capWrite {r0 s : State} (h : Keeps r0 s) (val : Word) : Keeps r0 (State.capWrite s val) := by
  unfold State.capWrite
  simp (maxDischargeDepth := 60) +contextual only [keeps_ite, implies_true, keeps_log', keeps_set, *]

theorem keeps_execPwrCapWrite {r0 s : State} (h : Keeps r0 s) (_by : Agent) (val : Word) : KeepsR r0 (execPwrCapWrite _by val s)
    := by
  unfold execPwrCapWrite
  simp (maxDischargeDepth := 60) +contextual only [KeepsR_next, keeps_capWrite, *]

theorem keeps_latWrite {r0 s : State} (h : Keeps r0 s) (val : Word) : Keeps r0 (State.latWrite s val) := by
  unfold State.latWrite
  simp (maxDischargeDepth := 60) +contextual only [keeps_ite, implies_true, keeps_set, keeps_wake, *]

theorem keeps_execPwrLatTolWrite {r0 s : State} (h : Keeps r0 s) (_by : Agent) (val : Word) : KeepsR r0 (execPwrLatTolWrite _by
    val s) := by
  unfold execPwrLatTolWrite
  simp (maxDischargeDepth := 60) +contextual only [KeepsR_next, keeps_latWrite, *]

end Sys2Proof.Machine
end

