-- ==== Sys2Proof/Laws/Keep7.lean ====
section
/-! SUPPORT. What every operation keeps: the structure, the seal, security and the host. -/
namespace Sys2Proof.Machine

/-! ### Str.lean -/

theorem keeps_mapStr {r0 s : State} (h : Keeps r0 s) (f : StrSt → StrSt) : Keeps r0 (State.mapStr s f) := by
  unfold State.mapStr
  simp (maxDischargeDepth := 60) +contextual only [keeps_mk, *]

theorem keeps_rwlBack {r0 s : State} (h : Keeps r0 s) : Keeps r0 (State.rwlBack s) := by
  unfold State.rwlBack
  simp (maxDischargeDepth := 60) +contextual only [keeps_ite, implies_true, keeps_foldl, keeps_beatRole, keeps_mapStr,
      keeps_set, *]

theorem keeps_syncGroup {r0 s : State} (h : Keeps r0 s) : Keeps r0 (State.syncGroup s) := by
  unfold State.syncGroup
  simp (maxDischargeDepth := 60) +contextual only [keeps_set, *]

theorem keeps_pendClear {r0 s : State} (h : Keeps r0 s) : Keeps r0 (State.pendClear s) := by
  unfold State.pendClear
  simp (maxDischargeDepth := 60) +contextual only [keeps_mapStr, keeps_set, keeps_syncGroup, *]

theorem keeps_strIdle {r0 s : State} (h : Keeps r0 s) (last : Nat) : Keeps r0 (State.strIdle s last) := by
  unfold State.strIdle
  simp (maxDischargeDepth := 60) +contextual only [keeps_irq, keeps_set, *]

theorem keeps_strRefuse {r0 s : State} (h : Keeps r0 s) (epoch code unit sec off : Nat) : Keeps r0 (State.strRefuse s epoch code
    unit sec off) := by
  unfold State.strRefuse
  simp (maxDischargeDepth := 60) +contextual only [keeps_log', keeps_pendClear, keeps_rwlBack, keeps_set, keeps_strIdle, *]

theorem keeps_strPrepare {r0 s : State} (h : Keeps r0 s) : Keeps r0 (State.strPrepare s) := by
  unfold State.strPrepare
  repeat' first
    | (with_reducible assumption)
    | (solve | simp (maxDischargeDepth := 60) +contextual only [implies_true, keeps_mapStr, keeps_pendClear, keeps_set,
        keeps_strRefuse, keeps_syncGroup, keeps_syncMissing, *])
    | (with_reducible intro _)
    | (simp only [])
    | split

theorem keeps_execStrPrepareGo {r0 s : State} (h : Keeps r0 s) (by_ : Agent) : KeepsR r0 (execStrPrepareGo by_ s) := by
  unfold execStrPrepareGo
  simp (maxDischargeDepth := 60) +contextual only [implies_true, KeepsR_next, keeps_strPrepare, keeps_whenReady, *]

theorem keeps_unitArm {r0 s : State} (h : Keeps r0 s) (u : Nat) : Keeps r0 (State.unitArm s u) := by
  unfold State.unitArm
  repeat' first
    | (with_reducible assumption)
    | (solve | simp (maxDischargeDepth := 60) +contextual only [implies_true, keeps_setArmed, keeps_strRefuse,
        keeps_syncMissing, *])
    | (with_reducible intro _)
    | (simp only [])
    | split

theorem keeps_execUnitArm {r0 s : State} (h : Keeps r0 s) (u : Nat) : KeepsR r0 (execUnitArm u s) := by
  unfold execUnitArm
  simp (maxDischargeDepth := 60) +contextual only [KeepsR_next, KeepsR_onUnit, keeps_unitArm, *]

theorem keeps_strAbort {r0 s : State} (h : Keeps r0 s) (who : Nat) : Keeps r0 (State.strAbort s who) := by
  unfold State.strAbort
  simp (maxDischargeDepth := 60) +contextual only [keeps_ite, implies_true, keeps_irq, keeps_log', keeps_mapStr,
      keeps_pendClear, keeps_rwlBack, keeps_set, keeps_syncGroup, *]

theorem keeps_strAbandon {r0 s : State} (h : Keeps r0 s) : Keeps r0 (State.strAbandon s) := by
  unfold State.strAbandon
  simp (maxDischargeDepth := 60) +contextual only [keeps_ite, implies_true, keeps_log', keeps_mapStr, keeps_pendClear,
      keeps_rwlBack, keeps_strIdle, *]

theorem keeps_execStrAbandon {r0 s : State} (h : Keeps r0 s) (by_ : Agent) : KeepsR r0 (execStrAbandon by_ s) := by
  unfold execStrAbandon
  simp (maxDischargeDepth := 60) +contextual only [implies_true, KeepsR_next, keeps_strAbandon, keeps_whenReady, *]

theorem keeps_strTell {r0 s : State} (h : Keeps r0 s) (m : Msg) : Keeps r0 (State.strTell s m) := by
  unfold State.strTell
  simp (maxDischargeDepth := 60) +contextual only [keeps_tc0All, *]

theorem keeps_sendReady {r0 s : State} (h : Keeps r0 s) : Keeps r0 (State.sendReady s) := by
  unfold State.sendReady
  simp (maxDischargeDepth := 60) +contextual only [keeps_ite, implies_true, keeps_mapStr, keeps_strTell, *]

theorem keeps_strCommit {r0 s : State} (h : Keeps r0 s) (val : Word) : Keeps r0 (State.strCommit s val) := by
  unfold State.strCommit
  repeat' first
    | (with_reducible assumption)
    | (solve | simp (maxDischargeDepth := 60) +contextual only [keeps_mapStr, keeps_sendReady, keeps_set, keeps_syncGroup, *])
    | (with_reducible intro _)
    | (simp only [])
    | split

theorem keeps_execStrCommitGo {r0 s : State} (h : Keeps r0 s) (val : Word) : KeepsR r0 (execStrCommitGo val s) := by
  unfold execStrCommitGo
  simp (maxDischargeDepth := 60) +contextual only [keeps_ite, implies_true, KeepsR_next, keeps_strCommit, *]

theorem keeps_execCommitReadyReceive {r0 s : State} (h : Keeps r0 s) (dev b epoch lat : Nat) : KeepsR r0 (execCommitReadyReceive
    dev b epoch lat s) := by
  unfold execCommitReadyReceive
  simp (maxDischargeDepth := 60) +contextual only [keeps_ite, implies_true, KeepsR_next, keeps_mapStr, keeps_syncGroup,
      keeps_tc0In, *]

theorem keeps_strCutoff {r0 s : State} (h : Keeps r0 s) : Keeps r0 (State.strCutoff s) := by
  unfold State.strCutoff
  repeat' first
    | (with_reducible assumption)
    | (solve | simp (maxDischargeDepth := 60) +contextual only [keeps_ite, implies_true, keeps_mapStr, keeps_strAbort,
        keeps_strTell, *])
    | (with_reducible intro _)
    | (simp only [])
    | split

theorem keeps_abortDue {r0 s : State} (h : Keeps r0 s) : Keeps r0 (State.abortDue s) := by
  unfold State.abortDue
  simp (maxDischargeDepth := 60) +contextual only [keeps_ite, implies_true, keeps_strAbort, keeps_strTell, *]

theorem keeps_execBeatSourceLost {r0 s : State} (h : Keeps r0 s) : KeepsR r0 (execBeatSourceLost s) := by
  unfold execBeatSourceLost
  simp (maxDischargeDepth := 60) +contextual only [KeepsR_next, keeps_abortDue, keeps_sourceLost, *]

theorem keeps_execCommitCutoff {r0 s : State} (h : Keeps r0 s) : KeepsR r0 (execCommitCutoff s) := by
  unfold execCommitCutoff
  simp (maxDischargeDepth := 60) +contextual only [KeepsR_next, keeps_strCutoff, *]

theorem keeps_execJobAbortReceive {r0 s : State} (h : Keeps r0 s) (dev b lat : Nat) : KeepsR r0 (execJobAbortReceive dev b lat s)
    := by
  unfold execJobAbortReceive
  simp (maxDischargeDepth := 60) +contextual only [keeps_ite, implies_true, KeepsR_next, keeps_mapStr, keeps_strAbort,
      keeps_syncGroup, keeps_tc0In, *]

theorem keeps_strFreeze {r0 s : State} (h : Keeps r0 s) (F : Nat) : Keeps r0 (State.strFreeze s F) := by
  unfold State.strFreeze
  simp (maxDischargeDepth := 60) +contextual only [keeps_ite, implies_true, keeps_set, keeps_strAbort, keeps_strTell,
      keeps_syncMissing, *]

theorem keeps_strDone {r0 s : State} (h : Keeps r0 s) : Keeps r0 (State.strDone s) := by
  unfold State.strDone
  simp (maxDischargeDepth := 60) +contextual only [keeps_ite, implies_true, keeps_log', keeps_strIdle, *]

theorem keeps_unitDrain {r0 s : State} (h : Keeps r0 s) (u : Nat) : Keeps r0 (State.unitDrain s u) := by
  unfold State.unitDrain
  repeat' first
    | (with_reducible assumption)
    | (solve | simp (maxDischargeDepth := 60) +contextual only [keeps_mapStr, keeps_stookCommit, keeps_strDone, *])
    | (with_reducible intro _)
    | (simp only [])
    | split

theorem keeps_execStrDrainComplete {r0 s : State} (h : Keeps r0 s) (u : Nat) : KeepsR r0 (execStrDrainComplete u s) := by
  unfold execStrDrainComplete
  simp (maxDischargeDepth := 60) +contextual only [KeepsR_next, KeepsR_onUnit, keeps_unitDrain, *]

theorem keeps_qForced {r0 s : State} (h : Keeps r0 s) (q : Nat) (v : QD) : Keeps r0 (State.qForced s q v) := by
  unfold State.qForced
  repeat' first
    | (with_reducible assumption)
    | (solve | simp (maxDischargeDepth := 60) +contextual only [keeps_ite, implies_true, keeps_mk, keeps_qDone, *])
    | (with_reducible intro _)
    | (simp only [])
    | split

theorem keeps_qForce {r0 s : State} (h : Keeps r0 s) (q : Nat) : Keeps r0 (State.qForce s q) := by
  unfold State.qForce
  repeat' first
    | (with_reducible assumption)
    | (solve | simp (maxDischargeDepth := 60) +contextual only [keeps_qEndPacket, keeps_qForced, keeps_qOff, keeps_qSetOn, *])
    | (with_reducible intro _)
    | (simp only [])
    | split

theorem keeps_qRegionChange {r0 s : State} (h : Keeps r0 s) : Keeps r0 (State.qRegionChange s) := by
  unfold State.qRegionChange
  simp (maxDischargeDepth := 60) +contextual only [keeps_ite, implies_true, keeps_mk, keeps_foldl, keeps_qDisabledEv,
      keeps_qForce, *]

theorem keeps_qKeepTable {r0 s : State} (h : Keeps r0 s) (old : List QRange) : Keeps r0 (State.qKeepTable s old) := by
  unfold State.qKeepTable
  repeat' first
    | (with_reducible assumption)
    | (solve | simp (maxDischargeDepth := 60) +contextual only [keeps_ite, implies_true, keeps_mk, keeps_qBoundary,
        keeps_qDisabledEv, keeps_qForce, *])
    | (with_reducible intro _)
    | (with_reducible refine keeps_foldl _ _ _ ?_ ?_)
    | (simp only [])
    | split

theorem keeps_extendM3 {r0 s : State} (h : Keeps r0 s) (epoch variant : Nat) : Keeps r0 (State.extendM3 s epoch variant) := by
  unfold State.extendM3
  simp (maxDischargeDepth := 60) +contextual only [keeps_ite, implies_true, keeps_mkm, *]

theorem keeps_strBanks {r0 s : State} (h : Keeps r0 s) (good : List Nat) (variant : Nat) : Keeps r0 (State.strBanks s good
    variant) := by
  unfold State.strBanks
  simp (maxDischargeDepth := 60) +contextual only [keeps_mapStr, *]

theorem keeps_strFence {r0 s : State} (h : Keeps r0 s) (epoch u : Nat) : Keeps r0 (State.strFence s epoch u) := by
  unfold State.strFence
  repeat' first
    | (with_reducible assumption)
    | (solve | simp (maxDischargeDepth := 60) +contextual only [keeps_clusterLost, keeps_failDevice, keeps_log', keeps_mapStr,
        keeps_setBit, *])
    | (with_reducible intro _)
    | (simp only [])
    | split

theorem keeps_powerCommit {r0 s : State} (h : Keeps r0 s) : Keeps r0 (State.powerCommit s) := by
  unfold State.powerCommit
  simp (maxDischargeDepth := 60) +contextual only [keeps_ite, implies_true, keeps_set, *]

theorem keeps_idCommit {r0 s : State} (h : Keeps r0 s) : Keeps r0 (State.idCommit s) := by
  unfold State.idCommit
  simp (maxDischargeDepth := 60) +contextual only [keeps_set, *]

theorem keeps_strHooks {r0 s : State} (h : Keeps r0 s) (old : State) : Keeps r0 (State.strHooks s old) := by
  unfold State.strHooks
  simp (maxDischargeDepth := 60) +contextual only [keeps_ite, implies_true, keeps_mk, keeps_foldl, keeps_applyMap,
      keeps_beatCommit, keeps_escCommit, keeps_idCommit, keeps_kvSwitch, keeps_mapBeat, keeps_powerCommit, keeps_qKeepTable,
      keeps_recheckPorts, keeps_setPeriod, keeps_steerSeed, keeps_stookCommit, keeps_stookSwitch, keeps_vceCommit,
      keeps_winEndGather, *]

theorem keeps_strSwitch {r0 s : State} (h : Keeps r0 s) (failed : List Nat) : Keeps r0 (State.strSwitch s failed) := by
  unfold State.strSwitch
  simp (maxDischargeDepth := 60) +contextual only [keeps_ite, implies_true, keeps_foldl, keeps_extendM3, keeps_mapStr,
      keeps_pendClear, keeps_qRegionChange, keeps_set, keeps_strBanks, keeps_strDone, keeps_strFence, keeps_strHooks, *]

theorem keeps_execCommitBeatSwitch {r0 s : State} (h : Keeps r0 s) (failed : List Nat) : KeepsR r0 (execCommitBeatSwitch failed s)
    := by
  unfold execCommitBeatSwitch
  simp (maxDischargeDepth := 60) +contextual only [KeepsR_next, keeps_strCutoff, keeps_strSwitch, *]

theorem keeps_readyExpire {r0 s : State} (h : Keeps r0 s) : Keeps r0 (State.readyExpire s) := by
  unfold State.readyExpire
  simp (maxDischargeDepth := 60) +contextual only [keeps_ite, implies_true, keeps_mapStr, keeps_syncGroup, *]

theorem keeps_strHandover {r0 s : State} (h : Keeps r0 s) : Keeps r0 (State.strHandover s) := by
  unfold State.strHandover
  simp (maxDischargeDepth := 60) +contextual only [keeps_ite, implies_true, keeps_pendClear, keeps_rwlBack, keeps_strIdle, *]

theorem keeps_freezeEffective {r0 s : State} (h : Keeps r0 s) : Keeps r0 (State.freezeEffective s) := by
  unfold State.freezeEffective
  repeat' first
    | (with_reducible assumption)
    | (solve | simp (maxDischargeDepth := 60) +contextual only [keeps_ite, implies_true, keeps_escFreeze, keeps_strFreeze,
        keeps_vceSync, *])
    | (with_reducible intro _)
    | (simp only [])
    | split

theorem keeps_execFreezeEffective {r0 s : State} (h : Keeps r0 s) : KeepsR r0 (execFreezeEffective s) := by
  unfold execFreezeEffective
  simp (maxDischargeDepth := 60) +contextual only [KeepsR_next, keeps_freezeEffective, *]

/-! ### Seal.lean -/

theorem keeps_mapSeal {r0 s : State} (h : Keeps r0 s) (f : SealSt → SealSt) : Keeps r0 (State.mapSeal s f) := by
  unfold State.mapSeal
  simp (maxDischargeDepth := 60) +contextual only [keeps_mk, *]

theorem keeps_setComplex {r0 s : State} (h : Keeps r0 s) (half v : Nat) : Keeps r0 (State.setComplex s half v) := by
  unfold State.setComplex
  simp (maxDischargeDepth := 60) +contextual only [keeps_ite, implies_true, keeps_set, *]

theorem keeps_syncComplex {r0 s : State} (h : Keeps r0 s) : Keeps r0 (State.syncComplex s) := by
  unfold State.syncComplex
  simp (maxDischargeDepth := 60) +contextual only [keeps_ite, implies_true, keeps_foldl, keeps_setComplex, *]

theorem keeps_sealTo {r0 s : State} (h : Keeps r0 s) (half seq : Nat) : Keeps r0 (State.sealTo s half seq) := by
  unfold State.sealTo
  simp (maxDischargeDepth := 60) +contextual only [keeps_ite, implies_true, keeps_irq, keeps_mapSeal, keeps_set,
      keeps_syncComplex, *]

theorem keeps_sealClaim {r0 s : State} (h : Keeps r0 s) (half cause : Nat) : Keeps r0 (State.sealClaim s half cause) := by
  unfold State.sealClaim
  repeat' first
    | (with_reducible assumption)
    | (solve | simp (maxDischargeDepth := 60) +contextual only [keeps_ite, implies_true, keeps_emit, keeps_log', keeps_logMove,
        keeps_logStart, keeps_logTake, keeps_mapSeal, keeps_sealTo, *])
    | (with_reducible intro _)
    | (simp only [])
    | split

theorem keeps_execSealStrapClaim {r0 s : State} (h : Keeps r0 s) (half : Nat) : KeepsR r0 (execSealStrapClaim half s) := by
  unfold execSealStrapClaim
  simp (maxDischargeDepth := 60) +contextual only [keeps_ite, implies_true, KeepsR_next, keeps_sealClaim, *]

theorem keeps_execSealFallbackClaim {r0 s : State} (h : Keeps r0 s) (half : Nat) : KeepsR r0 (execSealFallbackClaim half s) := by
  unfold execSealFallbackClaim
  simp (maxDischargeDepth := 60) +contextual only [keeps_ite, implies_true, KeepsR_next, keeps_sealClaim, *]

theorem keeps_execSealHeartbeatSend {r0 s : State} (h : Keeps r0 s) (half : Nat) : KeepsR r0 (execSealHeartbeatSend half s) := by
  unfold execSealHeartbeatSend
  repeat' first
    | (with_reducible assumption)
    | (solve | simp (maxDischargeDepth := 60) +contextual only [keeps_ite, implies_true, KeepsR_next, keeps_emit, *])
    | (with_reducible intro _)
    | (with_reducible apply KeepsR_onUnit)
    | (with_reducible rw [KeepsR_next])
    | (simp only [])
    | split

theorem keeps_execSealHeartbeatReceive {r0 s : State} (h : Keeps r0 s) (half : Nat) : KeepsR r0 (execSealHeartbeatReceive half s)
    := by
  unfold execSealHeartbeatReceive
  simp (maxDischargeDepth := 60) +contextual only [keeps_ite, implies_true, KeepsR_next, keeps_mapSeal, *]

theorem keeps_execSealLostClaim {r0 s : State} (h : Keeps r0 s) (half : Nat) : KeepsR r0 (execSealLostClaim half s) := by
  unfold execSealLostClaim
  repeat' first
    | (with_reducible assumption)
    | (solve | simp (maxDischargeDepth := 60) +contextual only [keeps_ite, implies_true, KeepsR_next, keeps_sealClaim, *])
    | (with_reducible intro _)
    | (with_reducible apply KeepsR_onUnit)
    | (with_reducible rw [KeepsR_next])
    | (simp only [])
    | split

theorem keeps_sealDispute {r0 s : State} (h : Keeps r0 s) : Keeps r0 (State.sealDispute s) := by
  unfold State.sealDispute
  repeat' first
    | (with_reducible assumption)
    | (solve | simp (maxDischargeDepth := 60) +contextual only [keeps_ite, implies_true, keeps_emit, keeps_irq, keeps_mapSeal,
        keeps_sealTo, keeps_set, *])
    | (with_reducible intro _)
    | (simp only [])
    | split

theorem keeps_execSealDispute {r0 s : State} (h : Keeps r0 s) : KeepsR r0 (execSealDispute s) := by
  unfold execSealDispute
  simp (maxDischargeDepth := 60) +contextual only [KeepsR_next, keeps_sealDispute, *]

theorem keeps_execSealClaimReceive {r0 s : State} (h : Keeps r0 s) (half seq : Nat) : KeepsR r0 (execSealClaimReceive half seq s)
    := by
  unfold execSealClaimReceive
  repeat' first
    | (with_reducible assumption)
    | (solve | simp (maxDischargeDepth := 60) +contextual only [keeps_ite, implies_true, KeepsR_next, keeps_mapSeal,
        keeps_sealDispute, *])
    | (with_reducible intro _)
    | (with_reducible apply KeepsR_onUnit)
    | (with_reducible rw [KeepsR_next])
    | (simp only [])
    | split

theorem keeps_sealResolve {r0 s : State} (h : Keeps r0 s) (winner : Nat) (grant : Option Nat) : Keeps r0 (State.sealResolve s
    winner grant) := by
  unfold State.sealResolve
  repeat' first
    | (with_reducible assumption)
    | (solve | simp (maxDischargeDepth := 60) +contextual only [keeps_ite, implies_true, keeps_mk, keeps_logMove,
        keeps_mapSeal, keeps_sealTo, keeps_setComplex, *])
    | (with_reducible intro _)
    | (simp only [])
    | split

theorem keeps_execSealDisputeTimeout {r0 s : State} (h : Keeps r0 s) : KeepsR r0 (execSealDisputeTimeout s) := by
  unfold execSealDisputeTimeout
  repeat' first
    | (with_reducible assumption)
    | (solve | simp (maxDischargeDepth := 60) +contextual only [keeps_ite, implies_true, KeepsR_next, keeps_sealResolve, *])
    | (with_reducible intro _)
    | (with_reducible apply KeepsR_onUnit)
    | (with_reducible rw [KeepsR_next])
    | (simp only [])
    | split

theorem keeps_execSealDisputeFreezeEnd {r0 s : State} (h : Keeps r0 s) : KeepsR r0 (execSealDisputeFreezeEnd s) := by
  unfold execSealDisputeFreezeEnd
  repeat' first
    | (with_reducible assumption)
    | (solve | simp (maxDischargeDepth := 60) +contextual only [keeps_ite, implies_true, keeps_foldl, KeepsR_next, keeps_emit,
        keeps_log', keeps_mapSeal, keeps_tc0, *])
    | (with_reducible intro _)
    | (with_reducible refine keeps_foldl _ _ _ ?_ ?_)
    | (with_reducible apply KeepsR_onUnit)
    | (with_reducible rw [KeepsR_next])
    | (simp only [])
    | split

theorem keeps_sealAbortEv {r0 s : State} (h : Keeps r0 s) (taker cause : Nat) : Keeps r0 (State.sealAbortEv s taker cause) := by
  unfold State.sealAbortEv
  simp (maxDischargeDepth := 60) +contextual only [keeps_log', *]

theorem keeps_sealOffer {r0 s : State} (h : Keeps r0 s) (byHost : Bool) : Keeps r0 (State.sealOffer s byHost) := by
  unfold State.sealOffer
  simp (maxDischargeDepth := 60) +contextual only [keeps_ite, implies_true, keeps_emit, keeps_mapSeal, keeps_sealAbortEv,
      keeps_set, keeps_strHandover, *]

theorem keeps_execSealOffer {r0 s : State} (h : Keeps r0 s) : KeepsR r0 (execSealOffer s) := by
  unfold execSealOffer
  simp (maxDischargeDepth := 60) +contextual only [KeepsR_next, keeps_sealOffer, *]

theorem keeps_sealGrant {r0 s : State} (h : Keeps r0 s) (link half : Nat) (alsoB : Option Nat) : Keeps r0 (State.sealGrant s link
    half alsoB) := by
  unfold State.sealGrant
  simp (maxDischargeDepth := 60) +contextual only [keeps_ite, implies_true, keeps_sealAbortEv, keeps_sealOffer,
      keeps_sealResolve, keeps_set, *]

theorem keeps_execSealHostGrant {r0 s : State} (h : Keeps r0 s) (link half : Nat) (alsoB : Option Nat) : KeepsR r0
    (execSealHostGrant link half alsoB s) := by
  unfold execSealHostGrant
  simp (maxDischargeDepth := 60) +contextual only [KeepsR_next, keeps_sealGrant, *]

theorem keeps_onOffer {r0 s : State} (h : Keeps r0 s) (f : SealOffer → State) (hf : ∀ o, Keeps r0 (f o)) : Keeps r0 (State.onOffer
    s f) := by
  unfold State.onOffer
  split
  · exact hf _
  · exact h

theorem keeps_setOffer {r0 s : State} (h : Keeps r0 s) (o : Option SealOffer) : Keeps r0 (State.setOffer s o) := by
  unfold State.setOffer
  simp (maxDischargeDepth := 60) +contextual only [keeps_mapSeal, *]

theorem keeps_execSealOfferReceive {r0 s : State} (h : Keeps r0 s) : KeepsR r0 (execSealOfferReceive s) := by
  unfold execSealOfferReceive
  simp (maxDischargeDepth := 60) +contextual only [keeps_ite, implies_true, KeepsR_next, keeps_onOffer, keeps_setOffer, *]

theorem keeps_sealAccept {r0 s : State} (h : Keeps r0 s) : Keeps r0 (State.sealAccept s) := by
  unfold State.sealAccept
  simp (maxDischargeDepth := 60) +contextual only [keeps_ite, implies_true, keeps_emit, keeps_onOffer, keeps_setOffer, *]

theorem keeps_execSealAccept {r0 s : State} (h : Keeps r0 s) : KeepsR r0 (execSealAccept s) := by
  unfold execSealAccept
  simp (maxDischargeDepth := 60) +contextual only [KeepsR_next, keeps_sealAccept, *]

theorem keeps_execSealAcceptReceive {r0 s : State} (h : Keeps r0 s) (ahead : Nat) : KeepsR r0 (execSealAcceptReceive ahead s)
    := by
  unfold execSealAcceptReceive
  simp (maxDischargeDepth := 60) +contextual only [keeps_ite, implies_true, KeepsR_next, keeps_emit, keeps_onOffer,
      keeps_setOffer, *]

theorem keeps_execSealCommitReceive {r0 s : State} (h : Keeps r0 s) (half seq h : Nat) : KeepsR r0 (execSealCommitReceive half seq
    h s) := by
  unfold execSealCommitReceive
  repeat' first
    | (with_reducible assumption)
    | (solve | simp (maxDischargeDepth := 60) +contextual only [keeps_ite, implies_true, KeepsR_next, keeps_onOffer,
        keeps_sealDispute, keeps_setOffer, *])
    | (with_reducible intro _)
    | (with_reducible apply keeps_onOffer)
    | (with_reducible apply KeepsR_onUnit)
    | (with_reducible rw [KeepsR_next])
    | (simp only [])
    | split

theorem keeps_execSealHandover {r0 s : State} (h : Keeps r0 s) : KeepsR r0 (execSealHandover s) := by
  unfold execSealHandover
  repeat' first
    | (with_reducible assumption)
    | (solve | simp (maxDischargeDepth := 60) +contextual only [keeps_ite, implies_true, keeps_foldl, KeepsR_next, keeps_log',
        keeps_logMove, keeps_mapSeal, keeps_sealTo, keeps_setOffer, *])
    | (with_reducible intro _)
    | (with_reducible refine keeps_foldl _ _ _ ?_ ?_)
    | (with_reducible apply keeps_onOffer)
    | (with_reducible apply KeepsR_onUnit)
    | (with_reducible rw [KeepsR_next])
    | (simp only [])
    | split

theorem keeps_execSealOfferTimeout {r0 s : State} (h : Keeps r0 s) : KeepsR r0 (execSealOfferTimeout s) := by
  unfold execSealOfferTimeout
  simp (maxDischargeDepth := 60) +contextual only [keeps_ite, implies_true, KeepsR_next, keeps_onOffer, keeps_sealAbortEv,
      keeps_set, keeps_setOffer, *]

theorem keeps_execSealCommitTimeout {r0 s : State} (h : Keeps r0 s) : KeepsR r0 (execSealCommitTimeout s) := by
  unfold execSealCommitTimeout
  repeat' first
    | (with_reducible assumption)
    | (solve | simp (maxDischargeDepth := 60) +contextual only [keeps_ite, implies_true, KeepsR_next, keeps_sealClaim,
        keeps_setOffer, *])
    | (with_reducible intro _)
    | (with_reducible apply keeps_onOffer)
    | (with_reducible apply KeepsR_onUnit)
    | (with_reducible rw [KeepsR_next])
    | (simp only [])
    | split

/-! ### Sec.lean -/

theorem keeps_mapSec {r0 s : State} (h : Keeps r0 s) (f : SecSt → SecSt) : Keeps r0 (State.mapSec s f) := by
  unfold State.mapSec
  simp (maxDischargeDepth := 60) +contextual only [keeps_mk, *]

theorem keeps_burn {r0 s : State} (h : Keeps r0 s) (f : Field) (v : Nat) : Keeps r0 (State.burn s f v) := by
  have hs : Keeps r0 (s.set f v) := keeps_set h ..
  refine ⟨hs.pending, hs.mem, hs.poison, hs.flds, ?_, hs.free, hs.out⟩
  unfold State.burn
  simp only []
  split <;> exact hs.ident

theorem keeps_newChallenge {r0 s : State} (h : Keeps r0 s) : Keeps r0 (State.newChallenge s) := by
  unfold State.newChallenge
  simp (maxDischargeDepth := 60) +contextual only [implies_true, keeps_foldl, keeps_set, keeps_tick, *]

theorem keeps_setMeas {r0 s : State} (h : Keeps r0 s) (m half : Nat) (v : List Byte) : Keeps r0 (State.setMeas s m half v) := by
  unfold State.setMeas
  simp (maxDischargeDepth := 60) +contextual only [keeps_mapSec, *]

theorem keeps_extend {r0 s : State} (h : Keeps r0 s) (m half : Nat) (d : List Byte) : Keeps r0 (State.extend s m half d) := by
  unfold State.extend
  simp (maxDischargeDepth := 60) +contextual only [keeps_setMeas, *]

theorem keeps_fwMeasure {r0 s : State} (h : Keeps r0 s) (half : Nat) (b : List Byte) : Keeps r0 (State.fwMeasure s half b) := by
  unfold State.fwMeasure
  simp (maxDischargeDepth := 60) +contextual only [keeps_ite, implies_true, keeps_extend, keeps_setMeas, *]

theorem keeps_fwVerify {r0 s : State} (h : Keeps r0 s) (half : Nat) : Keeps r0 (State.fwVerify s half) := by
  unfold State.fwVerify
  repeat' first
    | (with_reducible assumption)
    | (solve | simp (maxDischargeDepth := 60) +contextual only [keeps_ite, implies_true, keeps_mk, keeps_fwMeasure, keeps_log',
        keeps_mapSec, keeps_set, keeps_setComplex, keeps_startFail, keeps_startPorts, *])
    | (with_reducible intro _)
    | (simp only [])
    | split

theorem keeps_execFirmwareVerified {r0 s : State} (h : Keeps r0 s) (half : Nat) : KeepsR r0 (execFirmwareVerified half s) := by
  unfold execFirmwareVerified
  simp (maxDischargeDepth := 60) +contextual only [KeepsR_next, KeepsR_onUnit, keeps_fwVerify, *]

theorem keeps_secInstall {r0 s : State} (h : Keeps r0 s) : Keeps r0 (State.secInstall s).1 := by
  unfold State.secInstall
  extract_lets img n b
  split
  · exact h
  · exact keeps_foldl _ _ _ h fun _ _ hs => keeps_mapSec hs ..

theorem keeps_secDone {r0 s : State} (h : Keeps r0 s) (op st len : Nat) : Keeps r0 (State.secDone s op st len) := by
  unfold State.secDone
  simp (maxDischargeDepth := 60) +contextual only [keeps_ite, implies_true, keeps_irq, keeps_log', keeps_set, *]

theorem keeps_secOp {r0 s : State} (h : Keeps r0 s) (by_ : Agent) (f : State → State) (hf2 : ∀ y0, Keeps r0 y0 → Keeps r0 (f y0))
    : Keeps r0 (State.secOp s by_ f) := by
  unfold State.secOp
  simp (maxDischargeDepth := 60) +contextual only [implies_true, keeps_set, keeps_whenReady, *]

theorem keeps_execSecStage {r0 s : State} (h : Keeps r0 s) (by_ : Agent) : KeepsR r0 (execSecStage by_ s) := by
  unfold execSecStage
  simp (maxDischargeDepth := 60) +contextual only [implies_true, KeepsR_next, keeps_secDone, keeps_secInstall, keeps_secOp, *]

theorem keeps_execSecAdvanceSvn {r0 s : State} (h : Keeps r0 s) (by_ : Agent) : KeepsR r0 (execSecAdvanceSvn by_ s) := by
  unfold execSecAdvanceSvn
  simp (maxDischargeDepth := 60) +contextual only [keeps_ite, implies_true, KeepsR_next, keeps_burn, keeps_secDone,
      keeps_secOp, *]

theorem keeps_execSecCert {r0 s : State} (h : Keeps r0 s) (by_ : Agent) : KeepsR r0 (execSecCert by_ s) := by
  unfold execSecCert
  simp (maxDischargeDepth := 60) +contextual only [keeps_ite, implies_true, KeepsR_next, keeps_secDone, keeps_secOp,
      keeps_wrDa, *]

theorem keeps_keyBurn {r0 s : State} (h : Keeps r0 s) (b : List Byte) : Keeps r0 (State.keyBurn s b) := by
  unfold State.keyBurn
  repeat' first
    | (with_reducible assumption)
    | (solve | simp (maxDischargeDepth := 60) +contextual only [keeps_burn, keeps_log', keeps_mapSec, *])
    | (with_reducible intro _)
    | (simp only [])
    | split

theorem keeps_secKey {r0 s : State} (h : Keeps r0 s) : Keeps r0 (State.secKey s) := by
  unfold State.secKey
  refine keeps_ite (fun _ => keeps_secDone (keeps_newChallenge h) ..) (fun _ => ?_)
  extract_lets b
  split
  · exact keeps_secDone (keeps_newChallenge (keeps_keyBurn h ..)) ..
  · exact keeps_secDone (keeps_newChallenge h) ..

theorem keeps_execSecEnrollOwner {r0 s : State} (h : Keeps r0 s) (by_ : Agent) : KeepsR r0 (execSecEnrollOwner by_ s) := by
  unfold execSecEnrollOwner
  simp (maxDischargeDepth := 60) +contextual only [implies_true, KeepsR_next, keeps_secKey, keeps_secOp, *]

theorem keeps_execSecRevokeOwner {r0 s : State} (h : Keeps r0 s) (by_ : Agent) : KeepsR r0 (execSecRevokeOwner by_ s) := by
  unfold execSecRevokeOwner
  simp (maxDischargeDepth := 60) +contextual only [implies_true, KeepsR_next, keeps_secKey, keeps_secOp, *]

theorem keeps_execSecRevokeVendor {r0 s : State} (h : Keeps r0 s) (by_ : Agent) : KeepsR r0 (execSecRevokeVendor by_ s) := by
  unfold execSecRevokeVendor
  simp (maxDischargeDepth := 60) +contextual only [implies_true, KeepsR_next, keeps_secKey, keeps_secOp, *]

theorem keeps_execSecAttest {r0 s : State} (h : Keeps r0 s) (by_ : Agent) : KeepsR r0 (execSecAttest by_ s) := by
  unfold execSecAttest
  simp (maxDischargeDepth := 60) +contextual only [keeps_ite, implies_true, KeepsR_next, keeps_log', keeps_secDone,
      keeps_secOp, keeps_tick, keeps_wrDa, *]

/-! ### Host.lean -/

theorem keeps_bar2 {r0 s : State} (h : Keeps r0 s) (link off kind : Nat) (bs : List Byte) : Keeps r0 (State.bar2 s link off kind
    bs) := by
  unfold State.bar2
  simp (maxDischargeDepth := 60) +contextual only [keeps_ite, implies_true, keeps_emit, keeps_memAcc, keeps_wake, *]

theorem keeps_execBar2Access {r0 s : State} (h : Keeps r0 s) (link off : Nat) (write : Bool) (data : List Byte) : KeepsR r0
    (execBar2Access link off write data s) := by
  unfold execBar2Access
  simp (maxDischargeDepth := 60) +contextual only [KeepsR_next, KeepsR_onUnit, keeps_bar2, *]

theorem keeps_execHostAtomic {r0 s : State} (h : Keeps r0 s) (link off kind : Nat) (operand swap : Word) : KeepsR r0
    (execHostAtomic link off kind operand swap s) := by
  unfold execHostAtomic
  simp (maxDischargeDepth := 60) +contextual only [keeps_ite, implies_true, KeepsR_next, KeepsR_onUnit, keeps_bar2, keeps_emit,
      *]

theorem keeps_execHostLinkChange {r0 s : State} (h : Keeps r0 s) (link : Nat) (up : Bool) (rate width : Nat) (flit : Bool) :
    KeepsR r0 (execHostLinkChange link up rate width flit s) := by
  unfold execHostLinkChange
  simp (maxDischargeDepth := 60) +contextual only [KeepsR_next, KeepsR_onUnit, keeps_hostLink, *]

theorem keeps_cfgWrite {r0 s : State} (h : Keeps r0 s) (link : Nat) (reg : CfgReg) (v : Nat) : Keeps r0 (State.cfgWrite s link reg
    v) := by
  unfold State.cfgWrite
  repeat' first
    | (with_reducible assumption)
    | (solve | simp (maxDischargeDepth := 60) +contextual only [keeps_ite, implies_true, keeps_mk, *])
    | (with_reducible intro _)
    | (simp only [])
    | split

theorem keeps_execHostConfigAccess {r0 s : State} (h : Keeps r0 s) (link : Nat) (reg : CfgReg) (val : Option Nat) : KeepsR r0
    (execHostConfigAccess link reg val s) := by
  unfold execHostConfigAccess
  repeat' first
    | (with_reducible assumption)
    | (solve | simp (maxDischargeDepth := 60) +contextual only [implies_true, KeepsR_next, keeps_cfgWrite, keeps_emit, *])
    | (with_reducible intro _)
    | (with_reducible apply KeepsR_onUnit)
    | (with_reducible rw [KeepsR_next])
    | (simp only [])
    | split

theorem keeps_mgtReq {r0 s : State} (h : Keeps r0 s) (port : Nat) (f : State → State) (hf2 : ∀ y0, Keeps r0 y0 → Keeps r0 (f y0))
    : KeepsR r0 (State.mgtReq s port f) := by
  unfold State.mgtReq
  simp (maxDischargeDepth := 60) +contextual only [keeps_ite, implies_true, KeepsR_next, KeepsR_next, KeepsR_onUnit,
      keeps_bumpSat, *]

theorem keeps_execMgtGet {r0 s : State} (h : Keeps r0 s) (port seq resource : Nat) : KeepsR r0 (execMgtGet port seq resource s)
    := by
  unfold execMgtGet
  simp (maxDischargeDepth := 60) +contextual only [keeps_ite, implies_true, keeps_emit, keeps_mgtReq, keeps_tick, *]

theorem keeps_execMgtLogRead {r0 s : State} (h : Keeps r0 s) (port seq seg first count : Nat) : KeepsR r0 (execMgtLogRead port seq
    seg first count s) := by
  unfold execMgtLogRead
  simp (maxDischargeDepth := 60) +contextual only [implies_true, keeps_emit, keeps_mgtReq, *]

theorem keeps_execMgtStage {r0 s : State} (h : Keeps r0 s) (port seq off : Nat) (data : List Byte) : KeepsR r0 (execMgtStage port
    seq off data s) := by
  unfold execMgtStage
  simp (maxDischargeDepth := 60) +contextual only [keeps_ite, implies_true, keeps_emit, keeps_mgtReq, keeps_wrDa, *]

theorem keeps_execMgtStageDone {r0 s : State} (h : Keeps r0 s) (port seq : Nat) : KeepsR r0 (execMgtStageDone port seq s) := by
  unfold execMgtStageDone
  simp (maxDischargeDepth := 60) +contextual only [implies_true, keeps_emit, keeps_mgtReq, keeps_secDone, keeps_secInstall, *]

theorem keeps_execMgtNeighbourDiscovery {r0 s : State} (h : Keeps r0 s) (port : Nat) : KeepsR r0 (execMgtNeighbourDiscovery port
    s) := by
  unfold execMgtNeighbourDiscovery
  simp (maxDischargeDepth := 60) +contextual only [keeps_ite, implies_true, KeepsR_next, KeepsR_onUnit, keeps_emit, *]

theorem keeps_execMgtLinkChange {r0 s : State} (h : Keeps r0 s) (port : Nat) (up : Bool) : KeepsR r0 (execMgtLinkChange port up s)
    := by
  unfold execMgtLinkChange
  simp (maxDischargeDepth := 60) +contextual only [keeps_ite, implies_true, KeepsR_next, KeepsR_onUnit, keeps_set, *]

theorem keeps_execPtpMasterLost {r0 s : State} (h : Keeps r0 s) (port : Nat) : KeepsR r0 (execPtpMasterLost port s) := by
  unfold execPtpMasterLost
  simp (maxDischargeDepth := 60) +contextual only [keeps_ite, implies_true, KeepsR_next, KeepsR_onUnit, keeps_set, *]

theorem keeps_escWrite {r0 s : State} (h : Keeps r0 s) (by_ : Agent) (op target : Nat) : Keeps r0 (State.escWrite s by_ op target)
    := by
  unfold State.escWrite
  simp (maxDischargeDepth := 60) +contextual only [implies_true, keeps_escCtl, keeps_whenReady, *]

theorem keeps_execEscFreeze {r0 s : State} (h : Keeps r0 s) (by_ : Agent) : KeepsR r0 (execEscFreeze by_ s) := by
  unfold execEscFreeze
  simp (maxDischargeDepth := 60) +contextual only [KeepsR_next, keeps_escWrite, *]

theorem keeps_execEscRollback {r0 s : State} (h : Keeps r0 s) (by_ : Agent) : KeepsR r0 (execEscRollback by_ s) := by
  unfold execEscRollback
  simp (maxDischargeDepth := 60) +contextual only [KeepsR_next, keeps_escWrite, *]

theorem keeps_execEscServe {r0 s : State} (h : Keeps r0 s) (by_ : Agent) (target : Nat) : KeepsR r0 (execEscServe by_ target s)
    := by
  unfold execEscServe
  simp (maxDischargeDepth := 60) +contextual only [KeepsR_next, keeps_escWrite, *]

theorem keeps_execEscReceive {r0 s : State} (h : Keeps r0 s) (by_ : Agent) (target : Nat) : KeepsR r0 (execEscReceive by_ target
    s) := by
  unfold execEscReceive
  simp (maxDischargeDepth := 60) +contextual only [KeepsR_next, keeps_escWrite, *]

theorem keeps_execEscDigest {r0 s : State} (h : Keeps r0 s) (by_ : Agent) : KeepsR r0 (execEscDigest by_ s) := by
  unfold execEscDigest
  simp (maxDischargeDepth := 60) +contextual only [KeepsR_next, keeps_escWrite, *]

theorem keeps_execEscThaw {r0 s : State} (h : Keeps r0 s) (by_ : Agent) : KeepsR r0 (execEscThaw by_ s) := by
  unfold execEscThaw
  simp (maxDischargeDepth := 60) +contextual only [KeepsR_next, keeps_escWrite, *]

theorem keeps_execEscBadOp {r0 s : State} (h : Keeps r0 s) (by_ : Agent) (op : Nat) : KeepsR r0 (execEscBadOp by_ op s) := by
  unfold execEscBadOp
  simp (maxDischargeDepth := 60) +contextual only [implies_true, KeepsR_next, KeepsR_fault, keepsR_ite, keeps_escWrite, *]

end Sys2Proof.Machine
end

