-- ==== Sys2Proof/Laws/Keep8.lean ====
section
/-! SUPPORT. What every operation keeps: resets, register accesses and the beat edge. -/
namespace Sys2Proof.Machine

/-! ### Rst.lean -/

theorem keeps_mapRst {r0 s : State} (h : Keeps r0 s) (f : RstSt → RstSt) : Keeps r0 (State.mapRst s f) := by
  unfold State.mapRst
  simp (maxDischargeDepth := 60) +contextual only [keeps_mk, *]

theorem keeps_resetEv {r0 s : State} (h : Keeps r0 s) (kind cause unit : Nat) : Keeps r0 (State.resetEv s kind cause unit) := by
  unfold State.resetEv
  simp (maxDischargeDepth := 60) +contextual only [keeps_log', *]

theorem keeps_regsReset {r0 s : State} (h : Keeps r0 s) (b : Block) (us : Nat → Bool) : Keeps r0 (State.regsReset s b us) :=
  ⟨h.pending, h.mem, h.poison, fun w => fldsOk_filter _ (h.flds w), h.ident, h.free, h.out⟩

theorem keeps_keyRead {r0 s : State} (h : Keeps r0 s) (half : Nat) : Keeps r0 (State.keyRead s half) := by
  unfold State.keyRead
  simp (maxDischargeDepth := 60) +contextual only [keeps_ite, implies_true, keeps_foldl, keeps_log', *]

theorem keeps_coldReset {r0 s : State} (h : Keeps r0 s) (strap : Nat) : Keeps r0 (State.coldReset s strap) := by
  unfold State.coldReset
  simp only []
  refine keeps_foldl _ _ _ (keeps_newChallenge ⟨h.pending, fun _ => rfl, fun _ => List.Pairwise.nil,
    fun _ _ he => (nomatch he), h.ident, h.free, h.out⟩) fun _ _ hs => keeps_keyRead hs ..

theorem keeps_execResetCold {r0 s : State} (h : Keeps r0 s) (strap : Nat) : KeepsR r0 (execResetCold strap s) := by
  unfold execResetCold
  simp (maxDischargeDepth := 60) +contextual only [KeepsR_next, keeps_coldReset, *]

theorem keeps_execPerstNAssert {r0 s : State} (h : Keeps r0 s) : KeepsR r0 (execPerstNAssert s) := by
  unfold execPerstNAssert
  simp (maxDischargeDepth := 60) +contextual only [KeepsR_next, keeps_coldReset, *]

theorem keeps_queWarm {r0 s : State} (h : Keeps r0 s) : Keeps r0 (State.queWarm s) := by
  unfold State.queWarm
  repeat' first
    | (with_reducible assumption)
    | (solve | simp (maxDischargeDepth := 60) +contextual only [keeps_ite, implies_true, keeps_qPut, *])
    | (with_reducible intro _)
    | (with_reducible refine keeps_foldl _ _ _ ?_ ?_)
    | (simp only [])
    | split

theorem keeps_testWarm {r0 s : State} (h : Keeps r0 s) (old : State) : Keeps r0 (State.testWarm s old) := by
  unfold State.testWarm
  repeat' first
    | (with_reducible assumption)
    | (solve | simp (maxDischargeDepth := 60) +contextual only [keeps_set, *])
    | (with_reducible intro _)
    | (simp only [])
    | split

theorem keeps_warmBase {r0 s : State} (h : Keeps r0 s) : Keeps r0 (State.warmBase s) :=
  ⟨h.pending, fun w => Mem.wf_filter _ _ (h.mem w), fun w => poison_filter _ (h.poison w), fun w => fldsOk_filter _ (h.flds
      w), h.ident, h.free,
    h.out⟩

theorem keeps_flr {r0 s : State} (h : Keeps r0 s) (link : Nat) : Keeps r0 (State.flr s link) := by
  unfold State.flr
  simp (maxDischargeDepth := 60) +contextual only [keeps_ite, implies_true, keeps_mk, keeps_bump, *]

theorem keeps_warmReset {r0 s : State} (h : Keeps r0 s) (cause : Nat) : Keeps r0 (State.warmReset s cause) := by
  unfold State.warmReset
  simp (maxDischargeDepth := 60) +contextual only [keeps_ite, implies_true, keeps_foldl, keeps_bumpSat, keeps_escDiscard,
      keeps_flr, keeps_keyRead, keeps_logWrite, keeps_mapLog, keeps_newChallenge, keeps_queWarm, keeps_set, keeps_testWarm,
      keeps_vceReset, keeps_warmBase, *]

theorem keeps_execResetWarm {r0 s : State} (h : Keeps r0 s) (cause : Nat) : KeepsR r0 (execResetWarm cause s) := by
  unfold execResetWarm
  simp (maxDischargeDepth := 60) +contextual only [KeepsR_next, keeps_warmReset, *]

theorem keeps_winReset {r0 s : State} (h : Keeps r0 s) (clu : Nat) (cores : List Nat) (cause : Nat) : Keeps r0 (State.winReset s
    clu cores cause) := by
  unfold State.winReset
  simp (maxDischargeDepth := 60) +contextual only [keeps_ite, implies_true, keeps_setWin, keeps_syncWin, keeps_winAbortEv,
      keeps_winDrop, keeps_winStart, *]

theorem keeps_kvAbandon {r0 s : State} (h : Keeps r0 s) (clu : Nat) (cores : List Nat) : Keeps r0 (State.kvAbandon s clu cores)
    := by
  unfold State.kvAbandon
  simp (maxDischargeDepth := 60) +contextual only [keeps_setKvw, keeps_syncKvw, *]

theorem keeps_huskAbandon {r0 s : State} (h : Keeps r0 s) (ld : Nat) (cores : List Nat) : Keeps r0 (State.huskAbandon s ld cores)
    := by
  unfold State.huskAbandon
  repeat' first
    | (with_reducible assumption)
    | (solve | simp (maxDischargeDepth := 60) +contextual only [keeps_ite, implies_true, keeps_foldl, keeps_dirFree,
        keeps_dirPut, keeps_log', keeps_setStk, keeps_shift, keeps_syncReserved, *])
    | (with_reducible intro _)
    | (with_reducible refine keeps_foldl _ _ _ ?_ ?_)
    | (simp only [])
    | split

theorem keeps_hubDiscard {r0 s : State} (h : Keeps r0 s) (reader : QD → Bool) : Keeps r0 (State.hubDiscard s reader) := by
  unfold State.hubDiscard
  repeat' first
    | (with_reducible assumption)
    | (solve | simp (maxDischargeDepth := 60) +contextual only [keeps_ite, implies_true, keeps_qEndPacket, *])
    | (with_reducible intro _)
    | (with_reducible refine keeps_foldl _ _ _ ?_ ?_)
    | (simp only [])
    | split

theorem keeps_coresReset {r0 s : State} (h : Keeps r0 s) (die : Nat) (cores : List Nat) (cause : Nat) : Keeps r0 (State.coresReset
    s die cores cause) := by
  unfold State.coresReset
  simp (maxDischargeDepth := 60) +contextual only [implies_true, keeps_mkm, Mem.wf_zero, keeps_foldl, keeps_clearDue,
      keeps_drainAcc, keeps_hubDiscard, keeps_huskAbandon, keeps_kvAbandon, keeps_regsReset, keeps_setCore, keeps_syncHusk,
      keeps_unpoison, keeps_winReset, *]

theorem keeps_coreReset {r0 s : State} (h : Keeps r0 s) (core : Nat) : Keeps r0 (State.coreReset s core) := by
  unfold State.coreReset
  simp (maxDischargeDepth := 60) +contextual only [keeps_ite, implies_true, keeps_bistAbandon, keeps_bump, keeps_coresReset,
      keeps_resetEv, *]

theorem keeps_execResetCore {r0 s : State} (h : Keeps r0 s) (core : Nat) : KeepsR r0 (execResetCore core s) := by
  unfold execResetCore
  simp (maxDischargeDepth := 60) +contextual only [KeepsR_next, keeps_coreReset, *]

theorem keeps_strDieReset {r0 s : State} (h : Keeps r0 s) (die : Nat) : Keeps r0 (State.strDieReset s die) := by
  unfold State.strDieReset
  simp (maxDischargeDepth := 60) +contextual only [keeps_ite, implies_true, keeps_foldl, keeps_mapStr, keeps_setArmed,
      keeps_strDone, keeps_strRefuse, keeps_syncMissing, *]

theorem keeps_computeReset {r0 s : State} (h : Keeps r0 s) (d : Nat) : Keeps r0 (State.computeReset s d) := by
  unfold State.computeReset
  simp (maxDischargeDepth := 60) +contextual only [implies_true, keeps_mkm, Mem.wf_zero, keeps_foldl, keeps_bistAbandon,
      keeps_bopAcks, keeps_coresReset, keeps_regsReset, keeps_unpoison, keeps_zeroClu, *]

theorem keeps_kvReset {r0 s : State} (h : Keeps r0 s) : Keeps r0 (State.kvReset s) := by
  unfold State.kvReset
  simp (maxDischargeDepth := 60) +contextual only [keeps_mk, keeps_bopGo, keeps_setPoolBits, *]

theorem keeps_ledgerReset {r0 s : State} (h : Keeps r0 s) (n : Nat) : Keeps r0 (State.ledgerReset s n) := by
  unfold State.ledgerReset
  simp (maxDischargeDepth := 60) +contextual only [keeps_ite, implies_true, keeps_foldl, keeps_escDiscard, keeps_hubDiscard,
      keeps_kvReset, keeps_regsReset, keeps_set, keeps_setCal, keeps_setCore, keeps_setStk, keeps_setUpd, keeps_unstall,
      keeps_updForget, *]

theorem keeps_stewardReset {r0 s : State} (h : Keeps r0 s) (half : Nat) : Keeps r0 (State.stewardReset s half) := by
  unfold State.stewardReset
  simp (maxDischargeDepth := 60) +contextual only [keeps_ite, implies_true, keeps_hostLink, keeps_hubDiscard, keeps_keyRead,
      keeps_mapRst, keeps_mapSeal, keeps_mapSec, keeps_set, keeps_setComplex, keeps_setMeas, keeps_setOffer, *]

theorem keeps_fabricReset {r0 s : State} (h : Keeps r0 s) (h : Nat) : Keeps r0 (State.fabricReset s h) := by
  unfold State.fabricReset
  simp (maxDischargeDepth := 60) +contextual only [keeps_ite, implies_true, keeps_mk, keeps_foldl, keeps_portDown, keeps_set, *]

theorem keeps_hubReset {r0 s : State} (h : Keeps r0 s) (h : Nat) : Keeps r0 (State.hubReset s h) := by
  unfold State.hubReset
  simp (maxDischargeDepth := 60) +contextual only [keeps_ite, implies_true, keeps_foldl, keeps_fabricReset, keeps_hubDiscard,
      keeps_regsReset, keeps_setVce, keeps_stewardReset, keeps_vceReset, *]

theorem keeps_dieReset {r0 s : State} (h : Keeps r0 s) (die : Nat) : Keeps r0 (State.dieReset s die) := by
  unfold State.dieReset
  simp (maxDischargeDepth := 60) +contextual only [keeps_ite, implies_true, keeps_bump, keeps_computeReset, keeps_hubReset,
      keeps_ledgerReset, keeps_mapRst, keeps_resetEv, keeps_strDieReset, *]

theorem keeps_execResetDie {r0 s : State} (h : Keeps r0 s) (die : Nat) : KeepsR r0 (execResetDie die s) := by
  unfold execResetDie
  simp (maxDischargeDepth := 60) +contextual only [KeepsR_next, keeps_dieReset, *]

theorem keeps_startLost {r0 s : State} (h : Keeps r0 s) (clu : Nat) : Keeps r0 (State.startLost s clu) := by
  unfold State.startLost
  repeat' first
    | (with_reducible assumption)
    | (solve | simp (maxDischargeDepth := 60) +contextual only [keeps_putMap, keeps_set, keeps_setBit, keeps_setLog, *])
    | (with_reducible intro _)
    | (simp only [])
    | split

theorem keeps_startLosses {r0 s : State} (h : Keeps r0 s) (d mask : Nat) : Keeps r0 (State.startLosses s d mask) := by
  unfold State.startLosses
  simp (maxDischargeDepth := 60) +contextual only [keeps_ite, implies_true, keeps_foldl, keeps_startLost, *]

theorem keeps_strReload {r0 s : State} (h : Keeps r0 s) (die : Nat) : Keeps r0 (State.strReload s die).1 := by
  unfold State.strReload
  repeat' first
    | (with_reducible assumption)
    | (solve | simp (maxDischargeDepth := 60) +contextual only [keeps_mapStr, *])
    | (with_reducible intro _)
    | (with_reducible refine keeps_foldl _ _ _ ?_ ?_)
    | (simp only [])
    | split

theorem keeps_rejoin {r0 s : State} (h : Keeps r0 s) (die : Nat) : Keeps r0 (State.rejoin s die) := by
  unfold State.rejoin
  simp (maxDischargeDepth := 60) +contextual only [keeps_mapRst, *]

theorem keeps_computeBack {r0 s : State} (h : Keeps r0 s) (d : Nat) : Keeps r0 (State.computeBack s d) := by
  unfold State.computeBack
  simp (maxDischargeDepth := 60) +contextual only [keeps_ite, implies_true, keeps_mk, keeps_foldl, keeps_applyMap, keeps_cluEv,
      keeps_failDevice, keeps_set, keeps_setDie, *]

theorem keeps_ledgerBack {r0 s : State} (h : Keeps r0 s) (n fails : Nat) : Keeps r0 (State.ledgerBack s n fails) :=
  keeps_accResume (keeps_setStk (keeps_stookCommit (keeps_stookSwitch (keeps_updReset (keeps_calAll h ..) ..) ..) ..) ..)

theorem keeps_dieBack {r0 s : State} (h : Keeps r0 s) (die lost fails : Nat) : Keeps r0 (State.dieBack s die lost fails) := by
  unfold State.dieBack
  refine keeps_ite (fun _ => h) (fun _ => keeps_ite (fun _ => h) (fun _ => ?_))
  extract_lets +onlyGivenNames t
  have ht : Keeps r0 t := keeps_ite (fun _ => keeps_startLosses h ..) (fun _ => h)
  clear_value t
  have hr := keeps_strReload ht die
  split
  · rename_i y e
    rw [e] at hr
    exact keeps_log' (keeps_mapStr hr ..) ..
  · rename_i y e
    rw [e] at hr
    exact keeps_ite (fun _ => keeps_computeBack (keeps_rejoin hr ..) ..)
      (fun _ => keeps_ite (fun _ => keeps_ledgerBack (keeps_rejoin hr ..) ..) (fun _ => keeps_startPorts (keeps_rejoin hr ..)))

theorem keeps_execDieResetComplete {r0 s : State} (h : Keeps r0 s) (die lost fails : Nat) : KeepsR r0 (execDieResetComplete die
    lost fails s) := by
  unfold execDieResetComplete
  simp (maxDischargeDepth := 60) +contextual only [KeepsR_next, keeps_dieBack, *]

theorem keeps_stageStep {r0 s : State} (h : Keeps r0 s) : Keeps r0 (State.stageStep s) := by
  unfold State.stageStep
  simp (maxDischargeDepth := 60) +contextual only [keeps_ite, implies_true, keeps_set, *]

theorem keeps_execBootRomLoad {r0 s : State} (h : Keeps r0 s) (half : Nat) : KeepsR r0 (execBootRomLoad half s) := by
  unfold execBootRomLoad
  repeat' first
    | (with_reducible assumption)
    | (solve | simp (maxDischargeDepth := 60) +contextual only [keeps_ite, implies_true, KeepsR_next, keeps_mapRst, keeps_set,
        keeps_setComplex, *])
    | (with_reducible intro _)
    | (with_reducible apply KeepsR_onUnit)
    | (with_reducible rw [KeepsR_next])
    | (simp only [])
    | split

theorem keeps_execBursarBooted {r0 s : State} (h : Keeps r0 s) (half : Nat) : KeepsR r0 (execBursarBooted half s) := by
  unfold execBursarBooted
  simp (maxDischargeDepth := 60) +contextual only [keeps_ite, implies_true, KeepsR_next, KeepsR_onUnit, keeps_mapRst,
      keeps_set, keeps_setComplex, keeps_stageStep, keeps_syncComplex, *]

theorem keeps_lpReady {r0 s : State} (h : Keeps r0 s) (fails : List Nat) : Keeps r0 (State.lpReady s fails) := by
  unfold State.lpReady
  simp (maxDischargeDepth := 60) +contextual only [keeps_ite, implies_true, keeps_mkm, Mem.wf_filter, poison_filter,
      keeps_foldl, keeps_accResume, keeps_calAll, keeps_mapRst, keeps_set, keeps_stageStep, keeps_updReset, *]

theorem keeps_execLpddr6InitComplete {r0 s : State} (h : Keeps r0 s) (fails : List Nat) : KeepsR r0 (execLpddr6InitComplete fails
    s) := by
  unfold execLpddr6InitComplete
  simp (maxDischargeDepth := 60) +contextual only [KeepsR_next, keeps_lpReady, *]

theorem keeps_startTest {r0 s : State} (h : Keeps r0 s) (lost bad : List Nat) : Keeps r0 (State.startTest s lost bad) := by
  unfold State.startTest
  simp (maxDischargeDepth := 60) +contextual only [keeps_ite, implies_true, keeps_foldl, keeps_log', keeps_mapRst,
      keeps_startFail, keeps_startLosses, *]

theorem keeps_execStartupTestComplete {r0 s : State} (h : Keeps r0 s) (lost bad : List Nat) : KeepsR r0 (execStartupTestComplete
    lost bad s) := by
  unfold execStartupTestComplete
  simp (maxDischargeDepth := 60) +contextual only [KeepsR_next, keeps_startTest, *]

theorem keeps_execPartReady {r0 s : State} (h : Keeps r0 s) : KeepsR r0 (execPartReady s) := by
  unfold execPartReady
  simp (maxDischargeDepth := 60) +contextual only [keeps_ite, implies_true, KeepsR_next, keeps_irq, keeps_log', keeps_set, *]

theorem keeps_testRefuse {r0 s : State} (h : Keeps r0 s) (kind target st : Nat) : Keeps r0 (State.testRefuse s kind target st)
    := by
  unfold State.testRefuse
  simp (maxDischargeDepth := 60) +contextual only [keeps_log', keeps_set, keeps_testEnd, *]

theorem keeps_testTake {r0 s : State} (h : Keeps r0 s) (kind target : Nat) (runs : Bool) : Keeps r0 (State.testTake s kind target
    runs) := by
  unfold State.testTake
  simp (maxDischargeDepth := 60) +contextual only [keeps_mapRst, keeps_set, *]

theorem keeps_testWrite {r0 s : State} (h : Keeps r0 s) (f : State → State) (hf1 : ∀ y0, Keeps r0 y0 → Keeps r0 (f y0)) : Keeps r0
    (State.testWrite s f) := by
  unfold State.testWrite
  simp (maxDischargeDepth := 60) +contextual only [keeps_ite, implies_true, keeps_set, *]

theorem keeps_testBist {r0 s : State} (h : Keeps r0 s) (target : Nat) : Keeps r0 (State.testBist s target) := by
  unfold State.testBist
  simp (maxDischargeDepth := 60) +contextual only [keeps_ite, implies_true, keeps_testRefuse, keeps_testTake, keeps_testWrite,
      *]

theorem keeps_testCal {r0 s : State} (h : Keeps r0 s) (target : Nat) : Keeps r0 (State.testCal s target) := by
  unfold State.testCal
  simp (maxDischargeDepth := 60) +contextual only [keeps_ite, implies_true, keeps_testRefuse, keeps_testTake, keeps_testWrite,
      *]

theorem keeps_recalStart {r0 s : State} (h : Keeps r0 s) (p : Nat) : Keeps r0 (State.recalStart s p) := by
  unfold State.recalStart
  simp (maxDischargeDepth := 60) +contextual only [keeps_ite, implies_true, keeps_mapRst, keeps_portDown, keeps_set, *]

theorem keeps_recalCheck {r0 s : State} (h : Keeps r0 s) : Keeps r0 (State.recalCheck s) := by
  unfold State.recalCheck
  repeat' first
    | (with_reducible assumption)
    | (solve | simp (maxDischargeDepth := 60) +contextual only [keeps_ite, implies_true, keeps_recalStart, *])
    | (with_reducible intro _)
    | (simp only [])
    | split

theorem keeps_testRecal {r0 s : State} (h : Keeps r0 s) (target : Nat) : Keeps r0 (State.testRecal s target) := by
  unfold State.testRecal
  repeat' first
    | (with_reducible assumption)
    | (solve | simp (maxDischargeDepth := 60) +contextual only [implies_true, keeps_log', keeps_mapRst, keeps_recalStart,
        keeps_set, keeps_testRefuse, keeps_testTake, *])
    | (with_reducible intro _)
    | (with_reducible apply keeps_testWrite)
    | (simp only [])
    | split

theorem keeps_testCancel {r0 s : State} (h : Keeps r0 s) : Keeps r0 (State.testCancel s) := by
  unfold State.testCancel
  simp (maxDischargeDepth := 60) +contextual only [keeps_ite, implies_true, keeps_testEnd, *]

theorem keeps_execTestLogicBist {r0 s : State} (h : Keeps r0 s) (_by : Agent) (target : Nat) : KeepsR r0 (execTestLogicBist _by
    target s) := by
  unfold execTestLogicBist
  simp (maxDischargeDepth := 60) +contextual only [KeepsR_next, keeps_testBist, *]

theorem keeps_execTestLpddr6Cal {r0 s : State} (h : Keeps r0 s) (_by : Agent) (target : Nat) : KeepsR r0 (execTestLpddr6Cal _by
    target s) := by
  unfold execTestLpddr6Cal
  simp (maxDischargeDepth := 60) +contextual only [KeepsR_next, keeps_testCal, *]

theorem keeps_execTestOpticalRecal {r0 s : State} (h : Keeps r0 s) (_by : Agent) (target : Nat) : KeepsR r0 (execTestOpticalRecal
    _by target s) := by
  unfold execTestOpticalRecal
  simp (maxDischargeDepth := 60) +contextual only [KeepsR_next, keeps_testRecal, *]

theorem keeps_execTestCancel {r0 s : State} (h : Keeps r0 s) (_by : Agent) : KeepsR r0 (execTestCancel _by s) := by
  unfold execTestCancel
  simp (maxDischargeDepth := 60) +contextual only [KeepsR_next, keeps_testCancel, *]

theorem keeps_execOpticalRecalStart {r0 s : State} (h : Keeps r0 s) : KeepsR r0 (execOpticalRecalStart s) := by
  unfold execOpticalRecalStart
  simp (maxDischargeDepth := 60) +contextual only [KeepsR_next, keeps_recalCheck, *]

theorem keeps_testDone {r0 s : State} (h : Keeps r0 s) (fail : Option Nat) : Keeps r0 (State.testDone s fail) := by
  unfold State.testDone
  repeat' first
    | (with_reducible assumption)
    | (solve | simp (maxDischargeDepth := 60) +contextual only [keeps_ite, implies_true, keeps_fenceClu, keeps_log', keeps_set,
        keeps_spareLost, keeps_testEnd, *])
    | (with_reducible intro _)
    | (simp only [])
    | split

theorem keeps_execTestComplete {r0 s : State} (h : Keeps r0 s) (fail : Option Nat) : KeepsR r0 (execTestComplete fail s) := by
  unfold execTestComplete
  simp (maxDischargeDepth := 60) +contextual only [KeepsR_next, keeps_testDone, *]

theorem keeps_execFibreBlockUnlatch {r0 s : State} (h : Keeps r0 s) (block : Nat) : KeepsR r0 (execFibreBlockUnlatch block s)
    := by
  unfold execFibreBlockUnlatch
  simp (maxDischargeDepth := 60) +contextual only [keeps_ite, implies_true, keeps_mk, keeps_foldl, KeepsR_next, KeepsR_onUnit,
      keeps_portDown, *]

theorem keeps_execFibreBlockLatch {r0 s : State} (h : Keeps r0 s) (block : Nat) : KeepsR r0 (execFibreBlockLatch block s) := by
  unfold execFibreBlockLatch
  simp (maxDischargeDepth := 60) +contextual only [keeps_mk, KeepsR_next, KeepsR_onUnit, *]

theorem keeps_rstCtl {r0 s : State} (h : Keeps r0 s) (val : Word) : Keeps r0 (State.rstCtl s val) := by
  unfold State.rstCtl
  repeat' first
    | (with_reducible assumption)
    | (solve | simp (maxDischargeDepth := 60) +contextual only [implies_true, keeps_coreReset, keeps_dieReset, keeps_warmReset,
        *])
    | (with_reducible intro _)
    | (simp only [])
    | split

theorem keeps_rstTest {r0 s : State} (h : Keeps r0 s) (val : Word) : Keeps r0 (State.rstTest s val) := by
  unfold State.rstTest
  repeat' first
    | (with_reducible assumption)
    | (solve | simp (maxDischargeDepth := 60) +contextual only [implies_true, keeps_testBist, keeps_testCal, keeps_testCancel,
        keeps_testRecal, *])
    | (with_reducible intro _)
    | (simp only [])
    | split

/-! ### Reg.lean -/

theorem keeps_plainWrite {r0 s : State} (h : Keeps r0 s) (r : Reg) (u i v : Nat) : Keeps r0 (State.plainWrite s r u i v) := by
  unfold State.plainWrite
  repeat' first
    | (with_reducible assumption)
    | (solve | simp (maxDischargeDepth := 60) +contextual only [keeps_ite, implies_true, keeps_set, *])
    | (with_reducible intro _)
    | (with_reducible refine keeps_foldl _ _ _ ?_ ?_)
    | (simp only [])
    | split

theorem keeps_beatCfgWrite {r0 s : State} (h : Keeps r0 s) (v : Nat) : Keeps r0 (State.beatCfgWrite s v) := by
  unfold State.beatCfgWrite
  simp (maxDischargeDepth := 60) +contextual only [keeps_ite, implies_true, keeps_beatRole, keeps_plainWrite, *]

theorem keeps_queWrite {r0 s : State} (h : Keeps r0 s) (by_ : Agent) (v : Nat) : KeepsR r0 (State.queWrite s by_ v) := by
  unfold State.queWrite
  repeat' first
    | (with_reducible assumption)
    | (solve | simp (maxDischargeDepth := 60) +contextual only [keeps_execQueueBadOp, keeps_execQueueDisable,
        keeps_execQueueEnable, keeps_execQueueFlush, keeps_execQueueQuery, keeps_execQueueSetlevel, *])
    | (with_reducible intro _)
    | (with_reducible apply KeepsR_onUnit)
    | (with_reducible rw [KeepsR_next])
    | (simp only [])
    | split

theorem keeps_secWrite {r0 s : State} (h : Keeps r0 s) (by_ : Agent) (v : Nat) : KeepsR r0 (State.secWrite s by_ v) := by
  unfold State.secWrite
  split
  · exact keeps_execSecAttest h by_
  · exact keeps_execSecStage h by_
  · rw [KeepsR_next]
    exact keeps_secOp h _ _ fun _ hs => keeps_secKey hs
  · exact keeps_execSecAdvanceSvn h by_
  · exact keeps_execSecCert h by_
  · rw [KeepsR_next]
    exact keeps_whenReady h _ _ _ fun _ hs => hs

theorem keeps_prepWrite {r0 s : State} (h : Keeps r0 s) (by_ : Agent) (v : Nat) : Keeps r0 (State.prepWrite s by_ v) := by
  unfold State.prepWrite
  simp (maxDischargeDepth := 60) +contextual only [keeps_ite, implies_true, keeps_strAbandon, keeps_strPrepare,
      keeps_whenReady, *]

theorem keeps_regWrite {r0 s : State} (h : Keeps r0 s) (by_ : Agent) (r : Reg) (u i : Nat) (val : Word) : KeepsR r0
    (State.regWrite s by_ r u i val) := by
  unfold State.regWrite
  repeat' first
    | (with_reducible assumption)
    | (solve | simp (maxDischargeDepth := 60) +contextual only [keeps_ite, implies_true, KeepsR_next, keeps_beatCfgWrite,
        keeps_bopWrite, keeps_capWrite, keeps_cursorWrite, keeps_dbgWrite, keeps_escWrite, keeps_gate, keeps_hskClear,
        keeps_irqClear, keeps_irqEnable, keeps_labFlush, keeps_latWrite, keeps_layoutWrite, keeps_plainWrite,
        keeps_portDisable, keeps_prepWrite, keeps_queWrite, keeps_retrainAll, keeps_rstCtl, keeps_rstTest, keeps_sealAccept,
        keeps_sealGrant, keeps_sealOffer, keeps_secWrite, keeps_set, keeps_strCommit, keeps_stwEnable, keeps_ungate,
        keeps_updClear, keeps_winEndGather, *])
    | (with_reducible intro _)
    | (with_reducible apply KeepsR_onUnit)
    | (with_reducible rw [KeepsR_next])
    | (simp only [])
    | split

theorem keeps_regRefuse {r0 s : State} (h : Keeps r0 s) (a : Agent) : Keeps r0 (State.regRefuse s a) := by
  unfold State.regRefuse
  simp (maxDischargeDepth := 60) +contextual only [keeps_emit, *]

theorem keeps_tidyRefused {r0 s : State} (h : Keeps r0 s) (core : Nat) : Keeps r0 (State.tidyRefused s core) := by
  unfold State.tidyRefused
  simp (maxDischargeDepth := 60) +contextual only [keeps_ite, implies_true, keeps_dropPacket, *]

theorem keeps_regUnmapped {r0 s : State} (h : Keeps r0 s) (a : Agent) (da : Nat) : Keeps r0 (State.regUnmapped s a da) := by
  unfold State.regUnmapped
  repeat' first
    | (with_reducible assumption)
    | (solve | simp (maxDischargeDepth := 60) +contextual only [keeps_regRefuse, keeps_tidyRefused, keeps_unmappedEv, *])
    | (with_reducible intro _)
    | (simp only [])
    | split

theorem keeps_hostWait {r0 s : State} (h : Keeps r0 s) (a : Agent) (b : Block) (da size : Nat) (val : Option Word) (f : State →
    Res) (hf5 : ∀ y0, Keeps r0 y0 → KeepsR r0 (f y0)) : KeepsR r0 (State.hostWait s a b da size val f) := by
  unfold State.hostWait
  repeat' first
    | (with_reducible assumption)
    | (solve | simp (maxDischargeDepth := 60) +contextual only [implies_true, keeps_mk, KeepsR_next, keepsR_ite, KeepsR_next,
        keepsR_ite, keeps_wake, *])
    | (with_reducible intro _)
    | (with_reducible apply KeepsR_onUnit)
    | (with_reducible rw [KeepsR_next])
    | (simp only [])
    | split

theorem keeps_regAccess {r0 s : State} (h : Keeps r0 s) (a : Agent) (da size : Nat) (val : Word) : KeepsR r0 (State.regAccess s a
    da size val) := by
  unfold State.regAccess
  repeat' first
    | (with_reducible assumption)
    | (solve | simp (maxDischargeDepth := 60) +contextual only [keeps_ite, implies_true, KeepsR_next, keepsR_ite,
        keeps_msixWrite, keeps_regRefuse, keeps_regUnmapped, keeps_regWrite, keeps_wake, *])
    | (with_reducible intro _)
    | (with_reducible apply keeps_hostWait)
    | (with_reducible apply KeepsR_onUnit)
    | (with_reducible rw [KeepsR_next])
    | (simp only [])
    | split

theorem keeps_regReadEffect {r0 s : State} (h : Keeps r0 s) (r : Reg) (u i : Nat) : Keeps r0 (State.regReadEffect s r u i) := by
  unfold State.regReadEffect
  repeat' first
    | (with_reducible assumption)
    | (solve | simp (maxDischargeDepth := 60) +contextual only [keeps_ite, implies_true, keeps_logNextRead, keeps_setKvw, *])
    | (with_reducible intro _)
    | (simp only [])
    | split

theorem keeps_regRead {r0 s : State} (h : Keeps r0 s) (a : Agent) (da size : Nat) : KeepsR r0 (State.regRead s a da size) := by
  unfold State.regRead
  repeat' first
    | (with_reducible assumption)
    | (solve | simp (maxDischargeDepth := 60) +contextual only [implies_true, KeepsR_next, keepsR_ite, keeps_emit,
        keeps_regReadEffect, keeps_regRefuse, keeps_regUnmapped, keeps_wake, *])
    | (with_reducible intro _)
    | (with_reducible apply keeps_hostWait)
    | (with_reducible apply KeepsR_onUnit)
    | (with_reducible rw [KeepsR_next])
    | (simp only [])
    | split

theorem keeps_regResume {r0 s : State} (h : Keeps r0 s) : Keeps r0 (State.regResume s) := by
  unfold State.regResume
  repeat' first
    | (with_reducible assumption)
    | (solve | simp (maxDischargeDepth := 60) +contextual only [implies_true, keeps_mk, keeps_orStay, keeps_regAccess,
        keeps_regRead, *])
    | (with_reducible intro _)
    | (with_reducible refine keeps_foldl _ _ _ ?_ ?_)
    | (simp only [])
    | split

theorem keeps_execRegisterWrite {r0 s : State} (h : Keeps r0 s) (by_ : Agent) (da size : Nat) (val : Word) : KeepsR r0
    (execRegisterWrite by_ da size val s) := by
  unfold execRegisterWrite
  repeat' first
    | (with_reducible assumption)
    | (solve | simp (maxDischargeDepth := 60) +contextual only [KeepsR_next, keeps_execDoorbellWrite, keeps_memAcc,
        keeps_regAccess, keeps_regUnmapped, *])
    | (with_reducible intro _)
    | (with_reducible apply KeepsR_onUnit)
    | (with_reducible rw [KeepsR_next])
    | (simp only [])
    | split

theorem keeps_execLogData7Read {r0 s : State} (h : Keeps r0 s) (rd : RegRd) : KeepsR r0 (execLogData7Read rd
    s) := by
  unfold execLogData7Read
  simp (maxDischargeDepth := 60) +contextual only [keeps_regRead, *]

theorem keeps_execPowerExitComplete {r0 s : State} (h : Keeps r0 s) (ue fails : List Nat) : KeepsR r0 (execPowerExitComplete ue
    fails s) := by
  unfold execPowerExitComplete
  simp (maxDischargeDepth := 60) +contextual only [KeepsR_next, keeps_powerLeave, keeps_regResume, *]

/-! ### Edge.lean -/

theorem keeps_edgeCount {r0 s : State} (h : Keeps r0 s) : Keeps r0 (State.edgeCount s) := by
  unfold State.edgeCount
  repeat' first
    | (with_reducible assumption)
    | (solve | simp (maxDischargeDepth := 60) +contextual only [keeps_mapBeat, keeps_set, *])
    | (with_reducible intro _)
    | (simp only [])
    | split

theorem keeps_edgeSlew {r0 s : State} (h : Keeps r0 s) : Keeps r0 (State.edgeSlew s) := by
  unfold State.edgeSlew
  simp (maxDischargeDepth := 60) +contextual only [keeps_ite, implies_true, keeps_beatAlign, keeps_beatLock, keeps_setOffset, *]

theorem keeps_edgeTpl {r0 s : State} (h : Keeps r0 s) : Keeps r0 (State.edgeTpl s) := by
  unfold State.edgeTpl
  simp (maxDischargeDepth := 60) +contextual only [keeps_set, *]

theorem keeps_edgePeriod {r0 s : State} (h : Keeps r0 s) : Keeps r0 (State.edgePeriod s) := by
  unfold State.edgePeriod
  repeat' first
    | (with_reducible assumption)
    | (solve | simp (maxDischargeDepth := 60) +contextual only [keeps_ite, implies_true, keeps_mapBeat, keeps_setPeriod, *])
    | (with_reducible intro _)
    | (simp only [])
    | split

theorem keeps_edgePoints {r0 s : State} (h : Keeps r0 s) (lo : Nat) : Keeps r0 (State.edgePoints s lo) := by
  unfold State.edgePoints
  simp (maxDischargeDepth := 60) +contextual only [implies_true, keeps_foldl, keeps_snapshot, *]

theorem keeps_edgeImage {r0 s : State} (h : Keeps r0 s) (failed : List Nat) : Keeps r0 (State.edgeImage s failed) := by
  unfold State.edgeImage
  repeat' first
    | (with_reducible assumption)
    | (solve | simp (maxDischargeDepth := 60) +contextual only [keeps_ite, implies_true, keeps_freezeEffective,
        keeps_readyExpire, keeps_sendReady, keeps_strCutoff, keeps_strSwitch, *])
    | (with_reducible intro _)
    | (simp only [])
    | split

theorem keeps_edgeDispute {r0 s : State} (h : Keeps r0 s) : Keeps r0 (State.edgeDispute s) := by
  unfold State.edgeDispute
  repeat' first
    | (with_reducible assumption)
    | (solve | simp (maxDischargeDepth := 60) +contextual only [keeps_ite, implies_true, keeps_mapSeal, keeps_strFreeze, *])
    | (with_reducible intro _)
    | (simp only [])
    | split

theorem keeps_edgeChecks {r0 s : State} (h : Keeps r0 s) : Keeps r0 (State.edgeChecks s) := by
  unfold State.edgeChecks
  simp (maxDischargeDepth := 60) +contextual only [implies_true, keeps_foldl, keeps_abortDue, keeps_peerCheck,
      keeps_sourceLost, *]

theorem keeps_beatActions {r0 s : State} (h : Keeps r0 s) (lo : Nat) (failed : List Nat) : Keeps r0 (State.beatActions s lo
    failed) := by
  unfold State.beatActions
  extract_lets +onlyGivenNames t u
  have ht : Keeps r0 t := keeps_edgeTpl (keeps_edgePeriod (keeps_freezeEffective (keeps_edgeDispute (keeps_edgeImage h ..))))
  have hu : Keeps r0 u := keeps_edgePoints (keeps_kvEdge (keeps_thaw (keeps_barrierDue (keeps_regResume (keeps_accResume
      ht))))) ..
  exact keeps_foldl _ _ _ hu fun _ _ hs => keeps_waitRelease hs ..

theorem keeps_catchUp {r0 s : State} (h : Keeps r0 s) (failed : List Nat) (n lo : Nat) : Keeps r0 (State.catchUp s failed n lo)
    := by
  induction n generalizing s lo with
  | zero => exact h
  | succ n ih =>
    unfold State.catchUp
    split
    · exact h
    · exact ih (keeps_mapBeat (keeps_set (keeps_beatActions (keeps_mapBeat (keeps_set h ..) ..) ..) ..) ..) ..

theorem keeps_edgeActions {r0 s : State} (h : Keeps r0 s) (old : Nat) (failed : List Nat) : Keeps r0 (State.edgeActions s old
    failed) := by
  unfold State.edgeActions
  extract_lets +onlyGivenNames lo t
  have ht : Keeps r0 t := keeps_ite (fun _ => keeps_catchUp h ..) (fun _ => h)
  exact keeps_powerSelect (keeps_mapBeat (keeps_recalCheck (keeps_edgeChecks (keeps_beatActions ht ..))) ..)

theorem keeps_coldTime {r0 s : State} (h : Keeps r0 s) : Keeps r0 (State.coldTime s) := by
  unfold State.coldTime
  simp (maxDischargeDepth := 60) +contextual only [keeps_ite, implies_true, keeps_mapBeat, keeps_tick, *]

theorem keeps_execBeatEdge {r0 s : State} (h : Keeps r0 s) (failed : List Nat) : KeepsR r0 (execBeatEdge failed s) := by
  unfold execBeatEdge
  simp (maxDischargeDepth := 60) +contextual only [keeps_ite, implies_true, KeepsR_next, keeps_coldTime, keeps_edgeActions,
      keeps_edgeCount, keeps_edgeSlew, keeps_set, *]

end Sys2Proof.Machine
end

