-- ==== Sys2Proof/Laws/Rot.lean ====
section
/-! SUPPORT. What a copy of a cluster (R21) does to memory, place by place. -/
namespace Sys2Proof.Machine

/-- One cluster's core windows copied to another's (R21): what the target's places read afterwards, and every other place. -/
theorem Mem.read_copyCores {m : List Host.Cell} (h : Mem.wf m = true) (q p n : Nat) (hn : n ≤ 8) (a : Nat) :
    Mem.read ((List.range n).foldl (fun m k => Mem.copy m (coreLoc (8 * q + k) 0) (coreLoc (8 * p + k) 0) 0x480000) m) a =
      if (2097152 + 8 * p) * 16777216 ≤ a ∧ a < (2097152 + 8 * p + n) * 16777216 ∧ a % 16777216 < 0x480000
      then storedByte a (Mem.read m (a + 8 * q * 16777216 - 8 * p * 16777216)) else Mem.read m a := by
  obtain ⟨x, y, hy, rfl⟩ : ∃ x y, y < 16777216 ∧ a = x * 16777216 + y := ⟨a / 16777216, a % 16777216, by omega, by omega⟩
  have hm : (x * 16777216 + y) % 16777216 = y := by omega
  rw [hm]
  clear hm
  have h1 : ∀ x z, x * 16777216 + y < z * 16777216 ↔ x < z := by omega
  have h2 : ∀ x z, z * 16777216 ≤ x * 16777216 + y ↔ z ≤ x := by omega
  simp only [h1, h2]
  induction n generalizing x with
  | zero =>
    rw [if_neg (by omega)]
    rfl
  | succ n ih =>
    have hw : Mem.wf ((List.range n).foldl (fun m k => Mem.copy m (coreLoc (8 * q + k) 0) (coreLoc (8 * p + k) 0) 0x480000) m) = true :=
      Mem.wf_foldl _ _ (fun _ _ h => Mem.wf_copy _ _ _ _ h) _ h
    rw [List.range_succ, List.foldl_append, List.foldl_cons, List.foldl_nil, Mem.read_copy hw]
    have e1 : coreLoc (8 * p + n) 0 = (2097152 + 8 * p + n) * 16777216 := by unfold coreLoc; omega
    have e2 : coreLoc (8 * q + n) 0 = (2097152 + 8 * q + n) * 16777216 := by unfold coreLoc; omega
    rw [e1, e2]
    by_cases c : x = 2097152 + 8 * p + n ∧ y < 0x480000
    · obtain ⟨rfl, hy'⟩ := c
      have e : (2097152 + 8 * p + n) * 16777216 + y - (2097152 + 8 * p + n) * 16777216 + (2097152 + 8 * q + n) * 16777216 =
          (2097152 + 8 * q + n) * 16777216 + y := by omega
      have e' : (2097152 + 8 * p + n) * 16777216 + y + 8 * q * 16777216 - 8 * p * 16777216 = (2097152 + 8 * q + n) * 16777216 + y := by omega
      rw [e, e', ih (by omega), if_pos (by omega), if_neg (by omega), if_pos (by omega)]
    · rw [if_neg (by omega), ih (by omega)]
      clear e1 e2 hw ih h1 h2
      by_cases k : 2097152 + 8 * p ≤ x ∧ x < 2097152 + 8 * p + n ∧ y < 0x480000
      · rw [if_pos k, if_pos (by omega)]
      · rw [if_neg k, if_neg (by omega)]

theorem State.copyClu_mem (s : State) (src dst : Nat) : (s.copyClu src dst).mem =
    Mem.copy ((List.range 8).foldl (fun m k => Mem.copy m (coreLoc (8 * src + k) 0) (coreLoc (8 * dst + k) 0) 0x480000) s.mem)
      (cluLoc src 0) (cluLoc dst 0) (2 ^ 24) := by
  unfold State.copyClu
  simp only []
  congr 1

/-- A cluster's memories copied to another's (R21): every place of the target reads as a write of what the source's read, every other place
as before. -/
theorem State.read_copyClu (s : State) (h : Mem.wf s.mem = true) (q p : Nat) (hq : q < 128) (hp : p < 128) (a : Nat) :
    Mem.read (s.copyClu q p).mem a =
      if (2097152 + 8 * p) * 16777216 ≤ a ∧ a < (2097152 + 8 * p + 8) * 16777216 ∧ a % 16777216 < 0x480000
      then storedByte a (Mem.read s.mem (a + 8 * q * 16777216 - 8 * p * 16777216))
      else if cluLoc p 0 ≤ a ∧ a < cluLoc p 0 + 2 ^ 24 then storedByte a (Mem.read s.mem (a + q * 16777216 - p * 16777216)) else Mem.read s.mem a := by
  have hw : Mem.wf ((List.range 8).foldl (fun m k => Mem.copy m (coreLoc (8 * q + k) 0) (coreLoc (8 * p + k) 0) 0x480000) s.mem) = true :=
    Mem.wf_foldl _ _ (fun _ _ h => Mem.wf_copy _ _ _ _ h) _ h
  rw [State.copyClu_mem, Mem.read_copy hw]
  by_cases c : cluLoc p 0 ≤ a ∧ a < cluLoc p 0 + 2 ^ 24
  · have hc : ¬((2097152 + 8 * p) * 16777216 ≤ a ∧ a < (2097152 + 8 * p + 8) * 16777216 ∧ a % 16777216 < 0x480000) := by
      unfold cluLoc at c; omega
    have e : a - cluLoc p 0 + cluLoc q 0 = a + q * 16777216 - p * 16777216 := by unfold cluLoc at c ⊢; omega
    rw [if_pos c, if_neg hc, if_pos c, Mem.read_copyCores h q p 8 (le_refl _), if_neg, e]
    unfold cluLoc at c
    omega
  · rw [if_neg c, if_neg c, Mem.read_copyCores h q p 8 (le_refl _)]

/-- A copy changes memory and poison alone. -/
theorem State.copyClu_keeps {α : Type} (g : State → α) (hg : ∀ (x : State) m p, g { x with mem := m, poison := p } = g x) (s : State) (q p : Nat) :
    g (s.copyClu q p) = g s := by
  have one : ∀ (l : List Nat) (x : State), g (l.foldl (fun x k => { x with
      mem := Mem.copy x.mem (coreLoc (8 * q + k) 0) (coreLoc (8 * p + k) 0) 0x480000
      poison := movePoison x.poison (coreLoc (8 * q + k) 0) (coreLoc (8 * p + k) 0) 0x480000 }) x) = g x := by
    intro l
    induction l with
    | nil => exact fun x => rfl
    | cons k l ih => exact fun x => (ih _).trans (hg ..)
  unfold State.copyClu
  exact (hg ..).trans (one _ _)

@[simp] theorem State.copyClu_flds (s : State) (q p : Nat) : (s.copyClu q p).flds = s.flds := State.copyClu_keeps State.flds (fun _ _ _ => rfl) ..
@[simp] theorem State.copyClu_cores (s : State) (q p : Nat) : (s.copyClu q p).cores = s.cores := State.copyClu_keeps State.cores (fun _ _ _ => rfl) ..
@[simp] theorem State.copyClu_dies (s : State) (q p : Nat) : (s.copyClu q p).dies = s.dies := State.copyClu_keeps State.dies (fun _ _ _ => rfl) ..
end Sys2Proof.Machine
end

