-- ==== Sys2Proof/Tests/Slice0.lean ====
section
/-! SUPPORT. The model's own tests: ill-formed commands are refused, concrete states meet the hypotheses of every statement, and single steps on
small states give what the spec's words say. -/
namespace Sys2Proof.Tests
open Sys2Proof Sys2Proof.Machine

set_option Elab.async false

/-! ### Small states -/

/-- The part right after reset, but with READY set. -/
def ready : State := State.reset.set .RST_STATUS_READY 1
/-- One stage of one layer on logical cluster 0. -/
def stageBytes : List Byte := [1, 0, 1, 0, 1, 0, 1, 0] ++ List.replicate 8 0 ++ [0, 0, 0, 0, 0, 0, 1, 0, 1] ++ List.replicate 23 0
/-- A precision policy of one profile. -/
def policyBytes : List Byte := [0, 0, 0, 0, 1] ++ List.replicate 59 0 ++ [0, 0, 0, 0, 0, 1] ++ List.replicate 10 0 ++ [1] ++ List.replicate 15 0
/-- A template of one slot of kind 5 in a step of 64 beats. -/
def tplBytes : List Byte := [64, 0, 0, 0, 0, 0, 0, 0, 1] ++ List.replicate 23 0 ++ [5, 0, 255, 255] ++ List.replicate 12 0
/-- A peer map: device 0 with peer 1, both in group 1, which is the commit group. -/
def peerBytes : List Byte := [0, 0, 1, 0, 1, 0, 0, 0, 2, 0, 0, 0, 100, 0, 0, 0] ++ List.replicate 6 0 ++ [1, 0] ++ List.replicate 40 0 ++
  [1, 0, 1, 0, 0, 0, 0, 0, 1, 0, 0, 0, 2, 0, 0, 0] ++ List.replicate 8 0 ++ [0, 0, 1, 0] ++ List.replicate 12 0
/-- A part with that peer map in its active image. -/
def paired : State := (ready.mapStr fun x => { x with active := [(121, ⟨1, 0, [], [(9, peerBytes)]⟩)] }).set .STR_EPOCH_ACTIVE 1
/-- Core 0, whose program runs, with a matrix descriptor in D0. -/
def mmaReady : State := (ready.set .TDY_CFG_AUTO 0 0).setCore 0 { ready.core 0 with dreg := [(0, 1)] }
def clusterSecs : Secs := [(2, stageBytes), (6, policyBytes), (10, tplBytes)]
/-- A carve with a queue table (kind 6) and a buffer region (kind 8) on ledger die 0. -/
def carveBytes : List Byte := [2, 0] ++ List.replicate 14 0 ++
  [6, 0, 0, 0, 0, 0, 0, 0, 0, 0, 0, 0x10, 0, 0, 0, 0, 0, 0, 0, 4, 0, 0, 0, 0, 0, 0, 0, 0x10, 0, 0, 0, 0] ++
  [8, 0, 0, 0, 0, 0, 0, 0, 0, 0, 0, 0x20, 0, 0, 0, 0, 0, 0, 0, 0x10, 0, 0, 0, 0, 0, 0, 0, 0x20, 0, 0, 0, 0]
/-- A queue map of one range, queues 0 to 99 of class 1. -/
def qmapBytes : List Byte := [1, 0] ++ List.replicate 14 0 ++ [0, 0, 0, 0, 99, 0, 0, 0, 1, 0, 0, 0, 0, 0, 0, 0]
/-- A part with that carve and queue map active. -/
def queReady : State := (ready.mapStr fun x => { x with active := [(112, ⟨1, 0, [], [(4, carveBytes)]⟩), (121, ⟨1, 0, [], [(5, qmapBytes)]⟩)] }).set .STR_EPOCH_ACTIVE 1
/-- Queue 5 enabled for a reader of a kind, with one item of class 1 published at level 0. -/
def schedQ (kind : Nat) : State :=
  let v : QD := 2 ^ 63 + 2 ^ 59 + 4 * 2 ^ 52 + 2 ^ 64 * (0x20000000 + kind * 2 ^ 61) + 2 ^ 256
  (queReady.qPut 5 v).wr (lpLoc 0 0x20000000) (leBytes 64 1)
/-- Core 0 bound to that queue. -/
def schedReady : State := ((schedQ 0).set .TDY_QBIND_VALID 1 0 0).set .TDY_QBIND_QID 5 0 0 |>.set .TDY_STATUS_CUR_MB 0xffff 0
/-- A part with a stook of eight chunks on ledger die 0, its directory set up. -/
def stookReady : State :=
  let carve : List Byte := [3] ++ carveBytes.drop 1 ++
    [9, 0, 0, 0, 0, 0, 0, 0, 0, 0, 0, 0x30, 0, 0, 0, 0, 0, 0, 0, 1, 0, 0, 0, 0, 0, 0, 0, 0x30, 0, 0, 0, 0]
  let pol : List Byte := List.replicate 8 0 ++ [1] ++ List.replicate 7 0 ++ [0, 0, 0, 3, 4, 0, 2, 0, 1, 0, 6, 0, 0, 0, 0, 0]
  (ready.mapStr fun x => { x with active := [(112, ⟨1, 0, [], [(4, carve), (8, pol)]⟩)] }).stookCommit 0
/-- Die 0 with rotation enabled and a slot of it at every step's first beat; its spare is cluster 12. -/
def rotReady : State := (ready.mapStr fun x => { x with active := [(unitDie 0, ⟨1, 0, [], [(1, [1] ++ List.replicate 15 0 ++ [0, 1] ++ List.replicate 30 0), (10, [64, 0, 0, 0, 0, 0, 0, 0, 1] ++ List.replicate 23 0 ++ [4, 0, 255, 255] ++ List.replicate 12 0)]⟩)] }).set .STR_EPOCH_ACTIVE 1
/-- A 1 x 1 convolution of one stripe over granary maps. -/
def winDesc : Desc := BitVec.ofNat 512 (3 + 2 ^ 64 * (0x50000000000 + 2 ^ 47) + 2 ^ 192 * (0x010101 * 2 ^ 16 + 0x010101 * 2 ^ 40) + 2 ^ 320 * 2 ^ 57 + 2 ^ 384 * 0x50000001000)
/-- Cluster 0 runs it. -/
def winReady : State := (ready.setWin 0 { WinSt.init with gather := [(0, 0, winDesc)] }).winStart 0
/-- The header of a KV pool of four bushels at 0x1000_0000, with its flags. -/
def kvHeader (fl : Nat) : List Byte := leBytes 4 4 ++ leBytes 2 64 ++ [1, BitVec.ofNat 8 fl] ++ leBytes 8 0x10008000 ++ leBytes 8 0x10000 ++ leBytes 8 0x20000 ++
  leBytes 8 0 ++ leBytes 8 0x900000 ++ leBytes 4 8192 ++ List.replicate 12 0
/-- A part with that pool region on ledger die 0. -/
def kvRaw (fl : Nat) : State :=
  let carve : List Byte := [1] ++ List.replicate 15 0 ++
    [5, 0, 0, 0, 0, 0, 0, 0, 0, 0, 0, 0x10, 0, 0, 0, 0, 0, 0, 0, 4, 0, 0, 0, 0, 0, 0, 0, 0x10, 0, 0, 0, 0]
  ((ready.mapStr fun x => { x with active := [(unitDie 0, ⟨1, 0, [], [(4, carve)]⟩), (112, ⟨1, 0, [], [(4, carve)]⟩)] }).set .STR_EPOCH_ACTIVE 1).wr (lpLoc 0 0x10000000) (kvHeader fl)
/-- The pool taken, with four free bushels and three nodes to the leaf of sequence 0, bushel 0. -/
def kvReady : State :=
  (((kvRaw 2).poolTake.wr (lpLoc 0 0x10008000) (leBytes 8 (2 ^ 63 + 0x12000000))).wr (lpLoc 0 0x12000000) (leBytes 8 (2 ^ 63 + 0x12008000))).wr
    (lpLoc 0 0x12008000) (leBytes 8 (2 ^ 63 + 0x12010000))
/-- An update selection of one entry: layer 1, rule 0 on ledger die 0, n elements of a row at 0x2000_0000. -/
def updBytes (n : Nat) : List Byte := leBytes 2 1 ++ leBytes 2 0xffff ++ List.replicate 28 0 ++
  (leBytes 2 1 ++ [0, 0, 0, 0, 0, 1] ++ leBytes 4 1 ++ leBytes 4 2 ++ leBytes 4 1 ++ leBytes 4 n ++ leBytes 8 0 ++ leBytes 8 n ++ leBytes 8 0x20000000 ++
    leBytes 8 0x21000000 ++ leBytes 8 0 ++ leBytes 8 0 ++ leBytes 4 0x3f800000 ++ leBytes 4 0x3f800000 ++ List.replicate 16 0)
/-- A part with it, and a descriptor of step 1 for it with its gradient at 0x2200_0000. -/
def updReady (n : Nat) : State :=
  (ready.mapStr fun x => { x with active := [(112, ⟨1, 0, [], [(4, carveBytes), (7, updBytes n)]⟩)] }).set .STR_EPOCH_ACTIVE 1
def updDesc : Desc := BitVec.ofNat 512 (9 + 2 ^ 48 + 2 ^ 64 + 2 ^ 256 * 2 ^ 32 * 0x3f800000 + 2 ^ 320 * 0x22000000)
/-- Its record in the journal. -/
def updRec (n st : Nat) (copied : Bool) : JRec := ⟨st, copied, 0, 0, 0, 0, 0, ⟨0, 0, updDesc⟩, ⟨1, 0, [], [(4, carveBytes), (7, updBytes n)]⟩, 0, 0, []⟩
/-- Ledger die 0 in a phase of step 1. -/
def updAt' (n phase : Nat) (q : List UpdItem) (l : List JRec) : State :=
  (updReady n).setUpd 0 { UpdSt.init with phase, step := 1, sec := updBytes n, order := [(1, updBytes n)], queue := q, recs := l }
/-- A part with that carve and that peer map. -/
def fabReady : State :=
  (ready.mapStr fun x => { x with active := [(112, ⟨1, 0, [], [(4, carveBytes)]⟩), (121, ⟨1, 0, [], [(9, peerBytes)]⟩)] }).set .STR_EPOCH_ACTIVE 1
/-- A plan of one block of rank 0's own, and a part that holds it at 0x2000_0000 in a data region. -/
def permEnt : List Byte := leBytes 2 0 ++ leBytes 2 0 ++ leBytes 4 64 ++ leBytes 8 0x20001000 ++ leBytes 8 0x20002000 ++ leBytes 8 0
def permReady : State :=
  ((ready.mapStr fun x => { x with active := [(112, ⟨1, 0, [], [(4, carveBytes.set 48 1)]⟩), (121, ⟨1, 0, [], [(9, peerBytes)]⟩)] }).set .STR_EPOCH_ACTIVE 1).wr
    (lpLoc 0 0x20000000) (leBytes 4 1 ++ [16] ++ List.replicate 27 0 ++ sha3 permEnt ++ permEnt)
/-- A collective descriptor: operation, scope, PARTIAL, format, group 1, 8 elements from the source to the destination. -/
def collDesc (op scope part fmt src dst len : Nat) : Desc :=
  BitVec.ofNat 512 (8 + 2 ^ 32 * (op + 16 * scope + 256 * part + 512 * fmt) + 2 ^ 48 + 2 ^ 64 * src + 2 ^ 128 * dst + 2 ^ 192 * len)
/-- A re-shard of two blocks to epoch 1: block 0 comes from rank 1, block 1 goes to it; staging and journal lie apart. -/
def rshEnts : List Byte := leBytes 2 1 ++ leBytes 2 0 ++ leBytes 4 64 ++ leBytes 8 0x20001000 ++ leBytes 8 0x20002000 ++ leBytes 8 0 ++
  leBytes 2 0 ++ leBytes 2 1 ++ leBytes 4 64 ++ leBytes 8 0x20003000 ++ leBytes 8 0x20004000 ++ leBytes 8 0
def rshDesc : Desc := collDesc 4 3 0 0 0x20000000 0x20200000 2 + BitVec.ofNat 512 (2 ^ 256 * 0x20100000 + 2 ^ 320)
def rshRun (arrivals : List RshArrival) (slots : List (Nat × Nat × Nat)) (acked done : List Nat) : ReshardSt :=
  ⟨0, 0, rshDesc, 0, [], arrivals, false, slots, [], [], acked, done, []⟩
/-- The part that runs it, in a state of FAB_RESHARD. -/
def rshReady (st : Nat) (r : Option ReshardSt) : State :=
  ((permReady.wr (lpLoc 0 0x20000000) (leBytes 4 2 ++ [16] ++ List.replicate 27 0 ++ sha3 rshEnts ++ rshEnts)).set .FAB_RESHARD_STATE st).setRsh r
/-- A region of frame pools at 0x2000_0000 with a stream context in it: decoding in profile 0 of codec 0, or encoding in profile 0 of codec 1. -/
def vceCtx (dir : Nat) : List Byte :=
  leBytes 1 dir ++ leBytes 1 dir ++ [0, 1] ++ leBytes 2 (if dir = 1 then 64 else 16) ++ leBytes 2 (if dir = 1 then 64 else 16) ++ [8, BitVec.ofNat 8 dir, 2, 0] ++
    leBytes 4 16384 ++ leBytes 8 0x20100000 ++ List.replicate 6 0 ++ leBytes 2 dir ++ List.replicate 32 0
def vceRaw (dir : Nat) : State :=
  ((ready.mapStr fun x => { x with active := [(112, ⟨1, 0, [], [(4, carveBytes.set 48 7)]⟩)] }).set .STR_EPOCH_ACTIVE 1).wr (lpLoc 0 0x20000000) (vceCtx dir)
/-- An item of an operation for slot 0, at boundary addresses of that region; a capacity or length of 64. -/
def vceItem (op buf : Nat) : Desc :=
  BitVec.ofNat 512 (14 + 16 + 2 ^ 32 * op + 2 ^ 64 * (if op = 4 then buf else 0x20200000) + 2 ^ 128 * (64 + 2 ^ 32 * 64) + 2 ^ 256 * 0x20201000 +
    2 ^ 384 * 0x20202000 + 2 ^ 448 * (if op = 1 then 0x20000000 else 0))
/-- The stream open in slot 0, with its first buffer held. -/
def vceReady (dir : Nat) : State := (vceRaw dir).setVce 0 ⟨[(0, ⟨vceCtx dir, 0x20000000, [], [], 0, [(0, ⟨false, false, true, 0, 0, 0⟩)], false, none, false⟩)], none⟩
def vceJob (op : Nat) (waiting : Bool) : VceJob := ⟨5, vceItem op 0, 0, waiting, ⟨0, 0xff, 0, 0, 0, 0, 0⟩, [], [], [], 0, [], false⟩
/-- A part of that peer map, whose partner is peer 1, with that update selection and escrow enabled: it holds its peer's escrow, its areas lie in the
region at 0x2000_0000. -/
def escReady (bank : Nat) : State :=
  let s := (ready.mapStr fun x => { x with active := [(112, ⟨1, 0, [], [(4, carveBytes), (7, updBytes 32)]⟩),
    (121, ⟨1, 0, [], [(9, (peerBytes.set 6 4).set 20 1)]⟩)] }).set .STR_EPOCH_ACTIVE 1
  ((((s.set .ESC_CFG_ENABLE 1).set .ESC_CFG_SOURCE 1).set .ESC_CFG_INTERVAL 1).set .ESC_HOME_BASE 0x28000).set .ESC_HOME_LEN_LEN 0x1000 |>.set .ESC_BANK_BASE
    (if bank = 0 then 0x2a000 else 0x60000000) |>.set .ESC_BANK_LEN_LEN (if bank = 0 then 0x1000 else 0x210000)

/-- A packet of an opcode. -/
def pk (op : Nat) : Packet := ⟨op, 1, 0, 0, 0, 0, 0, 0, [], none, none, 0, 0, 0⟩

/-! ### Well-formedness -/

/-- Ill-formed commands, each by one check, are refused. -/
theorem test_wf_refuses_1 : (([.registerWrite (.host 2) 0 8 0, .registerWrite (.tidy 104) 0 8 0, .registerWrite .steward 0 3 0, .registerWrite .steward 0 16 0, .spareRotationStart 8, .spareRotationCopy 8, .spareRotationComplete 8, .clusterLost 8 0, .clusterLost 0 13, .strPrepareGo (.host 2), .strPrepareGo (.tidy 104), .unitArm 128, .strAbandon (.host 2), .strAbandon (.tidy 104), .commitReadyReceive 65536 0 0 0, .jobAbortReceive 65536 0 0, .strDrainComplete 128, .beatFrameReceive ⟨65536, 0⟩ 0 0 0 none 0 false 0 0, .heartbeatReceive 65536 0, .delayRequestSend ⟨65536, 0⟩ 0, .delayRequestReceive 65536 0 0 0 0 0, .delayResponseReceive ⟨65536, 0⟩ 0 0 0 0 0, .peerLost 65536, .ptpMessageReceive 2, .tdLd 104 0 0, .tdLd 1024 0 0, .tdLd 0 8 0, .tdSetf 104 0 0 0, .tdSetf 1024 0 0 0, .tdSetf 0 8 0 0, .tdIssue 104 0 0, .tdIssue 1024 0 0, .tdIssue 0 32 0, .tdIssue 0 0 8, .tdNext 104 0 0, .tdNext 1024 0 0, .tdNext 0 32 0, .tdNext 0 0 8, .tdDone 104 0 0, .tdDone 1024 0 0] : List Instr).all fun c => !c.wf) = true := by decide +kernel

/-- Ill-formed commands, each by one check, are refused. -/
theorem test_wf_refuses_2 : (([.tdDone 0 32 0, .tdSt 104 0 0, .tdSt 1024 0 0, .tdSt 0 8 0, .mmaDescriptor 104 0, .mmaDescriptor 1024 0, .accmemAccess (.host 2) 0 false [], .accmemAccess (.tidy 104) 0 false [], .vecConvert 104 0, .vecConvert 1024 0, .vecAdd 104 (2 ^ 32 * 1), .vecAdd 1024 (2 ^ 32 * 1), .vecAdd 0 (2 ^ 32 * 2), .vecSub 104 (2 ^ 32 * 2), .vecSub 1024 (2 ^ 32 * 2), .vecSub 0 (2 ^ 32 * 3), .vecMul 104 (2 ^ 32 * 3), .vecMul 1024 (2 ^ 32 * 3), .vecMul 0 (2 ^ 32 * 4), .vecAxpb 104 (2 ^ 32 * 4), .vecAxpb 1024 (2 ^ 32 * 4), .vecAxpb 0 (2 ^ 32 * 5), .vecMax 104 (2 ^ 32 * 5), .vecMax 1024 (2 ^ 32 * 5), .vecMax 0 (2 ^ 32 * 6), .vecMin 104 (2 ^ 32 * 6), .vecMin 1024 (2 ^ 32 * 6), .vecMin 0 (2 ^ 32 * 7), .vecExp 104 (2 ^ 32 * 7), .vecExp 1024 (2 ^ 32 * 7), .vecExp 0 (2 ^ 32 * 8), .vecLog 104 (2 ^ 32 * 8), .vecLog 1024 (2 ^ 32 * 8), .vecLog 0 (2 ^ 32 * 9), .vecRsqrt 104 (2 ^ 32 * 9), .vecRsqrt 1024 (2 ^ 32 * 9), .vecRsqrt 0 (2 ^ 32 * 10), .vecRecip 104 (2 ^ 32 * 10), .vecRecip 1024 (2 ^ 32 * 10), .vecRecip 0 (2 ^ 32 * 11)] : List Instr).all fun c => !c.wf) = true := by decide +kernel

/-- Ill-formed commands, each by one check, are refused. -/
theorem test_wf_refuses_3 : (([.vecTanh 104 (2 ^ 32 * 11), .vecTanh 1024 (2 ^ 32 * 11), .vecTanh 0 (2 ^ 32 * 12), .vecSigmoid 104 (2 ^ 32 * 12), .vecSigmoid 1024 (2 ^ 32 * 12), .vecSigmoid 0 (2 ^ 32 * 1), .vecRowsum 104 (2 ^ 32 * 16), .vecRowsum 1024 (2 ^ 32 * 16), .vecRowsum 0 (2 ^ 32 * 17), .vecRowmax 104 (2 ^ 32 * 17), .vecRowmax 1024 (2 ^ 32 * 17), .vecRowmax 0 (2 ^ 32 * 18), .vecRowsq 104 (2 ^ 32 * 18), .vecRowsq 1024 (2 ^ 32 * 18), .vecRowsq 0 (2 ^ 32 * 1), .steeredDescriptorResume 104 0, .steeredDescriptorResume 1024 0, .waitBeat 104 0, .waitBeat 1024 0, .waitBeatRelease 104 0, .waitBeatRelease 1024 0, .signal 104 0, .signal 1024 0, .signalSend 104, .signalSend 1024, .signalDeliver 104 0 0, .signalDeliver 1024 0 0, .signalDeliver 0 64 0, .fence 104 0, .fence 1024 0, .fenceRelease 104, .fenceRelease 1024, .fenceTimeout 104, .fenceTimeout 1024, .schedulerPacketBoundary 104, .schedulerPacketBoundary 1024, .switchWaitExpiry 104, .switchWaitExpiry 1024, .packetReady 104 0, .packetReady 1024 0] : List Instr).all fun c => !c.wf) = true := by decide +kernel

/-- Ill-formed commands, each by one check, are refused. -/
theorem test_wf_refuses_4 : (([.dmaCopy 104 (2 ^ 240 * 0), .dmaCopy 1024 (2 ^ 240 * 0), .dmaCopy 0 (2 ^ 240 * 1), .dmaFill 104 (2 ^ 240 * 1), .dmaFill 1024 (2 ^ 240 * 1), .dmaFill 0 (2 ^ 240 * 2), .dmaTileSave 104 (2 ^ 240 * 2), .dmaTileSave 1024 (2 ^ 240 * 2), .dmaTileSave 0 (2 ^ 240 * 3), .dmaTileRestore 104 (2 ^ 240 * 3), .dmaTileRestore 1024 (2 ^ 240 * 3), .dmaTileRestore 0 (2 ^ 240 * 0), .ledgerMemoryRequest (.host 2) false 0 false [] 0 0, .ledgerMemoryRequest (.tidy 104) false 0 false [] 0 0, .ledgerMemoryRequest .steward false 0 false [] 5 0, .scrubRead 8 0, .scrubRead 0 5, .refresh 8, .calibrationStart 8 0, .calibrationComplete 24 0, .lpddr6Training 8 [] none, .huskEncode 104 0, .huskEncode 1024 0, .huskEncode 0 (2 ^ 32), .stookEncodeResume 8, .stookEncodeComplete 104 0, .stookEncodeComplete 1024 0, .huskDecode 104 (2 ^ 32), .huskDecode 1024 (2 ^ 32), .huskDecode 0 0, .stookDecodeComplete 104 0, .stookDecodeComplete 1024 0, .stookDirectoryCommit 8, .hskClear 8, .windowConvolution 104 (2 ^ 107 * 0), .windowConvolution 1024 (2 ^ 107 * 0), .windowConvolution 0 (2 ^ 107 * 1), .windowMaxPool 104 (2 ^ 107 * 1), .windowMaxPool 1024 (2 ^ 107 * 1), .windowMaxPool 0 (2 ^ 107 * 2)] : List Instr).all fun c => !c.wf) = true := by decide +kernel

/-- Ill-formed commands, each by one check, are refused. -/
theorem test_wf_refuses_5 : (([.windowMeanPool 104 (2 ^ 107 * 2), .windowMeanPool 1024 (2 ^ 107 * 2), .windowMeanPool 0 (2 ^ 107 * 0), .stripeLineLoad 13 0, .stripeLineLoad 128 0, .stripeHaloResume 13 0, .stripeHaloResume 128 0, .windowStripeComplete 13 0, .windowStripeComplete 128 0, .winCancel 13, .winCancel 128, .kvGather 104 0, .kvGather 1024 0, .kvWalkComplete 13 0 0, .kvWalkComplete 128 0 0, .glean 104 0, .glean 1024 0, .alloc (.host 2) 0 0 0, .alloc (.tidy 104) 0 0 0, .alloc .steward 13 0 0, .alloc .steward 128 0 0, .map (.host 2) 0 0 0, .map (.tidy 104) 0 0 0, .map .steward 13 0 0, .map .steward 128 0 0, .unmap (.host 2) 0 0 0, .unmap (.tidy 104) 0 0 0, .unmap .steward 13 0 0, .unmap .steward 128 0 0, .query (.host 2) 0 0 0, .query (.tidy 104) 0 0 0, .query .steward 13 0 0, .query .steward 128 0 0, .setlen (.host 2) 0 0 0, .setlen (.tidy 104) 0 0 0, .setlen .steward 13 0 0, .setlen .steward 128 0 0, .returnBushel (.host 2) 0 0 0, .returnBushel (.tidy 104) 0 0 0, .returnBushel .steward 13 0 0] : List Instr).all fun c => !c.wf) = true := by decide +kernel

/-- Ill-formed commands, each by one check, are refused. -/
theorem test_wf_refuses_6 : (([.returnBushel .steward 128 0 0, .poolstat (.host 2) 0 0 0, .poolstat (.tidy 104) 0 0 0, .poolstat .steward 13 0 0, .poolstat .steward 128 0 0, .labInvalidate 13 0 0, .labInvalidate 128 0 0, .labFlush 13, .labFlush 128, .updateDescriptor 104 9, .updateDescriptor 1024 9, .updateDescriptor 0 8, .updateCheck 8, .skipFlagReceive 8 0 false, .deviceSkipFlagReceive 65536 0 false 0, .jobFlagReceive 8 0 false, .rule3PartialReceive 8 0 0 0 0 0 0, .updateLayerWrite 8 0, .updClear 8, .doorbellWrite (.host 2) 0 0 8 0, .doorbellWrite (.tidy 104) 0 0 8 0, .doorbellWrite .steward 1048576 0 8 0, .doorbellWrite .steward 0 0 3 0, .doorbellWrite .steward 0 0 16 0, .doorbellRead (.host 2) 0 0 8, .doorbellRead (.tidy 104) 0 0 8, .doorbellRead .steward 1048576 0 8, .doorbellRead .steward 0 0 3, .doorbellRead .steward 0 0 16, .queueTake 1048576, .queueEnable (.host 2) 0, .queueEnable (.tidy 104) 0, .queueEnable .steward 1048576, .queueDisable (.host 2) 0 false, .queueDisable (.tidy 104) 0 false, .queueDisable .steward 1048576 false, .queueFlush (.host 2) 0 0, .queueFlush (.tidy 104) 0 0, .queueFlush .steward 1048576 0, .queueSetlevel (.host 2) 0] : List Instr).all fun c => !c.wf) = true := by decide +kernel

/-- Ill-formed commands, each by one check, are refused. -/
theorem test_wf_refuses_7 : (([.queueSetlevel (.tidy 104) 0, .queueSetlevel .steward 1048576, .queueQuery (.host 2) 0, .queueQuery (.tidy 104) 0, .queueQuery .steward 1048576, .queueBadOp (.host 2) 0, .queueBadOp (.tidy 104) 0, .queueBadOp .steward 1, .queueBadOp .steward 21, .queueBoundaryEffect 1048576, .linkFrameSend 16 0, .linkFrameSend 0 4, .linkFrameReceive 16 0 none 0, .linkFrameReceive 0 4 none 0, .linkFrameReceive 0 0 (some ⟨2 ^ 128, [], none⟩) 0, .linkFrameReceive 0 0 (some ⟨0, [⟨pk 1, 0, 26⟩], none⟩) 0, .linkFrameReceive 0 0 (some ⟨0, [⟨{ pk 1 with tc := 4 }, 0, 1⟩], none⟩) 0, .linkFrameReceive 0 0 (some ⟨0, [], none⟩) 21, .laneDrop 16 0 0, .laneDrop 0 4 0, .laneDrop 0 0 3, .portTraining 16 0 0 0 0 0 0, .portTraining 0 65536 0 0 0 0 0, .portTraining 0 0 256 0 0 0 0, .portTraining 0 0 0 16 0 0 0, .portTraining 0 0 0 0 7937 0 0, .portRetrain (.host 2) 0, .portRetrain (.tidy 104) 0, .portDisable (.host 2) 0, .portDisable (.tidy 104) 0, .portDown 16 0, .fabricWrite (pk 0), .fabricWrite { pk 1 with tc := 4 }, .fabricWrite { pk 1 with dst := 65536 }, .fabricWrite { pk 1 with src := 65536 }, .fabricWrite { pk 1 with da := 2 ^ 43 }, .fabricWrite { pk 1 with tag := 2 ^ 32 }, .fabricWrite { pk 1 with sseq := 2 ^ 32 }, .fabricWrite { pk 1 with operand := 2 ^ 64 }, .fabricWrite { pk 1 with mid := 2 ^ 32 }] : List Instr).all fun c => !c.wf) = true := by decide +kernel

/-- Ill-formed commands, each by one check, are refused. -/
theorem test_wf_refuses_8 : (([.fabricWrite { pk 1 with payload := List.replicate 4097 0 }, .fabricRead (pk 0), .fabricRead { pk 2 with tc := 4 }, .fabricRead { pk 2 with dst := 65536 }, .fabricRead { pk 2 with src := 65536 }, .fabricRead { pk 2 with da := 2 ^ 43 }, .fabricRead { pk 2 with tag := 2 ^ 32 }, .fabricRead { pk 2 with sseq := 2 ^ 32 }, .fabricRead { pk 2 with operand := 2 ^ 64 }, .fabricRead { pk 2 with mid := 2 ^ 32 }, .fabricRead { pk 2 with len := 4097 }, .readResp (pk 0), .readResp { pk 3 with tc := 4 }, .readResp { pk 3 with dst := 65536 }, .readResp { pk 3 with src := 65536 }, .readResp { pk 3 with da := 2 ^ 43 }, .readResp { pk 3 with tag := 2 ^ 32 }, .readResp { pk 3 with sseq := 2 ^ 32 }, .readResp { pk 3 with operand := 2 ^ 64 }, .readResp { pk 3 with mid := 2 ^ 32 }, .readResp { pk 3 with payload := List.replicate 4097 0 }, .fadd64 (pk 0), .fadd64 { pk 4 with tc := 4 }, .fadd64 { pk 4 with dst := 65536 }, .fadd64 { pk 4 with src := 65536 }, .fadd64 { pk 4 with da := 2 ^ 43 }, .fadd64 { pk 4 with tag := 2 ^ 32 }, .fadd64 { pk 4 with sseq := 2 ^ 32 }, .fadd64 { pk 4 with operand := 2 ^ 64 }, .fadd64 { pk 4 with mid := 2 ^ 32 }, .fadd64 { pk 4 with payload := List.replicate 4097 0 }, .cas64 (pk 0), .cas64 { pk 5 with tc := 4 }, .cas64 { pk 5 with dst := 65536 }, .cas64 { pk 5 with src := 65536 }, .cas64 { pk 5 with da := 2 ^ 43 }, .cas64 { pk 5 with tag := 2 ^ 32 }, .cas64 { pk 5 with sseq := 2 ^ 32 }, .cas64 { pk 5 with operand := 2 ^ 64 }, .cas64 { pk 5 with mid := 2 ^ 32 }] : List Instr).all fun c => !c.wf) = true := by decide +kernel

/-- Ill-formed commands, each by one check, are refused. -/
theorem test_wf_refuses_9 : (([.cas64 { pk 5 with payload := List.replicate 4097 0 }, .swap64 (pk 0), .swap64 { pk 6 with tc := 4 }, .swap64 { pk 6 with dst := 65536 }, .swap64 { pk 6 with src := 65536 }, .swap64 { pk 6 with da := 2 ^ 43 }, .swap64 { pk 6 with tag := 2 ^ 32 }, .swap64 { pk 6 with sseq := 2 ^ 32 }, .swap64 { pk 6 with operand := 2 ^ 64 }, .swap64 { pk 6 with mid := 2 ^ 32 }, .swap64 { pk 6 with payload := List.replicate 4097 0 }, .atomicResp (pk 0), .atomicResp { pk 7 with tc := 4 }, .atomicResp { pk 7 with dst := 65536 }, .atomicResp { pk 7 with src := 65536 }, .atomicResp { pk 7 with da := 2 ^ 43 }, .atomicResp { pk 7 with tag := 2 ^ 32 }, .atomicResp { pk 7 with sseq := 2 ^ 32 }, .atomicResp { pk 7 with operand := 2 ^ 64 }, .atomicResp { pk 7 with mid := 2 ^ 32 }, .atomicResp { pk 7 with payload := List.replicate 4097 0 }, .errResp (pk 0), .errResp { pk 8 with tc := 4 }, .errResp { pk 8 with dst := 65536 }, .errResp { pk 8 with src := 65536 }, .errResp { pk 8 with da := 2 ^ 43 }, .errResp { pk 8 with tag := 2 ^ 32 }, .errResp { pk 8 with sseq := 2 ^ 32 }, .errResp { pk 8 with operand := 2 ^ 64 }, .errResp { pk 8 with mid := 2 ^ 32 }, .errResp { pk 8 with payload := List.replicate 4097 0 }, .broadcast 104 (8 + 2 ^ 32 * 0), .broadcast 1024 (8 + 2 ^ 32 * 0), .broadcast 0 (8 + 2 ^ 32 * 1), .broadcast 0 (7 + 2 ^ 32 * 0), .reduceScatter 104 (8 + 2 ^ 32 * 1), .reduceScatter 1024 (8 + 2 ^ 32 * 1), .reduceScatter 0 (8 + 2 ^ 32 * 2), .reduceScatter 0 (7 + 2 ^ 32 * 1), .allGather 104 (8 + 2 ^ 32 * 2)] : List Instr).all fun c => !c.wf) = true := by decide +kernel

/-- Ill-formed commands, each by one check, are refused. -/
theorem test_wf_refuses_10 : (([.allGather 1024 (8 + 2 ^ 32 * 2), .allGather 0 (8 + 2 ^ 32 * 3), .allGather 0 (7 + 2 ^ 32 * 2), .allReduce 104 (8 + 2 ^ 32 * 3), .allReduce 1024 (8 + 2 ^ 32 * 3), .allReduce 0 (8 + 2 ^ 32 * 4), .allReduce 0 (7 + 2 ^ 32 * 3), .permute 104 (8 + 2 ^ 32 * 4), .permute 1024 (8 + 2 ^ 32 * 4), .permute 0 (8 + 2 ^ 32 * 3), .permute 0 (7 + 2 ^ 32 * 4), .barrier 104 (8 + 2 ^ 32 * 5), .barrier 1024 (8 + 2 ^ 32 * 5), .barrier 0 (8 + 2 ^ 32 * 0), .barrier 0 (7 + 2 ^ 32 * 5), .collectivePacketReceive (pk 0), .collectivePacketReceive { pk 0x11 with tc := 4 }, .collectivePacketReceive { pk 0x11 with dst := 65536 }, .collectivePacketReceive { pk 0x11 with src := 65536 }, .collectivePacketReceive { pk 0x11 with da := 2 ^ 43 }, .collectivePacketReceive { pk 0x11 with tag := 2 ^ 32 }, .collectivePacketReceive { pk 0x11 with sseq := 2 ^ 32 }, .collectivePacketReceive { pk 0x11 with operand := 2 ^ 64 }, .collectivePacketReceive { pk 0x11 with mid := 2 ^ 32 }, .collectivePacketReceive { pk 0x11 with payload := List.replicate 4097 0 }, .barrierArrivalReceive 65536 0 0 0 0 none, .barrierComplete 104 0, .barrierComplete 1024 0, .reshardIssue 104 (8 + 2 ^ 32 * 4), .reshardIssue 1024 (8 + 2 ^ 32 * 4), .reshardIssue 0 (8 + 2 ^ 32 * 3), .reshardIssue 0 (7 + 2 ^ 32 * 4), .fabLayoutWrite (.host 2) 0, .fabLayoutWrite (.tidy 104) 0, .escrowOpenReceive 65536 0 0 [], .escrowDeltaReceive 65536 0 0 0 [], .escrowCloseReceive 65536 0 [], .sealedReceive 65536 0 0 0, .needFullReceive 65536 0, .freezeReceive 65536 0 0 0 0] : List Instr).all fun c => !c.wf) = true := by decide +kernel

/-- Ill-formed commands, each by one check, are refused. -/
theorem test_wf_refuses_11 : (([.escFreeze (.host 2), .escFreeze (.tidy 104), .escRollback (.host 2), .escRollback (.tidy 104), .escServe (.host 2) 0, .escServe (.tidy 104) 0, .escReceive (.host 2) 0, .escReceive (.tidy 104) 0, .escDigest (.host 2), .escDigest (.tidy 104), .escThaw (.host 2), .escThaw (.tidy 104), .escBadOp (.host 2) 0, .escBadOp (.tidy 104) 0, .escBadOp .steward 1, .escBadOp .steward 22, .thawReceive 65536 0 0, .fillDone 8, .codecOpen 8 0 (2 ^ 32 * 1), .codecOpen 0 1048576 (2 ^ 32 * 1), .codecOpen 0 0 (2 ^ 32 * 2), .codecDecode 8 0 (2 ^ 32 * 2), .codecDecode 0 1048576 (2 ^ 32 * 2), .codecDecode 0 0 (2 ^ 32 * 3), .codecEncode 8 0 (2 ^ 32 * 3), .codecEncode 0 1048576 (2 ^ 32 * 3), .codecEncode 0 0 (2 ^ 32 * 4), .codecRelease 8 0 (2 ^ 32 * 4), .codecRelease 0 1048576 (2 ^ 32 * 4), .codecRelease 0 0 (2 ^ 32 * 5), .codecFlush 8 0 (2 ^ 32 * 5), .codecFlush 0 1048576 (2 ^ 32 * 5), .codecFlush 0 0 (2 ^ 32 * 6), .codecClose 8 0 (2 ^ 32 * 6), .codecClose 0 1048576 (2 ^ 32 * 6), .codecClose 0 0 (2 ^ 32 * 1), .codecItemSelect 8, .codecFrameComplete 8, .codecBufferResume 8, .bar2Access 2 0 false []] : List Instr).all fun c => !c.wf) = true := by decide +kernel

/-- Ill-formed commands, each by one check, are refused. -/
theorem test_wf_refuses_12 : (([.hostAtomic 2 0 0 0 0, .hostAtomic 0 0 3 0 0, .msixAccess 2 0 none, .hostLinkChange 2 false 0 0 false, .mgtGet 2 0 0, .mgtLogRead 2 0 0 0 0, .mgtStage 2 0 0 [], .mgtStageDone 2 0, .mgtNeighbourDiscovery 2, .sealStrapClaim 2, .sealFallbackClaim 2, .sealHeartbeatSend 2, .sealHeartbeatReceive 2, .sealLostClaim 2, .sealHostGrant 2 0 none, .sealHostGrant 0 2 none, .sealCommitReceive 2 0 0, .refMonitorWindow 2 0, .refMissingEdge 2, .refRecovered 2, .clkGate (.host 2) 0, .clkGate (.tidy 104) 0, .clkUngate (.host 2) 0, .clkUngate (.tidy 104) 0, .clkDbgWrite (.host 2) 0, .clkDbgWrite (.tidy 104) 0, .q1ClusterGate 13, .q1ClusterGate 128, .powerExit 0, .powerExit 6, .thermalStep 8 0, .pwrCapWrite (.host 2) 0, .pwrCapWrite (.tidy 104) 0, .pwrLatTolWrite (.host 2) 0, .pwrLatTolWrite (.tidy 104) 0, .resetDie 40, .resetCore 104, .resetCore 1024, .bootRomLoad 2, .firmwareVerified 2] : List Instr).all fun c => !c.wf) = true := by decide +kernel

/-- Ill-formed commands, each by one check, are refused. -/
theorem test_wf_refuses_13 : (([.bursarBooted 2, .testLogicBist (.host 2) 0, .testLogicBist (.tidy 104) 0, .testLpddr6Cal (.host 2) 0, .testLpddr6Cal (.tidy 104) 0, .testOpticalRecal (.host 2) 0, .testOpticalRecal (.tidy 104) 0, .testCancel (.host 2), .testCancel (.tidy 104), .secAttest (.host 2), .secAttest (.tidy 104), .secStage (.host 2), .secStage (.tidy 104), .secEnrollOwner (.host 2), .secEnrollOwner (.tidy 104), .secRevokeOwner (.host 2), .secRevokeOwner (.tidy 104), .secRevokeVendor (.host 2), .secRevokeVendor (.tidy 104), .secAdvanceSvn (.host 2), .secAdvanceSvn (.tidy 104), .secCert (.host 2), .secCert (.tidy 104), .logCursorWrite (.host 2) 0, .logCursorWrite (.tidy 104) 0, .logData7Read ⟨.host 2, 0, 8⟩, .logData7Read ⟨.tidy 104, 0, 8⟩, .logData7Read ⟨.steward, 8, 8⟩, .logData7Read ⟨.steward, 0, 3⟩, .logData7Read ⟨.steward, 0, 16⟩, .irqSourceRaise 12 false, .irqStatusClear (.host 2) 0 0, .irqStatusClear (.tidy 104) 0 0, .irqEnableWrite (.host 2) false 0, .irqEnableWrite (.tidy 104) false 0, .fibreBlockUnlatch 4, .fibreBlockLatch 4, .dieResetComplete 40 0 0, .watchCalibrationComplete 2 0, .sealClaimReceive 2 0] : List Instr).all fun c => !c.wf) = true := by decide +kernel

/-- Ill-formed commands, each by one check, are refused. -/
theorem test_wf_refuses_14 : (([.hostConfigAccess 2 .ids none, .mgtLinkChange 2 false, .ptpMasterLost 2, .escFillStreamReceive 65536 0 0 []] : List Instr).all fun c => !c.wf) = true := by decide +kernel

/-- Well-formed commands pass. -/
theorem test_wf_passes_1 : (([.registerWrite .steward 0 8 0, .spareRotationStart 0, .spareRotationCopy 0, .spareRotationComplete 0, .clusterLost 0 0, .strPrepareGo .steward, .unitArm 0, .strAbandon .steward, .commitReadyReceive 0 0 0 0, .jobAbortReceive 0 0 0, .strDrainComplete 0, .beatFrameReceive ⟨0, 0⟩ 0 0 0 none 0 false 0 0, .heartbeatReceive 0 0, .delayRequestSend ⟨0, 0⟩ 0, .delayRequestReceive 0 0 0 0 0 0, .delayResponseReceive ⟨0, 0⟩ 0 0 0 0 0, .peerLost 0, .ptpMessageReceive 0, .tdLd 0 0 0, .tdSetf 0 0 0 0, .tdIssue 0 0 0, .tdNext 0 0 0, .tdDone 0 0 0, .tdSt 0 0 0, .mmaDescriptor 0 0, .accmemAccess .steward 0 false [], .vecConvert 0 0, .vecAdd 0 (2 ^ 32 * 1), .vecSub 0 (2 ^ 32 * 2), .vecMul 0 (2 ^ 32 * 3), .vecAxpb 0 (2 ^ 32 * 4), .vecMax 0 (2 ^ 32 * 5), .vecMin 0 (2 ^ 32 * 6), .vecExp 0 (2 ^ 32 * 7), .vecLog 0 (2 ^ 32 * 8), .vecRsqrt 0 (2 ^ 32 * 9), .vecRecip 0 (2 ^ 32 * 10), .vecTanh 0 (2 ^ 32 * 11), .vecSigmoid 0 (2 ^ 32 * 12), .vecRowsum 0 (2 ^ 32 * 16), .vecRowmax 0 (2 ^ 32 * 17), .vecRowsq 0 (2 ^ 32 * 18), .steeredDescriptorResume 0 0, .waitBeat 0 0, .waitBeatRelease 0 0, .signal 0 0, .signalSend 0, .signalDeliver 0 0 0, .fence 0 0, .fenceRelease 0, .fenceTimeout 0, .schedulerPacketBoundary 0, .switchWaitExpiry 0, .packetReady 0 0, .dmaCopy 0 (2 ^ 240 * 0), .dmaFill 0 (2 ^ 240 * 1), .dmaTileSave 0 (2 ^ 240 * 2), .dmaTileRestore 0 (2 ^ 240 * 3), .ledgerMemoryRequest .steward false 0 false [] 0 0, .scrubRead 0 0] : List Instr).all fun c => c.wf) = true := by decide +kernel

/-- Well-formed commands pass. -/
theorem test_wf_passes_2 : (([.refresh 0, .calibrationStart 0 0, .calibrationComplete 0 0, .lpddr6Training 0 [] none, .huskEncode 0 0, .stookEncodeResume 0, .stookEncodeComplete 0 0, .huskDecode 0 (2 ^ 32), .stookDecodeComplete 0 0, .stookDirectoryCommit 0, .hskClear 0, .windowConvolution 0 (2 ^ 107 * 0), .windowMaxPool 0 (2 ^ 107 * 1), .windowMeanPool 0 (2 ^ 107 * 2), .stripeLineLoad 0 0, .stripeHaloResume 0 0, .windowStripeComplete 0 0, .winCancel 0, .kvGather 0 0, .kvWalkComplete 0 0 0, .glean 0 0, .alloc .steward 0 0 0, .map .steward 0 0 0, .unmap .steward 0 0 0, .query .steward 0 0 0, .setlen .steward 0 0 0, .returnBushel .steward 0 0 0, .poolstat .steward 0 0 0, .labInvalidate 0 0 0, .labFlush 0, .updateDescriptor 0 9, .updateCheck 0, .skipFlagReceive 0 0 false, .deviceSkipFlagReceive 0 0 false 0, .jobFlagReceive 0 0 false, .rule3PartialReceive 0 0 0 0 0 0 0, .updateLayerWrite 0 0, .updClear 0, .doorbellWrite .steward 0 0 8 0, .doorbellRead .steward 0 0 8, .queueTake 0, .queueEnable .steward 0, .queueDisable .steward 0 false, .queueFlush .steward 0 0, .queueSetlevel .steward 0, .queueQuery .steward 0, .queueBadOp .steward 0, .queueBoundaryEffect 0, .linkFrameSend 0 0, .linkFrameReceive 0 0 none 0, .laneDrop 0 0 0, .portTraining 0 0 0 0 0 0 0, .portRetrain .steward 0, .portDisable .steward 0, .portDown 0 0, .fabricWrite (pk 1), .fabricRead (pk 2), .readResp (pk 3), .fadd64 (pk 4), .cas64 (pk 5)] : List Instr).all fun c => c.wf) = true := by decide +kernel

/-- Well-formed commands pass. -/
theorem test_wf_passes_3 : (([.swap64 (pk 6), .atomicResp (pk 7), .errResp (pk 8), .broadcast 0 (8 + 2 ^ 32 * 0), .reduceScatter 0 (8 + 2 ^ 32 * 1), .allGather 0 (8 + 2 ^ 32 * 2), .allReduce 0 (8 + 2 ^ 32 * 3), .permute 0 (8 + 2 ^ 32 * 4), .barrier 0 (8 + 2 ^ 32 * 5), .collectivePacketReceive (pk 0x11), .barrierArrivalReceive 0 0 0 0 0 none, .barrierComplete 0 0, .reshardIssue 0 (8 + 2 ^ 32 * 4), .fabLayoutWrite .steward 0, .escrowOpenReceive 0 0 0 [], .escrowDeltaReceive 0 0 0 0 [], .escrowCloseReceive 0 0 [], .sealedReceive 0 0 0 0, .needFullReceive 0 0, .freezeReceive 0 0 0 0 0, .escFreeze .steward, .escRollback .steward, .escServe .steward 0, .escReceive .steward 0, .escDigest .steward, .escThaw .steward, .escBadOp .steward 0, .thawReceive 0 0 0, .fillDone 0, .codecOpen 0 0 (2 ^ 32 * 1), .codecDecode 0 0 (2 ^ 32 * 2), .codecEncode 0 0 (2 ^ 32 * 3), .codecRelease 0 0 (2 ^ 32 * 4), .codecFlush 0 0 (2 ^ 32 * 5), .codecClose 0 0 (2 ^ 32 * 6), .codecItemSelect 0, .codecFrameComplete 0, .codecBufferResume 0, .bar2Access 0 0 false [], .hostAtomic 0 0 0 0 0, .msixAccess 0 0 none, .hostLinkChange 0 false 0 0 false, .mgtGet 0 0 0, .mgtLogRead 0 0 0 0 0, .mgtStage 0 0 0 [], .mgtStageDone 0 0, .mgtNeighbourDiscovery 0, .sealStrapClaim 0, .sealFallbackClaim 0, .sealHeartbeatSend 0, .sealHeartbeatReceive 0, .sealLostClaim 0, .sealHostGrant 0 0 none, .sealCommitReceive 0 0 0, .refMonitorWindow 0 0, .refMissingEdge 0, .refRecovered 0, .clkGate .steward 0, .clkUngate .steward 0, .clkDbgWrite .steward 0] : List Instr).all fun c => c.wf) = true := by decide +kernel

/-- Well-formed commands pass. -/
theorem test_wf_passes_4 : (([.q1ClusterGate 0, .powerExit 1, .thermalStep 0 0, .pwrCapWrite .steward 0, .pwrLatTolWrite .steward 0, .resetDie 0, .resetCore 0, .bootRomLoad 0, .firmwareVerified 0, .bursarBooted 0, .testLogicBist .steward 0, .testLpddr6Cal .steward 0, .testOpticalRecal .steward 0, .testCancel .steward, .secAttest .steward, .secStage .steward, .secEnrollOwner .steward, .secRevokeOwner .steward, .secRevokeVendor .steward, .secAdvanceSvn .steward, .secCert .steward, .logCursorWrite .steward 0, .logData7Read ⟨.steward, 0, 8⟩, .irqSourceRaise 0 false, .irqStatusClear .steward 0 0, .irqEnableWrite .steward false 0, .fibreBlockUnlatch 0, .fibreBlockLatch 0, .dieResetComplete 0 0 0, .watchCalibrationComplete 0 0, .sealClaimReceive 0 0, .hostConfigAccess 0 .ids none, .mgtLinkChange 0 false, .ptpMasterLost 0, .escFillStreamReceive 0 0 0 []] : List Instr).all fun c => c.wf) = true := by decide +kernel

/-! ### Single steps -/

/-- The worked example behind R92: key 0x0000_0002_0000_0001, step 3, tensor 5, element 7. -/
theorem test_sr_arx4 : srArx4 0x0000000200000001 3 5 7 = 0x42b8cf25 := by decide +kernel

/-- The same example's conversion of 0x3F80_1000 to FP16: 0x3C01 under SR, 0x3C00 under RNE. -/
theorem test_sr_convert : (convert (Fmt.fp32.decode 0x3f801000) .fp16 (roundOf 2 ⟨0x0000000200000001, 3, 5, 0⟩ 7) false).1 = 0x3c01 ∧
    (convert (Fmt.fp32.decode 0x3f801000) .fp16 .rne false).1 = 0x3c00 := by decide +kernel

/-- The worked example of R121: three products with one below the window, on top of 2^22; the sticky bit decides a tie. -/
theorem test_group_sum : (let (t, st) := groupSum [(Fmt.fp16.decode 0x6400).mul (Fmt.fp16.decode 0x6600), (Fmt.fp16.decode 0x1800).mul (Fmt.fp16.decode 0x1900),
      (Fmt.fp16.decode 0x0001).mul (Fmt.fp16.decode 0x0401)]
    (st, accAdd 0x42a0000000000 t st)) = (true, 0x42ac000000003, 1) := by decide +kernel

/-- The worked example of R183: DA 0x001_2345_6780 of a package region. -/
theorem test_region_place : State.reset.regionLoc ⟨2, 2, 0, 0, 0x100000000, 0x800000000, 0x40000000⟩ 0x123456780 = lpLoc 6 0x4468a780 ∧
    lpChan 0x4468a780 = 2 ∧ lpDev 6 0x4468a780 = 18 := by decide +kernel

/-- The worked example of R108: COARSE for 37.5 in A8 and in FP16, and the fine scale of 25.6 and the code of 409.6 in A8. -/
theorem test_steer_scales : steerCoarse 3 0 0x42160000 0 = 0x3e000000 ∧ steerCoarse 1 0 0x42160000 0 = 0x3a800000 ∧
    fineCode .a8 0 [Fmt.fp32.decode 0x41cccccd] = 0x7b ∧ fineCode .a8 1 [Fmt.fp32.decode 0x41cccccd] = 122 ∧
    (convert (Fmt.fp32.decode 0x43cccccd) .a8 .rne true).1 = 0x7d := by decide +kernel

/-- The table of R219: the outer taps of a row of 5 under replicate and reflect padding. -/
theorem test_padding : ([-6, -5, -4, -3, -2].map fun v => srcIndex v 5 2) = [some 0, some 0, some 0, some 0, some 0] ∧
    ([-6, -5, -4, -3, -2].map fun v => srcIndex v 5 3) = [some 2, some 3, some 4, some 3, some 2] ∧
    ([6, 7, 8, 9, 10].map fun v => srcIndex v 5 2) = [some 4, some 4, some 4, some 4, some 4] ∧
    ([6, 7, 8, 9, 10].map fun v => srcIndex v 5 3) = [some 2, some 1, some 0, some 1, some 2] := by decide +kernel

/-- The cluster-level tree of 12 partials (R163): 11 additions of 1 give 12, and an empty side adds nothing. -/
theorem test_tree : combTree ((List.range 12).map fun i => (i, 1, (accCode .rne (Fmt.fp32.decode 0x3f800000)))) 4 0 =
    some (accCode .rne (Fmt.fp32.decode 0x41400000)) := by decide +kernel

/-- SHA3-256 of the empty string, as FIPS 202 has it. -/
theorem test_sha3_empty : (sha3 []).map (·.toNat) = [0xa7, 0xff, 0xc6, 0xf8, 0xbf, 0x1e, 0xd7, 0x66, 0x51, 0xc1, 0x47, 0x56, 0xa0, 0x61, 0xd6, 0x62, 0xf5, 0x80, 0xff,
    0x4d, 0xe4, 0x3b, 0x49, 0xfa, 0x82, 0xd8, 0x0a, 0x4b, 0x80, 0xf8, 0x43, 0x4a] := by decide +kernel

/-- A write of one register step: an RW field takes its value, and memory is as before (R4). -/
theorem test_register_write : (match exec (.registerWrite .steward 0x7f003000028 8 7) ready with
    | .next t => (t.get .ESC_CURSOR_VALUE, t.mem) | _ => (0, [])) = (7, ready.mem) := by decide +kernel

/-! ### The hypotheses of the statements can be met -/

theorem test_wit_StepRunsTheFrontCommand_1 :
    (State.reset.pending = []) := by decide +kernel

theorem test_wit_StepKeepsSound_1 :
    (Mem.wf ready.mem = true ∧ ready.poison = [] ∧ (ready.flds.all fun e => decide (e.2 < 2 ^ e.1.f.width)) = true ∧
    (match step { ready with pending := [Instr.refresh 0] } with | .next _ => true | _ => false) = true) := by decide +kernel

theorem test_wit_CommandsKeepWhatTheyMust_1 :
    ((match exec (.refresh 0) ready with | .next _ => true | _ => false) = true) := by decide +kernel

theorem test_wit_SpareRotationMovesACluster_1 :
    (rotReady.dieOk 0 = true ∧ rotReady.rotMay 0 = true ∧ rotReady.get .DCTL_CLMAP_SPARE 0 = 12 ∧ rotReady.nextSpare 0 12 = some 0 ∧ rotReady.logClu 0 0 = some 0 ∧
    ready.rotMay 0 = false ∧ rotReady.get .DCTL_CLSTAT_FILL 0 = 0) := by decide +kernel

theorem test_wit_SpareRotationMovesACluster_2 :
    (let s := rotReady.setDie 0 { rotReady.die 0 with rot := some (0, 12, 0, false) }
    Mem.wf s.mem = true ∧ (s.die 0).rot = some (0, 12, 0, false) ∧ s.cluDrained 0 = true) := by decide +kernel

theorem test_wit_SpareRotationMovesACluster_3 :
    (let s := rotReady.setDie 7 { rotReady.die 7 with rot := some (3, 12, 11, true) }
    s.dieOk 7 = true ∧ (s.die 7).rot = some (3, 12, 11, true) ∧ (s.die 7).lossWait = [] ∧ (s.die 7).mapDue = false) := by decide +kernel

theorem test_wit_ClusterLossIsHandledByCount_1 :
    (State.reset.cluOk 0 = true ∧ (State.reset.setBit .DCTL_CLSTAT_LOST 0 true).lost 0 = true) := by decide +kernel

theorem test_wit_ClusterLossIsHandledByCount_2 :
    (State.reset.cluOk 12 = true ∧ State.reset.lost 12 = false ∧ (State.reset.die 0).rot = none ∧ (State.reset.die 0).lossWait = [] ∧
    (State.reset.fenceClu 12).die 0 = State.reset.die 0 ∧ (State.reset.die 0).mapDue = false ∧
    popCount ((State.reset.fenceClu 12).get .DCTL_CLSTAT_LOST 0) 13 = 1 ∧ (State.reset.fenceClu 12).logClu 0 12 = none) := by decide +kernel

theorem test_wit_ClusterLossIsHandledByCount_3 :
    (State.reset.lost 3 = false ∧ popCount ((State.reset.fenceClu 3).get .DCTL_CLSTAT_LOST 0) 13 = 1 ∧ (State.reset.fenceClu 3).logClu 0 3 = some 3 ∧
    State.reset.get .DCTL_CLMAP_SPARE 0 < 13 ∧ (State.reset.fenceClu 3).lost 12 = false) := by decide +kernel

theorem test_wit_ClusterLossIsHandledByCount_4 :
    (let s := (State.reset.set .DCTL_CLMAP_SPARE 15).fenceClu 3
    s.logClu 0 3 = some 3 ∧ 13 ≤ s.get .DCTL_CLMAP_SPARE 0) := by decide +kernel

theorem test_wit_ClusterLossIsHandledByCount_5 :
    (popCount (((State.reset.set .DCTL_CLSTAT_LOST 1).fenceClu 3).get .DCTL_CLSTAT_LOST 0) 13 = 2) := by decide +kernel

theorem test_wit_ClusterLossIsHandledByCount_6 :
    (popCount (((State.reset.set .DCTL_CLSTAT_LOST 3).fenceClu 3).get .DCTL_CLSTAT_LOST 0) 13 = 3) := by decide +kernel

theorem test_wit_ClusterLossIsHandledByCount_7 :
    (let s := State.reset.setDie 0 { DieSt.init with rot := some (0, 12, 0, false) }
    s.cluOk 0 = true ∧ s.lost 0 = false ∧ ((s.fenceClu 0).die 0).rot = some (0, 12, 0, false) ∧ s.cluOk 5 = true ∧ s.lost 5 = false) := by decide +kernel

theorem test_wit_ClusterLossIsHandledByCount_8 :
    (let s := (State.reset.setDie 0 { DieSt.init with rot := some (0, 12, 0, false) }).setCore 0 { CoreSt.init with held := [⟨0, 0, 0, 0, 0, 0, 0⟩] }
    (s.fenceClu 5).cluDrained 0 = false) := by decide +kernel

theorem test_wit_ClusterLossIsHandledByCount_9 :
    (let s := State.reset.setDie 0 { DieSt.init with rot := some (0, 12, 0, true) }
    s.lost 5 = false ∧ ((s.fenceClu 5).die 0).rot = some (0, 12, 0, true)) := by decide +kernel

theorem test_wit_StructureCommandsFollowTheState_1 :
    (ready.get .RST_STATUS_READY = 1 ∧ (ready.set .STR_STATUS_STATE 3).get .STR_STATUS_STATE ∈ [1, 3, 4]) := by decide +kernel

theorem test_wit_StructureCommandsFollowTheState_2 :
    ((ready.pendClear.set .STR_STATUS_STATE 1).strRead 0 0 = some (List.replicate 64 0)) := by decide +kernel

theorem test_wit_StructureCommandsFollowTheState_3 :
    (let s := (ready.set .STR_STATUS_STATE 1).mapStr fun x => { x with pendingBank := [(0, ⟨1, 0, [], clusterSecs⟩)] }
    s.ident.unitOk 0 = true ∧ s.armSet.contains 0 = true ∧ s.armed 0 = false ∧ KMap.has s.str.pendingBank 0 = true ∧
      s.rst.inReset.contains (unitDieIdx 0) = false ∧ unitCheck s.ident s.pendSecs 0 = none) := by decide +kernel

theorem test_wit_StructureCommandsFollowTheState_4 :
    (bit (1 : Word).toNat 0 = true ∧ ready.commitFault 16 (bits (1 : Word).toNat 1 1) (bits (1 : Word).toNat 9 8) = some 0x10) := by decide +kernel

theorem test_wit_StructureCommandsFollowTheState_5 :
    (((ready.set .STR_STATUS_STATE 2).set .STR_COMMIT_BEAT_BEAT 1000).commitFault 16 0 0 = none) := by decide +kernel

theorem test_wit_StructureCommandsFollowTheState_6 :
    (let s := (((ready.set .STR_STATUS_STATE 3).set .STR_ARMED_UNITS (2 ^ 64 - 1) 0 0).set .STR_ARMED_UNITS (2 ^ 64 - 1) 0 1)
    s.str.cutDone = false ∧ s.str.commitB ≤ s.now + s.str.commitLead ∧ (s.mapStr fun y => { y with cutDone := true }).cutFault = none) := by decide +kernel

theorem test_wit_StructureCommandsFollowTheState_7 :
    (let s := ready.set .STR_STATUS_STATE 3
    s.str.commitScope = 0 ∧ (s.mapStr fun y => { y with cutDone := true }).cutFault = some 0 ∧ s.str.abandonReq = false) := by decide +kernel

theorem test_wit_StructureCommandsFollowTheState_8 :
    (let s := (ready.set .STR_STATUS_STATE 3).mapStr fun y => { y with commitScope := 1 }
    s.str.commitScope = 1 ∧ (s.mapStr fun y => { y with cutDone := true }).cutFault = some 0) := by decide +kernel

theorem test_wit_CommitGroupAndFreezesActAtTheirBeats_1 :
    ((paired.tc0In 1 4 0).now < 5 ∧ 0 ≤ (paired.tc0In 1 4 0).now) := by decide +kernel

theorem test_wit_CommitGroupAndFreezesActAtTheirBeats_2 :
    (let x := ((((paired.set .STR_STATUS_STATE 3).mapStr fun y => { y with commitScope := 1, commitB := 5 }).tc0In 1 5 0).mapStr fun y =>
      { y with ready := y.ready.filter fun r => !(r.1 == 1 && r.2.1 == 5) })
    x.get .STR_STATUS_STATE = 3 ∧ x.str.commitScope = 1 ∧ x.str.commitB = 5 ∧ x.now < 5 ∧ x.str.abandonReq = false) := by decide +kernel

theorem test_wit_CommitGroupAndFreezesActAtTheirBeats_3 :
    (State.reset.strCutoff.get .STR_STATUS_STATE ≠ 3) := by decide +kernel

theorem test_wit_CommitGroupAndFreezesActAtTheirBeats_4 :
    (State.reset.ident.unitOk 0 = true ∧ State.reset.get .STR_STATUS_STATE ≠ 4 ∧
    (let s := (State.reset.set .STR_STATUS_STATE 4).mapStr fun x => { x with oldBank := [(0, Image.empty)] }
     s.get .STR_STATUS_STATE = 4 ∧ KMap.has s.str.oldBank 0 = true ∧ s.outstanding 0 = false ∧ unitKind 0 = .clu 0 0)) := by decide +kernel

theorem test_wit_CommitGroupAndFreezesActAtTheirBeats_5 :
    (let x := paired.tc0All paired.commitOthers (.freeze paired.ownId paired.now 0 1)
    x.get .ESC_STATUS_FROZEN ≠ 1 ∧ x.esc.freezes = [] ∧ paired.now + x.freezeDelta < 2 ^ 64) := by decide +kernel

theorem test_wit_CommitGroupAndFreezesActAtTheirBeats_6 :
    (let x := paired.tc0In 1 7 0
    x.get .ESC_STATUS_FROZEN ≠ 1 ∧ x.esc.freezes = [] ∧ 3 + x.freezeDelta < 2 ^ 64) := by decide +kernel

theorem test_wit_CommitGroupAndFreezesActAtTheirBeats_7 :
    (let s := (ready.set .STR_STATUS_STATE 3).setEsc fun e => { e with freezeAt := some 0 }
    s.esc.freezeAt = some 0 ∧ 0 ≤ s.now ∧ s.get .STR_STATUS_STATE = 3 ∧ 0 < (s.mapStr fun x => { x with commitB := 9 }).str.commitB) := by decide +kernel

theorem test_wit_CommitGroupAndFreezesActAtTheirBeats_8 :
    (((paired.set .ESC_STATUS_FROZEN 1).tc0In 1 11 0).get .ESC_STATUS_FROZEN = 1) := by decide +kernel

theorem test_wit_CommitGroupAndFreezesActAtTheirBeats_9 :
    (let s := (ready.set .ESC_STATUS_FROZEN 1).setEsc fun e => { e with thawAt := some 0 }
    s.esc.thawAt = some 0 ∧ s.get .ESC_STATUS_FROZEN = 1 ∧ 0 ≤ s.now) := by decide +kernel

theorem test_wit_BeatEdgesAndFramesDriveTheCount_1 :
    (State.reset.get .RST_STATUS_STAGE = 0 ∧ (State.reset.set .RST_STATUS_STAGE 4).get .RST_STATUS_STAGE ≠ 0 ∧ State.reset.beat.hold = none ∧
    State.reset.beat.adopt = none ∧ State.reset.beat.started = false) := by decide +kernel

theorem test_wit_BeatEdgesAndFramesDriveTheCount_2 :
    ((State.reset.set .BEAT_NOW_COUNT 3).now % 16 ≠ 0 ∧ (State.reset.set .BEAT_NOW_COUNT 3).now % 8 ≠ 0) := by decide +kernel

theorem test_wit_BeatEdgesAndFramesDriveTheCount_3 :
    (let x := ((paired.set .BEAT_STATUS_STATE 4).set .BEAT_NOW_COUNT 32).beatPromote
    ((paired.set .BEAT_STATUS_STATE 4).set .BEAT_NOW_COUNT 32).now % 16 = 0 ∧ x.get .BEAT_STATUS_STATE = 4 ∧ x.beat.demote = false ∧ x.beatAdopt.now % 16 = 0) := by decide +kernel

theorem test_wit_BeatEdgesAndFramesDriveTheCount_4 :
    (((paired.tc0In 1 0 0).hear 1).beatSource = 0) := by decide +kernel

theorem test_wit_BeatEdgesAndFramesDriveTheCount_5 :
    (let x := (((paired.set .BEAT_CFG_SRC 1).set .BEAT_STATUS_STATE 1).tc0In 1 0 0).hear 1
    x.beatSource ≠ 0 ∧ x.get .BEAT_STATUS_STATE ≠ 4 ∧ x.heeds 1 0 = true) := by decide +kernel

theorem test_wit_BeatEdgesAndFramesDriveTheCount_6 :
    ((paired.tc0In 1 1 0).peers.any (·.dev == 1) = true ∧ (paired.tc0In 1 1 0).beat.lostPeers.contains 1 = false) := by decide +kernel

theorem test_wit_BeatEdgesAndFramesDriveTheCount_7 :
    (let s := paired.mapBeat fun b => { b with master := some 1 }
    s.beat.master = some 1 ∧ s.get .BEAT_STATUS_STATE ≠ 4 ∧ paired.beat.master ≠ some 1 ∧ 0 ∈ s.portsTo 1 ∧ (s.set .FAB_PORT_STATE 2 0 0).delayDue 0 = true) := by decide +kernel

theorem test_wit_BeatEdgesAndFramesDriveTheCount_8 :
    (((paired.set .BEAT_STATUS_STATE 4).tc0In 1 2 0).get .BEAT_STATUS_STATE = 4) := by decide +kernel

theorem test_wit_BeatEdgesAndFramesDriveTheCount_9 :
    (let s := (paired.set .BEAT_STATUS_STATE 2).mapBeat fun b => { b with master := some 1, edges := 70 }
    s.beat.master = some 1 ∧ s.get .BEAT_STATUS_STATE ∈ [1, 2] ∧ s.beat.lastOwn + 64 ≤ s.beat.edges ∧ ¬(s.get .STR_STATUS_STATE = 3 ∧ s.str.cutDone = false)) := by decide +kernel

theorem test_wit_BeatEdgesAndFramesDriveTheCount_10 :
    (paired.beat.edges < paired.beat.lastOwn + 64 ∧ paired.beat.edges < paired.heardAt 1 + 64 ∧
    ¬(paired.get .STR_STATUS_STATE = 3 ∧ paired.str.aborted = true ∧ paired.str.cutDone = false)) := by decide +kernel

theorem test_wit_BeatEdgesAndFramesDriveTheCount_11 :
    (let s := paired.mapBeat fun b => { b with edges := 70 }
    s.peers.any (·.dev == 1) = true ∧ s.heardAt 1 + 64 ≤ s.beat.edges ∧ s.beat.lostPeers.contains 1 = false) := by decide +kernel

theorem test_wit_BeatEdgesAndFramesDriveTheCount_12 :
    (let x := ((((paired.set .BEAT_CFG_SRC 1).set .BEAT_STATUS_STATE 2).mapBeat fun b => { b with master := some 1 }).tc0In 1 0 0).hear 1
    x.beatSource ≠ 0 ∧ x.get .BEAT_STATUS_STATE ≠ 4 ∧ x.heeds 2 5 = false) := by decide +kernel

theorem test_wit_TidyCoreInstructionsMoveDescriptors_1 :
    (State.reset.coreOk 5 = true ∧ (State.reset.set .TDY_CFG_AUTO 0 5).programRuns 5 = true ∧ State.reset.programRuns 5 = false ∧ 128 % 64 = 0 ∧ 128 + 64 ≤ coreMem ∧ Mem.wf State.reset.mem = true ∧ 3 % 64 ≠ 0) := by decide +kernel

theorem test_wit_TidyCoreInstructionsMoveDescriptors_2 :
    (let d := KMap.get (mmaReady.core 0).dreg 0 0
    mmaReady.coreOk 0 = true ∧ mmaReady.programRuns 0 = true ∧ mmaReady.canIssue 0 d = true ∧ mmaReady.tdyAdmits d = true ∧ descClass d = 1 ∧ mmaReady.gateOf 0 kMxe = none ∧
      mmaReady.clk.q1 = [] ∧ (mmaReady.core 0).wait = .none ∧ (mmaReady.core 0).stall = none) := by decide +kernel

theorem test_wit_TidyCoreInstructionsMoveDescriptors_3 :
    (let s := mmaReady.setCore 0 { mmaReady.core 0 with wait := .beat false 9 0 0 }
    s.coreOk 0 = true ∧ (s.core 0).wait ≠ .none) := by decide +kernel

theorem test_wit_TidyCoreInstructionsMoveDescriptors_4 :
    (let h : Held := ⟨0, kMxe, noQid, 0, 0, 0, 1⟩
    let s := mmaReady.setCore 0 { mmaReady.core 0 with held := [h, h, h, h] }
    s.programRuns 0 = true ∧ s.tdyAdmits (KMap.get (s.core 0).dreg 0 0) = true ∧ s.canIssue 0 (KMap.get (s.core 0).dreg 0 0) = false) := by decide +kernel

theorem test_wit_TidyCoreInstructionsMoveDescriptors_5 :
    (mmaReady.programRuns 0 = true ∧ (mmaReady.core 0).wait = .none ∧ mmaReady.tdyAdmits (KMap.get (mmaReady.core 0).dreg 1 0) = false) := by decide +kernel

theorem test_wit_WaitsSignalsAndFencesGateIssue_1 :
    (ready.coreOk 0 = true ∧ (ready.core 0).wait = .none ∧ ready.tdyAdmits 11 = true ∧ dbit 11 0 32 = false ∧
    ready.waitDue 0 false (dbits 11 1 63 0) (dbits 11 2 17 0) (ready.get .BEAT_PHASE_CYCLES) = true) := by decide +kernel

theorem test_wit_WaitsSignalsAndFencesGateIssue_2 :
    (let d : Desc := BitVec.ofNat 512 (11 + 5 * 2 ^ 64)
    ready.tdyAdmits d = true ∧ ready.waitDue 0 (dbit d 0 32) (dbits d 1 63 0) (dbits d 2 17 0) (ready.get .BEAT_PHASE_CYCLES) = false) := by decide +kernel

theorem test_wit_WaitsSignalsAndFencesGateIssue_3 :
    (ready.tdyAdmits 0 = false ∧ ready.tdyAdmits 12 = true ∧ ready.tdyAdmits 13 = true ∧
    ready.fenceMet 0 0 (dbits 13 1 9 0) (dbit 13 1 22) (dbits 13 1 21 16) (dbits 13 2 31 0) = true) := by decide +kernel

theorem test_wit_WaitsSignalsAndFencesGateIssue_4 :
    (let s := ready.setCore 0 { ready.core 0 with wait := .beat false 0 0 0 }
    s.coreOk 0 = true ∧ (s.core 0).wait = .beat false 0 0 0 ∧ (s.set .BEAT_PHASE_CYCLES (max 0 (s.get .BEAT_PHASE_CYCLES))).waitDue 0 false 0 0 0 = true ∧
      (s.set .BEAT_PHASE_CYCLES (max 0 (s.get .BEAT_PHASE_CYCLES))).waitDue 0 false 5 0 0 = false) := by decide +kernel

theorem test_wit_WaitsSignalsAndFencesGateIssue_5 :
    (let s := ready.setCore 0 { ready.core 0 with sigs := [⟨0, 0, 3, 1, 2⟩] }
    s.coreOk 0 = true ∧ s.sigReady 0 = some (⟨0, 0, 3, 1, 2⟩, []) ∧ s.sealHeld = false) := by decide +kernel

theorem test_wit_WaitsSignalsAndFencesGateIssue_6 :
    (let s := ready.setCore 0 { ready.core 0 with wait := .fence 1 0 true 0 7 1 0 } |>.set .BEAT_NOW_COUNT 5
    s.coreOk 0 = true ∧ (s.core 0).wait = .fence 1 0 true 0 7 1 0 ∧ 0 + 1 ≤ s.now ∧ s.fenceMet 0 1 0 true 0 7 = false) := by decide +kernel

theorem test_wit_MatrixDescriptorsAddIntoTiles_1 :
    (Mem.wf ready.mem = true ∧ (mmaOf 1).m ≤ 64 ∧ (mmaOf 1).n ≤ 64 ∧ (mmaOf 1).tile < 16) := by decide +kernel

theorem test_wit_MatrixDescriptorsAddIntoTiles_2 :
    (ready.unitTakes 0 kMxe 1 = true ∧ ready.canStart 0 kMxe 1 = true ∧ ready.spansClear 0 kMxe 1 = true ∧ (mmaOf 1).steer = false ∧ (mmaOf 1).out = false ∧ (mmaOf 1).fmtFault 1 0 0 = none ∧
    mmaFmt (mmaOf 1).aFmt = some .fp32 ∧ mmaFmt (mmaOf 1).bFmt = some .fp32 ∧ (mmaOf 1).fault 1 .fp32 .fp32 .fp32 = none ∧
    (ready.core 0).accWait = [] ∧ (ready.core 0).stall = none ∧ ready.poisonGroup 0 (mmaOf 1) .fp32 .fp32 = none) := by decide +kernel

theorem test_wit_MatrixDescriptorsAddIntoTiles_3 :
    ((ready.issue 0 kMxe noQid 17).canStart 0 kMxe 1 = false ∧ (ready.issue 0 kMxe noQid 17).unitTakes 0 kMxe 1 = true ∧
    (ready.issue 0 kMxe noQid 17).tilesBusy 0 1 [0] = true) := by decide +kernel

theorem test_wit_MatrixDescriptorsAddIntoTiles_4 :
    (let s := ready.setDie 0 { ready.die 0 with cache := [(0, ⟨0, true⟩)] } |>.set .TDY_STEP_STEP 5 0
    let d : Desc := BitVec.ofNat 512 (1 + 5 * 2 ^ 421)
    (mmaOf d).steer = true ∧ s.canStart 0 kMxe d = true ∧ s.stale 0 (dbits d 4 9 0) (s.get .TDY_STEP_STEP 0) = true) := by decide +kernel

theorem test_wit_MatrixDescriptorsAddIntoTiles_5 :
    (let d : Desc := BitVec.ofNat 512 (1 + 15 * 2 ^ 424)
    let e : Desc := BitVec.ofNat 512 (1 + 3 * 2 ^ 445)
    (mmaOf d).fmtFault d 0 0 = some (424, 15) ∧ (mmaOf e).fmtFault e 0 0 = none ∧ (mmaOf e).fault e .fp32 .fp32 .fp32 = some (445, 3)) := by decide +kernel

theorem test_wit_MatrixDescriptorsAddIntoTiles_6 :
    (ready.resolve .steward (ready.carveBank .steward) 0x50000400000 = .at (coreLoc 0 0x400000) ∧ isAcc (coreLoc 0 0x400000) = true ∧
    ready.tilesBusy 0 0 [0] = false ∧ accTiles (accOff (coreLoc 0 0x400000)) 8 = [0]) := by decide +kernel

theorem test_wit_MatrixDescriptorsAddIntoTiles_7 :
    (ready.resolve .steward (ready.carveBank .steward) 0x50000000000 = .at (coreLoc 0 0) ∧ isAcc (coreLoc 0 0) = false) := by decide +kernel

theorem test_wit_MatrixDescriptorsAddIntoTiles_8 :
    (ready.resolve .steward (ready.carveBank .steward) 0x60000000000 = .unmapped) := by decide +kernel

theorem test_wit_VectorOperationsWriteTheirRows_1 :
    (ready.unitTakes 0 kVec 2 = true ∧ ready.coreOk 0 = true ∧
    dbits (2 + 2 ^ 32) 0 39 32 = 1 ∧ vecOpListed (dbits 2 0 39 32) = false ∧ dbits (2 + 2 ^ 32) 0 39 32 ≠ 2 ∧ vecOpListed (dbits (2 + 2 ^ 32) 0 39 32) = true) := by decide +kernel

theorem test_wit_VectorOperationsWriteTheirRows_2 :
    (let d : Desc := BitVec.ofNat 512 (2 + 2 ^ 32 + 2 ^ 416)
    let x := vecOf d
    ready.canStart 0 kVec d = true ∧ x.steer = false ∧ firstReserved d (vecReserved false x.steer) = none ∧ vecOpListed x.op = true ∧
      x.fmtFault d false 0 0 = none ∧ x.fault d false .fp32 .fp32 .fp32 = none ∧ ready.vecPoison 0 x d false .fp32 .fp32 = none ∧
      ({ ready with poison := [coreLoc 0 0] } : State).vecPoison 0 x d false .fp32 .fp32 = some (0, coreLoc 0 0)) := by decide +kernel

theorem test_wit_VectorOperationsWriteTheirRows_3 :
    (let d : Desc := BitVec.ofNat 512 (3 + 2 ^ 416)
    firstReserved d (vecReserved true false) = none ∧ (vecOf d).fmtFault d true 0 0 = none ∧ (vecOf d).fault d true .fp32 .fp32 .fp32 = none ∧
      (vecOf 3).fault 3 true .fp32 .fp32 .fp32 = some (416, 0) ∧ firstReserved 2 (vecReserved false false) = none ∧ vecOpListed (vecOf 2).op = false) := by decide +kernel

theorem test_wit_VectorOperationsWriteTheirRows_4 :
    (let d : Desc := BitVec.ofNat 512 (2 + 2 ^ 32 + 15 * 2 ^ 294)
    (vecOf d).fmtFault d false 0 0 = some (294, 15) ∧ (ready.issue 0 kVec noQid 18).canStart 0 kVec d = false) := by decide +kernel

theorem test_wit_VectorOperationsWriteTheirRows_5 :
    (let s := ready.setDie 0 { ready.die 0 with cache := [(0, ⟨0, true⟩)] } |>.set .TDY_STEP_STEP 5 0
    let d : Desc := BitVec.ofNat 512 (2 + 2 ^ 32 + 2 ^ 307)
    (vecOf d).steer = true ∧ s.canStart 0 kVec d = true ∧ s.stale 0 (dbits d 3 41 32) (s.get .TDY_STEP_STEP 0) = true ∧
      (s.steerHold 0 kVec d |>.core 0).steerWait.contains d = true ∧ (ready.core 0).steerWait.contains d = false ∧
      ready.stale 0 (dbits d 3 41 32) 0 = false) := by decide +kernel

theorem test_wit_VectorOperationsWriteTheirRows_6 :
    (Fmt.hasFine .fp32 = false ∧ Mem.wf ready.mem = true ∧
    (packRow .fp32 (convertRow .fp32 0 false (fun _ => .rne) [.fin (Ex.ofNat 1)]).1).length ≤ (vecOf 2).dstLd) := by decide +kernel

theorem test_wit_DoorbellsPublishOrAreDiscarded_1 :
    (let q : QD := 2 ^ 63 + 2 ^ 62 + 2 ^ 59 + 4 * 2 ^ 52 + 2 ^ 19
    let s := (queReady.qPut 5 q)
    queReady.qLoc 5 = some (lpLoc 0 (0x10000000 + 320)) ∧ Mem.wf queReady.mem = true ∧ queReady.poisoned (lpLoc 0 (0x10000000 + 320)) 64 = false ∧
      (s.wake 2).qFind 5 = .desc q ∧ qEnabled q = true ∧ qLevels q = 8 ∧ (1 + 65536 - qTail q 0) % 65536 < 2 ^ 15 ∧
      (1 + 65536 - qHead q 0) % 65536 ≤ 2 ^ qLog2 q ∧ qClass q ≠ 2 ∧
      (let u := qSetTail q 0 1
       qOcc q ≤ qLevel u ∧ qLevel u < qOcc u ∧ qArmed u = true ∧ qIrqEn u = true) ∧
      (let u := qSetTail q 0 0
       ¬ (qOcc q ≤ qLevel u ∧ qLevel u < qOcc u ∧ qArmed u = true ∧ qIrqEn u = true)) ∧
      2 ^ 15 ≤ (40000 + 65536 - qTail q 0) % 65536 ∧ (17 + 65536 - qTail q 0) % 65536 < 2 ^ 15 ∧ 2 ^ qLog2 q < (17 + 65536 - qHead q 0) % 65536) := by decide +kernel

theorem test_wit_DoorbellsPublishOrAreDiscarded_2 :
    (let q : QD := 2 ^ 63 + 2 * 2 ^ 59 + 4 * 2 ^ 52
    qEnabled q = true ∧ qLevels q = 1 ∧ qLevels q ≤ 1 ∧ qClass q = 2 ∧ ((queReady.qPut 5 q).wake 2).qFind 5 = .desc q ∧
      queReady.agentDomain (.host 0) ≠ some (qReaderDomain q) ∧ qEnabled 0 = false ∧ (queReady.wake 2).qFind 5 = .desc 0) := by decide +kernel

theorem test_wit_DoorbellsPublishOrAreDiscarded_3 :
    ((ready.wake 2).qFind 5 = .noTable ∧ ({ queReady with poison := [lpLoc 0 (0x10000000 + 320)] } : State).qFind 5 = .poison ∧
    queReady.qFind 5 = .desc 0) := by decide +kernel

theorem test_wit_QueueOperationsComplete_1 :
    (let q : QD := 2 ^ 59 + 4 * 2 ^ 52 + 2 ^ 64 * 0x20000000
    let s := queReady.qPut 5 q
    s.get .RST_STATUS_READY = 1 ∧ s.que.waiting = none ∧ s.qFind 5 = .desc q ∧ qInPkt q = false ∧
      ((s.set .QUE_OP_RES_DONE 0).qTouch q 5).enableStatus 5 q = 0) := by decide +kernel

theorem test_wit_QueueOperationsComplete_2 :
    (let q : QD := 2 ^ 59 + 4 * 2 ^ 52 + 2 ^ 64 * 0x20000000 + 2 ^ 15
    let s := queReady.qPut 5 q
    s.qFind 5 = .desc q ∧ qInPkt q = true ∧ s.get .RST_STATUS_READY = 1 ∧ s.que.waiting = none) := by decide +kernel

theorem test_wit_QueueOperationsComplete_3 :
    (queReady.qFind 5 = .desc 0 ∧ ((queReady.set .QUE_OP_RES_DONE 0).qTouch 0 5).enableStatus 5 0 = 2 ∧ ready.qFind 5 = .noTable ∧
    ({ queReady with poison := [lpLoc 0 (0x10000000 + 320)] } : State).qFind 5 = .poison ∧
    ({ queReady with que := { queReady.que with waiting := some (2, 5, 0) } } : State).que.waiting.isSome = true ∧
    State.reset.get .RST_STATUS_READY ≠ 1 ∧ ¬ (1 ≤ 6 % 16 ∧ 6 % 16 ≤ 5) ∧ (1 ≤ 17 % 16 ∧ 17 % 16 ≤ 5)) := by decide +kernel

theorem test_wit_QueueOperationsComplete_4 :
    (let s := ({ queReady with que := { queReady.que with waiting := some (3, 5, 1) } } : State)
    s.qFind 5 = .desc 0 ∧ qInPkt 0 = false ∧ KMap.get? s.que.dueOff 5 = none ∧ (s.qFlush 5 0 1).1.que.dueOff = s.que.dueOff) := by decide +kernel

theorem test_wit_SchedulerTakesTheBestReadyPacket_1 :
    (let s := schedReady
    s.coreOk 0 = true ∧ s.atBoundary 0 = true ∧ (s.cands 0).length = 1 ∧
      (s.candBest 0 ((s.readyCands 0).filter fun k => k.mb == 0)).isSome = true ∧
      (s.candBest 0 ((s.readyCands 0).filter fun k => k.mb == s.curMb 0)) = none) := by decide +kernel

theorem test_wit_SchedulerTakesTheBestReadyPacket_2 :
    (let s := schedReady.setWait 0 .switch
    s.atBoundary 0 = true ∧ (s.core 0).wait = .switch ∧ (s.candBest 0 (s.readyCands 0)).isSome = true) := by decide +kernel

theorem test_wit_SchedulerTakesTheBestReadyPacket_3 :
    (ready.coreOk 0 = true ∧ ready.atBoundary 0 = true ∧ ready.candBest 0 ((ready.readyCands 0).filter fun k => k.mb == ready.curMb 0) = none ∧
    (ready.core 0).wait = .none ∧ ((ready.setWait 0 .switch).candBest 0 ((ready.setWait 0 .switch).readyCands 0)) = none ∧
    (ready.setCore 0 { ready.core 0 with chosen := true }).atBoundary 0 = false) := by decide +kernel

theorem test_wit_SchedulerTakesTheBestReadyPacket_4 :
    (ready.switchTiles 0 3 = 0 ∧ (3 : Nat) ≠ (ready.set .TDY_STATUS_CUR_MB 5 0).curMb 0 ∧ (ready.set .TDY_STATUS_CUR_MB 5 0).curMb 0 ≠ 0xffff ∧
    (ready.set .TDY_STATUS_CUR_MB 5 0).switchTiles 0 3 = 0) := by decide +kernel

theorem test_wit_SchedulerTakesTheBestReadyPacket_5 :
    (let s := schedQ 3
    let s' := ({ s with que := { s.que with drop := [(5, 0)] } } : State)
    let v : QD := 2 ^ 63 + 2 ^ 59 + 4 * 2 ^ 52 + 2 ^ 64 * (0x20000000 + 3 * 2 ^ 61) + 2 ^ 256
    s.qPeek 5 = some (v, 0, some 1) ∧ qReaderKind v = 3 ∧ descEop 1 = false ∧ (KMap.get s.vce (qReader v) VceSt.init).job = none ∧
      s.get .ESC_STATUS_FROZEN ≠ 1 ∧ KMap.has s.que.drop 5 = false ∧ KMap.has s'.que.drop 5 = true) := by decide +kernel

theorem test_wit_SchedulerTakesTheBestReadyPacket_6 :
    (queReady.qPeek 5 = none ∧ queReady.qFind 5 ≠ .poison) := by decide +kernel

theorem test_wit_SchedulerTakesTheBestReadyPacket_7 :
    (let s := schedReady.setCore 0 { schedReady.core 0 with chosen := true } |>.set .TDY_CFG_AUTO 1 0
    let v : QD := 2 ^ 63 + 2 ^ 59 + 4 * 2 ^ 52 + 2 ^ 64 * 0x20000000 + 2 ^ 256
    s.qPeek 5 = some (v, 0, some 1) ∧ qReaderKind v = 0 ∧ s.physCore (qReader v) = some 0 ∧
      KMap.has s.que.drop 5 = false ∧ s.poisonBind 0 5 = none ∧ s.get .TDY_CFG_AUTO 0 = 1 ∧ s.coreMayTake 0 5 = true ∧
      schedReady.coreMayTake 0 5 = false ∧ (s.set .TDY_CFG_AUTO 0 0).programRuns 0 = true ∧ (s.core 0).inPacket = false ∧ (s.core 0).dropping = none ∧
      s.get .TDY_QBIND_QID 0 (s.core 0).bind = 5) := by decide +kernel

theorem test_wit_DmaMovesRowsThroughTheMap_1 :
    (let d : Desc := BitVec.ofNat 512 (4 + 2 ^ 64 * 0x50000000000 + 2 ^ 128 * 0x50000001000 + 2 ^ 192 * 64)
    let a := dmaAgent 0
    let img := ready.bankFor (unitDie 0) (ready.heldFor 0 kDma d).beat
    dbits d 3 49 48 = 0 ∧ ready.canStart 0 kDma d = true ∧ ready.coreOk 0 = true ∧ ready.unitTakes 0 kDma d = true ∧
      firstReserved d dmaReserved = none ∧ dbits d 3 23 0 % 64 = 0 ∧ spansMeet (dmaRows d false) (dmaRows d true) = false ∧
      ready.spansRange a img (dmaRows d false) = .ok ∧ ready.spansRange a img (dmaRows d true) = .ok ∧
      ready.spansFree 0 kDma d a img (dmaRows d false ++ dmaRows d true) = true ∧
      (ready.dmaCopyRows a img ((dmaRows d false).zip (dmaRows d true))).2 = none ∧
      (({ ready with poison := [coreLoc 0 0] } : State).dmaCopyRows a img ((dmaRows d false).zip (dmaRows d true))).2 = some 0x50000000000 ∧
      ready.resolve a img 0x50000001000 = .at (coreLoc 0 0x1000)) := by decide +kernel

theorem test_wit_DmaMovesRowsThroughTheMap_2 :
    (let a := dmaAgent 0
    let img := ready.bankFor (unitDie 0) 0
    (ready.ownTile a img 0 0x50000400000).isSome = true ∧ ready.spansRange a img [(0x60000000000, 64)] = .unmapped 0x60000000000 ∧
      (ready.issue 0 kDma noQid 68).canStart 0 kDma 4 = false ∧ dbits 4 3 49 48 ≠ 1 ∧
      (ready.issue 0 kMxe noQid 1).spansFree 0 kDma 4 a img [(0x50000400000, 64)] = false ∧
      spansMeet [(0, 64)] [(32, 64)] = true) := by decide +kernel

theorem test_wit_LedgerDiesServeTheirMemory_1 :
    ((0x10000000 : Nat) < ready.lpSize ∧ (ready.regionAt (ready.bank (unitLedger 0)) 0x10000000).isSome = true ∧
    ready.resolve (.host 0) (ready.bank (unitLedger 0)) 0x10000000 = .at (lpLoc 0 (0x10000000 / 4096 / 8 * 4096)) ∧
    ready.memBusy (ready.bank (unitLedger 0)) 0x10000000 8 = false ∧ ready.fencedAt (lpLoc 0 (0x10000000 / 4096 / 8 * 4096)) = false ∧
    ({ ready with rst := { ready.rst with cal := [(0, 0), (1, 0), (2, 0)] } } : State).memBusy (ready.bank (unitLedger 0)) 0x10000000 8 = true) := by decide +kernel

theorem test_wit_LedgerDiesServeTheirMemory_2 :
    (ready.lpSize ≤ 0x60000000000 ∧ queReady.regionAt (queReady.bank (unitLedger 0)) 0x70000000 = none) := by decide +kernel

theorem test_wit_LedgerDiesServeTheirMemory_3 :
    (let s := ready.set .LDG_CFG_SCRUB_H 24 0
    s.dieOk 0 = true ∧ s.get .LDG_CFG_SCRUB_H 0 ≠ 0 ∧ s.get .LDG_STATUS_STATE 0 ≠ 3 ∧ s.clk.stopped = false ∧ s.chanBusy 0 (KMap.get s.rst.scrub 0 0) = false ∧ s.fencedAt (lpLoc 0 (KMap.get s.rst.scrub 0 0)) = false) := by decide +kernel

theorem test_wit_LedgerDiesServeTheirMemory_4 :
    (ready.get .LDG_STATUS_STATE 0 ≠ 3 ∧ ready.get .LDG_STATUS_STATE 0 ≠ 5 ∧ 1 ∈ bitList (ready.calDue 0 2) 3 ∧
    (ready.rst.cal.any fun c => c.1 == 3 * 0 + 1) = false ∧ bitList (ready.calDue 0 0) 3 = []) := by decide +kernel

theorem test_wit_LedgerDiesServeTheirMemory_5 :
    (let s := (ready.calBegin 0 1)
    (s.rst.cal.any fun c => c.1 == 0) = true ∧ (s.rst.cal.any fun c => c.1 == 1) = false ∧
      bit ((s.calChannel 0 3 false).get .LDG_CAL_RETRY 0) 3 = true ∧ bit (s.get .LDG_CAL_RETRY 0) 3 = false) := by decide +kernel

theorem test_wit_LedgerDiesServeTheirMemory_6 :
    (ready.rst.lpOk = false ∧ ready.get .RST_STATUS_STAGE ≠ 6 ∧ ready.get .LDG_STATUS_STATE 0 = 0 ∧ ready.trainFault 0 [2, 2, 2] none = none ∧
    ready.trainFault 0 [2, 0, 2] none = some (1, 0)) := by decide +kernel

theorem test_wit_HuskKeepsTheStook_1 :
    (let d : Desc := BitVec.ofNat 512 (6 + 2 ^ 64 * 0x50000000000 + 2 ^ 128 * 0x50000001000)
    let img := ready.huskBank 0 d
    let a := huskAgent 0
    let out := (huskRecords 0 (hskFrame d) (ready.huskWords 0 img d)).flatMap id
    ready.unitTakes 0 kHsk d = true ∧ ready.huskBusy 0 d = false ∧ ready.huskWaits 0 d = false ∧
      hskFault img d = none ∧ otherStook img 0 (hskDst d) = false ∧ dbit d 0 32 = false ∧
      (stookOf img 0).all (fun x => x.2.base != hskDst d) = true ∧ ready.range a img (hskSrc d) (hskLen d) = .ok ∧
      ready.spansFree 0 kHsk d a img [(hskSrc d, hskLen d)] = true ∧ ready.poisonDa a img (hskSrc d) (hskLen d) = none ∧
      ready.range a img (hskDst d) out.length = .ok ∧ ready.spansFree 0 kHsk d a img [(hskDst d, out.length)] = true ∧
      hskFault img (BitVec.ofNat 512 (6 + 2 ^ 192)) = some (192, 1)) := by decide +kernel

theorem test_wit_HuskKeepsTheStook_2 :
    (let d : Desc := BitVec.ofNat 512 (6 + 2 ^ 32 + 2 ^ 64 * 0x50000000000 + 2 ^ 128 * 0x50000001000)
    let img := ready.huskBank 0 d
    let a := huskAgent 0
    ready.unitTakes 0 kHsk d = true ∧ ready.huskBusy 0 d = false ∧ ready.huskWaits 0 d = false ∧
      hskFault img d = none ∧ otherStook img 0 (hskSrc d) = false ∧ dbit d 0 32 = true ∧
      (stookOf img 0).all (fun x => x.2.base != hskSrc d) = true ∧ ready.range a img (hskSrc d) 0 = .ok ∧ ready.range a img (hskDst d) 0 = .ok ∧
      ready.spansFree 0 kHsk d a img [(hskSrc d, 0), (hskDst d, 0)] = true ∧ (ready.huskRead 0 d img (hskLen d) (hskFrame d) fun o => hskSrc d + o).2 = true ∧
      (({ ready with clk := { ready.clk with stopped := true } } : State).huskWaits 0 d) = true ∧
      (let s := ready.setStk 0 { ready.stk 0 with reads := [(0, d, true)] }
       s.huskBusy 0 d = true ∧ s.unitTakes 0 kHsk d = true)) := by decide +kernel

theorem test_wit_HuskKeepsTheStook_3 :
    (let r : Region := ⟨9, 0, 0, 0, 0x30000000, 0x1000000, 0x30000000⟩
    (stookReady.dirGet r 0).state = 0 ∧ (stookReady.stk 0).line = [] ∧ (stookReady.stk 0).dir = some (lpLoc 0 0x30000000) ∧
      stookReady.dieOk 0 = true ∧ (List.range 104).all (fun k => stookReady.heldOf k kHsk == []) = true) := by decide +kernel

theorem test_wit_HuskKeepsTheStook_4 :
    (stookOf (stookReady.bank (unitLedger 0)) 0 = some (⟨0, 0, 0, 3, 4, 2, 1, 6⟩, ⟨9, 0, 0, 0, 0x30000000, 0x1000000, 0x30000000⟩) ∧
    KMap.has stookReady.str.oldBank (unitLedger 0) = false ∧
    (let s := stookReady.setStk 0 { stookReady.stk 0 with key := [1] }
     stookKey (s.bank (unitLedger 0)) 0 ≠ (s.stk 0).key) ∧ ready.get .ESC_STATUS_FROZEN ≠ 1 ∧ ready.clk.stopped = false) := by decide +kernel

theorem test_wit_HuskKeepsTheStook_5 :
    (let s := stookReady.setStk 0 { stookReady.stk 0 with runs := [⟨0, 6, 0, 0, 0, 0, 0⟩], reads := [(0, 6, true)] }
    (s.stk 0).runs.find? (fun r => r.core == 0 && r.d == 6) = some ⟨0, 6, 0, 0, 0, 0, 0⟩ ∧
      (s.stk 0).reads.find? (fun r => r.1 == 0 && r.2.1 == 6) = some (0, 6, true) ∧ (stookOf (s.huskBank 0 6) 0).isSome = true ∧
      (stookReady.stk 0).runs.find? (fun r => r.core == 0 && r.d == 6) = none) := by decide +kernel

theorem test_wit_HuskKeepsTheStook_6 :
    (let d : Desc := BitVec.ofNat 512 (6 + 2 ^ 128 * 0x30000000)
    let s := stookReady
    s.unitTakes 0 kHsk d = true ∧ s.huskBusy 0 d = false ∧ s.huskWaits 0 d = false ∧ hskFault (s.huskBank 0 d) d = none ∧
      otherStook (s.huskBank 0 d) 0 (hskDst d) = false ∧ s.range (huskAgent 0) (s.huskBank 0 d) (hskSrc d) (hskLen d) = .ok ∧
      s.spansFree 0 kHsk d (huskAgent 0) (s.huskBank 0 d) [(hskSrc d, hskLen d)] = true ∧ s.stookBusy 0 = false ∧
      (s.stk 0).line = []) := by decide +kernel

theorem test_wit_HuskKeepsTheStook_7 :
    (let d : Desc := BitVec.ofNat 512 (6 + 2 ^ 32 + 2 ^ 64 * 0x30000000)
    let s := stookReady
    s.unitTakes 0 kHsk d = true ∧ s.huskWaits 0 d = false ∧ hskFault (s.huskBank 0 d) d = none ∧
      otherStook (s.huskBank 0 d) 0 (hskSrc d) = false ∧ s.stookBusy 0 = false ∧ hskLen d = 0) := by decide +kernel

theorem test_wit_HuskKeepsTheStook_8 :
    (let s := ready.setCore 3 { ready.core 3 with held := [⟨0, kHsk, 0, 0, 0, 0, 6⟩] }
    (s.stk 0).line = [] ∧ s.dieOk 0 = true ∧ s.heldOf 3 kHsk ≠ []) := by decide +kernel

theorem test_wit_WindowUnitGathersAndRunsStripes_1 :
    (let x := winOf winDesc
    let img := ready.bankFor (unitDie 0) (ready.heldFor 0 kWin winDesc).beat
    ready.unitTakes 0 kWin winDesc = true ∧ dbits winDesc 1 44 43 = 0 ∧ dbits (winDesc + BitVec.ofNat 512 (2 ^ 108)) 1 44 43 = 2 ∧
      (ready.winSt 0).gather = [] ∧ (ready.winSt 0).run = [] ∧ (ready.winSt 0).dead = [] ∧
      ready.heldOf 0 kWin = [] ∧ ready.clk.stopped = false ∧ x.fault winDesc = none ∧ x.fmtFault = none ∧
      ready.range (winAgent 0) img x.src (x.inLen ((winIn x.inFmt).getD .fp16)) = .ok ∧
      ready.range (winAgent 0) img x.dst (x.outLen ((winOut x.outFmt).getD .fp32)) = .ok ∧
      (winOf (BitVec.ofNat 512 3)).fault 3 = some (111, 0)) := by decide +kernel

theorem test_wit_WindowUnitGathersAndRunsStripes_2 :
    (let s := ready.setWin 0 { WinSt.init with gather := [(0, 0, winDesc)] }
    let d := winDesc + BitVec.ofNat 512 (2 ^ 352)
    let d' := winDesc + BitVec.ofNat 512 (2 ^ 128)
    (s.winSt 0).gather = [(0, 0, winDesc)] ∧ (s.winSt 0).run = [] ∧ [(0, 0, winDesc)].length = (winOf winDesc).ns ∧
      s.bankWait 0 kWin (s.heldFor 0 kWin winDesc).beat = false ∧ s.cluOk 0 = true ∧
      ((s.winSt 0).gather.find? fun e => winKey e.2.2 != winKey d || e.1 == (winOf d).stripe) = none ∧
      ((s.winSt 0).gather.find? fun e => winKey e.2.2 != winKey d' || e.1 == (winOf d').stripe) = some (0, 0, winDesc) ∧
      (s.winSt 0).gather.any (fun e => e.2.1 == 0) = true ∧ (s.winSt 0).gather.any (fun e => e.2.1 == 1) = false) := by decide +kernel

theorem test_wit_WindowUnitGathersAndRunsStripes_3 :
    (let e := (0, 0, winDesc)
    let x := winOf winDesc
    winReady.cluOk 0 = true ∧ (winReady.winSt 0).stripe 0 = some e ∧ (winReady.winSt 0).stripe 1 = none ∧ 0 < x.lines ∧
    x.lineRow 0 = some (0, 0) ∧ (winReady.winSt 0).mayLoad 0 0 = true ∧ winReady.clk.stopped = false ∧
    (let img := winReady.bankFor (unitDie 0) (winReady.heldFor 0 kWin winDesc).beat
     let seg := [(x.src, (x.own 1 - x.own 0) * pitch x.c ((winIn x.inFmt).getD .fp16))]
     winReady.spansFree 0 kWin winDesc (winAgent 0) img seg = true ∧ (seg.findSome? fun p => winReady.poisonDa (winAgent 0) img p.1 p.2) = none) ∧
    bit (winReady.get .WIN_STATUS_DONE 0) 0 = false ∧ KMap.get (winReady.winSt 0).retired 0 0 < x.lines) := by decide +kernel

theorem test_wit_WindowUnitGathersAndRunsStripes_4 :
    (let s := winReady.setWin 0 { winReady.winSt 0 with loaded := [(0, 1)], retired := [(0, 1)] }
    (s.winSt 0).stripe 0 = some (0, 0, winDesc) ∧ (winOf winDesc).lines ≤ KMap.get (s.winSt 0).retired 0 0 ∧
      KMap.get (s.winSt 0).loaded 0 0 ≤ KMap.get (s.winSt 0).retired 0 0) := by decide +kernel

theorem test_wit_NoQueueTableAndBadOp_1 :
    (ready.get .RST_STATUS_READY = 1 ∧ ready.que.waiting = none ∧ ready.qFind 0xfffff = .noTable ∧ ready.qFind 0 = .noTable ∧ ¬ (1 ≤ 0 ∧ 0 ≤ 5) ∧ ¬ (1 ≤ 6 % 16 ∧ 6 % 16 ≤ 5)) := by decide +kernel

theorem test_wit_TroubleLogTakesWritesAndReads_1 :
    (let e : Entry := ⟨0, 0, 0, 1, 1, 0, []⟩
    let s := ready.mapLog fun g => { g with flight := [(0, e)], started := true, intake := [(0, e)], dropCount := 2 }
    s.log.flight[0]? = some (0, e) ∧ s.logRoom 0 e.sev = true ∧ s.log.started = true ∧ s.log.intake = [(0, e)] ∧ s.get .LOG_SEQ_NEXT = 0 ∧
      s.log.dropCount ≠ 0 ∧ s.logRoom (s.get .LOG_STATUS_HUB) 1 = true ∧ s.get .LOG_CURSOR_STATE < 2 ∧
      s.logSeg (s.get .LOG_CURSOR_SEG) = some ([], 0) ∧ (s.set .LOG_CURSOR_SEG 9).logSeg 9 = none) := by decide +kernel

theorem test_wit_TroubleLogTakesWritesAndReads_2 :
    (let e : Entry := ⟨0, 0, 0, 1, 1, 0, []⟩
    let s := (ready.mapLog fun g => { g with flight := [(0, e)], started := true, intake := List.replicate 4080 (0, e) }).set .LOG_CURSOR_STATE 2
    s.log.flight[0]? = some (0, e) ∧ s.logRoom 0 e.sev = false ∧ s.get .LOG_CURSOR_STATE = 2) := by decide +kernel

theorem test_wit_TroubleLogTakesWritesAndReads_3 :
    (let e : Entry := ⟨0, 0, 0, 1, 1, 0, []⟩
    let s := (ready.mapLog fun g => { g with started := true, intake := [(0, e)], ring := [(0, e)] }).set .LOG_SEQ_NEXT 1
    s.get .LOG_SEQ_NEXT = 1 ∧ KMap.get? s.log.ring 0 = some e ∧ e.same e = true ∧ s.get .LOG_CURSOR_SEQ < 1) := by decide +kernel

theorem test_wit_TroubleLogTakesWritesAndReads_4 :
    (mayRead .steward .LOG 0 = true ∧ mayRead (.host 0) .LOG 0 = true ∧ ready.rst.inReset.contains (32 + ready.inCharge) = false ∧ ready.get .LOG_CURSOR_STATE < 2 ∧
    (ready.set .LOG_CURSOR_STATE 3).get .LOG_CURSOR_STATE = 3) := by decide +kernel

theorem test_wit_InterruptsSendOnceAtARise_1 :
    (let s := ((ready.set .GLB_IRQ_STATUS_SRC 4).set .GLB_IRQ_EN_HOST 0).set .GLB_IRQ_STW_STW 0
    bit (s.get .GLB_IRQ_STATUS_SRC) 2 = true ∧ bit (s.get .GLB_IRQ_STATUS_SRC) 11 = false ∧ bit (s.get .GLB_IRQ_EN_HOST) 11 = false ∧
      irqUnmaskable 2 = true ∧ irqUnmaskable 11 = false ∧ bit (s.get .GLB_IRQ_STW_STW) 2 = false ∧ s.get .GLB_IRQ_STATUS_SRC < 2 ^ 12) := by decide +kernel

theorem test_wit_InterruptsSendOnceAtARise_2 :
    (let s := ((ready.set .GLB_IRQ_STATUS_SRC 8).set .GLB_IRQ_EN_HOST 0)
    bit (s.get .GLB_IRQ_STATUS_SRC) 3 = true ∧ bit (s.get .GLB_IRQ_EN_HOST) 3 = false ∧ irqUnmaskable 3 = false) := by decide +kernel

theorem test_wit_HostAndManagementAccessesAreAnswered_1 :
    (State.reset.linkOk 1 = true ∧ State.reset.get .RST_STATUS_READY = 0 ∧ ready.get .RST_STATUS_READY ≠ 0 ∧ ready.clk.entering = none ∧
    ready.get .PWR_STATE_CURRENT < 2 ∧ (4 : Nat) % 8 ≠ 0 ∧ (ready.set .RST_STATUS_STAGE 4).get .RST_STATUS_STAGE > 1 ∧ within 30 (10 + 20) 43 = true ∧
    within 30 (24 + 20) 43 = false ∧ KMap.get ({ ready with pba := [((0, 2047), true)] } : State).pba (0, 32764 / 16) false = true) := by decide +kernel

theorem test_wit_HostAndManagementAccessesAreAnswered_2 :
    (let s := (ready.set .MGT_STATUS_LINK_A 1).set .MGT_CFGA_ENABLE 1
    s.mgtOk 0 = true ∧ s.mgtUp 0 = true ∧ s.get .RST_STATUS_READY = 1 ∧ ready.mgtUp 1 = false ∧ ready.mgtOk 1 = true) := by decide +kernel

theorem test_wit_SealClaimsAndHeartbeats_1 :
    (let s : State := { ready with rst := { ready.rst with verified := [0, 1] } }
    s.stw.holds.filter (fun h => h.1 != 0) = [] ∧ s.sealUnit 0 = true ∧ s.sealUnit 1 = true ∧ s.rst.verified.contains 0 = true ∧ s.rst.verified.contains 1 = true ∧
      (s.get .STW_SEAL_SEQ + 1) % 2 ^ 32 = s.get .STW_SEAL_SEQ + 1 ∧ s.stw.claimed.contains 0 = false ∧ s.sealPref = 0 ∧ s.stw.seen.contains 1 = false ∧
      s.sealHolds 0 = none ∧ s.beat.coldNs < s.stw.origin + 200000000) := by decide +kernel

theorem test_wit_SealClaimsAndHeartbeats_2 :
    (let s : State := { ready with rst := { ready.rst with verified := [0, 1] }, beat := { ready.beat with coldNs := 200000000, edges := 64 }, stw := { ready.stw with heard := [(0, 0)] } }
    s.stw.origin + 200000000 ≤ s.beat.coldNs ∧ KMap.get? s.stw.heard 0 = some 0 ∧ 0 + 64 ≤ s.beat.edges ∧ (s.set .STW_SEAL_STATE 0).get .STW_SEAL_STATE ≠ 3) := by decide +kernel

theorem test_wit_SealClaimsAndHeartbeats_3 :
    (let s : State := { ready with stw := { ready.stw with holds := [(1, 7)] } }
    s.sealHolds 1 = some 7 ∧ s.sealUnit 1 = true) := by decide +kernel

theorem test_wit_SealHandover_1 :
    (ready.ident.member = .a8 ∧ (ready.set .STW_SEAL_STATE 0).get .STW_SEAL_STATE = 0 ∧ ready.get .STR_STATUS_STATE ≠ 1 ∧ ready.get .STR_STATUS_STATE ≠ 3 ∧ ready.get .STR_STATUS_STATE ≠ 4 ∧
    (ready.set .STR_STATUS_STATE 3).get .STR_STATUS_STATE = 3 ∧ ready.stw.dispute = none ∧ 1 ≠ ready.get .STW_SEAL_HOLDER ∧ ready.stw.offer = none) := by decide +kernel

theorem test_wit_SealHandover_2 :
    (let o : SealOffer := ⟨1, false, 0, true, none, none, none, false⟩
    let s := ready.setOffer (some o)
    s.stw.offer = some o ∧ o.got = true ∧ o.accepted = none ∧ s.sealUnit o.taker = true ∧ o.withdrawn = false ∧ o.h = none) := by decide +kernel

theorem test_wit_SealHandover_3 :
    (let o : SealOffer := ⟨1, false, 0, true, some 0, none, none, false⟩
    let s := ({ ready with beat := { ready.beat with edges := 5 } } : State).setOffer (some o)
    s.stw.offer = some o ∧ o.accepted = some 0 ∧ o.takerH = none ∧ s.sealHolds o.taker = none ∧ s.now < 0 + ceilDiv 1000000 s.period) := by decide +kernel

theorem test_wit_SealHandover_4 :
    (let o : SealOffer := ⟨1, false, 0, true, some 0, some 4, some 4, false⟩
    let s := (ready.set .BEAT_NOW_COUNT 5000).setOffer (some o)
    o.takerH = some 4 ∧ 4 ≤ s.now ∧ 0 + ceilDiv 1000000 s.period ≤ s.now ∧ o.taker < 2) := by decide +kernel

theorem test_wit_SealDisputes_1 :
    (let s : State := { ready with stw := { ready.stw with holds := [(0, 3), (1, 4)] } }
    s.sealHolds 0 = some 3 ∧ s.sealHolds 1 = some 4 ∧ s.stw.dispute = none ∧ s.sealUnit 0 = true) := by decide +kernel

theorem test_wit_SealDisputes_2 :
    (let s : State := { ready with stw := { ready.stw with holds := [(0, 3), (1, 4)] }, rst := { ready.rst with inReset := [32] } }
    s.sealHolds 0 = some 3 ∧ s.sealHolds 1 = some 4 ∧ s.sealUnit 0 = false) := by decide +kernel

theorem test_wit_SealDisputes_3 :
    (let s : State := { ready with stw := { ready.stw with holds := [(1, 4)] } }
    s.sealHolds 1 = some 4 ∧ s.sealHolds 0 = none ∧ s.sealUnit 1 = true ∧ s.sealUnit 0 = true ∧ s.stw.dispute = none) := by decide +kernel

theorem test_wit_SealDisputes_4 :
    (let x : SealDispute := ⟨0, 3, 4, none, 0, none, false⟩
    let s : State := { ready.set .BEAT_NOW_COUNT 48829 with stw := { ready.stw with dispute := some x } }
    s.stw.dispute = some x ∧ x.r = none ∧ s.ident.member = .a8 ∧ x.d + ceilDiv 50000000 s.period ≤ s.now ∧ ready.now < 0 + ceilDiv 50000000 ready.period) := by decide +kernel

theorem test_wit_SealDisputes_5 :
    (let x : SealDispute := ⟨0, 3, 4, some 9, 0, none, false⟩
    let s : State := { ready.set .BEAT_NOW_COUNT 13 with stw := { ready.stw with dispute := some x, heldPkg := [.sealHeartbeat 0 3] } }
    s.stw.dispute = some x ∧ x.r = some 9 ∧ 9 + 4 ≤ s.now ∧ s.stw.heldOut = [] ∧ ready.now < 9 + 4) := by decide +kernel

theorem test_wit_ClocksAreMonitoredGatedAndShown_1 :
    (let s := ready.set .CLK_MON_CAL 160000
    s.monitorOk 1 = true ∧ ready.get .CLK_MON_CAL = 0 ∧ s.get .CLK_MON_CAL ≠ 0 ∧ 100 * (16 * 10200 - s.get .CLK_MON_CAL) ≤ 2 * s.get .CLK_MON_CAL ∧
      2 * s.get .CLK_MON_CAL < 100 * (16 * 10201 - s.get .CLK_MON_CAL) ∧ 2 * s.get .CLK_MON_CAL < 100 * (s.get .CLK_MON_CAL - 16 * 9799) ∧
      s.get .CLK_STATUS_FALLBACK = 0 ∧ (s.set .CLK_STATUS_FALLBACK 1).get .CLK_STATUS_FALLBACK = 1) := by decide +kernel

theorem test_wit_ClocksAreMonitoredGatedAndShown_2 :
    (ready.nodeOk 0 = false ∧ ready.nodeOk 0x1000 = true ∧ ready.nodeOk 0x2180 = true ∧ ready.get .DCTL_CLMAP_SPARE (0x2180 % 4096 / 512) = 0x2180 % 512 / 32 ∧
    (ready.nodesUnder 0x7000).find? ready.leafBusy = none ∧ (nodeParent 0x2000).any ready.clk.gates.contains = false ∧
    (nodeParent 0x2000).any ({ ready with clk := { ready.clk with gates := [0x1000] } } : State).clk.gates.contains = true) := by decide +kernel

theorem test_wit_ClocksAreMonitoredGatedAndShown_3 :
    (let s := ready.setCore 0 { ready.core 0 with wait := .beat true 0 0 0 }
    (s.nodesUnder 0x4002).find? s.leafBusy = some 0x4002) := by decide +kernel

theorem test_wit_ClocksAreMonitoredGatedAndShown_4 :
    (ready.dbgClock (bits (BitVec.ofNat 64 (1 + 256)).toNat 7 0) = some 100000 ∧ bits (BitVec.ofNat 64 (1 + 256)).toNat 23 8 ≠ 0 ∧
    100000 ≤ 250000 * (bits (BitVec.ofNat 64 (1 + 256)).toNat 23 8 + 1) ∧ ready.dbgClock (bits (BitVec.ofNat 64 9).toNat 7 0) = none) := by decide +kernel

theorem test_wit_PowerStatesAndClocksFollowTheirRules_1 :
    (let s : State := { ready with clk := { ready.clk with entering := some 3 } }
    s.clk.entering = some 3 ∧ s.clk.wake = none ∧ ready.clk.entering = none ∧ ready.get .PWR_STATE_CURRENT < 2 ∧ ready.clk.exiting = none ∧
      ready.get .PWR_CLOCK_CAP_MHZ < 2 ^ 16 ∧ ready.get .PWR_CLOCK_THERM_MHZ < 2 ^ 16) := by decide +kernel

theorem test_wit_PowerStatesAndClocksFollowTheirRules_2 :
    (let s : State := { ready.set .PWR_STATE_CURRENT 2 with clk := { ready.clk with exiting := some 3 } }
    s.clk.exiting.isSome = true ∧ s.get .PWR_STATE_CURRENT = 2 ∧ (ready.set .PWR_STATE_CURRENT 2).clk.exiting = none) := by decide +kernel

theorem test_wit_PowerStatesAndClocksFollowTheirRules_3 :
    (let s := ready.set .PWR_LAT_TOL_NS 200
    s.cluOk 0 = true ∧ s.powerOk 1 = true ∧ s.cluIdle 0 = true ∧ s.get .PWR_STATE_CURRENT < 2 ∧ s.clk.q1.contains 0 = false ∧
      within s.ident.capMin (bits (BitVec.ofNat 64 1200).toNat 11 0) s.ident.cap = true ∧ within s.ident.capMin (bits (BitVec.ofNat 64 1199).toNat 11 0) s.ident.cap = false ∧
      exitNs (s.get .PWR_STATE_CURRENT) ≤ bits (BitVec.ofNat 64 0).toNat 39 0 ∧ bits (BitVec.ofNat 64 59999).toNat 39 0 < exitNs 2) := by decide +kernel

theorem test_wit_ResetsKeepAndLoseWhatTheySay_1 :
    (Mem.wf ready.mem = true ∧ ready.qTable = none ∧ ready.vce = [] ∧ VceSt.init.streams = [] ∧ ready.get .ESC_STATUS_OPEN ≠ 1 ∧ ready.esc.filling = none) := by decide +kernel

theorem test_wit_ResetsKeepAndLoseWhatTheySay_2 :
    (ready.coreOk 104 = false ∧ ready.coreOk 0 = true ∧ ready.mayReset 8 = false ∧ ready.mayReset 7 = true ∧ ready.mayReset 24 = true ∧ ready.mayReset 35 = true ∧
    ready.rst.inReset.contains 24 = false) := by decide +kernel

theorem test_wit_ResetsKeepAndLoseWhatTheySay_3 :
    (let s : State := { ready with rst := { ready.rst with inReset := [24] } }
    s.rst.inReset.contains 24 = true ∧ (dieUnits 24).any s.str.fenced.contains = false ∧ (s.strReload 24).2 = true) := by decide +kernel

theorem test_wit_StartUpReachesReadyAndTestsRun_1 :
    (let s := State.reset.set .RST_STATUS_STAGE 1
    s.monitorOk 1 = true ∧ s.get .RST_STATUS_STAGE ≠ 0 ∧ s.get .RST_STATUS_STAGE ≠ 6 ∧ KMap.get? s.rst.loaded 1 = none) := by decide +kernel

theorem test_wit_StartUpReachesReadyAndTestsRun_2 :
    (let s := (State.reset.set .RST_STATUS_STAGE 2).mapRst fun r => { r with loaded := [(0, 0)] }
    s.monitorOk 0 = true ∧ KMap.get? s.rst.loaded 0 = some 0 ∧ s.rst.verified.contains 0 = false ∧ s.get .RST_STATUS_STAGE ≠ 6 ∧
    s.fwFault (KMap.get s.sec.slots (0, 0) []) = some 0) := by decide +kernel

theorem test_wit_StartUpReachesReadyAndTestsRun_3 :
    (let s := State.reset.mapRst fun r => { r with verified := [0] }
    s.monitorOk 0 = true ∧ s.rst.verified.contains 0 = true ∧ s.rst.booted.contains 0 = false) := by decide +kernel

theorem test_wit_StartUpReachesReadyAndTestsRun_4 :
    (let s := (State.reset.set .RST_STATUS_STAGE 3)
    let t := (List.range 8).foldl (fun s ld => s.set .LDG_STATUS_STATE 1 ld) s
    Mem.wf t.mem = true ∧ t.rst.lpOk = false ∧ t.get .RST_STATUS_STAGE = 3 ∧ t.get .RST_STATUS_LAST_KIND ≠ 1 ∧ t.ident.dies = 8 ∧
    (∀ ld, ld < 8 → t.get .LDG_STATUS_STATE ld = 1)) := by decide +kernel

theorem test_wit_StartUpReachesReadyAndTestsRun_5 :
    (let s := State.reset.set .RST_STATUS_STAGE 4
    s.get .RST_STATUS_STAGE = 4 ∧ s.rst.tested = false ∧ s.ident.dies = 8 ∧ (∀ d, d < 8 → s.get .DCTL_CLSTAT_STATE d ≠ 3)) := by decide +kernel

theorem test_wit_StartUpReachesReadyAndTestsRun_6 :
    (let s := ((State.reset.set .RST_STATUS_STAGE 4).set .STW_STATUS_HALF_W 4).mapRst fun r => { r with tested := true }
    s.get .RST_STATUS_STAGE = 4 ∧ s.rst.tested = true ∧ s.complex 0 = 4) := by decide +kernel

theorem test_wit_StartUpReachesReadyAndTestsRun_7 :
    (ready.rst.test = none ∧ ready.cluOk (16 * bits 12 7 4 + bits 12 3 0) = true ∧ ready.get .DCTL_CLMAP_SPARE (bits 12 7 4) = bits 12 3 0 ∧
    (ready.die (bits 12 7 4)).rot = none ∧ ready.rst.inReset.contains (bits 12 7 4) = false ∧ (ready.bank (unitLedger (12 / 3))).sec 10 = [] ∧
    12 < ready.ident.ports ∧ 3 * ready.ident.dies = 24 ∧ ready.peers = [] ∧ ready.timeCands = [] ∧ ready.peerMap = []) := by decide +kernel

theorem test_wit_StartUpReachesReadyAndTestsRun_8 :
    (let s := ready.testTake 3 2 false
    s.rst.test = some (3, 2) ∧ s.rst.test.isSome = true ∧ s.rst.running = false ∧ s.routeLost 2 = none) := by decide +kernel

theorem test_wit_StartUpReachesReadyAndTestsRun_9 :
    ((ready.testTake 1 12 true).rst.test = some (1, 12) ∧ (ready.testTake 1 12 true).rst.running = true) := by decide +kernel

theorem test_wit_SecurityOperationsAnswerAndChangeOnlyTheirOwn_1 :
    (ready.get .RST_STATUS_READY = 1 ∧ (ready.set .RST_STATUS_FW_SLOT 1).get .RST_STATUS_FW_SLOT = 1 ∧ ready.get .RST_STATUS_FW_SLOT ≠ 1 ∧
    ready.get .SEC_SVN_SVN < 128 ∧ ready.sec.fwSvn < 128 ∧ State.reset.get .RST_STATUS_READY ≠ 1) := by decide +kernel

theorem test_wit_PortsTrainDegradeAndCarryFrames_1 :
    (let s := ready.set .FAB_PORT_STATE 1 0 0
    s.portOk 0 = true ∧ s.mayTrain 0 = true ∧ s.get .FAB_PORT_STATE 0 0 = 1 ∧ useLanes 15 = 15 ∧ useLanes 7 = 3 ∧ s.miswired 0 1 = none ∧
    s.portUp 0 = false ∧ bitList 1 s.ident.ports = [0] ∧ s.opticsOk 0 = true ∧ ready.get .FAB_PORT_STATE 0 0 ≠ 1) := by decide +kernel

theorem test_wit_PortsTrainDegradeAndCarryFrames_2 :
    (let s := ((ready.set .FAB_PORT_STATE 2 0 0).set .FAB_PORT_ACTIVE 15 0 0).setPort 0 { PortSt.init with healthy := 15 }
    s.portOk 0 = true ∧ s.portUp 0 = true ∧ (s.lanes 0).contains 3 = true ∧ useLanes (putBit (s.port 0).healthy 3 false) = 3 ∧
    (s.port 0).unsent = [] ∧ (s.peers.filter fun e => e.tiers == 0 && bit e.ports 0) = [] ∧ KMap.get (s.port 0).bad 3 0 < 7 ∧
    (s.port 0).expect = 0 ∧ KMap.get (s.port 0).corr 3 [] = [] ∧ (s.port 0).ahead = [] ∧ (frameOf ⟨0, [], none⟩).kind = 0 ∧ (frameOf ⟨0, [], none⟩).seq = 0 ∧
    ((s.set .FAB_PORT_ACTIVE 3 0 0).lanes 0).contains 3 = false) := by decide +kernel

theorem test_wit_PortsTrainDegradeAndCarryFrames_3 :
    (let s := (paired.set .FAB_PORT_STATE 2 0 0)
    paired.miswired 0 2 = some 1 ∧ s.miswired 0 1 = none) := by decide +kernel

theorem test_wit_BushelOperationsChangeThePoolAsListed_1 :
    (let n := kvReady.set .KVW_BOP_RES_DONE 0 0
    kvReady.cluOk 0 = true ∧ kvReady.get .RST_STATUS_READY = 1 ∧ kvReady.kv.ops = [] ∧ kvReady.kv.cur = none ∧ kvReady.kv.taken = true ∧
      ready.kv.valid = false ∧ kvReady.kv.valid = true ∧ n.poolBusy n.mgrBank = false ∧ kvReady.kv.freeHead ≠ noBushel ∧
      (match n.pool mgrAgent n.mgrBank with
       | some p => decide (n.bushelUe p [kvReady.kv.freeHead] = none ∧ (n.bushel p 0).held = false ∧ n.walk mgrAgent n.mgrBank p 0 0 = .leaf 0x12010000 0 ∧
           n.walk mgrAgent n.mgrBank p 256 0 = .bad 1 ∧ n.bushelUe p [0] = none ∧
           (({ kvReady with kv := { kvReady.kv with freeHead := noBushel } } : State).kv.freeHead = noBushel))
       | none => false) = true) := by decide +kernel

theorem test_wit_BushelOperationsChangeThePoolAsListed_2 :
    (let s := (((kvReady.wr (lpLoc 0 0x12010000) (leBytes 8 (2 ^ 63 + 1))).wr (lpLoc 0 0x10010010) (leBytes 8 (2 ^ 17))).set .KVW_BOP_ARG_VALUE 1 0)
    let n := s.set .KVW_BOP_RES_DONE 0 0
    s.kv.valid = true ∧ s.get .KVW_BOP_ARG_VALUE 0 = 1 ∧ n.poolBusy n.mgrBank = false ∧
      (match n.pool mgrAgent n.mgrBank with
       | some p => decide ((n.bushel p 1).held = true ∧ 1 < p.nb ∧ n.bushelUe p [1] = none ∧ n.bushelUe p [1, s.kv.recTail] = none ∧
           n.walk mgrAgent n.mgrBank p 0 0 = .leaf 0x12010000 (2 ^ 63 + 1) ∧ bit (2 ^ 63 + 1) 63 = true ∧ (n.bushel p 1).count ≠ 65535)
       | none => false) = true) := by decide +kernel

theorem test_wit_BushelOperationsChangeThePoolAsListed_3 :
    (let w : BopWait := ⟨⟨3, 0, 0, 0, 0⟩, [0], some 1, 0, 0, 1⟩
    let s : State := { kvReady.wr (lpLoc 0 0x10010010) (leBytes 8 2) with kv := { kvReady.kv with cur := some w } }
    s.kv.cur = some w ∧ s.kv.ops = [] ∧ s.poolBusy s.mgrBank = false ∧ s.bopBusy 0 = true ∧
      (match s.pool mgrAgent s.mgrBank with | some p => decide (1 < (s.bushel p 1).count) | none => false) = true) := by decide +kernel

theorem test_wit_BushelOperationsChangeThePoolAsListed_4 :
    (let img := (kvRaw 2).bank (unitLedger 0)
    poolRegion (ready.bank (unitLedger 0)) = none ∧ (kvRaw 2).kv.ops = [] ∧ (kvRaw 2).kv.cur = none ∧ (kvRaw 2).poolBusy img = false ∧
      (match poolRegion img with
       | some r => decide ((poolOf r ((kvRaw 2).rdDa mgrAgent img r.base 64)).fault ((kvRaw 2).rdDa mgrAgent img r.base 64) = none ∧
           bit (poolOf r ((kvRaw 2).rdDa mgrAgent img r.base 64)).flags 1 = true ∧
           (poolOf r ((kvRaw 4).rdDa mgrAgent img r.base 64)).fault ((kvRaw 4).rdDa mgrAgent img r.base 64) = some (7, 4))
       | none => false) = true) := by decide +kernel

theorem test_wit_GathersAndGleansWalkAndComplete_1 :
    (let d : Desc := BitVec.ofNat 512 (6 + 2 ^ 126 + 2 ^ 128 * (63 * 2 ^ 16 + 2 ^ 26) + 2 ^ 192 * (3 * 2 ^ 16))
    let s := kvReady.wr (lpLoc 0 0x10020000) (leBytes 8 1)
    let img := s.bankFor (unitDie 0) (s.heldFor 0 kKv d).beat
    let j : KvJob := ⟨0, d, s.now % 2 ^ 32, 1, kvItems d [], [], [], []⟩
    let u := ((s.hold 0 kKv d).setJob 0 false j).syncKvw 0
    s.unitTakes 0 kKv d = true ∧ (s.kvwSt 0).gather = none ∧ s.canStart 0 kKv d = true ∧ kvUp d = 0 ∧ s.get .KVW_STATUS_POOL 0 = 1 ∧
      latFmt (dbits d 2 29 26) ≠ none ∧ dbit d 2 30 = false ∧ j.items = [⟨0, 0, 1, 0⟩] ∧ (s.core 0).accWait = [] ∧ (s.kvwSt 0).walks = [] ∧
      labGet (s.kvwSt 0).lab 0 0 = none ∧
      labGet ((s.setKvw 0 { s.kvwSt 0 with lab := [(0, 0, 1)] }).kvwSt 0).lab 0 0 = some 1 ∧
      (match s.pool (kvAgent 0) img, u.pool (kvAgent 0) (u.jobBank j kKv) with
       | some p, some q => decide (p.fmt ≠ 2 ∧ s.seqLen (kvAgent 0) img p 0 = 1 ∧ kvFault d p 1 [] = none ∧ kvFault d p 0 [] = some (84, 0) ∧
           (q.itemSpans ⟨0, 0, 1, 0⟩ 1).any (fun x => u.memBusy (u.jobBank j kKv) x.1 x.2) = false ∧
           ((q.itemSpans ⟨0, 0, 1, 0⟩ 1).findSome? fun x => u.poisonDa (kvAgent 0) (u.jobBank j kKv) x.1 x.2) = none)
       | _, _ => false) = true) := by decide +kernel

theorem test_wit_GathersAndGleansWalkAndComplete_2 :
    (let d : Desc := BitVec.ofNat 512 (6 + 2 ^ 126 + 2 ^ 128 * (63 * 2 ^ 16 + 2 ^ 26 + 2 ^ 30) + 2 ^ 192 * (3 * 2 ^ 16 + 16 * 2 ^ 48))
    let s := kvReady.wr (coreLoc 0 1024) (leBytes 4 1)
    let img := s.bankFor (unitDie 0) (s.heldFor 0 kKv d).beat
    dbit d 2 30 = true ∧ s.poisonIn (coreLoc 0 1024) (8 + 4 * min 256 (field (s.rd (coreLoc 0 1024) 1032) 0 4)) = none ∧
      kvItems d (s.rd (coreLoc 0 1024) 1032) = [⟨0, 0, 1, 0⟩] ∧ s.unitTakes 0 kKv d = true ∧
      (match s.pool (kvAgent 0) img with
       | some p => decide (s.seqLen (kvAgent 0) img p 0 = 0 ∧ kvFault d p 0 (s.rd (coreLoc 0 1024) 1032) = none)
       | none => false) = true ∧ latFmt (dbits (8 : Desc) 2 29 26) = none ∧ ready.get .KVW_STATUS_POOL 0 ≠ 1 ∧
      (let j : KvJob := ⟨0, 7, 0, 0, [], [], [], []⟩
       let x := ready.setKvw 0 { ready.kvwSt 0 with gather := some j, glean := some j }
       (x.kvwSt 0).gather = some j ∧ (x.kvwSt 0).glean = some j ∧ j.d ≠ 8) ∧ (ready.issue 0 kKv noQid 7).canStart 0 kKv 8 = false) := by decide +kernel

theorem test_wit_GathersAndGleansWalkAndComplete_3 :
    (let d : Desc := BitVec.ofNat 512 (7 + 2 ^ 160 + 2 ^ 144 * 16)
    let s := (((kvRaw 3).wr (lpLoc 0 0x10000020) (leBytes 8 0xa00000)).poolTake).wr (lpLoc 0 0x10020000) (leBytes 8 128)
    let img := s.bankFor (unitDie 0) (s.heldFor 0 kGln d).beat
    s.unitTakes 0 kGln d = true ∧ (s.kvwSt 0).glean = none ∧ s.canStart 0 kGln d = true ∧ s.get .KVW_STATUS_POOL 0 = 1 ∧ (s.core 0).accWait = [] ∧
      glnFmt (dbits d 2 35 32) ≠ none ∧ glnFmt 0 = none ∧ (s.kvwSt 0).walks = [] ∧ (s.kvwSt 0).lab = [] ∧ glnP d = 1 ∧ glnForced d 2 = [] ∧
      (match s.pool (glnAgent 0) img with
       | some p => decide (glnFault d p = none ∧ s.seqLen (glnAgent 0) img p 0 = 128 ∧ s.seqLen (glnAgent 0) img p 1 = 0)
       | none => false) = true) := by decide +kernel

theorem test_wit_GathersAndGleansWalkAndComplete_4 :
    (let j : KvJob := ⟨0, 7, 0, 1, [⟨0, 0, 1, 0⟩], [], [], []⟩
    let s := kvReady.setKvw 0 { kvReady.kvwSt 0 with gather := some j, walks := [(0, 0, true)] }
    let y := (s.setKvw 0 { s.kvwSt 0 with walks := [] }).syncKvw 0
    s.cluOk 0 = true ∧ j.waits 0 0 = true ∧ j.waits 0 1 = false ∧ ((s.kvwSt 0).walks.find? fun w => w.1 == 0 && w.2.1 == 0) = some (0, 0, true) ∧
      ((s.kvwSt 0).walks.find? fun w => w.1 == 0 && w.2.1 == 1) = none ∧ y.poolBusy (y.jobBank j kKv) = false ∧
      (match y.pool (kvAgent 0) (y.jobBank j kKv) with
       | some p => decide (y.walk (kvAgent 0) (y.jobBank j kKv) p 0 0 = .leaf 0x12010000 0 ∧ y.walk (kvAgent 0) (y.jobBank j kKv) p 256 0 = .bad 1 ∧
           (y.wr (lpLoc 0 0x12010000) (leBytes 8 (2 ^ 63 + 1))).walk (kvAgent 0) (y.jobBank j kKv) p 0 0 = .leaf 0x12010000 (2 ^ 63 + 1))
       | none => false) = true) := by decide +kernel

theorem test_wit_UpdatesAreCheckedDecidedAndWritten_1 :
    (let s := updReady 32
    let h := s.hold 0 kUpd updDesc
    let x := h.updOf 0
    let img := h.bankFor (unitLedger 0) (h.heldFor 0 kUpd updDesc).beat
    let sec := ((x.order.find? fun o => o.1 == updStep updDesc).map (·.2)).getD (img.sec 7)
    let e := updAt (updBytes 32) 0
    s.unitTakes 0 kUpd updDesc = true ∧ descClass updDesc = 9 ∧ descClass 3 ≠ 9 ∧ ready.unitTakes 0 kUpd 3 = true ∧
      ((h.heldOf 0 kUpd).find? fun y => !x.has 0 y.d).map (·.d) = some updDesc ∧ h.updRuns 0 = true ∧ x.phase ≠ 4 ∧
      ((entsOf sec 0).find? fun p => p.2.layer == updLayer updDesc) = some (0, e) ∧ ((entsOf sec 0).find? fun p => p.2.layer == 2) = none ∧
      updFault e updDesc = none ∧ updFmtFault e updDesc = none ∧ h.range (updAgent 0) img (updGrad updDesc) (8 * e.cnt) = .ok ∧
      updFault e (updDesc + BitVec.ofNat 512 (2 ^ 448)) = some (448, 1) ∧ updFmtFault { e with lo := 2 ^ 40 } updDesc = some (48, 1)) := by decide +kernel

theorem test_wit_UpdatesAreCheckedDecidedAndWritten_2 :
    (let s := updAt' 32 1 [⟨1, 0, updDesc⟩] [updRec 32 3 false]
    (s.updOf 0).queue.any (fun q => updStep q.d == updStep updDesc && updLayer q.d == updLayer updDesc) = true ∧
      ((s.updOf 0).recs.any fun r => r.state == 3 && r.entry == 0 && updStep r.item.d == updStep updDesc) = true ∧
      (((s.hold 0 kUpd updDesc).heldOf 0 kUpd).find? fun y => !(s.updOf 0).has 0 y.d).map (·.d) = some updDesc) := by decide +kernel

theorem test_wit_UpdatesAreCheckedDecidedAndWritten_3 :
    (let s := updAt' 32 1 [⟨0, 0, updDesc⟩] []
    let u := s.setUpd 0 (s.updOf 0)
    let img := (u.bankFor (unitLedger 0) 0).withSec 7 (s.updOf 0).sec
    s.dieOk 0 = true ∧ s.updRuns 0 = true ∧ (s.updOf 0).phase = 1 ∧ ((s.updOf 0).queue.find? fun q => updStep q.d == (s.updOf 0).step) = some ⟨0, 0, updDesc⟩ ∧
      ((entsOf (s.updOf 0).sec 0).find? fun p => p.2.layer == updLayer updDesc) = some (0, updAt (updBytes 32) 0) ∧ (updAt (updBytes 32) 0).rule ≠ 3 ∧
      u.updWaits img [(updGrad updDesc, 8 * 32)] = false ∧ u.poisonDa (updAgent 0) img (updGrad updDesc) (8 * 32) = none ∧
      ({ u with rst := { u.rst with cal := (List.range 24).map fun k => (k, 0) } } : State).updWaits img [(updGrad updDesc, 8 * 32)] = true ∧
      ({ s with clk := { s.clk with stopped := true } } : State).updRuns 0 = false) := by decide +kernel

theorem test_wit_UpdatesAreCheckedDecidedAndWritten_4 :
    (let x : UpdSt := { UpdSt.init with parts := [⟨1, 1, 0, 2, 0, 0⟩] }
    (x.parts.any fun p => p.layer == 1 && p.step == 1 && decide (p.leaf < 1 + 1 ∧ 1 < p.leaf + p.size)) = true ∧
      (x.parts.any fun p => p.layer == 1 && p.step == 1 && decide (p.leaf < 2 + 1 ∧ 2 < p.leaf + p.size)) = false) := by decide +kernel

theorem test_wit_UpdatesAreCheckedDecidedAndWritten_5 :
    (let s := updReady 32
    let fl : List (Nat × Nat × Bool) := [(0, 1, true)]
    let u : State := { s with skip := { s.skip with flags := fl } }
    s.skip.kept = none ∧ ((u.diesOf (u.secAt 1)).all fun l => fl.any fun f => f.1 == l && f.2.1 == 1) = true ∧ u.skipMembers (u.secAt 1) = [s.ownId] ∧
      ((u.diesOf (u.secAt 1)).all fun l => ([(1, 1, true)] : List (Nat × Nat × Bool)).any fun f => f.1 == l && f.2.1 == 1) = false ∧
      ({ s with skip := ⟨[], [], some (1, true)⟩ } : State).skip.kept = some (1, true)) := by decide +kernel

theorem test_wit_UpdatesAreCheckedDecidedAndWritten_6 :
    (let s := updAt' 32 2 [] [updRec 32 1 false]
    let f := s.setUpd 0 { s.updOf 0 with flag := true }
    (s.updOf 0).phase = 2 ∧ (s.updOf 0).step = 1 ∧ (s.updOf 0).flag = false ∧ (f.updOf 0).phase = 2 ∧ (f.updOf 0).flag = true ∧ s.dieOk 0 = true) := by decide +kernel

theorem test_wit_UpdatesAreCheckedDecidedAndWritten_7 :
    (let r := updRec 32 2 false
    let s := updAt' 32 3 [] [r]
    let e := { r with copied := true, chunk := 1 }
    let z := updAt' 32 3 [] [e]
    s.updRuns 0 = true ∧ (s.updOf 0).phase = 3 ∧ ((s.updOf 0).recs.find? fun r => r.state == 2) = some r ∧ r.chunk < r.ent.chunkCount ∧
      s.updWaits r.img r.reads = false ∧ s.updPoison 0 r.img r.reads = none ∧ s.eff .ESC_CFG_ENABLE = 0 ∧
      ((z.updOf 0).recs.find? fun r => r.state == 2) = some e ∧ e.ent.chunkCount ≤ e.chunk ∧ z.updWaits e.img [(e.ent.sDa, 16)] = false ∧
      z.updPoison 0 e.img [(e.ent.sDa, 16)] = none ∧ (updReady 32).updRuns 0 = true ∧ ((updReady 32).updOf 0).phase = 0) := by decide +kernel

theorem test_wit_UpdatesAreCheckedDecidedAndWritten_8 :
    (let m := (updReady 32).tc0In 3 6 0
    let devs : List (Nat × Nat × Bool) := [(m.ownId, 1, true)]
    let u : State := { m with skip := { m.skip with devs := devs } }
    m.skip.kept = none ∧ u.skipMembers (u.secAt 1) = [m.ownId] ∧ (∃ f ∈ devs, f.2.1 = 1 ∧ f.1 = m.ownId) ∧
      (∀ f ∈ ([(m.ownId + 1, 1, true)] : List (Nat × Nat × Bool)), f.2.1 = 1 → f.1 ≠ m.ownId)) := by decide +kernel

/-- Nothing in the witness below waits or is poisoned. -/
theorem test_wit_upd_calm (img : Image) (da n : Nat) : (updAt' 300000 3 [] [updRec 300000 2 true]).ownBusy img da n = false ∧
    (updAt' 300000 3 [] [updRec 300000 2 true]).poisonDa (updAgent 0) img da n = none := by
  have hs : ∀ ld, (updAt' 300000 3 [] [updRec 300000 2 true]).get .LDG_STATUS_STATE ld = 0 := fun ld => by
    simp [updAt', updReady, ready, State.setUpd, State.mapStr]; rfl
  have hf : ∀ ld, (updAt' 300000 3 [] [updRec 300000 2 true]).get .LDG_STATUS_CH_FENCED ld = 0 := fun ld => by
    simp [updAt', updReady, ready, State.setUpd, State.mapStr]; rfl
  refine ⟨?_, ?_⟩
  · unfold State.ownBusy State.lpBusy
    rw [List.any_eq_false]
    intro b _
    have h1 : (updAt' 300000 3 [] [updRec 300000 2 true]).rst.cal = [] := rfl
    have h2 : (updAt' 300000 3 [] [updRec 300000 2 true]).clk.waitAcc = [] := rfl
    rw [h1, h2]
    cases (updAt' 300000 3 [] [updRec 300000 2 true]).regionAt img b <;> simp [hs]
  · unfold State.poisonDa State.poisoned State.fencedAt
    rw [List.find?_eq_none]
    intro b _
    have h1 : (updAt' 300000 3 [] [updRec 300000 2 true]).poison = [] := rfl
    rw [h1]
    cases (updAt' 300000 3 [] [updRec 300000 2 true]).resolve (updAgent 0) img b <;> simp [hf, bit]
theorem test_wit_upd_chunk : let r := updRec 300000 2 true
    let s := updAt' 300000 3 [] [r]
    s.updRuns 0 = true ∧ (s.updOf 0).phase = 3 ∧ ((s.updOf 0).recs.find? fun r => r.state == 2) = some r ∧ r.copied = true ∧
      r.chunk + 1 < r.ent.chunkCount ∧ s.updWaits r.img r.reads = false ∧ s.updPoison 0 r.img r.reads = none := by
  refine ⟨by decide +kernel, by decide +kernel, by decide +kernel, rfl, by decide +kernel, ?_, ?_⟩
  · unfold State.updWaits
    rw [List.any_eq_false]
    intro p _
    simp [(test_wit_upd_calm _ p.1 p.2).1]
  · unfold State.updPoison
    rw [List.findSome?_eq_none_iff]
    intro p _
    exact (test_wit_upd_calm _ p.1 p.2).2

theorem test_wit_FabricPacketsAreHandledInOrder_1 :
    (let p (op : Nat) (bs : List Byte) : Packet := ⟨op, 2, 0, 1, 0x10000040, 9, 0, 5, bs, none, none, 8, 0, 0⟩
    let w := fabReady.wake 4
    let v : State := { w with fab := { w.fab with rxSseq := [((1, 2), 1)] } }
    fabReady.fab.failed = false ∧ (p 1 []).dst = fabReady.ownId ∧ (p 1 []).sseq = w.sseqDue (p 1 []) ∧ w.fab.early = [] ∧
      v.txnFault (p 1 (List.replicate 8 1)) = none ∧ v.txnFault (p 2 []) = none ∧ v.txnFault (p 4 []) = none ∧ v.txnFault (p 5 (List.replicate 8 1)) = none ∧
      v.txnFault (p 6 []) = none ∧ v.txnWaits (p 1 (List.replicate 8 1)) = false ∧ v.txnWaits (p 2 []) = false ∧ v.txnWaits (p 4 []) = false ∧
      v.poisonDa v.collAgent (v.bank (unitLedger 0)) 0x10000040 8 = none ∧ v.txnFault { p 1 [] with src := 7 } = some 0 ∧
      v.txnFault { p 2 [] with da := 0x20000000 } = some 1 ∧ v.txnFault { p 4 [] with da := 0x10000041 } = some 2 ∧
      field (v.rdDa v.collAgent (v.bank (unitLedger 0)) 0x10000040 8) 0 8 = 0 ∧ (0 : Nat) ≠ (p 5 []).operand % 2 ^ 64 ∧ 0 = { p 5 [] with operand := 0 }.operand % 2 ^ 64 ∧
      ({ v with poison := [lpLoc 0 0x10000040] } : State).poisonDa v.collAgent (v.bank (unitLedger 0)) 0x10000040 8 = some 0x10000040 ∧
      ({ v with rst := { v.rst with cal := (List.range 24).map fun k => (k, 0) } } : State).txnWaits (p 2 []) = true) := by decide +kernel

theorem test_wit_FabricPacketsAreHandledInOrder_2 :
    (let p : Packet := ⟨1, 2, 0, 1, 0x10000040, 9, 3, 5, [], none, none, 8, 0, 0⟩
    let w := fabReady.wake 4
    0 < (p.sseq + 2 ^ 32 - w.sseqDue p) % 2 ^ 32 ∧ (p.sseq + 2 ^ 32 - w.sseqDue p) % 2 ^ 32 < 2 ^ 31 ∧ p.sseq ≠ w.sseqDue p ∧
      (let x : State := { fabReady with fab := { fabReady.fab with rxSseq := [((1, 2), 4)] } }
       2 ^ 31 ≤ (p.sseq + 2 ^ 32 - (x.wake 4).sseqDue p) % 2 ^ 32 ∧ p.sseq ≠ (x.wake 4).sseqDue p) ∧ { p with dst := 1 }.dst ≠ fabReady.ownId) := by decide +kernel

theorem test_wit_LinkWordsAndHeadersReadBackWhatTheyStandFor_1 :
    (let f : Frame := { seq := 5, ack := 3, nak := true, kind := 1, first := 31, ctcA := 3, creditA := 16383, ctcB := 2, creditB := 1, active := 15, pieces := [], ctl := none }
    frameOf (wireOf f) = f ∧ (wireOf f).word % 2 ^ 44 = 0) := by decide +kernel

theorem test_wit_LinkWordsAndHeadersReadBackWhatTheyStandFor_2 :
    (let p : Packet := ⟨1, 2, 65535, 1, 2 ^ 43 - 8, 7, 2 ^ 32 - 1, 0, List.replicate 16 0, none, none, 0, 0, 0⟩
    let q : Packet := ⟨2, 1, 2, 1, 64, 7, 0, 0, [], none, none, 4096, 0, 0⟩
    pktFits p = true ∧ pktFits q = true ∧ p.op ≠ 2 ∧ q.payload = []) := by decide +kernel

theorem test_wit_CollectivesRunAsTheirOperationSays_1 :
    (let ok (d : Desc) : Bool :=
      let h := ready.hold 0 kColl d
      let beat := (h.heldFor 0 kColl d).beat
      let img := h.collCarve beat
      let cs := h.shardCounts img d 8
      let l := (collRanges d cs 0 1).1 ++ (collRanges d cs 0 1).2
      let u := h.setRuns [⟨0, beat, d, [], 0, false, [], []⟩]
      ready.unitTakes 0 kColl d && descClass d == 8 && h.canStart 0 kColl d && h.coll.runs == [] && h.coll.kept == [] && decide (h.epochOf 0 d = .run) &&
        !collFmtBad d && collScope d == 0 && (h.collFault img d cs 0 1).isNone && h.collFree img 0 d l && u.collFree img 0 d l &&
        ((collRanges d cs 0 1).1.findSome? fun x => h.poisonDa h.collAgent img x.1 x.2).isNone && (h.tidRow (collTid d)).isNone &&
        ((List.range 8).all fun k => k == 0 || !u.coreMay (8 * coreClu 0 + k)) && (u.core 0).accWait == []
    ok (collDesc 0 0 0 1 0x50000000000 0x50000001000 32) = true ∧ ok (collDesc 1 0 1 0 0x50000000000 0x50000001000 1) = true ∧
      ok (collDesc 2 0 0 1 0x50000000000 0x50000001000 32) = true ∧ ok (collDesc 3 0 1 0 0x50000000000 0x50000001000 1) = true ∧ ok (collDesc 5 0 0 0 0 0 0) = true) := by decide +kernel

theorem test_wit_CollectivesRunAsTheirOperationSays_2 :
    (let d := collDesc 0 0 0 1 0x50000000000 0x50000001000 32
    let h := ready.hold 0 kColl d
    let img := h.collCarve 0
    h.collFault img (collDesc 1 0 0 1 0x50000000000 0x50000001000 32) (List.replicate 8 32) 0 1 = some 1 ∧ collFmtBad (collDesc 0 0 0 14 0 0 32) = true ∧
      ((ready.issue 0 kColl noQid 8).hold 0 kColl d).canStart 0 kColl d = false ∧ h.epochOf 0 (d + BitVec.ofNat 512 (2 ^ 320)) = .refuse ∧
      ((h.set .FAB_RESHARD_STATE 1).set .FAB_LAYOUT_PENDING 1).epochOf 0 (d + BitVec.ofNat 512 (2 ^ 320)) = .wait ∧ descClass 3 ≠ 8 ∧
      (([(0x50000000000, 64)] : List (Nat × Nat)).findSome? fun x => ({ h with poison := [coreLoc 0 0] } : State).poisonDa h.collAgent img x.1 x.2) = some 0x50000000000) := by decide +kernel

theorem test_wit_CollectivesRunAsTheirOperationSays_3 :
    (let d := collDesc 0 3 0 1 0x50000000000 0x50000001000 32
    let h := fabReady.hold 0 kColl d
    let img := h.collCarve 0
    let g : Group := ((pmGroups fabReady.peerMap).head?).getD ⟨0, 0, []⟩
    let cs := h.shardCounts img d 2
    let l := collRanges d cs 0 (collMbs d g.nmb).length
    h.collGrp 0 d = some g ∧ rankIn g.members h.ownId = some 0 ∧ h.collFault img d cs 0 (collMbs d g.nmb).length = none ∧ h.collFree img 0 d (l.1 ++ l.2) = true ∧
      (l.1.findSome? fun x => h.poisonDa h.collAgent img x.1 x.2) = none ∧ (h.core 0).accWait = [] ∧ h.epochOf 0 d = .run ∧ ready.collGrp 0 d = none ∧
      rankIn g.members 9 = none ∧ h.collFault img (collDesc 1 3 0 1 0x50000000000 0x50000001000 32) cs 0 0 = some 1) := by decide +kernel

theorem test_wit_CollectivesRunAsTheirOperationSays_4 :
    (let d := collDesc 4 3 0 0 0x20000000 0 1
    let h := permReady.hold 0 kColl d
    let img := h.collCarve 0
    let e : PlanEnt := ⟨0, 0, 64, 0x20001000, 0x20002000⟩
    collEpoch d = permReady.get .FAB_LAYOUT_CURRENT ∧ firstReserved d collReserved = none ∧ h.planOk img d 0 2 false = true ∧ h.collPlan img d = [e] ∧ collLen d = 1 ∧
      meets e.dstDa e.len e.srcDa e.len = false ∧ h.collFree img 0 d [(e.srcDa, e.len), (e.dstDa, e.len)] = true ∧ h.poisonDa h.collAgent img e.srcDa e.len = none ∧
      h.planOk img (collDesc 4 3 0 0 0x20000000 0 2) 0 2 false = false ∧ (firstReserved (d + BitVec.ofNat 512 (2 ^ 510)) collReserved).isSome = true ∧
      descClass d = 8 ∧ collOp d = 4 ∧ permReady.unitTakes 0 kColl d = true ∧ h.epochOf 0 d = .run ∧ h.canStart 0 kColl d = true) := by decide +kernel

theorem test_wit_CollectivesRunAsTheirOperationSays_5 :
    (let d := collDesc 0 3 0 1 0x50000000000 0x50000001000 32
    let h : CollHdr := ⟨1, 0, 0, 0, 0, 0, 0, 0, 0⟩
    let p : Packet := ⟨0x11, 2, 0, 1, 0, 9, 0, 0, List.replicate 64 1, none, some h, 0, 0, 0⟩
    let r : CollRun := ⟨0, 0, d, [], 0, false, [], []⟩
    let w := (fabReady.setRuns [r]).wake 4
    p.dst = fabReady.ownId ∧ p.sseq = w.sseqDue p ∧ w.fab.early = [] ∧ w.get .FAB_RESHARD_STATE = 0 ∧ w.coll.runs.find? (fun r => offEpoch r.d h) = none ∧
      w.coll.runs.find? (fun r => ofColl r.d h) = some r ∧ (fabReady.wake 4).coll.runs.find? (fun r => ofColl r.d h) = none ∧ (w.collGrp r.beat r.d).isSome = true ∧
      w.coll.runs.find? (fun r => offEpoch r.d { h with epoch := 1 }) = some r ∧
      w.collFree (w.collCarve r.beat) r.core r.d [(collDst r.d + h.elem, p.payload.length)] = true ∧ (w.core r.core).accWait = []) := by decide +kernel

theorem test_wit_CollectivesRunAsTheirOperationSays_6 :
    (let r : CollRun := ⟨0, 0, collDesc 5 3 0 0 0 0 0, [], 0, false, [(0, 0)], []⟩
    let m := (fabReady.setRuns [r]).tc0In 1 8 0
    (m.coll.runs.find? fun r => collOp r.d == 5 && collScope r.d == 3 && collGroup r.d == 1 && collTid r.d == 0) = some r ∧ m.coll.runs = [r] ∧
      m.barrierAt { r with arrived := r.arrived ++ [(7, 0)] } = none ∧ (m.barrierAt { r with arrived := r.arrived ++ [(1, 0)] }).isSome = true ∧ m.coll.rsh = none ∧
      m.barrierAt r = none ∧ m.cluOk 0 = true ∧ ((fabReady.tc0In 1 8 0).coll.runs.find? fun r => collOp r.d == 5) = none ∧
      (m.coll.runs.find? fun q => q.core == 0 && q.d == r.d && collOp q.d == 5) = some r ∧ m.now < (m.barrierAt { r with arrived := r.arrived ++ [(1, 0)] }).getD 0 ∧
      (let n : State := m.set .BEAT_NOW_COUNT 100000; (n.barrierAt { r with arrived := r.arrived ++ [(1, 0)] }).getD 1000000 ≤ n.now)) := by decide +kernel

theorem test_wit_ReshardMovesToItsNewEpoch_1 :
    (let s := rshReady 0 none
    let h := s.hold 0 kColl rshDesc
    s.unitTakes 0 kColl rshDesc = true ∧ descClass rshDesc = 8 ∧ collOp rshDesc = 4 ∧ collEpoch rshDesc ≠ s.get .FAB_LAYOUT_CURRENT ∧ s.coll.rsh = none ∧
      s.get .FAB_RESHARD_STATE = 0 ∧ collScope rshDesc = 3 ∧ firstReserved rshDesc collReserved = none ∧ collLen rshDesc = 2 ∧ collLo rshDesc = 0 ∧ collHi rshDesc = 0 ∧
      collTid rshDesc = 0 ∧ collFmt rshDesc = 0 ∧ collPartial rshDesc = false ∧
      (h.collGrp (h.heldFor 0 kColl rshDesc).beat rshDesc).any (fun g => g.members.contains s.ownId) = true ∧ collVec rshDesc = 0x20100000) := by decide +kernel

theorem test_wit_ReshardMovesToItsNewEpoch_2 :
    (let s := rshReady 1 (some (rshRun [] [] [] []))
    let d := rshDesc + BitVec.ofNat 512 (2 ^ 320)
    s.unitTakes 0 kColl d = true ∧ descClass d = 8 ∧ collOp d = 4 ∧ collEpoch d = 2 ∧ s.get .FAB_LAYOUT_CURRENT = 0 ∧ collEpoch rshDesc = 1 ∧
      s.rshDrained (rshRun [] [] [] []) = true ∧ s.rshBeat (rshRun [] [] [] []) (s.rshView (rshRun [] [] [] [])) 0 = none ∧
      s.planOk (s.rshView (rshRun [] [] [] [])).img rshDesc 0 2 true = true) := by decide +kernel

theorem test_wit_ReshardMovesToItsNewEpoch_3 :
    (let dg := sha3 rshEnts
    let r := rshRun [⟨0, 1, 0, 0, dg, true⟩, ⟨1, 1, 0, 0, dg, true⟩] [] [] []
    let q := rshRun [⟨0, 1, 0, 0, dg, true⟩, ⟨1, 1, 0, 0, dg, false⟩] [] [] []
    let s := (rshReady 1 (some r)).set .BEAT_NOW_COUNT 100000
    let v := s.rshView r
    (s.rshBeat r v 0).any (fun b => decide (max (collBeat r.d) b ≤ s.now)) = true ∧ ((s.set .BEAT_NOW_COUNT 0).rshBeat r v 0).any (fun b => decide (0 < b)) = true ∧
      s.rshBusy r v [] = false ∧ v.digest = dg ∧ v.dests = [0] ∧ v.srcs = [1] ∧ field (s.rdDa s.collAgent v.img (collDst r.d) 64) 0 4 ≠ collEpoch r.d ∧
      (s.rshBeat q v 0).any (fun b => decide (max (collBeat r.d) b ≤ s.now)) = true) := by decide +kernel

theorem test_wit_ReshardMovesToItsNewEpoch_4 :
    (let r := rshRun [] [(0, 0, 64)] [] []
    let s := rshReady 2 (some r)
    let v := s.rshView r
    v.srcs = [1] ∧ s.rshBusy r v [((v.ent 1).srcDa, (v.ent 1).len)] = false ∧ r.overwrote v 1 = false ∧
      s.poisonDa s.collAgent v.img (v.ent 1).srcDa (v.ent 1).len = none ∧ r.mayCommit v 0 = true ∧ s.rshBusy r v [((v.ent 0).dstDa, (v.ent 0).len)] = false ∧
      r.slots.find? (fun x => x.2.1 == 0) = some (0, 0, 64) ∧ v.dests = [0] ∧ 1 ∉ r.acked ∧ r.mayCommit v 1 = false ∧
      (v.dests.all [0].contains && v.srcs.all [1].contains) = true) := by decide +kernel

theorem test_wit_ReshardMovesToItsNewEpoch_5 :
    (let dg := sha3 rshEnts
    let r := rshRun [⟨0, 1, 1, 0, dg, true⟩, ⟨1, 1, 1, 0, dg, true⟩] [] [1] [0]
    let s := (rshReady 3 (some r)).set .BEAT_NOW_COUNT 100000
    let u := s.hold 0 kColl rshDesc
    (s.rshBeat r (s.rshView r) 1).any (fun c => decide (c ≤ s.now)) = true ∧ (u.rshBeat r (u.rshView r) 1).any (fun c => decide (c ≤ u.now)) = true ∧
      ((List.range 1024).all fun k => k == 0 || (u.heldOf k kColl).isEmpty) = true ∧ ((u.heldOf 0 kColl).all fun x => u.heldOf 0 kColl == [x] && x.d == rshDesc) = true ∧
      (u.core 0).accWait = [] ∧ (u.core 0).stall = none ∧ s.rshBeat r (s.rshView r) 0 = none) := by decide +kernel

theorem test_wit_CodecEnginesDoTheirItems_1 :
    (let ok (s : State) (op : Nat) : Bool := let d := vceItem op 0
      s.engineOk 0 && !s.vceStopped 0 && (s.vceOf 0).job.isNone && !s.vceBusy 0 d && (s.gatedAt (nodeCodec 0)).isNone && (s.vFault 0 d).isNone && vOp d == op
    ok (vceRaw 0) 1 = true ∧ ok (vceReady 0) 2 = true ∧ ok (vceReady 0) 4 = true ∧ ok (vceReady 0) 5 = true ∧ ok (vceReady 0) 6 = true ∧ ok (vceReady 1) 3 = true ∧
      ok (vceReady 1) 5 = true ∧ (KMap.get? ((vceReady 0).vceOf 0).streams (vSlot (vceItem 2 0))).isSome = true ∧ cDir (vceCtx 1) = 1 ∧ cDir (vceCtx 0) = 0) := by decide +kernel

theorem test_wit_CodecEnginesDoTheirItems_2 :
    (ready.engineOk 99 = false ∧ vOp (vceItem 2 0) = 2 ∧ (vceRaw 0).vFault 0 (vceItem 7 0) = some (32, 7) ∧ (vceRaw 0).vFault 0 (vceItem 2 0) = some (40, 0) ∧
    ({ vceReady 0 with clk := { (vceReady 0).clk with stopped := true } } : State).vceStopped 0 = true ∧
    ({ vceReady 0 with clk := { (vceReady 0).clk with waitAcc := [⟨.steward, 0x20202000, 1, [0], none, none⟩] } } : State).vceBusy 0 (vceItem 2 0) = true ∧
    (({ vceRaw 0 with clk := { (vceRaw 0).clk with gates := [nodeCodec 0] } } : State).gatedAt (nodeCodec 0)).isSome = true) := by decide +kernel

theorem test_wit_CodecEnginesDoTheirItems_3 :
    (let s := (vceReady 1).setVce 0 { (vceReady 1).vceOf 0 with job := some (vceJob 3 true) }
    let u := (vceReady 0).setVce 0 { (vceReady 0).vceOf 0 with job := some (vceJob 2 false) }
    ((s.vceOf 0).job.any (·.waiting)) = true ∧ s.vceStopped 0 = false ∧ ((KMap.get? (s.vceOf 0).streams 0).any fun st => !st.freeBufs.isEmpty && cDir st.ctx == 1) = true ∧
      s.vceBusy 0 (vceItem 3 0) = false ∧ u.vceBusy 0 (vceItem 2 0) = false ∧ u.clk.stopped = false ∧ vSig (vceItem 2 0) = false ∧ vOp (vceItem 3 0) = 3) := by decide +kernel

theorem test_wit_CodecEnginesDoTheirItems_4 :
    (let it := vceItem 2 0
    let s0 := { schedQ 3 with vce := (vceReady 0).vce }
    let s := (((s0.set .VCE_QBIND_VALID 1 0 0).set .VCE_QBIND_QID 5 0 0).wr (lpLoc 0 0x20000000) (leBytes 64 it.toNat))
    s.engineOk 0 = true ∧ s.vceStopped 0 = false ∧ (s.vceOf 0).job = none ∧ (bestCand ((s.vceCands 0).filter fun x => !false || x.quick)).any (fun x => x.qid == 5 && !x.quick) = true ∧
      (s.qPeek 5).any (fun x => x.2.2 == some it) = true ∧ bestCand ((ready.vceCands 0).filter fun x => !false || x.quick) = none) := by decide +kernel

theorem test_wit_EscrowOperationsEndWithTheirResult_1 :
    (let s := escReady 0
    s.get .RST_STATUS_READY = 1 ∧ s.esc.receiving = none ∧ s.esc.waits = [] ∧ s.escBusy = false ∧ s.get .ESC_STATUS_FROZEN = 0 ∧ s.esc.ranRound = false ∧
      s.heldBank = none ∧ (manifest s.updSec).length = 1 ∧ State.reset.get .RST_STATUS_READY ≠ 1 ∧
      s.escPoison ((manifest s.updSec).flatMap fun p => [(p.2.wDa, 2 * p.2.cnt), (p.2.sDa, p.2.recLen)]) = none ∧
      (s.setEsc fun e => { e with receiving := some 1 }).esc.receiving.isSome = true ∧
      (({ s with clk := { s.clk with waitAcc := [⟨.steward, 0x28000000, 1, [0], none, none⟩] } } : State).escBusy) = true) := by decide +kernel

/-- Only the first 32 bytes of a state block bear on its check. -/
theorem test_wit_rng_prefix (s : State) (da : Nat) : rngCheck (s.escRd da blockLen) = rngCheck (s.escRd da 32) := by
  have h : ∀ o k, o + k ≤ 32 → field (s.escRd da blockLen) o k = field (s.escRd da 32) o k := fun o k ok => by
    have e : s.escRd da 32 = (s.escRd da blockLen).take 32 := by
      simp only [State.escRd, State.rdDa, ← List.map_take, List.take_range]
      rw [show min 32 blockLen = 32 from by decide]
    rw [e, field, field, slice, slice, List.drop_take, List.take_take, Nat.min_eq_left (by omega)]
  simp only [rngCheck, h _ _ (show 8 + 8 ≤ 32 by decide), h _ _ (show 16 + 8 ≤ 32 by decide), h _ _ (show 0x18 + 4 ≤ 32 by decide)]
/-- A frozen part with a valid home copy and a held bank. -/
def escFrozen : State := (escReady 0).set .ESC_STATUS_FROZEN 1 |>.set .ESC_ARG_BEAT 1000 |>.set .ESC_STATUS_HOME 1 |>.set .ESC_STATUS_BANK0 3
/-- Nothing in it is poisoned. -/
theorem test_wit_esc_calm (l : List (Nat × Nat)) : escFrozen.escPoison l = none := by
  have hf : ∀ ld, escFrozen.get .LDG_STATUS_CH_FENCED ld = 0 := fun ld => by
    simp [escFrozen, escReady, ready, State.mapStr]; rfl
  have hp : escFrozen.poison = [] := rfl
  have h : ∀ loc n, escFrozen.poisoned loc n = false := fun loc n => by
    simp [State.poisoned, hp, State.fencedAt, hf, bit]
  simp only [State.escPoison, List.findSome?_eq_none_iff]
  intro p _
  simp only [State.poisonDa, List.find?_eq_none]
  intro b _
  split <;> simp [h]
theorem test_wit_esc_frozen :
    escFrozen.now + escFrozen.lBeats ≤ escFrozen.get .ESC_ARG_BEAT ∧ escFrozen.heldBank = some 0 ∧ escFrozen.get .ESC_STATUS_HOME = 1 ∧
      rngCheck (escFrozen.escRd (escFrozen.homeDa + escFrozen.homeSlot) blockLen) = some (0, false) ∧
      escFrozen.escPoison ((escFrozen.homeDa + escFrozen.homeSlot, blockLen) :: (escFrozen.rollRanges escFrozen.dirtyChunks).map fun r => (r.1, r.2.2)) = none ∧
      escFrozen.escBusy = false :=
  ⟨by decide +kernel, by decide +kernel, by decide +kernel, (test_wit_rng_prefix _ _).trans (by decide +kernel), test_wit_esc_calm _, by decide +kernel⟩

theorem test_wit_EscrowStreamSealsCutsAndFills_1 :
    (let s := (escReady 0).setUpd 0 { UpdSt.init with doneStep := some 1, step := 1 }
    s.escDue = some 1 ∧ s.escBusy = false ∧ ready.escDue = none ∧ pmPartner s.peerMap = some 1 ∧ pmPartner ready.peerMap ≠ some 1) := by decide +kernel

theorem test_wit_EscrowStreamSealsCutsAndFills_2 :
    (let s := (escReady 0).escWr ((escReady 0).bankDa 0 + 12) (leBytes 4 1) |>.escWr ((escReady 0).bankDa 0 + 4096) (manifestBytes (updBytes 32)) |>.setEsc
      fun e => { e with filling := some 0, inStep := 8, inBase := 0xffffffff, receiving := some 1 }
    s.escBusy = false ∧ (s.bankEnts 0).length = 1 ∧ s.escComplete 0 = false ∧ s.esc.waits = [] ∧
      (s.setEsc fun x => { x with deltas := [(0, 65536)] }).escComplete 0 = true ∧
      s.esc.fillGot + 1 < imagesLen ((manifest s.updSec).map (·.2)) ∧ (manifestBytes s.updSec).length = 32 * 1) := by decide +kernel

theorem test_wit_EscrowStreamSealsCutsAndFills_3 :
    (let s := (((escReady 0).set .ESC_STATUS_OPEN 1).set .ESC_STEPS_OPEN_STEP 8).set .BEAT_NOW_COUNT 1000 |>.set .ESC_STATUS_BANK0 2 |>.setEsc fun e =>
      { e with filling := some 0, inStep := 8, seals := [(0, 8, 1), (1, 8, 1)], closing := some [] }
    s.get .ESC_STATUS_FROZEN = 0 ∧ s.get .FAB_RESHARD_STATE = 0 ∧ s.commitAll = [0, 1] ∧ 1 + s.lBeats ≤ s.now ∧ s.bankState 0 = 2 ∧ s.esc.freezes = [] ∧ s.escBusy = false) := by decide +kernel

/-- Where nothing waits, calibrates or is locked, no memory is busy. -/
theorem test_wit_esc_idle (s : State) (h1 : s.clk.waitAcc = []) (h2 : s.rst.cal = []) (h3 : s.upd = [])
    (h4 : ∀ ld, s.get .LDG_STATUS_STATE ld = 0) : s.escBusy = false := by
  have h : ∀ img da n, s.memBusy img da n = false := fun img da n => by
    simp only [State.memBusy, List.any_eq_false]
    intro b _
    simp only [State.lpBusy, State.layerBusy, h1, h2, h3, List.any_nil, Bool.or_false, Bool.and_false]
    cases s.regionAt img b <;> simp [h4]
  simp only [State.escBusy, List.any_eq_false]
  intro p _
  simp [h]
theorem test_wit_esc_open : let s := escReady 1
    let man := manifestBytes (updBytes 32)
    s.escBusy = false ∧ s.esc.waits = [] ∧ s.eff .ESC_CFG_ENABLE = 1 ∧ s.eff .ESC_CFG_SOURCE = 1 ∧ s.get .ESC_STATUS_FROZEN = 0 ∧ s.heldBank = none ∧
      0x200000 + imagesLen (manifestEnts man) ≤ s.escBankLen ∧ man.length = 32 ∧ ready.eff .ESC_CFG_ENABLE = 0 ∧ ready.escBusy = false :=
  ⟨test_wit_esc_idle _ rfl rfl rfl fun ld => by simp [escReady, ready, State.mapStr]; rfl, by decide +kernel⟩

theorem test_wit_RegisterWritesFollowTheirAccessTypes_1 :
    (let s := ready
    s.agentOk .steward = true ∧ s.agentOk (.tidy 2000) = false ∧ s.regPlace 0x7f000000000 = .block .GLB 0 0 ∧ s.regPlace 0x7f000700000 = .absent ∧
      mayWrite (.unit 0 0) .GLB 0 = false ∧ s.rst.inReset.contains (s.blockDie .GLB 0) = false ∧ s.hostEarly (.host 0) = false ∧ State.reset.hostEarly (.host 0) = true ∧
      earlyOk .FAB 0x300 = false ∧ regAt .FAB 0x300 = some (.FAB_LAYOUT, 0) ∧ regAt .ESC 0x40 = some (.ESC_CTL, 0) ∧ regAt .ESC 0x28 = some (.ESC_CURSOR, 0) ∧
      regAt .GLB 0xff8 = none ∧ regAt .QUE 0 = some (.QUE_OP, 0) ∧ s.regPlace 0x7f003000028 = .block .ESC 0 0x28 ∧ alwaysOn .ESC = false ∧
      (s.set .PWR_STATE_CURRENT 2).get .PWR_STATE_CURRENT = 2 ∧ s.agentOk (.host 0) = true ∧ mayWrite (.host 0) .ESC 0 = true ∧
      s.regPlace 0x7f000800000 = .msix 0 ∧ (s.regPlace 0x7f200f00000 = .none_ 0)) := by decide +kernel

theorem test_wit_RegisterWritesFollowTheirAccessTypes_2 :
    (let s := (ready.set .BEAT_CFG_SRC 3).set .BEAT_CFG_MGT_PORT 0
    s.mgtOk 0 = true ∧ s.beatSource = 3 ∧ s.eff .BEAT_CFG_MGT_PORT = 0 ∧ ready.beatSource ≠ 3 ∧ ready.mgtOk 1 = true ∧ (s.set .BEAT_CFG_MGT_PORT 1).eff .BEAT_CFG_MGT_PORT = 1) := by decide +kernel

end Sys2Proof.Tests
end

/-! What every command and every step keeps: O1, O3 and O4. -/
namespace Sys2Proof.Machine

/-- What every command keeps (Safety.lean): each command by the lemma of its own meaning. -/
theorem keeps_exec {r0 s : State} (h : Keeps r0 s) (c : Instr) : KeepsR r0 (exec c s) := by
  cases c with
  | registerWrite by_ da size val => exact keeps_execRegisterWrite h by_ da size val
  | spareRotationStart die => exact keeps_execSpareRotationStart h die
  | spareRotationCopy die => exact keeps_execSpareRotationCopy h die
  | spareRotationComplete die => exact keeps_execSpareRotationComplete h die
  | clusterLost die clu => exact keeps_execClusterLost h die clu
  | strPrepareGo by_ => exact keeps_execStrPrepareGo h by_
  | unitArm u => exact keeps_execUnitArm h u
  | strAbandon by_ => exact keeps_execStrAbandon h by_
  | strCommitGo val => exact keeps_execStrCommitGo h val
  | commitReadyReceive dev b epoch lat => exact keeps_execCommitReadyReceive h dev b epoch lat
  | jobAbortReceive dev b lat => exact keeps_execJobAbortReceive h dev b lat
  | commitBeatSwitch failed => exact keeps_execCommitBeatSwitch h failed
  | strDrainComplete u => exact keeps_execStrDrainComplete h u
  | beatEdge failed => exact keeps_execBeatEdge h failed
  | beatFrameReceive hop rank count period ann wall img raw lat => exact keeps_execBeatFrameReceive h hop rank count period ann wall img raw lat
  | heartbeatReceive dev lat => exact keeps_execHeartbeatReceive h dev lat
  | delayRequestSend hop t1 => exact keeps_execDelayRequestSend h hop t1
  | delayRequestReceive dev count t1 t2 t3 lat => exact keeps_execDelayRequestReceive h dev count t1 t2 t3 lat
  | delayResponseReceive hop t1 t2 t3 t4 lat => exact keeps_execDelayResponseReceive h hop t1 t2 t3 t4 lat
  | peerLost dev => exact keeps_execPeerLost h dev
  | ptpMessageReceive port => exact keeps_execPtpMessageReceive h port
  | tdLd core dn addr => exact keeps_execTdLd h core dn addr
  | tdSetf core dn rs1 rs2 => exact keeps_execTdSetf h core dn rs1 rs2
  | tdIssue core rd dn => exact keeps_execTdIssue h core rd dn
  | tdNext core rd dn => exact keeps_execTdNext h core rd dn
  | tdDone core rd rs1 => exact keeps_execTdDone h core rd rs1
  | tdSt core dn addr => exact keeps_execTdSt h core dn addr
  | mmaDescriptor core d => exact keeps_execMmaDescriptor h core d
  | accmemAccess by_ da write data => exact keeps_execAccmemAccess h by_ da write data
  | vecConvert core d => exact keeps_execVecConvert h core d
  | vecAdd core d => exact keeps_execVecAdd h core d
  | vecSub core d => exact keeps_execVecSub h core d
  | vecMul core d => exact keeps_execVecMul h core d
  | vecAxpb core d => exact keeps_execVecAxpb h core d
  | vecMax core d => exact keeps_execVecMax h core d
  | vecMin core d => exact keeps_execVecMin h core d
  | vecExp core d => exact keeps_execVecExp h core d
  | vecLog core d => exact keeps_execVecLog h core d
  | vecRsqrt core d => exact keeps_execVecRsqrt h core d
  | vecRecip core d => exact keeps_execVecRecip h core d
  | vecTanh core d => exact keeps_execVecTanh h core d
  | vecSigmoid core d => exact keeps_execVecSigmoid h core d
  | vecRowsum core d => exact keeps_execVecRowsum h core d
  | vecRowmax core d => exact keeps_execVecRowmax h core d
  | vecRowsq core d => exact keeps_execVecRowsq h core d
  | steeredDescriptorResume core d => exact keeps_execSteeredDescriptorResume h core d
  | waitBeat core d => exact keeps_execWaitBeat h core d
  | waitBeatRelease core phase => exact keeps_execWaitBeatRelease h core phase
  | signal core d => exact keeps_execSignal h core d
  | signalSend core => exact keeps_execSignalSend h core
  | signalDeliver core ctr inc => exact keeps_execSignalDeliver h core ctr inc
  | fence core d => exact keeps_execFence h core d
  | fenceRelease core => exact keeps_execFenceRelease h core
  | fenceTimeout core => exact keeps_execFenceTimeout h core
  | schedulerPacketBoundary core => exact keeps_execSchedulerPacketBoundary h core
  | switchWaitExpiry core => exact keeps_execSwitchWaitExpiry h core
  | packetReady core mb => exact keeps_execPacketReady h core mb
  | dmaCopy core d => exact keeps_execDmaCopy h core d
  | dmaFill core d => exact keeps_execDmaFill h core d
  | dmaTileSave core d => exact keeps_execDmaTileSave h core d
  | dmaTileRestore core d => exact keeps_execDmaTileRestore h core d
  | ledgerMemoryRequest by_ old da write data err link => exact keeps_execLedgerMemoryRequest h by_ old da write data err link
  | scrubRead ld err => exact keeps_execScrubRead h ld err
  | refresh ld => exact keeps_execRefresh h ld
  | calibrationStart ld mask => exact keeps_execCalibrationStart h ld mask
  | calibrationComplete dev failed => exact keeps_execCalibrationComplete h dev failed
  | lpddr6Training ld types bad => exact keeps_execLpddr6Training h ld types bad
  | huskEncode core d => exact keeps_execHuskEncode h core d
  | stookEncodeResume ld => exact keeps_execStookEncodeResume h ld
  | stookEncodeComplete core d => exact keeps_execStookEncodeComplete h core d
  | huskDecode core d => exact keeps_execHuskDecode h core d
  | stookDecodeComplete core d => exact keeps_execStookDecodeComplete h core d
  | stookDirectoryCommit ld => exact keeps_execStookDirectoryCommit h ld
  | hskClear ld => exact keeps_execHskClear h ld
  | windowConvolution core d => exact keeps_execWindowConvolution h core d
  | windowMaxPool core d => exact keeps_execWindowMaxPool h core d
  | windowMeanPool core d => exact keeps_execWindowMeanPool h core d
  | stripeLineLoad clu stripe => exact keeps_execStripeLineLoad h clu stripe
  | stripeHaloResume clu stripe => exact keeps_execStripeHaloResume h clu stripe
  | windowStripeComplete clu stripe => exact keeps_execWindowStripeComplete h clu stripe
  | winCancel clu => exact keeps_execWinCancel h clu
  | kvGather core d => exact keeps_execKvGather h core d
  | kvWalkComplete clu seq vb => exact keeps_execKvWalkComplete h clu seq vb
  | glean core d => exact keeps_execGlean h core d
  | alloc by_ clu seq vb => exact keeps_execAlloc h by_ clu seq vb
  | map by_ clu seq vb => exact keeps_execMap h by_ clu seq vb
  | unmap by_ clu seq vb => exact keeps_execUnmap h by_ clu seq vb
  | query by_ clu seq vb => exact keeps_execQuery h by_ clu seq vb
  | setlen by_ clu seq vb => exact keeps_execSetlen h by_ clu seq vb
  | returnBushel by_ clu seq vb => exact keeps_execReturnBushel h by_ clu seq vb
  | poolstat by_ clu seq vb => exact keeps_execPoolstat h by_ clu seq vb
  | labInvalidate clu seq vb => exact keeps_execLabInvalidate h clu seq vb
  | labFlush clu => exact keeps_execLabFlush h clu
  | updateDescriptor core d => exact keeps_execUpdateDescriptor h core d
  | updateCheck ld => exact keeps_execUpdateCheck h ld
  | skipFlagReceive ld step flag => exact keeps_execSkipFlagReceive h ld step flag
  | deviceSkipFlagReceive dev step flag lat => exact keeps_execDeviceSkipFlagReceive h dev step flag lat
  | jobFlagReceive ld step flag => exact keeps_execJobFlagReceive h ld step flag
  | rule3PartialReceive ld layer step leaf size wn dn => exact keeps_execRule3PartialReceive h ld layer step leaf size wn dn
  | updateLayerWrite ld n => exact keeps_execUpdateLayerWrite h ld n
  | updClear ld => exact keeps_execUpdClear h ld
  | doorbellWrite by_ qid off size val => exact keeps_execDoorbellWrite h by_ qid off size val
  | doorbellRead by_ qid off size => exact keeps_execDoorbellRead h by_ qid off size
  | queueTake qid => exact keeps_execQueueTake h qid
  | queueEnable by_ qid => exact keeps_execQueueEnable h by_ qid
  | queueDisable by_ qid force => exact keeps_execQueueDisable h by_ qid force
  | queueFlush by_ qid mask => exact keeps_execQueueFlush h by_ qid mask
  | queueSetlevel by_ qid => exact keeps_execQueueSetlevel h by_ qid
  | queueQuery by_ qid => exact keeps_execQueueQuery h by_ qid
  | queueBadOp by_ op => exact keeps_execQueueBadOp h by_ op
  | queueBoundaryEffect qid => exact keeps_execQueueBoundaryEffect h qid
  | linkFrameSend port lane => exact keeps_execLinkFrameSend h port lane
  | linkFrameReceive port lane f syms => exact keeps_execLinkFrameReceive h port lane f syms
  | laneDrop port lane cause => exact keeps_execLaneDrop h port lane cause
  | portTraining port dev pport lanes c1 c2 c3 => exact keeps_execPortTraining h port dev pport lanes c1 c2 c3
  | portRetrain by_ mask => exact keeps_execPortRetrain h by_ mask
  | portDisable by_ mask => exact keeps_execPortDisable h by_ mask
  | portDown port cause => exact keeps_execPortDown h port cause
  | fabricWrite p => exact keeps_execFabricWrite h p
  | fabricRead p => exact keeps_execFabricRead h p
  | readResp p => exact keeps_execReadResp h p
  | fadd64 p => exact keeps_execFadd64 h p
  | cas64 p => exact keeps_execCas64 h p
  | swap64 p => exact keeps_execSwap64 h p
  | atomicResp p => exact keeps_execAtomicResp h p
  | errResp p => exact keeps_execErrResp h p
  | broadcast core d => exact keeps_execBroadcast h core d
  | reduceScatter core d => exact keeps_execReduceScatter h core d
  | allGather core d => exact keeps_execAllGather h core d
  | allReduce core d => exact keeps_execAllReduce h core d
  | permute core d => exact keeps_execPermute h core d
  | barrier core d => exact keeps_execBarrier h core d
  | collectivePacketReceive p => exact keeps_execCollectivePacketReceive h p
  | barrierArrivalReceive dev group tid b lat rsh => exact keeps_execBarrierArrivalReceive h dev group tid b lat rsh
  | barrierComplete core d => exact keeps_execBarrierComplete h core d
  | reshardIssue core d => exact keeps_execReshardIssue h core d
  | reshardGrantReceive block => exact keeps_execReshardGrantReceive h block
  | reshardBlockCommit block => exact keeps_execReshardBlockCommit h block
  | reshardAckReceive block => exact keeps_execReshardAckReceive h block
  | fabLayoutWrite by_ val => exact keeps_execFabLayoutWrite h by_ val
  | escrowOpenReceive dev step base man => exact keeps_execEscrowOpenReceive h dev step base man
  | escrowDeltaReceive dev k part tile recs => exact keeps_execEscrowDeltaReceive h dev k part tile recs
  | escrowCloseReceive dev step blk => exact keeps_execEscrowCloseReceive h dev step blk
  | sealedReceive dev step b lat => exact keeps_execSealedReceive h dev step b lat
  | needFullReceive dev lat => exact keeps_execNeedFullReceive h dev lat
  | freezeSend cause lost => exact keeps_execFreezeSend h cause lost
  | freezeReceive dev b cause lost lat => exact keeps_execFreezeReceive h dev b cause lost lat
  | escFreeze by_ => exact keeps_execEscFreeze h by_
  | escRollback by_ => exact keeps_execEscRollback h by_
  | escServe by_ target => exact keeps_execEscServe h by_ target
  | escReceive by_ target => exact keeps_execEscReceive h by_ target
  | escDigest by_ => exact keeps_execEscDigest h by_
  | escThaw by_ => exact keeps_execEscThaw h by_
  | escBadOp by_ op => exact keeps_execEscBadOp h by_ op
  | thawReceive dev beat lat => exact keeps_execThawReceive h dev beat lat
  | fillDone die => exact keeps_execFillDone h die
  | codecOpen e qid d => exact keeps_execCodecOpen h e qid d
  | codecDecode e qid d => exact keeps_execCodecDecode h e qid d
  | codecEncode e qid d => exact keeps_execCodecEncode h e qid d
  | codecRelease e qid d => exact keeps_execCodecRelease h e qid d
  | codecFlush e qid d => exact keeps_execCodecFlush h e qid d
  | codecClose e qid d => exact keeps_execCodecClose h e qid d
  | codecItemSelect e => exact keeps_execCodecItemSelect h e
  | codecFrameComplete e => exact keeps_execCodecFrameComplete h e
  | codecBufferResume e => exact keeps_execCodecBufferResume h e
  | bar2Access link off write data => exact keeps_execBar2Access h link off write data
  | hostAtomic link off kind operand swap => exact keeps_execHostAtomic h link off kind operand swap
  | msixAccess link off val => exact keeps_execMsixAccess h link off val
  | hostLinkChange link up rate width flit => exact keeps_execHostLinkChange h link up rate width flit
  | mgtGet port seq resource => exact keeps_execMgtGet h port seq resource
  | mgtLogRead port seq seg first count => exact keeps_execMgtLogRead h port seq seg first count
  | mgtStage port seq off data => exact keeps_execMgtStage h port seq off data
  | mgtStageDone port seq => exact keeps_execMgtStageDone h port seq
  | mgtNeighbourDiscovery port => exact keeps_execMgtNeighbourDiscovery h port
  | sealStrapClaim half => exact keeps_execSealStrapClaim h half
  | sealFallbackClaim half => exact keeps_execSealFallbackClaim h half
  | sealHeartbeatSend half => exact keeps_execSealHeartbeatSend h half
  | sealHeartbeatReceive half => exact keeps_execSealHeartbeatReceive h half
  | sealLostClaim half => exact keeps_execSealLostClaim h half
  | sealHostGrant link half alsoB => exact keeps_execSealHostGrant h link half alsoB
  | sealAcceptReceive ahead => exact keeps_execSealAcceptReceive h ahead
  | sealCommitReceive half seq beat => exact keeps_execSealCommitReceive h half seq beat
  | refMonitorWindow half count => exact keeps_execRefMonitorWindow h half count
  | refMissingEdge half => exact keeps_execRefMissingEdge h half
  | refRecovered half => exact keeps_execRefRecovered h half
  | clkGate by_ node => exact keeps_execClkGate h by_ node
  | clkUngate by_ node => exact keeps_execClkUngate h by_ node
  | clkDbgWrite by_ val => exact keeps_execClkDbgWrite h by_ val
  | q1ClusterGate clu => exact keeps_execQ1ClusterGate h clu
  | powerExit cause => exact keeps_execPowerExit h cause
  | powerExitComplete ue fails => exact keeps_execPowerExitComplete h ue fails
  | capStep pkg => exact keeps_execCapStep h pkg
  | thermalStep die tj => exact keeps_execThermalStep h die tj
  | pwrCapWrite by_ val => exact keeps_execPwrCapWrite h by_ val
  | pwrLatTolWrite by_ val => exact keeps_execPwrLatTolWrite h by_ val
  | resetCold strap => exact keeps_execResetCold h strap
  | resetWarm cause => exact keeps_execResetWarm h cause
  | resetDie die => exact keeps_execResetDie h die
  | resetCore core => exact keeps_execResetCore h core
  | bootRomLoad half => exact keeps_execBootRomLoad h half
  | firmwareVerified half => exact keeps_execFirmwareVerified h half
  | bursarBooted half => exact keeps_execBursarBooted h half
  | lpddr6InitComplete fails => exact keeps_execLpddr6InitComplete h fails
  | startupTestComplete lost bad => exact keeps_execStartupTestComplete h lost bad
  | testLogicBist by_ target => exact keeps_execTestLogicBist h by_ target
  | testLpddr6Cal by_ target => exact keeps_execTestLpddr6Cal h by_ target
  | testOpticalRecal by_ target => exact keeps_execTestOpticalRecal h by_ target
  | testCancel by_ => exact keeps_execTestCancel h by_
  | testComplete fail => exact keeps_execTestComplete h fail
  | secAttest by_ => exact keeps_execSecAttest h by_
  | secStage by_ => exact keeps_execSecStage h by_
  | secEnrollOwner by_ => exact keeps_execSecEnrollOwner h by_
  | secRevokeOwner by_ => exact keeps_execSecRevokeOwner h by_
  | secRevokeVendor by_ => exact keeps_execSecRevokeVendor h by_
  | secAdvanceSvn by_ => exact keeps_execSecAdvanceSvn h by_
  | secCert by_ => exact keeps_execSecCert h by_
  | logEventIntake k => exact keeps_execLogEventIntake h k
  | logCursorWrite by_ val => exact keeps_execLogCursorWrite h by_ val
  | logData7Read rd => exact keeps_execLogData7Read h rd
  | irqSourceRaise src sev3 => exact keeps_execIrqSourceRaise h src sev3
  | irqStatusClear by_ mask again => exact keeps_execIrqStatusClear h by_ mask again
  | irqEnableWrite by_ stw mask => exact keeps_execIrqEnableWrite h by_ stw mask
  | fibreBlockUnlatch block => exact keeps_execFibreBlockUnlatch h block
  | fibreBlockLatch block => exact keeps_execFibreBlockLatch h block
  | dieResetComplete die lost fails => exact keeps_execDieResetComplete h die lost fails
  | watchCalibrationComplete half count => exact keeps_execWatchCalibrationComplete h half count
  | sealClaimReceive half seq => exact keeps_execSealClaimReceive h half seq
  | hostConfigAccess link reg val => exact keeps_execHostConfigAccess h link reg val
  | mgtLinkChange port up => exact keeps_execMgtLinkChange h port up
  | ptpMasterLost port => exact keeps_execPtpMasterLost h port
  | escFillStreamReceive dev sec off bs => exact keeps_execEscFillStreamReceive h dev sec off bs
  | commitCutoff => exact keeps_execCommitCutoff h
  | beatFrameSend => exact keeps_execBeatFrameSend h
  | heartbeatSend => exact keeps_execHeartbeatSend h
  | beatSourceLost => exact keeps_execBeatSourceLost h
  | kvPoolInit => exact keeps_execKvPoolInit h
  | reshardDrainComplete => exact keeps_execReshardDrainComplete h
  | reshardMoveStart => exact keeps_execReshardMoveStart h
  | reshardCommit => exact keeps_execReshardCommit h
  | escrowStepOpen => exact keeps_execEscrowStepOpen h
  | escrowBankSeal => exact keeps_execEscrowBankSeal h
  | escrowSnapshotPoint => exact keeps_execEscrowSnapshotPoint h
  | freezeEffective => exact keeps_execFreezeEffective h
  | thawEffective => exact keeps_execThawEffective h
  | sealOffer => exact keeps_execSealOffer h
  | sealAccept => exact keeps_execSealAccept h
  | sealHandover => exact keeps_execSealHandover h
  | sealOfferTimeout => exact keeps_execSealOfferTimeout h
  | sealCommitTimeout => exact keeps_execSealCommitTimeout h
  | sealDispute => exact keeps_execSealDispute h
  | sealDisputeTimeout => exact keeps_execSealDisputeTimeout h
  | sealDisputeFreezeEnd => exact keeps_execSealDisputeFreezeEnd h
  | powerEntryComplete => exact keeps_execPowerEntryComplete h
  | partReady => exact keeps_execPartReady h
  | opticalRecalStart => exact keeps_execOpticalRecalStart h
  | logAppend => exact keeps_execLogAppend h
  | logDrop => exact keeps_execLogDrop h
  | perstNAssert => exact keeps_execPerstNAssert h
  | sealOfferReceive => exact keeps_execSealOfferReceive h

/-- Soundness is three of the things that a command keeps. -/
theorem Keeps.sound {r s : State} (h : Keeps r s) (hr : r.Sound) : s.Sound := by
  obtain ⟨hm, hp, hf⟩ := hr
  exact ⟨h.mem hm, h.poison hp, h.flds hf⟩

theorem step_of_empty {s : State} (h : s.pending = []) : step s = .next s := by
  simp only [step, h]

theorem step_of_front {s : State} {c : Instr} {rest : List Instr} (h : s.pending = c :: rest) :
    step s = exec c { s with pending := rest } := by
  simp only [step, h]

/-- Settles O1: the two cases of the queue. -/
theorem stepRunsTheFrontCommand : Obligations.StepRunsTheFrontCommand :=
  ⟨fun _ _ _ => step_of_front rfl, fun _ => step_of_empty⟩

/-- Settles O4, by the case of the command. -/
theorem commandsKeepWhatTheyMust : Obligations.CommandsKeepWhatTheyMust :=
  fun c s t => keeps_exec (Keeps.refl s) c t

/-- Settles O3: an idle step changes nothing, and the front command keeps soundness. -/
theorem stepKeepsSound : Obligations.StepKeepsSound := by
  intro s t hs ht
  cases hp : s.pending with
  | nil =>
    rw [step_of_empty hp] at ht
    cases ht
    exact hs
  | cons c rest =>
    rw [step_of_front hp] at ht
    have k : Keeps { s with pending := rest } t := keeps_exec (Keeps.refl _) c t ht
    exact k.sound hs

end Sys2Proof.Machine

/-! The trouble log: what arrives, what is written, what the cursor reads (O22). -/
namespace Sys2Proof.Machine

/-! ### The intake -/

theorem State.setIntake_log (s : State) (l : List (Nat × Entry)) : (s.setIntake l).log = { s.log with intake := l } := rfl
theorem State.setIntake_mem (s : State) (l : List (Nat × Entry)) : (s.setIntake l).mem = s.mem := rfl
theorem State.setIntake_cores (s : State) (l : List (Nat × Entry)) : (s.setIntake l).cores = s.cores := rfl

theorem State.setIntake_count (s : State) (l : List (Nat × Entry)) :
    (s.setIntake l).get .LOG_STATUS_INTAKE = min l.length 8191 := by
  have hw : Field.LOG_STATUS_INTAKE.width = 13 := rfl
  rw [State.setIntake, State.get_set_self, hw, Nat.mod_eq_of_lt (by omega)]

theorem State.setIntake_get (s : State) (l : List (Nat × Entry)) {f : Field} (u i : Nat) (h : f ≠ .LOG_STATUS_INTAKE) :
    (s.setIntake l).get f u i = s.get f u i := by
  rw [State.setIntake, State.get_set_ne _ _ _ _ _ _ _ _ (.inl h), State.mapLog_get]

theorem State.logIn_of_room {s : State} {half : Nat} {e : Entry} (h : s.logRoom half e.sev = true) :
    s.logIn half e = s.setIntake (s.log.intake ++ [(half, e)]) := by
  rw [State.logIn, if_pos h]

/-- An event without room is discarded: counted with its beat, and nothing else of the log moves. -/
theorem State.logIn_of_full {s : State} {half : Nat} {e : Entry} (h : s.logRoom half e.sev = false) :
    (s.logIn half e).log = { s.log with
      dropCount := s.log.dropCount + 1
      dropFirst := if s.log.dropCount = 0 then e.beat else s.log.dropFirst
      dropLast := e.beat } ∧
    (s.logIn half e).mem = s.mem ∧ (s.logIn half e).cores = s.cores := by
  rw [State.logIn, if_neg (by simp [h])]
  exact ⟨rfl, rfl, rfl⟩

/-- An event of severity 3 always has room (R476). -/
theorem State.logRoom_sev3 (s : State) (half : Nat) : s.logRoom half 3 = true := rfl

theorem exec_logEventIntake {s : State} {k half : Nat} {e : Entry} (h : s.log.flight[k]? = some (half, e)) :
    exec (.logEventIntake k) s = .next ((s.mapLog fun g => { g with flight := g.flight.eraseIdx k }).logIn half e) := by
  simp only [exec, execLogEventIntake, h]

theorem logEventIntake_room {s : State} {k half : Nat} {e : Entry} (h : s.log.flight[k]? = some (half, e))
    (hr : s.logRoom half e.sev = true) : ∃ t, exec (.logEventIntake k) s = .next t ∧
      t.log.intake = s.log.intake ++ [(half, e)] ∧ t.log.flight = s.log.flight.eraseIdx k ∧
      t.get .LOG_STATUS_INTAKE = min (s.log.intake.length + 1) 8191 ∧ t.log.ring = s.log.ring ∧ t.mem = s.mem ∧ t.cores = s.cores := by
  refine ⟨_, exec_logEventIntake h, ?_⟩
  rw [State.logIn_of_room (s := s.mapLog fun g => { g with flight := g.flight.eraseIdx k }) hr, State.setIntake_count, List.length_append]
  exact ⟨rfl, rfl, rfl, rfl, rfl, rfl⟩

theorem logEventIntake_full {s : State} {k half : Nat} {e : Entry} (h : s.log.flight[k]? = some (half, e))
    (hr : s.logRoom half e.sev = false) : ∃ t, exec (.logEventIntake k) s = .next t ∧ t.log.intake = s.log.intake ∧
      t.log.flight = s.log.flight.eraseIdx k ∧ t.log.dropCount = s.log.dropCount + 1 ∧ t.log.dropLast = e.beat ∧
      t.log.ring = s.log.ring ∧ t.mem = s.mem ∧ t.cores = s.cores := by
  obtain ⟨hl, hm, hc⟩ := State.logIn_of_full (s := s.mapLog fun g => { g with flight := g.flight.eraseIdx k }) hr
  refine ⟨_, exec_logEventIntake h, ?_⟩
  rw [hl, hm, hc]
  exact ⟨rfl, rfl, rfl, rfl, rfl, rfl, rfl⟩

/-- The event that LOG_DROP makes: the discarded number and the first and last of their beats (R476). -/
def State.dropEvent (s : State) : Entry :=
  ⟨s.now, s.get .BEAT_WALL_WALL, srcHub (2 * s.get .LOG_STATUS_HUB) 10, 0xb060, 1, 0,
    payloadOf [(4, s.log.dropCount), (8, s.log.dropFirst), (8, s.log.dropLast)]⟩

theorem State.logDrop_of_room {s : State} (hd : s.log.dropCount ≠ 0) (hr : s.logRoom (s.get .LOG_STATUS_HUB) 1 = true) :
    s.logDrop = (s.mapLog fun g => { g with dropCount := 0, dropFirst := 0, dropLast := 0 }).setIntake
      (s.log.intake ++ [(s.get .LOG_STATUS_HUB, s.dropEvent)]) := by
  have room : (s.mapLog fun g => { g with dropCount := 0, dropFirst := 0, dropLast := 0 }).logRoom (s.get .LOG_STATUS_HUB)
    s.dropEvent.sev = true := hr
  rw [State.logDrop, if_neg (by simp [hd, hr])]
  exact State.logIn_of_room room

theorem logDrop_room {s : State} (hd : s.log.dropCount ≠ 0) (hr : s.logRoom (s.get .LOG_STATUS_HUB) 1 = true) :
    ∃ t e, exec .logDrop s = .next t ∧ t.log.intake = s.log.intake ++ [(s.get .LOG_STATUS_HUB, e)] ∧ e.code = 0xb060 ∧ e.sev = 1 ∧
      e.payload = payloadOf [(4, s.log.dropCount), (8, s.log.dropFirst), (8, s.log.dropLast)] ∧ t.log.dropCount = 0 ∧ t.mem = s.mem ∧
      t.cores = s.cores := by
  refine ⟨s.logDrop, s.dropEvent, rfl, ?_⟩
  rw [State.logDrop_of_room hd hr]
  exact ⟨rfl, rfl, rfl, rfl, rfl, rfl, rfl⟩

/-! ### The ring -/

/-- The ring after entry n has been written: the entry a whole ring before is gone (R469). -/
def State.ringWith (s : State) (n : Nat) (e : Entry) : KMap Nat Entry :=
  KMap.set (if logRing ≤ n then KMap.erase s.log.ring (n - logRing) else s.log.ring) n e

theorem State.ringWith_same (s : State) (n : Nat) (e : Entry) : KMap.get? (s.ringWith n e) n = some e := KMap.get?_set_self ..

theorem State.ringWith_other (s : State) {n k : Nat} (e : Entry) (hk : k ≠ n) (ho : logRing ≤ n → k ≠ n - logRing) :
    KMap.get? (s.ringWith n e) k = KMap.get? s.log.ring k := by
  rw [State.ringWith, KMap.get?_set_ne _ _ _ _ hk]
  split
  · exact KMap.get?_erase_ne _ _ _ (ho ‹_›)
  · rfl

/-- Entry n as it is stored and numbered, before its interrupt. -/
def State.logStore (s : State) (n : Nat) (e : Entry) : State :=
  let t := s.mapLog fun g => { g with ring := s.ringWith n e }
  (if logRing ≤ n then t.bump .LOG_OVER_OVERWRITTEN else t).set .LOG_SEQ_NEXT ((n + 1) % 2 ^ 64)

/-- A new entry is stored, and may raise the log interrupt (R477). -/
theorem State.logNew_eq (s : State) (n : Nat) (e : Entry) : s.logNew n e =
    if e.sev = 3 then (s.logStore n e).irq 1 true
    else if (s.logStore n e).get .LOG_CFG_IRQ_SEV ≤ e.sev then (s.logStore n e).irq 1 else s.logStore n e := rfl

theorem State.logStore_spec (s : State) (n : Nat) (e : Entry) :
    (s.logStore n e).log = { s.log with ring := s.ringWith n e } ∧ (s.logStore n e).mem = s.mem ∧ (s.logStore n e).cores = s.cores ∧
    (s.logStore n e).get .LOG_SEQ_NEXT = (n + 1) % 2 ^ 64 ∧ (s.logStore n e).get .LOG_OVER_OVERWRITTEN =
      if logRing ≤ n then (s.get .LOG_OVER_OVERWRITTEN + 1) % 2 ^ Field.LOG_OVER_OVERWRITTEN.width else s.get .LOG_OVER_OVERWRITTEN := by
  have hw : Field.LOG_SEQ_NEXT.width = 64 := rfl
  by_cases h : logRing ≤ n <;> simp [State.logStore, h, hw]

/-- What the log interrupt leaves alone is what it was when the entry was stored. -/
theorem State.logNew_same {α : Type} (g : State → α) (hg : ∀ t b, g (State.irq t 1 b) = g t) (s : State) (n : Nat) (e : Entry) :
    g (s.logNew n e) = g (s.logStore n e) := by
  rw [State.logNew_eq]
  split
  · exact hg ..
  · split
    · exact hg ..
    · rfl

theorem State.logNew_spec (s : State) (n : Nat) (e : Entry) :
    (s.logNew n e).log = { s.log with ring := s.ringWith n e } ∧ (s.logNew n e).mem = s.mem ∧ (s.logNew n e).cores = s.cores ∧
    (s.logNew n e).get .LOG_SEQ_NEXT = (n + 1) % 2 ^ 64 ∧ (s.logNew n e).get .LOG_OVER_OVERWRITTEN =
      if logRing ≤ n then (s.get .LOG_OVER_OVERWRITTEN + 1) % 2 ^ Field.LOG_OVER_OVERWRITTEN.width else s.get .LOG_OVER_OVERWRITTEN := by
  rw [State.logNew_same State.log fun t b => State.irq_log t 1 b, State.logNew_same State.mem fun t b => State.irq_mem t 1 b,
    State.logNew_same State.cores fun t b => State.irq_cores t 1 b,
    State.logNew_same (·.get .LOG_SEQ_NEXT) fun t b => State.irq_same t 1 b _ _ _ (by decide),
    State.logNew_same (·.get .LOG_OVER_OVERWRITTEN) fun t b => State.irq_same t 1 b _ _ _ (by decide)]
  exact s.logStore_spec n e

/-- The entry that an event repeats: the newest one, where it is the same event with REPEAT below 255 (R474). -/
theorem State.logWrite_repeat {s : State} {e a : Entry} (hn : s.get .LOG_SEQ_NEXT ≠ 0)
    (ha : KMap.get? s.log.ring (s.get .LOG_SEQ_NEXT - 1) = some a) (hs : a.same e = true) :
    s.logWrite e = s.mapLog fun g => { g with ring := KMap.set g.ring (s.get .LOG_SEQ_NEXT - 1) { a with rep := a.rep + 1 } } := by
  simp only [State.logWrite, if_neg hn, ha, hs, if_true]

theorem State.logWrite_new {s : State} {e : Entry}
    (h : ¬(s.get .LOG_SEQ_NEXT ≠ 0 ∧ ∃ a, KMap.get? s.log.ring (s.get .LOG_SEQ_NEXT - 1) = some a ∧ a.same e = true)) :
    s.logWrite e = s.logNew (s.get .LOG_SEQ_NEXT) e := by
  unfold State.logWrite
  by_cases hn : s.get .LOG_SEQ_NEXT = 0
  · simp only [if_pos hn]
  · simp only [if_neg hn]
    split
    · rename_i a ha
      exact if_neg fun hs => h ⟨hn, a, ha, hs⟩
    · rfl

theorem exec_logAppend {s : State} {half : Nat} {e : Entry} {rest : List (Nat × Entry)} (hs : s.log.started = true)
    (hi : s.log.intake = (half, e) :: rest) : exec .logAppend s = .next ((s.setIntake rest).logWrite e) := by
  simp only [exec, execLogAppend, hs, hi]

theorem logAppend_repeat {s : State} {half : Nat} {e a : Entry} {rest : List (Nat × Entry)} (hs : s.log.started = true)
    (hi : s.log.intake = (half, e) :: rest) (hn : s.get .LOG_SEQ_NEXT ≠ 0)
    (ha : KMap.get? s.log.ring (s.get .LOG_SEQ_NEXT - 1) = some a) (hsame : a.same e = true) :
    ∃ t, exec .logAppend s = .next t ∧ t.log.intake = rest ∧ t.get .LOG_SEQ_NEXT = s.get .LOG_SEQ_NEXT ∧
      KMap.get? t.log.ring (s.get .LOG_SEQ_NEXT - 1) = some { a with rep := a.rep + 1 } ∧
      (∀ k, k ≠ s.get .LOG_SEQ_NEXT - 1 → KMap.get? t.log.ring k = KMap.get? s.log.ring k) ∧ t.mem = s.mem ∧ t.cores = s.cores := by
  have next : (s.setIntake rest).get .LOG_SEQ_NEXT = s.get .LOG_SEQ_NEXT := State.setIntake_get _ _ _ _ (by decide)
  refine ⟨_, exec_logAppend hs hi, ?_⟩
  rw [State.logWrite_repeat (a := a) (by rwa [next]) (by rwa [next]) hsame, next]
  exact ⟨rfl, next, KMap.get?_set_self .., fun k hk => KMap.get?_set_ne _ _ _ _ hk, rfl, rfl⟩

theorem logAppend_new {s : State} {half : Nat} {e : Entry} {rest : List (Nat × Entry)} (hs : s.log.started = true)
    (hi : s.log.intake = (half, e) :: rest)
    (h : ¬(s.get .LOG_SEQ_NEXT ≠ 0 ∧ ∃ a, KMap.get? s.log.ring (s.get .LOG_SEQ_NEXT - 1) = some a ∧ a.same e = true)) :
    ∃ t, exec .logAppend s = .next t ∧ t.log.intake = rest ∧ t.get .LOG_SEQ_NEXT = (s.get .LOG_SEQ_NEXT + 1) % 2 ^ 64 ∧
      KMap.get? t.log.ring (s.get .LOG_SEQ_NEXT) = some e ∧
      (∀ k, k ≠ s.get .LOG_SEQ_NEXT → (logRing ≤ s.get .LOG_SEQ_NEXT → k ≠ s.get .LOG_SEQ_NEXT - logRing) →
        KMap.get? t.log.ring k = KMap.get? s.log.ring k) ∧
      t.get .LOG_OVER_OVERWRITTEN = (if logRing ≤ s.get .LOG_SEQ_NEXT
        then (s.get .LOG_OVER_OVERWRITTEN + 1) % 2 ^ Field.LOG_OVER_OVERWRITTEN.width else s.get .LOG_OVER_OVERWRITTEN) ∧
      t.mem = s.mem ∧ t.cores = s.cores := by
  have next : (s.setIntake rest).get .LOG_SEQ_NEXT = s.get .LOG_SEQ_NEXT := State.setIntake_get _ _ _ _ (by decide)
  have hover : (s.setIntake rest).get .LOG_OVER_OVERWRITTEN = s.get .LOG_OVER_OVERWRITTEN := State.setIntake_get _ _ _ _ (by decide)
  refine ⟨_, exec_logAppend hs hi, ?_⟩
  rw [State.logWrite_new (by rwa [next]), next]
  obtain ⟨hl, hm, hc, hq, ho⟩ := (s.setIntake rest).logNew_spec (s.get .LOG_SEQ_NEXT) e
  rw [hl, hm, hc, hq, ho, hover]
  exact ⟨rfl, rfl, State.ringWith_same .., fun k => State.ringWith_other _ e, rfl, rfl, rfl⟩

/-! ### The cursor -/

/-- Whether a read takes a whole register or an aligned half of it (R2). -/
theorem discarded_read (off size : Nat) : discarded false off size = false ↔ (size = 8 ∧ off % 8 = 0 ∨ size = 4 ∧ off % 4 = 0) := by
  simp only [discarded, Bool.false_or, Bool.and_eq_false_iff, Bool.not_eq_false', Bool.and_eq_true, beq_iff_eq]

/-- LOG_DATA7 and the places in it. -/
theorem State.regPlace_logData7 (s : State) (off : Nat) : s.regPlace (0x7f000300078 + off % 8) = .block .LOG 0 (0x78 + off % 8) := by
  have hk : off % 8 < 8 := Nat.mod_lt _ (by decide)
  interval_cases off % 8 <;> rfl

theorem regAt_logData7 (off : Nat) : regAt .LOG (0x78 + off % 8) = some (.LOG_DATA, 7) := by
  have hk : off % 8 < 8 := Nat.mod_lt _ (by decide)
  interval_cases off % 8 <;> rfl

theorem State.regWordNow_logData (s : State) (i : Nat) : s.regWordNow .LOG_DATA 0 i = s.get .LOG_DATA_DATA 0 i := by
  simp [State.regWordNow, State.regWord, Reg.row, Field.row]

theorem State.regData_logData7 (s : State) (off size : Nat) :
    s.regData .LOG 0 (0x78 + off % 8) size = leBytes size (s.get .LOG_DATA_DATA 0 7 / 2 ^ (8 * (off % 8))) := by
  have hk : (0x78 + off % 8) % 8 = off % 8 := by omega
  simp only [State.regData, regAt_logData7, State.regWordNow_logData, hk]

/-- A read of LOG_DATA7 by one who may read it: 0 where R2 discards it, else the latched word and the cursor's move (R478). -/
theorem exec_logData7Read {s : State} {a : Agent} (off size : Nat) (hr : mayRead a .LOG 0 = true)
    (hd : s.rst.inReset.contains (32 + s.inCharge) = false) : exec (.logData7Read ⟨a, off, size⟩) s =
      if discarded false off size then .next (s.emit (.answer a true (List.replicate size 0)))
      else .next (s.emit (.answer a true (leBytes size (s.get .LOG_DATA_DATA 0 7 / 2 ^ (8 * (off % 8)))))).logNextRead := by
  have hdis : discarded false (0x78 + off % 8) size = discarded false off size := by
    have h8 : (0x78 + off % 8) % 8 = off % 8 := by omega
    have h4 : (0x78 + off % 8) % 4 = off % 4 := by omega
    simp only [discarded, h8, h4]
  have hwait : ∀ f, s.hostWait a .LOG (0x7f000300078 + off % 8) size none f = f s := fun f => by cases a <;> rfl
  have hblk : s.blockDie .LOG 0 = 32 + s.inCharge := rfl
  simp only [exec, execLogData7Read, State.regRead, State.regPlace_logData7, hr, hblk, hd, hdis, hwait, regAt_logData7,
    State.regData_logData7, State.regReadEffect]
  simp

theorem State.logNextRead_on {s : State} (h : s.get .LOG_CURSOR_STATE < 2) :
    s.logNextRead = (s.set .LOG_CURSOR_SEQ ((s.get .LOG_CURSOR_SEQ + 1) % 2 ^ 46)).logLatch := by
  rw [State.logNextRead, if_pos h]

theorem State.logNextRead_again {s : State} (h : s.get .LOG_CURSOR_STATE = 2) : s.logNextRead = s.logLatch := by
  rw [State.logNextRead, if_neg (by omega), if_pos h]

theorem State.logNextRead_stay {s : State} (h : 2 < s.get .LOG_CURSOR_STATE) : s.logNextRead = s := by
  rw [State.logNextRead, if_neg (by omega), if_neg (by omega)]

/-- The words of LOG_DATA latched one after another: each holds its own value, and no other field moves. -/
theorem State.latchWords (s : State) (w : Nat → Nat) (n : Nat) :
    let t := (List.range n).foldl (fun s i => s.set .LOG_DATA_DATA (w i) 0 i) s
    (∀ i, i < n → t.get .LOG_DATA_DATA 0 i = w i % 2 ^ 64) ∧ ∀ f u i, f ≠ .LOG_DATA_DATA → t.get f u i = s.get f u i := by
  have hw : Field.LOG_DATA_DATA.width = 64 := rfl
  induction n with
  | zero => exact ⟨fun i hi => absurd hi (by omega), fun _ _ _ _ => rfl⟩
  | succ n ih =>
    obtain ⟨words, rest⟩ := ih
    simp only [List.range_succ, List.foldl_append, List.foldl_cons, List.foldl_nil]
    refine ⟨fun i hi => ?_, fun f u i hf => by rw [State.get_set_ne _ _ _ _ _ _ _ _ (.inl hf), rest f u i hf]⟩
    by_cases h : i = n
    · rw [h, State.get_set_self, hw]
    · rw [State.get_set_ne _ _ _ _ _ _ _ _ (.inr (.inr h)), words i (by omega)]

theorem State.logLatch_lost {s : State} (h : s.logSeg (s.get .LOG_CURSOR_SEG) = none) : s.logLatch.get .LOG_CURSOR_STATE = 3 := by
  simp only [State.logLatch, h]
  rw [State.get_set_self]
  rfl

theorem State.logLatch_ahead {s : State} {l : KMap Nat Entry} {next : Nat} (h : s.logSeg (s.get .LOG_CURSOR_SEG) = some (l, next))
    (hn : next ≤ s.get .LOG_CURSOR_SEQ) : s.logLatch.get .LOG_CURSOR_STATE = 2 := by
  simp only [State.logLatch, h, if_pos hn]
  rw [State.get_set_self]
  rfl

theorem State.logLatch_held {s : State} {l : KMap Nat Entry} {next : Nat} {e : Entry}
    (h : s.logSeg (s.get .LOG_CURSOR_SEG) = some (l, next)) (hn : s.get .LOG_CURSOR_SEQ < next)
    (he : KMap.get? l (s.get .LOG_CURSOR_SEQ) = some e) : s.logLatch.get .LOG_CURSOR_STATE = 0 ∧
      ∀ i, i < 8 → s.logLatch.get .LOG_DATA_DATA 0 i = field e.bytes (8 * i) 8 % 2 ^ 64 := by
  obtain ⟨words, rest⟩ := (s.set .LOG_CURSOR_STATE 0).latchWords (fun i => field e.bytes (8 * i) 8) 8
  simp only [State.logLatch, h, if_neg (Nat.not_le.mpr hn), he]
  refine ⟨?_, words⟩
  rw [rest _ _ _ (by decide), State.get_set_self]
  rfl

/-- Settles O22: intake, ring, drop record, cursor and latch, each by its own lemma. -/
theorem troubleLogTakesWritesAndReads : Obligations.TroubleLogTakesWritesAndReads := by
  unfold Obligations.TroubleLogTakesWritesAndReads
  refine ⟨fun s k half e h => ⟨logEventIntake_room h, fun hr => ⟨fun h3 => ?_, logEventIntake_full h hr⟩⟩,
    fun s half e rest hs hi => ⟨fun a hn ha hsame => logAppend_repeat hs hi hn ha hsame, logAppend_new hs hi⟩,
    fun s => logDrop_room, fun s a v => rfl, fun s a off size hr hd => ⟨fun hsize => ?_, fun hsize => ?_⟩,
    fun s => ⟨State.logLatch_lost, fun l next h => ⟨State.logLatch_ahead h, fun e => State.logLatch_held h⟩⟩⟩
  · rw [h3, State.logRoom_sev3] at hr
    cases hr
  · rw [exec_logData7Read off size hr hd, if_neg (by simp [(discarded_read off size).mpr hsize])]
    exact ⟨fun h => congrArg _ (State.logNextRead_on h), fun h => congrArg _ (State.logNextRead_again h),
      fun h => congrArg _ (State.logNextRead_stay h)⟩
  · rw [exec_logData7Read off size hr hd, if_pos (by simpa [← discarded_read] using hsize)]

end Sys2Proof.Machine

/-! Register writes: where a write arrives, what the access types store, and what answers it (O44). -/
namespace Sys2Proof.Machine

/-! ### What is refused -/

@[simp] theorem State.wake_mem (s : State) (c : Nat) : (s.wake c).mem = s.mem := by
  unfold State.wake
  split
  · split <;> rfl
  · split <;> rfl

@[simp] theorem State.wake_waitReg (s : State) (c : Nat) : (s.wake c).clk.waitReg = s.clk.waitReg := by
  unfold State.wake
  split
  · split <;> rfl
  · split <;> rfl

theorem State.dropWait_mem (s : State) (core pkt : Nat) : (s.dropWait core pkt).mem = s.mem := by
  simp only [State.dropWait]
  split <;> rfl

/-- A packet that is discarded writes nothing (R155). -/
theorem State.dropPacket_mem (s : State) (core : Nat) (h : Held) : (s.dropPacket core h).mem = s.mem := by
  have drop : ((s.countDrop core h.pkt).dropWait core h.pkt).mem = s.mem := State.dropWait_mem ..
  simp only [State.dropPacket]
  split
  · exact State.log'_mem ..
  · split
    · rfl
    · split
      · exact drop
      · exact (State.log'_mem ..).trans drop

theorem State.tidyRefused_mem (s : State) (core : Nat) : (s.tidyRefused core).mem = s.mem := by
  unfold State.tidyRefused
  simp only []
  split
  · exact State.dropPacket_mem ..
  · rfl

/-- An access outside a requester's reach stores nothing. -/
theorem State.regUnmapped_mem (s : State) (a : Agent) (da : Nat) : (s.regUnmapped a da).mem = s.mem := by
  have logged : ((s.unmappedEv a da).regRefuse a).mem = s.mem := State.log'_mem ..
  cases a with
  | tidy core => exact (State.tidyRefused_mem ..).trans logged
  | host l => exact logged
  | steward => exact logged
  | unit x y => exact logged

theorem State.msixWrite_mem (s : State) (l off val : Nat) : (s.msixWrite l off val).mem = s.mem := by
  simp only [State.msixWrite, apply_ite State.mem, State.emit_mem, ite_self]

/-! ### The access types -/

/-- The part of a register write that one field takes. -/
def State.fieldWrite (s : State) (u i v : Nat) (f : Field) : State :=
  let w := bits v f.row.hi f.row.lo
  match f.row.acc with
  | .ro | .wo => s
  | .rw | .rws => s.set f w u i
  | .rwl => if !s.str.committedOnce || s.str.prepOpen then s.set f w u i else s
  | .w1c => s.set f (s.get f u i - (s.get f u i &&& w)) u i

/-- What a field reads after a write, by its access type (R4, R5). -/
def State.fieldValue (s : State) (u i v : Nat) (f : Field) : Nat :=
  let x := bits v f.row.hi f.row.lo
  match f.row.acc with
  | .ro | .wo => s.get f u i
  | .rw | .rws => x
  | .rwl => if !s.str.committedOnce || s.str.prepOpen then x else s.get f u i
  | .w1c => (s.get f u i - (s.get f u i &&& x)) % 2 ^ f.width

theorem State.plainWrite_eq (s : State) (r : Reg) (u i v : Nat) :
    s.plainWrite r u i v = r.row.fields.foldl (fun s f => s.fieldWrite u i v f) s := rfl

/-- A field's bits of a word fit the field. -/
theorem bits_mod_width (v : Nat) (f : Field) : bits v f.row.hi f.row.lo % 2 ^ f.width = bits v f.row.hi f.row.lo := Nat.mod_mod ..

/-- A field is left alone, or is set to its new value. -/
theorem State.fieldWrite_cases (s : State) (u i v : Nat) (f : Field) :
    (s.fieldWrite u i v f = s ∧ s.fieldValue u i v f = s.get f u i) ∨
    ∃ x, s.fieldWrite u i v f = s.set f x u i ∧ s.fieldValue u i v f = x % 2 ^ f.width := by
  have fits := (bits_mod_width v f).symm
  unfold State.fieldWrite State.fieldValue
  cases f.row.acc with
  | ro => exact .inl ⟨rfl, rfl⟩
  | wo => exact .inl ⟨rfl, rfl⟩
  | rw => exact .inr ⟨_, rfl, fits⟩
  | rws => exact .inr ⟨_, rfl, fits⟩
  | w1c => exact .inr ⟨_, rfl, rfl⟩
  | rwl =>
    by_cases h : (!s.str.committedOnce || s.str.prepOpen) = true
    · exact .inr ⟨_, if_pos h, (if_pos h).trans fits⟩
    · exact .inl ⟨if_neg h, if_neg h⟩

theorem State.fieldWrite_same (s : State) (u i v : Nat) (f : Field) : (s.fieldWrite u i v f).get f u i = s.fieldValue u i v f := by
  obtain ⟨hw, hv⟩ | ⟨x, hw, hv⟩ := s.fieldWrite_cases u i v f
  · rw [hw, hv]
  · rw [hw, hv, State.get_set_self]

theorem State.fieldWrite_frame (s : State) (u i v : Nat) (f : Field) :
    (s.fieldWrite u i v f).mem = s.mem ∧ (s.fieldWrite u i v f).str = s.str ∧
    ∀ g u' i', g ≠ f ∨ u' ≠ u ∨ i' ≠ i → (s.fieldWrite u i v f).get g u' i' = s.get g u' i' := by
  obtain ⟨hw, -⟩ | ⟨x, hw, -⟩ := s.fieldWrite_cases u i v f
  · rw [hw]
    exact ⟨rfl, rfl, fun _ _ _ _ => rfl⟩
  · rw [hw]
    exact ⟨rfl, rfl, fun _ _ _ h => State.get_set_ne _ _ _ _ _ _ _ _ h⟩

/-- The fields of a list written one after another: every other field keeps its value, and memory and the commit state stay. -/
theorem State.fieldWrites_frame (l : List Field) (s : State) (u i v : Nat) :
    let t := l.foldl (fun s f => s.fieldWrite u i v f) s
    t.mem = s.mem ∧ t.str = s.str ∧ ∀ g u' i', g ∉ l ∨ u' ≠ u ∨ i' ≠ i → t.get g u' i' = s.get g u' i' := by
  induction l generalizing s with
  | nil => exact ⟨rfl, rfl, fun _ _ _ _ => rfl⟩
  | cons f l ih =>
    obtain ⟨hm, hs, hg⟩ := s.fieldWrite_frame u i v f
    obtain ⟨hm', hs', hg'⟩ := ih (s.fieldWrite u i v f)
    refine ⟨hm'.trans hm, hs'.trans hs, fun g u' i' h => (hg' g u' i' ?_).trans (hg g u' i' ?_)⟩
    · exact h.imp_left fun hn hl => hn (.tail _ hl)
    · exact h.imp_left fun hn hf => hn (hf ▸ .head _)

/-- A field that a list names once reads its new value after the list's fields have been written. -/
theorem State.fieldWrites_value {l : List Field} (hl : l.Nodup) (s : State) (u i v : Nat) {f : Field} (hf : f ∈ l) :
    (l.foldl (fun s f => s.fieldWrite u i v f) s).get f u i = s.fieldValue u i v f := by
  induction l generalizing s with
  | nil => cases hf
  | cons a l ih =>
    obtain ⟨ha, hl⟩ := List.nodup_cons.mp hl
    rw [List.foldl_cons]
    by_cases e : f = a
    · subst e
      obtain ⟨-, -, rest⟩ := State.fieldWrites_frame l (s.fieldWrite u i v f) u i v
      rw [rest f u i (.inl ha), State.fieldWrite_same]
    · obtain ⟨-, hs, hg⟩ := s.fieldWrite_frame u i v a
      have hv : (s.fieldWrite u i v a).fieldValue u i v f = s.fieldValue u i v f := by
        simp only [State.fieldValue, hs, hg f u i (.inl e)]
      rw [ih hl _ ((List.mem_cons.mp hf).resolve_left e), hv]

/-- A register names each of its fields once. -/
theorem Reg.fields_nodup (r : Reg) : r.row.fields.Nodup := by
  cases r <;> decide

theorem State.plainWrite_value (s : State) {r : Reg} (u i v : Nat) {f : Field} (hf : f ∈ r.row.fields) :
    (s.plainWrite r u i v).get f u i = s.fieldValue u i v f := by
  rw [State.plainWrite_eq]
  exact State.fieldWrites_value r.fields_nodup s u i v hf

/-! ### Where a write arrives -/

/-- What a host access to a block leaves behind: a trigger to wake where the block does not answer in every power state (R430). -/
def State.woken (s : State) (a : Agent) (b : Block) : State :=
  match a with
  | .host _ => if alwaysOn b then s else s.wake 3
  | _ => s

/-- A write that has reached its block: the register at the offset takes it, and where none is defined nothing happens (R490). -/
def State.regWriteAt (s : State) (a : Agent) (b : Block) (u off : Nat) (val : Word) : Res :=
  match regAt b off with
  | some (r, i) => s.regWrite a r u i val
  | none => .next s

theorem State.regWriteAt_none {s : State} {a : Agent} {b : Block} {u off : Nat} {val : Word} (h : regAt b off = none) :
    s.regWriteAt a b u off val = .next s := by
  rw [State.regWriteAt, h]

theorem State.regWriteAt_some {s : State} {a : Agent} {b : Block} {u off : Nat} {val : Word} {r : Reg} {i : Nat}
    (h : regAt b off = some (r, i)) : s.regWriteAt a b u off val = s.regWrite a r u i val := by
  rw [State.regWriteAt, h]

theorem State.hostWait_woken {s : State} {a : Agent} {b : Block} (da size : Nat) (val : Option Word) (f : State → Res)
    (h : (∀ l, a ≠ .host l) ∨ alwaysOn b = true ∨ s.get .PWR_STATE_CURRENT < 2) :
    s.hostWait a b da size val f = f (s.woken a b) := by
  cases a with
  | host l =>
    simp only [State.hostWait, State.woken]
    by_cases hb : alwaysOn b = true
    · rw [if_pos hb, if_pos hb]
    · have hp : s.get .PWR_STATE_CURRENT < 2 := (h.resolve_left fun h => h l rfl).resolve_left hb
      rw [if_neg hb, if_neg hb, if_neg (by omega)]
  | steward => rfl
  | tidy core => rfl
  | unit x y => rfl

/-- A host write to a block that is powered down waits. -/
theorem State.hostWait_waits {s : State} {b : Block} (l da size : Nat) (val : Option Word) (f : State → Res)
    (hb : alwaysOn b = false) (hp : 2 ≤ s.get .PWR_STATE_CURRENT) : ∃ t : State, s.hostWait (.host l) b da size val f = .next t ∧
      t.mem = s.mem ∧ t.clk.waitReg = s.clk.waitReg ++ [(.host l, da, size, val)] := by
  simp only [State.hostWait]
  rw [if_neg (by simp [hb]), if_pos hp]
  exact ⟨_, rfl, s.wake_mem 3, congrArg (· ++ _) (s.wake_waitReg 3)⟩

theorem State.regAccess_absent {s : State} {a : Agent} {da : Nat} (size : Nat) (val : Word) (hp : s.regPlace da = .absent) :
    s.regAccess a da size val = .next (s.regUnmapped a da) := by
  unfold State.regAccess
  rw [hp]

/-- A write in register space, when its block answers: it waits or is made as R430 says. -/
theorem State.regAccess_block {s : State} {a : Agent} {da : Nat} {b : Block} {u off : Nat} (size : Nat) (val : Word)
    (hp : s.regPlace da = .block b u off) : s.regAccess a da size val =
      if !mayWrite a b u then .next (s.regUnmapped a da)
      else if s.rst.inReset.contains (s.blockDie b u) then .next (s.regRefuse a)
      else if s.hostEarly a ∧ !earlyOk b off then .next (s.regRefuse a)
      else if discarded true off size then .next s
      else s.hostWait a b da size (some val) fun s => s.regWriteAt a b u off val := by
  unfold State.regAccess
  rw [hp]
  rfl

theorem State.regAccess_forbidden {s : State} {a : Agent} {da : Nat} {b : Block} {u off : Nat} (size : Nat) (val : Word)
    (hp : s.regPlace da = .block b u off) (hm : mayWrite a b u = false) : s.regAccess a da size val = .next (s.regUnmapped a da) := by
  rw [State.regAccess_block size val hp, if_pos (by simp [hm])]

/-- A die in reset, and a block that answers the host only after READY, complete the write as Unsupported Request (R444, R490). -/
theorem State.regAccess_refused {s : State} {a : Agent} {da : Nat} {b : Block} {u off : Nat} (size : Nat) (val : Word)
    (hp : s.regPlace da = .block b u off) (hm : mayWrite a b u = true)
    (h : s.rst.inReset.contains (s.blockDie b u) = true ∨ (s.hostEarly a = true ∧ earlyOk b off = false)) :
    s.regAccess a da size val = .next (s.regRefuse a) := by
  rw [State.regAccess_block size val hp, if_neg (by simp [hm])]
  by_cases hr : s.rst.inReset.contains (s.blockDie b u) = true
  · rw [if_pos hr]
  · obtain ⟨he, hk⟩ := h.resolve_left hr
    rw [if_neg hr, if_pos (by simp [he, hk])]

theorem State.regAccess_reaches {s : State} {a : Agent} {da : Nat} {b : Block} {u off : Nat} (size : Nat) (val : Word)
    (hp : s.regPlace da = .block b u off) (hm : mayWrite a b u = true) (hr : s.rst.inReset.contains (s.blockDie b u) = false)
    (he : s.hostEarly a = false ∨ earlyOk b off = true) : s.regAccess a da size val =
      if discarded true off size then .next s else s.hostWait a b da size (some val) fun s => s.regWriteAt a b u off val := by
  rw [State.regAccess_block size val hp, if_neg (by simp [hm]), if_neg (Bool.eq_false_iff.mp hr), if_neg]
  rintro ⟨h, h'⟩
  obtain he | he := he <;> simp [he] at h h'

theorem discarded_write (off size : Nat) : discarded true off size = false ↔ size = 8 ∧ off % 8 = 0 := by
  simp [discarded]

/-- A write that is not a whole register is discarded (R2). -/
theorem State.regAccess_discarded {s : State} {a : Agent} {da : Nat} {b : Block} {u off : Nat} {size : Nat} (val : Word)
    (hp : s.regPlace da = .block b u off) (hm : mayWrite a b u = true) (hr : s.rst.inReset.contains (s.blockDie b u) = false)
    (he : s.hostEarly a = false ∨ earlyOk b off = true) (hd : ¬(size = 8 ∧ off % 8 = 0)) : s.regAccess a da size val = .next s := by
  rw [State.regAccess_reaches size val hp hm hr he, if_pos (by simpa [← discarded_write] using hd)]

theorem State.regAccess_whole {s : State} {a : Agent} {da : Nat} {b : Block} {u off : Nat} {size : Nat} (val : Word)
    (hp : s.regPlace da = .block b u off) (hm : mayWrite a b u = true) (hr : s.rst.inReset.contains (s.blockDie b u) = false)
    (he : s.hostEarly a = false ∨ earlyOk b off = true) (h8 : size = 8) (hoff : off % 8 = 0) :
    s.regAccess a da size val = s.hostWait a b da size (some val) fun s => s.regWriteAt a b u off val := by
  rw [State.regAccess_reaches size val hp hm hr he, if_neg (by simp [(discarded_write off size).mpr ⟨h8, hoff⟩])]

theorem State.regAccess_none_mem (s : State) (a : Agent) {da clu : Nat} (size : Nat) (val : Word) (hp : s.regPlace da = .none_ clu) :
    ∃ t : State, s.regAccess a da size val = .next t ∧ t.mem = s.mem := by
  unfold State.regAccess
  rw [hp]
  simp only []
  split
  · exact ⟨_, rfl, rfl⟩
  · cases a with
    | host l => exact ⟨_, rfl, by simp only [apply_ite State.mem, State.wake_mem, State.regRefuse, State.emit_mem, ite_self]⟩
    | steward => exact ⟨_, rfl, rfl⟩
    | tidy core => exact ⟨_, rfl, State.regUnmapped_mem ..⟩
    | unit x y => exact ⟨_, rfl, State.regUnmapped_mem ..⟩

theorem State.regAccess_msix_mem (s : State) (a : Agent) {da off : Nat} (size : Nat) (val : Word) (hp : s.regPlace da = .msix off) :
    ∃ t : State, s.regAccess a da size val = .next t ∧ t.mem = s.mem := by
  unfold State.regAccess
  rw [hp]
  simp only []
  cases a with
  | host l =>
    by_cases he : s.hostEarly (.host l) = true
    · exact ⟨_, if_pos he, rfl⟩
    · exact ⟨_, if_neg he, by simp only [apply_ite State.mem, State.msixWrite_mem, ite_self]⟩
  | steward => exact ⟨_, rfl, rfl⟩
  | tidy core => exact ⟨_, rfl, State.regUnmapped_mem ..⟩
  | unit x y => exact ⟨_, rfl, State.regUnmapped_mem ..⟩

/-! ### Registers with an effect of their own -/

/-- An operation code of QUE_OP has four bits, so a code that is not listed ends with BAD_OP (R525). -/
theorem State.queWrite_next (s : State) (a : Agent) (v : Nat) : ∃ t, s.queWrite a v = .next t := by
  have code : bits v 63 60 % 16 = bits v 63 60 := Nat.mod_mod ..
  unfold State.queWrite
  split
  case h_6 op h1 h2 h3 h4 h5 =>
    refine ⟨_, if_neg ?_⟩
    rw [code]
    simp only [imp_false] at h1 h2 h3 h4 h5
    omega
  all_goals exact ⟨_, rfl⟩

theorem State.secWrite_next (s : State) (a : Agent) (v : Nat) : ∃ t, s.secWrite a v = .next t := by
  unfold State.secWrite
  split
  all_goals exact ⟨_, rfl⟩

/-- A write that reaches a register answers a next state, whatever the register. -/
theorem State.regWrite_next (s : State) (a : Agent) (r : Reg) (u i : Nat) (val : Word) : ∃ t, s.regWrite a r u i val = .next t := by
  unfold State.regWrite
  split
  case h_4 => exact s.queWrite_next a val.toNat
  case h_12 => exact s.secWrite_next a val.toNat
  all_goals exact ⟨_, rfl⟩

/-- The registers whose write has an effect beyond their fields. -/
def effectRegs : List Reg :=
  [.BEAT_CFG, .STR_PREPARE, .STR_COMMIT, .QUE_OP, .ESC_CTL, .KVW_BOP, .KVW_CTL, .UPD_CTL, .HSK_CTL, .WIN_CTL, .DCTL_FILL, .SEC_OP, .RST_CTL,
    .RST_TEST_OP, .CLK_GATE_OP, .CLK_DBG, .PWR_CAP, .PWR_LAT_TOL, .LOG_CURSOR, .GLB_IRQ_STATUS, .GLB_IRQ_EN, .GLB_IRQ_STW, .HST_SEAL_GRANT,
    .STW_SEAL_CTL, .FAB_PORT_CTL, .FAB_LAYOUT]

theorem State.regWrite_plain (s : State) (a : Agent) {r : Reg} (u i : Nat) (val : Word) (h : r ∉ effectRegs) :
    s.regWrite a r u i val = .next (s.plainWrite r u i val.toNat) := by
  unfold State.regWrite
  split
  case h_27 => rfl
  all_goals exact absurd (by decide) h

theorem State.plainWrite_frame (s : State) (r : Reg) (u i v : Nat) : (s.plainWrite r u i v).mem = s.mem ∧
    ∀ f u' i', f ∉ r.row.fields ∨ u' ≠ u ∨ i' ≠ i → (s.plainWrite r u i v).get f u' i' = s.get f u' i' := by
  obtain ⟨hm, -, hg⟩ := State.fieldWrites_frame r.row.fields s u i v
  rw [State.plainWrite_eq]
  exact ⟨hm, hg⟩

/-! ### The command -/

theorem exec_registerWrite_absent {s : State} {a : Agent} (da size : Nat) (val : Word) (h : s.agentOk a = false) :
    exec (.registerWrite a da size val) s = .fault .absentUnit := by
  simp only [exec, execRegisterWrite, onUnit, h, Bool.false_eq_true, if_false]

theorem exec_registerWrite_reg {s : State} {a : Agent} {da : Nat} (size : Nat) (val : Word) (h : s.agentOk a = true)
    (hlo : 0x7f000000000 ≤ da) (hhi : da < 0x7f800000000) : exec (.registerWrite a da size val) s = s.regAccess a da size val := by
  simp only [exec, execRegisterWrite, onUnit, h, hlo, hhi, and_self, if_true]

theorem exec_registerWrite_doorbell {s : State} {a : Agent} {da : Nat} (size : Nat) (val : Word) (h : s.agentOk a = true)
    (hlo : 0x7f800000000 ≤ da) (hhi : da < 0x7f900000000) (ha : ∀ x y, a ≠ .unit x y) : exec (.registerWrite a da size val) s =
      exec (.doorbellWrite a ((da - 0x7f800000000) / 4096) (da % 4096) size val) s := by
  simp only [exec, execRegisterWrite, onUnit, h, if_true]
  rw [if_neg (by omega), if_pos ⟨hlo, hhi⟩]

theorem exec_registerWrite_host {s : State} {l da : Nat} (size : Nat) (val : Word) (h : s.agentOk (.host l) = true)
    (hda : da < 0x7f000000000 ∨ 0x7f900000000 ≤ da) : exec (.registerWrite (.host l) da size val) s = .next (s.regUnmapped (.host l) da) := by
  simp only [exec, execRegisterWrite, onUnit, h, if_true]
  rw [if_neg (by omega), if_neg (by omega)]

theorem exec_registerWrite_mem {s : State} {a : Agent} {da : Nat} (size : Nat) (val : Word) (h : s.agentOk a = true)
    (hda : da < 0x7f000000000 ∨ 0x7f900000000 ≤ da) (ha : ∀ l, a ≠ .host l) :
    exec (.registerWrite a da size val) s = .next (s.memAcc a da 1 (leBytes size val.toNat)) := by
  simp only [exec, execRegisterWrite, onUnit, h, if_true]
  rw [if_neg (by omega), if_neg (by omega)]

/-- A PTP message reaches the slave of the port that MGT_PORT selects under SRC 3 (R56, R408). -/
theorem exec_ptpMessageReceive_slave {s : State} {port : Nat} (hm : s.mgtOk port = true) (hs : s.beatSource = 3)
    (hp : s.eff .BEAT_CFG_MGT_PORT = port) : exec (.ptpMessageReceive port) s =
      .next ((if port = 0 then s.set .MGT_STATUS_PTP_A 1 else s.set .MGT_STATUS_PTP_B 1).emit (.ptpDelayReq port)) := by
  simp only [exec, execPtpMessageReceive, onUnit, hm, if_true]
  rw [if_pos ⟨hs, hp⟩]

theorem exec_ptpMessageReceive_other {s : State} {port : Nat} (hm : s.mgtOk port = true)
    (h : s.beatSource ≠ 3 ∨ s.eff .BEAT_CFG_MGT_PORT ≠ port) : exec (.ptpMessageReceive port) s = .next s := by
  simp only [exec, execPtpMessageReceive, onUnit, hm, if_true]
  rw [if_neg fun ⟨h1, h2⟩ => h.elim (fun h => h h1) fun h => h h2]

/-- A command that writes a register in the state w answers a next state; where the register has no effect of its own, its fields take the
write by their access types and nothing else changes. -/
theorem exec_of_regWrite {s w : State} {a : Agent} {r : Reg} {u i : Nat} {val : Word} {c : Instr}
    (h : exec c s = w.regWrite a r u i val) :
    (∃ t : State, exec c s = .next t) ∧
    (r ∉ effectRegs → ∃ t : State, exec c s = .next t ∧ t.mem = w.mem ∧
      (∀ f ∈ r.row.fields, t.get f u i = w.fieldValue u i val.toNat f) ∧
      (∀ f u' i', f ∉ r.row.fields ∨ u' ≠ u ∨ i' ≠ i → t.get f u' i' = w.get f u' i')) := by
  obtain ⟨t, ht⟩ := w.regWrite_next a r u i val
  refine ⟨⟨t, h.trans ht⟩, fun hr => ⟨_, h.trans (w.regWrite_plain a u i val hr), ?_⟩⟩
  obtain ⟨hm, hg⟩ := w.plainWrite_frame r u i val.toNat
  exact ⟨hm, fun f hf => w.plainWrite_value u i val.toNat hf, hg⟩

theorem State.regWrite_que (w : State) (a : Agent) (u i : Nat) (val : Word) : let v := val.toNat
    let q := bits v 19 0
    (bits v 63 60 = 1 → w.regWrite a .QUE_OP u i val = exec (.queueEnable a q) w) ∧
    (bits v 63 60 = 2 → w.regWrite a .QUE_OP u i val = exec (.queueDisable a q (bit v 59)) w) ∧
    (bits v 63 60 = 3 → w.regWrite a .QUE_OP u i val = exec (.queueFlush a q (bits v 55 48)) w) ∧
    (bits v 63 60 = 4 → w.regWrite a .QUE_OP u i val = exec (.queueSetlevel a q) w) ∧
    (bits v 63 60 = 5 → w.regWrite a .QUE_OP u i val = exec (.queueQuery a q) w) := by
  simp only [State.regWrite, State.queWrite]
  refine ⟨fun h => ?_, fun h => ?_, fun h => ?_, fun h => ?_, fun h => ?_⟩ <;> rw [h] <;> rfl

/-- FREEZE names no target. -/
theorem State.escWrite_freeze (s : State) (a : Agent) (target : Nat) : s.escWrite a 1 target = s.escWrite a 1 0 := by
  simp only [State.escWrite, State.escCtl]

theorem State.regWrite_esc (w : State) (a : Agent) (u i : Nat) (val : Word) : let v := val.toNat
    (bits v 63 60 = 1 → w.regWrite a .ESC_CTL u i val = exec (.escFreeze a) w) ∧
    (bits v 63 60 = 2 → bits v 15 0 = 0 → w.regWrite a .ESC_CTL u i val = exec (.escRollback a) w) ∧
    (bits v 63 60 = 3 → w.regWrite a .ESC_CTL u i val = exec (.escServe a (bits v 15 0)) w) ∧
    (bits v 63 60 = 4 → w.regWrite a .ESC_CTL u i val = exec (.escReceive a (bits v 15 0)) w) := by
  simp only [State.regWrite]
  refine ⟨fun h => ?_, fun h h' => ?_, fun h => ?_, fun h => ?_⟩
  · rw [h, State.escWrite_freeze]
    rfl
  · rw [h, h']
    rfl
  · rw [h]
    rfl
  · rw [h]
    rfl

/-- Settles O44: where the write arrives, who may make it there, and what the register that it reaches takes. -/
theorem registerWritesFollowTheirAccessTypes : Obligations.RegisterWritesFollowTheirAccessTypes := by
  unfold Obligations.RegisterWritesFollowTheirAccessTypes
  refine ⟨fun s a da size val => ⟨exec_registerWrite_absent da size val, fun hok => ⟨fun hlo hhi => ?_,
    fun hlo hhi ha => exec_registerWrite_doorbell size val hok hlo hhi ha, fun hda => ⟨fun l hl => ?_, fun ha =>
    exec_registerWrite_mem size val hok hda ha⟩⟩⟩, fun s port hm => ⟨fun hs hp => ?_, exec_ptpMessageReceive_other hm⟩⟩
  · have reg := exec_registerWrite_reg size val hok hlo hhi
    refine ⟨fun hp => ?_, fun clu hp => ?_, fun off hp => ?_, fun b u off hp => ⟨fun hm => ?_, fun hm h => ?_, fun hm hr he => ?_⟩⟩
    · exact ⟨_, reg.trans (State.regAccess_absent size val hp), rfl, State.regUnmapped_mem ..⟩
    · rw [reg]
      exact s.regAccess_none_mem a size val hp
    · rw [reg]
      exact s.regAccess_msix_mem a size val hp
    · exact reg.trans (State.regAccess_forbidden size val hp hm)
    · exact ⟨_, reg.trans (State.regAccess_refused size val hp hm h), rfl, rfl, rfl⟩
    · refine ⟨fun hd => reg.trans (State.regAccess_discarded val hp hm hr he hd), fun h8 hoff => ?_⟩
      have whole := reg.trans (State.regAccess_whole val hp hm hr he h8 hoff)
      refine ⟨fun l hl hb hq => ?_, fun hw => ?_⟩
      · subst hl
        obtain ⟨t, ht, hmem, hwait⟩ := State.hostWait_waits l da size (some val) (fun s => s.regWriteAt (.host l) b u off val) hb hq
        exact ⟨t, whole.trans ht, hmem, hwait⟩
      · have made := whole.trans (State.hostWait_woken da size (some val) _ hw)
        refine ⟨fun hreg => made.trans (State.regWriteAt_none hreg), fun r i hreg => ?_⟩
        have written := made.trans (State.regWriteAt_some hreg)
        obtain ⟨hnext, hplain⟩ := exec_of_regWrite written
        refine ⟨hnext, hplain, fun hr => ?_, fun hr => ?_, fun hr => ?_⟩
        · subst hr
          exact written
        · subst hr
          rw [written]
          exact State.regWrite_que _ a u i val
        · subst hr
          rw [written]
          exact State.regWrite_esc _ a u i val
  · subst hl
    exact exec_registerWrite_host size val hok hda
  · refine ⟨_, exec_ptpMessageReceive_slave hm hs hp, ?_⟩
    by_cases h0 : port = 0
    · subst h0
      refine ⟨rfl, rfl, fun _ => ⟨?_, ?_⟩, fun h => absurd h (by decide)⟩
      all_goals simp [Field.width, Field.row]
    · rw [if_neg h0]
      refine ⟨rfl, rfl, fun h => absurd h h0, fun _ => ⟨?_, ?_⟩⟩
      all_goals simp [Field.width, Field.row]

end Sys2Proof.Machine

/-! The spare cluster: its rotation (O5), and the loss of a cluster (O6). -/
namespace Sys2Proof.Machine

/-! ### The state of a die -/

@[simp] theorem State.die_setDie (s : State) (d : Nat) (x : DieSt) : (s.setDie d x).die d = x := KMap.get_set_self ..

theorem State.physClu_setDie (s : State) (d : Nat) (x : DieSt) (die l : Nat) : (s.setDie d x).physClu die l = s.physClu die l := rfl

theorem State.onDie_ok {s : State} {d : Nat} (f : State → State) (h : s.dieOk d = true) : s.onDie d f = .next (f s) := if_pos h

theorem State.dieOk_lt {s : State} {d : Nat} (h : s.dieOk d = true) : d < 8 := by
  have hd : d < s.ident.dies := of_decide_eq_true h
  have h8 : s.ident.dies ≤ 8 := by
    unfold Ident.dies
    split <;> decide
  omega

/-! ### The copy of a cluster's memories (R21) -/

section
variable {s : State} {src dst : Nat} (hm : Mem.wf s.mem = true) (hs : src < 128) (hd : dst < 128)
include hm hs hd

theorem State.read_copyClu_core {k off : Nat} (hk : k < 8) (ho : off < 0x480000) :
    Mem.read (s.copyClu src dst).mem (coreLoc (8 * dst + k) off) =
      storedByte (coreLoc (8 * dst + k) off) (Mem.read s.mem (coreLoc (8 * src + k) off)) := by
  have source : coreLoc (8 * dst + k) off + 8 * src * 16777216 - 8 * dst * 16777216 = coreLoc (8 * src + k) off := by
    simp only [coreLoc]
    omega
  rw [State.read_copyClu s hm src dst hs hd, if_pos (by simp only [coreLoc]; omega), source]

theorem State.read_copyClu_clu {off : Nat} (ho : off < 2 ^ 24) : Mem.read (s.copyClu src dst).mem (cluLoc dst off) =
    storedByte (cluLoc dst off) (Mem.read s.mem (cluLoc src off)) := by
  have source : cluLoc dst off + src * 16777216 - dst * 16777216 = cluLoc src off := by
    simp only [cluLoc]
    omega
  rw [State.read_copyClu s hm src dst hs hd, if_neg (by simp only [cluLoc]; omega), if_pos (by simp only [cluLoc]; omega), source]

/-- Outside the target's core windows and its cluster memory nothing is copied. -/
theorem State.read_copyClu_outside {a : Nat} (hcore : ∀ k off, k < 8 → off < 0x480000 → a ≠ coreLoc (8 * dst + k) off)
    (hclu : ∀ off, off < 2 ^ 24 → a ≠ cluLoc dst off) : Mem.read (s.copyClu src dst).mem a = Mem.read s.mem a := by
  have core := hcore (a / 16777216 - 2097152 - 8 * dst) (a % 16777216)
  have clu := hclu (a - cluLoc dst 0)
  simp only [coreLoc, cluLoc] at core clu
  rw [State.read_copyClu s hm src dst hs hd, if_neg (by omega), if_neg (by simp only [cluLoc]; omega)]

end

/-! ### The steps of a rotation -/

theorem exec_spareRotationStart {s : State} {d : Nat} (h : s.dieOk d = true) : exec (.spareRotationStart d) s = .next (s.rotStart d) :=
  State.onDie_ok (fun s => s.rotStart d) h

theorem exec_spareRotationCopy {s : State} {d : Nat} (h : s.dieOk d = true) : exec (.spareRotationCopy d) s = .next (s.rotCopy d) :=
  State.onDie_ok (fun s => s.rotCopy d) h

theorem exec_spareRotationComplete {s : State} {d : Nat} (h : s.dieOk d = true) :
    exec (.spareRotationComplete d) s = .next (s.rotComplete d) :=
  State.onDie_ok (fun s => s.rotComplete d) h

theorem exec_fillDone {s : State} {d : Nat} (h : s.dieOk d = true) : exec (.fillDone d) s = .next (s.set .DCTL_CLSTAT_FILL 0 d) :=
  State.onDie_ok (fun s => s.set .DCTL_CLSTAT_FILL 0 d) h

theorem State.rotStart_begins {s : State} {d q l : Nat} (hm : s.rotMay d = true)
    (hq : s.nextSpare d (s.get .DCTL_CLMAP_SPARE d) = some q) (hl : s.logClu d q = some l) :
    s.rotStart d = s.setDie d { s.die d with rot := some (q, s.get .DCTL_CLMAP_SPARE d, l, false), rotBeat := some s.now } := by
  simp only [State.rotStart, hm, hq, hl, if_true]

theorem State.rotStart_stays {s : State} {d : Nat} (hm : s.rotMay d = false) : s.rotStart d = s := by
  simp only [State.rotStart, hm, Bool.false_eq_true, if_false]

section
variable {s : State} {d q p l : Nat}

theorem State.rotCopy_drained (hr : (s.die d).rot = some (q, p, l, false)) (hd : s.cluDrained (16 * d + q) = true) : s.rotCopy d =
    (s.copyClu (16 * d + q) (16 * d + p)).setDie d { s.die d with rot := some (q, p, l, true) } := by
  simp only [State.rotCopy, hr, hd, if_true]

theorem State.rotCopy_waits (hr : (s.die d).rot = some (q, p, l, false)) (hd : s.cluDrained (16 * d + q) = false) : s.rotCopy d = s := by
  simp only [State.rotCopy, hr, hd, Bool.false_eq_true, if_false]

theorem State.rotCopy_copied (hr : (s.die d).rot = some (q, p, l, true)) : s.rotCopy d = s := by
  simp only [State.rotCopy, hr]

/-- The new map, ROT_COUNT and EV_SPARE_ROTATE of a rotation that ends (R21): all of it but the losses and the map that waited. -/
def State.rotEnd (s : State) (d q p l : Nat) : State :=
  (((s.setLog d l p).set .DCTL_CLMAP_SPARE q d).bump .DCTL_CLSTAT_ROT_COUNT 1 d).log' (srcDie d 0) 0xb011 0 [(1, d), (1, q), (1, l)]

theorem State.rotComplete_copied (hr : (s.die d).rot = some (q, p, l, true)) :
    s.rotComplete d = (s.rotEnd d q p l).loseAll d (s.die d).lossWait := by
  simp only [State.rotComplete, hr]
  rfl

theorem State.rotComplete_early (hr : (s.die d).rot = none ∨ ∃ q p l, (s.die d).rot = some (q, p, l, false)) : s.rotComplete d = s := by
  obtain h | ⟨q, p, l, h⟩ := hr <;> simp only [State.rotComplete, h]

theorem State.rotEnd_mem : (s.rotEnd d q p l).mem = s.mem := State.log'_mem ..
theorem State.rotEnd_cores : (s.rotEnd d q p l).cores = s.cores := State.log'_cores ..

theorem State.rotEnd_die : (s.rotEnd d q p l).die d = s.die d := by
  unfold State.die State.rotEnd
  rw [State.log'_dies]
  rfl

theorem State.rotEnd_get (f : Field) (u i : Nat) : (s.rotEnd d q p l).get f u i =
    (((s.setLog d l p).set .DCTL_CLMAP_SPARE q d).bump .DCTL_CLSTAT_ROT_COUNT 1 d).get f u i :=
  State.log'_get_other _ _ _ _ _ _ _ _ (by decide)

theorem State.rotEnd_spare (hq : q < 16) : (s.rotEnd d q p l).get .DCTL_CLMAP_SPARE d = q := by
  have hw : Field.DCTL_CLMAP_SPARE.width = 4 := rfl
  rw [State.rotEnd_get]
  simpa [hw] using Nat.mod_eq_of_lt hq

theorem State.rotEnd_count :
    (s.rotEnd d q p l).get .DCTL_CLSTAT_ROT_COUNT d = (s.get .DCTL_CLSTAT_ROT_COUNT d + 1) % 2 ^ 16 := by
  have hw : Field.DCTL_CLSTAT_ROT_COUNT.width = 16 := rfl
  rw [State.rotEnd_get]
  simp [State.setLog, hw]

theorem State.rotEnd_map :
    (s.rotEnd d q p l).get .DCTL_CLMAP_LOG d = putBits (s.get .DCTL_CLMAP_LOG d) (4 * l + 3) (4 * l) p % 2 ^ 48 := by
  have hw : Field.DCTL_CLMAP_LOG.width = 48 := rfl
  rw [State.rotEnd_get]
  simp [State.setLog, hw]

theorem State.rotEnd_get_ne {f : Field} {u : Nat} (i : Nat)
    (h : f ∉ [Field.DCTL_CLMAP_LOG, .DCTL_CLMAP_SPARE, .DCTL_CLSTAT_ROT_COUNT] ∨ u ≠ d) :
    (s.rotEnd d q p l).get f u i = s.get f u i := by
  simp only [List.mem_cons, List.not_mem_nil, or_false, not_or] at h
  rw [State.rotEnd_get, State.bump_eq, State.get_set_ne _ _ _ _ _ _ _ _ (by tauto), State.get_set_ne _ _ _ _ _ _ _ _ (by tauto),
    State.setLog, State.get_set_ne _ _ _ _ _ _ _ _ (by tauto)]

/-- The logical cluster that a rotation moves sits on the old spare afterwards. -/
theorem State.rotEnd_physClu (hp : p < 13) (hl : l < 12) : (s.rotEnd d q p l).physClu d l = some p := by
  have width : 4 * l + 3 + 1 - 4 * l = 4 := by omega
  have here : bits ((s.rotEnd d q p l).get .DCTL_CLMAP_LOG d) (4 * l + 3) (4 * l) = p := by
    rw [State.rotEnd_map, bits_mod _ _ _ _ (by omega), bits_putBits_self _ _ _ _ (by omega), width, Nat.mod_eq_of_lt (by omega)]
  simp only [State.physClu, here, hl, hp, and_self, if_true]

end

/-! ### The losses that a rotation or a fence leaves -/

theorem State.loseAll_nil {s : State} {d : Nat} (h : (s.die d).mapDue = false) :
    s.loseAll d [] = s.setDie d { s.die d with rot := none, lossWait := [], mapDue := false } := by
  simp only [State.loseAll, h, Bool.false_eq_true, if_false]
  rfl

/-- One loss, where no map waits: it is the n-th of the die, by the LOST bits. -/
theorem State.loseAll_one {s : State} {d clu n : Nat} (h : (s.die d).mapDue = false)
    (hn : popCount (s.get .DCTL_CLSTAT_LOST d) 13 = n) (h1 : 1 ≤ n) :
    s.loseAll d [clu] = (s.setDie d { s.die d with rot := none, lossWait := [], mapDue := false }).loseAs clu n := by
  have nth : n - 1 + 0 + 1 = n := by omega
  simp only [State.loseAll, h, Bool.false_eq_true, if_false, hn, List.length_singleton, List.zipIdx_singleton, List.foldl_cons,
    List.foldl_nil, nth]

/-- Settles O5: each step of a rotation by its equation, the copy by what it makes of memory. -/
theorem spareRotationMovesACluster : Obligations.SpareRotationMovesACluster := by
  unfold Obligations.SpareRotationMovesACluster
  refine ⟨fun s d q l hd hm hq hl => ?_, fun s d hd hm => ?_, fun s d q p l hd hwf hr hq hp hne hdr => ?_,
    fun s d q p l hd hr hlw hdue hq hp hl => ?_, fun s d hd hr => ?_, fun s d hd => exec_fillDone hd⟩
  · rw [exec_spareRotationStart hd, State.rotStart_begins hm hq hl]
  · rw [exec_spareRotationStart hd, State.rotStart_stays hm]
  · have h8 := State.dieOk_lt hd
    have hs : 16 * d + q < 128 := by omega
    have ht : 16 * d + p < 128 := by omega
    refine ⟨_, (exec_spareRotationCopy hd).trans (congrArg _ (State.rotCopy_drained hr hdr)), by rw [State.die_setDie], ?_, ?_,
      fun k off hk ho => ?_, fun off ho => ?_, fun a hcore hclu => ?_⟩
    · rw [State.setDie_flds, State.copyClu_flds]
    · rw [State.setDie_cores, State.copyClu_cores]
    · rw [State.setDie_mem, State.read_copyClu_core hwf hs ht hk ho]
    · rw [State.setDie_mem, State.read_copyClu_clu hwf hs ht ho]
    · rw [State.setDie_mem, State.read_copyClu_outside hwf hs ht hcore hclu]
  · have state : s.rotComplete d = (s.rotEnd d q p l).setDie d { s.die d with rot := none, lossWait := [], mapDue := false } := by
      rw [State.rotComplete_copied hr, hlw, State.loseAll_nil (by rwa [State.rotEnd_die]), State.rotEnd_die]
    refine ⟨_, (exec_spareRotationComplete hd).trans (congrArg _ state), by rw [State.die_setDie], ?_, ?_, ?_, ?_, ?_, fun f u i h => ?_⟩
    · rw [State.physClu_setDie, State.rotEnd_physClu hp hl]
    · rw [State.setDie_get, State.rotEnd_spare hq]
    · rw [State.setDie_get, State.rotEnd_count]
    · rw [State.setDie_mem, State.rotEnd_mem]
    · rw [State.setDie_cores, State.rotEnd_cores]
    · rw [State.setDie_get, State.rotEnd_get_ne i h]
  · rw [exec_spareRotationComplete hd, State.rotComplete_early hr]

/-! ### A cluster fails -/

theorem exec_clusterLost {s : State} {d c : Nat} (h : s.cluOk (16 * d + c) = true) (hc : c < 16) :
    exec (.clusterLost d c) s = .next (s.clusterLost (16 * d + c)) :=
  if_pos (by simp [h, hc])

theorem cluIdx_div {d c : Nat} (hc : c < 16) : (16 * d + c) / 16 = d := by omega
theorem cluIdx_mod {d c : Nat} (hc : c < 16) : (16 * d + c) % 16 = c := by omega

theorem State.clusterLost_again {s : State} {clu : Nat} (h : s.lost clu = true) : s.clusterLost clu = s := by
  simp only [State.clusterLost, h, if_true]

section
variable {s F : State} {d c q p l : Nat} (hc : c < 16) (hl : s.lost (16 * d + c) = false) (hF : F = s.fenceClu (16 * d + c))
include hc hl hF

theorem State.clusterLost_noRotation (hr : (F.die d).rot = none) :
    s.clusterLost (16 * d + c) = F.loseAll d ((F.die d).lossWait ++ [16 * d + c]) := by
  subst hF
  simp only [State.clusterLost, hl, Bool.false_eq_true, if_false, cluIdx_div hc, hr]

/-- The source or the destination of a rotation fails: the rotation is abandoned (R25). -/
theorem State.clusterLost_ofRotation {b : Bool} (hr : (F.die d).rot = some (q, p, l, b)) (hx : c = q ∨ c = p) :
    s.clusterLost (16 * d + c) = F.loseAll d ((F.die d).lossWait ++ [16 * d + c]) := by
  subst hF
  simp only [State.clusterLost, hl, Bool.false_eq_true, if_false, cluIdx_div hc, cluIdx_mod hc, hr, hx, if_true]

theorem State.clusterLost_beside {b : Bool} (hr : (F.die d).rot = some (q, p, l, b)) (hq : c ≠ q) (hp : c ≠ p) :
    s.clusterLost (16 * d + c) =
      ((F.setDie d { F.die d with lossWait := (F.die d).lossWait ++ [16 * d + c] }).rotCopy d).rotComplete d := by
  subst hF
  simp only [State.clusterLost, hl, Bool.false_eq_true, if_false, cluIdx_div hc, cluIdx_mod hc, hr, hq, hp, or_self]

end

/-- With no rotation, loss or map waiting, what follows the fence is set by how many clusters the die has lost. -/
theorem State.clusterLost_nth {s : State} {d c n : Nat} (hc : c < 16) (hl : s.lost (16 * d + c) = false) (hr : (s.die d).rot = none)
    (hw : (s.die d).lossWait = []) (hm : (s.die d).mapDue = false) (hd : (s.fenceClu (16 * d + c)).die d = s.die d)
    (hn : popCount ((s.fenceClu (16 * d + c)).get .DCTL_CLSTAT_LOST d) 13 = n) (h1 : 1 ≤ n) : s.clusterLost (16 * d + c) =
    ((s.fenceClu (16 * d + c)).setDie d { (s.fenceClu (16 * d + c)).die d with rot := none, lossWait := [], mapDue := false }).loseAs
      (16 * d + c) n := by
  rw [State.clusterLost_noRotation hc hl rfl (by rw [hd, hr]), hd, hw, List.nil_append, State.loseAll_one (by rw [hd, hm]) hn h1, hd]

/-- A loss beside a rotation whose source has not drained waits (R25). -/
theorem State.rotation_waits {F : State} {d q p l : Nat} (w : List Nat) (hr : (F.die d).rot = some (q, p, l, false))
    (hd : F.cluDrained (16 * d + q) = false) :
    ((F.setDie d { F.die d with lossWait := w }).rotCopy d).rotComplete d = F.setDie d { F.die d with lossWait := w } := by
  have hr' : ((F.setDie d { F.die d with lossWait := w }).die d).rot = some (q, p, l, false) := by rw [State.die_setDie]; exact hr
  rw [State.rotCopy_waits hr' hd, State.rotComplete_early (.inr ⟨q, p, l, hr'⟩)]

/-! ### The n-th loss of a die -/

theorem State.cluEv_at (s : State) {d c : Nat} (hc : c < 16) (code sev : Nat) :
    s.cluEv (16 * d + c) code sev = s.log' (srcDie d 0) code sev [(1, d), (1, c)] := by
  simp only [State.cluEv, cluIdx_div hc, cluIdx_mod hc]

section
variable {F : State} {d c : Nat} (hc : c < 16)
include hc

/-- The spare fails: no logical cluster moves (R25). -/
theorem State.loseAs_spare (hl : F.logClu d c = none) : F.loseAs (16 * d + c) 1 =
    ((F.set .DCTL_CLMAP_SPARE 15 d).set .DCTL_CLSTAT_STATE 1 d).log' (srcDie d 0) 0xb012 2 [(1, d), (1, c)] := by
  simp only [State.loseAs, State.spareLost, State.cluEv, cluIdx_div hc, cluIdx_mod hc, hl]

/-- The first loss of an active cluster: its logical number goes to the spare (R23). -/
theorem State.loseAs_toSpare {l : Nat} (hl : F.logClu d c = some l) (hs : F.get .DCTL_CLMAP_SPARE d < 13)
    (hg : F.lost (16 * d + F.get .DCTL_CLMAP_SPARE d) = false) : F.loseAs (16 * d + c) 1 =
    (((((((F.bistAbandon (16 * d + F.get .DCTL_CLMAP_SPARE d)).setLog d l (F.get .DCTL_CLMAP_SPARE d)).set .DCTL_CLMAP_SPARE 15 d).set
      .DCTL_CLSTAT_STATE 1 d).zeroClu (16 * d + F.get .DCTL_CLMAP_SPARE d)).set .DCTL_CLSTAT_FILL 1 d).log' (srcDie d 0) 0xb012 2
      [(1, d), (1, c)]).freezeSend 1 (16 * d + c) := by
  simp only [State.loseAs, State.cluEv, cluIdx_div hc, cluIdx_mod hc, hl]
  exact if_pos ⟨hs, by rw [hg]; rfl⟩

/-- Without a spare the logical number becomes absent (R23). -/
theorem State.loseAs_noSpare {l : Nat} (hl : F.logClu d c = some l) (hs : 13 ≤ F.get .DCTL_CLMAP_SPARE d) : F.loseAs (16 * d + c) 1 =
    ((F.setLog d l 15).log' (srcDie d 0) 0xb012 2 [(1, d), (1, c)]).freezeSend 1 (16 * d + c) := by
  simp only [State.loseAs, State.cluEv, cluIdx_div hc, cluIdx_mod hc, hl]
  exact if_neg fun h => absurd h.1 (Nat.not_lt.mpr hs)

/-- The second loss: the two-cluster variant (R24). -/
theorem State.loseAs_second : F.loseAs (16 * d + c) 2 =
    (((F.applyVariant d).set .DCTL_CLSTAT_FILL 1 d).log' (srcDie d 0) 0xb013 2 [(1, d), (1, c)]).freezeSend 1 (16 * d + c) := by
  simp only [State.loseAs, State.cluEv, cluIdx_div hc, cluIdx_mod hc]

/-- The third loss stops the part (R24). -/
theorem State.loseAs_third : (F.loseAs (16 * d + c) 3).clk.stopped = true ∧ (F.loseAs (16 * d + c) 3).fab.failed = true ∧
    (F.loseAs (16 * d + c) 3).get .DCTL_CLSTAT_STATE d = 3 := by
  have event : ((F.set .DCTL_CLSTAT_STATE 3 d).cluEv (16 * d + c) 0xb014 3).get .DCTL_CLSTAT_STATE d = 3 := by
    rw [State.cluEv_at _ hc, State.log'_get_other _ _ _ _ _ _ _ _ (by decide), State.get_set_self]
    rfl
  simp only [State.loseAs, cluIdx_div hc]
  exact ⟨rfl, rfl, event⟩

end

/-- Settles O6, by the count of the die's losses, or by the rotation under way. -/
theorem clusterLossIsHandledByCount : Obligations.ClusterLossIsHandledByCount := by
  unfold Obligations.ClusterLossIsHandledByCount
  refine ⟨fun s d c hok hc hlost => ?_, fun s F d c n hok hc hlost hF hrot hwait hdie hdue hn => ?_,
    fun s F d c q p l b hok hc hlost hF hrot => ⟨fun hx => ?_, fun hq hp hb hdr => ?_, fun hq hp hb => ?_⟩⟩
  · rw [exec_clusterLost hok hc, State.clusterLost_again hlost]
  · have count : popCount ((s.fenceClu (16 * d + c)).get .DCTL_CLSTAT_LOST d) 13 = n := by rw [← hn, hF, State.setDie_get]
    have nth (h1 : 1 ≤ n) : exec (.clusterLost d c) s = .next (F.loseAs (16 * d + c) n) := by
      rw [exec_clusterLost hok hc, State.clusterLost_nth hc hlost hrot hwait hdue hdie count h1, hF]
    refine ⟨fun h1 hl => ?_, fun l h1 hl hs hg => ?_, fun l h1 hl hs => ?_, fun h2 => ?_, fun h3 => ?_⟩
    · subst h1
      refine ⟨_, nth le_rfl, State.loseAs_spare hc hl, ?_, ?_⟩
      all_goals
        rw [State.loseAs_spare hc hl, State.log'_get_other _ _ _ _ _ _ _ _ (by decide)]
        simp [Field.width, Field.row]
    · rw [nth h1.ge, h1, State.loseAs_toSpare hc hl hs hg]
    · rw [nth h1.ge, h1, State.loseAs_noSpare hc hl hs]
    · rw [nth (by omega), h2, State.loseAs_second hc]
    · subst h3
      exact ⟨_, nth (by omega), State.loseAs_third hc⟩
  · rw [exec_clusterLost hok hc, State.clusterLost_ofRotation hc hlost hF hrot hx]
  · subst hb
    rw [exec_clusterLost hok hc, State.clusterLost_beside hc hlost hF hrot hq hp, State.rotation_waits _ hrot hdr]
  · subst hb
    rw [exec_clusterLost hok hc, State.clusterLost_beside hc hlost hF hrot hq hp, State.rotCopy_copied (q := q) (p := p) (l := l)]
    rw [State.die_setDie]
    exact hrot

end Sys2Proof.Machine

/-! Structure images: what a prepare, an arm, a commit, a cutoff and an abandon do in the state that they meet (O7). -/
namespace Sys2Proof.Machine

/-! ### Guards -/

theorem onUnit_present {ok : Bool} {r : Res} (h : ok = true) : onUnit ok r = r := if_pos h

theorem State.whenReady_on {s : State} (a : Agent) (da : Nat) (f : State → State) (h : s.get .RST_STATUS_READY = 1) :
    s.whenReady a da f = f s := if_pos h

/-! ### Pending banks and RWL registers -/

@[simp] theorem State.syncGroup_str (s : State) : s.syncGroup.str = s.str := rfl
@[simp] theorem State.syncGroup_mem (s : State) : s.syncGroup.mem = s.mem := rfl

theorem State.syncGroup_get (s : State) {f : Field} (u i : Nat) (h : f ≠ .STR_STATUS_GROUP_READY) : s.syncGroup.get f u i = s.get f u i :=
  State.get_set_ne _ _ _ _ _ _ _ _ (.inl h)

theorem State.pendClear_pendingBank (s : State) : s.pendClear.str.pendingBank = [] := rfl
theorem State.pendClear_mem (s : State) : s.pendClear.mem = s.mem := rfl

/-- What no register write changes is kept by a list of them. -/
theorem State.setAll_same {β : Type} (g : State → β) (hg : ∀ (s : State) (f : Field) (v u i : Nat), g (s.set f v u i) = g s)
    (l : KMap FKey Nat) (s : State) : g (l.foldl (fun s e => s.set e.1.f e.2 e.1.u e.1.i) s) = g s := by
  induction l generalizing s with
  | nil => rfl
  | cons e l ih => rw [List.foldl_cons, ih, hg]

/-- Putting the RWL registers back changes no pending bank and no memory (R5, R39). -/
theorem State.rwlBack_same (s : State) : s.rwlBack.str.pendingBank = s.str.pendingBank ∧ s.rwlBack.mem = s.mem := by
  have banks := State.setAll_same (fun t => t.str.pendingBank) (fun _ _ _ _ _ => rfl) s.str.rwlSaved s
  have mem := State.setAll_same State.mem (fun _ _ _ _ _ => rfl) s.str.rwlSaved s
  unfold State.rwlBack
  split
  · exact ⟨rfl, rfl⟩
  · simp only []
    split <;> exact ⟨banks, mem⟩

/-! ### The return to IDLE -/

@[simp] theorem State.strIdle_str (s : State) (last : Nat) : (s.strIdle last).str = s.str := State.irq_str ..
@[simp] theorem State.strIdle_mem (s : State) (last : Nat) : (s.strIdle last).mem = s.mem := State.irq_mem ..

theorem State.strIdle_state (s : State) (last : Nat) : (s.strIdle last).get .STR_STATUS_STATE = 0 := by
  rw [State.strIdle, State.irq_get _ _ _ _ _ _ (by decide) (by decide)]
  simp

theorem State.strIdle_last (s : State) {last : Nat} (h : last < 16) : (s.strIdle last).get .STR_STATUS_LAST = last := by
  have width : Field.STR_STATUS_LAST.width = 4 := rfl
  rw [State.strIdle, State.irq_get _ _ _ _ _ _ (by decide) (by decide), State.get_set_self, width]
  exact Nat.mod_eq_of_lt h

/-- A refused prepare: IDLE, LAST REFUSED, and no pending bank (R39). -/
theorem State.strRefuse_spec (s : State) (epoch code unit sec off : Nat) : (s.strRefuse epoch code unit sec off).get .STR_STATUS_STATE = 0 ∧
    (s.strRefuse epoch code unit sec off).get .STR_STATUS_LAST = 4 ∧ (s.strRefuse epoch code unit sec off).str.pendingBank = [] := by
  unfold State.strRefuse
  refine ⟨?_, ?_, ?_⟩
  · rw [State.log'_get_other _ _ _ _ _ _ _ _ (by decide), State.strIdle_state]
  · rw [State.log'_get_other _ _ _ _ _ _ _ _ (by decide), State.strIdle_last _ (by decide)]
  · rw [State.log'_str, State.strIdle_str]
    exact (State.rwlBack_same _).1

/-- An abandon in PREPARED: IDLE, LAST ABANDONED, no pending bank, and memory as it was (R46). -/
theorem State.strAbandon_prepared {s : State} (h : s.get .STR_STATUS_STATE = 2) : s.strAbandon.get .STR_STATUS_STATE = 0 ∧
    s.strAbandon.get .STR_STATUS_LAST = 5 ∧ s.strAbandon.str.pendingBank = [] ∧ s.strAbandon.mem = s.mem := by
  simp only [State.strAbandon, h, if_true]
  refine ⟨State.strIdle_state .., State.strIdle_last _ (by decide), ?_, ?_⟩
  · rw [State.strIdle_str, (State.rwlBack_same _).1, State.pendClear_pendingBank]
  · rw [State.strIdle_mem, (State.rwlBack_same _).2, State.pendClear_mem, State.log'_mem]

/-! ### Prepare -/

theorem exec_strPrepareGo {s : State} (a : Agent) (h : s.get .RST_STATUS_READY = 1) : exec (.strPrepareGo a) s = .next s.strPrepare :=
  congrArg Host.Outcome.next (State.whenReady_on a _ _ h)

theorem State.strPrepare_busy {s : State} (h : s.get .STR_STATUS_STATE ∈ [1, 3, 4]) : s.strPrepare = s.set .STR_STATUS_REFUSE 0x10 :=
  if_pos (by simpa using h)

/-- The state in which a prepare reads its image: LOADING, with no pending bank and the RWL registers saved (R37, R39). -/
def State.strLoading (s : State) : State :=
  (s.pendClear.set .STR_STATUS_STATE 1).mapStr fun y =>
    { y with prepOpen := true, rwlSaved := s.rwlNow, readySent := false, abortSince := false }

/-- An image that passes checks 1 to 11 goes to the pending banks of the arm set (R37). -/
def State.strLoaded (s : State) (b : List Byte) : State :=
  ((s.mapStr fun y => { y with
      pendingBank := s.armSet.map fun u => (u, ⟨field b 8 4, 0, slice b 0x20 16, s.unitPart (imgSecs b) u⟩)
      pendDigest := sha3 (b.take (field b 0x14 4 - 2420)), secOff := (imgEnts b).map fun e => (e.typ, e.off)
      pendAddr := s.get .STR_LOAD_ADDR_ADDR * 4096, pendLen := s.get .STR_LOAD_LEN_LEN }).set .STR_EPOCH_PENDING (field b 8 4)).syncMissing.syncGroup

theorem State.strPrepare_read {s : State} {b : List Byte} (h : s.get .STR_STATUS_STATE ∈ [0, 2])
    (hb : s.strLoading.strRead (s.strLoading.get .STR_LOAD_ADDR_ADDR * 4096) (s.strLoading.get .STR_LOAD_LEN_LEN) = some b) :
    s.strPrepare = match s.strLoading.strCheck b (s.strLoading.get .STR_LOAD_LEN_LEN) with
      | some (code, sec, off) => s.strLoading.strRefuse (field b 8 4) code 0xff sec off
      | none => s.strLoading.strLoaded b := by
  have idle : ¬(s.get .STR_STATUS_STATE = 1 ∨ s.get .STR_STATUS_STATE = 3 ∨ s.get .STR_STATUS_STATE = 4) := by
    simp only [List.mem_cons, List.not_mem_nil, or_false] at h
    omega
  unfold State.strPrepare
  rw [if_neg idle]
  change (match s.strLoading.strRead (s.strLoading.get .STR_LOAD_ADDR_ADDR * 4096) (s.strLoading.get .STR_LOAD_LEN_LEN) with
    | none => _ | some b => _) = _
  rw [hb]
  rfl

/-! ### Arming -/

theorem exec_unitArm {s : State} {u : Nat} (h : s.ident.unitOk u = true) : exec (.unitArm u) s = .next (s.unitArm u) := onUnit_present h

theorem State.unitArm_stays {s : State} {u : Nat} (h : s.get .STR_STATUS_STATE ≠ 1) : s.unitArm u = s := if_pos (.inl h)

theorem State.unitArm_arms {s : State} {u : Nat} (hs : s.get .STR_STATUS_STATE = 1) (ha : s.armSet.contains u = true) (hn : s.armed u = false)
    (hp : KMap.has s.str.pendingBank u = true) (hr : s.rst.inReset.contains (unitDieIdx u) = false)
    (hc : unitCheck s.ident s.pendSecs u = none) : s.unitArm u = (s.setArmed u true).syncMissing := by
  simp only [State.unitArm, hs, ha, hn, hp, hr, hc]
  rfl

theorem State.armed_setArmed (s : State) (u : Nat) (b : Bool) : (s.setArmed u b).armed u = b := by
  have width : Field.STR_ARMED_UNITS.width = 64 := rfl
  rw [State.armed, State.setArmed, State.setBit_eq, State.get_set_self, width, bit_mod _ _ _ (Nat.mod_lt u (by decide)), bit_putBit, if_pos rfl]

/-! ### Commit -/

theorem exec_strCommitGo (s : State) {v : Word} (h : bit v.toNat 0 = true) : exec (.strCommitGo v) s = .next (s.strCommit v) :=
  congrArg Host.Outcome.next (if_pos h)

theorem State.strCommit_refused {s : State} {v : Word} {c : Nat}
    (h : s.commitFault (if bits v.toNat 1 1 = 1 then bits v.toNat 23 16 else 16) (bits v.toNat 1 1) (bits v.toNat 9 8) = some c) :
    s.strCommit v = s.set .STR_STATUS_REFUSE c := by
  simp only [State.strCommit, h]

theorem State.strCommit_accepted {s : State} {v : Word}
    (h : s.commitFault (if bits v.toNat 1 1 = 1 then bits v.toNat 23 16 else 16) (bits v.toNat 1 1) (bits v.toNat 9 8) = none) :
    s.strCommit v = (((s.mapStr fun y => { y with
      commitB := s.get .STR_COMMIT_BEAT_BEAT, commitLead := if bits v.toNat 1 1 = 1 then bits v.toNat 23 16 else 16
      commitScope := bits v.toNat 1 1, commitVariant := bits v.toNat 9 8
      aborted := false, abandonReq := false, cutDone := false, readySent := false, abortSince := false }).set .STR_STATUS_STATE
        3).sendReady.syncGroup) := by
  simp only [State.strCommit, h]

/-! ### Cutoff and abort -/

/-- A cutoff that is due, marked done. -/
def State.cutMade (s : State) : State := s.mapStr fun y => { y with cutDone := true }

theorem State.strCutoff_early {s : State}
    (h : s.get .STR_STATUS_STATE ≠ 3 ∨ s.str.cutDone = true ∨ s.now + s.str.commitLead < s.str.commitB) : s.strCutoff = s := if_pos h

section
variable {s : State} (hs : s.get .STR_STATUS_STATE = 3) (hc : s.str.cutDone = false) (hb : s.str.commitB ≤ s.now + s.str.commitLead)
include hs hc hb

theorem State.strCutoff_due : s.strCutoff = match s.cutMade.cutFault with
    | none => s.cutMade
    | some who => (if s.cutMade.str.commitScope = 1 then s.cutMade.strTell (.jobAbort s.cutMade.strGroup.1 s.cutMade.str.commitB)
        else s.cutMade).strAbort who :=
  if_neg (by simpa [hs, hc] using hb)

theorem State.strCutoff_none (hf : s.cutMade.cutFault = none) : s.strCutoff = s.cutMade := by
  rw [State.strCutoff_due hs hc hb, hf]

theorem State.strCutoff_alone {u : Nat} (hp : s.str.commitScope = 0) (hf : s.cutMade.cutFault = some u) :
    s.strCutoff = s.cutMade.strAbort u := by
  have scope : ¬s.cutMade.str.commitScope = 1 := by rw [State.cutMade, State.mapStr_str, hp]; decide
  simp only [State.strCutoff_due hs hc hb, hf, if_neg scope]

theorem State.strCutoff_job {u : Nat} (hp : s.str.commitScope = 1) (hf : s.cutMade.cutFault = some u) :
    s.strCutoff = (s.cutMade.strTell (.jobAbort s.cutMade.strGroup.1 s.str.commitB)).strAbort u := by
  have scope : s.cutMade.str.commitScope = 1 := hp
  simp only [State.strCutoff_due hs hc hb, hf, if_pos scope]
  rfl

end

section
variable {s : State} (h : s.str.abandonReq = false) (who : Nat)
include h

/-- An abort that no ABANDON waits for keeps the banks: only the flags of the commit change (R43). -/
theorem State.strAbort_str : (s.strAbort who).str =
    { s.str with aborted := false, abandonReq := false, readySent := false, abortSince := true } := by
  unfold State.strAbort
  simp only [h, Bool.false_eq_true, if_false, State.syncGroup_str, State.log'_str, State.irq_str]
  rfl

theorem State.strAbort_get {f : Field} (u i : Nat) (hr : f ≠ .GLB_IRQ_ROUTE_LOST) (hq : f ≠ .GLB_IRQ_STATUS_SRC)
    (hg : f ≠ .STR_STATUS_GROUP_READY) :
    (s.strAbort who).get f u i = ((s.set .STR_STATUS_LAST 3).set .STR_STATUS_STATE 2).get f u i := by
  unfold State.strAbort
  simp only [h, Bool.false_eq_true, if_false, State.syncGroup_get _ _ _ hg, State.log'_get _ _ _ _ _ _ _ _ hr hq,
    State.irq_get _ _ _ _ _ _ hr hq]
  rfl

/-- The state is PREPARED again, with LAST ABORTED and the same pending epoch (R43). -/
theorem State.strAbort_prepared : (s.strAbort who).get .STR_STATUS_STATE = 2 ∧ (s.strAbort who).get .STR_STATUS_LAST = 3 ∧
    (s.strAbort who).get .STR_EPOCH_PENDING = s.get .STR_EPOCH_PENDING := by
  refine ⟨?_, ?_, ?_⟩
  all_goals
    rw [State.strAbort_get h who _ _ (by decide) (by decide) (by decide)]
    simp [Field.width, Field.row]

end

/-- Settles O7: each command by its equation in the state that it meets. -/
theorem structureCommandsFollowTheState : Obligations.StructureCommandsFollowTheState := by
  unfold Obligations.StructureCommandsFollowTheState
  refine ⟨fun s a hr hs => ?_, fun s a b hr hs hb => ?_, fun s epoch code unit sec off => ⟨_, rfl, State.strRefuse_spec ..⟩,
    fun s u hok _ hs ha hn hp hr hc => ⟨?_, State.armed_setArmed s u true⟩, fun s u hok hs => ?_, fun s v c hgo hf => ?_,
    fun s v hgo hf => ?_, fun s hs hc hb hf => ?_, fun s u hs hc hb hp hf hq => ?_, fun s u hs hc hb hp hf => ?_, fun s h => ?_,
    fun s a hr hs => ?_⟩
  · rw [exec_strPrepareGo a hr, State.strPrepare_busy hs]
  · rw [exec_strPrepareGo a hr, State.strPrepare_read hs hb]
    rfl
  · rw [exec_unitArm hok, State.unitArm_arms hs ha hn hp hr hc]
  · rw [exec_unitArm hok, State.unitArm_stays hs]
  · rw [exec_strCommitGo s hgo, State.strCommit_refused hf]
  · rw [exec_strCommitGo s hgo, State.strCommit_accepted hf]
  · exact congrArg Host.Outcome.next (State.strCutoff_none hs hc hb hf)
  · exact ⟨_, congrArg Host.Outcome.next (State.strCutoff_alone hs hc hb hp hf), rfl, State.strAbort_prepared (s := s.cutMade) hq u⟩
  · exact congrArg Host.Outcome.next (State.strCutoff_job hs hc hb hp hf)
  · exact congrArg Host.Outcome.next (State.strCutoff_early h)
  · exact ⟨_, congrArg Host.Outcome.next (State.whenReady_on a _ _ hr), State.strAbandon_prepared hs⟩

end Sys2Proof.Machine

/-! The commit group, the switch, draining, freezes and thaws at their beats (O8). -/
namespace Sys2Proof.Machine

/-! ### Messages of the commit group (R47, R326) -/

theorem exec_commitReadyReceive_early {s : State} {dev b lat : Nat} (epoch : Nat) (h : (s.tc0In dev 4 lat).now < b) :
    exec (.commitReadyReceive dev b epoch lat) s = .next (((s.tc0In dev 4 lat).mapStr fun y => { y with
      ready := (dev, b, epoch) :: y.ready.filter fun r => !(r.1 == dev && r.2.1 == b) }).syncGroup) :=
  congrArg Host.Outcome.next (if_pos h)

theorem exec_commitReadyReceive_late {s : State} {dev b lat : Nat} (epoch : Nat) (h : b ≤ (s.tc0In dev 4 lat).now) :
    exec (.commitReadyReceive dev b epoch lat) s = .next (s.tc0In dev 4 lat) :=
  congrArg Host.Outcome.next (if_neg (Nat.not_lt.mpr h))

/-- The arrival of an abort: the COMMIT_READY of its sender for that beat is discarded. -/
def State.abortIn (s : State) (dev b lat : Nat) : State :=
  (s.tc0In dev 5 lat).mapStr fun y => { y with ready := y.ready.filter fun r => !(r.1 == dev && r.2.1 == b) }

theorem exec_jobAbortReceive_due {s : State} {dev b lat : Nat} (hs : (s.abortIn dev b lat).get .STR_STATUS_STATE = 3)
    (hj : (s.abortIn dev b lat).str.commitScope = 1) (hb : (s.abortIn dev b lat).str.commitB = b) (hn : (s.abortIn dev b lat).now < b) :
    exec (.jobAbortReceive dev b lat) s = .next ((s.abortIn dev b lat).strAbort dev).syncGroup :=
  congrArg (fun t => Host.Outcome.next (State.syncGroup t)) (if_pos ⟨hs, hj, hb, hn⟩)

theorem State.strAbort_active {s : State} (h : s.str.abandonReq = false) (who : Nat) : (s.strAbort who).str.active = s.str.active := by
  rw [State.strAbort_str h]

/-! ### The switch and draining (R44, R49) -/

theorem State.strSwitch_early {s : State} (l : List Nat)
    (h : s.get .STR_STATUS_STATE ≠ 3 ∨ s.now < s.str.commitB ∨ s.str.cutDone = false) : s.strSwitch l = s :=
  if_pos (by simpa using h)

/-- Every unit of the list has its pending sections under the variant. -/
theorem State.strBanks_bank (s : State) {l : List Nat} (v : Nat) {u : Nat} (h : u ∈ l) : (s.strBanks l v).bank u =
    ⟨(KMap.get s.str.pendingBank u Image.empty).epoch, v, (KMap.get s.str.pendingBank u Image.empty).tag,
      (Secs.variant (KMap.get s.str.pendingBank u Image.empty).secs v).filter fun e => (s.ident.unitSecs u).contains e.1⟩ :=
  (KMap.get_foldl_set _ l s.str.active u Image.empty).trans (if_pos h)

theorem exec_strDrainComplete {s : State} {u : Nat} (h : s.ident.unitOk u = true) :
    exec (.strDrainComplete u) s = .next (s.unitDrain u) := onUnit_present h

theorem State.unitDrain_stays {s : State} {u : Nat}
    (h : s.get .STR_STATUS_STATE ≠ 4 ∨ KMap.has s.str.oldBank u = false ∨ s.outstanding u = true) : s.unitDrain u = s := by
  refine if_neg fun ⟨hs, ho, hd⟩ => ?_
  obtain h | h | h := h
  · exact h hs
  · exact absurd ho (by simp [h])
  · exact absurd hd (by simp [h])

/-- A unit of no ledger die releases its old bank, and the commit ends with the last one. -/
theorem State.unitDrain_releases {s : State} {u : Nat} (hs : s.get .STR_STATUS_STATE = 4) (ho : KMap.has s.str.oldBank u = true)
    (hd : s.outstanding u = false) (hu : ∀ n, unitKind u ≠ .ledger n) :
    s.unitDrain u = (s.mapStr fun x => { x with oldBank := KMap.erase x.oldBank u }).strDone := by
  unfold State.unitDrain
  rw [if_pos ⟨hs, ho, by simp [hd]⟩]
  cases hk : unitKind u with
  | ledger n => exact absurd hk (hu n)
  | clu d c => rfl
  | die d => rfl
  | hub n => rfl

/-! ### Freezes (R369, R370) -/

@[simp] theorem State.freezeEv_esc (s : State) (f : Freeze) : (s.freezeEv f).esc = s.esc := State.log'_esc ..
@[simp] theorem State.freezeEv_mem (s : State) (f : Freeze) : (s.freezeEv f).mem = s.mem := State.log'_mem ..
@[simp] theorem State.freezeEv_get (s : State) (f : Freeze) (g : Field) (u i : Nat) : (s.freezeEv f).get g u i = s.get g u i :=
  State.log'_get_other _ _ _ _ _ _ _ _ (by decide)

/-- The first freeze since a thaw sets F. -/
theorem State.freezeHold_first {s : State} {f : Freeze} (hz : s.get .ESC_STATUS_FROZEN ≠ 1) (hn : s.esc.freezes = []) :
    s.freezeHold f = ((s.setEsc fun e => { e with freezes := [f], freezeAt := some (f.b + s.freezeDelta) }).set .ESC_FREEZE_F
      (f.b + s.freezeDelta)).freezeEv f := by
  unfold State.freezeHold
  rw [if_neg hz, hn]
  rfl

theorem State.freezeHold_first_spec {s : State} {f : Freeze} (hz : s.get .ESC_STATUS_FROZEN ≠ 1) (hn : s.esc.freezes = [])
    (hF : f.b + s.freezeDelta < 2 ^ 64) : (s.freezeHold f).esc.freezeAt = some (f.b + s.freezeDelta) ∧
    (s.freezeHold f).get .ESC_FREEZE_F = f.b + s.freezeDelta ∧ (s.freezeHold f).esc.freezes = [f] ∧ (s.freezeHold f).mem = s.mem := by
  have width : Field.ESC_FREEZE_F.width = 64 := rfl
  rw [State.freezeHold_first hz hn, State.freezeEv_esc, State.freezeEv_get, State.freezeEv_mem, State.get_set_self, width,
    Nat.mod_eq_of_lt hF]
  exact ⟨rfl, rfl, rfl, rfl⟩

theorem State.freezeEffective_due {s : State} {F : Nat} (h : s.esc.freezeAt = some F) (hF : F ≤ s.now) :
    s.freezeEffective = ((s.strFreeze F).escFreeze).vceSync := by
  simp only [State.freezeEffective, h]
  exact if_pos hF

theorem State.freezeEffective_none {s : State} (h : s.esc.freezeAt = none) : s.freezeEffective = s := by
  simp only [State.freezeEffective, h]

/-- A freeze that comes before the beat of a commit disarms its units and aborts it (R50). -/
theorem State.strFreeze_commit {s : State} {F : Nat} (hs : s.get .STR_STATUS_STATE = 3) (hF : F < s.str.commitB) : s.strFreeze F =
    ((((if s.str.commitScope = 1 then s.strTell (.jobAbort s.strGroup.1 s.str.commitB) else s).set .STR_ARMED_UNITS 0 0 0).set
      .STR_ARMED_UNITS 0 0 1).strAbort 0xffff).syncMissing := if_pos ⟨hs, hF⟩

/-! ### Thaws (R371) -/

theorem exec_thawReceive_frozen {s : State} {dev lat : Nat} (beat : Nat) (h : (s.tc0In dev 11 lat).get .ESC_STATUS_FROZEN = 1) :
    exec (.thawReceive dev beat lat) s = .next ((s.tc0In dev 11 lat).setEsc fun e => { e with thawAt := some beat }) :=
  congrArg Host.Outcome.next (if_neg (by rw [h]; decide))

theorem State.thaw_due {s : State} {b : Nat} (h : s.esc.thawAt = some b) (hz : s.get .ESC_STATUS_FROZEN = 1) (hb : b ≤ s.now) :
    s.thaw = ((s.setEsc fun e => { e with thawAt := none, freezes := [], freezeAt := none, lastFill := none }).set
      .ESC_STATUS_FROZEN 0).irq 5 := by
  simp only [State.thaw, h]
  exact if_pos ⟨hz, hb⟩

theorem State.thaw_due_spec {s : State} {b : Nat} (h : s.esc.thawAt = some b) (hz : s.get .ESC_STATUS_FROZEN = 1) (hb : b ≤ s.now) :
    s.thaw.get .ESC_STATUS_FROZEN = 0 ∧ s.thaw.esc.freezes = [] ∧ s.thaw.esc.freezeAt = none ∧ s.thaw.mem = s.mem := by
  rw [State.thaw_due h hz hb, State.irq_get _ _ _ _ _ _ (by decide) (by decide), State.irq_esc, State.irq_mem, State.get_set_self]
  exact ⟨rfl, rfl, rfl, rfl⟩

/-- Settles O8: each message, switch, drain, freeze and thaw by its equation before, at or after its beat. -/
theorem commitGroupAndFreezesActAtTheirBeats : Obligations.CommitGroupAndFreezesActAtTheirBeats := by
  unfold Obligations.CommitGroupAndFreezesActAtTheirBeats
  refine ⟨fun s dev b epoch lat hb => ⟨_, exec_commitReadyReceive_early epoch hb, List.mem_cons_self, rfl, fun r hr => ?_⟩,
    fun s dev b epoch lat hb => exec_commitReadyReceive_late epoch hb, fun s dev b lat hs hj hb hn hq => ?_, fun s l h => ?_,
    fun s l v u hu => State.strBanks_bank s v hu, fun s u hok h => ?_, fun s u hok hs ho hd hu => ?_,
    fun s cause lost hz hn hF => ⟨_, rfl, State.freezeHold_first_spec hz hn hF⟩, fun s dev b cause lost lat hz hn hF => ?_,
    fun s F h hF => ⟨congrArg Host.Outcome.next (State.freezeEffective_due h hF), State.strFreeze_commit⟩,
    fun s h => congrArg Host.Outcome.next (State.freezeEffective_none h),
    fun s dev beat lat hz => exec_thawReceive_frozen beat hz, fun s b h hz hb => ⟨_, rfl, State.thaw_due_spec h hz hb⟩⟩
  · exact (List.mem_cons.mp hr).imp_right fun h => (List.mem_filter.mp h).1
  · refine ⟨_, exec_jobAbortReceive_due hs hj hb hn, ?_⟩
    obtain ⟨state, last, -⟩ := State.strAbort_prepared hq dev
    rw [State.syncGroup_get _ _ _ (by decide), State.syncGroup_get _ _ _ (by decide), State.syncGroup_str]
    exact ⟨state, last, State.strAbort_active hq dev⟩
  · exact congrArg Host.Outcome.next (State.strSwitch_early l h)
  · rw [exec_strDrainComplete hok, State.unitDrain_stays h]
  · rw [exec_strDrainComplete hok, State.unitDrain_releases hs ho hd hu]
  · obtain ⟨at_, reg, held, -⟩ := State.freezeHold_first_spec (f := ⟨dev, b, cause, lost⟩) hz hn hF
    exact ⟨_, rfl, at_, reg, held⟩

end Sys2Proof.Machine

/-! The window unit: how a descriptor arrives, a convolution starts, and its stripes load, retire and complete (O20). -/
namespace Sys2Proof.Machine

/-! ### A unit takes a descriptor -/

theorem State.unitTakes_coreOk {s : State} {core kind : Nat} {d : Desc} (h : s.unitTakes core kind d = true) : s.coreOk core = true := by
  simp only [State.unitTakes, Bool.and_eq_true] at h
  exact h.1.1.1

/-- A descriptor that the unit takes reaches what the unit does with it. -/
theorem State.atUnit_takes {s : State} {core kind : Nat} {d : Desc} (f : State → State) (h : s.unitTakes core kind d = true) :
    s.atUnit core kind d f = f s := by
  simp only [State.unitTakes, Bool.and_eq_true, Bool.not_eq_true', Bool.or_eq_true] at h
  obtain ⟨⟨⟨-, hlost⟩, hreset⟩, hheld | ⟨hgate, hroom⟩⟩ := h
  · simp only [State.atUnit, hlost, hreset, hheld, Bool.or_self, Bool.false_eq_true, if_false, if_true]
  · have gate : s.gateOf core kind = none := Option.isNone_iff_eq_none.mp hgate
    simp only [State.atUnit, hlost, hreset, gate, hroom, Bool.or_self, Bool.false_eq_true, if_false, if_true, ite_self]

/-! ### The unit's state and registers -/

@[simp] theorem State.winSt_setWin (s : State) (clu : Nat) (x : WinSt) : (s.setWin clu x).winSt clu = x := KMap.get_set_self ..
@[simp] theorem State.syncWin_winSt (s : State) (clu c : Nat) : (s.syncWin clu).winSt c = s.winSt c := rfl
@[simp] theorem State.syncWin_mem (s : State) (clu : Nat) : (s.syncWin clu).mem = s.mem := rfl
@[simp] theorem State.syncWin_cores (s : State) (clu : Nat) : (s.syncWin clu).cores = s.cores := rfl

theorem State.syncWin_get (s : State) (clu : Nat) {f : Field} (u i : Nat)
    (h : f ∉ [Field.WIN_STATUS_HELD, .WIN_STATUS_GATHERING, .WIN_STATUS_RUNNING, .WIN_CREDIT_CREDIT]) :
    (s.syncWin clu).get f u i = s.get f u i := by
  simp only [List.mem_cons, List.not_mem_nil, or_false, not_or] at h
  obtain ⟨hh, hg, hr, hc⟩ := h
  simp [State.syncWin, hh, hg, hr, hc]

theorem b2n_mod_two (b : Bool) : b2n b % 2 ^ 1 = b2n b := by cases b <;> rfl

theorem State.syncWin_running (s : State) (clu : Nat) : (s.syncWin clu).get .WIN_STATUS_RUNNING clu = b2n ((s.winSt clu).run != []) := by
  rw [State.syncWin, State.get_set_ne _ _ _ _ _ _ _ _ (.inl (by decide)), State.get_set_self]
  exact b2n_mod_two _

theorem State.syncWin_gathering (s : State) (clu : Nat) :
    (s.syncWin clu).get .WIN_STATUS_GATHERING clu = b2n ((s.winSt clu).gather != []) := by
  rw [State.syncWin, State.get_set_ne _ _ _ _ _ _ _ _ (.inl (by decide)), State.get_set_ne _ _ _ _ _ _ _ _ (.inl (by decide)),
    State.get_set_self]
  exact b2n_mod_two _

/-! ### The rows of the POOL codes (R227) -/

theorem exec_windowRow {c : (Nat → Desc → Instr) × Nat}
    (hc : c ∈ [(Instr.windowConvolution, 0), (.windowMaxPool, 1), (.windowMeanPool, 2)]) (s : State) (core : Nat) (d : Desc) :
    exec (c.1 core d) s = s.winOp core d c.2 := by
  simp only [List.mem_cons, List.not_mem_nil, or_false] at hc
  obtain rfl | rfl | rfl := hc <;> rfl

theorem State.winOp_other {s : State} {core pool : Nat} {d : Desc} (hok : s.coreOk core = true) (hp : dbits d 1 44 43 ≠ pool)
    (h3 : dbits d 1 44 43 ≠ 3) : s.winOp core d pool = .fault .otherRow :=
  (onUnit_present hok).trans (if_neg (by simp [hp, h3]))

theorem State.winOp_arrives {s : State} {core pool : Nat} {d : Desc} (ht : s.unitTakes core kWin d = true)
    (hp : dbits d 1 44 43 = pool ∨ dbits d 1 44 43 = 3) : s.winOp core d pool = .next (s.winArrive core d) := by
  rw [State.winOp, onUnit_present (State.unitTakes_coreOk ht), if_pos hp, State.atUnit_takes _ ht]

/-! ### A descriptor arrives (R215, R227) -/

/-- The unit holds the descriptor in its gathering or its running convolution. -/
def State.winHas (s : State) (core : Nat) (d : Desc) : Bool :=
  ((s.winSt (coreClu core)).gather ++ (s.winSt (coreClu core)).run).any fun e => e.2.1 == core && e.2.2 == d

/-- The unit has every window descriptor that the core issued before this one. -/
def State.winFirst (s : State) (core : Nat) (d : Desc) : Bool :=
  ((s.heldOf core kWin).takeWhile fun h => h.d != d).all fun h => s.winHas core h.d

/-- The descriptor is a stripe, not yet come, of a convolution that has been refused. -/
def State.winLate (s : State) (core : Nat) (d : Desc) : Bool :=
  (s.winSt (coreClu core)).dead.any fun e => e.1 == winKey d && !e.2.contains (winOf d).stripe

/-- What the gathering convolution has against a stripe: another key, or the same stripe. -/
def State.winAgainst (s : State) (core : Nat) (d : Desc) : Option (Nat × Nat × Desc) :=
  (s.winSt (coreClu core)).gather.find? fun e => winKey e.2.2 != winKey d || e.1 == (winOf d).stripe

/-- The bank of a window descriptor. -/
def State.winImg (s : State) (core : Nat) (d : Desc) : Image :=
  s.bankFor (unitDie (coreDie core)) (s.heldFor core kWin d).beat

section
variable {s : State} {core : Nat} {d : Desc}

theorem State.winArrive_held (h : s.winHas core d = true) : s.winArrive core d = s.winStart (coreClu core) := if_pos h

variable (hn : s.winHas core d = false)
include hn

theorem State.winArrive_new : s.winArrive core d =
    if s.clk.stopped || !s.winFirst core d then s.hold core kWin d
    else if s.winLate core d then ((s.bump .WIN_STATUS_REFUSED 1 (coreClu core)).refuse core kWin d).winDead (coreClu core) d [(winOf d).stripe]
    else match (winOf d).fault d, (winOf d).fmtFault with
      | some b, _ => s.winRefuse core d false b
      | none, some b => s.winRefuse core d true b
      | none, none =>
        match s.range (winAgent (coreClu core)) (s.winImg core d) (winOf d).src ((winOf d).inLen ((winIn (winOf d).inFmt).getD .fp16)),
            s.range (winAgent (coreClu core)) (s.winImg core d) (winOf d).dst ((winOf d).outLen ((winOut (winOf d).outFmt).getD .fp32)),
            s.winAgainst core d with
        | .unmapped da, _, _ => (s.unmappedEv (winAgent (coreClu core)) da).winRefuse core d false (64, (winOf d).src)
        | _, .unmapped da, _ => (s.unmappedEv (winAgent (coreClu core)) da).winRefuse core d false (384, (winOf d).dst)
        | .wait, _, _ => s.hold core kWin d
        | _, .wait, _ => s.hold core kWin d
        | .ok, .ok, some e =>
          s.winRefuse core d false (if winKey e.2.2 ≠ winKey d then winDiffers d e.2.2 else (352, (winOf d).stripe))
        | .ok, .ok, none =>
          if (s.winSt (coreClu core)).gather.any fun e => e.2.1 == core then s.hold core kWin d
          else (((s.hold core kWin d).setWin (coreClu core) { s.winSt (coreClu core) with
            gather := (s.winSt (coreClu core)).gather ++ [((winOf d).stripe, core, d)] }).winStart (coreClu core)).syncWin (coreClu core) :=
  if_neg (ne_true_of_eq_false hn)

theorem State.winArrive_waits (h : s.clk.stopped = true ∨ s.winFirst core d = false) : s.winArrive core d = s.hold core kWin d := by
  rw [State.winArrive_new hn]
  exact if_pos (by simpa using h)

variable (hs : s.clk.stopped = false) (hf : s.winFirst core d = true)
include hs hf

theorem State.winArrive_late (h : s.winLate core d = true) : s.winArrive core d =
    ((s.bump .WIN_STATUS_REFUSED 1 (coreClu core)).refuse core kWin d).winDead (coreClu core) d [(winOf d).stripe] := by
  rw [State.winArrive_new hn, if_neg (by simp [hs, hf]), if_pos h]

variable (hl : s.winLate core d = false)
include hl

theorem State.winArrive_fault {b : BadField} (h : (winOf d).fault d = some b) : s.winArrive core d = s.winRefuse core d false b := by
  simp only [State.winArrive_new hn, hs, hf, hl, h, Bool.not_true, Bool.or_self, Bool.false_eq_true, if_false]

theorem State.winArrive_fmtFault {b : BadField} (h : (winOf d).fault d = none) (hb : (winOf d).fmtFault = some b) :
    s.winArrive core d = s.winRefuse core d true b := by
  simp only [State.winArrive_new hn, hs, hf, hl, h, hb, Bool.not_true, Bool.or_self, Bool.false_eq_true, if_false]

variable (hb : (winOf d).fault d = none) (hb' : (winOf d).fmtFault = none)
  (hsrc : s.range (winAgent (coreClu core)) (s.winImg core d) (winOf d).src ((winOf d).inLen ((winIn (winOf d).inFmt).getD .fp16)) = .ok)
  (hdst : s.range (winAgent (coreClu core)) (s.winImg core d) (winOf d).dst ((winOf d).outLen ((winOut (winOf d).outFmt).getD .fp32)) = .ok)
include hb hb' hsrc hdst

theorem State.winArrive_against {e : Nat × Nat × Desc} (h : s.winAgainst core d = some e) : s.winArrive core d =
    s.winRefuse core d false (if winKey e.2.2 ≠ winKey d then winDiffers d e.2.2 else (352, (winOf d).stripe)) := by
  simp only [State.winArrive_new hn, hs, hf, hl, hb, hb', hsrc, hdst, h, Bool.not_true, Bool.or_self, Bool.false_eq_true, if_false]

theorem State.winArrive_second (h : s.winAgainst core d = none) (hg : (s.winSt (coreClu core)).gather.any (fun e => e.2.1 == core) = true) :
    s.winArrive core d = s.hold core kWin d := by
  simp only [State.winArrive_new hn, hs, hf, hl, hb, hb', hsrc, hdst, h, hg, Bool.not_true, Bool.or_self, Bool.false_eq_true, if_false,
    if_true]

theorem State.winArrive_joins (h : s.winAgainst core d = none) (hg : (s.winSt (coreClu core)).gather.any (fun e => e.2.1 == core) = false) :
    s.winArrive core d = (((s.hold core kWin d).setWin (coreClu core) { s.winSt (coreClu core) with
      gather := (s.winSt (coreClu core)).gather ++ [((winOf d).stripe, core, d)] }).winStart (coreClu core)).syncWin (coreClu core) := by
  simp only [State.winArrive_new hn, hs, hf, hl, hb, hb', hsrc, hdst, h, hg, Bool.not_true, Bool.or_self, Bool.false_eq_true, if_false]

end

/-! ### A convolution starts (R44, R93, R154, R215) -/

/-- Every stripe of the gathering convolution has come, and the bank of each. -/
def State.winWhole (s : State) (l : List (Nat × Nat × Desc)) (ns : Nat) : Prop :=
  l.length = ns ∧ l.all (fun g => !s.bankWait g.2.1 kWin (s.heldFor g.2.1 kWin g.2.2).beat) = true

/-- The state of a unit whose gathered convolution starts: each stripe with the key and the step of its core. -/
def State.winStarted (s : State) (clu : Nat) (l : List (Nat × Nat × Desc)) : WinSt :=
  { WinSt.init with
    run := l, dead := (s.winSt clu).dead
    sr := l.map fun g => (g.1, s.get .VEC_SRKEY_KEY_HI g.2.1 (winOf g.2.2).slot * 2 ^ 32 + s.get .VEC_SRKEY_KEY_LO g.2.1 (winOf g.2.2).slot,
      s.get .TDY_STEP_STEP g.2.1) }

section
variable {s : State} {clu : Nat} {e : Nat × Nat × Desc} {l : List (Nat × Nat × Desc)} (hg : (s.winSt clu).gather = e :: l)
include hg

theorem State.winStart_starts (hr : (s.winSt clu).run = []) (hw : s.winWhole (e :: l) (winOf e.2.2).ns) :
    s.winStart clu = ((s.setWin clu (s.winStarted clu (e :: l))).set .WIN_STATUS_DONE 0 clu).syncWin clu := by
  simp only [State.winStart, hr, hg, State.winStarted, List.map_map]
  exact if_pos hw

theorem State.winStart_stays (h : (s.winSt clu).run ≠ [] ∨ ¬ s.winWhole (e :: l) (winOf e.2.2).ns) : s.winStart clu = s := by
  cases hr : (s.winSt clu).run with
  | nil =>
    simp only [State.winStart, hr, hg]
    exact if_neg (h.resolve_left fun hne => hne hr)
  | cons a r => simp only [State.winStart, hr]

theorem State.winStart_spec (hr : (s.winSt clu).run = []) (hw : s.winWhole (e :: l) (winOf e.2.2).ns) :
    (s.winStart clu).winSt clu = s.winStarted clu (e :: l) ∧ (s.winStart clu).get .WIN_STATUS_DONE clu = 0 ∧
    (s.winStart clu).get .WIN_STATUS_RUNNING clu = 1 ∧ (s.winStart clu).get .WIN_STATUS_GATHERING clu = 0 ∧
    (s.winStart clu).mem = s.mem ∧ (s.winStart clu).cores = s.cores := by
  have unit : ((s.setWin clu (s.winStarted clu (e :: l))).set .WIN_STATUS_DONE 0 clu).winSt clu = s.winStarted clu (e :: l) :=
    State.winSt_setWin ..
  rw [State.winStart_starts hg hr hw, State.syncWin_winSt, State.syncWin_running, State.syncWin_gathering, State.syncWin_mem,
    State.syncWin_cores, State.syncWin_get _ _ _ _ (by decide), State.get_set_self, unit]
  exact ⟨rfl, rfl, rfl, rfl, rfl, rfl⟩

end

/-! ### Lines of a stripe (R225, R226, R228) -/

theorem exec_stripeLineLoad {s : State} {clu : Nat} (k : Nat) (h : s.cluOk clu = true) :
    exec (.stripeLineLoad clu k) s = .next (s.stripeLoad clu k) := onUnit_present h

theorem exec_stripeHaloResume {s : State} {clu : Nat} (k : Nat) (h : s.cluOk clu = true) :
    exec (.stripeHaloResume clu k) s = .next (s.stripeAdvance clu k) := onUnit_present h

theorem exec_windowStripeComplete {s : State} {clu : Nat} (k : Nat) (h : s.cluOk clu = true) :
    exec (.windowStripeComplete clu k) s = .next (s.stripeDone clu k) := onUnit_present h

/-- Nothing moves for a stripe that does not run. -/
theorem State.stripe_absent {s : State} {clu k : Nat} (h : (s.winSt clu).stripe k = none) :
    s.stripeLoad clu k = s ∧ s.stripeAdvance clu k = s ∧ s.stripeDone clu k = s := by
  refine ⟨?_, ?_, ?_⟩
  · simp only [State.stripeLoad, h]
  · simp only [State.stripeAdvance, h]
  · simp only [State.stripeDone, h]

theorem WinSt.stripe_number {w : WinSt} {k : Nat} {e : Nat × Nat × Desc} (h : w.stripe k = some e) : e.1 = k := by
  simpa using List.find?_some h

/-- The bytes of line n that a stripe loads: none where the line lies wholly in padding. -/
def WinD.lineSpan (x : WinD) (k n : Nat) : Spans :=
  match x.lineRow n with
  | some (t, y) => [(x.src + ((t * x.h + y) * x.w + x.own k) * pitch x.c ((winIn x.inFmt).getD .fp16),
      (x.own (k + 1) - x.own k) * pitch x.c ((winIn x.inFmt).getD .fp16))]
  | none => []

/-- The bank of a stripe that runs. -/
def State.stripeImg (s : State) (clu : Nat) (e : Nat × Nat × Desc) : Image :=
  s.bankFor (unitDie (clu / 16)) (s.heldFor e.2.1 kWin e.2.2).beat

/-- The line that a stripe loads next. -/
abbrev WinSt.nextLine (w : WinSt) (k : Nat) : Nat := KMap.get w.loaded k 0

/-- The bytes that a stripe loads next. -/
def State.nextSpan (s : State) (clu k : Nat) (e : Nat × Nat × Desc) : Spans := (winOf e.2.2).lineSpan k ((s.winSt clu).nextLine k)

/-- The first poisoned block of those bytes. -/
def State.nextPoison (s : State) (clu k : Nat) (e : Nat × Nat × Desc) : Option Nat :=
  (s.nextSpan clu k e).findSome? fun p => s.poisonDa (winAgent clu) (s.stripeImg clu e) p.1 p.2

/-- A stripe may take up its next line: engines that run, a line left, and its bytes free of earlier work. -/
def State.lineFree (s : State) (clu k : Nat) (e : Nat × Nat × Desc) : Prop :=
  s.clk.stopped = false ∧ (s.winSt clu).nextLine k < (winOf e.2.2).lines ∧
    s.spansFree e.2.1 kWin e.2.2 (winAgent clu) (s.stripeImg clu e) (s.nextSpan clu k e) = true

/-- A line of padding needs no slot; another one needs a free slot and credit. -/
def State.lineSlot (s : State) (clu k : Nat) (e : Nat × Nat × Desc) : Prop :=
  (winOf e.2.2).lineRow ((s.winSt clu).nextLine k) = none ∨ (s.winSt clu).mayLoad k ((s.winSt clu).nextLine k) = true

/-- The unit's state once a stripe has loaded its next line. -/
def State.lineLoaded (s : State) (clu k : Nat) (e : Nat × Nat × Desc) : WinSt :=
  { s.winSt clu with
    loaded := KMap.set (s.winSt clu).loaded k ((s.winSt clu).nextLine k + 1), waiting := (s.winSt clu).waiting.filter (· != k)
    slots := (s.nextSpan clu k e).foldl
      (fun m p => KMap.set m (k, (s.winSt clu).nextLine k % 32) (s.rdDa (winAgent clu) (s.stripeImg clu e) p.1 p.2)) (s.winSt clu).slots }

section
variable {s : State} {clu k : Nat} {e : Nat × Nat × Desc} (he : (s.winSt clu).stripe k = some e)
include he

theorem State.stripeLoad_running : s.stripeLoad clu k =
    if s.clk.stopped ∨ (winOf e.2.2).lines ≤ (s.winSt clu).nextLine k ∨
      !s.spansFree e.2.1 kWin e.2.2 (winAgent clu) (s.stripeImg clu e) (s.nextSpan clu k e) then s
    else if ((winOf e.2.2).lineRow ((s.winSt clu).nextLine k)).isSome && !(s.winSt clu).mayLoad k ((s.winSt clu).nextLine k) then
      s.setWin clu { s.winSt clu with waiting := insertBlock (s.winSt clu).waiting k }
    else
      match s.nextPoison clu k e with
      | some p => (s.daUe (srcClu clu 1) (winAgent clu) (s.stripeImg clu e) p).winEndRun clu 2
      | none => (s.setWin clu (s.lineLoaded clu k e)).stripeAdvance clu k := by
  unfold State.stripeLoad
  simp only [he]
  rfl

theorem State.stripeLoad_idle (h : ¬ s.lineFree clu k e) : s.stripeLoad clu k = s := by
  rw [State.stripeLoad_running he]
  refine if_pos ?_
  by_contra hc
  simp only [not_or, Bool.not_eq_true, Bool.not_eq_false', not_le] at hc
  exact h hc

theorem State.stripeLoad_waits (hf : s.lineFree clu k e) (hr : ((winOf e.2.2).lineRow ((s.winSt clu).nextLine k)).isSome = true)
    (hm : (s.winSt clu).mayLoad k ((s.winSt clu).nextLine k) = false) :
    s.stripeLoad clu k = s.setWin clu { s.winSt clu with waiting := insertBlock (s.winSt clu).waiting k } := by
  obtain ⟨hs, hn, hfree⟩ := hf
  rw [State.stripeLoad_running he, if_neg (by simp [hs, hn, hfree]), if_pos (by rw [hr, hm]; rfl)]

variable (hf : s.lineFree clu k e) (hm : s.lineSlot clu k e)
include hf hm

theorem State.stripeLoad_slot : s.stripeLoad clu k = match s.nextPoison clu k e with
    | some p => (s.daUe (srcClu clu 1) (winAgent clu) (s.stripeImg clu e) p).winEndRun clu 2
    | none => (s.setWin clu (s.lineLoaded clu k e)).stripeAdvance clu k := by
  obtain ⟨hs, hn, hfree⟩ := hf
  have slot : ¬(((winOf e.2.2).lineRow ((s.winSt clu).nextLine k)).isSome && !(s.winSt clu).mayLoad k ((s.winSt clu).nextLine k)) = true := by
    obtain h | h := hm <;> simp [h]
  rw [State.stripeLoad_running he, if_neg (by simp [hs, hn, hfree]), if_neg slot]

theorem State.stripeLoad_poisoned {p : Nat} (hp : s.nextPoison clu k e = some p) :
    s.stripeLoad clu k = (s.daUe (srcClu clu 1) (winAgent clu) (s.stripeImg clu e) p).winEndRun clu 2 := by
  rw [State.stripeLoad_slot he hf hm, hp]

theorem State.stripeLoad_loads (hp : s.nextPoison clu k e = none) :
    s.stripeLoad clu k = (s.setWin clu (s.lineLoaded clu k e)).stripeAdvance clu k := by
  rw [State.stripeLoad_slot he hf hm, hp]

end

/-! ### A stripe advances and completes (R215, R226) -/

/-- A stripe that has no loaded line to add stays. -/
theorem State.stripeGo_stays {s : State} {clu : Nat} {e : Nat × Nat × Desc}
    (h : KMap.get (s.winSt clu).loaded e.1 0 ≤ KMap.get (s.winSt clu).retired e.1 0) (n : Nat) : s.stripeGo clu e n = s := by
  cases n with
  | zero => rfl
  | succ n => exact if_pos (.inr (.inl h))

section
variable {s : State} {clu k : Nat} {e : Nat × Nat × Desc} (he : (s.winSt clu).stripe k = some e)
include he

theorem State.stripeAdvance_stopped (h : s.clk.stopped = true) : s.stripeAdvance clu k = s := by
  simp only [State.stripeAdvance, he, h, if_true]

theorem State.stripeAdvance_goes (h : s.clk.stopped = false) : s.stripeAdvance clu k =
    (s.stripeGo clu e ((winOf e.2.2).lines - KMap.get (s.winSt clu).retired k 0)).syncWin clu := by
  simp only [State.stripeAdvance, he, h, Bool.false_eq_true, if_false]

theorem State.stripeAdvance_still
    (h : s.clk.stopped = true ∨ KMap.get (s.winSt clu).loaded k 0 ≤ KMap.get (s.winSt clu).retired k 0) :
    (s.stripeAdvance clu k).winSt clu = s.winSt clu ∧ (s.stripeAdvance clu k).mem = s.mem ∧ (s.stripeAdvance clu k).cores = s.cores := by
  cases hs : s.clk.stopped with
  | true => rw [State.stripeAdvance_stopped he hs]; exact ⟨rfl, rfl, rfl⟩
  | false =>
    have none_loaded := h.resolve_left (ne_true_of_eq_false hs)
    rw [← WinSt.stripe_number he] at none_loaded
    rw [State.stripeAdvance_goes he hs, State.stripeGo_stays none_loaded]
    exact ⟨rfl, rfl, rfl⟩

theorem State.stripeDone_not (h : KMap.get (s.winSt clu).retired k 0 < (winOf e.2.2).lines ∨ bit (s.get .WIN_STATUS_DONE clu) k = true) :
    s.stripeDone clu k = s := by
  simp only [State.stripeDone, he]
  exact if_pos h

theorem State.stripeDone_completes (hl : (winOf e.2.2).lines ≤ KMap.get (s.winSt clu).retired k 0)
    (hb : bit (s.get .WIN_STATUS_DONE clu) k = false) : s.stripeDone clu k =
    if ((s.setBit .WIN_STATUS_DONE k true clu).complete e.2.1 kWin e.2.2).get .WIN_STATUS_DONE clu = 2 ^ (s.winSt clu).run.length - 1 then
      ((((s.setBit .WIN_STATUS_DONE k true clu).complete e.2.1 kWin e.2.2).setWin clu { WinSt.init with
        gather := (s.winSt clu).gather, dead := (s.winSt clu).dead }).winStart clu).syncWin clu
    else ((s.setBit .WIN_STATUS_DONE k true clu).complete e.2.1 kWin e.2.2).syncWin clu := by
  simp only [State.stripeDone, he]
  exact if_neg (by simp [hb, hl])

end

/-! ### WIN_CANCEL (R228) -/

theorem exec_winCancel {s : State} {clu : Nat} (h : s.cluOk clu = true) : exec (.winCancel clu) s = .next (s.winEndGather clu 4) :=
  onUnit_present h

/-- Only a reset leaves stripes to be refused as they come. -/
theorem State.winDeadAll_noReset (s : State) (clu : Nat) {cause : Nat} (l : List (Nat × Nat × Desc)) (h : 1 < cause) :
    s.winDeadAll clu cause l = s := by
  cases l with
  | nil => rfl
  | cons e l => exact if_neg (Nat.not_le.mpr h)

theorem State.winEndGather_none {s : State} {clu : Nat} (cause : Nat) (h : (s.winSt clu).gather = []) : s.winEndGather clu cause = s :=
  if_pos h

theorem State.winEndGather_cancel {s : State} {clu : Nat} (h : (s.winSt clu).gather ≠ []) : s.winEndGather clu 4 =
    (((s.setWin clu { s.winSt clu with gather := [] }).winDrop clu (s.winSt clu).gather).winAbortEv clu 4
      (stripeMask (s.winSt clu).gather) 0).syncWin clu := by
  rw [State.winEndGather, if_neg h, State.winDeadAll_noReset _ _ _ (by decide)]

/-- Settles O20: arrival, start, lines, completion and cancel, each by the lemma of its case. -/
theorem windowUnitGathersAndRunsStripes : Obligations.WindowUnitGathersAndRunsStripes := by
  unfold Obligations.WindowUnitGathersAndRunsStripes
  refine ⟨fun c hc s core d => ⟨fun hok hp h3 => ?_, fun ht hp => ?_⟩,
    fun s core d => ⟨State.winArrive_held, fun hn => ⟨State.winArrive_waits hn, fun hs hf => ⟨State.winArrive_late hn hs hf, fun hl =>
      ⟨fun b => State.winArrive_fault hn hs hf hl, fun b => State.winArrive_fmtFault hn hs hf hl, fun hb hb' hsrc hdst =>
        ⟨fun e => State.winArrive_against hn hs hf hl hb hb' hsrc hdst, State.winArrive_second hn hs hf hl hb hb' hsrc hdst,
          State.winArrive_joins hn hs hf hl hb hb' hsrc hdst⟩⟩⟩⟩⟩,
    fun s clu e l hg => ⟨State.winStart_spec hg, State.winStart_stays hg⟩,
    fun s clu k hok => ⟨fun h => ?_, fun e he => ⟨fun h => ?_, fun h hr hm => ?_, fun h hm => ⟨fun p hp => ?_, fun hp => ?_⟩, fun h => ?_,
      fun h => ?_, fun h => ?_, fun hl hb => ?_⟩⟩,
    fun s clu hok => ⟨fun h => ?_, fun h => ?_⟩⟩
  · rw [exec_windowRow hc, State.winOp_other hok hp h3]
  · rw [exec_windowRow hc, State.winOp_arrives ht hp]
  · obtain ⟨load, advance, done⟩ := State.stripe_absent h
    rw [exec_stripeLineLoad k hok, exec_stripeHaloResume k hok, exec_windowStripeComplete k hok, load, advance, done]
    exact ⟨rfl, rfl, rfl⟩
  · rw [exec_stripeLineLoad k hok]
    exact congrArg Host.Outcome.next (State.stripeLoad_idle he h)
  · rw [exec_stripeLineLoad k hok]
    exact congrArg Host.Outcome.next (State.stripeLoad_waits he h hr hm)
  · rw [exec_stripeLineLoad k hok]
    exact congrArg Host.Outcome.next (State.stripeLoad_poisoned he h hm hp)
  · rw [exec_stripeLineLoad k hok]
    exact congrArg Host.Outcome.next (State.stripeLoad_loads he h hm hp)
  · exact ⟨_, exec_stripeHaloResume k hok, State.stripeAdvance_still he h⟩
  · rw [exec_stripeHaloResume k hok, State.stripeAdvance_goes he h]
  · rw [exec_windowStripeComplete k hok, State.stripeDone_not he h]
  · rw [exec_windowStripeComplete k hok, State.stripeDone_completes he hl hb]
  · rw [exec_winCancel hok, State.winEndGather_none 4 h]
  · rw [exec_winCancel hok, State.winEndGather_cancel h]

end Sys2Proof.Machine

/-! The husk: how a descriptor arrives, encodes and decodes, and what keeps the stook's directory and its counts (O19). -/
namespace Sys2Proof.Machine

/-! ### The stook's state and registers -/

@[simp] theorem State.stk_setStk (s : State) (ld : Nat) (x : StookSt) : (s.setStk ld x).stk ld = x := KMap.get_set_self ..
theorem State.setStk_setStk (s : State) (ld : Nat) (x y : StookSt) : (s.setStk ld x).setStk ld y = s.setStk ld y := by
  simp [State.setStk, KMap.set, KMap.erase, List.filter_filter]
@[simp] theorem State.syncHusk_stk (s : State) (ld l : Nat) : (s.syncHusk ld).stk l = s.stk l := rfl
@[simp] theorem State.syncReserved_stk (s : State) (ld l : Nat) : (s.syncReserved ld).stk l = s.stk l := rfl
@[simp] theorem State.syncReserved_mem (s : State) (ld : Nat) : (s.syncReserved ld).mem = s.mem := rfl
@[simp] theorem State.syncReserved_cores (s : State) (ld : Nat) : (s.syncReserved ld).cores = s.cores := rfl

theorem State.stk_log' (s : State) (src code sev : Nat) (fs : List (Nat × Nat)) (ld : Nat) : (s.log' src code sev fs).stk ld = s.stk ld := by
  unfold State.stk
  rw [State.log'_stook]

theorem State.syncReserved_get (s : State) (ld : Nat) {f : Field} (u i : Nat) (hr : f ≠ .HSK_STOOK_RESERVED) (hf : f ≠ .HSK_STOOK_FREE) :
    (s.syncReserved ld).get f u i = s.get f u i := by
  simp [State.syncReserved, hr, hf]

/-- With no encode that runs nothing is reserved. -/
theorem State.syncReserved_none {s : State} {ld : Nat} (h : (s.stk ld).runs = []) : (s.syncReserved ld).get .HSK_STOOK_RESERVED ld = 0 := by
  rw [State.syncReserved, h, State.get_set_ne _ _ _ _ _ _ _ _ (.inl (by decide)), State.get_set_self]
  rfl

/-- An event that is logged or not changes no core. -/
theorem State.ite_log'_cores (c : Prop) [Decidable c] (s : State) (src code sev : Nat) (fs : List (Nat × Nat)) :
    (if c then s.log' src code sev fs else s).cores = s.cores := by
  split
  · exact State.log'_cores ..
  · rfl

/-- Places of a region follow the part alone. -/
theorem State.stookLoc_ident {s t : State} (h : t.ident = s.ident) (r : Region) (off : Nat) : t.stookLoc r off = s.stookLoc r off := by
  simp only [State.stookLoc, State.regionLoc, State.participants, h]

/-! ### A descriptor arrives (R152, R193) -/

section
variable {s : State} {core : Nat} {d : Desc} (run : State → Image → State)

theorem State.huskStart_busy (h : s.huskBusy core d = true) : s.huskStart core d run = s := if_pos h

variable (hb : s.huskBusy core d = false)
include hb

theorem State.huskStart_waits (h : s.huskWaits core d = true) : s.huskStart core d run = s.hold core kHsk d := by
  simp only [State.huskStart, hb, h, Bool.false_eq_true, if_false, if_true]

variable (hw : s.huskWaits core d = false)
include hw

theorem State.huskStart_fault {b : BadField} (h : hskFault (s.huskBank core d) d = some b) :
    s.huskStart core d run = s.huskRefuse core d b := by
  simp only [State.huskStart, hb, hw, h, Bool.false_eq_true, if_false]

variable (hf : hskFault (s.huskBank core d) d = none)
include hf

theorem State.huskStart_otherDst (he : dbit d 0 32 = false) (h : otherStook (s.huskBank core d) (coreDie core) (hskDst d) = true) :
    s.huskStart core d run = s.huskRefuse core d (128, hskDst d) := by
  simp only [State.huskStart, hb, hw, hf, he, h, Bool.not_false, Bool.and_self, Bool.false_eq_true, if_false, if_true]

theorem State.huskStart_otherSrc (hd : dbit d 0 32 = true) (h : otherStook (s.huskBank core d) (coreDie core) (hskSrc d) = true) :
    s.huskStart core d run = s.huskRefuse core d (64, hskSrc d) := by
  simp only [State.huskStart, hb, hw, hf, hd, h, Bool.not_true, Bool.false_and, Bool.and_self, Bool.false_eq_true, if_false, if_true]

theorem State.huskStart_encodes (he : dbit d 0 32 = false) (h : otherStook (s.huskBank core d) (coreDie core) (hskDst d) = false) :
    s.huskStart core d run = run s (s.huskBank core d) := by
  simp only [State.huskStart, hb, hw, hf, he, h, Bool.and_false, Bool.false_and, Bool.false_eq_true, if_false]

theorem State.huskStart_decodes (hd : dbit d 0 32 = true) (h : otherStook (s.huskBank core d) (coreDie core) (hskSrc d) = false) :
    s.huskStart core d run = run s (s.huskBank core d) := by
  simp only [State.huskStart, hb, hw, hf, hd, h, Bool.not_true, Bool.and_false, Bool.false_and, Bool.false_eq_true, if_false]

end

/-! ### Encodes (R199, R202, R203) -/

/-- An encode whose source is mapped and free: into the stook where DST names it, else to an address. -/
def State.encPut (s : State) (core : Nat) (d : Desc) (img : Image) : State :=
  match stookOf img (coreDie core) with
  | some (e, r) =>
    if r.base ≠ hskDst d then s.encAddr core d img ((hskMode img d).getD 0)
    else if s.stookBusy (coreDie core) then s.hold core kHsk d
    else s.encStook core d img e r ((hskMode img d).getD 0)
  | none => s.encAddr core d img ((hskMode img d).getD 0)

theorem exec_huskEncode {s : State} {core : Nat} {d : Desc} (ht : s.unitTakes core kHsk d = true) (he : dbit d 0 32 = false) :
    exec (.huskEncode core d) s =
      .next (s.huskStart core d fun s img => s.encSrc core d img fun s => s.encPut core d img) := by
  change execHuskEncode core d s = _
  rw [execHuskEncode, onUnit_present (State.unitTakes_coreOk ht), if_neg (ne_true_of_eq_false he), State.atUnit_takes _ ht]
  rfl

theorem exec_huskEncode_decode {s : State} {core : Nat} {d : Desc} (hok : s.coreOk core = true) (hd : dbit d 0 32 = true) :
    exec (.huskEncode core d) s = .fault .otherRow :=
  (onUnit_present hok).trans (if_pos hd)

section
variable {s : State} {core : Nat} {d : Desc} {img : Image}

theorem State.encSrc_ready (run : State → State) (hr : s.range (huskAgent (coreDie core)) img (hskSrc d) (hskLen d) = .ok)
    (hf : s.spansFree core kHsk d (huskAgent (coreDie core)) img [(hskSrc d, hskLen d)] = true) : s.encSrc core d img run = run s := by
  simp only [State.encSrc, hr, hf, if_true]

theorem State.encPut_addr (h : (stookOf img (coreDie core)).all (fun x => x.2.base != hskDst d) = true) :
    s.encPut core d img = s.encAddr core d img ((hskMode img d).getD 0) := by
  unfold State.encPut
  cases hx : stookOf img (coreDie core) with
  | none => rfl
  | some x =>
    rw [hx, Option.all_some, bne_iff_ne] at h
    exact if_pos h

/-- An encode to an address writes its records and counts the bytes in and out (R202). -/
theorem State.encAddr_writes {mode : Nat} (hp : s.poisonDa (huskAgent (coreDie core)) img (hskSrc d) (hskLen d) = none)
    (hr : s.range (huskAgent (coreDie core)) img (hskDst d)
      ((huskRecords mode (hskFrame d) (s.huskWords (coreDie core) img d)).flatMap id).length = .ok)
    (hf : s.spansFree core kHsk d (huskAgent (coreDie core)) img [(hskDst d,
      ((huskRecords mode (hskFrame d) (s.huskWords (coreDie core) img d)).flatMap id).length)] = true) :
    s.encAddr core d img mode = (((s.wrDa (huskAgent (coreDie core)) img (hskDst d)
      ((huskRecords mode (hskFrame d) (s.huskWords (coreDie core) img d)).flatMap id)).bump .HSK_ENC_IN_COUNT (hskLen d) (coreDie core)).bump
      .HSK_ENC_OUT_COUNT ((huskRecords mode (hskFrame d) (s.huskWords (coreDie core) img d)).flatMap id).length (coreDie core)).huskDone
        core d := by
  simp only [State.encAddr, hp, hr, hf, Bool.not_true, Bool.false_eq_true, if_false]

variable {e : StookEnt} {r : Region}

theorem State.encPut_busy (hx : stookOf img (coreDie core) = some (e, r)) (hb : r.base = hskDst d)
    (h : s.stookBusy (coreDie core) = true) : s.encPut core d img = s.hold core kHsk d := by
  simp only [State.encPut, hx, hb, h, ne_eq, not_true, if_false, if_true]

theorem State.encPut_stook (hx : stookOf img (coreDie core) = some (e, r)) (hb : r.base = hskDst d)
    (h : s.stookBusy (coreDie core) = false) : s.encPut core d img = s.encStook core d img e r ((hskMode img d).getD 0) := by
  simp only [State.encPut, hx, hb, h, ne_eq, not_true, Bool.false_eq_true, if_false]

variable {mode : Nat}

theorem State.encStook_used (h : (s.dirGet r (slotOf (descMb d) (hskBlock d))).state ≠ 0) :
    s.encStook core d img e r mode = s.huskRefuse core d (48, hskBlock d) := if_pos h

variable (hs : (s.dirGet r (slotOf (descMb d) (hskBlock d))).state = 0)
include hs

/-- An encode behind one that waits joins the line. -/
theorem State.encStook_behind (h : (s.stk (coreDie core)).line ≠ []) :
    ((s.encStook core d img e r mode).stk (coreDie core)).line = (s.stk (coreDie core)).line ++ [(core, d, false)] := by
  rw [State.encStook, if_neg (not_not.mpr hs), if_pos h, State.syncHusk_stk, State.stk_setStk]

theorem State.encStook_decided {t : State} (h : (s.stk (coreDie core)).line = []) (ht : s.encTry core d img e r mode = some t) :
    s.encStook core d img e r mode = t := by
  rw [State.encStook, if_neg (not_not.mpr hs), if_neg (not_not.mpr h), ht]

/-- An encode that can neither start nor be dropped stalls at the head of the line. -/
theorem State.encStook_stalls (h : (s.stk (coreDie core)).line = []) (ht : s.encTry core d img e r mode = none) :
    ((s.encStook core d img e r mode).stk (coreDie core)).line = [(core, d, true)] := by
  rw [State.encStook, if_neg (not_not.mpr hs), if_neg (not_not.mpr h), ht, State.syncHusk_stk, State.stk_setStk]

end

/-! ### Decodes (R200, R202) -/

/-- A decode from the stook where SRC names it, else from an address. -/
def State.decGet (s : State) (core : Nat) (d : Desc) (img : Image) : State :=
  match stookOf img (coreDie core) with
  | some (_, r) =>
    if r.base ≠ hskSrc d then s.decAddr core d img
    else if s.stookBusy (coreDie core) then s.hold core kHsk d
    else s.decStook core d img r
  | none => s.decAddr core d img

theorem exec_huskDecode {s : State} {core : Nat} {d : Desc} (ht : s.unitTakes core kHsk d = true) (hd : dbit d 0 32 = true) :
    exec (.huskDecode core d) s = .next (s.huskStart core d fun s img => s.decGet core d img) := by
  change execHuskDecode core d s = _
  rw [execHuskDecode, onUnit_present (State.unitTakes_coreOk ht), hd, if_neg (by decide), State.atUnit_takes _ ht]
  rfl

theorem exec_huskDecode_encode {s : State} {core : Nat} {d : Desc} (hok : s.coreOk core = true) (he : dbit d 0 32 = false) :
    exec (.huskDecode core d) s = .fault .otherRow :=
  (onUnit_present hok).trans (if_pos (by rw [he]; rfl))

section
variable {s : State} {core : Nat} {d : Desc} {img : Image} {e : StookEnt} {r : Region}

theorem State.decGet_addr (h : (stookOf img (coreDie core)).all (fun x => x.2.base != hskSrc d) = true) :
    s.decGet core d img = s.decAddr core d img := by
  unfold State.decGet
  cases hx : stookOf img (coreDie core) with
  | none => rfl
  | some x =>
    rw [hx, Option.all_some, bne_iff_ne] at h
    exact if_pos h

theorem State.decGet_busy (hx : stookOf img (coreDie core) = some (e, r)) (hb : r.base = hskSrc d)
    (h : s.stookBusy (coreDie core) = true) : s.decGet core d img = s.hold core kHsk d := by
  simp only [State.decGet, hx, hb, h, ne_eq, not_true, if_false, if_true]

theorem State.decGet_stook (hx : stookOf img (coreDie core) = some (e, r)) (hb : r.base = hskSrc d)
    (h : s.stookBusy (coreDie core) = false) : s.decGet core d img = s.decStook core d img r := by
  simp only [State.decGet, hx, hb, h, ne_eq, not_true, Bool.false_eq_true, if_false]

/-- The bytes of the records at SRC, by their headers. -/
def State.decLen (s : State) (core : Nat) (d : Desc) (img : Image) : Nat :=
  streamLen (fun o l => s.rdDa (huskAgent (coreDie core)) img (hskSrc d + o) l) (ceilDiv (hskLen d) 4096) 0

theorem State.decAddr_reads (hs : s.range (huskAgent (coreDie core)) img (hskSrc d) (s.decLen core d img) = .ok)
    (hd : s.range (huskAgent (coreDie core)) img (hskDst d) (hskLen d) = .ok)
    (hf : s.spansFree core kHsk d (huskAgent (coreDie core)) img [(hskSrc d, s.decLen core d img), (hskDst d, hskLen d)] = true)
    (hok : (s.huskRead core d img (hskLen d) (hskFrame d) fun o => hskSrc d + o).2 = true) :
    s.decAddr core d img = (s.huskRead core d img (hskLen d) (hskFrame d) fun o => hskSrc d + o).1.huskDone core d := by
  unfold State.decLen at hs hf
  simp only [State.decAddr, hs, hd, hf, hok, Bool.not_true, Bool.false_eq_true, if_false, if_true]

/-- The stook's entry at the slot of a descriptor. -/
def State.slotEnt (s : State) (d : Desc) (r : Region) : DirEnt := s.dirGet r (slotOf (descMb d) (hskBlock d))

theorem State.decStook_missing (h : (s.slotEnt d r).mb ≠ descMb d ∨ (s.slotEnt d r).block ≠ hskBlock d ∨
    ((s.slotEnt d r).state ≠ 2 ∧ (s.slotEnt d r).state ≠ 3)) : s.decStook core d img r = s.huskRefuse core d (48, hskBlock d) := if_pos h

variable (hm : (s.slotEnt d r).mb = descMb d) (hb : (s.slotEnt d r).block = hskBlock d)
  (hs : (s.slotEnt d r).state = 2 ∨ (s.slotEnt d r).state = 3)
include hm hb hs

/-- The entry is the one that the descriptor names, stored or dropped. -/
theorem State.slotEnt_found : ¬((s.slotEnt d r).mb ≠ descMb d ∨ (s.slotEnt d r).block ≠ hskBlock d ∨
    ((s.slotEnt d r).state ≠ 2 ∧ (s.slotEnt d r).state ≠ 3)) := by
  simp only [hm, hb, ne_eq, not_true, false_or]
  exact fun h => hs.elim h.1 h.2

theorem State.decStook_empty (h : hskLen d = 0) : s.decStook core d img r =
    s.readBegin core d r (slotOf (descMb d) (hskBlock d)) ((s.slotEnt d r).state == 3) :=
  (if_neg (State.slotEnt_found hm hb hs)).trans (if_pos h)

theorem State.decStook_length (h : hskLen d ≠ 0) (hl : hskLen d ≠ (s.slotEnt d r).srcLen) :
    s.decStook core d img r = s.huskRefuse core d (192, hskLen d) :=
  (if_neg (State.slotEnt_found hm hb hs)).trans ((if_neg h).trans (if_pos hl))

end

/-! ### Counts of the policy chain (R203, R206) -/

theorem State.stookAct_frame (s : State) (ld mb block act : Nat) :
    (s.stookAct ld mb block act).mem = s.mem ∧ (s.stookAct ld mb block act).cores = s.cores := by
  unfold State.stookAct
  simp only []
  split <;> exact ⟨rfl, rfl⟩

theorem State.stookAct_lossy (s : State) (ld mb block : Nat) : (s.stookAct ld mb block 1).get .HSK_FULL_LOSSY ld =
    satAdd Field.HSK_FULL_LOSSY.width (s.get .HSK_FULL_LOSSY ld) 1 % 2 ^ Field.HSK_FULL_LOSSY.width := State.get_set_self ..

theorem State.stookAct_drops (s : State) (ld mb block : Nat) : (s.stookAct ld mb block 2).get .HSK_FULL_DROPS ld =
    satAdd Field.HSK_FULL_DROPS.width (s.get .HSK_FULL_DROPS ld) 1 % 2 ^ Field.HSK_FULL_DROPS.width := State.get_set_self ..

/-! ### Ends of encodes and decodes (R199 to R201) -/

/-- The encode of a descriptor that its husk writes now. -/
def State.runOf (s : State) (core : Nat) (d : Desc) : Option EncRun :=
  (s.stk (coreDie core)).runs.find? fun r => r.core == core && r.d == d

/-- The decode from the stook of a descriptor that is in progress. -/
def State.readOf (s : State) (core : Nat) (d : Desc) : Option (Nat × Desc × Bool) :=
  (s.stk (coreDie core)).reads.find? fun r => r.1 == core && r.2.1 == d

/-- An encode that ends: its entry is stored, and counted. -/
def State.encStored (s : State) (core : Nat) (d : Desc) (r : Region) (run : EncRun) : State :=
  let y := s.setStk (coreDie core)
    { s.stk (coreDie core) with runs := (s.stk (coreDie core)).runs.filter fun q => !(q.core == core && q.d == d) }
  ((y.dirPut r (slotOf run.mb run.block) { y.dirGet r (slotOf run.mb run.block) with state := 2 }).shift .HSK_STATUS_STORED
    (coreDie core) 1 0).syncReserved (coreDie core)

/-- A decode from the stook that ends: its entry is empty, and the descriptor completes. -/
def State.readEnded (s : State) (core : Nat) (d : Desc) (r : Region) : State :=
  ((s.setStk (coreDie core)
    { s.stk (coreDie core) with reads := (s.stk (coreDie core)).reads.filter fun q => !(q.1 == core && q.2.1 == d) }).dirFree
    (coreDie core) r (slotOf (descMb d) (hskBlock d))).huskDone core d

section
variable {s : State} {core : Nat} {d : Desc} (hok : s.coreOk core = true)
include hok

theorem exec_stookEncodeComplete_none (h : s.runOf core d = none) : exec (.stookEncodeComplete core d) s = .next s := by
  change execStookEncodeComplete core d s = _
  unfold State.runOf at h
  simp only [execStookEncodeComplete, onUnit_present hok, h]

theorem exec_stookEncodeComplete_run {run : EncRun} {e : StookEnt} {r : Region} (h : s.runOf core d = some run)
    (hx : stookOf (s.huskBank core d) (coreDie core) = some (e, r)) : exec (.stookEncodeComplete core d) s =
    .next (((((s.encStored core d r run).bump .HSK_ENC_IN_COUNT (hskLen d) (coreDie core)).bump .HSK_ENC_OUT_COUNT run.bytes
      (coreDie core)).stookLast (coreDie core) e run.mb run.block).huskDone core d) := by
  change execStookEncodeComplete core d s = _
  unfold State.runOf at h
  simp only [execStookEncodeComplete, onUnit_present hok, h, hx]
  rfl

theorem exec_stookDecodeComplete_none (h : s.readOf core d = none) : exec (.stookDecodeComplete core d) s = .next s := by
  change execStookDecodeComplete core d s = _
  unfold State.readOf at h
  simp only [execStookDecodeComplete, onUnit_present hok, h]

section
variable {dropped : Bool} {e : StookEnt} {r : Region} (h : s.readOf core d = some (core, d, dropped))
  (hx : stookOf (s.huskBank core d) (coreDie core) = some (e, r))
include h hx

/-- The issuing core gets its signals, that of CTR_DROP first. -/
theorem exec_stookDecodeComplete_signals {l : Nat} (hl : (s.readEnded core d r).logCore core = some l) :
    exec (.stookDecodeComplete core d) s = .next
      ((if dropped then (s.readEnded core d r).sendSignal l e.ctrDrop 1 else s.readEnded core d r).sendSignal l e.ctrDone 1) := by
  change execStookDecodeComplete core d s = _
  unfold State.readOf at h
  unfold State.readEnded at hl
  simp only [execStookDecodeComplete, onUnit_present hok, h, hx, hl, State.readEnded]

theorem exec_stookDecodeComplete_silent (hl : (s.readEnded core d r).logCore core = none) :
    exec (.stookDecodeComplete core d) s = .next (s.readEnded core d r) := by
  change execStookDecodeComplete core d s = _
  unfold State.readOf at h
  unfold State.readEnded at hl
  simp only [execStookDecodeComplete, onUnit_present hok, h, hx, hl, State.readEnded]

end

end

/-! ### The line (R203, R210) -/

theorem exec_stookEncodeResume {s : State} {ld : Nat} (hok : s.dieOk ld = true) : exec (.stookEncodeResume ld) s =
    .next (if s.get .ESC_STATUS_FROZEN = 1 ∨ s.clk.stopped then s else s.lineRun ld (s.stk ld).line.length) := onUnit_present hok

theorem exec_stookEncodeResume_idle {s : State} {ld : Nat} (hok : s.dieOk ld = true)
    (h : s.get .ESC_STATUS_FROZEN = 1 ∨ s.clk.stopped = true ∨ (s.stk ld).line = []) : exec (.stookEncodeResume ld) s = .next s := by
  rw [exec_stookEncodeResume hok]
  obtain h | h | h := h
  · rw [if_pos (.inl h)]
  · rw [if_pos (.inr h)]
  · rw [h]
    exact congrArg Host.Outcome.next (ite_self s)

/-! ### The directory (R209) -/

/-- The stook emptied: the directory's bytes are 0, every chunk is free, and the counts are 0. -/
def State.stookWiped (s : State) (ld dir : Nat) : State :=
  let all := (List.range (s.get .HSK_STOOK_FREE ld + s.get .HSK_STOOK_USED ld)).map (· + 1)
  ((((({ s with mem := Mem.zero s.mem dir 0x100000 } : State).setStk ld { s.stk ld with
    dir := some dir, free := all, runs := [], reads := [], fwd := [], clearing := none }).set .HSK_STOOK_USED 0 ld).set .HSK_STATUS_STORED 0 ld).set
    .HSK_STATUS_DROPPED 0 ld).syncReserved ld

theorem State.stookWiped_spec (s : State) (ld dir : Nat) : (s.stookWiped ld dir).get .HSK_STOOK_USED ld = 0 ∧
    (s.stookWiped ld dir).get .HSK_STATUS_STORED ld = 0 ∧ (s.stookWiped ld dir).get .HSK_STATUS_DROPPED ld = 0 ∧
    (s.stookWiped ld dir).get .HSK_STOOK_RESERVED ld = 0 ∧ ((s.stookWiped ld dir).stk ld).clearing = none := by
  have stk : (s.stookWiped ld dir).stk ld = { s.stk ld with
      dir := some dir, free := (List.range (s.get .HSK_STOOK_FREE ld + s.get .HSK_STOOK_USED ld)).map (· + 1)
      runs := [], reads := [], fwd := [], clearing := none } := State.stk_setStk ..
  refine ⟨?_, ?_, ?_, State.syncReserved_none (congrArg StookSt.runs stk), congrArg StookSt.clearing stk⟩
  all_goals
    rw [State.stookWiped, State.syncReserved_get _ _ _ _ (by decide) (by decide)]
    simp

section
variable {s : State} {ld : Nat} (cause : Nat) (always : Bool)

theorem State.stookEmpty_none (h : (s.stk ld).dir = none) : s.stookEmpty ld cause always = s := by
  simp only [State.stookEmpty, h]

theorem State.stookEmpty_some {dir : Nat} (h : (s.stk ld).dir = some dir) : s.stookEmpty ld cause always =
    if always ∨ 0 < s.dirCount dir then
      (s.stookWiped ld dir).log' (srcLedger ld 1) 0xd102 1 [(1, ld), (4, s.dirCount dir), (1, cause)]
    else s.stookWiped ld dir := by
  simp only [State.stookEmpty, h]
  rfl

theorem State.stookEmpty_same : (s.stookEmpty ld cause always).ident = s.ident ∧ (s.stookEmpty ld cause always).cores = s.cores := by
  cases h : (s.stk ld).dir with
  | none =>
    rw [State.stookEmpty_none cause always h]
    exact ⟨rfl, rfl⟩
  | some dir =>
    rw [State.stookEmpty_some cause always h]
    split
    · exact ⟨State.log'_ident .., State.log'_cores ..⟩
    · exact ⟨rfl, rfl⟩

end

theorem exec_stookDirectoryCommit {s : State} {ld : Nat} (hok : s.dieOk ld = true) :
    exec (.stookDirectoryCommit ld) s = .next (s.stookCommit ld) := onUnit_present hok

/-- The directory of a new image, set up in the bytes of its region: every chunk free, and nothing reserved or used. -/
def State.dirSetUp (s : State) (ld dir : Nat) (key : List Byte) (n : Nat) : State :=
  ((s.setStk ld { StookSt.init with dir := some dir, key := key, free := (List.range (n / chunkBytes - 1)).map (· + 1) }).set .HSK_STOOK_USED
    0 ld).syncReserved ld

theorem State.dirSetUp_spec (s : State) (ld dir : Nat) (key : List Byte) (n : Nat) :
    (s.dirSetUp ld dir key n).stk ld = { StookSt.init with dir := some dir, key := key, free := (List.range (n / chunkBytes - 1)).map (· + 1) } ∧
    (s.dirSetUp ld dir key n).get .HSK_STOOK_RESERVED ld = 0 ∧ (s.dirSetUp ld dir key n).get .HSK_STOOK_USED ld = 0 := by
  have stk : (s.dirSetUp ld dir key n).stk ld =
      { StookSt.init with dir := some dir, key := key, free := (List.range (n / chunkBytes - 1)).map (· + 1) } := State.stk_setStk ..
  refine ⟨stk, State.syncReserved_none (congrArg StookSt.runs stk), ?_⟩
  rw [State.dirSetUp, State.syncReserved_get _ _ _ _ (by decide) (by decide), State.get_set_self]
  rfl

section
variable {s : State} {ld : Nat}

theorem State.stookCommit_keeps (h : KMap.has s.str.oldBank (unitLedger ld) = true ∨
    (stookKey (s.bank (unitLedger ld)) ld = (s.stk ld).key ∧ (s.stk ld).resetSince = false)) : s.stookCommit ld = s := by
  unfold State.stookCommit
  by_cases ho : KMap.has s.str.oldBank (unitLedger ld) = true
  · exact if_pos ho
  · obtain ⟨hk, hr⟩ := h.resolve_left ho
    exact (if_neg ho).trans (if_pos ⟨hk, by rw [hr]; rfl⟩)

/-- The directory's key has changed, or a reset has come between. -/
theorem State.stook_changed (hk : stookKey (s.bank (unitLedger ld)) ld ≠ (s.stk ld).key ∨ (s.stk ld).resetSince = true) :
    ¬(stookKey (s.bank (unitLedger ld)) ld = (s.stk ld).key ∧ (!(s.stk ld).resetSince) = true) := by
  obtain h | h := hk <;> simp [h]

variable (ho : KMap.has s.str.oldBank (unitLedger ld) = false)
  (hk : stookKey (s.bank (unitLedger ld)) ld ≠ (s.stk ld).key ∨ (s.stk ld).resetSince = true)
include ho hk

theorem State.stookCommit_removed (hx : stookOf (s.bank (unitLedger ld)) ld = none) : s.stookCommit ld =
    ((s.stookEmpty ld (if (s.stk ld).resetSince then 1 else 0) false).setStk ld { StookSt.init with key := [] }).syncReserved ld := by
  simp only [State.stookCommit, ho, if_neg (State.stook_changed hk), hx, Bool.false_eq_true, if_false]

/-- A new directory is set up over the old one emptied; only the event of a reset comes between. -/
theorem State.stookCommit_new {e : StookEnt} {r : Region} (hx : stookOf (s.bank (unitLedger ld)) ld = some (e, r)) :
    ∃ y : State, y.cores = s.cores ∧ s.stookCommit ld = y.dirSetUp ld (s.stookLoc r 0) (stookKey (s.bank (unitLedger ld)) ld) r.len := by
  obtain ⟨ident, cores⟩ := State.stookEmpty_same (s := s) (ld := ld) (if (s.stk ld).resetSince then 1 else 0) false
  have dir := State.stookLoc_ident ident r 0
  simp only [State.stookCommit, ho, if_neg (State.stook_changed hk), hx, dir, Bool.false_eq_true, if_false]
  refine ⟨_, ?_, rfl⟩
  rw [State.ite_log'_cores]
  exact cores

/-- A changed directory leaves no encode, line or decode, and every chunk of the new one free (R209). -/
theorem State.stookCommit_changed : ((s.stookCommit ld).stk ld).runs = [] ∧ ((s.stookCommit ld).stk ld).line = [] ∧
    ((s.stookCommit ld).stk ld).reads = [] ∧ ((s.stookCommit ld).stk ld).resetSince = false ∧
    (s.stookCommit ld).get .HSK_STOOK_RESERVED ld = 0 ∧ (s.stookCommit ld).cores = s.cores ∧
    (∀ e r, stookOf (s.bank (unitLedger ld)) ld = some (e, r) →
      ((s.stookCommit ld).stk ld).free = (List.range (r.len / chunkBytes - 1)).map (· + 1) ∧
      ((s.stookCommit ld).stk ld).dir = some (s.stookLoc r 0) ∧ (s.stookCommit ld).get .HSK_STOOK_USED ld = 0) := by
  cases hx : stookOf (s.bank (unitLedger ld)) ld with
  | none =>
    have stk : ((s.stookCommit ld).stk ld) = StookSt.init := by rw [State.stookCommit_removed ho hk hx]; exact State.stk_setStk ..
    rw [stk]
    refine ⟨rfl, rfl, rfl, rfl, ?_, ?_, fun e r h => nomatch h⟩
    · rw [State.stookCommit_removed ho hk hx, State.syncReserved_none]
      rw [State.stk_setStk]
      rfl
    · rw [State.stookCommit_removed ho hk hx]
      exact (State.stookEmpty_same ..).2
  | some x =>
    obtain ⟨e, r⟩ := x
    obtain ⟨y, cores, new⟩ := State.stookCommit_new ho hk hx
    obtain ⟨stk, reserved, used⟩ := State.dirSetUp_spec y ld (s.stookLoc r 0) (stookKey (s.bank (unitLedger ld)) ld) r.len
    rw [new, stk]
    refine ⟨rfl, rfl, rfl, rfl, reserved, cores, fun e' r' h => ?_⟩
    cases h
    exact ⟨rfl, rfl, used⟩

end

/-! ### HSK_CLEAR (R210) -/

/-- The husk descriptors that the cores of a ledger die's compute die hold. -/
def State.huskHeld (s : State) (ld : Nat) : List (Nat × Desc) :=
  (List.range 104).flatMap fun k => (s.heldOf (128 * ld + k) kHsk).map fun h => (128 * ld + k, h.d)

/-- Every descriptor of the list is held still. -/
theorem State.huskHeld_any {s : State} {ld : Nat} {e : Nat × Desc} (h : e ∈ s.huskHeld ld) :
    (s.heldOf e.1 kHsk).any (fun h => h.d == e.2) = true := by
  obtain ⟨k, -, hk⟩ := List.mem_flatMap.mp h
  obtain ⟨x, hx, rfl⟩ := List.mem_map.mp hk
  exact List.any_eq_true.mpr ⟨x, hx, beq_self_eq_true _⟩

/-- A clear is asked for: the line has ended, and the descriptors that the husk holds are noted. -/
def State.clearAsked (s : State) (ld : Nat) : State :=
  (s.setStk ld { s.stk ld with line := [], clearing := some (s.huskHeld ld) }).syncHusk ld

section
variable {s : State} {ld : Nat}

@[simp] theorem State.clearAsked_stk : (s.clearAsked ld).stk ld = { s.stk ld with line := [], clearing := some (s.huskHeld ld) } :=
  State.stk_setStk ..

theorem State.hskClear_emptyLine (hl : (s.stk ld).line = []) : s.hskClear ld = (s.clearAsked ld).clearDue ld := by
  simp only [State.hskClear, hl, List.foldl_nil, State.stk_setStk, State.setStk_setStk]
  rfl

/-- No husk descriptor is held: the stook is emptied at once. -/
theorem State.clearDue_now (h : s.huskHeld ld = []) : (s.clearAsked ld).clearDue ld = (s.clearAsked ld).stookEmpty ld 3 true := by
  simp only [State.clearDue, State.clearAsked_stk, h]
  rfl

/-- A husk descriptor is held: the clear waits for it. -/
theorem State.clearDue_waits (h : s.huskHeld ld ≠ []) : (s.clearAsked ld).clearDue ld = s.clearAsked ld := by
  obtain ⟨e, l, hl⟩ := List.exists_cons_of_ne_nil h
  have held : ((s.clearAsked ld).heldOf e.1 kHsk).any (fun h => h.d == e.2) = true :=
    State.huskHeld_any (s := s) (ld := ld) (by rw [hl]; exact List.mem_cons_self)
  simp only [State.clearDue, State.clearAsked_stk, hl, List.all_cons, held, Bool.not_true, Bool.false_and, Bool.false_eq_true, if_false]

/-- A clear that nothing holds up empties the directory and its counts, and changes no other byte of memory (R210). -/
theorem State.hskClear_now (hl : (s.stk ld).line = []) (hh : s.huskHeld ld = []) {dir : Nat} (hd : (s.stk ld).dir = some dir) :
    (s.hskClear ld).get .HSK_STOOK_USED ld = 0 ∧ (s.hskClear ld).get .HSK_STATUS_STORED ld = 0 ∧
    (s.hskClear ld).get .HSK_STATUS_DROPPED ld = 0 ∧ (s.hskClear ld).get .HSK_STOOK_RESERVED ld = 0 ∧
    ((s.hskClear ld).stk ld).clearing = none ∧ (s.hskClear ld).cores = s.cores ∧
    (s.hskClear ld).mem = Mem.zero s.mem dir 0x100000 := by
  have asked : ((s.clearAsked ld).stk ld).dir = some dir := by rw [State.clearAsked_stk]; exact hd
  obtain ⟨used, stored, dropped, reserved, clearing⟩ := State.stookWiped_spec (s.clearAsked ld) ld dir
  rw [State.hskClear_emptyLine hl, State.clearDue_now hh, State.stookEmpty_some 3 true asked, if_pos (Or.inl rfl)]
  simp only [State.log'_get_other _ _ 0xd102 _ _ _ _ _ (by decide), State.stk_log', State.log'_cores, State.log'_mem]
  exact ⟨used, stored, dropped, reserved, clearing, rfl, rfl⟩

theorem State.hskClear_waits (hl : (s.stk ld).line = []) (hh : s.huskHeld ld ≠ []) :
    ((s.hskClear ld).stk ld).clearing = some (s.huskHeld ld) ∧ (s.hskClear ld).mem = s.mem ∧ (s.hskClear ld).cores = s.cores := by
  rw [State.hskClear_emptyLine hl, State.clearDue_waits hh, State.clearAsked_stk]
  exact ⟨rfl, rfl, rfl⟩

end

theorem exec_hskClear {s : State} {ld : Nat} (hok : s.dieOk ld = true) : exec (.hskClear ld) s = .next (s.hskClear ld) := onUnit_present hok

/-! ### A descriptor that the unit takes -/

section
variable {s : State} {core : Nat} {d : Desc} (ht : s.unitTakes core kHsk d = true)
include ht

/-- What the husk does with a descriptor whether it encodes or decodes. -/
theorem exec_husk {t : State} (h : ∀ run, s.huskStart core d run = t) :
    (dbit d 0 32 = false → exec (.huskEncode core d) s = .next t) ∧ (dbit d 0 32 = true → exec (.huskDecode core d) s = .next t) :=
  ⟨fun he => (exec_huskEncode ht he).trans (congrArg _ (h _)), fun hd => (exec_huskDecode ht hd).trans (congrArg _ (h _))⟩

variable (hb : s.huskBusy core d = false) (hw : s.huskWaits core d = false) (hf : hskFault (s.huskBank core d) d = none)
include hb hw hf

theorem exec_huskEncode_ready (he : dbit d 0 32 = false) (ho : otherStook (s.huskBank core d) (coreDie core) (hskDst d) = false)
    (hr : s.range (huskAgent (coreDie core)) (s.huskBank core d) (hskSrc d) (hskLen d) = .ok)
    (hs : s.spansFree core kHsk d (huskAgent (coreDie core)) (s.huskBank core d) [(hskSrc d, hskLen d)] = true) :
    exec (.huskEncode core d) s = .next (s.encPut core d (s.huskBank core d)) := by
  rw [exec_huskEncode ht he, State.huskStart_encodes _ hb hw hf he ho, State.encSrc_ready _ hr hs]

theorem exec_huskDecode_ready (hd : dbit d 0 32 = true) (ho : otherStook (s.huskBank core d) (coreDie core) (hskSrc d) = false) :
    exec (.huskDecode core d) s = .next (s.decGet core d (s.huskBank core d)) := by
  rw [exec_huskDecode ht hd, State.huskStart_decodes _ hb hw hf hd ho]

end

/-- Settles O19: arrival, encodes, decodes, their ends, the line, the directory and the clear, each by the lemma of its case. -/
theorem huskKeepsTheStook : Obligations.HuskKeepsTheStook := by
  unfold Obligations.HuskKeepsTheStook
  refine ⟨fun s core d ht => ⟨fun hb => exec_husk ht fun run => State.huskStart_busy run hb,
      fun hb hw => exec_husk ht fun run => State.huskStart_waits run hb hw,
      fun hb hw => ⟨fun b hf => exec_husk ht fun run => State.huskStart_fault run hb hw hf, fun hf => ⟨fun he ho => ?_, fun hd ho => ?_,
        fun he ho hr hs hx hp hr' hs' => ?_, fun he ho hr hs e r hx hbase => ?_, fun hd ho => ⟨fun e r hx hbase => ⟨fun hbusy => ?_,
          fun hbusy => ?_⟩, fun hx => ?_⟩⟩⟩⟩,
    fun s core d hok => ⟨exec_huskEncode_decode hok, exec_huskDecode_encode hok⟩,
    fun s core d img r => ⟨State.decAddr_reads, State.decStook_missing, State.decStook_empty, State.decStook_length⟩,
    fun s ld mb block act => ⟨(State.stookAct_frame s ld mb block act).1, (State.stookAct_frame s ld mb block act).2, ?_, ?_⟩,
    fun s core d hok => ⟨exec_stookEncodeComplete_none hok, exec_stookDecodeComplete_none hok,
      fun run e r h hx => exec_stookEncodeComplete_run hok h hx,
      fun dropped e r h hx => ⟨fun l => exec_stookDecodeComplete_signals hok h hx, exec_stookDecodeComplete_silent hok h hx⟩⟩,
    fun s ld hok => ⟨exec_stookEncodeResume_idle hok, fun hz hs => ?_, fun h => ?_,
      fun ho hk => ⟨_, exec_stookDirectoryCommit hok, State.stookCommit_changed ho hk⟩⟩,
    fun s ld hok hl => ⟨fun hh dir hd => ?_, fun hh => ⟨_, exec_hskClear hok, State.hskClear_waits hl hh⟩⟩⟩
  · rw [exec_huskEncode ht he, State.huskStart_otherDst _ hb hw hf he ho]
  · rw [exec_huskDecode ht hd, State.huskStart_otherSrc _ hb hw hf hd ho]
  · rw [exec_huskEncode_ready ht hb hw hf he ho hr hs, State.encPut_addr hx, State.encAddr_writes hp hr' hs']
  · have put := exec_huskEncode_ready ht hb hw hf he ho hr hs
    refine ⟨fun hbusy => ?_, fun hbusy hslot => ?_, fun hbusy hslot => ⟨fun hline => ⟨_, put, ?_⟩, fun hline => ⟨fun t h => ?_,
      fun h => ⟨_, put, ?_⟩⟩⟩⟩
    · rw [put, State.encPut_busy hx hbase hbusy]
    · rw [put, State.encPut_stook hx hbase hbusy, State.encStook_used hslot]
    · rw [State.encPut_stook hx hbase hbusy, State.encStook_behind hslot hline]
    · rw [put, State.encPut_stook hx hbase hbusy, State.encStook_decided hslot hline h]
    · rw [State.encPut_stook hx hbase hbusy, State.encStook_stalls hslot hline h]
  · rw [exec_huskDecode_ready ht hb hw hf hd ho, State.decGet_busy hx hbase hbusy]
  · rw [exec_huskDecode_ready ht hb hw hf hd ho, State.decGet_stook hx hbase hbusy]
  · rw [exec_huskDecode_ready ht hb hw hf hd ho, State.decGet_addr hx]
  · rintro rfl
    exact State.stookAct_lossy s ld mb block
  · rintro rfl
    exact State.stookAct_drops s ld mb block
  · rw [exec_stookEncodeResume hok, if_neg (by simp [hz, hs])]
  · rw [exec_stookDirectoryCommit hok, State.stookCommit_keeps h]
  · obtain ⟨used, stored, dropped, reserved, clearing, cores, mem⟩ := State.hskClear_now hl hh hd
    refine ⟨_, exec_hskClear hok, used, stored, dropped, reserved, clearing, cores, fun hwf p => ?_⟩
    rw [mem, Mem.read_zero hwf]
    rfl

end Sys2Proof.Machine

/-! The beat: its edges, frames, heartbeats and delay exchanges, and the loss of the source or of a peer (O9). -/
namespace Sys2Proof.Machine

/-! ### The count at an edge (R58, R63) -/

@[simp] theorem State.coldTime_now (s : State) : s.coldTime.now = s.now := by
  unfold State.coldTime
  split <;> rfl

@[simp] theorem State.coldTime_edges (s : State) : s.coldTime.beat.edges = s.beat.edges + 1 := by
  unfold State.coldTime
  split <;> rfl

@[simp] theorem State.coldTime_started (s : State) : s.coldTime.beat.started = s.beat.started := by
  unfold State.coldTime
  split <;> rfl

@[simp] theorem State.coldTime_hold (s : State) : s.coldTime.beat.hold = s.beat.hold := by
  unfold State.coldTime
  split <;> rfl

@[simp] theorem State.coldTime_adopt (s : State) : s.coldTime.beat.adopt = s.beat.adopt := by
  unfold State.coldTime
  split <;> rfl

theorem State.now_set (s : State) (n : Nat) : (s.set .BEAT_NOW_COUNT n).now = n % 2 ^ 64 := State.get_set_self ..

section
variable {s : State}

theorem State.edgeCount_first (h : s.beat.started = false) :
    s.edgeCount = (s.set .BEAT_NOW_COUNT 0).mapBeat fun b => { b with started := true } := by
  unfold State.edgeCount
  rw [h]
  rfl

theorem State.edgeCount_holds {k : Nat} (hs : s.beat.started = true) (hk : s.beat.hold = some k) :
    s.edgeCount = s.mapBeat fun b => { b with hold := if k ≤ 1 then none else some (k - 1), slewing := decide (k ≤ 1) } := by
  unfold State.edgeCount
  rw [hs, hk]
  rfl

theorem State.edgeCount_adopts {n : Nat} (hs : s.beat.started = true) (hk : s.beat.hold = none) (ha : s.beat.adopt = some n) :
    s.edgeCount = (s.set .BEAT_NOW_COUNT (s.now + 1 + n)).mapBeat fun b => { b with adopt := none, slewing := true } := by
  unfold State.edgeCount
  rw [hs, hk, ha]
  rfl

theorem State.edgeCount_next (hs : s.beat.started = true) (hk : s.beat.hold = none) (ha : s.beat.adopt = none) :
    s.edgeCount = s.set .BEAT_NOW_COUNT (s.now + 1) := by
  unfold State.edgeCount
  rw [hs, hk, ha]
  rfl

end

theorem State.edgeCount_edges (s : State) : s.edgeCount.beat.edges = s.beat.edges := by
  cases hs : s.beat.started with
  | false => rw [State.edgeCount_first hs]; rfl
  | true =>
    cases hk : s.beat.hold with
    | some k => rw [State.edgeCount_holds hs hk]; rfl
    | none =>
      cases ha : s.beat.adopt with
      | some n => rw [State.edgeCount_adopts hs hk ha]; rfl
      | none => rw [State.edgeCount_next hs hk ha]; rfl

/-- What an edge makes of the count, by what the follower does about its master's. -/
theorem State.edge_count (s : State) : let x := s.coldTime.edgeCount
    x.beat.edges = s.beat.edges + 1 ∧
    (s.beat.started = false → x.now = 0 ∧ x.beat.started = true) ∧
    (s.beat.started = true → s.beat.hold = none → s.beat.adopt = none → x.now = (s.now + 1) % 2 ^ 64) ∧
    (∀ k, s.beat.started = true → s.beat.hold = some k → x.now = s.now) ∧
    (∀ n, s.beat.started = true → s.beat.hold = none → s.beat.adopt = some n → x.now = (s.now + 1 + n) % 2 ^ 64) := by
  refine ⟨?_, fun hs => ?_, fun hs hk ha => ?_, fun k hs hk => ?_, fun n hs hk ha => ?_⟩
  · rw [State.edgeCount_edges, State.coldTime_edges]
  · rw [State.edgeCount_first (by rw [State.coldTime_started, hs])]
    exact ⟨State.now_set _ 0, rfl⟩
  · rw [State.edgeCount_next (by simpa using hs) (by simpa using hk) (by simpa using ha), State.now_set, State.coldTime_now]
  · rw [State.edgeCount_holds (by simpa using hs) ((State.coldTime_hold s).trans hk)]
    exact State.coldTime_now s
  · rw [State.edgeCount_adopts (by simpa using hs) (by simpa using hk) ((State.coldTime_adopt s).trans ha), State.coldTime_now]
    exact State.now_set _ _

theorem exec_beatEdge_unlocked {s : State} (l : List Nat) (h : s.get .RST_STATUS_STAGE = 0) : exec (.beatEdge l) s = .next s :=
  congrArg Host.Outcome.next (if_pos h)

theorem exec_beatEdge_locked {s : State} (l : List Nat) (h : s.get .RST_STATUS_STAGE ≠ 0) : let x := s.coldTime.edgeCount
    exec (.beatEdge l) s =
      .next (((x.set .BEAT_PHASE_CYCLES 0).set .BEAT_WALL_WALL (x.wallAt x.now)).edgeSlew.edgeActions s.now l) :=
  congrArg Host.Outcome.next (if_neg h)

/-! ### Beat frames and heartbeats out (R60) -/

theorem exec_beatFrameSend_off {s : State} (h : s.now % 16 ≠ 0) : exec .beatFrameSend s = .next s :=
  congrArg Host.Outcome.next (if_pos h)

/-- A master that stays one, and whose count is still a multiple of 16 after it adopts the largest reported, sends its frame to every peer. -/
theorem exec_beatFrameSend_master {s : State} (h : s.now % 16 = 0) (hm : s.beatPromote.get .BEAT_STATUS_STATE = 4)
    (hd : s.beatPromote.beat.demote = false) (ha : s.beatPromote.beatAdopt.now % 16 = 0) : let x := s.beatPromote.beatAdopt
    exec .beatFrameSend s = .next (x.tc0All (x.peers.map (·.dev))
      (.beatFrame x.now x.ownId (x.get .BEAT_STATUS_RANK) x.period x.announced (x.wallAt x.now) x.imageOn)) :=
  congrArg Host.Outcome.next ((if_neg (not_not_intro h)).trans ((if_neg (not_not_intro hm)).trans
    ((if_neg (Bool.eq_false_iff.mp hd)).trans (if_neg (not_not_intro ha)))))

theorem exec_heartbeatSend_due {s : State} (h : s.now % 8 = 0) :
    exec .heartbeatSend s = .next (s.tc0All (s.peers.map (·.dev)) (.heartbeat s.ownId)) :=
  congrArg Host.Outcome.next (if_pos h)

theorem exec_heartbeatSend_off {s : State} (h : s.now % 8 ≠ 0) : exec .heartbeatSend s = .next s :=
  congrArg Host.Outcome.next (if_neg h)

/-! ### Beat frames and heartbeats in (R55, R60, R65) -/

/-- The arrival of a beat frame: its latency is checked, and the loss count of its sender restarts. -/
def State.frameIn (s : State) (dev lat : Nat) : State := (s.tc0In dev 0 lat).hear dev

section
variable {s : State} {dev port lat : Nat} (rank count period wall : Nat) (ann : Option (Nat × Nat)) (img : Bool) (o : Int)

theorem exec_beatFrameReceive_standalone (h : (s.frameIn dev lat).beatSource = 0) :
    exec (.beatFrameReceive ⟨dev, port⟩ rank count period ann wall img o lat) s = .next (s.frameIn dev lat) :=
  congrArg Host.Outcome.next (if_pos h)

variable (h : (s.frameIn dev lat).beatSource ≠ 0) (hm : (s.frameIn dev lat).get .BEAT_STATUS_STATE ≠ 4)
include h hm

theorem exec_beatFrameReceive_heeded (hh : (s.frameIn dev lat).heeds dev rank = true) :
    exec (.beatFrameReceive ⟨dev, port⟩ rank count period ann wall img o lat) s =
      .next ((s.frameIn dev lat).follow dev rank count period ann wall img ((s.frameIn dev lat).compensate port o)) :=
  congrArg Host.Outcome.next ((if_neg h).trans ((if_neg hm).trans (if_pos hh)))

theorem exec_beatFrameReceive_unheeded (hh : (s.frameIn dev lat).heeds dev rank = false) :
    exec (.beatFrameReceive ⟨dev, port⟩ rank count period ann wall img o lat) s = .next ((s.frameIn dev lat).heardWall count wall) :=
  congrArg Host.Outcome.next ((if_neg h).trans ((if_neg hm).trans (if_neg (Bool.eq_false_iff.mp hh))))

end

/-- The loss count of a peer that is not lost runs from the edge at which it is heard. -/
theorem State.hear_peer {s : State} {dev : Nat} (hp : s.peers.any (·.dev == dev) = true) (hl : s.beat.lostPeers.contains dev = false) :
    s.hear dev = s.mapBeat fun b => { b with heard := KMap.set b.heard dev (s.now, b.edges) } :=
  if_pos ⟨hp, by rw [hl]; rfl⟩

theorem State.hear_peer_spec {s : State} {dev : Nat} (hp : s.peers.any (·.dev == dev) = true)
    (hl : s.beat.lostPeers.contains dev = false) :
    (s.hear dev).heardAt dev = s.beat.edges ∧ (s.hear dev).flds = s.flds ∧ (s.hear dev).mem = s.mem := by
  rw [State.hear_peer hp hl]
  exact ⟨congrArg Prod.snd (KMap.get_set_self ..), rfl, rfl⟩

/-! ### The delay of a link (R61) -/

theorem exec_delayRequestSend_due {s : State} {dev port : Nat} (t1 : Nat) (hm : s.beat.master = some dev)
    (h4 : s.get .BEAT_STATUS_STATE ≠ 4) (hp : port ∈ s.portsTo dev) (hd : s.delayDue port = true) :
    exec (.delayRequestSend ⟨dev, port⟩ t1) s = .next ((s.mapBeat fun b => { b with delayAt := KMap.set b.delayAt port b.edges }).tc0At port
      dev (.delayReq s.ownId s.now t1)) :=
  congrArg Host.Outcome.next (if_pos ⟨hm, h4, List.contains_iff_mem.mpr hp, hd⟩)

theorem exec_delayRequestSend_not {s : State} {dev port : Nat} (t1 : Nat)
    (h : s.beat.master ≠ some dev ∨ s.delayDue port = false ∨ port ∉ s.portsTo dev) :
    exec (.delayRequestSend ⟨dev, port⟩ t1) s = .next s := by
  refine congrArg Host.Outcome.next (if_neg fun ⟨hm, _, hp, hd⟩ => ?_)
  obtain h | h | h := h
  · exact h hm
  · exact Bool.eq_false_iff.mp h hd
  · exact h (List.contains_iff_mem.mp hp)

/-- A master answers a request and keeps the count that it reports, with its own count at the arrival. -/
theorem exec_delayRequestReceive_master {s : State} {dev lat : Nat} (count t1 t2 t3 : Nat)
    (h : (s.tc0In dev 2 lat).get .BEAT_STATUS_STATE = 4) : let x := s.tc0In dev 2 lat
    exec (.delayRequestReceive dev count t1 t2 t3 lat) s = .next ((x.tc0 dev (.delayResp x.ownId t1 t2 t3)).mapBeat fun b =>
      { b with reports := b.reports ++ [⟨dev, count, x.now⟩] }) :=
  congrArg Host.Outcome.next (if_pos h)

/-- The delay that a response gives its link: half of the round trip less the time that the master took to answer. -/
theorem exec_delayResponseReceive (s : State) (dev port t1 t2 t3 t4 lat : Nat) :
    ∃ t, exec (.delayResponseReceive ⟨dev, port⟩ t1 t2 t3 t4 lat) s = .next t ∧
      KMap.get t.beat.delay port 0 = (((t4 : Int) - t1) - ((t3 : Int) - t2)) / 2 :=
  ⟨_, rfl, KMap.get_set_self ..⟩

/-! ### The loss of the source and of a peer (R64, R65) -/

theorem State.abortDue_not {s : State} (h : ¬(s.get .STR_STATUS_STATE = 3 ∧ s.str.aborted = true ∧ s.str.cutDone = false)) :
    s.abortDue = s :=
  if_neg fun ⟨hs, ha, hc⟩ => h ⟨hs, ha, by simpa using hc⟩

theorem State.sourceLost_heard {s : State} (h : s.beat.edges < s.beat.lastOwn + 64) : s.sourceLost = s := by
  unfold State.sourceLost
  split
  · exact if_neg fun hs => Nat.not_le.mpr h hs.2
  · rfl

/-- The state in which the source is lost: the master among the lost candidates, and the count neither held nor moved. -/
def State.lostSource (s : State) (m : Nat) : State :=
  let x := (s.set .BEAT_STATUS_STATE 3).log' s.beatSrc 0x1102 1 [(2, m), (8, s.beat.lastBeat)]
  x.mapBeat fun b => { b with
    lostCands := m :: b.lostCands.filter (· != m), since := x.now, hold := none, adopt := none, slewing := false }

theorem State.lostSource_get (s : State) (m : Nat) (f : Field) : (s.lostSource m).get f = (s.set .BEAT_STATUS_STATE 3).get f :=
  State.log'_get_other _ _ _ _ _ _ _ _ (by decide)

theorem State.lostSource_str (s : State) (m : Nat) : (s.lostSource m).str = s.str := State.log'_str ..
theorem State.lostSource_mem (s : State) (m : Nat) : (s.lostSource m).mem = s.mem := State.log'_mem ..

/-- A source that was silent for 64 edges, where no commit is before its cutoff. -/
theorem State.sourceLost_silent {s : State} {m : Nat} (hm : s.beat.master = some m) (hst : s.get .BEAT_STATUS_STATE ∈ [1, 2])
    (he : s.beat.lastOwn + 64 ≤ s.beat.edges) (hc : ¬(s.get .STR_STATUS_STATE = 3 ∧ s.str.cutDone = false)) :
    s.sourceLost = s.lostSource m := by
  have commit : ¬((s.lostSource m).get .STR_STATUS_STATE = 3 ∧ (!(s.lostSource m).str.cutDone) = true) := by
    rw [State.lostSource_get, State.get_set_ne _ _ _ _ _ _ _ _ (.inl (by decide)), State.lostSource_str, Bool.not_eq_true']
    exact hc
  unfold State.sourceLost
  rw [hm]
  exact (if_pos ⟨by simpa using hst, he⟩).trans (if_neg commit)

theorem exec_beatSourceLost_silent {s : State} {m : Nat} (hm : s.beat.master = some m) (hst : s.get .BEAT_STATUS_STATE ∈ [1, 2])
    (he : s.beat.lastOwn + 64 ≤ s.beat.edges) (hc : ¬(s.get .STR_STATUS_STATE = 3 ∧ s.str.cutDone = false)) :
    exec .beatSourceLost s = .next (s.lostSource m) := by
  refine congrArg Host.Outcome.next ?_
  rw [State.sourceLost_silent hm hst he hc, State.abortDue_not]
  rw [State.lostSource_get, State.get_set_ne _ _ _ _ _ _ _ _ (.inl (by decide)), State.lostSource_str]
  exact fun ⟨hs, _, hd⟩ => hc ⟨hs, hd⟩

theorem exec_beatSourceLost_heard {s : State} (h : s.beat.edges < s.beat.lastOwn + 64)
    (hc : ¬(s.get .STR_STATUS_STATE = 3 ∧ s.str.aborted = true ∧ s.str.cutDone = false)) : exec .beatSourceLost s = .next s := by
  refine congrArg Host.Outcome.next ?_
  rw [State.sourceLost_heard h, State.abortDue_not hc]

theorem exec_peerLost_heard {s : State} {dev : Nat} (h : s.beat.edges < s.heardAt dev + 64) : exec (.peerLost dev) s = .next s :=
  congrArg Host.Outcome.next (if_neg fun ⟨_, he, _⟩ => Nat.not_le.mpr h he)

theorem exec_peerLost_silent {s : State} {dev : Nat} (hp : s.peers.any (·.dev == dev) = true) (he : s.heardAt dev + 64 ≤ s.beat.edges)
    (hl : s.beat.lostPeers.contains dev = false) :
    exec (.peerLost dev) s = .next ((s.peerLost dev 0).mapBeat fun b => { b with since := s.now }) :=
  congrArg Host.Outcome.next (if_pos ⟨hp, he, by rw [hl]; rfl⟩)

/-- Settles O9: each edge, frame, heartbeat, delay exchange and loss by its equation in the state that it meets. -/
theorem beatEdgesAndFramesDriveTheCount : Obligations.BeatEdgesAndFramesDriveTheCount := by
  unfold Obligations.BeatEdgesAndFramesDriveTheCount
  refine ⟨fun s l h => exec_beatEdge_unlocked l h, fun s l h => ⟨exec_beatEdge_locked l h, s.edge_count⟩,
    fun s h => exec_beatFrameSend_off h, fun s h hm hd ha => exec_beatFrameSend_master h hm hd ha,
    fun s h => exec_heartbeatSend_due h, fun s h => exec_heartbeatSend_off h,
    fun s dev port rank count period wall lat ann img o h => exec_beatFrameReceive_standalone _ _ _ _ _ _ _ h,
    fun s dev port rank count period wall lat ann img o h hm hh => exec_beatFrameReceive_heeded _ _ _ _ _ _ _ h hm hh,
    fun s dev port rank count period wall lat ann img o h hm hh => exec_beatFrameReceive_unheeded _ _ _ _ _ _ _ h hm hh,
    fun s dev lat hp hl => ⟨_, rfl, State.hear_peer_spec hp hl⟩,
    fun s dev port t1 hm h4 hp hd => exec_delayRequestSend_due t1 hm h4 hp hd,
    fun s dev port t1 h => exec_delayRequestSend_not t1 h,
    fun s dev count t1 t2 t3 lat h => exec_delayRequestReceive_master count t1 t2 t3 h,
    exec_delayResponseReceive, fun s m hm hst he hc => ⟨_, exec_beatSourceLost_silent hm hst he hc, ?_, List.mem_cons_self, ?_⟩,
    fun s h hc => exec_beatSourceLost_heard h hc, fun s dev h => exec_peerLost_heard h,
    fun s dev hp he hl => exec_peerLost_silent hp he hl⟩
  · rw [State.lostSource_get, State.get_set_self]
    rfl
  · exact s.lostSource_mem m

end Sys2Proof.Machine

/-! Wait-beats, signals and fences: how they stop issue, what they wait for, and what lets issue go on (O11). -/
namespace Sys2Proof.Machine

/-! ### The state of a core and of its issue (R165) -/

@[simp] theorem State.core_setCore (s : State) (c : Nat) (x : CoreSt) : (s.setCore c x).core c = x := KMap.get_set_self ..

@[simp] theorem State.core_setWait (s : State) (core : Nat) (w : Wait) : (s.setWait core w).core core = { s.core core with wait := w } :=
  KMap.get_set_self ..

@[simp] theorem State.setWait_mem (s : State) (core : Nat) (w : Wait) : (s.setWait core w).mem = s.mem := rfl

theorem State.setWait_get (s : State) (core : Nat) (w : Wait) {f : Field} (u i : Nat) (h : f ≠ .TDY_STATUS_STATE) :
    (s.setWait core w).get f u i = s.get f u i := State.get_set_ne _ _ _ _ _ _ _ _ (.inl h)

theorem State.setWait_runs (s : State) (core : Nat) : (s.setWait core .none).get .TDY_STATUS_STATE core = 1 := State.get_set_self ..

theorem State.setWait_stops (s : State) (core : Nat) {w : Wait} (h : w ≠ .none) : (s.setWait core w).get .TDY_STATUS_STATE core = 2 := by
  cases w with
  | none => exact absurd rfl h
  | beat o b p t => exact State.get_set_self ..
  | fence q m u c v t b => exact State.get_set_self ..
  | switch => exact State.get_set_self ..

/-! ### Descriptors that the tidy core executes itself (R143) -/

/-- What a row of a descriptor of the tidy core's own does: nothing while issue is stopped, a refusal, or its work. -/
def State.ownDesc (s : State) (core : Nat) (d : Desc) (work : State → State) : Res :=
  s.onCore core fun s => if (s.core core).wait != .none then s else if !s.tdyAdmits d then s.tdyRefuse core noQid d else work s

theorem exec_waitBeat (s : State) (core : Nat) (d : Desc) : exec (.waitBeat core d) s = s.ownDesc core d (·.waitBeat core d) := rfl
theorem exec_signal (s : State) (core : Nat) (d : Desc) : exec (.signal core d) s = s.ownDesc core d (·.signal core d) := rfl
theorem exec_fence (s : State) (core : Nat) (d : Desc) : exec (.fence core d) s = s.ownDesc core d (·.fence core d) := rfl

section
variable {s : State} {core : Nat} {d : Desc} (work : State → State) (hok : s.coreOk core = true) (hw : (s.core core).wait = .none)
include hok hw

theorem State.ownDesc_running : s.ownDesc core d work = .next (if !s.tdyAdmits d then s.tdyRefuse core noQid d else work s) :=
  (onUnit_present hok).trans (congrArg Host.Outcome.next (if_neg (by simp [hw])))

theorem State.ownDesc_admitted (ha : s.tdyAdmits d = true) : s.ownDesc core d work = .next (work s) := by
  rw [State.ownDesc_running work hok hw, if_neg (by simp [ha])]

theorem State.ownDesc_refused (ha : s.tdyAdmits d = false) : s.ownDesc core d work = .next (s.tdyRefuse core noQid d) := by
  rw [State.ownDesc_running work hok hw, if_pos (by simp [ha])]

end

/-! ### Wait-beats (R151, R154) -/

theorem State.waitBeat_due {s : State} {core : Nat} {d : Desc} (ho : dbit d 0 32 = false)
    (hd : s.waitDue core false (dbits d 1 63 0) (dbits d 2 17 0) (s.get .BEAT_PHASE_CYCLES) = true) :
    s.waitBeat core d = s.setWait core .none := by
  unfold State.waitBeat
  rw [ho]
  exact if_pos hd

theorem State.waitBeat_early {s : State} {core : Nat} {d : Desc}
    (hd : s.waitDue core (dbit d 0 32) (dbits d 1 63 0) (dbits d 2 17 0) (s.get .BEAT_PHASE_CYCLES) = false) :
    s.waitBeat core d = s.setWait core (.beat (dbit d 0 32) (dbits d 1 63 0) (dbits d 2 17 0) (dbits d 2 63 32)) :=
  if_neg (Bool.eq_false_iff.mp hd)

theorem State.waitRelease_due {s : State} {core cyc b phase step : Nat} (hw : (s.core core).wait = .beat false b phase step)
    (hd : s.waitDue core false b phase cyc = true) : s.waitRelease core cyc = s.setWait core .none := by
  unfold State.waitRelease
  rw [hw]
  exact if_pos hd

theorem State.waitRelease_early {s : State} {core cyc b phase step : Nat} {o : Bool} (hw : (s.core core).wait = .beat o b phase step)
    (hd : s.waitDue core o b phase cyc = false) : s.waitRelease core cyc = s := by
  unfold State.waitRelease
  rw [hw]
  exact if_neg (Bool.eq_false_iff.mp hd)

/-- The cycles that have passed since the last edge, of which a release says that they are at least so many. -/
def State.phaseAt (s : State) (phase : Nat) : State := s.set .BEAT_PHASE_CYCLES (max phase (s.get .BEAT_PHASE_CYCLES))

section
variable {s : State} {core phase b ph step : Nat} (hok : s.coreOk core = true)
include hok

theorem exec_waitBeatRelease : exec (.waitBeatRelease core phase) s =
    .next ((s.phaseAt phase).waitRelease core (max phase (s.get .BEAT_PHASE_CYCLES))) := onUnit_present hok

theorem exec_waitBeatRelease_due (hw : (s.core core).wait = .beat false b ph step)
    (hd : (s.phaseAt phase).waitDue core false b ph (max phase (s.get .BEAT_PHASE_CYCLES)) = true) :
    exec (.waitBeatRelease core phase) s = .next ((s.phaseAt phase).setWait core .none) :=
  (exec_waitBeatRelease hok).trans (congrArg Host.Outcome.next (State.waitRelease_due (s := s.phaseAt phase) hw hd))

theorem exec_waitBeatRelease_early {o : Bool} (hw : (s.core core).wait = .beat o b ph step)
    (hd : (s.phaseAt phase).waitDue core o b ph (max phase (s.get .BEAT_PHASE_CYCLES)) = false) :
    exec (.waitBeatRelease core phase) s = .next (s.phaseAt phase) :=
  (exec_waitBeatRelease hok).trans (congrArg Host.Outcome.next (State.waitRelease_early (s := s.phaseAt phase) hw hd))

end

/-! ### Signals (R153) -/

/-- A signal that its drain has let go: it is no longer pending, and it counts as done. -/
def State.sigSent (s : State) (core : Nat) (rest : List PendSig) : State :=
  s.setCore core { s.core core with sigs := rest, done := KMap.set (s.core core).done kSig (KMap.get (s.core core).done kSig 0 + 1) }

theorem State.sendSignal_free {s : State} (lcore ctr inc : Nat) (h : s.sealHeld = false) :
    s.sendSignal lcore ctr inc = s.emit (.pkg (.signal lcore ctr inc)) := if_neg (Bool.eq_false_iff.mp h)

theorem exec_signalSend_ready {s : State} {core : Nat} {g : PendSig} {rest : List PendSig} (hok : s.coreOk core = true)
    (hr : s.sigReady core = some (g, rest)) (hs : s.sealHeld = false) :
    exec (.signalSend core) s = .next ((s.sigSent core rest).emit (.pkg (.signal g.target g.ctr g.inc))) := by
  refine (onUnit_present hok).trans (congrArg Host.Outcome.next ?_)
  beta_reduce
  rw [hr]
  exact State.sendSignal_free _ _ _ hs

theorem exec_signalDeliver {s : State} {core : Nat} (ctr inc : Nat) (h : s.coreOk core = true) :
    exec (.signalDeliver core ctr inc) s = .next (s.deliver core (ctr % 64) inc) := onUnit_present h

theorem State.deliver_get (s : State) (core ctr inc : Nat) :
    (s.deliver core ctr inc).get .TDY_SIG_COUNT core ctr = (s.get .TDY_SIG_COUNT core ctr + inc) % 2 ^ 32 := State.get_set_self ..

theorem State.deliver_get_ne (s : State) {core ctr : Nat} (inc : Nat) {f : Field} {u i : Nat}
    (h : f ≠ .TDY_SIG_COUNT ∨ u ≠ core ∨ i ≠ ctr) : (s.deliver core ctr inc).get f u i = s.get f u i := State.get_set_ne _ _ _ _ _ _ _ _ h

/-! ### Fences (R153, R155, R166) -/

/-- A fence takes its sequence number before its conditions are looked at. -/
def State.fenceTaken (s : State) (core : Nat) : State := s.setCore core { s.core core with seq := (s.core core).seq + 1 }

theorem State.fence_met {s : State} {core : Nat} {d : Desc} (h : (s.fenceTaken core).fenceMet core (s.core core).seq (dbits d 1 9 0)
    (dbit d 1 22) (dbits d 1 21 16) (dbits d 2 31 0) = true) : s.fence core d = s.fenceTaken core := if_pos h

theorem State.fence_unmet {s : State} {core : Nat} {d : Desc} (h : (s.fenceTaken core).fenceMet core (s.core core).seq (dbits d 1 9 0)
    (dbit d 1 22) (dbits d 1 21 16) (dbits d 2 31 0) = false) : s.fence core d = (s.fenceTaken core).setWait core
      (.fence (s.core core).seq (dbits d 1 9 0) (dbit d 1 22) (dbits d 1 21 16) (dbits d 2 31 0) (dbits d 2 63 32) s.now) :=
  if_neg (Bool.eq_false_iff.mp h)

@[simp] theorem State.countDrop_mem (s : State) (core pkt : Nat) : (s.countDrop core pkt).mem = s.mem := rfl

@[simp] theorem State.countDrop_wait (s : State) (core pkt : Nat) : ((s.countDrop core pkt).core core).wait = (s.core core).wait := by
  unfold State.countDrop
  rw [State.core_setCore]
  rfl

@[simp] theorem State.countDrop_dropped (s : State) (core pkt : Nat) :
    (s.countDrop core pkt).get .TDY_STATUS_DROPPED core = (s.get .TDY_STATUS_DROPPED core + 1) % 2 ^ 16 := State.get_set_self ..

/-- The state in which a fence has timed out: logged, no longer waited for, and its packet counted as discarded. -/
def State.fenceExpired (s : State) (core ctr value : Nat) : State :=
  let x := s.log' (srcCore core) 0x8021 2 [(2, core), (1, ctr), (4, value), (4, s.get .TDY_SIG_COUNT core ctr)]
  (x.setWait core .none).countDrop core (x.core core).pkt

/-- The rest of a packet whose fence timed out is discarded as it comes. -/
def State.fenceDrops (s : State) (core : Nat) : State :=
  if (s.core core).inPacket && (s.core core).dropping.isNone then
    s.setCore core { s.core core with dropping := some ⟨false, 13, noQid, (s.core core).packetMb, 0⟩ }
  else s

theorem State.fenceExpired_spec (s : State) (core ctr value : Nat) : let t := s.fenceExpired core ctr value
    (t.core core).wait = .none ∧ t.mem = s.mem ∧ t.get .TDY_STATUS_DROPPED core = (s.get .TDY_STATUS_DROPPED core + 1) % 2 ^ 16 := by
  unfold State.fenceExpired
  refine ⟨?_, ?_, ?_⟩
  · rw [State.countDrop_wait, State.core_setWait]
  · rw [State.countDrop_mem, State.setWait_mem, State.log'_mem]
  · rw [State.countDrop_dropped, State.setWait_get _ _ _ _ _ (by decide), State.log'_get_other _ _ _ _ _ _ _ _ (by decide)]

theorem State.fenceDrops_same (s : State) (core : Nat) : let t := s.fenceDrops core
    (t.core core).wait = (s.core core).wait ∧ t.mem = s.mem ∧ ∀ f u i, t.get f u i = s.get f u i := by
  unfold State.fenceDrops
  split
  · exact ⟨by rw [State.core_setCore], rfl, fun _ _ _ => rfl⟩
  · exact ⟨rfl, rfl, fun _ _ _ => rfl⟩

theorem State.fenceRelease_fence {s : State} {core seq drain ctr value tmo start : Nat} {u : Bool}
    (hw : (s.core core).wait = .fence seq drain u ctr value tmo start) :
    s.fenceRelease core = if s.fenceMet core seq drain u ctr value then s.setWait core .none else s := by
  unfold State.fenceRelease
  rw [hw]

section
variable {s : State} {core seq drain ctr value tmo start : Nat} {u : Bool} (hok : s.coreOk core = true)
  (hw : (s.core core).wait = .fence seq drain u ctr value tmo start)
include hok hw

theorem exec_fenceRelease_waiting : exec (.fenceRelease core) s =
    .next (if s.fenceMet core seq drain u ctr value then s.setWait core .none else s) :=
  (onUnit_present hok).trans (congrArg Host.Outcome.next (State.fenceRelease_fence hw))

theorem exec_fenceTimeout_expired (ht : tmo ≠ 0) (hn : start + tmo ≤ s.now) (hm : s.fenceMet core seq drain u ctr value = false) :
    exec (.fenceTimeout core) s = .next ((s.fenceExpired core ctr value).fenceDrops core) := by
  refine (onUnit_present hok).trans (congrArg Host.Outcome.next ?_)
  beta_reduce
  rw [hw]
  exact if_pos ⟨ht, hn, by rw [hm]; rfl⟩

end

/-- Settles O11: each wait-beat, signal and fence by its equation where its conditions hold and where they do not. -/
theorem waitsSignalsAndFencesGateIssue : Obligations.WaitsSignalsAndFencesGateIssue := by
  unfold Obligations.WaitsSignalsAndFencesGateIssue
  refine ⟨fun s core d hok hw ha ho hd => ?_, fun s core d hok hw ha hd => ?_, fun s core d hok hw ha => ?_,
    fun s core phase b ph step hok hw hd => ⟨_, exec_waitBeatRelease_due hok hw hd, ?_, State.setWait_runs ..⟩,
    fun s core phase b ph step o hok hw hd => exec_waitBeatRelease_early hok hw hd, fun s core d hok hw ha => ?_,
    fun s core g rest hok hr hs => ⟨_, exec_signalSend_ready hok hr hs, ?_, ?_, rfl⟩,
    fun s core ctr inc hok => ⟨_, exec_signalDeliver ctr inc hok, s.deliver_get core _ inc, rfl, rfl,
      fun f u i h => s.deliver_get_ne inc h⟩,
    fun s core d hok hw ha => ?_, fun s core seq drain ctr value tmo start u hok hw => ⟨fun hm => ?_, fun hm => ?_⟩,
    fun s core seq drain ctr value tmo start u hok hw ht hn hm => ⟨_, exec_fenceTimeout_expired hok hw ht hn hm, ?_⟩⟩
  · rw [exec_waitBeat, State.ownDesc_admitted _ hok hw ha, State.waitBeat_due ho hd]
  · rw [exec_waitBeat, State.ownDesc_admitted _ hok hw ha, State.waitBeat_early hd]
    exact ⟨_, rfl, by rw [State.core_setWait], State.setWait_stops _ _ (by simp), rfl⟩
  · rw [exec_waitBeat, exec_signal, exec_fence]
    exact ⟨State.ownDesc_refused _ hok hw ha, State.ownDesc_refused _ hok hw ha, State.ownDesc_refused _ hok hw ha⟩
  · rw [State.core_setWait]
  · rw [exec_signal, State.ownDesc_admitted _ hok hw ha]
    unfold State.signal
    exact ⟨_, rfl, by rw [State.core_setCore], by rw [State.core_setCore]; exact hw, rfl, by rw [State.core_setCore]⟩
  · exact congrArg CoreSt.sigs (State.core_setCore ..)
  · exact (congrArg (fun c : CoreSt => KMap.get c.done kSig 0) (State.core_setCore ..)).trans (KMap.get_set_self ..)
  · rw [exec_fence, State.ownDesc_admitted _ hok hw ha]
    exact ⟨fun h => congrArg Host.Outcome.next (State.fence_met h), fun h => congrArg Host.Outcome.next (State.fence_unmet h)⟩
  · rw [exec_fenceRelease_waiting hok hw, if_pos hm]
  · rw [exec_fenceRelease_waiting hok hw, if_neg (Bool.eq_false_iff.mp hm)]
  · obtain ⟨wait, mem, dropped⟩ := s.fenceExpired_spec core ctr value
    obtain ⟨wait', mem', get'⟩ := (s.fenceExpired core ctr value).fenceDrops_same core
    exact ⟨wait'.trans wait, mem'.trans mem, (get' ..).trans dropped⟩

end Sys2Proof.Machine

/-! The vector engine: its rows of operations and the convert, how a descriptor starts, and what a run writes (O13). -/
namespace Sys2Proof.Machine

/-! ### The rows of the operation codes (R147) -/

/-- The vector operations with their OP codes. -/
def vecRows : List ((Nat → Desc → Instr) × Nat) :=
  [(Instr.vecAdd, 0x01), (.vecSub, 0x02), (.vecMul, 0x03), (.vecAxpb, 0x04), (.vecMax, 0x05), (.vecMin, 0x06), (.vecExp, 0x07),
    (.vecLog, 0x08), (.vecRsqrt, 0x09), (.vecRecip, 0x0a), (.vecTanh, 0x0b), (.vecSigmoid, 0x0c), (.vecRowsum, 0x10), (.vecRowmax, 0x11),
    (.vecRowsq, 0x12)]

theorem exec_vecRow {c : (Nat → Desc → Instr) × Nat} (hc : c ∈ vecRows) (s : State) (core : Nat) (d : Desc) :
    exec (c.1 core d) s = s.vecOpRow core d c.2 := by
  simp only [vecRows, List.mem_cons, List.not_mem_nil, or_false] at hc
  obtain rfl | rfl | rfl | rfl | rfl | rfl | rfl | rfl | rfl | rfl | rfl | rfl | rfl | rfl | rfl := hc <;> rfl

theorem State.vecOpRow_other {s : State} {core op : Nat} {d : Desc} (hok : s.coreOk core = true) (ho : dbits d 0 39 32 ≠ op)
    (hl : vecOpListed (dbits d 0 39 32) = true) : s.vecOpRow core d op = .fault .otherRow :=
  (onUnit_present hok).trans (if_neg (by simp [ho, hl]))

theorem State.vecOpRow_starts {s : State} {core op : Nat} {d : Desc} (ht : s.unitTakes core kVec d = true)
    (ho : dbits d 0 39 32 = op ∨ vecOpListed (dbits d 0 39 32) = false) :
    s.vecOpRow core d op = .next (s.vecStart core d false) := by
  have hrow : dbits d 0 39 32 = op ∨ (!vecOpListed (dbits d 0 39 32)) = true := by simpa using ho
  rw [State.vecOpRow, onUnit_present (State.unitTakes_coreOk ht), if_pos hrow, State.atUnit_takes _ ht]

theorem exec_vecConvert {s : State} {core : Nat} {d : Desc} (ht : s.unitTakes core kVec d = true) :
    exec (.vecConvert core d) s = .next (s.vecStart core d true) :=
  (onUnit_present (State.unitTakes_coreOk ht)).trans (congrArg Host.Outcome.next (State.atUnit_takes _ ht))

/-! ### A descriptor starts (R107, R152, R168, R522) -/

/-- The row of a steered vector descriptor is stale. -/
def State.vecStale (s : State) (core : Nat) (d : Desc) : Bool :=
  (vecOf d).steer && s.stale (coreDie core) (dbits d 3 41 32) (s.get .TDY_STEP_STEP core)

/-- The format code and coarse scale of the destination: the row's in the steering cache when steered, else the descriptor's own. -/
def State.vecDst (s : State) (core : Nat) (d : Desc) : Nat × Nat :=
  if (vecOf d).steer then s.steered (coreDie core) (dbits d 3 41 32) (vecOf d).role else ((vecOf d).dstFmt, (vecOf d).dstCoarse)

theorem State.vecDst_fmt (s : State) (core : Nat) (d : Desc) : (s.vecDst core d).1 =
    if (vecOf d).steer then (s.steered (coreDie core) (dbits d 3 41 32) (vecOf d).role).1 else (vecOf d).dstFmt :=
  apply_ite Prod.fst ..

theorem State.vecDst_coarse (s : State) (core : Nat) (d : Desc) : (s.vecDst core d).2 =
    if (vecOf d).steer then (s.steered (coreDie core) (dbits d 3 41 32) (vecOf d).role).2 else (vecOf d).dstCoarse :=
  apply_ite Prod.snd ..

/-- The format of a code that the checks have passed. -/
abbrev vecFmt (c : Nat) : Fmt := (Fmt.ofCode c).getD .fp32

/-- The first n rows of a descriptor with destination format fd and coarse scale co. -/
def State.vecRunOf (s : State) (core : Nat) (d : Desc) (conv : Bool) (fd co n : Nat) : State :=
  let pol := (s.bankFor (unitClu (coreClu core)) (s.heldFor core kVec d).beat).sec 6
  s.vecRun core (vecOf d) conv (vecFmt (vecOf d).srcFmt) (vecFmt (vecOf d).bFmt) (vecFmt fd) co
    (clipOf pol (if (vecOf d).steer then some (dbits d 3 41 32, (vecOf d).role) else none) (vecOf d).tid) pol n

section
variable {s : State} {core : Nat} {d : Desc} {conv : Bool}

theorem State.vecStart_waits (h : s.canStart core kVec d = false) : s.vecStart core d conv = s.hold core kVec d :=
  if_pos (by simp [h])

variable (hc : s.canStart core kVec d = true)
include hc

theorem State.vecStart_stale (h : s.vecStale core d = true) : s.vecStart core d conv = s.steerHold core kVec d :=
  (if_neg (by simp [hc])).trans (if_pos h)

variable (hs : s.vecStale core d = false) (hr : firstReserved d (vecReserved conv (vecOf d).steer) = none)
include hs hr

theorem State.vecStart_unlisted (hv : conv = false) (hl : vecOpListed (vecOf d).op = false) :
    s.vecStart core d conv = s.vecRefuse core d false (32, (vecOf d).op) := by
  subst hv
  rw [State.vecStale] at hs
  simp only [State.vecStart, hc, hs, hr, hl, Bool.not_true, Bool.not_false, Bool.and_self, Bool.false_eq_true, if_false, if_true]

variable (hl : conv = true ∨ vecOpListed (vecOf d).op = true) {fd co : Nat} (hd : (fd, co) = s.vecDst core d)
include hl hd

/-- A descriptor of a listed operation, its row not stale, is checked and runs. -/
theorem State.vecStart_checks : s.vecStart core d conv =
    ((vecOf d).fmtFault d conv fd co).elim
      (((vecOf d).fault d conv (vecFmt (vecOf d).srcFmt) (vecFmt (vecOf d).bFmt) (vecFmt fd)).elim
        ((s.vecPoison core (vecOf d) d conv (vecFmt (vecOf d).srcFmt) (vecFmt (vecOf d).bFmt)).elim
          ((s.vecRunOf core d conv fd co (vecOf d).rows).complete core kVec d)
          fun e => ((s.vecRunOf core d conv fd co e.1).coreUe (srcCore core) core e.2).refuse core kVec d)
        (s.vecRefuse core d false))
      (s.vecRefuse core d true) := by
  have listed : (!conv && !vecOpListed (vecOf d).op) = false := by
    rcases hl with rfl | hl
    · rfl
    · rw [hl, Bool.not_true, Bool.and_false]
  have hfd : fd = _ := (congrArg Prod.fst hd).trans (s.vecDst_fmt core d)
  have hco : co = _ := (congrArg Prod.snd hd).trans (s.vecDst_coarse core d)
  rw [State.vecStale] at hs
  simp only [State.vecStart, hc, hs, hr, listed, ← hfd, ← hco, Bool.not_true, Bool.false_eq_true, if_false]
  cases (vecOf d).fmtFault d conv fd co with
  | some b => rfl
  | none =>
    cases (vecOf d).fault d conv (vecFmt (vecOf d).srcFmt) (vecFmt (vecOf d).bFmt) (vecFmt fd) with
    | some b => rfl
    | none => cases s.vecPoison core (vecOf d) d conv (vecFmt (vecOf d).srcFmt) (vecFmt (vecOf d).bFmt) <;> rfl

theorem State.vecStart_fmtFault {b : BadField} (hf : (vecOf d).fmtFault d conv fd co = some b) :
    s.vecStart core d conv = s.vecRefuse core d true b := by
  rw [State.vecStart_checks hc hs hr hl hd, hf, Option.elim_some]

variable (hf : (vecOf d).fmtFault d conv fd co = none)
include hf

theorem State.vecStart_fault {b : BadField}
    (hb : (vecOf d).fault d conv (vecFmt (vecOf d).srcFmt) (vecFmt (vecOf d).bFmt) (vecFmt fd) = some b) :
    s.vecStart core d conv = s.vecRefuse core d false b := by
  rw [State.vecStart_checks hc hs hr hl hd, hf, Option.elim_none, hb, Option.elim_some]

variable (hb : (vecOf d).fault d conv (vecFmt (vecOf d).srcFmt) (vecFmt (vecOf d).bFmt) (vecFmt fd) = none)
include hb

theorem State.vecStart_poisoned {n p : Nat}
    (hp : s.vecPoison core (vecOf d) d conv (vecFmt (vecOf d).srcFmt) (vecFmt (vecOf d).bFmt) = some (n, p)) :
    s.vecStart core d conv = ((s.vecRunOf core d conv fd co n).coreUe (srcCore core) core p).refuse core kVec d := by
  rw [State.vecStart_checks hc hs hr hl hd, hf, Option.elim_none, hb, Option.elim_none, hp, Option.elim_some]

theorem State.vecStart_runs (hp : s.vecPoison core (vecOf d) d conv (vecFmt (vecOf d).srcFmt) (vecFmt (vecOf d).bFmt) = none) :
    s.vecStart core d conv = (s.vecRunOf core d conv fd co (vecOf d).rows).complete core kVec d := by
  rw [State.vecStart_checks hc hs hr hl hd, hf, Option.elim_none, hb, Option.elim_none, hp, Option.elim_none]

end

/-! ### What a conversion's counts change (R102) -/

/-- The register fields that a conversion counts in: those of tensor IDs without a slot. -/
def unmapFields : List Field := [.DCTL_TALLY_UNMAP0_SAT, .DCTL_TALLY_UNMAP0_NONFIN, .DCTL_TALLY_UNMAP1_UNDER]

section
variable {s : State} {die : Nat} {pol : List Byte} {tid : Nat} {c : Counts} {amax : Nat}

@[simp] theorem State.tallyAdd_mem : (s.tallyAdd die pol tid c amax).mem = s.mem := by
  unfold State.tallyAdd
  split <;> rfl

@[simp] theorem State.tallyAdd_cores : (s.tallyAdd die pol tid c amax).cores = s.cores := by
  unfold State.tallyAdd
  split <;> rfl

theorem State.tallyAdd_get {f : Field} {u i : Nat} (h : f ∉ unmapFields ∨ u ≠ die) :
    (s.tallyAdd die pol tid c amax).get f u i = s.get f u i := by
  have other : ∀ (t : State) (g : Field) (n : Nat), g ∈ unmapFields → (t.bumpSat g n die).get f u i = t.get f u i := fun t g n hg =>
    State.get_set_ne _ _ _ _ _ _ _ _ (h.imp (fun hf e => hf (e ▸ hg)) .inl)
  unfold State.tallyAdd
  split
  · rfl
  · rw [other _ _ _ (by decide), other _ _ _ (by decide), other _ _ _ (by decide)]

end

/-! ### What a run writes (R76, R84, R147) -/

/-- Row r as the engine converts it, from the state before the run: its element codes, its fine-scale codes and its counts. -/
def State.vecConv (s : State) (core : Nat) (x : VecD) (conv : Bool) (fa fb fd : Fmt) (co clip r : Nat) : List Nat × List Nat × Counts :=
  convertRow fd clip (x.sat || scaled fd co) (fun j => roundOf x.round (s.srIn core x.slot x.tid x.idx) (x.idx + r * x.idxRow + j))
    ((s.vecVals core x conv fa fb r).map fun v => v.div (.fin (coarseVal fd co)))

/-- A converted row c goes to its place as row r, its fine scales to theirs, and its counts to the tally. -/
def State.vecPut (s : State) (core : Nat) (x : VecD) (fd : Fmt) (pol : List Byte) (r amax : Nat) (c : List Nat × List Nat × Counts) : State :=
  let t := s.wr (coreLoc core (x.dst + r * x.dstLd)) (packRow fd c.1)
  (if fd.hasFine then t.wr (coreLoc core (x.dstScl + r * x.dstSld)) (c.2.1.map (BitVec.ofNat 8)) else t).tallyAdd (coreDie core) pol x.tid
    c.2.2 amax

/-- A place outside what row r of a destination writes: its elements, and its fine scales where the format has them. -/
def VecD.clearOf (x : VecD) (core : Nat) (fd : Fmt) (r : Nat) (c : List Nat × List Nat × Counts) (a : Nat) : Prop :=
  (a < coreLoc core (x.dst + r * x.dstLd) ∨ coreLoc core (x.dst + r * x.dstLd) + (packRow fd c.1).length ≤ a) ∧
  (fd.hasFine = true → a < coreLoc core (x.dstScl + r * x.dstSld) ∨ coreLoc core (x.dstScl + r * x.dstSld) + c.2.1.length ≤ a)

section
variable {s : State} {core : Nat} {x : VecD} {fd : Fmt} {pol : List Byte} {r amax : Nat} {c : List Nat × List Nat × Counts}

theorem State.vecPut_cores : (s.vecPut core x fd pol r amax c).cores = s.cores := by
  simp only [State.vecPut, State.tallyAdd_cores]
  split <;> rfl

theorem State.vecPut_get {f : Field} {u i : Nat} (h : f ∉ unmapFields ∨ u ≠ coreDie core) :
    (s.vecPut core x fd pol r amax c).get f u i = s.get f u i := by
  rw [State.vecPut, State.tallyAdd_get h]
  split <;> rfl

theorem State.vecPut_mem_fine (hf : fd.hasFine = true) : (s.vecPut core x fd pol r amax c).mem =
    Mem.writeN (Mem.writeN s.mem (coreLoc core (x.dst + r * x.dstLd)) (packRow fd c.1)) (coreLoc core (x.dstScl + r * x.dstSld))
      (c.2.1.map (BitVec.ofNat 8)) := by
  simp only [State.vecPut, State.tallyAdd_mem, hf, if_true, State.wr_mem]

theorem State.vecPut_mem_plain (hf : fd.hasFine = false) : (s.vecPut core x fd pol r amax c).mem =
    Mem.writeN s.mem (coreLoc core (x.dst + r * x.dstLd)) (packRow fd c.1) := by
  simp only [State.vecPut, State.tallyAdd_mem, hf, Bool.false_eq_true, if_false, State.wr_mem]

variable (h : Mem.wf s.mem = true)
include h

theorem State.vecPut_wf : Mem.wf (s.vecPut core x fd pol r amax c).mem = true := by
  cases hf : fd.hasFine
  · rw [State.vecPut_mem_plain hf]
    exact Mem.wf_writeN _ _ _ h
  · rw [State.vecPut_mem_fine hf]
    exact Mem.wf_writeN _ _ _ (Mem.wf_writeN _ _ _ h)

theorem State.vecPut_read_clear {a : Nat} (ha : x.clearOf core fd r c a) :
    Mem.read (s.vecPut core x fd pol r amax c).mem a = Mem.read s.mem a := by
  obtain ⟨row, scales⟩ := ha
  cases hf : fd.hasFine
  · rw [State.vecPut_mem_plain hf, Mem.read_writeN_outside _ _ h _ _ row]
  · rw [State.vecPut_mem_fine hf,
      Mem.read_writeN_outside _ _ (Mem.wf_writeN _ _ _ h) _ _ (by simpa using scales hf), Mem.read_writeN_outside _ _ h _ _ row]

end

section
variable {s : State} {core : Nat} {x : VecD} {conv : Bool} {fa fb fd : Fmt} {co clip : Nat} {pol : List Byte}

/-- A run of one more row puts that row after the others; it is converted from the state before the run. -/
theorem State.vecRun_succ (n : Nat) : s.vecRun core x conv fa fb fd co clip pol (n + 1) =
    (s.vecRun core x conv fa fb fd co clip pol n).vecPut core x fd pol n (amaxCode (amaxOf (s.vecVals core x conv fa fb n)))
      (s.vecConv core x conv fa fb fd co clip n) := by
  simp only [State.vecRun, List.range_succ, List.foldl_append, List.foldl_cons, List.foldl_nil]
  rfl

theorem State.vecRun_cores (n : Nat) : (s.vecRun core x conv fa fb fd co clip pol n).cores = s.cores := by
  induction n with
  | zero => rfl
  | succ n ih => rw [State.vecRun_succ, State.vecPut_cores, ih]

theorem State.vecRun_get {n : Nat} {f : Field} {u i : Nat} (h : f ∉ unmapFields ∨ u ≠ coreDie core) :
    (s.vecRun core x conv fa fb fd co clip pol n).get f u i = s.get f u i := by
  induction n with
  | zero => rfl
  | succ n ih => rw [State.vecRun_succ, State.vecPut_get h, ih]

variable (h : Mem.wf s.mem = true)
include h

theorem State.vecRun_wf (n : Nat) : Mem.wf (s.vecRun core x conv fa fb fd co clip pol n).mem = true := by
  induction n with
  | zero => exact h
  | succ n ih =>
    rw [State.vecRun_succ]
    exact State.vecPut_wf ih

theorem State.vecRun_read_clear {n a : Nat} (ha : ∀ r < n, x.clearOf core fd r (s.vecConv core x conv fa fb fd co clip r) a) :
    Mem.read (s.vecRun core x conv fa fb fd co clip pol n).mem a = Mem.read s.mem a := by
  induction n with
  | zero => rfl
  | succ n ih =>
    rw [State.vecRun_succ, State.vecPut_read_clear (State.vecRun_wf h n) (ha n n.lt_succ_self),
      ih fun r hr => ha r (Nat.lt_succ_of_lt hr)]

/-- A row that has been written keeps its bytes while later rows are written, since no row is longer than the distance of two rows. -/
theorem State.vecRun_read_row (hf : fd.hasFine = false) {n r : Nat} (hr : r < n)
    (hlen : ∀ r' < n, (packRow fd (s.vecConv core x conv fa fb fd co clip r').1).length ≤ x.dstLd)
    {k : Nat} (hk : k < (packRow fd (s.vecConv core x conv fa fb fd co clip r).1).length) :
    Mem.read (s.vecRun core x conv fa fb fd co clip pol n).mem (coreLoc core (x.dst + r * x.dstLd) + k) =
      storedByte (coreLoc core (x.dst + r * x.dstLd) + k) ((packRow fd (s.vecConv core x conv fa fb fd co clip r).1)[k]) := by
  induction n with
  | zero => exact absurd hr r.not_lt_zero
  | succ n ih =>
    rw [State.vecRun_succ, State.vecPut_mem_plain hf]
    rcases Nat.lt_succ_iff_lt_or_eq.mp hr with before | rfl
    · have fits : k < x.dstLd := hk.trans_le (hlen r hr)
      have next : (r + 1) * x.dstLd ≤ n * x.dstLd := Nat.mul_le_mul_right _ before
      have below : coreLoc core (x.dst + r * x.dstLd) + k < coreLoc core (x.dst + n * x.dstLd) := by
        rw [Nat.add_mul, Nat.one_mul] at next
        unfold coreLoc
        omega
      rw [Mem.read_writeN_outside _ _ (State.vecRun_wf h n) _ _ (.inl below), ih before fun r' hr' => hlen r' (Nat.lt_succ_of_lt hr')]
    · exact Mem.read_writeN _ _ (State.vecRun_wf h _) _ _ hk

end

/-! ### A steered descriptor that waits (R107) -/

/-- The row of a steered descriptor, of the matrix engine or of the vector engine. -/
def steerRow (d : Desc) : Nat := if descClass d = 1 then dbits d 4 9 0 else dbits d 3 41 32

theorem exec_steeredDescriptorResume {s : State} {core : Nat} {d : Desc} (hok : s.coreOk core = true) :
    exec (.steeredDescriptorResume core d) s =
    if (s.core core).steerWait.contains d = true ∧ s.stale (coreDie core) (steerRow d) (s.get .TDY_STEP_STEP core) = false then
      .next (if descClass d = 1 then (s.steerTake core d).mmaStart core d else (s.steerTake core d).vecStart core d (descClass d == 3))
    else .next s := by
  refine (onUnit_present hok).trans ?_
  cases (s.core core).steerWait.contains d
  · rfl
  · by_cases hm : descClass d = 1
    · simp only [hm, steerRow, if_true]
      cases s.stale (coreDie core) (dbits d 4 9 0) (s.get .TDY_STEP_STEP core) <;> rfl
    · simp only [hm, steerRow, if_false]
      cases s.stale (coreDie core) (dbits d 3 41 32) (s.get .TDY_STEP_STEP core) <;> rfl

/-- Settles O13: the rows of the codes, the start of a descriptor case by case, the rows of a run by induction on their number, and the resume. -/
theorem vectorOperationsWriteTheirRows : Obligations.VectorOperationsWriteTheirRows := by
  unfold Obligations.VectorOperationsWriteTheirRows
  refine ⟨fun p hp s core d hok => ⟨fun ht ho => (exec_vecRow hp s core d).trans (State.vecOpRow_starts ht ho),
      fun ho hl => (exec_vecRow hp s core d).trans (State.vecOpRow_other hok ho hl)⟩,
    fun s core d => exec_vecConvert,
    fun s core d conv fd co => ⟨State.vecStart_waits, fun hc => ⟨State.vecStart_stale hc, fun hs hd hr =>
      ⟨State.vecStart_unlisted hc hs hr, fun hl => ⟨fun b => State.vecStart_fmtFault hc hs hr hl hd,
        fun b hf => State.vecStart_fault hc hs hr hl hd hf, fun hf hb n p => State.vecStart_poisoned hc hs hr hl hd hf hb,
        fun hf hb => State.vecStart_runs hc hs hr hl hd hf hb⟩⟩⟩⟩,
    fun s core x conv fa fb fd co clip pol n h => ⟨State.vecRun_cores n, fun f u i => State.vecRun_get,
      fun a => State.vecRun_read_clear h,
      fun hf r hr hlen k hk => State.vecRun_read_row h hf hr hlen hk⟩,
    fun s core d hok => ⟨fun hw => ?_, fun hw => ⟨fun hs => ?_, fun hs => ?_⟩⟩⟩
  · rw [exec_steeredDescriptorResume hok, if_neg fun h => Bool.false_ne_true (hw.symm.trans h.1)]
  · rw [exec_steeredDescriptorResume hok, if_neg fun h => Bool.false_ne_true (h.2.symm.trans hs)]
  · rw [exec_steeredDescriptorResume hok, if_pos ⟨hw, hs⟩]

end Sys2Proof.Machine

/-! The matrix engine: what its additions leave in a tile, how a descriptor is admitted and counted, and accesses of its tiles (O12). -/
namespace Sys2Proof.Machine

/-! ### Accumulator containers (R123, R125) -/

/-- The six low bytes of a container are stored as they are written. -/
theorem storedByte_low {loc k : Nat} (h : loc % 8 = 0) (hk : k < 6) (b : Byte) : storedByte (loc + k) b = b := by
  rw [storedByte, if_neg (by omega : ¬(loc + k) % 8 = 7), if_neg (by omega : ¬(loc + k) % 8 = 6), ite_self]

/-- The low half of a stored byte is that of the byte written, but in a container's last byte. -/
theorem storedByte_half {loc : Nat} (h : loc % 8 ≠ 7) (b : Byte) : (storedByte loc b).toNat % 16 = b.toNat % 16 := by
  have cut : (b &&& 0x0f).toNat % 16 = b.toNat % 16 := by
    rw [BitVec.toNat_and, show (0x0f : Byte).toNat = 2 ^ 4 - 1 from rfl, Nat.and_two_pow_sub_one_eq_mod, Nat.mod_mod]
  unfold storedByte
  rw [if_neg h]
  split
  · split
    · exact cut
    · rfl
  · rfl

/-- Byte k of a number's bytes, least significant first. -/
theorem getElem_leBytes {n v k : Nat} (h : k < (leBytes n v).length) : (leBytes n v)[k] = BitVec.ofNat 8 (v / 256 ^ k) := by
  induction n generalizing v k with
  | zero => simp at h
  | succ n ih =>
    cases k with
    | zero => simp [leBytes]
    | succ k => simp only [leBytes, List.getElem_cons_succ, ih, Nat.div_div_eq_div_mul, Nat.pow_succ, Nat.mul_comm]

/-- A container read after it is written gives the code's 52 bits. -/
theorem Mem.leNat_readN_writeN {m : List Host.Cell} (h : Mem.wf m = true) {loc : Nat} (h8 : loc % 8 = 0) (c : Nat) :
    leNat (Mem.readN (Mem.writeN m loc (leBytes 8 c)) loc 8) % 2 ^ 52 = c % 2 ^ 52 := by
  have byte : ∀ k < 8, Mem.read (Mem.writeN m loc (leBytes 8 c)) (loc + k) = storedByte (loc + k) (BitVec.ofNat 8 (c / 256 ^ k)) :=
    fun k hk => by rw [Mem.read_writeN _ _ h _ _ (by simpa using hk), getElem_leBytes]
  have low : ∀ k < 6, (Mem.read (Mem.writeN m loc (leBytes 8 c)) (loc + k)).toNat = c / 256 ^ k % 256 := fun k hk => by
    rw [byte k (by omega), storedByte_low h8 hk, BitVec.toNat_ofNat]
  have half : (Mem.read (Mem.writeN m loc (leBytes 8 c)) (loc + 6)).toNat % 16 = c / 256 ^ 6 % 256 % 16 := by
    rw [byte 6 (by decide), storedByte_half (by omega), BitVec.toNat_ofNat]
  simp only [Mem.readN, List.range, List.range.loop, List.map_cons, List.map_nil, leNat, low, Nat.reduceLT]
  omega

theorem accLoc_mod (core tile i j : Nat) : accLoc core tile i j % 8 = 0 := by
  simp only [accLoc, coreLoc]
  omega

/-- Containers of two elements of a tile do not meet. -/
theorem accLoc_apart {i j i' j' : Nat} (core tile : Nat) (hj : j < 64) (hj' : j' < 64) (h : (i, j) ≠ (i', j')) :
    accLoc core tile i j + 8 ≤ accLoc core tile i' j' ∨ accLoc core tile i' j' + 8 ≤ accLoc core tile i j := by
  have : ¬(i = i' ∧ j = j') := fun e => h (Prod.ext e.1 e.2)
  simp only [accLoc, coreLoc]
  omega

@[simp] theorem State.setAcc_flds (s : State) (core tile i j c : Nat) : (s.setAcc core tile i j c).flds = s.flds := State.wr_flds ..
@[simp] theorem State.setAcc_ident (s : State) (core tile i j c : Nat) : (s.setAcc core tile i j c).ident = s.ident := State.wr_ident ..
@[simp] theorem State.setAcc_cores (s : State) (core tile i j c : Nat) : (s.setAcc core tile i j c).cores = s.cores := State.wr_cores ..

section
variable {s : State} (h : Mem.wf s.mem = true)
include h

theorem State.setAcc_wf (core tile i j c : Nat) : Mem.wf (s.setAcc core tile i j c).mem = true := Mem.wf_writeN _ _ _ h

theorem State.read_setAcc_clear {core tile i j a : Nat} (c : Nat) (ha : a < accLoc core tile i j ∨ accLoc core tile i j + 8 ≤ a) :
    Mem.read (s.setAcc core tile i j c).mem a = Mem.read s.mem a :=
  Mem.read_writeN_outside _ _ h _ _ (by simpa using ha)

theorem State.acc_setAcc_self (core tile i j c : Nat) : (s.setAcc core tile i j c).acc core tile i j = c % 2 ^ 52 :=
  Mem.leNat_readN_writeN h (accLoc_mod ..) c

theorem State.acc_setAcc_ne {core tile i j i' j' : Nat} (c : Nat) (hj : j < 64) (hj' : j' < 64) (hne : (i, j) ≠ (i', j')) :
    (s.setAcc core tile i' j' c).acc core tile i j = s.acc core tile i j := by
  have apart := accLoc_apart core tile hj hj' hne
  have same : (s.setAcc core tile i' j' c).rd (accLoc core tile i j) 8 = s.rd (accLoc core tile i j) 8 :=
    List.map_congr_left fun k hk => State.read_setAcc_clear h c (by
      have := List.mem_range.mp hk
      omega)
  rw [State.acc, State.acc, same]

end

/-! ### Elements that receive a code each -/

/-- The elements of the first m rows and n columns of a tile, in the order in which the additions take them. -/
def tileCells (m n : Nat) : List (Nat × Nat) := (List.range m).flatMap fun i => (List.range n).map fun j => (i, j)

theorem mem_tileCells {m n i j : Nat} : (i, j) ∈ tileCells m n ↔ i < m ∧ j < n := by
  simp [tileCells]

/-- An element takes a code, or keeps its content. -/
def State.putCell (s : State) (core tile : Nat) (f : Nat → Nat → Option Nat) (e : Nat × Nat) : State :=
  (f e.1 e.2).elim s (s.setAcc core tile e.1 e.2)

/-- The elements of a list take the codes that a function gives them. -/
def State.putCells (s : State) (core tile : Nat) (f : Nat → Nat → Option Nat) (l : List (Nat × Nat)) : State :=
  l.foldl (fun s e => s.putCell core tile f e) s

section
variable {core tile : Nat} {f : Nat → Nat → Option Nat}

theorem State.putCell_same (s : State) (e : Nat × Nat) : (s.putCell core tile f e).flds = s.flds ∧ (s.putCell core tile f e).ident = s.ident ∧
    (s.putCell core tile f e).cores = s.cores := by
  unfold State.putCell
  cases f e.1 e.2 with
  | none => exact ⟨rfl, rfl, rfl⟩
  | some c => exact ⟨State.setAcc_flds .., State.setAcc_ident .., State.setAcc_cores ..⟩

theorem State.putCells_same (l : List (Nat × Nat)) (s : State) : (s.putCells core tile f l).flds = s.flds ∧
    (s.putCells core tile f l).ident = s.ident ∧ (s.putCells core tile f l).cores = s.cores := by
  induction l generalizing s with
  | nil => exact ⟨rfl, rfl, rfl⟩
  | cons e l ih =>
    obtain ⟨flds, ident, cores⟩ := ih (s.putCell core tile f e)
    obtain ⟨flds', ident', cores'⟩ := s.putCell_same (f := f) (core := core) (tile := tile) e
    exact ⟨flds.trans flds', ident.trans ident', cores.trans cores'⟩

theorem State.putCell_wf {s : State} (h : Mem.wf s.mem = true) (e : Nat × Nat) : Mem.wf (s.putCell core tile f e).mem = true := by
  unfold State.putCell
  cases f e.1 e.2 with
  | none => exact h
  | some c => exact State.setAcc_wf h ..

theorem State.read_putCells_clear {a : Nat} (l : List (Nat × Nat))
    (ha : ∀ e ∈ l, a < accLoc core tile e.1 e.2 ∨ accLoc core tile e.1 e.2 + 8 ≤ a) {s : State} (h : Mem.wf s.mem = true) :
    Mem.read (s.putCells core tile f l).mem a = Mem.read s.mem a := by
  induction l generalizing s with
  | nil => rfl
  | cons e l ih =>
    have head : Mem.read (s.putCell core tile f e).mem a = Mem.read s.mem a := by
      unfold State.putCell
      cases f e.1 e.2 with
      | none => rfl
      | some c => exact State.read_setAcc_clear h c (ha e List.mem_cons_self)
    exact (ih (fun e he => ha e (List.mem_cons_of_mem _ he)) (State.putCell_wf h e)).trans head

theorem State.acc_putCell_self {s : State} (h : Mem.wf s.mem = true) (i j : Nat) :
    (s.putCell core tile f (i, j)).acc core tile i j = (f i j).elim (s.acc core tile i j) (· % 2 ^ 52) := by
  simp only [State.putCell]
  cases f i j with
  | none => rfl
  | some c => exact State.acc_setAcc_self h ..

theorem State.acc_putCell_ne {s : State} (h : Mem.wf s.mem = true) {i j : Nat} {e : Nat × Nat} (hj : j < 64) (he : e.2 < 64)
    (hne : (i, j) ≠ e) : (s.putCell core tile f e).acc core tile i j = s.acc core tile i j := by
  unfold State.putCell
  cases f e.1 e.2 with
  | none => rfl
  | some c => exact State.acc_setAcc_ne h c hj he hne

/-- An element of the list holds its code, or its content of before where it takes none; an element outside it holds its content. -/
theorem State.acc_putCells (l : List (Nat × Nat)) (hl : ∀ e ∈ l, e.2 < 64) {i j : Nat} (hj : j < 64) {s : State} (h : Mem.wf s.mem = true) :
    (s.putCells core tile f l).acc core tile i j =
      if (i, j) ∈ l then (f i j).elim (s.acc core tile i j) (· % 2 ^ 52) else s.acc core tile i j := by
  induction l generalizing s with
  | nil => rfl
  | cons e l ih =>
    have rest := ih (fun e he => hl e (List.mem_cons_of_mem _ he)) (State.putCell_wf (f := f) (tile := tile) (core := core) h e)
    refine Eq.trans rest ?_
    by_cases he : (i, j) = e
    · subst he
      rw [State.acc_putCell_self h, if_pos List.mem_cons_self]
      cases f i j with
      | none => rw [Option.elim_none, ite_self]
      | some c => rw [Option.elim_some, Option.elim_some, ite_self]
    · rw [State.acc_putCell_ne h hj (hl e List.mem_cons_self) he]
      simp only [List.mem_cons, he, false_or]

end

/-! ### The additions of a descriptor (R113, R129) -/

/-- What the additions put into an element: its group sums in a live row, +0 in another one under OVW, and else nothing. -/
def State.mmaCode (s : State) (core : Nat) (x : Mma) (fa fb : Fmt) (ng i j : Nat) : Option Nat :=
  if (s.liveRows core x).contains i then some (s.elemAdd core x fa fb i j ng (if x.ovw then 0 else s.acc core x.tile i j)).1
  else if x.ovw then some 0 else none

section
variable {s : State} {core : Nat} {x : Mma} {fa fb : Fmt} {ng : Nat}

theorem State.mmaAdd_eq : (s.mmaAdd core x fa fb ng).1 = s.putCells core x.tile (s.mmaCode core x fa fb ng) (tileCells x.m x.n) := by
  refine (List.foldl_hom Prod.fst fun acc e => ?_).symm
  obtain ⟨i, j⟩ := e
  simp only [State.putCell, State.mmaCode]
  cases (s.liveRows core x).contains i with
  | false =>
    rw [if_neg Bool.false_ne_true, if_neg Bool.false_ne_true]
    cases x.ovw <;> rfl
  | true => rw [if_pos rfl, if_pos rfl, Option.elim_some]

theorem State.mmaAdd_same : (s.mmaAdd core x fa fb ng).1.flds = s.flds ∧ (s.mmaAdd core x fa fb ng).1.ident = s.ident ∧
    (s.mmaAdd core x fa fb ng).1.cores = s.cores := by
  rw [State.mmaAdd_eq]
  exact State.putCells_same ..

theorem State.mmaAdd_get (f : Field) (u i : Nat) : (s.mmaAdd core x fa fb ng).1.get f u i = s.get f u i := by
  obtain ⟨flds, ident, -⟩ := State.mmaAdd_same (s := s) (core := core) (x := x) (fa := fa) (fb := fb) (ng := ng)
  rw [State.get, flds, ident, ← State.get]

variable (h : Mem.wf s.mem = true)
include h

theorem State.mmaAdd_acc (hn : x.n ≤ 64) {i j : Nat} (hj : j < 64) : (s.mmaAdd core x fa fb ng).1.acc core x.tile i j =
    if i < x.m ∧ j < x.n then
      (if (s.liveRows core x).contains i then
        (s.elemAdd core x fa fb i j ng (if x.ovw then 0 else s.acc core x.tile i j)).1 % 2 ^ 52
      else if x.ovw then 0 else s.acc core x.tile i j)
    else s.acc core x.tile i j := by
  have columns : ∀ e ∈ tileCells x.m x.n, e.2 < 64 := fun e he => (mem_tileCells.mp he).2.trans_le hn
  rw [State.mmaAdd_eq, State.acc_putCells _ columns hj h]
  simp only [mem_tileCells, State.mmaCode]
  split
  · split
    · rfl
    · split <;> rfl
  · rfl

theorem State.mmaAdd_read {a : Nat}
    (ha : ∀ i j, i < x.m → j < x.n → a < accLoc core x.tile i j ∨ accLoc core x.tile i j + 8 ≤ a) :
    Mem.read (s.mmaAdd core x fa fb ng).1.mem a = Mem.read s.mem a := by
  rw [State.mmaAdd_eq]
  exact State.read_putCells_clear _ (fun e he => ha e.1 e.2 (mem_tileCells.mp he).1 (mem_tileCells.mp he).2) h

end

/-! ### A descriptor leaves a core that nothing waits on -/

theorem State.drainAcc_idle {s : State} {core : Nat} (h : (s.core core).accWait = []) :
    s.drainAcc core = s.setCore core { s.core core with accWait := [] } := by
  simp only [State.drainAcc, h, List.filter_nil, List.foldl_nil]

theorem State.unstall_idle {s : State} {core : Nat} (h : (s.core core).stall = none) : s.unstall core = s := by
  simp only [State.unstall, h]

@[simp] theorem State.syncMxe_mem (s : State) (core : Nat) : (s.syncMxe core).mem = s.mem := rfl
@[simp] theorem State.syncMxe_core (s : State) (core c : Nat) : (s.syncMxe core).core c = s.core c := rfl

theorem State.syncMxe_get (s : State) (core : Nat) {f : Field} (u i : Nat) (h : f ≠ .MXE_STATUS_HELD ∧ f ≠ .MXE_STATUS_TILE_BUSY) :
    (s.syncMxe core).get f u i = s.get f u i := by
  rw [State.syncMxe, State.get_set_ne _ _ _ _ _ _ _ _ (.inl h.2), State.get_set_ne _ _ _ _ _ _ _ _ (.inl h.1)]

/-- The record of a core from which a matrix descriptor has gone. -/
def CoreSt.mxeDone (c : CoreSt) (d : Desc) : CoreSt := { c with held := dropHeld kMxe d c.held, accWait := [] }

/-- The state from which a matrix descriptor has gone. -/
def State.mxeGone (s : State) (core : Nat) (d : Desc) : State :=
  (s.setCore core { s.core core with held := dropHeld kMxe d (s.core core).held }).syncMxe core

/-- Beside the registers of held descriptors, completion at a core with no waiting access and no stalled issue changes that core's record alone. -/
theorem State.complete_mxe {s : State} {core : Nat} (d : Desc) (hw : (s.core core).accWait = []) (hs : (s.core core).stall = none) :
    ∃ c c' : CoreSt, s.complete core kMxe d = ((s.mxeGone core d).setCore core c).setCore core c' := by
  have gone : (s.mxeGone core d).core core = { s.core core with held := dropHeld kMxe d (s.core core).held } := State.core_setCore ..
  have drained : (s.mxeGone core d).drainAcc core = (s.mxeGone core d).setCore core ((s.core core).mxeDone d) := by
    rw [State.drainAcc_idle (by rw [gone]; exact hw), gone]
    rfl
  have unheld : s.unhold core kMxe d = (s.mxeGone core d).setCore core ((s.core core).mxeDone d) := by
    refine (congrArg (fun t : State => t.unstall core) drained).trans (State.unstall_idle ?_)
    rw [State.core_setCore]
    exact hs
  exact ⟨_, _, congrArg (fun t : State => t.setCore core
    { t.core core with done := KMap.set (t.core core).done kMxe (KMap.get (t.core core).done kMxe 0 + 1) }) unheld⟩

section
variable {s : State} {core : Nat} (d : Desc) (hw : (s.core core).accWait = []) (hs : (s.core core).stall = none)
include hw hs

theorem State.complete_mxe_mem : (s.complete core kMxe d).mem = s.mem := by
  obtain ⟨c, c', e⟩ := State.complete_mxe d hw hs
  rw [e]
  rfl

theorem State.complete_mxe_get {f : Field} (u i : Nat) (hf : f ≠ .MXE_STATUS_HELD ∧ f ≠ .MXE_STATUS_TILE_BUSY) :
    (s.complete core kMxe d).get f u i = s.get f u i := by
  obtain ⟨c, c', e⟩ := State.complete_mxe d hw hs
  rw [e, State.setCore_get, State.setCore_get, State.mxeGone, State.syncMxe_get _ _ _ _ hf, State.setCore_get]

end

/-! ### A descriptor starts (R107, R133, R152) -/

/-- The format code and coarse scale of the output: the row's in the steering cache when steered, else the descriptor's own. -/
def State.mmaDst (s : State) (core : Nat) (d : Desc) : Nat × Nat :=
  if (mmaOf d).steer then s.steered (coreDie core) (dbits d 4 9 0) (mmaOf d).role else ((mmaOf d).outFmt, (mmaOf d).outCoarse)

theorem State.mmaDst_fmt (s : State) (core : Nat) (d : Desc) : (s.mmaDst core d).1 =
    if (mmaOf d).steer then (s.steered (coreDie core) (dbits d 4 9 0) (mmaOf d).role).1 else (mmaOf d).outFmt := apply_ite Prod.fst ..

theorem State.mmaDst_coarse (s : State) (core : Nat) (d : Desc) : (s.mmaDst core d).2 =
    if (mmaOf d).steer then (s.steered (coreDie core) (dbits d 4 9 0) (mmaOf d).role).2 else (mmaOf d).outCoarse := apply_ite Prod.snd ..

/-- The run of an admitted descriptor, under the policy in force when it was issued. -/
def State.mmaRunOf (s : State) (core : Nat) (d : Desc) (fa fb ff : Fmt) (co : Nat) : State :=
  let pol := (s.bankFor (unitClu (coreClu core)) (s.heldFor core kMxe d).beat).sec 6
  s.mmaRun core d (mmaOf d) fa fb ff co
    (clipOf pol (if (mmaOf d).steer then some (dbits d 4 9 0, (mmaOf d).role) else none) (mmaOf d).tid) pol

theorem exec_mmaDescriptor {s : State} {core : Nat} {d : Desc} (ht : s.unitTakes core kMxe d = true) :
    exec (.mmaDescriptor core d) s = .next (s.mmaStart core d) :=
  (onUnit_present (State.unitTakes_coreOk ht)).trans (congrArg Host.Outcome.next (State.atUnit_takes _ ht))

section
variable {s : State} {core : Nat} {d : Desc}

theorem State.mmaStart_waits (h : s.canStart core kMxe d = false ∨ s.spansClear core kMxe d = false) :
    s.mmaStart core d = s.hold core kMxe d := if_pos (by simpa using h)

variable (hc : s.canStart core kMxe d = true) (hp : s.spansClear core kMxe d = true)
include hc hp

theorem State.mmaStart_stale
    (h : ((mmaOf d).steer && s.stale (coreDie core) (dbits d 4 9 0) (s.get .TDY_STEP_STEP core)) = true) :
    s.mmaStart core d = s.steerHold core kMxe d := (if_neg (by simp [hc, hp])).trans (if_pos h)

variable (hs : ((mmaOf d).steer && s.stale (coreDie core) (dbits d 4 9 0) (s.get .TDY_STEP_STEP core)) = false) {fo co : Nat}
  (hd : (fo, co) = s.mmaDst core d)
include hs hd

theorem State.mmaStart_fmtFault {b : BadField} (hf : (mmaOf d).fmtFault d fo co = some b) :
    s.mmaStart core d = s.mxeRefuse core d true b := by
  have hfo : fo = _ := (congrArg Prod.fst hd).trans (s.mmaDst_fmt core d)
  have hco : co = _ := (congrArg Prod.snd hd).trans (s.mmaDst_coarse core d)
  simp only [State.mmaStart, hc, hp, hs, ← hfo, ← hco, hf, Bool.not_true, Bool.false_eq_true, or_self, if_false]

/-- A descriptor of legal formats is checked for other faults, and runs. -/
theorem State.mmaStart_checks {fa fb : Fmt} (hf : (mmaOf d).fmtFault d fo co = none) (ha : mmaFmt (mmaOf d).aFmt = some fa)
    (hb : mmaFmt (mmaOf d).bFmt = some fb) : s.mmaStart core d =
      ((mmaOf d).fault d fa fb ((Fmt.ofCode fo).getD .fp32)).elim (s.mmaRunOf core d fa fb ((Fmt.ofCode fo).getD .fp32) co)
        (s.mxeRefuse core d false) := by
  have hfo : fo = _ := (congrArg Prod.fst hd).trans (s.mmaDst_fmt core d)
  have hco : co = _ := (congrArg Prod.snd hd).trans (s.mmaDst_coarse core d)
  simp only [State.mmaStart, hc, hp, hs, ← hfo, ← hco, hf, ha, hb, Bool.not_true, Bool.false_eq_true, or_self, if_false]
  cases (mmaOf d).fault d fa fb ((Fmt.ofCode fo).getD .fp32) <;> rfl

end

/-! ### A run without output (R136) -/

/-- The counters of an MMA descriptor after all its additions. -/
def State.mmaCounted (s : State) (core : Nat) (x : Mma) (fa fb : Fmt) : State :=
  let live := (s.liveRows core x).length
  let a := s.mmaAdd core x fa fb (ceilDiv x.k 32)
  ((((a.1.bump .MXE_GROUPS_COUNT (if live = 0 then 0 else ceilDiv x.k 32) core).bumpSat .MXE_STICKY_GROUPS a.2.sticky.length core).bumpSat
    .MXE_STICKY_TIES a.2.ties core).bumpSat .MXE_MASKED_ROWS (x.m - live) core).bumpSat .MXE_MASKED_TILES (b2n (live == 0)) core

section
variable {s : State} {core : Nat} {x : Mma} {fa fb : Fmt}

theorem State.mmaCounted_mem : (s.mmaCounted core x fa fb).mem = (s.mmaAdd core x fa fb (ceilDiv x.k 32)).1.mem := rfl

theorem State.mmaCounted_core (c : Nat) : (s.mmaCounted core x fa fb).core c = s.core c :=
  congrArg (fun m => KMap.get m c CoreSt.init) State.mmaAdd_same.2.2

theorem State.mmaCounted_groups : (s.mmaCounted core x fa fb).get .MXE_GROUPS_COUNT core =
    (s.get .MXE_GROUPS_COUNT core + (if (s.liveRows core x).length = 0 then 0 else ceilDiv x.k 32)) % 2 ^ 64 := by
  have other : ∀ (t : State) (g : Field) (n : Nat), g ≠ .MXE_GROUPS_COUNT → (t.bumpSat g n core).get .MXE_GROUPS_COUNT core =
      t.get .MXE_GROUPS_COUNT core := fun t g n h => State.get_set_ne _ _ _ _ _ _ _ _ (.inl h.symm)
  rw [State.mmaCounted, other _ _ _ (by decide), other _ _ _ (by decide), other _ _ _ (by decide), other _ _ _ (by decide), State.bump_eq,
    State.get_set_self, State.mmaAdd_get]
  rfl

variable {d : Desc} {fo : Fmt} {co clip : Nat} {pol : List Byte} (hout : x.out = false) (hp : s.poisonGroup core x fa fb = none)
include hout hp

theorem State.mmaRun_adds : s.mmaRun core d x fa fb fo co clip pol =
    ((s.mmaCounted core x fa fb).setBit .TDY_STATUS_TILE_LIVE x.tile true core).complete core kMxe d := by
  have clean : ∀ t : State, t.poisonOut core x = none := fun t => if_pos (by simp [hout])
  simp only [State.mmaRun, hp, clean, hout, Option.map_none, Option.getD_none, Option.isSome_none, Bool.false_eq_true, false_and, if_false,
    Option.or_none, Bool.not_false]
  rfl

variable (hw : (s.core core).accWait = []) (hs : (s.core core).stall = none)
include hw hs

/-- A run without output leaves memory as its additions do, and counts its groups. -/
theorem State.mmaRun_adds_spec : (s.mmaRun core d x fa fb fo co clip pol).mem = (s.mmaAdd core x fa fb (ceilDiv x.k 32)).1.mem ∧
    (s.mmaRun core d x fa fb fo co clip pol).get .MXE_GROUPS_COUNT core =
      (s.get .MXE_GROUPS_COUNT core + (if (s.liveRows core x).length = 0 then 0 else ceilDiv x.k 32)) % 2 ^ 64 := by
  have wait : (((s.mmaCounted core x fa fb).setBit .TDY_STATUS_TILE_LIVE x.tile true core).core core).accWait = [] :=
    (congrArg CoreSt.accWait (State.mmaCounted_core core)).trans hw
  have stall : (((s.mmaCounted core x fa fb).setBit .TDY_STATUS_TILE_LIVE x.tile true core).core core).stall = none :=
    (congrArg CoreSt.stall (State.mmaCounted_core core)).trans hs
  rw [State.mmaRun_adds hout hp, State.complete_mxe_mem d wait stall, State.complete_mxe_get d wait stall _ _ (by decide)]
  exact ⟨rfl, (State.get_set_ne _ _ _ _ _ _ _ _ (.inl (by decide))).trans State.mmaCounted_groups⟩

end

/-! ### Accesses of tiles (R123, R125, R126, R488) -/

/-- A place of accumulator memory is its core's window at its offset. -/
theorem coreLoc_accOff {loc : Nat} (h : isAcc loc = true) : coreLoc (accCore loc) (accOff loc) = loc := by
  simp only [isAcc, decide_eq_true_eq] at h
  simp only [coreLoc, accCore, accOff]
  omega

/-- A descriptor that its core issued before the access still uses a tile that the access touches. -/
def State.accBusy (s : State) (loc n : Nat) : Bool := s.tilesBusy (accCore loc) (s.core (accCore loc)).seq (accTiles (accOff loc) n)

theorem exec_accmemAccess_at {s : State} {a : Agent} {da loc : Nat} (w : Bool) (data : List Byte)
    (h : s.resolve a (s.carveBank a) da = .at loc) : exec (.accmemAccess a da w data) s = .next (s.accAt a loc w data) :=
  congrArg Host.Outcome.next (by simp only [State.accAccess, h])

theorem exec_accmemAccess_off {s : State} {a : Agent} {da : Nat} (w : Bool) (data : List Byte)
    (h : ∀ loc, s.resolve a (s.carveBank a) da ≠ .at loc) :
    exec (.accmemAccess a da w data) s = .next ((s.unmappedEv a da).emit (.answer a false [])) := by
  refine congrArg Host.Outcome.next ?_
  unfold State.accAccess
  split
  · next loc e => exact absurd e (h loc)
  · rfl

section
variable {s : State} {a : Agent} {loc : Nat} {data : List Byte}

theorem State.accAt_outside (w : Bool) (h : isAcc loc = false) : s.accAt a loc w data = s.emit (.answer a false []) :=
  if_neg (by simp [h])

variable (h : isAcc loc = true)
include h

theorem State.accAt_waits (w : Bool) (hb : s.accBusy loc data.length = true) : s.accAt a loc w data = s.setCore (accCore loc)
    { s.core (accCore loc) with
      accWait := (s.core (accCore loc)).accWait ++ [⟨a, accOff loc, w, data, (s.core (accCore loc)).seq⟩] } :=
  (if_pos h).trans (if_pos hb)

theorem State.accAt_write (hb : s.accBusy loc data.length = false) :
    s.accAt a loc true data = (s.wr loc data).emit (.answer a true []) := by
  refine ((if_pos h).trans (if_neg (Bool.eq_false_iff.mp hb))).trans ?_
  rw [State.accDo, if_pos rfl, coreLoc_accOff h]

theorem State.accAt_read (hb : s.accBusy loc data.length = false) :
    s.accAt a loc false data = s.emit (.answer a true (s.rd loc data.length)) := by
  refine ((if_pos h).trans (if_neg (Bool.eq_false_iff.mp hb))).trans ?_
  rw [State.accDo, if_neg Bool.false_ne_true, coreLoc_accOff h]

end

/-- Settles O12: the tile after the additions element by element, the start of a descriptor case by case, and an access by its place. -/
theorem matrixDescriptorsAddIntoTiles : Obligations.MatrixDescriptorsAddIntoTiles := by
  unfold Obligations.MatrixDescriptorsAddIntoTiles
  refine ⟨fun s core x fa fb ng i j h _ hn _ _ hj => ⟨State.mmaAdd_acc h hn hj, State.mmaAdd_same.1, fun a => State.mmaAdd_read h⟩,
    fun s core d fa fb fo co ht => ?_,
    fun s a da loc w data hr => ?_,
    fun s a da w data => exec_accmemAccess_off w data⟩
  · rw [exec_mmaDescriptor ht]
    refine ⟨fun h => congrArg Host.Outcome.next (State.mmaStart_waits h), fun hc hp =>
      ⟨fun hs => congrArg Host.Outcome.next (State.mmaStart_stale hc hp hs), fun hs hd =>
        ⟨fun b hf => congrArg Host.Outcome.next (State.mmaStart_fmtFault hc hp hs hd hf), fun hf ha hb => ?_⟩⟩⟩
    rw [State.mmaStart_checks hc hp hs hd hf ha hb]
    refine ⟨fun b hx => by rw [hx, Option.elim_some], fun hx => ?_⟩
    rw [hx, Option.elim_none]
    exact ⟨rfl, fun hout hpg hw hst => ⟨_, rfl, State.mmaRun_adds_spec hout hpg hw hst⟩⟩
  · rw [exec_accmemAccess_at w data hr]
    refine ⟨fun h hb => ?_, fun h hb hw => ?_, fun h hb hw => ?_, fun h => by rw [State.accAt_outside w h]⟩
    · refine ⟨_, rfl, ?_⟩
      rw [State.accAt_waits h w hb]
      exact ⟨rfl, rfl, rfl, congrArg CoreSt.accWait (State.core_setCore ..)⟩
    · subst hw
      rw [State.accAt_write h hb]
      exact ⟨_, rfl, rfl, rfl, fun hm k hk => Mem.read_writeN _ _ hm _ _ hk, fun hm p => Mem.read_writeN_outside _ _ hm _ _⟩
    · subst hw
      rw [State.accAt_read h hb]

end Sys2Proof.Machine

/-! Collectives: a permute whose destination holds its own plan does not complete (O39). -/
namespace Sys2Proof.Machine

/-! ### A permute onto its own plan (R327, R348, R351, R352) -/

/-- The group of the permute in a peer map of device 0: the devices 0 and 1. -/
def ontoPlanMap : List Byte :=
  leBytes 4 0 ++ leBytes 2 1 ++ List.replicate 58 0 ++ (leBytes 2 1 ++ leBytes 2 0 ++ leBytes 4 2 ++ leBytes 4 0 ++ leBytes 4 0) ++
    (leBytes 2 0 ++ leBytes 2 1)

/-- A carve of one data region: 256 MiB of ledger die 0 at 0x2000_0000. -/
def ontoPlanCarve : List Byte := leBytes 16 1 ++ (leBytes 8 1 ++ leBytes 8 0x20000000 ++ leBytes 8 0x10000000 ++ leBytes 8 0x20000000)

/-- The one block of the plan: 128 bytes of rank 0's own go from 0x2000_1000 to 0x2000_0000, where the plan lies. -/
def ontoPlanEnt : PlanEnt := ⟨0, 0, 128, 0x20001000, 0x20000000⟩

/-- An entry of a plan as it is stored (R351). -/
def PlanEnt.bytes (e : PlanEnt) : List Byte :=
  leBytes 2 e.src ++ leBytes 2 e.dst ++ leBytes 4 e.len ++ leBytes 8 e.srcDa ++ leBytes 8 e.dstDa ++ leBytes 8 0

/-- A plan of one block, of at most 64 KiB, with its digest (R351). -/
def PlanEnt.plan (e : PlanEnt) : List Byte := leBytes 4 1 ++ leBytes 28 16 ++ sha3 e.bytes ++ e.bytes

/-- A part after a reset, with that group and that carve active, that holds the plan at 0x2000_0000. The block that is to be moved there holds
another plan entry, of a block of 64 bytes from rank 1 to rank 0. -/
def State.ontoPlan : State :=
  ((State.reset.mapStr fun x => { x with active := [(unitLedger 0, ⟨1, 0, [], [(4, ontoPlanCarve)]⟩), (unitHub 1, ⟨1, 0, [], [(9, ontoPlanMap)]⟩)] }).wr
    (lpLoc 0 0x20000000) ontoPlanEnt.plan).wr (lpLoc 0 0x20001040) (PlanEnt.bytes ⟨1, 0, 64, 0, 0⟩)

/-- The permute over that group by that plan, in layout epoch 0. -/
def ontoPlanDesc : Desc := BitVec.ofNat 512 (8 + 2 ^ 32 * 4 + 2 ^ 36 * 3 + 2 ^ 48 * 1 + 2 ^ 64 * 0x20000000 + 2 ^ 192 * 1)

/-! ### What the step makes of it -/

/-- Every condition that the statement sets for the permute of one block of its own holds: the unit takes the descriptor, the epoch is the
current one, the group holds the part as rank 0, the plan passes its checks, and nothing is held up, poisoned or waiting. -/
theorem ontoPlan_admitted : let h := State.ontoPlan.hold 0 kColl ontoPlanDesc
    let beat := (h.heldFor 0 kColl ontoPlanDesc).beat
    let img := h.collCarve beat
    State.ontoPlan.unitTakes 0 kColl ontoPlanDesc = true ∧ h.canStart 0 kColl ontoPlanDesc = true ∧ h.coll.runs = [] ∧ h.coll.kept = [] ∧
      h.epochOf 0 ontoPlanDesc = .run ∧ h.collGrp beat ontoPlanDesc = some ⟨1, 0, [0, 1]⟩ ∧ rankIn [0, 1] h.ownId = some 0 ∧
      h.planOk img ontoPlanDesc 0 2 false = true ∧ h.collPlan img ontoPlanDesc = [ontoPlanEnt] ∧
      h.collFree img 0 ontoPlanDesc [(ontoPlanEnt.srcDa, ontoPlanEnt.len), (ontoPlanEnt.dstDa, ontoPlanEnt.len)] = true ∧
      h.poisonDa h.collAgent img ontoPlanEnt.srcDa ontoPlanEnt.len = none ∧ (h.core 0).accWait = [] := by decide +kernel

/-- The fields of the descriptor: a permute of SCOPE 3 in the current epoch, of one entry, with words 2 and 4 and every reserved field 0. -/
theorem ontoPlanDesc_fields : descClass ontoPlanDesc = 8 ∧ collOp ontoPlanDesc = 4 ∧ collEpoch ontoPlanDesc = State.ontoPlan.get .FAB_LAYOUT_CURRENT ∧
    collFmtBad ontoPlanDesc = false ∧ collScope ontoPlanDesc = 3 ∧ firstReserved ontoPlanDesc collReserved = none ∧ collDst ontoPlanDesc = 0 ∧
    collVec ontoPlanDesc = 0 ∧ collLen ontoPlanDesc = 1 := by decide +kernel

/-- The collectives that are in progress after a step. -/
def runsAfter : Res → List CollRun
  | .next t => t.coll.runs
  | _ => []

/-- The move puts the other entry in the plan's place. The engine reads the plan again to see what has to come yet, and waits for rank 1. -/
theorem runsAfter_ontoPlan : runsAfter (exec (.permute 0 ontoPlanDesc) State.ontoPlan) = [⟨0, 0, ontoPlanDesc, [], 0, false, [], []⟩] := by
  decide +kernel

/-- Refutes O39: a PERMUTE of one block of its own whose destination holds the plan does not complete. -/
theorem not_collectivesRunAsTheirOperationSays : ¬ Obligations.CollectivesRunAsTheirOperationSays := by
  unfold Obligations.CollectivesRunAsTheirOperationSays
  rintro ⟨start, -⟩
  obtain ⟨takes, can, runs, kept, epoch, group, rank, plan, block, free, clean, noWait⟩ := ontoPlan_admitted
  obtain ⟨cls, op, current, fmt, scope, reserved, dst, vec, len⟩ := ontoPlanDesc_fields
  obtain ⟨-, row⟩ := start State.ontoPlan 0 ontoPlanDesc (.permute 0 ontoPlanDesc) 4 (by simp) takes
  obtain ⟨-, admitted⟩ := row cls op fun _ => .inr (.inr current)
  obtain ⟨-, -, running⟩ := admitted can runs kept
  obtain ⟨-, -, scope3⟩ := running epoch
  obtain ⟨-, member⟩ := scope3 fmt scope
  obtain ⟨-, ranked⟩ := member _ group
  obtain ⟨-, -, -, -, moves⟩ := ranked 0 rank
  obtain ⟨t, step, done, -⟩ := moves rfl reserved dst vec plan ontoPlanEnt block len rfl rfl (by decide) free clean noWait
  have none_left : runsAfter (exec (.permute 0 ontoPlanDesc) State.ontoPlan) = [] := (congrArg runsAfter step).trans done
  rw [runsAfter_ontoPlan] at none_left
  exact List.cons_ne_nil _ _ none_left

end Sys2Proof.Machine

/-! The DMA engine: a write through the address map block by block, and a descriptor's start (O17). -/
namespace Sys2Proof.Machine

/-! ### A write of whole blocks through the address map (R178, R180) -/

/-- An aligned range of whole blocks touches them one after another. -/
theorem blocksOf_aligned {da n : Nat} (hda : da % 64 = 0) (hn : n % 64 = 0) :
    blocksOf da n = (List.range (n / 64)).map fun i => da + 64 * i := by
  unfold blocksOf
  split
  case isTrue h => rw [h, Nat.zero_div, List.range_zero, List.map_nil]
  case isFalse h =>
    have count : (da + n - 1) / 64 - da / 64 + 1 = n / 64 := by omega
    rw [count]
    exact List.map_congr_left fun i _ => by omega

/-- Block i of the bytes is written at the place that the map gave its address in s; one without a place is not written. -/
def State.putBlock (s : State) (a : Agent) (img : Image) (da : Nat) (bs : List Byte) (t : State) (i : Nat) : State :=
  match s.resolve a img (da + 64 * i) with
  | .at loc => t.wr loc (slice bs (64 * i) 64)
  | _ => t

/-- The first n blocks of the bytes, written in order. -/
def State.putBlocks (s : State) (a : Agent) (img : Image) (da : Nat) (bs : List Byte) (n : Nat) : State :=
  (List.range n).foldl (s.putBlock a img da bs) s

section
variable {s : State} {a : Agent} {img : Image} {da : Nat} {bs : List Byte}

theorem State.wrDa_aligned (hda : da % 64 = 0) (hn : bs.length % 64 = 0) :
    s.wrDa a img da bs = s.putBlocks a img da bs (bs.length / 64) := by
  rw [State.wrDa, State.putBlocks, blocksOf_aligned hda hn, List.foldl_map]
  refine List.foldl_ext _ _ _ fun t i hi => ?_
  have inside : i < bs.length / 64 := List.mem_range.mp hi
  have low : max (da + 64 * i) da = da + 64 * i := by omega
  have high : min (da + 64 * i + 64) (da + bs.length) = da + 64 * i + 64 := by omega
  simp only [low, high, Nat.sub_self, Nat.add_zero, Nat.add_sub_cancel_left]
  rfl

theorem State.putBlocks_succ (n : Nat) : s.putBlocks a img da bs (n + 1) = s.putBlock a img da bs (s.putBlocks a img da bs n) n := by
  rw [State.putBlocks, List.range_succ, List.foldl_concat, State.putBlocks]

theorem State.putBlock_at {t : State} {i loc : Nat} (hr : s.resolve a img (da + 64 * i) = .at loc) :
    s.putBlock a img da bs t i = t.wr loc (slice bs (64 * i) 64) := by
  rw [State.putBlock, hr]

theorem State.putBlock_nowhere {t : State} {i : Nat} (hr : ∀ loc, s.resolve a img (da + 64 * i) ≠ .at loc) :
    s.putBlock a img da bs t i = t := by
  unfold State.putBlock
  split
  · exact absurd ‹_› (hr _)
  · rfl

/-- What holds after the write of a block at its place, and of a block that has no place, holds after either. -/
theorem State.putBlock_cases {P : State → Prop} {t : State} {i : Nat}
    (place : ∀ loc, s.resolve a img (da + 64 * i) = .at loc → P (t.wr loc (slice bs (64 * i) 64))) (nowhere : P t) :
    P (s.putBlock a img da bs t i) := by
  by_cases h : ∃ loc, s.resolve a img (da + 64 * i) = .at loc
  · obtain ⟨loc, hr⟩ := h
    rw [State.putBlock_at hr]
    exact place loc hr
  · rw [State.putBlock_nowhere (not_exists.mp h)]
    exact nowhere

theorem State.putBlock_wf {t : State} (h : Mem.wf t.mem = true) (i : Nat) : Mem.wf (s.putBlock a img da bs t i).mem = true :=
  State.putBlock_cases (P := fun t => Mem.wf t.mem = true) (fun _ _ => Mem.wf_writeN _ _ _ h) h

theorem length_slice_le (b : List Byte) (off n : Nat) : (slice b off n).length ≤ n := List.length_take_le ..

/-- A byte outside the block's place is kept. -/
theorem State.read_putBlock_clear {t : State} {i p : Nat} (h : Mem.wf t.mem = true)
    (hp : ∀ loc, s.resolve a img (da + 64 * i) = .at loc → p < loc ∨ loc + 64 ≤ p) :
    Mem.read (s.putBlock a img da bs t i).mem p = Mem.read t.mem p := by
  refine State.putBlock_cases (P := fun u => Mem.read u.mem p = Mem.read t.mem p) (fun loc hr => ?_) rfl
  have short := length_slice_le bs (64 * i) 64
  exact Mem.read_writeN_outside _ _ h _ _ ((hp loc hr).imp_right (by omega))

/-- A byte of a block that has a place is the byte given, as it is stored there. -/
theorem State.read_putBlock_at {t : State} {i loc k : Nat} (h : Mem.wf t.mem = true) (hr : s.resolve a img (da + 64 * i) = .at loc)
    (hi : 64 * i + 64 ≤ bs.length) (hk : k < 64) :
    Mem.read (s.putBlock a img da bs t i).mem (loc + k) = storedByte (loc + k) (bs.getD (64 * i + k) 0) := by
  have inside : k < (slice bs (64 * i) 64).length := by rw [slice, List.length_take, List.length_drop]; omega
  have byte : (slice bs (64 * i) 64)[k] = bs.getD (64 * i + k) 0 := by
    rw [List.getD_eq_getElem _ _ (by omega)]
    exact List.getElem_take.trans List.getElem_drop
  rw [State.putBlock_at hr, State.wr_mem, Mem.read_writeN _ _ h _ _ inside, byte]

variable (h : Mem.wf s.mem = true)
include h

theorem State.putBlocks_wf (n : Nat) : Mem.wf (s.putBlocks a img da bs n).mem = true := by
  induction n with
  | zero => exact h
  | succ n ih =>
    rw [State.putBlocks_succ]
    exact State.putBlock_wf ih n

theorem State.read_putBlocks_clear {n p : Nat} (hp : ∀ i < n, ∀ loc, s.resolve a img (da + 64 * i) = .at loc → p < loc ∨ loc + 64 ≤ p) :
    Mem.read (s.putBlocks a img da bs n).mem p = Mem.read s.mem p := by
  induction n with
  | zero => rfl
  | succ n ih =>
    rw [State.putBlocks_succ, State.read_putBlock_clear (State.putBlocks_wf h n) (hp n n.lt_succ_self)]
    exact ih fun i hi => hp i (Nat.lt_succ_of_lt hi)

/-- A block that shares no byte with a later one holds its own bytes at the end. -/
theorem State.read_putBlocks_at {n i loc k : Nat} (hn : 64 * n ≤ bs.length) (hi : i < n)
    (hr : s.resolve a img (da + 64 * i) = .at loc)
    (later : ∀ j < n, i < j → ∀ l, s.resolve a img (da + 64 * j) = .at l → l + 64 ≤ loc ∨ loc + 64 ≤ l) (hk : k < 64) :
    Mem.read (s.putBlocks a img da bs n).mem (loc + k) = storedByte (loc + k) (bs.getD (64 * i + k) 0) := by
  induction n with
  | zero => exact absurd hi i.not_lt_zero
  | succ n ih =>
    rw [State.putBlocks_succ]
    by_cases last : i = n
    · subst last
      exact State.read_putBlock_at (State.putBlocks_wf h _) hr (by omega) hk
    · have earlier : i < n := by omega
      have apart : ∀ l, s.resolve a img (da + 64 * n) = .at l → loc + k < l ∨ l + 64 ≤ loc + k := fun l hl => by
        have := later n n.lt_succ_self earlier l hl
        omega
      rw [State.read_putBlock_clear (State.putBlocks_wf h n) apart]
      exact ih (by omega) earlier fun j hj => later j (Nat.lt_succ_of_lt hj)

end

/-! ### The rows of the modes (R149) -/

theorem exec_dmaRow {c : (Nat → Desc → Instr) × Nat}
    (hc : c ∈ [(Instr.dmaCopy, 0), (.dmaFill, 1), (.dmaTileSave, 2), (.dmaTileRestore, 3)]) (s : State) (core : Nat) (d : Desc) :
    exec (c.1 core d) s = s.dmaModeRow core d c.2 := by
  simp only [List.mem_cons, List.not_mem_nil, or_false] at hc
  obtain rfl | rfl | rfl | rfl := hc <;> rfl

theorem State.dmaModeRow_other {s : State} {core mode : Nat} {d : Desc} (hok : s.coreOk core = true) (hm : dbits d 3 49 48 ≠ mode) :
    s.dmaModeRow core d mode = .fault .otherRow :=
  (onUnit_present hok).trans (if_neg hm)

theorem State.dmaModeRow_starts {s : State} {core mode : Nat} {d : Desc} (ht : s.unitTakes core kDma d = true)
    (hm : dbits d 3 49 48 = mode) : s.dmaModeRow core d mode = .next (s.dmaStart core d mode) := by
  rw [State.dmaModeRow, onUnit_present (State.unitTakes_coreOk ht), if_pos hm, State.atUnit_takes _ ht]

/-! ### A descriptor starts (R126, R155, R169, R178, R180) -/

/-- No check of a list fails if all of them hold. -/
theorem firstBad_eq_none {l : List (Bool × BadField)} : firstBad l = none ↔ ∀ c ∈ l, c.1 = true := by
  simp only [firstBad, Option.map_eq_none_iff, List.find?_eq_none, Bool.not_eq_true', Bool.not_eq_false]

/-- The bank that a DMA descriptor's addresses are translated under. -/
def State.dmaImg (s : State) (core : Nat) (d : Desc) : Image := s.bankFor (unitDie (coreDie core)) (s.heldFor core kDma d).beat

/-- What a DMA descriptor of a mode reads. -/
def dmaSrcs (d : Desc) (mode : Nat) : Spans := if mode = 0 then dmaRows d false else if mode = 1 then [] else [(dbits d 1 42 0, 0x8000)]

/-- What a DMA descriptor of a mode writes. -/
def dmaDsts (d : Desc) (mode : Nat) : Spans := if mode ≤ 1 then dmaRows d true else [(dbits d 2 42 0, 0x8000)]

/-- Each check of R169 with the field that it finds at fault. -/
def State.dmaChecks (s : State) (core : Nat) (d : Desc) (mode : Nat) : List (Bool × BadField) :=
  [(decide (2 ≤ mode) || dbits d 3 23 0 % 64 == 0, (192, dbits d 3 23 0)),
    (dbits d 1 42 0 % 64 == 0, (64, dbits d 1 42 0)),
    (dbits d 2 42 0 % 64 == 0, (128, dbits d 2 42 0)),
    (mode != 2 || (s.ownTile (dmaAgent core) (s.dmaImg core d) core (dbits d 1 42 0)).isSome, (64, dbits d 1 42 0)),
    (mode != 3 || (s.ownTile (dmaAgent core) (s.dmaImg core d) core (dbits d 2 42 0)).isSome, (128, dbits d 2 42 0)),
    (!spansMeet (dmaSrcs d mode) (dmaDsts d mode), (128, dbits d 2 42 0))]

/-- The first field at fault of a DMA descriptor (R149, R169). -/
def State.dmaFault (s : State) (core : Nat) (d : Desc) (mode : Nat) : Option BadField :=
  (firstReserved d dmaReserved).or (firstBad (s.dmaChecks core d mode))

/-- A DMA descriptor is in order: no reserved bit, lengths and addresses of whole blocks, the core's own tile, and no overlap
by bytes (DEDUCED, log entry 27). -/
def State.DmaOk (s : State) (core : Nat) (d : Desc) (mode : Nat) : Prop :=
  firstReserved d dmaReserved = none ∧ (mode ≤ 1 → dbits d 3 23 0 % 64 = 0) ∧ dbits d 1 42 0 % 64 = 0 ∧ dbits d 2 42 0 % 64 = 0 ∧
    (mode = 2 → (s.ownTile (dmaAgent core) (s.dmaImg core d) core (dbits d 1 42 0)).isSome = true) ∧
    (mode = 3 → (s.ownTile (dmaAgent core) (s.dmaImg core d) core (dbits d 2 42 0)).isSome = true) ∧
    spansMeet (dmaSrcs d mode) (dmaDsts d mode) = false

theorem State.dmaFault_eq_none {s : State} {core mode : Nat} {d : Desc} : s.dmaFault core d mode = none ↔ s.DmaOk core d mode := by
  rw [State.dmaFault, Option.or_eq_none_iff, firstBad_eq_none, State.DmaOk]
  simp only [State.dmaChecks, List.forall_mem_cons, Bool.or_eq_true, decide_eq_true_eq, beq_iff_eq, bne_iff_ne, Bool.not_eq_true',
    List.not_mem_nil, false_imp_iff, implies_true, and_true, or_iff_not_imp_left, not_not, Nat.not_le, Nat.lt_succ_iff]

/-- The bytes that a fill writes over a row (R169). -/
def dmaPattern (d : Desc) (len : Nat) : List Byte := (List.replicate (len / 8) (leBytes 8 (dbits d 6 63 0))).flatMap id

/-- A fill: PATTERN over each row, in order. -/
def State.dmaFillRows (s : State) (core : Nat) (d : Desc) (mode : Nat) : State :=
  (dmaDsts d mode).foldl (fun t x => t.wrDa (dmaAgent core) (s.dmaImg core d) x.1 (dmaPattern d x.2)) s

/-- A copy, save or restore: the rows that a descriptor names, in order, up to a poisoned block. -/
def State.dmaCopied (s : State) (core : Nat) (d : Desc) (mode : Nat) : State × Option Nat :=
  s.dmaCopyRows (dmaAgent core) (s.dmaImg core d) ((dmaSrcs d mode).zip (dmaDsts d mode))

/-- The transfer of a descriptor whose checks hold and whose spans are mapped and free. -/
def State.dmaTransfer (s : State) (core : Nat) (d : Desc) (mode : Nat) : State :=
  if mode = 1 then (s.dmaFillRows core d mode).complete core kDma d
  else (s.dmaCopied core d mode).2.elim ((s.dmaCopied core d mode).1.complete core kDma d)
    ((s.dmaCopied core d mode).1.dmaPoison core d (dmaAgent core) (s.dmaImg core d))

/-- A descriptor whose checks hold, by what its spans map to. -/
def State.dmaReach (s : State) (core : Nat) (d : Desc) (mode : Nat) : RangeRes → RangeRes → State
  | .unmapped da, _ => (s.unmappedEv (dmaAgent core) da).dmaRefuse core d (64, dbits d 1 42 0)
  | _, .unmapped da => (s.unmappedEv (dmaAgent core) da).dmaRefuse core d (128, dbits d 2 42 0)
  | .ok, .ok =>
    if s.spansFree core kDma d (dmaAgent core) (s.dmaImg core d) (dmaSrcs d mode ++ dmaDsts d mode) then s.dmaTransfer core d mode
    else s.hold core kDma d
  | _, _ => s.hold core kDma d

section
variable {s : State} {core mode : Nat} {d : Desc}

theorem State.dmaTransfer_fill (hm : mode = 1) : s.dmaTransfer core d mode = (s.dmaFillRows core d mode).complete core kDma d := if_pos hm

theorem State.dmaTransfer_copies (hm : mode ≠ 1) (hp : (s.dmaCopied core d mode).2 = none) :
    s.dmaTransfer core d mode = (s.dmaCopied core d mode).1.complete core kDma d := by
  rw [State.dmaTransfer, if_neg hm, hp, Option.elim_none]

theorem State.dmaTransfer_poison {p : Nat} (hm : mode ≠ 1) (hp : (s.dmaCopied core d mode).2 = some p) :
    s.dmaTransfer core d mode = (s.dmaCopied core d mode).1.dmaPoison core d (dmaAgent core) (s.dmaImg core d) p := by
  rw [State.dmaTransfer, if_neg hm, hp, Option.elim_some]

theorem State.dmaReach_dst {r : RangeRes} {da : Nat} (hr : ∀ x, r ≠ .unmapped x) : s.dmaReach core d mode r (.unmapped da) =
    (s.unmappedEv (dmaAgent core) da).dmaRefuse core d (128, dbits d 2 42 0) := by
  cases r with
  | unmapped x => exact absurd rfl (hr x)
  | ok => rfl
  | wait => rfl

theorem State.dmaReach_busy (hf : s.spansFree core kDma d (dmaAgent core) (s.dmaImg core d) (dmaSrcs d mode ++ dmaDsts d mode) = false) :
    s.dmaReach core d mode .ok .ok = s.hold core kDma d :=
  if_neg (ne_true_of_eq_false hf)

theorem State.dmaReach_free (hf : s.spansFree core kDma d (dmaAgent core) (s.dmaImg core d) (dmaSrcs d mode ++ dmaDsts d mode) = true) :
    s.dmaReach core d mode .ok .ok = s.dmaTransfer core d mode :=
  if_pos hf

theorem State.dmaStart_waits (hc : s.canStart core kDma d = false) : s.dmaStart core d mode = s.hold core kDma d :=
  if_pos (by rw [hc, Bool.not_false])

variable (hm : mode < 4)
include hm

theorem dmaSrcs_eq : (if mode = 0 then dmaRows d false else if mode = 3 then [(dbits d 1 42 0, 0x8000)]
    else if mode = 2 then [(dbits d 1 42 0, 0x8000)] else []) = dmaSrcs d mode := by
  obtain rfl | rfl | rfl | rfl : mode = 0 ∨ mode = 1 ∨ mode = 2 ∨ mode = 3 := by omega
  all_goals rfl

variable (hc : s.canStart core kDma d = true)
include hc

/-- A descriptor that may start is checked, and one without a fault goes by what its spans map to. -/
theorem State.dmaStart_checks : s.dmaStart core d mode = (s.dmaFault core d mode).elim
    (s.dmaReach core d mode (s.spansRange (dmaAgent core) (s.dmaImg core d) (dmaSrcs d mode))
      (s.spansRange (dmaAgent core) (s.dmaImg core d) (dmaDsts d mode)))
    (s.dmaRefuse core d) := by
  have go : ¬(!s.canStart core kDma d) = true := by rw [hc, Bool.not_true]; exact Bool.false_ne_true
  rw [State.dmaStart, if_neg go]
  simp only [dmaSrcs_eq hm, ← State.dmaImg.eq_def, ← dmaDsts.eq_def, ← State.dmaChecks.eq_def]
  rw [State.dmaFault]
  cases firstReserved d dmaReserved with
  | some b => rfl
  | none =>
    rw [Option.none_or]
    cases firstBad (s.dmaChecks core d mode) with
    | some b => rfl
    | none =>
      rw [Option.elim_none]
      cases s.spansRange (dmaAgent core) (s.dmaImg core d) (dmaSrcs d mode) with
      | unmapped da => rfl
      | wait => cases s.spansRange (dmaAgent core) (s.dmaImg core d) (dmaDsts d mode) <;> rfl
      | ok =>
        cases s.spansRange (dmaAgent core) (s.dmaImg core d) (dmaDsts d mode) with
        | unmapped da => rfl
        | wait => rfl
        | ok =>
          cases hf : s.spansFree core kDma d (dmaAgent core) (s.dmaImg core d) (dmaSrcs d mode ++ dmaDsts d mode) with
          | false => exact (State.dmaReach_busy hf).symm
          | true =>
            rw [State.dmaReach_free hf, State.dmaTransfer, State.dmaCopied]
            cases s.dmaCopyRows (dmaAgent core) (s.dmaImg core d) ((dmaSrcs d mode).zip (dmaDsts d mode)) with
            | mk t p => cases p <;> rfl

theorem State.dmaStart_refuses (h : ¬ s.DmaOk core d mode) : ∃ b, s.dmaStart core d mode = s.dmaRefuse core d b := by
  obtain ⟨b, hb⟩ := Option.ne_none_iff_exists'.mp (mt State.dmaFault_eq_none.mp h)
  exact ⟨b, by rw [State.dmaStart_checks hm hc, hb, Option.elim_some]⟩

theorem State.dmaStart_reaches (h : s.DmaOk core d mode) : s.dmaStart core d mode =
    s.dmaReach core d mode (s.spansRange (dmaAgent core) (s.dmaImg core d) (dmaSrcs d mode))
      (s.spansRange (dmaAgent core) (s.dmaImg core d) (dmaDsts d mode)) := by
  rw [State.dmaStart_checks hm hc, State.dmaFault_eq_none.mpr h, Option.elim_none]

end

/-- Settles O17: the write block by block, the rows of the modes, and the start of a descriptor by its checks and what it maps to. -/
theorem dmaMovesRowsThroughTheMap : Obligations.DmaMovesRowsThroughTheMap := by
  unfold Obligations.DmaMovesRowsThroughTheMap
  refine ⟨fun s a img da bs hw hda hn => ?_, fun c hc s core d hok => ?_, fun s core d mode hm => ?_⟩
  · obtain ⟨m, p, same⟩ := s.wrDa_eq a img da bs
    refine ⟨by rw [same], by rw [same], by rw [same], ?_⟩
    rw [State.wrDa_aligned hda hn]
    exact ⟨fun _ => State.read_putBlocks_clear hw, fun i hi loc hr later k => State.read_putBlocks_at hw (by omega) hi hr later⟩
  · rw [exec_dmaRow hc]
    exact ⟨State.dmaModeRow_other hok, fun h ht => State.dmaModeRow_starts ht h⟩
  · refine ⟨State.dmaStart_waits, fun hc => ⟨State.dmaStart_refuses hm hc, fun hok => ?_⟩⟩
    rw [State.dmaStart_reaches hm hc hok]
    refine ⟨fun da hs => ?_, fun da hs hd => ?_, fun hs hd => ?_, fun hs hd => ?_⟩
    · exact congrArg (s.dmaReach core d mode · _) hs
    · exact (congrArg (s.dmaReach core d mode _) hd).trans (State.dmaReach_dst hs)
    · exact congrArg₂ (s.dmaReach core d mode) hs hd
    · have reach := congrArg₂ (s.dmaReach core d mode) hs hd
      refine ⟨fun hf => reach.trans (State.dmaReach_busy hf), fun hf => ?_⟩
      have moves := reach.trans (State.dmaReach_free hf)
      exact ⟨fun h => moves.trans (State.dmaTransfer_fill h), fun h hp => moves.trans (State.dmaTransfer_copies h hp),
        fun p h hp => moves.trans (State.dmaTransfer_poison h hp)⟩

end Sys2Proof.Machine

/-! The tidy core's own instructions: a descriptor register loaded, stored, set and issued, and the completed counts (O10). -/
namespace Sys2Proof.Machine

/-! ### An instruction of a core's program (R140, R141) -/

theorem State.onProgram_runs {s : State} {core : Nat} (f : State → State) (hok : s.coreOk core = true) (hr : s.programRuns core = true) :
    s.onProgram core f = .next (f s) :=
  (onUnit_present hok).trans (congrArg Host.Outcome.next (if_pos hr))

theorem State.onProgram_idle {s : State} {core : Nat} (f : State → State) (hok : s.coreOk core = true) (hr : s.programRuns core = false) :
    s.onProgram core f = .next s :=
  (onUnit_present hok).trans (congrArg Host.Outcome.next (if_neg (by simp [hr])))

/-- An instruction that leaves the state as it is where the program runs does so on every present core. -/
theorem State.onProgram_same {s : State} {core : Nat} {f : State → State} (hok : s.coreOk core = true) (h : s.programRuns core = true → f s = s) :
    s.onProgram core f = .next s := by
  cases hr : s.programRuns core with
  | true => rw [State.onProgram_runs f hok hr, h hr]
  | false => exact State.onProgram_idle f hok hr

/-! ### TD_LD and TD_ST: 64 bytes of core memory (R123, R140) -/

/-- Core memory lies below the accumulator window, so a byte of it is stored as it is. -/
theorem storedByte_coreMem {core off : Nat} (h : off < coreMem) (b : Byte) : storedByte (coreLoc core off) b = b := by
  have low : coreLoc core off % 2 ^ 24 < 0x400000 := by
    unfold coreMem at h
    unfold coreLoc
    omega
  have outside : isAcc (coreLoc core off) = false := decide_eq_false fun ⟨_, _, window⟩ => Nat.not_lt.mpr window low
  rw [storedByte, outside, if_neg Bool.false_ne_true]

/-- The descriptor of 64 bytes of core memory. -/
def State.coreDesc (s : State) (core addr : Nat) : Desc := BitVec.ofNat 512 (leNat (s.rd (coreLoc core addr) 64))

/-- A descriptor register takes a value. -/
def State.setDreg (s : State) (core dn : Nat) (d : Desc) : State :=
  s.setCore core { s.core core with dreg := KMap.set (s.core core).dreg (dn % 8) d }

theorem State.setDreg_dreg (s : State) (core dn : Nat) (d : Desc) : KMap.get ((s.setDreg core dn d).core core).dreg (dn % 8) 0 = d := by
  rw [State.setDreg, State.core_setCore, KMap.get_set_self]

theorem exec_tdLd (s : State) (core dn addr : Nat) : exec (.tdLd core dn addr) s =
    s.onProgram core fun s => if addr % 64 = 0 ∧ addr + 64 ≤ coreMem then s.setDreg core dn (s.coreDesc core addr) else s := rfl

theorem exec_tdSt (s : State) (core dn addr : Nat) : exec (.tdSt core dn addr) s =
    s.onProgram core fun s => if addr % 64 = 0 ∧ addr + 64 ≤ coreMem then
      s.wr (coreLoc core addr) (leBytes 64 (KMap.get (s.core core).dreg (dn % 8) 0).toNat) else s := rfl

theorem exec_tdLd_at {s : State} {core addr : Nat} (dn : Nat) (hok : s.coreOk core = true) (hr : s.programRuns core = true)
    (ha : addr % 64 = 0) (hb : addr + 64 ≤ coreMem) :
    exec (.tdLd core dn addr) s = .next (s.setDreg core dn (s.coreDesc core addr)) := by
  rw [exec_tdLd, State.onProgram_runs _ hok hr, if_pos ⟨ha, hb⟩]

theorem exec_tdSt_at {s : State} {core addr : Nat} (dn : Nat) (hok : s.coreOk core = true) (hr : s.programRuns core = true)
    (ha : addr % 64 = 0) (hb : addr + 64 ≤ coreMem) :
    exec (.tdSt core dn addr) s = .next (s.wr (coreLoc core addr) (leBytes 64 (KMap.get (s.core core).dreg (dn % 8) 0).toNat)) := by
  rw [exec_tdSt, State.onProgram_runs _ hok hr, if_pos ⟨ha, hb⟩]

/-- Byte k of n bytes written into core memory reads back. -/
theorem State.read_wr_coreMem {s : State} (hw : Mem.wf s.mem = true) {core addr k : Nat} {bs : List Byte} (hk : k < bs.length)
    (hb : addr + bs.length ≤ coreMem) : Mem.read (s.wr (coreLoc core addr) bs).mem (coreLoc core addr + k) = bs.getD k 0 := by
  have place : coreLoc core addr + k = coreLoc core (addr + k) := Nat.add_assoc ..
  rw [State.wr_mem, Mem.read_writeN bs _ hw _ _ hk, place, storedByte_coreMem (by omega), List.getD_eq_getElem _ _ hk]

theorem exec_tdLd_tdSt_outside {s : State} {core addr : Nat} (dn : Nat) (hok : s.coreOk core = true)
    (h : addr % 64 ≠ 0 ∨ coreMem < addr + 64) : exec (.tdLd core dn addr) s = .next s ∧ exec (.tdSt core dn addr) s = .next s := by
  have off : ¬(addr % 64 = 0 ∧ addr + 64 ≤ coreMem) := by omega
  exact ⟨State.onProgram_same hok fun _ => if_neg off, State.onProgram_same hok fun _ => if_neg off⟩

/-! ### TD_SETF: a field of a descriptor register (R140) -/

theorem exec_tdSetf_eq (s : State) (core dn : Nat) (v sel : Word) : exec (.tdSetf core dn v sel) s =
    s.onProgram core fun s => s.setDreg core dn (setfWord (KMap.get (s.core core).dreg (dn % 8) 0) v.toNat sel.toNat) := rfl

theorem exec_tdSetf {s : State} {core : Nat} (dn : Nat) (v sel : Word) (hok : s.coreOk core = true) (hr : s.programRuns core = true) :
    exec (.tdSetf core dn v sel) s = .next (s.setDreg core dn (setfWord (KMap.get (s.core core).dreg (dn % 8) 0) v.toNat sel.toNat)) := by
  rw [exec_tdSetf_eq, State.onProgram_runs _ hok hr]

/-- The field that TD_SETF names takes the low bits of the value; every other bit stays. -/
theorem testBit_setfWord (d : Desc) (v sel : Nat) {i : Nat} (hi : i < 512) : (setfWord d v sel).toNat.testBit i =
    if 64 * bits sel 2 0 + bits sel 8 3 ≤ i ∧ i ≤ 64 * bits sel 2 0 + min (bits sel 8 3 + bits sel 14 9) 63 then
      v.testBit (i - (64 * bits sel 2 0 + bits sel 8 3)) else d.toNat.testBit i := by
  have lsb : bits sel 8 3 < 64 := bits_lt sel 8 3
  refine (BitVec.getLsbD_ofNat ..).trans ?_
  rw [testBit_putBits _ _ _ _ _ (by omega), decide_eq_true hi, Bool.true_and]

/-! ### TD_ISSUE: a descriptor through the issue port (R140, R141, R143) -/

/-- What TD_ISSUE does where the program runs and issue is not stopped: it refuses or issues the descriptor, or stalls. -/
def State.tdPort (s : State) (core rd dn : Nat) : State :=
  if !s.tdyAdmits (KMap.get (s.core core).dreg (dn % 8) 0) || s.canIssue core (KMap.get (s.core core).dreg (dn % 8) 0) then
    (s.tdyDo core noQid (KMap.get (s.core core).dreg (dn % 8) 0)).setX core (rd % 32) (BitVec.ofNat 64 (s.core core).seq)
  else s.setCore core { s.core core with stall := some (rd % 32, dn % 8) }

theorem exec_tdIssue (s : State) (core rd dn : Nat) : exec (.tdIssue core rd dn) s =
    s.onProgram core fun s => if (s.core core).wait != .none then s else s.tdPort core rd dn := rfl

theorem exec_tdIssue_stopped {s : State} {core : Nat} (rd dn : Nat) (hok : s.coreOk core = true) (hw : (s.core core).wait ≠ .none) :
    exec (.tdIssue core rd dn) s = .next s := by
  rw [exec_tdIssue]
  exact State.onProgram_same hok fun _ => if_pos (by simpa using hw)

section
variable {s : State} {core dn : Nat} (rd : Nat) (hok : s.coreOk core = true) (hr : s.programRuns core = true) (hw : (s.core core).wait = .none)
include hok hr hw

theorem exec_tdIssue_port : exec (.tdIssue core rd dn) s = .next (s.tdPort core rd dn) := by
  rw [exec_tdIssue, State.onProgram_runs _ hok hr, if_neg (by simp [hw])]

theorem exec_tdIssue_full (ha : s.tdyAdmits (KMap.get (s.core core).dreg (dn % 8) 0) = true)
    (hc : s.canIssue core (KMap.get (s.core core).dreg (dn % 8) 0) = false) :
    exec (.tdIssue core rd dn) s = .next (s.setCore core { s.core core with stall := some (rd % 32, dn % 8) }) := by
  rw [exec_tdIssue_port rd hok hr hw, State.tdPort, if_neg (by rw [ha, hc]; exact Bool.false_ne_true)]

theorem exec_tdIssue_refused (ha : s.tdyAdmits (KMap.get (s.core core).dreg (dn % 8) 0) = false) : exec (.tdIssue core rd dn) s =
    .next ((s.tdyRefuse core noQid (KMap.get (s.core core).dreg (dn % 8) 0)).setX core (rd % 32) (BitVec.ofNat 64 (s.core core).seq)) := by
  rw [exec_tdIssue_port rd hok hr hw, State.tdPort, if_pos (by rw [ha]; rfl), State.tdyDo, if_pos (by rw [ha]; rfl)]

end

theorem State.canIssue_wait {s : State} {core : Nat} {d : Desc} (h : s.canIssue core d = true) : (s.core core).wait = .none := by
  simp only [State.canIssue, Bool.and_eq_true, beq_iff_eq] at h
  exact h.1.1.1

/-- An admitted matrix descriptor whose engine is not gated is issued to it. -/
theorem State.tdyDo_matrix {s : State} {core qid : Nat} {d : Desc} (ha : s.tdyAdmits d = true) (hc : descClass d = 1)
    (hg : s.gateOf core kMxe = none) : s.tdyDo core qid d = s.issue core kMxe qid d := by
  simp only [State.tdyDo, ha, hc, Bool.not_true, Bool.false_eq_true, if_false, kindOfClass, hg]

/-- The held record that a descriptor issued now gets. -/
def State.newHeld (s : State) (core kind qid : Nat) (d : Desc) : Held := ⟨(s.core core).seq, kind, qid, descMb d, (s.core core).pkt, s.now, d⟩

/-- Issue adds the descriptor's record to its core. -/
theorem State.core_issue (s : State) (core kind qid : Nat) (d : Desc) : (s.issue core kind qid d).core core =
    { s.core core with held := (s.core core).held ++ [s.newHeld core kind qid d], seq := (s.core core).seq + 1 } := by
  unfold State.issue State.syncKind
  split
  · exact State.core_setCore ..
  · exact State.core_setCore ..

theorem State.core_setX {s : State} {core rd : Nat} (v : Word) (h : rd ≠ 0) :
    (s.setX core rd v).core core = { s.core core with x := KMap.set (s.core core).x rd v } := by
  rw [State.setX, if_neg h, State.core_setCore]

theorem State.setX_zero (s : State) (core : Nat) (v : Word) : s.setX core 0 v = s := if_pos rfl

/-- A write of an integer register leaves what else its core holds. -/
theorem State.setX_core (s : State) (core rd : Nat) (v : Word) :
    ∃ x, (s.setX core rd v).core core = { s.core core with x := x } := by
  by_cases h : rd = 0
  · exact ⟨(s.core core).x, by rw [h, State.setX_zero]⟩
  · exact ⟨_, State.core_setX v h⟩

theorem State.setX_mem (s : State) (core rd : Nat) (v : Word) : (s.setX core rd v).mem = s.mem := by
  unfold State.setX
  split <;> rfl

theorem State.q1Wake_mem (s : State) (clu : Nat) : (s.q1Wake clu).mem = s.mem := by
  unfold State.q1Wake
  split
  · dsimp only
    split <;> rfl
  · rfl

@[simp] theorem State.syncKind_mem (s : State) (core kind : Nat) : (s.syncKind core kind).mem = s.mem := by
  unfold State.syncKind
  split <;> rfl

theorem State.issue_mem (s : State) (core kind qid : Nat) (d : Desc) : (s.issue core kind qid d).mem = s.mem := by
  rw [State.issue, State.syncKind_mem, State.syncMxe_mem, State.setCore_mem, State.q1Wake_mem]

/-! ### TD_DONE (R140), and where no program runs (R141) -/

theorem exec_tdDone_eq (s : State) (core rd : Nat) (v : Word) : exec (.tdDone core rd v) s =
    s.onProgram core fun s => s.setX core (rd % 32) (BitVec.ofNat 64 (KMap.get (s.core core).done v.toNat 0)) := rfl

theorem exec_tdDone {s : State} {core : Nat} (rd : Nat) (v : Word) (hok : s.coreOk core = true) (hr : s.programRuns core = true) :
    exec (.tdDone core rd v) s = .next (s.setX core (rd % 32) (BitVec.ofNat 64 (KMap.get (s.core core).done v.toNat 0))) := by
  rw [exec_tdDone_eq, State.onProgram_runs _ hok hr]

/-- What TD_NEXT does with the item that it takes. -/
def State.nextItem (core rd dn : Nat) (s : State) (d : Desc) : State := (s.setDreg core dn d).setX core (rd % 32) (BitVec.ofNat 64 (descClass d))

/-- TD_NEXT takes the next item of the queue of the packet that is chosen or in progress, or writes 0 to rd. -/
theorem exec_tdNext (s : State) (core rd dn : Nat) : exec (.tdNext core rd dn) s = s.onProgram core fun s =>
    if ((s.core core).chosen || (s.core core).inPacket) && (s.core core).dropping.isNone &&
        (s.qPeek (s.get .TDY_QBIND_QID core (s.core core).bind)).isSome then
      (s.setX core (rd % 32) 0).coreTake core (s.get .TDY_QBIND_QID core (s.core core).bind) (State.nextItem core rd dn)
    else if (s.core core).inPacket then (s.qPoisonEnd (s.get .TDY_QBIND_QID core (s.core core).bind)).setX core (rd % 32) 0
    else s.setX core (rd % 32) 0 := rfl

/-- Each instruction of a program is one: where no program runs it does nothing. -/
theorem exec_td_idle {s : State} {core : Nat} (dn rd addr : Nat) (v w : Word) (hok : s.coreOk core = true) (hr : s.programRuns core = false) :
    ∀ c ∈ [Instr.tdLd core dn addr, .tdSt core dn addr, .tdSetf core dn v w, .tdIssue core rd dn, .tdNext core rd dn, .tdDone core rd v],
      exec c s = .next s := by
  have program : ∀ c ∈ [Instr.tdLd core dn addr, .tdSt core dn addr, .tdSetf core dn v w, .tdIssue core rd dn, .tdNext core rd dn,
      .tdDone core rd v], ∃ f, exec c s = s.onProgram core f := by
    simp only [List.forall_mem_cons, List.not_mem_nil, false_implies, implies_true, and_true]
    exact ⟨⟨_, exec_tdLd ..⟩, ⟨_, exec_tdSt ..⟩, ⟨_, exec_tdSetf_eq ..⟩, ⟨_, exec_tdIssue ..⟩, ⟨_, exec_tdNext ..⟩,
      ⟨_, exec_tdDone_eq ..⟩⟩
  intro c hc
  obtain ⟨f, hf⟩ := program c hc
  exact hf.trans (State.onProgram_idle f hok hr)

/-- Settles O10, instruction by instruction. -/
theorem tidyCoreInstructionsMoveDescriptors : Obligations.TidyCoreInstructionsMoveDescriptors := by
  unfold Obligations.TidyCoreInstructionsMoveDescriptors
  refine ⟨fun s core dn addr hok hr ha hb => ⟨_, exec_tdLd_at dn hok hr ha hb, State.setDreg_dreg .., rfl⟩,
    fun s core dn addr hok hr hw ha hb => ⟨_, exec_tdSt_at dn hok hr ha hb, State.wr_cores .., State.wr_flds .., fun k hk => ?_, fun a out => ?_⟩,
    fun s core dn addr hok _ h => exec_tdLd_tdSt_outside dn hok h,
    fun s core dn v sel hok hr => ⟨_, exec_tdSetf dn v sel hok hr, ?_, fun i hi => ?_⟩, fun s core rd dn hok => ?_,
    fun s core rd dn hok => exec_tdIssue_stopped rd dn hok, fun s core rd dn hok hr hw => exec_tdIssue_full rd hok hr hw,
    fun s core rd v hok hr hx => ⟨_, exec_tdDone rd v hok hr, if_neg hx⟩,
    fun s core rd v hok hr hx => ?_, fun s core rd dn hok hr hw => exec_tdIssue_refused rd hok hr hw,
    fun s core dn rd addr v w hok hr => exec_td_idle dn rd addr v w hok hr⟩
  · exact State.read_wr_coreMem hw (by rwa [length_leBytes]) (by rwa [length_leBytes])
  · exact Mem.read_writeN_outside _ _ hw _ _ (by rwa [length_leBytes])
  · rw [State.setDreg_dreg]
    rfl
  · rw [State.setDreg_dreg]
    exact testBit_setfWord _ _ _ hi
  · intro d hr hi ha hc hg hq
    have issues : exec (.tdIssue core rd dn) s = .next ((s.issue core kMxe noQid d).setX core (rd % 32) (BitVec.ofNat 64 (s.core core).seq)) := by
      rw [exec_tdIssue_port rd hok hr (State.canIssue_wait hi), State.tdPort, if_pos (Bool.or_eq_true_iff.mpr (.inr hi)),
        State.tdyDo_matrix ha hc hg]
    obtain ⟨x, same⟩ := (s.issue core kMxe noQid d).setX_core core (rd % 32) (BitVec.ofNat 64 (s.core core).seq)
    refine ⟨_, issues, ?_, ?_, ?_, fun hx => ?_, fun hx => ?_⟩
    · rw [same, State.core_issue]
      rfl
    · rw [same, State.core_issue]
    · rw [State.setX_mem, State.issue_mem]
    · rw [State.core_setX _ hx, KMap.get_set_self]
    · rw [hx, State.setX_zero, State.core_issue]
  · rw [exec_tdDone rd v hok hr, hx, State.setX_zero]

end Sys2Proof.Machine

/-! The scheduler's choice, the taking of a packet, and the taking of a queue's items (O16). -/
namespace Sys2Proof.Machine

/-! ### The choice among candidates (R159) -/

/-- The choice is one of the candidates, none of which has a lesser key; there is none only where there is no candidate. -/
theorem State.candBest_spec (s : State) (core : Nat) (l : List Cand) : (s.candBest core l = none ↔ l = []) ∧
    ∀ k, s.candBest core l = some k → k ∈ l ∧ ∀ k' ∈ l, ¬ s.candKey core k' < s.candKey core k := by
  induction l with
  | nil => exact ⟨iff_of_true rfl rfl, fun k h => nomatch h⟩
  | cons c l ih =>
    obtain ⟨empty, best⟩ := ih
    cases hb : s.candBest core l with
    | none =>
      rw [State.candBest, hb, empty.mp hb]
      refine ⟨by simp, fun k h => ?_⟩
      cases h
      simp
    | some b =>
      obtain ⟨mem, least⟩ := best b hb
      by_cases hlt : s.candKey core b < s.candKey core c
      · rw [State.candBest, hb]
        simp only [if_pos hlt]
        refine ⟨by simp, fun k h => ?_⟩
        cases h
        exact ⟨List.mem_cons_of_mem _ mem, List.forall_mem_cons.mpr ⟨hlt.asymm, least⟩⟩
      · rw [State.candBest, hb]
        simp only [if_neg hlt]
        refine ⟨by simp, fun k h => ?_⟩
        cases h
        refine ⟨List.mem_cons_self, List.forall_mem_cons.mpr ⟨lt_irrefl _, fun k' hk => ?_⟩⟩
        exact not_lt.mpr ((not_lt.mp hlt).trans (not_lt.mp (least k' hk)))

/-! ### Taking a packet (R157, R159, R160) -/

/-- The tiles that a switch to a micro-batch moves are moved. -/
def State.tilesMoved (s : State) (core mb : Nat) : State :=
  if s.switchTiles core mb ≠ 0 ∧ mb ≠ s.curMb core then (s.saveTiles core).restoreTiles core mb else s

/-- Whether a packet of a micro-batch is a switch. -/
def State.isSwitch (s : State) (core mb : Nat) : Bool := mb != s.curMb core && (s.curMb core != 0xffff || s.switchTiles core mb != 0)

/-- A switch is counted, with its cycles. -/
def State.switchCounted (s : State) (core mb : Nat) : State :=
  if s.isSwitch core mb then
    ((s.tilesMoved core mb).bumpSat .TDY_SWITCH_SWITCHES 1 core).bumpSat .TDY_SWITCH_CYCLES (512 * s.switchTiles core mb) core
  else s.tilesMoved core mb

/-- The record of a core that a candidate's packet is chosen for. -/
def CoreSt.choose (c : CoreSt) (k : Cand) : CoreSt :=
  { c with wait := .none, bind := k.bind, chosen := true, level := k.level, packetMb := k.mb }

/-- A candidate's micro-batch is the running one and its packet the chosen one. -/
def State.beginPacket (s : State) (core : Nat) (k : Cand) : State :=
  ((s.set .TDY_STATUS_CUR_MB k.mb core).setCore core ((s.core core).choose k)).tdyState core 1

theorem State.takePacket_eq (s : State) (core : Nat) (k : Cand) : s.takePacket core k = (s.switchCounted core k.mb).beginPacket core k := rfl

theorem State.beginPacket_core (s : State) (core : Nat) (k : Cand) : (s.beginPacket core k).core core = (s.core core).choose k := KMap.get_set_self ..

theorem State.beginPacket_curMb (s : State) (core : Nat) (k : Cand) : (s.beginPacket core k).get .TDY_STATUS_CUR_MB core = k.mb % 2 ^ 16 := by
  rw [State.beginPacket, State.tdyState, State.get_set_ne _ _ _ _ _ _ _ _ (.inl (by decide)), State.setCore_get, State.get_set_self]
  rfl

theorem State.beginPacket_get (s : State) (core : Nat) (k : Cand) {f : Field} (u i : Nat) (h : f ≠ .TDY_STATUS_CUR_MB ∧ f ≠ .TDY_STATUS_STATE) :
    (s.beginPacket core k).get f u i = s.get f u i := by
  rw [State.beginPacket, State.tdyState, State.get_set_ne _ _ _ _ _ _ _ _ (.inl h.2), State.setCore_get, State.get_set_ne _ _ _ _ _ _ _ _ (.inl h.1)]

theorem State.switchCounted_mem (s : State) (core mb : Nat) : (s.switchCounted core mb).mem = (s.tilesMoved core mb).mem := by
  unfold State.switchCounted
  split <;> rfl

/-- With no tile to move, or with no change of micro-batch, no tile moves. -/
theorem State.tilesMoved_none {s : State} {core mb : Nat} (h : s.switchTiles core mb = 0 ∨ mb = s.curMb core) : s.tilesMoved core mb = s :=
  if_neg fun ⟨hn, hm⟩ => h.elim hn hm

theorem State.takePacket_mem {s : State} {core : Nat} {k : Cand} (h : s.switchTiles core k.mb = 0 ∨ k.mb = s.curMb core) :
    (s.takePacket core k).mem = s.mem := by
  rw [State.takePacket_eq]
  exact (s.switchCounted_mem core k.mb).trans (congrArg State.mem (State.tilesMoved_none h))

theorem State.bumpSat_get (s : State) (f : Field) (n u i : Nat) : (s.bumpSat f n u i).get f u i = min (s.get f u i + n) (2 ^ f.width - 1) := by
  have positive : 0 < 2 ^ f.width := Nat.two_pow_pos _
  rw [State.bumpSat_eq, State.get_set_self, satAdd, Nat.mod_eq_of_lt (by omega)]

/-- A switch from a running micro-batch with no tile to move counts one. -/
theorem State.takePacket_switches {s : State} {core : Nat} {k : Cand} (hn : s.switchTiles core k.mb = 0) (hm : k.mb ≠ s.curMb core)
    (hc : s.curMb core ≠ 0xffff) :
    (s.takePacket core k).get .TDY_SWITCH_SWITCHES core = min (s.get .TDY_SWITCH_SWITCHES core + 1) (2 ^ 32 - 1) := by
  have switch : s.isSwitch core k.mb = true := by simp [State.isSwitch, hm, hc]
  rw [State.takePacket_eq, State.beginPacket_get _ _ _ _ _ (by decide), State.switchCounted, if_pos switch, State.tilesMoved_none (.inl hn),
    State.bumpSat_eq _ .TDY_SWITCH_CYCLES, State.get_set_ne _ _ _ _ _ _ _ _ (.inl (by decide)), State.bumpSat_get]
  rfl

/-! ### The scheduler's commands (R158, R159) -/

section
variable {s : State} {core : Nat} (hok : s.coreOk core = true)
include hok

section
variable (hb : s.atBoundary core = true)
include hb

theorem exec_schedulerPacketBoundary_best {k : Cand}
    (h : s.candBest core ((s.readyCands core).filter fun k => k.mb == s.curMb core) = some k) :
    exec (.schedulerPacketBoundary core) s = .next (s.takePacket core k) := by
  refine (onUnit_present hok).trans (congrArg Host.Outcome.next ((if_pos hb).trans ?_))
  simp only [h]

theorem exec_schedulerPacketBoundary_none (h : s.candBest core ((s.readyCands core).filter fun k => k.mb == s.curMb core) = none) :
    exec (.schedulerPacketBoundary core) s = .next (s.setWait core .switch) := by
  refine (onUnit_present hok).trans (congrArg Host.Outcome.next ((if_pos hb).trans ?_))
  simp only [h]

theorem exec_switchWaitExpiry_best {k : Cand} (hw : (s.core core).wait = .switch) (h : s.candBest core (s.readyCands core) = some k) :
    exec (.switchWaitExpiry core) s = .next (s.takePacket core k) := by
  refine (onUnit_present hok).trans (congrArg Host.Outcome.next ((if_pos (by simp [hb, hw])).trans ?_))
  simp only [h]

theorem exec_switchWaitExpiry_none (hw : (s.core core).wait = .switch) (h : s.candBest core (s.readyCands core) = none) :
    exec (.switchWaitExpiry core) s = .next ((s.setCore core { s.core core with wait := .none }).tdyState core 0) := by
  refine (onUnit_present hok).trans (congrArg Host.Outcome.next ((if_pos (by simp [hb, hw])).trans ?_))
  simp only [h]

section
variable {mb : Nat} (hm : ((s.core core).wait = .none ∧ s.get .TDY_STATUS_STATE core = 0) ∨ mb = s.curMb core)
include hm

theorem exec_packetReady_best {k : Cand} (h : s.candBest core ((s.readyCands core).filter fun k => k.mb == mb) = some k) :
    exec (.packetReady core mb) s = .next (s.takePacket core k) := by
  refine (onUnit_present hok).trans (congrArg Host.Outcome.next ((if_pos (by simpa [hb] using hm)).trans ?_))
  simp only [h]

theorem exec_packetReady_none (h : s.candBest core ((s.readyCands core).filter fun k => k.mb == mb) = none) :
    exec (.packetReady core mb) s = .next s := by
  refine (onUnit_present hok).trans (congrArg Host.Outcome.next ((if_pos (by simpa [hb] using hm)).trans ?_))
  simp only [h]

end
end

theorem exec_scheduler_busy (mb : Nat) (hb : s.atBoundary core = false) : exec (.schedulerPacketBoundary core) s = .next s ∧
    exec (.switchWaitExpiry core) s = .next s ∧ exec (.packetReady core mb) s = .next s :=
  ⟨(onUnit_present hok).trans (congrArg Host.Outcome.next (if_neg (by simp [hb]))),
    (onUnit_present hok).trans (congrArg Host.Outcome.next (if_neg (by simp [hb]))),
    (onUnit_present hok).trans (congrArg Host.Outcome.next (if_neg (by simp [hb])))⟩

end

/-! ### QUEUE_TAKE (R300, R301, R308) -/

section
variable {s : State} {q l : Nat} {v : QD} (hq : q < 2 ^ 20)
include hq

theorem exec_queueTake_nothing (hp : s.qPeek q = none) (hf : s.qFind q ≠ .poison) : exec (.queueTake q) s = .next s := by
  show execQueueTake q s = _
  simp only [execQueueTake, Nat.mod_eq_of_lt hq, hp, State.qPoisonEnd]

/-- A reader other than a core that may take the next item takes it. -/
theorem exec_queueTake_other {item : Option Desc} (hp : s.qPeek q = some (v, l, item)) (hk : qReaderKind v ≠ 0)
    (hz : s.get .ESC_STATUS_FROZEN ≠ 1 ∨ qInPkt v = true) (hj : qReaderKind v = 3 → (KMap.get s.vce (qReader v) VceSt.init).job = none) :
    exec (.queueTake q) s = .next (s.otherTake q v l item) := by
  have goes : ¬(s.get .ESC_STATUS_FROZEN = 1 ∧ (!qInPkt v) = true) := by simpa [imp_iff_not_or] using hz
  have idle : ¬(qReaderKind v = 3 ∧ (KMap.get s.vce (qReader v) VceSt.init).job.isSome = true) := fun ⟨h3, hs⟩ => by simp [hj h3] at hs
  show execQueueTake q s = _
  simp only [execQueueTake, Nat.mod_eq_of_lt hq, hp, hk, false_and, if_false, if_neg goes, if_neg idle]

section
variable {core : Nat} {item : Option Desc} (hp : s.qPeek q = some (v, l, item)) (hk : qReaderKind v = 0) (hd : KMap.has s.que.drop q = false)
  (hc : s.physCore (qReader v) = some core) (hb : s.poisonBind core q = none)
include hp hk hd hc hb

theorem exec_queueTake_reader : exec (.queueTake q) s =
    if (decide (s.get .TDY_CFG_AUTO core = 1) || (s.core core).dropping.isSome) && s.coreMayTake core q then
      .next (s.coreTake core q fun s d => s.tdyDo core q d) else .next s := by
  show execQueueTake q s = _
  simp only [execQueueTake, Nat.mod_eq_of_lt hq, hp, hk, hd, hc, hb, Bool.false_eq_true, and_false, if_false, if_true]

theorem exec_queueTake_core (ha : s.get .TDY_CFG_AUTO core = 1 ∨ (s.core core).dropping.isSome = true) (hm : s.coreMayTake core q = true) :
    exec (.queueTake q) s = .next (s.coreTake core q fun s d => s.tdyDo core q d) := by
  rw [exec_queueTake_reader hq hp hk hd hc hb, if_pos (by simpa [hm] using ha)]

theorem exec_queueTake_core_not (hm : s.coreMayTake core q = false) : exec (.queueTake q) s = .next s := by
  rw [exec_queueTake_reader hq hp hk hd hc hb, if_neg (by simp [hm])]

end
end

section
variable {s : State} {q l : Nat} {v : QD} {d : Desc}

theorem State.otherTake_hands (h : KMap.has s.que.drop q = false) : s.otherTake q v l (some d) =
    (s.qTake q v l (descEop d)).emit (.item (qReaderKind v) (qReader v) q d) := by
  simp only [State.otherTake, h, Bool.false_eq_true, false_and, if_false]

theorem State.otherTake_drops (h : KMap.has s.que.drop q = true) (he : descEop d = false) : s.otherTake q v l (some d) = s.qTake q v l false := by
  simp only [State.otherTake, h, he, Bool.false_eq_true, and_false, if_false, if_true]

theorem State.otherTake_ends (h : KMap.has s.que.drop q = true) (he : descEop d = true) : s.otherTake q v l (some d) =
    (({ s with que := { s.que with drop := KMap.erase s.que.drop q } } : State).qTake q v l true) := by
  simp only [State.otherTake, h, he, and_self, if_true]

end

/-! ### An item within its packet is taken (R294, R300) -/

theorem State.qTouch_same (s : State) (v : QD) (q : Nat) : (s.qTouch v q).mem = s.mem ∧ (s.qTouch v q).cores = s.cores ∧
    (s.qTouch v q).out = s.out ∧ (s.qTouch v q).qLoc q = s.qLoc q := by
  unfold State.qTouch
  dsimp only
  split <;> exact ⟨rfl, rfl, rfl, rfl⟩

theorem State.qPut_same (s : State) (q : Nat) (v : QD) : (s.qPut q v).cores = s.cores ∧ (s.qPut q v).out = s.out := by
  unfold State.qPut
  split <;> exact ⟨rfl, rfl⟩

/-- What a write of a queue's descriptor makes of memory depends on memory and on the descriptor's place alone. -/
theorem State.qPut_mem_congr {s t : State} {q : Nat} (v : QD) (hm : t.mem = s.mem) (hl : t.qLoc q = s.qLoc q) :
    (t.qPut q v).mem = (s.qPut q v).mem := by
  unfold State.qPut
  rw [hl]
  cases s.qLoc q with
  | none => exact hm
  | some loc => exact congrArg (Mem.writeN · loc (leBytes 64 v)) hm

theorem State.qTake_within (s : State) (q l : Nat) (v : QD) : (s.qTake q v l false).mem = (s.qPut q (qAdvance v l false)).mem ∧
    (s.qTake q v l false).cores = s.cores ∧ (s.qTake q v l false).out = s.out := by
  obtain ⟨mem, cores, out, loc⟩ := s.qTouch_same v q
  obtain ⟨cores', out'⟩ := (s.qTouch v q).qPut_same q (qAdvance v l false)
  exact ⟨State.qPut_mem_congr _ mem loc, cores'.trans cores, out'.trans out⟩

/-! ### TD_NEXT (R140, R157) -/

/-- What a reader would take next does not depend on what else a core's record holds than its choice of a packet. -/
theorem State.qPeek_setCore {s : State} {core q : Nat} {x : CoreSt} (hc : x.chosen = (s.core core).chosen) (hi : x.inPacket = (s.core core).inPacket)
    (hb : x.bind = (s.core core).bind) (hl : x.level = (s.core core).level) : (s.setCore core x).qPeek q = s.qPeek q := by
  have level (v : QD) : (s.setCore core x).qLevelNow q v = s.qLevelNow q v := by
    have phys : (s.setCore core x).physCore = s.physCore := rfl
    simp only [State.qLevelNow, State.setCore_que, State.setCore_get, phys]
    cases KMap.get? s.que.drop q with
    | some l => rfl
    | none =>
      cases (if qReaderKind v = 0 ∧ (!qInPkt v) = true then s.physCore (qReader v) else none) with
      | none => rfl
      | some c =>
        by_cases e : c = core
        · subst e
          simp only [State.core_setCore, hc, hi, hb, hl]
        · have other : (s.setCore core x).core c = s.core c := KMap.get_set_ne _ _ _ _ _ e
          simp only [other]
  have found : (s.setCore core x).qFind q = s.qFind q := rfl
  have item : (s.setCore core x).qItem = s.qItem := rfl
  simp only [State.qPeek, found, level, item]

theorem State.qPeek_setX (s : State) (core rd q : Nat) (v : Word) : (s.setX core rd v).qPeek q = s.qPeek q := by
  unfold State.setX
  split
  · rfl
  · exact State.qPeek_setCore rfl rfl rfl rfl

/-- The first item of a packet, not its last, opens the packet. -/
theorem State.coreTake_opens {s : State} {core q l : Nat} {v : QD} {d : Desc} (use : State → Desc → State) (hp : s.qPeek q = some (v, l, some d))
    (hd : (s.core core).dropping = none) (hi : (s.core core).inPacket = false) (he : descEop d = false) : s.coreTake core q use =
      use ((s.qTake q v l false).setCore core
        { s.core core with inPacket := true, packetMb := descMb d, pkt := (s.core core).pkt + 1 }) d := by
  have kept : (s.qTake q v l false).core core = s.core core := congrArg (KMap.get · core CoreSt.init) (s.qTake_within q l v).2.1
  simp only [State.coreTake, hp, hd, hi, he, kept, State.core_setCore, Option.isSome_none, Bool.false_eq_true, if_false, if_true]

/-- The item that TD_NEXT takes goes into Dn and its class to rd. -/
theorem State.nextItem_core (s : State) (core rd dn : Nat) (d : Desc) : ∃ x, (State.nextItem core rd dn s d).core core =
    { s.core core with dreg := KMap.set (s.core core).dreg (dn % 8) d, x := x } ∧
    (rd % 32 ≠ 0 → KMap.get x (rd % 32) 0 = BitVec.ofNat 64 (descClass d)) := by
  have dreg : (s.setDreg core dn d).core core = { s.core core with dreg := KMap.set (s.core core).dreg (dn % 8) d } := State.core_setCore ..
  by_cases hx : rd % 32 = 0
  · refine ⟨(s.core core).x, ?_, fun h => absurd hx h⟩
    rw [State.nextItem, hx, State.setX_zero, dreg]
  · refine ⟨KMap.set (s.core core).x (rd % 32) (BitVec.ofNat 64 (descClass d)), ?_, fun _ => KMap.get_set_self ..⟩
    rw [State.nextItem, State.core_setX _ hx, dreg]

section
variable {s : State} {core : Nat} (rd dn : Nat) (hok : s.coreOk core = true) (hr : s.programRuns core = true)
include hok hr

theorem exec_tdNext_chosen (hc : (s.core core).chosen = true) (hd : (s.core core).dropping = none)
    (hp : (s.qPeek (s.get .TDY_QBIND_QID core (s.core core).bind)).isSome = true) : exec (.tdNext core rd dn) s =
      .next ((s.setX core (rd % 32) 0).coreTake core (s.get .TDY_QBIND_QID core (s.core core).bind) (State.nextItem core rd dn)) := by
  rw [exec_tdNext, State.onProgram_runs _ hok hr, if_pos (by simp [hc, hd, hp])]

theorem exec_tdNext_none (hi : (s.core core).inPacket = false) (hc : (s.core core).chosen = false) :
    exec (.tdNext core rd dn) s = .next (s.setX core (rd % 32) 0) := by
  rw [exec_tdNext, State.onProgram_runs _ hok hr, if_neg (by simp [hc, hi]), if_neg (by simp [hi])]

end

/-- Settles O16: the choice, the taking of a packet, the scheduler's commands, and the taking of items. -/
theorem schedulerTakesTheBestReadyPacket : Obligations.SchedulerTakesTheBestReadyPacket := by
  unfold Obligations.SchedulerTakesTheBestReadyPacket
  refine ⟨State.candBest_spec, fun s core k => ?_, fun s core hok hb => ⟨?_, ?_, ?_, ?_⟩, fun s core mb hok => exec_scheduler_busy hok mb,
    fun s q l v d hq hp hk hz hj => ?_, fun s q hq => exec_queueTake_nothing hq, fun s q l core v item hq hp hk hd hc hb => ?_,
    fun s core rd dn l v d hok hr hc hi hd hp he => ?_, fun s core rd dn hok hr hi => exec_tdNext_none rd dn hok hr hi,
    fun s q l v => s.qTake_within q l v⟩
  · have core' : (s.takePacket core k).core core = ((s.switchCounted core k.mb).core core).choose k := State.beginPacket_core ..
    exact ⟨State.beginPacket_curMb .., by rw [core']; rfl, by rw [core']; rfl, by rw [core']; rfl, by rw [core']; rfl, State.takePacket_mem,
      State.takePacket_switches⟩
  · exact fun k => exec_schedulerPacketBoundary_best hok hb
  · exact exec_schedulerPacketBoundary_none hok hb
  · refine fun hw => ⟨fun k => exec_switchWaitExpiry_best hok hb hw, fun h => ⟨_, exec_switchWaitExpiry_none hok hb hw h, ?_, ?_, rfl⟩⟩
    · exact congrArg CoreSt.wait (KMap.get_set_self ..)
    · exact State.get_set_self ..
  · exact fun mb hm => ⟨fun k => exec_packetReady_best hok hb hm, exec_packetReady_none hok hb hm⟩
  · have takes := exec_queueTake_other hq hp hk hz hj
    exact ⟨fun h => takes.trans (congrArg _ (State.otherTake_hands h)), fun h he => takes.trans (congrArg _ (State.otherTake_drops h he)),
      fun h he => takes.trans (congrArg _ (State.otherTake_ends h he))⟩
  · exact ⟨exec_queueTake_core hq hp hk hd hc hb, exec_queueTake_core_not hq hp hk hd hc hb⟩
  · obtain ⟨x, same⟩ := s.setX_core core (rd % 32) 0
    have peek : (s.setX core (rd % 32) 0).qPeek (s.get .TDY_QBIND_QID core (s.core core).bind) = some (v, l, some d) :=
      (s.qPeek_setX core (rd % 32) _ 0).trans hp
    have opens := State.coreTake_opens (State.nextItem core rd dn) peek (by rw [same]; exact hd) (by rw [same]; exact hi) he
    refine ⟨_, (exec_tdNext_chosen rd dn hok hr hc hd (by rw [hp]; rfl)).trans (congrArg _ opens), ?_⟩
    obtain ⟨x', item, class_⟩ := State.nextItem_core (((s.setX core (rd % 32) 0).qTake (s.get .TDY_QBIND_QID core (s.core core).bind) v l
      false).setCore core { (s.setX core (rd % 32) 0).core core with
        inPacket := true, packetMb := descMb d, pkt := ((s.setX core (rd % 32) 0).core core).pkt + 1 }) core rd dn d
    rw [item, State.core_setCore]
    exact ⟨rfl, rfl, KMap.get_set_self .., class_⟩

end Sys2Proof.Machine

/-! The KV walkers and glean units: how a gather and a glean start, walk and complete, and what the end of a walk does (O35). -/
namespace Sys2Proof.Machine

/-! ### The unit's state and registers (R248, R249) -/

@[simp] theorem State.kvwSt_setKvw (s : State) (clu : Nat) (x : KvwSt) : (s.setKvw clu x).kvwSt clu = x := KMap.get_set_self ..
@[simp] theorem State.syncKvw_kvwSt (s : State) (clu c : Nat) : (s.syncKvw clu).kvwSt c = s.kvwSt c := rfl

/-- The job of a walker, or of a glean unit. -/
def KvwSt.job (x : KvwSt) (gln : Bool) : Option KvJob := if gln then x.glean else x.gather

/-- The kind of a job's descriptor. -/
def jobKind (gln : Bool) : Nat := if gln then kGln else kKv

/-- The register field that shows a job at work. -/
def busyField (gln : Bool) : Field := if gln then .GLN_STATUS_BUSY else .KVW_STATUS_BUSY

theorem State.syncKvw_busy (s : State) (clu : Nat) (gln : Bool) : (s.syncKvw clu).get (busyField gln) clu = b2n ((s.kvwSt clu).job gln).isSome := by
  cases gln with
  | true => exact (State.get_set_self ..).trans (b2n_mod_two _)
  | false =>
    refine ((State.get_set_ne _ _ _ _ _ _ _ _ (.inl (by decide))).trans (State.get_set_ne _ _ _ _ _ _ _ _ (.inl (by decide)))).trans ?_
    exact (State.get_set_self ..).trans (b2n_mod_two _)

theorem State.setJob_kvwSt (s : State) (clu : Nat) (gln : Bool) (j : KvJob) : ((s.setJob clu gln j).kvwSt clu).job gln = some j ∧
    ((s.setJob clu gln j).kvwSt clu).lab = (s.kvwSt clu).lab ∧ ((s.setJob clu gln j).kvwSt clu).walks = (s.kvwSt clu).walks := by
  rw [State.setJob, State.kvwSt_setKvw]
  cases gln <;> exact ⟨rfl, rfl, rfl⟩


/-! ### A descriptor is held, and leaves again (R152) -/

theorem State.q1Wake_kvw (s : State) (clu : Nat) : (s.q1Wake clu).kvw = s.kvw := by
  unfold State.q1Wake
  split
  · dsimp only
    split <;> rfl
  · rfl

theorem State.q1Wake_now (s : State) (clu : Nat) : (s.q1Wake clu).now = s.now := by
  unfold State.q1Wake
  split
  · dsimp only
    split
    · exact State.get_set_ne _ _ _ _ _ _ _ _ (.inl (by decide))
    · rfl
  · rfl

theorem State.syncKind_kvw (s : State) (core kind : Nat) : (s.syncKind core kind).kvw = s.kvw := by
  unfold State.syncKind
  split <;> rfl

theorem State.syncKind_core (s : State) (core kind c : Nat) : (s.syncKind core kind).core c = s.core c := by
  unfold State.syncKind
  split <;> rfl

theorem State.syncKind_now (s : State) (core kind : Nat) : (s.syncKind core kind).now = s.now := by
  unfold State.syncKind
  split
  · exact State.get_set_ne _ _ _ _ _ _ _ _ (.inl (by decide))
  · rfl

theorem State.issue_kvw (s : State) (core kind qid : Nat) (d : Desc) : (s.issue core kind qid d).kvw = s.kvw :=
  (State.syncKind_kvw ..).trans (s.q1Wake_kvw (coreClu core))

theorem State.issue_now (s : State) (core kind qid : Nat) (d : Desc) : (s.issue core kind qid d).now = s.now :=
  (State.syncKind_now ..).trans ((State.syncMxe_get _ _ _ _ (by decide)).trans (s.q1Wake_now (coreClu core)))

/-- A descriptor that a unit holds changes no memory, no walker, no beat and no access that waits. -/
theorem State.hold_same (s : State) (core kind : Nat) (d : Desc) : (s.hold core kind d).mem = s.mem ∧ (s.hold core kind d).kvw = s.kvw ∧
    (s.hold core kind d).now = s.now ∧ ((s.hold core kind d).core core).accWait = (s.core core).accWait := by
  unfold State.hold
  split
  · exact ⟨rfl, rfl, rfl, rfl⟩
  · exact ⟨State.issue_mem .., State.issue_kvw .., State.issue_now .., by rw [State.core_issue]⟩

theorem State.setX_kvw (s : State) (core rd : Nat) (v : Word) : (s.setX core rd v).kvw = s.kvw := by
  unfold State.setX
  split <;> rfl

/-- A stalled issue that goes on changes no memory and no walker. -/
theorem State.unstall_same (s : State) (core : Nat) : (s.unstall core).mem = s.mem ∧ (s.unstall core).kvw = s.kvw := by
  unfold State.unstall
  dsimp only
  split
  · exact ⟨rfl, rfl⟩
  · split
    · split
      · exact ⟨(State.setX_mem ..).trans (State.issue_mem ..), (State.setX_kvw ..).trans (State.issue_kvw ..)⟩
      · exact ⟨rfl, rfl⟩
    · exact ⟨rfl, rfl⟩

/-- The state from which a descriptor that a core held has gone. -/
def State.heldGone (s : State) (core kind : Nat) (d : Desc) : State :=
  ((s.setCore core { s.core core with held := dropHeld kind d (s.core core).held }).syncMxe core).syncKind core kind

/-- A descriptor of a core's own unit that completes while no access of its core waits changes no memory and no walker. -/
theorem State.complete_same {s : State} {core kind : Nat} (d : Desc) (hk : ¬(kind = kHsk ∨ kind = kUpd)) (hw : (s.core core).accWait = []) :
    (s.complete core kind d).mem = s.mem ∧ (s.complete core kind d).kvw = s.kvw := by
  have alone : sharers core kind = [core] := if_neg hk
  have idle : ((s.heldGone core kind d).core core).accWait = [] := by
    rw [State.heldGone, State.syncKind_core, State.syncMxe_core, State.core_setCore]
    exact hw
  obtain ⟨mem, kvw⟩ := ((s.heldGone core kind d).drainAcc core).unstall_same core
  rw [State.drainAcc_idle idle] at mem kvw
  rw [State.complete, State.unhold, ← State.heldGone.eq_def, alone, List.foldl_cons, List.foldl_nil, State.drainAcc_idle idle]
  exact ⟨mem.trans (State.syncKind_mem ..), kvw.trans (State.syncKind_kvw ..)⟩

/-! ### Walks start (R237) -/

/-- One bushel of a job is looked at: a walk for it starts unless a translation is at hand, one is under way, or eight are. -/
def State.walkStep (clu : Nat) (gln : Bool) (j : KvJob) (s : State) (it : KvItem) : State :=
  if (!gln && decide (j.len ≤ it.vb * 64 + it.tok)) || KMap.has j.got it.vb || (labGet (s.kvwSt clu).lab j.seq it.vb).isSome ||
      (s.kvwSt clu).walks.any (fun w => w.1 == j.seq && w.2.1 == it.vb) || decide (8 ≤ (s.kvwSt clu).walks.length) then s
  else (s.setKvw clu { s.kvwSt clu with walks := (s.kvwSt clu).walks ++ [(j.seq, it.vb, true)] }).bumpSat .KVW_LAB_MISS 1 clu

theorem State.startWalks_eq (s : State) (clu : Nat) (gln : Bool) (j : KvJob) :
    s.startWalks clu gln j = (j.items.foldl (State.walkStep clu gln j) s).syncKvw clu := rfl

/-- A state that differs from another in its walks alone, of which it has all of the other's and, where the other has, at most eight. -/
def State.MoreWalks (clu : Nat) (s t : State) : Prop :=
  t.mem = s.mem ∧ (∀ w ∈ (s.kvwSt clu).walks, w ∈ (t.kvwSt clu).walks) ∧ ((s.kvwSt clu).walks.length ≤ 8 → (t.kvwSt clu).walks.length ≤ 8) ∧
    ∀ gln, (t.kvwSt clu).job gln = (s.kvwSt clu).job gln

theorem State.MoreWalks.refl (clu : Nat) (s : State) : State.MoreWalks clu s s := ⟨rfl, fun _ h => h, id, fun _ => rfl⟩

theorem State.MoreWalks.trans {clu : Nat} {r s t : State} (h : State.MoreWalks clu r s) (k : State.MoreWalks clu s t) : State.MoreWalks clu r t := by
  obtain ⟨mem, sub, room, job⟩ := h
  obtain ⟨mem', sub', room', job'⟩ := k
  exact ⟨mem'.trans mem, fun w hw => sub' w (sub w hw), fun h => room' (room h), fun g => (job' g).trans (job g)⟩

theorem State.walkStep_more (clu : Nat) (gln : Bool) (j : KvJob) (s : State) (it : KvItem) :
    State.MoreWalks clu s (State.walkStep clu gln j s it) := by
  unfold State.walkStep
  split
  case isTrue => exact State.MoreWalks.refl clu s
  case isFalse h =>
    simp only [Bool.or_eq_true, not_or, decide_eq_true_eq] at h
    have walks : (((s.setKvw clu { s.kvwSt clu with walks := (s.kvwSt clu).walks ++ [(j.seq, it.vb, true)] }).bumpSat .KVW_LAB_MISS 1 clu).kvwSt clu) =
      { s.kvwSt clu with walks := (s.kvwSt clu).walks ++ [(j.seq, it.vb, true)] } := State.kvwSt_setKvw ..
    unfold State.MoreWalks
    rw [walks]
    refine ⟨rfl, fun w hw => List.mem_append_left _ hw, fun _ => ?_, fun _ => rfl⟩
    rw [List.length_append, List.length_singleton]
    omega

theorem State.walkSteps_more (clu : Nat) (gln : Bool) (j : KvJob) (l : List KvItem) (s : State) :
    State.MoreWalks clu s (l.foldl (State.walkStep clu gln j) s) := by
  induction l generalizing s with
  | nil => exact State.MoreWalks.refl clu s
  | cons it l ih => exact (State.walkStep_more clu gln j s it).trans (ih _)

/-- Where no walk is under way, the first bushel of a job without a translation gets one. -/
theorem State.walkStep_first {clu : Nat} {gln : Bool} {j : KvJob} {s : State} {it : KvItem} (hl : gln = true ∨ it.vb * 64 + it.tok < j.len)
    (hg : j.got = []) (hb : labGet (s.kvwSt clu).lab j.seq it.vb = none) (hw : (s.kvwSt clu).walks = []) :
    (j.seq, it.vb, true) ∈ ((State.walkStep clu gln j s it).kvwSt clu).walks := by
  have starts : ¬((!gln && decide (j.len ≤ it.vb * 64 + it.tok)) = true) := by simpa [imp_iff_not_or] using hl
  rw [State.walkStep, if_neg (by simp [starts, hg, hb, hw, KMap.has])]
  exact (congrArg KvwSt.walks (State.kvwSt_setKvw ..)).symm ▸ List.mem_append_right _ List.mem_cons_self

/-- A job whose first bushel has no translation, at a unit with no walk under way: walks start, and nothing else happens. -/
theorem State.startWalks_first {clu : Nat} {gln : Bool} {j : KvJob} {s : State} {it : KvItem} {rest : List KvItem} (hi : j.items = it :: rest)
    (hl : gln = true ∨ it.vb * 64 + it.tok < j.len) (hg : j.got = []) (hb : labGet (s.kvwSt clu).lab j.seq it.vb = none)
    (hw : (s.kvwSt clu).walks = []) : let t := s.startWalks clu gln j
    State.MoreWalks clu s t ∧ (j.seq, it.vb, true) ∈ (t.kvwSt clu).walks ∧ ∀ g, t.get (busyField g) clu = b2n ((s.kvwSt clu).job g).isSome := by
  intro t
  have ran : t = (j.items.foldl (State.walkStep clu gln j) s).syncKvw clu := State.startWalks_eq ..
  have more : State.MoreWalks clu s t := ran ▸ State.walkSteps_more clu gln j j.items s
  have walk : (j.seq, it.vb, true) ∈ (t.kvwSt clu).walks := by
    rw [ran, State.syncKvw_kvwSt, hi, List.foldl_cons]
    obtain ⟨-, sub, -⟩ := State.walkSteps_more clu gln j rest (State.walkStep clu gln j s it)
    exact sub _ (State.walkStep_first hl hg hb hw)
  refine ⟨more, walk, fun g => ?_⟩
  have busy : t.get (busyField g) clu = b2n ((t.kvwSt clu).job g).isSome := State.syncKvw_busy ..
  obtain ⟨-, -, -, job⟩ := more
  rw [busy, job]

/-! ### A job goes on (R186, R237) -/

section
variable {s : State} {clu : Nat} {j : KvJob} (m : Nat)

theorem State.jobRun_of {gln : Bool} (hj : (s.kvwSt clu).job gln = some j) : s.jobRun clu gln = s.jobGo clu gln (j.items.length + 1) := by
  rw [State.jobRun, ← KvwSt.job.eq_def, hj]
  rfl

theorem State.jobGo_end {gln : Bool} (hj : (s.kvwSt clu).job gln = some j) (hi : j.items = []) :
    s.jobGo clu gln (m + 1) = if gln then s.glnFinish j else s.kvFinish j := by
  simp only [State.jobGo, ← KvwSt.job.eq_def, hj, hi]

section
variable {it : KvItem} {rest : List KvItem} {p : Pool} (hi : j.items = it :: rest)
include hi

theorem State.jobGo_miss {gln : Bool} (hj : (s.kvwSt clu).job gln = some j) (hp : s.pool (kvAgent clu) (s.jobBank j (jobKind gln)) = some p)
    (hl : gln = true ∨ it.vb * 64 + it.tok < j.len) (hg : j.got = []) (hb : labGet (s.kvwSt clu).lab j.seq it.vb = none) :
    s.jobGo clu gln (m + 1) = s.startWalks clu gln j := by
  have live : ¬((!gln) = true ∧ j.len ≤ it.vb * 64 + it.tok) := by simpa [imp_iff_not_or] using hl
  simp only [State.jobGo, ← KvwSt.job.eq_def, ← jobKind.eq_def, hj, hi, hp, hg, hb, if_neg live, KMap.get?]

variable (hj : (s.kvwSt clu).gather = some j) (hp : s.pool (kvAgent clu) (s.jobBank j kKv) = some p)
include hj hp

/-- The rows of tokens past the length are written, and the gather goes on. -/
theorem State.jobGo_past (hl : j.len ≤ it.vb * 64 + it.tok) : s.jobGo clu false (m + 1) =
    (((List.range it.n).foldl (fun s i => s.kvWriteRow j.core j.d p none (it.tok + i) (it.row + i)) s).setJob clu false
      { j with items := rest }).jobGo clu false m := by
  simp only [State.jobGo, hj, hi, hp, hl, Bool.false_eq_true, if_false, Bool.not_false, and_self, if_true]

/-- A translation in the look-aside buffer is used: it comes to the front, and is counted. -/
def State.labHit (s : State) (clu seq vb n : Nat) : State :=
  (s.setKvw clu { s.kvwSt clu with lab := labPut (s.kvwSt clu).lab seq vb n }).bumpSat .KVW_LAB_HIT 1 clu

/-- The rows of a bushel that is at hand and not poisoned are copied, and the gather goes on. -/
theorem State.jobGo_hit {n : Nat} (hl : it.vb * 64 + it.tok < j.len) (hg : j.got = []) (hb : labGet (s.kvwSt clu).lab j.seq it.vb = some n)
    (hm : (p.itemSpans it n).any (fun x => s.memBusy (s.jobBank j kKv) x.1 x.2) = false)
    (hx : ((p.itemSpans it n).findSome? fun x => (s.labHit clu j.seq it.vb n).poisonDa (kvAgent clu) (s.jobBank j kKv) x.1 x.2) = none) :
    s.jobGo clu false (m + 1) = (((s.labHit clu j.seq it.vb n).kvItem j p it n).1.setJob clu false
      { ((s.labHit clu j.seq it.vb n).kvItem j p it n).2 with items := rest }).jobGo clu false m := by
  have live : ¬((!false) = true ∧ j.len ≤ it.vb * 64 + it.tok) := by omega
  simp only [State.labHit, hj] at hx
  simp only [State.jobGo, State.labHit, hj, hi, hp, hg, hb, if_neg live, KMap.get?, Bool.false_eq_true, if_false, hm, hx]

end
end

/-! ### The rows of a gather without up-projection (R234, R238) -/

/-- An operation that makes of memory what depends on memory alone, and touches no walker and no core. -/
def MemStep (f : State → State) : Prop := ∀ s t : State, t.mem = s.mem → (f t).mem = (f s).mem ∧ (f t).kvw = t.kvw ∧ (f t).cores = t.cores

theorem MemStep.id : MemStep fun s => s := fun _ _ h => ⟨h, rfl, rfl⟩

theorem MemStep.comp {f g : State → State} (hf : MemStep f) (hg : MemStep g) : MemStep fun s => g (f s) := fun s t h => by
  obtain ⟨mem, kvw, cores⟩ := hf s t h
  obtain ⟨mem', kvw', cores'⟩ := hg _ _ mem
  exact ⟨mem', kvw'.trans kvw, cores'.trans cores⟩

theorem MemStep.foldl {α : Type} {f : State → α → State} (hf : ∀ a, MemStep (f · a)) (l : List α) : MemStep fun s => l.foldl f s := by
  induction l with
  | nil => exact MemStep.id
  | cons a l ih => exact (hf a).comp ih

theorem MemStep.wr (loc : Nat) (bs : List Byte) : MemStep fun s => s.wr loc bs :=
  fun _ _ h => ⟨congrArg (Mem.writeN · loc bs) h, rfl, rfl⟩

theorem MemStep.ite {c : Prop} [Decidable c] {f g : State → State} (hf : MemStep f) (hg : MemStep g) : MemStep fun s => if c then f s else g s := by
  split
  · exact hf
  · exact hg

/-- One block of a row without up-projection: the row of the bushel, or +0 for a token past the length, and its fine scales. -/
def State.latentBlock (core : Nat) (d : Desc) (p : Pool) (data : Option (List Byte)) (tok row : Nat) (s : State) (e : Nat × Nat) : State :=
  let f := (latFmt p.fmt).getD .fp16
  let r := e.2 + row
  let s := s.wr (coreLoc core (kvDst d + r * kvRow d)) (data.elim (List.replicate (f.rowBytes p.rank) 0) fun b => slice b (tok * p.pitch) (f.rowBytes p.rank))
  if f.hasFine then
    s.wr (coreLoc core (kvDst d + kvRows d * kvRow d + r * (p.rank / 32)))
      (data.elim (List.replicate (p.rank / 32) 127) fun b => slice b (64 * p.pitch + tok * (p.rank / 32)) (p.rank / 32))
  else s

theorem State.kvWriteRow_latent {d : Desc} (hu : kvUp d = 0) (s : State) (core : Nat) (p : Pool) (data : Option (List Byte)) (tok row : Nat) :
    s.kvWriteRow core d p data tok row = (kvBlocks d).foldl (State.latentBlock core d p data tok row) s := by
  refine List.foldl_ext _ _ _ fun s e _ => ?_
  simp only [hu, if_true]
  cases data <;> rfl

theorem MemStep.kvWriteRow {d : Desc} (hu : kvUp d = 0) (core : Nat) (p : Pool) (data : Option (List Byte)) (tok row : Nat) :
    MemStep fun s => s.kvWriteRow core d p data tok row := by
  simp only [State.kvWriteRow_latent hu]
  exact MemStep.foldl (fun e => (MemStep.wr _ _).comp (MemStep.ite (MemStep.wr _ _) MemStep.id)) _

/-- The rows of the tokens of a bushel, written in order. -/
def State.kvRowsOf (core : Nat) (d : Desc) (p : Pool) (data : Option (List Byte)) (it : KvItem) (s : State) : State :=
  (List.range it.n).foldl (fun y i => y.kvWriteRow core d p data (it.tok + i) (it.row + i)) s

theorem MemStep.kvRowsOf {d : Desc} (hu : kvUp d = 0) (core : Nat) (p : Pool) (data : Option (List Byte)) (it : KvItem) :
    MemStep (State.kvRowsOf core d p data it) := 
  MemStep.foldl (f := fun y i => y.kvWriteRow core d p data (it.tok + i) (it.row + i)) (fun _ => MemStep.kvWriteRow hu _ _ _ _ _) _

/-- A token of a bushel of a gather: its row is written, and its additions counted. -/
def State.kvToken (j : KvJob) (p : Pool) (it : KvItem) (b : List Byte) (acc : State × KvJob) (i : Nat) : State × KvJob :=
  let t := it.tok + i
  let live := decide (it.vb * 64 + t < j.len)
  let cnt := if live && kvUp j.d != 0 then acc.1.expandCount j.core j.d p b t (it.row + i) else ⟨[], 0⟩
  let new := cnt.sticky.eraseDups.filter fun k => !acc.2.sticky.contains k
  let s := acc.1.kvWriteRow j.core j.d p (if live then some b else none) t (it.row + i)
  ((s.bumpSat .MXE_STICKY_GROUPS new.length j.core).bumpSat .MXE_STICKY_TIES cnt.ties j.core, { acc.2 with sticky := new ++ acc.2.sticky })

/-- The bytes of a bushel as the walker of a gather reads them. -/
def State.bushelBytes (s : State) (j : KvJob) (p : Pool) (n : Nat) : List Byte :=
  s.rdDa (kvAgent (coreClu j.core)) (s.jobBank j kKv) (p.base + p.dataOff + n * p.bytes) p.bytes

theorem State.kvItem_eq (s : State) (j : KvJob) (p : Pool) (it : KvItem) (n : Nat) :
    s.kvItem j p it n = (List.range it.n).foldl (State.kvToken j p it (s.bushelBytes j p n)) (s, j) := rfl

/-- What the tokens of a bushel within the length make of memory is what their rows make of it; no walker and no core is touched. -/
theorem State.kvTokens_latent {j : KvJob} (hu : kvUp j.d = 0) (p : Pool) (it : KvItem) (b : List Byte) (l : List Nat)
    (hl : ∀ i ∈ l, it.vb * 64 + (it.tok + i) < j.len) (s : State) (acc : State × KvJob) (hm : acc.1.mem = s.mem) :
    let r := l.foldl (State.kvToken j p it b) acc
    r.1.mem = (l.foldl (fun y i => y.kvWriteRow j.core j.d p (some b) (it.tok + i) (it.row + i)) s).mem ∧ r.1.kvw = acc.1.kvw ∧
      r.1.cores = acc.1.cores ∧ ∃ st, r.2 = { acc.2 with sticky := st } := by
  induction l generalizing s acc with
  | nil => exact ⟨hm, rfl, rfl, acc.2.sticky, rfl⟩
  | cons i l ih =>
    obtain ⟨live, rest⟩ := List.forall_mem_cons.mp hl
    obtain ⟨mem, kvw, cores⟩ := MemStep.kvWriteRow hu j.core p (some b) (it.tok + i) (it.row + i) s acc.1 hm
    have token : (State.kvToken j p it b acc i).1.mem = (s.kvWriteRow j.core j.d p (some b) (it.tok + i) (it.row + i)).mem ∧
        (State.kvToken j p it b acc i).1.kvw = acc.1.kvw ∧ (State.kvToken j p it b acc i).1.cores = acc.1.cores := by
      simp only [State.kvToken, live, decide_true, if_true, State.bumpSat_eq, State.set_mem, State.set_kvw, State.set_cores]
      exact ⟨mem, kvw, cores⟩
    obtain ⟨mem', kvw', cores'⟩ := token
    obtain ⟨mem'', kvw'', cores'', st, sticky⟩ := ih rest _ (State.kvToken j p it b acc i) mem'
    exact ⟨mem'', kvw''.trans kvw', cores''.trans cores', st, sticky⟩

theorem State.kvItem_latent {s : State} {j : KvJob} {p : Pool} {it : KvItem} (n : Nat) (hu : kvUp j.d = 0) (hl : it.vb * 64 + it.tok + it.n ≤ j.len) :
    (s.kvItem j p it n).1.mem = (State.kvRowsOf j.core j.d p (some (s.bushelBytes j p n)) it s).mem ∧ (s.kvItem j p it n).1.kvw = s.kvw ∧
      (s.kvItem j p it n).1.cores = s.cores ∧ ∃ st, (s.kvItem j p it n).2 = { j with sticky := st } := by
  rw [State.kvItem_eq]
  refine State.kvTokens_latent hu p it _ _ (fun i hi => ?_) s (s, j) rfl
  have inside : i < it.n := List.mem_range.mp hi
  omega

/-! ### What an address maps to (R180, R487) -/

/-- The registers that say where an address lies, what is poisoned there, and which beat it is (R19, R23, R188). -/
def daFields : List Field := [.DCTL_CLMAP_LOG, .DCTL_CLSTAT_LOST, .LDG_STATUS_CH_FENCED, .BEAT_NOW_COUNT]

/-- Whether a state has all that another's reads through the address map, and the bank of a job, depend on. -/
def State.ReadsAs (s t : State) : Prop :=
  t.ident = s.ident ∧ t.dies = s.dies ∧ t.mem = s.mem ∧ t.poison = s.poison ∧ t.str = s.str ∧ t.cores = s.cores ∧
    ∀ f ∈ daFields, ∀ u, t.get f u = s.get f u

section
variable {s t : State} (h : s.ReadsAs t)
include h

theorem State.ReadsAs.resolve (a : Agent) (img : Image) (da : Nat) : t.resolve a img da = s.resolve a img da := by
  obtain ⟨ident, dies, -, -, -, -, get⟩ := h
  have map : ∀ u, t.get .DCTL_CLMAP_LOG u = s.get .DCTL_CLMAP_LOG u := get _ (by decide)
  have lost : ∀ u, t.get .DCTL_CLSTAT_LOST u = s.get .DCTL_CLSTAT_LOST u := get _ (by decide)
  have size : t.lpSize = s.lpSize := by rw [State.lpSize, ident, State.lpSize]
  have region : t.regionAt = s.regionAt := by
    funext img da
    rw [State.regionAt, size, State.regionAt]
  have place : t.regionLoc = s.regionLoc := by
    funext r da
    rw [State.regionLoc, State.participants, ident, State.regionLoc, State.participants]
  have ok : t.dieOk = s.dieOk := by
    funext d
    rw [State.dieOk, ident, State.dieOk]
  have phys : t.physClu = s.physClu := by
    funext die l
    rw [State.physClu, map, State.physClu]
  have rot : t.rotating = s.rotating := by
    funext die l
    rw [State.rotating, State.die, dies, State.rotating, State.die]
  have win : t.cluWin = s.cluWin := by
    funext clu loc
    rw [State.cluWin, State.cluOk, State.lost, ok, lost, State.cluWin, State.cluOk, State.lost]
  rw [State.resolve, size, region, place, ok, phys, rot, win, ident, State.resolve]

theorem State.ReadsAs.rdDa (a : Agent) (img : Image) (da n : Nat) : t.rdDa a img da n = s.rdDa a img da n := by
  simp only [State.rdDa, h.resolve]
  obtain ⟨-, -, mem, -⟩ := h
  simp only [mem]

theorem State.ReadsAs.poisonDa (a : Agent) (img : Image) (da n : Nat) : t.poisonDa a img da n = s.poisonDa a img da n := by
  simp only [State.poisonDa, h.resolve]
  obtain ⟨-, -, -, poison, -, -, get⟩ := h
  have fenced : ∀ u, t.get .LDG_STATUS_CH_FENCED u = s.get .LDG_STATUS_CH_FENCED u := get _ (by decide)
  simp only [State.poisoned, State.fencedAt, poison, fenced]

theorem State.ReadsAs.jobBank (j : KvJob) (kind : Nat) : t.jobBank j kind = s.jobBank j kind := by
  obtain ⟨-, -, -, -, str, cores, get⟩ := h
  have now : t.get .BEAT_NOW_COUNT = s.get .BEAT_NOW_COUNT := get _ (by decide) 0
  have core : t.core = s.core := by
    funext c
    rw [State.core, cores, State.core]
  have bank : t.bank = s.bank := by
    funext u
    rw [State.bank, str, State.bank]
  have held : t.heldFor j.core kind j.d = s.heldFor j.core kind j.d := by
    rw [State.heldFor, State.heldOf, State.now, core, now, State.heldFor, State.heldOf, State.now]
  rw [State.jobBank, State.bankFor, held, bank, str, State.jobBank, State.bankFor]

theorem State.ReadsAs.bushelBytes (j : KvJob) (p : Pool) (n : Nat) : t.bushelBytes j p n = s.bushelBytes j p n := by
  rw [State.bushelBytes, h.rdDa, h.jobBank, State.bushelBytes]

end

/-- The use of a translation leaves what is read. -/
theorem State.labHit_readsAs (s : State) (clu seq vb n : Nat) : s.ReadsAs (s.labHit clu seq vb n) := by
  refine ⟨rfl, rfl, rfl, rfl, rfl, rfl, fun f hf u => ?_⟩
  have other : f ≠ .KVW_LAB_HIT := fun e => absurd (e ▸ hf) (by decide)
  exact State.get_set_ne _ _ _ _ _ _ _ _ (.inl other)

/-! ### Gathers and gleans end (R239, R242) -/

/-- The unit of a job without it. -/
def KvwSt.without (x : KvwSt) (gln : Bool) : KvwSt := if gln then { x with glean := none } else { x with gather := none }

theorem KvwSt.job_without (x : KvwSt) (gln : Bool) : (x.without gln).job gln = none := by cases gln <;> rfl

/-- A job leaves its unit, and its descriptor completes. -/
def State.jobEnd (s : State) (gln : Bool) (j : KvJob) : State :=
  ((s.setKvw (coreClu j.core) ((s.kvwSt (coreClu j.core)).without gln)).complete j.core (jobKind gln) j.d).syncKvw (coreClu j.core)

/-- At a core with no access waiting that changes no memory. -/
theorem State.jobEnd_done {s : State} {gln : Bool} {j : KvJob} (hw : (s.core j.core).accWait = []) :
    ((s.jobEnd gln j).kvwSt (coreClu j.core)).job gln = none ∧ (s.jobEnd gln j).get (busyField gln) (coreClu j.core) = 0 ∧
      (s.jobEnd gln j).mem = s.mem := by
  obtain ⟨mem, kvw⟩ := State.complete_same (s := s.setKvw (coreClu j.core) ((s.kvwSt (coreClu j.core)).without gln)) (core := j.core)
    (kind := jobKind gln) j.d (by cases gln <;> decide) hw
  have unit : (s.jobEnd gln j).kvwSt (coreClu j.core) = (s.kvwSt (coreClu j.core)).without gln := by
    rw [State.jobEnd, State.syncKvw_kvwSt, State.kvwSt, kvw]
    exact State.kvwSt_setKvw ..
  have busy : (s.jobEnd gln j).get (busyField gln) (coreClu j.core) = b2n (((s.jobEnd gln j).kvwSt (coreClu j.core)).job gln).isSome :=
    State.syncKvw_busy ..
  rw [unit, KvwSt.job_without] at busy
  rw [unit, KvwSt.job_without]
  exact ⟨rfl, busy, mem⟩

theorem State.kvFinish_latent {s : State} {j : KvJob} (hu : kvUp j.d = 0) : s.kvFinish j = s.jobEnd false j := by
  simp only [State.kvFinish, if_pos hu]
  rfl

/-- A glean of no more bushels than P writes them all as its list. -/
theorem State.glnFinish_all {s : State} {j : KvJob} (hp : ceilDiv j.len 64 ≤ glnP j.d) : s.glnFinish j =
    (s.wr (coreLoc j.core (64 * dbits j.d 2 31 16)) (glnList (List.range (ceilDiv j.len 64)))).jobEnd true j := by
  simp only [State.glnFinish, if_pos hp]
  rfl

/-! ### A job that begins (R152, R237) -/

/-- The state in which a job has begun: its descriptor is held, and the unit has the job. -/
def State.jobHeld (s : State) (gln : Bool) (j : KvJob) : State :=
  ((s.hold j.core (jobKind gln) j.d).setJob (coreClu j.core) gln j).syncKvw (coreClu j.core)

theorem State.jobHeld_same (s : State) (gln : Bool) (j : KvJob) : (s.jobHeld gln j).mem = s.mem ∧
    ((s.jobHeld gln j).core j.core).accWait = (s.core j.core).accWait ∧ ((s.jobHeld gln j).kvwSt (coreClu j.core)).job gln = some j ∧
    ((s.jobHeld gln j).kvwSt (coreClu j.core)).lab = (s.kvwSt (coreClu j.core)).lab ∧
    ((s.jobHeld gln j).kvwSt (coreClu j.core)).walks = (s.kvwSt (coreClu j.core)).walks := by
  obtain ⟨mem, kvw, -, wait⟩ := s.hold_same j.core (jobKind gln) j.d
  obtain ⟨job, lab, walks⟩ := (s.hold j.core (jobKind gln) j.d).setJob_kvwSt (coreClu j.core) gln j
  have unit : (s.hold j.core (jobKind gln) j.d).kvwSt (coreClu j.core) = s.kvwSt (coreClu j.core) := congrArg (KMap.get · _ KvwSt.init) kvw
  rw [unit] at lab walks
  exact ⟨mem, wait, job, lab, walks⟩

section
variable {s : State} {j : KvJob} {it : KvItem} {p : Pool}

/-- A job whose first bushel has no translation starts its walks. -/
theorem State.jobHeld_walks {gln : Bool} {rest : List KvItem} (hi : j.items = it :: rest)
    (hp : (s.jobHeld gln j).pool (kvAgent (coreClu j.core)) ((s.jobHeld gln j).jobBank j (jobKind gln)) = some p)
    (hl : gln = true ∨ it.vb * 64 + it.tok < j.len) (hg : j.got = []) (hb : labGet (s.kvwSt (coreClu j.core)).lab j.seq it.vb = none)
    (hw : (s.kvwSt (coreClu j.core)).walks = []) : let t := (s.jobHeld gln j).jobRun (coreClu j.core) gln
    t.mem = s.mem ∧ (t.kvwSt (coreClu j.core)).job gln = some j ∧ (j.seq, it.vb, true) ∈ (t.kvwSt (coreClu j.core)).walks ∧
      (t.kvwSt (coreClu j.core)).walks.length ≤ 8 ∧ t.get (busyField gln) (coreClu j.core) = 1 := by
  intro t
  obtain ⟨mem, -, job, lab, walks⟩ := s.jobHeld_same gln j
  have starts : t = (s.jobHeld gln j).startWalks (coreClu j.core) gln j :=
    (State.jobRun_of job).trans (State.jobGo_miss _ hi job hp hl hg (by rw [lab]; exact hb))
  obtain ⟨⟨mem', -, room, job'⟩, walk, busy⟩ := State.startWalks_first (s := s.jobHeld gln j) (clu := coreClu j.core) hi hl hg
    (by rw [lab]; exact hb) (by rw [walks]; exact hw)
  rw [starts]
  refine ⟨mem'.trans mem, (job' gln).trans job, walk, room (by rw [walks, hw]; decide), ?_⟩
  rw [busy, job]
  rfl

variable (hu : kvUp j.d = 0) (hw : (s.core j.core).accWait = []) (hi : j.items = [it])
  (hp : (s.jobHeld false j).pool (kvAgent (coreClu j.core)) ((s.jobHeld false j).jobBank j kKv) = some p)
include hu hw hi hp

/-- A gather of one bushel past the length writes its tokens as zero and completes. -/
theorem State.jobHeld_past (hl : j.len ≤ it.vb * 64 + it.tok) : let t := (s.jobHeld false j).jobRun (coreClu j.core) false
    (t.kvwSt (coreClu j.core)).gather = none ∧ t.mem = (State.kvRowsOf j.core j.d p none it s).mem := by
  intro t
  obtain ⟨mem, wait, job, -, -⟩ := s.jobHeld_same false j
  obtain ⟨mem', -, cores⟩ := MemStep.kvRowsOf hu j.core p none it s (s.jobHeld false j) mem
  have ends : t = ((State.kvRowsOf j.core j.d p none it (s.jobHeld false j)).setJob (coreClu j.core) false { j with items := [] }).jobEnd false
      { j with items := [] } := by
    refine (State.jobRun_of job).trans ?_
    rw [hi]
    refine (State.jobGo_past 1 hi job hp hl).trans ?_
    exact (State.jobGo_end 0 (State.setJob_kvwSt _ _ false { j with items := [] }).1 rfl).trans (State.kvFinish_latent hu)
  have idle : ((State.kvRowsOf j.core j.d p none it (s.jobHeld false j)).core j.core).accWait = [] := by
    rw [State.core, cores]
    exact wait.trans hw
  obtain ⟨gather, -, memEnd⟩ := State.jobEnd_done (gln := false) (j := { j with items := [] })
    (s := (State.kvRowsOf j.core j.d p none it (s.jobHeld false j)).setJob (coreClu j.core) false { j with items := [] }) idle
  rw [ends]
  exact ⟨gather, memEnd.trans mem'⟩

/-- A gather of one translated bushel that is at hand and not poisoned copies its rows and completes. -/
theorem State.jobHeld_copies {n : Nat} (hn : it.n ≠ 0) (hl : it.vb * 64 + it.tok + it.n ≤ j.len) (hg : j.got = [])
    (hb : labGet (s.kvwSt (coreClu j.core)).lab j.seq it.vb = some n)
    (hm : (p.itemSpans it n).any (fun x => (s.jobHeld false j).memBusy ((s.jobHeld false j).jobBank j kKv) x.1 x.2) = false)
    (hx : ((p.itemSpans it n).findSome? fun x =>
      (s.jobHeld false j).poisonDa (kvAgent (coreClu j.core)) ((s.jobHeld false j).jobBank j kKv) x.1 x.2) = none) :
    let t := (s.jobHeld false j).jobRun (coreClu j.core) false
    (t.kvwSt (coreClu j.core)).gather = none ∧ t.get .KVW_STATUS_BUSY (coreClu j.core) = 0 ∧
      t.mem = (State.kvRowsOf j.core j.d p (some ((s.jobHeld false j).bushelBytes j p n)) it s).mem := by
  intro t
  obtain ⟨mem, wait, job, lab, -⟩ := s.jobHeld_same false j
  have reads := (s.jobHeld false j).labHit_readsAs (coreClu j.core) j.seq it.vb n
  obtain ⟨memItem, -, cores, st, item⟩ := State.kvItem_latent (s := (s.jobHeld false j).labHit (coreClu j.core) j.seq it.vb n) (p := p) n hu hl
  obtain ⟨memRows, -, -⟩ := MemStep.kvRowsOf hu j.core p (some ((s.jobHeld false j).bushelBytes j p n)) it s
    ((s.jobHeld false j).labHit (coreClu j.core) j.seq it.vb n) mem
  have hit := State.jobGo_hit 1 hi job hp (by omega) hg (by rw [lab]; exact hb) hm (by simpa only [reads.poisonDa] using hx)
  rw [item] at hit
  rw [reads.bushelBytes] at memItem
  have ends : t = ((((s.jobHeld false j).labHit (coreClu j.core) j.seq it.vb n).kvItem j p it n).1.setJob (coreClu j.core) false
      { j with sticky := st, items := [] }).jobEnd false { j with sticky := st, items := [] } := by
    refine (State.jobRun_of job).trans ?_
    rw [hi]
    refine hit.trans ?_
    exact (State.jobGo_end 0 (State.setJob_kvwSt _ _ false { j with sticky := st, items := [] }).1 rfl).trans (State.kvFinish_latent hu)
  have idle : ((((s.jobHeld false j).labHit (coreClu j.core) j.seq it.vb n).kvItem j p it n).1.core j.core).accWait = [] := by
    rw [State.core, cores]
    exact wait.trans hw
  obtain ⟨gather, busy, memEnd⟩ := State.jobEnd_done (gln := false) (j := { j with sticky := st, items := [] })
    (s := (((s.jobHeld false j).labHit (coreClu j.core) j.seq it.vb n).kvItem j p it n).1.setJob (coreClu j.core) false
      { j with sticky := st, items := [] }) idle
  rw [ends]
  exact ⟨gather, busy, memEnd.trans (memItem.trans memRows)⟩

end

/-- A glean with no bushel to score writes all of its bushels as its list and completes. -/
theorem State.jobHeld_all {s : State} {j : KvJob} (hp : ceilDiv j.len 64 ≤ glnP j.d) (hw : (s.core j.core).accWait = []) (hi : j.items = []) :
    let t := (s.jobHeld true j).jobRun (coreClu j.core) true
    (t.kvwSt (coreClu j.core)).glean = none ∧ t.get .GLN_STATUS_BUSY (coreClu j.core) = 0 ∧
      t.mem = (s.wr (coreLoc j.core (64 * dbits j.d 2 31 16)) (glnList (List.range (ceilDiv j.len 64)))).mem := by
  intro t
  obtain ⟨mem, wait, job, -, -⟩ := s.jobHeld_same true j
  have ends : t = ((s.jobHeld true j).wr (coreLoc j.core (64 * dbits j.d 2 31 16)) (glnList (List.range (ceilDiv j.len 64)))).jobEnd true j :=
    ((State.jobRun_of job).trans (State.jobGo_end _ job hi)).trans (State.glnFinish_all hp)
  obtain ⟨glean, busy, memEnd⟩ := State.jobEnd_done (gln := true) (j := j)
    (s := (s.jobHeld true j).wr (coreLoc j.core (64 * dbits j.d 2 31 16)) (glnList (List.range (ceilDiv j.len 64)))) (wait.trans hw)
  rw [ends]
  refine ⟨glean, busy, memEnd.trans ?_⟩
  rw [State.wr_mem, State.wr_mem, mem]

/-! ### A gather at its walker (R152, R238 to R240, R247) -/

theorem exec_kvGather {s : State} {core : Nat} {d : Desc} (ht : s.unitTakes core kKv d = true) :
    exec (.kvGather core d) s = .next (s.kvStart core d) :=
  (onUnit_present (State.unitTakes_coreOk ht)).trans (congrArg Host.Outcome.next (State.atUnit_takes _ ht))

/-- The bank that a gather or a glean reads the pool under. -/
def State.kvImg (s : State) (core kind : Nat) (d : Desc) : Image := s.bankFor (unitDie (coreDie core)) (s.heldFor core kind d).beat

/-- The list of a gather that takes one. -/
def State.kvList (s : State) (core : Nat) (d : Desc) : List Byte :=
  if dbit d 2 30 then s.rd (coreLoc core (64 * dbits d 3 63 48)) 1032 else []

/-- What a gather reads of its core's memory: its list, and the up-projection. -/
def kvReads (d : Desc) (p : Pool) (list : List Byte) : Spans :=
  (if dbit d 2 30 then [(64 * dbits d 3 63 48, 8 + 4 * min 256 (field list 0 4))] else []) ++
    (if kvUp d = 0 then [] else (kvBlocks d).map fun e => (kvUp d + (dbits d 1 61 54 * 2 + e.1) * p.rank * 256, p.rank * 256))

/-- The job of a gather. -/
def State.kvJob (s : State) (core : Nat) (d : Desc) (len : Nat) (list : List Byte) : KvJob :=
  ⟨core, d, s.now % 2 ^ 32, len, kvItems d list, [], [], []⟩

/-- The length of a gather's sequence. -/
def State.kvLen (s : State) (core : Nat) (d : Desc) (p : Pool) : Nat :=
  s.seqLen (kvAgent (coreClu core)) (s.kvImg core kKv d) p (dbits d 1 19 0)

/-- A gather of a valid pool and a latent format that gathers convert: its operands and fields are checked, and its job begins. -/
def State.kvChecked (s : State) (core : Nat) (d : Desc) (p : Pool) : State :=
  ((kvReads d p (s.kvList core d)).findSome? fun x => s.poisonIn (coreLoc core x.1) x.2).elim
    ((kvFault d p (s.kvLen core d p) (s.kvList core d)).elim
      ((s.jobHeld false (s.kvJob core d (s.kvLen core d p) (s.kvList core d))).jobRun (coreClu core) false) (s.kvDesc core d))
    fun place => (s.coreUe (srcClu (coreClu core) 2) core place).kvRefuse core d

/-- A gather of a valid pool: its format is checked. -/
def State.kvOfPool (s : State) (core : Nat) (d : Desc) (p : Pool) : State :=
  if (latFmt (dbits d 2 29 26)).isNone then
    (s.fmtIllegal (srcClu (coreClu core) 2) (descClass d) (154, dbits d 2 29 26)).kvRefuse core d
  else if p.fmt = 2 then (s.log' (srcClu (coreClu core) 2) 0xc001 2 [(2, core), (4, dbits d 1 19 0), (1, 2)]).kvRefuse core d
  else s.kvChecked core d p

section
variable {s : State} {core : Nat} {d : Desc}

theorem State.kvStart_another {j : KvJob} (hg : (s.kvwSt (coreClu core)).gather = some j) (h : j.core ≠ core ∨ j.d ≠ d) :
    s.kvStart core d = s.hold core kKv d := by
  have other : ¬(j.core = core ∧ j.d = d) := fun ⟨hc, hd⟩ => h.elim (· hc) (· hd)
  simp only [State.kvStart, hg, if_neg other]

variable (hg : (s.kvwSt (coreClu core)).gather = none)
include hg

theorem State.kvStart_waits (h : s.canStart core kKv d = false ∨ (kvUp d ≠ 0 ∧ s.spansClear core kKv d = false)) :
    s.kvStart core d = s.hold core kKv d := by
  simp only [State.kvStart, hg]
  exact if_pos (by simpa using h)

variable (hc : s.canStart core kKv d = true) (hs : kvUp d = 0 ∨ s.spansClear core kKv d = true)
include hc hs

theorem State.kvStart_checks : s.kvStart core d =
    (if s.get .KVW_STATUS_POOL (coreClu core) = 1 then s.pool (kvAgent (coreClu core)) (s.kvImg core kKv d) else none).elim
      (s.kvDesc core d (64, dbits d 1 19 0)) (s.kvOfPool core d) := by
  have go : ¬((!s.canStart core kKv d) = true ∨ kvUp d ≠ 0 ∧ (!s.spansClear core kKv d) = true) := by
    rcases hs with h | h <;> simp [hc, h]
  have now : (s.hold core kKv d).now = s.now := (s.hold_same core kKv d).2.2.1
  simp only [State.kvStart, hg, if_neg go, ← State.kvImg.eq_def, ← State.kvList.eq_def, ← kvReads.eq_def, ← State.kvLen.eq_def, now]
  cases (if s.get .KVW_STATUS_POOL (coreClu core) = 1 then s.pool (kvAgent (coreClu core)) (s.kvImg core kKv d) else none) with
  | none => rfl
  | some p =>
    simp only [Option.elim_some, State.kvOfPool, State.kvChecked]
    split
    · rfl
    · split
      · rfl
      · cases (kvReads d p (s.kvList core d)).findSome? fun x => s.poisonIn (coreLoc core x.1) x.2 with
        | some place => rfl
        | none => cases kvFault d p (s.kvLen core d p) (s.kvList core d) <;> rfl

theorem State.kvStart_noPool (h : s.get .KVW_STATUS_POOL (coreClu core) ≠ 1 ∨ s.pool (kvAgent (coreClu core)) (s.kvImg core kKv d) = none) :
    s.kvStart core d = s.kvDesc core d (64, dbits d 1 19 0) := by
  rw [State.kvStart_checks hg hc hs]
  rcases h with h | h
  · rw [if_neg h, Option.elim_none]
  · rw [h, ite_self, Option.elim_none]

variable {p : Pool} (hv : s.get .KVW_STATUS_POOL (coreClu core) = 1) (hp : s.pool (kvAgent (coreClu core)) (s.kvImg core kKv d) = some p)
include hv hp

theorem State.kvStart_pool : s.kvStart core d = s.kvOfPool core d p := by
  rw [State.kvStart_checks hg hc hs, if_pos hv, hp, Option.elim_some]

theorem State.kvStart_illegal (hf : latFmt (dbits d 2 29 26) = none) : s.kvStart core d =
    (s.fmtIllegal (srcClu (coreClu core) 2) (descClass d) (154, dbits d 2 29 26)).kvRefuse core d := by
  rw [State.kvStart_pool hg hc hs hv hp, State.kvOfPool, if_pos (by rw [hf]; rfl)]

variable (hf : latFmt (dbits d 2 29 26) ≠ none)
include hf

theorem State.kvStart_unconverted (h2 : p.fmt = 2) : s.kvStart core d =
    (s.log' (srcClu (coreClu core) 2) 0xc001 2 [(2, core), (4, dbits d 1 19 0), (1, 2)]).kvRefuse core d := by
  rw [State.kvStart_pool hg hc hs hv hp, State.kvOfPool, if_neg (by simpa using hf), if_pos h2]

variable (h2 : p.fmt ≠ 2) (hu : kvUp d = 0)
  (hl : dbit d 2 30 = false ∨ s.poisonIn (coreLoc core (64 * dbits d 3 63 48)) (8 + 4 * min 256 (field (s.kvList core d) 0 4)) = none)
include h2 hu hl

/-- A gather without up-projection and with no poison in its list goes on to its fields. -/
theorem State.kvStart_reads : s.kvStart core d = (kvFault d p (s.kvLen core d p) (s.kvList core d)).elim
    ((s.jobHeld false (s.kvJob core d (s.kvLen core d p) (s.kvList core d))).jobRun (coreClu core) false) (s.kvDesc core d) := by
  have clean : ((kvReads d p (s.kvList core d)).findSome? fun x => s.poisonIn (coreLoc core x.1) x.2) = none := by
    rw [kvReads, if_pos hu, List.append_nil]
    rcases hl with hl | hl
    · rw [hl]
      rfl
    · split
      · rw [List.findSome?_cons, hl]
        rfl
      · rfl
  rw [State.kvStart_pool hg hc hs hv hp, State.kvOfPool, if_neg (by simpa using hf), if_neg h2, State.kvChecked, clean, Option.elim_none]

theorem State.kvStart_fault {b : BadField} (hb : kvFault d p (s.kvLen core d p) (s.kvList core d) = some b) :
    s.kvStart core d = s.kvDesc core d b := by
  rw [State.kvStart_reads hg hc hs hv hp hf h2 hu hl, hb, Option.elim_some]

theorem State.kvStart_begins (hb : kvFault d p (s.kvLen core d p) (s.kvList core d) = none) : s.kvStart core d =
    (s.jobHeld false (s.kvJob core d (s.kvLen core d p) (s.kvList core d))).jobRun (coreClu core) false := by
  rw [State.kvStart_reads hg hc hs hv hp hf h2 hu hl, hb, Option.elim_none]

end

/-! ### A glean at its unit (R241, R242, R247) -/

theorem exec_glean {s : State} {core : Nat} {d : Desc} (ht : s.unitTakes core kGln d = true) : exec (.glean core d) s = .next (s.glnStart core d) :=
  (onUnit_present (State.unitTakes_coreOk ht)).trans (congrArg Host.Outcome.next (State.atUnit_takes _ ht))

/-- The candidates among the bushels of a glean: those that are not forced. -/
def glnCandidates (d : Desc) (nb : Nat) : List KvItem := ((List.range nb).filter fun v => !(glnForced d nb).contains v).map fun v => ⟨v, 0, 0, 0⟩

/-- The bushels that a glean scores: none where all go into its list, else its candidates. -/
def glnItems (d : Desc) (nb : Nat) : List KvItem := if nb ≤ glnP d then [] else glnCandidates d nb

/-- The job of a glean. -/
def State.glnJob (s : State) (core : Nat) (d : Desc) (len : Nat) : KvJob :=
  ⟨core, d, s.now % 2 ^ 32, len, glnItems d (ceilDiv len 64), [], [], []⟩

theorem State.glnJob_scores {s : State} {core len : Nat} {d : Desc} (h : glnP d < ceilDiv len 64) : s.glnJob core d len =
    ⟨core, d, s.now % 2 ^ 32, len, glnCandidates d (ceilDiv len 64), [], [], []⟩ := by
  rw [State.glnJob, glnItems, if_neg (Nat.not_le.mpr h)]

/-- The length of a glean's sequence. -/
def State.glnLen (s : State) (core : Nat) (d : Desc) (p : Pool) : Nat :=
  s.seqLen (glnAgent (coreClu core)) (s.kvImg core kGln d) p (dbits d 1 19 0)

/-- A glean of a valid pool: its format and fields are checked, and its job begins. -/
def State.glnOfPool (s : State) (core : Nat) (d : Desc) (p : Pool) : State :=
  if (glnFmt (dbits d 2 35 32)).isNone then
    (s.fmtIllegal (srcClu (coreClu core) 3) (descClass d) (160, dbits d 2 35 32)).glnRefuse core d
  else (glnFault d p).elim ((s.jobHeld true (s.glnJob core d (s.glnLen core d p))).jobRun (coreClu core) true) (s.glnDesc core d)

section
variable {s : State} {core : Nat} {d : Desc}

theorem State.glnStart_another {j : KvJob} (hg : (s.kvwSt (coreClu core)).glean = some j) (h : j.core ≠ core ∨ j.d ≠ d) :
    s.glnStart core d = s.hold core kGln d := by
  have other : ¬(j.core = core ∧ j.d = d) := fun ⟨hc, hd⟩ => h.elim (· hc) (· hd)
  simp only [State.glnStart, hg, if_neg other]

variable (hg : (s.kvwSt (coreClu core)).glean = none)
include hg

theorem State.glnStart_waits (h : s.canStart core kGln d = false) : s.glnStart core d = s.hold core kGln d := by
  simp only [State.glnStart, hg]
  exact if_pos (by simpa using h)

variable (hc : s.canStart core kGln d = true)
include hc

theorem State.glnStart_checks : s.glnStart core d =
    (if s.get .KVW_STATUS_POOL (coreClu core) = 1 then s.pool (glnAgent (coreClu core)) (s.kvImg core kGln d) else none).elim
      (s.glnDesc core d (64, dbits d 1 19 0)) (s.glnOfPool core d) := by
  have go : ¬((!s.canStart core kGln d) = true) := by simp [hc]
  have now : (s.hold core kGln d).now = s.now := (s.hold_same core kGln d).2.2.1
  simp only [State.glnStart, hg, if_neg go, ← State.kvImg.eq_def, ← State.glnLen.eq_def, ← glnCandidates.eq_def, ← glnItems.eq_def, now]
  cases (if s.get .KVW_STATUS_POOL (coreClu core) = 1 then s.pool (glnAgent (coreClu core)) (s.kvImg core kGln d) else none) with
  | none => rfl
  | some p =>
    simp only [Option.elim_some, State.glnOfPool]
    split
    · rfl
    · cases glnFault d p <;> rfl

theorem State.glnStart_noPool (h : s.get .KVW_STATUS_POOL (coreClu core) ≠ 1 ∨ s.pool (glnAgent (coreClu core)) (s.kvImg core kGln d) = none) :
    s.glnStart core d = s.glnDesc core d (64, dbits d 1 19 0) := by
  rw [State.glnStart_checks hg hc]
  rcases h with h | h
  · rw [if_neg h, Option.elim_none]
  · rw [h, ite_self, Option.elim_none]

variable {p : Pool} (hv : s.get .KVW_STATUS_POOL (coreClu core) = 1) (hp : s.pool (glnAgent (coreClu core)) (s.kvImg core kGln d) = some p)
include hv hp

theorem State.glnStart_pool : s.glnStart core d = s.glnOfPool core d p := by
  rw [State.glnStart_checks hg hc, if_pos hv, hp, Option.elim_some]

theorem State.glnStart_illegal (hf : glnFmt (dbits d 2 35 32) = none) : s.glnStart core d =
    (s.fmtIllegal (srcClu (coreClu core) 3) (descClass d) (160, dbits d 2 35 32)).glnRefuse core d := by
  rw [State.glnStart_pool hg hc hv hp, State.glnOfPool, if_pos (by rw [hf]; rfl)]

variable (hf : glnFmt (dbits d 2 35 32) ≠ none)
include hf

theorem State.glnStart_fault {b : BadField} (hb : glnFault d p = some b) : s.glnStart core d = s.glnDesc core d b := by
  rw [State.glnStart_pool hg hc hv hp, State.glnOfPool, if_neg (by simpa using hf), hb, Option.elim_some]

theorem State.glnStart_begins (hb : glnFault d p = none) :
    s.glnStart core d = (s.jobHeld true (s.glnJob core d (s.glnLen core d p))).jobRun (coreClu core) true := by
  rw [State.glnStart_pool hg hc hv hp, State.glnOfPool, if_neg (by simpa using hf), hb, Option.elim_none]

end

/-! ### A walk ends (R237, R247) -/

theorem exec_kvWalkComplete {s : State} {clu : Nat} (seq vb : Nat) (h : s.cluOk clu = true) :
    exec (.kvWalkComplete clu seq vb) s = .next (s.walkEnd clu seq vb) := onUnit_present h

/-- The level at which a walk found an invalid entry, the leaf's being 4; 0 where the leaf is valid. -/
def Walk.level : Walk → Nat
  | .leaf _ w => if bit w 63 then 0 else 4
  | .bad l => l
  | .poison _ => 0

/-- The bushel that a walk's leaf names. -/
def Walk.bushel : Walk → Nat
  | .leaf _ w => bits w 27 0
  | _ => 0

/-- The jobs of a unit that wait for a translation. -/
def KvwSt.waiting (x : KvwSt) (seq vb : Nat) : List (Bool × KvJob) :=
  ((x.gather.toList.map fun j => (false, j)) ++ (x.glean.toList.map fun j => (true, j))).filter fun j => j.2.waits seq vb

theorem KvwSt.waiting_none {x : KvwSt} {seq vb : Nat} (hg : ∀ j, x.gather = some j → j.waits seq vb = false)
    (hl : ∀ j, x.glean = some j → j.waits seq vb = false) : x.waiting seq vb = [] := by
  rw [KvwSt.waiting, List.filter_eq_nil_iff]
  intro e he
  rcases List.mem_append.mp he with he | he
  · obtain ⟨j, hj, rfl⟩ := List.mem_map.mp he
    rw [hg j (Option.mem_toList.mp hj)]
    exact Bool.false_ne_true
  · obtain ⟨j, hj, rfl⟩ := List.mem_map.mp he
    rw [hl j (Option.mem_toList.mp hj)]
    exact Bool.false_ne_true

theorem KvwSt.waiting_gather {x : KvwSt} {seq vb : Nat} {j : KvJob} (hg : x.gather = some j) (hl : x.glean = none) (hw : j.waits seq vb = true) :
    x.waiting seq vb = [(false, j)] := by
  simp [KvwSt.waiting, hg, hl, hw]

/-- The walk of a translation is one of those under way. -/
def KvwSt.walkOf (x : KvwSt) (seq vb : Nat) : Option (Nat × Nat × Bool) := x.walks.find? fun w => w.1 == seq && w.2.1 == vb

/-- The state from which a walk has gone. -/
def State.walkGone (s : State) (clu seq vb : Nat) : State :=
  (s.setKvw clu { s.kvwSt clu with walks := (s.kvwSt clu).walks.filter fun w => !(w.1 == seq && w.2.1 == vb) }).syncKvw clu

/-- A gather gets the bushel that its walk found, which fills the look-aside buffer unless the entry was invalidated meanwhile. -/
def State.walkBrings (s : State) (clu seq vb n : Nat) (fill : Bool) (j : KvJob) : State :=
  (if fill then s.setKvw clu { s.kvwSt clu with lab := labPut (s.kvwSt clu).lab seq vb n } else s).setJob clu false
    { j with got := KMap.set j.got vb n }

section
variable {s : State} {clu seq vb : Nat}

theorem State.walkEnd_absent (h : (s.kvwSt clu).walkOf seq vb = none) : s.walkEnd clu seq vb = s := by
  simp only [State.walkEnd, ← KvwSt.walkOf.eq_def, h]

variable {w : Nat × Nat × Bool} (hw : (s.kvwSt clu).walkOf seq vb = some w)
include hw

theorem State.walkEnd_unwaited (h : (s.kvwSt clu).waiting seq vb = []) : s.walkEnd clu seq vb = s.walkGone clu seq vb := by
  obtain ⟨a, b, fill⟩ := w
  simp only [State.walkEnd, ← KvwSt.walkOf.eq_def, hw, ← KvwSt.waiting.eq_def, h]
  rfl

/-- The end of a walk that a gather alone waits for, and that met no poison: an invalid entry refuses the gather, a valid one lets it go on. -/
theorem State.walkEnd_gather {j : KvJob} {p : Pool} (h : (s.kvwSt clu).waiting seq vb = [(false, j)])
    (hp : (s.walkGone clu seq vb).pool (kvAgent clu) ((s.walkGone clu seq vb).jobBank j kKv) = some p)
    (hb : (s.walkGone clu seq vb).poolBusy ((s.walkGone clu seq vb).jobBank j kKv) = false) {r : Walk}
    (hr : (s.walkGone clu seq vb).walk (kvAgent clu) ((s.walkGone clu seq vb).jobBank j kKv) p seq vb = r) (hn : ∀ da, r ≠ .poison da) :
    s.walkEnd clu seq vb = if r.level ≠ 0 then
      ((s.walkGone clu seq vb).log' (srcClu clu 2) 0xc002 2 [(2, j.core), (4, seq), (4, vb), (1, r.level)]).kvStop j
    else ((s.walkGone clu seq vb).walkBrings clu seq vb r.bushel w.2.2 j).jobRun clu false := by
  obtain ⟨a, b, fill⟩ := w
  simp only [State.walkEnd, ← KvwSt.walkOf.eq_def, hw, ← KvwSt.waiting.eq_def, h, ← State.walkGone.eq_def, Bool.false_eq_true, if_false, hp, hb, hr]
  cases r with
  | poison da => exact absurd rfl (hn da)
  | bad l => rfl
  | leaf da e => rfl

end

theorem labGet_labPut (lab : List (Nat × Nat × Nat)) (seq vb n : Nat) : labGet (labPut lab seq vb n) seq vb = some n := by
  simp [labGet, labPut]

theorem length_labPut_le (lab : List (Nat × Nat × Nat)) (seq vb n : Nat) : (labPut lab seq vb n).length ≤ 128 := List.length_take_le ..

theorem State.walkBrings_filled (s : State) (clu seq vb n : Nat) (j : KvJob) : let z := s.walkBrings clu seq vb n true j
    z.mem = s.mem ∧ labGet (z.kvwSt clu).lab seq vb = some n ∧ (z.kvwSt clu).lab.length ≤ 128 ∧
      (z.kvwSt clu).gather = some { j with got := KMap.set j.got vb n } := by
  intro z
  obtain ⟨job, lab, -⟩ := (s.setKvw clu { s.kvwSt clu with lab := labPut (s.kvwSt clu).lab seq vb n }).setJob_kvwSt clu false
    { j with got := KMap.set j.got vb n }
  rw [State.kvwSt_setKvw] at lab
  exact ⟨rfl, lab ▸ labGet_labPut .., lab ▸ length_labPut_le .., job⟩

/-- Settles O35: a gather and a glean at their units, and the end of a walk. -/
theorem gathersAndGleansWalkAndComplete : Obligations.GathersAndGleansWalkAndComplete := by
  unfold Obligations.GathersAndGleansWalkAndComplete
  refine ⟨fun s core d ht => ?_, fun s core d ht => ?_, fun s clu seq vb hok => ?_⟩
  · have step := exec_kvGather ht
    refine ⟨fun j hg h => step.trans (congrArg _ (State.kvStart_another hg h)), fun hg h => step.trans (congrArg _ (State.kvStart_waits hg h)),
      fun hg hc hs => ⟨fun h => step.trans (congrArg _ (State.kvStart_noPool hg hc hs h)), fun p hv hp =>
        ⟨fun hf => step.trans (congrArg _ (State.kvStart_illegal hg hc hs hv hp hf)),
          fun hf h2 => step.trans (congrArg _ (State.kvStart_unconverted hg hc hs hv hp hf h2)), fun hf h2 hl hu =>
            ⟨fun b hb => step.trans (congrArg _ (State.kvStart_fault hg hc hs hv hp hf h2 hu hl hb)), fun hb => ?_⟩⟩⟩⟩
    have begins := step.trans (congrArg _ (State.kvStart_begins hg hc hs hv hp hf h2 hu hl hb))
    refine ⟨fun it rest q hi hq hlen hlab hw => ⟨_, begins, State.jobHeld_walks hi hq (.inr hlen) rfl hlab hw⟩,
      fun hw it q n hi hq hlen hn hlab hm hx => ?_, fun hw it q hi hq hlen => ⟨_, begins, State.jobHeld_past hu hw hi hq hlen⟩⟩
    obtain ⟨gather, busy, mem⟩ := State.jobHeld_copies (j := s.kvJob core d (s.kvLen core d p) (s.kvList core d)) hu hw hi hq hn hlen rfl hlab hm hx
    exact ⟨_, begins, gather, busy, mem⟩
  · have step := exec_glean ht
    refine ⟨fun j hg h => step.trans (congrArg _ (State.glnStart_another hg h)), fun hg h => step.trans (congrArg _ (State.glnStart_waits hg h)),
      fun hg hc => ⟨fun h => step.trans (congrArg _ (State.glnStart_noPool hg hc h)), fun p hv hp =>
        ⟨fun hf => step.trans (congrArg _ (State.glnStart_illegal hg hc hv hp hf)),
          fun b hf hb => step.trans (congrArg _ (State.glnStart_fault hg hc hv hp hf hb)), fun hf hb => ?_⟩⟩⟩
    have begins := step.trans (congrArg _ (State.glnStart_begins hg hc hv hp hf hb))
    refine ⟨fun hall hw => ⟨_, begins, State.jobHeld_all hall hw (if_pos hall)⟩, fun hsome hw hlab it rest q hi hq => ?_⟩
    rw [State.glnJob_scores (len := s.glnLen core d p) hsome] at begins
    exact ⟨_, begins, State.jobHeld_walks hi hq (.inl rfl) rfl (congrArg (labGet · (dbits d 1 19 0) it.vb) hlab) hw⟩
  · have step := exec_kvWalkComplete seq vb hok
    refine ⟨fun h => step.trans (congrArg _ (State.walkEnd_absent h)), fun w hw =>
      ⟨fun hg hl => step.trans (congrArg _ (State.walkEnd_unwaited hw (KvwSt.waiting_none hg hl))), fun j p hg hl hwait hp hb => ?_⟩⟩
    have served {r : Walk} := State.walkEnd_gather hw (KvwSt.waiting_gather hg hl hwait) hp hb (r := r)
    refine ⟨fun lvl hr hl => ?_, fun da e hr => ⟨fun he => ?_, fun he hfill => ?_⟩⟩
    · have ends := served hr (fun da => Walk.noConfusion)
      exact step.trans (congrArg _ (ends.trans (if_pos hl)))
    · have level : (Walk.leaf da e).level = 4 := if_neg (by rw [he]; exact Bool.false_ne_true)
      have ends := served hr (fun da => Walk.noConfusion)
      rw [level] at ends
      exact step.trans (congrArg _ ends)
    · have level : (Walk.leaf da e).level = 0 := if_pos he
      have ends := served hr (fun da => Walk.noConfusion)
      rw [level, hfill] at ends
      obtain ⟨mem, hit, room, gather⟩ := (s.walkGone clu seq vb).walkBrings_filled clu seq vb (bits e 27 0) j
      exact ⟨_, step.trans (congrArg _ ends), mem, hit, room, _, gather, rfl, KMap.get?_set_self ..⟩

end Sys2Proof.Machine

/-! Requests and responses of the fabric: the order of arrival, what a request is answered, what it stores (O37). -/
namespace Sys2Proof.Machine

section
variable {s : State} {p : Packet}

/-! ### What is sent -/

/-- Among what a state has sent stands the answer to a request p: to its sender, in its class and under its tag (R320). -/
def State.Answers (t : State) (p : Packet) (op operand : Nat) (bs : List Byte) : Prop :=
  ∃ q, Out.packet q ∈ t.out ∧ q.op = op ∧ q.dst = p.src ∧ q.tc = p.tc ∧ q.tag = p.tag ∧ q.operand = operand ∧ q.payload = bs

theorem State.sendVia_packet (port : Option Nat) (hf : s.fab.failed = false) (hm : p.msg = none) : let t := s.sendVia port p
    t.mem = s.mem ∧ t.fab.rxSseq = s.fab.rxSseq ∧
      .packet { p with src := s.ownId, sseq := KMap.get s.fab.txSseq (p.dst, p.tc) 0 } ∈ t.out := by
  cases port <;> simp [State.sendVia, State.portPut, hf, hm]

/-- A device that has not failed sends its response, and changes no byte by it. -/
theorem State.respond_answers (p : Packet) (op operand : Nat) (bs : List Byte) (hf : s.fab.failed = false) : let t := s.respond p op operand bs
    t.mem = s.mem ∧ t.sseqDue p = s.sseqDue p ∧ t.Answers p op operand bs := by
  intro t
  obtain ⟨mem, due, sent⟩ := State.sendVia_packet (s := s) (p := ⟨op, p.tc, p.src, 0, 0, p.tag, 0, operand, bs, none, none, 0, 0, 0⟩)
    (s.pickPort p.src p.tc) hf rfl
  exact ⟨mem, congrArg (KMap.get · (p.src, p.tc) 0) due, _, sent, rfl, rfl, rfl, rfl, rfl, rfl⟩

/-! ### The order of arrival -/

theorem State.wake_fab (s : State) (c : Nat) : (s.wake c).fab = s.fab := by
  unfold State.wake
  repeat' split
  all_goals rfl

/-- The state in which a due packet is handled: the next SSEQ of its sender and class is due (R320). -/
def State.sseqNext (s : State) (p : Packet) : State :=
  { s with fab := { s.fab with rxSseq := KMap.set s.fab.rxSseq (p.src, p.tc) ((p.sseq + 1) % 2 ^ 32) } }

theorem State.sseqNext_due : (s.sseqNext p).sseqDue p = (p.sseq + 1) % 2 ^ 32 := KMap.get_set_self ..

theorem State.sseqNext_working (hf : s.fab.failed = false) : ((s.wake 4).sseqNext p).fab.failed = false := by
  rw [← hf, ← s.wake_fab 4]
  rfl

theorem State.arrive_discards (h : s.fab.failed = true ∨ p.dst ≠ s.ownId) : s.arrive p = s := if_pos h

/-- At a working device that a packet names, the SSEQ decides. -/
theorem State.arrive_named (hf : s.fab.failed = false) (hd : p.dst = s.ownId) : let w := s.wake 4
    s.arrive p =
      if p.sseq = w.sseqDue p then ((w.sseqNext p).perform p).performEarly w.fab.early.length
      else if (p.sseq + 2 ^ 32 - w.sseqDue p) % 2 ^ 32 < 2 ^ 31 ∧ !w.fab.early.any (fun q => q.src == p.src && q.tc == p.tc && q.sseq == p.sseq) then
        { w with fab := { w.fab with early := w.fab.early ++ [p] } }
      else w := by
  refine if_neg ?_
  simp [hf, hd]

theorem State.arrive_due (hf : s.fab.failed = false) (hd : p.dst = s.ownId) (h : p.sseq = (s.wake 4).sseqDue p)
    (he : (s.wake 4).fab.early = []) : s.arrive p = ((s.wake 4).sseqNext p).perform p := by
  rw [State.arrive_named hf hd, if_pos h, he]
  rfl

theorem State.arrive_ahead (hf : s.fab.failed = false) (hd : p.dst = s.ownId) (hn : p.sseq ≠ (s.wake 4).sseqDue p)
    (h : (p.sseq + 2 ^ 32 - (s.wake 4).sseqDue p) % 2 ^ 32 < 2 ^ 31)
    (hk : ∀ q ∈ (s.wake 4).fab.early, q.src = p.src → q.tc = p.tc → q.sseq ≠ p.sseq) :
    s.arrive p = { s.wake 4 with fab := { (s.wake 4).fab with early := (s.wake 4).fab.early ++ [p] } } := by
  have new : ((s.wake 4).fab.early.any fun q => q.src == p.src && q.tc == p.tc && q.sseq == p.sseq) = false := by
    simpa [List.any_eq_false] using hk
  rw [State.arrive_named hf hd, if_neg hn, if_pos ⟨h, by simp only [new, Bool.not_false]⟩]

theorem State.arrive_behind (hf : s.fab.failed = false) (hd : p.dst = s.ownId) (hn : p.sseq ≠ (s.wake 4).sseqDue p)
    (h : 2 ^ 31 ≤ (p.sseq + 2 ^ 32 - (s.wake 4).sseqDue p) % 2 ^ 32) : s.arrive p = s.wake 4 := by
  rw [State.arrive_named hf hd, if_neg hn, if_neg fun c => absurd c.1 (Nat.not_lt.mpr h)]

/-! ### A packet and its command -/

/-- The commands of packets, each with the OP that it is for. -/
def packetRows (p : Packet) : List (Nat × Instr) :=
  [(1, .fabricWrite p), (2, .fabricRead p), (3, .readResp p), (4, .fadd64 p), (5, .cas64 p), (6, .swap64 p), (7, .atomicResp p), (8, .errResp p),
    (0x11, .collectivePacketReceive p)]

/-- The commands of the requests that read memory, and so are answered. -/
def answeredRows (p : Packet) : List (Nat × Instr) := [(2, .fabricRead p), (4, .fadd64 p), (5, .cas64 p), (6, .swap64 p)]

theorem answeredRows_subset : answeredRows p ⊆ packetRows p := by
  simp [answeredRows, packetRows]

theorem exec_packet {c : Instr} {op : Nat} (h : (op, c) ∈ packetRows p) : exec c s = s.packetRow op p := by
  have rows : ∀ x ∈ packetRows p, exec x.2 s = s.packetRow x.1 p := by
    simp only [packetRows, List.forall_mem_cons]
    exact ⟨rfl, rfl, rfl, rfl, rfl, rfl, rfl, rfl, rfl, List.forall_mem_nil _⟩
  exact rows _ h

theorem exec_packet_otherRow {c : Instr} {op : Nat} (h : (op, c) ∈ packetRows p) (ho : p.op ≠ op) : exec c s = .fault .otherRow :=
  (exec_packet h).trans (if_neg ho)

theorem exec_packet_arrives {c : Instr} (h : (p.op, c) ∈ packetRows p) : exec c s = .next (s.arrive p) :=
  (exec_packet h).trans (if_pos rfl)

theorem exec_packet_due {c : Instr} (h : (p.op, c) ∈ packetRows p) (hf : s.fab.failed = false) (hd : p.dst = s.ownId)
    (hs : p.sseq = (s.wake 4).sseqDue p) (he : (s.wake 4).fab.early = []) : exec c s = .next (((s.wake 4).sseqNext p).perform p) :=
  (exec_packet_arrives h).trans (congrArg _ (State.arrive_due hf hd hs he))

/-! ### Requests -/

theorem State.perform_request (h : p.op ∈ [1, 2, 4, 5, 6]) : s.perform p = s.txn p := by
  refine if_pos ?_
  simp only [List.mem_cons, List.not_mem_nil, or_false] at h
  rcases h with h | h | h | h | h <;> rw [h] <;> rfl

theorem State.txn_refused {cause : Nat} (h : s.txnFault p = some cause) : s.txn p = s.txnRefuse p cause := by
  simp only [State.txn, h]

theorem State.log'_sseqDue (s : State) (src code sev : Nat) (fs : List (Nat × Nat)) (p : Packet) :
    (s.log' src code sev fs).sseqDue p = s.sseqDue p := by
  rw [State.sseqDue, State.log'_fab, State.sseqDue]

/-- A response after an event was logged: the event changes no byte and leaves the device working. -/
theorem State.log'_respond_answers (src code sev : Nat) (fs : List (Nat × Nat)) (p : Packet) (op operand : Nat) (bs : List Byte)
    (hf : s.fab.failed = false) : let t := (s.log' src code sev fs).respond p op operand bs
    t.mem = s.mem ∧ t.sseqDue p = s.sseqDue p ∧ t.Answers p op operand bs := by
  have working : (s.log' src code sev fs).fab.failed = false := (congrArg FabSt.failed (State.log'_fab ..)).trans hf
  obtain ⟨mem, due, answers⟩ := State.respond_answers p op operand bs working
  exact ⟨mem.trans (State.log'_mem ..), due.trans (State.log'_sseqDue ..), answers⟩

/-- A refused request changes no byte, and is answered by ERR_RESP where it is no WRITE (R321). -/
theorem State.txnRefuse_spec (p : Packet) (cause : Nat) (hf : s.fab.failed = false) : let t := s.txnRefuse p cause
    t.mem = s.mem ∧ t.sseqDue p = s.sseqDue p ∧ (p.op ≠ 1 → t.Answers p 8 0 []) := by
  unfold State.txnRefuse
  by_cases h : p.op = 1
  · simp only [if_pos h]
    exact ⟨State.log'_mem .., State.log'_sseqDue .., fun hn => absurd h hn⟩
  · simp only [if_neg h]
    obtain ⟨mem, due, answers⟩ := State.log'_respond_answers s.fabSrc 0x5005 2 [(2, p.src), (1, p.op), (8, p.da), (1, cause)] p 8 0 [] hf
    exact ⟨mem, due, fun _ => answers⟩

/-- The access of a request that waits. -/
def State.txnAccess (s : State) (p : Packet) : WaitAcc :=
  ⟨s.collAgent, p.da, b2n (p.op == 1), List.replicate ((txnLen p).getD 0) 0, none, some p⟩

theorem State.txn_waits (h : s.txnFault p = none) (hw : s.txnWaits p = true) : s.txn p = s.waitFor (s.txnAccess p) := by
  simp only [State.txn, h, if_pos hw]
  rfl

section
variable (h : s.txnFault p = none) (hw : s.txnWaits p = false)
include h hw

theorem State.txn_write (hp : p.op = 1) : s.txn p = s.wrDa s.collAgent (s.bank (unitLedger 0)) p.da p.payload := by
  simp only [State.txn, h, hw, if_pos hp, Bool.false_eq_true, if_false]

theorem State.txn_poisoned {da : Nat} (hp : p.op ≠ 1)
    (hx : s.poisonDa s.collAgent (s.bank (unitLedger 0)) p.da ((txnLen p).getD 0) = some da) :
    s.txn p = (s.daUe s.fabSrc s.collAgent (s.bank (unitLedger 0)) da).respond p 8 0 [] := by
  simp only [State.txn, h, hw, if_neg hp, hx, Bool.false_eq_true, if_false]

theorem State.txn_read (hp : p.op = 2) (hx : s.poisonDa s.collAgent (s.bank (unitLedger 0)) p.da ((txnLen p).getD 0) = none) :
    s.txn p = s.respond p 3 0 (s.rdDa s.collAgent (s.bank (unitLedger 0)) p.da p.len) := by
  have no : p.op ≠ 1 := by omega
  simp only [State.txn, h, hw, if_neg no, hx, if_pos hp, Bool.false_eq_true, if_false]

end

/-- The word that an atomic finds at its DA. -/
def State.txnWord (s : State) (p : Packet) : Nat := field (s.rdDa s.collAgent (s.bank (unitLedger 0)) p.da 8) 0 8

/-- An atomic has stored a new word at its DA. -/
def State.txnStore (s : State) (p : Packet) (word : Nat) : State := s.wrDa s.collAgent (s.bank (unitLedger 0)) p.da (leBytes 8 word)

theorem State.txn_atomic (h : s.txnFault p = none) (hw : s.txnWaits p = false) (h1 : p.op ≠ 1) (h2 : p.op ≠ 2)
    (hx : s.poisonDa s.collAgent (s.bank (unitLedger 0)) p.da ((txnLen p).getD 0) = none) :
    s.txn p = (s.txnStore p (atomicNew p (s.txnWord p))).respond p 7 (s.txnWord p) [] := by
  simp only [State.txn, h, hw, if_neg h1, hx, if_neg h2, Bool.false_eq_true, if_false]
  rfl

theorem atomicNew_fadd (h : p.op = 4) (old : Nat) : atomicNew p old = (old + p.operand) % 2 ^ 64 := by
  simp only [atomicNew, h]

theorem atomicNew_cas_equal (h : p.op = 5) {old : Nat} (he : old = p.operand % 2 ^ 64) : atomicNew p old = field p.payload 0 8 := by
  simp only [atomicNew, h, if_pos he]

theorem atomicNew_cas_unequal (h : p.op = 5) {old : Nat} (he : old ≠ p.operand % 2 ^ 64) : atomicNew p old = old := by
  simp only [atomicNew, h, if_neg he]

theorem atomicNew_swap (h : p.op = 6) (old : Nat) : atomicNew p old = p.operand % 2 ^ 64 := by
  simp only [atomicNew, h]

theorem State.wrDa_flds (s : State) (a : Agent) (img : Image) (da : Nat) (bs : List Byte) : (s.wrDa a img da bs).flds = s.flds := by
  obtain ⟨m, p, eq⟩ := s.wrDa_eq a img da bs
  rw [eq]

theorem State.wrDa_out (s : State) (a : Agent) (img : Image) (da : Nat) (bs : List Byte) : (s.wrDa a img da bs).out = s.out := by
  obtain ⟨m, p, eq⟩ := s.wrDa_eq a img da bs
  rw [eq]

theorem State.wrDa_fab (s : State) (a : Agent) (img : Image) (da : Nat) (bs : List Byte) : (s.wrDa a img da bs).fab = s.fab := by
  obtain ⟨m, p, eq⟩ := s.wrDa_eq a img da bs
  rw [eq]

/-- EV_MEM_UE is an event like any other: which die it names depends on where the DA lies. -/
theorem State.daUe_eq_log' (s : State) (src : Nat) (a : Agent) (img : Image) (da : Nat) :
    ∃ fs, s.daUe src a img da = s.log' src 0x3002 2 fs := by
  unfold State.daUe
  split <;> exact ⟨_, rfl⟩

/-! ### A request that is due -/

section
variable {c : Instr} (hc : (p.op, c) ∈ packetRows p) (hf : s.fab.failed = false) (hd : p.dst = s.ownId)
  (hs : p.sseq = (s.wake 4).sseqDue p) (he : (s.wake 4).fab.early = [])
include hc hf hd hs he

theorem exec_request_due (hr : p.op ∈ [1, 2, 4, 5, 6]) : exec c s = .next (((s.wake 4).sseqNext p).txn p) :=
  (exec_packet_due hc hf hd hs he).trans (congrArg _ (State.perform_request hr))

theorem exec_request_refused {cause : Nat} (hr : p.op ∈ [1, 2, 4, 5, 6]) (h : ((s.wake 4).sseqNext p).txnFault p = some cause) :
    ∃ t : State, exec c s = .next t ∧ t.mem = (s.wake 4).mem ∧ t.sseqDue p = (p.sseq + 1) % 2 ^ 32 ∧ (p.op ≠ 1 → t.Answers p 8 0 []) := by
  obtain ⟨mem, due, answers⟩ := State.txnRefuse_spec p cause (State.sseqNext_working (p := p) hf)
  exact ⟨_, (exec_request_due hc hf hd hs he hr).trans (congrArg _ (State.txn_refused h)), mem, due.trans State.sseqNext_due, answers⟩

theorem exec_request_waits (hr : p.op ∈ [1, 2, 4, 5, 6]) (h : ((s.wake 4).sseqNext p).txnFault p = none)
    (hw : ((s.wake 4).sseqNext p).txnWaits p = true) :
    ∃ t : State, exec c s = .next t ∧ t.mem = (s.wake 4).mem ∧ t.out = (s.wake 4).out ∧ ∃ x ∈ t.clk.waitAcc, x.da = p.da ∧ x.pkt = some p :=
  ⟨_, (exec_request_due hc hf hd hs he hr).trans (congrArg _ (State.txn_waits h hw)), rfl, rfl, _, List.mem_append_right _ List.mem_cons_self,
    rfl, rfl⟩

section
variable (h : ((s.wake 4).sseqNext p).txnFault p = none) (hw : ((s.wake 4).sseqNext p).txnWaits p = false)
include h hw

theorem exec_write_stores (hp : p.op = 1) : let v := (s.wake 4).sseqNext p
    ∃ t : State, exec c s = .next t ∧ t.mem = (v.wrDa v.collAgent (v.bank (unitLedger 0)) p.da p.payload).mem ∧ t.out = (s.wake 4).out ∧
      t.flds = (s.wake 4).flds :=
  ⟨_, (exec_request_due hc hf hd hs he (by simp [hp])).trans (congrArg _ (State.txn_write h hw hp)), rfl, State.wrDa_out .., State.wrDa_flds ..⟩

theorem exec_request_poisoned {da : Nat} (hp : p.op ∈ [2, 4, 5, 6]) : let v := (s.wake 4).sseqNext p
    v.poisonDa v.collAgent (v.bank (unitLedger 0)) p.da ((txnLen p).getD 0) = some da →
    ∃ t : State, exec c s = .next t ∧ t.mem = (s.wake 4).mem ∧ t.Answers p 8 0 [] := by
  intro v hx
  obtain ⟨fs, ev⟩ := v.daUe_eq_log' v.fabSrc v.collAgent (v.bank (unitLedger 0)) da
  obtain ⟨mem, -, answers⟩ := State.log'_respond_answers v.fabSrc 0x3002 2 fs p 8 0 [] (State.sseqNext_working (p := p) hf)
  have no : p.op ≠ 1 := fun e => by simp [e] at hp
  have txn := State.txn_poisoned h hw no hx
  rw [ev] at txn
  exact ⟨_, (exec_request_due hc hf hd hs he (List.mem_cons_of_mem _ hp)).trans (congrArg _ txn), mem, answers⟩

theorem exec_read_answers (hp : p.op = 2) : let v := (s.wake 4).sseqNext p
    v.poisonDa v.collAgent (v.bank (unitLedger 0)) p.da ((txnLen p).getD 0) = none →
    ∃ t : State, exec c s = .next t ∧ t.mem = (s.wake 4).mem ∧ t.Answers p 3 0 (v.rdDa v.collAgent (v.bank (unitLedger 0)) p.da p.len) := by
  intro v hx
  obtain ⟨mem, -, answers⟩ := State.respond_answers p 3 0 (v.rdDa v.collAgent (v.bank (unitLedger 0)) p.da p.len)
    (State.sseqNext_working (p := p) hf)
  exact ⟨_, (exec_request_due hc hf hd hs he (by simp [hp])).trans (congrArg _ (State.txn_read h hw hp hx)), mem, answers⟩

/-- An atomic stores what its operation makes of the old word, which it answers. -/
theorem exec_atomic_answers (hp : p.op ∈ [4, 5, 6]) : let v := (s.wake 4).sseqNext p
    v.poisonDa v.collAgent (v.bank (unitLedger 0)) p.da ((txnLen p).getD 0) = none →
    ∃ t : State, exec c s = .next t ∧ t.mem = (v.txnStore p (atomicNew p (v.txnWord p))).mem ∧ t.Answers p 7 (v.txnWord p) [] := by
  intro v hx
  have working : (v.txnStore p (atomicNew p (v.txnWord p))).fab.failed = false :=
    (congrArg FabSt.failed (State.wrDa_fab ..)).trans (State.sseqNext_working hf)
  obtain ⟨mem, -, answers⟩ := State.respond_answers p 7 (v.txnWord p) [] working
  have h1 : p.op ≠ 1 := fun e => by simp [e] at hp
  have h2 : p.op ≠ 2 := fun e => by simp [e] at hp
  have request : p.op ∈ [1, 2, 4, 5, 6] := List.mem_cons_of_mem _ (List.mem_cons_of_mem _ hp)
  exact ⟨_, (exec_request_due hc hf hd hs he request).trans (congrArg _ (State.txn_atomic h hw h1 h2 hx)), mem, answers⟩

/-- CAS64 stores its payload where the word equals the operand, and else the word as it was. -/
theorem exec_cas_answers (hp : p.op = 5) : let v := (s.wake 4).sseqNext p
    v.poisonDa v.collAgent (v.bank (unitLedger 0)) p.da ((txnLen p).getD 0) = none →
    ∃ t : State, exec c s = .next t ∧ t.Answers p 7 (v.txnWord p) [] ∧
      (v.txnWord p = p.operand % 2 ^ 64 → t.mem = (v.txnStore p (field p.payload 0 8)).mem) ∧
      (v.txnWord p ≠ p.operand % 2 ^ 64 → t.mem = (v.txnStore p (v.txnWord p)).mem) := by
  intro v hx
  obtain ⟨t, step, mem, answers⟩ := exec_atomic_answers hc hf hd hs he h hw (by simp [hp]) hx
  exact ⟨t, step, answers, fun e => mem.trans (congrArg (fun w => (v.txnStore p w).mem) (atomicNew_cas_equal hp e)),
    fun e => mem.trans (congrArg (fun w => (v.txnStore p w).mem) (atomicNew_cas_unequal hp e))⟩

end

/-- A response hands its result to the transaction of its tag, and changes no byte. -/
theorem exec_response_due {ok : Bool} {data : List Byte} (hr : ∀ v : State, v.perform p = v.emit (.txnDone p.tag ok data)) :
    ∃ t : State, exec c s = .next t ∧ t.mem = (s.wake 4).mem ∧ t.out = .txnDone p.tag ok data :: (s.wake 4).out :=
  ⟨_, (exec_packet_due hc hf hd hs he).trans (congrArg _ (hr _)), rfl, rfl⟩

end

theorem State.perform_readResp (h : p.op = 3) (s : State) : s.perform p = s.emit (.txnDone p.tag true p.payload) := by
  simp [State.perform, within, h]

theorem State.perform_atomicResp (h : p.op = 7) (s : State) : s.perform p = s.emit (.txnDone p.tag true (leBytes 8 p.operand)) := by
  simp [State.perform, within, h]

theorem State.perform_errResp (h : p.op = 8) (s : State) : s.perform p = s.emit (.txnDone p.tag false []) := by
  simp [State.perform, within, h]

end

/-- Settles O37: the order of arrival for every packet, then each operation when it is due. -/
theorem fabricPacketsAreHandledInOrder : Obligations.FabricPacketsAreHandledInOrder := by
  unfold Obligations.FabricPacketsAreHandledInOrder
  refine ⟨fun s p c op hc => ⟨exec_packet_otherRow hc, ?_⟩, fun s p hf hd hs he => ⟨fun h hw => ?_, fun hp => ?_, fun hp => ?_, fun hp => ?_⟩⟩
  · rintro rfl
    have arrives := exec_packet_arrives (s := s) hc
    refine ⟨fun h => arrives.trans (congrArg _ (State.arrive_discards h)), fun hf hd => ⟨fun _ ha hn hk => ?_, fun ha hn => ?_, fun hs he => ?_⟩⟩
    · exact ⟨_, arrives.trans (congrArg _ (State.arrive_ahead hf hd hn ha hk)), rfl, rfl, rfl, rfl, rfl⟩
    · exact arrives.trans (congrArg _ (State.arrive_behind hf hd hn ha))
    · refine ⟨State.sseqNext_due, fun hr cause hx => ?_, exec_request_waits hc hf hd hs he⟩
      obtain ⟨t, step, mem, due, answers⟩ := exec_request_refused hc hf hd hs he hr hx
      refine ⟨t, step, mem, due, fun hn => ?_⟩
      obtain ⟨q, sent, op, dst, -, tag, -⟩ := answers hn
      exact ⟨q, sent, op, dst, tag⟩
  · refine ⟨fun hp => exec_write_stores (by simp [packetRows, hp]) hf hd hs he h hw hp, fun da hx c op hc hp => ?_, fun hx =>
      ⟨fun hp => exec_read_answers (by simp [packetRows, hp]) hf hd hs he h hw hp hx, fun hp => ?_,
        fun hp => exec_cas_answers (by simp [packetRows, hp]) hf hd hs he h hw hp hx, fun hp => ?_⟩⟩
    · subst hp
      exact exec_request_poisoned (answeredRows_subset hc) hf hd hs he h hw (List.mem_map_of_mem (f := Prod.fst) hc) hx
    · have atomic := exec_atomic_answers (c := .fadd64 p) (by simp [packetRows, hp]) hf hd hs he h hw (by simp [hp]) hx
      rwa [atomicNew_fadd hp] at atomic
    · have atomic := exec_atomic_answers (c := .swap64 p) (by simp [packetRows, hp]) hf hd hs he h hw (by simp [hp]) hx
      rwa [atomicNew_swap hp] at atomic
  · exact exec_response_due (by simp [packetRows, hp]) hf hd hs he (State.perform_readResp hp)
  · exact exec_response_due (by simp [packetRows, hp]) hf hd hs he (State.perform_atomicResp hp)
  · exact exec_response_due (by simp [packetRows, hp]) hf hd hs he (State.perform_errResp hp)

end Sys2Proof.Machine

/-! The memory of the ledger dies: requests, the scrub, calibration and training (O18). -/
namespace Sys2Proof.Machine

section
variable {s : State}

/-! ### What the array code makes of a block -/

theorem lpLoc_split (loc : Nat) : lpLoc (loc / 2 ^ 40) (loc % 2 ^ 40) = loc := by
  unfold lpLoc
  omega

theorem State.fencedAt_split {loc : Nat} : s.fencedAt (lpLoc (loc / 2 ^ 40) (loc % 2 ^ 40)) = s.fencedAt loc := by
  rw [lpLoc_split]

section
variable {ld off : Nat} (hf : s.fencedAt (lpLoc ld off) = false)
include hf

theorem State.arrayRead_clean (da who : Nat) : s.arrayRead ld off da 0 who = s := by
  simp only [State.arrayRead, hf, Bool.false_eq_true, if_false]
  rfl

theorem State.arrayRead_corrected (da who : Nat) : s.arrayRead ld off da 1 who = s.corrected ld (lpChan off) da := by
  simp only [State.arrayRead, hf, Bool.false_eq_true, if_false]
  rfl

theorem State.arrayRead_bad (da who : Nat) {err : Nat} (he : 2 ≤ err) : s.arrayRead ld off da err who = s.uncorrectable ld off da who := by
  have bad : decodeBlock err = .bad := by
    rw [decodeBlock, if_neg (by omega), if_neg (by omega)]
  simp only [State.arrayRead, hf, bad, Bool.false_eq_true, if_false]

end

/-- A corrected symbol is counted, and neither memory nor poison changes (R178). -/
theorem State.corrected_spec (s : State) (ld ch da : Nat) : let t := s.corrected ld ch da
    t.mem = s.mem ∧ t.poison = s.poison ∧
      t.get .LDG_ECC_CE ld = satAdd Field.LDG_ECC_CE.width (s.get .LDG_ECC_CE ld) 1 % 2 ^ Field.LDG_ECC_CE.width := by
  simp only [State.corrected]
  split
  · refine ⟨State.log'_mem .., State.log'_poison .., ?_⟩
    rw [State.log'_get_other _ _ _ _ _ _ _ _ (by decide)]
    exact State.get_set_self ..
  · exact ⟨rfl, rfl, State.get_set_self ..⟩

/-- An uncorrectable block becomes poisoned, and is counted and recorded (R178). -/
theorem State.uncorrectable_spec (s : State) (ld off da who : Nat) : let t := s.uncorrectable ld off da who
    t.mem = s.mem ∧ t.out = s.out ∧ t.poison = (s.poisonAt (lpLoc ld off)).poison ∧
      t.get .LDG_ECC_UE ld = satAdd Field.LDG_ECC_UE.width (s.get .LDG_ECC_UE ld) 1 % 2 ^ Field.LDG_ECC_UE.width ∧
      t.get .LDG_ECC_ADDR_ADDR ld = da / 64 * 64 % 2 ^ Field.LDG_ECC_ADDR_ADDR.width ∧ t.get .LDG_ECC_ADDR_VALID ld = 1 := by
  have valid : Field.LDG_ECC_ADDR_VALID.width = 1 := rfl
  have fields (f : Field) : (s.uncorrectable ld off da who).get f ld = _ := State.log'_get_other _ _ _ _ _ _ _ _ (by decide)
  refine ⟨State.log'_mem .., State.log'_out_other _ _ _ _ _ (by decide), State.log'_poison .., ?_, ?_, ?_⟩ <;> rw [fields]
  · simp
  · simp
  · simp [valid]

/-! ### Poison of an LPDDR6 block -/

theorem mem_poisonAt {loc : Nat} (h : loc < 2 ^ 44) : blockOf loc ∈ (s.poisonAt loc).poison := by
  have block : loc / granule loc * granule loc = blockOf loc := by rw [granule, if_pos h, blockOf]
  exact (insertBlock_mem ..).2 (.inl block.symm)

theorem State.poisoned_of_mem {loc : Nat} (h : loc < 2 ^ 44) (hp : blockOf loc ∈ s.poison) : s.poisoned (blockOf loc) 64 = true := by
  have wide : granule (blockOf loc) = 64 := if_pos (by rw [blockOf]; omega)
  have hit : (s.poison.any fun b => decide (b < blockOf loc + 64) && decide (blockOf loc < b + granule b)) = true :=
    List.any_eq_true.2 ⟨_, hp, by simp [wide]⟩
  simp only [State.poisoned, hit, Bool.true_or]

/-! ### Requests -/

theorem exec_ledgerMemoryRequest {da : Nat} (a : Agent) (old w : Bool) (bs : List Byte) (err link : Nat) (h : da < s.lpSize) :
    exec (.ledgerMemoryRequest a old da w bs err link) s = .next (s.lpRequest a old da w bs err link) :=
  congrArg Host.Outcome.next (if_pos h)

theorem exec_ledgerMemoryRequest_unmapped {da : Nat} (a : Agent) (w : Bool) (bs : List Byte) (err link : Nat)
    (h : s.lpSize ≤ da ∨ s.regionAt (s.bank (unitLedger 0)) da = none) :
    exec (.ledgerMemoryRequest a false da w bs err link) s = .next ((s.unmappedEv a da).emit (.answer a false [])) := by
  by_cases hs : da < s.lpSize
  · have nowhere := h.resolve_left (by omega)
    rw [exec_ledgerMemoryRequest _ _ _ _ _ _ hs]
    simp only [State.lpRequest, Bool.false_eq_true, if_false, nowhere]
  · exact congrArg Host.Outcome.next (if_neg hs)

section
variable {a : Agent} {da loc : Nat} {r : Region} (hr : s.regionAt (s.bank (unitLedger 0)) da = some r)
  (hl : s.resolve a (s.bank (unitLedger 0)) da = .at loc) {bs : List Byte}
include hr hl

/-- The access of a request that waits: cut at the end of its block (the choice of log entry 29). -/
theorem State.lpRequest_waits (hb : s.memBusy (s.bank (unitLedger 0)) da (bs.take (64 - da % 64)).length = true) (w : Bool) (err link : Nat) :
    s.lpRequest a false da w bs err link = s.waitFor ⟨a, da, b2n w, bs.take (64 - da % 64), some (false, err, link), none⟩ := by
  simp only [State.lpRequest, Bool.false_eq_true, if_false, hr, hl, hb, if_true]

section
variable (hb : s.memBusy (s.bank (unitLedger 0)) da (bs.take (64 - da % 64)).length = false)
include hb

theorem State.lpRequest_writes (hf : s.fencedAt loc = false) :
    s.lpRequest a false da true bs 0 0 = (s.wr loc (bs.take (64 - da % 64))).emit (.answer a true []) := by
  have clean := State.arrayRead_clean (State.fencedAt_split.trans hf) da (s.agentSrc a)
  simp only [State.lpRequest, Bool.false_eq_true, if_false, hr, hl, hb, State.linkErr, if_true, clean, ite_self]

theorem State.lpRequest_reads (err : Nat) : let t := s.arrayRead (loc / 2 ^ 40) (loc % 2 ^ 40) da err (s.agentSrc a)
    s.lpRequest a false da false bs err 0 = t.emit (.answer a (!t.poisoned (blockOf loc) 64) (t.rd loc (bs.take (64 - da % 64)).length)) := by
  simp only [State.lpRequest, Bool.false_eq_true, if_false, hr, hl, hb, State.linkErr, if_true, Bool.false_and]

section
variable (hs : da < s.lpSize) (hf : s.fencedAt loc = false)
include hs hf

theorem exec_read_clean : exec (.ledgerMemoryRequest a false da false bs 0 0) s =
    .next (s.emit (.answer a (!s.poisoned (blockOf loc) 64) (s.rd loc (bs.take (64 - da % 64)).length))) := by
  have clean := State.arrayRead_clean (State.fencedAt_split.trans hf) da (s.agentSrc a)
  rw [exec_ledgerMemoryRequest _ _ _ _ _ _ hs, State.lpRequest_reads hr hl hb, clean]

theorem exec_read_corrected : ∃ t, exec (.ledgerMemoryRequest a false da false bs 1 0) s = .next t ∧ t.mem = s.mem ∧ t.poison = s.poison ∧
    t.get .LDG_ECC_CE (loc / 2 ^ 40) = satAdd Field.LDG_ECC_CE.width (s.get .LDG_ECC_CE (loc / 2 ^ 40)) 1 % 2 ^ Field.LDG_ECC_CE.width := by
  have one := State.arrayRead_corrected (State.fencedAt_split.trans hf) da (s.agentSrc a)
  refine ⟨_, (exec_ledgerMemoryRequest _ _ _ _ _ _ hs).trans (congrArg _ (State.lpRequest_reads hr hl hb 1)), ?_⟩
  rw [one]
  exact s.corrected_spec ..

theorem exec_read_uncorrectable (h44 : loc < 2 ^ 44) {err : Nat} (he : 2 ≤ err) :
    ∃ t, exec (.ledgerMemoryRequest a false da false bs err 0) s = .next t ∧ t.mem = s.mem ∧ blockOf loc ∈ t.poison ∧
      t.out = .answer a false (s.rd loc (bs.take (64 - da % 64)).length) :: s.out ∧
      t.get .LDG_ECC_UE (loc / 2 ^ 40) = satAdd Field.LDG_ECC_UE.width (s.get .LDG_ECC_UE (loc / 2 ^ 40)) 1 % 2 ^ Field.LDG_ECC_UE.width ∧
      t.get .LDG_ECC_ADDR_ADDR (loc / 2 ^ 40) = da / 64 * 64 % 2 ^ Field.LDG_ECC_ADDR_ADDR.width ∧
      t.get .LDG_ECC_ADDR_VALID (loc / 2 ^ 40) = 1 := by
  have bad := State.arrayRead_bad (State.fencedAt_split.trans hf) da (s.agentSrc a) he
  refine ⟨_, (exec_ledgerMemoryRequest _ _ _ _ _ _ hs).trans (congrArg _ (State.lpRequest_reads hr hl hb err)), ?_⟩
  rw [bad]
  obtain ⟨mem, out, poison, count⟩ := s.uncorrectable_spec (loc / 2 ^ 40) (loc % 2 ^ 40) da (s.agentSrc a)
  rw [lpLoc_split] at poison
  have marked : blockOf loc ∈ (s.uncorrectable (loc / 2 ^ 40) (loc % 2 ^ 40) da (s.agentSrc a)).poison := poison ▸ mem_poisonAt h44
  refine ⟨mem, marked, ?_, count⟩
  rw [State.emit_out, out, State.poisoned_of_mem h44 marked, State.rd, mem]
  rfl

end

end

end

/-! ### The scrub -/

theorem exec_scrubRead {ld : Nat} (hok : s.dieOk ld = true) (err : Nat) : exec (.scrubRead ld err) s = .next (s.scrub ld err) :=
  onUnit_present hok

theorem State.scrub_rests {ld : Nat} (h : s.get .LDG_CFG_SCRUB_H ld = 0 ∨ s.get .LDG_STATUS_STATE ld = 3 ∨ s.clk.stopped = true ∨
    s.chanBusy ld (KMap.get s.rst.scrub ld 0) = true) (err : Nat) : s.scrub ld err = s := if_pos h

/-- The scrub of a ledger die stands at its next block. -/
def State.scrubNext (s : State) (ld : Nat) : State :=
  { s with rst := { s.rst with scrub := KMap.set s.rst.scrub ld ((KMap.get s.rst.scrub ld 0 + 64) % s.ident.lpDie) } }

/-- A block without an error, whether a region maps it or not, is left as it is. -/
theorem State.scrub_clean {ld : Nat} (hh : s.get .LDG_CFG_SCRUB_H ld ≠ 0) (h3 : s.get .LDG_STATUS_STATE ld ≠ 3) (hc : s.clk.stopped = false)
    (hb : s.chanBusy ld (KMap.get s.rst.scrub ld 0) = false) (hf : s.fencedAt (lpLoc ld (KMap.get s.rst.scrub ld 0)) = false) :
    s.scrub ld 0 = s.scrubNext ld := by
  have clean (da who : Nat) : (s.scrubNext ld).arrayRead ld (KMap.get s.rst.scrub ld 0) da 0 who = s.scrubNext ld :=
    State.arrayRead_clean (s := s.scrubNext ld) hf da who
  have runs : ¬(s.get .LDG_CFG_SCRUB_H ld = 0 ∨ s.get .LDG_STATUS_STATE ld = 3 ∨ s.clk.stopped = true ∨
      s.chanBusy ld (KMap.get s.rst.scrub ld 0) = true) := by simp [hh, h3, hc, hb]
  rw [State.scrub, if_neg runs]
  simp only []
  split
  · exact clean ..
  · rfl

/-! ### Calibration -/

theorem exec_calibrationStart {ld : Nat} (hok : s.dieOk ld = true) (mask : Nat) :
    exec (.calibrationStart ld mask) s = .next (s.calBegin ld (s.calDue ld mask)) := onUnit_present hok

/-- The devices of a mask that do not calibrate yet. -/
def State.calDevs (s : State) (ld mask : Nat) : List Nat := (bitList mask 3).filter fun i => !(s.rst.cal.any fun c => c.1 == 3 * ld + i)

theorem State.calBegin_rests {ld mask : Nat} (h : s.get .LDG_STATUS_STATE ld = 3 ∨ s.get .LDG_STATUS_STATE ld = 5 ∨ s.clk.stopped = true) :
    s.calBegin ld mask = s := if_pos h

theorem State.calBegin_none {ld mask : Nat} (h : ∀ i ∈ bitList mask 3, (s.rst.cal.any fun c => c.1 == 3 * ld + i) = true) :
    s.calBegin ld mask = s := by
  have idle : s.calDevs ld mask = [] := List.filter_eq_nil_iff.2 fun i hi => by simp [h i hi]
  unfold State.calBegin
  split
  · rfl
  · exact if_pos idle

/-- A device that is due begins to calibrate now, and no register but its ledger die's STATE changes. -/
theorem State.calBegin_spec {ld mask i : Nat} (h3 : s.get .LDG_STATUS_STATE ld ≠ 3) (h5 : s.get .LDG_STATUS_STATE ld ≠ 5)
    (hc : s.clk.stopped = false) (hi : i ∈ bitList mask 3) (hn : (s.rst.cal.any fun c => c.1 == 3 * ld + i) = false) :
    let t := s.calBegin ld mask
    (3 * ld + i, s.now) ∈ t.rst.cal ∧ t.get .LDG_STATUS_STATE ld = 4 ∧ t.mem = s.mem ∧
      ∀ f u n, f ≠ .LDG_STATUS_STATE ∨ u ≠ ld → t.get f u n = s.get f u n := by
  have due : i ∈ s.calDevs ld mask := List.mem_filter.2 ⟨hi, by rw [hn]; rfl⟩
  have runs : ¬(s.get .LDG_STATUS_STATE ld = 3 ∨ s.get .LDG_STATUS_STATE ld = 5 ∨ s.clk.stopped = true) := by simp [h3, h5, hc]
  have begins : ¬s.calDevs ld mask = [] := List.ne_nil_of_mem due
  intro t
  have begun : t = _ := (if_neg runs).trans (if_neg begins)
  rw [begun]
  refine ⟨List.mem_append_right _ (List.mem_map_of_mem due), State.get_set_self .., rfl, fun f u n h => ?_⟩
  rw [State.get_set_ne _ _ _ _ _ _ _ _ (h.imp_right .inl)]
  rfl

/-- What the end of a channel's calibration leaves alone. -/
theorem State.calChannel_keeps (s : State) (ld ch : Nat) (ok : Bool) : let t := s.calChannel ld ch ok
    t.mem = s.mem ∧ t.rst.cal = s.rst.cal ∧ ∀ u, t.get .LDG_CAL_COUNT u = s.get .LDG_CAL_COUNT u := by
  unfold State.calChannel
  cases ok
  · by_cases hr : bit (s.get .LDG_CAL_RETRY ld) ch = true
    · simp only [hr, Bool.false_eq_true, if_false, if_true]
      refine ⟨State.log'_mem .., congrArg RstSt.cal (State.log'_rst ..), fun u => ?_⟩
      refine (State.log'_get_other _ _ _ _ _ _ _ _ (by decide)).trans ?_
      simp
    · simp [hr]
  · simp

theorem State.calChannels_keep (l : List Nat) (ch : Nat → Nat) (ok : Nat → Bool) (ld : Nat) (s : State) :
    let t := l.foldl (fun s i => s.calChannel ld (ch i) (ok i)) s
    t.mem = s.mem ∧ t.rst.cal = s.rst.cal ∧ ∀ u, t.get .LDG_CAL_COUNT u = s.get .LDG_CAL_COUNT u := by
  induction l generalizing s with
  | nil => exact ⟨rfl, rfl, fun _ => rfl⟩
  | cons i l ih =>
    obtain ⟨mem, cal, count⟩ := ih (s.calChannel ld (ch i) (ok i))
    obtain ⟨mem', cal', count'⟩ := s.calChannel_keeps ld (ch i) (ok i)
    exact ⟨mem.trans mem', cal.trans cal', fun u => (count u).trans (count' u)⟩

/-- A device's calibration has ended, and those that waited for it have not gone on yet. -/
def State.calEnded (s : State) (dev failed : Nat) : State :=
  let ld := dev / 3
  let s := (s.setCal (s.rst.cal.filter fun c => c.1 != dev)).bump .LDG_CAL_COUNT 1 ld
  let s := (List.range 8).foldl (fun s i => s.calChannel ld (8 * (dev % 3) + i) (!bit failed i)) s
  if s.rst.cal.any fun c => c.1 / 3 == ld then s else s.set .LDG_STATUS_STATE 2 ld

theorem exec_calibrationComplete_idle {dev failed : Nat} (hok : s.dieOk (dev / 3) = true) (h : (s.rst.cal.any fun c => c.1 == dev) = false) :
    exec (.calibrationComplete dev failed) s = .next s :=
  (onUnit_present hok).trans (congrArg _ (if_pos (by rw [h]; rfl)))

theorem exec_calibrationComplete {dev failed : Nat} (hok : s.dieOk (dev / 3) = true) (h : (s.rst.cal.any fun c => c.1 == dev) = true) :
    exec (.calibrationComplete dev failed) s = .next (s.calEnded dev failed).accResume :=
  (onUnit_present hok).trans (congrArg _ (if_neg (by rw [h]; exact Bool.false_ne_true)))

theorem State.calEnded_spec (s : State) (dev failed : Nat) : let t := s.calEnded dev failed
    t.rst.cal = (s.rst.cal.filter fun c => c.1 != dev) ∧ t.mem = s.mem ∧
      t.get .LDG_CAL_COUNT (dev / 3) = (s.get .LDG_CAL_COUNT (dev / 3) + 1) % 2 ^ Field.LDG_CAL_COUNT.width ∧
      ((s.rst.cal.filter fun c => c.1 != dev).any (fun c => c.1 / 3 == dev / 3) = false → t.get .LDG_STATUS_STATE (dev / 3) = 2) := by
  obtain ⟨mem, cal, count⟩ := State.calChannels_keep (List.range 8) (8 * (dev % 3) + ·) (fun i => !bit failed i) (dev / 3)
    ((s.setCal (s.rst.cal.filter fun c => c.1 != dev)).bump .LDG_CAL_COUNT 1 (dev / 3))
  replace count := (count (dev / 3)).trans (State.get_set_self ..)
  unfold State.calEnded
  simp only [cal]
  split
  · rename_i more
    exact ⟨cal, mem, count, fun last => absurd (last.symm.trans more) Bool.false_ne_true⟩
  · exact ⟨cal, mem, (State.get_set_ne _ _ _ _ _ _ _ _ (.inl (by decide))).trans count, fun _ => State.get_set_self ..⟩

section
variable {ld ch : Nat} (hch : ch < 24)
include hch

theorem bit_setBit_self {f : Field} (hw : f.width = 24) (v : Bool) : bit ((s.setBit f ch v ld).get f ld) ch = v := by
  simp only [State.setBit_eq, State.get_set_self, hw, bit_mod _ _ _ hch, bit_putBit, if_true]

theorem State.calChannel_passes : bit ((s.calChannel ld ch true).get .LDG_CAL_RETRY ld) ch = false := bit_setBit_self hch rfl false

theorem State.calChannel_retries (h : bit (s.get .LDG_CAL_RETRY ld) ch = false) :
    bit ((s.calChannel ld ch false).get .LDG_CAL_RETRY ld) ch = true ∧
      (s.calChannel ld ch false).get .LDG_STATUS_CH_FENCED ld = s.get .LDG_STATUS_CH_FENCED ld := by
  have retry : s.calChannel ld ch false = s.setBit .LDG_CAL_RETRY ch true ld := by
    simp only [State.calChannel, h, Bool.false_eq_true, if_false]
  rw [retry]
  exact ⟨bit_setBit_self hch rfl true, State.get_set_ne _ _ _ _ _ _ _ _ (.inl (by decide))⟩

theorem State.calChannel_fences (h : bit (s.get .LDG_CAL_RETRY ld) ch = true) :
    bit ((s.calChannel ld ch false).get .LDG_STATUS_CH_FENCED ld) ch = true ∧ (s.calChannel ld ch false).fab.failed = true ∧
      bit ((s.calChannel ld ch false).get .LDG_CAL_RETRY ld) ch = false := by
  have fenced : s.calChannel ld ch false = (((s.setBit .LDG_CAL_RETRY ch false ld).setBit .LDG_STATUS_CH_FENCED ch true ld).log'
      (srcLedger ld 5) 0x3005 2 [(1, ld), (1, ch)]).failDevice := by
    simp only [State.calChannel, h, Bool.false_eq_true, if_false, if_true]
  have fields (f : Field) : (s.calChannel ld ch false).get f ld =
      ((s.setBit .LDG_CAL_RETRY ch false ld).setBit .LDG_STATUS_CH_FENCED ch true ld).get f ld := by
    rw [fenced]
    exact State.log'_get_other _ _ _ _ _ _ _ _ (by decide)
  refine ⟨?_, by rw [fenced]; rfl, ?_⟩ <;> rw [fields]
  · exact bit_setBit_self hch rfl true
  · rw [State.setBit_eq _ .LDG_STATUS_CH_FENCED, State.get_set_ne _ _ _ _ _ _ _ _ (.inl (by decide))]
    exact bit_setBit_self hch rfl false

end

/-! ### Training -/

section
variable {ld : Nat} {types : List Nat} {bad : Option Nat}

theorem exec_lpddr6Training_late (hok : s.dieOk ld = true)
    (h : s.rst.lpOk = true ∨ s.get .RST_STATUS_STAGE = 6 ∨ s.get .LDG_STATUS_STATE ld ≠ 0) : exec (.lpddr6Training ld types bad) s = .next s :=
  (onUnit_present hok).trans (congrArg _ (if_pos h))

theorem exec_lpddr6Training (hok : s.dieOk ld = true) (hl : s.rst.lpOk = false) (h6 : s.get .RST_STATUS_STAGE ≠ 6)
    (h0 : s.get .LDG_STATUS_STATE ld = 0) : exec (.lpddr6Training ld types bad) s = .next (s.lpTrain ld types bad) :=
  (onUnit_present hok).trans (congrArg _ (if_neg (by simp [hl, h6, h0])))

theorem State.lpTrain_trains (h : s.trainFault ld types bad = none) : s.lpTrain ld types bad =
    (({ s with ident := { s.ident with dev96 := types.getD 0 0 == 2 } } : State).set .LDG_STATUS_DEV_TYPE (types.getD 0 0) ld).set
      .LDG_STATUS_STATE 1 ld := by
  simp only [State.lpTrain, h]

/-- A failed start-up reads so, and changes no byte and no STATE of a ledger die (R443). -/
theorem State.startFail_spec (s : State) (unit cause : Nat) : let t := s.startFail unit cause
    t.get .RST_STATUS_STAGE = 6 ∧ t.mem = s.mem ∧ ∀ u, t.get .LDG_STATUS_STATE u = s.get .LDG_STATUS_STATE u := by
  obtain ⟨⟨-, mem, -, fields⟩, -⟩ := ((s.log' (srcHub s.inCharge 12) 0xb004 3
    [(1, s.get .RST_STATUS_STAGE), (4, unit), (1, cause)]).set .RST_STATUS_STAGE 6).logMoves_spec (if s.inCharge = 2 then 1 else 0)
  refine ⟨(fields _ _ _ (by decide)).trans (State.get_set_self ..), mem.trans (State.log'_mem ..), fun u => (fields _ _ _ (by decide)).trans ?_⟩
  rw [State.get_set_ne _ _ _ _ _ _ _ _ (.inl (by decide)), State.log'_get_other _ _ _ _ _ _ _ _ (by decide)]

theorem State.lpTrain_fails {f : Nat × Nat} (h : s.trainFault ld types bad = some f) : let t := s.lpTrain ld types bad
    t.get .LDG_STATUS_STATE ld = 5 ∧ t.get .RST_STATUS_STAGE = 6 ∧ t.mem = s.mem := by
  obtain ⟨dev, cause⟩ := f
  simp only [State.lpTrain, h]
  obtain ⟨stage, mem, state⟩ := State.startFail_spec ((s.set .LDG_STATUS_STATE 5 ld).log' (srcLedger ld 5) 0x3006 3
    [(1, ld), (1, 3 * ld + dev), (1, cause)]) (srcLedger ld 5) cause
  refine ⟨(state ld).trans ?_, stage, mem.trans (State.log'_mem ..)⟩
  exact (State.log'_get_other _ _ _ _ _ _ _ _ (by decide)).trans (State.get_set_self ..)

end

end

/-- Settles O18: requests, the scrub, calibration and training, each by its own lemmas. -/
theorem ledgerDiesServeTheirMemory : Obligations.LedgerDiesServeTheirMemory := by
  unfold Obligations.LedgerDiesServeTheirMemory
  refine ⟨fun s a da loc r bs hs hr hl => ⟨fun hb w err link => ?_, fun hb h44 hf => ⟨?_, exec_read_clean hr hl hb hs hf,
      fun err => exec_read_uncorrectable hr hl hb hs hf h44, exec_read_corrected hr hl hb hs hf⟩⟩,
    fun s a da w bs err link => exec_ledgerMemoryRequest_unmapped a w bs err link, fun s ld hok => ⟨onUnit_present hok, fun h err => ?_,
      fun hh h3 hc hb hf => ?_⟩, fun s ld mask hok => ⟨fun h => ?_, fun h3 h5 hc i hi hn => ?_⟩, fun s dev failed hok =>
      ⟨exec_calibrationComplete_idle hok, fun h => ⟨_, exec_calibrationComplete hok h, s.calEnded_spec dev failed⟩⟩, fun s ld ch hch =>
      ⟨State.calChannel_passes hch, State.calChannel_retries hch, State.calChannel_fences hch⟩, fun s ld types bad hok =>
      ⟨exec_lpddr6Training_late hok, fun hl h6 h0 => ⟨fun h => ?_, fun f h => ?_⟩⟩⟩
  · exact ⟨_, (exec_ledgerMemoryRequest _ _ _ _ _ _ hs).trans (congrArg _ (State.lpRequest_waits hr hl hb w err link)), rfl, rfl, rfl, rfl⟩
  · exact (exec_ledgerMemoryRequest _ _ _ _ _ _ hs).trans (congrArg _ (State.lpRequest_writes hr hl hb hf))
  · exact (exec_scrubRead hok err).trans (congrArg _ (State.scrub_rests h err))
  · exact ⟨_, (exec_scrubRead hok 0).trans (congrArg _ (State.scrub_clean hh h3 hc hb hf)), KMap.get_set_self .., rfl, rfl, rfl, rfl⟩
  · refine (exec_calibrationStart hok mask).trans (congrArg _ ?_)
    rcases h with h | h | h | h
    · exact State.calBegin_rests (.inl h)
    · exact State.calBegin_rests (.inr (.inl h))
    · exact State.calBegin_rests (.inr (.inr h))
    · exact State.calBegin_none h
  · exact ⟨_, exec_calibrationStart hok mask, State.calBegin_spec h3 h5 hc hi hn⟩
  · exact (exec_lpddr6Training hok hl h6 h0).trans (congrArg _ (State.lpTrain_trains h))
  · exact ⟨_, exec_lpddr6Training hok hl h6 h0, State.lpTrain_fails h⟩

end Sys2Proof.Machine

/-! The bushel manager: what each bushel operation does, what the look-aside buffers forget, and how the pool is taken at a commit (O34). -/
namespace Sys2Proof.Machine

/-! ### KVW_BOP_RES (R244, R248) -/

/-- KVW_BOP_RES of a cluster reads as a completed operation. -/
def State.BopRes (t : State) (clu st cow count b : Nat) : Prop :=
  t.get .KVW_BOP_RES_DONE clu = 1 ∧ t.get .KVW_BOP_RES_STATUS clu = st ∧ t.get .KVW_BOP_RES_COW clu = cow ∧
    t.get .KVW_BOP_RES_COUNT clu = count % 65536 ∧ t.get .KVW_BOP_RES_BUSHEL clu = b % 2 ^ 29

theorem State.bopDone_res (s : State) {clu st cow : Nat} (count b : Nat) (hst : st < 16) (hcow : cow < 2) :
    (s.bopDone clu st cow count b).BopRes clu st cow count b := by
  have status : st % 2 ^ Field.KVW_BOP_RES_STATUS.width = st := Nat.mod_eq_of_lt hst
  have cowBit : cow % 2 ^ Field.KVW_BOP_RES_COW.width = cow := Nat.mod_eq_of_lt hcow
  unfold State.bopDone
  refine ⟨?_, ?_, ?_, ?_, State.get_set_self ..⟩ <;>
    simp only [State.get_set, reduceCtorEq, false_and, true_and, if_false, if_true, status, cowBit]
  · rfl
  · rfl

/-- An operation ends without effect: its status, and no bushel. -/
def State.Refuses (s t : State) (clu st : Nat) : Prop := t.BopRes clu st 0 0 0 ∧ t.mem = s.mem ∧ t.kv = s.kv

theorem bopFail_refuses (s : State) (o : BOp) {st : Nat} (h : st < 16) : s.Refuses (bopFail s o st) o.clu st :=
  ⟨s.bopDone_res 0 0 h (by decide), rfl, rfl⟩

theorem b2n_lt_two (b : Bool) : b2n b < 2 := by cases b <;> decide

/-! ### Descriptors (R235) -/

theorem State.wrDa_kv (s : State) (a : Agent) (img : Image) (da : Nat) (bs : List Byte) : (s.wrDa a img da bs).kv = s.kv := by
  obtain ⟨m, p, eq⟩ := s.wrDa_eq a img da bs
  rw [eq]

theorem State.wrDa_walkers (s : State) (a : Agent) (img : Image) (da : Nat) (bs : List Byte) : (s.wrDa a img da bs).walkers = s.walkers := by
  obtain ⟨m, p, eq⟩ := s.wrDa_eq a img da bs
  rw [eq]
  rfl

theorem State.wrDa_get (s : State) (a : Agent) (img : Image) (da : Nat) (bs : List Byte) (f : Field) (u i : Nat) :
    (s.wrDa a img da bs).get f u i = s.get f u i := by
  obtain ⟨m, p, eq⟩ := s.wrDa_eq a img da bs
  rw [eq]
  rfl

@[simp] theorem State.setBushel_kv (s : State) (p : Pool) (n : Nat) (b : Bushel) : (s.setBushel p n b).kv = s.kv := State.wrDa_kv ..
theorem State.setBushel_walkers (s : State) (p : Pool) (n : Nat) (b : Bushel) : (s.setBushel p n b).walkers = s.walkers := State.wrDa_walkers ..
theorem State.setBushel_get (s : State) (p : Pool) (n : Nat) (b : Bushel) (f : Field) (u i : Nat) :
    (s.setBushel p n b).get f u i = s.get f u i := State.wrDa_get ..

/-! ### The operations at the manager (R244) -/

section
variable {s : State} {p : Pool} {o : BOp}

theorem State.doAlloc_empty (h : s.kv.freeHead = noBushel) : s.Refuses (s.doAlloc p o) o.clu 1 := by
  obtain ⟨res, mem, kv⟩ := bopFail_refuses s o (st := 1) (by decide)
  rw [State.doAlloc, if_pos h]
  refine ⟨?_, (State.log'_mem ..).trans mem, (State.log'_kv ..).trans kv⟩
  simpa only [State.BopRes, State.log'_get_other _ _ _ _ _ _ _ _ (show ¬((0xc004 : Nat) = 0x5010 ∨ (0xc004 : Nat) = 0x5002) by decide)] using res

theorem State.doAlloc_takes (h : s.kv.freeHead ≠ noBushel) (hp : s.bushelUe p [s.kv.freeHead] = none) : let t := s.doAlloc p o
    t.BopRes o.clu 0 0 0 s.kv.freeHead ∧ t.kv.freeHead = (s.bushel p s.kv.freeHead).next ∧ t.kv.freeCount = s.kv.freeCount - 1 ∧
      t.mem = (s.setBushel p s.kv.freeHead ⟨0, false, true, false, (s.bushel p s.kv.freeHead).epoch, noBushel⟩).mem := by
  simp only [State.doAlloc, if_neg h, hp]
  exact ⟨State.bopDone_res _ _ _ (by decide) (by decide), rfl, congrArg (·.freeCount - 1) (State.setBushel_kv ..), rfl⟩

theorem State.doSetlen_spec : let t := s.doSetlen p o
    t.BopRes o.clu 0 0 0 0 ∧ t.mem = (s.wrDa mgrAgent s.mgrBank (p.base + p.seqOff + 8 * o.seq) (leBytes 8 (o.arg % 2 ^ 34))).mem ∧
      t.kv = s.kv :=
  ⟨State.bopDone_res _ _ _ (by decide) (by decide), rfl, State.wrDa_kv ..⟩

theorem State.doPoolstat_spec : let t := s.doPoolstat o
    t.BopRes o.clu 0 0 0 s.kv.freeCount ∧ t.mem = s.mem ∧ t.kv = s.kv :=
  ⟨State.bopDone_res _ _ _ (by decide) (by decide), rfl, rfl⟩

section
variable (hu : s.bushelUe p [o.arg] = none)
include hu

theorem State.doReturn_notHeld (h : p.nb ≤ o.arg ∨ (s.bushel p o.arg).held = false) : s.Refuses (s.doReturn p o) o.clu 5 := by
  have eq : s.doReturn p o = bopFail s o 5 := by
    simp only [State.doReturn, hu, ite_self]
    exact if_pos (h.imp_right fun held => by rw [held]; rfl)
  exact eq ▸ bopFail_refuses s o (by decide)

theorem State.doReturn_frees (hn : o.arg < p.nb) (hh : (s.bushel p o.arg).held = true) : let t := s.doReturn p o
    t.BopRes o.clu 0 0 0 o.arg ∧ t.kv.freeHead = o.arg ∧ t.kv.freeCount = s.kv.freeCount + 1 ∧
      t.mem = (s.setBushel p o.arg { s.bushel p o.arg with held := false, freeq := false, next := s.kv.freeHead }).mem := by
  have eq : s.doReturn p o = (s.freeBushel p o.arg).bopDone o.clu 0 0 0 o.arg := by
    simp only [State.doReturn, hu, ite_self]
    exact if_neg (by simp [hn, hh])
  rw [eq]
  exact ⟨State.bopDone_res _ _ _ (by decide) (by decide), rfl, congrArg (·.freeCount + 1) (State.setBushel_kv ..), rfl⟩

theorem State.doMap_notHeld (h : p.nb ≤ o.arg ∨ (s.bushel p o.arg).held = false ∧ (s.bushel p o.arg).count = 0) :
    s.Refuses (s.doMap p o) o.clu 5 := by
  have eq : s.doMap p o = bopFail s o 5 := by
    simp only [State.doMap, hu, ite_self]
    exact if_pos (h.imp_right (And.imp_left fun held => by simp [held]))
  exact eq ▸ bopFail_refuses s o (by decide)

end

/-- The bushel that a leaf gives up when another is mapped there. -/
def leafOld (w n : Nat) : Option Nat := if bit w 63 = true ∧ bits w 27 0 ≠ n then some (bits w 27 0) else none

/-- A descriptor after one more leaf has come to its bushel. -/
def Bushel.mapped (b : Bushel) : Bushel := { b with count := b.count + 1, held := false, cow := b.cow || decide (0 < b.count) }

section
variable {da w : Nat} (hu : s.bushelUe p [o.arg] = none) (hw : s.walk mgrAgent s.mgrBank p o.seq o.vb = .leaf da w)
  (hn : o.arg < p.nb) (hh : (s.bushel p o.arg).held = true ∨ (s.bushel p o.arg).count ≠ 0) (hc : (s.bushel p o.arg).count ≠ 65535)
  (ho : s.bushelUe p ((leafOld w o.arg).toList ++ [s.kv.recTail]) = none)
include hu hw hn hh hc ho

/-- Its checks passed, a MAP writes the descriptor and the leaf, and waits for every walker. -/
theorem State.doMap_maps : let b := (s.bushel p o.arg).mapped
    s.doMap p o = ((s.setBushel p o.arg b).wrDa mgrAgent s.mgrBank da (leBytes 8 (2 ^ 63 + o.arg))).bopWait o (leafOld w o.arg)
      (b2n b.cow) b.count o.arg := by
  have held : ¬(p.nb ≤ o.arg ∨ (!(s.bushel p o.arg).held) = true ∧ (s.bushel p o.arg).count = 0) := by
    rcases hh with hh | hh <;> simp [hn, hh]
  unfold leafOld at ho
  simp only [State.doMap, hu, ite_self]
  rw [if_neg held]
  simp only [hw, ho, if_neg hc]
  rfl

theorem State.doMap_waits : let b := (s.bushel p o.arg).mapped
    let t := s.doMap p o
    (∀ f u i, t.get f u i = s.get f u i) ∧ t.kv.cur = some ⟨o, s.walkers, leafOld w o.arg, b2n b.cow, b.count, o.arg⟩ ∧
      t.mem = ((s.setBushel p o.arg b).wrDa mgrAgent s.mgrBank da (leBytes 8 (2 ^ 63 + o.arg))).mem := by
  intro b t
  rw [show t = _ from State.doMap_maps hu hw hn hh hc ho]
  refine ⟨fun f u i => (State.wrDa_get ..).trans (State.setBushel_get ..), ?_, rfl⟩
  have walkers := (State.wrDa_walkers (s.setBushel p o.arg b) mgrAgent s.mgrBank da (leBytes 8 (2 ^ 63 + o.arg))).trans (State.setBushel_walkers ..)
  exact congrArg (fun l => some (BopWait.mk o l (leafOld w o.arg) (b2n b.cow) b.count o.arg)) walkers

end

section
variable {da w : Nat} (hw : s.walk mgrAgent s.mgrBank p o.seq o.vb = .leaf da w)
include hw

theorem State.doUnmap_waits (hv : bit w 63 = true) (hu : s.bushelUe p [bits w 27 0, s.kv.recTail] = none) : let t := s.doUnmap p o
    (∀ f u i, t.get f u i = s.get f u i) ∧ t.kv.cur = some ⟨o, s.walkers, some (bits w 27 0), 0, 0, bits w 27 0⟩ ∧
      t.mem = (s.wrDa mgrAgent s.mgrBank da (leBytes 8 0)).mem := by
  have eq : s.doUnmap p o = (s.wrDa mgrAgent s.mgrBank da (leBytes 8 0)).bopWait o (some (bits w 27 0)) 0 0 (bits w 27 0) := by
    simp [State.doUnmap, hw, hv, hu]
  rw [eq]
  refine ⟨fun f u i => State.wrDa_get .., ?_, rfl⟩
  exact congrArg (fun l => some (BopWait.mk o l (some (bits w 27 0)) 0 0 (bits w 27 0))) (State.wrDa_walkers s mgrAgent s.mgrBank da (leBytes 8 0))

theorem State.doQuery_answers (hv : bit w 63 = true) (hu : s.bushelUe p [bits w 27 0] = none) : let t := s.doQuery p o
    let b := s.bushel p (bits w 27 0)
    t.BopRes o.clu 0 (b2n b.cow) b.count (bits w 27 0) ∧ t.mem = s.mem ∧ t.kv = s.kv := by
  have eq : s.doQuery p o = s.bopDone o.clu 0 (b2n (s.bushel p (bits w 27 0)).cow) (s.bushel p (bits w 27 0)).count (bits w 27 0) := by
    simp [State.doQuery, hw, hv, hu]
  rw [eq]
  exact ⟨State.bopDone_res _ _ _ (by decide) (b2n_lt_two _), rfl, rfl⟩

theorem State.leafInvalid_refuses (hv : bit w 63 = false) : s.Refuses (s.doQuery p o) o.clu 2 ∧ s.Refuses (s.doUnmap p o) o.clu 2 := by
  have query : s.doQuery p o = bopFail s o 2 := by simp [State.doQuery, hw, hv]
  have unmap : s.doUnmap p o = bopFail s o 2 := by simp [State.doUnmap, hw, hv]
  exact ⟨query ▸ bopFail_refuses s o (by decide), unmap ▸ bopFail_refuses s o (by decide)⟩

end

theorem State.nodeInvalid_refuses {lvl : Nat} (hw : s.walk mgrAgent s.mgrBank p o.seq o.vb = .bad lvl) :
    s.Refuses (s.doQuery p o) o.clu 3 ∧ s.Refuses (s.doUnmap p o) o.clu 3 := by
  have query : s.doQuery p o = bopFail s o 3 := by simp [State.doQuery, hw]
  have unmap : s.doUnmap p o = bopFail s o 3 := by simp [State.doUnmap, hw]
  exact ⟨query ▸ bopFail_refuses s o (by decide), unmap ▸ bopFail_refuses s o (by decide)⟩

end

/-! ### The rows of the operations (R244, R248) -/

/-- The rows of the bushel operations: the code that each writes to KVW_BOP.OP, and its work at the manager. -/
def bopRows (a : Agent) (clu seq vb : Nat) : List (Nat × Instr × (State → Pool → BOp → State)) :=
  [(1, .alloc a clu seq vb, State.doAlloc), (2, .map a clu seq vb, State.doMap), (3, .unmap a clu seq vb, State.doUnmap),
    (4, .query a clu seq vb, State.doQuery), (5, .setlen a clu seq vb, State.doSetlen), (6, .returnBushel a clu seq vb, State.doReturn),
    (7, .poolstat a clu seq vb, fun s _ o => s.doPoolstat o)]

/-- The operation that a write of KVW_BOP gives to the manager. -/
def State.bopOf (s : State) (clu op seq vb : Nat) : BOp := ⟨op, clu, seq, vb, s.get .KVW_BOP_ARG_VALUE clu⟩

section
variable {s : State} {a : Agent} {clu seq vb op : Nat} {c : Instr} {f : State → Pool → BOp → State}

theorem exec_bopRow (hc : (op, c, f) ∈ bopRows a clu seq vb) (s : State) : exec c s = s.bopOp a clu op seq vb := by
  simp only [bopRows, List.mem_cons, Prod.mk.injEq, List.not_mem_nil, or_false] at hc
  rcases hc with ⟨rfl, rfl, -⟩ | ⟨rfl, rfl, -⟩ | ⟨rfl, rfl, -⟩ | ⟨rfl, rfl, -⟩ | ⟨rfl, rfl, -⟩ | ⟨rfl, rfl, -⟩ | ⟨rfl, rfl, -⟩ <;> rfl

theorem State.bopRun_row {p : Pool} (hc : (op, c, f) ∈ bopRows a clu seq vb) (hv : s.kv.valid = true)
    (hp : s.pool mgrAgent s.mgrBank = some p) (k x y arg : Nat) : s.bopRun ⟨op, k, x, y, arg⟩ = f s p ⟨op, k, x, y, arg⟩ := by
  simp only [bopRows, List.mem_cons, Prod.mk.injEq, List.not_mem_nil, or_false] at hc
  rcases hc with ⟨rfl, -, rfl⟩ | ⟨rfl, -, rfl⟩ | ⟨rfl, -, rfl⟩ | ⟨rfl, -, rfl⟩ | ⟨rfl, -, rfl⟩ | ⟨rfl, -, rfl⟩ | ⟨rfl, -, rfl⟩ <;>
    simp only [State.bopRun, hv, if_true, hp]

theorem State.bopRun_noPool (hv : s.kv.valid = false) (o : BOp) : s.bopRun o = bopFail s o 7 := by
  simp only [State.bopRun, hv, Bool.false_eq_true, if_false]

theorem State.bopOp_busy (hok : s.cluOk clu = true) (hr : s.get .RST_STATUS_READY = 1) (hb : s.bopBusy clu = true) :
    s.bopOp a clu op seq vb = .next (s.setKvw clu { s.kvwSt clu with bopBusy := true }) :=
  (onUnit_present hok).trans (congrArg _ ((State.whenReady_on _ _ _ hr).trans (if_pos hb)))

/-- An operation with none before it runs at once. -/
theorem State.bopGo_alone (hops : s.kv.ops = []) (hcur : s.kv.cur = none) (ht : s.kv.taken = true)
    (hb : s.kv.valid = true → s.poolBusy s.mgrBank = false) (o : BOp) :
    ({ s with kv := { s.kv with ops := s.kv.ops ++ [o] } } : State).bopGo = s.bopRun o := by
  have goes : (s.kv.taken && !(s.kv.valid && s.poolBusy s.mgrBank)) = true := by
    cases hv : s.kv.valid with
    | false => simp [ht]
    | true => simp [ht, hb hv]
  have taken : ({ s with kv := { s.kv with cur := none, ops := [] } } : State) = s := by rw [← hops, ← hcur]
  rw [hops, List.nil_append]
  simp only [State.bopGo, List.length_singleton, State.bopNext, hcur]
  exact (if_pos goes).trans (congrArg (State.bopRun · o) taken)

theorem State.bopOp_runs (hok : s.cluOk clu = true) (hr : s.get .RST_STATUS_READY = 1) (hseq : seq < 2 ^ 20) (hvb : vb < 2 ^ 28)
    (hops : s.kv.ops = []) (hcur : s.kv.cur = none) (ht : s.kv.taken = true)
    (hb : s.kv.valid = true → let n := s.set .KVW_BOP_RES_DONE 0 clu; n.poolBusy n.mgrBank = false) :
    s.bopOp a clu op seq vb = .next ((s.set .KVW_BOP_RES_DONE 0 clu).bopRun (s.bopOf clu op seq vb)) := by
  have free : ¬ s.bopBusy clu = true := by simp [State.bopBusy, hops, hcur]
  have runs := State.bopGo_alone (s := s.set .KVW_BOP_RES_DONE 0 clu) hops hcur ht hb (s.bopOf clu op seq vb)
  refine (onUnit_present hok).trans (congrArg _ ((State.whenReady_on _ _ _ hr).trans ((if_neg free).trans ?_)))
  rw [Nat.mod_eq_of_lt hseq, Nat.mod_eq_of_lt hvb]
  exact runs

end

section
variable {s : State} {a : Agent} {clu seq vb : Nat} (hok : s.cluOk clu = true) (hr : s.get .RST_STATUS_READY = 1) (hseq : seq < 2 ^ 20)
  (hvb : vb < 2 ^ 28) (hops : s.kv.ops = []) (hcur : s.kv.cur = none) (ht : s.kv.taken = true)
include hok hr hseq hvb hops hcur ht

theorem exec_bopRow_noPool {op : Nat} {c : Instr} {f : State → Pool → BOp → State} (hc : (op, c, f) ∈ bopRows a clu seq vb)
    (hv : s.kv.valid = false) : exec c s = .next (bopFail (s.set .KVW_BOP_RES_DONE 0 clu) (s.bopOf clu op seq vb) 7) := by
  have noPool := State.bopRun_noPool (s := s.set .KVW_BOP_RES_DONE 0 clu) hv (s.bopOf clu op seq vb)
  have runs := State.bopOp_runs (a := a) (op := op) hok hr hseq hvb hops hcur ht fun h => by simp [hv] at h
  exact (exec_bopRow hc s).trans (runs.trans (congrArg _ noPool))

variable {p : Pool} (hv : s.kv.valid = true)
  (hb : let n := s.set .KVW_BOP_RES_DONE 0 clu; n.poolBusy n.mgrBank = false)
  (hp : let n := s.set .KVW_BOP_RES_DONE 0 clu; n.pool mgrAgent n.mgrBank = some p)
include hv hb hp

theorem exec_bopRow_works {op : Nat} {c : Instr} {f : State → Pool → BOp → State} (hc : (op, c, f) ∈ bopRows a clu seq vb) :
    exec c s = .next (f (s.set .KVW_BOP_RES_DONE 0 clu) p (s.bopOf clu op seq vb)) :=
  (exec_bopRow hc s).trans ((State.bopOp_runs hok hr hseq hvb hops hcur ht fun _ => hb).trans
    (congrArg _ (State.bopRun_row (s := s.set .KVW_BOP_RES_DONE 0 clu) hc hv hp ..)))

/-- Each operation does its work on the pool at once. -/
theorem exec_bop_works : let n := s.set .KVW_BOP_RES_DONE 0 clu
    exec (.alloc a clu seq vb) s = .next (n.doAlloc p (s.bopOf clu 1 seq vb)) ∧
    exec (.map a clu seq vb) s = .next (n.doMap p (s.bopOf clu 2 seq vb)) ∧
    exec (.unmap a clu seq vb) s = .next (n.doUnmap p (s.bopOf clu 3 seq vb)) ∧
    exec (.query a clu seq vb) s = .next (n.doQuery p (s.bopOf clu 4 seq vb)) ∧
    exec (.setlen a clu seq vb) s = .next (n.doSetlen p (s.bopOf clu 5 seq vb)) ∧
    exec (.returnBushel a clu seq vb) s = .next (n.doReturn p (s.bopOf clu 6 seq vb)) ∧
    exec (.poolstat a clu seq vb) s = .next (n.doPoolstat (s.bopOf clu 7 seq vb)) := by
  have works {op : Nat} {c : Instr} {f : State → Pool → BOp → State} (hc : (op, c, f) ∈ bopRows a clu seq vb) :=
    exec_bopRow_works hok hr hseq hvb hops hcur ht hv hb hp hc
  refine ⟨works (f := State.doAlloc) ?_, works (f := State.doMap) ?_, works (f := State.doUnmap) ?_, works (f := State.doQuery) ?_,
    works (f := State.doSetlen) ?_, works (f := State.doReturn) ?_, works (f := fun s _ o => s.doPoolstat o) ?_⟩ <;> simp [bopRows]

end

/-! ### Look-aside buffers (R237, R244) -/

/-- A walker without a translation: the buffer holds none, and a walk of it will not fill. -/
def KvwSt.forget (x : KvwSt) (seq vb : Nat) : KvwSt :=
  { x with
    lab := x.lab.filter fun e => !(e.1 == seq && e.2.1 == vb)
    walks := x.walks.map fun w => if w.1 = seq ∧ w.2.1 = vb then (seq, vb, false) else w }

theorem KvwSt.labGet_forget (x : KvwSt) (seq vb : Nat) : labGet (x.forget seq vb).lab seq vb = none := by
  rw [labGet, Option.map_eq_none_iff, List.find?_eq_none]
  intro e he
  obtain ⟨-, other⟩ := List.mem_filter.mp he
  simpa using fun hs : e.1 = seq => by simpa [hs] using other

theorem KvwSt.walks_forget {x : KvwSt} {seq vb : Nat} {w : Nat × Nat × Bool} (hw : w ∈ (x.forget seq vb).walks) (hs : w.1 = seq)
    (hv : w.2.1 = vb) : w.2.2 = false := by
  obtain ⟨e, -, rfl⟩ := List.mem_map.mp hw
  by_cases h : e.1 = seq ∧ e.2.1 = vb
  · rw [if_pos h]
  · rw [if_neg h] at hs hv
    exact absurd ⟨hs, hv⟩ h

/-- LAB_INVALIDATE at the walker. -/
def State.labGone (s : State) (clu seq vb : Nat) : State := s.setKvw clu ((s.kvwSt clu).forget seq vb)

theorem State.labGone_spec (s : State) (clu seq vb : Nat) : let t := s.labGone clu seq vb
    labGet (t.kvwSt clu).lab seq vb = none ∧ (∀ w ∈ (t.kvwSt clu).walks, w.1 = seq → w.2.1 = vb → w.2.2 = false) ∧
      t.flds = s.flds ∧ t.mem = s.mem ∧ t.kv = s.kv := by
  intro t
  rw [show t.kvwSt clu = _ from State.kvwSt_setKvw ..]
  exact ⟨KvwSt.labGet_forget .., fun w hw hs hv => KvwSt.walks_forget hw hs hv, rfl, rfl, rfl⟩

section
variable {s : State} {clu seq vb : Nat} (hok : s.cluOk clu = true)
include hok

theorem exec_labFlush : exec (.labFlush clu) s = .next (s.labFlush clu) := onUnit_present hok

theorem exec_labInvalidate_alone (hc : s.kv.cur = none) : exec (.labInvalidate clu seq vb) s = .next (s.labGone clu seq vb) := by
  refine (onUnit_present hok).trans (congrArg _ ?_)
  simp only [State.setKvw_kv, hc]
  rfl

theorem exec_labInvalidate_acks {w : BopWait} (hc : s.kv.cur = some w) (hs : w.op.seq = seq) (hv : w.op.vb = vb) :
    exec (.labInvalidate clu seq vb) s =
      .next (({ s.labGone clu seq vb with kv := { s.kv with cur := some { w with walkers := w.walkers.filter (· != clu) } } } : State).bopAcks) := by
  refine (onUnit_present hok).trans (congrArg _ ?_)
  simp only [State.setKvw_kv, hc]
  exact if_pos ⟨hs, hv⟩

end

theorem State.labFlush_spec (s : State) (clu : Nat) : let t := s.labFlush clu
    (t.kvwSt clu).lab = [] ∧ (∀ w ∈ (t.kvwSt clu).walks, w.2.2 = false) ∧ t.flds = s.flds ∧ t.mem = s.mem ∧ t.kv = s.kv := by
  intro t
  rw [show t.kvwSt clu = _ from State.kvwSt_setKvw ..]
  refine ⟨rfl, fun w hw => ?_, rfl, rfl, rfl⟩
  obtain ⟨e, -, rfl⟩ := List.mem_map.mp hw
  rfl

theorem State.bopGo_idle {s : State} (h : s.kv.ops = []) : s.bopGo = s := by rw [State.bopGo, h]; rfl

/-! ### The last acknowledgement (R244) -/

theorem State.ReadsAs.foldl {α : Type} {f : State → α → State} (hf : ∀ a x y, State.ReadsAs x y → State.ReadsAs (f x a) (f y a)) (l : List α)
    {s t : State} (h : s.ReadsAs t) : (l.foldl f s).ReadsAs (l.foldl f t) := by
  induction l generalizing s t with
  | nil => exact h
  | cons a l ih => exact ih (hf a s t h)

section
variable {s t : State} (h : s.ReadsAs t)
include h

theorem State.ReadsAs.wr (loc : Nat) (bs : List Byte) : (s.wr loc bs).ReadsAs (t.wr loc bs) := by
  obtain ⟨ident, dies, mem, poison, str, cores, get⟩ := h
  exact ⟨ident, dies, congrArg (Mem.writeN · loc bs) mem, by simp only [State.wr, State.unpoison, poison], str, cores, get⟩

theorem State.ReadsAs.wrDa (a : Agent) (img : Image) (da : Nat) (bs : List Byte) : (s.wrDa a img da bs).ReadsAs (t.wrDa a img da bs) := by
  simp only [State.wrDa, h.resolve]
  refine State.ReadsAs.foldl (fun b x y hxy => ?_) _ h
  split
  · exact hxy.wr ..
  · exact hxy

section
variable (ht : t.kv.taken = s.kv.taken)
include ht

theorem State.ReadsAs.mgrBank : t.mgrBank = s.mgrBank := by
  obtain ⟨-, -, -, -, str, -⟩ := h
  rw [State.mgrBank, State.bank, ht, str, State.mgrBank, State.bank]

theorem State.ReadsAs.pool (a : Agent) : t.pool a t.mgrBank = s.pool a s.mgrBank := by
  simp only [State.pool, h.mgrBank ht, h.rdDa]

theorem State.ReadsAs.bushel (p : Pool) (n : Nat) : t.bushel p n = s.bushel p n := by
  simp only [State.bushel, h.mgrBank ht, h.rdDa]

theorem State.ReadsAs.setBushel (p : Pool) (n : Nat) (b : Bushel) : (s.setBushel p n b).ReadsAs (t.setBushel p n b) := by
  rw [State.setBushel, State.setBushel, h.mgrBank ht]
  exact h.wrDa ..

end
end

/-- The manager without the operation that has had all its acknowledgements. -/
def State.bopAcked (s : State) : State := { s with kv := { s.kv with cur := none } }

section
variable {s : State} {w : BopWait}

theorem State.bopAcks_last (hc : s.kv.cur = some w) (hw : w.walkers = []) (hb : s.poolBusy s.mgrBank = false) :
    s.bopAcks = (s.bopFinish w).bopGo := by
  have rest : w.walkers.filter (fun clu => !s.lost clu && !s.rst.inReset.contains (clu / 16)) = w.walkers := by rw [hw]; rfl
  simp only [State.bopAcks, hc, rest]
  exact if_pos ⟨hw, by simp [hb]⟩

theorem State.bopFinish_alone (h : w.release = none) : s.bopFinish w = s.bopAcked.bopDone w.op.clu 0 w.cow w.count w.bushel := by
  simp only [State.bopFinish, h]
  rfl

theorem State.release_more {p : Pool} {n : Nat} (h : 1 < (s.bushel p n).count) :
    s.release p n = s.setBushel p n { s.bushel p n with count := (s.bushel p n).count - 1 } := by
  have more : (s.bushel p n).count - 1 ≠ 0 := by omega
  rw [State.release, if_pos more]

theorem State.bopFinish_unmap {m : Nat} {p : Pool} (h : w.release = some m) (hp : s.bopAcked.pool mgrAgent s.bopAcked.mgrBank = some p)
    (ho : w.op.op = 3) : let r := s.bopAcked.release p m
    s.bopFinish w = r.bopDone w.op.clu 0 (b2n (r.bushel p m).cow) (r.bushel p m).count m := by
  intro t
  unfold State.bopFinish
  extract_lets _ u
  have pool : u.pool mgrAgent u.mgrBank = some p := hp
  simp only [h, pool]
  exact if_pos ho

end

/-- The last walker that an operation waited for has dropped the translation. -/
def State.labAcked (s : State) (clu seq vb : Nat) (w : BopWait) : State :=
  { s.labGone clu seq vb with kv := { s.kv with cur := some { w with walkers := [] } } }

theorem State.labAcked_readsAs (s : State) (clu seq vb : Nat) (w : BopWait) : s.ReadsAs (s.labAcked clu seq vb w).bopAcked :=
  ⟨rfl, rfl, rfl, rfl, rfl, rfl, fun _ _ _ => rfl⟩

section
variable {s : State} {clu seq vb : Nat} {w : BopWait} (hok : s.cluOk clu = true) (hc : s.kv.cur = some w) (hs : w.op.seq = seq)
  (hv : w.op.vb = vb) (hw : ∀ k ∈ w.walkers, k = clu) (hops : s.kv.ops = []) (hb : s.poolBusy s.mgrBank = false)
include hok hc hs hv hw hops hb

theorem exec_labInvalidate_last {t : State} (ht : (s.labAcked clu seq vb w).bopFinish { w with walkers := [] } = t)
    (hk : t.kv.ops = s.kv.ops) : exec (.labInvalidate clu seq vb) s = .next t := by
  have acked : w.walkers.filter (· != clu) = [] := List.filter_eq_nil_iff.mpr fun k hk => by simp [hw k hk]
  refine (exec_labInvalidate_acks hok hc hs hv).trans (congrArg _ ?_)
  rw [acked]
  have last := State.bopAcks_last (s := s.labAcked clu seq vb w) (w := { w with walkers := [] }) rfl rfl hb
  rw [ht, State.bopGo_idle (hk.trans hops)] at last
  exact last

/-- The last acknowledgement of an operation that releases nothing. -/
theorem exec_labInvalidate_completes (hr : w.release = none) (hcow : w.cow < 2) : ∃ t, exec (.labInvalidate clu seq vb) s = .next t ∧
    t.BopRes w.op.clu 0 w.cow w.count w.bushel ∧ t.kv.cur = none ∧ t.mem = s.mem := by
  have finish := State.bopFinish_alone (s := s.labAcked clu seq vb w) (w := { w with walkers := [] }) hr
  exact ⟨_, exec_labInvalidate_last hok hc hs hv hw hops hb finish rfl, State.bopDone_res _ _ _ (by decide) hcow, rfl, rfl⟩

/-- The last acknowledgement of an UNMAP whose bushel keeps other leaves. -/
theorem exec_labInvalidate_releases {m : Nat} {p : Pool} (hr : w.release = some m) (hp : s.pool mgrAgent s.mgrBank = some p)
    (hm : 1 < (s.bushel p m).count) (ho : w.op.op = 3) : let r := s.setBushel p m { s.bushel p m with count := (s.bushel p m).count - 1 }
    ∃ t, exec (.labInvalidate clu seq vb) s = .next t ∧ t.BopRes w.op.clu 0 (b2n (r.bushel p m).cow) (r.bushel p m).count m ∧
      t.kv.cur = none ∧ t.mem = r.mem := by
  intro r
  let u := (s.labAcked clu seq vb w).bopAcked
  let b : Bushel := { s.bushel p m with count := (s.bushel p m).count - 1 }
  have reads : s.ReadsAs u := s.labAcked_readsAs clu seq vb w
  have desc : u.bushel p m = s.bushel p m := reads.bushel rfl p m
  have released : r.ReadsAs (u.setBushel p m b) := reads.setBushel rfl p m b
  have descAfter : (u.setBushel p m b).bushel p m = r.bushel p m := released.bushel (by rw [State.setBushel_kv, State.setBushel_kv]; rfl) p m
  have more : 1 < (u.bushel p m).count := by rw [desc]; exact hm
  have finish : (s.labAcked clu seq vb w).bopFinish { w with walkers := [] } =
      (u.setBushel p m b).bopDone w.op.clu 0 (b2n (r.bushel p m).cow) (r.bushel p m).count m := by
    refine (State.bopFinish_unmap (w := { w with walkers := [] }) hr ((reads.pool rfl mgrAgent).trans hp) ho).trans ?_
    rw [State.release_more more, desc, descAfter]
  obtain ⟨-, -, mem, -⟩ := released
  have kv : (u.setBushel p m b).kv = u.kv := State.setBushel_kv ..
  have ops : (u.setBushel p m b).kv.ops = u.kv.ops := congrArg KvSt.ops kv
  exact ⟨_, exec_labInvalidate_last hok hc hs hv hw hops hb finish ops, State.bopDone_res _ _ _ (by decide) (b2n_lt_two _),
    congrArg KvSt.cur kv, mem⟩

end

/-! ### KV_POOL_INIT (R233, R235) -/

theorem State.setPoolBits_same {β : Type} (g : State → β) (hg : ∀ (s : State) (f : Field) (v u i : Nat), g (s.set f v u i) = g s)
    (s : State) (v : Bool) : g (s.setPoolBits v) = g s := by
  unfold State.setPoolBits
  induction (List.range 128).filter s.cluOk generalizing s with
  | nil => rfl
  | cons clu l ih => exact (ih _).trans (hg ..)

theorem State.get_setAll (f : Field) (v : Nat) (l : List Nat) (s : State) (u : Nat) :
    (l.foldl (fun s u => s.set f v u) s).get f u = if u ∈ l then v % 2 ^ f.width else s.get f u := by
  induction l generalizing s with
  | nil => rfl
  | cons k l ih =>
    rw [List.foldl_cons, ih]
    by_cases hl : u ∈ l
    · simp [hl]
    · by_cases hk : u = k <;> simp [hl, hk]

theorem State.setPoolBits_get (s : State) (v : Bool) {clu : Nat} (h : clu < 128) (hok : s.cluOk clu = true) :
    (s.setPoolBits v).get .KVW_STATUS_POOL clu = b2n v := by
  have member : clu ∈ (List.range 128).filter s.cluOk := List.mem_filter.mpr ⟨List.mem_range.mpr h, hok⟩
  rw [State.setPoolBits, State.get_setAll, if_pos member]
  exact b2n_mod_two v

/-- What the manager has made of the pool: whether it is valid, and what every walker then reads. -/
theorem State.setValid_spec (s : State) (v : Bool) : let t := s.setValid v
    t.kv = { s.kv with valid := v, key := s.poolKey, resetSince := false, taken := true } ∧ t.mem = s.mem ∧
      ∀ clu < 128, s.cluOk clu = true → t.get .KVW_STATUS_POOL clu = b2n v :=
  ⟨State.setPoolBits_same State.kv (fun _ _ _ _ _ => rfl) .., State.setPoolBits_same State.mem (fun _ _ _ _ _ => rfl) ..,
    fun _ h hok => State.setPoolBits_get _ v h hok⟩

/-- The manager looks at the pool of the active image. -/
def State.poolLook (s : State) : State := { s with kv := { s.kv with taken := true } }

/-- The header at the start of a region of the active image, and the pool that it describes. -/
def State.regionHeader (s : State) (r : Region) : List Byte := s.rdDa mgrAgent (s.bank (unitLedger 0)) r.base 64
def State.regionPool (s : State) (r : Region) : Pool := poolOf r (s.regionHeader r)

theorem State.poolLook_mgrBank (s : State) : s.poolLook.mgrBank = s.bank (unitLedger 0) := rfl

theorem State.poolLook_readsAs (s : State) : s.ReadsAs s.poolLook := ⟨rfl, rfl, rfl, rfl, rfl, rfl, fun _ _ _ => rfl⟩

theorem State.poolLook_reads (s : State) (r : Region) : s.poolLook.rdDa mgrAgent s.poolLook.mgrBank r.base 64 = s.regionHeader r := by
  rw [s.poolLook_mgrBank, s.poolLook_readsAs.rdDa, State.regionHeader]

section
variable {s : State}

theorem State.poolTake_none (h : poolRegion (s.bank (unitLedger 0)) = none) : s.poolTake = s.poolLook.setValid false := by
  unfold State.poolTake
  extract_lets _ u
  have region : poolRegion u.mgrBank = none := h
  simp only [region]
  rfl

section
variable {r : Region} (h : poolRegion (s.bank (unitLedger 0)) = some r)
include h

theorem State.poolTake_bad {b : BadField} (hf : (s.regionPool r).fault (s.regionHeader r) = some b) :
    s.poolTake = (s.poolLook.setValid false).log' (srcLedger 0 0) 0xc005 2 [(2, b.1), (8, b.2)] := by
  unfold State.poolTake
  extract_lets _ u
  have region : poolRegion u.mgrBank = some r := h
  have header : u.rdDa mgrAgent u.mgrBank r.base 64 = s.regionHeader r := s.poolLook_reads r
  unfold State.regionPool at hf
  simp only [region, header, hf]
  rfl

theorem State.poolTake_init (hf : (s.regionPool r).fault (s.regionHeader r) = none) (hi : bit (s.regionPool r).flags 1 = true) :
    s.poolTake = (s.poolLook.poolInit (s.regionPool r)).setValid true := by
  unfold State.poolTake
  extract_lets _ u
  have region : poolRegion u.mgrBank = some r := h
  have header : u.rdDa mgrAgent u.mgrBank r.base 64 = s.regionHeader r := s.poolLook_reads r
  unfold State.regionPool at hf hi ⊢
  simp only [region, header, hf]
  exact if_pos hi

end

theorem State.poolInit_kv (s : State) (p : Pool) :
    (s.poolInit p).kv = { s.kv with freeHead := 0, freeCount := p.nb, recHead := noBushel, recTail := noBushel } := by
  simp only [State.poolInit, State.wrDa_kv]

theorem State.wrDa_cluOk (s : State) (a : Agent) (img : Image) (da : Nat) (bs : List Byte) : (s.wrDa a img da bs).cluOk = s.cluOk := by
  obtain ⟨m, p, eq⟩ := s.wrDa_eq a img da bs
  rw [eq]
  rfl

theorem State.poolInit_cluOk (s : State) (p : Pool) : (s.poolInit p).cluOk = s.cluOk :=
  (State.wrDa_cluOk ..).trans (State.wrDa_cluOk ..)

theorem State.poolInvalid_spec (s : State) : let t := s.poolLook.setValid false
    t.kv.valid = false ∧ t.kv.taken = true ∧ t.kv.ops = s.kv.ops ∧ t.mem = s.mem ∧
      ∀ clu < 128, s.cluOk clu = true → t.get .KVW_STATUS_POOL clu = 0 := by
  obtain ⟨kv, mem, bits⟩ := s.poolLook.setValid_spec false
  exact ⟨by rw [kv], by rw [kv], by rw [kv]; rfl, mem, bits⟩

theorem State.poolInit_spec (s : State) (p : Pool) : let t := (s.poolLook.poolInit p).setValid true
    (t.kv.valid = true ∧ t.kv.freeHead = 0 ∧ t.kv.freeCount = p.nb ∧ t.kv.recHead = noBushel ∧ t.mem = (s.poolLook.poolInit p).mem ∧
      ∀ clu < 128, s.cluOk clu = true → t.get .KVW_STATUS_POOL clu = 1) ∧ t.kv.ops = s.kv.ops := by
  obtain ⟨kv, mem, bits⟩ := (s.poolLook.poolInit p).setValid_spec true
  rw [State.poolInit_kv] at kv
  rw [State.poolInit_cluOk] at bits
  exact ⟨⟨by rw [kv], by rw [kv], by rw [kv], by rw [kv], mem, bits⟩, by rw [kv]; rfl⟩

theorem exec_kvPoolInit_waits (h : s.kv.cur.isSome = true ∨ s.poolBusy (s.bank (unitLedger 0)) = true) : exec .kvPoolInit s = .next s :=
  congrArg _ (if_pos h)

/-- With no operation under way and none that waits, the command takes the pool. -/
theorem exec_kvPoolInit_takes (hops : s.kv.ops = []) (hc : s.kv.cur = none) (hb : s.poolBusy (s.bank (unitLedger 0)) = false)
    {t : State} (ht : s.poolTake = t) (hk : t.kv.ops = s.kv.ops) : exec .kvPoolInit s = .next t := by
  have free : ¬(s.kv.cur.isSome = true ∨ s.poolBusy (s.bank (unitLedger 0)) = true) := by simp [hc, hb]
  have idle : t.bopGo = t := State.bopGo_idle (hk.trans hops)
  exact congrArg _ ((if_neg free).trans (by rw [ht, idle]))

end

/-- Settles O34: each operation by its own lemmas, once the row is known to do it at once; the buffers and the pool at a commit likewise. -/
theorem bushelOperationsChangeThePoolAsListed : Obligations.BushelOperationsChangeThePoolAsListed := by
  unfold Obligations.BushelOperationsChangeThePoolAsListed
  intro Res
  refine ⟨fun s a clu seq vb hok hr => ⟨fun hb c hc => ?_, fun hseq hvb hops hcur ht => ?_⟩, fun s clu seq vb hok => ?_, fun s => ?_⟩
  · obtain ⟨⟨op, c, f⟩, row, rfl⟩ := List.mem_map.mp (show c ∈ (bopRows a clu seq vb).map (·.2.1) from hc)
    exact (exec_bopRow row s).trans (State.bopOp_busy hok hr hb)
  · intro n arg
    refine ⟨fun hv c hc => ?_, fun hv hb p hp => ?_⟩
    · obtain ⟨⟨op, c, f⟩, row, rfl⟩ := List.mem_map.mp (show c ∈ (bopRows a clu seq vb).map (·.2.1) from hc)
      exact ⟨_, exec_bopRow_noPool hok hr hseq hvb hops hcur ht row hv, bopFail_refuses n _ (by decide)⟩
    obtain ⟨alloc, map, unmap, query, setlen, ret, stat⟩ := exec_bop_works (a := a) hok hr hseq hvb hops hcur ht hv hb hp
    refine ⟨fun h => ⟨_, alloc, State.doAlloc_empty h⟩, fun h hu => ⟨_, alloc, State.doAlloc_takes h hu⟩, ⟨_, stat, State.doPoolstat_spec⟩,
      ⟨_, setlen, State.doSetlen_spec⟩, fun hu => ⟨fun h => ⟨_, ret, State.doReturn_notHeld hu h⟩, fun hn hh =>
        ⟨_, ret, State.doReturn_frees hu hn hh⟩, fun h => ⟨_, map, State.doMap_notHeld hu h⟩⟩, fun da w hw =>
      ⟨fun hv hu => ⟨_, query, State.doQuery_answers hw hv hu⟩, fun hv c hc => ?_, fun hv hu => ?_, fun hn hu hh hc => ?_⟩,
      fun lvl hw c hc => ?_⟩
    · simp only [List.mem_cons, List.not_mem_nil, or_false] at hc
      rcases hc with rfl | rfl
      · exact ⟨_, query, (State.leafInvalid_refuses hw hv).1⟩
      · exact ⟨_, unmap, (State.leafInvalid_refuses hw hv).2⟩
    · obtain ⟨get, waits⟩ := State.doUnmap_waits (o := s.bopOf clu 3 seq vb) hw hv hu
      exact ⟨_, unmap, (get ..).trans (State.get_set_self ..), waits⟩
    · intro old ho
      obtain ⟨get, waits⟩ := State.doMap_waits (o := s.bopOf clu 2 seq vb) hu hw hn hh hc ho
      exact ⟨_, map, (get ..).trans (State.get_set_self ..), waits⟩
    · simp only [List.mem_cons, List.not_mem_nil, or_false] at hc
      rcases hc with rfl | rfl
      · exact ⟨_, query, (State.nodeInvalid_refuses hw).1⟩
      · exact ⟨_, unmap, (State.nodeInvalid_refuses hw).2⟩
  · refine ⟨⟨_, exec_labFlush hok, s.labFlush_spec clu⟩, fun hc => ⟨_, exec_labInvalidate_alone hok hc, s.labGone_spec clu seq vb⟩,
      fun w hc hs hv hw hcow hops hb => ⟨fun hr => exec_labInvalidate_completes hok hc hs hv hw hops hb hr hcow,
        fun m p hr hp hm ho => exec_labInvalidate_releases hok hc hs hv hw hops hb hr hp hm ho⟩⟩
  · refine ⟨exec_kvPoolInit_waits, fun hops hc hb => ?_⟩
    have takes {t : State} := exec_kvPoolInit_takes hops hc hb (t := t)
    refine ⟨fun h => ?_, fun r b h hf => ?_, fun r h hf hi => ?_⟩
    · obtain ⟨valid, taken, ops, mem, bits⟩ := s.poolInvalid_spec
      exact ⟨_, takes (State.poolTake_none h) ops, valid, taken, mem, bits⟩
    · obtain ⟨valid, -, ops, mem, bits⟩ := s.poolInvalid_spec
      have kv := State.log'_kv (s.poolLook.setValid false) (srcLedger 0 0) 0xc005 2 [(2, b.1), (8, b.2)]
      refine ⟨_, takes (State.poolTake_bad h hf) (kv ▸ ops), kv ▸ valid, (State.log'_mem ..).trans mem, fun clu hlt hok => ?_⟩
      exact (State.log'_get_other _ _ _ _ _ _ _ _ (by decide)).trans (bits clu hlt hok)
    · obtain ⟨spec, ops⟩ := s.poolInit_spec (s.regionPool r)
      exact ⟨_, takes (State.poolTake_init h hf hi) ops, spec⟩

end Sys2Proof.Machine

/-! The parameter update: descriptors, the check phase, the skip decision, the write phase and CLEAR (O36). -/
namespace Sys2Proof.Machine

/-! ### The engine's state (R290) -/

@[simp] theorem State.updOf_setUpd (s : State) (ld : Nat) (x : UpdSt) : (s.setUpd ld x).updOf ld = x := KMap.get_set_self ..
@[simp] theorem State.setUpd_mem (s : State) (ld : Nat) (x : UpdSt) : (s.setUpd ld x).mem = s.mem := rfl

theorem State.updOf_of_upd {s t : State} (h : t.upd = s.upd) (ld : Nat) : t.updOf ld = s.updOf ld := congrArg (KMap.get · ld UpdSt.init) h

/-- Beside UPD_STATUS, an engine's state written back leaves every register. -/
theorem State.setUpd_get (s : State) (ld : Nat) (x : UpdSt) {f : Field} (u i : Nat)
    (h : f ≠ .UPD_STATUS_HELD ∧ f ≠ .UPD_STATUS_STATE ∧ f ≠ .UPD_STATUS_ROUND_STEP) : (s.setUpd ld x).get f u i = s.get f u i := by
  obtain ⟨held, state, round⟩ := h
  rw [State.setUpd, State.get_set_ne _ _ _ _ _ _ _ _ (.inl round), State.get_set_ne _ _ _ _ _ _ _ _ (.inl state),
    State.get_set_ne _ _ _ _ _ _ _ _ (.inl held)]
  rfl

/-- A message inside the package leaves memory, the engines and the collector. -/
theorem State.pkgSend_same (s : State) (m : Msg) : (s.pkgSend m).mem = s.mem ∧ (s.pkgSend m).upd = s.upd ∧ (s.pkgSend m).skip = s.skip := by
  unfold State.pkgSend
  split <;> exact ⟨rfl, rfl, rfl⟩

theorem State.writeChunk_upd (s : State) (ld : Nat) (r : JRec) : (s.writeChunk ld r).1.upd = s.upd := by
  have wrDa_upd (t : State) (da : Nat) (bs : List Byte) : (t.wrDa (updAgent ld) r.img da bs).upd = t.upd := by
    obtain ⟨m, p, eq⟩ := t.wrDa_eq (updAgent ld) r.img da bs
    rw [eq]
  simp only [State.writeChunk, State.bumpSat_eq, State.set_upd]
  split <;> simp only [wrDa_upd]

/-! ### Registers that record what an engine has done -/

/-- UPD_LAST and UPD_SKIP_COUNT (R290). -/
def updRecords : List Field := [.UPD_LAST_STEP, .UPD_LAST_LAYER, .UPD_LAST_COMMITS, .UPD_SKIP_COUNT_COUNT]

theorem State.foldl_get {α : Type} {g : State → α → State} {f : Field} {u i : Nat} (h : ∀ t a, (g t a).get f u i = t.get f u i) (l : List α) (s : State) :
    (l.foldl g s).get f u i = s.get f u i := by
  induction l generalizing s with
  | nil => rfl
  | cons a l ih => exact (ih _).trans (h s a)

section
variable {f : Field} (hf : f ∈ updRecords)
include hf

theorem State.set_records (s : State) {g : Field} (v u' i' u i : Nat) (hg : g ∉ updRecords) : (s.set g v u' i').get f u i = s.get f u i :=
  State.get_set_ne _ _ _ _ _ _ _ _ (.inl fun e => hg (e ▸ hf))

theorem State.log'_records (s : State) (src code sev : Nat) (fs : List (Nat × Nat)) (u i : Nat) : (s.log' src code sev fs).get f u i = s.get f u i :=
  State.log'_get _ _ _ _ _ _ _ _ (fun e => absurd (e ▸ hf) (by decide)) (fun e => absurd (e ▸ hf) (by decide))

theorem State.setUpd_records (s : State) (ld : Nat) (x : UpdSt) (u i : Nat) : (s.setUpd ld x).get f u i = s.get f u i :=
  (State.set_records hf _ _ _ _ _ _ (by decide)).trans
    ((State.set_records hf _ _ _ _ _ _ (by decide)).trans (State.set_records hf _ _ _ _ _ _ (by decide)))

theorem State.syncMxe_records (s : State) (core u i : Nat) : (s.syncMxe core).get f u i = s.get f u i :=
  (State.set_records hf _ _ _ _ _ _ (by decide)).trans (State.set_records hf _ _ _ _ _ _ (by decide))

theorem State.syncKind_records (s : State) (core kind u i : Nat) : (s.syncKind core kind).get f u i = s.get f u i := by
  unfold State.syncKind
  split
  · exact State.set_records hf _ _ _ _ _ _ (by decide)
  · rfl

theorem State.q1Wake_records (s : State) (clu u i : Nat) : (s.q1Wake clu).get f u i = s.get f u i := by
  unfold State.q1Wake
  dsimp only
  split
  · split
    · exact State.set_records hf _ _ _ _ _ _ (by decide)
    · rfl
  · rfl

theorem State.issue_records (s : State) (core kind qid : Nat) (d : Desc) (u i : Nat) : (s.issue core kind qid d).get f u i = s.get f u i :=
  (State.syncKind_records hf _ core kind u i).trans ((State.syncMxe_records hf _ core u i).trans (State.q1Wake_records hf s (coreClu core) u i))

theorem State.unstall_records (s : State) (core u i : Nat) : (s.unstall core).get f u i = s.get f u i := by
  have setX (t : State) (rd : Nat) (v : Word) : (t.setX core rd v).get f u i = t.get f u i := by
    unfold State.setX
    split <;> rfl
  unfold State.unstall
  dsimp only
  split
  · rfl
  · split
    · split
      · exact (setX ..).trans (State.issue_records hf _ _ _ _ _ u i)
      · rfl
    · rfl

omit hf in
theorem State.drainAcc_get (s : State) (core u i : Nat) : (s.drainAcc core).get f u i = s.get f u i := by
  refine (State.foldl_get (fun t w => ?_) _ _).trans (State.setCore_get ..)
  unfold State.accDo
  split <;> rfl

theorem State.complete_records (s : State) (core kind : Nat) (d : Desc) (u i : Nat) : (s.complete core kind d).get f u i = s.get f u i :=
  (State.foldl_get (fun t c => State.unstall_records hf t c u i) _ _).trans
    ((State.drainAcc_get ..).trans ((State.syncKind_records hf _ _ _ u i).trans (State.syncMxe_records hf _ _ u i)))

/-! Steering at the end of a layer and of a round (R105, R106) writes its own registers alone. -/

omit hf in
theorem State.tallySend_get (s : State) (row u i : Nat) : (s.tallySend row).get f u i = s.get f u i := by
  refine (State.foldl_get (fun t k => ?_) _ _).trans (State.foldl_get (fun t d => ?_) _ _)
  · rfl
  · rfl

omit hf in
theorem State.tableRow_get (s : State) (r : Nat) (x : SteerRow) (u i : Nat) : (s.tableRow r x).get f u i = s.get f u i := by
  refine State.foldl_get (fun t ld => ?_) _ _
  rfl

theorem State.cacheRow_records (s : State) (r : Nat) (x : SteerRow) (u i : Nat) : (s.cacheRow r x).get f u i = s.get f u i := by
  refine State.foldl_get (fun t d => ?_) _ _
  dsimp only
  rw [State.setDie_get]
  iterate 5 rw [State.set_records hf _ _ _ _ _ _ (by decide)]

theorem State.satHigh_records (s : State) (ld step row layer role : Nat) (b b' : RoleBlk) (p : Profile) (u i : Nat) :
    (s.satHigh ld step row layer role b b' p).get f u i = s.get f u i :=
  (State.log'_records hf _ _ _ _ _ u i).trans (State.set_records hf _ _ _ _ _ _ (by decide))

theorem State.steerUpdate_records (s : State) (ld row step : Nat) (skipped : Bool) (u i : Nat) :
    (s.steerUpdate ld row step skipped).get f u i = s.get f u i := by
  have sent : (if KMap.has s.ownTot (2 * row) then s else s.tallySend row).get f u i = s.get f u i := by
    split
    · rfl
    · exact State.tallySend_get ..
  have told (c : Bool) (t : State) (layer role : Nat) (b b' : RoleBlk) (p : Profile) :
      (if c then t.satHigh ld step row layer role b b' p else t).get f u i = t.get f u i := by
    split
    · exact State.satHigh_records hf ..
    · rfl
  unfold State.steerUpdate
  dsimp only
  split
  · exact sent
  · split
    · exact (State.cacheRow_records hf _ _ _ u i).trans ((State.tableRow_get ..).trans ((told ..).trans ((told ..).trans sent)))
    · exact sent

theorem State.steerRest_records (s : State) (ld step : Nat) (skipped : Bool) (u i : Nat) :
    (s.steerRest ld step skipped).get f u i = s.get f u i := by
  unfold State.steerRest
  dsimp only
  split
  · rfl
  · exact State.foldl_get (fun t r => State.steerUpdate_records hf t ld r step skipped u i) _ _

theorem State.steerLayer_records (s : State) (ld : Nat) (sec : List Byte) (layer step : Nat) (skipped : Bool) (u i : Nat) :
    (s.steerLayer ld sec layer step skipped).get f u i = s.get f u i := by
  unfold State.steerLayer
  dsimp only
  split
  · rfl
  · split
    · exact State.steerUpdate_records hf ..
    · rfl

theorem State.roundEnd_records (s : State) (ld : Nat) (skipped : Bool) (u i : Nat) : (s.roundEnd ld skipped).get f u i = s.get f u i :=
  (State.setUpd_records hf _ _ _ u i).trans (State.steerRest_records hf s ld _ skipped u i)

theorem State.skipEv_records (s : State) (ld step u i : Nat) : (s.skipEv ld step).get f u i = s.get f u i := by
  unfold State.skipEv
  split
  · rfl
  · exact State.log'_records hf ..

end

/-! ### An update descriptor at its engine (R272) -/

section
variable {s : State} {core : Nat} {d : Desc} (takes : s.unitTakes core kUpd d = true)
include takes

theorem exec_updateDescriptor_otherRow (hc : descClass d ≠ 9) : exec (.updateDescriptor core d) s = .fault .otherRow :=
  (onUnit_present (State.unitTakes_coreOk takes)).trans (if_pos hc)

theorem exec_updateDescriptor (hc : descClass d = 9) : exec (.updateDescriptor core d) s = .next (s.updTake core d) := by
  refine (onUnit_present (State.unitTakes_coreOk takes)).trans ((if_neg (not_not.mpr hc)).trans (congrArg _ ?_))
  exact State.atUnit_takes _ takes

end

/-- The oldest descriptor of a core that its engine has not taken yet. -/
def State.updNext (s : State) (core : Nat) : Option Desc :=
  ((s.heldOf core kUpd).find? fun y => !(s.updOf (coreDie core)).has core y.d).map (·.d)

/-- A descriptor is the next that its engine takes, and the engine works and does not roll forward (R272, R286). -/
def State.UpdTurn (s : State) (core : Nat) (d : Desc) : Prop :=
  s.updNext core = some d ∧ s.updRuns (coreDie core) = true ∧ (s.updOf (coreDie core)).phase ≠ 4

/-- The bank that a descriptor runs under (R44). -/
def State.updBank (s : State) (core : Nat) (d : Desc) : Image := s.bankFor (unitLedger (coreDie core)) (s.heldFor core kUpd d).beat
/-- The update selection that a descriptor's step goes by (R289). -/
def State.updSel (s : State) (core : Nat) (d : Desc) : List Byte :=
  (((s.updOf (coreDie core)).order.find? fun o => o.1 == updStep d).map (·.2)).getD ((s.updBank core d).sec 7)

/-- The engine holds the entry of a descriptor for its step already. -/
def UpdSt.holdsEntry (x : UpdSt) (d : Desc) (i : Nat) : Bool :=
  (x.queue.any fun q => updStep q.d == updStep d && updLayer q.d == updLayer d) ||
    x.recs.any fun r => r.state != 3 && updStep r.item.d == updStep d && r.entry == i
/-- The entry of a descriptor is DONE for its step (R287). -/
def UpdSt.doneEntry (x : UpdSt) (d : Desc) (i : Nat) : Bool := x.recs.any fun r => r.state == 3 && r.entry == i && updStep r.item.d == updStep d

theorem UpdSt.comes_queue (x : UpdSt) (step : Nat) (sec : List Byte) : (x.comes step sec).queue = x.queue := by
  unfold UpdSt.comes
  split <;> rfl

theorem UpdSt.comes_recs (x : UpdSt) (step : Nat) (sec : List Byte) : (x.comes step sec).recs = x.recs := by
  unfold UpdSt.comes
  split <;> rfl

theorem UpdSt.comes_doneEntry (x : UpdSt) (step : Nat) (sec : List Byte) (d : Desc) (i : Nat) : (x.comes step sec).doneEntry d i = x.doneEntry d i :=
  congrArg (fun l : List JRec => l.any _) (UpdSt.comes_recs ..)

theorem UpdSt.comes_order (x : UpdSt) (step : Nat) (sec : List Byte) : ∃ o, o ∈ (x.comes step sec).order ∧ o.1 = step := by
  unfold UpdSt.comes
  split
  next h =>
    obtain ⟨o, ho, e⟩ := List.any_eq_true.mp h
    exact ⟨o, ho, beq_iff_eq.mp e⟩
  next => exact ⟨(step, sec), List.mem_append_right _ (List.mem_singleton_self _), rfl⟩

theorem State.UpdTurn.not_stays {s : State} {core : Nat} {d : Desc} (turn : s.UpdTurn core d) :
    ¬(s.updNext core ≠ some d ∨ (!s.updRuns (coreDie core)) = true ∨ (s.updOf (coreDie core)).phase = 4) := by
  obtain ⟨next, runs, phase⟩ := turn
  rintro (h | h | h)
  · exact h next
  · rw [runs] at h
    exact absurd h (by decide)
  · exact phase h

/-- What an engine whose turn it is makes of a descriptor that names entry i: a fault, a format fault, a repeat, a gradient that is not mapped, a
layer that is DONE, or an item of the queue (R77, R272, R287). -/
def State.updAdmit (h : State) (core : Nat) (d : Desc) (i : Nat) (e : UpdEnt) : State :=
  let ld := coreDie core
  let sec := h.updSel core d
  match updFault e d, updFmtFault e d with
  | some b, _ => h.updRefuse ld core d sec (some i) false b
  | none, some b => h.updRefuse ld core d sec (some i) true b
  | none, none =>
    if (h.updOf ld).holdsEntry d i then h.updRefuse ld core d sec none false (48, updLayer d)
    else
      match h.range (updAgent ld) (h.updBank core d) (updGrad d) (8 * e.cnt) with
      | .unmapped da => (h.unmappedEv (updAgent ld) da).updRefuse ld core d sec (some i) false (320, updGrad d)
      | _ =>
        let x := (h.updOf ld).comes (updStep d) sec
        if x.doneEntry d i then (h.setUpd ld x).complete core kUpd d
        else h.setUpd ld { x with queue := x.queue ++ [⟨core, (h.heldFor core kUpd d).beat, d⟩] }

section
variable {s h : State} {core : Nat} {d : Desc} (held : s.hold core kUpd d = h)
include held

theorem State.updTake_stays (w : h.updNext core ≠ some d ∨ h.updRuns (coreDie core) = false ∨ (h.updOf (coreDie core)).phase = 4) :
    s.updTake core d = h := by
  subst held
  exact if_pos (w.imp_right (Or.imp_left fun runs => congrArg Bool.not runs))

variable (turn : h.UpdTurn core d)
include turn

theorem State.updTake_unnamed (he : ((entsOf (h.updSel core d) (coreDie core)).find? fun p => p.2.layer == updLayer d) = none) :
    s.updTake core d = h.updRefuse (coreDie core) core d (h.updSel core d) none false (48, updLayer d) := by
  subst held
  refine (if_neg turn.not_stays).trans ?_
  rw [State.updSel, State.updBank] at he ⊢
  rw [he]

variable {i : Nat} {e : UpdEnt} (he : ((entsOf (h.updSel core d) (coreDie core)).find? fun p => p.2.layer == updLayer d) = some (i, e))
include he

theorem State.updTake_named : s.updTake core d = h.updAdmit core d i e := by
  subst held
  refine (if_neg turn.not_stays).trans ?_
  rw [State.updSel, State.updBank] at he
  rw [he]
  rfl

theorem State.updTake_fault {b : BadField} (hb : updFault e d = some b) :
    s.updTake core d = h.updRefuse (coreDie core) core d (h.updSel core d) (some i) false b := by
  rw [State.updTake_named held turn he, State.updAdmit, hb]

variable (sound : updFault e d = none)
include sound

theorem State.updTake_fmtFault {b : BadField} (hb : updFmtFault e d = some b) :
    s.updTake core d = h.updRefuse (coreDie core) core d (h.updSel core d) (some i) true b := by
  rw [State.updTake_named held turn he, State.updAdmit, sound, hb]

variable (fmt : updFmtFault e d = none)
include fmt

theorem State.updTake_repeats (hh : (h.updOf (coreDie core)).holdsEntry d i = true) :
    s.updTake core d = h.updRefuse (coreDie core) core d (h.updSel core d) none false (48, updLayer d) := by
  rw [State.updTake_named held turn he, State.updAdmit, sound, fmt]
  exact if_pos hh

variable (fresh : (h.updOf (coreDie core)).holdsEntry d i = false)
  (mapped : h.range (updAgent (coreDie core)) (h.updBank core d) (updGrad d) (8 * e.cnt) = .ok)
include fresh mapped

theorem State.updTake_done (hd : (h.updOf (coreDie core)).doneEntry d i = true) :
    s.updTake core d = (h.setUpd (coreDie core) ((h.updOf (coreDie core)).comes (updStep d) (h.updSel core d))).complete core kUpd d := by
  rw [State.updTake_named held turn he, State.updAdmit, sound, fmt, mapped]
  exact (if_neg (Bool.eq_false_iff.mp fresh)).trans (if_pos ((UpdSt.comes_doneEntry ..).trans hd))

theorem State.updTake_queues (hd : (h.updOf (coreDie core)).doneEntry d i = false) : let y := (h.updOf (coreDie core)).comes (updStep d) (h.updSel core d)
    s.updTake core d = h.setUpd (coreDie core) { y with queue := y.queue ++ [⟨core, (h.heldFor core kUpd d).beat, d⟩] } := by
  rw [State.updTake_named held turn he, State.updAdmit, sound, fmt, mapped]
  exact (if_neg (Bool.eq_false_iff.mp fresh)).trans (if_neg (Bool.eq_false_iff.mp ((UpdSt.comes_doneEntry ..).trans hd)))

end

/-! ### The check phase (R277, R281) -/

theorem UpdSt.open_under_way {x : UpdSt} (h : x.phase ≠ 0) : x.open_ = x := by
  unfold UpdSt.open_
  split
  next e _ => exact absurd e h
  next => rfl

/-- The flag of a ledger die goes to the collector: of the engine's state only the phase changes. -/
theorem State.sendFlag_spec (s : State) (ld : Nat) : (s.sendFlag ld).mem = s.mem ∧ ∃ p, (s.sendFlag ld).updOf ld = { s.updOf ld with phase := p } := by
  unfold State.sendFlag
  dsimp only
  split
  · obtain ⟨mem, upd, -⟩ := (s.setUpd ld { s.updOf ld with phase := 2 }).pkgSend_same (.ledgerFlag ld (s.updOf ld).step (s.updOf ld).flag)
    exact ⟨mem, 2, (State.updOf_of_upd upd ld).trans (State.updOf_setUpd ..)⟩
  · exact ⟨rfl, _, rfl⟩

/-- An engine after it has checked the record r of a layer and counted bad non-finite gradients. -/
def UpdSt.checked (x : UpdSt) (r : JRec) (bad layer : Nat) : UpdSt :=
  { x with queue := x.queue.filter (· != r.item), recs := x.recs ++ [r]
           flag := x.flag || bad != 0
           nonfin := min (x.nonfin + bad) (2 ^ 32 - 1)
           firstLayer := if bad ≠ 0 ∧ x.firstLayer.isNone then some layer else x.firstLayer }

section
variable {s : State} {ld : Nat} (hok : s.dieOk ld = true)
include hok

theorem exec_updateCheck_rests (h : s.updRuns ld = false) : exec (.updateCheck ld) s = .next s :=
  (onUnit_present hok).trans (congrArg _ (if_neg (Bool.eq_false_iff.mp h)))

theorem exec_updateCheck (h : s.updRuns ld = true) : exec (.updateCheck ld) s = .next (s.updCheck ld) :=
  (onUnit_present hok).trans (congrArg _ (if_pos h))

theorem exec_rule3PartialReceive (layer step leaf size wn dn : Nat) : exec (.rule3PartialReceive ld layer step leaf size wn dn) s =
    .next (if (s.updOf ld).parts.any fun p => p.layer == layer && p.step == step && decide (p.leaf < leaf + size ∧ leaf < p.leaf + p.size) then s
      else s.setUpd ld { s.updOf ld with parts := (s.updOf ld).parts ++ [⟨layer, step, leaf, size, wn % 2 ^ 52, dn % 2 ^ 52⟩] }) := onUnit_present hok

end

section
variable {s u : State} {ld i : Nat} {q : UpdItem} {e : UpdEnt} {img : Image} (shown : s.setUpd ld (s.updOf ld) = u)
  (bank : (u.bankFor (unitLedger ld) q.beat).withSec 7 (s.updOf ld).sec = img) (phase : (s.updOf ld).phase = 1)
  (first : ((s.updOf ld).queue.find? fun q => updStep q.d == (s.updOf ld).step) = some q)
  (names : ((entsOf (s.updOf ld).sec ld).find? fun p => p.2.layer == updLayer q.d) = some (i, e)) (rule : e.rule ≠ 3)
include shown bank phase first names rule

theorem State.updCheck_waits (wait : u.updWaits img [(updGrad q.d, 8 * e.cnt)] = true) : s.updCheck ld = u := by
  subst bank shown
  simp only [State.updCheck, UpdSt.open_under_way (phase.trans_ne one_ne_zero), State.updOf_setUpd, phase, first, names, if_neg rule]
  exact if_pos wait

theorem State.updCheck_counts (go : u.updWaits img [(updGrad q.d, 8 * e.cnt)] = false)
    (clean : u.poisonDa (updAgent ld) img (updGrad q.d) (8 * e.cnt) = none) : let r : JRec := ⟨1, false, i, 0, 0, 0, 0, q, img, 0, 0, []⟩
    let bad := ((u.updGrads ld r (hypOf e q.d).gs 0 e.cnt).filter fun g => !g.isFinite).length
    s.updCheck ld = (u.setUpd ld ((s.updOf ld).checked r bad e.layer)).sendFlag ld := by
  subst bank shown
  simp only [State.updCheck, UpdSt.open_under_way (phase.trans_ne one_ne_zero), State.updOf_setUpd, phase, first, names, if_neg rule, clean,
    Option.isSome_none, Bool.or_false, Bool.false_eq_true, if_false]
  refine (if_neg (Bool.eq_false_iff.mp go)).trans ((if_pos rule).trans ?_)
  rw [UpdSt.checked, phase]

theorem State.updCheck_spec (go : u.updWaits img [(updGrad q.d, 8 * e.cnt)] = false)
    (clean : u.poisonDa (updAgent ld) img (updGrad q.d) (8 * e.cnt) = none) : let r : JRec := ⟨1, false, i, 0, 0, 0, 0, q, img, 0, 0, []⟩
    let bad := ((u.updGrads ld r (hypOf e q.d).gs 0 e.cnt).filter fun g => !g.isFinite).length
    let t := s.updCheck ld
    t.mem = s.mem ∧ (t.updOf ld).recs = (s.updOf ld).recs ++ [r] ∧ q ∉ (t.updOf ld).queue ∧
      (t.updOf ld).flag = ((s.updOf ld).flag || bad != 0) ∧ (t.updOf ld).nonfin = min ((s.updOf ld).nonfin + bad) (2 ^ 32 - 1) := by
  intro r bad t
  rw [show t = _ from State.updCheck_counts shown bank phase first names rule go clean]
  obtain ⟨mem, p, eq⟩ := (u.setUpd ld ((s.updOf ld).checked r bad e.layer)).sendFlag_spec ld
  rw [eq, State.updOf_setUpd, mem]
  refine ⟨?_, rfl, fun kept => ?_, rfl, rfl⟩
  · subst shown
    rfl
  · exact Bool.false_ne_true ((bne_self_eq_false q).symm.trans (List.mem_filter.mp kept).2)

end

/-! ### The skip decision (R282, R283, R287) -/

/-- The flags of devices that a collector holds once that of a device for a step has come. -/
def SkipSt.withDev (k : SkipSt) (dev step : Nat) (flag : Bool) : SkipSt :=
  { k with devs := (dev, step, flag) :: k.devs.filter fun e => !(e.1 == dev && e.2.1 == step) && !(k.kept.any fun d => d.1 == e.2.1) }

/-- Where no step is decided yet, the other flags stay. -/
theorem SkipSt.withDev_undecided {k : SkipSt} (h : k.kept = none) (dev step : Nat) (flag : Bool) :
    k.withDev dev step flag = { k with devs := (dev, step, flag) :: k.devs.filter fun e => !(e.1 == dev && e.2.1 == step) } := by
  simp only [SkipSt.withDev, h, Option.any_none, Bool.not_false, Bool.and_true]

theorem State.devFlag_decided {s : State} {dev step : Nat} {flag kept : Bool} (h : s.skip.kept = some (step, kept)) : s.devFlag dev step flag = s := by
  refine if_pos ?_
  rw [h]
  exact beq_self_eq_true step

theorem State.devFlag_kept {s : State} {dev step : Nat} {flag : Bool} (h : ∀ k, s.skip.kept = some k → k.1 ≠ step) :
    s.devFlag dev step flag = ({ s with skip := s.skip.withDev dev step flag } : State).jobDecide step := by
  refine if_neg fun same => ?_
  cases hk : s.skip.kept with
  | none =>
    rw [hk] at same
    exact Bool.false_ne_true same
  | some k =>
    rw [hk] at same
    exact h k hk (beq_iff_eq.mp same)

/-- A member whose flag of the step has not come leaves the step open. -/
theorem State.jobDecide_waits {s : State} {step : Nat} (h : ∃ k ∈ s.skipMembers (s.secAt step), ∀ f ∈ s.skip.devs, f.2.1 = step → f.1 ≠ k) :
    s.jobDecide step = s := by
  obtain ⟨k, hk, waits⟩ := h
  refine if_neg fun all => ?_
  obtain ⟨f, hf, e⟩ := List.any_eq_true.mp (List.all_eq_true.mp all k hk)
  obtain ⟨mem, same⟩ := List.mem_filter.mp hf
  exact waits f mem (beq_iff_eq.mp same) (beq_iff_eq.mp e)

theorem State.jobDecide_decides {s : State} {step : Nat} (h : ∀ k ∈ s.skipMembers (s.secAt step), ∃ f ∈ s.skip.devs, f.2.1 = step ∧ f.1 = k) :
    (s.jobDecide step).skip.kept = some (step, s.skip.devs.any fun f => f.2.1 == step && f.2.2) ∧ (s.jobDecide step).mem = s.mem ∧
      (s.jobDecide step).upd = s.upd := by
  have all : ((s.skipMembers (s.secAt step)).all fun m => (s.skip.devs.filter fun d => d.2.1 == step).any fun f => f.1 == m) = true :=
    List.all_eq_true.mpr fun k hk => by
      obtain ⟨f, hf, same, e⟩ := h k hk
      exact List.any_eq_true.mpr ⟨f, List.mem_filter.mpr ⟨hf, beq_iff_eq.mpr same⟩, beq_iff_eq.mpr e⟩
  unfold State.jobDecide
  dsimp only
  rw [if_pos all, List.any_filter]
  obtain ⟨mem, upd, skip⟩ := State.pkgSend_same { s with skip := ⟨s.skip.flags.filter fun f => f.2.1 != step, s.skip.devs,
    some (step, s.skip.devs.any fun f => f.2.1 == step && f.2.2)⟩ } (.jobFlag step (s.skip.devs.any fun f => f.2.1 == step && f.2.2))
  exact ⟨congrArg SkipSt.kept skip, mem, upd⟩

section
variable {s m : State} {dev step lat : Nat} {flag : Bool} (arrived : s.tc0In dev 6 lat = m)
include arrived

theorem exec_deviceSkipFlagReceive_decided {kept : Bool} (h : m.skip.kept = some (step, kept)) :
    exec (.deviceSkipFlagReceive dev step flag lat) s = .next m := by
  subst arrived
  exact congrArg _ (State.devFlag_decided h)

theorem exec_deviceSkipFlagReceive_undecided (h : m.skip.kept = none) : exec (.deviceSkipFlagReceive dev step flag lat) s =
    .next (({ m with skip := { m.skip with devs := (dev, step, flag) :: m.skip.devs.filter fun e => !(e.1 == dev && e.2.1 == step) } } : State).jobDecide step) := by
  subst arrived
  rw [← SkipSt.withDev_undecided h]
  exact congrArg _ (State.devFlag_kept fun k hk => absurd (h.symm.trans hk) (by simp))

end

/-- The flags of ledger dies that a collector holds once that of a ledger die for a step has come. -/
def SkipSt.withFlag (k : SkipSt) (ld step : Nat) (flag : Bool) : SkipSt :=
  { k with flags := (ld, step, flag) :: k.flags.filter fun f => !(f.1 == ld && f.2.1 == step) }

section
variable {s : State} {ld step : Nat} (hok : s.dieOk ld = true)
include hok

theorem exec_skipFlagReceive_decided {kept : Bool} (flag : Bool) (h : s.skip.kept = some (step, kept)) :
    exec (.skipFlagReceive ld step flag) s = .next (s.pkgSend (.jobFlag step kept)) := by
  refine (onUnit_present hok).trans ?_
  rw [h]
  exact if_pos rfl

theorem exec_skipFlagReceive_open (flag : Bool) (h : ∀ k, s.skip.kept = some k → k.1 ≠ step) :
    exec (.skipFlagReceive ld step flag) s = .next (execSkipFlagReceive.skipIn ld step flag s) := by
  refine (onUnit_present hok).trans ?_
  cases hk : s.skip.kept with
  | none => rfl
  | some k => exact if_neg (h k hk)

end

section
variable {s u : State} {ld step : Nat} {flag : Bool} (held : ({ s with skip := s.skip.withFlag ld step flag } : State) = u)
include held

theorem State.skipIn_waits (h : ((u.diesOf (u.secAt step)).all fun l => u.skip.flags.any fun f => f.1 == l && f.2.1 == step) = false) :
    execSkipFlagReceive.skipIn ld step flag s = u := by
  subst held
  exact if_neg (Bool.eq_false_iff.mp h)

/-- A part that is the only member of its skip group decides once the flags of its ledger dies have come. -/
theorem State.skipIn_decides (all : ((u.diesOf (u.secAt step)).all fun l => u.skip.flags.any fun f => f.1 == l && f.2.1 == step) = true)
    (alone : u.skipMembers (u.secAt step) = [u.ownId]) (set : (u.skip.flags.any fun f => f.2.1 == step && f.2.2) = true)
    (h : ∀ k, s.skip.kept = some k → k.1 ≠ step) : let t := execSkipFlagReceive.skipIn ld step flag s
    t.skip.kept = some (step, true) ∧ t.mem = s.mem ∧ t.upd = s.upd := by
  have others : (u.skipMembers (u.secAt step)).filter (· != u.ownId) = [] := by
    rw [alone]
    exact List.filter_cons_of_neg (by simp)
  have sent : execSkipFlagReceive.skipIn ld step flag s = u.devFlag u.ownId step true := by
    subst held
    refine (if_pos all).trans (congr (congrArg (State.devFlag · _ step) ?_) set)
    exact congrArg (List.foldl _ _) others
  have decides : ∀ k ∈ u.skipMembers (u.secAt step), ∃ f ∈ (u.skip.withDev u.ownId step true).devs, f.2.1 = step ∧ f.1 = k := by
    rw [alone]
    exact fun k hk => ⟨_, List.mem_cons_self, rfl, (List.mem_singleton.mp hk).symm⟩
  have flagged : ((u.skip.withDev u.ownId step true).devs.any fun f => f.2.1 == step && f.2.2) = true :=
    List.any_eq_true.mpr ⟨_, List.mem_cons_self, by rw [beq_self_eq_true, Bool.and_self]⟩
  obtain ⟨kept, mem, upd⟩ := State.jobDecide_decides (s := { u with skip := u.skip.withDev u.ownId step true }) decides
  intro t
  rw [show t = _ from sent, State.devFlag_kept (by subst held; exact h)]
  subst held
  exact ⟨kept.trans (congrArg (fun b => some (step, b)) flagged), mem, upd⟩

end

/-! ### The job flag (R283, R287) -/

section
variable {s : State} {ld step : Nat} (hok : s.dieOk ld = true)
include hok

theorem exec_jobFlagReceive_other (flag : Bool) (h : (s.updOf ld).phase ≠ 2 ∨ (s.updOf ld).step ≠ step) :
    exec (.jobFlagReceive ld step flag) s = .next s := (onUnit_present hok).trans (if_pos h)

variable (phase : (s.updOf ld).phase = 2) (same : (s.updOf ld).step = step)
include phase same

theorem exec_jobFlagReceive_writes (h : (s.updOf ld).flag = false) :
    exec (.jobFlagReceive ld step false) s = .next (s.setUpd ld { s.updOf ld with phase := 3 }) :=
  (onUnit_present hok).trans ((if_neg (by simp [phase, same])).trans ((if_neg Bool.false_ne_true).trans (if_neg (Bool.eq_false_iff.mp h))))

theorem exec_jobFlagReceive_stops (h : (s.updOf ld).flag = true) : ∃ t : State, exec (.jobFlagReceive ld step false) s = .next t ∧
    (t.updOf ld).stop = true ∧ (t.updOf ld).phase = 2 ∧ t.mem = s.mem := by
  refine ⟨_, (onUnit_present hok).trans ((if_neg (by simp [phase, same])).trans ((if_neg Bool.false_ne_true).trans (if_pos h))), ?_⟩
  rw [State.updAbortEv, State.updOf_of_upd (State.log'_upd ..), State.updOf_setUpd]
  exact ⟨rfl, phase, State.log'_mem ..⟩

/-- A set flag counts the skip, tells the steering rows of the layers, completes the descriptors and ends the round. -/
theorem exec_jobFlagReceive_skips : ∃ y : State, exec (.jobFlagReceive ld step true) s = .next (y.roundEnd ld true) ∧
    y.get .UPD_SKIP_COUNT_COUNT ld = (s.get .UPD_SKIP_COUNT_COUNT ld + 1) % 2 ^ 32 := by
  refine ⟨_, (onUnit_present hok).trans ((if_neg (by simp [phase, same])).trans (if_pos rfl)), ?_⟩
  have mem : Field.UPD_SKIP_COUNT_COUNT ∈ updRecords := by decide
  refine (State.foldl_get (fun t r => ?_) _ _).trans ((State.foldl_get (fun t p => State.steerLayer_records mem ..) _ _).trans
    ((State.skipEv_records mem ..).trans (State.get_set_self ..)))
  split
  · rfl
  · exact State.complete_records mem ..

end

theorem State.roundEnd_updOf (s : State) (ld : Nat) (skipped : Bool) :
    ((s.roundEnd ld skipped).updOf ld).phase = 0 ∧ ((s.roundEnd ld skipped).updOf ld).recs = [] := by
  rw [State.roundEnd]
  dsimp only
  rw [State.updOf_setUpd]
  exact ⟨rfl, rfl⟩

/-! ### The write phase (R284, R289, R290) -/

@[simp] theorem State.putRec_mem (s : State) (ld : Nat) (r : JRec) : (s.putRec ld r).mem = s.mem := rfl

theorem State.mem_putRec {s : State} {ld : Nat} {r r' : JRec} (mem : r ∈ (s.updOf ld).recs) (entry : r.entry = r'.entry) (item : r.item = r'.item) :
    r' ∈ ((s.putRec ld r').updOf ld).recs := by
  rw [State.putRec, State.updOf_setUpd]
  exact List.mem_map.mpr ⟨r, mem, if_pos ⟨entry, item⟩⟩

section
variable {s : State} {ld n : Nat} (hok : s.dieOk ld = true)
include hok

theorem exec_updateLayerWrite_rests (h : s.updRuns ld = false ∨ (s.updOf ld).phase ≠ 3 ∧ (s.updOf ld).phase ≠ 4) :
    exec (.updateLayerWrite ld n) s = .next s.accResume := by
  refine (onUnit_present hok).trans (congrArg (fun t : State => (.next t.accResume : Res)) ?_)
  unfold State.updGo
  rcases h with runs | ⟨not3, not4⟩
  · exact if_pos (congrArg Bool.not runs)
  · split
    · rfl
    · exact if_pos not3

variable (runs : s.updRuns ld = true) (phase : (s.updOf ld).phase = 3)
include runs phase

theorem exec_updateLayerWrite : exec (.updateLayerWrite ld n) s = .next (s.updWrite ld n).accResume := by
  refine (onUnit_present hok).trans (congrArg (fun t : State => (.next t.accResume : Res)) ?_)
  refine (if_neg ?_).trans (if_neg ?_)
  · rw [runs]; exact Bool.false_ne_true
  · rw [phase]; decide

end

section
variable {s : State} {ld n : Nat} {r : JRec} (phase : (s.updOf ld).phase = 3) (writing : ((s.updOf ld).recs.find? fun r => r.state == 2) = some r)
include phase writing

/-- While the layer's record is not DONE, the write phase is what its chunks make of the state. -/
theorem State.updWrite_under_way {r' : JRec} (mem : r' ∈ ((s.writeChunks ld n r).updOf ld).recs) (state : r'.state = 2) :
    s.updWrite ld n = s.writeChunks ld n r := by
  have undone : (!(((s.writeChunks ld n r).updOf ld).recs.all fun q => q.state == 3)) = true := by
    rw [Bool.not_eq_true', List.all_eq_false]
    exact ⟨r', mem, by rw [state]; decide⟩
  refine (if_neg (not_not.mpr phase)).trans ?_
  simp only [writing]
  exact if_pos undone

/-- The end of a round leaves UPD_LAST as the layer's end left it. -/
theorem State.updWrite_records {f : Field} (hf : f ∈ updRecords) (u i : Nat) : (s.updWrite ld n).get f u i = (s.writeChunks ld n r).get f u i := by
  refine (congrArg (fun t : State => t.get f u i) (if_neg (not_not.mpr phase))).trans ?_
  simp only [writing]
  split
  · rfl
  · split
    · exact State.roundEnd_records hf ..
    · exact State.setUpd_records hf ..

end

section
variable {s : State} {ld : Nat} {r : JRec}

section
variable (more : r.chunk < r.ent.chunkCount) (go : s.updWaits r.img r.reads = false) (clean : s.updPoison ld r.img r.reads = none)
include more go clean

theorem State.writeChunks_copies (copied : r.copied = false) : s.writeChunks ld 1 r = (s.chunkCopy ld r).putRec ld { r with copied := true } := by
  rw [State.writeChunks, if_neg (Nat.not_le.mpr more), if_neg (Bool.eq_false_iff.mp go), clean]
  exact (if_neg (Bool.eq_false_iff.mp copied)).trans (if_neg (Nat.not_le.mpr more))

theorem State.writeChunks_writes (copied : r.copied = true) (next : r.chunk + 1 < r.ent.chunkCount) : s.writeChunks ld 1 r =
    (s.writeChunk ld r).1.putRec ld { r with chunk := r.chunk + 1, copied := false, nans := r.nans + (s.writeChunk ld r).2 } := by
  rw [State.writeChunks, if_neg (Nat.not_le.mpr more), if_neg (Bool.eq_false_iff.mp go), clean]
  exact (if_pos copied).trans (if_neg (Nat.not_le.mpr next))

end

theorem State.writeChunks_ends (n : Nat) (ended : r.ent.chunkCount ≤ r.chunk) (go : s.updWaits r.img [(r.ent.sDa, 16)] = false)
    (clean : s.updPoison ld r.img [(r.ent.sDa, 16)] = none) : s.writeChunks ld n r = s.layerDone ld r := by
  have done : s.layerEnd ld r = s.layerDone ld r := by
    refine (if_neg (Bool.eq_false_iff.mp go)).trans ?_
    rw [clean]
  cases n with
  | zero => rw [State.writeChunks, if_pos ended, done]
  | succ n => rw [State.writeChunks, if_pos ended, done]

/-- The old bytes of the chunk that a record writes next (R284). -/
def State.chunkOld (s : State) (ld : Nat) (r : JRec) : List Byte :=
  (r.ent.ranges (r.chunk * chunkEls) (min chunkEls (r.ent.cnt - r.chunk * chunkEls))).flatMap fun y => s.rdDa (updAgent ld) r.img y.2.1 y.2.2

/-- Without the escrow's home copy a chunk goes to the copy area alone. -/
theorem State.chunkCopy_alone (h : s.eff .ESC_CFG_ENABLE = 0) : s.chunkCopy ld r = s.setUpd ld { s.updOf ld with copy := s.chunkOld ld r } := by
  refine if_pos ?_
  rw [State.eff, State.setUpd_get _ _ _ _ _ (by decide)]
  exact h

/-- The state-record header that a layer's end writes (R279): the new products or the old ones, one more update, and the step. -/
def State.layerHdr (s : State) (ld : Nat) (r : JRec) : List Byte :=
  let hdr := s.rdDa (updAgent ld) r.img r.ent.sDa 16
  (if r.ent.twoMoments then leBytes 4 r.p1 ++ leBytes 4 r.p2 else hdr.take 8) ++ leBytes 4 (field hdr 8 4 + 1) ++ leBytes 4 (updStep r.item.d)

/-- A layer's header is written, its record is DONE, and requests to it wait no longer. -/
def State.layerClosed (s : State) (ld : Nat) (r : JRec) : State :=
  ((s.wrDa (updAgent ld) r.img r.ent.sDa (s.layerHdr ld r)).putRec ld { r with state := 3, copied := false }).unlock ld

/-- UPD_LAST after a layer. -/
def State.layerLast (s : State) (ld : Nat) (r : JRec) : State :=
  ((s.set .UPD_LAST_STEP (updStep r.item.d) ld).set .UPD_LAST_LAYER r.ent.layer ld).bump .UPD_LAST_COMMITS 1 ld

theorem State.layerDone_eq : s.layerDone ld r = (if r.nans = 0 then (s.layerClosed ld r).layerLast ld r
    else ((s.layerClosed ld r).layerLast ld r).log' (srcLedger ld 2) 0x4012 2 [(1, ld), (4, updStep r.item.d), (2, r.ent.layer), (4, r.nans)]).complete
      r.item.core kUpd r.item.d := rfl

section
variable {f : Field} (hf : f ∈ updRecords)
include hf

theorem State.layerClosed_records (u i : Nat) : (s.layerClosed ld r).get f u i = s.get f u i :=
  (State.setUpd_records hf ..).trans ((State.setUpd_records hf ..).trans (State.wrDa_get ..))

theorem State.layerDone_records (u i : Nat) : (s.layerDone ld r).get f u i = ((s.layerClosed ld r).layerLast ld r).get f u i := by
  rw [State.layerDone_eq, State.complete_records hf]
  split
  · rfl
  · exact State.log'_records hf ..

end

/-- The end of a layer writes UPD_LAST (R290). -/
theorem State.layerDone_last : (s.layerDone ld r).get .UPD_LAST_STEP ld = updStep r.item.d ∧
    (s.layerDone ld r).get .UPD_LAST_LAYER ld = r.ent.layer % 2 ^ 16 ∧
    (s.layerDone ld r).get .UPD_LAST_COMMITS ld = (s.get .UPD_LAST_COMMITS ld + 1) % 2 ^ 16 := by
  have width : updStep r.item.d % 2 ^ Field.UPD_LAST_STEP.width = updStep r.item.d := Nat.mod_eq_of_lt (bits_lt ..)
  have commits : (s.layerClosed ld r).get .UPD_LAST_COMMITS ld = s.get .UPD_LAST_COMMITS ld := State.layerClosed_records (by decide) ..
  refine ⟨(State.layerDone_records (by decide) ..).trans ?_, (State.layerDone_records (by decide) ..).trans ?_,
    (State.layerDone_records (by decide) ..).trans ?_⟩
  · simp [State.layerLast, width]
  · simp [State.layerLast]
    rfl
  · simp [State.layerLast, commits]
    rfl

end

section
variable {s : State} {ld : Nat} {r : JRec} (hok : s.dieOk ld = true) (runs : s.updRuns ld = true) (phase : (s.updOf ld).phase = 3)
  (writing : ((s.updOf ld).recs.find? fun r => r.state == 2) = some r)
include hok runs phase writing

theorem exec_updateLayerWrite_putRec {n : Nat} {y : State} {r' : JRec} (eq : s.writeChunks ld n r = y.putRec ld r') (upd : (y.updOf ld).recs = (s.updOf ld).recs)
    (state : r'.state = r.state) (entry : r.entry = r'.entry) (item : r.item = r'.item) :
    exec (.updateLayerWrite ld n) s = .next (y.putRec ld r').accResume ∧ r' ∈ ((y.putRec ld r').updOf ld).recs := by
  have committing : r.state = 2 := beq_iff_eq.mp (List.find?_some (p := fun r : JRec => r.state == 2) writing)
  have mem : r' ∈ ((y.putRec ld r').updOf ld).recs := State.mem_putRec (upd ▸ List.mem_of_find?_eq_some writing) entry item
  refine ⟨(exec_updateLayerWrite hok runs phase).trans ?_, mem⟩
  rw [State.updWrite_under_way phase writing (eq ▸ mem) (state.trans committing), eq]

section
variable (more : r.chunk < r.ent.chunkCount) (go : s.updWaits r.img r.reads = false) (clean : s.updPoison ld r.img r.reads = none)
include more go clean

theorem exec_updateLayerWrite_copies (copied : r.copied = false) (off : s.eff .ESC_CFG_ENABLE = 0) :
    ∃ t : State, exec (.updateLayerWrite ld 1) s = .next t.accResume ∧ t.mem = s.mem ∧ { r with copied := true } ∈ (t.updOf ld).recs ∧
      (t.updOf ld).copy = s.chunkOld ld r := by
  have eq := (State.writeChunks_copies more go clean copied).trans (congrArg (fun t : State => t.putRec ld _) (State.chunkCopy_alone off))
  obtain ⟨exec_eq, mem⟩ := exec_updateLayerWrite_putRec hok runs phase writing eq (by rw [State.updOf_setUpd]) rfl rfl rfl
  refine ⟨_, exec_eq, rfl, mem, ?_⟩
  rw [State.putRec, State.updOf_setUpd, State.updOf_setUpd]

theorem exec_updateLayerWrite_writes (copied : r.copied = true) (next : r.chunk + 1 < r.ent.chunkCount) :
    ∃ t : State, exec (.updateLayerWrite ld 1) s = .next t.accResume ∧ t.mem = (s.writeChunk ld r).1.mem ∧
      { r with chunk := r.chunk + 1, copied := false, nans := r.nans + (s.writeChunk ld r).2 } ∈ (t.updOf ld).recs := by
  obtain ⟨exec_eq, mem⟩ := exec_updateLayerWrite_putRec hok runs phase writing (State.writeChunks_writes more go clean copied next)
    (congrArg UpdSt.recs (State.updOf_of_upd (State.writeChunk_upd ..) ld)) rfl rfl rfl
  exact ⟨_, exec_eq, State.putRec_mem .., mem⟩

end

theorem exec_updateLayerWrite_ends (n : Nat) (ended : r.ent.chunkCount ≤ r.chunk) (go : s.updWaits r.img [(r.ent.sDa, 16)] = false)
    (clean : s.updPoison ld r.img [(r.ent.sDa, 16)] = none) : ∃ t : State, exec (.updateLayerWrite ld n) s = .next t.accResume ∧
      t.get .UPD_LAST_STEP ld = updStep r.item.d ∧ t.get .UPD_LAST_LAYER ld = r.ent.layer % 2 ^ 16 ∧
      t.get .UPD_LAST_COMMITS ld = (s.get .UPD_LAST_COMMITS ld + 1) % 2 ^ 16 := by
  obtain ⟨step, layer, commits⟩ := State.layerDone_last (s := s) (ld := ld) (r := r)
  have last {f : Field} (hf : f ∈ updRecords) : (s.updWrite ld n).get f ld = (s.layerDone ld r).get f ld := by
    rw [State.updWrite_records phase writing hf, State.writeChunks_ends n ended go clean]
  exact ⟨_, exec_updateLayerWrite hok runs phase, (last (by decide)).trans step, (last (by decide)).trans layer, (last (by decide)).trans commits⟩

end

/-! ### CLEAR (R289) -/

theorem exec_updClear {s : State} {ld : Nat} (hok : s.dieOk ld = true) : exec (.updClear ld) s = .next (s.updClear ld) := onUnit_present hok

theorem State.updClear_spec (s : State) (ld : Nat) : let y := (s.updClear ld).updOf ld
    y.queue = [] ∧ y.parts = [] ∧ y.bad = [] ∧ y.stop = false ∧
      y.recs = (s.updOf ld).recs.filter (fun r => r.state == 2 || r.state == 3) ∧ y.copy = (s.updOf ld).copy := by
  rw [State.updClear, State.updOf_setUpd]
  exact ⟨rfl, rfl, rfl, rfl, rfl, rfl⟩

/-- Settles O36: descriptors, checks, flags, chunks and CLEAR, each by the lemma of its case. -/
theorem updatesAreCheckedDecidedAndWritten : Obligations.UpdatesAreCheckedDecidedAndWritten := by
  unfold Obligations.UpdatesAreCheckedDecidedAndWritten
  refine ⟨fun s core d takes => ⟨exec_updateDescriptor_otherRow takes, fun hc => ?_⟩, fun s ld hok => ⟨exec_updateCheck_rests hok,
    fun runs q i e phase first names rule => ⟨fun wait => ?_, fun go clean => ?_⟩, fun layer step leaf size wn dn => ⟨fun dup => ?_, fun new => ?_⟩,
    fun step flag kept => exec_skipFlagReceive_decided hok flag, fun step flag h => ⟨fun missing => ?_, fun all alone set => ?_⟩,
    fun step flag => ⟨exec_jobFlagReceive_other hok flag, fun phase same => ⟨fun h => ?_, exec_jobFlagReceive_stops hok phase same, ?_⟩⟩,
    fun n => ⟨exec_updateLayerWrite_rests hok, fun runs phase r writing more go clean =>
      ⟨exec_updateLayerWrite_copies hok runs phase writing more go clean, exec_updateLayerWrite_writes hok runs phase writing more go clean⟩,
      fun runs phase r writing => exec_updateLayerWrite_ends hok runs phase writing n⟩, ⟨_, exec_updClear hok, State.updClear_spec s ld⟩⟩,
    fun s dev step flag lat => ⟨fun kept => exec_deviceSkipFlagReceive_decided rfl, fun h => ⟨fun missing => ?_, fun all => ?_⟩⟩⟩
  · have exec_take := exec_updateDescriptor takes hc
    refine ⟨fun w => exec_take.trans (congrArg _ (State.updTake_stays rfl w)), fun next runs phase => ?_⟩
    have turn : (s.hold core kUpd d).UpdTurn core d := ⟨next, runs, phase⟩
    refine ⟨fun he => exec_take.trans (congrArg _ (State.updTake_unnamed rfl turn he)), fun i e he =>
      ⟨fun b hb => exec_take.trans (congrArg _ (State.updTake_fault rfl turn he hb)), fun b sound hb =>
        exec_take.trans (congrArg _ (State.updTake_fmtFault rfl turn he sound hb)), fun sound fmt hh =>
        exec_take.trans (congrArg _ (State.updTake_repeats rfl turn he sound fmt hh)), fun sound fmt fresh mapped => ⟨fun hd =>
          exec_take.trans (congrArg _ (State.updTake_done rfl turn he sound fmt fresh mapped hd)), fun hd => ?_⟩⟩⟩
    refine ⟨_, exec_take.trans (congrArg _ (State.updTake_queues rfl turn he sound fmt fresh mapped hd)), rfl, ?_⟩
    rw [State.updOf_setUpd]
    exact ⟨congrArg (· ++ _) (UpdSt.comes_queue ..), UpdSt.comes_recs .., UpdSt.comes_order ..⟩
  · exact (exec_updateCheck hok runs).trans (congrArg _ (State.updCheck_waits rfl rfl phase first names rule wait))
  · exact ⟨_, exec_updateCheck hok runs, State.updCheck_spec rfl rfl phase first names rule go clean⟩
  · exact (exec_rule3PartialReceive hok ..).trans (congrArg _ (if_pos dup))
  · refine ⟨_, (exec_rule3PartialReceive hok ..).trans (congrArg _ (if_neg (Bool.eq_false_iff.mp new))), rfl, ?_⟩
    rw [State.updOf_setUpd]
    exact ⟨rfl, rfl⟩
  · exact (exec_skipFlagReceive_open hok flag h).trans (congrArg _ (State.skipIn_waits rfl missing))
  · exact ⟨_, exec_skipFlagReceive_open hok flag h, State.skipIn_decides rfl all alone set h⟩
  · refine ⟨_, exec_jobFlagReceive_writes hok phase same h, ?_⟩
    rw [State.updOf_setUpd]
    exact ⟨rfl, rfl, rfl⟩
  · obtain ⟨y, ends, count⟩ := exec_jobFlagReceive_skips hok phase same
    obtain ⟨none, gone⟩ := y.roundEnd_updOf ld true
    exact ⟨_, ends, none, gone, (State.roundEnd_records (by decide) ..).trans count⟩
  · exact (exec_deviceSkipFlagReceive_undecided rfl h).trans (congrArg _ (State.jobDecide_waits missing))
  · exact ⟨_, exec_deviceSkipFlagReceive_undecided rfl h, State.jobDecide_decides all⟩

end Sys2Proof.Machine

/-! The link word and the packet header read back: O38. -/
namespace Sys2Proof.Machine
open Sys2Proof

/-! ### The link word (R313) -/

theorem frameWord_fits (f : Frame) : frameWord f < 2 ^ 128 ∧ frameWord f % 2 ^ 44 = 0 := by
  have nak : b2n f.nak < 2 := by cases f.nak <;> decide
  unfold frameWord
  omega

/-- The word is the sum of its fields in their places, so each field is the quotient of the word by its place, cut to its width. -/
theorem frameOf_wireOf {f : Frame} (seq : f.seq < 2 ^ 20) (ack : f.ack < 2 ^ 20) (kind : f.kind < 4) (first : f.first < 32)
    (ctcA : f.ctcA < 4) (creditA : f.creditA < 2 ^ 14) (ctcB : f.ctcB < 4) (creditB : f.creditB < 2 ^ 14) (active : f.active < 16) :
    frameOf (wireOf f) = f := by
  obtain ⟨seq', ack', nak', kind', first', ctcA', creditA', ctcB', creditB', active', pieces, ctl⟩ := f
  have nak : b2n nak' < 2 := by cases nak' <;> decide
  have nakBit : ∀ w, w / 2 ^ 87 % 2 = b2n nak' → bit w 87 = nak' := by
    intro w hw
    rw [bit, Nat.testBit_eq_decide_div_mod_eq, hw]
    cases nak' <;> rfl
  simp only [frameOf, wireOf, Frame.mk.injEq, bits, Nat.shiftRight_eq_div_pow, and_true] at *
  refine ⟨?_, ?_, nakBit _ ?_, ?_, ?_, ?_, ?_, ?_, ?_, ?_⟩ <;> simp only [frameWord] <;> omega

theorem b2n_bit (w i : Nat) : b2n (bit w i) = bits w i i := by
  rw [bit, Nat.testBit_eq_decide_div_mod_eq, bits, Nat.shiftRight_eq_div_pow, Nat.add_sub_cancel_left, Nat.pow_one]
  rcases Nat.mod_two_eq_zero_or_one (w / 2 ^ i) with h | h <;> rw [h] <;> rfl

/-- A number cut above a bit field is the field in its place and the number cut below it. -/
theorem mod_above_bits (w : Nat) {hi lo : Nat} (h : lo ≤ hi + 1) : w % 2 ^ (hi + 1) = bits w hi lo * 2 ^ lo + w % 2 ^ lo := by
  rw [← Nat.add_sub_of_le h, Nat.pow_add, Nat.mod_mul, bits, Nat.shiftRight_eq_div_pow, Nat.add_comm, Nat.mul_comm]

theorem wireOf_frameOf {w : WireFrame} (whole : w.word < 2 ^ 128) (zero : w.word % 2 ^ 44 = 0) : wireOf (frameOf w) = w := by
  obtain ⟨word, pieces, ctl⟩ := w
  have cuts := And.intro (@mod_above_bits word 127 108 (by decide)) <| And.intro (@mod_above_bits word 107 88 (by decide)) <|
    And.intro (@mod_above_bits word 87 87 (by decide)) <| And.intro (@mod_above_bits word 86 85 (by decide)) <|
    And.intro (@mod_above_bits word 84 80 (by decide)) <| And.intro (@mod_above_bits word 79 78 (by decide)) <|
    And.intro (@mod_above_bits word 77 64 (by decide)) <| And.intro (@mod_above_bits word 63 62 (by decide)) <|
    And.intro (@mod_above_bits word 61 48 (by decide)) (@mod_above_bits word 47 44 (by decide))
  simp only [wireOf, frameWord, frameOf, b2n_bit, WireFrame.mk.injEq, and_true, Nat.reduceAdd] at *
  have fit := fun hi lo => Nat.mod_eq_of_lt (bits_lt word hi lo)
  have fits := And.intro (fit 127 108) <| And.intro (fit 107 88) <| And.intro (fit 86 85) <| And.intro (fit 84 80) <|
    And.intro (fit 79 78) <| And.intro (fit 77 64) <| And.intro (fit 63 62) <| And.intro (fit 61 48) (fit 47 44)
  omega

/-! ### The packet header (R319) -/

theorem leNat_leBytes (n v : Nat) : leNat (leBytes n v) = v % 256 ^ n := by
  induction n generalizing v with
  | zero => exact (Nat.mod_one v).symm
  | succ n ih =>
    have low : (BitVec.ofNat 8 v).toNat = v % 256 := BitVec.toNat_ofNat ..
    rw [leBytes, leNat, ih, low, Nat.pow_succ', Nat.mod_mul]

/-- The field that a string begins with. -/
theorem field_leBytes_append (n v : Nat) (r : List Byte) : field (leBytes n v ++ r) 0 n = v % 256 ^ n := by
  rw [field, slice, List.drop_zero, List.take_left' (length_leBytes n v), leNat_leBytes]

theorem field_leBytes (n v : Nat) : field (leBytes n v) 0 n = v % 256 ^ n := by
  have := field_leBytes_append n v []
  rwa [List.append_nil] at this

/-- A field behind the first bytes of a string. -/
theorem field_behind {k off : Nat} (h : k ≤ off) (v n : Nat) (r : List Byte) : field (leBytes k v ++ r) off n = field r (off - k) n := by
  have gone : (leBytes k v).length ≤ off := (length_leBytes k v).trans_le h
  rw [field, slice, List.drop_append, List.drop_of_length_le gone, List.nil_append, length_leBytes, field, slice]

@[simp] theorem length_pktHeader (p : Packet) : (pktHeader p).length = 32 := by simp [pktHeader]

theorem pktHeader_fields (p : Packet) : let h := pktHeader p
    field h 0 1 = p.op % 256 ∧ field h 1 1 = p.tc % 256 ∧ field h 2 2 = p.dst % 2 ^ 16 ∧ field h 4 2 = p.src % 2 ^ 16 ∧ field h 6 2 = pktLen p % 2 ^ 16 ∧
      field h 8 8 = p.da % 2 ^ 64 ∧ field h 0x10 4 = p.tag % 2 ^ 32 ∧ field h 0x14 4 = p.sseq % 2 ^ 32 ∧ field h 0x18 8 = p.operand % 2 ^ 64 := by
  intro h
  simp only [h, pktHeader, List.append_assoc, field_behind, field_leBytes_append, field_leBytes, Nat.reduceLeDiff, Nat.reduceSub, Nat.reducePow, and_self]

theorem packetOf_pktHeader {p : Packet} (noMsg : p.msg = none) (noColl : p.coll = none) (mid : p.mid = 0) (wall : p.wall = 0) (fits : pktFits p = true)
    (len : p.op ≠ 2 → p.len = 0) : packetOf (pktHeader p) p.payload = p := by
  obtain ⟨op, tc, dst, src, lenIs, da, tag, sseq, operand⟩ := pktHeader_fields p
  simp only [pktFits, Bool.and_eq_true, decide_eq_true_eq] at fits
  obtain ⟨⟨⟨⟨⟨⟨⟨⟨⟨opFits, tcFits⟩, dstFits⟩, srcFits⟩, lenFits⟩, daFits⟩, tagFits⟩, sseqFits⟩, operandFits⟩, -⟩ := fits
  have lenBack : (if p.op = 2 then pktLen p else 0) = p.len := by
    by_cases read : p.op = 2
    · rw [if_pos read, pktLen, if_pos read]
    · rw [if_neg read, len read]
  rw [Nat.mod_eq_of_lt (by omega)] at op tc dst src lenIs da tag sseq operand
  rw [packetOf, op, tc, dst, src, lenIs, da, tag, sseq, operand, lenBack]
  clear * - noMsg noColl mid wall
  cases p
  subst noMsg noColl mid wall
  rfl

/-- Settles O38: the link word, both ways, and the packet header, by the lemma of each. -/
theorem linkWordsAndHeadersReadBackWhatTheyStandFor : Obligations.LinkWordsAndHeadersReadBackWhatTheyStandFor := by
  unfold Obligations.LinkWordsAndHeadersReadBackWhatTheyStandFor
  refine ⟨fun f seq ack kind first ctcA creditA ctcB creditB active => ?_, fun w => wireOf_frameOf, fun p noMsg noColl mid wall fits _ len => ?_⟩
  · exact ⟨(frameWord_fits f).1, (frameWord_fits f).2, frameOf_wireOf seq ack kind first ctcA creditA ctcB creditB active⟩
  · exact ⟨length_pktHeader p, packetOf_pktHeader noMsg noColl mid wall fits len, fun message => if_neg message⟩

end Sys2Proof.Machine

/-! The reset state (O2) and the global interrupts (O23). -/
namespace Sys2Proof.Machine
open Sys2Proof

/-- Settles O2: at reset no register field, no byte and no poisoned block is listed, and nothing waits. -/
theorem resetIsSound : Obligations.ResetIsSound :=
  ⟨⟨rfl, .nil, fun _ listed => nomatch listed⟩, rfl⟩

/-! ### A source rises (R496, R497) -/

theorem exec_irqSourceRaise (s : State) {n : Nat} (hn : n < 12) (b : Bool) : exec (.irqSourceRaise n b) s = .next (s.irq n b) :=
  congrArg Host.Outcome.next (if_pos hn)

theorem State.irq_status (s : State) (n : Nat) (b : Bool) :
    (s.irq n b).get .GLB_IRQ_STATUS_SRC = putBit (s.get .GLB_IRQ_STATUS_SRC) n true % 2 ^ 12 := by
  have raised : (s.setBit .GLB_IRQ_STATUS_SRC n true).get .GLB_IRQ_STATUS_SRC = putBit (s.get .GLB_IRQ_STATUS_SRC) n true % 2 ^ 12 :=
    State.get_set_self ..
  rw [← raised]
  unfold State.irq
  simp only []
  split <;> split <;> simp only [State.emit_get, State.sendMsix_get _ _ _ .GLB_IRQ_STATUS_SRC _ _ (by decide)]

theorem State.irq_status_bit (s : State) (n : Nat) (b : Bool) {k : Nat} (hk : k < 12) :
    bit ((s.irq n b).get .GLB_IRQ_STATUS_SRC) k = (decide (k = n) || bit (s.get .GLB_IRQ_STATUS_SRC) k) := by
  rw [State.irq_status, bit_mod _ _ _ hk, bit_putBit]
  by_cases same : k = n <;> simp [same]

/-- The messages of a rise: one to the host where the source may send it, one to the steward where its bit is set. -/
theorem State.irq_rise {s : State} {n : Nat} (b : Bool) (fresh : bit (s.get .GLB_IRQ_STATUS_SRC) n = false) : s.irq n b =
    (let x := s.setBit .GLB_IRQ_STATUS_SRC n true
     let y := if b = true ∨ irqUnmaskable n = true ∨ bit (s.get .GLB_IRQ_EN_HOST) n = true then x.sendMsix (s.irqVec n) (b || irqUnmaskable n) else x
     if bit (s.get .GLB_IRQ_STW_STW) n = true then y.emit (.stwIrq n) else y) := by
  simp only [State.irq, fresh, Bool.not_false, Bool.true_and, Bool.or_eq_true]

/-- A source that recurs sends nothing, and a log entry of severity 3 one message. -/
theorem State.irq_again {s : State} {n : Nat} (b : Bool) (set : bit (s.get .GLB_IRQ_STATUS_SRC) n = true) : s.irq n b =
    if b = true then (s.setBit .GLB_IRQ_STATUS_SRC n true).sendMsix (s.irqVec n) true else s.setBit .GLB_IRQ_STATUS_SRC n true := by
  cases b <;> simp [State.irq, set]

/-! ### The enables and the clear (R497, R499) -/

theorem bitList_two_pow {n : Nat} (hn : n < 12) : bitList (2 ^ n) 12 = [n] := by
  revert n
  decide

theorem two_pow_mod {n : Nat} (hn : n < 12) : 2 ^ n % 4096 = 2 ^ n := Nat.mod_eq_of_lt (Nat.pow_lt_pow_right (by decide) hn : 2 ^ n < 2 ^ 12)

theorem exec_irqEnableWrite_host (s : State) (a : Agent) {n : Nat} (hn : n < 12) : exec (.irqEnableWrite a false (2 ^ n)) s =
    .next (let x := s.set .GLB_IRQ_EN_HOST (2 ^ n)
      if bit (s.get .GLB_IRQ_EN_HOST) n = false ∧ bit (s.get .GLB_IRQ_STATUS_SRC) n = true ∧ irqUnmaskable n = false then x.sendMsix (x.irqVec n) false
      else x) := by
  refine congrArg Host.Outcome.next (?_ : s.irqEnable (2 ^ n) = _)
  simp only [State.irqEnable, bitList_two_pow hn, two_pow_mod hn, List.foldl]
  simp [and_assoc]

theorem exec_irqEnableWrite_stw (s : State) (a : Agent) {n : Nat} (hn : n < 12) : exec (.irqEnableWrite a true (2 ^ n)) s =
    .next (let y := s.set .GLB_IRQ_STW_STW (2 ^ n)
      if bit (s.get .GLB_IRQ_STW_STW) n = false ∧ bit (s.get .GLB_IRQ_STATUS_SRC) n = true then y.emit (.stwIrq n) else y) := by
  refine congrArg Host.Outcome.next (?_ : s.stwEnable (2 ^ n) = _)
  simp only [State.stwEnable, bitList_two_pow hn, two_pow_mod hn, List.foldl]
  simp

/-- The state after a W1C write of source n alone (R497). -/
def State.irqCleared (s : State) (n : Nat) : State := s.set .GLB_IRQ_STATUS_SRC (s.get .GLB_IRQ_STATUS_SRC &&& (0xfff ^^^ 2 ^ n))

theorem State.irqCleared_bit {s : State} {n : Nat} (fits : s.get .GLB_IRQ_STATUS_SRC < 2 ^ 12) (k : Nat) :
    bit ((s.irqCleared n).get .GLB_IRQ_STATUS_SRC) k = (decide (k ≠ n) && bit (s.get .GLB_IRQ_STATUS_SRC) k) := by
  have cut : s.get .GLB_IRQ_STATUS_SRC &&& (0xfff ^^^ 2 ^ n) < 2 ^ 12 := Nat.lt_of_le_of_lt Nat.and_le_left fits
  have word : (s.irqCleared n).get .GLB_IRQ_STATUS_SRC = s.get .GLB_IRQ_STATUS_SRC &&& (0xfff ^^^ 2 ^ n) :=
    (State.get_set_self ..).trans (Nat.mod_eq_of_lt cut)
  have ones : Nat.testBit 0xfff k = decide (k < 12) := Nat.testBit_two_pow_sub_one 12 k
  rw [word, bit, Nat.testBit_and, Nat.testBit_xor, ones, Nat.testBit_two_pow, bit]
  by_cases low : k < 12
  · rw [decide_eq_true low, Bool.true_xor, Bool.and_comm, ← decide_not]
    exact congrArg (· && _) (decide_eq_decide.mpr ⟨Ne.symm, Ne.symm⟩)
  · rw [Nat.testBit_lt_two_pow (fits.trans_le (Nat.pow_le_pow_right (by decide) (by omega)))]
    simp

theorem exec_irqStatusClear (s : State) (a : Agent) {n : Nat} (hn : n < 12) (again : Nat) : exec (.irqStatusClear a (2 ^ n) again) s =
    .next ((bitList again 12).foldl (fun s n => s.irq n) (s.irqCleared n)) := by
  refine congrArg Host.Outcome.next (?_ : s.irqClear (2 ^ n) again = _)
  rw [State.irqClear, two_pow_mod hn]
  rfl

/-- Settles O23: a rise, an enable write and a clear of each source, by the lemma of each. -/
theorem interruptsSendOnceAtARise : Obligations.InterruptsSendOnceAtARise := by
  unfold Obligations.InterruptsSendOnceAtARise
  refine fun s n hn => ⟨fun b => ⟨_, exec_irqSourceRaise s hn b, fun k => ?_, State.irq_mem .., State.irq_cores .., State.irq_log ..,
    fun f u i status lost => State.irq_get _ _ _ _ _ _ lost status, State.irq_rise b, fun set => ?_⟩, fun a => ?_, fun a fits => ?_⟩
  · exact (Nat.lt_or_ge k 12).imp_left (State.irq_status_bit s n b)
  · rw [State.irq_again b set]
    exact ⟨fun quiet => by simp [quiet], fun severe => if_pos severe⟩
  · rw [exec_irqEnableWrite_host s a hn, exec_irqEnableWrite_stw s a hn]
    refine ⟨fun set off maskable => ?_, fun no => ?_, fun set off => ?_, fun no => ?_⟩ <;> refine congrArg Host.Outcome.next ?_
    · exact if_pos ⟨off, set, maskable⟩
    · exact if_neg (by grind)
    · exact if_pos ⟨off, set⟩
    · exact if_neg (by grind)
  · rw [exec_irqStatusClear s a hn, exec_irqStatusClear s a hn, bitList_two_pow hn]
    exact ⟨⟨_, rfl, rfl, rfl, rfl, State.irqCleared_bit fits⟩, (exec_irqSourceRaise _ hn false).symm, (State.irqCleared_bit fits n).trans (by simp)⟩

end Sys2Proof.Machine

/-! Queues: descriptors, doorbells and the operations of the QUE block (O14, O15, O21). -/
namespace Sys2Proof.Machine
open Sys2Proof

/-! ### A queue's descriptor in its table (R294, R524) -/

theorem State.qFind_desc {s : State} {q loc : Nat} (at_ : s.qLoc q = some loc) (clean : s.poisoned loc 64 = false) :
    s.qFind q = .desc (leNat (s.rd loc 64)) := by
  rw [State.qFind, at_]
  exact if_neg (Bool.eq_false_iff.mp clean)

theorem State.qPut_at {s : State} {q loc : Nat} (v : QD) (at_ : s.qLoc q = some loc) : s.qPut q v = s.wr loc (leBytes 64 v) := by
  rw [State.qPut, at_]

theorem State.poisoned_wr {s : State} {loc n : Nat} (bs : List Byte) (at_ : Nat) (clean : s.poisoned loc n = false) :
    (s.wr at_ bs).poisoned loc n = false := by
  simp only [State.poisoned, Bool.or_eq_false_iff, List.any_eq_false] at clean ⊢
  exact ⟨⟨fun b hb => clean.1.1 b (List.mem_of_mem_filter hb), clean.1.2⟩, clean.2⟩

/-- A byte of LPDDR6 is stored as it is written: containers lie in accumulator memory. -/
theorem storedByte_lp {loc : Nat} (h : loc < 2 ^ 44) (b : Byte) : storedByte loc b = b :=
  if_neg (by simp only [isAcc, decide_eq_true_eq]; omega)

theorem Mem.readN_writeN_lp {m : List Host.Cell} (wf : Mem.wf m = true) {loc : Nat} {bs : List Byte} (h : loc + bs.length ≤ 2 ^ 44) :
    Mem.readN (Mem.writeN m loc bs) loc bs.length = bs := by
  refine List.ext_getElem (by simp [Mem.readN]) fun k hk hb => ?_
  simp only [Mem.readN, List.getElem_map, List.getElem_range]
  rw [Mem.read_writeN _ _ wf _ _ hb, storedByte_lp (by omega)]

/-- What is written back is read back, and every other byte keeps its value. -/
theorem State.qFind_qPut {s : State} {q loc : Nat} (v : QD) (wf : Mem.wf s.mem = true) (at_ : s.qLoc q = some loc) (fits : loc + 64 ≤ 2 ^ 44)
    (clean : s.poisoned loc 64 = false) : (s.qPut q v).qFind q = .desc (v % 2 ^ 512) ∧ (s.qPut q v).flds = s.flds ∧
    ∀ a, a < loc ∨ loc + 64 ≤ a → Mem.read (s.qPut q v).mem a = Mem.read s.mem a := by
  have size := length_leBytes 64 v
  rw [State.qPut_at v at_]
  refine ⟨?_, State.wr_flds .., fun a ha => Mem.read_writeN_outside _ _ wf _ _ (by rwa [size])⟩
  have back : (s.wr loc (leBytes 64 v)).rd loc 64 = leBytes 64 v := by
    have := Mem.readN_writeN_lp wf (loc := loc) (bs := leBytes 64 v) (by rwa [size])
    rwa [size] at this
  rw [State.qFind_desc (s := s.wr loc _) at_ (State.poisoned_wr _ _ clean), back, leNat_leBytes, show (256 : Nat) = 2 ^ 8 from rfl, ← Nat.pow_mul]

/-- The new tail is read back; the other tails, the heads and ENABLED read as before. -/
theorem qSetTail_fields (v : QD) {l l' : Nat} (n : Nat) (hl : l < 8) (hl' : l' < 8) :
    qTail (qSetTail v l n % 2 ^ 512) l' = (if l' = l then n % 2 ^ 16 else qTail (v % 2 ^ 512) l') ∧
    qHead (qSetTail v l n % 2 ^ 512) l' = qHead (v % 2 ^ 512) l' ∧ qEnabled (qSetTail v l n % 2 ^ 512) = qEnabled (v % 2 ^ 512) := by
  have order : 256 + 16 * l ≤ 256 + 16 * l + 15 + 1 := by omega
  refine ⟨?_, ?_, ?_⟩
  · rw [qTail, bits_mod _ _ _ _ (by omega), qSetTail, qTail, bits_mod _ _ _ _ (by omega)]
    split
    next same =>
      rw [same, bits_putBits_self _ _ _ _ order]
      congr 2
      omega
    next other => exact bits_putBits_ne _ _ _ _ _ _ order (by omega)
  · rw [qHead, bits_mod _ _ _ _ (by omega), qSetTail, qHead, bits_mod _ _ _ _ (by omega)]
    exact bits_putBits_ne _ _ _ _ _ _ order (by omega)
  · rw [qEnabled, bit_mod _ _ _ (by omega), qEnabled, bit_mod _ _ _ (by omega), qSetTail, bit, testBit_putBits _ _ _ _ _ order, if_neg (by omega), bit]

/-! ### The hub touches a queue (R293) -/

theorem State.qTouch_on (s : State) (v : QD) (q : Nat) : (s.qTouch v q).que.on = s.que.on ∧ (s.qTouch v q).que.waiting = s.que.waiting ∧
    (s.qTouch v q).ident = s.ident := by
  unfold State.qTouch
  dsimp only
  split <;> exact ⟨rfl, rfl, rfl⟩

theorem State.qTouch_get (s : State) (v : QD) (q : Nat) {f : Field} (u i : Nat) (h : f ≠ .QUE_CACHE_HIT ∧ f ≠ .QUE_CACHE_MISS) :
    (s.qTouch v q).get f u i = s.get f u i := by
  unfold State.qTouch
  dsimp only
  split
  · exact State.get_set_ne _ _ _ _ _ _ _ _ (.inl h.1)
  · exact State.get_set_ne _ _ _ _ _ _ _ _ (.inl h.2)

/-! ### Doorbells (R297, R298, R304) -/

theorem exec_doorbellWrite (s : State) (a : Agent) {q l : Nat} (w : Word) (hq : q < 2 ^ 20) (hl : l < 8) :
    exec (.doorbellWrite a q (8 * l) 8 w) s = .next ((s.wake 2).publish a q l (bits w.toNat 15 0)) := by
  have page : exec (.doorbellWrite a q (8 * l) 8 w) s = .next ((s.wake 2).publish a (q % 2 ^ 20) (8 * l / 8) (bits w.toNat 15 0)) :=
    if_pos (by omega)
  rw [page, Nat.mod_eq_of_lt hq, Nat.mul_div_cancel_left l (by decide)]

theorem exec_doorbellWrite_ignored (s : State) (a : Agent) {q off size : Nat} (w : Word) (h : ¬(size = 8 ∧ off % 8 = 0 ∧ off / 8 < 8)) :
    exec (.doorbellWrite a q off size w) s = .next s := if_neg h

section Publish
variable {x : State} (a : Agent) {q l n : Nat} {v : QD}

theorem State.publish_noTable (found : x.qFind q = .noTable) : x.publish a q l n = x.doorbellEv (srcHub (x.fabUnit - 120) 5) q l n 0 0 := by
  rw [State.publish, found]

theorem State.publish_poison (found : x.qFind q = .poison) : x.publish a q l n = (x.qUe q).doorbellEv (srcHub (x.fabUnit - 120) 5) q l n 0 5 := by
  rw [State.publish, found]

theorem State.agentDomain_qTouch : (x.qTouch v q).agentDomain a = x.agentDomain a := by
  have charge : (x.qTouch v q).inCharge = x.inCharge := by
    simp only [State.inCharge, (x.qTouch_on v q).2.2, State.qTouch_get x v q (f := .STW_SEAL_STATE) 0 0 (by decide),
      State.qTouch_get x v q (f := .STW_SEAL_PREF) 0 0 (by decide), State.qTouch_get x v q (f := .STW_SEAL_HOLDER) 0 0 (by decide)]
  cases a <;> simp only [State.agentDomain, charge]

/-- An accepted doorbell (R298), with the level interrupt that it may raise (R304). -/
theorem State.publish_accepts (found : x.qFind q = .desc v) (enabled : qEnabled v = true) (level : l < qLevels v)
    (forward : (n + 65536 - qTail v l) % 65536 < 2 ^ 15) (room : (n + 65536 - qHead v l) % 65536 ≤ 2 ^ qLog2 v)
    (domain : qClass v = 2 → x.agentDomain a = some (qReaderDomain v)) :
    x.publish a q l n = ((x.qTouch v q).qLevelIrq q (qOcc v) (qSetTail v l n)).1.qPut q ((x.qTouch v q).qLevelIrq q (qOcc v) (qSetTail v l n)).2 := by
  have inside : ¬(qClass v = 2 ∧ x.agentDomain a ≠ some (qReaderDomain v)) := fun h => h.2 (domain h.1)
  simp only [State.publish, found, State.agentDomain_qTouch]
  rw [if_neg (by simp [enabled]), if_neg (by omega), if_neg (by omega), if_neg (by omega), if_neg inside]

/-- The conditions under which R298 discards a doorbell, each with its cause, in the order in which it is checked. -/
def State.discards (x : State) (a : Agent) (v : QD) (l n cause : Nat) : Prop :=
  (cause = 0 ∧ qEnabled v = false) ∨ (cause = 1 ∧ qEnabled v = true ∧ qLevels v ≤ l) ∨
    (cause = 2 ∧ qEnabled v = true ∧ l < qLevels v ∧ 2 ^ 15 ≤ (n + 65536 - qTail v l) % 65536) ∨
    (cause = 3 ∧ qEnabled v = true ∧ l < qLevels v ∧ (n + 65536 - qTail v l) % 65536 < 2 ^ 15 ∧ 2 ^ qLog2 v < (n + 65536 - qHead v l) % 65536) ∨
    (cause = 4 ∧ qEnabled v = true ∧ l < qLevels v ∧ (n + 65536 - qTail v l) % 65536 < 2 ^ 15 ∧ (n + 65536 - qHead v l) % 65536 ≤ 2 ^ qLog2 v ∧
      qClass v = 2 ∧ x.agentDomain a ≠ some (qReaderDomain v))

theorem State.publish_discards {cause : Nat} (found : x.qFind q = .desc v) (h : x.discards a v l n cause) :
    x.publish a q l n = (x.qTouch v q).doorbellEv ((x.qTouch v q).qSrc v) q l n v cause := by
  simp only [State.publish, found, State.agentDomain_qTouch]
  obtain ⟨rfl, off⟩ | ⟨rfl, on, level⟩ | ⟨rfl, on, level, back⟩ | ⟨rfl, on, level, forward, full⟩ | ⟨rfl, on, level, forward, room, outside⟩ := h
  · rw [if_pos (by simp [off])]
  · rw [if_neg (by simp [on]), if_pos level]
  · rw [if_neg (by simp [on]), if_neg (by omega), if_pos back]
  · rw [if_neg (by simp [on]), if_neg (by omega), if_neg (by omega), if_pos full]
  · rw [if_neg (by simp [on]), if_neg (by omega), if_neg (by omega), if_neg (by omega), if_pos outside]

end Publish

/-- What a read of a doorbell page answers, and the touch or the event that it leaves (R297, R524). -/
theorem exec_doorbellRead (s : State) (a : Agent) {q : Nat} (l : Nat) (hq : q < 2 ^ 20) : exec (.doorbellRead a q (8 * l) 8) s =
    .next ((match s.qFind q with | .desc v => s.qTouch v q | .poison => s.qUe q | .noTable => s).emit (.answer a true (leBytes 8
      (match s.qFind q with | .desc v => if l < 8 then qHead v l + qTail v l * 2 ^ 16 + b2n (qEnabled v) * 2 ^ 63 else 0 | _ => 0)))) := by
  have fits : q % 2 ^ 20 = q := Nat.mod_eq_of_lt hq
  have at_ : 8 * l / 8 = l := Nat.mul_div_cancel_left l (by decide)
  show execDoorbellRead a q (8 * l) 8 s = _
  rw [execDoorbellRead, fits, at_, if_pos ⟨rfl, Nat.mul_mod_right 8 l⟩] <;> rfl

theorem exec_doorbellRead_zero {s : State} (a : Agent) {q l : Nat} (hq : q < 2 ^ 20) (h : s.qFind q = .noTable ∨ 8 ≤ l ∧ s.qFind q ≠ .poison) :
    ∃ t, exec (.doorbellRead a q (8 * l) 8) s = .next t ∧ t.out = .answer a true (leBytes 8 0) :: s.out ∧ t.mem = s.mem := by
  rw [exec_doorbellRead s a l hq]
  cases found : s.qFind q with
  | noTable => exact ⟨_, rfl, rfl, rfl⟩
  | poison => simp [found] at h
  | desc v =>
    obtain ⟨mem, cores, out, loc⟩ := s.qTouch_same v q
    have high : ¬l < 8 := by simp only [found, reduceCtorEq, false_or] at h; omega
    exact ⟨_, rfl, by rw [State.emit_out, out]; simp [high], mem⟩

theorem exec_doorbellRead_other (s : State) (a : Agent) {q off size : Nat} (whole : ¬(size = 8 ∧ off % 8 = 0)) (half : ¬(size = 4 ∧ off % 4 = 0)) :
    exec (.doorbellRead a q off size) s = .next (s.emit (.answer a true (List.replicate size 0))) :=
  (if_neg whole).trans (if_neg half)

theorem State.doorbellEv_same (s : State) (src q l n : Nat) (v : QD) (cause : Nat) : (s.doorbellEv src q l n v cause).mem = s.mem ∧
    (s.doorbellEv src q l n v cause).que = s.que := ⟨State.log'_mem .., State.log'_que ..⟩

/-- Settles O14: the descriptor's place, the doorbell's outcomes, and the reads, each by its lemma. -/
theorem doorbellsPublishOrAreDiscarded : Obligations.DoorbellsPublishOrAreDiscarded := by
  unfold Obligations.DoorbellsPublishOrAreDiscarded
  refine ⟨fun s q loc v => State.qFind_qPut v, fun v l l' n => qSetTail_fields v n, fun s a q l w v hq hl => ?_, fun s a q l w hq hl => ?_,
    fun s src q l n v cause => ?_, fun s a q off size w => exec_doorbellWrite_ignored s a w, fun s a q l v hq found hl => ?_,
    fun s a q l => exec_doorbellRead_zero a, fun s a q off size => exec_doorbellRead_other s a⟩
  · rw [exec_doorbellWrite s a w hq hl]
    refine fun found => ⟨fun enabled level forward room domain => ?_, fun cause h => congrArg _ (State.publish_discards a found h)⟩
    rw [State.publish_accepts a found enabled level forward room domain]
    exact ⟨fun quiet => by rw [State.qLevelIrq, if_neg quiet], fun crossed => by rw [State.qLevelIrq, if_pos crossed]⟩
  · rw [exec_doorbellWrite s a w hq hl]
    exact ⟨fun found => congrArg _ (State.publish_noTable a found), fun found => congrArg _ (State.publish_poison a found)⟩
  · exact ⟨(s.doorbellEv_same ..).1, (s.doorbellEv_same ..).2, (s.qTouch_same v q).1, (s.qTouch_on v q).1⟩
  · rw [exec_doorbellRead s a l hq, found]
    simp only [if_pos hl]

/-! ### The QUE block (R305, R445) -/

theorem State.queOp_ready {s : State} (a : Agent) (f : State → State) (ready : s.get .RST_STATUS_READY = 1) (free : s.que.waiting = none) :
    s.queOp a f = .next (f (s.set .QUE_OP_RES_DONE 0)) := by
  rw [State.queOp, State.whenReady_on _ _ _ ready, free]
  rfl

theorem State.queOp_busy {s : State} (a : Agent) (f : State → State) (ready : s.get .RST_STATUS_READY = 1) (busy : s.que.waiting.isSome = true) :
    s.queOp a f = .next (s.set .QUE_OP_RES_STATUS 6) := by
  rw [State.queOp, State.whenReady_on _ _ _ ready, if_pos busy]

theorem State.queOp_early {s : State} (a : Agent) (f : State → State) (early : s.get .RST_STATUS_READY ≠ 1) :
    s.queOp a f = .next (s.log' (srcHub s.inCharge 12) 0xb006 1 [(8, 0x7f001000000), (4, s.agentSrc a)]) :=
  congrArg Host.Outcome.next (if_neg early)

theorem State.qEnd_get (s : State) (st : Nat) {f : Field} (u i : Nat)
    (h : f ∉ [Field.QUE_OP_RES_DONE, .QUE_OP_RES_STATUS, .GLB_IRQ_ROUTE_LOST, .GLB_IRQ_STATUS_SRC]) : (s.qEnd st).get f u i = s.get f u i := by
  simp only [List.mem_cons, List.not_mem_nil, or_false, not_or] at h
  obtain ⟨done, status, lost, src⟩ := h
  rw [State.qEnd, State.irq_get _ _ _ _ _ _ lost src, State.get_set_ne _ _ _ _ _ _ _ _ (.inl status), State.get_set_ne _ _ _ _ _ _ _ _ (.inl done)]

/-- A completion raises DONE with its status, and changes no memory, queue, core or log. -/
theorem State.qEnd_spec (s : State) (st : Nat) : (s.qEnd st).get .QUE_OP_RES_DONE = 1 ∧ (s.qEnd st).get .QUE_OP_RES_STATUS = st % 2 ^ Field.QUE_OP_RES_STATUS.width ∧
    (s.qEnd st).mem = s.mem ∧ (s.qEnd st).que = s.que ∧ (s.qEnd st).cores = s.cores ∧ (s.qEnd st).log = s.log := by
  refine ⟨?_, ?_, State.irq_mem .., State.irq_que .., State.irq_cores .., State.irq_log ..⟩ <;>
    rw [State.qEnd, State.irq_get _ _ _ _ _ _ (by decide) (by decide)]
  · rw [State.get_set_ne _ _ _ _ _ _ _ _ (.inl (by decide))]
    exact State.get_set_self ..
  · exact State.get_set_self ..

theorem State.qDone_spec (s : State) (st occ : Nat) : (s.qDone st occ).get .QUE_OP_RES_DONE = 1 ∧
    (s.qDone st occ).get .QUE_OP_RES_STATUS = st % 2 ^ Field.QUE_OP_RES_STATUS.width ∧
    (s.qDone st occ).get .QUE_OP_RES_OCC = occ % 2 ^ Field.QUE_OP_RES_OCC.width ∧ (s.qDone st occ).mem = s.mem ∧ (s.qDone st occ).que = s.que ∧
    (s.qDone st occ).cores = s.cores := by
  obtain ⟨done, status, mem, que, cores, -⟩ := (s.set .QUE_OP_RES_OCC occ).qEnd_spec st
  exact ⟨done, status, ((s.set .QUE_OP_RES_OCC occ).qEnd_get st 0 0 (by decide)).trans (State.get_set_self ..), mem, que, cores⟩

/-! ### The five operations (R302, R305, R306) -/

/-- What each operation does with the queue's descriptor once it is read. -/
def enableWork (q : Nat) (s : State) (v : QD) : State :=
  if s.enableStatus q v = 0 then ((s.qPut q (qRearm (putBit v 63 true))).qSetOn q true).qDone 0 (qOcc v) else s.qDone (s.enableStatus q v) (qOcc v)

def disableWork (q : Nat) (force : Bool) (s : State) (v : QD) : State :=
  if force then ((s.qEndPacket q v).1.qOff q (s.qEndPacket q v).2).qDone 0 (qOcc (s.qEndPacket q v).2)
  else if qInPkt v then { s with que := { s.que with waiting := some (2, q, 0) } }
  else (s.qOff q v).qDone 0 (qOcc v)

def flushWork (q m : Nat) (s : State) (v : QD) : State :=
  if qInPkt v then ({ s with que := { s.que with waiting := some (3, q, m % 256) } } : State).qPut q (putBit v 61 true)
  else (s.qFlush q v (m % 256)).1.qDone 0 (qOcc (s.qFlush q v (m % 256)).2)

def setlevelWork (q : Nat) (s : State) (v : QD) : State :=
  (s.qPut q (qRearm (putBits v 51 32 (s.get .QUE_OP_ARG_LEVEL)))).qDone 0 (qOcc (qRearm (putBits v 51 32 (s.get .QUE_OP_ARG_LEVEL))))

def queryWork (s : State) (v : QD) : State := s.qDone 0 (qOcc v)

section Operations
variable (s : State) (a : Agent) {q : Nat}

/-- The five operations are one shape: the QUE block takes the write, and the operation's work gets the descriptor. -/
theorem exec_queOps (m : Nat) (b : Bool) : exec (.queueEnable a q) s = s.queOp a (·.onQueue (q % 2 ^ 20) (enableWork (q % 2 ^ 20))) ∧
    exec (.queueDisable a q b) s = s.queOp a (·.onQueue (q % 2 ^ 20) (disableWork (q % 2 ^ 20) b)) ∧
    exec (.queueFlush a q m) s = s.queOp a (·.onQueue (q % 2 ^ 20) (flushWork (q % 2 ^ 20) m)) ∧
    exec (.queueSetlevel a q) s = s.queOp a (·.onQueue (q % 2 ^ 20) (setlevelWork (q % 2 ^ 20))) ∧
    exec (.queueQuery a q) s = s.queOp a (·.onQueue (q % 2 ^ 20) queryWork) := ⟨rfl, rfl, rfl, rfl, rfl⟩

theorem exec_queueOp {m : Nat} {b : Bool} {c : Instr}
    (hc : c ∈ [Instr.queueEnable a q, .queueDisable a q b, .queueFlush a q m, .queueSetlevel a q, .queueQuery a q]) :
    ∃ work, exec c s = s.queOp a (·.onQueue (q % 2 ^ 20) work) := by
  obtain ⟨enable, disable, flush, setlevel, query⟩ := exec_queOps s a (q := q) m b
  simp only [List.mem_cons, List.not_mem_nil, or_false] at hc
  obtain rfl | rfl | rfl | rfl | rfl := hc
  exacts [⟨_, enable⟩, ⟨_, disable⟩, ⟨_, flush⟩, ⟨_, setlevel⟩, ⟨_, query⟩]

theorem State.qFind_set_done : (s.set .QUE_OP_RES_DONE 0).qFind q = s.qFind q := by
  have clean (loc n : Nat) : (s.set .QUE_OP_RES_DONE 0).poisoned loc n = s.poisoned loc n := by
    simp [State.poisoned, State.fencedAt]
  simp only [State.qFind, clean]
  rfl

variable {s} (ready : s.get .RST_STATUS_READY = 1) (free : s.que.waiting = none)
include ready free

theorem State.queOp_noTable (work : State → QD → State) (found : s.qFind q = .noTable) :
    s.queOp a (·.onQueue q work) = .next ((s.set .QUE_OP_RES_DONE 0).qEnd 7) := by
  rw [State.queOp_ready a _ ready free, State.onQueue, State.qFind_set_done, found]

theorem State.queOp_poison (work : State → QD → State) (found : s.qFind q = .poison) :
    s.queOp a (·.onQueue q work) = .next (((s.set .QUE_OP_RES_DONE 0).qUe q).qEnd 8) := by
  rw [State.queOp_ready a _ ready free, State.onQueue, State.qFind_set_done, found]

theorem State.queOp_desc (work : State → QD → State) {v : QD} (found : s.qFind q = .desc v) :
    s.queOp a (·.onQueue q work) = .next (work ((s.set .QUE_OP_RES_DONE 0).qTouch v q) v) := by
  rw [State.queOp_ready a _ ready free, State.onQueue, State.qFind_set_done, found]

end Operations

theorem exec_queueBadOp {s : State} (a : Agent) {op : Nat} (h : ¬(1 ≤ op % 16 ∧ op % 16 ≤ 5)) :
    exec (.queueBadOp a op) s = s.queOp a (·.qEnd 9) := if_neg h

/-- A completion of an operation that only cleared DONE before it. -/
theorem State.qEnd_of_start {s : State} (st : Nat) : let t := (s.set .QUE_OP_RES_DONE 0).qEnd st
    t.get .QUE_OP_RES_DONE = 1 ∧ t.get .QUE_OP_RES_STATUS = st % 2 ^ Field.QUE_OP_RES_STATUS.width ∧ t.mem = s.mem ∧ t.que = s.que ∧ t.cores = s.cores ∧
      t.log = s.log ∧ ∀ f u i, f ∉ [Field.QUE_OP_RES_DONE, .QUE_OP_RES_STATUS, .GLB_IRQ_ROUTE_LOST, .GLB_IRQ_STATUS_SRC] → t.get f u i = s.get f u i := by
  obtain ⟨done, status, mem, que, cores, log⟩ := (s.set .QUE_OP_RES_DONE 0).qEnd_spec st
  exact ⟨done, status, mem, que, cores, log, fun f u i hf =>
    (State.qEnd_get _ st u i hf).trans (State.get_set_ne _ _ _ _ _ _ _ _ (.inl (List.ne_of_not_mem_cons hf)))⟩

/-- Settles O21: both cases complete at once, and the completion changes nothing else. -/
theorem noQueueTableAndBadOp : Obligations.NoQueueTableAndBadOp := by
  unfold Obligations.NoQueueTableAndBadOp
  refine fun s a q m op b ready free hq => ⟨fun found c hc => ?_, fun bad => ⟨_, ?_, State.qEnd_of_start 9⟩⟩
  · obtain ⟨work, run⟩ := exec_queueOp s a hc
    rw [Nat.mod_eq_of_lt hq] at run
    exact ⟨_, run.trans (State.queOp_noTable a ready free work found), State.qEnd_of_start 7⟩
  · exact (exec_queueBadOp a bad).trans (State.queOp_ready a _ ready free)

/-! ### What waits for the packet boundary (R302, R305) -/

theorem KMap.get?_erase_self {κ β : Type} [DecidableEq κ] (m : KMap κ β) (k : κ) : KMap.get? (KMap.erase m k) k = none := by
  induction m with
  | nil => rfl
  | cons e m ih =>
    unfold KMap.erase at ih ⊢
    by_cases same : e.1 = k
    · rwa [List.filter_cons_of_neg (by simp [same])]
    · rwa [List.filter_cons_of_pos (by simp [same]), KMap.get?, if_neg same]

section Boundary
variable {s : State} {q : Nat} {v : QD} (found : s.qFind q = .desc v)
include found

theorem State.qBoundary_inside (inside : qInPkt v = true) : s.qBoundary q = s := by
  rw [State.qBoundary, found]
  exact if_pos inside

variable (edge : qInPkt v = false)
include edge

theorem State.qBoundary_idle (due : KMap.get? s.que.dueOff q = none) (free : s.que.waiting = none) : s.qBoundary q = s := by
  simp [State.qBoundary, found, edge, free, due]

theorem State.qBoundary_disable {m : Nat} (wait : s.que.waiting = some (2, q, m)) :
    s.qBoundary q = ({ s.qOff q v with que := { (s.qOff q v).que with waiting := none } } : State).qDone 0 (qOcc v) := by
  have que := fun y : State => (y.qDone_spec 0 (qOcc v)).2.2.2.2.1
  simp [State.qBoundary, found, edge, wait, que, State.qOff, KMap.get?_erase_self]

theorem State.qBoundary_flush {m : Nat} (wait : s.que.waiting = some (3, q, m)) (due : KMap.get? s.que.dueOff q = none)
    (kept : (s.qFlush q v m).1.que.dueOff = s.que.dueOff) : s.qBoundary q =
      ({ (s.qFlush q v m).1 with que := { (s.qFlush q v m).1.que with waiting := none } } : State).qDone 0 (qOcc (s.qFlush q v m).2) := by
  have que := fun y : State => (y.qDone_spec 0 (qOcc (s.qFlush q v m).2)).2.2.2.2.1
  simp [State.qBoundary, found, edge, wait, que, kept, due]

end Boundary

/-! ### What each operation leaves (R302, R304 to R306) -/

theorem State.qPut_que (s : State) (q : Nat) (v : QD) : (s.qPut q v).que = s.que ∧ ∀ f u i, (s.qPut q v).get f u i = s.get f u i := by
  unfold State.qPut
  split
  · exact ⟨rfl, fun _ _ _ => State.wr_get ..⟩
  · exact ⟨rfl, fun _ _ _ => rfl⟩

/-- Listing an enabled queue: the list holds it, and QUE_STATUS counts the list. -/
theorem State.qSetOn_spec (s : State) (q : Nat) : q ∈ (s.qSetOn q true).que.on ∧ (s.qSetOn q true).cores = s.cores ∧
    (s.qSetOn q true).get .QUE_STATUS_ENABLED = (s.qSetOn q true).que.on.length % 2 ^ Field.QUE_STATUS_ENABLED.width :=
  ⟨List.mem_cons_self, rfl, State.get_set_self ..⟩

section Effects
variable {s : State} {q : Nat} {v : QD}

theorem enableWork_enables (ok : s.enableStatus q v = 0) : let t := enableWork q s v
    t = ((s.qPut q (qRearm (putBit v 63 true))).qSetOn q true).qDone 0 (qOcc v) ∧ t.get .QUE_OP_RES_DONE = 1 ∧ t.get .QUE_OP_RES_STATUS = 0 ∧ q ∈ t.que.on ∧
      t.get .QUE_STATUS_ENABLED = t.que.on.length % 2 ^ Field.QUE_STATUS_ENABLED.width ∧ t.cores = s.cores := by
  obtain ⟨listed, cores, count⟩ := (s.qPut q (qRearm (putBit v 63 true))).qSetOn_spec q
  obtain ⟨done, status, -, -, que, cores'⟩ := ((s.qPut q (qRearm (putBit v 63 true))).qSetOn q true).qDone_spec 0 (qOcc v)
  have counted := (State.qEnd_get (((s.qPut q (qRearm (putBit v 63 true))).qSetOn q true).set .QUE_OP_RES_OCC (qOcc v)) 0 (f := .QUE_STATUS_ENABLED) 0 0
    (by decide)).trans (State.get_set_ne _ _ _ _ _ _ _ _ (.inl (by decide)))
  rw [enableWork, if_pos ok]
  exact ⟨rfl, done, status, que ▸ listed, (counted.trans count).trans (by rw [que]), cores'.trans (cores.trans (State.qPut_same ..).1)⟩

theorem disableWork_edge (edge : qInPkt v = false) : disableWork q false s v = (s.qOff q v).qDone 0 (qOcc v) := by
  simp [disableWork, edge]

theorem flushWork_edge (m : Nat) (edge : qInPkt v = false) : flushWork q m s v = (s.qFlush q v (m % 256)).1.qDone 0 (qOcc (s.qFlush q v (m % 256)).2) :=
  if_neg (by simp [edge])

theorem disableWork_inside (inside : qInPkt v = true) : disableWork q false s v = { s with que := { s.que with waiting := some (2, q, 0) } } := by
  simp [disableWork, inside]

theorem flushWork_inside (m : Nat) (inside : qInPkt v = true) : flushWork q m s v =
    ({ s with que := { s.que with waiting := some (3, q, m % 256) } } : State).qPut q (putBit v 61 true) := if_pos inside

end Effects

/-- Settles O15: each operation by its work on the descriptor, and what waits by the boundary's lemmas. -/
theorem queueOperationsComplete : Obligations.QueueOperationsComplete := by
  unfold Obligations.QueueOperationsComplete
  refine ⟨fun s a q v ready free hq found => ?_, fun s a q m b ready free hq c hc => ?_, fun s a q m op b bad c hc => ?_, fun s a op ready free bad => ?_,
    fun s a op known => if_pos known, fun s q v hq found => ?_⟩
  · intro y
    obtain ⟨mem, cores, -, -⟩ := (s.set .QUE_OP_RES_DONE 0).qTouch_same v q
    obtain ⟨on, -, -⟩ := (s.set .QUE_OP_RES_DONE 0).qTouch_on v q
    have begun : y.get .QUE_OP_RES_DONE = 0 := (State.qTouch_get _ v q 0 0 (by decide)).trans (State.get_set_self ..)
    have arg : y.get .QUE_OP_ARG_LEVEL = s.get .QUE_OP_ARG_LEVEL :=
      (State.qTouch_get _ v q 0 0 (by decide)).trans (State.get_set_ne _ _ _ _ _ _ _ _ (.inl (by decide)))
    have run (work : State → QD → State) : s.queOp a (·.onQueue q work) = .next (work y v) := State.queOp_desc a ready free work found
    have ops := fun m b => exec_queOps s a (q := q) m b
    simp only [Nat.mod_eq_of_lt hq, run] at ops
    refine ⟨fun ok => ?_, fun fault => ?_, fun edge => ⟨?_, fun m => ?_⟩, ?_, fun inside => ⟨?_, fun m => ?_⟩, ?_, ?_⟩
    · obtain ⟨is, done, status, listed, count, same⟩ := enableWork_enables ok
      exact ⟨_, (ops 0 true).1, is, done, status, listed, count, same.trans cores⟩
    · obtain ⟨done, status, -, mem', que, -⟩ := y.qDone_spec (y.enableStatus q v) (qOcc v)
      exact ⟨_, (ops 0 true).1.trans (congrArg _ (if_neg fault)), mem'.trans mem, (congrArg QueSt.on que).trans on, status, done⟩
    · exact (ops 0 false).2.1.trans (congrArg _ (disableWork_edge edge))
    · exact (ops m true).2.2.1.trans (congrArg _ (flushWork_edge m edge))
    · exact (ops 0 true).2.1
    · exact ⟨_, (ops 0 false).2.1.trans (congrArg _ (disableWork_inside inside)), rfl, mem, on, begun⟩
    · obtain ⟨que, get⟩ := ({ y with que := { y.que with waiting := some (3, q, m % 256) } } : State).qPut_que q (putBit v 61 true)
      exact ⟨_, (ops m true).2.2.1.trans (congrArg _ (flushWork_inside m inside)), congrArg QueSt.waiting que, (congrArg QueSt.on que).trans on,
        (get _ _ _).trans begun, State.qPut_mem_congr _ rfl rfl⟩
    · obtain ⟨done, status, -, mem', que, -⟩ := (y.qPut q (qRearm (putBits v 51 32 (y.get .QUE_OP_ARG_LEVEL)))).qDone_spec 0
        (qOcc (qRearm (putBits v 51 32 (y.get .QUE_OP_ARG_LEVEL))))
      exact ⟨_, (ops 0 true).2.2.2.1, arg ▸ mem', (congrArg QueSt.on (que.trans (State.qPut_que ..).1)).trans on, done, status⟩
    · obtain ⟨done, status, occ, mem', que, -⟩ := y.qDone_spec 0 (qOcc v)
      exact ⟨_, (ops 0 true).2.2.2.2, mem'.trans mem, (congrArg QueSt.on que).trans on, done, status, occ⟩
  · obtain ⟨work, run⟩ := exec_queueOp s a hc
    rw [run, Nat.mod_eq_of_lt hq]
    exact ⟨State.queOp_noTable a ready free work, State.queOp_poison a ready free work⟩
  · have taken : ∃ f, exec c s = s.queOp a f := by
      obtain op | last := List.mem_append (s := [Instr.queueEnable a q, .queueDisable a q b, .queueFlush a q m, .queueSetlevel a q, .queueQuery a q]).mp hc
      · obtain ⟨work, run⟩ := exec_queueOp s a op
        exact ⟨_, run⟩
      · obtain rfl := List.mem_singleton.mp last
        exact ⟨_, exec_queueBadOp a bad⟩
    obtain ⟨f, run⟩ := taken
    rw [run]
    exact ⟨State.queOp_busy a f, State.queOp_early a f⟩
  · obtain ⟨done, status, mem, que, -⟩ := State.qEnd_of_start (s := s) 9
    exact ⟨_, (exec_queueBadOp a bad).trans (State.queOp_ready a _ ready free), mem, que, status, done⟩
  · have run : exec (.queueBoundaryEffect q) s = .next (s.qBoundary q) := congrArg (fun q => Host.Outcome.next (s.qBoundary q)) (Nat.mod_eq_of_lt hq)
    rw [run]
    exact ⟨fun inside => congrArg _ (State.qBoundary_inside found inside), fun edge due =>
      ⟨fun m wait => congrArg _ (State.qBoundary_disable found edge wait), fun m wait kept => congrArg _ (State.qBoundary_flush found edge wait due kept),
        fun idle => congrArg _ (State.qBoundary_idle found edge due idle)⟩⟩

end Sys2Proof.Machine

/-! The seal: claims and heartbeats, the handover, the dispute (O25, O26, O27). -/
namespace Sys2Proof.Machine
open Sys2Proof

/-! ### A claim (R409, R410) -/

theorem halfOfSrc_sealSrc {half : Nat} (h : half < 2) : halfOfSrc (sealSrc half) = half := by
  revert half
  decide

theorem State.strapClaim_claims {s : State} {half : Nat} (pref : half = s.sealPref) (unit : s.sealUnit half = true)
    (verified : s.rst.verified.contains half = true) (fresh : s.stw.claimed.contains half = false) :
    exec (.sealStrapClaim half) s = .next (s.sealClaim half 0) :=
  congrArg Host.Outcome.next (if_pos ⟨pref, unit, verified, by simpa using fresh⟩)

theorem State.fallbackClaim_claims {s : State} {half : Nat} (lt : half < 2) (pref : half ≠ s.sealPref) (unit : s.sealUnit half = true)
    (verified : s.rst.verified.contains half = true) (fresh : s.stw.claimed.contains half = false) (unseen : s.stw.seen.contains half = false)
    (late : s.stw.origin + 200000000 ≤ s.beat.coldNs) : exec (.sealFallbackClaim half) s = .next (s.sealClaim half 1) :=
  congrArg Host.Outcome.next (if_pos ⟨lt, pref, unit, verified, by simpa using fresh, by simpa using unseen, late⟩)

theorem State.lostClaim_claims {s : State} {half t : Nat} (lt : half < 2) (unit : s.sealUnit half = true)
    (verified : s.rst.verified.contains half = true) (none : s.sealHolds half = none) (state : s.get .STW_SEAL_STATE ≠ 3)
    (heard : KMap.get? s.stw.heard half = some t) (silent : t + 64 ≤ s.beat.edges) : exec (.sealLostClaim half) s = .next (s.sealClaim half 2) := by
  refine congrArg Host.Outcome.next ?_
  simp only [heard]
  exact if_pos ⟨lt, unit, verified, by rw [none]; rfl, state, silent⟩

/-- The state behind a claim that meets no other holding, before the log hears of it. -/
def State.sealTaken (s : State) (half seq : Nat) : State :=
  (s.sealTo half seq).mapSeal fun x => { x with claimed := half :: x.claimed.filter (· != half) }

/-- The log at a claim: it starts with the first, moves with the seal, and begins a segment where the old holder is lost. -/
def State.sealLog (s : State) (half cause : Nat) : State :=
  if !s.log.started then s.logStart half else if cause = 2 then s.logTake half else s.logMove half

theorem State.sealClaim_alone {s : State} {half : Nat} (cause : Nat) (alone : s.stw.holds.filter (fun h => h.1 != half) = []) :
    s.sealClaim half cause = (((s.sealTaken half ((s.sealSeq + 1) % 2 ^ 32)).sealLog half cause).log' (sealSrc half) 0xb030 0
      [(1, half), (4, (s.sealSeq + 1) % 2 ^ 32), (1, cause)]).emit (.pkg (.sealClaim half ((s.sealSeq + 1) % 2 ^ 32) cause)) := by
  simp only [State.sealClaim, alone, if_true]
  rfl

theorem State.sealLog_spec (s : State) (half cause : Nat) : let t := s.sealLog half cause
    t.stw = s.stw ∧ t.mem = s.mem ∧ t.cores = s.cores ∧
      ∀ f u i, f ∉ [Field.LOG_STATUS_HUB, .LOG_STATUS_SEG, .LOG_SEQ_NEXT, .LOG_OVER_OVERWRITTEN, .LOG_STATUS_INTAKE] → t.get f u i = s.get f u i := by
  obtain ⟨start, move, take⟩ := s.logMoves_spec half
  unfold State.sealLog
  split
  · exact start
  · split
    exacts [take, move]

/-- What a claim that meets no other holding leaves. -/
theorem State.sealClaim_spec {s : State} {half cause : Nat} (lt : half < 2) (alone : s.stw.holds.filter (fun h => h.1 != half) = [])
    (fits : (s.get .STW_SEAL_SEQ + 1) % 2 ^ 32 = s.get .STW_SEAL_SEQ + 1) : let t := s.sealClaim half cause
    t.get .STW_SEAL_HOLDER = half ∧ t.get .STW_SEAL_SEQ = s.get .STW_SEAL_SEQ + 1 ∧ t.get .STW_SEAL_STATE = 0 ∧
      t.stw.holds = [(half, s.get .STW_SEAL_SEQ + 1)] ∧ t.out.head? = some (.pkg (.sealClaim half (s.get .STW_SEAL_SEQ + 1) cause)) ∧
      (∃ x l, t.log.flight = l ++ [(half, x)] ∧ x.code = 0xb030 ∧ x.sev = 0 ∧ x.payload = payloadOf [(1, half), (4, s.get .STW_SEAL_SEQ + 1), (1, cause)]) ∧
      t.mem = s.mem ∧ t.cores = s.cores := by
  have claim := State.sealClaim_alone cause alone
  obtain ⟨stw', mem', cores', get'⟩ := (s.sealTaken half ((s.sealSeq + 1) % 2 ^ 32)).sealLog_spec half cause
  rw [State.sealSeq, fits] at claim stw' mem' cores' get'
  obtain ⟨holder, seq, state, stw, mem, cores, -⟩ := s.sealTo_spec half (s.get .STW_SEAL_SEQ + 1)
  rw [fits] at seq stw
  have get (f : Field) (h : f ∉ [Field.LOG_STATUS_HUB, .LOG_STATUS_SEG, .LOG_SEQ_NEXT, .LOG_OVER_OVERWRITTEN, .LOG_STATUS_INTAKE]) :
      (s.sealClaim half cause).get f = (s.sealTo half (s.get .STW_SEAL_SEQ + 1)).get f := by
    rw [claim, State.emit_get, State.log'_get_other _ _ _ _ _ _ _ _ (by decide), get' f 0 0 h, State.sealTaken, State.mapSeal_get]
  refine ⟨?_, ?_, ?_, ?_, ?_, ?_, ?_, ?_⟩
  · rw [get _ (by decide), holder, Nat.mod_eq_of_lt lt]
  · rw [get _ (by decide), seq]
  · rw [get _ (by decide), state]
  · rw [claim, State.emit_stw, State.log'_stw, stw', State.sealTaken, State.mapSeal_stw, stw]
  · rw [claim]
    rfl
  · rw [claim, State.emit_log, State.log'_log, halfOfSrc_sealSrc lt]
    exact ⟨_, _, rfl, rfl, rfl, rfl⟩
  · rw [claim, State.emit_mem, State.log'_mem, mem', State.sealTaken, State.mapSeal_mem, mem]
  · rw [claim, State.emit_cores, State.log'_cores, cores', State.sealTaken, State.mapSeal_cores, cores]

/-! ### Claims that are not due -/

section NotDue
variable {s : State} {half : Nat}

theorem State.strapClaim_stays (h : half ≠ s.sealPref ∨ s.sealUnit half = false ∨ s.rst.verified.contains half = false ∨ s.stw.claimed.contains half = true) :
    exec (.sealStrapClaim half) s = .next s :=
  congrArg Host.Outcome.next (if_neg fun ⟨pref, unit, verified, fresh⟩ => by simp_all)

theorem State.fallbackClaim_stays
    (h : half = s.sealPref ∨ s.sealUnit half = false ∨ s.stw.seen.contains half = true ∨ s.beat.coldNs < s.stw.origin + 200000000) :
    exec (.sealFallbackClaim half) s = .next s := by
  refine congrArg Host.Outcome.next (if_neg fun ⟨_, pref, unit, _, _, unseen, late⟩ => ?_)
  obtain same | off | seen | early := h
  · exact pref same
  · exact absurd unit (by simp [off])
  · rw [seen] at unseen
    cases unseen
  · omega

theorem State.lostClaim_stays
    (h : s.sealUnit half = false ∨ s.sealHolds half ≠ none ∨ (∀ t0, KMap.get? s.stw.heard half = some t0 → s.beat.edges < t0 + 64)) :
    exec (.sealLostClaim half) s = .next s := by
  refine congrArg Host.Outcome.next ?_
  cases heard : KMap.get? s.stw.heard half with
  | none => rfl
  | some t =>
    refine if_neg fun ⟨_, unit, _, no, _, silent⟩ => ?_
    obtain off | holds | heard' := h
    · exact absurd unit (by simp [off])
    · exact holds (Option.isNone_iff_eq_none.mp no)
    · exact absurd silent (by have := heard' t heard; omega)

end NotDue

/-! ### Heartbeats (R410) -/

theorem exec_sealHeartbeatSend {s : State} {half : Nat} (unit : s.sealUnit half = true) : exec (.sealHeartbeatSend half) s =
    .next (match s.sealHolds half with | some q => s.emit (.pkg (.sealHeartbeat half q)) | none => s) := by
  refine congrArg Host.Outcome.next ?_
  cases s.sealHolds half with
  | none => rfl
  | some q => exact if_pos unit

theorem exec_sealHeartbeatReceive {s : State} {half : Nat} (lt : half < 2) (unit : s.sealUnit half = true) : exec (.sealHeartbeatReceive half) s =
    .next (s.mapSeal fun x => { x with heard := KMap.set x.heard half s.beat.edges }) := congrArg Host.Outcome.next (if_pos ⟨lt, unit⟩)

/-- Settles O25: a due claim by what a claim leaves, one that is not due by its condition, and the heartbeats. -/
theorem sealClaimsAndHeartbeats : Obligations.SealClaimsAndHeartbeats := by
  unfold Obligations.SealClaimsAndHeartbeats
  refine ⟨fun s half _ lt alone unit verified fits fresh ck hck strap fallback lost => ?_, fun s half =>
    ⟨State.strapClaim_stays, State.fallbackClaim_stays, State.lostClaim_stays⟩, fun s half unit lt => ⟨fun q holds => ?_, fun none => ?_, ?_⟩⟩
  · have due : exec ck.1 s = .next (s.sealClaim half ck.2) := by
      simp only [List.mem_cons, List.not_mem_nil, or_false] at hck
      obtain rfl | rfl | rfl := hck
      · exact State.strapClaim_claims (strap rfl) unit verified fresh
      · obtain ⟨pref, unseen, late⟩ := fallback rfl
        exact State.fallbackClaim_claims lt pref unit verified fresh unseen late
      · obtain ⟨none, state, t, heard, silent⟩ := lost rfl
        exact State.lostClaim_claims lt unit verified none state heard silent
    exact ⟨_, due, State.sealClaim_spec lt alone fits⟩
  · rw [exec_sealHeartbeatSend unit, holds]
  · rw [exec_sealHeartbeatSend unit, none]
  · exact ⟨_, exec_sealHeartbeatReceive lt unit, KMap.get?_set_self .., rfl, rfl, rfl, rfl, rfl⟩

/-! ### The handover (R411) -/

theorem State.onOffer_some {s : State} {o : SealOffer} (f : SealOffer → State) (open_ : s.stw.offer = some o) : s.onOffer f = f o := by
  rw [State.onOffer, open_]

theorem State.onOffer_none {s : State} (f : SealOffer → State) (none : s.stw.offer = none) : s.onOffer f = s := by
  rw [State.onOffer, none]

section Request
variable {s : State} (state : s.get .STW_SEAL_STATE = 0)
include state

theorem State.sealOffer_absent (byHost : Bool) (other : s.ident.member ≠ .a8) :
    s.sealOffer byHost = s.sealAbortEv (1 - s.get .STW_SEAL_HOLDER) 2 := by
  simp only [State.sealOffer, state]
  rw [if_neg (by decide), if_pos other]

variable (whole : s.ident.member = .a8)
include whole

theorem State.sealOffer_str (byHost : Bool) (str : s.get .STR_STATUS_STATE = 1 ∨ s.get .STR_STATUS_STATE = 3 ∨ s.get .STR_STATUS_STATE = 4) :
    s.sealOffer byHost = s.sealAbortEv (1 - s.get .STW_SEAL_HOLDER) 0 := by
  simp only [State.sealOffer, state]
  rw [if_neg (by decide), if_neg (by simp [whole]), if_pos str]

theorem State.sealOffer_offers (byHost : Bool) (str : s.get .STR_STATUS_STATE ≠ 1 ∧ s.get .STR_STATUS_STATE ≠ 3 ∧ s.get .STR_STATUS_STATE ≠ 4) :
    let x := s.strHandover.setOffer (some ⟨1 - s.get .STW_SEAL_HOLDER, byHost, s.now, false, none, none, none, false⟩)
    s.sealOffer byHost = (x.set .STW_SEAL_STATE 1).emit (.pkg (.sealOffer (1 - (1 - s.get .STW_SEAL_HOLDER)) (s.strHandover.get .STW_SEAL_SEQ + 1))) := by
  simp only [State.sealOffer, state]
  rw [if_neg (by decide), if_neg (by simp [whole]), if_neg (by simp [str])]
  rfl

end Request

/-- A host grant to the other half of a part with no dispute: recorded, then the offer. -/
theorem State.sealGrant_offers {s : State} {half : Nat} (link : Nat) (whole : s.ident.member = .a8) (calm : s.stw.dispute = none) (lt : half < 2)
    (state : s.get .STW_SEAL_STATE = 0) (other : half ≠ s.get .STW_SEAL_HOLDER) :
    s.sealGrant link half none = ((s.set .STW_SEAL_GRANT_VALID 1).set .STW_SEAL_GRANT_HALF half).sealOffer true := by
  simp [State.sealGrant, whole, calm, state, other, Nat.mod_eq_of_lt lt]

theorem State.sealGrant_spec {s : State} {half : Nat} (link : Nat) (whole : s.ident.member = .a8) (calm : s.stw.dispute = none) (lt : half < 2)
    (state : s.get .STW_SEAL_STATE = 0) (other : half ≠ s.get .STW_SEAL_HOLDER)
    (str : s.get .STR_STATUS_STATE ≠ 1 ∧ s.get .STR_STATUS_STATE ≠ 3 ∧ s.get .STR_STATUS_STATE ≠ 4) (idle : s.get .STR_STATUS_STATE ≠ 2) :
    let t := s.sealGrant link half none
    t.get .STW_SEAL_GRANT_VALID = 1 ∧ t.get .STW_SEAL_GRANT_HALF = half ∧ t.get .STW_SEAL_STATE = 1 ∧ ∃ o, t.stw.offer = some o ∧ o.byHost = true := by
  intro t
  have offers := State.sealOffer_offers (s := (s.set .STW_SEAL_GRANT_VALID 1).set .STW_SEAL_GRANT_HALF half) (by simpa using state) whole true
    (by simpa using str)
  have keeps : ((s.set .STW_SEAL_GRANT_VALID 1).set .STW_SEAL_GRANT_HALF half).strHandover = (s.set .STW_SEAL_GRANT_VALID 1).set .STW_SEAL_GRANT_HALF half :=
    if_neg (by simpa using idle)
  simp only [t, State.sealGrant_offers link whole calm lt state other, offers, keeps]
  have half2 : half % 2 ^ Field.STW_SEAL_GRANT_HALF.width = half := Nat.mod_eq_of_lt lt
  refine ⟨?_, ?_, ?_, _, rfl, rfl⟩
  · simp [State.setOffer, show Field.STW_SEAL_GRANT_VALID.width = 1 from rfl]
  · simp [State.setOffer, half2]
  · simp [State.setOffer, show Field.STW_SEAL_STATE.width = 2 from rfl]

section Handover
variable {s : State} {o : SealOffer} (open_ : s.stw.offer = some o)
include open_

theorem exec_sealOfferReceive_gets (live : o.withdrawn = false) (unit : s.sealUnit o.taker = true) :
    exec .sealOfferReceive s = .next (s.setOffer (some { o with got := true })) :=
  congrArg Host.Outcome.next ((State.onOffer_some _ open_).trans (if_neg (by simp [live, unit])))

theorem exec_sealAccept_accepts (got : o.got = true) (first : o.accepted = none) (unit : s.sealUnit o.taker = true) : exec .sealAccept s =
    .next ((s.setOffer (some { o with accepted := some s.now })).emit (.pkg (.sealAccept o.taker (s.get .STW_SEAL_SEQ + 1)))) :=
  congrArg Host.Outcome.next ((State.onOffer_some _ open_).trans (if_pos ⟨got, by rw [first]; rfl, unit⟩))

theorem exec_sealAcceptReceive_commits (ahead : Nat) (accepted : o.accepted.isSome = true) (live : o.withdrawn = false) (first : o.h = none) :
    exec (.sealAcceptReceive ahead) s = .next ((s.setOffer (some { o with h := some (s.now + max 4 ahead) })).emit
      (.pkg (.sealCommit (1 - o.taker) (s.get .STW_SEAL_SEQ + 1) (s.now + max 4 ahead)))) :=
  congrArg Host.Outcome.next ((State.onOffer_some _ open_).trans (if_pos ⟨accepted, by rw [live]; rfl, by rw [first]; rfl⟩))

theorem exec_sealCommitReceive_keeps (q h : Nat) (unit : s.sealUnit o.taker = true) (holds : s.sealHolds o.taker = none) (accepted : o.accepted.isSome = true) :
    exec (.sealCommitReceive o.taker q h) s = .next (s.setOffer (some { o with takerH := some h })) := by
  refine (if_neg (by simp [unit])).trans (congrArg Host.Outcome.next ?_)
  simp only [holds]
  exact (State.onOffer_some _ open_).trans (if_pos ⟨rfl, accepted⟩)

theorem exec_sealHandover_early {h : Nat} (at_ : o.takerH = some h) (early : s.now < h) : exec .sealHandover s = .next s := by
  refine congrArg Host.Outcome.next ((State.onOffer_some _ open_).trans ?_)
  simp only [at_]
  exact if_pos early

/-- What both units log at a handover. -/
def handoverFields (s : State) (o : SealOffer) (h : Nat) : List (Nat × Nat) :=
  [(1, 1 - o.taker), (1, o.taker), (4, (s.sealSeq + 1) % 2 ^ 32), (8, h), (1, b2n o.byHost)]

/-- The state at H, before the handover is logged. -/
def State.handedOver (s : State) (o : SealOffer) : State :=
  (((s.setOffer none).sealTo o.taker ((s.sealSeq + 1) % 2 ^ 32)).logMove o.taker).mapSeal fun x =>
    { x with heard := KMap.set x.heard (1 - o.taker) (((s.setOffer none).sealTo o.taker ((s.sealSeq + 1) % 2 ^ 32)).logMove o.taker).beat.edges }

theorem exec_sealHandover_due {h : Nat} (at_ : o.takerH = some h) (due : h ≤ s.now) : exec .sealHandover s =
    .next (((s.handedOver o).log' (sealSrc (1 - o.taker)) 0xb031 0 (handoverFields s o h)).log' (sealSrc o.taker) 0xb031 0 (handoverFields s o h)) := by
  refine congrArg Host.Outcome.next ((State.onOffer_some _ open_).trans ?_)
  simp only [at_]
  exact if_neg (by omega)

theorem exec_sealOfferTimeout_ends (pending : o.h = none) (live : o.withdrawn = false) (late : o.since + ceilDiv 1000000 s.period ≤ s.now)
    (unanswered : o.accepted = none) : exec .sealOfferTimeout s = .next (((s.setOffer none).set .STW_SEAL_STATE 0).sealAbortEv o.taker 1) := by
  refine congrArg Host.Outcome.next ((State.onOffer_some _ open_).trans ((if_neg ?_).trans ?_))
  · rw [pending, live]
    simp only [Option.isSome_none, Bool.false_eq_true, false_or]
    omega
  · rw [unanswered]
    rfl

variable {a : Nat} (accepted : o.accepted = some a) (uncommitted : o.takerH = none)
include accepted uncommitted

theorem exec_sealCommitTimeout : exec .sealCommitTimeout s =
    .next (if s.now < a + ceilDiv 1000000 s.period then s else (s.setOffer none).sealClaim o.taker 2) := by
  refine congrArg Host.Outcome.next ((State.onOffer_some _ open_).trans ?_)
  simp only [accepted, uncommitted]

end Handover

theorem State.handedOver_spec {s : State} {o : SealOffer} (lt : o.taker < 2) : let t := s.handedOver o
    t.get .STW_SEAL_HOLDER = o.taker ∧ t.get .STW_SEAL_SEQ = (s.get .STW_SEAL_SEQ + 1) % 2 ^ 32 ∧ t.get .STW_SEAL_STATE = 0 ∧ t.stw.offer = none ∧
      t.stw.holds = [(o.taker, (s.get .STW_SEAL_SEQ + 1) % 2 ^ 32)] ∧ t.mem = s.mem ∧ t.cores = s.cores := by
  intro t
  obtain ⟨holder, seq, state, stw, mem, cores, -⟩ := (s.setOffer none).sealTo_spec o.taker ((s.sealSeq + 1) % 2 ^ 32)
  obtain ⟨-, ⟨stw', mem', cores', get'⟩, -⟩ := ((s.setOffer none).sealTo o.taker ((s.sealSeq + 1) % 2 ^ 32)).logMoves_spec o.taker
  rw [Nat.mod_mod] at seq stw
  rw [stw] at stw'
  refine ⟨?_, ?_, ?_, ?_, ?_, mem'.trans mem, cores'.trans cores⟩
  · exact (get' _ 0 0 (by decide)).trans (holder.trans (Nat.mod_eq_of_lt lt))
  · exact (get' _ 0 0 (by decide)).trans seq
  · exact (get' _ 0 0 (by decide)).trans state
  · exact congrArg SealSt.offer stw'
  · exact congrArg SealSt.holds stw'

/-- Settles O26: the request, each step of an open offer, and no offer, by the lemma of each. -/
theorem sealHandover : Obligations.SealHandover := by
  unfold Obligations.SealHandover
  refine ⟨fun s state => ⟨fun whole str => ⟨?_, fun link half calm idle lt other => ?_⟩, fun whole str => ?_, fun other => ?_⟩, fun s o open_ =>
    ⟨exec_sealOfferReceive_gets open_, exec_sealAccept_accepts open_, exec_sealAcceptReceive_commits open_, exec_sealCommitReceive_keeps open_,
      fun h at_ => ⟨exec_sealHandover_early open_ at_, fun due lt => ?_⟩, exec_sealOfferTimeout_ends open_, fun a accepted uncommitted => ?_⟩,
    fun s none c hc => ?_⟩
  · exact ⟨_, congrArg Host.Outcome.next (State.sealOffer_offers state whole false str), State.get_set_self .., rfl, rfl⟩
  · exact ⟨_, rfl, State.sealGrant_spec link whole calm lt state other str idle⟩
  · exact congrArg _ (State.sealOffer_str state whole false str)
  · exact congrArg _ (State.sealOffer_absent state false other)
  · have logged (f : Field) : (((s.handedOver o).log' (sealSrc (1 - o.taker)) 0xb031 0 (handoverFields s o h)).log' (sealSrc o.taker) 0xb031 0
        (handoverFields s o h)).get f = (s.handedOver o).get f := by
      rw [State.log'_get_other _ _ _ _ _ _ _ _ (by decide), State.log'_get_other _ _ _ _ _ _ _ _ (by decide)]
    refine ⟨_, exec_sealHandover_due open_ at_ due, ?_⟩
    simp only [logged, State.log'_stw, State.log'_mem, State.log'_cores]
    exact State.handedOver_spec lt
  · rw [exec_sealCommitTimeout open_ accepted uncommitted]
    exact ⟨fun early => congrArg _ (if_pos early), fun late => congrArg _ (if_neg (by omega))⟩
  · simp only [List.mem_cons, List.not_mem_nil, or_false] at hc
    obtain rfl | rfl | rfl | rfl | rfl := hc <;> exact congrArg Host.Outcome.next (State.onOffer_none _ none)

/-! ### A dispute opens (R412) -/

theorem State.sealDispute_calm {s : State} (h : s.stw.dispute.isSome = true ∨ s.sealHolds 0 = none ∨ s.sealHolds 1 = none) : s.sealDispute = s := by
  unfold State.sealDispute
  split
  next w e holdsW holdsE =>
    obtain opened | no | no := h
    · exact if_pos (.inr opened)
    · rw [holdsW] at no
      cases no
    · rw [holdsE] at no
      cases no
  next => rfl

/-- The state of a dispute that opens. -/
def State.disputed (s : State) (w e : Nat) : State :=
  (((s.mapSeal fun x => { x with dispute := some ⟨s.now, w, e, none, 0, none, false⟩, offer := none }).set .STW_SEAL_STATE 2).emit
    (.sealFreeze (s.now + 4))).irq 2

section Opens
variable {s : State} {w e : Nat} (holdsW : s.sealHolds 0 = some w) (holdsE : s.sealHolds 1 = some e) (differ : w ≠ e) (calm : s.stw.dispute = none)
include holdsW holdsE differ calm

theorem State.sealDispute_opens (unit : s.sealUnit 0 = true) : s.sealDispute = s.disputed w e := by
  simp only [State.sealDispute, holdsW, holdsE]
  rw [if_neg (by simp [differ, calm]), if_neg (by simp [unit])]
  rfl

theorem State.sealDispute_unopposed (unit : s.sealUnit 0 = false) : s.sealDispute = s.sealTo 1 e := by
  simp only [State.sealDispute, holdsW, holdsE]
  rw [if_neg (by simp [differ, calm]), if_pos (by simp [unit])]

end Opens

theorem State.disputed_spec (s : State) (w e : Nat) : let t := s.disputed w e
    t.get .STW_SEAL_STATE = 2 ∧ t.stw.dispute = some ⟨s.now, w, e, none, 0, none, false⟩ ∧ t.stw.offer = none ∧ t.stw.holds = s.stw.holds ∧
      .sealFreeze (s.now + 4) ∈ t.out ∧ bit (t.get .GLB_IRQ_STATUS_SRC) 2 = true ∧ t.mem = s.mem ∧ t.cores = s.cores := by
  have stw : (s.disputed w e).stw = { s.stw with dispute := some ⟨s.now, w, e, none, 0, none, false⟩, offer := none } := State.irq_stw ..
  refine ⟨?_, congrArg SealSt.dispute stw, congrArg SealSt.offer stw, by rw [stw], State.irq_out _ _ _ _ List.mem_cons_self,
    State.irq_bit _ _ _ (by decide), State.irq_mem .., State.irq_cores ..⟩
  exact (State.irq_same _ _ _ _ _ _ (by decide)).trans (State.get_set_self ..)

/-! ### The other unit's claim arrives (R409, R410, R412) -/

/-- What a unit notes of the other's claim. -/
def State.claimHeard (s : State) (half : Nat) : State :=
  s.mapSeal fun x => { x with seen := half :: x.seen.filter (· != half), heard := KMap.set x.heard half s.beat.edges }

theorem exec_sealClaimReceive_free {s : State} {half : Nat} (q : Nat) (unit : s.sealUnit half = true) (none : s.sealHolds half = none) :
    exec (.sealClaimReceive half q) s = .next (s.claimHeard half) := by
  have heard : (s.claimHeard half).sealHolds half = .none := none
  refine (if_neg (by simp [unit])).trans (congrArg Host.Outcome.next ?_)
  rw [State.claimHeard] at heard ⊢
  simp only [heard]

theorem exec_sealClaimReceive_opposed {s : State} {half q own : Nat} (unit : s.sealUnit half = true) (holds : s.sealHolds half = some own)
    (differ : own ≠ q) (alone : s.sealHolds (1 - half) = none) : exec (.sealClaimReceive half q) s =
      .next ((s.claimHeard half).mapSeal fun x => { x with holds := (1 - half, q) :: x.holds }).sealDispute := by
  have heard : (s.claimHeard half).sealHolds half = some own := holds
  have other : ((s.claimHeard half).sealHolds (1 - half)).isSome = false := by
    rw [show (s.claimHeard half).sealHolds (1 - half) = none from alone]
    rfl
  refine (if_neg (by simp [unit])).trans (congrArg Host.Outcome.next ?_)
  rw [State.claimHeard] at heard other ⊢
  simp only [heard, other]
  rw [if_neg differ]
  rfl

/-- The holding that the claim adds is its own half's; the other half's is as it was. -/
theorem State.sealHolds_added {s : State} {half q own : Nat} (lt : half < 2) (holds : s.sealHolds half = some own) :
    let y := (s.claimHeard half).mapSeal fun x => { x with holds := (1 - half, q) :: x.holds }
    y.sealHolds 0 = some (if half = 0 then own else q) ∧ y.sealHolds 1 = some (if half = 0 then q else own) := by
  have cases_ : half = 0 ∨ half = 1 := by omega
  obtain rfl | rfl := cases_ <;> simpa [State.sealHolds, State.mapSeal, State.claimHeard] using holds

/-! ### The decision (R412, R413) -/

theorem State.sealTo_get (s : State) (half seq : Nat) (f : Field) (u i : Nat) (h : f ∉ [Field.STW_SEAL_HOLDER, .STW_SEAL_SEQ, .STW_SEAL_STATE,
    .STW_STATUS_HALF_W, .STW_STATUS_HALF_E, .GLB_IRQ_ROUTE_LOST, .GLB_IRQ_STATUS_SRC]) : (s.sealTo half seq).get f u i = s.get f u i := by
  simp only [List.mem_cons, List.not_mem_nil, or_false, not_or] at h
  obtain ⟨holder, seqF, state, halfW, halfE, lost, src⟩ := h
  have inner : ∀ y : State, (((y.set .STW_SEAL_HOLDER half).set .STW_SEAL_SEQ seq).set .STW_SEAL_STATE 0).syncComplex.get f u i = y.get f u i := by
    intro y
    rw [State.syncComplex_get _ _ _ _ halfW halfE, State.get_set_ne _ _ _ _ _ _ _ _ (.inl state), State.get_set_ne _ _ _ _ _ _ _ _ (.inl seqF),
      State.get_set_ne _ _ _ _ _ _ _ _ (.inl holder)]
  unfold State.sealTo
  simp only []
  split
  · rw [State.irq_same _ _ _ _ _ _ ⟨lost, src⟩, inner, State.mapSeal_get]
  · rw [inner, State.mapSeal_get]

/-- What the decision of a dispute for half w leaves. -/
def wonBy (s t : State) (x : SealDispute) (w : Nat) : Prop :=
  t.get .STW_SEAL_HOLDER = w ∧ t.get .STW_SEAL_SEQ = (max x.seqW x.seqE + 1) % 2 ^ 32 ∧ t.get .STW_SEAL_STATE = 0 ∧
    (∃ y, t.stw.dispute = some y ∧ y.r = some s.now ∧ y.winner = w) ∧ (if w = 0 then t.get .STW_STATUS_HALF_E else t.get .STW_STATUS_HALF_W) = 5 ∧
    t.mem = s.mem ∧ t.cores = s.cores

/-- The state of a decided dispute, before the log moves: the winner holds the seal, and the loser's complex is in its reset. -/
def State.decided (s : State) (x : SealDispute) (w : Nat) (grant : Option Nat) : State :=
  let y := s.sealTo w (max x.seqW x.seqE + 1)
  let z := (y.mapSeal fun h => { h with dispute := some { x with r := some y.now, winner := w, grant := grant } }).setComplex (1 - w) 5
  { z with rst := { z.rst with verified := z.rst.verified.filter (· == w), booted := z.rst.booted.filter (· == w) } }

theorem State.setComplex_same (s : State) (half v : Nat) : (s.setComplex half v).stw = s.stw ∧ (s.setComplex half v).mem = s.mem ∧
    (s.setComplex half v).cores = s.cores ∧ ∀ f u i, f ≠ .STW_STATUS_HALF_W ∧ f ≠ .STW_STATUS_HALF_E → (s.setComplex half v).get f u i = s.get f u i := by
  unfold State.setComplex
  split
  · exact ⟨rfl, rfl, rfl, fun f u i h => State.get_set_ne _ _ _ _ _ _ _ _ (.inl h.1)⟩
  · exact ⟨rfl, rfl, rfl, fun f u i h => State.get_set_ne _ _ _ _ _ _ _ _ (.inl h.2)⟩

theorem State.decided_spec (s : State) (x : SealDispute) {w : Nat} (grant : Option Nat) (lt : w < 2) : wonBy s (s.decided x w grant) x w := by
  obtain ⟨holder, seq, state, stw, mem, cores, -⟩ := s.sealTo_spec w (max x.seqW x.seqE + 1)
  have now : (s.sealTo w (max x.seqW x.seqE + 1)).now = s.now := s.sealTo_get w (max x.seqW x.seqE + 1) .BEAT_NOW_COUNT 0 0 (by decide)
  obtain ⟨stw', mem', cores', get'⟩ := ((s.sealTo w (max x.seqW x.seqE + 1)).mapSeal fun h =>
    { h with dispute := some { x with r := some (s.sealTo w (max x.seqW x.seqE + 1)).now, winner := w, grant := grant } }).setComplex_same (1 - w) 5
  refine ⟨?_, ?_, ?_, ⟨_, congrArg SealSt.dispute stw', congrArg some now, rfl⟩, ?_, mem'.trans mem, cores'.trans cores⟩
  · exact (get' _ 0 0 (by decide)).trans (holder.trans (Nat.mod_eq_of_lt lt))
  · exact (get' _ 0 0 (by decide)).trans seq
  · exact (get' _ 0 0 (by decide)).trans state
  · have cases_ : w = 0 ∨ w = 1 := by omega
    obtain rfl | rfl := cases_
    · exact State.get_set_self ..
    · exact State.get_set_self ..

section Decision
variable {s : State} {x : SealDispute} (open_ : s.stw.dispute = some x) (undecided : x.r = none)
include open_ undecided

theorem State.sealResolve_moves (w : Nat) (grant : Option Nat) : s.sealResolve w grant = (s.decided x w grant).logMove w := by
  simp only [State.sealResolve, open_, undecided]
  rfl

theorem State.sealResolve_wins {w : Nat} (grant : Option Nat) (lt : w < 2) : wonBy s (s.sealResolve w grant) x w := by
  obtain ⟨holder, seq, state, won, loser, mem, cores⟩ := s.decided_spec x grant lt
  obtain ⟨-, ⟨stw', mem', cores', get'⟩, -⟩ := (s.decided x w grant).logMoves_spec w
  rw [State.sealResolve_moves open_ undecided]
  refine ⟨(get' _ 0 0 (by decide)).trans holder, (get' _ 0 0 (by decide)).trans seq, (get' _ 0 0 (by decide)).trans state, stw' ▸ won, ?_,
    mem'.trans mem, cores'.trans cores⟩
  rw [get' _ 0 0 (by decide), get' _ 0 0 (by decide)]
  exact loser

theorem State.sealGrant_decides (link : Nat) (whole : s.ident.member = .a8) (half : Nat) (alsoB : Option Nat) :
    s.sealGrant link half alsoB = let y := (s.set .STW_SEAL_GRANT_VALID 1).set .STW_SEAL_GRANT_HALF (match alsoB with | some b => b % 2 | none => half % 2)
      y.sealResolve (match alsoB with | some b => b % 2 | none => half % 2) (some (match alsoB with | some _ => 1 | none => link)) := by
  cases alsoB <;> simp [State.sealGrant, whole, open_, undecided]

theorem exec_sealDisputeTimeout_undecided : exec .sealDisputeTimeout s =
    .next (if x.d + ceilDiv 50000000 s.period ≤ s.now then s.sealResolve 0 none else s) := by
  refine congrArg Host.Outcome.next ?_
  simp only [open_, undecided]
  simp

theorem exec_sealDisputeFreezeEnd_undecided : exec .sealDisputeFreezeEnd s = .next s := by
  refine congrArg Host.Outcome.next ?_
  simp only [open_, undecided]

end Decision

/-! ### The freeze ends (R412) -/

theorem State.emits_out (l : List Msg) (s : State) : let t := l.foldl (fun s m => s.emit (.pkg m)) s
    t.out = (l.map Out.pkg).reverse ++ s.out ∧ t.stw = s.stw ∧ t.log = s.log ∧ t.mem = s.mem ∧ t.cores = s.cores := by
  induction l generalizing s with
  | nil => exact ⟨rfl, rfl, rfl, rfl, rfl⟩
  | cons m l ih =>
    obtain ⟨out, rest⟩ := ih (s.emit (.pkg m))
    refine ⟨?_, rest⟩
    rw [List.foldl_cons, out, State.emit_out]
    simp

/-- What both units log of a dispute. -/
def disputeFields (x : SealDispute) (r : Nat) : List (Nat × Nat) :=
  [(8, x.d), (8, r), (1, x.winner), (1, if x.grant.isSome then 0 else 1), (1, x.grant.getD 0), (4, x.seqW), (4, x.seqE)]

section FreezeEnd
variable {s : State} {x : SealDispute} {r : Nat} (open_ : s.stw.dispute = some x) (decided : x.r = some r)
include open_ decided

theorem exec_sealDisputeTimeout_decided : exec .sealDisputeTimeout s = .next s := by
  refine congrArg Host.Outcome.next ?_
  simp only [open_, decided]
  simp

theorem exec_sealDisputeFreezeEnd_early (early : s.now < r + 4) : exec .sealDisputeFreezeEnd s = .next s := by
  refine congrArg Host.Outcome.next ?_
  simp only [open_, decided]
  exact if_pos early

theorem exec_sealDisputeFreezeEnd_due (due : r + 4 ≤ s.now) (noOut : s.stw.heldOut = []) :
    let y := s.stw.heldPkg.foldl (fun s m => s.emit (.pkg m)) (s.mapSeal fun h => { h with dispute := none, heldPkg := [], heldOut := [] })
    exec .sealDisputeFreezeEnd s = .next ((y.log' (sealSrc 0) 0xb033 2 (disputeFields x r)).log' (sealSrc 1) 0xb033 2 (disputeFields x r)) := by
  refine congrArg Host.Outcome.next ?_
  simp only [open_, decided, noOut]
  exact if_neg (by omega)

end FreezeEnd

/-- Settles O27: opening, the other unit's claim, the decision and the end, by the lemma of each. -/
theorem sealDisputes : Obligations.SealDisputes := by
  unfold Obligations.SealDisputes
  refine ⟨fun s w e holdsW holdsE differ calm => ⟨fun unit => ?_, fun unit => ?_⟩, fun s h => congrArg _ (State.sealDispute_calm h),
    fun s half q own lt unit unitW holds differ alone calm => ?_, fun s half q unit none => ?_, fun s x open_ undecided => ?_,
    fun s x r open_ decided => ?_⟩
  · exact ⟨_, congrArg Host.Outcome.next (State.sealDispute_opens holdsW holdsE differ calm unit), s.disputed_spec w e⟩
  · exact congrArg _ (State.sealDispute_unopposed holdsW holdsE differ calm unit)
  · obtain ⟨holdsW, holdsE⟩ := State.sealHolds_added (q := q) lt holds
    have apart : (if half = 0 then own else q) ≠ (if half = 0 then q else own) := by split <;> [exact differ; exact differ.symm]
    obtain ⟨state, dispute, -, holds', -, -, mem, cores⟩ := State.disputed_spec
      ((s.claimHeard half).mapSeal fun x => { x with holds := (1 - half, q) :: x.holds }) (if half = 0 then own else q) (if half = 0 then q else own)
    exact ⟨_, (exec_sealClaimReceive_opposed unit holds differ alone).trans
      (congrArg _ (State.sealDispute_opens holdsW holdsE apart calm unitW)), state, by rw [dispute]; rfl, holds', mem, cores⟩
  · exact ⟨_, exec_sealClaimReceive_free q unit none, List.mem_cons_self, rfl, rfl, rfl⟩
  · have granted (half : Nat) : ((s.set .STW_SEAL_GRANT_VALID 1).set .STW_SEAL_GRANT_HALF half).now = s.now := by simp [State.now]
    intro wins
    have decides (half : Nat) (lt : half < 2) (grant : Option Nat) :
        wins (((s.set .STW_SEAL_GRANT_VALID 1).set .STW_SEAL_GRANT_HALF half).sealResolve half grant) half := by
      have := State.sealResolve_wins (s := (s.set .STW_SEAL_GRANT_VALID 1).set .STW_SEAL_GRANT_HALF half) open_ undecided grant lt
      rwa [wonBy, granted] at this
    refine ⟨fun whole link half lt => ⟨⟨_, congrArg Host.Outcome.next (State.sealGrant_decides open_ undecided link whole half none), ?_⟩, fun b ltB =>
      ⟨_, congrArg Host.Outcome.next (State.sealGrant_decides open_ undecided link whole half (some b)), ?_⟩⟩, fun late => ?_, fun early => ?_,
      exec_sealDisputeFreezeEnd_undecided open_ undecided⟩
    · simp only [Nat.mod_eq_of_lt lt]
      exact decides half lt _
    · simp only [Nat.mod_eq_of_lt ltB]
      exact decides b ltB _
    · exact ⟨_, (exec_sealDisputeTimeout_undecided open_ undecided).trans (congrArg _ (if_pos late)),
        State.sealResolve_wins open_ undecided none (by decide)⟩
    · exact (exec_sealDisputeTimeout_undecided open_ undecided).trans (congrArg _ (if_neg (by omega)))
  · refine ⟨exec_sealDisputeTimeout_decided open_ decided, exec_sealDisputeFreezeEnd_early open_ decided, fun due noOut => ?_⟩
    obtain ⟨out, stw, log, mem, cores⟩ := State.emits_out s.stw.heldPkg (s.mapSeal fun h => { h with dispute := none, heldPkg := [], heldOut := [] })
    refine ⟨_, exec_sealDisputeFreezeEnd_due open_ decided due noOut, ?_, ?_, ?_, ?_, ?_, ?_⟩
    · rw [State.log'_stw, State.log'_stw, stw]
      rfl
    · rw [State.log'_stw, State.log'_stw, stw]
      rfl
    · rw [State.log'_out_other _ _ _ _ _ (by decide), State.log'_out_other _ _ _ _ _ (by decide), out]
      rfl
    · rw [State.log'_log, State.log'_log, halfOfSrc_sealSrc (by decide), halfOfSrc_sealSrc (by decide)]
      exact ⟨_, _, _, List.append_assoc .., rfl, rfl, rfl, rfl⟩
    · rw [State.log'_mem, State.log'_mem, mem]
      rfl
    · rw [State.log'_cores, State.log'_cores, cores]
      rfl

end Sys2Proof.Machine

/-! Clocks: the reference monitor, the gating tree and DBG_CLKOUT (O28). -/
namespace Sys2Proof.Machine
open Sys2Proof

/-! ### The reference monitor (R420 to R422) -/

section Monitor
variable {s : State} {half : Nat} (present : s.monitorOk half = true)
include present

theorem exec_watchCalibrationComplete (count : Nat) : let y := (s.set .CLK_MON_CAL (count % 2 ^ 32)).set .CLK_STATUS_REF_OK 1
    exec (.watchCalibrationComplete half count) s = .next (if s.get .RST_STATUS_STAGE = 0 then y.set .RST_STATUS_STAGE 1 else y) := by
  refine (onUnit_present present).trans (congrArg Host.Outcome.next ?_)
  simp

theorem exec_refMonitorWindow_off (count : Nat) (off : s.get .CLK_MON_CAL = 0) : exec (.refMonitorWindow half count) s = .next s :=
  (onUnit_present present).trans (if_pos off)

theorem exec_refMissingEdge_off (off : s.get .CLK_MON_CAL = 0) : exec (.refMissingEdge half) s = .next s :=
  (onUnit_present present).trans (congrArg _ (if_pos off))

variable (on : s.get .CLK_MON_CAL ≠ 0)

include on in
theorem exec_refMissingEdge_on : exec (.refMissingEdge half) s = .next (s.refFault half 1) := (onUnit_present present).trans (congrArg _ (if_neg on))

/-- A window's count differs from CAL / 16 by more than 2 %. -/
def windowOff (cal count : Nat) : Prop := 2 * cal < 100 * (16 * count - cal) ∨ 2 * cal < 100 * (cal - 16 * count)

include on in
theorem exec_refMonitorWindow_on (count : Nat) [Decidable (windowOff (s.get .CLK_MON_CAL) count)] : exec (.refMonitorWindow half count) s =
    .next (if windowOff (s.get .CLK_MON_CAL) count then (s.set .CLK_MON_LAST (count % 65536)).refFault half 0 else s.set .CLK_MON_LAST (count % 65536)) := by
  have exact_ : 2 * s.get .CLK_MON_CAL < 100 * (if 16 * count < s.get .CLK_MON_CAL then s.get .CLK_MON_CAL - 16 * count else 16 * count - s.get .CLK_MON_CAL) ↔
      windowOff (s.get .CLK_MON_CAL) count := by
    unfold windowOff
    split <;> omega
  refine (onUnit_present present).trans ((if_neg on).trans (congrArg _ ?_))
  exact if_congr exact_ rfl rfl

theorem exec_refRecovered_off (off : s.get .CLK_STATUS_FALLBACK = 0) : exec (.refRecovered half) s = .next s :=
  (onUnit_present present).trans (congrArg _ (if_pos off))

theorem exec_refRecovered_on (on : s.get .CLK_STATUS_FALLBACK = 1) : exec (.refRecovered half) s =
    .next (((s.set .CLK_STATUS_FALLBACK 0).set .CLK_STATUS_REF_OK 1).log' (srcHub (2 * half) 7) 0x1002 1
      [(8, s.now - s.clk.fallBeat)]) :=
  (onUnit_present present).trans (congrArg _ (if_neg fun off : s.get .CLK_STATUS_FALLBACK = 0 => by rw [on] at off; cases off))

end Monitor

theorem State.refFault_again {s : State} (half cause : Nat) (on : s.get .CLK_STATUS_FALLBACK = 1) : s.refFault half cause = s := if_pos on

/-! ### The gating tree (R424) -/

theorem exec_clkGate (s : State) (a : Agent) {n : Nat} (lt : n < 65536) : exec (.clkGate a n) s = .next (s.gate n) :=
  congrArg (fun n => Host.Outcome.next (s.gate n)) (Nat.mod_eq_of_lt lt)

theorem exec_clkUngate (s : State) (a : Agent) {n : Nat} (lt : n < 65536) : exec (.clkUngate a n) s = .next (s.ungate n) :=
  congrArg (fun n => Host.Outcome.next (s.ungate n)) (Nat.mod_eq_of_lt lt)

/-- An operation that ends shows its status; only a refusal is logged. -/
theorem State.gateDone_spec (s : State) (node st blocker : Nat) : let t := s.gateDone node st blocker
    t.get .CLK_GATE_RES_DONE = 1 ∧ t.get .CLK_GATE_RES_STATUS = st % 2 ^ Field.CLK_GATE_RES_STATUS.width ∧ t.get .CLK_GATE_RES_BLOCKER = blocker % 65536 ∧
      t.clk = s.clk ∧ t.mem = s.mem ∧ t.cores = s.cores ∧ (st = 0 → t.log = s.log) := by
  have ended (f : Field) : (s.gateDone node st blocker).get f =
      (((s.set .CLK_GATE_RES_DONE 1).set .CLK_GATE_RES_STATUS st).set .CLK_GATE_RES_BLOCKER blocker).get f := by
    unfold State.gateDone
    simp only []
    split
    · rfl
    · exact State.log'_get_other _ _ _ _ _ _ _ _ (by decide)
  refine ⟨?_, ?_, ?_, ?_⟩
  · rw [ended, State.get_set_ne _ _ _ _ _ _ _ _ (.inl (by decide)), State.get_set_ne _ _ _ _ _ _ _ _ (.inl (by decide))]
    exact State.get_set_self ..
  · rw [ended, State.get_set_ne _ _ _ _ _ _ _ _ (.inl (by decide))]
    exact State.get_set_self ..
  · rw [ended]
    exact State.get_set_self ..
  · unfold State.gateDone
    simp only []
    split
    · exact ⟨rfl, rfl, rfl, fun _ => rfl⟩
    · exact ⟨State.log'_clk .., State.log'_mem .., State.log'_cores .., fun ok => absurd ok (by assumption)⟩

section Gate
variable {s : State} {n : Nat}

theorem State.gate_node (no : s.nodeOk n = false) : s.gate n = s.gateDone n 3 0 := if_pos (by simp [no])

theorem State.ungate_node (no : s.nodeOk n = false) : s.ungate n = s.gateDone n 3 0 := if_pos (by simp [no])

variable (node : s.nodeOk n = true)
include node

theorem State.gate_spare (clu : n / 4096 = 2) (spare : s.get .DCTL_CLMAP_SPARE (n % 4096 / 512) = n % 512 / 32) : s.gate n = s.gateDone n 2 0 :=
  (if_neg (by simp [node])).trans (if_pos ⟨clu, spare⟩)

theorem State.gate_own (own : n / 4096 ≠ 2 ∨ s.get .DCTL_CLMAP_SPARE (n % 4096 / 512) ≠ n % 512 / 32) : s.gate n =
    match (s.nodesUnder n).find? s.leafBusy with
    | some b => s.gateDone n 1 b
    | none => ({ s with clk := { s.clk with gates := if s.clk.gates.contains n then s.clk.gates else n :: s.clk.gates } } : State).gateDone n 0 0 :=
  (if_neg (by simp [node])).trans (if_neg (by tauto))

theorem State.ungate_parent (gated : (nodeParent n).any s.clk.gates.contains = true) : s.ungate n = s.gateDone n 4 0 :=
  (if_neg (by simp [node])).trans (if_pos gated)

theorem State.ungate_free (free : (nodeParent n).any s.clk.gates.contains = false) :
    s.ungate n = ({ s with clk := { s.clk with gates := s.clk.gates.filter (· != n) } } : State).gateDone n 0 0 :=
  (if_neg (by simp [node])).trans (if_neg (by simp [free]))

end Gate

/-! ### DBG_CLKOUT (R426) -/

section Debug
variable {s : State} (a : Agent) {v : Word}

theorem exec_clkDbgWrite_takes {f : Nat} (clock : s.dbgClock (bits v.toNat 7 0) = some f) (div : bits v.toNat 23 8 ≠ 0)
    (slow : f ≤ 250000 * (bits v.toNat 23 8 + 1)) : exec (.clkDbgWrite a v) s =
      .next (((s.set .CLK_DBG_REFUSED 0).set .CLK_DBG_DIV (bits v.toNat 23 8)).set .CLK_DBG_SEL (bits v.toNat 7 0)) := by
  refine congrArg Host.Outcome.next ?_
  simp only [State.dbgWrite, clock]
  exact if_neg (by omega)

theorem exec_clkDbgWrite_refuses {f : Nat} (clock : s.dbgClock (bits v.toNat 7 0) = some f)
    (h : bits v.toNat 23 8 = 0 ∨ 250000 * (bits v.toNat 23 8 + 1) < f) : exec (.clkDbgWrite a v) s = .next (s.set .CLK_DBG_REFUSED 1) := by
  refine congrArg Host.Outcome.next ?_
  simp only [State.dbgWrite, clock]
  exact if_pos h

theorem exec_clkDbgWrite_reserved (none : s.dbgClock (bits v.toNat 7 0) = none) : exec (.clkDbgWrite a v) s = .next (s.set .CLK_DBG_REFUSED 1) := by
  refine congrArg Host.Outcome.next ?_
  simp only [State.dbgWrite, none]

end Debug

/-- Settles O28: the monitor, the tree and the debug clock, by the lemma of each case. -/
theorem clocksAreMonitoredGatedAndShown : Obligations.ClocksAreMonitoredGatedAndShown := by
  unfold Obligations.ClocksAreMonitoredGatedAndShown
  refine ⟨fun s half count present => ⟨?_, fun off => ⟨exec_refMonitorWindow_off present count off, exec_refMissingEdge_off present off⟩, fun on =>
    ⟨fun low high => ?_, fun off => ?_, exec_refMissingEdge_on present on⟩, exec_refRecovered_off present, fun on => ⟨fun c => State.refFault_again half c on, ?_⟩⟩,
    fun s a n lt => ?_, fun s a v f clock => ⟨fun div slow => ?_, exec_clkDbgWrite_refuses a clock⟩, fun s a v => exec_clkDbgWrite_reserved a⟩
  · refine ⟨_, exec_watchCalibrationComplete present count, ?_⟩
    have cal : count % 2 ^ 32 % 2 ^ Field.CLK_MON_CAL.width = count % 2 ^ 32 := Nat.mod_mod ..
    have one : 1 % 2 ^ Field.CLK_STATUS_REF_OK.width = 1 := rfl
    have stage : 1 % 2 ^ Field.RST_STATUS_STAGE.width = 1 := rfl
    split
    next zero =>
      refine ⟨by simpa using cal, by simp [one], by simp [stage], rfl, rfl, fun f u i hf => ?_⟩
      simp only [List.mem_cons, List.not_mem_nil, or_false, not_or] at hf
      simp [hf]
    next later =>
      refine ⟨by simpa using cal, by simp [one], by simp, rfl, rfl, fun f u i hf => ?_⟩
      simp only [List.mem_cons, List.not_mem_nil, or_false, not_or] at hf
      simp [hf]
  · classical
    rw [exec_refMonitorWindow_on present on]
    exact congrArg _ (if_neg (by unfold windowOff; omega))
  · classical
    rw [exec_refMonitorWindow_on present on]
    exact congrArg _ (if_pos off)
  · refine ⟨_, exec_refRecovered_on present on, ?_, ?_, State.log'_clk .., State.log'_mem .., State.log'_cores ..⟩ <;>
      rw [State.log'_get_other _ _ _ _ _ _ _ _ (by decide)]
    · rw [State.get_set_ne _ _ _ _ _ _ _ _ (.inl (by decide))]
      exact State.get_set_self ..
    · exact State.get_set_self ..
  · have done (y : State) (st blocker : Nat) := y.gateDone_spec n st blocker
    refine ⟨fun no c hc => ?_, fun node => ⟨fun clu spare => ?_, fun own => ⟨fun b busy => ?_, fun free => ?_⟩, fun gated => ?_, fun free => ?_⟩⟩
    · obtain ⟨raised, status, -, clk, -⟩ := done s 3 0
      simp only [List.mem_cons, List.not_mem_nil, or_false] at hc
      obtain rfl | rfl := hc
      · exact ⟨_, (exec_clkGate s a lt).trans (congrArg _ (State.gate_node no)), raised, status, clk⟩
      · exact ⟨_, (exec_clkUngate s a lt).trans (congrArg _ (State.ungate_node no)), raised, status, clk⟩
    · obtain ⟨raised, status, -, clk, -⟩ := done s 2 0
      exact ⟨_, (exec_clkGate s a lt).trans (congrArg _ (State.gate_spare node clu spare)), raised, status, clk⟩
    · obtain ⟨raised, status, blocker, clk, -⟩ := done s 1 b
      exact ⟨_, (exec_clkGate s a lt).trans (congrArg _ (by rw [State.gate_own node own, busy])), raised, status, blocker, clk⟩
    · obtain ⟨raised, status, -, clk, mem, cores, log⟩ :=
        done ({ s with clk := { s.clk with gates := if s.clk.gates.contains n then s.clk.gates else n :: s.clk.gates } } : State) 0 0
      have gates (m : Nat) : m ∈ (if s.clk.gates.contains n then s.clk.gates else n :: s.clk.gates) ↔ m = n ∨ m ∈ s.clk.gates := by
        split
        next there => exact ⟨.inr, fun h => h.elim (fun same => same ▸ List.contains_iff_mem.mp there) id⟩
        next => exact List.mem_cons
      refine ⟨_, (exec_clkGate s a lt).trans (congrArg _ (by rw [State.gate_own node own, free])), raised, status, ?_, fun m => ?_, mem, cores, log rfl⟩
      · rw [clk]
        exact (gates n).mpr (.inl rfl)
      · rw [clk]
        exact gates m
    · obtain ⟨raised, status, -, clk, -⟩ := done s 4 0
      exact ⟨_, (exec_clkUngate s a lt).trans (congrArg _ (State.ungate_parent node gated)), raised, status, clk⟩
    · obtain ⟨raised, status, -, clk, mem, cores, log⟩ := done ({ s with clk := { s.clk with gates := s.clk.gates.filter (· != n) } } : State) 0 0
      refine ⟨_, (exec_clkUngate s a lt).trans (congrArg _ (State.ungate_free node free)), raised, status, ?_, fun m other => ?_, mem, cores, log rfl⟩
      · simp [clk]
      · simp [clk, other]
  · have sel : bits v.toNat 7 0 % 2 ^ Field.CLK_DBG_SEL.width = bits v.toNat 7 0 := Nat.mod_mod ..
    have rate : bits v.toNat 23 8 % 2 ^ Field.CLK_DBG_DIV.width = bits v.toNat 23 8 := Nat.mod_mod ..
    exact ⟨_, exec_clkDbgWrite_takes a clock div slow, by simp, by simpa using sel, by simpa using rate, rfl⟩

end Sys2Proof.Machine

/-! The host links and the management ports (O24). -/
namespace Sys2Proof.Machine
open Sys2Proof

/-! ### BAR2 and atomics (R399, R401) -/

section Bar2
variable {s : State} {link : Nat} (present : s.linkOk link = true)

theorem State.bar2_early {off kind : Nat} {bs : List Byte} (early : s.get .RST_STATUS_READY = 0) :
    s.bar2 link off kind bs = s.emit (.answer (.host link) false []) := if_pos early

theorem State.bar2_awake {off kind : Nat} {bs : List Byte} (ready : s.get .RST_STATUS_READY ≠ 0) (steady : s.clk.entering = none)
    (awake : s.get .PWR_STATE_CURRENT < 2) : s.bar2 link off kind bs = s.memAcc (.host link) (s.bar2Da link off) kind bs := by
  refine (if_neg ready).trans ?_
  rw [(s.wake_spec 3 steady).1 (.inl awake)]

include present

theorem exec_bar2Access (off : Nat) (w : Bool) (bs : List Byte) : exec (.bar2Access link off w bs) s = .next (s.bar2 link off (b2n w) bs) :=
  onUnit_present present

theorem exec_hostAtomic_misaligned {off : Nat} (kind : Nat) (x y : Word) (h : off % 8 ≠ 0) :
    exec (.hostAtomic link off kind x y) s = .next (s.emit (.answer (.host link) false [])) :=
  (onUnit_present present).trans (congrArg _ (if_pos (.inl h)))

theorem exec_hostAtomic_aligned {off kind : Nat} (x y : Word) (h : off % 8 = 0) (known : kind ≤ 2) :
    exec (.hostAtomic link off kind x y) s = .next (s.bar2 link off (kind + 2) (leBytes 8 x.toNat ++ leBytes 8 y.toNat)) :=
  (onUnit_present present).trans (congrArg _ (if_neg (by omega)))

/-! ### Configuration space (R401, R494) -/

theorem exec_hostConfigAccess (reg : CfgReg) (val : Option Nat) (on : s.get .RST_STATUS_STAGE > 1 ∨ s.get .RST_STATUS_LAST_KIND ≠ 0) :
    exec (.hostConfigAccess link reg val) s = .next (match val with
      | none => s.emit (.answer (.host link) true (leBytes 4 (s.cfgRead link reg)))
      | some v => (s.cfgWrite link reg v).emit (.answer (.host link) true [])) :=
  (onUnit_present present).trans (congrArg _ (if_neg (by omega)))

omit present

/-- A configuration write moves the bases and sizes of the link's function alone. -/
theorem State.cfgWrite_frame (reg : CfgReg) (v : Nat) : (s.cfgWrite link reg v).flds = s.flds ∧ (s.cfgWrite link reg v).mem = s.mem ∧
    (s.cfgWrite link reg v).ident = s.ident ∧ (s.cfgWrite link reg v).out = s.out := by
  unfold State.cfgWrite
  cases reg <;> dsimp only
  case bar n upper => split <;> exact ⟨rfl, rfl, rfl, rfl⟩
  case rebar => split <;> exact ⟨rfl, rfl, rfl, rfl⟩
  all_goals exact ⟨rfl, rfl, rfl, rfl⟩

theorem State.cfgWrite_rebar (v : Nat) : (s.cfgWrite link .rebar v).bar2Log link =
    if within 30 (bits v 13 8 + 20) 43 = true then bits v 13 8 + 20 else s.bar2Log link := by
  simp only [State.cfgWrite]
  split
  · exact KMap.get_set_self ..
  · rfl

/-! ### The MSI-X tables (R493) -/

include present

theorem exec_msixAccess_misaligned {off : Nat} (v : Option Nat) (h : off % 4 ≠ 0) :
    exec (.msixAccess link off v) s = .next (s.emit (.answer (.host link) false [])) :=
  (onUnit_present present).trans (if_pos h)

theorem exec_msixAccess_aligned {off : Nat} (v : Option Nat) (h : off % 4 = 0) : exec (.msixAccess link off v) s = (match v with
      | some v => .next (s.msixWrite link off v)
      | none => .next (s.emit (.answer (.host link) true (leBytes 4 (s.msixRead link off))))) :=
  (onUnit_present present).trans (if_neg (by omega))

end Bar2

/-- What a dword of the table keeps of a write (R493). -/
def msixKept (off v : Nat) : Nat := if off / 4 % 4 = 3 then v % 2 else if off / 4 % 4 = 0 then v / 4 * 4 % 2 ^ 32 else v % 2 ^ 32

/-- The table with a dword written. -/
def State.msixStored (s : State) (link off d : Nat) : State := { s with msixTab := KMap.set s.msixTab (link, off / 4) d }

theorem State.msixWrite_eq (s : State) (link : Nat) {off : Nat} (v : Nat) (table : off < 0x8000) : s.msixWrite link off v =
    (if off / 4 % 4 = 3 ∧ msixKept off v = 0 ∧ KMap.get s.pba (link, off / 16) false then
      ({ s.msixStored link off (msixKept off v) with pba := KMap.erase s.pba (link, off / 16) } : State).emit (.msix link (off / 16))
    else s.msixStored link off (msixKept off v)) := by
  rw [← Nat.div_div_eq_div_mul off 4 4]
  exact if_pos table

/-- A write stores its dword, and a pending message that it unmasks goes out. -/
theorem State.msixWrite_spec (s : State) (link : Nat) {off : Nat} (v : Nat) (table : off < 0x8000) : (s.msixWrite link off v).flds = s.flds ∧
    (s.msixWrite link off v).mem = s.mem ∧ KMap.get (s.msixWrite link off v).msixTab (link, off / 4) 0 = msixKept off v ∧
    (off / 4 % 4 = 3 → v % 2 = 0 → KMap.get s.pba (link, off / 16) false = true → (s.msixWrite link off v).out = .msix link (off / 16) :: s.out) := by
  rw [s.msixWrite_eq link v table]
  have kept (control : off / 4 % 4 = 3) : msixKept off v = v % 2 := if_pos control
  by_cases sends : off / 4 % 4 = 3 ∧ msixKept off v = 0 ∧ KMap.get s.pba (link, off / 16) false
  · rw [if_pos sends]
    exact ⟨rfl, rfl, KMap.get_set_self .., fun _ _ _ => rfl⟩
  · rw [if_neg sends]
    exact ⟨rfl, rfl, KMap.get_set_self .., fun control unmask pending => absurd ⟨control, (kept control).trans unmask, pending⟩ sends⟩

/-! ### The management ports (R406, R407, R416, R479) -/

section Management
variable {s : State} {port : Nat} (present : s.mgtOk port = true)
include present

theorem State.mgtReq_down (f : State → State) (down : s.mgtUp port = false) : s.mgtReq port f = .next s :=
  (onUnit_present present).trans (congrArg _ (if_neg (by simp [down])))

theorem State.mgtReq_up (f : State → State) (up : s.mgtUp port = true) : s.mgtReq port f =
    .next (if s.get .RST_STATUS_READY = 1 then f (s.bumpSat .MGT_STATUS_REQUESTS) else s.bumpSat .MGT_STATUS_REQUESTS) := by
  refine (onUnit_present present).trans (congrArg _ ((if_pos up).trans ?_))
  simp

theorem State.mgtReq_ready (f : State → State) (up : s.mgtUp port = true) (ready : s.get .RST_STATUS_READY = 1) :
    s.mgtReq port f = .next (f (s.bumpSat .MGT_STATUS_REQUESTS)) :=
  (State.mgtReq_up present f up).trans (congrArg Host.Outcome.next (if_pos ready))

theorem exec_mgtGet_down (seq res : Nat) (down : s.mgtUp port = false) : exec (.mgtGet port seq res) s = .next s := by
  change execMgtGet port seq res s = _
  rw [execMgtGet, State.mgtReq_down present _ down]

theorem exec_mgtGet_early (seq res : Nat) (up : s.mgtUp port = true) (early : s.get .RST_STATUS_READY ≠ 1) :
    exec (.mgtGet port seq res) s = .next (s.bumpSat .MGT_STATUS_REQUESTS) := by
  change execMgtGet port seq res s = _
  rw [execMgtGet, State.mgtReq_up present _ up, if_neg early]

theorem exec_mgtGet (seq : Nat) {res : Nat} (up : s.mgtUp port = true) (ready : s.get .RST_STATUS_READY = 1) (other : res ≠ 2) :
    let r := s.bumpSat .MGT_STATUS_REQUESTS
    exec (.mgtGet port seq res) s = .next (r.emit (.mgtReply port (seq % 2 ^ 32) (r.resource res))) := by
  change execMgtGet port seq res s = _
  rw [execMgtGet, State.mgtReq_ready present _ up ready, if_neg other]

theorem exec_mgtLogRead (seq seg first count : Nat) (up : s.mgtUp port = true) (ready : s.get .RST_STATUS_READY = 1) :
    let r := s.bumpSat .MGT_STATUS_REQUESTS
    exec (.mgtLogRead port seq seg first count) s = .next (r.emit (.mgtReply port (seq % 2 ^ 32)
      (leBytes 2 seg ++ leBytes 8 (r.logRead seg first count).1 ++ leBytes 1 (r.logRead seg first count).2.2.length ++
        leBytes 8 (r.logRead seg first count).2.1 ++ leBytes 8 (s.get .LOG_OVER_OVERWRITTEN) ++ (r.logRead seg first count).2.2.flatMap Entry.bytes))) := by
  change execMgtLogRead port seq seg first count s = _
  rw [execMgtLogRead, State.mgtReq_ready present _ up ready]
  simp

theorem exec_mgtStage (seq off : Nat) (data : List Byte) (up : s.mgtUp port = true) (ready : s.get .RST_STATUS_READY = 1) :
    let r := s.bumpSat .MGT_STATUS_REQUESTS
    exec (.mgtStage port seq off data) s = .next ((if data.length = 1024 ∧ off + 1024 ≤ 33554432 then
      r.wrDa .steward (r.carveBank .steward) (stagingDa + off) data else r).emit (.mgtReply port (seq % 2 ^ 32) [])) := by
  change execMgtStage port seq off data s = _
  rw [execMgtStage, State.mgtReq_ready present _ up ready]

theorem exec_mgtStageDone (seq : Nat) (up : s.mgtUp port = true) (ready : s.get .RST_STATUS_READY = 1) : exec (.mgtStageDone port seq) s =
    let r := s.bumpSat .MGT_STATUS_REQUESTS
    .next ((r.secInstall.1.secDone 2 r.secInstall.2 0).emit (.mgtReply port (seq % 2 ^ 32) (leBytes 1 r.secInstall.2))) := by
  change execMgtStageDone port seq s = _
  rw [execMgtStageDone, State.mgtReq_ready present _ up ready]

theorem exec_mgtNeighbourDiscovery : exec (.mgtNeighbourDiscovery port) s = .next (
    if s.mgtUp port then s.emit (.mgtNeighbour port (if port = 0 then s.get .MGT_MACA_MAC else s.get .MGT_MACB_MAC)) else s) :=
  onUnit_present present

/-- The state after a link change of a port, with the port's own fields. -/
def State.linkChanged (s : State) (port : Nat) (up : Bool) : State :=
  let y := s.set (if port = 0 then .MGT_STATUS_LINK_A else .MGT_STATUS_LINK_B) (b2n up)
  if up then y else y.set (if port = 0 then .MGT_STATUS_PTP_A else .MGT_STATUS_PTP_B) 0

theorem exec_mgtLinkChange (up : Bool) : exec (.mgtLinkChange port up) s = .next (s.linkChanged port up) := by
  refine (onUnit_present present).trans (congrArg _ ?_)
  unfold State.linkChanged
  split <;> rfl

theorem exec_ptpMasterLost : exec (.ptpMasterLost port) s = .next (s.set (if port = 0 then .MGT_STATUS_PTP_A else .MGT_STATUS_PTP_B) 0) := by
  refine (onUnit_present present).trans (congrArg _ ?_)
  split <;> rfl

end Management

theorem State.linkChanged_spec (s : State) (port : Nat) (up : Bool) : let t := s.linkChanged port up
    t.mem = s.mem ∧ t.out = s.out ∧ t.get (if port = 0 then .MGT_STATUS_LINK_A else .MGT_STATUS_LINK_B) = b2n up ∧
      (up = false → t.get (if port = 0 then .MGT_STATUS_PTP_A else .MGT_STATUS_PTP_B) = 0) ∧
      ∀ f u i, f ∉ [Field.MGT_STATUS_LINK_A, .MGT_STATUS_LINK_B, .MGT_STATUS_PTP_A, .MGT_STATUS_PTP_B] → t.get f u i = s.get f u i := by
  have flagA : Field.MGT_STATUS_LINK_A.width = 1 := rfl
  have flagB : Field.MGT_STATUS_LINK_B.width = 1 := rfl
  have frame (f : Field) (hf : f ∉ [Field.MGT_STATUS_LINK_A, .MGT_STATUS_LINK_B, .MGT_STATUS_PTP_A, .MGT_STATUS_PTP_B]) :
      f ≠ (if port = 0 then .MGT_STATUS_LINK_A else .MGT_STATUS_LINK_B) ∧ f ≠ (if port = 0 then .MGT_STATUS_PTP_A else .MGT_STATUS_PTP_B) := by
    simp only [List.mem_cons, List.not_mem_nil, or_false, not_or] at hf
    split <;> simp [hf]
  unfold State.linkChanged
  cases up
  · refine ⟨rfl, rfl, ?_, fun _ => ?_, fun f u i hf => ?_⟩
    · split <;> simp [b2n]
    · simp
    · simp [frame f hf]
  · refine ⟨rfl, rfl, ?_, Bool.noConfusion, fun f u i hf => ?_⟩
    · split <;> simp [flagA, flagB, b2n]
    · simp [frame f hf]

/-- Settles O24: each access of a host link and each request of a management port, by its lemma. -/
theorem hostAndManagementAccessesAreAnswered : Obligations.HostAndManagementAccessesAreAnswered := by
  unfold Obligations.HostAndManagementAccessesAreAnswered
  refine ⟨fun s link off w bs present => ⟨fun early => ?_, fun ready steady awake => ?_, fun kind x y => ⟨exec_hostAtomic_misaligned present kind x y,
    fun aligned known ready steady awake => ?_⟩, fun up rate width flit => onUnit_present present, fun reg on => ⟨?_, fun v => ?_⟩,
    fun misaligned v => exec_msixAccess_misaligned present v misaligned, fun aligned => ⟨exec_msixAccess_aligned present none aligned, fun v table => ?_⟩⟩,
    fun s port present up => ?_, fun s port present => ⟨fun down seq res => ?_, fun up => ?_, ?_⟩⟩
  · rw [exec_bar2Access present, State.bar2_early early]
  · rw [exec_bar2Access present, State.bar2_awake ready steady awake]
  · rw [exec_hostAtomic_aligned present x y aligned known, State.bar2_awake ready steady awake]
  · exact exec_hostConfigAccess present reg none on
  · obtain ⟨flds, mem, ident, out⟩ := s.cfgWrite_frame (link := link) reg v
    refine ⟨_, exec_hostConfigAccess present reg (some v) on, flds, mem, ident, congrArg (_ :: ·) out, fun is => ?_⟩
    rw [is]
    exact State.cfgWrite_rebar v
  · exact ⟨_, exec_msixAccess_aligned present (some v) aligned, s.msixWrite_spec link v table⟩
  · refine ⟨fun seq res => ⟨exec_mgtGet_early present seq res up, exec_mgtGet present seq up, fun ready seg first count => exec_mgtLogRead present seq seg first count up ready,
      fun ready off data => ⟨fun fits inside => ?_, fun unfit => ?_⟩, exec_mgtStageDone present seq up⟩, ?_⟩
    · rw [exec_mgtStage present seq off data up ready, if_pos ⟨fits, inside⟩]
    · rw [exec_mgtStage present seq off data up ready, if_neg fun fit => by omega]
    · exact (exec_mgtNeighbourDiscovery present).trans (congrArg _ (if_pos up))
  · exact ⟨exec_mgtGet_down present seq res down, (exec_mgtNeighbourDiscovery present).trans (congrArg _ (if_neg (by simp [down])))⟩
  · exact ⟨_, exec_mgtLinkChange present up, s.linkChanged_spec port up⟩
  · refine ⟨_, exec_ptpMasterLost present, rfl, rfl, by simp, fun f u i hf => ?_⟩
    simp only [List.mem_cons, List.not_mem_nil, or_false, not_or] at hf
    have other : f ≠ (if port = 0 then .MGT_STATUS_PTP_A else .MGT_STATUS_PTP_B) := by split <;> simp [hf]
    simp [other]

end Sys2Proof.Machine

/-!
O30: resets. A warm reset is followed through its stages: what each leaves of the state is said once by `State.Same`.
-/
namespace Sys2Proof.Machine

open Sys2Proof

/-! ### Steps that change a list of fields and no byte, core, bank or collective -/

/-- Two states with the same memory, cores, identity, image banks and collectives, and the same registers but for a list of fields. -/
structure State.Same (changed : List Field) (s t : State) : Prop where
  mem : t.mem = s.mem
  cores : t.cores = s.cores
  ident : t.ident = s.ident
  str : t.str = s.str
  coll : t.coll = s.coll
  get : ∀ f u i, f ∉ changed → t.get f u i = s.get f u i

namespace State.Same
variable {changed : List Field} {s t u : State}

theorem refl (changed : List Field) (s : State) : State.Same changed s s := ⟨rfl, rfl, rfl, rfl, rfl, fun _ _ _ _ => rfl⟩

theorem trans (first : State.Same changed s t) (second : State.Same changed t u) : State.Same changed s u :=
  ⟨second.mem.trans first.mem, second.cores.trans first.cores, second.ident.trans first.ident, second.str.trans first.str,
    second.coll.trans first.coll, fun f v i other => (second.get f v i other).trans (first.get f v i other)⟩

theorem set {f : Field} (same : State.Same changed s t) (listed : f ∈ changed) (v u i : Nat) : State.Same changed s (t.set f v u i) :=
  ⟨same.mem, same.cores, same.ident, same.str, same.coll, fun g u' i' other =>
    (State.get_set_ne _ _ _ _ _ _ _ _ (.inl fun (h : g = f) => other (by rwa [h]))).trans (same.get g u' i' other)⟩

theorem foldl {α : Type} {step : State → α → State} (each : ∀ x a, State.Same changed x (step x a)) (l : List α) (s : State) :
    State.Same changed s (l.foldl step s) := by
  induction l generalizing s with
  | nil => exact refl _ _
  | cons a l ih => exact (each s a).trans (ih _)

theorem irq (same : State.Same changed s t) (status : .GLB_IRQ_STATUS_SRC ∈ changed) (route : .GLB_IRQ_ROUTE_LOST ∈ changed) (n : Nat) (now : Bool) :
    State.Same changed s (t.irq n now) :=
  ⟨(State.irq_mem ..).trans same.mem, (State.irq_cores ..).trans same.cores, (State.irq_ident ..).trans same.ident, (State.irq_str ..).trans same.str,
    (State.irq_coll ..).trans same.coll, fun f u i other =>
      (State.irq_get _ _ _ _ _ _ (fun h => other (by rwa [h])) (fun h => other (by rwa [h]))).trans (same.get f u i other)⟩

end State.Same

/-! ### Cold reset (R437, R438) -/

/-- A cold reset before its challenge and its key check. -/
def State.coldStart (s : State) (strap : Nat) : State :=
  let x := s.sec
  { State.cold { s.ident with sealPref := strap % 2 } with
    sec := { SecSt.init with venDig := x.venDig, ownDig := x.ownDig, idSeed := x.idSeed, slots := x.slots, ownKey := x.ownKey, cert := x.cert }
    fab := { FabSt.init with unlatched := s.fab.unlatched }
    out := s.out, free := s.free, pending := s.pending }

theorem State.coldReset_spec (s : State) (strap : Nat) : let t := s.coldReset strap
    t.mem = [] ∧ t.poison = [] ∧ t.cores = [] ∧ t.str = StrSt.init ∧ t.que = State.reset.que ∧ t.coll = CollSt.init ∧
      t.ident = { s.ident with sealPref := strap % 2 } ∧ t.fab.unlatched = s.fab.unlatched ∧
      ∀ f u i, f ≠ .SEC_CHALLENGE_VALUE → t.get f u i = f.reset { s.ident with sealPref := strap % 2 } i := by
  intro t
  obtain ⟨mem, poison, cores, str, que, coll, fab, ident, get⟩ := State.keyReads_spec (s.coldStart strap).roots (s.coldStart strap).newChallenge
  obtain ⟨mem', poison', cores', str', que', coll', fab', ident', -, get'⟩ := (s.coldStart strap).newChallenge_spec
  exact ⟨mem.trans mem', poison.trans poison', cores.trans cores', str.trans str', que.trans que', coll.trans coll', ident.trans ident',
    (congrArg FabSt.unlatched (fab.trans fab') : _ = (s.coldStart strap).fab.unlatched), fun f u i other => (get f u i).trans (get' f u i other)⟩

/-! ### Warm reset (R437, R438, R444) -/

/-- The engines' status registers are all that the reset of an engine without a stream changes. -/
theorem State.vceReset_idle {s : State} {e : Nat} (idle : (s.vceOf e).streams = []) : s.vceReset e = s.setVce e { s.vceOf e with job := none } := by
  have streams : ((s.setVce e { s.vceOf e with job := none }).vceOf e).streams = [] :=
    (congrArg VceSt.streams (KMap.get_set_self s.vce e _ VceSt.init)).trans idle
  rw [State.vceReset, streams, List.foldl_nil]

theorem State.Same.setVce (s : State) (e : Nat) (x : VceSt) : State.Same [.VCE_STATUS_OPEN, .VCE_STATUS_STATE] s (s.setVce e x) := by
  have base : State.Same [.VCE_STATUS_OPEN, .VCE_STATUS_STATE] s { s with vce := KMap.set s.vce e x } := ⟨rfl, rfl, rfl, rfl, rfl, fun _ _ _ _ => rfl⟩
  exact (base.set (by simp) _ _ _).set (by simp) _ _ _

theorem State.vceOf_setVce_streams {s : State} (e : Nat) {x : VceSt} (idle : ∀ e, (s.vceOf e).streams = []) (none : x.streams = []) (e' : Nat) :
    ((s.setVce e x).vceOf e').streams = [] := by
  by_cases h : e' = e
  · subst h
    exact (congrArg VceSt.streams (KMap.get_set_self s.vce e' x VceSt.init)).trans none
  · exact (congrArg VceSt.streams (KMap.get_set_ne s.vce e e' x VceSt.init h)).trans (idle e')

/-- Engines without a stream are reset. -/
theorem State.vceResets_idle (l : List Nat) {s : State} (idle : ∀ e, (s.vceOf e).streams = []) : let t := l.foldl (fun s e => s.vceReset e) s
    State.Same [.VCE_STATUS_OPEN, .VCE_STATUS_STATE] s t ∧ t.esc = s.esc := by
  induction l generalizing s with
  | nil => exact ⟨.refl _ _, rfl⟩
  | cons e l ih =>
    rw [List.foldl_cons, State.vceReset_idle (idle e)]
    obtain ⟨same, esc⟩ := ih (State.vceOf_setVce_streams e (x := { s.vceOf e with job := none }) idle (idle e))
    exact ⟨(State.Same.setVce s e _).trans same, esc⟩

/-- The ledger dies' states and the kind and cause of a warm reset by RST_CTL. -/
def State.warmMarked (n old : State) : State :=
  let n := (List.range n.ident.dies).foldl (fun n ld =>
    if old.get .LDG_STATUS_STATE ld = 5 then n.set .LDG_STATUS_STATE 5 ld else n.set .LDG_STATUS_STATE 3 ld) n
  ((n.set .RST_STATUS_STAGE 1).set .RST_STATUS_CAUSE 3).set .RST_STATUS_LAST_KIND 1

/-- The log entry of a warm reset, written at once where a log exists. -/
def State.warmLogged (n : State) (e : Entry) : State :=
  if n.log.started then n.logWrite e else n.mapLog fun g => { g with intake := g.intake ++ [(0, e)] }

/-- The end of a warm reset: its count, its test request, a new challenge, its entry and the key check. -/
def State.warmEnded (n old : State) : State :=
  let n := ((n.bumpSat .RST_COUNT_WARM).testWarm old).newChallenge
  let n := n.warmLogged ⟨old.now, old.get .BEAT_WALL_WALL, old.rstSrc, 0xb001, 1, 0, resetPayload 1 3 0⟩
  n.roots.foldl (fun s h => s.keyRead h) n

/-- The fields that the end of a warm reset may change. -/
def warmEndFields : List Field := [.RST_COUNT_WARM, .RST_TEST_RES_DONE, .RST_TEST_RES_STATUS, .RST_TEST_RES_TARGET, .SEC_CHALLENGE_VALUE,
  .LOG_OVER_OVERWRITTEN, .LOG_SEQ_NEXT, .GLB_IRQ_STATUS_SRC, .GLB_IRQ_ROUTE_LOST]

theorem State.Same.logNew (s : State) (n : Nat) (e : Entry) : State.Same warmEndFields s (s.logNew n e) := by
  have ring : State.Same warmEndFields s (s.mapLog fun g => { g with ring := s.ringWith n e }) := ⟨rfl, rfl, rfl, rfl, rfl, fun _ _ _ _ => rfl⟩
  have stored : State.Same warmEndFields s (s.logStore n e) := by
    unfold State.logStore
    refine State.Same.set ?_ (by decide) _ _ _
    split
    · exact ring.set (by decide) _ _ _
    · exact ring
  rw [State.logNew_eq]
  split
  · exact stored.irq (by decide) (by decide) _ _
  · split
    · exact stored.irq (by decide) (by decide) _ _
    · exact stored

theorem State.Same.warmLogged (s : State) (e : Entry) : State.Same warmEndFields s (s.warmLogged e) := by
  unfold State.warmLogged
  split
  · by_cases repeats : s.get .LOG_SEQ_NEXT ≠ 0 ∧ ∃ a, KMap.get? s.log.ring (s.get .LOG_SEQ_NEXT - 1) = some a ∧ a.same e = true
    · obtain ⟨some, a, last, same⟩ := repeats
      rw [State.logWrite_repeat some last same]
      exact ⟨rfl, rfl, rfl, rfl, rfl, fun _ _ _ _ => rfl⟩
    · rw [State.logWrite_new repeats]
      exact .logNew ..
  · exact ⟨rfl, rfl, rfl, rfl, rfl, fun _ _ _ _ => rfl⟩

theorem State.Same.warmEnded (s old : State) : State.Same warmEndFields s (s.warmEnded old) := by
  have counted : State.Same warmEndFields s (s.bumpSat .RST_COUNT_WARM) := (State.Same.refl _ s).set (by decide) _ _ _
  have ended : State.Same warmEndFields s ((s.bumpSat .RST_COUNT_WARM).testWarm old) := by
    unfold State.testWarm
    split
    · exact ((counted.set (by decide) _ _ _).set (by decide) _ _ _).set (by decide) _ _ _
    · exact counted
  have challenged (x : State) : State.Same warmEndFields x x.newChallenge := by
    obtain ⟨mem, -, cores, str, -, coll, -, ident, -, get⟩ := x.newChallenge_spec
    exact ⟨mem, cores, ident, str, coll, fun f u i other => get f u i fun h => other (by rw [h]; decide)⟩
  have keys (y : State) : State.Same warmEndFields y (y.roots.foldl (fun s h => s.keyRead h) y) := by
    obtain ⟨mem, -, cores, str, -, coll, -, ident, get⟩ := State.keyReads_spec y.roots y
    exact ⟨mem, cores, ident, str, coll, fun f u i _ => get f u i⟩
  have logged := (ended.trans (challenged _)).trans (.warmLogged _ ⟨old.now, old.get .BEAT_WALL_WALL, old.rstSrc, 0xb001, 1, 0, resetPayload 1 3 0⟩)
  exact logged.trans (keys _)

theorem State.warmReset_eq {s : State} (table : s.qTable = none) (idle : ∀ e, (s.vceOf e).streams = []) (closed : s.get .ESC_STATUS_OPEN ≠ 1)
    (filling : s.esc.filling = none) : let y := (List.range s.ident.engines).foldl (fun s e => s.vceReset e) s
    s.warmReset 3 = (y.warmBase.warmMarked y).warmEnded y := by
  intro y
  have quiet : s.queWarm = s := by rw [State.queWarm, table]
  obtain ⟨same, esc⟩ := State.vceResets_idle (List.range s.ident.engines) idle
  have discards : ¬(y.get .ESC_STATUS_OPEN = 1 ∨ y.esc.filling.isSome = true) := by
    rw [esc, filling, same.get .ESC_STATUS_OPEN 0 0 (by decide)]
    simp [closed]
  unfold State.warmReset
  simp only [quiet]
  rw [if_neg discards]
  rfl

/-- What a filtered map reads at a key that it keeps. -/
theorem KMap.get_filter {κ β : Type} [DecidableEq κ] (m : KMap κ β) (p : κ → Bool) {k : κ} (d : β) (kept : p k = true) :
    KMap.get (m.filter fun e => p e.1) k d = KMap.get m k d := by
  induction m with
  | nil => rfl
  | cons e m ih =>
    rw [List.filter_cons]
    split
    next => rw [KMap.get, KMap.get, ih]
    next dropped => rw [ih, KMap.get, if_neg fun same => dropped (by rwa [same])]

/-- What a filtered map reads at a key that it drops. -/
theorem KMap.get_filter_dropped {κ β : Type} [DecidableEq κ] (m : KMap κ β) (p : κ → Bool) {k : κ} (d : β) (dropped : p k = false) :
    KMap.get (m.filter fun e => p e.1) k d = d := by
  induction m with
  | nil => rfl
  | cons e m ih =>
    rw [List.filter_cons]
    split
    next kept => rw [KMap.get, if_neg (fun same => by rw [same, dropped] at kept; cases kept), ih]
    next => exact ih

/-- The fields that a warm reset sets before its entry. -/
def warmMarkFields : List Field := [.LDG_STATUS_STATE, .RST_STATUS_STAGE, .RST_STATUS_CAUSE, .RST_STATUS_LAST_KIND]

theorem State.Same.warmMarked (s old : State) : State.Same warmMarkFields s (s.warmMarked old) := by
  have each (x : State) (ld : Nat) : State.Same warmMarkFields x
      (if old.get .LDG_STATUS_STATE ld = 5 then x.set .LDG_STATUS_STATE 5 ld else x.set .LDG_STATUS_STATE 3 ld) := by
    split
    · exact (State.Same.refl _ x).set (by decide) _ _ _
    · exact (State.Same.refl _ x).set (by decide) _ _ _
  exact (((State.Same.foldl each _ s).set (by decide) _ _ _).set (by decide) _ _ _).set (by decide) _ _ _

theorem State.warmMarked_get (s old : State) : (s.warmMarked old).get .RST_STATUS_STAGE = 1 ∧ (s.warmMarked old).get .RST_STATUS_CAUSE = 3 ∧
    (s.warmMarked old).get .RST_STATUS_LAST_KIND = 1 := by
  have stage : Field.RST_STATUS_STAGE.width = 4 := rfl
  have cause : Field.RST_STATUS_CAUSE.width = 4 := rfl
  have kind : Field.RST_STATUS_LAST_KIND.width = 2 := rfl
  simp [State.warmMarked, stage, cause, kind]

theorem State.warmBase_beat (s : State) : s.warmBase.get .BEAT_NOW_COUNT = s.get .BEAT_NOW_COUNT :=
  KMap.get_filter s.flds (fun k => keptWarm k.f) _ rfl

theorem State.warmBase_ready (s : State) : s.warmBase.get .RST_STATUS_READY = 0 :=
  KMap.get_filter_dropped s.flds (fun k => keptWarm k.f) _ rfl

/-- A warm reset of a part with no queue table, stream or escrow step. -/
theorem State.warmReset_spec {s : State} (wf : Mem.wf s.mem = true) (table : s.qTable = none) (idle : ∀ e, (s.vceOf e).streams = [])
    (closed : s.get .ESC_STATUS_OPEN ≠ 1) (filling : s.esc.filling = none) : let t := s.warmReset 3
    t.cores = [] ∧ t.str = StrSt.init ∧ t.coll = CollSt.init ∧ t.ident = s.ident ∧
      (∀ a, a < 2 ^ 44 → Mem.read t.mem a = Mem.read s.mem a) ∧ (∀ a, 2 ^ 44 ≤ a → Mem.read t.mem a = 0) ∧
      t.get .BEAT_NOW_COUNT = s.get .BEAT_NOW_COUNT ∧ t.get .RST_STATUS_LAST_KIND = 1 ∧ t.get .RST_STATUS_CAUSE = 3 ∧ t.get .RST_STATUS_STAGE = 1 ∧
      t.get .RST_STATUS_READY = 0 := by
  intro t
  have shape : t = _ := State.warmReset_eq table idle closed filling
  obtain ⟨engines, -⟩ := State.vceResets_idle (List.range s.ident.engines) idle
  generalize (List.range s.ident.engines).foldl (fun s e => s.vceReset e) s = y at shape engines
  have marked := State.Same.warmMarked y.warmBase y
  have ended : State.Same warmEndFields (y.warmBase.warmMarked y) t := shape ▸ .warmEnded _ y
  obtain ⟨stage, cause, kind⟩ := State.warmMarked_get y.warmBase y
  have mem : t.mem = s.mem.filter fun c => decide (c.1 < 2 ^ 44) := by
    rw [ended.mem, marked.mem, ← engines.mem]
    rfl
  have read (a : Nat) := mem ▸ Mem.read_filter ((Mem.wf_iff _).mp wf) (fun a => decide (a < 2 ^ 44)) a
  refine ⟨ended.cores.trans marked.cores, ended.str.trans marked.str, ended.coll.trans marked.coll, ended.ident.trans (marked.ident.trans engines.ident),
    fun a low => (read a).trans (if_pos (by simpa using low)), fun a high => (read a).trans (if_neg (by simpa using high)), ?_, ?_, ?_, ?_, ?_⟩
  · rw [ended.get _ _ _ (by decide), marked.get _ _ _ (by decide), State.warmBase_beat, engines.get _ _ _ (by decide)]
  · rw [ended.get _ _ _ (by decide), kind]
  · rw [ended.get _ _ _ (by decide), cause]
  · rw [ended.get _ _ _ (by decide), stage]
  · rw [ended.get _ _ _ (by decide), marked.get _ _ _ (by decide), State.warmBase_ready]

/-! ### Core and die resets (R439, R440) -/

/-- The count, the event and the images of a die that is reset, before what lies on it. -/
def State.dieTaken (s : State) (die : Nat) : State :=
  (((s.bump .RST_COUNT_DIE).resetEv 2 3 die).strDieReset die).mapRst fun r => { r with inReset := die :: r.inReset.filter (· != die) }

theorem State.dieReset_present {s : State} {die : Nat} (may : s.mayReset die = true) : s.dieReset die =
    if die < 8 then (s.dieTaken die).computeReset die
    else if die < 32 then (s.dieTaken die).ledgerReset (die - 24) else (s.dieTaken die).hubReset (die - 32) :=
  if_neg (by simp [may])

theorem State.dieBack_other {s : State} {die : Nat} (lost fails : Nat) (other : s.rst.inReset.contains die = false) : s.dieBack die lost fails = s :=
  if_pos (.inl (by rw [other]; rfl))

theorem State.dieBack_ledger {s y : State} {die : Nat} (lost fails : Nat) (inReset : s.rst.inReset.contains die = true)
    (unfenced : (dieUnits die).any s.str.fenced.contains = false) (low : 24 ≤ die) (high : die < 32) (loaded : s.strReload die = (y, true)) :
    s.dieBack die lost fails = (y.rejoin die).ledgerBack (die - 24) fails := by
  unfold State.dieBack
  rw [if_neg (by rw [inReset, unfenced]; decide), if_neg (by omega), if_neg (by omega)]
  simp only [loaded]
  rw [if_neg (by omega), if_pos high]

/-- Settles O30: the cold and warm resets by what their last stages leave alone, the others by their definitions' branches. -/
theorem resetsKeepAndLoseWhatTheySay : Obligations.ResetsKeepAndLoseWhatTheySay := by
  unfold Obligations.ResetsKeepAndLoseWhatTheySay
  refine ⟨fun s strap c listed => ?_, fun s wf table idle closed filling => ⟨_, rfl, State.warmReset_spec wf table idle closed filling⟩, fun s c =>
    ⟨fun absent => ?_, fun present => ?_, fun absent => ?_, fun may => ?_, fun lost fails other => ?_, fun lost fails y inReset unfenced low high loaded => ?_⟩⟩
  · simp only [List.mem_cons, List.not_mem_nil, or_false] at listed
    obtain rfl | rfl := listed
    · exact ⟨_, rfl, s.coldReset_spec strap⟩
    · exact ⟨_, rfl, s.coldReset_spec s.ident.sealPref⟩
  · exact congrArg Host.Outcome.next (if_neg (by simp [absent]))
  · exact congrArg Host.Outcome.next (if_pos present)
  · exact congrArg Host.Outcome.next (if_pos (by simp [absent]))
  · have taken : exec (.resetDie c) s = .next _ := congrArg Host.Outcome.next (State.dieReset_present may)
    refine ⟨fun compute => ?_, fun notCompute ledger => ?_, fun hub => ?_⟩
    · rw [taken, if_pos compute, State.dieTaken]
    · rw [taken, if_neg (by omega), if_pos ledger, State.dieTaken]
    · rw [taken, if_neg (by omega), if_neg (by omega), State.dieTaken]
  · exact congrArg Host.Outcome.next (State.dieBack_other lost fails other)
  · exact congrArg Host.Outcome.next (State.dieBack_ledger lost fails inReset unfenced low high loaded)

end Sys2Proof.Machine

/-! O31: start-up (R441 to R445) and tests during work (R447 to R449). -/
namespace Sys2Proof.Machine

open Sys2Proof

/-! ### The boot ROM (R441, R443) -/

/-- A half's boot ROM has read a slot. -/
def State.romLoaded (s : State) (half slot : Nat) : State :=
  let s := (s.mapRst fun r => { r with loaded := KMap.set r.loaded half slot }).setComplex half 1
  if s.get .RST_STATUS_STAGE = 1 then s.set .RST_STATUS_STAGE 2 else s

theorem State.setComplex_get (s : State) (half v : Nat) (f : Field) (u i : Nat) (other : f ≠ .STW_STATUS_HALF_W ∧ f ≠ .STW_STATUS_HALF_E) :
    (s.setComplex half v).get f u i = s.get f u i := by
  unfold State.setComplex
  split
  · exact State.get_set_ne _ _ _ _ _ _ _ _ (.inl other.1)
  · exact State.get_set_ne _ _ _ _ _ _ _ _ (.inl other.2)

theorem exec_bootRomLoad {s : State} {half slot : Nat} (present : s.monitorOk half = true) (begun : s.get .RST_STATUS_STAGE ≠ 0)
    (working : s.get .RST_STATUS_STAGE ≠ 6)
    (next : (slot = 0 ∧ KMap.get? s.rst.loaded half = none) ∨ (slot = 1 ∧ KMap.get? s.rst.loaded half = some 2)) :
    exec (.bootRomLoad half) s = .next (s.romLoaded half slot) := by
  refine (onUnit_present present).trans (congrArg Host.Outcome.next ((if_neg (by omega)).trans ?_))
  obtain ⟨rfl, first⟩ | ⟨rfl, second⟩ := next
  · rw [first]; rfl
  · rw [second]; rfl

theorem State.romLoaded_spec (s : State) (half slot : Nat) : let t := s.romLoaded half slot
    KMap.get? t.rst.loaded half = some slot ∧ t.mem = s.mem ∧ t.sec = s.sec ∧
      t.get .RST_STATUS_STAGE = if s.get .RST_STATUS_STAGE = 1 then 2 else s.get .RST_STATUS_STAGE := by
  have width : Field.RST_STATUS_STAGE.width = 4 := rfl
  let y := (s.mapRst fun r => { r with loaded := KMap.set r.loaded half slot }).setComplex half 1
  have stage : y.get .RST_STATUS_STAGE = s.get .RST_STATUS_STAGE := State.setComplex_get _ _ _ _ _ _ (by decide)
  have rest : KMap.get? y.rst.loaded half = some slot ∧ y.mem = s.mem ∧ y.sec = s.sec := by
    refine ⟨?_, ?_, ?_⟩
    · exact (congrArg (fun r : RstSt => KMap.get? r.loaded half) (by unfold y State.setComplex; split <;> rfl)).trans (KMap.get?_set_self s.rst.loaded half slot)
    · unfold y State.setComplex; split <;> rfl
    · unfold y State.setComplex; split <;> rfl
  intro t
  have shape : t = if y.get .RST_STATUS_STAGE = 1 then y.set .RST_STATUS_STAGE 2 else y := rfl
  rw [shape, stage]
  obtain ⟨loaded, mem, sec⟩ := rest
  split
  · exact ⟨loaded, mem, sec, by simp [width]⟩
  · exact ⟨loaded, mem, sec, stage⟩

/-! ### Verification (R443, R457) -/

theorem State.Same.setComplex (s : State) (half v : Nat) : State.Same [.STW_STATUS_HALF_W, .STW_STATUS_HALF_E] s (s.setComplex half v) := by
  unfold State.setComplex
  split
  · exact (State.Same.refl _ s).set (by simp) _ _ _
  · exact (State.Same.refl _ s).set (by simp) _ _ _

theorem State.setComplex_rst (s : State) (half v : Nat) : (s.setComplex half v).rst = s.rst := by
  unfold State.setComplex
  split <;> rfl

theorem State.setComplex_sec (s : State) (half v : Nat) : (s.setComplex half v).sec = s.sec := by
  unfold State.setComplex
  split <;> rfl

theorem State.startPorts_spec (s : State) : State.Same [.FAB_PORT_STATE] s s.startPorts ∧ s.startPorts.rst = s.rst ∧ s.startPorts.sec = s.sec := by
  unfold State.startPorts
  generalize List.range s.ident.ports = l
  induction l generalizing s with
  | nil => exact ⟨.refl _ _, rfl, rfl⟩
  | cons p l ih =>
    rw [List.foldl_cons]
    split
    · obtain ⟨same, rst, sec⟩ := ih (s.set .FAB_PORT_STATE 1 0 p)
      exact ⟨((State.Same.refl _ s).set (by simp) _ _ _).trans same, rst, sec⟩
    · exact ih s

/-- The state with its measurements replaced. -/
def State.withMeas (s : State) (m : KMap (Nat × Nat) (List Byte)) : State := s.mapSec fun x => { x with meas := m }

theorem State.setMeas_withMeas (s : State) (m half : Nat) (v : List Byte) {y : State} (measured : ∃ a, y = s.withMeas a) :
    ∃ a, y.setMeas m half v = s.withMeas a := by
  obtain ⟨a, rfl⟩ := measured
  exact ⟨_, rfl⟩

/-- A root's measurements change no register and no key. -/
theorem State.fwMeasure_spec (s : State) (half : Nat) (b : List Byte) : ∃ a, s.fwMeasure half b = s.withMeas a := by
  have hub : ∃ a, (s.extend 0 half (sha3 (fwPart b 0))).extend 0 half (sha3 (fwVpub b)) = s.withMeas a :=
    s.setMeas_withMeas _ _ _ (s.setMeas_withMeas _ _ _ ⟨s.sec.meas, rfl⟩)
  have bursar : ∃ a, ((s.extend 0 half (sha3 (fwPart b 0))).extend 0 half (sha3 (fwVpub b))).extend 1 half (sha3 (fwPart b 1)) = s.withMeas a :=
    s.setMeas_withMeas _ _ _ hub
  unfold State.fwMeasure
  dsimp only
  generalize ((s.extend 0 half (sha3 (fwPart b 0))).extend 0 half (sha3 (fwVpub b))).extend 1 half (sha3 (fwPart b 1)) = y at bursar
  split
  · exact s.setMeas_withMeas _ _ _ (s.setMeas_withMeas _ _ _ bursar)
  · exact bursar

/-- A half's image has passed its verification. -/
def State.fwPassed (s : State) (half slot : Nat) (b : List Byte) : State :=
  let s := (s.fwMeasure half b).mapSec fun x => { x with vkey := fwVkey b, fwSvn := fwSvnOf b }
  let s : State := { s with rst := { s.rst with verified := half :: s.rst.verified } }
  let s := (s.set .RST_STATUS_FW_SLOT slot).setComplex half 2
  if s.get .RST_STATUS_STAGE = 2 then ((s.set .RST_STATUS_STAGE 3).set .RST_BOOT_FW_MS s.bootMs).startPorts else s

/-- Slot A of a half has failed: both events, and the ROM goes on to slot B. -/
def State.fwFailedA (s : State) (half c : Nat) : State :=
  let s := s.log' (rotSrc half) 0xa001 1 [(1, 2 * half), (1, 0), (1, c)]
  ({ s with rst := { s.rst with loaded := KMap.set s.rst.loaded half 2 } } : State).log' (srcHub (2 * half) 12) 0xb003 1 [(1, 2 * half), (1, 0)]

section Verify
variable {s : State} {half slot : Nat} (present : s.monitorOk half = true) (loaded : KMap.get? s.rst.loaded half = some slot) (known : slot < 2)
  (fresh : s.rst.verified.contains half = false) (working : s.get .RST_STATUS_STAGE ≠ 6)
include present loaded known fresh working

theorem State.fwVerify_passed (sound : s.fwFault (KMap.get s.sec.slots (half, slot) []) = none) :
    exec (.firmwareVerified half) s = .next (s.fwPassed half slot (KMap.get s.sec.slots (half, slot) [])) := by
  refine (onUnit_present present).trans (congrArg Host.Outcome.next ?_)
  unfold State.fwVerify
  rw [loaded]
  refine (if_neg (by rw [fresh]; simp; omega)).trans ?_
  simp only [sound]
  rfl

theorem State.fwVerify_failedA {c : Nat} (fault : s.fwFault (KMap.get s.sec.slots (half, slot) []) = some c) (first : slot = 0) :
    exec (.firmwareVerified half) s = .next (s.fwFailedA half c) := by
  subst first
  refine (onUnit_present present).trans (congrArg Host.Outcome.next ?_)
  unfold State.fwVerify
  rw [loaded]
  refine (if_neg (by rw [fresh]; simp; omega)).trans ?_
  simp only [fault]
  rfl

end Verify

theorem State.fwPassed_spec (s : State) {half slot : Nat} (b : List Byte) (known : slot < 2) : let t := s.fwPassed half slot b
    t.rst.verified = half :: s.rst.verified ∧ t.get .RST_STATUS_FW_SLOT = slot ∧ t.sec.fwSvn = fwSvnOf b ∧ t.sec.vkey = fwVkey b ∧ t.mem = s.mem ∧
      t.get .RST_STATUS_STAGE = if s.get .RST_STATUS_STAGE = 2 then 3 else s.get .RST_STATUS_STAGE := by
  have width : Field.RST_STATUS_STAGE.width = 4 := rfl
  have slotWidth : Field.RST_STATUS_FW_SLOT.width = 1 := rfl
  obtain ⟨m, measured⟩ := s.fwMeasure_spec half b
  let x : State := { (s.mapSec fun x => { x with meas := m, vkey := fwVkey b, fwSvn := fwSvnOf b }) with rst := { s.rst with verified := half :: s.rst.verified } }
  let y := (x.set .RST_STATUS_FW_SLOT slot).setComplex half 2
  have same := State.Same.setComplex (x.set .RST_STATUS_FW_SLOT slot) half 2
  have rst : y.rst = x.rst := State.setComplex_rst ..
  have sec : y.sec = x.sec := State.setComplex_sec ..
  have stage : y.get .RST_STATUS_STAGE = s.get .RST_STATUS_STAGE := (same.get _ _ _ (by decide)).trans (State.get_set_ne _ _ _ _ _ _ _ _ (.inl (by decide)))
  have fwSlot : y.get .RST_STATUS_FW_SLOT = slot := by
    rw [same.get _ _ _ (by decide), State.get_set_self, slotWidth]
    omega
  have shape : s.fwPassed half slot b = if y.get .RST_STATUS_STAGE = 2 then ((y.set .RST_STATUS_STAGE 3).set .RST_BOOT_FW_MS y.bootMs).startPorts else y := by
    rw [State.fwPassed, measured]
    rfl
  rw [shape, stage]
  split
  · obtain ⟨ports, rst', sec'⟩ := ((y.set .RST_STATUS_STAGE 3).set .RST_BOOT_FW_MS y.bootMs).startPorts_spec
    refine ⟨congrArg RstSt.verified (rst'.trans rst), ?_, congrArg SecSt.fwSvn (sec'.trans sec), congrArg SecSt.vkey (sec'.trans sec), ports.mem.trans same.mem, ?_⟩
    · rw [ports.get _ _ _ (by decide)]
      simpa using fwSlot
    · rw [ports.get _ _ _ (by decide)]
      simp [width]
  · exact ⟨congrArg RstSt.verified rst, fwSlot, congrArg SecSt.fwSvn sec, congrArg SecSt.vkey sec, same.mem, stage⟩

theorem State.fwFailedA_spec (s : State) (half c : Nat) : let t := s.fwFailedA half c
    ∃ x : Entry, KMap.get? t.rst.loaded half = some 2 ∧ t.rst.verified = s.rst.verified ∧ t.flds = s.flds ∧ x.code = 0xa001 ∧ ∃ k, (k, x) ∈ t.log.flight := by
  refine ⟨⟨s.beat.stamp.getD s.now, s.get .BEAT_WALL_WALL, rotSrc half, 0xa001, 1, 0, payloadOf [(1, 2 * half), (1, 0), (1, c)]⟩, ?_, ?_, rfl, rfl, halfOfSrc (rotSrc half), ?_⟩
  · simp [State.fwFailedA]
  · simp [State.fwFailedA]
  · simp [State.fwFailedA]

/-! ### Bursar, LPDDR6 and the start-up test (R441, R442, R444, R445) -/

theorem State.Same.stageStep (s : State) : State.Same [.RST_STATUS_STAGE] s s.stageStep := by
  unfold State.stageStep
  split
  · exact (State.Same.refl _ s).set (by simp) _ _ _
  · exact .refl _ _

theorem State.stageStep_rst (s : State) : s.stageStep.rst = s.rst := by
  unfold State.stageStep
  split <;> rfl

/-- Bursar of a half runs. -/
def State.bursarRuns (s : State) (half : Nat) : State :=
  let s := s.mapRst fun r => { r with booted := half :: r.booted }
  let s := (s.setComplex half 3).syncComplex
  (if s.get .RST_STATUS_READY = 0 ∧ s.get .RST_BOOT_BURSAR_MS = 0 then s.set .RST_BOOT_BURSAR_MS s.bootMs else s).stageStep

theorem exec_bursarBooted {s : State} {half : Nat} (present : s.monitorOk half = true) (verified : s.rst.verified.contains half = true)
    (fresh : s.rst.booted.contains half = false) : exec (.bursarBooted half) s = .next (s.bursarRuns half) :=
  (onUnit_present present).trans (congrArg Host.Outcome.next (if_pos ⟨verified, by rw [fresh]; rfl⟩))

theorem State.bursarRuns_spec (s : State) (half : Nat) : let t := s.bursarRuns half
    t.rst.booted = half :: s.rst.booted ∧ t.get .RST_STATUS_READY = s.get .RST_STATUS_READY ∧ t.mem = s.mem := by
  let x := s.mapRst fun r => { r with booted := half :: r.booted }
  let y := (x.setComplex half 3).syncComplex
  obtain ⟨-, mem, -, -, -, -, -, rst⟩ := (x.setComplex half 3).syncComplex_rest
  have complex := State.Same.setComplex x half 3
  have ready : y.get .RST_STATUS_READY = s.get .RST_STATUS_READY :=
    (State.syncComplex_get _ _ _ _ (by decide) (by decide)).trans (complex.get _ _ _ (by decide))
  have booted : y.rst.booted = half :: s.rst.booted := congrArg RstSt.booted (rst.trans (State.setComplex_rst x half 3))
  have kept : y.mem = s.mem := mem.trans complex.mem
  let z := if y.get .RST_STATUS_READY = 0 ∧ y.get .RST_BOOT_BURSAR_MS = 0 then y.set .RST_BOOT_BURSAR_MS y.bootMs else y
  have timed : z.rst = y.rst ∧ z.mem = y.mem ∧ z.get .RST_STATUS_READY = y.get .RST_STATUS_READY := by
    unfold z
    split
    · exact ⟨rfl, rfl, State.get_set_ne _ _ _ _ _ _ _ _ (.inl (by decide))⟩
    · exact ⟨rfl, rfl, rfl⟩
  obtain ⟨rst', mem', ready'⟩ := timed
  have staged := State.Same.stageStep z
  exact ⟨(congrArg RstSt.booted ((State.stageStep_rst z).trans rst')).trans booted, (staged.get _ _ _ (by decide)).trans (ready'.trans ready),
    staged.mem.trans (mem'.trans kept)⟩

/-- LPDDR6 after a cold reset: every block is written with zeros, and every ledger die is usable. -/
def State.lpZeroed (s : State) : State :=
  let s : State := { s with mem := s.mem.filter fun c => decide (2 ^ 44 ≤ c.1), poison := s.poison.filter fun b => decide (2 ^ 44 ≤ b) }
  let s := (List.range s.ident.dies).foldl (fun s ld => s.set .LDG_STATUS_STATE 2 ld) s
  ((s.mapRst fun r => { r with lpOk := true }).set .RST_BOOT_LP_MS s.bootMs).stageStep

theorem exec_lpddr6InitComplete {s : State} (fails : List Nat) (waits : s.rst.lpOk = false) (begun : s.get .RST_STATUS_STAGE ≠ 0)
    (working : s.get .RST_STATUS_STAGE ≠ 6) (cold : s.get .RST_STATUS_LAST_KIND ≠ 1) (idle : ∀ ld, ld < s.ident.dies → s.get .LDG_STATUS_STATE ld = 1) :
    exec (.lpddr6InitComplete fails) s = .next s.lpZeroed.accResume := by
  refine congrArg Host.Outcome.next ?_
  have notWarm : (s.get .RST_STATUS_LAST_KIND == 1) = false := by simpa using cold
  have all : ((List.range s.ident.dies).any fun ld => s.get .LDG_STATUS_STATE ld != 1) = false := by
    simpa using idle
  unfold State.lpReady
  simp only [notWarm, Bool.false_eq_true, if_false, all, waits, or_false, begun, working]
  rfl

/-- A field set for each of the first n units reads so there. -/
theorem State.get_setUnits (f : Field) (v : Nat) (l : List Nat) (s : State) (u : Nat) :
    (l.foldl (fun s u => s.set f v u) s).get f u = if u ∈ l then v % 2 ^ f.width else s.get f u := by
  induction l generalizing s with
  | nil => simp
  | cons a l ih =>
    rw [List.foldl_cons, ih, State.get_set]
    by_cases last : u ∈ l
    · simp [last]
    · by_cases first : u = a
      · simp [first]
      · simp [last, first]

theorem State.lpZeroed_spec {s : State} (wf : Mem.wf s.mem = true) : let t := s.lpZeroed
    t.rst.lpOk = true ∧ (∀ ld, ld < s.ident.dies → t.get .LDG_STATUS_STATE ld = 2) ∧
      (∀ a, a < 2 ^ 44 → Mem.read t.mem a = 0) ∧ (∀ a, 2 ^ 44 ≤ a → Mem.read t.mem a = Mem.read s.mem a) := by
  have width : Field.LDG_STATUS_STATE.width = 3 := rfl
  let x : State := { s with mem := s.mem.filter fun c => decide (2 ^ 44 ≤ c.1), poison := s.poison.filter fun b => decide (2 ^ 44 ≤ b) }
  let y := (List.range s.ident.dies).foldl (fun s ld => s.set .LDG_STATUS_STATE 2 ld) x
  let z := (y.mapRst fun r => { r with lpOk := true }).set .RST_BOOT_LP_MS y.bootMs
  have dies : State.Same [.LDG_STATUS_STATE] x y := .foldl (fun y ld => (State.Same.refl _ y).set (by simp) _ _ _) _ _
  have staged := State.Same.stageStep z
  have shape : s.lpZeroed = z.stageStep := rfl
  have mem : z.stageStep.mem = s.mem.filter fun c => decide (2 ^ 44 ≤ c.1) := staged.mem.trans dies.mem
  have read (a : Nat) := mem ▸ Mem.read_filter ((Mem.wf_iff _).mp wf) (fun a => decide (2 ^ 44 ≤ a)) a
  rw [shape]
  refine ⟨congrArg RstSt.lpOk (State.stageStep_rst z), fun ld present => ?_, fun a low => (read a).trans (if_neg (by simpa using low)),
    fun a high => (read a).trans (if_pos (by simpa using high))⟩
  calc z.stageStep.get .LDG_STATUS_STATE ld = y.get .LDG_STATUS_STATE ld :=
        (staged.get _ _ _ (by decide)).trans (State.get_set_ne _ _ _ _ _ _ _ _ (.inl (by decide)))
    _ = 2 := by
      rw [State.get_setUnits, if_pos (List.mem_range.mpr present), width]
      rfl

theorem State.startLosses_none (s : State) (d : Nat) : s.startLosses d 0 = s := by
  rw [State.startLosses, show bitList 0 13 = [] from rfl, List.foldl_nil]

/-- The entry of a start-up test that lost no unit. -/
def State.startEntry (s : State) : State :=
  (s.mapRst fun r => { r with tested := true }).log' s.rstSrc 0xb005 (if (List.range s.ident.dies).any fun d => s.get .DCTL_CLSTAT_LOST d != 0 then 2 else 0)
    ((List.range s.ident.dies).map fun d => (2, s.get .DCTL_CLSTAT_LOST d))

theorem exec_startupTestComplete {s : State} (stage : s.get .RST_STATUS_STAGE = 4) (fresh : s.rst.tested = false)
    (alive : ∀ d, d < s.ident.dies → s.get .DCTL_CLSTAT_STATE d ≠ 3) : exec (.startupTestComplete [] []) s = .next s.startEntry := by
  have losses (l : List Nat) : l.foldl (fun s d => s.startLosses d (([] : List Nat).getD d 0)) s = s := by
    induction l with
    | nil => rfl
    | cons d l ih => exact (congrArg (fun y => l.foldl _ y) (s.startLosses_none d)).trans ih
  have none : ((List.range s.ident.dies).find? fun d => s.get .DCTL_CLSTAT_STATE d == 3) = none := by
    simpa using alive
  refine congrArg Host.Outcome.next ?_
  unfold State.startTest
  rw [if_neg (by rw [fresh]; simp [stage])]
  simp only [losses, none, ne_eq, not_true_eq_false, Option.isSome_none, Bool.false_eq_true, or_self, if_false, List.map_nil, List.append_nil]
  refine (if_neg ?_).trans rfl
  split <;> decide

/-- The part is ready: its registers before the entry and the interrupt. -/
def State.readied (s : State) : State := ((s.set .RST_STATUS_READY 1).set .RST_STATUS_STAGE 5).set .RST_BOOT_READY_MS s.bootMs

theorem exec_partReady {s : State} (stage : s.get .RST_STATUS_STAGE = 4) (tested : s.rst.tested = true) (inCharge : s.complex 0 = 4 ∨ s.complex 1 = 4) :
    ∃ fs, exec .partReady s = .next ((s.readied.log' s.readied.rstSrc 0xb002 0 fs).irq 0) :=
  ⟨_, congrArg Host.Outcome.next (if_pos ⟨stage, tested, inCharge⟩)⟩

theorem State.readied_spec (s : State) (fs : List (Nat × Nat)) : let t := (s.readied.log' s.readied.rstSrc 0xb002 0 fs).irq 0
    t.get .RST_STATUS_READY = 1 ∧ t.get .RST_STATUS_STAGE = 5 ∧ t.mem = s.mem ∧ t.cores = s.cores ∧ bit (t.get .GLB_IRQ_STATUS_SRC) 0 = true := by
  have stage : Field.RST_STATUS_STAGE.width = 4 := rfl
  have ready : Field.RST_STATUS_READY.width = 1 := rfl
  refine ⟨?_, ?_, by simp [State.readied], by simp [State.readied], State.irq_bit _ _ _ (by decide)⟩
  · rw [State.irq_same _ _ _ _ _ _ (by decide), State.log'_get_other _ _ _ _ _ _ _ _ (by decide)]
    simp [State.readied, ready]
  · rw [State.irq_same _ _ _ _ _ _ (by decide), State.log'_get_other _ _ _ _ _ _ _ _ (by decide)]
    simp [State.readied, stage]

/-! ### Tests during work (R447 to R449) -/

theorem State.testWrite_busy {s : State} (f : State → State) (busy : s.rst.test.isSome = true) : s.testWrite f = s.set .RST_TEST_RES_STATUS 8 := if_pos busy

theorem State.testWrite_free {s : State} (f : State → State) (free : s.rst.test = none) : s.testWrite f = f s := if_neg (by simp [free])

theorem State.testTake_spec (s : State) (kind target : Nat) (runs : Bool) : let t := s.testTake kind target runs
    t.rst.test = some (kind, target) ∧ t.rst.running = runs ∧ t.get .RST_TEST_RES_DONE = 0 ∧ t.get .RST_TEST_RES_PENDING = b2n (!runs) ∧
      t.mem = s.mem ∧ t.cores = s.cores := by
  have pending : Field.RST_TEST_RES_PENDING.width = 1 := rfl
  exact ⟨rfl, rfl, by simp [State.testTake], by cases runs <;> simp [State.testTake, pending, b2n], rfl, rfl⟩

theorem State.testRefuse_spec (s : State) (kind target : Nat) {st : Nat} (small : st < 16) : let t := s.testRefuse kind target st
    t.rst.test = none ∧ t.get .RST_TEST_RES_DONE = 1 ∧ t.get .RST_TEST_RES_STATUS = st ∧ t.mem = s.mem ∧ t.cores = s.cores := by
  have width : Field.RST_TEST_RES_STATUS.width = 4 := rfl
  obtain ⟨test, -, done, status, mem, cores⟩ := (s.set .RST_TEST_RES_TARGET target).testEnd_spec st
  rw [width, Nat.mod_eq_of_lt (show st < 2 ^ 4 from small)] at status
  exact ⟨(congrArg RstSt.test (State.log'_rst ..)).trans test, (State.log'_get_other _ _ _ _ _ _ _ _ (by decide)).trans done,
    (State.log'_get_other _ _ _ _ _ _ _ _ (by decide)).trans status, (State.log'_mem ..).trans mem, (State.log'_cores ..).trans cores⟩

section Requests
variable {s : State} (a : Agent) {x : Nat} (word : x < 65536)
include word

theorem exec_testLogicBist : exec (.testLogicBist a x) s = .next (s.testBist x) := by
  change Host.Outcome.next (s.testBist (x % 65536)) = _
  rw [Nat.mod_eq_of_lt word]

theorem exec_testLpddr6Cal : exec (.testLpddr6Cal a x) s = .next (s.testCal x) := by
  change Host.Outcome.next (s.testCal (x % 65536)) = _
  rw [Nat.mod_eq_of_lt word]

theorem exec_testOpticalRecal : exec (.testOpticalRecal a x) s = .next (s.testRecal x) := by
  change Host.Outcome.next (s.testRecal (x % 65536)) = _
  rw [Nat.mod_eq_of_lt word]

end Requests

/-- BIST of a cluster that is the spare or lost, on a die that neither rotates nor is reset. -/
theorem State.testBist_runs {s : State} {x : Nat} (free : s.rst.test = none) (byte : x < 256) (present : s.cluOk (16 * bits x 7 4 + bits x 3 0) = true)
    (spare : s.get .DCTL_CLMAP_SPARE (bits x 7 4) = bits x 3 0 ∨ s.lost (16 * bits x 7 4 + bits x 3 0) = true)
    (still : (s.die (bits x 7 4)).rot = none) (up : s.rst.inReset.contains (bits x 7 4) = false) : s.testBist x = s.testTake 1 x true := by
  have low : bits x 3 0 < 16 := bits_lt x 3 0
  have cluster : (16 * bits x 7 4 + bits x 3 0) % 16 = bits x 3 0 := by omega
  refine (State.testWrite_free _ free).trans ((if_neg (by rw [present]; simp; omega)).trans (if_neg ?_))
  rw [cluster, still, up]
  obtain spare | lost := spare
  · simp [spare]
  · simp [lost]

theorem State.testCal_waits {s : State} {x : Nat} (free : s.rst.test = none) (present : x < 3 * s.ident.dies)
    (noTemplate : (s.bank (unitLedger (x / 3))).sec 10 = []) : s.testCal x = s.testTake 2 x false :=
  (State.testWrite_free _ free).trans ((if_neg (by omega)).trans (if_neg (by simp [noTemplate])))

theorem State.testCal_absent {s : State} {x : Nat} (free : s.rst.test = none) (absent : 3 * s.ident.dies ≤ x) : s.testCal x = s.testRefuse 2 x 3 :=
  (State.testWrite_free _ free).trans (if_pos absent)

/-- With no peer and no candidate, no route is lost. -/
theorem State.routeLost_none {s : State} (p : Nat) (peers : s.peers = []) (cands : s.timeCands = []) (map : s.peerMap = []) : s.routeLost p = none := by
  have groups : pmGroups [] = [] := rfl
  simp [State.routeLost, peers, cands, map, groups]

theorem State.testRecal_starts {s : State} {x : Nat} (free : s.rst.test = none) (present : x < s.ident.ports)
    (peers : s.peers = []) (cands : s.timeCands = []) (map : s.peerMap = []) : s.testRecal x = (s.testTake 3 x false).recalStart x := by
  refine (State.testWrite_free _ free).trans ((if_neg (by omega)).trans ?_)
  have kept : (s.testTake 3 x false).routeLost x = none := State.routeLost_none x peers cands map
  simp only [kept]

theorem State.recalCheck_starts {s : State} {p : Nat} (waits : s.rst.test = some (3, p)) (still : s.rst.running = false) (routed : s.routeLost p = none) :
    s.recalCheck = s.recalStart p := by
  simp only [State.recalCheck, waits, still, routed]
  exact if_neg (by simp)

theorem State.testCancel_waiting {s : State} (waits : s.rst.test.isSome = true) (still : s.rst.running = false) : s.testCancel = s.testEnd 7 :=
  if_pos ⟨waits, by rw [still]; rfl⟩

/-- A running BIST that finds no fault ends, and is logged. -/
theorem State.testDone_bist {s : State} {x : Nat} (runs : s.rst.test = some (1, x)) (running : s.rst.running = true) :
    ∃ ms, s.testDone none = (s.testEnd 0).log' (s.testEnd 0).rstSrc 0xb050 0 [(1, 1), (2, x), (4, ms)] := by
  refine ⟨(s.beat.coldNs - s.rst.since) / 1000000, ?_⟩
  simp only [State.testDone, runs, running]
  exact if_neg (by simp)

/-- Settles O31: each step of the start-up and each test request by its lemma. -/
theorem startUpReachesReadyAndTestsRun : Obligations.StartUpReachesReadyAndTestsRun := by
  unfold Obligations.StartUpReachesReadyAndTestsRun
  refine ⟨fun s h present begun working slot next => ⟨_, exec_bootRomLoad present begun working next, s.romLoaded_spec h slot⟩,
    fun s h slot present loaded known fresh working => ⟨fun sound => ?_, fun c fault first => ?_⟩,
    fun s h present verified fresh => ⟨_, exec_bursarBooted present verified fresh, s.bursarRuns_spec h⟩,
    fun s fails wf waits begun working cold idle => ⟨_, exec_lpddr6InitComplete fails waits begun working cold idle, State.lpZeroed_spec wf⟩,
    fun s stage fresh alive => ⟨_, exec_startupTestComplete stage fresh alive, rfl, rfl, rfl⟩,
    fun s stage tested inCharge => ?_, fun s a x word => ⟨fun busy c listed => ?_, fun free => ⟨fun byte present spare still up => ?_,
      fun present noTemplate => ?_, fun absent => ?_, fun present peers cands map => ?_⟩⟩,
    fun s p waits still routed => congrArg Host.Outcome.next (State.recalCheck_starts waits still routed),
    fun s a waits still => ?_, fun s x runs running => ?_⟩
  · exact ⟨_, State.fwVerify_passed present loaded known fresh working sound, s.fwPassed_spec _ known⟩
  · obtain ⟨x, spec⟩ := s.fwFailedA_spec h c
    exact ⟨_, x, State.fwVerify_failedA present loaded known fresh working fault first, spec⟩
  · obtain ⟨fs, run⟩ := exec_partReady stage tested inCharge
    exact ⟨_, run, s.readied_spec fs⟩
  · simp only [List.mem_cons, List.not_mem_nil, or_false] at listed
    obtain rfl | rfl | rfl := listed
    · rw [exec_testLogicBist a word, State.testBist, State.testWrite_busy _ busy]
    · rw [exec_testLpddr6Cal a word, State.testCal, State.testWrite_busy _ busy]
    · rw [exec_testOpticalRecal a word, State.testRecal, State.testWrite_busy _ busy]
  · exact ⟨_, (exec_testLogicBist a word).trans (congrArg _ (State.testBist_runs free byte present spare still up)), s.testTake_spec 1 x true⟩
  · exact ⟨_, (exec_testLpddr6Cal a word).trans (congrArg _ (State.testCal_waits free present noTemplate)), s.testTake_spec 2 x false⟩
  · exact ⟨_, (exec_testLpddr6Cal a word).trans (congrArg _ (State.testCal_absent free absent)), s.testRefuse_spec 2 x (by decide)⟩
  · exact ⟨(exec_testOpticalRecal a word).trans (congrArg _ (State.testRecal_starts free present peers cands map)), rfl⟩
  · obtain ⟨test, -, done, status, mem, cores⟩ := s.testEnd_spec 7
    exact ⟨_, congrArg Host.Outcome.next (State.testCancel_waiting waits still), test, done, status, mem, cores⟩
  · obtain ⟨ms, ends⟩ := State.testDone_bist runs running
    obtain ⟨test, idle, done, status, mem, cores⟩ := s.testEnd_spec 0
    refine ⟨_, congrArg Host.Outcome.next ends, ?_, ?_, ?_, ?_, (State.log'_mem ..).trans mem, (State.log'_cores ..).trans cores⟩
    · rw [State.log'_rst, test]
    · rw [State.log'_rst, idle]
    · rw [State.log'_get_other _ _ _ _ _ _ _ _ (by decide), done]
    · rw [State.log'_get_other _ _ _ _ _ _ _ _ (by decide), status, Nat.zero_mod]

end Sys2Proof.Machine

/-! O32: the operations of the root of trust (R455, R458 to R466). -/
namespace Sys2Proof.Machine

open Sys2Proof

/-! ### The end of an operation -/

/-- An operation's answer: DONE and its status. -/
def State.secAnswer (t : State) (st : Nat) : Prop := t.get .SEC_OP_RES_DONE = 1 ∧ t.get .SEC_OP_RES_STATUS = st

/-- An operation that ends changes its result and its interrupt's registers, and logs a refusal. -/
theorem State.secDone_spec (s : State) (op : Nat) {st len : Nat} (status : st < 16) (length : len < 8192) : let t := s.secDone op st len
    t.secAnswer st ∧ t.get .SEC_OP_RES_LEN = len ∧ t.mem = s.mem ∧ t.sec = s.sec ∧ t.ident = s.ident ∧
      ∀ f, f ∉ [Field.SEC_OP_RES_DONE, .SEC_OP_RES_STATUS, .SEC_OP_RES_LEN, .GLB_IRQ_STATUS_SRC, .GLB_IRQ_ROUTE_LOST] → t.get f = s.get f := by
  have doneWidth : Field.SEC_OP_RES_DONE.width = 1 := rfl
  have statusWidth : Field.SEC_OP_RES_STATUS.width = 4 := rfl
  have lenWidth : Field.SEC_OP_RES_LEN.width = 13 := rfl
  let y := ((s.set .SEC_OP_RES_DONE 1).set .SEC_OP_RES_STATUS st).set .SEC_OP_RES_LEN len
  have logged : ∀ f, (s.secDone op st len).get f = (y.irq 6).get f := fun f => by
    unfold State.secDone
    dsimp only
    split
    · rfl
    · exact State.log'_get_other _ _ _ _ _ _ _ _ (by decide)
  have rest : (s.secDone op st len).mem = s.mem ∧ (s.secDone op st len).sec = s.sec ∧ (s.secDone op st len).ident = s.ident := by
    unfold State.secDone
    dsimp only
    split
    · exact ⟨by simp, by simp, by simp⟩
    · exact ⟨by simp, by simp, by simp⟩
  obtain ⟨mem, sec, ident⟩ := rest
  refine ⟨⟨?_, ?_⟩, ?_, mem, sec, ident, fun f other => ?_⟩
  · rw [logged, State.irq_same _ _ _ _ _ _ (by decide)]
    simp [y, doneWidth]
  · rw [logged, State.irq_same _ _ _ _ _ _ (by decide)]
    simp [y, statusWidth, Nat.mod_eq_of_lt status]
  · rw [logged, State.irq_same _ _ _ _ _ _ (by decide)]
    simp [y, lenWidth, Nat.mod_eq_of_lt length]
  · simp only [List.mem_cons, List.not_mem_nil, or_false, not_or] at other
    rw [logged, State.irq_same _ _ _ _ _ _ (by simp [other])]
    simp [y, other]

/-- A refused operation ends with its status, and nothing of its own has changed. -/
theorem State.secDone_refused (s : State) (op : Nat) {st : Nat} (status : st < 16) : let t := s.secDone op st 0
    t.secAnswer st ∧ t.mem = s.mem ∧ t.sec = s.sec ∧ t.ident = s.ident := by
  obtain ⟨answer, -, mem, sec, ident, -⟩ := s.secDone_spec op status (len := 0) (by decide)
  exact ⟨answer, mem, sec, ident⟩

theorem State.secOp_on {s : State} (a : Agent) (f : State → State) (ready : s.get .RST_STATUS_READY = 1) : s.secOp a f = f (s.set .SEC_OP_RES_DONE 0) :=
  State.whenReady_on a _ _ ready

/-- Before READY an operation only logs EV_RESET_EARLY. -/
theorem State.secOp_early {s : State} (a : Agent) (f : State → State) (early : s.get .RST_STATUS_READY ≠ 1) : let t := s.secOp a f
    t.flds = s.flds ∧ t.sec = s.sec ∧ t.ident = s.ident ∧ t.mem = s.mem ∧ t.log.flight.length = s.log.flight.length + 1 := by
  have shape : s.secOp a f = s.log' (srcHub s.inCharge 12) 0xb006 1 [(8, 0x7f000200010), (4, s.agentSrc a)] := if_neg early
  rw [shape]
  exact ⟨rfl, by simp, by simp, by simp, by simp⟩

/-! ### Security version, certificate, attestation and staged image -/

/-- The fuses that count the security version are raised. -/
theorem State.burnSvn_spec (s : State) {v : Nat} (small : v < 128) : let t := s.burn .SEC_SVN_SVN v
    t.get .SEC_SVN_SVN = v ∧ t.ident.svn = v ∧ t.sec = s.sec ∧ t.mem = s.mem := by
  have width : Field.SEC_SVN_SVN.width = 7 := rfl
  refine ⟨?_, rfl, rfl, rfl⟩
  change (s.set .SEC_SVN_SVN v).get .SEC_SVN_SVN = v
  rw [State.get_set_self, width]
  exact Nat.mod_eq_of_lt small

/-- What a root installs of a staged image. -/
def State.installed (s : State) (b : List Byte) : State :=
  s.roots.foldl (fun s h => s.mapSec fun x => { x with slots := KMap.set (KMap.set x.slots (h, 1) (KMap.get x.slots (h, 0) [])) (h, 0) b }) s

theorem State.installed_spec (s : State) (b : List Byte) : (s.installed b).mem = s.mem ∧ (s.installed b).ident = s.ident ∧
    ∀ h, s.roots.contains h = true → KMap.get (s.installed b).sec.slots (h, 0) [] = b ∧
      KMap.get (s.installed b).sec.slots (h, 1) [] = KMap.get s.sec.slots (h, 0) [] := by
  unfold State.installed State.roots
  split
  · refine ⟨rfl, rfl, fun h present => ?_⟩
    have half : h = 0 ∨ h = 1 := by simpa using present
    obtain rfl | rfl := half
    · simp [State.mapSec, KMap.get_set_ne]
    · simp [State.mapSec, KMap.get_set_ne]
  · refine ⟨rfl, rfl, fun h present => ?_⟩
    have half : h = 0 := by simpa using present
    subst half
    simp [State.mapSec, KMap.get_set_ne]

/-- The bytes of a staged image that are checked. -/
def State.stagedLen (s : State) : Nat := min 33554432 (max 3796 (field (s.rdDa .steward (s.carveBank .steward) stagingDa 16) 0xc 4))
def State.stagedImage (s : State) : List Byte := s.rdDa .steward (s.carveBank .steward) stagingDa s.stagedLen

theorem State.secInstall_eq (s : State) : s.secInstall =
    if (s.poisonDa .steward (s.carveBank .steward) stagingDa s.stagedLen).isSome ∨ (s.fwFault s.stagedImage).isSome then (s, 7)
    else (s.installed s.stagedImage, 0) := by
  unfold State.secInstall State.installed State.stagedImage State.stagedLen
  rfl

/-! ### Key requests (R460, R461) -/

theorem State.signerStatus_lt (s : State) (b : List Byte) : s.signerStatus b < 5 := by
  unfold State.signerStatus
  dsimp only
  repeat' split
  all_goals decide

theorem State.keyStatus_lt (s : State) (b : List Byte) : s.keyStatus b < 16 := by
  have signer := s.signerStatus_lt b
  unfold State.keyStatus
  dsimp only
  repeat' split
  all_goals omega

/-- The fuses and keys that an accepted request burns, before its entry and its challenge. -/
def State.keyFused (s : State) (b : List Byte) : State :=
  let n := krSlot b
  match krKind b with
  | 1 =>
    let s := s.mapSec fun x => { x with ownKey := KMap.set x.ownKey n (krKey b), ownDig := KMap.set x.ownDig n (sha3 (krKey b)) }
    (s.burn .SEC_FUSE_OWN_ENR (putBit (s.get .SEC_FUSE_OWN_ENR) n true)).burn .SEC_FUSE_FIRST_DONE 1
  | 2 => s.burn .SEC_FUSE_OWN_REV (putBit (s.get .SEC_FUSE_OWN_REV) n true)
  | _ => s.burn .SEC_FUSE_VEN_REV (putBit (s.get .SEC_FUSE_VEN_REV) n true)

theorem State.keyBurn_spec (s : State) (b : List Byte) : (s.keyBurn b).mem = (s.keyFused b).mem ∧ (s.keyBurn b).sec = (s.keyFused b).sec ∧
    (s.keyBurn b).ident = (s.keyFused b).ident :=
  ⟨State.log'_mem .., State.log'_sec .., State.log'_ident ..⟩

theorem State.keyFused_mem (s : State) (b : List Byte) : (s.keyFused b).mem = s.mem := by
  unfold State.keyFused
  dsimp only
  split <;> rfl

/-- What each kind of request burns: an enrolment with its key, the owner's revocation, the vendor's. -/
theorem State.keyFused_kinds (s : State) (b : List Byte) : let t := s.keyFused b
    (krKind b = 1 → t.ident.firstDone = 1 ∧ t.ident.ownEnr = putBit (s.get .SEC_FUSE_OWN_ENR) (krSlot b) true ∧ t.ident.ownRev = s.ident.ownRev ∧
      KMap.get t.sec.ownKey (krSlot b) [] = krKey b ∧ KMap.get t.sec.ownDig (krSlot b) [] = sha3 (krKey b)) ∧
    (krKind b = 2 → t.ident.ownRev = putBit (s.get .SEC_FUSE_OWN_REV) (krSlot b) true ∧ t.ident.ownEnr = s.ident.ownEnr ∧ t.sec = s.sec) ∧
    (krKind b = 3 → t.ident.venRev = putBit (s.get .SEC_FUSE_VEN_REV) (krSlot b) true ∧ t.ident.ownRev = s.ident.ownRev ∧ t.sec = s.sec) := by
  refine ⟨fun kind => ?_, fun kind => ?_, fun kind => ?_⟩
  · simp only [State.keyFused, kind]
    exact ⟨rfl, rfl, rfl, KMap.get_set_self .., KMap.get_set_self ..⟩
  · simp only [State.keyFused, kind]
    exact ⟨rfl, rfl, rfl⟩
  · simp only [State.keyFused, kind]
    exact ⟨rfl, rfl, rfl⟩

/-- A new challenge leaves the keys alone. -/
theorem State.newChallenge_kept (s : State) : s.newChallenge.mem = s.mem ∧ s.newChallenge.sec = s.sec ∧ s.newChallenge.ident = s.ident := ⟨rfl, rfl, rfl⟩

theorem State.secKey_unreadable {s : State} (unreadable : s.keyReadable = false) : s.secKey = s.newChallenge.secDone 3 9 0 :=
  if_pos (by rw [unreadable]; rfl)

theorem State.secKey_refused {s : State} (readable : s.keyReadable = true) (refused : s.keyStatus s.keyRecord ≠ 0) :
    s.secKey = s.newChallenge.secDone 3 (s.keyStatus s.keyRecord) 0 := by
  refine (if_neg (by rw [readable]; decide)).trans ?_
  dsimp only
  split
  next zero => exact absurd zero refused
  next => rfl

theorem State.secKey_accepted {s : State} (readable : s.keyReadable = true) (accepted : s.keyStatus s.keyRecord = 0) :
    s.secKey = (s.keyBurn s.keyRecord).newChallenge.secDone 3 0 0 := by
  refine (if_neg (by rw [readable]; decide)).trans ?_
  dsimp only
  rw [accepted]
  rfl

theorem exec_secKeyOps {s : State} (a : Agent) {c : Instr} (listed : c ∈ [Instr.secEnrollOwner a, .secRevokeOwner a, .secRevokeVendor a])
    (ready : s.get .RST_STATUS_READY = 1) : exec c s = .next (s.set .SEC_OP_RES_DONE 0).secKey := by
  simp only [List.mem_cons, List.not_mem_nil, or_false] at listed
  obtain rfl | rfl | rfl := listed
  · exact congrArg Host.Outcome.next (State.secOp_on a _ ready)
  · exact congrArg Host.Outcome.next (State.secOp_on a _ ready)
  · exact congrArg Host.Outcome.next (State.secOp_on a _ ready)

/-- An accepted request: the fuses and keys of its kind are burnt, and the operation is done. -/
theorem State.secKey_accepted_spec {s : State} (readable : s.keyReadable = true) (accepted : s.keyStatus s.keyRecord = 0) :
    s.secKey.secAnswer 0 ∧ s.secKey.mem = s.mem ∧ s.secKey.sec = (s.keyFused s.keyRecord).sec ∧ s.secKey.ident = (s.keyFused s.keyRecord).ident := by
  rw [State.secKey_accepted readable accepted]
  obtain ⟨answer, mem, sec, ident⟩ := (s.keyBurn s.keyRecord).newChallenge.secDone_refused 3 (st := 0) (by decide)
  obtain ⟨mem', sec', ident'⟩ := (s.keyBurn s.keyRecord).newChallenge_kept
  obtain ⟨mem'', sec'', ident''⟩ := s.keyBurn_spec s.keyRecord
  exact ⟨answer, (mem.trans (mem'.trans mem'')).trans (s.keyFused_mem _), sec.trans (sec'.trans sec''), ident.trans (ident'.trans ident'')⟩

/-! ### The statement -/

theorem exec_secAdvanceSvn {s : State} (a : Agent) (ready : s.get .RST_STATUS_READY = 1) : exec (.secAdvanceSvn a) s =
    let n := s.set .SEC_OP_RES_DONE 0
    .next (if n.get .RST_STATUS_FW_SLOT = 1 then n.secDone 4 8 0 else (n.burn .SEC_SVN_SVN (max (n.get .SEC_SVN_SVN) n.sec.fwSvn)).secDone 4 0 0) :=
  congrArg Host.Outcome.next (State.secOp_on a _ ready)

theorem exec_secStage {s : State} (a : Agent) (ready : s.get .RST_STATUS_READY = 1) : exec (.secStage a) s =
    let n := s.set .SEC_OP_RES_DONE 0
    .next (n.secInstall.1.secDone 2 n.secInstall.2 0) := by
  refine congrArg Host.Outcome.next ((State.secOp_on a _ ready).trans ?_)
  dsimp only

/-- Where the output area is not mapped, a certificate and a report end with ADDRESS. -/
theorem exec_secOut_unmapped {s : State} (a : Agent) (ready : s.get .RST_STATUS_READY = 1) (unmapped : (s.set .SEC_OP_RES_DONE 0).secOutOk = false) :
    exec (.secCert a) s = .next ((s.set .SEC_OP_RES_DONE 0).secDone 5 9 0) ∧ exec (.secAttest a) s = .next ((s.set .SEC_OP_RES_DONE 0).secDone 1 9 0) :=
  ⟨congrArg Host.Outcome.next ((State.secOp_on a _ ready).trans (if_neg (by rw [unmapped]; decide))),
    congrArg Host.Outcome.next ((State.secOp_on a _ ready).trans (if_neg (by rw [unmapped]; decide)))⟩

theorem exec_secCert {s : State} (a : Agent) (ready : s.get .RST_STATUS_READY = 1) (mapped : (s.set .SEC_OP_RES_DONE 0).secOutOk = true) :
    exec (.secCert a) s = let n := s.set .SEC_OP_RES_DONE 0
    .next ((n.wrDa .steward (n.carveBank .steward) n.secDa (n.sec.cert.take 4096)).secDone 5 0 (n.sec.cert.take 4096).length) :=
  congrArg Host.Outcome.next ((State.secOp_on a _ ready).trans (if_pos mapped))

theorem exec_secAttest {s : State} (a : Agent) (ready : s.get .RST_STATUS_READY = 1) (mapped : (s.set .SEC_OP_RES_DONE 0).secOutOk = true) :
    let n := s.set .SEC_OP_RES_DONE 0
    ∃ sig src fs, sig.length = 2420 ∧ exec (.secAttest a) s =
      .next (((n.tick.wrDa .steward (n.carveBank .steward) n.secDa (n.report ++ sig)).log' src 0xa005 0 fs).secDone 1 0 2740) := by
  intro n
  let sig := (List.range 2420).map (Config.mldsaSign n.sec.idSeed (sha3 n.report) attestCtx n.fresh)
  refine ⟨sig, _, _, ?_, congrArg Host.Outcome.next ((State.secOp_on a _ ready).trans (if_pos mapped))⟩
  simp [sig]

/-- A write of mapped bytes changes no key and no fuse. -/
theorem State.wrDa_kept (s : State) (a : Agent) (img : Image) (da : Nat) (bs : List Byte) : (s.wrDa a img da bs).sec = s.sec ∧ (s.wrDa a img da bs).ident = s.ident := by
  obtain ⟨m, p, written⟩ := s.wrDa_eq a img da bs
  rw [written]
  exact ⟨rfl, rfl⟩

section Operations
variable {s : State} (a : Agent) (ready : s.get .RST_STATUS_READY = 1)
include ready

theorem secAdvanceSvn_fallback (fallback : s.get .RST_STATUS_FW_SLOT = 1) : ∃ t, exec (.secAdvanceSvn a) s = .next t ∧ t.secAnswer 8 ∧
    t.get .SEC_SVN_SVN = s.get .SEC_SVN_SVN ∧ t.ident = s.ident ∧ t.sec = s.sec ∧ t.mem = s.mem := by
  have slot : (s.set .SEC_OP_RES_DONE 0).get .RST_STATUS_FW_SLOT = 1 := (State.get_set_ne _ _ _ _ _ _ _ _ (.inl (by decide))).trans fallback
  obtain ⟨answer, -, mem, sec, ident, get⟩ := (s.set .SEC_OP_RES_DONE 0).secDone_spec 4 (st := 8) (len := 0) (by decide) (by decide)
  refine ⟨_, (exec_secAdvanceSvn a ready).trans (congrArg Host.Outcome.next (if_pos slot)), answer, ?_, ident, sec, mem⟩
  exact (get _ (by decide)).trans (State.get_set_ne _ _ _ _ _ _ _ _ (.inl (by decide)))

theorem secAdvanceSvn_raises (slotA : s.get .RST_STATUS_FW_SLOT ≠ 1) (count : s.get .SEC_SVN_SVN < 128) (running : s.sec.fwSvn < 128) :
    ∃ t, exec (.secAdvanceSvn a) s = .next t ∧ t.secAnswer 0 ∧ t.get .SEC_SVN_SVN = max (s.get .SEC_SVN_SVN) s.sec.fwSvn ∧
      t.ident.svn = max (s.get .SEC_SVN_SVN) s.sec.fwSvn ∧ t.sec = s.sec ∧ t.mem = s.mem := by
  let n := s.set .SEC_OP_RES_DONE 0
  have slot : n.get .RST_STATUS_FW_SLOT ≠ 1 := fun h => slotA ((State.get_set_ne _ _ _ _ _ _ _ _ (.inl (by decide))).symm.trans h)
  have version : max (n.get .SEC_SVN_SVN) n.sec.fwSvn = max (s.get .SEC_SVN_SVN) s.sec.fwSvn :=
    congrArg (max · s.sec.fwSvn) (State.get_set_ne _ _ _ _ _ _ _ _ (.inl (by decide)))
  have run := (exec_secAdvanceSvn a ready).trans (congrArg Host.Outcome.next (if_neg slot))
  rw [version] at run
  obtain ⟨svn, fuse, sec, mem⟩ := n.burnSvn_spec (v := max (s.get .SEC_SVN_SVN) s.sec.fwSvn) (by omega)
  obtain ⟨answer, -, mem', sec', ident', get'⟩ :=
    (n.burn .SEC_SVN_SVN (max (s.get .SEC_SVN_SVN) s.sec.fwSvn)).secDone_spec 4 (st := 0) (len := 0) (by decide) (by decide)
  exact ⟨_, run, answer, (get' _ (by decide)).trans svn, (congrArg Ident.svn ident').trans fuse, sec'.trans sec, mem'.trans mem⟩

theorem secOut_unmapped (unmapped : (s.set .SEC_OP_RES_DONE 0).secOutOk = false) (c : Instr) (listed : c ∈ [Instr.secCert a, .secAttest a]) :
    ∃ t, exec c s = .next t ∧ t.secAnswer 9 ∧ t.mem = s.mem ∧ t.sec = s.sec ∧ t.ident = s.ident := by
  obtain ⟨cert, attest⟩ := exec_secOut_unmapped a ready unmapped
  simp only [List.mem_cons, List.not_mem_nil, or_false] at listed
  obtain rfl | rfl := listed
  · exact ⟨_, cert, State.secDone_refused _ 5 (by decide)⟩
  · exact ⟨_, attest, State.secDone_refused _ 1 (by decide)⟩

theorem secCert_writes (mapped : (s.set .SEC_OP_RES_DONE 0).secOutOk = true) : let n := s.set .SEC_OP_RES_DONE 0
    ∃ t, exec (.secCert a) s = .next t ∧ t.secAnswer 0 ∧ t.get .SEC_OP_RES_LEN = (s.sec.cert.take 4096).length ∧
      t.mem = (n.wrDa .steward (n.carveBank .steward) n.secDa (s.sec.cert.take 4096)).mem ∧ t.sec = s.sec ∧ t.ident = s.ident := by
  intro n
  let y := n.wrDa .steward (n.carveBank .steward) n.secDa (s.sec.cert.take 4096)
  obtain ⟨sec, ident⟩ := n.wrDa_kept .steward (n.carveBank .steward) n.secDa (s.sec.cert.take 4096)
  have short : (s.sec.cert.take 4096).length < 8192 := by
    rw [List.length_take]
    omega
  obtain ⟨answer, len, mem, sec', ident', -⟩ := y.secDone_spec 5 (st := 0) (by decide) short
  exact ⟨_, exec_secCert a ready mapped, answer, len, mem, sec'.trans sec, ident'.trans ident⟩

theorem secAttest_writes (mapped : (s.set .SEC_OP_RES_DONE 0).secOutOk = true) : let n := s.set .SEC_OP_RES_DONE 0
    ∃ t sig, exec (.secAttest a) s = .next t ∧ t.secAnswer 0 ∧ t.get .SEC_OP_RES_LEN = 2740 ∧ sig.length = 2420 ∧
      t.mem = (n.tick.wrDa .steward (n.carveBank .steward) n.secDa (n.report ++ sig)).mem ∧ t.sec = s.sec ∧ t.ident = s.ident := by
  intro n
  obtain ⟨sig, src, fs, length, run⟩ := exec_secAttest a ready mapped
  let y := n.tick.wrDa .steward (n.carveBank .steward) n.secDa (n.report ++ sig)
  obtain ⟨sec, ident⟩ := n.tick.wrDa_kept .steward (n.carveBank .steward) n.secDa (n.report ++ sig)
  obtain ⟨answer, len, mem', sec', ident', -⟩ := (y.log' src 0xa005 0 fs).secDone_spec 1 (st := 0) (len := 2740) (by decide) (by decide)
  exact ⟨_, sig, run, answer, len, length, mem'.trans (State.log'_mem ..), (sec'.trans (State.log'_sec ..)).trans sec,
    (ident'.trans (State.log'_ident ..)).trans ident⟩

theorem secStage_refused : let n := s.set .SEC_OP_RES_DONE 0
    (n.poisonDa .steward (n.carveBank .steward) stagingDa n.stagedLen).isSome ∨ (n.fwFault n.stagedImage).isSome →
      ∃ t, exec (.secStage a) s = .next t ∧ t.secAnswer 7 ∧ t.sec = s.sec ∧ t.mem = s.mem ∧ t.ident = s.ident := by
  intro n fault
  have install : n.secInstall = (n, 7) := n.secInstall_eq.trans (if_pos fault)
  have run : exec (.secStage a) s = .next (n.secDone 2 7 0) := by
    rw [exec_secStage a ready]
    change Host.Outcome.next (n.secInstall.1.secDone 2 n.secInstall.2 0) = _
    rw [install]
  obtain ⟨answer, mem, sec, ident⟩ := n.secDone_refused 2 (st := 7) (by decide)
  exact ⟨_, run, answer, sec, mem, ident⟩

theorem secStage_accepted : let n := s.set .SEC_OP_RES_DONE 0
    n.poisonDa .steward (n.carveBank .steward) stagingDa n.stagedLen = none → n.fwFault n.stagedImage = none →
      ∃ t, exec (.secStage a) s = .next t ∧ t.secAnswer 0 ∧ t.mem = s.mem ∧ t.ident = s.ident ∧ ∀ h, s.roots.contains h = true →
        KMap.get t.sec.slots (h, 0) [] = n.stagedImage ∧ KMap.get t.sec.slots (h, 1) [] = KMap.get s.sec.slots (h, 0) [] := by
  intro n clean sound
  have install : n.secInstall = (n.installed n.stagedImage, 0) := n.secInstall_eq.trans (if_neg (by rw [clean, sound]; simp))
  have run : exec (.secStage a) s = .next ((n.installed n.stagedImage).secDone 2 0 0) := by
    rw [exec_secStage a ready]
    change Host.Outcome.next (n.secInstall.1.secDone 2 n.secInstall.2 0) = _
    rw [install]
  obtain ⟨answer, mem', sec', ident'⟩ := (n.installed n.stagedImage).secDone_refused 2 (st := 0) (by decide)
  obtain ⟨mem, ident, slots⟩ := n.installed_spec n.stagedImage
  refine ⟨_, run, answer, mem'.trans mem, ident'.trans ident, fun h present => ?_⟩
  rw [sec']
  exact slots h present

theorem secKey_answers (c : Instr) (listed : c ∈ [Instr.secEnrollOwner a, .secRevokeOwner a, .secRevokeVendor a]) : let n := s.set .SEC_OP_RES_DONE 0
    (n.keyReadable = false → ∃ t, exec c s = .next t ∧ t.secAnswer 9 ∧ t.sec = s.sec ∧ t.ident = s.ident ∧ t.mem = s.mem) ∧
    (n.keyReadable = true → n.keyStatus n.keyRecord ≠ 0 →
      ∃ t, exec c s = .next t ∧ t.secAnswer (n.keyStatus n.keyRecord) ∧ t.sec = s.sec ∧ t.ident = s.ident ∧ t.mem = s.mem) := by
  intro n
  have run : exec c s = .next n.secKey := exec_secKeyOps a listed ready
  refine ⟨fun unreadable => ?_, fun readable refused => ?_⟩
  · obtain ⟨answer, mem, sec, ident⟩ := n.newChallenge.secDone_refused 3 (st := 9) (by decide)
    exact ⟨_, run.trans (congrArg _ (State.secKey_unreadable unreadable)), answer, sec, ident, mem⟩
  · obtain ⟨answer, mem, sec, ident⟩ := n.newChallenge.secDone_refused 3 (n.keyStatus_lt n.keyRecord)
    exact ⟨_, run.trans (congrArg _ (State.secKey_refused readable refused)), answer, sec, ident, mem⟩

end Operations

/-- Settles O32: each operation by what it does when READY reads 1, and what every one logs before. -/
theorem securityOperationsAnswerAndChangeOnlyTheirOwn : Obligations.SecurityOperationsAnswerAndChangeOnlyTheirOwn := by
  unfold Obligations.SecurityOperationsAnswerAndChangeOnlyTheirOwn
  refine ⟨fun s a ready => ⟨secAdvanceSvn_fallback a ready, secAdvanceSvn_raises a ready, secOut_unmapped a ready,
    fun mapped => ⟨secCert_writes a ready mapped, secAttest_writes a ready mapped⟩, ⟨secStage_refused a ready, secStage_accepted a ready⟩,
    fun c listed => ⟨(secKey_answers a ready c listed).1, fun readable => ⟨(secKey_answers a ready c listed).2 readable, fun accepted => ?_⟩⟩⟩,
    fun s a early c listed => ?_⟩
  · obtain ⟨answer, mem, sec, ident⟩ := State.secKey_accepted_spec readable accepted
    refine ⟨_, exec_secKeyOps a listed ready, answer, mem, ?_⟩
    rw [sec, ident]
    have own : (s.set .SEC_OP_RES_DONE 0).get .SEC_FUSE_OWN_ENR = s.get .SEC_FUSE_OWN_ENR := State.get_set_ne _ _ _ _ _ _ _ _ (.inl (by decide))
    have owner : (s.set .SEC_OP_RES_DONE 0).get .SEC_FUSE_OWN_REV = s.get .SEC_FUSE_OWN_REV := State.get_set_ne _ _ _ _ _ _ _ _ (.inl (by decide))
    have vendor : (s.set .SEC_OP_RES_DONE 0).get .SEC_FUSE_VEN_REV = s.get .SEC_FUSE_VEN_REV := State.get_set_ne _ _ _ _ _ _ _ _ (.inl (by decide))
    rw [← own, ← owner, ← vendor]
    exact State.keyFused_kinds _ _
  · simp only [List.mem_cons, List.not_mem_nil, or_false] at listed
    obtain rfl | rfl | rfl | rfl | rfl | rfl | rfl := listed
    all_goals exact ⟨_, rfl, State.secOp_early a _ early⟩

end Sys2Proof.Machine

/-! O33: the link layer (R313 to R318, R322, R336, R337) and the fibre-attach blocks (R515). -/
namespace Sys2Proof.Machine

open Sys2Proof

/-! ### A port's own state -/

theorem State.port_setPort_self (s : State) (p : Nat) (x : PortSt) : (s.setPort p x).port p = x := KMap.get_set_self ..

theorem State.port_setPort_ne (s : State) {p q : Nat} (x : PortSt) (other : q ≠ p) : (s.setPort p x).port q = s.port q := KMap.get_set_ne _ _ _ _ _ other

/-- Whether a port carries traffic depends on its STATE alone. -/
theorem State.portUp_of_state {s t : State} {p : Nat} (same : t.get .FAB_PORT_STATE 0 p = s.get .FAB_PORT_STATE 0 p) : t.portUp p = s.portUp p := by
  rw [State.portUp, State.portUp, same]

/-- A field of another port, and another field of this port, are not what a write to a port's field changes. -/
theorem State.get_setPort_other {s : State} {f g : Field} (v : Nat) {p q : Nat} (other : g ≠ f ∨ q ≠ p) : (s.set f v 0 p).get g 0 q = s.get g 0 q := by
  refine State.get_set_ne _ _ _ _ _ _ _ _ ?_
  obtain field | port := other
  · exact .inl field
  · exact .inr (.inr port)

/-! ### Training (R315, R317, R318) -/

/-- A port's lanes are the low four bits of a mask. -/
theorem useLanes_mod (m : Nat) : useLanes (m % 16) = useLanes m := by
  have lanes : bitList (m % 16) 4 = bitList m 4 := List.filter_congr fun i listed => bit_mod m 4 i (List.mem_range.mp listed)
  rw [useLanes, useLanes, lanes]

theorem useLanes_lt (m : Nat) : useLanes m < 16 := by
  have all : ∀ k < 16, useLanes k < 16 := by decide
  rw [← useLanes_mod]
  exact all _ (Nat.mod_lt _ (by decide))

/-- All four lanes are in use exactly where the mask is 15. -/
theorem useLanes_four (m : Nat) : (bitList (useLanes m) 4).length = 4 ↔ useLanes m = 15 := by
  have all : ∀ k < 16, (bitList k 4).length = 4 ↔ k = 15 := by decide
  exact all _ (useLanes_lt m)

/-- The registers and the state of a port that has met its partner. -/
def State.portMet (s : State) (p dev pport m c1 c2 c3 : Nat) : State :=
  (((s.set .FAB_PORT_PEER dev 0 p).set .FAB_PORT_PEER_PORT pport 0 p).set .FAB_PORT_ACTIVE (useLanes m) 0 p).setPort p
    { PortSt.init with healthy := m % 16, credits := [(0, 256), (1, c1), (2, c2), (3, c3)] }

section Train
variable {s : State} {p : Nat} (dev pport m c1 c2 c3 : Nat)

theorem exec_portTraining (present : s.portOk p = true) : exec (.portTraining p dev pport m c1 c2 c3) s = .next (s.portTrain p dev pport m c1 c2 c3) :=
  onUnit_present present

theorem State.portTrain_refused (refused : s.mayTrain p = false ∨ s.get .FAB_PORT_STATE 0 p ≠ 1 ∨ useLanes m = 0) :
    s.portTrain p dev pport m c1 c2 c3 = s := by
  refine if_pos ?_
  rwa [Bool.not_eq_true']

theorem State.portTrain_met (may : s.mayTrain p = true) (trains : s.get .FAB_PORT_STATE 0 p = 1) (lanes : useLanes m ≠ 0) :
    ∃ st src code sev fs, st = (if (s.miswired p dev).isSome then 4 else if useLanes m = 15 then 2 else 3) ∧ ¬(code = 0x5010 ∨ code = 0x5002) ∧
      s.portTrain p dev pport m c1 c2 c3 = ((s.portMet p dev pport m c1 c2 c3).set .FAB_PORT_STATE st 0 p).log' src code sev fs := by
  have met : s.portTrain p dev pport m c1 c2 c3 = _ := if_neg (by rw [may]; simp [trains, lanes])
  have wired : (s.portMet p dev pport m c1 c2 c3).miswired p dev = s.miswired p dev := rfl
  rw [met]
  unfold State.portMet at wired ⊢
  dsimp only at wired ⊢
  rw [wired]
  cases s.miswired p dev with
  | some e => exact ⟨4, srcPort p, 0x5004, 2, _, rfl, by decide, rfl⟩
  | none =>
    refine ⟨if (bitList (useLanes m) 4).length = 4 then 2 else 3, srcPort p, 0x5001, 0, _, ?_, by decide, rfl⟩
    simp [useLanes_four]

/-- What a port that has trained reads, and what the other ports keep. -/
theorem State.portMet_spec (s : State) (p : Nat) {st code : Nat} (src sev : Nat) (fs) (small : st < 8) (quiet : ¬(code = 0x5010 ∨ code = 0x5002)) :
    let t := ((s.portMet p dev pport m c1 c2 c3).set .FAB_PORT_STATE st 0 p).log' src code sev fs
    t.get .FAB_PORT_STATE 0 p = st ∧ t.get .FAB_PORT_PEER 0 p = dev % 65536 ∧ t.get .FAB_PORT_ACTIVE 0 p = useLanes m ∧
      t.port p = { PortSt.init with healthy := m % 16, credits := [(0, 256), (1, c1), (2, c2), (3, c3)] } ∧ t.mem = s.mem ∧
      ∀ q, q ≠ p → t.port q = s.port q ∧ t.get .FAB_PORT_STATE 0 q = s.get .FAB_PORT_STATE 0 q := by
  have stateWidth : Field.FAB_PORT_STATE.width = 3 := rfl
  have peerWidth : Field.FAB_PORT_PEER.width = 16 := rfl
  have activeWidth : Field.FAB_PORT_ACTIVE.width = 4 := rfl
  have lanes := useLanes_lt m
  intro t
  have get (f : Field) (q : Nat) : t.get f 0 q = ((s.portMet p dev pport m c1 c2 c3).set .FAB_PORT_STATE st 0 p).get f 0 q :=
    State.log'_get_other _ _ _ _ _ _ _ _ quiet
  have fab : t.fab = (s.portMet p dev pport m c1 c2 c3).fab := State.log'_fab ..
  have before (f : Field) (q : Nat) : (s.portMet p dev pport m c1 c2 c3).get f 0 q =
      (((s.set .FAB_PORT_PEER dev 0 p).set .FAB_PORT_PEER_PORT pport 0 p).set .FAB_PORT_ACTIVE (useLanes m) 0 p).get f 0 q := rfl
  refine ⟨?_, ?_, ?_, ?_, State.log'_mem .., fun q other => ⟨?_, ?_⟩⟩
  · rw [get, State.get_set_self, stateWidth]
    omega
  · rw [get, State.get_setPort_other _ (.inl (by decide)), before]
    simp [peerWidth]
  · rw [get, State.get_setPort_other _ (.inl (by decide)), before, State.get_set_self, activeWidth]
    omega
  · rw [State.port, fab]
    exact State.port_setPort_self ..
  · rw [State.port, fab]
    exact State.port_setPort_ne _ _ other
  · rw [get, State.get_setPort_other _ (.inr other), before]
    simp

end Train

/-! ### A port that goes down (R336, R337) -/

/-- A port's own registers and state when it is down. -/
def State.portCleared (s : State) (p : Nat) : State :=
  (((s.setPort p PortSt.init).forgetDelay p).set .FAB_PORT_STATE 0 0 p).set .FAB_PORT_ACTIVE 0 0 p

theorem State.portDown_idle {s : State} {p : Nat} (cause : Nat) (down : s.portUp p = false) : s.portDown p cause = s.portCleared p :=
  if_pos (by rw [down]; rfl)

/-- An up port with nothing to send and no peer of its own logs that it goes down. -/
theorem State.portDown_empty {s : State} {p : Nat} (cause : Nat) (up : s.portUp p = true) (empty : (s.port p).unsent = [])
    (noPeer : (s.peers.filter fun e => e.tiers == 0 && bit e.ports p) = []) :
    s.portDown p cause = (s.portCleared p).log' (srcPort p) 0x5002 1 [(1, p), (2, s.get .FAB_PORT_PEER 0 p), (1, cause)] := by
  have down : s.portDown p cause = _ := if_neg (by rw [up]; decide)
  rw [down, empty, List.foldl_nil]
  have peers : ((s.portCleared p).log' (srcPort p) 0x5002 1 [(1, p), (2, s.get .FAB_PORT_PEER 0 p), (1, cause)]).peers = s.peers := by
    rw [State.peers, State.peerMap, State.fabUnit, State.bank, State.log'_str, State.log'_ident]
    rfl
  change ((List.filter _ (((s.portCleared p).log' _ _ _ _).peers)).foldl _ _) = _
  rw [peers, noPeer, List.foldl_nil, State.portCleared]

theorem State.portCleared_get (s : State) (p : Nat) (f : Field) (q : Nat) : (s.portCleared p).get f 0 q =
    if q = p ∧ (f = .FAB_PORT_STATE ∨ f = .FAB_PORT_ACTIVE) then 0 else s.get f 0 q := by
  unfold State.portCleared
  rw [State.get_set, State.get_set]
  by_cases port : q = p
  · by_cases state : f = .FAB_PORT_STATE
    · simp [port, state]
    · by_cases active : f = .FAB_PORT_ACTIVE
      · simp [port, active]
      · simp [state, active]
        rfl
  · simp [port]
    rfl

theorem State.portCleared_port (s : State) (p : Nat) : (s.portCleared p).port p = PortSt.init := State.port_setPort_self ..

theorem State.portDown_idle_spec {s : State} {p : Nat} (cause : Nat) (down : s.portUp p = false) : let t := s.portDown p cause
    t.get .FAB_PORT_STATE 0 p = 0 ∧ t.get .FAB_PORT_ACTIVE 0 p = 0 ∧ t.port p = PortSt.init ∧ t.mem = s.mem ∧ t.log = s.log := by
  rw [State.portDown_idle cause down]
  exact ⟨by simp [State.portCleared_get], by simp [State.portCleared_get], State.portCleared_port .., rfl, rfl⟩

theorem State.portDown_empty_spec {s : State} {p : Nat} (cause : Nat) (up : s.portUp p = true) (empty : (s.port p).unsent = [])
    (noPeer : (s.peers.filter fun e => e.tiers == 0 && bit e.ports p) = []) : let t := s.portDown p cause
    t.get .FAB_PORT_STATE 0 p = 0 ∧ t.get .FAB_PORT_ACTIVE 0 p = 0 ∧ t.port p = PortSt.init ∧ t.mem = s.mem ∧
      (∃ k x, (k, x) ∈ t.log.flight ∧ x.code = 0x5002 ∧ x.sev = 1) ∧ bit (t.get .GLB_IRQ_STATUS_SRC) 11 = true := by
  rw [State.portDown_empty cause up empty noPeer]
  intro t
  have get (f : Field) (other : f ≠ .GLB_IRQ_ROUTE_LOST ∧ f ≠ .GLB_IRQ_STATUS_SRC) : t.get f 0 p = (s.portCleared p).get f 0 p :=
    State.log'_get _ _ _ _ _ _ _ _ other.1 other.2
  let down : Entry := ⟨(s.portCleared p).beat.stamp.getD (s.portCleared p).now, (s.portCleared p).get .BEAT_WALL_WALL, srcPort p, 0x5002, 1, 0,
    payloadOf [(1, p), (2, s.get .FAB_PORT_PEER 0 p), (1, cause)]⟩
  refine ⟨?_, ?_, ?_, State.log'_mem .., ⟨halfOfSrc (srcPort p), down, ?_, rfl, rfl⟩, ?_⟩
  · rw [get _ (by decide)]
    simp [State.portCleared_get]
  · rw [get _ (by decide)]
    simp [State.portCleared_get]
  · exact (congrArg (fun fab : FabSt => KMap.get fab.ports p PortSt.init) (State.log'_fab ..)).trans (State.portCleared_port ..)
  · rw [State.log'_log]
    exact List.mem_append_right _ (List.mem_singleton.mpr rfl)
  · exact State.irq_bit _ 11 _ (by decide)

/-! ### Retraining and disabling (R317, R337) -/

theorem State.retrain_idle_spec {s : State} {p : Nat} (may : s.mayTrain p = true) (down : s.portUp p = false) : let t := s.retrain p
    t.get .FAB_PORT_STATE 0 p = 1 ∧ t.get .FAB_PORT_ACTIVE 0 p = 0 ∧ t.mem = s.mem ∧
      ∀ q, q ≠ p → t.get .FAB_PORT_STATE 0 q = s.get .FAB_PORT_STATE 0 q := by
  rw [State.retrain, if_pos may, State.portDown_idle 1 down]
  refine ⟨?_, ?_, rfl, fun q other => ?_⟩
  · exact (State.get_set_self ..).trans rfl
  · rw [State.get_setPort_other _ (.inl (by decide)), State.portCleared_get, if_pos ⟨rfl, .inr rfl⟩]
  · rw [State.get_setPort_other _ (.inr other), State.portCleared_get, if_neg fun h => other h.1]

/-- What a write of DISABLE makes of a port's STATE: a new bit disables it, a cleared one leaves it down. -/
def disabledState (mask old p st : Nat) : Nat := if bit mask p ∧ ¬bit old p then 5 else if ¬bit mask p ∧ bit old p then 0 else st

/-- One port of a write of DISABLE. -/
def State.disableOne (mask old : Nat) (s : State) (p : Nat) : State :=
  if bit mask p ∧ !bit old p then (s.portDown p 2).set .FAB_PORT_STATE 5 0 p
  else if !bit mask p ∧ bit old p then s.set .FAB_PORT_STATE 0 0 p
  else s

theorem State.disableOne_idle (mask old : Nat) {s : State} (p : Nat) (down : s.portUp p = false) : let t := State.disableOne mask old s p
    t.mem = s.mem ∧ t.log = s.log ∧ t.get .FAB_PORT_CTL_DISABLE = s.get .FAB_PORT_CTL_DISABLE ∧
      ∀ q, t.get .FAB_PORT_STATE 0 q = if q = p then disabledState mask old q (s.get .FAB_PORT_STATE 0 q) else s.get .FAB_PORT_STATE 0 q := by
  have width : Field.FAB_PORT_STATE.width = 3 := rfl
  unfold State.disableOne
  split
  next sets =>
    have disabled (st : Nat) : disabledState mask old p st = 5 := by
      rw [disabledState, if_pos (by simpa using sets)]
    rw [State.portDown_idle 2 down]
    refine ⟨rfl, rfl, ?_, fun q => ?_⟩
    · rw [State.get_set_ne _ _ _ _ _ _ _ _ (.inl (by decide)), State.portCleared_get, if_neg (by simp)]
    · rw [State.get_set, State.portCleared_get, width]
      by_cases port : q = p
      · simp [port, disabled]
      · simp [port]
  next keeps =>
    split
    next clears =>
      have cleared (st : Nat) : disabledState mask old p st = 0 := by
        rw [disabledState, if_neg (by simpa using keeps), if_pos (by simpa using clears)]
      refine ⟨rfl, rfl, State.get_set_ne _ _ _ _ _ _ _ _ (.inl (by decide)), fun q => ?_⟩
      rw [State.get_set]
      by_cases port : q = p
      · simp [port, cleared]
      · simp [port]
    next same =>
      have kept (q st : Nat) (port : q = p) : disabledState mask old q st = st := by
        rw [port, disabledState, if_neg (by simpa using keeps), if_neg (by simpa using same)]
      refine ⟨rfl, rfl, rfl, fun q => ?_⟩
      split
      next port => exact (kept q _ port).symm
      next => rfl

/-- Doing a port twice is doing it once. -/
theorem disabledState_idem (mask old p st : Nat) : disabledState mask old p (disabledState mask old p st) = disabledState mask old p st := by
  unfold disabledState
  split
  · rfl
  · split <;> rfl

theorem disabledState_down {st : Nat} (mask old p : Nat) (down : (st == 2 || st == 3) = false) :
    (disabledState mask old p st == 2 || disabledState mask old p st == 3) = false := by
  unfold disabledState
  split
  · rfl
  · split
    · rfl
    · exact down

/-- A write of DISABLE while no port is up. -/
theorem State.disableAll_idle (mask old : Nat) (l : List Nat) {s : State} (down : ∀ p, s.portUp p = false) : let t := l.foldl (State.disableOne mask old) s
    t.mem = s.mem ∧ t.log = s.log ∧ t.get .FAB_PORT_CTL_DISABLE = s.get .FAB_PORT_CTL_DISABLE ∧
      ∀ q, t.get .FAB_PORT_STATE 0 q = if q ∈ l then disabledState mask old q (s.get .FAB_PORT_STATE 0 q) else s.get .FAB_PORT_STATE 0 q := by
  induction l generalizing s with
  | nil => exact ⟨rfl, rfl, rfl, fun q => by simp⟩
  | cons p l ih =>
    obtain ⟨mem, log, disable, state⟩ := State.disableOne_idle mask old p (down p)
    have down' (q : Nat) : (State.disableOne mask old s p).portUp q = false := by
      rw [State.portUp, state q]
      split
      · exact disabledState_down _ _ _ (down q)
      · exact down q
    obtain ⟨mem', log', disable', state'⟩ := ih down'
    refine ⟨mem'.trans mem, log'.trans log, disable'.trans disable, fun q => ?_⟩
    rw [List.foldl_cons, state' q, state q]
    by_cases first : q = p
    · by_cases later : q ∈ l
      · rw [if_pos later, if_pos first, if_pos (List.mem_cons.mpr (.inl first)), disabledState_idem]
      · rw [if_neg later, if_pos first, if_pos (List.mem_cons.mpr (.inl first))]
    · simp [first]

theorem State.portDisable_eq (s : State) (mask : Nat) : s.portDisable mask =
    (List.range s.ident.ports).foldl (State.disableOne mask (s.get .FAB_PORT_CTL_DISABLE)) (s.set .FAB_PORT_CTL_DISABLE (mask % 65536)) := rfl

theorem State.portDisable_idle {s : State} (mask : Nat) (down : ∀ p, s.portUp p = false) : let t := s.portDisable mask
    t.get .FAB_PORT_CTL_DISABLE = mask % 65536 ∧ t.mem = s.mem ∧ t.log = s.log ∧
      ∀ p, t.get .FAB_PORT_STATE 0 p = if p < s.ident.ports then disabledState mask (s.get .FAB_PORT_CTL_DISABLE) p (s.get .FAB_PORT_STATE 0 p)
        else s.get .FAB_PORT_STATE 0 p := by
  have width : Field.FAB_PORT_CTL_DISABLE.width = 16 := rfl
  have kept (p : Nat) : (s.set .FAB_PORT_CTL_DISABLE (mask % 65536)).get .FAB_PORT_STATE 0 p = s.get .FAB_PORT_STATE 0 p :=
    State.get_set_ne _ _ _ _ _ _ _ _ (.inl (by decide))
  obtain ⟨mem, log, disable, state⟩ := State.disableAll_idle mask (s.get .FAB_PORT_CTL_DISABLE) (List.range s.ident.ports)
    (s := s.set .FAB_PORT_CTL_DISABLE (mask % 65536)) fun p => (State.portUp_of_state (kept p)).trans (down p)
  rw [State.portDisable_eq]
  refine ⟨?_, mem, log, fun p => ?_⟩
  · rw [disable, State.get_set_self, width]
    exact Nat.mod_mod ..
  · rw [state p, kept p]
    simp

/-! ### Lanes that are dropped (R317) -/

/-- The SEQ of the first frame that is not acknowledged, or of the next one. -/
def PortSt.firstUnacked (x : PortSt) : Nat := match x.replay with | f :: _ => f.seq | [] => x.seq

theorem State.laneChange_spec {s : State} {p healthy : Nat} (heard : Bool) (lanes : useLanes healthy ≠ 0) : let t := s.laneChange p healthy heard
    t.get .FAB_PORT_ACTIVE 0 p = useLanes healthy ∧ t.get .FAB_PORT_STATE 0 p = 3 ∧ t.get .FAB_PORT_DEGRADES 0 p = s.get .FAB_PORT_DEGRADES 0 p ∧
      t.port p = { s.port p with healthy := healthy, change := some ((s.port p).firstUnacked, heard), resend := (s.port p).replay, bad := [], corr := [] } ∧
      (∀ q, q ≠ p → t.port q = s.port q) ∧ t.mem = s.mem := by
  have activeWidth : Field.FAB_PORT_ACTIVE.width = 4 := rfl
  have small := useLanes_lt healthy
  have shape : s.laneChange p healthy heard = ((s.setPort p { s.port p with
      healthy := healthy, change := some ((s.port p).firstUnacked, heard), resend := (s.port p).replay, bad := [], corr := [] }).set
      .FAB_PORT_ACTIVE (useLanes healthy) 0 p).set .FAB_PORT_STATE 3 0 p := if_neg lanes
  rw [shape]
  refine ⟨?_, ?_, ?_, State.port_setPort_self .., fun q other => State.port_setPort_ne _ _ other, rfl⟩
  · rw [State.get_setPort_other _ (.inl (by decide)), State.get_set_self, activeWidth]
    omega
  · exact (State.get_set_self ..).trans rfl
  · rw [State.get_setPort_other _ (.inl (by decide)), State.get_setPort_other _ (.inl (by decide))]
    rfl

section Drop
variable {s : State} {p lane : Nat} (cause : Nat) (present : s.portOk p = true) (lanes : lane < 4)

include present lanes in
theorem exec_laneDrop : exec (.laneDrop p lane cause) s = .next (s.laneDrop p lane cause) :=
  onUnit_present (by simp [present, lanes])

theorem State.laneDrop_down (down : s.portUp p = false) : s.laneDrop p lane cause = s := if_pos (by rw [down]; rfl)

theorem State.laneDrop_unused (up : s.portUp p = true) (unused : (s.lanes p).contains lane = false) :
    s.laneDrop p lane cause = s.setPort p { s.port p with healthy := putBit (s.port p).healthy lane false } := by
  refine (if_neg (by rw [up]; decide)).trans (if_pos ?_)
  rw [unused]
  rfl

/-- A lane in use is dropped: it is counted and logged, and the port goes over to the lanes that are left. -/
theorem State.laneDrop_used (up : s.portUp p = true) (used : (s.lanes p).contains lane = true) : let h := putBit (s.port p).healthy lane false
    s.laneDrop p lane cause =
      ((s.bump .FAB_PORT_DEGRADES 1 0 p).log' (srcPort p) 0x5003 1 [(1, p), (1, lane), (1, useLanes h), (1, cause)]).laneChange p h false := by
  refine (if_neg (by rw [up]; decide)).trans (if_neg ?_)
  rw [used]
  decide

theorem State.laneDrop_used_spec (up : s.portUp p = true) (used : (s.lanes p).contains lane = true) : let x := s.port p
    let h := putBit x.healthy lane false
    let t := s.laneDrop p lane cause
    useLanes h ≠ 0 → t.get .FAB_PORT_ACTIVE 0 p = useLanes h ∧ t.get .FAB_PORT_STATE 0 p = 3 ∧
      t.get .FAB_PORT_DEGRADES 0 p = (s.get .FAB_PORT_DEGRADES 0 p + 1) % 65536 ∧
      t.port p = { x with healthy := h, change := some (x.firstUnacked, false), resend := x.replay, bad := [], corr := [] } ∧
      (∀ q, q ≠ p → t.port q = s.port q) ∧ t.mem = s.mem := by
  intro x h t left
  let y := (s.bump .FAB_PORT_DEGRADES 1 0 p).log' (srcPort p) 0x5003 1 [(1, p), (1, lane), (1, useLanes h), (1, cause)]
  have shape : t = y.laneChange p h false := State.laneDrop_used cause up used
  obtain ⟨active, state, degrades, port, others, mem⟩ := State.laneChange_spec (s := y) (p := p) false left
  rw [← shape] at active state degrades port others mem
  have fab : y.fab = s.fab := State.log'_fab ..
  have kept (q : Nat) : y.port q = s.port q := by rw [State.port, State.port, fab]
  refine ⟨active, state, ?_, ?_, fun q other => (others q other).trans (kept q), mem.trans (State.log'_mem ..)⟩
  · rw [degrades, State.log'_get_other _ _ _ _ _ _ _ _ (by decide)]
    exact (State.get_set_self ..).trans rfl
  · rw [port, kept]

end Drop

/-! ### Fibre-attach blocks (R515) -/

/-- A block's lasers are off. -/
def State.unlatch (s : State) (block : Nat) : State := { s with fab := { s.fab with unlatched := block :: s.fab.unlatched.filter (· != block) } }

/-- A port of an unlatched block, unless it is disabled. -/
def State.unlatchOne (s : State) (p : Nat) : State := if s.get .FAB_PORT_STATE 0 p = 5 then s else s.portDown p 0

theorem exec_fibreBlockUnlatch {s : State} {b : Nat} (present : s.opticsOk b = true) :
    exec (.fibreBlockUnlatch b) s = .next (((List.range 4).map (4 * b + ·)).foldl State.unlatchOne (s.unlatch b)) := onUnit_present present

theorem State.unlatchOne_idle {s : State} (p : Nat) (down : s.portUp p = false) : let t := s.unlatchOne p
    t.mem = s.mem ∧ t.log = s.log ∧ t.fab.unlatched = s.fab.unlatched ∧
      ∀ q, t.get .FAB_PORT_STATE 0 q = if q = p ∧ s.get .FAB_PORT_STATE 0 q ≠ 5 then 0 else s.get .FAB_PORT_STATE 0 q := by
  unfold State.unlatchOne
  split
  next disabled =>
    refine ⟨rfl, rfl, rfl, fun q => ?_⟩
    split
    next port => exact absurd (port.1 ▸ disabled) port.2
    next => rfl
  next enabled =>
    rw [State.portDown_idle 0 down]
    refine ⟨rfl, rfl, rfl, fun q => ?_⟩
    rw [State.portCleared_get]
    by_cases port : q = p
    · subst port
      simp [enabled]
    · simp [port]

theorem State.unlatchAll_idle (l : List Nat) {s : State} (down : ∀ p, s.portUp p = false) : let t := l.foldl State.unlatchOne s
    t.mem = s.mem ∧ t.log = s.log ∧ t.fab.unlatched = s.fab.unlatched ∧
      ∀ q, t.get .FAB_PORT_STATE 0 q = if q ∈ l ∧ s.get .FAB_PORT_STATE 0 q ≠ 5 then 0 else s.get .FAB_PORT_STATE 0 q := by
  induction l generalizing s with
  | nil => exact ⟨rfl, rfl, rfl, fun q => by simp⟩
  | cons p l ih =>
    obtain ⟨mem, log, unlatched, state⟩ := State.unlatchOne_idle p (down p)
    have down' (q : Nat) : (s.unlatchOne p).portUp q = false := by
      rw [State.portUp, state q]
      split
      · rfl
      · exact down q
    obtain ⟨mem', log', unlatched', state'⟩ := ih down'
    refine ⟨mem'.trans mem, log'.trans log, unlatched'.trans unlatched, fun q => ?_⟩
    rw [List.foldl_cons, state' q, state q]
    by_cases first : q = p ∧ s.get .FAB_PORT_STATE 0 q ≠ 5
    · rw [if_pos first, ite_self, if_pos ⟨List.mem_cons.mpr (.inl first.1), first.2⟩]
    · rw [if_neg first]
      refine if_congr ⟨fun h => ⟨List.mem_cons_of_mem _ h.1, h.2⟩, fun h => ⟨?_, h.2⟩⟩ rfl rfl
      exact (List.mem_cons.mp h.1).resolve_left fun port => first ⟨port, h.2⟩

/-- A port of an unlatched block may not train. -/
theorem State.mayTrain_unlatched {s : State} {p : Nat} (unlatched : s.fab.unlatched.contains (p / 4) = true) : s.mayTrain p = false := by
  rw [State.mayTrain, unlatched]
  simp

theorem State.fibreUnlatch_spec {s : State} (b : Nat) (down : ∀ p, s.portUp p = false) :
    let t := ((List.range 4).map (4 * b + ·)).foldl State.unlatchOne (s.unlatch b)
    t.mem = s.mem ∧ t.log = s.log ∧ ∀ p, p / 4 = b → t.mayTrain p = false ∧
      t.get .FAB_PORT_STATE 0 p = if s.get .FAB_PORT_STATE 0 p = 5 then 5 else 0 := by
  obtain ⟨mem, log, unlatched, state⟩ := State.unlatchAll_idle ((List.range 4).map (4 * b + ·)) (s := s.unlatch b) down
  refine ⟨mem, log, fun p block => ⟨State.mayTrain_unlatched ?_, ?_⟩⟩
  · rw [unlatched, block]
    simp [State.unlatch]
  · have listed : p ∈ (List.range 4).map (4 * b + ·) := List.mem_map.mpr ⟨p % 4, List.mem_range.mpr (by omega), by omega⟩
    have kept : (s.unlatch b).get .FAB_PORT_STATE 0 p = s.get .FAB_PORT_STATE 0 p := rfl
    rw [state p, kept]
    by_cases disabled : s.get .FAB_PORT_STATE 0 p = 5
    · simp [disabled]
    · simp [disabled, listed]

theorem State.fibreLatch_spec {s : State} {b : Nat} (present : s.opticsOk b = true) : ∃ t, exec (.fibreBlockLatch b) s = .next t ∧ t.flds = s.flds ∧
    t.mem = s.mem ∧ t.fab.unlatched.contains b = false ∧ ∀ x, x ≠ b → t.fab.unlatched.contains x = s.fab.unlatched.contains x := by
  refine ⟨_, onUnit_present present, rfl, rfl, ?_, fun x other => ?_⟩
  · simp
  · rw [Bool.eq_iff_iff]
    simp [other]

/-! ### Frames that are sent (R313, R316, R322) -/

/-- What of a frame's fields its link word holds. -/
def frameCut (f : Frame) : Frame :=
  { f with seq := f.seq % 2 ^ 20, ack := f.ack % 2 ^ 20, kind := f.kind % 4, first := f.first % 32, ctcA := f.ctcA % 4, creditA := f.creditA % 2 ^ 14,
           ctcB := f.ctcB % 4, creditB := f.creditB % 2 ^ 14, active := f.active % 16 }

theorem frameOf_wireOf_cut (f : Frame) : frameOf (wireOf f) = frameCut f := by
  have word : wireOf f = wireOf (frameCut f) := by
    simp only [wireOf, frameWord, frameCut, Nat.mod_mod]
  rw [word]
  exact frameOf_wireOf (Nat.mod_lt _ (Nat.two_pow_pos 20)) (Nat.mod_lt _ (Nat.two_pow_pos 20)) (Nat.mod_lt _ (Nat.two_pow_pos 2)) (Nat.mod_lt _ (Nat.two_pow_pos 5))
    (Nat.mod_lt _ (Nat.two_pow_pos 2)) (Nat.mod_lt _ (Nat.two_pow_pos 14)) (Nat.mod_lt _ (Nat.two_pow_pos 2)) (Nat.mod_lt _ (Nat.two_pow_pos 14))
    (Nat.mod_lt _ (Nat.two_pow_pos 4))

/-- The next SEQ that a port expects is not changed by what it sends: every step of filling a frame keeps it. -/
theorem FrameFill.goOn_expect (b : FrameFill) : b.goOn.x.expect = b.x.expect := by
  unfold FrameFill.goOn
  split <;> rfl

theorem FrameFill.second_expect (lane : Nat) (single : Bool) (n : Nat) (b : FrameFill) : (b.second lane single n).x.expect = b.x.expect := by
  induction n generalizing b with
  | zero => rfl
  | succ n ih =>
    unfold FrameFill.second
    split
    · exact (ih _).trans rfl
    · rfl

theorem FrameFill.urgent_expect (lane : Nat) (n : Nat) (b : FrameFill) : (b.urgent lane n).1.x.expect = b.x.expect := by
  induction n generalizing b with
  | zero => rfl
  | succ n ih =>
    unfold FrameFill.urgent
    split
    · rfl
    · split
      · rfl
      · split
        · rfl
        · split
          · rfl
          · exact (ih _).trans rfl

theorem FrameFill.bulk_expect (single : Bool) (n : Nat) (b : FrameFill) : (b.bulk single n).x.expect = b.x.expect := by
  induction n generalizing b with
  | zero => rfl
  | succ n ih =>
    unfold FrameFill.bulk
    split
    · rfl
    · split
      · rfl
      · split
        · rfl
        · split
          · rfl
          · exact (ih _).trans rfl

/-- A state that has sent one frame of a port, whose word says the lanes in use and the last frame received in order. -/
def State.SentOne (s t : State) (p lane : Nat) : Prop :=
  ∃ w, t.out = .frame p lane w :: s.out ∧ w.word < 2 ^ 128 ∧ (frameOf w).active = s.get .FAB_PORT_ACTIVE 0 p % 16 ∧
    (frameOf w).ack = ((s.port p).expect + 2 ^ 20 - 1) % 2 ^ 20 ∧ t.mem = s.mem

/-- What every sealed frame's word says. -/
theorem State.sentOne_of_sealed {s y t : State} {p lane : Nat} {x : PortSt} (f : Frame) (expect : x.expect = (s.port p).expect)
    (active : y.get .FAB_PORT_ACTIVE 0 p = s.get .FAB_PORT_ACTIVE 0 p)
    (out : t.out = .frame p lane (wireOf (x.seal (y.get .FAB_PORT_ACTIVE 0 p) f).2) :: s.out) (mem : t.mem = s.mem) : s.SentOne t p lane := by
  refine ⟨_, out, (frameWord_fits _).1, ?_, ?_, mem⟩
  · rw [frameOf_wireOf_cut, ← active]
    rfl
  · rw [frameOf_wireOf_cut, ← expect]
    exact Nat.mod_mod ..

theorem State.putFrame_sent {s y : State} {p : Nat} (lane : Nat) {x : PortSt} (f : Frame) (expect : x.expect = (s.port p).expect)
    (active : y.get .FAB_PORT_ACTIVE 0 p = s.get .FAB_PORT_ACTIVE 0 p) (out : y.out = s.out) (mem : y.mem = s.mem) :
    s.SentOne (y.putFrame p lane x f) p lane :=
  State.sentOne_of_sealed f expect active (congrArg (_ :: ·) out) mem

/-- A data frame as it is filled. -/
def State.filled (s : State) (p lane : Nat) (x : PortSt) : FrameFill :=
  let single := (s.lanes p).length == 1
  let b := (⟨x, [], 25, 31, false⟩ : FrameFill).goOn
  if b.x.part.isSome then b
  else
    let b := b.second lane single b.x.copies.length
    let (b, more) := b.urgent lane 25
    if more ∧ !s.tc0Only then b.bulk single 25 else b

theorem State.filled_expect (s : State) (p lane : Nat) (x : PortSt) : (s.filled p lane x).x.expect = x.expect := by
  have start : (⟨x, [], 25, 31, false⟩ : FrameFill).goOn.x.expect = x.expect := FrameFill.goOn_expect _
  unfold State.filled
  generalize (⟨x, [], 25, 31, false⟩ : FrameFill).goOn = b at start
  dsimp only
  split
  · exact start
  · have second := FrameFill.second_expect lane ((s.lanes p).length == 1) b.x.copies.length b
    have urgent := FrameFill.urgent_expect lane 25 (b.second lane ((s.lanes p).length == 1) b.x.copies.length)
    refine Eq.trans ?_ (urgent.trans (second.trans start))
    split
    · exact FrameFill.bulk_expect ..
    · rfl

/-- The state that sends a data frame: a message that waits for the shaper is counted. -/
def State.shapedCount (s : State) (delayed : Bool) : State := if delayed then s.bumpSat .FAB_TC0_SHAPED else s

theorem State.shapedCount_kept (s : State) (delayed : Bool) (p : Nat) : (s.shapedCount delayed).out = s.out ∧ (s.shapedCount delayed).mem = s.mem ∧
    (s.shapedCount delayed).get .FAB_PORT_ACTIVE 0 p = s.get .FAB_PORT_ACTIVE 0 p := by
  unfold State.shapedCount
  split
  · exact ⟨rfl, rfl, State.get_set_ne _ _ _ _ _ _ _ _ (.inl (by decide))⟩
  · exact ⟨rfl, rfl, rfl⟩

theorem State.dataFrame_eq (s : State) (p lane : Nat) (x : PortSt) : s.dataFrame p lane x =
    let b := s.filled p lane x
    let y := s.shapedCount b.delayed
    if b.pieces = [] then y.putFrame p lane b.x (b.x.blank none)
    else
      let sealed := b.x.seal (y.get .FAB_PORT_ACTIVE 0 p) ⟨b.x.seq, 0, false, 0, b.first, 0, 0, 0, 0, 0, b.pieces, none⟩
      (y.setPort p { sealed.1 with seq := (sealed.1.seq + 1) % 2 ^ 20, replay := sealed.1.replay ++ [sealed.2] }).emit (.frame p lane (wireOf sealed.2)) := rfl

theorem State.dataFrame_sent {s : State} {p : Nat} (lane : Nat) {x : PortSt} (expect : x.expect = (s.port p).expect) :
    s.SentOne (s.dataFrame p lane x) p lane := by
  have filled := (s.filled_expect p lane x).trans expect
  obtain ⟨out, mem, active⟩ := s.shapedCount_kept (s.filled p lane x).delayed p
  rw [State.dataFrame_eq]
  dsimp only
  split
  · exact State.putFrame_sent lane _ filled active out mem
  · exact State.sentOne_of_sealed _ filled active (congrArg (_ :: ·) out) mem

/-- A lane in use of an up port sends one frame, whatever the port has to send. -/
theorem State.sendFrame_up {s : State} {p lane : Nat} (up : s.portUp p = true) (used : (s.lanes p).contains lane = true) :
    s.SentOne (s.sendFrame p lane) p lane := by
  have notTraining : ¬(s.get .FAB_PORT_STATE 0 p = 1 ∧ s.mayTrain p = true) := by
    intro h
    rw [State.portUp, h.1] at up
    cases up
  unfold State.sendFrame
  rw [if_neg notTraining, if_neg (by rw [up, used]; decide)]
  dsimp only
  split
  · exact State.putFrame_sent lane _ (by split <;> rfl) rfl rfl rfl
  · split
    · split
      · obtain ⟨w, out, rest⟩ := State.putFrame_sent (s := s) (y := s) lane _ rfl rfl rfl rfl
        exact ⟨w, out, rest⟩
      · exact State.putFrame_sent lane _ rfl rfl rfl rfl
    · split
      · exact State.putFrame_sent lane _ rfl rfl rfl rfl
      · exact State.dataFrame_sent lane rfl

theorem State.sendFrame_down {s : State} {p lane : Nat} (notTraining : s.get .FAB_PORT_STATE 0 p ≠ 1 ∨ s.mayTrain p = false)
    (idle : s.portUp p = false ∨ (s.lanes p).contains lane = false) : s.sendFrame p lane = s := by
  unfold State.sendFrame
  rw [if_neg fun h => notTraining.elim (· h.1) fun no => by rw [no] at h; exact absurd h.2 (by decide)]
  refine if_pos ?_
  rwa [Bool.not_eq_true', Bool.not_eq_true']

theorem State.sendFrame_training {s : State} {p : Nat} (lane : Nat) (trains : s.get .FAB_PORT_STATE 0 p = 1) (may : s.mayTrain p = true) :
    s.sendFrame p lane = s.emit (.frame p lane (wireOf ((s.port p).blank (some (.train s.ownId p (s.ownCredit 1) (s.ownCredit 2) (s.ownCredit 3)))))) :=
  if_pos ⟨trains, may⟩

theorem exec_linkFrameSend {s : State} {p lane : Nat} (present : s.portOk p = true) (lanes : lane < 4) :
    exec (.linkFrameSend p lane) s = .next (s.sendFrame p lane) := onUnit_present (by simp [present, lanes])

/-! ### Frames that arrive (R313, R316, R317) -/

theorem exec_linkFrameReceive {s : State} {p lane : Nat} (w : Option WireFrame) (syms : Nat) (present : s.portOk p = true) (lanes : lane < 4) :
    exec (.linkFrameReceive p lane w syms) s = .next (s.takeFrame p lane w syms) := onUnit_present (by simp [present, lanes])

theorem State.takeFrame_down {s : State} {p lane : Nat} (w : Option WireFrame) (syms : Nat) (down : s.portUp p = false) : s.takeFrame p lane w syms = s :=
  if_pos (by rw [down]; rfl)

/-- A port that has missed a frame on a lane: later ones are discarded until the replay comes. -/
def PortSt.missed (x : PortSt) (lane : Nat) : PortSt :=
  { x with bad := KMap.set x.bad lane (KMap.get x.bad lane 0 + 1), nak := true, lost := true, ahead := [] }

/-- A frame that could not be corrected, before the eighth in a row. -/
theorem State.takeFrame_bad {s : State} {p lane : Nat} (syms : Nat) (up : s.portUp p = true) (few : KMap.get (s.port p).bad lane 0 < 7) :
    s.takeFrame p lane none syms = (s.setPort p ((s.port p).missed lane)).bumpSat .FAB_RETRY_UNCORR 1 0 p :=
  (if_neg (by rw [up]; decide)).trans (if_neg (by omega))

theorem State.takeFrame_bad_spec {s : State} {p lane : Nat} (syms : Nat) (up : s.portUp p = true) (few : KMap.get (s.port p).bad lane 0 < 7) :
    let t := s.takeFrame p lane none syms
    (t.port p).nak = true ∧ (t.port p).lost = true ∧ KMap.get (t.port p).bad lane 0 = KMap.get (s.port p).bad lane 0 + 1 ∧
      t.get .FAB_RETRY_UNCORR 0 p = satAdd 32 (s.get .FAB_RETRY_UNCORR 0 p) 1 ∧ t.mem = s.mem := by
  have port : ((s.setPort p ((s.port p).missed lane)).bumpSat .FAB_RETRY_UNCORR 1 0 p).port p = (s.port p).missed lane := State.port_setPort_self ..
  rw [State.takeFrame_bad syms up few]
  dsimp only
  rw [port]
  exact ⟨rfl, rfl, KMap.get_set_self .., State.bumpSat_get .., rfl⟩

/-- Setting a port twice leaves the second. -/
theorem State.setPort_setPort (s : State) (p : Nat) (x y : PortSt) : (s.setPort p x).setPort p y = s.setPort p y := by
  have twice : KMap.set (KMap.set s.fab.ports p x) p y = KMap.set s.fab.ports p y := by
    unfold KMap.set KMap.erase
    rw [List.filter_cons_of_neg (by simp), List.filter_filter]
    simp
  simp only [State.setPort, twice]

section Take
variable {s : State} {p : Nat} {x : PortSt} {f : Frame} (empty : f.pieces = [])

include empty in
/-- A frame without packets only joins the frames seen. -/
theorem State.takeUrgent_empty : ∃ seen, (s.setPort p x).takeUrgent p f = s.setPort p { x with seen := seen } := by
  have port := s.port_setPort_self p x
  unfold State.takeUrgent
  rw [empty, List.filter_nil, List.foldl_nil, port]
  split
  · exact ⟨_, State.setPort_setPort ..⟩
  · exact ⟨x.seen, rfl⟩

include empty in
/-- A frame without packets in its turn: the next one is expected. -/
theorem State.takeNext_empty : ∃ seen, (s.setPort p x).takeNext p f = s.setPort p { x with
    expect := (x.expect + 1) % 2 ^ 20, lost := false, ahead := x.ahead.filter fun g => g.seq != f.seq, seen := seen } := by
  have port := s.port_setPort_self p x
  unfold State.takeNext State.takeBulk
  rw [empty, List.filter_nil, List.foldl_nil, port]
  exact ⟨_, State.setPort_setPort ..⟩

/-- A frame with the SEQ that is expected is new. -/
theorem PortSt.isNew_expected (x : PortSt) : x.isNew x.expect = true := by
  simp [PortSt.isNew]

include empty in
theorem State.takeSeq_empty (data : f.kind = 0) (turn : f.seq = x.expect) (none : x.ahead = []) : ∃ seen, (s.setPort p x).takeSeq p f = s.setPort p { x with
    expect := (x.expect + 1) % 2 ^ 20, lost := false, ahead := [], seen := seen } := by
  have port := s.port_setPort_self p x
  have new : x.isNew f.seq = true := turn ▸ x.isNew_expected
  obtain ⟨seen, next⟩ := State.takeNext_empty (s := s) (p := p) (x := x) empty
  refine ⟨seen, ?_⟩
  unfold State.takeSeq
  rw [port, if_neg (by rw [new]; simp [data]), if_pos turn, none]
  rw [none] at next
  exact next

/-- A few symbols corrected on a lane with none before drop no lane. -/
theorem State.countSyms_few {lane syms : Nat} (few : syms ≤ 20) (first : KMap.get x.corr lane [] = []) : ∃ corr,
    (s.setPort p x).countSyms p lane syms = s.setPort p { x with bad := KMap.erase x.bad lane, corr := corr } := by
  have port := s.port_setPort_self p x
  unfold State.countSyms
  rw [port]
  dsimp only
  rw [first, List.filter_nil, State.setPort_setPort, if_neg]
  · exact ⟨_, rfl⟩
  · split
    · decide
    · simp
      omega

end Take

/-- An empty data frame in its turn advances the SEQ expected, and takes what its word says. -/
theorem State.takeFrame_empty {s : State} {p lane syms : Nat} {w : WireFrame} (up : s.portUp p = true) (empty : w.pieces = []) (noCtl : w.ctl = none)
    (data : (frameOf w).kind = 0) (turn : (frameOf w).seq = (s.port p).expect) (few : syms ≤ 20) (none : (s.port p).ahead = [])
    (first : KMap.get (s.port p).corr lane [] = []) : let x := (s.port p).takeWord (frameOf w)
    ∃ seen bad corr, s.takeFrame p lane (some w) syms = s.setPort p { x with
      expect := (x.expect + 1) % 2 ^ 20, lost := false, ahead := [], seen := seen, bad := bad, corr := corr } := by
  intro x
  obtain ⟨seen, urgent⟩ := State.takeUrgent_empty (s := s) (p := p) (x := x) (f := frameOf w) empty
  obtain ⟨seen', seq⟩ := State.takeSeq_empty (s := s) (p := p) (x := { x with seen := seen }) (f := frameOf w) empty data turn none
  obtain ⟨corr, counted⟩ := State.countSyms_few (s := s) (p := p) (lane := lane) (syms := syms)
    (x := { x with expect := (x.expect + 1) % 2 ^ 20, lost := false, ahead := [], seen := seen' }) few first
  have ctl : (s.setPort p x).takeCtl p (frameOf w) = s.setPort p x := by
    have absent : (frameOf w).ctl = Option.none := noCtl
    simp only [State.takeCtl, absent]
  refine ⟨seen', KMap.erase x.bad lane, corr, (if_neg (by rw [up]; decide)).trans ?_⟩
  dsimp only
  rw [ctl]
  refine (if_pos up).trans ?_
  rw [urgent, seq]
  exact counted

/-- Settles O33: each command of a port, a lane and a fibre block by its lemma. -/
theorem portsTrainDegradeAndCarryFrames : Obligations.PortsTrainDegradeAndCarryFrames := by
  unfold Obligations.PortsTrainDegradeAndCarryFrames
  refine ⟨fun s p dev pp m c1 c2 c3 present => ⟨fun refused => ?_, fun may trains lanes => ?_⟩,
    fun s p lane cause present lanes up used left => ⟨_, exec_laneDrop cause present lanes, State.laneDrop_used_spec cause up used left⟩,
    fun s p lane cause present lanes => ⟨fun down => ?_, fun up unused => ?_⟩,
    fun s p cause present => ⟨fun up empty noPeer => ⟨_, onUnit_present present, State.portDown_empty_spec cause up empty noPeer⟩,
      fun down => ⟨_, onUnit_present present, State.portDown_idle_spec cause down⟩⟩,
    fun s a p mask one => ?_, fun s a mask down => ⟨_, rfl, State.portDisable_idle mask down⟩,
    fun s b present => ⟨fun down => ⟨_, exec_fibreBlockUnlatch present, State.fibreUnlatch_spec b down⟩, State.fibreLatch_spec present⟩,
    fun s p lane present lanes => ⟨fun notTraining idle => ?_, fun trains may => ?_, fun up used => ?_⟩,
    fun s p lane syms present lanes => ⟨fun w down => ?_, fun up few => ⟨_, exec_linkFrameReceive none syms present lanes, State.takeFrame_bad_spec syms up few⟩,
      fun w up empty noCtl data turn few none first => ?_⟩⟩
  · rw [exec_portTraining dev pp m c1 c2 c3 present, State.portTrain_refused dev pp m c1 c2 c3 refused]
  · obtain ⟨st, src, code, sev, fs, state, quiet, met⟩ := State.portTrain_met dev pp m c1 c2 c3 may trains lanes
    have small : st < 8 := by rw [state]; split <;> [decide; split <;> decide]
    refine ⟨_, (exec_portTraining dev pp m c1 c2 c3 present).trans (congrArg _ met), ?_⟩
    rw [← state]
    exact State.portMet_spec dev pp m c1 c2 c3 s p src sev fs small quiet
  · rw [exec_laneDrop cause present lanes, State.laneDrop_down cause down]
  · rw [exec_laneDrop cause present lanes, State.laneDrop_unused cause up unused]
  · have run : exec (.portRetrain a mask) s = .next (s.retrain p) := by
      change Host.Outcome.next (s.retrainAll mask) = _
      rw [State.retrainAll, one, List.foldl_cons, List.foldl_nil]
    refine ⟨fun not => ?_, fun may down => ⟨_, run, State.retrain_idle_spec may down⟩⟩
    rw [run, State.retrain, not]
    rfl
  · rw [exec_linkFrameSend present lanes, State.sendFrame_down notTraining idle]
  · refine ⟨_, _, (exec_linkFrameSend present lanes).trans (congrArg _ (State.sendFrame_training lane trains may)), rfl, ?_, rfl, rfl, rfl⟩
    rw [frameOf_wireOf_cut]
    rfl
  · obtain ⟨w, sent⟩ := State.sendFrame_up up used
    exact ⟨_, w, exec_linkFrameSend present lanes, sent⟩
  · rw [exec_linkFrameReceive w syms present lanes, State.takeFrame_down w syms down]
  · obtain ⟨seen, bad, corr, taken⟩ := State.takeFrame_empty up empty noCtl data turn few none first
    refine ⟨_, (exec_linkFrameReceive (some w) syms present lanes).trans (congrArg _ taken), ?_⟩
    rw [State.port_setPort_self]
    exact ⟨rfl, rfl, rfl, rfl, rfl, rfl, rfl⟩

end Sys2Proof.Machine

/-! O42: operations of ESC_CTL (R369 to R378). -/
namespace Sys2Proof.Machine

open Sys2Proof

/-! ### What is sent -/

/-- Two states that differ only in what waits at the ports, in the steward's held messages and in what has been sent. -/
def State.Sends (s t : State) : Prop := ∃ fab stw out, t = { s with fab := fab, stw := stw, out := out }

namespace State.Sends
variable {s t u : State}

theorem refl (s : State) : s.Sends s := ⟨s.fab, s.stw, s.out, rfl⟩

theorem trans (first : s.Sends t) (second : t.Sends u) : s.Sends u := by
  obtain ⟨fab, stw, out, rfl⟩ := first
  obtain ⟨fab', stw', out', rfl⟩ := second
  exact ⟨fab', stw', out', rfl⟩

theorem foldl {α : Type} {step : State → α → State} (each : ∀ x a, State.Sends x (step x a)) (l : List α) (s : State) : s.Sends (l.foldl step s) := by
  induction l generalizing s with
  | nil => exact refl s
  | cons a l ih => exact (each s a).trans (ih _)

end State.Sends

theorem State.sendVia_sends (s : State) (port : Option Nat) (p : Packet) : s.Sends (s.sendVia port p) := by
  unfold State.sendVia
  split
  · exact .refl s
  · cases port
    · dsimp only
      split
      · exact ⟨_, _, _, rfl⟩
      · exact ⟨_, _, _, rfl⟩
    · dsimp only
      split
      · exact ⟨_, _, _, rfl⟩
      · exact ⟨_, _, _, rfl⟩

theorem State.sendPacket_sends (s : State) (p : Packet) : s.Sends (s.sendPacket p) := s.sendVia_sends _ p

theorem State.tc0_sends (s : State) (dst : Nat) (m : Msg) : s.Sends (s.tc0 dst m) := by
  unfold State.tc0
  split
  · exact ⟨_, _, _, rfl⟩
  · unfold State.tc0Via
    exact State.Sends.trans (t := { s with fab := { s.fab with nextMid := (s.fab.nextMid + 1) % 2 ^ 32 } }) ⟨_, _, _, rfl⟩ (State.sendVia_sends ..)

theorem State.tc0All_sends (s : State) (dsts : List Nat) (m : Msg) : s.Sends (s.tc0All dsts m) :=
  .foldl (fun x d => x.tc0_sends d m) dsts s

theorem State.collSend_sends (s : State) (dst tc : Nat) (h : CollHdr) (bs : List Byte) : s.Sends (s.collSend dst tc h bs) :=
  .foldl (fun x _ => x.sendPacket_sends _) _ s

/-! ### The end of an operation -/

/-- An operation that is taken clears DONE and RESULT. -/
def State.escBegun (s : State) : State := (s.set .ESC_STATUS_DONE 0).set .ESC_STATUS_RESULT 0

/-- Whether an operation of ESC_CTL waits for memory. -/
def State.escOpWaits (s : State) : Bool := s.esc.waits.any fun w => match w with | .op _ _ => true | _ => false

theorem State.escOp_taken {s : State} (f : State → State) (free : s.esc.receiving = none) (still : s.escOpWaits = false) : s.escOp f = f s.escBegun := by
  refine if_neg fun busy => ?_
  rcases busy with receiving | waiting
  · rw [free] at receiving
    exact absurd receiving (by decide)
  · exact Bool.false_ne_true (still.symm.trans waiting)

theorem State.escOp_busy {s : State} (f : State → State) (busy : s.esc.receiving.isSome = true ∨ s.escOpWaits = true) :
    s.escOp f = s.set .ESC_STATUS_RESULT 1 := if_pos busy

theorem State.escBegun_get (s : State) (f : Field) (u i : Nat) (other : f ≠ .ESC_STATUS_DONE ∧ f ≠ .ESC_STATUS_RESULT) :
    s.escBegun.get f u i = s.get f u i := by
  simp [State.escBegun, other]

theorem State.escBegun_done (s : State) : s.escBegun.get .ESC_STATUS_DONE = 0 := by
  simp [State.escBegun]

/-- What an operation that ends with a RESULT reads. -/
def State.EscEnded (t : State) (r : Nat) : Prop :=
  t.get .ESC_STATUS_DONE = 1 ∧ t.get .ESC_STATUS_RESULT = r ∧ bit (t.get .GLB_IRQ_STATUS_SRC) 4 = true

/-- The fields that the end of an operation may change. -/
def escEndFields : List Field := [.ESC_STATUS_DONE, .ESC_STATUS_RESULT, .GLB_IRQ_STATUS_SRC, .GLB_IRQ_ROUTE_LOST]

/-- An operation that ends raises DONE with its RESULT and its interrupt. -/
theorem State.escResult_spec {s : State} {r : Nat} (open_ : s.get .ESC_STATUS_DONE = 0) (small : r < 16) : let t := s.escResult r
    t.EscEnded r ∧ t.mem = s.mem ∧ t.esc = s.esc ∧ ∀ f u i, f ∉ escEndFields → t.get f u i = s.get f u i := by
  have doneWidth : Field.ESC_STATUS_DONE.width = 1 := rfl
  have resultWidth : Field.ESC_STATUS_RESULT.width = 4 := rfl
  have shape : s.escResult r = ((s.set .ESC_STATUS_DONE 1).set .ESC_STATUS_RESULT r).irq 4 := by
    unfold State.escResult
    rw [open_]
    rfl
  rw [shape]
  refine ⟨⟨?_, ?_, State.irq_bit _ _ _ (by decide)⟩, by simp, by simp, fun f u i other => ?_⟩
  · rw [State.irq_same _ _ _ _ _ _ (by decide)]
    simp [doneWidth]
  · rw [State.irq_same _ _ _ _ _ _ (by decide), State.get_set_self, resultWidth]
    exact Nat.mod_eq_of_lt small
  · simp only [escEndFields, List.mem_cons, List.not_mem_nil, or_false, not_or] at other
    rw [State.irq_same _ _ _ _ _ _ (by simp [other])]
    simp [other]

/-- A command ends with a RESULT, in a state of which something is said. -/
def EscEnds (s : State) (c : Instr) (r : Nat) (p : State → Prop) : Prop :=
  ∃ t : State, exec c s = .next t ∧ t.get .ESC_STATUS_DONE = 1 ∧ t.get .ESC_STATUS_RESULT = r ∧ bit (t.get .GLB_IRQ_STATUS_SRC) 4 = true ∧ p t

theorem escEnds_of_result {s y : State} {c : Instr} {r : Nat} {p : State → Prop} (run : exec c s = .next (y.escResult r)) (open_ : y.get .ESC_STATUS_DONE = 0)
    (small : r < 16) (holds : ∀ t : State, t.mem = y.mem → t.esc = y.esc → (∀ f u i, f ∉ escEndFields → t.get f u i = y.get f u i) → p t) :
    EscEnds s c r p := by
  obtain ⟨⟨done, result, irq⟩, mem, esc, get⟩ := State.escResult_spec open_ small
  exact ⟨_, run, done, result, irq, holds _ mem esc get⟩

/-! ### What the areas read is not changed by DONE and RESULT -/

theorem State.escBegun_readsAs (s : State) : s.ReadsAs s.escBegun := by
  refine ⟨rfl, rfl, rfl, rfl, rfl, rfl, fun f listed u => State.escBegun_get s f u 0 ?_⟩
  revert f
  decide

theorem State.escBegun_eff (s : State) {f : Field} (other : f ≠ .ESC_STATUS_DONE ∧ f ≠ .ESC_STATUS_RESULT) : s.escBegun.eff f = s.eff f := by
  have str : s.escBegun.str = s.str := rfl
  rw [State.eff, State.eff, str, State.escBegun_get s f 0 0 other]

section Begun
variable (s : State)

theorem State.escBegun_now : s.escBegun.now = s.now := s.escBegun_get _ _ _ (by decide)
theorem State.escBegun_ownId : s.escBegun.ownId = s.ownId := rfl
theorem State.escBegun_lBeats : s.escBegun.lBeats = s.lBeats := congrArg (fun p => ceilDiv (pmBound s.peerMap) p + 1) (s.escBegun_get .BEAT_STATUS_PERIOD 0 0 (by decide))
theorem State.escBegun_homeDa : s.escBegun.homeDa = s.homeDa := congrArg (· * 4096) (s.escBegun_eff (by decide))
theorem State.escBegun_escRd (da n : Nat) : s.escBegun.escRd da n = s.escRd da n := s.escBegun_readsAs.rdDa ..
theorem State.escBegun_escPoison (l : List (Nat × Nat)) : s.escBegun.escPoison l = s.escPoison l := by
  refine congrArg (fun f => l.findSome? f) (funext fun p => ?_)
  exact s.escBegun_readsAs.poisonDa ..
theorem State.escBegun_bankLen : s.escBegun.escBankLen = s.escBankLen := s.escBegun_eff (by decide)
theorem State.escBegun_bankDa (b : Nat) : s.escBegun.bankDa b = s.bankDa b := by
  rw [State.bankDa, State.bankDa, State.escBegun_bankLen, State.escBegun_eff s (by decide)]
theorem State.escBegun_bankEnts (b : Nat) : s.escBegun.bankEnts b = s.bankEnts b := by
  rw [State.bankEnts, State.bankEnts, State.escBegun_bankDa, State.escBegun_escRd, State.escBegun_escRd]
theorem State.escBegun_bankImages (b : Nat) : s.escBegun.bankImages b = s.bankImages b := congrArg (· + 0x200000) (s.escBegun_bankDa b)
theorem State.escBegun_heldBank : s.escBegun.heldBank = s.heldBank := by
  rw [State.heldBank, State.heldBank, State.escBegun_get _ _ _ _ (by decide), State.escBegun_get _ _ _ _ (by decide)]
theorem State.escBegun_homeSlot : s.escBegun.homeSlot = s.homeSlot := by
  rw [State.homeSlot, State.homeSlot, State.escBegun_homeDa, State.escBegun_escRd, State.escBegun_get _ _ _ _ (by decide),
    State.escBegun_get _ _ _ _ (by decide)]
theorem State.escBegun_liveShard : s.escBegun.liveShard = s.liveShard := by
  have sec : s.escBegun.updSec = s.updSec := rfl
  rw [State.liveShard, State.liveShard, sec]
  simp only [State.escBegun_escRd]
theorem State.escBegun_dirtyChunks : s.escBegun.dirtyChunks = s.dirtyChunks := by
  have sec : s.escBegun.updSec = s.updSec := rfl
  have img : s.escBegun.escImg = s.escImg := rfl
  have refresh (n : Nat) : s.escBegun.refreshBit 0 s.escImg n = s.refreshBit 0 s.escImg n := by
    rw [State.refreshBit, State.refreshBit, s.escBegun_readsAs.rdDa, State.escBegun_homeDa]
  rw [State.dirtyChunks, State.dirtyChunks, sec, img]
  simp only [refresh]
theorem State.escBegun_rollRanges (l : List (Nat × UpdEnt × Nat)) : s.escBegun.rollRanges l = s.rollRanges l := by
  have sec : s.escBegun.updSec = s.updSec := rfl
  rw [State.rollRanges, State.rollRanges, sec, State.escBegun_homeDa]

end Begun

/-! ### Operations that need no memory -/

section Free
variable {s : State} (by_ : Agent) (target op : Nat)

theorem exec_escBadOp_other (code : ¬(1 ≤ op % 16 ∧ op % 16 ≤ 6)) : exec (.escBadOp by_ op) s = .next (s.escWrite by_ (op % 16) 0) :=
  if_neg fun h => code (by simpa [within] using h)

/-- An operation before READY only logs EV_RESET_EARLY. -/
theorem State.escWrite_early (early : s.get .RST_STATUS_READY ≠ 1) (code : Nat) :
    let t := s.escWrite by_ code target
    t.mem = s.mem ∧ t.esc = s.esc ∧ t.flds = s.flds := by
  have logged : s.escWrite by_ code target = s.log' (srcHub s.inCharge 12) 0xb006 1 [(8, 0x7f003000040), (4, s.agentSrc by_)] := if_neg early
  dsimp only
  rw [logged, State.log'_eq _ _ _ _ _ (by decide)]
  exact ⟨rfl, rfl, rfl⟩

/-- While an operation is outstanding none is executed. -/
theorem State.escCtl_busy (busy : s.esc.receiving.isSome = true ∨ s.escOpWaits = true) (code : Nat) : s.escCtl code target = s.set .ESC_STATUS_RESULT 1 := by
  have refused (f : State → State) : s.escOp f = s.set .ESC_STATUS_RESULT 1 := State.escOp_busy f busy
  have memory (op target : Nat) (f : State → State) (h : f s = s.set .ESC_STATUS_RESULT 1) : s.escMem op target f = s.set .ESC_STATUS_RESULT 1 := by
    unfold State.escMem
    split
    · exact refused _
    · exact h
  unfold State.escCtl
  split
  · exact refused _
  · exact memory _ _ _ (refused _)
  · exact memory _ _ _ (refused _)
  · exact refused _
  · exact memory _ _ _ (refused _)
  · exact refused _
  · exact refused _

end Free

/-- What a freeze that is held leaves: the memory, and every register but the beat of the freeze. -/
theorem State.freezeHold_spec (s : State) (f : Freeze) : let t := s.freezeHold f
    t.mem = s.mem ∧ (∀ g u i, g ≠ .ESC_FREEZE_F → t.get g u i = s.get g u i) ∧
      (s.get .ESC_STATUS_FROZEN = 0 → t.esc.freezes = s.esc.freezes ++ [f]) := by
  have logged (x : State) : (x.freezeEv f).mem = x.mem ∧ (x.freezeEv f).esc = x.esc := ⟨State.log'_mem .., State.log'_esc ..⟩
  dsimp only
  unfold State.freezeHold
  split
  next frozen =>
    exact ⟨(logged s).1, fun g u i _ => State.freezeEv_get .., fun thawed => absurd (thawed.symm.trans frozen) (by decide)⟩
  · dsimp only
    refine ⟨(logged _).1.trans ?_, fun g u i other => (State.freezeEv_get ..).trans ?_, fun _ => (congrArg EscSt.freezes (logged _).2).trans ?_⟩
    · split <;> rfl
    · split
      · exact State.get_set_ne _ _ _ _ _ _ _ _ (.inl other)
      · rfl
    · split <;> rfl

section
variable {s : State} (free : s.esc.receiving = none) (still : s.escOpWaits = false)
include free still

theorem State.receive_taken (target : Nat) : s.receive target = if s.esc.ranRound = true then s.escBegun.escResult 7 else
    (s.escBegun.setEsc fun e => { e with receiving := some target, fillHdr := [], fillBlock := [], fillGot := 0 }).set .ESC_FILL_BYTES 0 :=
  State.escOp_taken (fun s => if s.esc.ranRound then s.escResult 7 else
    (s.setEsc fun e => { e with receiving := some target, fillHdr := [], fillBlock := [], fillGot := 0 }).set .ESC_FILL_BYTES 0) free still

theorem State.thawOp_taken : s.thawOp = if s.get .ESC_STATUS_FROZEN = 0 ∨ s.get .ESC_ARG_BEAT < s.now + s.lBeats then s.escBegun.escResult 7 else
    ((s.escBegun.tc0All s.escBegun.commitOthers (.thaw s.ownId (s.get .ESC_ARG_BEAT))).setEsc fun e =>
      { e with thawAt := some (s.get .ESC_ARG_BEAT) }).escResult 0 := by
  rw [State.thawOp, State.escOp_taken _ free still, State.escBegun_get _ _ _ _ (by decide), State.escBegun_get _ _ _ _ (by decide), State.escBegun_now,
    State.escBegun_lBeats, State.escBegun_ownId]

/-- An operation whose memory waits is outstanding. -/
theorem State.escMem_waits (busy : s.escBusy = true) (code target : Nat) (f : State → State) : let t := s.escMem code target f
    t.mem = s.mem ∧ t.get .ESC_STATUS_DONE = 0 ∧ t.esc = { s.esc with waits := s.esc.waits ++ [.op code target] } := by
  have shape : s.escMem code target f = s.escBegun.setEsc fun e => { e with waits := e.waits ++ [.op code target] } :=
    (if_pos busy).trans (State.escOp_taken _ free still)
  dsimp only
  rw [shape]
  exact ⟨rfl, s.escBegun_done, rfl⟩

end

section Taken
variable {s : State} (by_ : Agent) (target : Nat) (ready : s.get .RST_STATUS_READY = 1) (free : s.esc.receiving = none) (still : s.escOpWaits = false)
include ready free still

theorem escBadOp_ends {op : Nat} (code : ¬(1 ≤ op % 16 ∧ op % 16 ≤ 6)) :
    EscEnds s (.escBadOp by_ op) 7 fun t => t.mem = s.mem ∧ t.esc = s.esc := by
  have meaningless : s.escCtl (op % 16) 0 = s.escBegun.escResult 7 := by
    unfold State.escCtl
    split
    case h_7 => exact State.escOp_taken _ free still
    all_goals omega
  have run : exec (.escBadOp by_ op) s = .next (s.escBegun.escResult 7) :=
    (exec_escBadOp_other by_ op code).trans (congrArg Host.Outcome.next ((State.whenReady_on _ _ _ ready).trans meaningless))
  exact escEnds_of_result run s.escBegun_done (by decide) fun t mem esc _ => ⟨mem, esc⟩

theorem escFreeze_ends : EscEnds s (.escFreeze by_) 0 fun t =>
    t.mem = s.mem ∧ (s.get .ESC_STATUS_FROZEN = 0 → t.esc.freezes = s.esc.freezes ++ [⟨s.ownId, s.now, 2, s.ownId⟩]) := by
  have run : exec (.escFreeze by_) s = .next ((s.escBegun.freezeSend 2 s.escBegun.ownId).escResult 0) :=
    congrArg Host.Outcome.next ((State.whenReady_on _ _ _ ready).trans (State.escOp_taken (fun s => (s.freezeSend 2 s.ownId).escResult 0) free still))
  obtain ⟨fab, stw, out, sent⟩ := s.escBegun.tc0All_sends s.escBegun.commitOthers (.freeze s.escBegun.ownId s.escBegun.now 2 s.escBegun.ownId)
  obtain ⟨held, get, kept⟩ := State.freezeHold_spec { s.escBegun with fab := fab, stw := stw, out := out } ⟨s.escBegun.ownId, s.escBegun.now, 2, s.escBegun.ownId⟩
  rw [← sent] at held get kept
  refine escEnds_of_result run ((get _ _ _ (by decide)).trans ?_) (by decide) fun t mem esc _ => ⟨mem.trans (held.trans ?_), fun thawed => ?_⟩
  · rw [sent]
    exact s.escBegun_done
  · rw [sent]
    rfl
  · rw [esc]
    refine (kept ?_).trans ?_
    · rw [sent]
      exact (s.escBegun_get _ _ _ (by decide)).trans thawed
    · rw [sent, State.escBegun_ownId, State.escBegun_now]
      rfl

theorem escReceive_refused (round : s.esc.ranRound = true) : EscEnds s (.escReceive by_ target) 7 fun t => t.mem = s.mem ∧ t.esc = s.esc := by
  have run : exec (.escReceive by_ target) s = .next (s.escBegun.escResult 7) :=
    congrArg Host.Outcome.next ((State.whenReady_on _ _ _ ready).trans ((State.receive_taken free still target).trans (if_pos round)))
  exact escEnds_of_result run s.escBegun_done (by decide) fun t mem esc _ => ⟨mem, esc⟩

theorem escReceive_begins (round : s.esc.ranRound = false) : ∃ t : State, exec (.escReceive by_ target) s = .next t ∧ t.mem = s.mem ∧
    t.get .ESC_STATUS_DONE = 0 ∧ t.get .ESC_FILL_BYTES = 0 ∧
    t.esc = { s.esc with receiving := some target, fillHdr := [], fillBlock := [], fillGot := 0 } := by
  refine ⟨_, congrArg Host.Outcome.next ((State.whenReady_on _ _ _ ready).trans ((State.receive_taken free still target).trans
    (if_neg (ne_true_of_eq_false round)))), rfl, ?_, ?_, rfl⟩
  · rw [State.get_set_ne _ _ _ _ _ _ _ _ (.inl (by decide))]
    exact s.escBegun_done
  · exact (State.get_set_self ..).trans (Nat.zero_mod _)

theorem escThaw_refused (early : s.get .ESC_STATUS_FROZEN = 0 ∨ s.get .ESC_ARG_BEAT < s.now + s.lBeats) :
    EscEnds s (.escThaw by_) 7 fun t => t.mem = s.mem ∧ t.esc = s.esc := by
  have run : exec (.escThaw by_) s = .next (s.escBegun.escResult 7) :=
    congrArg Host.Outcome.next ((State.whenReady_on _ _ _ ready).trans ((State.thawOp_taken free still).trans (if_pos early)))
  exact escEnds_of_result run s.escBegun_done (by decide) fun t mem esc _ => ⟨mem, esc⟩

theorem escThaw_ends (frozen : s.get .ESC_STATUS_FROZEN = 1) (ahead : s.now + s.lBeats ≤ s.get .ESC_ARG_BEAT) :
    EscEnds s (.escThaw by_) 0 fun t => t.mem = s.mem ∧ t.esc = { s.esc with thawAt := some (s.get .ESC_ARG_BEAT) } := by
  have timely : ¬(s.get .ESC_STATUS_FROZEN = 0 ∨ s.get .ESC_ARG_BEAT < s.now + s.lBeats) := by omega
  have run : exec (.escThaw by_) s = .next (((s.escBegun.tc0All s.escBegun.commitOthers (.thaw s.ownId (s.get .ESC_ARG_BEAT))).setEsc fun e =>
      { e with thawAt := some (s.get .ESC_ARG_BEAT) }).escResult 0) :=
    congrArg Host.Outcome.next ((State.whenReady_on _ _ _ ready).trans ((State.thawOp_taken free still).trans (if_neg timely)))
  obtain ⟨fab, stw, out, sent⟩ := s.escBegun.tc0All_sends s.escBegun.commitOthers (.thaw s.ownId (s.get .ESC_ARG_BEAT))
  rw [sent] at run
  exact escEnds_of_result run s.escBegun_done (by decide) fun t mem esc _ => ⟨mem, esc⟩

end Taken

/-! ### ROLLBACK (R373, R374) -/

/-- The registers that a restore of a state block writes. -/
def restoreFields : List Field := [.DCTL_STEER_ENT_FMT, .DCTL_STEER_ENT_COARSE, .DCTL_STEER_STAT_LAST_STEP, .UPD_SKIP_COUNT_COUNT, .DCTL_TALLY_UNMAP0_SAT,
  .DCTL_TALLY_UNMAP0_NONFIN, .DCTL_TALLY_UNMAP1_UNDER, .UPD_SRKEY_KEY_LO, .UPD_SRKEY_KEY_HI, .VEC_SRKEY_KEY_LO, .VEC_SRKEY_KEY_HI]

theorem State.Same.cacheRow (s : State) (r : Nat) (x : SteerRow) : State.Same restoreFields s (s.cacheRow r x) := by
  refine .foldl (fun y d => ?_) _ s
  have written := (((((State.Same.refl restoreFields y).set (f := .DCTL_STEER_ENT_FMT) (by decide) x.act.fmt d (2 * r)).set (f := .DCTL_STEER_ENT_COARSE) (by decide)
    x.act.coarse d (2 * r)).set (f := .DCTL_STEER_ENT_FMT) (by decide) x.grad.fmt d (2 * r + 1)).set (f := .DCTL_STEER_ENT_COARSE) (by decide) x.grad.coarse d
    (2 * r + 1)).set (f := .DCTL_STEER_STAT_LAST_STEP) (by decide) x.lastStep d 0
  exact ⟨written.mem, written.cores, written.ident, written.str, written.coll, written.get⟩

theorem State.Same.tableRow (s : State) (r : Nat) (x : SteerRow) : State.Same restoreFields s (s.tableRow r x) :=
  .foldl (step := fun s ld => { s with steer := KMap.set s.steer (ld, r) x }) (fun _ _ => ⟨rfl, rfl, rfl, rfl, rfl, fun _ _ _ _ => rfl⟩) _ s

theorem State.Same.steerPol {changed : List Field} {s t : State} (same : State.Same changed s t) (p : Option (List Byte)) :
    State.Same changed s { t with steerPol := p } := ⟨same.mem, same.cores, same.ident, same.str, same.coll, same.get⟩

theorem State.Same.restoreTable (s : State) (b : List Byte) : State.Same restoreFields s (s.restoreTable b) := by
  have rows (l : List Nat) : State.Same restoreFields s (l.foldl (fun s r =>
      let x := rowOf (slice b (4096 + 256 * r) 256)
      if x.layer = 0xffff ∧ s.steerRow 0 r = SteerRow.init then s else (s.tableRow r x).cacheRow r x) s) := by
    refine .foldl (fun y r => ?_) _ s
    dsimp only
    split
    · exact .refl _ y
    · exact (State.Same.tableRow ..).trans (State.Same.cacheRow ..)
  exact (rows (List.range 1024)).steerPol _

theorem State.Same.restoreKey (s : State) (b : List Byte) (k : Nat) : State.Same restoreFields s (s.restoreKey b k) := by
  refine .foldl (fun y d => ?_) _ s
  refine State.Same.trans (((State.Same.refl _ y).set (by decide) _ _ _).set (by decide) _ _ _) (.foldl (fun z c => ?_) _ _)
  exact ((State.Same.refl _ z).set (by decide) _ _ _).set (by decide) _ _ _

theorem State.Same.restoreCounts (s : State) (b : List Byte) : State.Same restoreFields s (s.restoreCounts b) :=
  .foldl (fun y _ => ((((State.Same.refl _ y).set (by decide) _ _ _).set (by decide) _ _ _).set (by decide) _ _ _).set (by decide) _ _ _) _ s

theorem leNat_lt (l : List Byte) : leNat l < 256 ^ l.length := by
  induction l with
  | nil => decide
  | cons b l ih =>
    have byte := b.isLt
    simp only [leNat, List.length_cons, Nat.pow_succ]
    omega

theorem field_lt (b : List Byte) (off n : Nat) : field b off n < 256 ^ n :=
  (leNat_lt _).trans_le (Nat.pow_le_pow_right (by decide) (length_slice_le b off n))

/-- What a restore of a state block leaves: the memory, and every register but the block's; cursor, counter, draws and layout epoch are the block's. -/
theorem State.restoreBlock_spec (s : State) (b : List Byte) (rng : Nat) (rewound : Bool) : let t := s.restoreBlock b rng rewound
    t.mem = s.mem ∧ t.get .ESC_STATUS_DONE = s.get .ESC_STATUS_DONE ∧ t.get .ESC_CURSOR_VALUE = field b 8 8 ∧ t.get .ESC_RNG_VALUE = rng % 2 ^ 64 ∧
      t.get .ESC_DRAWS_DRAWS = field b 24 4 ∧
      t.get .FAB_LAYOUT_CURRENT = if s.get .FAB_RESHARD_STATE = 0 then field b 28 4 else s.get .FAB_LAYOUT_CURRENT := by
  have cursorWidth : Field.ESC_CURSOR_VALUE.width = 64 := rfl
  have rngWidth : Field.ESC_RNG_VALUE.width = 64 := rfl
  have drawsWidth : Field.ESC_DRAWS_DRAWS.width = 32 := rfl
  have layoutWidth : Field.FAB_LAYOUT_CURRENT.width = 32 := rfl
  have bound8 (off : Nat) : field b off 8 < 18446744073709551616 := field_lt b off 8
  have bound4 (off : Nat) : field b off 4 < 4294967296 := field_lt b off 4
  have logged : State.Same restoreFields s (if rewound then s.log' s.stwSrc 0x6009 1 [(8, field b 8 8), (8, field b 16 8)] else s) := by
    split
    · rw [State.log'_eq _ _ _ _ _ (by decide)]
      exact ⟨rfl, rfl, rfl, rfl, rfl, fun _ _ _ _ => rfl⟩
    · exact .refl _ s
  have same := ((logged.trans (State.Same.restoreTable _ b)).trans (State.Same.restoreCounts _ b)).trans (.foldl (fun y k => State.Same.restoreKey y b k) (List.range 4) _)
  unfold State.restoreBlock
  dsimp only
  generalize (List.range 4).foldl (fun s k => State.restoreKey s b k) _ = y at same
  have reshard := same.get .FAB_RESHARD_STATE 0 0 (by decide)
  have done := same.get .ESC_STATUS_DONE 0 0 (by decide)
  have layout := same.get .FAB_LAYOUT_CURRENT 0 0 (by decide)
  have state : (((y.set .ESC_CURSOR_VALUE (field b 8 8)).set .ESC_RNG_VALUE rng).set .ESC_DRAWS_DRAWS (field b 24 4)).get .FAB_RESHARD_STATE =
      s.get .FAB_RESHARD_STATE := by
    simp [reshard]
  rw [state]
  split
  · refine ⟨same.mem, ?_, ?_, ?_, ?_, ?_⟩
    · simp [done]
    · simp [cursorWidth, bound8]
    · simp [rngWidth]
    · simp [drawsWidth, bound4]
    · simp [layoutWidth, bound4]
  · refine ⟨same.mem, ?_, ?_, ?_, ?_, ?_⟩
    · simp [done]
    · simp [cursorWidth, bound8]
    · simp [rngWidth]
    · simp [drawsWidth, bound4]
    · simp [layout]

/-! The cases of a ROLLBACK. -/

/-- What a rollback reads: the home state slot, and the home copies of what it copies. -/
def State.rollReads (s : State) : List (Nat × Nat) :=
  (s.homeDa + s.homeSlot, blockLen) :: (s.rollRanges s.dirtyChunks).map fun r => (r.1, r.2.2)

section Rollback
variable {s : State} (free : s.esc.receiving = none) (still : s.escOpWaits = false)
include free still

theorem State.rollback_thawed (thawed : s.get .ESC_STATUS_FROZEN = 0) : s.rollback = s.escBegun.escResult 7 := by
  rw [State.rollback, State.escOp_taken _ free still, State.escBegun_get _ _ _ _ (by decide), if_pos thawed]

variable (frozen : s.get .ESC_STATUS_FROZEN = 1)
include frozen

theorem State.rollback_homeless (home : s.get .ESC_STATUS_HOME = 0) : s.rollback = s.escBegun.escResult 2 := by
  rw [State.rollback, State.escOp_taken _ free still, State.escBegun_get _ _ _ _ (by decide), State.escBegun_get _ _ _ _ (by decide), frozen,
    if_neg (by decide), if_pos home]

variable (home : s.get .ESC_STATUS_HOME = 1)
include home

theorem State.rollback_poison {da : Nat} (bad : s.escPoison s.rollReads = some da) : s.rollback = (s.escBegun.escUe da).escResult 6 := by
  rw [State.rollback, State.escOp_taken _ free still, State.escBegun_get _ _ _ _ (by decide), State.escBegun_get _ _ _ _ (by decide), frozen, home,
    if_neg (by decide), if_neg (by decide)]
  rw [State.rollReads] at bad
  simp only [State.escBegun_homeDa, State.escBegun_homeSlot, State.escBegun_dirtyChunks, State.escBegun_rollRanges, State.escBegun_escPoison, bad]

theorem State.rollback_sound (sound : s.escPoison s.rollReads = none) :
    s.rollback = s.escBegun.rollInto (s.escRd (s.homeDa + s.homeSlot) blockLen) (s.rollRanges s.dirtyChunks) := by
  rw [State.rollback, State.escOp_taken _ free still, State.escBegun_get _ _ _ _ (by decide), State.escBegun_get _ _ _ _ (by decide), frozen, home,
    if_neg (by decide), if_neg (by decide)]
  rw [State.rollReads] at sound
  simp only [State.escBegun_homeDa, State.escBegun_homeSlot, State.escBegun_dirtyChunks, State.escBegun_rollRanges, State.escBegun_escPoison,
    State.escBegun_escRd, sound]

end Rollback

/-- What a poisoned block logs leaves every byte and register. -/
theorem State.escUe_spec (s : State) (da : Nat) : let t := s.escUe da
    t.mem = s.mem ∧ t.esc = s.esc ∧ ∀ f u i, t.get f u i = s.get f u i := by
  obtain ⟨fs, logged⟩ := State.daUe_eq_log' s (srcLedger 0 3) escA s.escImg da
  dsimp only
  rw [State.escUe, logged, State.log'_eq _ _ _ _ _ (by decide)]
  exact ⟨rfl, rfl, fun _ _ _ => rfl⟩

/-- The copies of a rollback. -/
def State.rollCopies (s : State) (rs : List (Nat × Nat × Nat)) : State := rs.foldl (fun s r => s.escWr r.2.1 (s.escRd r.1 r.2.2)) s

theorem State.escBegun_rollCopies (s : State) (rs : List (Nat × Nat × Nat)) : (s.escBegun.rollCopies rs).mem = (s.rollCopies rs).mem := by
  have copies : (s.rollCopies rs).ReadsAs (s.escBegun.rollCopies rs) := by
    refine State.ReadsAs.foldl (fun r x y same => ?_) rs s.escBegun_readsAs
    have image : y.escImg = x.escImg := by
      obtain ⟨-, -, -, -, str, -⟩ := same
      rw [State.escImg, State.bank, str, State.escImg, State.bank]
    have read : y.escRd r.1 r.2.2 = x.escRd r.1 r.2.2 := by
      rw [State.escRd, image, same.rdDa, State.escRd]
    rw [read, State.escWr, State.escWr, image]
    exact same.wrDa ..
  obtain ⟨-, -, mem, -⟩ := copies
  exact mem

/-- The copies of a rollback change no register. -/
theorem State.rollCopies_get (s : State) (rs : List (Nat × Nat × Nat)) (f : Field) (u i : Nat) : (s.rollCopies rs).get f u i = s.get f u i :=
  State.foldl_get (fun _ _ => State.wrDa_get ..) rs s

section RollbackEnds
variable {s : State} (by_ : Agent) (ready : s.get .RST_STATUS_READY = 1) (free : s.esc.receiving = none) (still : s.escOpWaits = false)
  (quiet : s.escBusy = false)
include ready quiet

theorem exec_escRollback : exec (.escRollback by_) s = .next s.rollback :=
  congrArg Host.Outcome.next ((State.whenReady_on _ _ _ ready).trans (if_neg (ne_true_of_eq_false quiet)))

include free still

theorem escRollback_thawed (thawed : s.get .ESC_STATUS_FROZEN = 0) : EscEnds s (.escRollback by_) 7 fun t => t.mem = s.mem :=
  escEnds_of_result ((exec_escRollback by_ ready quiet).trans (congrArg _ (State.rollback_thawed free still thawed))) s.escBegun_done (by decide)
    fun _ mem _ _ => mem

variable (frozen : s.get .ESC_STATUS_FROZEN = 1)
include frozen

theorem escRollback_homeless (home : s.get .ESC_STATUS_HOME = 0) : EscEnds s (.escRollback by_) 2 fun t => t.mem = s.mem :=
  escEnds_of_result ((exec_escRollback by_ ready quiet).trans (congrArg _ (State.rollback_homeless free still frozen home))) s.escBegun_done (by decide)
    fun _ mem _ _ => mem

variable (home : s.get .ESC_STATUS_HOME = 1)
include home

theorem escRollback_poison (bad : (s.escPoison s.rollReads).isSome = true) : EscEnds s (.escRollback by_) 6 fun t => t.mem = s.mem := by
  obtain ⟨da, found⟩ := Option.isSome_iff_exists.mp bad
  obtain ⟨mem, -, get⟩ := s.escBegun.escUe_spec da
  exact escEnds_of_result ((exec_escRollback by_ ready quiet).trans (congrArg _ (State.rollback_poison free still frozen home found)))
    ((get ..).trans s.escBegun_done) (by decide) fun t same _ _ => same.trans mem

variable (sound : s.escPoison s.rollReads = none)
include sound

theorem escRollback_mismatch (check : rngCheck (s.escRd (s.homeDa + s.homeSlot) blockLen) = none) :
    EscEnds s (.escRollback by_) 4 fun t => t.mem = s.mem := by
  have ends : s.rollback = (s.escBegun.rngMismatch (s.escRd (s.homeDa + s.homeSlot) blockLen)).escResult 4 := by
    rw [State.rollback_sound free still frozen home sound, State.rollInto, check]
  refine escEnds_of_result ((exec_escRollback by_ ready quiet).trans (congrArg _ ends)) ((State.log'_get_other _ _ _ _ _ _ _ _ (by decide)).trans s.escBegun_done)
    (by decide) fun t mem _ _ => mem.trans (State.log'_mem ..)

theorem escRollback_restores {n : Nat} {rew : Bool} (check : rngCheck (s.escRd (s.homeDa + s.homeSlot) blockLen) = some (n, rew)) :
    let blk := s.escRd (s.homeDa + s.homeSlot) blockLen
    EscEnds s (.escRollback by_) 0 fun t =>
      t.mem = (s.rollCopies (s.rollRanges s.dirtyChunks)).mem ∧ t.get .ESC_CURSOR_VALUE = field blk 8 8 ∧
      t.get .ESC_RNG_VALUE = n % 2 ^ 64 ∧ t.get .ESC_DRAWS_DRAWS = field blk 24 4 ∧
      t.get .FAB_LAYOUT_CURRENT = if s.get .FAB_RESHARD_STATE = 0 then field blk 28 4 else s.get .FAB_LAYOUT_CURRENT := by
  have ends : s.rollback = ((s.escBegun.rollCopies (s.rollRanges s.dirtyChunks)).restoreBlock (s.escRd (s.homeDa + s.homeSlot) blockLen) n rew).escResult 0 := by
    rw [State.rollback_sound free still frozen home sound, State.rollInto, check]
    rfl
  obtain ⟨mem, done, cursor, rng, draws, layout⟩ := (s.escBegun.rollCopies (s.rollRanges s.dirtyChunks)).restoreBlock_spec
    (s.escRd (s.homeDa + s.homeSlot) blockLen) n rew
  rw [State.rollCopies_get, State.rollCopies_get, State.escBegun_get _ _ _ _ (by decide), State.escBegun_get _ _ _ _ (by decide)] at layout
  refine escEnds_of_result ((exec_escRollback by_ ready quiet).trans (congrArg _ ends)) (done.trans ((State.rollCopies_get ..).trans s.escBegun_done)) (by decide)
    fun t same _ get => ⟨same.trans (mem.trans (s.escBegun_rollCopies _)), ?_, ?_, ?_, ?_⟩
  · exact (get _ _ _ (by decide)).trans cursor
  · exact (get _ _ _ (by decide)).trans rng
  · exact (get _ _ _ (by decide)).trans draws
  · exact (get _ _ _ (by decide)).trans layout

end RollbackEnds

/-! ### SERVE (R375) -/

/-- The areas of a bank that a SERVE sends. -/
def State.serveAreas (s : State) (b : Nat) : List (Nat × Nat) :=
  [(s.bankDa b, 80), (s.bankDa b + 4096, 32 * (s.bankEnts b).length), (s.bankDa b + 0x100000, blockLen), (s.bankImages b, imagesLen (s.bankEnts b))]

/-- The target of an earlier fill that did not end in a thaw, as a SERVE's header names it. -/
def State.servePrev (s : State) (target : Nat) : Nat := match s.esc.lastFill with | some t => if t = target then 0xffff else t | none => 0xffff

/-- The parts that a SERVE sends: the header goes with the target of an earlier fill. -/
def State.serveParts (s : State) (target b : Nat) : List (List Byte) :=
  ((s.serveAreas b).map fun p => s.serveRd p.1 p.2).zipIdx.map fun (p, k) => if k = 0 then p ++ leBytes 2 (s.servePrev target) else p

/-- The state after a SERVE has sent its parts and counted their bytes. -/
def State.served (s : State) (target b : Nat) : State :=
  (((s.serveParts target b).zipIdx.foldl (fun s (p, k) => s.collSend target 3 (escHdr 13 0 0 k) p) s).setEsc fun e => { e with lastFill := some target }).set
    .ESC_FILL_BYTES (((s.serveParts target b).map (·.length)).foldl (· + ·) 0)

theorem State.serveRd_length (s : State) (da n : Nat) : (s.serveRd da n).length = n := by simp [State.serveRd, State.escRd, State.rdDa]

theorem State.serveParts_bytes (s : State) (target b : Nat) : ((s.serveParts target b).map (·.length)).foldl (· + ·) 0 =
    82 + 32 * (s.bankEnts b).length + blockLen + imagesLen (s.bankEnts b) := by
  simp [State.serveParts, State.serveAreas, State.serveRd_length]

theorem State.served_spec (s : State) (target b : Nat) : let t := s.served target b
    t.mem = s.mem ∧ t.esc = { s.esc with lastFill := some target } ∧ (∀ f u i, f ≠ .ESC_FILL_BYTES → t.get f u i = s.get f u i) ∧
      t.get .ESC_FILL_BYTES = (82 + 32 * (s.bankEnts b).length + blockLen + imagesLen (s.bankEnts b)) % 2 ^ 64 := by
  have width : Field.ESC_FILL_BYTES.width = 64 := rfl
  obtain ⟨fab, stw, out, sent⟩ : s.Sends ((s.serveParts target b).zipIdx.foldl (fun s (p, k) => s.collSend target 3 (escHdr 13 0 0 k) p) s) :=
    .foldl (fun x p => x.collSend_sends ..) _ s
  dsimp only
  rw [State.served, State.serveParts_bytes, sent]
  refine ⟨rfl, rfl, fun f u i other => State.get_set_ne _ _ _ _ _ _ _ _ (.inl other), ?_⟩
  rw [State.get_set_self, width]

section ServeTaken
variable {s : State} (target : Nat) (free : s.esc.receiving = none) (still : s.escOpWaits = false)
include free still

theorem State.serve_thawed (thawed : s.get .ESC_STATUS_FROZEN = 0) : s.serve target = s.escBegun.escResult 7 := by
  rw [State.serve, State.escOp_taken _ free still, State.escBegun_get _ _ _ _ (by decide), if_pos thawed]

variable (frozen : s.get .ESC_STATUS_FROZEN = 1)
include frozen

theorem State.serve_unheld (unheld : s.heldBank = none) : s.serve target = s.escBegun.escResult 2 := by
  rw [State.serve, State.escOp_taken _ free still, State.escBegun_get _ _ _ _ (by decide), frozen, if_neg (by decide), State.escBegun_heldBank, unheld]

variable {b : Nat} (held : s.heldBank = some b)
include held

theorem State.serve_poison {da : Nat} (bad : s.escBegun.escPoison (s.escBegun.serveAreas b) = some da) :
    s.serve target = ((s.escBegun.served target b).escUe da).escResult 6 := by
  rw [State.serve, State.escOp_taken _ free still, State.escBegun_get _ _ _ _ (by decide), frozen, if_neg (by decide), State.escBegun_heldBank, held]
  rw [State.serveAreas] at bad
  simp only [bad]
  rfl

theorem State.serve_sound (sound : s.escBegun.escPoison (s.escBegun.serveAreas b) = none) :
    s.serve target = (s.escBegun.served target b).escResult 0 := by
  rw [State.serve, State.escOp_taken _ free still, State.escBegun_get _ _ _ _ (by decide), frozen, if_neg (by decide), State.escBegun_heldBank, held]
  rw [State.serveAreas] at sound
  simp only [sound]
  rfl

end ServeTaken

section ServeEnds
variable {s : State} (by_ : Agent) (target : Nat) (ready : s.get .RST_STATUS_READY = 1) (free : s.esc.receiving = none) (still : s.escOpWaits = false)
  (quiet : s.escBusy = false)
include ready quiet

theorem exec_escServe : exec (.escServe by_ target) s = .next (s.serve target) :=
  congrArg Host.Outcome.next ((State.whenReady_on _ _ _ ready).trans (if_neg (ne_true_of_eq_false quiet)))

include free still

theorem escServe_thawed (thawed : s.get .ESC_STATUS_FROZEN = 0) : EscEnds s (.escServe by_ target) 7 fun t => t.mem = s.mem ∧ t.esc = s.esc :=
  escEnds_of_result ((exec_escServe by_ target ready quiet).trans (congrArg _ (State.serve_thawed target free still thawed))) s.escBegun_done (by decide)
    fun _ mem esc _ => ⟨mem, esc⟩

variable (frozen : s.get .ESC_STATUS_FROZEN = 1)
include frozen

theorem escServe_unheld (unheld : s.heldBank = none) : EscEnds s (.escServe by_ target) 2 fun t => t.mem = s.mem ∧ t.esc = s.esc :=
  escEnds_of_result ((exec_escServe by_ target ready quiet).trans (congrArg _ (State.serve_unheld target free still frozen unheld))) s.escBegun_done (by decide)
    fun _ mem esc _ => ⟨mem, esc⟩

theorem escServe_ends {b : Nat} (held : s.heldBank = some b) :
    EscEnds s (.escServe by_ target) (if (s.escPoison (s.serveAreas b)).isSome then 6 else 0) fun t => t.mem = s.mem ∧
      t.esc = { s.esc with lastFill := some target } ∧
      t.get .ESC_FILL_BYTES = (82 + 32 * (s.bankEnts b).length + blockLen + imagesLen (s.bankEnts b)) % 2 ^ 64 := by
  obtain ⟨mem, esc, get, bytes⟩ := s.escBegun.served_spec target b
  rw [State.escBegun_bankEnts] at bytes
  have areas : s.escBegun.escPoison (s.escBegun.serveAreas b) = s.escPoison (s.serveAreas b) := by
    rw [State.escBegun_escPoison, State.serveAreas, State.escBegun_bankDa, State.escBegun_bankEnts, State.escBegun_bankImages, State.serveAreas]
  have open_ : (s.escBegun.served target b).get .ESC_STATUS_DONE = 0 := (get _ _ _ (by decide)).trans s.escBegun_done
  have run := exec_escServe by_ target ready quiet
  cases bad : s.escPoison (s.serveAreas b) with
  | none =>
    exact escEnds_of_result (run.trans (congrArg _ (State.serve_sound target free still frozen held (areas.trans bad)))) open_ (by decide)
      fun t m e g => ⟨m.trans mem, e.trans esc, (g _ _ _ (by decide)).trans bytes⟩
  | some da =>
    obtain ⟨mem', esc', get'⟩ := (s.escBegun.served target b).escUe_spec da
    exact escEnds_of_result (run.trans (congrArg _ (State.serve_poison target free still frozen held (areas.trans bad)))) ((get' ..).trans open_) (r := 6) (by decide)
      fun t m e g => ⟨m.trans (mem'.trans mem), e.trans (esc'.trans esc), (g _ _ _ (by decide)).trans ((get' ..).trans bytes)⟩

end ServeEnds

/-! ### DIGEST (R372) -/

/-- The weights and state records that a DIGEST reads. -/
def State.shardAreas (s : State) : List (Nat × Nat) := (manifest s.updSec).flatMap fun p => [(p.2.wDa, 2 * p.2.cnt), (p.2.sDa, p.2.recLen)]

/-- Both digests of the live shard. -/
def State.liveDigests (s : State) : List Byte := (shardDigests s.liveShard).1 ++ (shardDigests s.liveShard).2

/-- The digests of the live shard are recorded. -/
def State.digested (s : State) (dg : List Byte) : State :=
  (List.range 8).foldl (fun s k => s.set .ESC_LIVE_DIGEST_DIGEST (field dg (8 * k) 8) 0 k) s

theorem State.digested_spec (s : State) (dg : List Byte) : let t := s.digested dg
    t.mem = s.mem ∧ t.esc = s.esc ∧ (∀ f u i, f ≠ .ESC_LIVE_DIGEST_DIGEST → t.get f u i = s.get f u i) ∧
      ∀ k < 8, t.get .ESC_LIVE_DIGEST_DIGEST 0 k = field dg (8 * k) 8 := by
  have width : Field.ESC_LIVE_DIGEST_DIGEST.width = 64 := rfl
  refine ⟨rfl, rfl, fun f u i other => State.foldl_get (fun _ _ => State.get_set_ne _ _ _ _ _ _ _ _ (.inl other)) _ _, fun k small => ?_⟩
  have set_all (n : Nat) (more : k < n) : ((List.range n).foldl (fun s k => s.set .ESC_LIVE_DIGEST_DIGEST (field dg (8 * k) 8) 0 k) s).get
      .ESC_LIVE_DIGEST_DIGEST 0 k = field dg (8 * k) 8 := by
    induction n with
    | zero => omega
    | succ n ih =>
      rw [List.range_succ, List.foldl_append, List.foldl_cons, List.foldl_nil]
      by_cases last : k = n
      · subst last
        rw [State.get_set_self, width]
        exact Nat.mod_eq_of_lt (field_lt dg (8 * k) 8)
      · rw [State.get_set_ne _ _ _ _ _ _ _ _ (.inr (.inr last))]
        exact ih (by omega)
  exact set_all 8 small

section Digest
variable {s : State} (by_ : Agent) (ready : s.get .RST_STATUS_READY = 1) (free : s.esc.receiving = none) (still : s.escOpWaits = false)

section
include free still

theorem State.escDigestOp_poison {da : Nat} (bad : s.escPoison s.shardAreas = some da) : s.escDigestOp = (s.escBegun.escUe da).escResult 6 := by
  have sec : s.escBegun.updSec = s.updSec := rfl
  rw [State.shardAreas] at bad
  rw [State.escDigestOp, State.escOp_taken _ free still, sec]
  simp only [State.escBegun_escPoison, bad]

theorem State.escDigestOp_sound (sound : s.escPoison s.shardAreas = none) : s.escDigestOp = (s.escBegun.digested s.liveDigests).escResult 0 := by
  have sec : s.escBegun.updSec = s.updSec := rfl
  rw [State.shardAreas] at sound
  rw [State.escDigestOp, State.escOp_taken _ free still, sec]
  simp only [State.escBegun_escPoison, State.escBegun_liveShard, sound]
  rfl

end

variable (quiet : s.escBusy = false)
include ready quiet

theorem exec_escDigest : exec (.escDigest by_) s = .next s.escDigestOp :=
  congrArg Host.Outcome.next ((State.whenReady_on _ _ _ ready).trans (if_neg (ne_true_of_eq_false quiet)))

include free still

theorem escDigest_poison (bad : (s.escPoison s.shardAreas).isSome = true) : EscEnds s (.escDigest by_) 6 fun t =>
    t.mem = s.mem ∧ ∀ k < 8, t.get .ESC_LIVE_DIGEST_DIGEST 0 k = s.get .ESC_LIVE_DIGEST_DIGEST 0 k := by
  obtain ⟨da, found⟩ := Option.isSome_iff_exists.mp bad
  obtain ⟨mem, -, get⟩ := s.escBegun.escUe_spec da
  exact escEnds_of_result ((exec_escDigest by_ ready quiet).trans (congrArg _ (State.escDigestOp_poison free still found)))
    ((get ..).trans s.escBegun_done) (by decide) fun t m _ g => ⟨m.trans mem, fun k _ => (g _ _ _ (by decide)).trans ((get ..).trans
      (s.escBegun_get _ _ _ (by decide)))⟩

theorem escDigest_ends (sound : s.escPoison s.shardAreas = none) : EscEnds s (.escDigest by_) 0 fun t => t.mem = s.mem ∧ t.esc = s.esc ∧
    ∀ k < 8, t.get .ESC_LIVE_DIGEST_DIGEST 0 k = field s.liveDigests (8 * k) 8 := by
  obtain ⟨mem, esc, get, digests⟩ := s.escBegun.digested_spec s.liveDigests
  exact escEnds_of_result ((exec_escDigest by_ ready quiet).trans (congrArg _ (State.escDigestOp_sound free still sound)))
    ((get _ _ _ (by decide)).trans s.escBegun_done) (by decide) fun t m e g => ⟨m.trans mem, e.trans esc, fun k small => (g _ _ _ (by decide)).trans (digests k small)⟩

end Digest

/-! ### O42 -/

section Settle
variable {s : State} (by_ : Agent) (target op : Nat)

/-- Each operation is a write of ESC_CTL of its code. -/
theorem exec_escOperation {c : Instr} (listed : c ∈ [Instr.escFreeze by_, .escRollback by_, .escServe by_ target, .escReceive by_ target, .escDigest by_, .escThaw by_] ∨
    (c = .escBadOp by_ op ∧ ¬(1 ≤ op % 16 ∧ op % 16 ≤ 6))) : ∃ code operand, exec c s = .next (s.escWrite by_ code operand) := by
  rcases listed with listed | ⟨rfl, code⟩
  · simp only [List.mem_cons, List.not_mem_nil, or_false] at listed
    rcases listed with rfl | rfl | rfl | rfl | rfl | rfl
    · exact ⟨1, 0, rfl⟩
    · exact ⟨2, 0, rfl⟩
    · exact ⟨3, target, rfl⟩
    · exact ⟨4, target, rfl⟩
    · exact ⟨5, 0, rfl⟩
    · exact ⟨6, 0, rfl⟩
  · exact ⟨op % 16, 0, exec_escBadOp_other by_ op code⟩

/-- An operation that needs memory which waits is outstanding. -/
theorem escOperation_waits (ready : s.get .RST_STATUS_READY = 1) (free : s.esc.receiving = none) (still : s.escOpWaits = false) (busy : s.escBusy = true)
    {c : Instr} {k g : Nat} (listed : (c, k, g) ∈ [(Instr.escRollback by_, 2, 0), (.escServe by_ target, 3, target), (.escDigest by_, 5, 0)]) :
    ∃ t : State, exec c s = .next t ∧ t.mem = s.mem ∧ t.get .ESC_STATUS_DONE = 0 ∧ t.esc = { s.esc with waits := s.esc.waits ++ [.op k g] } := by
  simp only [List.mem_cons, List.not_mem_nil, or_false, Prod.mk.injEq] at listed
  rcases listed with ⟨rfl, rfl, rfl⟩ | ⟨rfl, rfl, rfl⟩ | ⟨rfl, rfl, rfl⟩
  · exact ⟨_, congrArg Host.Outcome.next (State.whenReady_on _ _ _ ready), State.escMem_waits free still busy 2 0 _⟩
  · exact ⟨_, congrArg Host.Outcome.next (State.whenReady_on _ _ _ ready), State.escMem_waits free still busy 3 _ _⟩
  · exact ⟨_, congrArg Host.Outcome.next (State.whenReady_on _ _ _ ready), State.escMem_waits free still busy 5 0 _⟩

end Settle

/-- Settles O42: each operation that is taken clears DONE and RESULT, acts, and ends by one rule; what it reads is not changed by DONE and RESULT. -/
theorem escrowOperationsEndWithTheirResult : Obligations.EscrowOperationsEndWithTheirResult := by
  unfold Obligations.EscrowOperationsEndWithTheirResult
  intro s by_ target op all waiting Ends
  refine ⟨fun low high => if_pos (by simp [within, low, high]), fun c listed => ?_, fun ready free still =>
    ⟨escBadOp_ends by_ ready free still, escFreeze_ends by_ ready free still, escReceive_refused by_ target ready free still,
      escReceive_begins by_ target ready free still, escThaw_refused by_ ready free still, escThaw_ends by_ ready free still,
      fun busy c k g listed => escOperation_waits by_ target ready free still busy listed, fun quiet =>
      ⟨fun thawed => ⟨escRollback_thawed by_ ready free still quiet thawed, escServe_thawed by_ target ready free still quiet thawed⟩,
        escRollback_homeless by_ ready free still quiet, fun frozen home =>
        ⟨escRollback_poison by_ ready free still quiet frozen home, escRollback_mismatch by_ ready free still quiet frozen home,
          fun sound n rew check => escRollback_restores by_ ready free still quiet frozen home sound check⟩,
        escServe_unheld by_ target ready free still quiet, fun frozen b held => escServe_ends by_ target ready free still quiet frozen held,
        escDigest_poison by_ ready free still quiet, escDigest_ends by_ ready free still quiet⟩⟩⟩
  obtain ⟨code, operand, run⟩ := exec_escOperation (s := s) by_ target op listed
  refine ⟨fun early => ⟨_, run, State.escWrite_early by_ operand early code⟩, fun ready busy => run.trans (congrArg Host.Outcome.next ?_)⟩
  exact (State.whenReady_on _ _ _ ready).trans (State.escCtl_busy operand busy code)

end Sys2Proof.Machine

/-! O43: the escrow stream, the cut and the fill (R363 to R377). -/
namespace Sys2Proof.Machine

open Sys2Proof

/-! ### Bytes and bank states -/

/-- A write of the escrow engine changes bytes and poison alone. -/
theorem State.escWr_eq (s : State) (da : Nat) (bs : List Byte) : ∃ m p, s.escWr da bs = { s with mem := m, poison := p } := s.wrDa_eq ..

theorem State.escWr_esc (s : State) (da : Nat) (bs : List Byte) : (s.escWr da bs).esc = s.esc := by
  obtain ⟨m, p, eq⟩ := s.escWr_eq da bs
  rw [eq]

theorem State.escWr_get (s : State) (da : Nat) (bs : List Byte) (f : Field) (u i : Nat) : (s.escWr da bs).get f u i = s.get f u i := s.wrDa_get ..

theorem State.escWr_bankDa (s : State) (da : Nat) (bs : List Byte) : (s.escWr da bs).bankDa = s.bankDa := by
  obtain ⟨m, p, eq⟩ := s.escWr_eq da bs
  rw [eq]
  rfl

/-- The field of ESC_STATUS that shows a bank's state. -/
def bankField (b : Nat) : Field := if b = 0 then .ESC_STATUS_BANK0 else .ESC_STATUS_BANK1

theorem bankField_width (b : Nat) : (bankField b).width = 4 := by
  have zero : Field.ESC_STATUS_BANK0.width = 4 := rfl
  have one : Field.ESC_STATUS_BANK1.width = 4 := rfl
  unfold bankField
  split <;> assumption

theorem bankField_listed (b : Nat) : bankField b = .ESC_STATUS_BANK0 ∨ bankField b = .ESC_STATUS_BANK1 := by
  unfold bankField
  split
  · exact .inl rfl
  · exact .inr rfl

theorem State.bankState_eq (s : State) (b : Nat) : s.bankState b = s.get (bankField b) := by
  unfold State.bankState bankField
  split <;> rfl

theorem State.setBank_eq (s : State) (b v : Nat) : s.setBank b v = (s.set (bankField b) v).escWr ((s.set (bankField b) v).bankDa b + 10) (leBytes 1 v) := by
  unfold State.setBank bankField
  split <;> rfl

theorem State.setBank_esc (s : State) (b v : Nat) : (s.setBank b v).esc = s.esc := by
  rw [State.setBank_eq, State.escWr_esc]
  rfl

theorem State.setBank_get (s : State) (b v : Nat) {f : Field} (u i : Nat) (other : f ≠ .ESC_STATUS_BANK0 ∧ f ≠ .ESC_STATUS_BANK1) :
    (s.setBank b v).get f u i = s.get f u i := by
  rw [State.setBank_eq, State.escWr_get, State.get_set_ne _ _ _ _ _ _ _ _ (.inl ?_)]
  rcases bankField_listed b with h | h <;> rw [h]
  · exact other.1
  · exact other.2

theorem State.setBank_bankState (s : State) (b v c : Nat) : (s.setBank b v).bankState c = if (c = 0 ↔ b = 0) then v % 16 else s.bankState c := by
  rw [State.setBank_eq, State.bankState_eq, State.escWr_get, State.bankState_eq]
  split
  next alike =>
    have same : bankField c = bankField b := by simp only [bankField, alike]
    rw [same]
    exact (State.get_set_self ..).trans (congrArg (fun w => v % 2 ^ w) (bankField_width b))
  next differ =>
    refine State.get_set_ne _ _ _ _ _ _ _ _ (.inl fun same => differ ?_)
    unfold bankField at same
    split at same <;> split at same <;> simp_all

/-- A bank's state is also in its header. -/
theorem State.setBank_mem (s : State) (b v : Nat) : (s.setBank b v).mem = (s.escWr (s.bankDa b + 10) (leBytes 1 v)).mem := by
  have place : (s.set (bankField b) v).bankDa b = s.bankDa b := by
    have other : bankField b ≠ .ESC_BANK_LEN_LEN ∧ bankField b ≠ .ESC_BANK_BASE := by
      rcases bankField_listed b with h | h <;> rw [h] <;> decide
    have str : (s.set (bankField b) v).str = s.str := rfl
    rw [State.bankDa, State.escBankLen, State.eff, State.eff, str, State.get_set_ne _ _ _ _ _ _ _ _ (.inl other.1.symm),
      State.get_set_ne _ _ _ _ _ _ _ _ (.inl other.2.symm)]
    rfl
  have reads : s.ReadsAs (s.set (bankField b) v) := by
    refine ⟨rfl, rfl, rfl, rfl, rfl, rfl, fun f listed u => State.get_set_ne _ _ _ _ _ _ _ _ (.inl ?_)⟩
    rcases bankField_listed b with h | h <;> rw [h] <;> revert f <;> decide
  rw [State.setBank_eq, place]
  obtain ⟨-, -, mem, -⟩ := reads.wrDa escA s.escImg (s.bankDa b + 10) (leBytes 1 v)
  exact mem

/-! ### A step opens (R363, R364) -/

theorem State.escStream_sends (s : State) (dev t : Nat) (full : Bool) (blk : List Byte) : s.Sends (s.escStream dev t full blk) := by
  have send (x : State) (k part : Nat) (b : List Byte) :
      x.Sends ((deltaRecords b).zipIdx.foldl (fun s (r, i) => s.collSend dev 2 (escHdr 11 k part i) r) x) :=
    .foldl (fun y _ => y.collSend_sends ..) _ x
  unfold State.escStream
  exact (((s.collSend_sends ..).trans (.foldl (fun x _ => send x ..) _ _)).trans (.foldl (fun x _ => send x ..) _ _)).trans (State.collSend_sends ..)

/-- What an escrow step records when it opens: its state block lies in the home slot that does not hold HOME_STEP. -/
def State.stepOpened (s : State) (n : Nat) : State :=
  ((s.escWr (s.homeDa + (if s.homeSlot = 0x100000 then 0x200000 else 0x100000)) (s.stateBlock n)).setEsc fun e => { e with opened := some n }).set
    .ESC_STATUS_OPEN 1 |>.set .ESC_STEPS_OPEN_STEP n

theorem exec_escrowStepOpen_idle {s : State} (idle : s.escDue = none ∨ s.escBusy = true) : exec .escrowStepOpen s = .next s := by
  change execEscrowStepOpen s = _
  unfold execEscrowStepOpen
  split
  · rfl
  next n due => exact if_pos (idle.resolve_left (by simp [due]))

theorem State.stepOpened_mem (s : State) (n : Nat) : (s.stepOpened n).mem =
    (s.escWr (s.homeDa + (if s.homeSlot = 0x100000 then 0x200000 else 0x100000)) (s.stateBlock n)).mem := by
  unfold State.stepOpened
  generalize s.escWr _ _ = x
  rfl

/-- An escrow step that is due opens, and then only streams or logs a poisoned block. -/
theorem exec_escrowStepOpen_due {s : State} {n : Nat} (due : s.escDue = some n) (quiet : s.escBusy = false) :
    ∃ t : State, exec .escrowStepOpen s = .next t ∧ t.mem = (s.stepOpened n).mem ∧ t.esc = (s.stepOpened n).esc ∧
      ∀ f u i, t.get f u i = (s.stepOpened n).get f u i := by
  change ∃ t : State, execEscrowStepOpen s = .next t ∧ _
  unfold execEscrowStepOpen
  rw [due]
  dsimp only
  rw [if_neg (ne_true_of_eq_false quiet), ← State.stepOpened]
  generalize s.stepOpened n = x
  split
  · exact ⟨_, rfl, rfl, rfl, fun _ _ _ => rfl⟩
  next da _ _ =>
    obtain ⟨mem, esc, get⟩ := x.escUe_spec da
    exact ⟨_, rfl, mem, esc, get⟩
  next dev _ _ =>
    obtain ⟨fab, stw, out, sent⟩ := x.escStream_sends dev n
      (s.get .ESC_STATUS_HOME == 0 || slice (s.escRd s.homeDa 40) 8 32 != sha3 (manifestBytes s.updSec) || s.esc.needFull) (s.stateBlock n)
    exact ⟨_, congrArg Host.Outcome.next sent, rfl, rfl, fun _ _ _ => rfl⟩

theorem escrowStepOpen_opens {s : State} {n : Nat} (due : s.escDue = some n) (quiet : s.escBusy = false) :
    ∃ t : State, exec .escrowStepOpen s = .next t ∧ t.esc.opened = some n ∧ t.get .ESC_STATUS_OPEN = 1 ∧
      t.get .ESC_STEPS_OPEN_STEP = n % 2 ^ 32 ∧ t.get .ESC_STATUS_HOME_STEP = s.get .ESC_STATUS_HOME_STEP ∧
      t.mem = (s.escWr (s.homeDa + (if s.homeSlot = 0x100000 then 0x200000 else 0x100000)) (s.stateBlock n)).mem := by
  have openWidth : Field.ESC_STATUS_OPEN.width = 1 := rfl
  have stepWidth : Field.ESC_STEPS_OPEN_STEP.width = 32 := rfl
  obtain ⟨t, run, mem, esc, get⟩ := exec_escrowStepOpen_due due quiet
  refine ⟨t, run, by rw [esc]; rfl, (get ..).trans ?_, (get ..).trans ?_, (get ..).trans ?_, mem.trans (s.stepOpened_mem n)⟩
  · simp [State.stepOpened, openWidth]
  · simp [State.stepOpened, stepWidth]
  · simp [State.stepOpened, State.escWr_get]

/-! ### Messages of the escrow (R364, R368) -/

/-- What a message's arrival leaves: identity, image banks, memory and escrow. -/
def State.Arrived (s t : State) : Prop := t.ident = s.ident ∧ t.str = s.str ∧ t.mem = s.mem ∧ t.esc = s.esc

theorem State.tc0In_arrived (s : State) (src typ lat : Nat) : s.Arrived (s.tc0In src typ lat) := by
  have woken : s.Arrived (if 4 ≤ typ then s.wake 4 else s) := by
    unfold State.wake
    repeat' split
    all_goals exact ⟨rfl, rfl, rfl, rfl⟩
  unfold State.tc0In
  dsimp only
  generalize (if 4 ≤ typ then s.wake 4 else s) = x at woken
  have counted : s.Arrived (if x.get .FAB_TC0_MAXLAT < min (lat / 16) 0xffff then x.set .FAB_TC0_MAXLAT (min (lat / 16) 0xffff) else x) := by
    split <;> exact woken
  generalize (if x.get .FAB_TC0_MAXLAT < min (lat / 16) 0xffff then x.set .FAB_TC0_MAXLAT (min (lat / 16) 0xffff) else x) = y at counted
  split
  · split
    all_goals
      split
      · rw [State.log'_eq _ _ _ _ _ (by decide)]
        exact counted
      · exact counted
  · exact counted

theorem State.tc0In_esc (s : State) (src typ lat : Nat) : (s.tc0In src typ lat).esc = s.esc := by
  obtain ⟨-, -, -, esc⟩ := s.tc0In_arrived src typ lat
  exact esc

theorem State.tc0In_mem (s : State) (src typ lat : Nat) : (s.tc0In src typ lat).mem = s.mem := by
  obtain ⟨-, -, mem, -⟩ := s.tc0In_arrived src typ lat
  exact mem

theorem State.tc0In_peerMap (s : State) (src typ lat : Nat) : (s.tc0In src typ lat).peerMap = s.peerMap := by
  obtain ⟨ident, str, -, -⟩ := s.tc0In_arrived src typ lat
  rw [State.peerMap, State.bank, State.fabUnit, ident, str, State.peerMap, State.bank, State.fabUnit]

theorem needFullReceive_partner {s : State} {dev : Nat} (lat : Nat) (partner : pmPartner s.peerMap = some dev) :
    ∃ t : State, exec (.needFullReceive dev lat) s = .next t ∧ t.esc = { s.esc with needFull := true } ∧ t.mem = s.mem := by
  refine ⟨_, congrArg Host.Outcome.next (if_pos (by rw [State.tc0In_peerMap, partner])), ?_, State.tc0In_mem ..⟩
  rw [State.setEsc_esc, State.tc0In_esc]

theorem needFullReceive_other {s : State} {dev : Nat} (lat : Nat) (other : pmPartner s.peerMap ≠ some dev) :
    ∃ t : State, exec (.needFullReceive dev lat) s = .next t ∧ t.esc = s.esc ∧ t.mem = s.mem := by
  exact ⟨_, congrArg Host.Outcome.next (if_neg (by rw [State.tc0In_peerMap]; exact other)), State.tc0In_esc .., State.tc0In_mem ..⟩

theorem sealedReceive_records (s : State) (dev step b lat : Nat) : ∃ t : State, exec (.sealedReceive dev step b lat) s = .next t ∧
    t.esc = { s.esc with seals := (dev, step, b) :: s.esc.seals } ∧ t.mem = s.mem := by
  refine ⟨_, rfl, ?_, State.tc0In_mem ..⟩
  rw [State.setEsc_esc, State.tc0In_esc]

/-! ### Items of a stream (R365, R375, R189) -/

/-- An item waits behind what waits, and while the escrow's requests wait. -/
theorem State.escIn_waits {s : State} (x : EscIn) (busy : s.esc.waits ≠ [] ∨ s.escBusy = true) :
    s.escIn x = s.setEsc fun e => { e with waits := e.waits ++ [x] } := if_pos busy

theorem State.escIn_now {s : State} (x : EscIn) (none : s.esc.waits = []) (quiet : s.escBusy = false) : s.escIn x = s.escDo x :=
  if_neg (by simp [none, quiet])

/-- Telling the source that a full copy is needed changes neither memory nor the escrow. -/
theorem State.escNeedFull_kept (s : State) (src step cause : Nat) :
    (s.escNeedFull src step cause).esc = s.esc ∧ (s.escNeedFull src step cause).mem = s.mem := by
  obtain ⟨fab, stw, out, sent⟩ := s.tc0_sends src (.needFull s.ownId)
  rw [State.escNeedFull, sent]
  exact ⟨State.log'_esc .., State.log'_mem ..⟩

/-! OPEN of a step. -/

theorem State.takeOpen_idle {s : State} {dev : Nat} (step base : Nat) (man : List Byte)
    (idle : s.eff .ESC_CFG_ENABLE = 0 ∨ dev ≠ s.eff .ESC_CFG_SOURCE ∨ s.get .ESC_STATUS_FROZEN = 1) : s.takeOpen dev step base man = s := if_pos idle

/-- Whether the base of a step that opens is one that the part has. -/
def State.openBased (s : State) (base : Nat) : Prop := base = 0xffffffff ∨ ((∃ h, s.heldBank = some h) ∧ base = s.get .ESC_STEPS_HELD_STEP)

/-- Whether a manifest and its images fit a bank. -/
def State.openFits (s : State) (man : List Byte) : Prop := 0x200000 + imagesLen (manifestEnts man) ≤ s.escBankLen ∧ 4096 + man.length ≤ 0x100000

section Open
variable {s : State} {dev : Nat} (step : Nat) {base : Nat} {man : List Byte} (enabled : s.eff .ESC_CFG_ENABLE = 1) (source : dev = s.eff .ESC_CFG_SOURCE)
  (thawed : s.get .ESC_STATUS_FROZEN = 0)

theorem State.takeOpen_guard : ((!(base == 0xffffffff || (s.heldBank.isSome && base == s.get .ESC_STEPS_HELD_STEP))) = true ∨
    (!(decide (0x200000 + imagesLen (manifestEnts man) ≤ s.escBankLen) && decide (4096 + man.length ≤ 0x100000))) = true) ↔
    ¬(s.openBased base ∧ s.openFits man) := by
  rw [State.openBased, State.openFits, ← Option.isSome_iff_exists, not_and_or, Bool.not_eq_true', Bool.not_eq_true', ← Bool.not_eq_true, ← Bool.not_eq_true]
  simp only [Bool.or_eq_true, Bool.and_eq_true, beq_iff_eq, decide_eq_true_eq]

include enabled source thawed

theorem State.takeOpen_awake : ¬(s.eff .ESC_CFG_ENABLE = 0 ∨ dev ≠ s.eff .ESC_CFG_SOURCE ∨ s.get .ESC_STATUS_FROZEN = 1) := by
  simp [enabled, source, thawed]

theorem State.takeOpen_refuses (bad : ¬(s.openBased base ∧ s.openFits man)) : ∃ t : State, s.takeOpen dev step base man = t ∧
    t.esc = { s.esc with filling := none, ignoring := true } ∧ t.mem = s.mem :=
  ⟨_, (if_neg (State.takeOpen_awake enabled source thawed)).trans (if_pos (State.takeOpen_guard.mpr bad)), State.escNeedFull_kept ..⟩

theorem State.takeOpen_takes (based : s.openBased base) (fits : s.openFits man) : let b := if s.heldBank = some 0 then 1 else 0
    ∃ t : State, s.takeOpen dev step base man = t ∧ t.bankState b = 1 ∧ t.bankState (1 - b) = s.bankState (1 - b) ∧
      t.esc = { s.esc with filling := some b, inStep := step, inBase := base, ignoring := false, deltas := [], captured := [], closing := none } := by
  have small : (if s.heldBank = some 0 then 1 else 0) < 2 := by split <;> decide
  refine ⟨_, (if_neg (State.takeOpen_awake enabled source thawed)).trans (if_neg fun bad => State.takeOpen_guard.mp bad ⟨based, fits⟩), ?_⟩
  dsimp only
  generalize (if s.heldBank = some 0 then 1 else 0) = b at small
  refine ⟨(State.setBank_bankState ..).trans (if_pos Iff.rfl), (State.setBank_bankState ..).trans ((if_neg (by omega)).trans ?_),
    (State.setBank_esc ..).trans ?_⟩
  · rw [State.bankState_eq, State.escWr_get, State.escWr_get, State.bankState_eq]
    rfl
  · rw [State.escWr_esc, State.escWr_esc]
    rfl

end Open

/-! A delta. -/

/-- The bytes that the records of a delta stand for, from a tile on. -/
def deltaBytes (recs : List Byte) (n tile : Nat) : List Byte :=
  ((huskDecode 0 (fun o l => slice recs o l) (fun o l => decide (recs.length < o + l)) (ceilDiv (ceilDiv n 2 - 2048 * tile) 2048) (ceilDiv n 2 - 2048 * tile) 0
    #[]).1.toList.flatMap (leBytes 2)).take (n - 4096 * tile)

/-- The bytes of the held bank that a delta is against: none for a full copy. -/
def State.deltaBase (s : State) (o n : Nat) : List Byte :=
  match s.heldBank with
  | some h => if s.esc.inBase = 0xffffffff then [] else s.escRd (s.bankImages h + o) n
  | none => []

/-- What a delta writes: its bytes against those of the base, and a state record's header as it is. -/
def deltaMixed (part tile : Nat) (got old : List Byte) : List Byte :=
  got.zipIdx.map fun (x, i) => if part = 1 ∧ 4096 * tile + i < 64 then x else x ^^^ old.getD i 0

theorem deltaMixed_length (part tile : Nat) (got old : List Byte) : (deltaMixed part tile got old).length = got.length := by simp [deltaMixed]

theorem deltaMixed_full (part tile : Nat) (got : List Byte) : deltaMixed part tile got [] = got := by
  have plain : (fun (p : Byte × Nat) => if part = 1 ∧ 4096 * tile + p.2 < 64 then p.1 else p.1 ^^^ ([] : List Byte).getD p.2 0) = Prod.fst := by
    funext p
    simp
  exact (congrArg (List.map · got.zipIdx) plain).trans (List.zipIdx_map_fst ..)

theorem State.deltaBase_full {s : State} (full : s.esc.inBase = 0xffffffff) (o n : Nat) : s.deltaBase o n = [] := by
  unfold State.deltaBase
  split
  · exact if_pos full
  · rfl

theorem State.takeDelta_idle {s : State} {dev : Nat} (k part tile : Nat) (recs : List Byte)
    (idle : s.esc.filling = none ∨ dev ≠ s.eff .ESC_CFG_SOURCE ∨ s.esc.ignoring = true ∨ s.get .ESC_STATUS_FROZEN = 1) :
    s.takeDelta dev k part tile recs = s := by
  unfold State.takeDelta
  split
  · rfl
  next b filling => exact if_pos (idle.resolve_left (by simp [filling]))

section Delta
variable {s : State} {dev b k : Nat} {e : UpdEnt} (filling : s.esc.filling = some b) (source : dev = s.eff .ESC_CFG_SOURCE) (heeded : s.esc.ignoring = false)
  (thawed : s.get .ESC_STATUS_FROZEN = 0) (entry : (s.bankEnts b)[k]? = some e)
include filling source heeded thawed entry

theorem State.takeDelta_writes (part tile : Nat) (recs : List Byte) :
    let got := deltaBytes recs (if part = 0 then 2 * e.cnt else e.recLen) tile
    let o := imagesOff (s.bankEnts b) k + (if part = 0 then 0 else e.recOff) + 4096 * tile
    ∃ (t : State) (new : List Byte), s.takeDelta dev k part tile recs = t ∧ new.length = got.length ∧ (s.esc.inBase = 0xffffffff → new = got) ∧
      t.mem = (s.escWr (s.bankImages b + o) new).mem ∧ t.esc = { s.esc with deltas := (o, got.length) :: s.esc.deltas } := by
  intro got o
  have shape : s.takeDelta dev k part tile recs = (s.escWr (s.bankImages b + o) (deltaMixed part tile got (s.deltaBase o got.length))).setEsc fun x =>
      { x with deltas := (o, (deltaMixed part tile got (s.deltaBase o got.length)).length) :: x.deltas } := by
    unfold State.takeDelta
    rw [filling]
    dsimp only
    rw [if_neg (by simp [source, heeded, thawed]), entry]
    rfl
  refine ⟨_, deltaMixed part tile got (s.deltaBase o got.length), shape, deltaMixed_length .., fun full => ?_, rfl, ?_⟩
  · rw [State.deltaBase_full full, deltaMixed_full]
  · rw [State.setEsc_esc, State.escWr_esc, deltaMixed_length]

end Delta

/-! CLOSE of a step. -/

theorem State.takeClose_idle {s : State} {dev : Nat} (step : Nat) (blk : List Byte)
    (idle : dev ≠ s.eff .ESC_CFG_SOURCE ∨ (s.esc.ignoring = false ∧ s.esc.filling = none)) : s.takeClose dev step blk = s := by
  unfold State.takeClose
  split
  · rfl
  next source =>
    obtain ⟨heeded, empty⟩ := idle.resolve_left source
    rw [if_neg (by simp [heeded]), empty]

section Close
variable {s : State} {dev : Nat} (step : Nat) (blk : List Byte) (source : dev = s.eff .ESC_CFG_SOURCE)
include source

theorem State.takeClose_ignored (ignored : s.esc.ignoring = true) : s.takeClose dev step blk = s.setEsc fun e => { e with ignoring := false } :=
  (if_neg (not_not.mpr source)).trans (if_pos ignored)

/-- The first poisoned block of the bank that a stream is against. -/
def State.closePoison (s : State) : Option Nat :=
  if s.esc.inBase = 0xffffffff then none else s.heldBank.bind fun h => s.escPoison [(s.bankDa h, s.escBankLen)]

variable {b : Nat} (heeded : s.esc.ignoring = false) (filling : s.esc.filling = some b)
include heeded filling

theorem State.takeClose_gives_up (bad : s.esc.inStep ≠ step ∨ s.escComplete b = false ∨ s.closePoison.isSome = true) :
    ∃ t : State, s.takeClose dev step blk = t ∧ t.esc = { s.esc with filling := none } ∧ t.mem = s.mem := by
  have kept (x : State) (cause : Nat) (esc : x.esc = { s.esc with filling := none }) (mem : x.mem = s.mem) :
      (x.escNeedFull dev step cause).esc = { s.esc with filling := none } ∧ (x.escNeedFull dev step cause).mem = s.mem := by
    obtain ⟨esc', mem'⟩ := x.escNeedFull_kept dev step cause
    exact ⟨esc'.trans esc, mem'.trans mem⟩
  refine ⟨_, rfl, ?_⟩
  unfold State.takeClose
  rw [if_neg (not_not.mpr source), if_neg (ne_true_of_eq_false heeded), filling]
  dsimp only
  rw [← State.closePoison]
  split
  · exact kept _ _ rfl rfl
  next whole =>
    have poisoned : s.closePoison.isSome = true := by
      rw [not_or, not_not] at whole
      exact (bad.resolve_left (not_not.mpr whole.1)).resolve_left fun missing => whole.2 (by rw [missing]; rfl)
    split
    next da _ =>
      obtain ⟨mem, esc, -⟩ := (s.setEsc fun e => { e with filling := none }).escUe_spec da
      exact kept _ _ esc mem
    next sound => exact absurd poisoned (by rw [sound]; decide)

theorem State.takeClose_closes (same : s.esc.inStep = step) (whole : s.escComplete b = true) (sound : s.closePoison = none) :
    s.takeClose dev step blk = s.setEsc fun e => { e with closing := some blk } := by
  unfold State.takeClose
  rw [if_neg (not_not.mpr source), if_neg (ne_true_of_eq_false heeded), filling]
  dsimp only
  rw [if_neg (by simp [same, whole]), ← State.closePoison, sound]

end Close

/-! ### A fill (R375) -/

/-- However DONE stood, an operation's end raises it with its RESULT. -/
theorem State.escResult_ends (s : State) {r : Nat} (small : r < 16) : let t := s.escResult r
    t.get .ESC_STATUS_DONE = 1 ∧ t.get .ESC_STATUS_RESULT = r ∧ t.mem = s.mem ∧ t.esc = s.esc ∧
      ∀ f u i, f ∉ escEndFields → t.get f u i = s.get f u i := by
  have doneWidth : Field.ESC_STATUS_DONE.width = 1 := rfl
  have resultWidth : Field.ESC_STATUS_RESULT.width = 4 := rfl
  by_cases open_ : s.get .ESC_STATUS_DONE = 0
  · obtain ⟨⟨done, result, -⟩, mem, esc, get⟩ := State.escResult_spec open_ small
    exact ⟨done, result, mem, esc, get⟩
  · have shape : s.escResult r = (s.set .ESC_STATUS_DONE 1).set .ESC_STATUS_RESULT r := if_neg (by simpa using open_)
    rw [shape]
    refine ⟨by simp [doneWidth], ?_, rfl, rfl, fun f u i other => ?_⟩
    · rw [State.get_set_self, resultWidth]
      exact Nat.mod_eq_of_lt small
    · simp only [escEndFields, List.mem_cons, List.not_mem_nil, or_false, not_or] at other
      simp [other]

/-- A RECEIVE ends with its RESULT. -/
theorem State.fillEnd_spec (s : State) {r : Nat} (small : r < 16) : let t := s.fillEnd r
    t.get .ESC_STATUS_DONE = 1 ∧ t.get .ESC_STATUS_RESULT = r ∧ t.mem = s.mem ∧ t.esc = { s.esc with receiving := none } ∧
      ∀ f u i, f ∉ escEndFields → t.get f u i = s.get f u i :=
  State.escResult_ends (s.setEsc fun e => { e with receiving := none }) small

theorem State.takeFill_other {s : State} {dev : Nat} (sec off : Nat) (bs : List Byte) (other : s.esc.receiving ≠ some dev) :
    s.takeFill dev sec off bs = s := if_pos other

section Fill
variable {s : State} {dev : Nat} (off : Nat) (bs : List Byte) (mine : s.esc.receiving = some dev)

/-- The bytes of a fill's stream are counted. -/
def State.fillCounted (s : State) (n : Nat) : State := s.set .ESC_FILL_BYTES (s.get .ESC_FILL_BYTES + n)

theorem State.fillCounted_bytes (s : State) (n : Nat) : (s.fillCounted n).get .ESC_FILL_BYTES = (s.get .ESC_FILL_BYTES + n) % 2 ^ 64 := by
  have width : Field.ESC_FILL_BYTES.width = 64 := rfl
  rw [State.fillCounted, State.get_set_self, width]

include mine

theorem State.takeFill_header : ∃ t : State, s.takeFill dev 0 off bs = t ∧ t.esc = { s.esc with fillHdr := bs } ∧ t.mem = s.mem ∧
    t.get .ESC_FILL_BYTES = (s.get .ESC_FILL_BYTES + bs.length) % 2 ^ 64 := by
  have logged (x : State) (fs : List (Nat × Nat)) (p : Prop) [Decidable p] : let t := if p then x.log' x.stwSrc 0x600D 1 fs else x
      t.esc = x.esc ∧ t.mem = x.mem ∧ t.get .ESC_FILL_BYTES = x.get .ESC_FILL_BYTES := by
    dsimp only
    split
    · exact ⟨State.log'_esc .., State.log'_mem .., State.log'_get_other _ _ _ _ _ _ _ _ (by decide)⟩
    · exact ⟨rfl, rfl, rfl⟩
  obtain ⟨esc, mem, bytes⟩ := logged ((s.fillCounted bs.length).setEsc fun e => { e with fillHdr := bs }) [(2, field bs 80 2), (2, s.ownId)]
    (bs.length ≥ 82 ∧ field bs 80 2 ≠ 0xffff)
  exact ⟨_, if_neg (not_not.mpr mine), esc, mem, bytes.trans (s.fillCounted_bytes _)⟩

/-- Whether bytes of a fill's manifest are the part's own manifest's. -/
def State.fillSame (s : State) (off : Nat) (bs : List Byte) : Prop :=
  slice (manifestBytes s.updSec) off bs.length = bs ∧ (manifestBytes s.updSec).length = 32 * field s.esc.fillHdr 12 4

theorem State.takeFill_manifest (same : s.fillSame off bs) :
    s.takeFill dev 1 off bs = s.set .ESC_FILL_BYTES ((s.get .ESC_FILL_BYTES + bs.length) % 2 ^ 64) := by
  have width : Field.ESC_FILL_BYTES.width = 64 := rfl
  have counted : s.fillCounted bs.length = s.set .ESC_FILL_BYTES ((s.get .ESC_FILL_BYTES + bs.length) % 2 ^ 64) := by
    simp only [State.fillCounted, State.set, width, Nat.mod_mod]
  rw [← counted]
  exact (if_neg (not_not.mpr mine)).trans (if_pos same)

theorem State.takeFill_differs (other : ¬s.fillSame off bs) : ∃ t : State, s.takeFill dev 1 off bs = t ∧ t.esc = { s.esc with receiving := none } ∧
    t.mem = s.mem ∧ t.get .ESC_STATUS_RESULT = 5 ∧ t.get .ESC_STATUS_DONE = 1 ∧
    t.get .ESC_FILL_BYTES = (s.get .ESC_FILL_BYTES + bs.length) % 2 ^ 64 := by
  obtain ⟨done, result, mem, esc, get⟩ := ((s.fillCounted bs.length).escRefused dev (field s.esc.fillHdr 0 4) 2).fillEnd_spec (r := 5) (by decide)
  refine ⟨_, (if_neg (not_not.mpr mine)).trans (if_neg other), esc.trans ?_, mem.trans (State.log'_mem ..), result, done, (get _ _ _ (by decide)).trans ?_⟩
  · rw [State.escRefused, State.log'_esc]
    rfl
  · exact (State.log'_get_other _ _ _ _ _ _ _ _ (by decide)).trans (s.fillCounted_bytes _)

theorem State.takeFill_block (short : (s.esc.fillBlock ++ bs).length < blockLen) : ∃ t : State, s.takeFill dev 2 off bs = t ∧
    t.esc = { s.esc with fillBlock := s.esc.fillBlock ++ bs } ∧ t.mem = s.mem ∧
    t.get .ESC_FILL_BYTES = (s.get .ESC_FILL_BYTES + bs.length) % 2 ^ 64 :=
  ⟨_, (if_neg (not_not.mpr mine)).trans (if_pos short), rfl, rfl, s.fillCounted_bytes _⟩

end Fill

/-! The entry images of a fill, and its end. -/

/-- Two states that differ in bytes and poison alone. -/
def State.Writes (s t : State) : Prop := ∃ m p, t = { s with mem := m, poison := p }

theorem State.Writes.trans {s t u : State} (first : s.Writes t) (second : t.Writes u) : s.Writes u := by
  obtain ⟨m, p, rfl⟩ := first
  obtain ⟨m', p', rfl⟩ := second
  exact ⟨m', p', rfl⟩

theorem State.Writes.foldl {α : Type} {step : State → α → State} (each : ∀ x a, State.Writes x (step x a)) (l : List α) (s : State) :
    s.Writes (l.foldl step s) := by
  induction l generalizing s with
  | nil => exact ⟨s.mem, s.poison, rfl⟩
  | cons a l ih => exact (each s a).trans (ih _)

theorem State.fillImages_writes (s : State) (off : Nat) (bs : List Byte) : s.Writes (s.fillImages off bs) := by
  have put (x : State) (p : Prop) [Decidable p] (da : Nat) (b : List Byte) : x.Writes (if p then x else x.escWr da b) := by
    split
    · exact ⟨x.mem, x.poison, rfl⟩
    · exact x.escWr_eq da b
  unfold State.fillImages
  exact State.Writes.trans (.foldl (fun x p => (put x _ _ _).trans (put _ _ _ _)) _ s) (State.escWr_eq ..)

/-- The home header takes step and state. -/
theorem State.setHome_spec (s : State) (step st : Nat) (dg : List Byte) : let t := s.setHome step st dg
    t.esc = s.esc ∧ t.get .ESC_STATUS_HOME = st % 4 ∧ t.get .ESC_STATUS_HOME_STEP = step % 2 ^ 32 ∧
      ∀ f u i, f ≠ .ESC_STATUS_HOME → f ≠ .ESC_STATUS_HOME_STEP → t.get f u i = s.get f u i := by
  have stateWidth : Field.ESC_STATUS_HOME.width = 2 := rfl
  have stepWidth : Field.ESC_STATUS_HOME_STEP.width = 32 := rfl
  unfold State.setHome
  refine ⟨State.escWr_esc .., (State.escWr_get ..).trans ?_, (State.escWr_get ..).trans ?_, fun f u i home step => (State.escWr_get ..).trans ?_⟩
  · simp [stateWidth]
  · simp [stepWidth]
  · simp [home, step]

theorem State.clearRefresh_eq (s : State) : ∃ m p, s.clearRefresh = { s with mem := m, poison := p } := s.escWr_eq ..

/-- The digest of the HELD bank is kept in its registers alone. -/
theorem State.setDigest_get (s : State) (dg : List Byte) {f : Field} (u i : Nat) (other : f ≠ .ESC_DIGEST_DIGEST) :
    (s.setDigest dg).get f u i = s.get f u i :=
  State.foldl_get (fun _ _ => State.get_set_ne _ _ _ _ _ _ _ _ (.inl other)) _ s

theorem State.setDigest_esc (s : State) (dg : List Byte) : (s.setDigest dg).esc = s.esc := rfl

/-- What a fill records before its digests are compared: the home copy is valid. -/
def State.fillHomed (s : State) : State :=
  ((s.escWr (s.homeDa + 0x100000) s.esc.fillBlock).setHome (field s.esc.fillHdr 0 4) 1
    (sha3 (manifestBytes (s.escWr (s.homeDa + 0x100000) s.esc.fillBlock).updSec))).clearRefresh

theorem State.fillHomed_spec (s : State) : s.fillHomed.esc = s.esc ∧ s.fillHomed.get .ESC_STATUS_HOME = 1 ∧
    s.fillHomed.get .ESC_STATUS_HOME_STEP = field s.esc.fillHdr 0 4 := by
  obtain ⟨esc, home, step, -⟩ := (s.escWr (s.homeDa + 0x100000) s.esc.fillBlock).setHome_spec (field s.esc.fillHdr 0 4) 1
    (sha3 (manifestBytes (s.escWr (s.homeDa + 0x100000) s.esc.fillBlock).updSec))
  obtain ⟨m, p, cleared⟩ := ((s.escWr (s.homeDa + 0x100000) s.esc.fillBlock).setHome (field s.esc.fillHdr 0 4) 1
    (sha3 (manifestBytes (s.escWr (s.homeDa + 0x100000) s.esc.fillBlock).updSec))).clearRefresh_eq
  rw [State.fillHomed, cleared]
  exact ⟨esc.trans (State.escWr_esc ..), home, step.trans (Nat.mod_eq_of_lt (field_lt ..))⟩

/-- What is sent to the source once a fill has ended its home copy. -/
def State.fillTold (s : State) : State := if s.eff .ESC_CFG_ENABLE = 1 then s.tc0 (s.eff .ESC_CFG_SOURCE) (.needFull s.ownId) else s

theorem State.fillTold_sends (s : State) : s.Sends s.fillTold := by
  unfold State.fillTold
  split
  · exact s.tc0_sends ..
  · exact .refl s

theorem State.fillDone_spec (s : State) : s.fillDone.esc.receiving = none ∧ s.fillDone.get .ESC_STATUS_HOME = 1 ∧
    s.fillDone.get .ESC_STATUS_HOME_STEP = field s.esc.fillHdr 0 4 ∧ s.fillDone.get .ESC_STATUS_DONE = 1 ∧
    (s.fillDone.get .ESC_STATUS_RESULT = 0 ∨ s.fillDone.get .ESC_STATUS_RESULT = 3) := by
  obtain ⟨-, home, step⟩ := s.fillHomed_spec
  have shape : s.fillDone = if (shardDigests s.fillHomed.liveShard).1 = slice s.esc.fillHdr 16 32 then
      (s.fillHomed.setDigest (shardDigests s.fillHomed.liveShard).1).fillTold.fillEnd 0
    else ((s.fillHomed.setDigest (shardDigests s.fillHomed.liveShard).1).fillTold.log' (s.fillHomed.setDigest (shardDigests s.fillHomed.liveShard).1).fillTold.stwSrc
      0x6007 2 [(4, field s.esc.fillHdr 0 4), (4, 0)]).fillEnd 3 := rfl
  generalize (shardDigests s.fillHomed.liveShard).1 = dg at shape
  have told (f : Field) (other : f ≠ .ESC_DIGEST_DIGEST) : (s.fillHomed.setDigest dg).fillTold.get f = s.fillHomed.get f := by
    obtain ⟨fab, stw, out, sent⟩ := (s.fillHomed.setDigest dg).fillTold_sends
    rw [sent]
    exact s.fillHomed.setDigest_get dg 0 0 other
  generalize (s.fillHomed.setDigest dg).fillTold = x at shape told
  rw [shape]
  split
  · obtain ⟨done, result, -, esc, get⟩ := x.fillEnd_spec (r := 0) (by decide)
    exact ⟨congrArg EscSt.receiving esc, (get _ _ _ (by decide)).trans ((told _ (by decide)).trans home),
      (get _ _ _ (by decide)).trans ((told _ (by decide)).trans step), done, .inl result⟩
  · obtain ⟨done, result, -, esc, get⟩ := (x.log' x.stwSrc 0x6007 2 [(4, field s.esc.fillHdr 0 4), (4, 0)]).fillEnd_spec (r := 3) (by decide)
    have logged (f : Field) := x.log'_get_other x.stwSrc 0x6007 2 [(4, field s.esc.fillHdr 0 4), (4, 0)] f 0 0 (by decide)
    exact ⟨congrArg EscSt.receiving esc, (get _ _ _ (by decide)).trans ((logged _).trans ((told _ (by decide)).trans home)),
      (get _ _ _ (by decide)).trans ((logged _).trans ((told _ (by decide)).trans step)), done, .inr result⟩

section FillImages
variable {s : State} {dev : Nat} (off : Nat) (bs : List Byte) (mine : s.esc.receiving = some dev)
include mine

/-- The images' bytes are written and counted; the fill ends with the last. -/
theorem State.takeFill_images : ∃ x : State, (x.esc = { s.esc with fillGot := s.esc.fillGot + bs.length }) ∧
    x.get .ESC_FILL_BYTES = (s.get .ESC_FILL_BYTES + bs.length) % 2 ^ 64 ∧
    s.takeFill dev 3 off bs = if s.esc.fillGot + bs.length ≥ imagesLen ((manifest s.updSec).map (·.2)) then x.fillDone else x := by
  have writes := (s.fillCounted bs.length).fillImages_writes off bs
  unfold State.takeFill
  rw [if_neg (not_not.mpr mine), ← State.fillCounted]
  dsimp only
  generalize (s.fillCounted bs.length).fillImages off bs = y at writes
  obtain ⟨m, p, rfl⟩ := writes
  refine ⟨_, ?_, ?_, rfl⟩
  · rfl
  · exact s.fillCounted_bytes _

end FillImages

/-! ### Sealing (R365, R372) -/

theorem exec_escrowBankSeal_idle {s : State} (idle : s.esc.filling = none ∨ s.esc.closing = none ∨ s.escBusy = true) : exec .escrowBankSeal s = .next s := by
  change execEscrowBankSeal s = _
  unfold execEscrowBankSeal
  split
  next filling closing => exact if_pos ((idle.resolve_left (by simp [filling])).resolve_left (by simp [closing]))
  · rfl

/-- Header and state block of a bank that is sealed. -/
def State.sealWritten (s : State) (b : Nat) (blk : List Byte) : State :=
  (s.escWr (s.bankDa b) (bankHdr s.esc.inStep s.esc.inBase (s.eff .ESC_CFG_SOURCE) 2 (s.bankEnts b).length
    (shardDigests (s.imagesAt (s.bankEnts b) (s.bankImages b))).1 (shardDigests (s.imagesAt (s.bankEnts b) (s.bankImages b))).2)).escWr
    (s.bankDa b + 0x100000) blk

theorem State.sealWritten_writes (s : State) (b : Nat) (blk : List Byte) : s.Writes (s.sealWritten b blk) :=
  State.Writes.trans (State.escWr_eq ..) (State.escWr_eq ..)

theorem escrowBankSeal_seals {s : State} {b : Nat} {blk : List Byte} (filling : s.esc.filling = some b) (closing : s.esc.closing = some blk)
    (quiet : s.escBusy = false) : ∃ t : State, exec .escrowBankSeal s = .next t ∧ t.bankState b = 2 ∧
      t.esc = { s.esc with closing := none, seals := (s.ownId, s.esc.inStep, s.now) :: s.esc.seals } ∧
      t.mem = ((s.sealWritten b blk).escWr (s.bankDa b + 10) (leBytes 1 2)).mem := by
  have writes := s.sealWritten_writes b blk
  change ∃ t : State, execEscrowBankSeal s = .next t ∧ _
  unfold execEscrowBankSeal
  rw [filling, closing]
  dsimp only
  rw [if_neg (ne_true_of_eq_false quiet), State.escWr_bankDa, ← State.sealWritten]
  obtain ⟨m, p, written⟩ := writes
  have own : ((s.sealWritten b blk).setBank b 2).ownId = s.ownId := by
    rw [State.setBank_eq]
    obtain ⟨m', p', eq⟩ := ((s.sealWritten b blk).set (bankField b) 2).escWr_eq (((s.sealWritten b blk).set (bankField b) 2).bankDa b + 10) (leBytes 1 2)
    rw [eq, written]
    rfl
  have now : ((s.sealWritten b blk).setBank b 2).now = s.now := by
    refine (State.setBank_get _ _ _ _ _ (by decide)).trans ?_
    rw [written]
    rfl
  have esc : ((s.sealWritten b blk).setBank b 2).esc = s.esc := by
    rw [State.setBank_esc, written]
  have place : (s.sealWritten b blk).bankDa b = s.bankDa b := by
    rw [written]
    rfl
  have state := (s.sealWritten b blk).setBank_bankState b 2 b
  have mem := (s.sealWritten b blk).setBank_mem b 2
  rw [place] at mem
  generalize (s.sealWritten b blk).setBank b 2 = z at own now esc state mem ⊢
  obtain ⟨fab, stw, out, sent⟩ := z.tc0All_sends z.commitOthers (.sealed z.ownId z.esc.inStep z.now)
  rw [sent]
  refine ⟨_, rfl, state.trans (if_pos Iff.rfl), ?_, mem⟩
  rw [State.setEsc_esc]
  change { z.esc with closing := none, seals := (z.ownId, z.esc.inStep, z.now) :: z.esc.seals } = _
  rw [own, now, esc]

/-! ### The snapshot point (R368, R357) -/

/-- Two states that differ in bank states and bytes, and keep the escrow. -/
def State.Banked (s t : State) : Prop := t.esc = s.esc ∧ ∀ f u i, f ≠ .ESC_STATUS_BANK0 ∧ f ≠ .ESC_STATUS_BANK1 → t.get f u i = s.get f u i

theorem State.Banked.refl (s : State) : s.Banked s := ⟨rfl, fun _ _ _ _ => rfl⟩

theorem State.Banked.trans {s t u : State} (first : s.Banked t) (second : t.Banked u) : s.Banked u :=
  ⟨second.1.trans first.1, fun f v i other => (second.2 f v i other).trans (first.2 f v i other)⟩

theorem State.setBank_banked (s : State) (b v : Nat) : s.Banked (s.setBank b v) := ⟨s.setBank_esc b v, fun _ u i other => s.setBank_get b v u i other⟩

/-- A bank that fills or is sealed is given up. -/
def State.bankGiven (s : State) (b : Nat) : State := if s.bankState b = 1 ∨ s.bankState b = 2 then s.setBank b 0 else s

theorem State.bankGiven_banked (s : State) (b : Nat) : s.Banked (s.bankGiven b) := by
  unfold State.bankGiven
  split
  · exact s.setBank_banked b 0
  · exact .refl s

theorem State.bankGiven_self (s : State) (b : Nat) : (s.bankGiven b).bankState b ≠ 1 ∧ (s.bankGiven b).bankState b ≠ 2 := by
  unfold State.bankGiven
  split
  · rw [State.setBank_bankState, if_pos Iff.rfl]
    decide
  next kept => exact not_or.mp kept

theorem State.bankGiven_other (s : State) {b c : Nat} (other : ¬(c = 0 ↔ b = 0)) : (s.bankGiven b).bankState c = s.bankState c := by
  unfold State.bankGiven
  split
  · rw [State.setBank_bankState, if_neg other]
  · rfl

theorem State.escDiscard_spec (s : State) : let t := s.escDiscard
    t.esc = { s.esc with filling := none, closing := none, ignoring := false } ∧ t.get .ESC_STATUS_OPEN = 0 ∧
      (∀ f u i, f ≠ .ESC_STATUS_BANK0 ∧ f ≠ .ESC_STATUS_BANK1 → f ≠ .ESC_STATUS_OPEN → t.get f u i = s.get f u i) ∧
      ∀ b < 2, t.bankState b ≠ 1 ∧ t.bankState b ≠ 2 := by
  have width : Field.ESC_STATUS_OPEN.width = 1 := rfl
  have dropped (x : State) (fill : Option Nat) : x.Banked (match fill with | some b => x.setBank b 0 | none => x) := by
    split
    · exact x.setBank_banked _ 0
    · exact .refl x
  have first := dropped s s.esc.filling
  have shape : s.escDiscard = ((((match s.esc.filling with | some b => s.setBank b 0 | none => s : State).bankGiven 0).bankGiven 1).setEsc fun e =>
      { e with filling := none, closing := none, ignoring := false }).set .ESC_STATUS_OPEN 0 := rfl
  generalize (match s.esc.filling with | some b => s.setBank b 0 | none => s : State) = x at first shape
  have all := (first.trans (x.bankGiven_banked 0)).trans (State.bankGiven_banked _ 1)
  have zero : ((x.bankGiven 0).bankGiven 1).bankState 0 = (x.bankGiven 0).bankState 0 := State.bankGiven_other _ (by decide)
  have given0 := x.bankGiven_self 0
  have given1 := (x.bankGiven 0).bankGiven_self 1
  rw [← zero] at given0
  generalize (x.bankGiven 0).bankGiven 1 = y at shape all given0 given1
  obtain ⟨esc, get⟩ := all
  dsimp only
  rw [shape]
  refine ⟨by rw [← esc]; rfl, by simp [width], fun f u i banks other => ?_, fun b small => ?_⟩
  · exact (State.get_set_ne _ _ _ _ _ _ _ _ (.inl other)).trans (get f u i banks)
  · have same : ((y.setEsc fun e => { e with filling := none, closing := none, ignoring := false }).set .ESC_STATUS_OPEN 0).bankState b = y.bankState b := by
      rw [State.bankState_eq, State.bankState_eq]
      refine State.get_set_ne _ _ _ _ _ _ _ _ (.inl ?_)
      rcases bankField_listed b with h | h <;> rw [h] <;> decide
    rw [same]
    obtain rfl | rfl : b = 0 ∨ b = 1 := by omega
    · exact given0
    · exact given1

/-- The seals of a step are forgotten. -/
def State.sealsPast (s : State) (n : Nat) : State := s.setEsc fun e => { e with seals := e.seals.filter fun x => x.2.1 != n }

/-- Whether every member's seal of a step came in time, and no freeze has. -/
def State.CutDue (s : State) (n : Nat) : Prop :=
  (∀ m ∈ s.commitAll, ∃ x ∈ s.esc.seals, x.1 = m ∧ x.2.1 = n ∧ x.2.2 + s.lBeats ≤ s.now) ∧ ∀ f ∈ s.esc.freezes, s.now < f.b + s.lBeats

/-- The members whose seal of a step did not come in time. -/
def State.sealsMissing (s : State) (n : Nat) : List Nat :=
  s.commitAll.filter fun m => !(s.esc.seals.any fun x => x.1 == m && x.2.1 == n && decide (x.2.2 + s.lBeats ≤ s.now))

theorem State.cutDue_iff (s : State) (n : Nat) : ((s.sealsMissing n).isEmpty = true ∧ (!s.esc.freezes.any fun f => decide (f.b + s.lBeats ≤ s.now)) = true) ↔
    s.CutDue n := by
  rw [State.CutDue, State.sealsMissing, List.isEmpty_iff, List.filter_eq_nil_iff]
  simp only [Bool.not_eq_true', List.any_eq_false, Bool.and_eq_true, beq_iff_eq, decide_eq_true_eq, not_le, and_assoc, not_forall, not_not, exists_prop]

/-- The bank that was held is given back. -/
def State.cutReleased (s : State) (held : Option Nat) : State := match held with | some h => s.setBank h 0 | none => s

/-- The bank that was sealed is held. -/
def State.cutHeld (s : State) (new : Option Nat) : State :=
  match new with
  | some b => ((s.setBank b 3).set .ESC_STEPS_HELD_STEP s.esc.inStep).setDigest (slice (s.escRd (s.bankDa b) 80) 16 32)
  | none => s

/-- The home copy takes the step, and the step closes. -/
def State.cutHomed (s : State) (n : Nat) : State :=
  (((s.setHome n 1 (sha3 (manifestBytes s.updSec))).clearRefresh).setEsc fun e => { e with filling := none, needFull := false }).set .ESC_STATUS_OPEN 0

/-- A cut. -/
def State.cut (s : State) (n : Nat) : State :=
  ((s.cutReleased s.heldBank).cutHeld (s.esc.filling.filter fun b => s.bankState b == 2)).cutHomed n

theorem State.cutReleased_banked (s : State) (held : Option Nat) : s.Banked (s.cutReleased held) := by
  unfold State.cutReleased
  split
  · exact s.setBank_banked _ 0
  · exact .refl s

theorem State.cutHeld_esc (s : State) (new : Option Nat) : (s.cutHeld new).esc = s.esc := by
  unfold State.cutHeld
  split
  · exact (State.setDigest_esc ..).trans (s.setBank_esc _ 3)
  · rfl

theorem State.cutHeld_some (s : State) (b : Nat) : (s.cutHeld (some b)).bankState b = 3 ∧ (s.cutHeld (some b)).get .ESC_STEPS_HELD_STEP = s.esc.inStep % 2 ^ 32 := by
  have width : Field.ESC_STEPS_HELD_STEP.width = 32 := rfl
  constructor
  · have shown : (s.cutHeld (some b)).bankState b = (s.setBank b 3).bankState b := by
      rw [State.bankState_eq, State.bankState_eq]
      have others : bankField b ≠ .ESC_DIGEST_DIGEST ∧ bankField b ≠ .ESC_STEPS_HELD_STEP := by
        rcases bankField_listed b with h | h <;> rw [h] <;> decide
      exact (State.setDigest_get _ _ _ _ others.1).trans (State.get_set_ne _ _ _ _ _ _ _ _ (.inl others.2))
    rw [shown, State.setBank_bankState, if_pos Iff.rfl]
  · refine (State.setDigest_get _ _ _ _ (by decide)).trans ?_
    rw [State.get_set_self, width]

theorem State.cutHomed_spec (s : State) (n : Nat) : let t := s.cutHomed n
    t.get .ESC_STATUS_OPEN = 0 ∧ t.get .ESC_STATUS_HOME = 1 ∧ t.get .ESC_STATUS_HOME_STEP = n % 2 ^ 32 ∧
      t.esc = { s.esc with filling := none, needFull := false } ∧ (∀ b, t.bankState b = s.bankState b) ∧
      t.get .ESC_STEPS_HELD_STEP = s.get .ESC_STEPS_HELD_STEP := by
  have width : Field.ESC_STATUS_OPEN.width = 1 := rfl
  obtain ⟨esc, home, step, get⟩ := s.setHome_spec n 1 (sha3 (manifestBytes s.updSec))
  obtain ⟨m, p, cleared⟩ := (s.setHome n 1 (sha3 (manifestBytes s.updSec))).clearRefresh_eq
  dsimp only
  rw [State.cutHomed, cleared]
  generalize s.setHome n 1 (sha3 (manifestBytes s.updSec)) = x at esc home step get
  have kept (f : Field) (other : f ≠ .ESC_STATUS_OPEN) : ((({ x with mem := m, poison := p } : State).setEsc fun e =>
      { e with filling := none, needFull := false }).set .ESC_STATUS_OPEN 0).get f = x.get f := State.get_set_ne _ _ _ _ _ _ _ _ (.inl other)
  refine ⟨by simp [width], (kept _ (by decide)).trans home, (kept _ (by decide)).trans step, by rw [← esc]; rfl, fun b => ?_,
    (kept _ (by decide)).trans (get _ _ _ (by decide) (by decide))⟩
  rw [State.bankState_eq, State.bankState_eq]
  rcases bankField_listed b with h | h <;> rw [h]
  · exact (kept _ (by decide)).trans (get _ _ _ (by decide) (by decide))
  · exact (kept _ (by decide)).trans (get _ _ _ (by decide) (by decide))

theorem State.cut_spec (s : State) (n : Nat) : let t := s.cut n
    t.get .ESC_STATUS_OPEN = 0 ∧ t.get .ESC_STATUS_HOME = 1 ∧ t.get .ESC_STATUS_HOME_STEP = n % 2 ^ 32 ∧
      t.esc = { s.esc with filling := none, needFull := false } ∧
      ∀ b, s.esc.filling = some b → s.bankState b = 2 → t.bankState b = 3 ∧ t.get .ESC_STEPS_HELD_STEP = s.esc.inStep % 2 ^ 32 := by
  obtain ⟨released, -⟩ := s.cutReleased_banked s.heldBank
  have kept := (s.cutReleased s.heldBank).cutHeld_esc (s.esc.filling.filter fun b => s.bankState b == 2)
  obtain ⟨closed, home, step, esc, states, heldStep⟩ := ((s.cutReleased s.heldBank).cutHeld (s.esc.filling.filter fun b => s.bankState b == 2)).cutHomed_spec n
  refine ⟨closed, home, step, ?_, fun b filling sealed => ?_⟩
  · rw [State.cut, esc, kept, released]
  · have new : (s.esc.filling.filter fun b => s.bankState b == 2) = some b := by
      rw [filling, Option.filter_some]
      exact if_pos (beq_iff_eq.mpr sealed)
    rw [new] at states heldStep
    obtain ⟨state, recorded⟩ := (s.cutReleased s.heldBank).cutHeld_some b
    rw [State.cut, new, states, state, heldStep, recorded, released]
    exact ⟨rfl, rfl⟩

section Snapshot
variable {s : State} (opened : s.get .ESC_STATUS_OPEN = 1) (thawed : s.get .ESC_STATUS_FROZEN = 0)
  (still : s.get .FAB_RESHARD_STATE = 0 ∨ s.get .FAB_RESHARD_STATE = 4)

theorem exec_escrowSnapshotPoint_idle (idle : s.get .ESC_STATUS_OPEN = 0 ∨ s.get .ESC_STATUS_FROZEN = 1 ∨ s.get .FAB_RESHARD_STATE = 1 ∨
    s.get .FAB_RESHARD_STATE = 2 ∨ s.get .FAB_RESHARD_STATE = 3) : exec .escrowSnapshotPoint s = .next s :=
  congrArg Host.Outcome.next (if_pos idle)

include opened thawed still

theorem State.snapshot_awake : ¬(s.get .ESC_STATUS_OPEN = 0 ∨ s.get .ESC_STATUS_FROZEN = 1 ∨ s.get .FAB_RESHARD_STATE = 1 ∨
    s.get .FAB_RESHARD_STATE = 2 ∨ s.get .FAB_RESHARD_STATE = 3) := by
  omega

theorem State.snapshot_cuts (due : s.CutDue (s.get .ESC_STEPS_OPEN_STEP)) : ∃ fs, s.snapshot =
    ((s.sealsPast (s.get .ESC_STEPS_OPEN_STEP)).cut (s.get .ESC_STEPS_OPEN_STEP)).log'
      ((s.sealsPast (s.get .ESC_STEPS_OPEN_STEP)).cut (s.get .ESC_STEPS_OPEN_STEP)).stwSrc 0x6001 0 fs :=
  ⟨_, (if_neg (State.snapshot_awake opened thawed still)).trans (if_pos ((s.cutDue_iff _).mpr due))⟩

theorem State.snapshot_discards (early : ¬s.CutDue (s.get .ESC_STEPS_OPEN_STEP)) : ∃ fs, s.snapshot =
    (s.sealsPast (s.get .ESC_STEPS_OPEN_STEP)).escDiscard.log' (s.sealsPast (s.get .ESC_STEPS_OPEN_STEP)).stwSrc 0x6002 1 fs :=
  ⟨_, (if_neg (State.snapshot_awake opened thawed still)).trans (if_neg fun due => early ((s.cutDue_iff _).mp due))⟩

end Snapshot

section SnapshotEnds
variable {s : State} (opened : s.get .ESC_STATUS_OPEN = 1) (thawed : s.get .ESC_STATUS_FROZEN = 0)
  (still : s.get .FAB_RESHARD_STATE = 0 ∨ s.get .FAB_RESHARD_STATE = 4)
include opened thawed still

theorem escrowSnapshotPoint_cuts (due : s.CutDue (s.get .ESC_STEPS_OPEN_STEP)) : ∃ t : State, exec .escrowSnapshotPoint s = .next t ∧
    t.get .ESC_STATUS_OPEN = 0 ∧ t.get .ESC_STATUS_HOME = 1 ∧ t.get .ESC_STATUS_HOME_STEP = s.get .ESC_STEPS_OPEN_STEP % 2 ^ 32 ∧
    t.esc = { s.esc with filling := none, needFull := false, seals := s.esc.seals.filter fun x => x.2.1 != s.get .ESC_STEPS_OPEN_STEP } ∧
    ∀ b, s.esc.filling = some b → s.bankState b = 2 → t.bankState b = 3 ∧ t.get .ESC_STEPS_HELD_STEP = s.esc.inStep % 2 ^ 32 := by
  obtain ⟨fs, shape⟩ := State.snapshot_cuts opened thawed still due
  generalize s.get .ESC_STEPS_OPEN_STEP = n at shape ⊢
  obtain ⟨closed, home, step, esc, held⟩ := (s.sealsPast n).cut_spec n
  have logged (f : Field) := ((s.sealsPast n).cut n).log'_get_other ((s.sealsPast n).cut n).stwSrc 0x6001 0 fs f 0 0 (by decide)
  refine ⟨_, congrArg Host.Outcome.next shape, (logged _).trans closed, (logged _).trans home, (logged _).trans step, (State.log'_esc ..).trans esc,
    fun b filling sealed => ?_⟩
  rw [State.bankState_eq, logged, ← State.bankState_eq, logged]
  exact held b filling sealed

theorem escrowSnapshotPoint_discards (early : ¬s.CutDue (s.get .ESC_STEPS_OPEN_STEP)) : ∃ t : State, exec .escrowSnapshotPoint s = .next t ∧
    t.get .ESC_STATUS_OPEN = 0 ∧ t.get .ESC_STATUS_HOME = s.get .ESC_STATUS_HOME ∧ t.get .ESC_STATUS_HOME_STEP = s.get .ESC_STATUS_HOME_STEP ∧
    t.esc = { s.esc with filling := none, closing := none, ignoring := false, seals := s.esc.seals.filter fun x => x.2.1 != s.get .ESC_STEPS_OPEN_STEP } ∧
    ∀ b < 2, t.bankState b ≠ 1 ∧ t.bankState b ≠ 2 := by
  obtain ⟨fs, shape⟩ := State.snapshot_discards opened thawed still early
  generalize s.get .ESC_STEPS_OPEN_STEP = n at shape ⊢
  obtain ⟨esc, closed, get, given⟩ := (s.sealsPast n).escDiscard_spec
  have logged (f : Field) := (s.sealsPast n).escDiscard.log'_get_other (s.sealsPast n).stwSrc 0x6002 1 fs f 0 0 (by decide)
  refine ⟨_, congrArg Host.Outcome.next shape, (logged _).trans closed, (logged _).trans (get _ _ _ (by decide) (by decide)),
    (logged _).trans (get _ _ _ (by decide) (by decide)), (State.log'_esc ..).trans esc, fun b small => ?_⟩
  rw [State.bankState_eq, logged, ← State.bankState_eq]
  exact given b small

end SnapshotEnds

/-! ### O43 -/

section Items
variable {s : State} (dev step base k part tile sec off : Nat) (man recs blk bs : List Byte)

/-- Each item of a stream waits behind what waits. -/
theorem escrowItem_waits (busy : s.esc.waits ≠ [] ∨ s.escBusy = true) {c : Instr} {x : EscIn}
    (listed : (c, x) ∈ [(Instr.escrowOpenReceive dev step base man, EscIn.opening dev step base man), (.escrowDeltaReceive dev k part tile recs,
      .delta dev k part tile recs), (.escrowCloseReceive dev step blk, .close dev step blk), (.escFillStreamReceive dev sec off bs, .fill dev sec off bs)]) :
    exec c s = .next (s.setEsc fun e => { e with waits := e.waits ++ [x] }) := by
  simp only [List.mem_cons, List.not_mem_nil, or_false, Prod.mk.injEq] at listed
  rcases listed with ⟨rfl, rfl⟩ | ⟨rfl, rfl⟩ | ⟨rfl, rfl⟩ | ⟨rfl, rfl⟩
  · exact congrArg Host.Outcome.next (State.escIn_waits _ busy)
  · exact congrArg Host.Outcome.next (State.escIn_waits _ busy)
  · exact congrArg Host.Outcome.next (State.escIn_waits _ busy)
  · exact congrArg Host.Outcome.next (State.escIn_waits _ busy)

variable (none_ : s.esc.waits = []) (quiet : s.escBusy = false)
include none_ quiet

theorem exec_escrowOpenReceive : exec (.escrowOpenReceive dev step base man) s = .next (s.takeOpen dev step base man) :=
  congrArg Host.Outcome.next (State.escIn_now _ none_ quiet)

theorem exec_escrowDeltaReceive : exec (.escrowDeltaReceive dev k part tile recs) s = .next (s.takeDelta dev k part tile recs) :=
  congrArg Host.Outcome.next (State.escIn_now _ none_ quiet)

theorem exec_escrowCloseReceive : exec (.escrowCloseReceive dev step blk) s = .next (s.takeClose dev step blk) :=
  congrArg Host.Outcome.next (State.escIn_now _ none_ quiet)

theorem exec_escFillStreamReceive : exec (.escFillStreamReceive dev sec off bs) s = .next (s.takeFill dev sec off bs) :=
  congrArg Host.Outcome.next (State.escIn_now _ none_ quiet)

end Items

/-- What is said of a state that a function gives is said of the state that a command gives, where the command is that function. -/
theorem exec_exists {s x : State} {c : Instr} {p : State → Prop} (run : exec c s = .next x) (does : ∃ t : State, x = t ∧ p t) :
    ∃ t : State, exec c s = .next t ∧ p t := by
  obtain ⟨t, rfl, holds⟩ := does
  exact ⟨x, run, holds⟩

theorem escFillStreamReceive_images {s : State} {dev off : Nat} {bs : List Byte} (run : exec (.escFillStreamReceive dev 3 off bs) s = .next (s.takeFill dev 3 off bs))
    (mine : s.esc.receiving = some dev) :
    (s.esc.fillGot + bs.length < imagesLen ((manifest s.updSec).map (·.2)) → ∃ t : State, exec (.escFillStreamReceive dev 3 off bs) s = .next t ∧
      t.esc = { s.esc with fillGot := s.esc.fillGot + bs.length } ∧ t.get .ESC_FILL_BYTES = (s.get .ESC_FILL_BYTES + bs.length) % 2 ^ 64) ∧
    (imagesLen ((manifest s.updSec).map (·.2)) ≤ s.esc.fillGot + bs.length → ∃ t : State, exec (.escFillStreamReceive dev 3 off bs) s = .next t ∧
      t.esc.receiving = none ∧ t.get .ESC_STATUS_HOME = 1 ∧ t.get .ESC_STATUS_HOME_STEP = field s.esc.fillHdr 0 4 ∧ t.get .ESC_STATUS_DONE = 1 ∧
      (t.get .ESC_STATUS_RESULT = 0 ∨ t.get .ESC_STATUS_RESULT = 3)) := by
  obtain ⟨x, esc, bytes, shape⟩ := State.takeFill_images off bs mine
  refine ⟨fun more => ⟨x, run.trans (congrArg _ (shape.trans (if_neg (not_le.mpr more)))), esc, bytes⟩, fun all =>
    ⟨_, run.trans (congrArg _ (shape.trans (if_pos all))), ?_⟩⟩
  have done := x.fillDone_spec
  rw [esc] at done
  exact done

/-- Settles O43: each item of the stream, the seal and the snapshot point by its guards; bank states, home header and digests are written apart. -/
theorem escrowStreamSealsCutsAndFills : Obligations.EscrowStreamSealsCutsAndFills := by
  unfold Obligations.EscrowStreamSealsCutsAndFills
  refine ⟨fun s => ⟨exec_escrowStepOpen_idle, fun n => escrowStepOpen_opens⟩, fun s dev lat => ⟨needFullReceive_partner lat, needFullReceive_other lat⟩,
    sealedReceive_records, ?_, fun s => ⟨exec_escrowBankSeal_idle, fun b blk => escrowBankSeal_seals⟩, fun s => ⟨exec_escrowSnapshotPoint_idle,
      fun opened thawed still => ⟨escrowSnapshotPoint_cuts opened thawed still, escrowSnapshotPoint_discards opened thawed still⟩⟩⟩
  intro s dev step base k part tile sec off man recs blk bs
  refine ⟨fun busy c x listed => escrowItem_waits dev step base k part tile sec off man recs blk bs busy listed, fun none_ quiet => ?_⟩
  have opens := exec_escrowOpenReceive dev step base man none_ quiet
  have delta := exec_escrowDeltaReceive dev k part tile recs none_ quiet
  have closes := exec_escrowCloseReceive dev step blk none_ quiet
  have fills := exec_escFillStreamReceive dev sec off bs none_ quiet
  refine ⟨fun idle => opens.trans (congrArg _ (State.takeOpen_idle step base man idle)), fun enabled source thawed =>
    ⟨fun bad => exec_exists opens (State.takeOpen_refuses step enabled source thawed bad), fun based fits =>
      exec_exists opens (State.takeOpen_takes step enabled source thawed based fits)⟩,
    fun idle => delta.trans (congrArg _ (State.takeDelta_idle k part tile recs idle)), ?_,
    fun idle => closes.trans (congrArg _ (State.takeClose_idle step blk idle)),
    fun source ignored => closes.trans (congrArg _ (State.takeClose_ignored step blk source ignored)), fun b source heeded filling =>
    ⟨fun bad => exec_exists closes (State.takeClose_gives_up step blk source heeded filling bad), fun same whole sound =>
      closes.trans (congrArg _ (State.takeClose_closes step blk source heeded filling same whole sound))⟩,
    fun other => fills.trans (congrArg _ (State.takeFill_other sec off bs other)), fun mine => ⟨?_, ?_, ?_, ?_, ?_⟩⟩
  · intro b e filling source heeded thawed entry
    obtain ⟨t, new, does, holds⟩ := State.takeDelta_writes filling source heeded thawed entry part tile recs
    exact ⟨t, new, delta.trans (congrArg _ does), holds⟩
  · rintro rfl
    exact exec_exists fills (State.takeFill_header off bs mine)
  · rintro rfl
    exact ⟨fun same => fills.trans (congrArg _ (State.takeFill_manifest off bs mine same)), fun other =>
      exec_exists fills (State.takeFill_differs off bs mine other)⟩
  · rintro rfl short
    exact exec_exists fills (State.takeFill_block off bs mine short)
  · rintro rfl
    exact (escFillStreamReceive_images fills mine).1
  · rintro rfl
    exact (escFillStreamReceive_images fills mine).2

end Sys2Proof.Machine

/-! O41: the codec engines (R383 to R397). The register table gives VCE_STATUS.REFUSED 16 bits; the statement counts modulo 2^32. -/
namespace Sys2Proof.Machine

open Sys2Proof

/-- The state at reset, but engine 0 has refused 65,535 items: the largest value that REFUSED holds. -/
def State.refusedFull : State := State.reset.set .VCE_STATUS_REFUSED 65535 0

theorem dbits_zero (w hi lo : Nat) : dbits 0#512 w hi lo = 0 := by simp [dbits, bits]

/-- An item of zeros is refused for its class. -/
theorem refusedFull_fault : State.refusedFull.vFault 0 0#512 = some (0, 0) := by
  have clean : firstReserved 0#512 vReserved = none := by simp [firstReserved, vReserved, dbits_zero]
  have head : vHead 0#512 = some (0, 0) := by
    rw [vHead, clean, descClass, dbits_zero]
    rfl
  rw [State.vFault, head]
  rfl

theorem refusedFull_count : State.refusedFull.get .VCE_STATUS_REFUSED 0 = 65535 := by decide

/-- REFUSED counts modulo 2^16. -/
theorem vceRefuse_refused (s : State) (e qid : Nat) (d : Desc) (b : BadField) :
    (s.vceRefuse e qid d b).get .VCE_STATUS_REFUSED e = (s.get .VCE_STATUS_REFUSED e + 1) % 2 ^ 16 := by
  have width : Field.VCE_STATUS_REFUSED.width = 16 := rfl
  rw [State.vceRefuse, State.log'_get_other _ _ _ _ _ _ _ _ (by decide), State.bump_eq, State.get_set_self, width]

/-- Refutes O41: the item of zeros is the 65,536th that engine 0 refuses, and REFUSED reads 0, not 65,536. -/
theorem not_codecEnginesDoTheirItems : ¬Obligations.CodecEnginesDoTheirItems := by
  unfold Obligations.CodecEnginesDoTheirItems
  rintro ⟨items, -, -⟩
  obtain ⟨-, runs⟩ := items State.refusedFull 0 0 0#512 2 (.codecDecode 0 0 0#512) (by simp)
  obtain ⟨-, listed⟩ := runs (by decide)
  obtain ⟨-, taken⟩ := listed (.inr (.inl (dbits_zero ..)))
  obtain ⟨-, ungated⟩ := taken (by decide) (by decide) (by decide)
  obtain ⟨refuses, -⟩ := ungated (by decide)
  obtain ⟨t, -, rfl, count, -⟩ := refuses (0, 0) refusedFull_fault
  rw [vceRefuse_refused, refusedFull_count] at count
  exact absurd count (by decide)

end Sys2Proof.Machine

/-! O40: re-sharding in place (R349 to R359). First what every collective leaves of a re-shard. -/
namespace Sys2Proof.Machine

open Sys2Proof

/-! ### What leaves a re-shard and the layout as they are -/

/-- The registers of the layout and of a re-shard. -/
def layoutFields : List Field := [.FAB_LAYOUT_CURRENT, .FAB_LAYOUT_PENDING, .FAB_RESHARD_STATE, .FAB_RESHARD_GROUP, .FAB_RESHARD_RESUMED, .FAB_RESHARD_COMMITTED,
  .FAB_RESHARD_PROG_ACKED, .FAB_RESHARD_PROG_NEXT_DST]

/-- Two states with the same re-shard under way and the same layout registers. -/
structure State.SameLayout (s t : State) : Prop where
  rsh : t.coll.rsh = s.coll.rsh
  get : ∀ f ∈ layoutFields, t.get f = s.get f

namespace State.SameLayout
variable {s t u : State}

theorem refl (s : State) : s.SameLayout s := ⟨rfl, fun _ _ => rfl⟩

theorem trans (first : s.SameLayout t) (second : t.SameLayout u) : s.SameLayout u :=
  ⟨second.rsh.trans first.rsh, fun f listed => (second.get f listed).trans (first.get f listed)⟩

theorem foldl {α : Type} {step : State → α → State} (each : ∀ x a, State.SameLayout x (step x a)) (l : List α) (s : State) : s.SameLayout (l.foldl step s) := by
  induction l generalizing s with
  | nil => exact refl s
  | cons a l ih => exact (each s a).trans (ih _)

theorem ite {p : Prop} [Decidable p] (yes : s.SameLayout t) (no : s.SameLayout u) : s.SameLayout (if p then t else u) := by
  split
  · exact yes
  · exact no

theorem set (same : s.SameLayout t) {f : Field} (other : f ∉ layoutFields) (v u i : Nat) : s.SameLayout (t.set f v u i) :=
  ⟨same.rsh, fun g listed => (State.get_set_ne _ _ _ _ _ _ _ _ (.inl (by rintro rfl; exact other listed))).trans (same.get g listed)⟩

theorem irq (same : s.SameLayout t) (n : Nat) (now : Bool) : s.SameLayout (t.irq n now) :=
  ⟨(congrArg CollSt.rsh (State.irq_coll ..)).trans same.rsh, fun f listed =>
    (State.irq_get _ _ _ _ _ _ (by rintro rfl; exact absurd listed (by decide)) (by rintro rfl; exact absurd listed (by decide))).trans (same.get f listed)⟩

theorem log' (same : s.SameLayout t) (src code sev : Nat) (fs : List (Nat × Nat)) : s.SameLayout (t.log' src code sev fs) := by
  unfold State.log'
  split
  · refine irq ?_ _ _
    exact ⟨same.rsh, same.get⟩
  · exact ⟨same.rsh, same.get⟩

theorem sends (same : s.SameLayout t) (sent : t.Sends u) : s.SameLayout u := by
  obtain ⟨fab, stw, out, rfl⟩ := sent
  exact ⟨same.rsh, same.get⟩

theorem wrDa (same : s.SameLayout t) (a : Agent) (img : Image) (da : Nat) (bs : List Byte) : s.SameLayout (t.wrDa a img da bs) := by
  obtain ⟨m, p, eq⟩ := t.wrDa_eq a img da bs
  rw [eq]
  exact ⟨same.rsh, same.get⟩

theorem setCore (same : s.SameLayout t) (core : Nat) (c : CoreSt) : s.SameLayout (t.setCore core c) := ⟨same.rsh, same.get⟩

theorem setRuns (same : s.SameLayout t) (l : List CollRun) : s.SameLayout (t.setRuns l) :=
  set (t := { t with coll := { t.coll with runs := l } }) ⟨same.rsh, same.get⟩ (by decide) _ _ _

theorem collSend (same : s.SameLayout t) (dst tc : Nat) (h : CollHdr) (bs : List Byte) : s.SameLayout (t.collSend dst tc h bs) := same.sends (t.collSend_sends ..)

end State.SameLayout

/-! Descriptors that are held, completed and refused. -/

theorem State.q1Wake_layout (s : State) (clu : Nat) : s.SameLayout (s.q1Wake clu) := by
  unfold State.q1Wake
  split
  · dsimp only
    split
    · refine State.SameLayout.set ?_ (by decide) _ _ _
      exact ⟨rfl, fun _ _ => rfl⟩
    · exact ⟨rfl, fun _ _ => rfl⟩
  · exact .refl s

theorem State.SameLayout.synced {s t : State} (same : s.SameLayout t) (core kind : Nat) : s.SameLayout ((t.syncMxe core).syncKind core kind) := by
  have mxe : s.SameLayout (t.syncMxe core) := (same.set (f := .MXE_STATUS_HELD) (by decide) _ _ _).set (f := .MXE_STATUS_TILE_BUSY) (by decide) _ _ _
  unfold State.syncKind
  split
  · exact mxe.set (by decide) _ _ _
  · exact mxe

theorem State.issue_layout (s : State) (core kind qid : Nat) (d : Desc) : s.SameLayout (s.issue core kind qid d) :=
  ((s.q1Wake_layout _).setCore core _).synced core kind

theorem State.hold_layout (s : State) (core kind : Nat) (d : Desc) : s.SameLayout (s.hold core kind d) := by
  unfold State.hold
  split
  · exact .refl s
  · exact s.issue_layout ..

theorem State.setX_layout (s : State) (core rd : Nat) (v : Word) : s.SameLayout (s.setX core rd v) := by
  unfold State.setX
  split
  · exact .refl s
  · exact (State.SameLayout.refl s).setCore ..

theorem State.unstall_layout (s : State) (core : Nat) : s.SameLayout (s.unstall core) := by
  unfold State.unstall
  dsimp only
  split
  · exact .refl s
  · split
    · split
      · exact (((State.SameLayout.refl s).setCore ..).trans (State.issue_layout ..)).trans (State.setX_layout ..)
      · exact .refl s
    · exact .refl s

theorem State.drainAcc_layout (s : State) (core : Nat) : s.SameLayout (s.drainAcc core) := by
  refine ((State.SameLayout.refl s).setCore ..).trans (.foldl (fun x w => ?_) _ _)
  unfold State.accDo
  split
  · exact ⟨rfl, fun _ _ => rfl⟩
  · exact ⟨rfl, fun _ _ => rfl⟩

theorem State.unhold_layout (s : State) (core kind : Nat) (d : Desc) : s.SameLayout (s.unhold core kind d) :=
  ((((State.SameLayout.refl s).setCore ..).synced core kind).trans (State.drainAcc_layout ..)).trans (.foldl (fun x c => x.unstall_layout c) _ _)

theorem State.complete_layout (s : State) (core kind : Nat) (d : Desc) : s.SameLayout (s.complete core kind d) := (s.unhold_layout core kind d).setCore ..

theorem State.dropWait_layout (s : State) (core pkt : Nat) : s.SameLayout (s.dropWait core pkt) := by
  unfold State.dropWait
  dsimp only
  split
  · exact ((State.SameLayout.refl s).setCore ..).set (by decide) _ _ _
  · exact .refl s

theorem State.dropPacket_layout (s : State) (core : Nat) (h : Held) : s.SameLayout (s.dropPacket core h) := by
  have counted : s.SameLayout ((s.countDrop core h.pkt).dropWait core h.pkt) :=
    (((State.SameLayout.refl s).set (by decide) _ _ _).setCore ..).trans (State.dropWait_layout ..)
  unfold State.dropPacket
  dsimp only
  split
  · exact ((State.SameLayout.refl s).set (by decide) _ _ _).log' ..
  · split
    · exact .refl s
    · split
      · exact counted.setCore ..
      · exact counted.log' ..

theorem State.refuse_layout (s : State) (core kind : Nat) (d : Desc) : s.SameLayout (s.refuse core kind d) :=
  (s.unhold_layout core kind d).trans (State.dropPacket_layout ..)

/-! Collectives. -/

theorem State.dropRun_layout (s : State) (core : Nat) (d : Desc) : s.SameLayout (s.dropRun core d) := (State.SameLayout.refl s).setRuns _

theorem State.putRun_layout (s : State) (r : CollRun) : s.SameLayout (s.putRun r) := (State.SameLayout.refl s).setRuns _

theorem State.collDone_layout (s : State) (core : Nat) (d : Desc) : s.SameLayout (s.collDone core d) := (s.dropRun_layout core d).trans (State.complete_layout ..)

theorem State.collRefuse_layout (s : State) (core : Nat) (d : Desc) (cause rank : Nat) : s.SameLayout (s.collRefuse core d cause rank) :=
  (((s.dropRun_layout core d).log' ..).set (by decide) _ _ _).trans (State.refuse_layout ..)

theorem State.collFmtRefuse_layout (s : State) (core : Nat) (d : Desc) : s.SameLayout (s.collFmtRefuse core d) :=
  (((s.dropRun_layout core d).log' ..).set (by decide) _ _ _).trans (State.refuse_layout ..)

theorem State.epochRefuse_layout (s : State) (core : Nat) (d : Desc) (held got src : Nat) : s.SameLayout (s.epochRefuse core d held got src) :=
  (((s.dropRun_layout core d).log' ..).set (by decide) _ _ _).trans (State.refuse_layout ..)

theorem State.daUe_layout (s : State) (src : Nat) (a : Agent) (img : Image) (da : Nat) : s.SameLayout (s.daUe src a img da) := by
  obtain ⟨fs, logged⟩ := State.daUe_eq_log' s src a img da
  rw [logged]
  exact (State.SameLayout.refl s).log' ..

theorem State.inRun_layout (s : State) (r : CollRun) : s.SameLayout (s.inRun r) := by
  have writes (x : State) (img : Image) (l : List (Nat × Nat × CollRun)) (b : Nat × Nat × CollRun → List Byte) :
      x.SameLayout (l.foldl (fun y m => y.wrDa s.collAgent img (collDst m.2.2.d) (b m)) x) :=
    .foldl (fun y m => (State.SameLayout.refl y).wrDa ..) l x
  have ends (x : State) (l : List (Nat × Nat × CollRun)) : x.SameLayout (l.foldl (fun y m => y.collDone m.2.2.core m.2.2.d) x) :=
    .foldl (fun y m => y.collDone_layout ..) l x
  unfold State.inRun
  split
  · exact .refl s
  · dsimp only
    split
    · exact .refl s
    · refine State.SameLayout.trans ?_ (ends _ _)
      split
      · split
        · exact writes s _ _ _
        · exact .refl s
      · exact writes s _ _ _
      · exact writes s _ _ _
      · exact writes s _ _ _
      · exact .refl s

/-- The reduction of a member's own shard, where it is ready. -/
def State.collReduced (s : State) (r : CollRun) (g : Group) (rank : Nat) : State × CollRun :=
  let img := s.collCarve r.beat
  let cs := s.shardCounts img r.d g.members.length
  let n := cs.getD rank 0
  let dst := collDst r.d + (if collOp r.d = 3 then shardOff r.d cs rank else 0)
  let b := codeBytes (r.reduce g.nmb n)
  if !r.reduced && (collOp r.d == 1 || collOp r.d == 3) && (n == 0 || r.covers g.nmb n) && s.collFree img r.core r.d [(dst, collBytes r.d n)] then
    let x := s.wrDa s.collAgent img dst b
    ((if collOp r.d = 3 then
        (g.members.filter (· != x.ownId)).foldl (fun s m => s.collSend m (collTc r.d) { collHdr r.d 2 rank with shard := rank } b) x
      else x).putRun { r with reduced := true, parts := [] }, { r with reduced := true, parts := [] })
  else (s, r)

theorem State.collTry_eq {s : State} {r : CollRun} {g : Group} {rank : Nat} (group : s.collGrp r.beat r.d = some g) (member : rankIn g.members s.ownId = some rank) :
    s.collTry r =
      let cs := s.shardCounts (s.collCarve r.beat) r.d g.members.length
      let x := s.collReduced r g rank
      if (!(collOp r.d == 1 || collOp r.d == 3) || x.2.reduced) && x.1.talliesIn x.2 g.members.length rank &&
          decide (collExpect r.d cs (x.1.collPlan (s.collCarve r.beat) r.d) rank ≤ x.2.got) then
        x.1.collDone x.2.core r.d
      else x.1 := by
  unfold State.collTry
  dsimp only
  rw [group]
  dsimp only
  rw [member]
  rfl

theorem State.collReduced_layout (s : State) (r : CollRun) (g : Group) (rank : Nat) : s.SameLayout (s.collReduced r g rank).1 := by
  unfold State.collReduced
  dsimp only
  rw [apply_ite Prod.fst]
  refine .ite (State.SameLayout.trans (.ite ?_ ?_) (State.putRun_layout ..)) (.refl s)
  · exact ((State.SameLayout.refl s).wrDa ..).trans (.foldl (fun y m => (State.SameLayout.refl y).collSend ..) _ _)
  · exact (State.SameLayout.refl s).wrDa ..

theorem State.collTry_layout (s : State) (r : CollRun) : s.SameLayout (s.collTry r) := by
  cases group : s.collGrp r.beat r.d with
  | none =>
    unfold State.collTry
    dsimp only
    rw [group]
    exact .refl s
  | some g =>
    cases member : rankIn g.members s.ownId with
    | none =>
      unfold State.collTry
      dsimp only
      rw [group]
      dsimp only
      rw [member]
      exact .refl s
    | some rank =>
      rw [State.collTry_eq group member]
      dsimp only
      split
      · exact (s.collReduced_layout r g rank).trans (State.collDone_layout ..)
      · exact s.collReduced_layout r g rank

theorem State.takePart_layout (s : State) (r : CollRun) (leaf size elem : Nat) (cs : List Nat) (rank : Nat) : s.SameLayout (s.takePart r leaf size elem cs rank).1 := by
  unfold State.takePart
  split
  · dsimp only
    exact (State.SameLayout.refl s).log' ..
  · exact s.putRun_layout _

theorem State.escCapture_layout (s : State) (src tid off : Nat) (bs : List Byte) : s.SameLayout (s.escCapture src tid off bs) := by
  unfold State.escCapture
  split
  · exact .refl s
  · split
    · exact .refl s
    · refine .foldl (fun x p => ?_) _ s
      dsimp only
      split
      · exact .refl x
      · have written := (State.SameLayout.refl x).wrDa escA x.escImg
        exact ⟨(written _ _).rsh, (written _ _).get⟩

theorem State.collIn_layout (s : State) (r : CollRun) (p : Packet) (h : CollHdr) : s.SameLayout (s.collIn r p h) := by
  have waited (w : WaitAcc) : s.SameLayout (s.waitFor w) := ⟨rfl, fun _ _ => rfl⟩
  have put (x : State) (same : s.SameLayout x) (img : Image) (da : Nat) (r : CollRun) (c : Prop) [Decidable c] :
      s.SameLayout (if c then s.waitFor ⟨s.collAgent, da, 1, p.payload, none, some p⟩ else ((x.wrDa x.collAgent img da p.payload).putRun r).collTry r) := by
    split
    · exact waited _
    · exact ((same.wrDa ..).trans (State.putRun_layout ..)).trans (State.collTry_layout ..)
  unfold State.collIn
  dsimp only
  split
  · exact .refl s
  · split
    · exact put s (.refl s) _ _ _ _
    · exact (s.takePart_layout ..).trans (State.collTry_layout ..)
    · exact put _ (s.escCapture_layout ..) _ _ _ _
    · split
      · exact put s (.refl s) _ _ _ _
      · exact .refl s
    · split
      · refine State.SameLayout.trans ?_ (State.collTry_layout ..)
        refine State.SameLayout.trans ?_ (State.putRun_layout ..)
        exact ⟨rfl, fun _ _ => rfl⟩
      · exact .refl s
    · exact .refl s

theorem State.collPacket_layout (s : State) (p : Packet) (h : CollHdr) : s.SameLayout (s.collPacket p h) := by
  unfold State.collPacket
  dsimp only
  split
  · exact (s.epochRefuse_layout ..).set (by decide) _ _ _
  · split
    · exact s.collIn_layout ..
    · split
      · exact ((State.SameLayout.refl s).log' ..).set (by decide) _ _ _
      · exact ⟨rfl, fun _ _ => rfl⟩

theorem State.takeKept_layout (s : State) (d : Desc) : s.SameLayout (s.takeKept d) := by
  unfold State.takeKept
  dsimp only
  have each (x : State) (p : Packet) : x.SameLayout (match p.coll with | some h => x.collPacket p h | none => x) := by
    split
    · exact x.collPacket_layout ..
    · exact .refl x
  refine State.SameLayout.trans ?_ (.foldl each _ _)
  exact ⟨rfl, fun _ _ => rfl⟩

theorem State.barrierDue_layout (s : State) : s.SameLayout s.barrierDue := by
  refine .foldl (fun x r => ?_) _ s
  split
  · exact x.collDone_layout ..
  · exact .refl x

theorem State.barrierStart_layout (s : State) (r : CollRun) : s.SameLayout (s.barrierStart r) := by
  unfold State.barrierStart
  split
  · split
    · exact .refl s
    · dsimp only
      refine State.SameLayout.trans (State.SameLayout.sends ?_ (State.tc0All_sends ..)) (State.putRun_layout ..)
      exact ⟨rfl, fun _ _ => rfl⟩
  · exact (s.putRun_layout _).setRuns _

theorem State.tallySend_layout (s : State) (row : Nat) : s.SameLayout (s.tallySend row) := by
  refine State.SameLayout.trans (.foldl (fun x d => ?_) _ s) (.foldl (fun x k => ?_) _ _)
  · exact ⟨rfl, fun _ _ => rfl⟩
  · exact ⟨rfl, fun _ _ => rfl⟩

theorem State.tallyOut_layout (s : State) (d : Desc) (others : List Nat) (rank : Nat) : s.SameLayout (s.tallyOut d others rank) := by
  unfold State.tallyOut
  split
  · dsimp only
    refine State.SameLayout.trans ?_ (.foldl (fun x m => (State.SameLayout.refl x).collSend ..) _ _)
    exact ⟨(s.tallySend_layout _).rsh, (s.tallySend_layout _).get⟩
  · exact .refl s

theorem State.collReduce_layout (s : State) (r : CollRun) (g : Group) (rank : Nat) (img : Image) (cs others : List Nat) :
    s.SameLayout (s.collReduce r g rank img cs others).1 := by
  have parts (l : List (Nat × Nat × List Nat)) (x : State × CollRun) :
      x.1.SameLayout (l.foldl (fun (a : State × CollRun) v => a.1.takePart a.2 v.1 v.2.1 0 (shardOf cs v.2.2 rank) rank) x).1 := by
    induction l generalizing x with
    | nil => exact .refl x.1
    | cons v l ih => exact (State.takePart_layout ..).trans (ih _)
  unfold State.collReduce
  dsimp only
  refine State.SameLayout.trans ((s.tallyOut_layout ..).trans (.foldl (fun x m => ?_) _ _)) (parts _ (_, r))
  exact .ite (.refl x) (.foldl (fun y v => (State.SameLayout.refl y).collSend ..) _ _)

/-- A run that has begun takes what was kept for it and goes on. -/
def State.collFinish (s : State) (d : Desc) (r : CollRun) : State :=
  match ((s.putRun r).takeKept d).coll.runs.find? fun q => q.core == r.core && q.d == d with
  | some q => ((s.putRun r).takeKept d).collTry q
  | none => (s.putRun r).takeKept d

theorem State.collFinish_layout (s : State) (d : Desc) (r : CollRun) : s.SameLayout (s.collFinish d r) := by
  have kept := (s.putRun_layout r).trans (State.takeKept_layout _ d)
  unfold State.collFinish
  split
  · exact kept.trans (State.collTry_layout ..)
  · exact kept

theorem State.collBegin_layout (s : State) (r : CollRun) (g : Group) (rank : Nat) : s.SameLayout (s.collBegin r g rank) := by
  have begun (l : List CollRun) : s.SameLayout (s.setRuns l) := (State.SameLayout.refl s).setRuns l
  have sent (x : State) (l : List Nat) (tc : Nat) (h : CollHdr) (b : List Byte) : x.SameLayout (l.foldl (fun y m => y.collSend m tc h b) x) :=
    .foldl (fun y m => (State.SameLayout.refl y).collSend ..) l x
  have finish (x : State) (q : CollRun) (same : s.SameLayout x) : s.SameLayout (x.collFinish r.d q) := same.trans (x.collFinish_layout ..)
  unfold State.collBegin
  dsimp only
  split
  · split
    · exact finish _ _ (((begun _).trans (sent ..)).wrDa ..)
    · exact finish _ _ (begun _)
  · exact finish _ _ (((begun _).trans (sent ..)).wrDa ..)
  · refine finish _ _ ((begun _).trans (.foldl (fun x p => ?_) _ _))
    exact .ite (.ite ((State.SameLayout.refl x).wrDa ..) ((State.SameLayout.refl x).collSend ..)) (.refl x)
  · exact ((begun _).trans (State.barrierStart_layout ..)).trans (State.barrierDue_layout _)
  · exact finish _ _ ((begun _).trans (State.collReduce_layout ..))

theorem State.collStart_layout (s : State) (core : Nat) (d : Desc) : s.SameLayout (s.collStart core d) := by
  have held := s.hold_layout core kColl d
  unfold State.collStart
  dsimp only
  generalize s.hold core kColl d = x at held
  have refused (cause rank : Nat) : s.SameLayout (x.collRefuse core d cause rank) := held.trans (State.collRefuse_layout ..)
  have poisoned (src : Nat) (img : Image) (da cause rank : Nat) : s.SameLayout ((x.daUe src x.collAgent img da).collRefuse core d cause rank) :=
    (held.trans (x.daUe_layout ..)).trans (State.collRefuse_layout ..)
  refine .ite held ?_
  split
  · exact .ite held (.ite (held.trans (State.inRun_layout ..)) (held.trans (State.collTry_layout ..)))
  · split
    · exact held
    · exact held.trans (State.epochRefuse_layout ..)
    · refine .ite (held.trans (State.collFmtRefuse_layout ..)) (.ite (.ite (refused ..) ?_) ?_)
      · split
        · exact refused ..
        · split
          · exact refused ..
          · refine .ite held ?_
            split
            · exact poisoned ..
            · have counted (row : Option Nat) : s.SameLayout (match row with | some row => x.tallySend row | none => x) := by
                split
                · exact held.trans (State.tallySend_layout ..)
                · exact held
              exact .ite ((((counted _).setRuns _).trans (State.barrierStart_layout ..)).trans (State.barrierDue_layout _))
                (((counted _).setRuns _).trans (State.inRun_layout ..))
      · split
        · exact refused ..
        · split
          · exact refused ..
          · split
            · exact refused ..
            · refine .ite (refused ..) (.ite held ?_)
              split
              · exact poisoned ..
              · exact held.trans (State.collBegin_layout ..)

/-- The collectives that wait for the new layout start without changing it. -/
theorem State.rshRelease_layout (s : State) : s.SameLayout s.rshRelease := by
  refine .foldl (fun x c => ?_) _ s
  split
  · exact .ite (.refl x) (x.collStart_layout ..)
  · exact .refl x

end Sys2Proof.Machine

namespace Sys2Proof.Machine

open Sys2Proof

/-! ### A re-shard is issued (R349, R350, R353) -/

section Issue
variable {s : State} {core : Nat} {d : Desc} (takes : s.unitTakes core kColl d = true)
include takes

theorem exec_reshardIssue_otherRow (other : descClass d ≠ 8 ∨ collOp d ≠ 4) : exec (.reshardIssue core d) s = .fault .otherRow :=
  (onUnit_present (State.unitTakes_coreOk takes)).trans (if_pos other)

variable (perm : descClass d = 8) (op : collOp d = 4) (newer : collEpoch d ≠ s.get .FAB_LAYOUT_CURRENT)
include perm op newer

theorem exec_reshardIssue_new (alone : ∀ r, s.coll.rsh = some r → collEpoch r.d ≠ collEpoch d) : exec (.reshardIssue core d) s = .next (s.rshIssue core d) := by
  have listed : ¬(descClass d ≠ 8 ∨ collOp d ≠ 4) := by simp [perm, op]
  refine (onUnit_present (State.unitTakes_coreOk takes)).trans ((if_neg listed).trans (congrArg Host.Outcome.next ((State.atUnit_takes _ takes).trans (if_neg ?_))))
  rintro (current | same)
  · exact newer current
  · obtain ⟨r, under, both⟩ := (Option.any_eq_true ..).mp same
    rw [Bool.and_eq_true, beq_iff_eq] at both
    exact alone r under both.1

end Issue

/-- What a re-shard permute must say (R350). -/
def State.rshAllowed (s : State) (core : Nat) (d : Desc) : Prop :=
  collScope d = 3 ∧ collEpoch d ≠ 0 ∧ firstReserved d collReserved = none ∧ 1 ≤ collLen d ∧ collLen d ≤ 1048575 ∧ collLo d = 0 ∧ collHi d = 0 ∧ collTid d = 0 ∧
    collFmt d = 0 ∧ collPartial d = false ∧
    ∃ g, (s.hold core kColl d).collGrp ((s.hold core kColl d).heldFor core kColl d).beat d = some g ∧ s.ownId ∈ g.members

theorem State.hold_str (s : State) (core kind : Nat) (d : Desc) : (s.hold core kind d).str = s.str ∧ (s.hold core kind d).ident = s.ident := by
  have woken : (s.q1Wake (coreClu core)).str = s.str ∧ (s.q1Wake (coreClu core)).ident = s.ident := by
    unfold State.q1Wake
    dsimp only
    split
    · split
      · exact ⟨rfl, rfl⟩
      · exact ⟨rfl, rfl⟩
    · exact ⟨rfl, rfl⟩
  unfold State.hold
  split
  · exact ⟨rfl, rfl⟩
  · unfold State.issue State.syncKind
    split
    · exact woken
    · exact woken

theorem State.hold_holds (s : State) (core kind : Nat) (d : Desc) : (((s.hold core kind d).heldOf core kind).any fun x => x.d == d) = true := by
  unfold State.hold
  split
  next held => exact held
  · rw [State.heldOf, State.core_issue, List.filter_append, List.any_append]
    simp [State.newHeld]

theorem State.hold_ownId (s : State) (core kind : Nat) (d : Desc) : (s.hold core kind d).ownId = s.ownId := by
  obtain ⟨str, ident⟩ := s.hold_str core kind d
  rw [State.ownId, State.peerMap, State.bank, State.fabUnit, str, ident, State.ownId, State.peerMap, State.bank, State.fabUnit]

/-- The check of a re-shard permute as the model makes it. -/
theorem State.rshAllowed_iff (s : State) (core : Nat) (d : Desc) : (collScope d != 3 || collEpoch d == 0 || (firstReserved d collReserved).isSome ||
    !within 1 (collLen d) 1048575 || collLo d != 0 || collHi d != 0 || collTid d != 0 || collFmt d != 0 || collPartial d ||
    !(((s.hold core kColl d).collGrp ((s.hold core kColl d).heldFor core kColl d).beat d).any fun g => g.members.contains (s.hold core kColl d).ownId)) = false ↔
    s.rshAllowed core d := by
  rw [State.rshAllowed, State.hold_ownId]
  simp only [Bool.or_eq_false_iff, bne_eq_false_iff_eq, beq_eq_false_iff_ne, Option.isSome_eq_false_iff, Option.isNone_iff_eq_none, Bool.not_eq_false',
    within, Option.any_eq_true, List.contains_iff_mem, decide_eq_true_eq, and_assoc]

/-- The arrivals that came before the permute are no longer kept apart. -/
def State.rshTaken (s : State) (core : Nat) (d : Desc) : State :=
  { s.hold core kColl d with coll := { (s.hold core kColl d).coll with rshEarly := (s.hold core kColl d).coll.rshEarly.filter fun a => a.group != collGroup d } }

/-- A re-shard begins: DRAINING, with its group and its epoch to come. -/
def State.rshBegun (s : State) (r : ReshardSt) (v : RshView) : State :=
  (((((s.setRsh (some r)).rshProg r v).set .FAB_RESHARD_STATE 1).set .FAB_RESHARD_GROUP (collGroup r.d)).set .FAB_LAYOUT_PENDING (collEpoch r.d)).set
    .FAB_RESHARD_RESUMED 0

section IssueEnds
variable {s : State} {core : Nat} {d : Desc}

theorem State.hold_layout_get (s : State) (core kind : Nat) (d : Desc) {f : Field} (listed : f ∈ layoutFields) : (s.hold core kind d).get f = s.get f :=
  (s.hold_layout core kind d).get f listed

theorem State.hold_rsh (s : State) (core kind : Nat) (d : Desc) : (s.hold core kind d).coll.rsh = s.coll.rsh := (s.hold_layout core kind d).rsh

theorem State.rshIssue_second (others : (s.coll.rsh.any fun r => r.core == core && r.d == d) = false)
    (moving : s.get .FAB_RESHARD_STATE = 1 ∨ s.get .FAB_RESHARD_STATE = 2 ∨ s.get .FAB_RESHARD_STATE = 3) :
    s.rshIssue core d = (s.hold core kColl d).epochRefuse core d (s.get .FAB_LAYOUT_CURRENT) (collEpoch d) s.ownId := by
  have free : ((s.hold core kColl d).coll.rsh.any fun r => r.core == core && r.d == d) = false := by rw [State.hold_rsh, others]
  have busy : (s.hold core kColl d).get .FAB_RESHARD_STATE = 1 ∨ (s.hold core kColl d).get .FAB_RESHARD_STATE = 2 ∨
      (s.hold core kColl d).get .FAB_RESHARD_STATE = 3 := by
    rw [State.hold_layout_get _ _ _ _ (by decide)]
    exact moving
  have refused : s.rshIssue core d = (s.hold core kColl d).epochRefuse core d ((s.hold core kColl d).get .FAB_LAYOUT_CURRENT) (collEpoch d)
      (s.hold core kColl d).ownId := (if_neg (ne_true_of_eq_false free)).trans (if_pos busy)
  rw [refused, State.hold_layout_get _ _ _ _ (by decide), State.hold_ownId]

variable (none_ : s.coll.rsh = none) (idle : s.get .FAB_RESHARD_STATE = 0 ∨ s.get .FAB_RESHARD_STATE = 4)
include none_ idle

theorem State.rshIssue_free : ¬(((s.hold core kColl d).coll.rsh.any fun r => r.core == core && r.d == d) = true) ∧
    ¬((s.hold core kColl d).get .FAB_RESHARD_STATE = 1 ∨ (s.hold core kColl d).get .FAB_RESHARD_STATE = 2 ∨
      (s.hold core kColl d).get .FAB_RESHARD_STATE = 3) := by
  rw [State.hold_rsh, none_, State.hold_layout_get _ _ _ _ (by decide)]
  exact ⟨by simp, by omega⟩

theorem State.rshIssue_refuses (bad : ¬s.rshAllowed core d) : s.rshIssue core d = (s.hold core kColl d).collRefuse core d 3 0 := by
  obtain ⟨free, still⟩ := State.rshIssue_free (core := core) (d := d) none_ idle
  exact (if_neg free).trans ((if_neg still).trans (if_pos (eq_true_of_ne_false fun ok => bad ((s.rshAllowed_iff core d).mp ok))))

theorem State.rshIssue_begins (allowed : s.rshAllowed core d) : ∃ r v, r.core = core ∧ r.d = d ∧ r.old = s.get .FAB_LAYOUT_CURRENT ∧ r.done = [] ∧ r.slots = [] ∧
    r.sentDrain = false ∧ s.rshIssue core d = (s.rshTaken core d).rshBegun r v := by
  obtain ⟨free, still⟩ := State.rshIssue_free (core := core) (d := d) none_ idle
  refine ⟨_, _, ?_, ?_, ?_, ?_, ?_, ?_, (if_neg free).trans ((if_neg still).trans (if_neg (ne_true_of_eq_false ((s.rshAllowed_iff core d).mpr allowed))))⟩
  · rfl
  · rfl
  · exact State.hold_layout_get _ _ _ _ (by decide)
  · rfl
  · rfl
  · rfl

end IssueEnds

theorem State.rshBegun_spec (s : State) (r : ReshardSt) (v : RshView) (fresh : r.done = []) : let t := s.rshBegun r v
    t.coll.rsh = some r ∧ t.mem = s.mem ∧ t.cores = s.cores ∧ t.get .FAB_RESHARD_STATE = 1 ∧ t.get .FAB_RESHARD_GROUP = collGroup r.d ∧
      t.get .FAB_LAYOUT_PENDING = collEpoch r.d ∧ t.get .FAB_LAYOUT_CURRENT = s.get .FAB_LAYOUT_CURRENT ∧ t.get .FAB_RESHARD_RESUMED = 0 ∧
      t.get .FAB_RESHARD_COMMITTED = 0 := by
  have stateWidth : Field.FAB_RESHARD_STATE.width = 3 := rfl
  have groupWidth : Field.FAB_RESHARD_GROUP.width = 16 := rfl
  have pendingWidth : Field.FAB_LAYOUT_PENDING.width = 32 := rfl
  have group : collGroup r.d < 65536 := bits_lt _ _ _
  have epoch : collEpoch r.d < 4294967296 := bits_lt _ _ _
  have current : (s.setRsh (some r)).get .FAB_LAYOUT_CURRENT = s.get .FAB_LAYOUT_CURRENT := rfl
  refine ⟨rfl, rfl, rfl, ?_, ?_, ?_, ?_, ?_, ?_⟩
  · simp [State.rshBegun, State.rshProg, stateWidth]
  · simp [State.rshBegun, State.rshProg, groupWidth, group]
  · simp [State.rshBegun, State.rshProg, pendingWidth, epoch]
  · simp [State.rshBegun, State.rshProg, current]
  · simp [State.rshBegun, State.rshProg]
  · simp [State.rshBegun, State.rshProg, fresh]

/-- A re-shard permute that is allowed begins a re-shard. -/
theorem reshardIssue_begins {s : State} {core : Nat} {d : Desc} (takes : s.unitTakes core kColl d = true) (perm : descClass d = 8) (op : collOp d = 4)
    (newer : collEpoch d ≠ s.get .FAB_LAYOUT_CURRENT) (none_ : s.coll.rsh = none) (idle : s.get .FAB_RESHARD_STATE = 0 ∨ s.get .FAB_RESHARD_STATE = 4)
    (allowed : s.rshAllowed core d) : ∃ (t : State) (r : ReshardSt), exec (.reshardIssue core d) s = .next t ∧ t.coll.rsh = some r ∧ r.core = core ∧ r.d = d ∧
      r.old = s.get .FAB_LAYOUT_CURRENT ∧ r.done = [] ∧ r.slots = [] ∧ r.sentDrain = false ∧ t.get .FAB_RESHARD_STATE = 1 ∧
      t.get .FAB_RESHARD_GROUP = collGroup d ∧ t.get .FAB_LAYOUT_PENDING = collEpoch d ∧ t.get .FAB_LAYOUT_CURRENT = s.get .FAB_LAYOUT_CURRENT ∧
      t.get .FAB_RESHARD_RESUMED = 0 ∧ t.get .FAB_RESHARD_COMMITTED = 0 ∧ t.mem = s.mem ∧ (t.heldOf core kColl).any (fun x => x.d == d) = true := by
  obtain ⟨r, v, rfl, rfl, old, done, slots, sent, shape⟩ := State.rshIssue_begins none_ idle allowed
  obtain ⟨rsh, mem, cores, state, group, pending, current, resumed, committed⟩ := (s.rshTaken r.core r.d).rshBegun_spec r v done
  have run := exec_reshardIssue_new takes perm op newer fun r' under => by
    rw [none_] at under
    cases under
  obtain ⟨held, -⟩ := s.hold_same r.core kColl r.d
  refine ⟨_, r, run.trans (congrArg _ shape), rsh, rfl, rfl, old, done, slots, sent, state, group, pending,
    current.trans (State.hold_layout_get _ _ _ _ (by decide)), resumed, committed, mem.trans held, ?_⟩
  rw [State.heldOf, State.core, cores]
  exact s.hold_holds r.core kColl r.d

end Sys2Proof.Machine

namespace Sys2Proof.Machine

open Sys2Proof

/-! ### FAB_LAYOUT, and commands without a re-shard -/

theorem exec_fabLayoutWrite_idle {s : State} (by_ : Agent) (val : Word) (idle : s.get .FAB_RESHARD_STATE = 0) :
    exec (.fabLayoutWrite by_ val) s = .next (s.set .FAB_LAYOUT_CURRENT (val.toNat % 2 ^ 32)) :=
  congrArg Host.Outcome.next (if_pos idle)

theorem exec_fabLayoutWrite_busy {s : State} (by_ : Agent) (val : Word) (busy : s.get .FAB_RESHARD_STATE ≠ 0) : exec (.fabLayoutWrite by_ val) s = .next s :=
  congrArg Host.Outcome.next (if_neg busy)

/-- Without a re-shard its commands do nothing. -/
theorem exec_reshard_none {s : State} (block : Nat) (none_ : s.coll.rsh = none) :
    ∀ c ∈ [Instr.reshardDrainComplete, .reshardMoveStart, .reshardGrantReceive block, .reshardBlockCommit block, .reshardAckReceive block, .reshardCommit],
      exec c s = .next s := by
  have drain : execReshardDrainComplete s = .next s := by rw [execReshardDrainComplete, none_]
  have move : execReshardMoveStart s = .next s := by rw [execReshardMoveStart, none_]
  have grant : execReshardGrantReceive block s = .next s := by rw [execReshardGrantReceive, none_]
  have commit : execReshardBlockCommit block s = .next s := by rw [execReshardBlockCommit, none_]
  have ack : execReshardAckReceive block s = .next s := by rw [execReshardAckReceive, State.rshAck, none_]
  have ends : execReshardCommit s = .next s := by rw [execReshardCommit, none_]
  intro c listed
  simp only [List.mem_cons, List.not_mem_nil, or_false] at listed
  rcases listed with rfl | rfl | rfl | rfl | rfl | rfl
  · exact drain
  · exact move
  · exact grant
  · exact commit
  · exact ack
  · exact ends

/-! ### Draining (R352, R353) -/

/-- A member's arrival goes out and is held; nothing else changes. -/
theorem State.rshArrive_spec (s : State) (r : ReshardSt) (v : RshView) (phase : Nat) (ok : Bool) : let t := s.rshArrive r v phase ok
    t.mem = s.mem ∧ t.flds = s.flds ∧ (∀ f u i, t.get f u i = s.get f u i) ∧
      t.coll.rsh = some { r with arrivals := r.arrivals ++ [⟨s.ownId, collGroup r.d, phase, s.now, v.digest, ok⟩] } := by
  obtain ⟨fab, stw, out, sent⟩ := s.tc0All_sends (v.members.filter (· != s.ownId)) (.reshard s.ownId (collGroup r.d) phase s.now v.digest ok)
  dsimp only
  rw [State.rshArrive, sent]
  exact ⟨rfl, rfl, fun _ _ _ => rfl, rfl⟩

section Under
variable {s : State} {r : ReshardSt} (under : s.coll.rsh = some r)
include under

theorem exec_reshardDrainComplete_idle (idle : s.get .FAB_RESHARD_STATE ≠ 1 ∨ r.sentDrain = true ∨ s.rshDrained r = false) :
    exec .reshardDrainComplete s = .next s := by
  change execReshardDrainComplete s = _
  rw [execReshardDrainComplete, under]
  exact if_pos (idle.imp_right (Or.imp_right fun h => by rw [h]; rfl))

theorem reshardDrainComplete_arrives (draining : s.get .FAB_RESHARD_STATE = 1) (unsent : r.sentDrain = false) (drained : s.rshDrained r = true) :
    ∃ t : State, exec .reshardDrainComplete s = .next t ∧ t.mem = s.mem ∧ t.flds = s.flds ∧
      t.coll.rsh = some { r with sentDrain := true, arrivals := r.arrivals ++ [⟨s.ownId, collGroup r.d, 0, s.now, (s.rshView r).digest,
        s.planOk (s.rshView r).img r.d (s.rshView r).rank (s.rshView r).members.length true⟩] } := by
  obtain ⟨mem, flds, -, rsh⟩ := s.rshArrive_spec { r with sentDrain := true } (s.rshView r) 0
    (s.planOk (s.rshView r).img r.d (s.rshView r).rank (s.rshView r).members.length true)
  refine ⟨_, ?_, mem, flds, rsh⟩
  change execReshardDrainComplete s = _
  rw [execReshardDrainComplete, under]
  exact if_neg (by simp [draining, unsent, drained])

/-! ### Acknowledgements (R354, R355) -/

theorem exec_reshardAckReceive_idle {block : Nat} (idle : block ∉ (s.rshView r).srcs ∨ block ∈ r.acked) : exec (.reshardAckReceive block) s = .next s := by
  refine congrArg Host.Outcome.next ?_
  rw [State.rshAck, under]
  refine if_neg fun due => ?_
  simp only [List.contains_iff_mem, Bool.not_eq_true', ← Bool.not_eq_true] at due
  exact idle.elim (fun h => h due.1) due.2

theorem exec_reshardAckReceive_due {block : Nat} (src : block ∈ (s.rshView r).srcs) (fresh : block ∉ r.acked) :
    exec (.reshardAckReceive block) s = .next ((s.setRsh (some { r with acked := block :: r.acked })).rshCheck (s.rshView r)) := by
  refine congrArg Host.Outcome.next ?_
  rw [State.rshAck, under]
  exact if_pos (by simp [src, fresh])

end Under

/-- Whether every destination block is committed and every block sent is acknowledged. -/
def RshView.moved (v : RshView) (r : ReshardSt) : Bool := v.dests.all r.done.contains && v.srcs.all r.acked.contains

/-- The progress registers. -/
theorem State.rshProg_spec (s : State) (r : ReshardSt) (v : RshView) : let t := s.rshProg r v
    t.mem = s.mem ∧ t.coll = s.coll ∧ t.get .FAB_RESHARD_COMMITTED = r.done.length % 2 ^ 32 ∧ t.get .FAB_RESHARD_PROG_ACKED = r.acked.length % 2 ^ 32 ∧
      ∀ f u i, f ∉ [Field.FAB_RESHARD_COMMITTED, .FAB_RESHARD_PROG_ACKED, .FAB_RESHARD_PROG_NEXT_DST] → t.get f u i = s.get f u i := by
  have committedWidth : Field.FAB_RESHARD_COMMITTED.width = 32 := rfl
  have ackedWidth : Field.FAB_RESHARD_PROG_ACKED.width = 32 := rfl
  refine ⟨rfl, rfl, ?_, ?_, fun f u i other => ?_⟩
  · simp [State.rshProg, committedWidth]
  · simp [State.rshProg, ackedWidth]
  · simp only [List.mem_cons, List.not_mem_nil, or_false, not_or] at other
    simp [State.rshProg, other]

section Check
variable {s : State} {r : ReshardSt} (v : RshView) (under : s.coll.rsh = some r)
include under

theorem State.rshCheck_stays (early : s.get .FAB_RESHARD_STATE ≠ 2 ∨ v.moved r = false) : s.rshCheck v = s.rshProg r v := by
  obtain ⟨-, -, -, -, get⟩ := s.rshProg_spec r v
  unfold State.rshCheck
  rw [under]
  refine if_neg fun due => ?_
  obtain ⟨moving, dests, srcs⟩ := due
  rw [get _ _ _ (by decide)] at moving
  exact early.elim (fun h => h moving) fun h => absurd h (by rw [RshView.moved, dests, srcs]; decide)

theorem State.rshCheck_commits (moving : s.get .FAB_RESHARD_STATE = 2) (moved : v.moved r = true) :
    s.rshCheck v = (((s.rshProg r v).set .FAB_RESHARD_STATE 3).jour r v 8 (leBytes 1 3)).rshArrive r v 1 true := by
  obtain ⟨-, -, -, -, get⟩ := s.rshProg_spec r v
  obtain ⟨dests, srcs⟩ := Bool.and_eq_true_iff.mp moved
  unfold State.rshCheck
  rw [under]
  exact if_pos ⟨(get _ _ _ (by decide)).trans moving, dests, srcs⟩

end Check

theorem State.jour_spec (s : State) (r : ReshardSt) (v : RshView) (off : Nat) (bs : List Byte) : let t := s.jour r v off bs
    t.coll = s.coll ∧ t.now = s.now ∧ t.ownId = s.ownId ∧ ∀ f u i, t.get f u i = s.get f u i := by
  obtain ⟨m, p, eq⟩ := s.wrDa_eq s.collAgent v.img (collDst r.d + off) bs
  dsimp only
  rw [State.jour, eq]
  exact ⟨rfl, rfl, rfl, fun _ _ _ => rfl⟩

/-- A step of a re-shard that ends with its arrival: STATE and the journal first. -/
def State.rshCommitting (s : State) (r : ReshardSt) (v : RshView) : State := ((s.rshProg r v).set .FAB_RESHARD_STATE 3).jour r v 8 (leBytes 1 3)

theorem State.rshCommitting_spec (s : State) (x : ReshardSt) (v : RshView) : let t := (s.setRsh (some x)).rshCommitting x v
    t.get .FAB_RESHARD_STATE = 3 ∧ t.mem = (s.jour x v 8 (leBytes 1 3)).mem ∧ t.now = s.now ∧ t.ownId = s.ownId := by
  have reads : s.ReadsAs (((s.setRsh (some x)).rshProg x v).set .FAB_RESHARD_STATE 3) := by
    refine ⟨rfl, rfl, rfl, rfl, rfl, rfl, fun f listed u => ?_⟩
    have other : f ≠ .FAB_RESHARD_STATE ∧ f ∉ [Field.FAB_RESHARD_COMMITTED, .FAB_RESHARD_PROG_ACKED, .FAB_RESHARD_PROG_NEXT_DST] := by
      revert f
      decide
    obtain ⟨-, -, -, -, get⟩ := (s.setRsh (some x)).rshProg_spec x v
    exact (State.get_set_ne _ _ _ _ _ _ _ _ (.inl other.1)).trans (get f u 0 other.2)
  obtain ⟨-, now, own, get⟩ := (((s.setRsh (some x)).rshProg x v).set .FAB_RESHARD_STATE 3).jour_spec x v 8 (leBytes 1 3)
  refine ⟨(get ..).trans ?_, ?_, now.trans ?_, own⟩
  · exact (State.get_set_self ..).trans rfl
  · obtain ⟨-, -, mem, -⟩ := reads.wrDa s.collAgent v.img (collDst x.d + 8) (leBytes 1 3)
    exact mem
  · obtain ⟨-, -, -, -, get⟩ := (s.setRsh (some x)).rshProg_spec x v
    exact (State.get_set_ne _ _ _ _ _ _ _ _ (.inl (by decide))).trans (get _ _ _ (by decide))

section Ack
variable {s : State} {r : ReshardSt} (under : s.coll.rsh = some r) {block : Nat} (src : block ∈ (s.rshView r).srcs) (fresh : block ∉ r.acked)
include under src fresh

theorem reshardAckReceive_counts (early : s.get .FAB_RESHARD_STATE ≠ 2 ∨ (s.rshView r).moved { r with acked := block :: r.acked } = false) :
    ∃ t : State, exec (.reshardAckReceive block) s = .next t ∧ t.coll.rsh = some { r with acked := block :: r.acked } ∧ t.mem = s.mem ∧
      t.get .FAB_RESHARD_PROG_ACKED = (r.acked.length + 1) % 2 ^ 32 ∧ t.get .FAB_RESHARD_STATE = s.get .FAB_RESHARD_STATE := by
  obtain ⟨mem, coll, -, acked, get⟩ := (s.setRsh (some { r with acked := block :: r.acked })).rshProg_spec { r with acked := block :: r.acked } (s.rshView r)
  refine ⟨_, (exec_reshardAckReceive_due under src fresh).trans (congrArg _ (State.rshCheck_stays _ rfl early)), ?_, mem, acked, get _ _ _ (by decide)⟩
  rw [coll]
  rfl

theorem reshardAckReceive_commits (moving : s.get .FAB_RESHARD_STATE = 2) (moved : (s.rshView r).moved { r with acked := block :: r.acked } = true) :
    ∃ t : State, exec (.reshardAckReceive block) s = .next t ∧ t.get .FAB_RESHARD_STATE = 3 ∧ t.mem = (s.jour r (s.rshView r) 8 (leBytes 1 3)).mem ∧
      t.coll.rsh = some { r with acked := block :: r.acked, arrivals := r.arrivals ++ [⟨s.ownId, collGroup r.d, 1, s.now, (s.rshView r).digest, true⟩] } := by
  have run := (exec_reshardAckReceive_due under src fresh).trans (congrArg Host.Outcome.next (State.rshCheck_commits _ rfl moving moved))
  obtain ⟨state, mem, now, own⟩ := s.rshCommitting_spec { r with acked := block :: r.acked } (s.rshView r)
  rw [← State.rshCommitting] at run
  generalize (s.setRsh (some { r with acked := block :: r.acked })).rshCommitting { r with acked := block :: r.acked } (s.rshView r) = y at run state mem now own
  obtain ⟨mem', -, get, rsh⟩ := y.rshArrive_spec { r with acked := block :: r.acked } (s.rshView r) 1 true
  refine ⟨_, run, (get ..).trans state, mem'.trans mem, ?_⟩
  rw [rsh, now, own]

end Ack

/-! ### Grants (R354) -/

theorem State.setRsh_readsAs (s : State) (x : Option ReshardSt) : s.ReadsAs (s.setRsh x) := ⟨rfl, rfl, rfl, rfl, rfl, rfl, fun _ _ _ => rfl⟩

theorem State.setRsh_collAgent (s : State) (x : Option ReshardSt) : (s.setRsh x).collAgent = s.collAgent := rfl

theorem State.setRsh_memBusy (s : State) (x : Option ReshardSt) (img : Image) (da n : Nat) : (s.setRsh x).memBusy img da n = s.memBusy img da n := rfl

/-- What a re-shard moves depends on its descriptor and the beat of its issue alone. -/
theorem State.setRsh_rshView (s : State) (x : Option ReshardSt) {r r' : ReshardSt} (beat : r'.beat = r.beat) (d : r'.d = r.d) :
    (s.setRsh x).rshView r' = s.rshView r := by
  have carve : (s.setRsh x).collCarve r.beat = s.collCarve r.beat := rfl
  have grp : (s.setRsh x).collGrp r.beat r.d = s.collGrp r.beat r.d := rfl
  have own : (s.setRsh x).ownId = s.ownId := rfl
  rw [State.rshView, State.rshView, beat, d, State.planBytes, carve, grp, own, (s.setRsh_readsAs x).rdDa, State.planBytes, State.setRsh_collAgent]

theorem State.setRsh_rshBusy (s : State) (x : Option ReshardSt) {r r' : ReshardSt} (d : r'.d = r.d) (v : RshView) (l : List (Nat × Nat)) :
    (s.setRsh x).rshBusy r' v l = s.rshBusy r v l := by
  rw [State.rshBusy, State.rshBusy, d]
  simp only [State.setRsh_memBusy]
theorem exec_reshardGrantReceive {s : State} {r : ReshardSt} (under : s.coll.rsh = some r) (block : Nat) : exec (.reshardGrantReceive block) s =
    .next (if s.get .FAB_RESHARD_STATE = 2 then (s.setRsh (some { r with grants := block :: r.grants })).rshSend (s.rshView r) (s.rshView r).srcs
      else s.setRsh (some { r with grants := block :: r.grants })) := by
  have view : (s.setRsh (some { r with grants := block :: r.grants })).rshView r = s.rshView r := s.setRsh_rshView _ rfl rfl
  have state : (s.setRsh (some { r with grants := block :: r.grants })).get .FAB_RESHARD_STATE = s.get .FAB_RESHARD_STATE := rfl
  change execReshardGrantReceive block s = _
  rw [execReshardGrantReceive, under]
  dsimp only
  rw [view, state]

/-- A block whose grant has come, and that is ready, is sent. -/
theorem State.rshSend_one {s : State} {r : ReshardSt} {v : RshView} {block : Nat} (under : s.coll.rsh = some r) (unsent : block ∉ r.sent) (unacked : block ∉ r.acked)
    (granted : block ∈ r.grants) (ready : s.rshBusy r v [((v.ent block).srcDa, (v.ent block).len)] = false) (whole : r.overwrote v block = false)
    (sound : s.poisonDa s.collAgent v.img (v.ent block).srcDa (v.ent block).len = none) :
    (s.rshSend v [block]).mem = s.mem ∧ (s.rshSend v [block]).coll.rsh = some { r with sent := block :: r.sent } := by
  have known : ¬(r.sent.contains block = true ∨ r.acked.contains block = true) := by simp [unsent, unacked]
  have may : ¬((!r.grants.contains block) = true ∨ s.rshBusy r v [((v.ent block).srcDa, (v.ent block).len)] = true) := by simp [granted, ready]
  unfold State.rshSend
  rw [under]
  dsimp only
  rw [if_neg known, if_neg may, if_neg (ne_true_of_eq_false whole), State.setRsh_collAgent,
    (s.setRsh_readsAs (some { r with sent := block :: r.sent })).poisonDa, sound]
  dsimp only
  have mem : (s.setRsh (some { r with sent := block :: r.sent })).mem = s.mem := rfl
  have rsh : (s.setRsh (some { r with sent := block :: r.sent })).coll.rsh = some { r with sent := block :: r.sent } := rfl
  generalize s.setRsh (some { r with sent := block :: r.sent }) = t at mem rsh
  obtain ⟨fab, stw, out, sent⟩ := t.collSend_sends (v.members.getD (v.ent block).dst 0) (collTc r.d) { collHdr r.d 8 v.rank with shard := block }
    (t.rdDa s.collAgent v.img (v.ent block).srcDa (v.ent block).len)
  rw [sent, State.rshSend]
  exact ⟨mem, rsh⟩

theorem reshardGrantReceive_sends {s : State} {r : ReshardSt} (under : s.coll.rsh = some r) {block : Nat} (moving : s.get .FAB_RESHARD_STATE = 2)
    (only : (s.rshView r).srcs = [block]) (unsent : block ∉ r.sent) (unacked : block ∉ r.acked)
    (ready : s.rshBusy r (s.rshView r) [(((s.rshView r).ent block).srcDa, ((s.rshView r).ent block).len)] = false)
    (whole : r.overwrote (s.rshView r) block = false)
    (sound : s.poisonDa s.collAgent (s.rshView r).img ((s.rshView r).ent block).srcDa ((s.rshView r).ent block).len = none) :
    ∃ t : State, exec (.reshardGrantReceive block) s = .next t ∧ t.mem = s.mem ∧
      t.coll.rsh = some { r with grants := block :: r.grants, sent := block :: r.sent } := by
  refine ⟨_, (exec_reshardGrantReceive under block).trans (congrArg _ (if_pos moving)), ?_⟩
  rw [only]
  generalize s.rshView r = v at ready whole sound ⊢
  have ready' := (s.setRsh_rshBusy (some { r with grants := block :: r.grants }) (r := r) (r' := { r with grants := block :: r.grants }) rfl v _).trans ready
  have sound' := ((s.setRsh_readsAs (some { r with grants := block :: r.grants })).poisonDa s.collAgent v.img (v.ent block).srcDa (v.ent block).len).trans sound
  rw [← State.setRsh_collAgent s (some { r with grants := block :: r.grants })] at sound'
  have mem : (s.setRsh (some { r with grants := block :: r.grants })).mem = s.mem := rfl
  have rsh : (s.setRsh (some { r with grants := block :: r.grants })).coll.rsh = some { r with grants := block :: r.grants } := rfl
  generalize s.setRsh (some { r with grants := block :: r.grants }) = t at ready' sound' mem rsh
  obtain ⟨mem', rsh'⟩ := State.rshSend_one rsh unsent unacked List.mem_cons_self ready' whole sound'
  exact ⟨mem'.trans mem, rsh'⟩

end Sys2Proof.Machine

namespace Sys2Proof.Machine

open Sys2Proof

/-! ### A staged block is committed (R354) -/

theorem exec_reshardBlockCommit {s : State} {r : ReshardSt} (under : s.coll.rsh = some r) (block : Nat) : exec (.reshardBlockCommit block) s =
    .next (if s.get .FAB_RESHARD_STATE = 2 ∧ r.mayCommit (s.rshView r) block ∧
        !s.rshBusy r (s.rshView r) [(((s.rshView r).ent block).dstDa, ((s.rshView r).ent block).len)] then s.rshCommit r (s.rshView r) block else s) := by
  change execReshardBlockCommit block s = _
  rw [execReshardBlockCommit, under]

/-- With every destination block committed no slot is granted. -/
theorem State.rshGrant_full {s : State} {r : ReshardSt} {v : RshView} (under : s.coll.rsh = some r) (full : ∀ i ∈ v.dests, i ∈ r.done) (n : Nat) :
    s.rshGrant v n = s := by
  have nothing : (v.dests.find? fun i => !r.done.contains i && !(r.slots.any fun x => x.2.1 == i)) = none :=
    List.find?_eq_none.mpr fun i listed => by simp [full i listed]
  cases n with
  | zero => rw [State.rshGrant]
  | succ n =>
    unfold State.rshGrant
    rw [under]
    dsimp only
    rw [nothing]

/-- The re-shard once a block lies at its destination: its slot is free, and a block of this member's own needs no acknowledgement. -/
def ReshardSt.landed (r : ReshardSt) (v : RshView) (i : Nat) : ReshardSt :=
  { r with done := i :: r.done, slots := r.slots.filter (fun x => x.2.1 != i), acked := if (v.ent i).src = v.rank then i :: r.acked else r.acked }

/-- A block copied from its slot to its destination, with its record in the journal. -/
def State.rshLand (s : State) (r : ReshardSt) (v : RshView) (i slot : Nat) : State :=
  (s.wrDa s.collAgent v.img (v.ent i).dstDa (s.rdDa s.collAgent v.img (collVec r.d + slot * v.blk) (v.ent i).len)).jourRec r v i 2 slot

theorem State.rshLand_get (s : State) (r : ReshardSt) (v : RshView) (i slot : Nat) (f : Field) (u j : Nat) : (s.rshLand r v i slot).get f u j = s.get f u j := by
  rw [State.rshLand, State.jourRec]
  generalize moved : s.wrDa s.collAgent v.img (v.ent i).dstDa (s.rdDa s.collAgent v.img (collVec r.d + slot * v.blk) (v.ent i).len) = y
  obtain ⟨-, -, -, get⟩ := y.jour_spec r v (64 + 16 * i) (leBytes 1 2 ++ leBytes 1 slot ++ leBytes 6 0 ++ leBytes 8 y.now)
  rw [get, ← moved, State.wrDa_get]

/-- The last block of a member that still waits for an acknowledgement. -/
theorem State.rshCommit_last {s : State} {r : ReshardSt} {v : RshView} {block slot i got : Nat} (staged : r.slots.find? (fun x => x.2.1 == block) = some (slot, i, got))
    (last : ∀ n ∈ v.dests, n ∈ r.done ∨ n = block) (waits : ∃ m ∈ v.srcs, m ∉ r.acked ∧ m ≠ block) : let t := s.rshCommit r v block
    t.mem = (s.rshLand r v block slot).mem ∧ t.get .FAB_RESHARD_STATE = s.get .FAB_RESHARD_STATE ∧ t.get .FAB_RESHARD_COMMITTED = (r.done.length + 1) % 2 ^ 32 ∧
      t.coll.rsh = some (r.landed v block) := by
  have full : ∀ n ∈ v.dests, n ∈ (r.landed v block).done := fun n listed => List.mem_cons.mpr (last n listed).symm
  have unmoved : v.moved (r.landed v block) = false := by
    obtain ⟨m, src, unacked, other⟩ := waits
    rw [RshView.moved, Bool.and_eq_false_iff]
    refine .inr (List.all_eq_false.mpr ⟨m, src, ?_⟩)
    rw [ReshardSt.landed]
    split <;> simp [unacked, other]
  dsimp only
  unfold State.rshCommit
  rw [staged]
  dsimp only
  rw [← State.rshLand, ← ReshardSt.landed]
  have state := s.rshLand_get r v block slot .FAB_RESHARD_STATE 0 0
  generalize s.rshLand r v block slot = y at state ⊢
  have answered : ∃ z : State, (if (v.ent block).src = v.rank then y.setRsh (some (r.landed v block)) else (y.setRsh (some (r.landed v block))).sendPacket
      ⟨0x11, collTc r.d, v.members.getD (v.ent block).src 0, 0, 0, 0, 0, 0, [], none, some { collHdr r.d 9 v.rank with shard := block }, 0, 0, 0⟩) = z ∧
      z.mem = y.mem ∧ z.coll.rsh = some (r.landed v block) ∧ z.get .FAB_RESHARD_STATE = y.get .FAB_RESHARD_STATE := by
    split
    · exact ⟨_, rfl, rfl, rfl, rfl⟩
    · obtain ⟨fab, stw, out, sent⟩ := (y.setRsh (some (r.landed v block))).sendPacket_sends
        ⟨0x11, collTc r.d, v.members.getD (v.ent block).src 0, 0, 0, 0, 0, 0, [], none, some { collHdr r.d 9 v.rank with shard := block }, 0, 0, 0⟩
      exact ⟨_, sent, rfl, rfl, rfl⟩
  obtain ⟨z, eq, mem, rsh, kept⟩ := answered
  change ((State.rshGrant (if (v.ent block).src = v.rank then y.setRsh (some (r.landed v block)) else _) v 2).rshCheck v).mem = _ ∧ _
  rw [eq, State.rshGrant_full rsh full, State.rshCheck_stays v rsh (.inr unmoved)]
  obtain ⟨mem', coll, committed, -, get⟩ := z.rshProg_spec (r.landed v block) v
  exact ⟨mem'.trans mem, ((get _ _ _ (by decide)).trans kept).trans state, committed, by rw [coll, rsh]⟩

end Sys2Proof.Machine

namespace Sys2Proof.Machine

open Sys2Proof

/-! ### MOVING begins, or the re-shard ends refused (R353, R358) -/

theorem State.SameLayout.current {s t : State} (same : s.SameLayout t) : t.get .FAB_LAYOUT_CURRENT = s.get .FAB_LAYOUT_CURRENT := same.get _ (by decide)

theorem State.SameLayout.state {s t : State} (same : s.SameLayout t) : t.get .FAB_RESHARD_STATE = s.get .FAB_RESHARD_STATE := same.get _ (by decide)

/-- A re-shard that ends refused leaves the current layout and no epoch to come. -/
theorem State.rshRefuse_spec (s : State) (r : ReshardSt) (cause rank : Nat) : let t := s.rshRefuse r cause rank
    t.coll.rsh = none ∧ t.get .FAB_RESHARD_STATE = 0 ∧ t.get .FAB_LAYOUT_PENDING = 0 ∧ t.get .FAB_LAYOUT_CURRENT = s.get .FAB_LAYOUT_CURRENT := by
  have halted : s.SameLayout (s.rshHaltEv r cause rank (s.get .FAB_RESHARD_PROG_NEXT_DST)) := (State.SameLayout.refl s).log' ..
  generalize event : s.rshHaltEv r cause rank (s.get .FAB_RESHARD_PROG_NEXT_DST) = y at halted
  have counted : ((((y.setRsh none).set .FAB_RESHARD_STATE 0).set .FAB_LAYOUT_PENDING 0).SameLayout
      ((((y.setRsh none).set .FAB_RESHARD_STATE 0).set .FAB_LAYOUT_PENDING 0).bumpSat .FAB_COLL_REFUSED)) :=
    (State.SameLayout.refl _).set (by decide) ..
  have ended := counted.trans (State.refuse_layout _ r.core kColl r.d)
  dsimp only
  unfold State.rshRefuse
  dsimp only
  rw [event]
  refine ⟨ended.rsh, ?_, ?_, ?_⟩
  · rw [ended.get _ (by decide)]
    exact (State.get_set_ne _ _ _ _ _ _ _ _ (.inl (by decide))).trans (State.get_set_self ..)
  · rw [ended.get _ (by decide)]
    exact State.get_set_self ..
  · rw [ended.get _ (by decide)]
    exact (State.get_set_ne _ _ _ _ _ _ _ _ (.inl (by decide))).trans
      ((State.get_set_ne _ _ _ _ _ _ _ _ (.inl (by decide))).trans halted.current)

/-- A re-shard of descriptor d that moves, with no block committed yet, and the current layout epoch. -/
structure State.RshMoving (d : Desc) (current : Nat) (s : State) : Prop where
  state : s.get .FAB_RESHARD_STATE = 2
  layout : s.get .FAB_LAYOUT_CURRENT = current
  rsh : ∃ x, s.coll.rsh = some x ∧ x.d = d ∧ x.done = []

namespace State.RshMoving
variable {d : Desc} {current : Nat} {s t : State}

theorem same (moving : s.RshMoving d current) (same : s.SameLayout t) : t.RshMoving d current :=
  ⟨same.state.trans moving.state, same.current.trans moving.layout, same.rsh.symm ▸ moving.rsh⟩

theorem setRsh (moving : s.RshMoving d current) (x : ReshardSt) (of : x.d = d) (fresh : x.done = []) : (s.setRsh (some x)).RshMoving d current :=
  ⟨moving.state, moving.layout, x, rfl, of, fresh⟩

theorem jourRec (moving : s.RshMoving d current) (r : ReshardSt) (v : RshView) (i st slot : Nat) : (s.jourRec r v i st slot).RshMoving d current :=
  moving.same ((State.SameLayout.refl s).wrDa ..)

theorem rshStage (moving : s.RshMoving d current) {r : ReshardSt} (of : r.d = d) (fresh : r.done = []) (v : RshView) (i off : Nat) (bs : List Byte) :
    (s.rshStage r v i off bs).RshMoving d current := by
  unfold State.rshStage
  split
  case h_1 => exact moving
  case h_2 slot _ got _ =>
    have stored := (moving.same ((State.SameLayout.refl s).wrDa s.collAgent v.img (collVec r.d + slot * v.blk + off) bs)).setRsh
      { r with slots := r.slots.map fun x => if x.2.1 = i then (slot, i, got + bs.length) else x } of fresh
    dsimp only
    split
    · exact stored.jourRec ..
    · exact stored

theorem rshPart (moving : s.RshMoving d current) {r : ReshardSt} (of : r.d = d) (fresh : r.done = []) (v : RshView) (x : Nat × Nat × Option (List Byte)) :
    (s.rshPart r v x).RshMoving d current := by
  unfold State.rshPart
  split
  case h_1 => exact moving.rshStage of fresh ..
  case h_2 =>
    dsimp only
    split
    · exact moving.same (State.daUe_layout ..)
    · exact moving.rshStage of fresh ..

theorem rshUnstash (moving : s.RshMoving d current) (n : Nat) : (s.rshUnstash n).RshMoving d current := by
  induction n generalizing s with
  | zero => exact moving
  | succ n ih =>
    obtain ⟨r, under, of, fresh⟩ := moving.rsh
    unfold State.rshUnstash
    rw [under]
    dsimp only
    split
    case h_1 => exact moving
    case h_2 x rest _ =>
      have next := (moving.setRsh { r with stash := rest } of fresh).rshPart (r := { r with stash := rest }) of fresh (s.rshView r) x
      generalize (if x.2.2.isNone then ((s.rshView r).ent x.1).len else 0) = len
      split
      · exact moving
      · exact ih next

theorem rshPut (moving : s.RshMoving d current) (x : Nat × Nat × Option (List Byte)) : (s.rshPut x).RshMoving d current := by
  obtain ⟨r, under, of, fresh⟩ := moving.rsh
  unfold State.rshPut
  rw [under]
  exact (moving.setRsh { r with stash := r.stash ++ [x] } of fresh).rshUnstash _

theorem rshGrant (moving : s.RshMoving d current) (v : RshView) (n : Nat) : (s.rshGrant v n).RshMoving d current := by
  induction n generalizing s with
  | zero => exact moving
  | succ n ih =>
    obtain ⟨r, under, of, fresh⟩ := moving.rsh
    unfold State.rshGrant
    rw [under]
    dsimp only
    split
    case h_1 i k _ _ =>
      have granted := moving.setRsh { r with slots := r.slots ++ [(k, i, 0)] } of fresh
      refine ih ?_
      split
      · exact (granted.setRsh { r with slots := r.slots ++ [(k, i, 0)], sent := i :: r.sent } of fresh).rshPut _
      · exact granted.same ((State.SameLayout.refl _).sends (State.sendPacket_sends ..))
    case h_2 => exact moving

theorem rshSend (moving : s.RshMoving d current) (v : RshView) (l : List Nat) : (s.rshSend v l).RshMoving d current := by
  induction l generalizing s with
  | nil => exact moving
  | cons i rest ih =>
    obtain ⟨r, under, of, fresh⟩ := moving.rsh
    have sent := moving.setRsh { r with sent := i :: r.sent } of fresh
    unfold State.rshSend
    rw [under]
    dsimp only
    split
    · exact ih moving
    · split
      · exact moving
      · refine ih ?_
        split
        · exact sent
        · split
          · exact sent.same (State.daUe_layout ..)
          · exact sent.same ((State.SameLayout.refl _).collSend ..)

/-- While a destination block is missing the re-shard goes on moving. -/
theorem rshCheck (moving : s.RshMoving d current) {v : RshView} (some_ : v.dests ≠ []) : (s.rshCheck v).RshMoving d current := by
  obtain ⟨r, under, of, fresh⟩ := moving.rsh
  have unmoved : v.moved r = false := by
    obtain ⟨i, rest, eq⟩ := List.exists_cons_of_ne_nil some_
    rw [RshView.moved, fresh, eq]
    rfl
  rw [State.rshCheck_stays v under (.inr unmoved)]
  obtain ⟨-, coll, -, -, get⟩ := s.rshProg_spec r v
  exact ⟨(get _ _ _ (by decide)).trans moving.state, (get _ _ _ (by decide)).trans moving.layout, r, by rw [coll, under], of, fresh⟩

end State.RshMoving

/-- A re-shard that begins to move, with no journal of an earlier run to take up. -/
theorem State.rshMove_moves {s : State} {r : ReshardSt} (v : RshView) (c : Nat) (under : s.coll.rsh = some r) (fresh : r.done = []) (some_ : v.dests ≠ [])
    (anew : field (s.rdDa s.collAgent v.img (collDst r.d) 64) 0 4 ≠ collEpoch r.d) : (s.rshMove r v c).RshMoving r.d (s.get .FAB_LAYOUT_CURRENT) := by
  unfold State.rshMove
  dsimp only
  rw [if_neg (by simp [anew])]
  have logged : s.SameLayout (s.log' s.fabSrc 0x5013 0 [(2, collGroup r.d), (4, r.old), (4, collEpoch r.d), (4, collLen r.d), (8, c)]) :=
    (State.SameLayout.refl s).log' ..
  generalize s.log' s.fabSrc 0x5013 0 [(2, collGroup r.d), (4, r.old), (4, collEpoch r.d), (4, collLen r.d), (8, c)] = y at logged
  have begun : (y.set .FAB_RESHARD_STATE 2).RshMoving r.d (s.get .FAB_LAYOUT_CURRENT) := by
    refine ⟨?_, (State.get_set_ne _ _ _ _ _ _ _ _ (.inl (by decide))).trans logged.current, r, logged.rsh.trans under, rfl, fresh⟩
    exact (State.get_set_self ..).trans rfl
  generalize y.set .FAB_RESHARD_STATE 2 = z at begun
  have header := begun.same ((State.SameLayout.refl z).wrDa z.collAgent v.img (collDst r.d + 0)
    (leBytes 4 (collEpoch r.d) ++ leBytes 4 r.old ++ leBytes 1 2 ++ leBytes 23 0 ++ v.digest))
  rw [← State.jour] at header
  generalize z.jour r v 0 (leBytes 4 (collEpoch r.d) ++ leBytes 4 r.old ++ leBytes 1 2 ++ leBytes 23 0 ++ v.digest) = w at header
  have records : w.SameLayout ((List.range v.plan.length).foldl (fun s i => s.jourRec r v i (if v.dests.contains i then 0 else 3) 0) w) :=
    State.SameLayout.foldl (fun x _ => (State.SameLayout.refl x).wrDa ..) _ _
  exact ((((header.same records).rshGrant v 2).rshSend v v.srcs).rshCheck some_)

section Start
variable {s : State} {r : ReshardSt} (under : s.coll.rsh = some r)
include under

theorem exec_reshardMoveStart_early (early : s.rshBeat r (s.rshView r) 0 = none) : exec .reshardMoveStart s = .next s := by
  change execReshardMoveStart s = _
  unfold execReshardMoveStart
  rw [under]
  dsimp only
  rw [early]

variable {b : Nat} (all : s.rshBeat r (s.rshView r) 0 = some b)
include all

theorem exec_reshardMoveStart_idle (idle : s.get .FAB_RESHARD_STATE ≠ 1 ∨ s.now < max (collBeat r.d) b ∨ s.rshBusy r (s.rshView r) [] = true) :
    exec .reshardMoveStart s = .next s := by
  change execReshardMoveStart s = _
  unfold execReshardMoveStart
  rw [under]
  dsimp only
  rw [all]
  exact if_pos idle

variable (draining : s.get .FAB_RESHARD_STATE = 1) (due : max (collBeat r.d) b ≤ s.now) (ready : s.rshBusy r (s.rshView r) [] = false)
include draining due ready

theorem reshardMoveStart_refuses (bad : ∃ a ∈ r.arrivals.filter fun a => a.phase == 0, a.ok = false ∨ a.digest ≠ (s.rshView r).digest) :
    ∃ cause rank, exec .reshardMoveStart s = .next (s.rshRefuse r cause rank) := by
  change ∃ cause rank, execReshardMoveStart s = _
  unfold execReshardMoveStart
  rw [under]
  dsimp only
  rw [all]
  dsimp only
  rw [if_neg (by simp [draining, ready, max_le_iff.mp due])]
  split
  · exact ⟨_, _, rfl⟩
  case h_2 okay =>
    split
    · exact ⟨_, _, rfl⟩
    case h_2 equal =>
      obtain ⟨a, listed, fault⟩ := bad
      have ok := List.find?_eq_none.mp okay a listed
      have digest := List.find?_eq_none.mp equal a listed
      simp only [Bool.not_eq_true, Bool.not_eq_false', bne_eq_false_iff_eq] at ok digest
      exact fault.elim (fun h => absurd ok (by simp [h])) fun h => absurd digest h

theorem reshardMoveStart_moves (good : ∀ a ∈ r.arrivals.filter fun a => a.phase == 0, a.ok = true ∧ a.digest = (s.rshView r).digest) :
    exec .reshardMoveStart s = .next (s.rshMove r (s.rshView r) (max (collBeat r.d) b)) := by
  have okay : (r.arrivals.filter fun a => a.phase == 0).find? (fun a => !a.ok) = none :=
    List.find?_eq_none.mpr fun a listed => by simp [(good a listed).1]
  have equal : (r.arrivals.filter fun a => a.phase == 0).find? (fun a => a.digest != (s.rshView r).digest) = none :=
    List.find?_eq_none.mpr fun a listed => by simp [(good a listed).2]
  change execReshardMoveStart s = _
  unfold execReshardMoveStart
  rw [under]
  dsimp only
  rw [all]
  dsimp only
  rw [if_neg (by simp [draining, ready, max_le_iff.mp due]), okay]
  dsimp only
  rw [equal]

end Start

end Sys2Proof.Machine

namespace Sys2Proof.Machine

open Sys2Proof

/-! ### The commit of the new layout (R355) -/

theorem filter_dropHeld (kind : Nat) (d : Desc) (l : List Held) :
    (dropHeld kind d l).filter (fun h => h.kind == kind) = (l.filter fun h => h.kind == kind).eraseP fun h => h.d == d := by
  induction l with
  | nil => rfl
  | cons h l ih =>
    unfold dropHeld
    by_cases of : h.kind = kind
    · by_cases this : h.d = d
      · simp [of, this]
      · simp [of, this, ih]
    · simp [of, ih]

theorem State.core_setCore_ne (s : State) {c k : Nat} (x : CoreSt) (other : k ≠ c) : (s.setCore c x).core k = s.core k := KMap.get_set_ne _ _ _ _ _ other

/-- What a core of its own holds once a descriptor completes. -/
theorem State.complete_heldOf {s : State} {core kind : Nat} (d : Desc) (own : ¬(kind = kHsk ∨ kind = kUpd)) (waits : (s.core core).accWait = [])
    (runs : (s.core core).stall = none) (k : Nat) :
    (s.complete core kind d).heldOf k kind = if k = core then (s.heldOf core kind).eraseP fun h => h.d == d else s.heldOf k kind := by
  have alone : sharers core kind = [core] := if_neg own
  have gone : (s.heldGone core kind d).core core = { s.core core with held := dropHeld kind d (s.core core).held } := by
    rw [State.heldGone, State.syncKind_core, State.syncMxe_core, State.core_setCore]
  have others : ∀ k, k ≠ core → (s.heldGone core kind d).core k = s.core k := fun k other => by
    rw [State.heldGone, State.syncKind_core, State.syncMxe_core, State.core_setCore_ne _ _ other]
  generalize left : s.heldGone core kind d = y at gone others
  have idle : (y.core core).accWait = [] := by rw [gone]; exact waits
  have running : ((y.setCore core { y.core core with accWait := [] }).core core).stall = none := by
    rw [State.core_setCore, gone]
    exact runs
  rw [State.complete, State.unhold, ← State.heldGone.eq_def, left, alone, List.foldl_cons, List.foldl_nil, State.drainAcc_idle idle, State.unstall_idle running]
  dsimp only
  by_cases this : k = core
  · subst this
    rw [if_pos rfl, State.heldOf, State.core_setCore, State.core_setCore, gone]
    exact filter_dropHeld ..
  · rw [if_neg this, State.heldOf, State.core_setCore_ne _ _ this, State.core_setCore_ne _ _ this, others k this]
    rfl

/-- With no collective held nothing waits for the new layout. -/
theorem State.rshRelease_none {s : State} (nothing : ∀ k < 1024, s.heldOf k kColl = []) : s.rshRelease = s := by
  have each : ∀ l : List Nat, (∀ k ∈ l, s.heldOf k kColl = []) → l.foldl (fun s c =>
      match s.heldOf c kColl with
      | h :: _ => if collOp h.d = 4 ∧ collEpoch h.d ≠ s.get .FAB_LAYOUT_CURRENT then s else s.collStart c h.d
      | [] => s) s = s := fun l => by
    induction l with
    | nil => exact fun _ => rfl
    | cons k l ih =>
      intro all
      rw [List.foldl_cons, all k List.mem_cons_self]
      exact ih fun k listed => all k (List.mem_cons_of_mem _ listed)
  exact each _ fun k listed => nothing k (List.mem_range.mp listed)

section Commit
variable {s : State} {r : ReshardSt} (under : s.coll.rsh = some r)
include under

theorem exec_reshardCommit_early (early : s.rshBeat r (s.rshView r) 1 = none) : exec .reshardCommit s = .next s := by
  change execReshardCommit s = _
  unfold execReshardCommit
  rw [under]
  dsimp only
  rw [early]

variable {c : Nat} (all : s.rshBeat r (s.rshView r) 1 = some c)
include all

theorem exec_reshardCommit_idle (idle : s.get .FAB_RESHARD_STATE ≠ 3 ∨ s.now < c) : exec .reshardCommit s = .next s := by
  change execReshardCommit s = _
  unfold execReshardCommit
  rw [under]
  dsimp only
  rw [all]
  exact if_pos idle

end Commit

/-- The new layout is current: the journal, the registers and the event. -/
def State.rshCommitted (s : State) (r : ReshardSt) (v : RshView) (c : Nat) : State :=
  let s := (s.jour r v 8 (leBytes 1 0)).setRsh none
  let s := ((s.set .FAB_LAYOUT_CURRENT (collEpoch r.d)).set .FAB_LAYOUT_PENDING 0).set .FAB_RESHARD_STATE 0 |>.irq 9
  s.log' s.fabSrc 0x5014 0 [(2, collGroup r.d), (4, collEpoch r.d), (8, c), (4, r.done.length)]

theorem State.rshCommitted_spec (s : State) (r : ReshardSt) (v : RshView) (c : Nat) : let t := s.rshCommitted r v c
    t.coll.rsh = none ∧ t.get .FAB_LAYOUT_CURRENT = collEpoch r.d ∧ t.get .FAB_LAYOUT_PENDING = 0 ∧ t.get .FAB_RESHARD_STATE = 0 ∧
      t.mem = (s.jour r v 8 (leBytes 1 0)).mem ∧ ∀ k, t.core k = s.core k := by
  have width : Field.FAB_LAYOUT_CURRENT.width = 32 := rfl
  have epoch : collEpoch r.d < 2 ^ 32 := bits_lt ..
  have cores : (s.jour r v 8 (leBytes 1 0)).cores = s.cores := by
    obtain ⟨m, p, eq⟩ := s.wrDa_eq s.collAgent v.img (collDst r.d + 8) (leBytes 1 0)
    rw [State.jour, eq]
  unfold State.rshCommitted
  dsimp only
  generalize s.jour r v 8 (leBytes 1 0) = y at cores ⊢
  have same : ∀ u : State, u.SameLayout ((u.irq 9).log' (u.irq 9).fabSrc 0x5014 0 [(2, collGroup r.d), (4, collEpoch r.d), (8, c), (4, r.done.length)]) :=
    fun u => ((State.SameLayout.refl u).irq 9 false).log' ..
  refine ⟨(same _).rsh, ?_, ?_, ?_, ?_, fun k => ?_⟩
  · rw [(same _).get _ (by decide), State.get_set_ne _ _ _ _ _ _ _ _ (.inl (by decide)), State.get_set_ne _ _ _ _ _ _ _ _ (.inl (by decide)), State.get_set_self,
      width, Nat.mod_eq_of_lt epoch]
  · rw [(same _).get _ (by decide), State.get_set_ne _ _ _ _ _ _ _ _ (.inl (by decide)), State.get_set_self]
    rfl
  · rw [(same _).get _ (by decide), State.get_set_self]
    rfl
  · rw [State.log'_mem, State.irq_mem]
    rfl
  · rw [State.core, State.log'_cores, State.irq_cores]
    exact congrArg (fun m => KMap.get m k CoreSt.init) cores

theorem reshardCommit_commits {s : State} {r : ReshardSt} (under : s.coll.rsh = some r) {c : Nat} (all : s.rshBeat r (s.rshView r) 1 = some c)
    (committing : s.get .FAB_RESHARD_STATE = 3) (due : c ≤ s.now) : ∃ t : State, exec .reshardCommit s = .next t ∧ t.coll.rsh = none ∧
      t.get .FAB_LAYOUT_CURRENT = collEpoch r.d ∧ t.get .FAB_LAYOUT_PENDING = 0 ∧ t.get .FAB_RESHARD_STATE = 0 ∧
      ((∀ k < 1024, ∀ x ∈ s.heldOf k kColl, s.heldOf k kColl = [x] ∧ k = r.core ∧ x.d = r.d) → (s.core r.core).accWait = [] → (s.core r.core).stall = none →
        t.mem = (s.jour r (s.rshView r) 8 (leBytes 1 0)).mem) := by
  have run : exec .reshardCommit s = .next (((s.rshCommitted r (s.rshView r) c).complete r.core kColl r.d).rshRelease) := by
    change execReshardCommit s = _
    unfold execReshardCommit
    rw [under]
    dsimp only
    rw [all]
    exact if_neg (by simp [committing, due])
  obtain ⟨rsh, current, pending, state, mem, core⟩ := s.rshCommitted_spec r (s.rshView r) c
  generalize s.rshCommitted r (s.rshView r) c = y at run rsh current pending state mem core
  have ended := (y.complete_layout r.core kColl r.d).trans (State.rshRelease_layout _)
  refine ⟨_, run, ended.rsh.trans rsh, ended.current.trans current, (ended.get _ (by decide)).trans pending, ended.state.trans state, fun alone waits runs => ?_⟩
  have own : ¬(kColl = kHsk ∨ kColl = kUpd) := by decide
  have held : ∀ k, y.heldOf k kColl = s.heldOf k kColl := fun k => by rw [State.heldOf, core, State.heldOf]
  rw [← core] at waits runs
  have nothing : ∀ k < 1024, (y.complete r.core kColl r.d).heldOf k kColl = [] := fun k part => by
    rw [State.complete_heldOf r.d own waits runs]
    split
    case isTrue this =>
      subst this
      rw [held]
      cases list : s.heldOf r.core kColl with
      | nil => rfl
      | cons x rest =>
        obtain ⟨one, -, of⟩ := alone r.core part x (by rw [list]; exact List.mem_cons_self)
        rw [← list, one]
        simp [of]
    case isFalse other =>
      rw [held]
      exact List.eq_nil_iff_forall_not_mem.mpr fun x listed => other (alone k part x listed).2.1
  obtain ⟨complete, -⟩ := State.complete_same r.d own waits
  rw [State.rshRelease_none nothing, complete, mem]

end Sys2Proof.Machine

namespace Sys2Proof.Machine

open Sys2Proof

/-! ### O40 itself -/

/-- Another re-shard than the one under way is refused for its epoch. -/
theorem reshardIssue_second {s : State} {r : ReshardSt} {core : Nat} {d : Desc} (takes : s.unitTakes core kColl d = true) (perm : descClass d = 8) (op : collOp d = 4)
    (newer : collEpoch d ≠ s.get .FAB_LAYOUT_CURRENT) (under : s.coll.rsh = some r) (third : collEpoch r.d ≠ collEpoch d)
    (moving : s.get .FAB_RESHARD_STATE = 1 ∨ s.get .FAB_RESHARD_STATE = 2 ∨ s.get .FAB_RESHARD_STATE = 3) :
    exec (.reshardIssue core d) s = .next ((s.hold core kColl d).epochRefuse core d (s.get .FAB_LAYOUT_CURRENT) (collEpoch d) s.ownId) := by
  have others : (s.coll.rsh.any fun x => x.core == core && x.d == d) = false := by
    have differs : r.d ≠ d := fun same => third (congrArg collEpoch same)
    rw [under]
    simp [differs]
  have run := exec_reshardIssue_new takes perm op newer fun x same => by
    rw [under, Option.some.injEq] at same
    exact same ▸ third
  rw [run, State.rshIssue_second others moving]

/-- A re-shard with a field that R350 does not allow is refused. -/
theorem reshardIssue_refuses {s : State} {core : Nat} {d : Desc} (takes : s.unitTakes core kColl d = true) (perm : descClass d = 8) (op : collOp d = 4)
    (newer : collEpoch d ≠ s.get .FAB_LAYOUT_CURRENT) (none_ : s.coll.rsh = none) (idle : s.get .FAB_RESHARD_STATE = 0 ∨ s.get .FAB_RESHARD_STATE = 4)
    (bad : ¬s.rshAllowed core d) : exec (.reshardIssue core d) s = .next ((s.hold core kColl d).collRefuse core d 3 0) := by
  have run := exec_reshardIssue_new takes perm op newer fun x same => by
    rw [none_] at same
    cases same
  rw [run, State.rshIssue_refuses none_ idle bad]

/-- A grant, a commit of a block and an acknowledgement do nothing, or only note the grant, where the re-shard cannot go on. -/
theorem reshard_waits {s : State} {r : ReshardSt} (under : s.coll.rsh = some r) (block : Nat) : let v := s.rshView r
    (s.get .FAB_RESHARD_STATE ≠ 2 → exec (.reshardGrantReceive block) s = .next (s.setRsh (some { r with grants := block :: r.grants }))) ∧
    (s.get .FAB_RESHARD_STATE ≠ 2 ∨ r.mayCommit v block = false ∨ s.rshBusy r v [((v.ent block).dstDa, (v.ent block).len)] = true →
      exec (.reshardBlockCommit block) s = .next s) := by
  refine ⟨fun other => (exec_reshardGrantReceive under block).trans (congrArg _ (if_neg other)), fun idle =>
    (exec_reshardBlockCommit under block).trans (congrArg _ (if_neg ?_))⟩
  rintro ⟨moving, may, ready⟩
  rcases idle with other | not | busy
  · exact other moving
  · rw [not] at may
    cases may
  · rw [busy] at ready
    cases ready

/-- The last destination block is committed while an acknowledgement is missing. -/
theorem reshardBlockCommit_last {s : State} {r : ReshardSt} (under : s.coll.rsh = some r) {block slot i got : Nat} (moving : s.get .FAB_RESHARD_STATE = 2)
    (may : r.mayCommit (s.rshView r) block = true)
    (ready : s.rshBusy r (s.rshView r) [(((s.rshView r).ent block).dstDa, ((s.rshView r).ent block).len)] = false)
    (staged : r.slots.find? (fun x => x.2.1 == block) = some (slot, i, got)) : (∃ t : State, exec (.reshardBlockCommit block) s = .next t) ∧
      ((∀ n ∈ (s.rshView r).dests, n ∈ r.done ∨ n = block) → (∃ m ∈ (s.rshView r).srcs, m ∉ r.acked ∧ m ≠ block) →
        ∃ t : State, exec (.reshardBlockCommit block) s = .next t ∧ t.mem = (s.rshLand r (s.rshView r) block slot).mem ∧ t.get .FAB_RESHARD_STATE = 2 ∧
          t.get .FAB_RESHARD_COMMITTED = (r.done.length + 1) % 2 ^ 32 ∧ t.coll.rsh = some (r.landed (s.rshView r) block)) := by
  have run := (exec_reshardBlockCommit under block).trans (congrArg Host.Outcome.next (if_pos ⟨moving, may, by rw [ready]; rfl⟩))
  refine ⟨⟨_, run⟩, fun last waits => ?_⟩
  obtain ⟨mem, state, committed, rsh⟩ := State.rshCommit_last (s := s) staged last waits
  exact ⟨_, run, mem, state.trans moving, committed, rsh⟩

/-- Settles O40: each command of a re-shard by the state it stands in; the collectives that a commit releases keep the layout (`State.rshRelease_layout`), and a
re-shard that begins to move keeps a destination block missing (`State.RshMoving`). -/
theorem reshardMovesToItsNewEpoch : Obligations.ReshardMovesToItsNewEpoch := by
  unfold Obligations.ReshardMovesToItsNewEpoch
  refine ⟨fun s core d takes => ?_, fun s by_ val => ⟨exec_fabLayoutWrite_idle by_ val, exec_fabLayoutWrite_busy by_ val⟩, fun s block none_ => exec_reshard_none block none_,
    fun s r block under => ?_⟩
  · exact ⟨exec_reshardIssue_otherRow takes, fun perm op newer none_ idle => ⟨reshardIssue_refuses takes perm op newer none_ idle, reshardIssue_begins takes perm op newer none_ idle⟩,
      fun r perm op newer under third moving => reshardIssue_second takes perm op newer under third moving⟩
  · obtain ⟨noted, idle⟩ := reshard_waits under block
    refine ⟨exec_reshardDrainComplete_idle under, reshardDrainComplete_arrives under, exec_reshardMoveStart_early under, fun b all =>
      ⟨exec_reshardMoveStart_idle under all, fun draining due ready => ⟨fun bad => ?_, fun good fresh some_ anew => ?_⟩⟩, noted,
      reshardGrantReceive_sends under, idle, fun moving may ready slot i got staged => reshardBlockCommit_last under moving may ready staged,
      exec_reshardAckReceive_idle under, fun src fresh => ⟨reshardAckReceive_counts under src fresh, reshardAckReceive_commits under src fresh⟩,
      exec_reshardCommit_early under, fun c all => ⟨exec_reshardCommit_idle under all, reshardCommit_commits under all⟩⟩
    · obtain ⟨cause, rank, run⟩ := reshardMoveStart_refuses under all draining due ready bad
      exact ⟨_, run, s.rshRefuse_spec r cause rank⟩
    · have moves := State.rshMove_moves (s.rshView r) (max (collBeat r.d) b) under fresh some_ anew
      exact ⟨_, reshardMoveStart_moves under all draining due ready good, moves.state, moves.layout, moves.rsh⟩

end Sys2Proof.Machine
